-- ==== Sys2Proof/Word.lean ====
section
/-! DEFINITION. The word types of 00 section 0.4 and the keyed lists in which sparse data is held. -/
namespace Sys2Proof

/-- A word is 24 bits (00 section 0.4). -/
abbrev Word := BitVec 24
/-- A double word is 48 bits (00 section 0.4). -/
abbrev DWord := BitVec 48
/-- A byte is 8 bits (00 section 0.4). -/
abbrev Byte := BitVec 8
/-- A physical word address (03 R71): 36 bits. -/
abbrev PAddr := BitVec 36

/-- A core that executes instructions: a Voice core or the Conductor (04 R146). -/
inductive Core where
  | voice (c : Fin 12)
  | conductor
deriving DecidableEq, Repr

/-- The DMA engines, in the order of 03 R93; `duetTx` is the requester and responder of the Duet link and `stream` the
Refrain stream engine, which only read. -/
inductive DmaEngine where
  | eth (n : Fin 2)
  | can (n : Fin 4)
  | xspi
  | trace
  | duetTx
  | stream
deriving DecidableEq, Repr

/-- The initiators of accesses to registers and memory (03 R93). -/
inductive Initiator where
  | conductor
  | debug
  | landing
  | dma (k : DmaEngine)
  | voice (c : Fin 12)
deriving DecidableEq, Repr

/-- Sparse data by number: keys strictly rising, one entry for each key. -/
abbrev Tbl (α : Type) := List (Nat × α)

/-- The entry of key `k`. -/
def Tbl.find {α : Type} : Tbl α → Nat → Option α
  | [], _ => none
  | (j, x) :: t, k => if k = j then some x else if k < j then none else Tbl.find t k

/-- The entry of key `k`, or `d` where none is held. -/
def Tbl.get {α : Type} (t : Tbl α) (k : Nat) (d : α) : α := (Tbl.find t k).getD d

/-- The table with the entry of key `k` replaced or inserted. -/
def Tbl.put {α : Type} : Tbl α → Nat → α → Tbl α
  | [], k, x => [(k, x)]
  | (j, y) :: t, k, x =>
    if k = j then (k, x) :: t else if k < j then (k, x) :: (j, y) :: t else (j, y) :: Tbl.put t k x

/-- The table without the entry of key `k`. -/
def Tbl.del {α : Type} : Tbl α → Nat → Tbl α
  | [], _ => []
  | (j, y) :: t, k => if k = j then t else if k < j then (j, y) :: t else (j, y) :: Tbl.del t k

end Sys2Proof
end

