-- ==== Sys2Proof/Syntax.lean ====
section
/-! DEFINITION. The commands of the block: one constructor for each row of the table of operations and events, with the
operands that the row's rule names. -/
namespace Sys2Proof

/-- Where an error arises in a cache: an L1 of a core, a way of a section's L2, a way of an L3 slice (06 Table 6.1). -/
inductive CacheSite where
  | l1i (c : Fin 12)
  | l1d (c : Fin 12)
  | l2 (s : Fin 3) (w : Fin 9)
  | l3 (n : Fin 4) (w : Fin 17)
deriving DecidableEq, Repr

/-- The translation caches of a core (07 Table 7.8). -/
inductive TlbArray where
  | itlb | dtlb | l2tlb | walk
deriving DecidableEq, Repr

/-- An upset that the environment causes and the access of the command meets: bits of a DRAM beat flip (09 R341; bits
[71:0] data, [79:72] check); an error in a cache's data, tag or state (06 R207 to R210, R848); a parity error in a core's
translation caches (07 R274), in entry `n` of one of them; an error in a line that Echo holds (09 R854), uncorrectable
or not; an error in a Stage SRAM, Conductor SRAM or landing SRAM word (15 Table 15.3 class 0x9, instances 0 to 2); a corrected read of
on-chip flash (class 0x8); a parity error in word `i` of a section's trace buffer, which reads as 0 from then on (16 section 16.3). -/
inductive Upset where
  | dram (word : PAddr) (bits : BitVec 80)
  | cacheCe (site : CacheSite)
  | cacheUe (site : CacheSite) (word : PAddr)
  | tagUe (site : CacheSite) (line : Nat)
  | tlb (c : Fin 12) (x : TlbArray) (n : Nat)
  | echo (line : Nat) (off : Fin 24) (ue : Bool)
  | sram (n : Fin 3) (ue : Bool)
  | flash (n : Fin 3)
  | trace (sec : Fin 3) (i : Nat)
deriving DecidableEq, Repr

/-- What surrounds one instruction: the payload of an EXT before it (04 R112), the upsets its accesses meet, and the word that the
core finds in its place where memory holds no instruction there (04 R110, R113). -/
structure Fetch where
  ext  : Option (BitVec 18)
  ups  : List Upset
  word : Option Word
deriving DecidableEq, Repr

/-- An instruction without EXT and without upsets. -/
def Fetch.plain : Fetch := { ext := none, ups := [], word := none }

/-- The header of a command packet (10 R386, R387): the ring it comes in (0 to 15 Voice, 16 partner, 17 debug), its
flags and its tag. -/
structure Header where
  ring  : BitVec 5
  flags : BitVec 4
  tag   : Word
deriving DecidableEq, Repr

/-- A received flit (13 Table 13.4) but for the channel and type, which the row names: sequence, NW, the 22 payload words,
the CRC word, and whether it overlaps an uncorrectable codeword (R543). `pair` is the CH and FT pair of its header where that is
not the row's: Table 13.5 then lists no such flit, and R542 discards it. -/
structure RxFlit where
  seq    : BitVec 12
  nw     : BitVec 5
  words  : List Word
  crc    : Word
  uncorr : Bool
  pair   : Option (BitVec 2 × BitVec 3) := none
deriving DecidableEq, Repr

/-- How initialisation ends (09 Table 9.10, R857): with READY, or with a training step failed. -/
inductive InitOutcome where
  | ready
  | trainFail
deriving DecidableEq, Repr

/-- A way-map register (06 Table 6.5). -/
inductive WayReg where
  | l2ways (s : Fin 3)
  | l3en (n : Fin 4)
  | l3iso (n : Fin 4)
deriving DecidableEq, Repr

/-- What the environment decides at the end of a long command: an uncorrectable read of the source, a fuse row that fails
to program, an xSPI device error. -/
structure FinalEnv where
  readErr : Bool
  fuseErr : Bool
deriving DecidableEq, Repr

/-- A CAN frame on the bus (17 section 17.4): identifier, IDE, FD, BRS, ESI, RTR, payload. -/
structure CanFrame where
  id   : BitVec 29
  ide  : Bool
  fd   : Bool
  brs  : Bool
  esi  : Bool
  rtr  : Bool
  data : List Byte
deriving DecidableEq, Repr

/-- How a frame that a controller sends ends on the bus (17 R714, R716): sent, arbitration lost, or an error frame. -/
inductive CanOutcome where
  | sent
  | arbLost
  | error
deriving DecidableEq, Repr

/-- How the external flash carries out an operation (17 R721, Table 17.9): with an error or without, and for how many ns the engine polls it
busy. -/
structure XOutcome where
  error : Bool
  busy  : Nat
deriving DecidableEq, Repr

/-- Codewords with errors that a lane receives at once (13 R557, R576): those that the FEC cannot correct, and those that it corrects. -/
structure Codewords where
  uncorrectable : Nat
  corrected     : Nat
deriving DecidableEq, Repr

/-- The last parameter of RELEASE_AUTH, and of which images a read meets an uncorrectable error (11 R477, R474). -/
structure AuthTail where
  resv : Word
  bad  : BitVec 4
deriving DecidableEq, Repr

/-- A wake event (19 R777): a WAKEn_N pin, the alarm, or a GPIO pin with the level it takes. -/
inductive WakeEvent where
  | pin (n : Fin 4)
  | alarm
  | gpio (n : Fin 64) (level : Bool)
deriving DecidableEq, Repr

/-- The commands. An instruction row names the core that executes it, what surrounds it, and its fields as encoded (04
Table 4.2); a register row names the initiator; a command packet carries its header and parameters; an event carries what
the outside decides. `dt` is the Tempo counts that pass before an outside event. -/
inductive Instr where
  /-- ADD (R117). -/
  | addW (k : Core) (f : Fetch) (rd rs1 rs2 : BitVec 5)
  /-- SUB (R117). -/
  | subW (k : Core) (f : Fetch) (rd rs1 rs2 : BitVec 5)
  /-- AND (R117). -/
  | andW (k : Core) (f : Fetch) (rd rs1 rs2 : BitVec 5)
  /-- OR (R117). -/
  | orW (k : Core) (f : Fetch) (rd rs1 rs2 : BitVec 5)
  /-- XOR (R117). -/
  | xorW (k : Core) (f : Fetch) (rd rs1 rs2 : BitVec 5)
  /-- SLT (R117). -/
  | slt (k : Core) (f : Fetch) (rd rs1 rs2 : BitVec 5)
  /-- SLTU (R117). -/
  | sltu (k : Core) (f : Fetch) (rd rs1 rs2 : BitVec 5)
  /-- NOR (R117). -/
  | norW (k : Core) (f : Fetch) (rd rs1 rs2 : BitVec 5)
  /-- SLL (R117). -/
  | sll (k : Core) (f : Fetch) (rd rs1 rs2 : BitVec 5)
  /-- SRL (R117). -/
  | srl (k : Core) (f : Fetch) (rd rs1 rs2 : BitVec 5)
  /-- SRA (R117). -/
  | sra (k : Core) (f : Fetch) (rd rs1 rs2 : BitVec 5)
  /-- ROL (R117). -/
  | rol (k : Core) (f : Fetch) (rd rs1 rs2 : BitVec 5)
  /-- MIN (R117). -/
  | minS (k : Core) (f : Fetch) (rd rs1 rs2 : BitVec 5)
  /-- MAX (R117). -/
  | maxS (k : Core) (f : Fetch) (rd rs1 rs2 : BitVec 5)
  /-- MINU (R117). -/
  | minu (k : Core) (f : Fetch) (rd rs1 rs2 : BitVec 5)
  /-- MAXU (R117). -/
  | maxu (k : Core) (f : Fetch) (rd rs1 rs2 : BitVec 5)
  /-- MUL (R117). -/
  | mulW (k : Core) (f : Fetch) (rd rs1 rs2 : BitVec 5)
  /-- MULH (R117). -/
  | mulh (k : Core) (f : Fetch) (rd rs1 rs2 : BitVec 5)
  /-- MULHU (R117). -/
  | mulhu (k : Core) (f : Fetch) (rd rs1 rs2 : BitVec 5)
  /-- MULW (R117). -/
  | mulw (k : Core) (f : Fetch) (rd rs1 rs2 : BitVec 5)
  /-- DIV (R117). -/
  | divS (k : Core) (f : Fetch) (rd rs1 rs2 : BitVec 5)
  /-- DIVU (R117). -/
  | divu (k : Core) (f : Fetch) (rd rs1 rs2 : BitVec 5)
  /-- REM (R117). -/
  | remS (k : Core) (f : Fetch) (rd rs1 rs2 : BitVec 5)
  /-- REMU (R117). -/
  | remu (k : Core) (f : Fetch) (rd rs1 rs2 : BitVec 5)
  /-- ADDI (R114). -/
  | addi (k : Core) (f : Fetch) (rd rs1 : BitVec 5) (imm : BitVec 8)
  /-- ANDI (R111). -/
  | andi (k : Core) (f : Fetch) (rd rs1 : BitVec 5) (imm : BitVec 8)
  /-- ORI (R111). -/
  | ori (k : Core) (f : Fetch) (rd rs1 : BitVec 5) (imm : BitVec 8)
  /-- XORI (R111). -/
  | xori (k : Core) (f : Fetch) (rd rs1 : BitVec 5) (imm : BitVec 8)
  /-- SLTI (R111). -/
  | slti (k : Core) (f : Fetch) (rd rs1 : BitVec 5) (imm : BitVec 8)
  /-- SLTIU (R111). -/
  | sltiu (k : Core) (f : Fetch) (rd rs1 : BitVec 5) (imm : BitVec 8)
  /-- SLLI (R117). -/
  | slli (k : Core) (f : Fetch) (rd rs1 : BitVec 5) (imm : BitVec 8)
  /-- SRLI (R117). -/
  | srli (k : Core) (f : Fetch) (rd rs1 : BitVec 5) (imm : BitVec 8)
  /-- SRAI (R117). -/
  | srai (k : Core) (f : Fetch) (rd rs1 : BitVec 5) (imm : BitVec 8)
  /-- ROLI (R117). -/
  | roli (k : Core) (f : Fetch) (rd rs1 : BitVec 5) (imm : BitVec 8)
  /-- ADD_D (R117). -/
  | addD (k : Core) (f : Fetch) (rd rs1 rs2 : BitVec 5)
  /-- SUB_D (R117). -/
  | subD (k : Core) (f : Fetch) (rd rs1 rs2 : BitVec 5)
  /-- AND_D (R117). -/
  | andD (k : Core) (f : Fetch) (rd rs1 rs2 : BitVec 5)
  /-- OR_D (R117). -/
  | orD (k : Core) (f : Fetch) (rd rs1 rs2 : BitVec 5)
  /-- XOR_D (R117). -/
  | xorD (k : Core) (f : Fetch) (rd rs1 rs2 : BitVec 5)
  /-- SLT_D (R117). -/
  | sltD (k : Core) (f : Fetch) (rd rs1 rs2 : BitVec 5)
  /-- SLTU_D (R117). -/
  | sltuD (k : Core) (f : Fetch) (rd rs1 rs2 : BitVec 5)
  /-- SLL_D (R117). -/
  | sllD (k : Core) (f : Fetch) (rd rs1 rs2 : BitVec 5)
  /-- SRL_D (R117). -/
  | srlD (k : Core) (f : Fetch) (rd rs1 rs2 : BitVec 5)
  /-- SRA_D (R117). -/
  | sraD (k : Core) (f : Fetch) (rd rs1 rs2 : BitVec 5)
  /-- SEXT_D (R117). -/
  | sextD (k : Core) (f : Fetch) (rd rs1 rs2 : BitVec 5)
  /-- ZEXT_D (R117). -/
  | zextD (k : Core) (f : Fetch) (rd rs1 rs2 : BitVec 5)
  /-- PACK_D (R117). -/
  | packD (k : Core) (f : Fetch) (rd rs1 rs2 : BitVec 5)
  /-- ADDI_D (R117). -/
  | addiD (k : Core) (f : Fetch) (rd rs1 : BitVec 5) (imm : BitVec 8)
  /-- PADD_B (R118). -/
  | paddB (k : Core) (f : Fetch) (rd rs1 rs2 : BitVec 5)
  /-- PADDI_B (R118). -/
  | paddiB (k : Core) (f : Fetch) (rd rs1 : BitVec 5) (imm : BitVec 8)
  /-- PSUB_B (R118). -/
  | psubB (k : Core) (f : Fetch) (rd rs1 rs2 : BitVec 5)
  /-- PIDX (R118). -/
  | pidx (k : Core) (f : Fetch) (rd rs1 rs2 : BitVec 5)
  /-- PFROM (R118). -/
  | pfrom (k : Core) (f : Fetch) (rd rs1 rs2 : BitVec 5)
  /-- LB (R127). -/
  | lb (k : Core) (f : Fetch) (rd rs1 : BitVec 5) (imm : BitVec 8)
  /-- LBS (R127). -/
  | lbs (k : Core) (f : Fetch) (rd rs1 : BitVec 5) (imm : BitVec 8)
  /-- LW (R64). -/
  | lw (k : Core) (f : Fetch) (rd rs1 : BitVec 5) (imm : BitVec 8)
  /-- LD (R128). -/
  | ld (k : Core) (f : Fetch) (rd rs1 : BitVec 5) (imm : BitVec 8)
  /-- SB (R67). -/
  | sb (k : Core) (f : Fetch) (rs2 rs1 : BitVec 5) (imm : BitVec 8)
  /-- SW (R64). -/
  | sw (k : Core) (f : Fetch) (rs2 rs1 : BitVec 5) (imm : BitVec 8)
  /-- SD (R128). -/
  | sd (k : Core) (f : Fetch) (rs2 rs1 : BitVec 5) (imm : BitVec 8)
  /-- LL_W (R130). -/
  | llW (k : Core) (f : Fetch) (rd rs1 rs2 : BitVec 5)
  /-- LL_D (R130). -/
  | llD (k : Core) (f : Fetch) (rd rs1 rs2 : BitVec 5)
  /-- SC_W (R131). -/
  | scW (k : Core) (f : Fetch) (rd rs1 rs2 : BitVec 5)
  /-- SC_D (R131). -/
  | scD (k : Core) (f : Fetch) (rd rs1 rs2 : BitVec 5)
  /-- CAS_D (R136). -/
  | casD (k : Core) (f : Fetch) (rd rs1 rs2 : BitVec 5)
  /-- AMUL (R121). -/
  | amul (k : Core) (f : Fetch) (rd rs1 rs2 : BitVec 5)
  /-- AMAC (R121). -/
  | amac (k : Core) (f : Fetch) (rd rs1 rs2 : BitVec 5)
  /-- AMSU (R121). -/
  | amsu (k : Core) (f : Fetch) (rd rs1 rs2 : BitVec 5)
  /-- ALOAD (R121). -/
  | aload (k : Core) (f : Fetch) (rd rs1 rs2 : BitVec 5)
  /-- ACLR (R122). -/
  | aclr (k : Core) (f : Fetch) (rd rs1 rs2 : BitVec 5)
  /-- ASFT (R121). -/
  | asft (k : Core) (f : Fetch) (rd rs1 rs2 : BitVec 5)
  /-- ARND (R120). -/
  | arnd (k : Core) (f : Fetch) (rd rs1 rs2 : BitVec 5)
  /-- ATRN (R120). -/
  | atrn (k : Core) (f : Fetch) (rd rs1 rs2 : BitVec 5)
  /-- AGET_D (R122). -/
  | agetD (k : Core) (f : Fetch) (rd rs1 rs2 : BitVec 5)
  /-- AGETG (R122). -/
  | agetg (k : Core) (f : Fetch) (rd rs1 rs2 : BitVec 5)
  /-- APUT_D (R122). -/
  | aputD (k : Core) (f : Fetch) (rd rs1 rs2 : BitVec 5)
  /-- APUTG (R122). -/
  | aputg (k : Core) (f : Fetch) (rd rs1 rs2 : BitVec 5)
  /-- QADD (R120). -/
  | qadd (k : Core) (f : Fetch) (rd rs1 rs2 : BitVec 5)
  /-- QSUB (R120). -/
  | qsub (k : Core) (f : Fetch) (rd rs1 rs2 : BitVec 5)
  /-- QMUL (R120). -/
  | qmul (k : Core) (f : Fetch) (rd rs1 rs2 : BitVec 5)
  /-- QNEG (R120). -/
  | qneg (k : Core) (f : Fetch) (rd rs1 rs2 : BitVec 5)
  /-- QABS (R120). -/
  | qabs (k : Core) (f : Fetch) (rd rs1 rs2 : BitVec 5)
  /-- QSHL (R120). -/
  | qshl (k : Core) (f : Fetch) (rd rs1 rs2 : BitVec 5)
  /-- CLS (R122). -/
  | cls (k : Core) (f : Fetch) (rd rs1 rs2 : BitVec 5)
  /-- CLZ (R122). -/
  | clz (k : Core) (f : Fetch) (rd rs1 rs2 : BitVec 5)
  /-- FADD (R123). -/
  | fadd (k : Core) (f : Fetch) (rd rs1 rs2 : BitVec 5)
  /-- FSUB (R123). -/
  | fsub (k : Core) (f : Fetch) (rd rs1 rs2 : BitVec 5)
  /-- FMUL (R123). -/
  | fmul (k : Core) (f : Fetch) (rd rs1 rs2 : BitVec 5)
  /-- FDIV (R123). -/
  | fdiv (k : Core) (f : Fetch) (rd rs1 rs2 : BitVec 5)
  /-- FMIN (R123). -/
  | fmin (k : Core) (f : Fetch) (rd rs1 rs2 : BitVec 5)
  /-- FMAX (R123). -/
  | fmax (k : Core) (f : Fetch) (rd rs1 rs2 : BitVec 5)
  /-- FSQRT (R123). -/
  | fsqrt (k : Core) (f : Fetch) (rd rs1 rs2 : BitVec 5)
  /-- FMADD (R123). -/
  | fmadd (k : Core) (f : Fetch) (rd rs1 rs2 : BitVec 5)
  /-- FEQ (R125). -/
  | feq (k : Core) (f : Fetch) (rd rs1 rs2 : BitVec 5)
  /-- FLT (R125). -/
  | flt (k : Core) (f : Fetch) (rd rs1 rs2 : BitVec 5)
  /-- FLE (R125). -/
  | fle (k : Core) (f : Fetch) (rd rs1 rs2 : BitVec 5)
  /-- FCLASS (R123). -/
  | fclass (k : Core) (f : Fetch) (rd rs1 rs2 : BitVec 5)
  /-- FCVT_F_W (R123). -/
  | fcvtFW (k : Core) (f : Fetch) (rd rs1 rs2 : BitVec 5)
  /-- FCVT_W_F (R123). -/
  | fcvtWF (k : Core) (f : Fetch) (rd rs1 rs2 : BitVec 5)
  /-- FCVT_F_Q (R123). -/
  | fcvtFQ (k : Core) (f : Fetch) (rd rs1 rs2 : BitVec 5)
  /-- FCVT_Q_F (R123). -/
  | fcvtQF (k : Core) (f : Fetch) (rd rs1 rs2 : BitVec 5)
  /-- FNEG (R123). -/
  | fneg (k : Core) (f : Fetch) (rd rs1 rs2 : BitVec 5)
  /-- FABS (R123). -/
  | fabs (k : Core) (f : Fetch) (rd rs1 rs2 : BitVec 5)
  /-- FSGNJ (R123). -/
  | fsgnj (k : Core) (f : Fetch) (rd rs1 rs2 : BitVec 5)
  /-- FCVT_F_D (R123). -/
  | fcvtFD (k : Core) (f : Fetch) (rd rs1 rs2 : BitVec 5)
  /-- FCVT_D_F (R123). -/
  | fcvtDF (k : Core) (f : Fetch) (rd rs1 rs2 : BitVec 5)
  /-- BEQ (R138). -/
  | beq (k : Core) (f : Fetch) (rs1 rs2 : BitVec 5) (off : BitVec 8)
  /-- BNE (R138). -/
  | bne (k : Core) (f : Fetch) (rs1 rs2 : BitVec 5) (off : BitVec 8)
  /-- BLT (R138). -/
  | blt (k : Core) (f : Fetch) (rs1 rs2 : BitVec 5) (off : BitVec 8)
  /-- BGE (R138). -/
  | bge (k : Core) (f : Fetch) (rs1 rs2 : BitVec 5) (off : BitVec 8)
  /-- BLTU (R138). -/
  | bltu (k : Core) (f : Fetch) (rs1 rs2 : BitVec 5) (off : BitVec 8)
  /-- BGEU (R138). -/
  | bgeu (k : Core) (f : Fetch) (rs1 rs2 : BitVec 5) (off : BitVec 8)
  /-- J (R138). -/
  | jmp (k : Core) (f : Fetch) (off : BitVec 18)
  /-- JAL (R139). -/
  | jal (k : Core) (f : Fetch) (off : BitVec 18)
  /-- JALR (R139). -/
  | jalr (k : Core) (f : Fetch) (rd rs1 : BitVec 5) (imm : BitVec 8)
  /-- FENCE (R218). -/
  | fence (k : Core) (f : Fetch) (rd rs1 rs2 : BitVec 5)
  /-- IFENCE (R219). -/
  | ifence (k : Core) (f : Fetch) (rd rs1 rs2 : BitVec 5)
  /-- TFENCE (R284). -/
  | tfence (k : Core) (f : Fetch) (rd rs1 rs2 : BitVec 5)
  /-- BARWAIT (R33). -/
  | barwait (k : Core) (f : Fetch) (rd rs1 rs2 : BitVec 5)
  /-- ECALL (R155). -/
  | ecall (k : Core) (f : Fetch) (rd rs1 rs2 : BitVec 5)
  /-- WFI (R142). -/
  | wfi (k : Core) (f : Fetch) (rd rs1 rs2 : BitVec 5)
  /-- ERET (R159). -/
  | eret (k : Core) (f : Fetch) (rd rs1 rs2 : BitVec 5)
  /-- BREAK (R155). -/
  | brk (k : Core) (f : Fetch) (rd rs1 rs2 : BitVec 5)
  /-- TLBI_VA (R280). -/
  | tlbiVa (k : Core) (f : Fetch) (rd rs1 rs2 : BitVec 5)
  /-- TLBI_ASID (R281). -/
  | tlbiAsid (k : Core) (f : Fetch) (rd rs1 rs2 : BitVec 5)
  /-- TLBI_PTAG (R279). -/
  | tlbiPtag (k : Core) (f : Fetch) (rd rs1 rs2 : BitVec 5)
  /-- TLBI_ALL (R279). -/
  | tlbiAll (k : Core) (f : Fetch) (rd rs1 rs2 : BitVec 5)
  /-- DC_CLEAN (R223). -/
  | dcClean (k : Core) (f : Fetch) (rd rs1 rs2 : BitVec 5)
  /-- DC_INV (R223). -/
  | dcInv (k : Core) (f : Fetch) (rd rs1 rs2 : BitVec 5)
  /-- DC_CLINV (R223). -/
  | dcClinv (k : Core) (f : Fetch) (rd rs1 rs2 : BitVec 5)
  /-- IC_INV (R223). -/
  | icInv (k : Core) (f : Fetch) (rd rs1 rs2 : BitVec 5)
  /-- CSRRD (R143). -/
  | csrrd (k : Core) (f : Fetch) (r : BitVec 5) (bit12 : Bool) (csr : BitVec 12)
  /-- CSRWR (R145). -/
  | csrwr (k : Core) (f : Fetch) (r : BitVec 5) (bit12 : Bool) (csr : BitVec 12)
  /-- INTERRUPT_ENTRY (R309). -/
  | interruptEntry (k : Core)
  /-- BEAT_EXPIRY_ENTRY (R167). -/
  | beatExpiryEntry (c : Fin 12)
  /-- DEFERRED_ERROR (R174). -/
  | deferredError (c : Fin 12) (a : PAddr) (kind : BitVec 3)
  /-- DEFERRED_ERROR_ENTRY (R175). -/
  | deferredErrorEntry (c : Fin 12)
  /-- WRITE_BACK (R202). -/
  | writeBack (site : CacheSite) (line : Nat) (ups : List Upset)
  /-- BAR_BOUNDARY (R23). -/
  | barBoundary
  /-- BEAT_BOUNDARY (R31). -/
  | beatBoundary
  /-- FIRST_BAR_START (R58). -/
  | firstBarStart
  /-- RUN_SET (R58). -/
  | runSet (w : Initiator)
  /-- RUN_CLEAR (R840). -/
  | runClear (w : Initiator)
  /-- GARM (R53). -/
  | garm (w : Initiator)
  /-- ARM (R27). -/
  | arm (w : Initiator) (c : Fin 12) (v : Word)
  /-- STAGING_WRITE (R29). -/
  | stagingWrite (w : Initiator) (c : Fin 12) (n : Fin 6) (v : Word)
  /-- OVR_CLR (R42). -/
  | ovrClr (w : Initiator) (v : Word)
  /-- INTERRUPT_EDGE (R300). -/
  | interruptEdge (t : Fin 13) (src : BitVec 9)
  /-- LEVEL_INPUT_CHANGE (R299). -/
  | levelInputChange (t : Fin 13) (src : BitVec 9) (level : Bool)
  /-- CLAIM (R310). -/
  | claimIrq (w : Initiator) (kernel : Bool)
  /-- COMPLETE (R312). -/
  | completeIrq (w : Initiator) (kernel : Bool) (v : Word)
  /-- PEND (R304). -/
  | pendIrq (w : Initiator) (t : Fin 13) (src : BitVec 9)
  /-- UNPEND (R305). -/
  | unpendIrq (w : Initiator) (t : Fin 13) (src : BitVec 9)
  /-- BEATEXP_PEND (R850). -/
  | beatexpPend (w : Initiator) (c : Fin 12)
  /-- CH_SWDB (R304). -/
  | chSwdb (w : Initiator) (v : Word)
  /-- SRC_CFG_WRITE (R323). -/
  | srcCfgWrite (w : Initiator) (t : Fin 13) (src : BitVec 9) (v : Word)
  /-- CORE_TMR_WRITE (R325). -/
  | coreTmrWrite (w : Initiator) (v : Word)
  /-- CORE_TIMER_EXPIRY (R325). -/
  | coreTimerExpiry (t : Fin 13)
  /-- INIT (R380). -/
  | mcInit (w : Initiator)
  /-- INITIALISATION_END (R856). -/
  | initialisationEnd (o : InitOutcome)
  /-- REFRESH (R350). -/
  | refresh (r : Fin 2)
  /-- REFQ_BREAK (R44). -/
  | refqBreak (r : Fin 2)
  /-- PATROL_SCRUB (R348). -/
  | patrolScrub (ups : List Upset)
  /-- MC_RESV_WRITE (R358). -/
  | mcResvWrite (w : Initiator) (v : Word)
  /-- TRACK_EN_SET (R378). -/
  | trackEnSet (w : Initiator)
  /-- TRACK_EN_CLEAR (R859). -/
  | trackEnClear (w : Initiator)
  /-- ECHO_HIWAT_WRITE (R376). -/
  | echoHiwatWrite (w : Initiator) (v : Word)
  /-- STALL_END (R861). -/
  | stallEnd
  /-- REFRAIN_STREAM_LINE (R365). -/
  | refrainStreamLine (ups : List Upset)
  /-- WAY_MAP_WRITE (R227). -/
  | wayMapWrite (w : Initiator) (reg : WayReg) (v : Word)
  /-- WAY_OPERATION_END (R844). -/
  | wayOperationEnd
  /-- DB_RING (R401). -/
  | dbRing (w : Initiator) (v : Word)
  /-- DB_DEBUG (R402). -/
  | dbDebug (w : Initiator) (v : Word)
  /-- DOORBELL_CHECK (R397). -/
  | doorbellCheck (ring : BitVec 5)
  /-- WAITING_COMMAND_START (R409). -/
  | waitingCommandStart (ring : BitVec 5)
  /-- LONG_COMMAND_FINAL (R390). -/
  | longCommandFinal (ring : BitVec 5) (tag : Word) (e : FinalEnv)
  /-- NOP (R414). -/
  | nop (h : Header)
  /-- GET_INFO (R478). -/
  | getInfo (h : Header)
  /-- RELEASE_CORES (R416). -/
  | releaseCores (h : Header) (mask p0 p1 resv : Word)
  /-- RELEASE_AUTH (R477). -/
  | releaseAuth (h : Header) (mask p0 p1 : Word) (tail : AuthTail)
  /-- HALT_CORES (R770). -/
  | haltCores (h : Header) (mask : Word)
  /-- SYS_RESET_WARM (R417). -/
  | sysResetWarm (h : Header)
  /-- SYS_RESET_COLD (R417). -/
  | sysResetCold (h : Header)
  /-- COMMANDED_RESET (R417). -/
  | commandedReset
  /-- RING_DISABLE (R442). -/
  | ringDisable (h : Header) (ring : Word)
  /-- RING_ENABLE (R441). -/
  | ringEnable (h : Header) (ring : Word)
  /-- RING_RESTART (R397). -/
  | ringRestart (h : Header) (ring : Word)
  /-- NOTICE_READ (R405). -/
  | noticeRead (h : Header)
  /-- POWER_ENTER_FERMATA (R776). -/
  | powerEnterFermata (h : Header) (wake s0 s1 : Word)
  /-- POWER_ENTER_CODA (R784). -/
  | powerEnterCoda (h : Header) (wake s0 s1 : Word)
  /-- CORE_HUSH_ENTER (R767). -/
  | coreHushEnter (h : Header) (mask : Word)
  /-- CORE_HUSH_LEAVE (R768). -/
  | coreHushLeave (h : Header) (mask : Word)
  /-- CLOCK_SET (R772). -/
  | clockSet (h : Header) (mask mhz : Word)
  /-- CLOCK_SET_TIMEOUT (R774). -/
  | clockSetTimeout
  /-- BAR_CONFIG (R864). -/
  | barConfig (h : Header) (p b off refq reh : Word)
  /-- BAR_RUN (R58). -/
  | barRun (h : Header) (run : Word)
  /-- BAR_LOCK (R55). -/
  | barLock (h : Header)
  /-- BAR_READ (R41). -/
  | barRead (h : Header) (part : Word)
  /-- TIME_READ (R500). -/
  | timeRead (h : Header)
  /-- TIME_SET (R513). -/
  | timeSet (h : Header) (s0 s1 ns : Word)
  /-- TEMPO_REFS (R504). -/
  | tempoRefs (h : Header) (mask : Word)
  /-- TEMPO_POLICY (R507). -/
  | tempoPolicy (h : Header) (step limit err : Word)
  /-- TEMPO_STEP (R512). -/
  | tempoStep (h : Header)
  /-- PTP_CORRECT (R506). -/
  | ptpCorrect (h : Header) (off freq : Word)
  /-- DUET_STATUS (R624). -/
  | duetStatus (h : Header)
  /-- LINK_TRAIN (R583). -/
  | linkTrain (h : Header) (width speed : Word)
  /-- DUET_ROLE_HANDOVER (R617). -/
  | duetRoleHandover (h : Header)
  /-- DUET_ROLE_TAKE_ACTIVE (R620). -/
  | duetRoleTakeActive (h : Header)
  /-- REFRAIN_CFG (R594). -/
  | refrainCfg (h : Header) (kk base mw r resv0 resv1 : Word) (rgns : List (Word × Word))
  /-- REFRAIN_ENABLE (R596). -/
  | refrainEnable (h : Header)
  /-- REFRAIN_DISABLE (R597). -/
  | refrainDisable (h : Header)
  /-- DUET_TIMING (R559). -/
  | duetTiming (h : Header) (hold baton : Word)
  /-- PARTNER_CMD (R419). -/
  | partnerCmd (h : Header) (inner : List Word)
  /-- REH_PLAN (R637). -/
  | rehPlan (h : Header) (sets hours : Word)
  /-- REH_RUN (R638). -/
  | rehRun (h : Header) (num : Word)
  /-- REH_RUN_TIMEOUT (R638). -/
  | rehRunTimeout
  /-- REH_STATUS (R628). -/
  | rehStatus (h : Header) (num : Word)
  /-- LEDGER_READ (R643). -/
  | ledgerRead (h : Header) (src : Word)
  /-- LEDGER_CFG (R653). -/
  | ledgerCfg (h : Header) (src window thresh : Word)
  /-- LEDGER_CLEAR (R652). -/
  | ledgerClear (h : Header) (src : Word)
  /-- REPAIR_APPLY (R651). -/
  | repairApply (h : Header) (src : Word)
  /-- REPAIR_UNDO (R651). -/
  | repairUndo (h : Header) (src : Word)
  /-- TRACE_AUTH (R684). -/
  | traceAuth (h : Header) (p0 p1 len : Word)
  /-- TRACE_REVOKE (R685). -/
  | traceRevoke (h : Header)
  /-- TRACE_OWN (R686). -/
  | traceOwn (h : Header) (cfg : Word)
  /-- SLOT_INFO (R453). -/
  | slotInfo (h : Header) (slot : Word)
  /-- SLOT_ERASE (R480). -/
  | slotErase (h : Header) (slot off p0 p1 : Word)
  /-- SLOT_WRITE (R481). -/
  | slotWrite (h : Header) (slot off p0 p1 len : Word)
  /-- SLOT_VERIFY (R483). -/
  | slotVerify (h : Header) (slot : Word)
  /-- SLOT_COMMIT (R484). -/
  | slotCommit (h : Header)
  /-- RESCORE (R485). -/
  | rescore (h : Header)
  /-- IMAGE_SEAL (R479). -/
  | imageSeal (h : Header) (a0 a1 len : Word)
  /-- FUSE_WRITE (R462). -/
  | fuseWrite (h : Header) (row : Word) (data : List Word)
  /-- POOL_CREATE (R427). -/
  | poolCreate (h : Header) (pool b0 b1 size count owner resv : Word)
  /-- POOL_DESTROY (R435). -/
  | poolDestroy (h : Header) (pool : Word)
  /-- POOL_TAKE (R436). -/
  | poolTake (h : Header) (pool n : Word)
  /-- POOL_GIVE (R437). -/
  | poolGive (h : Header) (pool n resv : Word) (handles : List Word)
  /-- ABORT (R422). -/
  | abortCmd (h : Header) (ring target : Word)
  /-- POOL_ALLOC (R432). -/
  | poolAlloc (w : Initiator) (pool : Fin 32)
  /-- POOL_RELEASE (R433). -/
  | poolRelease (w : Initiator) (pool : Fin 32) (v : Word)
  /-- POOL_LOWMARK_WRITE (R439). -/
  | poolLowmarkWrite (w : Initiator) (pool : Fin 32) (v : Word)
  /-- TIME_SEC_LO_READ (R525). -/
  | timeSecLoRead (w : Initiator)
  /-- TCOUNT_0_READ (R525). -/
  | tcount0Read (w : Initiator)
  /-- STEP_REQ (R512). -/
  | stepReq (w : Initiator)
  /-- TPPS_IN_EDGE (R501). -/
  | tppsInEdge (dt : Nat)
  /-- REF_LOST (R517). -/
  | refLost (r : Fin 3)
  /-- HOLD_EXPIRED (R519). -/
  | holdExpired
  /-- SECONDS_FIELD_INCREASE (R521). -/
  | secondsFieldIncrease
  /-- TPPS_OUT_PULSE_END (R521). -/
  | tppsOutPulseEnd
  /-- FZ_CMD (R461). -/
  | fzCmd (w : Initiator) (v : Word)
  /-- FUSE_PROGRAM_END (R461). -/
  | fuseProgramEnd (ok : Bool)
  /-- DEBUG_CHALLENGE_REQUEST (R488). -/
  | debugChallengeRequest
  /-- DEBUG_SESSION_CLOSE (R490). -/
  | debugSessionClose
  /-- DEBUG_RESPONSE (R487). -/
  | debugResponse (ws : List Word)
  /-- VOICE_IMAGE_LOAD (R473). -/
  | voiceImageLoad (bad : BitVec 4)
  /-- DL_EN_SET (R553). -/
  | dlEnSet (w : Initiator)
  /-- DL_EN_CLEAR (R553). -/
  | dlEnClear (w : Initiator)
  /-- TRAIN (R563). -/
  | trainWrite (w : Initiator)
  /-- LANE_MASK_WRITE (R557). -/
  | laneMaskWrite (w : Initiator) (v : Word)
  /-- LMAP_CTL_WRITE (R577). -/
  | lmapCtlWrite (w : Initiator) (n : Fin 16) (v : Word)
  /-- TRANSACTION_TAKE (R564). -/
  | transactionTake (ups : List Upset)
  /-- FLIT_TRANSMIT (R554). -/
  | flitTransmit (chanB : Bool)
  /-- ACK_DEADLINE (R546). -/
  | ackDeadline
  /-- ACK (R547). -/
  | ackFlit (fl : RxFlit)
  /-- NAK (R547). -/
  | nakFlit (fl : RxFlit)
  /-- TRAIN_FLIT (R583). -/
  | trainFlit (fl : RxFlit)
  /-- TRAINING_COMPLETE (R583). -/
  | trainingComplete (usable : BitVec 4)
  /-- RESUME (R559). -/
  | resumeFlit (fl : RxFlit)
  /-- FATAL (R562). -/
  | fatalFlit (fl : RxFlit)
  /-- CLOSE (R562). -/
  | closeFlit (fl : RxFlit)
  /-- HOLD_TIMER_EXPIRY (R560). -/
  | holdTimerExpiry
  /-- LOSS_OF_SIGNAL (R557). -/
  | lossOfSignal (lane : Fin 4)
  /-- UNCORRECTABLE_CODEWORDS (R557). -/
  | uncorrectableCodewords (lane : Fin 4) (n : Codewords)
  /-- REQ_CMD (R571). -/
  | reqCmd (fl : RxFlit)
  /-- CONT (R567). -/
  | contFlit (fl : RxFlit)
  /-- REQ_RD (R568). -/
  | reqRd (fl : RxFlit) (ups : List Upset)
  /-- RSP (R569). -/
  | rspFlit (fl : RxFlit)
  /-- WR_HEAD (R568). -/
  | wrHead (fl : RxFlit)
  /-- RD_HEAD (R569). -/
  | rdHead (fl : RxFlit)
  /-- DATA (R567). -/
  | dataFlit (fl : RxFlit)
  /-- SAMPLE (R574). -/
  | sampleFlit (fl : RxFlit) (dt : Nat)
  /-- SAMPLE_TIMER (R572). -/
  | sampleTimer
  /-- CK_HEAD (R608). -/
  | ckHead (fl : RxFlit)
  /-- CK_DATA (R603). -/
  | ckData (fl : RxFlit)
  /-- CK_END (R606). -/
  | ckEnd (fl : RxFlit)
  /-- CK_REPLY (R601). -/
  | ckReply (fl : RxFlit)
  /-- APPLY_END (R609). -/
  | applyEnd
  /-- HANDOVER_TIMEOUT (R619). -/
  | handoverTimeout
  /-- BATON_IN_EDGE (R590). -/
  | batonInEdge
  /-- SLICE_END (R631). -/
  | sliceEnd (fail : Bool) (slow : BitVec 10)
  /-- SLICE_OVERRUN (R632). -/
  | sliceOverrun
  /-- COVER_LATE (R635). -/
  | coverLate
  /-- LEDGER_DRAIN (R643). -/
  | ledgerDrain
  /-- LEAK (R644). -/
  | leakEvent (src : BitVec 12)
  /-- SPARE_WAY_REPAIR (R648). -/
  | spareWayRepair
  /-- LANE_DEGRADE (R649). -/
  | laneDegrade
  /-- SERVICE_HOUR (R657). -/
  | serviceHour
  /-- EVQ_POP (R661). -/
  | evqPop (w : Initiator)
  /-- PT_EN_SET (R677). -/
  | ptEnSet (w : Initiator) (page : Bool) (sec : Fin 3) (v : Word)
  /-- PT_EN_CLEAR (R677). -/
  | ptEnClear (w : Initiator) (page : Bool) (sec : Fin 3) (v : Word)
  /-- PT_FIRE (R679). -/
  | ptFire (w : Initiator) (page : Bool) (sec : Fin 3)
  /-- TRACE_STOP (R680). -/
  | traceStop (sec : Fin 3) (part : BitVec 4)
  /-- PT_RDATA (R687). -/
  | ptRdata (w : Initiator) (page : Bool) (sec : Fin 3)
  /-- TR_SEGOWN_WRITE (R688). -/
  | trSegownWrite (w : Initiator) (sec : Fin 3) (n : Fin 3) (v : Word)
  /-- STRM_LINES_WRITE (R689). -/
  | strmLinesWrite (w : Initiator) (sec : Fin 3) (part : BitVec 4) (v : Word)
  /-- TRACE_DMA_COPY (R675). -/
  | traceDmaCopy (sec : Fin 3) (part : BitVec 4)
  /-- ETH_RX_FRAME (R704). -/
  | ethRxFrame (n : Fin 2) (bytes : List Byte) (fcsOk : Bool) (dt : Nat)
  /-- ETH_TX_FRAME (R707). -/
  | ethTxFrame (n : Fin 2) (dt : Nat) (ups : List Upset)
  /-- MDIO_CMD (R703). -/
  | mdioCmd (w : Initiator) (n : Fin 2) (v : Word)
  /-- MDIO_DONE (R703). -/
  | mdioDone (n : Fin 2) (data : BitVec 16)
  /-- CAN_RX_FRAME (R711). -/
  | canRxFrame (n : Fin 4) (fr : CanFrame) (dt : Nat)
  /-- REQ (R714). -/
  | canReq (w : Initiator) (n : Fin 4) (slot : Fin 8)
  /-- CANCEL (R714). -/
  | canCancel (w : Initiator) (n : Fin 4) (slot : Fin 8)
  /-- CAN_TX_FRAME (R714). -/
  | canTxFrame (n : Fin 4) (o : CanOutcome) (dt : Nat) (ups : List Upset)
  /-- BUS_OFF_RECOVERY (R716). -/
  | busOffRecovery (n : Fin 4)
  /-- REC (R716). -/
  | canRec (w : Initiator) (n : Fin 4)
  /-- RXH_PUSH (R712). -/
  | rxhPush (w : Initiator) (n : Fin 4) (v : Word)
  /-- RXQ_ID_LO_READ (R713). -/
  | rxqIdLoRead (w : Initiator) (n : Fin 4)
  /-- RXQ_POP (R713). -/
  | rxqPop (w : Initiator) (n : Fin 4)
  /-- SPI_TX (R717). -/
  | spiTx (w : Initiator) (n : Fin 4) (v : Word)
  /-- SPI_FRAME_DONE (R718). -/
  | spiFrameDone (n : Fin 4) (v : Word)
  /-- SPI_RX (R718). -/
  | spiRx (w : Initiator) (n : Fin 4)
  /-- I2C_START (R717). -/
  | i2cStart (n : Fin 4) (ack arb : Bool)
  /-- I2C_WRITE (R717). -/
  | i2cWrite (n : Fin 4) (ack arb : Bool)
  /-- I2C_READ_ACK (R717). -/
  | i2cReadAck (n : Fin 4) (b : Byte)
  /-- I2C_READ_NACK (R717). -/
  | i2cReadNack (n : Fin 4) (b : Byte)
  /-- I2C_STOP (R717). -/
  | i2cStop (n : Fin 4)
  /-- I2C_ADDRESSED (R719). -/
  | i2cAddressed (n : Fin 4) (read : Bool)
  /-- I2C_RX (R718). -/
  | i2cRx (w : Initiator) (n : Fin 4)
  /-- UART_TX (R718). -/
  | uartTx (w : Initiator) (n : Fin 4) (v : Word)
  /-- UART_BYTE_RECEIVED (R718). -/
  | uartByteReceived (n : Fin 4) (b : Byte) (perr ferr brk : Bool)
  /-- UART_RX (R718). -/
  | uartRx (w : Initiator) (n : Fin 4)
  /-- XSPI_READ (R720). -/
  | xspiRead (o : XOutcome) (ups : List Upset)
  /-- XSPI_PROGRAM (R720). -/
  | xspiProgram (o : XOutcome) (ups : List Upset)
  /-- XSPI_ERASE_4K (R721). -/
  | xspiErase4k (o : XOutcome)
  /-- XSPI_ERASE_64K (R721). -/
  | xspiErase64k (o : XOutcome)
  /-- XSPI_READ_SFDP (R721). -/
  | xspiReadSfdp (o : XOutcome) (bytes : List Byte)
  /-- GPIO_SET (R12). -/
  | gpioSet (w : Initiator) (n : Fin 3) (v : Word)
  /-- GPIO_CLR (R12). -/
  | gpioClr (w : Initiator) (n : Fin 3) (v : Word)
  /-- GPIO_SAFE_WRITE (R722). -/
  | gpioSafeWrite (w : Initiator) (n : Fin 6) (v : Word)
  /-- GPIO_INPUT_CHANGE (R723). -/
  | gpioInputChange (pin : Fin 64) (level : Bool)
  /-- PWM_PERIOD_START (R724). -/
  | pwmPeriodStart (ch : Fin 16)
  /-- PWM_ACTIVE_END (R748). -/
  | pwmActiveEnd (ch : Fin 16)
  /-- PWM_SYNC (R742). -/
  | pwmSync (w : Initiator) (v : Word)
  /-- ACMP_INPUT_CROSSING (R737). -/
  | acmpInputCrossing (n : Fin 8) (mv : Nat) (dt : Nat)
  /-- BLANKING_END (R746). -/
  | blankingEnd (ch : Fin 16)
  /-- ACMP_DAC_WRITE (R744). -/
  | acmpDacWrite (w : Initiator) (n : Fin 8) (isSlope : Bool) (v : Word)
  /-- ACMP_SETTLE_END (R756). -/
  | acmpSettleEnd (n : Fin 8)
  /-- VDDA_ACMP_LOW (R757). -/
  | vddaAcmpLow
  /-- BANK_LOW (R698). -/
  | bankLow (bank : Fin 6)
  /-- FERMATA_ENTRY (R780). -/
  | fermataEntry
  /-- FERMATA_WAKE (R782). -/
  | fermataWake (ev : WakeEvent) (slept : Nat)
  /-- CODA_ENTRY (R785). -/
  | codaEntry
  /-- CODA_WAKE (R787). -/
  | codaWake (ev : WakeEvent) (slept : Nat)
  /-- PWR_FAIL (R788). -/
  | pwrFail
  /-- PORST_N (R763). -/
  | porstN (warmToo : Bool) (off : Nat)
  /-- WARMRST_N (R792). -/
  | warmrstN (slept : Nat)
  /-- VAON_LOSS (R789). -/
  | vaonLoss
  /-- BROWNOUT (R764). -/
  | brownout (rail : Fin 5)
  /-- SUPPLY_WARNING (R764). -/
  | supplyWarning (rail : Fin 5)
  /-- THERMAL_WARNING (R765). -/
  | thermalWarning (tj : BitVec 10)
  /-- THERMAL_TRIP (R765). -/
  | thermalTrip (tj : BitVec 10)
  /-- DEBUG_RESET (R789). -/
  | debugReset
  /-- WDOG_KICK (R797). -/
  | wdogKick (w : Initiator) (v : Word)
  /-- CDR_WDOG (R797). -/
  | cdrWdog
  /-- REGISTER_WRITE (R12). -/
  | registerWrite (w : Initiator) (priv : Bool) (a : PAddr) (v : Word)
  /-- PORST_N_RELEASE (R763). -/
  | porstNRelease (railsOk : Bool) (low : Option (Fin 5))
  /-- MAIN_RAILS_IN_RANGE (R787). -/
  | mainRailsInRange
  /-- SENTINEL_COMPLETE (R463): `gold` holds the 100 samples of GOLD_N, and each flag tells that reading a slot meets an error. -/
  | sentinelComplete (gold : BitVec 100) (errWorking errGolden : Bool)
  /-- DEBUG_CHECK_COMPLETE (R487). -/
  | debugCheckComplete
  /-- CYCLE_WRAP (R294). -/
  | cycleWrap (k : Core)
  /-- UART_BYTE_TRANSMITTED (R717). -/
  | uartByteTransmitted (n : Fin 4)
  /-- I2C_CMD (R718). -/
  | i2cCmd (w : Initiator) (n : Fin 4) (v : Word)
  /-- I2C_TARGET_BYTE (R719). -/
  | i2cTargetByte (n : Fin 4) (read : Bool) (b : Byte)
  /-- BANK_RAIL_RECOVERY (R698). -/
  | bankRailRecovery (bank : Fin 6)
  /-- VDDA_ACMP_RECOVERY (R757). -/
  | vddaAcmpRecovery
  /-- SUPPLY_WARNING_END (R764). -/
  | supplyWarningEnd (rail : Fin 5)
  /-- TJ_BELOW_WARNING (R765). -/
  | tjBelowWarning (tj : BitVec 10)
deriving DecidableEq, Repr

end Sys2Proof
end

