-- ==== Sys2Proof/Decode.lean ====
section
/-! DEFINITION. Decoding: of command words, to which the table gives no bits, and of the instruction words that a core fetches (04
section 4.2). -/
namespace Sys2Proof

/-- The command that a word spells by the table's bits. The table gives no row any bits, so no word spells a command. -/
def decodeTableWord (_nbits _w : Nat) : Option Instr := none

/-- The row of an R-format group that a function code names: within each group the codes number the rows from 0 (04 Table 4.3). -/
def decodeR (k : Core) (f : Fetch) (major fn : Nat) (rd rs1 rs2 : BitVec 5) : Option Instr :=
  match major, fn with
  | 0x01, 0 => some (.addW k f rd rs1 rs2)
  | 0x01, 1 => some (.subW k f rd rs1 rs2)
  | 0x01, 2 => some (.andW k f rd rs1 rs2)
  | 0x01, 3 => some (.orW k f rd rs1 rs2)
  | 0x01, 4 => some (.xorW k f rd rs1 rs2)
  | 0x01, 5 => some (.slt k f rd rs1 rs2)
  | 0x01, 6 => some (.sltu k f rd rs1 rs2)
  | 0x01, 7 => some (.norW k f rd rs1 rs2)
  | 0x02, 0 => some (.sll k f rd rs1 rs2)
  | 0x02, 1 => some (.srl k f rd rs1 rs2)
  | 0x02, 2 => some (.sra k f rd rs1 rs2)
  | 0x02, 3 => some (.rol k f rd rs1 rs2)
  | 0x02, 4 => some (.minS k f rd rs1 rs2)
  | 0x02, 5 => some (.maxS k f rd rs1 rs2)
  | 0x02, 6 => some (.minu k f rd rs1 rs2)
  | 0x02, 7 => some (.maxu k f rd rs1 rs2)
  | 0x03, 0 => some (.mulW k f rd rs1 rs2)
  | 0x03, 1 => some (.mulh k f rd rs1 rs2)
  | 0x03, 2 => some (.mulhu k f rd rs1 rs2)
  | 0x03, 3 => some (.mulw k f rd rs1 rs2)
  | 0x03, 4 => some (.divS k f rd rs1 rs2)
  | 0x03, 5 => some (.divu k f rd rs1 rs2)
  | 0x03, 6 => some (.remS k f rd rs1 rs2)
  | 0x03, 7 => some (.remu k f rd rs1 rs2)
  | 0x0B, 0 => some (.addD k f rd rs1 rs2)
  | 0x0B, 1 => some (.subD k f rd rs1 rs2)
  | 0x0B, 2 => some (.andD k f rd rs1 rs2)
  | 0x0B, 3 => some (.orD k f rd rs1 rs2)
  | 0x0B, 4 => some (.xorD k f rd rs1 rs2)
  | 0x0B, 5 => some (.sltD k f rd rs1 rs2)
  | 0x0B, 6 => some (.sltuD k f rd rs1 rs2)
  | 0x0C, 0 => some (.sllD k f rd rs1 rs2)
  | 0x0C, 1 => some (.srlD k f rd rs1 rs2)
  | 0x0C, 2 => some (.sraD k f rd rs1 rs2)
  | 0x0C, 3 => some (.sextD k f rd rs1 rs2)
  | 0x0C, 4 => some (.zextD k f rd rs1 rs2)
  | 0x0C, 5 => some (.packD k f rd rs1 rs2)
  | 0x0E, 0 => some (.paddB k f rd rs1 rs2)
  | 0x0E, 1 => some (.psubB k f rd rs1 rs2)
  | 0x0E, 2 => some (.pidx k f rd rs1 rs2)
  | 0x0E, 3 => some (.pfrom k f rd rs1 rs2)
  | 0x17, 0 => some (.llW k f rd rs1 rs2)
  | 0x17, 1 => some (.llD k f rd rs1 rs2)
  | 0x17, 2 => some (.scW k f rd rs1 rs2)
  | 0x17, 3 => some (.scD k f rd rs1 rs2)
  | 0x17, 4 => some (.casD k f rd rs1 rs2)
  | 0x18, 0 => some (.amul k f rd rs1 rs2)
  | 0x18, 1 => some (.amac k f rd rs1 rs2)
  | 0x18, 2 => some (.amsu k f rd rs1 rs2)
  | 0x18, 3 => some (.aload k f rd rs1 rs2)
  | 0x18, 4 => some (.aclr k f rd rs1 rs2)
  | 0x18, 5 => some (.asft k f rd rs1 rs2)
  | 0x19, 0 => some (.arnd k f rd rs1 rs2)
  | 0x19, 1 => some (.atrn k f rd rs1 rs2)
  | 0x19, 2 => some (.agetD k f rd rs1 rs2)
  | 0x19, 3 => some (.agetg k f rd rs1 rs2)
  | 0x19, 4 => some (.aputD k f rd rs1 rs2)
  | 0x19, 5 => some (.aputg k f rd rs1 rs2)
  | 0x1A, 0 => some (.qadd k f rd rs1 rs2)
  | 0x1A, 1 => some (.qsub k f rd rs1 rs2)
  | 0x1A, 2 => some (.qmul k f rd rs1 rs2)
  | 0x1A, 3 => some (.qneg k f rd rs1 rs2)
  | 0x1A, 4 => some (.qabs k f rd rs1 rs2)
  | 0x1A, 5 => some (.qshl k f rd rs1 rs2)
  | 0x1A, 6 => some (.cls k f rd rs1 rs2)
  | 0x1A, 7 => some (.clz k f rd rs1 rs2)
  | 0x1C, 0 => some (.fadd k f rd rs1 rs2)
  | 0x1C, 1 => some (.fsub k f rd rs1 rs2)
  | 0x1C, 2 => some (.fmul k f rd rs1 rs2)
  | 0x1C, 3 => some (.fdiv k f rd rs1 rs2)
  | 0x1C, 4 => some (.fmin k f rd rs1 rs2)
  | 0x1C, 5 => some (.fmax k f rd rs1 rs2)
  | 0x1C, 6 => some (.fsqrt k f rd rs1 rs2)
  | 0x1C, 7 => some (.fmadd k f rd rs1 rs2)
  | 0x1D, 0 => some (.feq k f rd rs1 rs2)
  | 0x1D, 1 => some (.flt k f rd rs1 rs2)
  | 0x1D, 2 => some (.fle k f rd rs1 rs2)
  | 0x1D, 3 => some (.fclass k f rd rs1 rs2)
  | 0x1D, 4 => some (.fcvtFW k f rd rs1 rs2)
  | 0x1D, 5 => some (.fcvtWF k f rd rs1 rs2)
  | 0x1D, 6 => some (.fcvtFQ k f rd rs1 rs2)
  | 0x1D, 7 => some (.fcvtQF k f rd rs1 rs2)
  | 0x1E, 0 => some (.fneg k f rd rs1 rs2)
  | 0x1E, 1 => some (.fabs k f rd rs1 rs2)
  | 0x1E, 2 => some (.fsgnj k f rd rs1 rs2)
  | 0x1E, 3 => some (.fcvtFD k f rd rs1 rs2)
  | 0x1E, 4 => some (.fcvtDF k f rd rs1 rs2)
  | 0x30, 0 => some (.fence k f rd rs1 rs2)
  | 0x30, 1 => some (.ifence k f rd rs1 rs2)
  | 0x30, 2 => some (.tfence k f rd rs1 rs2)
  | 0x30, 3 => some (.barwait k f rd rs1 rs2)
  | 0x30, 4 => some (.ecall k f rd rs1 rs2)
  | 0x30, 5 => some (.wfi k f rd rs1 rs2)
  | 0x30, 6 => some (.eret k f rd rs1 rs2)
  | 0x30, 7 => some (.brk k f rd rs1 rs2)
  | 0x31, 0 => some (.tlbiVa k f rd rs1 rs2)
  | 0x31, 1 => some (.tlbiAsid k f rd rs1 rs2)
  | 0x31, 2 => some (.tlbiPtag k f rd rs1 rs2)
  | 0x31, 3 => some (.tlbiAll k f rd rs1 rs2)
  | 0x32, 0 => some (.dcClean k f rd rs1 rs2)
  | 0x32, 1 => some (.dcInv k f rd rs1 rs2)
  | 0x32, 2 => some (.dcClinv k f rd rs1 rs2)
  | 0x32, 3 => some (.icInv k f rd rs1 rs2)
  | _, _ => none

/-- The row of a format I, S or B major (04 Table 4.3): two register fields and 8 bits. -/
def decodeI (k : Core) (f : Fetch) (major : Nat) (a b : BitVec 5) (imm : BitVec 8) : Option Instr :=
  match major with
  | 0x04 => some (.addi k f a b imm)
  | 0x05 => some (.andi k f a b imm)
  | 0x06 => some (.ori k f a b imm)
  | 0x07 => some (.xori k f a b imm)
  | 0x08 => some (.slti k f a b imm)
  | 0x09 => some (.sltiu k f a b imm)
  | 0x0D => some (.addiD k f a b imm)
  | 0x0F => some (.paddiB k f a b imm)
  | 0x10 => some (.lb k f a b imm)
  | 0x11 => some (.lbs k f a b imm)
  | 0x12 => some (.lw k f a b imm)
  | 0x13 => some (.ld k f a b imm)
  | 0x14 => some (.sb k f a b imm)
  | 0x15 => some (.sw k f a b imm)
  | 0x16 => some (.sd k f a b imm)
  | 0x20 => some (.beq k f a b imm)
  | 0x21 => some (.bne k f a b imm)
  | 0x22 => some (.blt k f a b imm)
  | 0x23 => some (.bge k f a b imm)
  | 0x24 => some (.bltu k f a b imm)
  | 0x25 => some (.bgeu k f a b imm)
  | 0x28 => some (.jalr k f a b imm)
  | 0x0A => match (imm.extractLsb' 6 2).toNat with
    | 0 => some (.slli k f a b imm)
    | 1 => some (.srli k f a b imm)
    | 2 => some (.srai k f a b imm)
    | _ => some (.roli k f a b imm)
  | _ => none

/-- The instruction that a core executes where it fetches a word: bits [23:18] hold the major opcode (04 R108, Tables 4.2 and 4.3).
None is an unassigned major or function code (R110), or an EXT, which is not an instruction by itself (R112). -/
def decodeInsnWord (k : Core) (f : Fetch) (w : Word) : Option Instr :=
  let major := (w.extractLsb' 18 6).toNat
  let a := w.extractLsb' 13 5
  let b := w.extractLsb' 8 5
  match major with
  | 0x26 => some (.jmp k f (w.extractLsb' 0 18))
  | 0x27 => some (.jal k f (w.extractLsb' 0 18))
  | 0x34 => some (.csrrd k f a (w.getLsbD 12) (w.extractLsb' 0 12))
  | 0x35 => some (.csrwr k f a (w.getLsbD 12) (w.extractLsb' 0 12))
  | _ => match decodeI k f major a b (w.extractLsb' 0 8) with
    | some i => some i
    | none => decodeR k f major (w.extractLsb' 0 3).toNat a b (w.extractLsb' 3 5)

/-- The payload of an EXT (04 R112). -/
def extPayload (w : Word) : Option (BitVec 18) := if w.extractLsb' 18 6 = 0x3F then some (w.extractLsb' 0 18) else none

end Sys2Proof
end

