-- ==== Sys2Proof/Machine/Bits.lean ====
section
/-! DEFINITION. Bit fields, byte order, CRC-24 and number formats that several units share. -/
namespace Sys2Proof.Machine

/-- Bits [lo+n-1:lo] of `x`. -/
def bits {m : Nat} (x : BitVec m) (lo n : Nat) : BitVec n := x.extractLsb' lo n

/-- `x` with bits [lo+n-1:lo] replaced by `v`. -/
def setBits {m : Nat} (x : BitVec m) (lo : Nat) {n : Nat} (v : BitVec n) : BitVec m :=
  (x &&& ~~~((BitVec.allOnes n).setWidth m <<< lo)) ||| (v.setWidth m <<< lo)

/-- `x` with bit `i` set to `b`. -/
def setBit {m : Nat} (x : BitVec m) (i : Nat) (b : Bool) : BitVec m :=
  if b then x ||| ((1 : BitVec m) <<< i) else x &&& ~~~((1 : BitVec m) <<< i)

/-- The vector with bit `i` only. -/
def bitAt (m i : Nat) : BitVec m := (1 : BitVec m) <<< i

/-- A Boolean as one bit of an `m`-bit vector at place `i`. -/
def flag (m i : Nat) (b : Bool) : BitVec m := if b then bitAt m i else 0

/-- The low half of a double word. -/
def lo24 (d : DWord) : Word := d.setWidth 24
/-- The high half of a double word. -/
def hi24 (d : DWord) : Word := (d >>> 24).setWidth 24
/-- A double word of its high and low words (00 R11). -/
def pair (hi lo : Word) : DWord := hi ++ lo

/-- A double word with its low half replaced. -/
def setLo (d : DWord) (v : Word) : DWord := pair (hi24 d) v
/-- A double word with its high half replaced. -/
def setHi (d : DWord) (v : Word) : DWord := pair v (lo24 d)

/-- A physical address of its low word and its high 12 bits. -/
def paddrOf (lo hi : Word) : PAddr := (hi.setWidth 12) ++ lo
/-- Low word of a physical address. -/
def paLo (a : PAddr) : Word := a.setWidth 24
/-- High bits of a physical address, as a word. -/
def paHi (a : PAddr) : Word := (a >>> 24).setWidth 24

/-- Lane `l` of a word (00 section 0.4). -/
def lane (w : Word) (l : Nat) : Byte := (w >>> (8 * l)).setWidth 8

/-- The word of three lanes. -/
def ofLanes (b0 b1 b2 : Byte) : Word := b2 ++ b1 ++ b0

/-- A counter plus one, saturating at all ones. -/
def satInc {n : Nat} (c : BitVec n) : BitVec n := if c = BitVec.allOnes n then c else c + 1

/-- A counter plus `k`, saturating at all ones. -/
def satAdd {n : Nat} (c : BitVec n) (k : Nat) : BitVec n := BitVec.ofNat n (min (2 ^ n - 1) (c.toNat + k))

/-- The number of bits set. -/
def popcount {n : Nat} (x : BitVec n) : Nat := ((List.range n).filter x.getLsbD).length

/-- The parity (XOR of all bits). -/
def parity {n : Nat} (x : BitVec n) : Bool := popcount x % 2 == 1

/-- The bytes of words as a stream: lane 0, lane 1, lane 2 of each (03 R72, 11 R448). -/
def wordBytes (ws : List Word) : List Byte := ws.flatMap fun w => [lane w 0, lane w 1, lane w 2]

/-- Bytes packed into words, the unused lanes of the last word zero (03 R72, R73). -/
def packBytes : List Byte → List Word
  | [] => []
  | [a] => [ofLanes a 0 0]
  | [a, b] => [ofLanes a b 0]
  | a :: b :: c :: t => ofLanes a b c :: packBytes t

/-- One bit of the CRC-24 of 11 R451. -/
def crcStep (c : BitVec 24) : BitVec 24 :=
  if c.getLsbD 23 then (c <<< 1) ^^^ 0x864CFB else c <<< 1

/-- One byte of the CRC-24. -/
def crcByte (c : BitVec 24) (b : Byte) : BitVec 24 :=
  crcStep (crcStep (crcStep (crcStep (crcStep (crcStep (crcStep (crcStep (c ^^^ ((b.setWidth 24) <<< 16)))))))))

/-- The CRC continued over words (11 R451, R448). -/
def crcMore (c : BitVec 24) (ws : List Word) : BitVec 24 := (wordBytes ws).foldl crcByte c

/-- The record CRC of words (11 R451). -/
def recordCrc (ws : List Word) : Word := crcMore 0xB704CE ws

/-- A signed number limited to `n` bits, two's complement, saturating. -/
def satSigned (n : Nat) (i : Int) : BitVec n :=
  BitVec.ofInt n (max (-(2 ^ (n - 1) : Int)) (min ((2 ^ (n - 1) : Int) - 1) i))

/-- A natural number limited to `n` bits, saturating. -/
def satNat (n i : Nat) : BitVec n := BitVec.ofNat n (min (2 ^ n - 1) i)

/-- A flag of `x` cleared where the written word has a 1 (00 Table 0.4, W1C). -/
def w1c (x b : Bool) : Bool := x && !b

/-- Number of a list element from 0, with the elements. -/
def indexed {α : Type} (l : List α) : List (Nat × α) := (List.range l.length).zip l

end Sys2Proof.Machine
end

