-- ==== Sys2Proof/Machine/Ecc.lean ====
section
/-! DEFINITION. The check bits of a DRAM beat (09 section 9.3). The model holds, for each beat, the XOR of the stored check
bits with those computed from the stored data; 0 means no discrepancy. -/
namespace Sys2Proof.Machine

/-- The 7-bit values with at least two bits set, ascending (09 section 9.3). -/
def hValues : List Nat := (List.range 128).filter fun v => 2 ≤ popcount (BitVec.ofNat 7 v)

/-- h(i) of 09 section 9.3. -/
def hOf (i : Nat) : BitVec 7 := BitVec.ofNat 7 (hValues.getD i 0)

/-- The data bit whose column is `s`, if there is one below 72. -/
def hIndex (s : BitVec 7) : Option Nat := ((List.range 72).find? fun i => hOf i = s)

/-- How a flip of bit `i` of the 80 stored bits changes the discrepancy: a data bit through its column and c7 (R341), a
check bit directly. -/
def flipOf (i : Nat) : BitVec 8 :=
  if i < 72 then (if parity (hOf i) then 0#1 else 1#1) ++ hOf i else bitAt 8 (i - 72)

/-- The discrepancy after the bits of `x` flip. -/
def flipAll (e : BitVec 8) (x : BitVec 80) : BitVec 8 :=
  (List.range 80).foldl (fun e i => if x.getLsbD i then e ^^^ flipOf i else e) e

/-- Outcomes of 09 Table 9.4. -/
inductive EccOut where
  | clean
  | checkBit
  | dataBit (i : Nat)
  | poison
  | uncorrectable
deriving DecidableEq, Repr

/-- The decode of 09 Table 9.4 from the discrepancy: s is its low seven bits, p the parity of all eight. -/
def eccDecode (e : BitVec 8) : EccOut :=
  let s : BitVec 7 := e.setWidth 7
  if parity e then
    if popcount s ≤ 1 then .checkBit
    else match hIndex s with
      | some i => .dataBit i
      | none => .uncorrectable
  else if s = 0 then .clean
  else if s = 3 then .poison
  else .uncorrectable

/-- Check bits of a fuse row (11 section 11.4): CHK bit j is the XOR of the data bits whose column has bit j. -/
def fuseChk (d : Word) : BitVec 7 :=
  (List.range 24).foldl (fun c i => if d.getLsbD i then c ^^^ hOf i else c) 0

end Sys2Proof.Machine
end

