-- ==== Sys2Proof/Machine/StateIo.lean ====
section
/-! DEFINITION. The state of the field I/O units (17) and of the Accent comparators (18). -/
namespace Sys2Proof.Machine

/-- An Ethernet MAC (17 Table 17.4). `mdio` is the command in progress; `pauseTo` the count until which a received PAUSE
holds transmission. -/
structure Eth where
  ctl     : BitVec 9
  stat    : BitVec 5
  ien     : BitVec 6
  addr    : DWord
  hash    : Vector Word 3
  maxFrame : BitVec 12
  rxPool  : BitVec 5
  rxcBase : PAddr
  rxcSize : BitVec 11
  rxcProd : Word
  rxcCons : Word
  txBase  : PAddr
  txSize  : BitVec 11
  txProd  : Word
  txCons  : Word
  tsRx    : Word
  tsTx    : Word
  mdio    : Option (BitVec 12)
  mdioData : BitVec 16
  rxOk    : Word
  rxNoBuf : Word
  rxNoRing : Word
  rxBad   : Word
  txOk    : Word
  pauseTo : Nat
deriving DecidableEq, Repr

/-- A MAC after a reset (17 R732). -/
def Eth.reset : Eth where
  ctl := 0
  stat := 0
  ien := 0
  addr := 0
  hash := Vector.replicate 3 0
  maxFrame := 1522
  rxPool := 0
  rxcBase := 0
  rxcSize := 0
  rxcProd := 0
  rxcCons := 0
  txBase := 0
  txSize := 0
  txProd := 0
  txCons := 0
  tsRx := 0
  tsTx := 0
  mdio := none
  mdioData := 0
  rxOk := 0
  rxNoBuf := 0
  rxNoRing := 0
  rxBad := 0
  txOk := 0
  pauseTo := 0

/-- An entry of a CAN receive queue (17 Table 17.6, RXQ registers): identifier words, length word, handle, three
timestamp words. -/
structure RxqEntry where
  idLo   : Word
  idHi   : Word
  len    : Word
  handle : Word
  ts0    : Word
  ts1    : Word
  ts2    : Word
deriving DecidableEq, Repr

/-- A transmit slot of a CAN controller (17 Table 17.6). -/
structure CanSlot where
  idLo   : Word
  idHi   : Word
  len    : BitVec 7
  handle : Word
  req    : Bool
  rel    : Bool
  done   : Bool
  status : BitVec 3
  ts0    : Word
  ts1    : Word
  ts2    : Word
deriving DecidableEq, Repr

/-- An acceptance filter (17 R710). -/
structure CanFilter where
  idLo   : Word
  idHi   : Word
  maskLo : Word
  maskHi : Word
deriving DecidableEq, Repr

/-- A CAN FD controller (17 Table 17.6). -/
structure Can where
  ctl     : BitVec 7
  nbt     : BitVec 23
  dbt     : BitVec 18
  tdc     : BitVec 7
  busoff  : Bool
  passive : Bool
  flags   : BitVec 4
  tec     : BitVec 9
  rxErr   : BitVec 8
  ien     : Word
  handles : List Word
  rxq     : List RxqEntry
  latch   : Tbl RxqEntry
  tx      : Vector CanSlot 8
  filters : Vector CanFilter 32
deriving DecidableEq, Repr

/-- A controller after a reset (17 R732). -/
def Can.reset : Can where
  ctl := 0
  nbt := 0
  dbt := 0
  tdc := 0
  busoff := false
  passive := false
  flags := 0
  tec := 0
  rxErr := 0
  ien := 0
  handles := []
  rxq := []
  latch := []
  tx := Vector.replicate 8 { idLo := 0, idHi := 0, len := 0, handle := 0, req := false, rel := false, done := false, status := 0, ts0 := 0, ts1 := 0, ts2 := 0 }
  filters := Vector.replicate 32 { idLo := 0, idHi := 0, maskLo := 0, maskHi := 0 }

/-- An SPI unit (17 Table 17.8): the frame in progress is `busy`. -/
structure Spi where
  ctl   : BitVec 12
  div   : BitVec 8
  tx    : List Word
  rx    : List Word
  busy  : Option Word
  flags : BitVec 2
  ien   : BitVec 2
deriving DecidableEq, Repr

/-- An I2C unit (17 Table 17.8). `onBus`: a transfer is open on the bus; `asTarget`: an outside controller has addressed
the unit, for a read if true; `stretch`: the unit holds SCL (R719). -/
structure I2c where
  ctl   : BitVec 5
  taddr : BitVec 10
  cmds  : List (BitVec 11)
  rx    : List Byte
  onBus : Bool
  flags : BitVec 4
  ien   : BitVec 4
  asTarget : Option Bool
  stretch : Bool
deriving DecidableEq, Repr

/-- A UART (17 Table 17.8). Received entries carry data [7:0] and the error bits [10:8]. -/
structure Uart where
  ctl   : BitVec 8
  div   : BitVec 20
  tx    : List Byte
  rx    : List (BitVec 11)
  flags : BitVec 2
  ien   : BitVec 2
deriving DecidableEq, Repr

/-- A descriptor ring of xSPI (17 Table 17.10). -/
structure XRing where
  base : PAddr
  size : BitVec 11
  prod : Word
  cons : Word
deriving DecidableEq, Repr

/-- The xSPI unit (17 Table 17.10). -/
structure Xspi where
  ctl   : BitVec 10
  flags : BitVec 3
  ien   : BitVec 3
  cfg   : Word
  rings : Vector XRing 2
deriving DecidableEq, Repr

/-- GPIO (17 Table 17.11). `pins` are the pin levels after the synchroniser. -/
structure Gpio where
  pins : BitVec 64
  out  : BitVec 64
  oe   : BitVec 64
  fen  : BitVec 64
  safe : BitVec 128
  icfg : BitVec 128
  filt : BitVec 64
  lock : Bool
  low  : BitVec 6
  chg  : Bool
deriving DecidableEq, Repr

/-- A PWM channel (17 Table 17.12). `curP` and `curD` are the period and duty in force, `start` the count at which the
running period began, `level` the output before fence and polarity, `cut` a cutoff in force; `compDue` is the time at
which the complement turns active. -/
structure PwmCh where
  ctl    : BitVec 8
  period : Word
  duty   : Word
  dead   : BitVec 8
  fcfg   : BitVec 3
  stat   : BitVec 2
  ien    : BitVec 2
  curP   : Word
  curD   : Word
  start  : Nat
  activeAt : Option Nat
  level  : Bool
  cut    : Bool
  compDue : Option Nat
deriving DecidableEq, Repr

/-- A channel after a reset (17 R732): the output inactive, fence-able. -/
def PwmCh.reset : PwmCh where
  ctl := 0
  period := 0
  duty := 0
  dead := 0
  fcfg := 1
  stat := 0
  ien := 0
  curP := 0
  curD := 0
  start := 0
  activeAt := none
  level := false
  cut := false
  compDue := none

/-- An Accent comparator (18 Table 18.3). `newDac` and `newSlope` wait for the next start of the active level (R744);
`samples` are the last seven samples of RAW, newest first (R738); `settle` is the end of the settling time (R756),
`rampAt` the count of the ramp's last restart and `rampDue` that of a restart still to come in the running period (R742). -/
structure Acmp where
  ctl    : BitVec 12
  dac    : BitVec 10
  slope  : BitVec 12
  blank  : BitVec 8
  newDac : BitVec 10
  newSlope : BitVec 12
  raw    : Bool
  samples : List Bool
  flt    : Bool
  supplyLow : Bool
  trip   : Bool
  tripCnt : Word
  settle : Option Nat
  rampAt : Option Nat
  rampDue : Option Nat
deriving DecidableEq, Repr

/-- A comparator after a reset (18 R755). -/
def Acmp.reset : Acmp where
  ctl := 0
  dac := 0
  slope := 0
  blank := 0
  newDac := 0
  newSlope := 0
  raw := false
  samples := List.replicate 7 false
  flt := false
  supplyLow := false
  trip := false
  tripCnt := 0
  settle := none
  rampAt := none
  rampDue := none

/-- All field I/O units and the comparators. `vddaLow`: VDDA_ACMP lies below 1.50 V (18 R757). -/
structure FieldIo where
  eth   : Vector Eth 2
  can   : Vector Can 4
  spi   : Vector Spi 4
  i2c   : Vector I2c 4
  uart  : Vector Uart 4
  xspi  : Xspi
  gpio  : Gpio
  pwm   : Vector PwmCh 16
  pwmLock : Bool
  acmp  : Vector Acmp 8
  acmpLock : Bool
  vddaLow : Bool
deriving DecidableEq, Repr

/-- The field I/O units after a warm or cold reset (17 R732, 18 R755). -/
def FieldIo.reset : FieldIo where
  eth := Vector.replicate 2 Eth.reset
  can := Vector.replicate 4 Can.reset
  spi := Vector.replicate 4 { ctl := 0, div := 0, tx := [], rx := [], busy := none, flags := 0, ien := 0 }
  i2c := Vector.replicate 4 { ctl := 0, taddr := 0, cmds := [], rx := [], onBus := false, flags := 0, ien := 0, asTarget := none, stretch := false }
  uart := Vector.replicate 4 { ctl := 0, div := 0, tx := [], rx := [], flags := 0, ien := 0 }
  xspi := { ctl := 0, flags := 0, ien := 0, cfg := 0, rings := Vector.replicate 2 { base := 0, size := 0, prod := 0, cons := 0 } }
  gpio := { pins := 0, out := 0, oe := 0, fen := BitVec.allOnes 64, safe := 0, icfg := 0, filt := 0, lock := false, low := 0, chg := false }
  pwm := Vector.replicate 16 PwmCh.reset
  pwmLock := false
  acmp := Vector.replicate 8 Acmp.reset
  acmpLock := false
  vddaLow := false

end Sys2Proof.Machine
end

