-- ==== Sys2Proof/Machine/StateMem.lean ====
section
/-! DEFINITION. The memories (03), the memory controller and Echo (09), the command rings and buffer pools (10), and boot
and trust (11). -/
namespace Sys2Proof.Machine

/-- A memory: bytes keyed by 3 times the word address plus the lane, keys strictly rising, none listed that equals what
an unlisted byte reads as (03 R64 to R68). -/
abbrev Memory := List Host.Cell

/-- One word of a write: its word address, its value, the lanes written, and whether it carries poison (06 R209). -/
structure WrWord where
  addr   : Nat
  data   : Word
  lanes  : BitVec 3
  poison : Bool
deriving DecidableEq, Repr

/-- What a DMA engine tells of a buffer once its writes are visible (06 R221): a received frame's completion entry, a sent frame's
descriptor with its first word and STATUS, a CAN frame's queue entry, or an xSPI descriptor with its first word and STATUS. -/
inductive DmaDone where
  | ethRx (n : Fin 2)
  | ethTx (n : Fin 2) (w0 : Word) (status : Nat)
  | canRx (n : Fin 4) (e : RxqEntry)
  | xspi (r : Fin 2) (w0 : Word) (status : Nat)
deriving DecidableEq, Repr

/-- A write that waits on a full Echo (09 R370, R860). `wb` tells a write-back of cached words, `own` that R370 stalls the write
itself and not only an earlier one of its initiator (R371), `drop` the cache that a write-back makes the line leave, and
`fin` what its DMA engine tells once it is performed (06 R221). -/
structure Stalled where
  line : Nat
  who  : Option Initiator
  wb   : Bool
  ws   : List WrWord
  own  : Bool
  drop : Option CacheSite
  fin  : List DmaDone := []
deriving DecidableEq, Repr

/-- A line that Echo holds (09 R367): its words; for each beat, whether the copy found it bad (R854); whether the copy lies in the
spill region; and the words in which an error has come up since, uncorrectable or correctable, found when the copy is sent. -/
structure EchoLine where
  line  : Nat
  words : Vector Word 24
  bad   : BitVec 8
  spill : Bool
  ue    : BitVec 24
  ce    : BitVec 24
deriving DecidableEq, Repr

/-- The memory controller (09 Table 9.7). `refreshAt` and `scrubAt` are the counts of Tempo at which tREFI next elapses on each rank
and at which scrub reads its next burst (R348, R350). -/
structure MemCtl where
  init       : Bool
  ref2x      : Bool
  scrubEn    : Bool
  speed      : BitVec 3
  density    : BitVec 2
  ranks      : Bool
  ready      : Bool
  selfref    : Bool
  ce         : Bool
  ue         : Bool
  refqBrk    : Bool
  resvRej    : Bool
  trainFail  : Bool
  resvStream : BitVec 4
  resvDma    : BitVec 4
  refqBrkCnt : Word
  ceCnt      : Word
  scrubPeriod : BitVec 8
  ceLog      : Word
  ceInfo     : Word
  ueLog      : Word
  ueInfo     : Word
  ien        : BitVec 5
  scrubPos   : Nat
  postponed  : Vector Nat 2
  ahead      : Vector Bool 2
  quietOver  : Bool
  refreshAt  : Vector Nat 2
  scrubAt    : Nat
deriving DecidableEq, Repr

/-- The memory controller after a cold reset (09 Table 9.7). -/
def MemCtl.reset : MemCtl where
  init := false
  ref2x := false
  scrubEn := true
  speed := 0
  density := 0
  ranks := false
  ready := false
  selfref := false
  ce := false
  ue := false
  refqBrk := false
  resvRej := false
  trainFail := false
  resvStream := 12
  resvDma := 4
  refqBrkCnt := 0
  ceCnt := 0
  scrubPeriod := 24
  ceLog := 0
  ceInfo := 0
  ueLog := 0
  ueInfo := 0
  ien := 0
  scrubPos := 0
  postponed := Vector.replicate 2 0
  ahead := Vector.replicate 2 false
  quietOver := false
  refreshAt := Vector.replicate 2 0
  scrubAt := 0

/-- Echo and dirty tracking (09 section 9.7, Table 9.8). `live` and `frozen` are page numbers, rising. -/
structure Echo where
  track     : Bool
  stall     : Bool
  poisoned  : Bool
  abandoned : Bool
  cfgRej    : Bool
  spillBase : Word
  spillMw   : BitVec 7
  rgnBase   : Vector Word 8
  rgnPages  : Vector Word 8
  hiwat     : Word
  stallCnt  : Word
  live      : List Nat
  frozen    : List Nat
  lines     : List EchoLine
  stalled   : List Stalled
deriving DecidableEq, Repr

/-- Echo after a warm reset (09 Table 9.8, R381). -/
def Echo.reset : Echo where
  track := false
  stall := false
  poisoned := false
  abandoned := false
  cfgRej := false
  spillBase := 0
  spillMw := 0
  rgnBase := Vector.replicate 8 0
  rgnPages := Vector.replicate 8 0
  hiwat := 0
  stallCnt := 0
  live := []
  frozen := []
  lines := []
  stalled := []

/-- A command that has started and has no final reply yet (10 R390, R409, R412). `startAt` is the Tempo count of its
start; `committed` tells that its commit point has passed (R412); `resv` is the number of result words held for it (R409); `aux` is what the command keeps while it runs. -/
structure Cmd where
  ring      : BitVec 5
  seq       : Word
  tag       : Word
  op        : BitVec 8
  params    : List Word
  startAt   : Nat
  committed : Bool
  resv      : Nat
  aux       : Nat
deriving DecidableEq, Repr

/-- Command doorbells, notices and the state of Conductor command service (10). `stopped` marks the rings stopped under
R397, whose replies `held` keeps; `known` is each ring's REQ_PROD as read at its last doorbell (R399). -/
structure Rings where
  dbPend     : BitVec 16
  dbPartner  : Bool
  dbDebug    : Bool
  noticePend : Bool
  notices    : List (BitVec 8 × Word)
  lost       : BitVec 8
  active     : List Cmd
  held       : List (BitVec 5 × List Word)
  cancelled  : List (BitVec 5 × Word)
  last       : BitVec 4
  stopped    : BitVec 18
  known      : Vector Word 18
  resetReq   : Option Bool
  resetAt    : Nat
  sleepReq   : Option Bool
deriving DecidableEq, Repr

/-- Command service after a reset (10 R443, R444). -/
def Rings.reset : Rings where
  dbPend := 0
  dbPartner := false
  dbDebug := false
  noticePend := false
  notices := []
  lost := 0
  active := []
  held := []
  cancelled := []
  last := 15
  stopped := 0
  known := Vector.replicate 18 0
  resetReq := none
  resetAt := 0
  sleepReq := none

/-- A buffer pool (10 section 10.7). `free` lists the free buffers, oldest freed first (R428); a buffer below `count`
that is not free is granted. -/
structure Pool where
  base  : PAddr
  size  : BitVec 10
  owner : BitVec 4
  en    : Bool
  count : BitVec 19
  free  : List Nat
  low   : BitVec 19
deriving DecidableEq, Repr

/-- A pool after a reset (10 R443). -/
def Pool.reset : Pool where
  base := 0
  size := 0
  owner := 0
  en := false
  count := 0
  free := []
  low := 0

/-- The buffer manager (10 Table 10.7). -/
structure BufMan where
  dblFree  : Bool
  badFree  : Bool
  empty    : BitVec 32
  pools    : Vector Pool 32
  lastCore : BitVec 4
deriving DecidableEq, Repr

/-- The buffer manager after a reset (10 R443). -/
def BufMan.reset : BufMan where
  dblFree := false
  badFree := false
  empty := 0
  pools := Vector.replicate 32 Pool.reset
  lastCore := 11

/-- The Boot sentinel's progress (11 R463, R466). -/
inductive Sentinel where
  | idle | running | released | silent
deriving DecidableEq, Repr

/-- Boot, fuses, flash controller and debug mailbox (11). `chal` is the challenge in force, `sessChal` the one that opened the
session; `duetWord`, `imgVer`, `imgIface` and `stepMask` are words 12, 5, 8, 10 and 11 of the header of the running Conductor image;
`cold` tells that the last reset was a cold one, `imagesDone` that the Voice images of this start have been loaded. -/
structure Boot where
  sentinel   : Sentinel
  startedAt  : Nat
  bootstat   : BitVec 3
  silentCode : BitVec 3
  info       : Word
  golden     : Bool
  xipOff     : Bool
  aliasWr    : Bool
  fuses      : Tbl (BitVec 32)
  fzRow      : BitVec 8
  fzWdata    : Word
  fzBusy     : Option (BitVec 8 × Word)
  fzRefused  : Bool
  chal       : Option (List Word)
  resp       : List Word
  checking   : Bool
  reqWait    : Bool
  session    : Bool
  perms      : BitVec 5
  parts      : Word
  failures   : Nat
  started    : Bool
  badReason  : BitVec 8
  badIndex   : BitVec 8
  logPos     : Nat
  sessChal   : List Word
  duetWord   : Word
  imgVer     : Word
  imgIface   : Word
  stepMask   : Word × Word
  cold       : Bool
  imagesDone : Bool
deriving DecidableEq, Repr

/-- Boot state when VAON is applied: fuses blank (log 18). -/
def Boot.reset : Boot where
  sentinel := .idle
  startedAt := 0
  bootstat := 0
  silentCode := 0
  info := 0
  golden := false
  xipOff := false
  aliasWr := false
  fuses := []
  fzRow := 0
  fzWdata := 0
  fzBusy := none
  fzRefused := false
  chal := none
  resp := []
  checking := false
  reqWait := false
  session := false
  perms := 0
  parts := 0
  failures := 0
  started := false
  badReason := 0
  badIndex := 0
  logPos := 0
  sessChal := []
  duetWord := 0
  imgVer := 0
  imgIface := 0
  stepMask := (0, 0)
  cold := true
  imagesDone := false

end Sys2Proof.Machine
end

