-- ==== Sys2Proof/Machine/MemOps.lean ====
section
/-! DEFINITION. Reading and writing a memory by byte and by word (03 R64 to R67). A memory is keyed by 3 times the word
address plus the lane; what an unlisted byte reads as is the parameter `d` (log 6). -/
namespace Sys2Proof.Machine

/-- The canonical form of a memory: keys strictly rising from above `lo`, no entry equal to the default. -/
def Memory.wfFrom (d : Byte) : Option Nat → Memory → Bool
  | _, [] => true
  | prev, (k, b) :: t =>
    (match prev with | some p => p < k | none => true) && b != d && Memory.wfFrom d (some k) t

/-- The canonical form of a memory. -/
def Memory.wf (d : Byte) (m : Memory) : Bool := Memory.wfFrom d none m

/-- The byte at a key. -/
def Memory.byte (d : Byte) (m : Memory) (k : Nat) : Byte := Tbl.get m k d

/-- The memory with one byte written. -/
def Memory.setByte (d : Byte) (m : Memory) (k : Nat) (b : Byte) : Memory :=
  if b = d then Tbl.del m k else Tbl.put m k b

/-- The word at a word address. -/
def Memory.word (d : Byte) (m : Memory) (a : Nat) : Word :=
  ofLanes (Memory.byte d m (3 * a)) (Memory.byte d m (3 * a + 1)) (Memory.byte d m (3 * a + 2))

/-- The memory with the lanes of `mask` of one word written (03 R67). -/
def Memory.setLanes (d : Byte) (m : Memory) (a : Nat) (v : Word) (mask : BitVec 3) : Memory :=
  let m := if mask.getLsbD 0 then Memory.setByte d m (3 * a) (lane v 0) else m
  let m := if mask.getLsbD 1 then Memory.setByte d m (3 * a + 1) (lane v 1) else m
  if mask.getLsbD 2 then Memory.setByte d m (3 * a + 2) (lane v 2) else m

/-- The memory with one word written. -/
def Memory.setWord (d : Byte) (m : Memory) (a : Nat) (v : Word) : Memory := Memory.setLanes d m a v 7

/-- Consecutive words from a word address. -/
def Memory.words (d : Byte) (m : Memory) (a n : Nat) : List Word :=
  (List.range n).map fun i => Memory.word d m (a + i)

/-- The memory with consecutive words written. -/
def Memory.setWords (d : Byte) (m : Memory) (a : Nat) : List Word → Memory
  | [] => m
  | v :: vs => Memory.setWords d (Memory.setWord d m a v) (a + 1) vs

/-- The value of a word after the lanes of `mask` are taken from `v`. -/
def mergeLanes (old v : Word) (mask : BitVec 3) : Word :=
  ofLanes (if mask.getLsbD 0 then lane v 0 else lane old 0) (if mask.getLsbD 1 then lane v 1 else lane old 1)
    (if mask.getLsbD 2 then lane v 2 else lane old 2)

/-- The memory without any byte of the word addresses from `a` for `n` words: they read as unlisted. -/
def Memory.clearWords (m : Memory) (a n : Nat) : Memory :=
  m.filter fun c => decide (c.1 < 3 * a) || decide (3 * (a + n) ≤ c.1)

end Sys2Proof.Machine
end

