-- ==== Sys2Proof/Config.lean ====
section
/-! DEFINITION. What the spec leaves open: free values, as constants without a body. Each is applied to the counter of
free values that the state holds (log 7), to an allocation stamp (log 9), or to nothing. -/
namespace Sys2Proof.Config

/-- A word of entropy for a nonce (11 Table 11.10); log 7. -/
opaque nonce : Nat → Word
/-- A word of entropy for LOCAL_EPOCH (13 section 13.5), which is then made non-zero; log 7. -/
opaque entropy : Nat → Word
/-- Whether an access between a CSRWR of a translation CSR and its effect uses the new value (07 R288); log 8. -/
opaque usesNew : Nat → Bool
/-- Whether a translation or a walk uses an entry that a translation cache holds rather than reading memory (07 R277);
log 10. -/
opaque usesHeld : Nat → Bool
/-- The way into which a cache allocated the line with the given stamp, before reduction to the ways in use (06); log 9. -/
opaque way : Nat → Nat
/-- A word of the range of an aborted SLOT_WRITE (11 R482); log 7. -/
opaque abortedWord : Nat → Word
/-- A word of the device-unique key, written at manufacture from entropy (11 R460); log 18. -/
opaque deviceKey : Nat → Byte

/-- DATA of a factory row, written at manufacture (11 Table 11.6); log 18. -/
opaque factory : Nat → Word
/-- What a fuse row holds whose programming failed or was cut, as far as it was meant to be blown (11 R458, R461); log 7. -/
opaque cutFuse : Nat → BitVec 32
/-- How far a RESCORE has come that a reset cuts (11 R485, R493); log 7. -/
opaque cutRescore : Nat → Nat
/-- The reason recorded for a Voice image that passes its checks and names cores that cannot be released (11 R475); log 29. -/
opaque refusedReason : Byte
/-- Whether FMADD signals the invalid operation for infinity times zero added to a quiet NaN, which IEEE 754-2019 leaves to
the implementation (04 R123); log 24. -/
opaque fmaNanInvalid : Bool

end Sys2Proof.Config
end

