-- ==== Sys2Proof/Machine/StateBar.lean ====
section
/-! DEFINITION. The state of the Bar unit (02), of Tempo (12) and of Chorus (08). -/
namespace Sys2Proof.Machine

/-- A global Bar configuration (02 section 2.6): P in units of 10 ns, B, ALIGN, offset and the two masks. -/
structure BarCfg where
  period : Word
  beats  : BitVec 5
  align  : Bool
  offset : Word
  refq   : Word
  reh    : Word
deriving DecidableEq, Repr

/-- The configuration of 02 R57. -/
def BarCfg.reset : BarCfg where
  period := 0x0186A0
  beats := 20
  align := false
  offset := 0
  refq := 0
  reh := 0

/-- The Bar unit's block of one Voice core (02 Table 2.4). `entered` is R32 for the slot in progress. -/
structure CoreBar where
  bst      : Vector Word 6
  btc      : Vector Word 6
  arm      : Bool
  bwmode   : Bool
  done     : Bool
  reject   : Bool
  stgIgn   : Bool
  bcReason : Bool
  slotMiss : Word
  lastOvr  : Word
  entered  : Bool
deriving DecidableEq, Repr

/-- A core's block after a warm reset (02 R57). -/
def CoreBar.reset : CoreBar where
  bst := Vector.replicate 6 0
  btc := Vector.replicate 6 0
  arm := false
  bwmode := false
  done := false
  reject := false
  stgIgn := false
  bcReason := false
  slotMiss := 0
  lastOvr := 0
  entered := false

/-- The Bar unit. Counts of Tempo are held as natural numbers of 1 ns counts. `resumeDue`: after Fermata, bars restart at the first
release of a core (R62, 19 Table 19.4). -/
structure BarUnit where
  run       : Bool
  garm      : Bool
  staged    : BarCfg
  cfg       : BarCfg
  running   : Bool
  cfgReject : Bool
  captSkip  : Bool
  ovrSat    : Bool
  resumed   : Bool
  cnt       : DWord
  beat      : BitVec 5
  barStart  : Nat
  beatStart : Nat
  stretch   : Nat
  lag       : Word
  captNoRest : Word
  lock      : Bool
  ovr       : Vector Word 16
  cores     : Vector CoreBar 12
  firstAt   : Option Nat
  nextCnt   : DWord
  resumeDue : Bool
deriving DecidableEq, Repr

/-- The Bar unit after a warm reset (02 R57). -/
def BarUnit.reset : BarUnit where
  run := false
  garm := false
  staged := BarCfg.reset
  cfg := BarCfg.reset
  running := false
  cfgReject := false
  captSkip := false
  ovrSat := false
  resumed := false
  cnt := 0
  beat := 0
  barStart := 0
  beatStart := 0
  stretch := 0
  lag := 0
  captNoRest := 0
  lock := false
  ovr := Vector.replicate 16 0
  cores := Vector.replicate 12 CoreBar.reset
  firstAt := none
  nextCnt := 0
  resumeDue := false

/-- The three references of 12 Table 12.1. -/
inductive TRef where
  | pps | ptp | partner
deriving DecidableEq, Repr

/-- What Tempo keeps of one reference: consecutive accepted measurements, whether it is qualified, the count of the last
accepted one, and the base for R505 (its count, its offset and the slew applied by then). -/
structure RefState where
  streak    : Nat
  qualified : Bool
  lastAt    : Option Nat
  lastSlew  : Int
  baseAt    : Option (Nat × Int × Int)
deriving DecidableEq, Repr

/-- A reference after a reset. -/
def RefState.reset : RefState where
  streak := 0
  qualified := false
  lastAt := none
  lastSlew := 0
  baseAt := none

/-- A step scheduled for the next bar boundary (12 R507, R509, R513): its size and whether TIME_SET asked for it. -/
structure TStep where
  amount  : Int
  timeSet : Bool
  held    : Bool
deriving DecidableEq, Repr

/-- The values that a read of TIME_SEC_LO or TCOUNT_0 latched for one initiator (12 R525): the two or five words. -/
structure TLatch where
  who   : Nat
  words : List Word
deriving DecidableEq, Repr

/-- Tempo. Times are integers of 1 ns; `slewDone` is the slew applied since the last reset, for R501 and R505;
`freqAt` is FREQ at the last accepted measurement (R518); `secDone` is the second whose increase has been handled (R521); `lockO`
is the |O| of LOCKED (Table 12.3), `refErr` REF_ERR of the last measurement, `partnerErr` that of the partner. -/
structure Tempo where
  count     : Nat
  offset    : Int
  refEn     : BitVec 3
  autoStep  : Bool
  ppsoEn    : Bool
  stepReq   : Bool
  ppsPol    : Bool
  code      : BitVec 4
  ref       : Option TRef
  valid     : Bool
  flags     : BitVec 7
  estErr    : Word
  e0        : Word
  refErr    : Nat
  partnerErr : Nat
  lockO     : Nat
  holdFrom  : Nat
  holdLimit : BitVec 16
  errLimit  : Word
  holdDrift : BitVec 16
  freq      : Word
  freqAt    : Word
  secDone   : Int
  slewRem   : Int
  slewFrac  : Nat
  slewDone  : Int
  nsRem     : Nat
  slewRate  : BitVec 8
  lastO     : Word
  ppsCap    : BitVec 30
  pend      : Int
  ppsoWidth : BitVec 9
  ptpTmo    : BitVec 6
  ien       : BitVec 7
  step      : Option TStep
  pps       : RefState
  ptp       : RefState
  partner   : RefState
  ppsOut    : Bool
  ppsRise   : Option Nat
  timeLatch : List TLatch
  cntLatch  : List TLatch
deriving DecidableEq, Repr

/-- Tempo after a VAON loss (12 R529): count 0, time 0, code FREE. -/
def Tempo.reset : Tempo where
  count := 0
  offset := 0
  refEn := 0
  autoStep := false
  ppsoEn := false
  stepReq := false
  ppsPol := false
  code := 0
  ref := none
  valid := false
  flags := 0
  estErr := 0xFFFFFF
  e0 := 0xFFFFFF
  refErr := 0
  partnerErr := 0
  lockO := 0
  holdFrom := 0
  holdLimit := 600
  errLimit := 100000
  holdDrift := 100
  freq := 0
  freqAt := 0
  secDone := 0
  slewRem := 0
  slewFrac := 0
  slewDone := 0
  nsRem := 0
  slewRate := 200
  lastO := 0
  ppsCap := 0
  pend := 0
  ppsoWidth := 100
  ptpTmo := 4
  ien := 0
  step := none
  pps := RefState.reset
  ptp := RefState.reset
  partner := RefState.reset
  ppsOut := false
  ppsRise := none
  timeLatch := []
  cntLatch := []

/-- An interface of Chorus: the monitor interface of a target (0 to 12), or the kernel interface of a Voice core for
one partition tag (08 section 8.3, R317). -/
inductive Iface where
  | monitor (t : Nat)
  | kernel (c : Nat) (p : Nat)
deriving DecidableEq, Repr

/-- One interrupt source: its configuration word fields and its state (08 sections 8.2 and 8.5). `input` is the level that
LEVEL_INPUT_CHANGE holds for a source whose unit this model does not derive (log 21). -/
structure Src where
  prio   : BitVec 5
  en     : Bool
  target : BitVec 4
  mode   : Bool
  part   : BitVec 4
  edge   : Bool
  latch  : Bool
  active : Option Iface
  own    : Bool
  input  : Bool
deriving DecidableEq, Repr

/-- The state of Chorus that Fermata keeps (08 Table 8.8). -/
structure ChRet where
  shared   : Tbl Src
  priv     : Tbl Src
  en       : Bool
  pmaskM   : Tbl (BitVec 6)
  pmaskK   : Tbl (BitVec 6)
  notify   : Tbl Word
deriving DecidableEq, Repr

/-- Chorus. `shared` is keyed by the source number; `priv` by 32 times the target plus the source number less 16;
`pmaskM` and `notify` by the target; `pmaskK` by 16 times the core plus the tag; `timer` by the target: the count of
Tempo at which the target's timer ends, and the value written. A source that is not listed holds its reset value. -/
structure Chorus where
  en        : Bool
  cfgReject : Bool
  badComp   : Bool
  restored  : Bool
  shared    : Tbl Src
  priv      : Tbl Src
  pmaskM    : Tbl (BitVec 6)
  pmaskK    : Tbl (BitVec 6)
  notify    : Tbl Word
  timer     : Tbl (Nat × Bool)
  kept      : Option ChRet
deriving DecidableEq, Repr

/-- Chorus after a warm reset (08 R327). -/
def Chorus.reset : Chorus where
  en := false
  cfgReject := false
  badComp := false
  restored := false
  shared := []
  priv := []
  pmaskM := []
  pmaskK := []
  notify := []
  timer := []
  kept := none

end Sys2Proof.Machine
end

