-- ==== Sys2Proof/Machine/StateCore.lean ====
section
/-! DEFINITION. The state of the Voice cores (04, 05, 07), of the Conductor core (04, 05) and of the caches (06). -/
namespace Sys2Proof.Machine

/-- The three privilege levels of a Voice core (05 R150). -/
inductive Level where
  | user | kernel | monitor
deriving DecidableEq, Repr

/-- A reservation set by LL (04 R130): the line, the address and the size. -/
structure Resv where
  line : Nat
  addr : PAddr
  dbl  : Bool
deriving DecidableEq, Repr

/-- Memory types (07 Table 7.4). -/
inductive MemType where
  | wb | nc | sx
deriving DecidableEq, Repr

/-- The permissions a leaf gives (07 Table 7.4). -/
structure Perms where
  r : Bool
  w : Bool
  x : Bool
  u : Bool
  a : Bool
  d : Bool
deriving DecidableEq, Repr

/-- A combined translation held in a TLB (07 R269 to R273). `s1` and `s2` tell which stages took part, `p1` and `p2` are the
permissions that each stage's leaf gives, and `ga` the stage-2 input of the page. -/
structure TlbEntry where
  page  : Nat
  block : Bool
  ptag  : BitVec 4
  asid  : BitVec 12
  glob  : Bool
  pa    : PAddr
  mt    : MemType
  s1    : Bool
  s2    : Bool
  p1    : Perms
  p2    : Perms
  ga    : PAddr
deriving DecidableEq, Repr

/-- A level-0 or level-1 table entry held in the walk cache (07 Table 7.8, R269). -/
structure WalkEntry where
  stage : Nat
  level : Nat
  addr  : PAddr
  ptag  : BitVec 4
  asid  : BitVec 12
  glob  : Bool
  value : DWord
deriving DecidableEq, Repr

/-- The translation CSRs as they are in force (07 R288): KXLATH:KXLAT, KASID, MXLATH:MXLAT, MPTAG. -/
structure XlatRegs where
  kxlat : DWord
  kasid : BitVec 12
  mxlat : DWord
  mptag : BitVec 4
deriving DecidableEq, Repr

/-- One Voice core: register state (04 Table 4.1), CSRs (05 Table 5.5), translation caches (07 Table 7.8) and the
conditions that stop its issue. CSR pairs are held as one double word, the lower CSR number in bits [23:0]. `lineBuf` holds the
lines of the line buffer, the last fetched first, each with its words that the fetch found bad (06 R185, R186, R209). While
`xlatOpen`, `xlatAlt` holds the translation CSRs that a further CSRWR has replaced (07 R288); `fenceOn` marks the cores that had an
access in progress when a TLBI of this core reached them (07 R284). -/
structure VoiceCore where
  w        : Vector Word 32
  acc      : Vector (BitVec 56) 4
  pc       : DWord
  level    : Level
  fcsr     : Word
  qstat    : Word
  cycle    : DWord
  cycRem   : Nat
  instret  : DWord
  kstatus  : Word
  kvbase   : DWord
  kepc     : DWord
  kcause   : Word
  kdetail  : DWord
  kscratch : Word
  kxlat    : DWord
  kasid    : BitVec 12
  mstatus  : Word
  mvbase   : DWord
  mepc     : DWord
  mcause   : Word
  mdetail  : DWord
  mscratch : Word
  mxlat    : DWord
  mptag    : BitVec 4
  mdeleg   : Word
  mbexp    : Word
  mderr    : Word
  mderrh   : Word
  mgwa     : PAddr
  inForce  : XlatRegs
  xlatOpen : Bool
  xlatAlt  : List XlatRegs
  fenceOn  : BitVec 12
  resv     : Option Resv
  released : Bool
  hush     : Bool
  wfi      : Bool
  barHold  : Bool
  sliceHold : Bool
  startPtr : DWord
  bx       : Option (BitVec 4 × BitVec 5)
  itlb     : List TlbEntry
  dtlb     : List TlbEntry
  l2tlb    : List TlbEntry
  walk     : List WalkEntry
  lineBuf  : List (Nat × BitVec 24)
deriving DecidableEq, Repr

/-- A Voice core as reset leaves it (04 R106, 05 R183 and section 5.7, 07 R291). Registers without a reset value
read 0 (DESIGN CHOICE, log 17). -/
def VoiceCore.reset : VoiceCore where
  w := Vector.replicate 32 0
  acc := Vector.replicate 4 0
  pc := 0
  level := .monitor
  fcsr := 0
  qstat := 0
  cycle := 0
  cycRem := 0
  instret := 0
  kstatus := 0
  kvbase := 0
  kepc := 0
  kcause := 0
  kdetail := 0
  kscratch := 0
  kxlat := 0
  kasid := 0
  mstatus := 0x00000C
  mvbase := 0
  mepc := 0
  mcause := 0
  mdetail := 0
  mscratch := 0
  mxlat := 0
  mptag := 0
  mdeleg := 0
  mbexp := 0
  mderr := 0
  mderrh := 0
  mgwa := 0
  inForce := { kxlat := 0, kasid := 0, mxlat := 0, mptag := 0 }
  xlatOpen := false
  xlatAlt := []
  fenceOn := 0
  resv := none
  released := false
  hush := false
  wfi := false
  barHold := false
  sliceHold := false
  startPtr := 0
  bx := none
  itlb := []
  dtlb := []
  l2tlb := []
  walk := []
  lineBuf := []

/-- Why the Conductor does not execute (05 R181, 19 Table 19.3, 11 R466). -/
inductive CdrRun where
  | running | inReset | halted | sleeping
deriving DecidableEq, Repr

/-- The Conductor core: the C profile (04 section 4.12), its CSRs (05 R180) and its prefetch queue: the addresses of the words it
holds, each with whether its fetch succeeded (06 R189, R198). -/
structure Conductor where
  w        : Vector Word 32
  pc       : DWord
  qstat    : Word
  cycle    : DWord
  cycRem   : Nat
  instret  : DWord
  cstatus  : Word
  cvbase   : DWord
  cepc     : DWord
  ccause   : Word
  cdetail  : DWord
  cscratch : Word
  run      : CdrRun
  wfi      : Bool
  queue    : List (Nat × Bool)
deriving DecidableEq, Repr

/-- The Conductor as a reset leaves it (04 R148, 05 section 5.7), before the sentinel releases it. -/
def Conductor.reset : Conductor where
  w := Vector.replicate 32 0
  pc := 0x800000000000
  qstat := 0
  cycle := 0
  cycRem := 0
  instret := 0
  cstatus := 0
  cvbase := 0
  cepc := 0
  ccause := 0
  cdetail := 0
  cscratch := 0
  run := .inReset
  wfi := false
  queue := []

/-- What the L2 holds of a line while an L1 data cache holds newer words of it (06 R202, R205, R208): its values, its dirty and
poison masks, and the words that the L1 data cache has changed since. -/
structure Below where
  words  : Vector Word 24
  dirty  : BitVec 24
  poison : BitVec 24
  newer  : BitVec 24
deriving DecidableEq, Repr

/-- One cached line of the coherence domain (06 sections 6.4 and 6.5): the values that the domain observes (R211), the dirty and
poison masks, and which caches hold it. `l2` is a mask over sections, `l1d` and `l1i` over cores. `w2` is the way in each
section's L2 and `w3` the way in the L3 slice, as they were allocated (log 9). `below` is what the L2 holds where one L1 data
cache holds newer words. -/
structure CacheLine where
  line   : Nat
  words  : Vector Word 24
  dirty  : BitVec 24
  poison : BitVec 24
  l2     : BitVec 3
  l3     : Bool
  l1d    : BitVec 12
  l1i    : BitVec 12
  w2     : Vector Nat 3
  w3     : Nat
  below  : Option Below
deriving DecidableEq, Repr

/-- A way flush or initialisation in progress (06 R228 to R230, R844). -/
inductive WayOp where
  | flushL2 (s w : Nat) | flushL3 (n w : Nat) | initL2 (s w : Nat) | initL3 (n w : Nat)
deriving DecidableEq, Repr

/-- The caches: lines held and the cache-control block (06 section 6.9). -/
structure Caches where
  lines  : List CacheLine
  l2ways : Vector Word 3
  l3en   : Vector Word 4
  l3iso  : Vector Word 4
  reject : Bool
  short  : Bool
  ops    : List WayOp
deriving DecidableEq, Repr

/-- The caches after a cold reset (06 section 6.9, R234). -/
def Caches.reset : Caches where
  lines := []
  l2ways := Vector.replicate 3 0x0000FF
  l3en := Vector.replicate 4 0x00FFFF
  l3iso := Vector.replicate 4 0
  reject := false
  short := false
  ops := []

end Sys2Proof.Machine
end

