-- ==== Sys2Proof/Machine/StateDuet.lean ====
section
/-! DEFINITION. The state of the Duet link (13) and of Duet redundancy (14). -/
namespace Sys2Proof.Machine

/-- A flit (13 Table 13.4): channel, type, sequence, payload words in use. The CRC word is computed when needed. `gate` is the
sequence of the channel B flit that must have been sent before (13 R569). -/
structure Flit where
  ch  : BitVec 2
  ft  : BitVec 3
  seq : BitVec 12
  payload : List Word
  gate : Option (BitVec 12)
deriving DecidableEq, Repr

/-- One sequenced channel, C or B (13 section 13.3). `store` holds the flits produced and not yet acknowledged, oldest
first, of which the first `sent` have been transmitted since the last replay; `next` is the SEQ of the next flit
produced, `expect` the value E of R545. `unacked` counts flits accepted since the last ACK was sent, and `ackDue` is the
count at which R546 demands one. -/
structure Chan where
  store   : List Flit
  sent    : Nat
  next    : BitVec 12
  expect  : BitVec 12
  nakSent : Bool
  unacked : Nat
  ackDue  : Option Nat
deriving DecidableEq, Repr

/-- A channel at the start of a session (13 Table 13.6). -/
def Chan.reset : Chan where
  store := []
  sent := 0
  next := 0
  expect := 0
  nakSent := false
  unacked := 0
  ackDue := none

/-- The states of the link (13 Table 13.6). -/
inductive LinkState where
  | off | training | up | retrain | fatal
deriving DecidableEq, Repr

/-- What an outstanding transaction of this device is (13 R561, R564): a read or a write of a descriptor, or the
PARTNER_CMD whose request index in its ring is `seq`. -/
inductive TxKind where
  | read (desc localAddr lines : Nat) (irq : Bool)
  | write (desc : Nat) (irq : Bool)
  | command (ring : BitVec 5) (seq : Word) (query : Bool)
deriving DecidableEq, Repr

/-- An outstanding transaction: its tag, its kind, and for a read the words landed so far and the status of an RSP that came
before them. -/
structure Txn where
  tag  : BitVec 12
  kind : TxKind
  got  : Nat
  rsp  : Option (BitVec 8)
deriving DecidableEq, Repr

/-- A data stream of channel B in reception (13 R567, R568): a partner's write into a window, with the status it will be
answered with, or read data for an outstanding read of this device; `head` is the transaction header. -/
structure Landing where
  tag    : BitVec 12
  isRead : Bool
  addr   : Nat
  words  : Nat
  got    : Nat
  status : BitVec 8
  head   : List Word
deriving DecidableEq, Repr

/-- A multi-flit packet of channel C in reception (13 R571): a request for page 16, or a response. -/
structure CPacket where
  isReq : Bool
  tag   : BitVec 12
  need  : Nat
  words : List Word
  status : BitVec 8
deriving DecidableEq, Repr

/-- What the partner's TRAIN flit said (13 section 13.10). -/
structure TrainInfo where
  fmt   : Word
  epoch : Word
  sysId : Word
  lanes : BitVec 4
  width : BitVec 2
  speed : BitVec 2
  drain : Word
  duet  : Word
deriving DecidableEq, Repr

/-- A landing-map window (13 Table 13.10). -/
structure LMap where
  base  : PAddr
  lines : BitVec 18
  valid : Bool
  r     : Bool
  w     : Bool
deriving DecidableEq, Repr

/-- The last SAMPLE accepted (13 Table 13.9): its departure time and its local arrival time, in ns. -/
structure SampleIn where
  t3 : Int
  t2 : Int
deriving DecidableEq, Repr

/-- A PARTNER_CMD that the link unit holds until fewer than 64 transactions are outstanding (13 R564): its ring and request index,
whether its inner command is a query, and the inner packet. -/
structure PartnerReq where
  ring  : BitVec 5
  seq   : Word
  query : Bool
  inner : List Word
deriving DecidableEq, Repr

/-- The Duet link unit (13). `cWait` and `bWait` hold the type and payload of flits whose producer stalls on a full store
(13 R549, R550) or waits for a session, oldest first, with the gate of a flit of channel C. `uncorr` holds for each lane the counts of
Tempo of its last uncorrectable codewords, with their number (R557). `txCount` counts the flits sent since the width in force came
into force, and `lastLane` is the lane of the last one (R540); `lastTrain` is the last TRAIN flit sent. `spilled` counts the flits of the channel B store that lie in the replay
spill region, its oldest ones, and `spillNext` those ever moved there (R550). `resumeSent`: the RESUME of the present retrain has gone out. -/
structure Duet where
  en        : Bool
  tgtWidth  : BitVec 2
  tgtSpeed  : BitVec 2
  train     : Bool
  state     : LinkState
  width     : BitVec 2
  speed     : BitVec 2
  lanes     : BitVec 4
  flags     : BitVec 8
  ien       : BitVec 13
  holdMs    : BitVec 8
  laneMask  : BitVec 4
  localEpoch   : Word
  partnerEpoch : Word
  partnerDrain : Word
  linkDelay : Word
  lastSampleAt : Nat
  partnerHb   : Word
  partnerRole : Word
  hb        : Word
  retrainCnt : Word
  crcErrCnt  : Word
  fecCorr    : Word
  fecUncorr  : Word
  spillBase : PAddr
  spillMw   : BitVec 5
  spilled   : Nat
  spillNext : Nat
  dqBase    : PAddr
  dqSize    : BitVec 11
  dqProd    : Word
  dqCons    : Word
  lmap      : Vector LMap 16
  c         : Chan
  b         : Chan
  bucket    : Nat
  bucketFrac : Nat
  level     : Nat
  levelFrac : Nat
  session   : Bool
  sessEpoch : Word
  holdEnd   : Option Nat
  txns      : List Txn
  nextTag   : BitVec 12
  landing   : Option Landing
  cpacket   : Option CPacket
  inner     : List (Word × BitVec 12)
  info      : Option TrainInfo
  sample    : Option SampleIn
  uncorr    : Vector (List (Nat × Nat)) 4
  txCount   : Nat
  lastLane  : Option (Fin 4)
  lastTrain : Option Flit
  cmdWait   : List PartnerReq
  lastLink  : Option Flit
  lastT     : Option Flit
  lastSent  : Option Flit
  sampleAt  : Nat
  cWait     : List (BitVec 3 × List Word × Option (BitVec 12))
  bWait     : List (BitVec 3 × List Word)
  resumeSent : Bool
deriving DecidableEq, Repr

/-- The link unit after a reset (13 Table 13.10, R581) for a die with the given lanes present. LOCAL_EPOCH is drawn by the
reset operation. -/
def Duet.reset (lanesPresent : BitVec 4) : Duet where
  en := false
  tgtWidth := 2
  tgtSpeed := 2
  train := false
  state := .off
  width := 0
  speed := 0
  lanes := 0
  flags := 0
  ien := 0
  holdMs := 25
  laneMask := lanesPresent
  localEpoch := 0
  partnerEpoch := 0
  partnerDrain := 0
  linkDelay := 0
  lastSampleAt := 0
  partnerHb := 0
  partnerRole := 0
  hb := 0
  retrainCnt := 0
  crcErrCnt := 0
  fecCorr := 0
  fecUncorr := 0
  spillBase := 0
  spillMw := 0
  spilled := 0
  spillNext := 0
  dqBase := 0
  dqSize := 0
  dqProd := 0
  dqCons := 0
  lmap := Vector.replicate 16 { base := 0, lines := 0, valid := false, r := false, w := false }
  c := Chan.reset
  b := Chan.reset
  bucket := 0
  bucketFrac := 0
  level := 0
  levelFrac := 0
  session := false
  sessEpoch := 0
  holdEnd := none
  txns := []
  nextTag := 0
  landing := none
  cpacket := none
  inner := []
  info := none
  sample := none
  uncorr := Vector.replicate 4 []
  txCount := 0
  lastLane := none
  lastTrain := none
  cmdWait := []
  lastLink := none
  lastT := none
  lastSent := none
  sampleAt := 0
  cWait := []
  bWait := []
  resumeSent := false

/-- The roles of 14 Table 14.1. -/
inductive Role where
  | none | active | handover | syncing | standby | deposed
deriving DecidableEq, Repr

/-- The Refrain stream of the active device (14 R600 to R604): number, base, the next line not yet streamed, the words
waiting for a full payload, the running CRC, and whether its CK_END has been produced. -/
structure Stream where
  n      : Word
  next   : Nat
  buf    : List Word
  crc    : Word
  ended  : Bool
deriving DecidableEq, Repr

/-- The checkpoint that a standby is receiving (14 R606, R610): head words, body words, running CRC. -/
structure CkRx where
  head : List Word
  body : List Word
  crc  : Word
deriving DecidableEq, Repr

/-- Redundancy: Refrain registers, role, baton and fence (14). `flags` are RF_STAT [15:8]. `replyDue`: a CK_END has been
produced and its CK_REPLY has not come; `headWait` is a CK_HEAD that waits for that reply (R605). `trained`: a training has
exchanged versions, of which `protoOk`, `protoVer` and `partnerFmt` tell the outcome (R592, R593). `takeover` waits for the
next bar boundary (R615). `handStep`: 1 waits for a capture, 2 for its CK_REPLY, 3 for the bar boundary (R617). -/
structure Refrain where
  en        : Bool
  k         : BitVec 7
  role      : Role
  disarmed  : Bool
  applying  : Bool
  flags     : BitVec 8
  term      : BitVec 16
  lastCommit  : Word
  lastApplied : Option Word
  ckBar     : DWord
  ckTime    : BitVec 72
  lateCnt   : Word
  rejectCnt : Word
  lastResult : BitVec 8
  batonTo   : BitVec 7
  batonAge  : BitVec 7
  hbAge     : BitVec 7
  trained   : Bool
  protoOk   : Bool
  protoVer  : BitVec 8
  partnerFmt : BitVec 8
  ien       : BitVec 8
  oneStale  : Bool
  takeover  : Bool
  fenceDue  : Bool
  fence     : Bool
  batonOut  : Bool
  activeN   : Bool
  stream    : Option Stream
  rx        : Option CkRx
  log       : Option (Word × List Word)
  handStep  : BitVec 2
  handBars  : Nat
  takeActive : Bool
  partnerSeen : Bool
  barsSinceRole : Nat
  replyDue  : Bool
  headWait  : Option (List Word)
deriving DecidableEq, Repr

/-- Redundancy after a reset (14 R626). On a variant without a Duet link the fence is never engaged (R587). -/
def Refrain.reset (present : Bool) : Refrain where
  en := false
  k := 4
  role := .none
  disarmed := false
  applying := false
  flags := 0
  term := 0
  lastCommit := 0
  lastApplied := none
  ckBar := 0
  ckTime := 0
  lateCnt := 0
  rejectCnt := 0
  lastResult := 0
  batonTo := 5
  batonAge := 0
  hbAge := 0
  trained := false
  protoOk := false
  protoVer := 0
  partnerFmt := 0
  ien := 0
  oneStale := false
  takeover := false
  fenceDue := false
  fence := present
  batonOut := false
  activeN := true
  stream := none
  rx := none
  log := none
  handStep := 0
  handBars := 0
  takeActive := false
  partnerSeen := false
  barsSinceRole := 0
  replyDue := false
  headWait := none

end Sys2Proof.Machine
end

