-- ==== Sys2Proof/Machine/StateHealth.lean ====
section
/-! DEFINITION. The state of Rehearsal and the Fault ledger (15), of Score trace (16) and of power and reset (19). -/
namespace Sys2Proof.Machine

/-- A slice in progress (15 R629): its number, its start, and whether REH_RUN asked for it or it is a retest (R636). -/
structure Slice where
  num    : BitVec 13
  start  : Nat
  asked  : Bool
  retest : Bool
deriving DecidableEq, Repr

/-- The history of one slice (10 REH_STATUS): runs, fails, overruns, last result. -/
structure SliceHist where
  runs : Word
  fails : Word
  overruns : Word
  last : Word
deriving DecidableEq, Repr

/-- An entry of the Health event queue (15 Table 15.10); `svc` is the service second of the event (15 R644). -/
structure HEvent where
  src  : BitVec 12
  kind : BitVec 2
  time : Word
  svc  : Nat
deriving DecidableEq, Repr

/-- States of a ledger source (15 Table 15.5). -/
inductive LState where
  | clean | transient | lasting | repaired | unrepairable
deriving DecidableEq, Repr

/-- A ledger source (15 R643, R653). `nextLeak` is the service second of the next leak while C is above 0. -/
structure LSrc where
  c      : Nat
  window : Nat
  thresh : Nat
  state  : LState
  events : Word
  hour   : Word
  nextLeak : Nat
deriving DecidableEq, Repr

/-- Rehearsal and the Fault ledger (15). `nextNum` is the lowest slice number that the cycle has still to run; `hourAt` is the
service second of the next hour, `noticeAt` the service hour of the last re-score notice. -/
structure Health where
  rehEn     : Bool
  fail      : Bool
  overrun   : Bool
  coverLate : Bool
  sets      : BitVec 7
  period    : BitVec 8
  last      : Word
  lastDur   : Word
  cycles    : Word
  ovrCnt    : Word
  failCnt   : Word
  running   : Option Slice
  retests   : List (BitVec 13)
  nextNum   : Nat
  cycleTime : Nat
  lateSet   : Bool
  hist      : Tbl SliceHist
  evq       : List HEvent
  ovf       : Bool
  lost      : Word
  ageSec    : Vector Word 3
  mirror    : Vector Word 64
  ledger    : Tbl LSrc
  flashLedger : Tbl LSrc
  flashMirror : Vector Word 64
  repairs   : List Nat
  hourAt    : Nat
  noticeAt  : Nat
deriving DecidableEq, Repr

/-- Health when VAON is applied (15 Table 15.10, R664). -/
def Health.reset : Health where
  rehEn := false
  fail := false
  overrun := false
  coverLate := false
  sets := 0x7F
  period := 24
  last := 0
  lastDur := 0
  cycles := 0
  ovrCnt := 0
  failCnt := 0
  running := none
  retests := []
  nextNum := 0
  cycleTime := 0
  lateSet := false
  hist := []
  evq := []
  ovf := false
  lost := 0
  ageSec := Vector.replicate 3 0
  mirror := Vector.replicate 64 0
  ledger := []
  flashLedger := []
  flashMirror := Vector.replicate 64 0
  repairs := []
  hourAt := 3600
  noticeAt := 0

/-- Trace states of a partition in a section (16 Table 16.2). -/
inductive PtState where
  | idle | armed | triggered | stopped
deriving DecidableEq, Repr

/-- One partition's trace in one section (16 Tables 16.5 and 16.6). `raddr` holds one read index for each path: the
page, the monitor's mirror, the debug port's mirror (R687). `uncopied` counts stream words not yet copied to DRAM;
`dropped` counts the packets lost since the last LOST packet. -/
structure TracePart where
  ctl     : BitVec 7
  delay   : Word
  taddr   : DWord
  state   : PtState
  flags   : BitVec 3
  wptr    : Nat
  wrap    : Bool
  lostCnt : Word
  raddr   : Vector Nat 3
  dcount  : Nat
  trigCore : Nat
  strmBase : PAddr
  strmLines : BitVec 20
  strmWptr : Nat
  uncopied : Nat
  dropped : Nat
  dropCore : Fin 4
deriving DecidableEq, Repr

/-- A partition's trace after a cold reset (16 R692). -/
def TracePart.reset : TracePart where
  ctl := 0
  delay := 0
  taddr := 0
  state := .idle
  flags := 0
  wptr := 0
  wrap := false
  lostCnt := 0
  raddr := Vector.replicate 3 0
  dcount := 0
  trigCore := 0
  strmBase := 0
  strmLines := 0
  strmWptr := 0
  uncopied := 0
  dropped := 0
  dropCore := 0

/-- One core's trace unit (16 R671, R672): branch outcomes not yet written, newest first; for each partition the section
cycle of its previous packet; and the partition being recorded. -/
structure TraceCore where
  atom : List Bool
  last : Tbl Nat
  inPart : Option (BitVec 4)
deriving DecidableEq, Repr

/-- The trace of one section (16 Table 16.6). -/
structure TraceSec where
  segOwn : Vector (BitVec 4) 16
  sstat  : BitVec 5
  sien   : BitVec 5
  pselM  : BitVec 4
  pselD  : BitVec 4
  parts  : Vector TracePart 16
  cores  : Vector TraceCore 4
  buf    : Memory
deriving DecidableEq, Repr

/-- A section's trace after a cold reset (16 R692). -/
def TraceSec.reset : TraceSec where
  segOwn := Vector.replicate 16 0
  sstat := 0
  sien := 0
  pselM := 0
  pselD := 0
  parts := Vector.replicate 16 TracePart.reset
  cores := Vector.replicate 4 { atom := [], last := [], inPart := none }
  buf := []

/-- Power states (19 Table 19.1) and what holds the device in reset. `coda` tells whether MAINPWR_EN has risen and at
which moment of always-on time the rails are awaited. -/
inductive PwrState where
  | porst | thermal | brownout | play | fermata | coda | codaWait
deriving DecidableEq, Repr

/-- Power, reset, the always-on counter and the system-control registers that are not fixed (19, 12 section 12.8). `wakeDue` is a wake
event that came while entry to sleep was in progress (19 Table 19.9); `instant` tells that no time has passed since the last reset (03
R98, log 36). -/
structure Power where
  state     : PwrState
  rstrsn    : Word
  lastSleep : BitVec 2
  fwake     : Bool
  pwrFail   : Bool
  thermWarn : Bool
  supplyWarn : Bool
  wakeMask  : BitVec 6
  wakeStat  : BitVec 6
  wakeSec   : DWord
  wakeGpio  : BitVec 64
  resume    : DWord
  wdogPeriod : BitVec 16
  wdogEnd   : Option Nat
  therm     : BitVec 10
  secClk    : Vector (BitVec 12) 3
  secCyc    : Vector Nat 3
  secRem    : Vector Nat 3
  supplyLow : BitVec 5
  tjHot     : Bool
  tripped   : Bool
  mainPwrEn : Bool
  aonSec    : DWord
  aonFrac   : Nat
  aonLoaded : Bool
  service   : Nat
  wasReleased : BitVec 12
  wakeDue   : Option WakeEvent
  instant   : Bool
deriving DecidableEq, Repr

/-- Power state when VAON has just been applied with PORST_N low (19 R763, log 19). -/
def Power.reset : Power where
  state := .porst
  rstrsn := 0x001001
  lastSleep := 0
  fwake := false
  pwrFail := false
  thermWarn := false
  supplyWarn := false
  wakeMask := 0
  wakeStat := 0
  wakeSec := 0
  wakeGpio := 0
  resume := 0
  wdogPeriod := 1000
  wdogEnd := none
  therm := 0
  secClk := Vector.replicate 3 2400
  secCyc := Vector.replicate 3 0
  secRem := Vector.replicate 3 0
  supplyLow := 0
  tjHot := false
  tripped := false
  mainPwrEn := true
  aonSec := 0
  aonFrac := 0
  aonLoaded := false
  service := 0
  wasReleased := 0
  wakeDue := none
  instant := false

end Sys2Proof.Machine
end

