-- ==== Sys2Proof/Machine/State.lean ====
section
/-! DEFINITION. The state of the block, the reasons for which a step stops, and the state when power has just been
applied. -/
namespace Sys2Proof.Machine

/-- The variants of 00 Table 0.1. -/
inductive Variant where
  | mrn2412 | mrn2408 | mrn2404
deriving DecidableEq, Repr

/-- What manufacture fused into the die (00 R1, 03 section 3.6): variant, grade F or S, stepping. -/
structure Die where
  variant : Variant
  gradeF  : Bool
  letter  : BitVec 8
  digit   : BitVec 8
  index   : BitVec 5
deriving DecidableEq, Repr

/-- The whole block. `stageBad` lists the words of Stage SRAM that hold poison, rising (06 R209); `free` counts the free values
drawn (log 7); `pending` is the queue of waiting commands. -/
structure State where
  die     : Die
  cores   : Vector VoiceCore 12
  cdr     : Conductor
  dram    : Memory
  chk     : Tbl (BitVec 8)
  stage   : Memory
  stageBad : List Nat
  csram   : Memory
  flash   : Memory
  xflash  : Memory
  caches  : Caches
  bar     : BarUnit
  tempo   : Tempo
  chorus  : Chorus
  mc      : MemCtl
  echo    : Echo
  rings   : Rings
  bm      : BufMan
  boot    : Boot
  duet    : Duet
  refrain : Refrain
  health  : Health
  trace   : Vector TraceSec 3
  io      : FieldIo
  pwr     : Power
  free    : Nat
  pending : List Instr
deriving DecidableEq, Repr

/-- Why the block stops. -/
inductive Fault where
  /-- Raised by PORST_N_RELEASE when a main rail has been in range for less than 1 ms and no rail is below its reset level:
  "Operation is not specified (R762)" (20 Table 20.18). Safe: the model stops where the part's operation has no meaning. -/
  | releasedTooEarly
deriving DecidableEq, Repr

/-- Why a command has no meaning in the model. -/
inductive Refusal where
  /-- Raised by an arm of exec for a command that is not modelled. Safe: the model stops. -/
  | notModelled (mnemonic : String)
deriving DecidableEq, Repr

/-- The block when VAON has been applied and PORST_N is still low (19 R763; log 1, log 18, log 19): every unit holds its
reset values, no memory holds anything, no fuse is blown, and the queue is empty. -/
def State.reset : State where
  die := { variant := .mrn2412, gradeF := false, letter := 0x42, digit := 0, index := 2 }
  cores := Vector.replicate 12 VoiceCore.reset
  cdr := Conductor.reset
  dram := []
  chk := []
  stage := []
  stageBad := []
  csram := []
  flash := []
  xflash := []
  caches := Caches.reset
  bar := BarUnit.reset
  tempo := Tempo.reset
  chorus := Chorus.reset
  mc := MemCtl.reset
  echo := Echo.reset
  rings := Rings.reset
  bm := BufMan.reset
  boot := Boot.reset
  duet := Duet.reset 0xF
  refrain := Refrain.reset true
  health := Health.reset
  trace := Vector.replicate 3 TraceSec.reset
  io := FieldIo.reset
  pwr := Power.reset
  free := 0
  pending := []

end Sys2Proof.Machine
end

