-- ==== Sys2Proof/Machine/Ops.lean ====
section
/-! DEFINITION. Named operations over the state that every family shares: what the variant provides, cores, free values,
Tempo time, the passing of time, edges presented to Chorus, and events posted to the Health queue. -/
namespace Sys2Proof.Machine

/-! What the variant provides (00 Table 0.1). -/

/-- Voice cores present. -/
def Variant.voices : Variant → Nat
  | .mrn2412 => 12 | .mrn2408 => 8 | .mrn2404 => 4
/-- Sections present. -/
def Variant.sections : Variant → Nat
  | .mrn2412 => 3 | .mrn2408 => 2 | .mrn2404 => 1
/-- L3 slices present. -/
def Variant.slices : Variant → Nat
  | .mrn2412 => 4 | .mrn2408 => 4 | .mrn2404 => 2
/-- Duet lanes present. -/
def Variant.lanes : Variant → Nat
  | .mrn2412 => 4 | .mrn2408 => 2 | .mrn2404 => 0
/-- Whether the Duet link, Refrain and Echo are present. -/
def Variant.duet (v : Variant) : Bool := v.lanes != 0
/-- Whether Score trace is present. -/
def Variant.trace : Variant → Bool
  | .mrn2404 => false | _ => true
/-- Accent comparators present. -/
def Variant.acmps : Variant → Nat
  | .mrn2404 => 4 | _ => 8
/-- Ethernet MACs present. -/
def Variant.eths : Variant → Nat
  | .mrn2404 => 1 | _ => 2
/-- CAN FD controllers present. -/
def Variant.cans : Variant → Nat
  | .mrn2404 => 2 | _ => 4
/-- SYS_ID (03 section 3.6). -/
def Variant.sysId : Variant → Word
  | .mrn2412 => 0x4D2412 | .mrn2408 => 0x4D2408 | .mrn2404 => 0x4D2404
/-- SYS_CAPS (03 R96). -/
def Variant.sysCaps : Variant → Word
  | .mrn2412 => 0x4A393C | .mrn2408 => 0x4A3528 | .mrn2404 => 0x250094
/-- The lanes present, as a mask. -/
def Variant.laneMask (v : Variant) : BitVec 4 := BitVec.ofNat 4 (2 ^ v.lanes - 1)

/-- Whether Voice core `c` is present. -/
def State.hasCore (s : State) (c : Nat) : Bool := c < s.die.variant.voices
/-- The mask of the Voice cores present. -/
def State.coreMask (s : State) : BitVec 12 := BitVec.ofNat 12 (2 ^ s.die.variant.voices - 1)
/-- The highest Voice clock in units of 100 MHz (03 SYS_GRADE). -/
def State.fmax (s : State) : Nat := if s.die.gradeF then 20 else 24
/-- SYS_STEP (03 section 3.6). -/
def State.sysStep (s : State) : Word :=
  (s.die.index.setWidth 24 <<< 16) ||| (s.die.letter.setWidth 24 <<< 8) ||| s.die.digit.setWidth 24
/-- The section of a core. -/
def sectionOf (c : Fin 12) : Fin 3 := ⟨c.val / 4, by have := c.isLt; omega⟩
/-- The core numbers. -/
def allCores : List (Fin 12) := List.finRange 12
/-- The present cores. -/
def State.presentCores (s : State) : List (Fin 12) := allCores.filter fun c => s.hasCore c
/-- The present cores of a section. -/
def State.coresOf (s : State) (sec : Fin 3) : List (Fin 12) := s.presentCores.filter fun c => sectionOf c = sec

/-- The device runs: it is in Play (with Hush), not held in reset and not asleep (19 Table 19.1). -/
def State.on (s : State) : Bool := s.pwr.state = .play

/-! Cores. -/

/-- Voice core `c`. -/
def State.core (s : State) (c : Fin 12) : VoiceCore := s.cores[c]
/-- The state with Voice core `c` replaced. -/
def State.setCore (s : State) (c : Fin 12) (v : VoiceCore) : State := { s with cores := s.cores.set c v }
/-- The state with Voice core `c` changed. -/
def State.modCore (s : State) (c : Fin 12) (f : VoiceCore → VoiceCore) : State := s.setCore c (f (s.core c))
/-- The state with every Voice core changed. -/
def State.mapCores (s : State) (f : Fin 12 → VoiceCore → VoiceCore) : State :=
  { s with cores := Vector.ofFn fun c => f c (s.core c) }
/-- The Bar unit's block of core `c`. -/
def State.cbar (s : State) (c : Fin 12) : CoreBar := s.bar.cores[c]
/-- The state with the Bar unit's block of core `c` changed. -/
def State.modCbar (s : State) (c : Fin 12) (f : CoreBar → CoreBar) : State :=
  { s with bar := { s.bar with cores := s.bar.cores.set c (f (s.cbar c)) } }

/-- Some stalled write belongs to this initiator (09 R371). -/
def State.stalledBy (s : State) (w : Initiator) : Bool := s.echo.stalled.any fun x => x.who = some w

/-- A free value's number, and the state that has used it (log 7). -/
def State.draw (s : State) : Nat × State := (s.free, { s with free := s.free + 1 })

/-! Interrupt sources (08 sections 8.1 and 8.2). -/

/-- Key of a private source in `Chorus.priv`. -/
def privKey (t : Nat) (src : Nat) : Nat := 32 * t + (src - 16)

/-- KIND of a shared source or doorbell at reset (08 Table 8.3): doorbells, the PPS edge and the comparators are edges. -/
def sharedEdge (n : Nat) : Bool := n < 16 || n = 50 || (192 ≤ n && n ≤ 199)

/-- A shared source at reset (08 section 8.5). -/
def sharedReset (n : Nat) : Src where
  prio := 31
  en := false
  target := 12
  mode := false
  part := 0
  edge := sharedEdge n
  latch := false
  active := none
  own := false
  input := false

/-- A private source at reset: TARGET is its target; source 18 reads PRIO 0 and EN 1 (08 section 8.5). -/
def privReset (t src : Nat) : Src where
  prio := if src = 18 then 0 else 31
  en := src = 18
  target := BitVec.ofNat 4 t
  mode := false
  part := 0
  edge := src ≠ 16 && src ≠ 21
  latch := false
  active := none
  own := false
  input := false

/-- A source is private when its number lies in 16 to 47 (08 Table 8.1). -/
def isPriv (n : Nat) : Bool := 16 ≤ n && n ≤ 47

/-- The source `n`, private to target `t` where it is private. -/
def Chorus.src (ch : Chorus) (t n : Nat) : Src :=
  if isPriv n then Tbl.get ch.priv (privKey t n) (privReset t n) else Tbl.get ch.shared n (sharedReset n)

/-- Chorus with one source replaced. -/
def Chorus.setSrc (ch : Chorus) (t n : Nat) (x : Src) : Chorus :=
  if isPriv n then { ch with priv := Tbl.put ch.priv (privKey t n) x } else { ch with shared := Tbl.put ch.shared n x }

/-- Whether a source exists on this device (08 R298): shared sources of absent units, private sources of absent cores, and
the reserved sources do not. -/
def State.srcPresent (s : State) (t n : Nat) : Bool :=
  let v := s.die.variant
  if isPriv n then
    (if t = 12 then n = 16 || n = 17 || n = 20 else t < v.voices && n ≤ 21 && (n ≠ 19 || v.trace))
  else if n = 83 || 204 ≤ n then false
  else if n = 53 || n = 54 || n = 55 || n = 56 || n = 81 then v.duet
  else if 60 ≤ n && n ≤ 62 then v.trace && n - 60 < v.sections
  else if 88 ≤ n && n ≤ 91 then v.eths = 2
  else if 92 ≤ n && n ≤ 99 then (n - 92) / 2 < v.cans
  else if 192 ≤ n && n ≤ 199 then n - 192 < v.acmps
  else true

/-- A rising edge of an edge source sets its latch (08 R300, R302). -/
def State.edge (s : State) (t n : Nat) : State :=
  let x := s.chorus.src t n
  if s.srcPresent t n && x.edge then { s with chorus := s.chorus.setSrc t n { x with latch := true } } else s

/-! Health events (15 section 15.2.1). -/

/-- The error arises in a way or core that a running slice isolates: it is not posted separately (15 R641). -/
def State.isolated (s : State) (src : BitVec 12) : Bool :=
  match s.health.running with
  | none => false
  | some sl =>
    let set := (bits sl.num 8 5).toNat
    let inst := bits sl.num 0 8
    let cls := (bits src 8 4).toNat
    bits src 0 8 = inst &&
      ((set = 0 && cls = 3) || (set = 1 && cls = 4) || (set = 2 && (cls = 1 || cls = 2 || cls = 7)) ||
        (set = 3 && (cls = 1 || cls = 2 || cls = 7)))

/-- The ledger source exists on this device (15 R639, Table 15.3): its class is listed and its instance is present. -/
def State.ledgerSource (s : State) (src : BitVec 12) : Bool :=
  let v := s.die.variant
  let i := (bits src 0 8).toNat
  match (bits src 8 4).toNat with
  | 1 => i < v.voices
  | 2 => i < v.voices
  | 3 => i < 9 * v.sections
  | 4 => i < 17 * v.slices
  | 5 => i < 21
  | 6 => i < v.lanes
  | 7 => i < v.voices
  | 8 => i < 3
  | 9 => i < 4
  | 10 => i = 0
  | 11 => i < v.sections
  | _ => false

/-- An event is posted to the Health event queue, or dropped when it holds 256 entries (15 R642). An event of an absent unit
is never posted (15 section 15.2.1). -/
def State.post (s : State) (src : BitVec 12) (kind : BitVec 2) : State :=
  if s.isolated src || !s.ledgerSource src then s
  else if 256 ≤ s.health.evq.length then
    { s with health := { s.health with lost := satInc s.health.lost, ovf := true } }
  else { s with health := { s.health with evq := s.health.evq ++ [{ src, kind, time := lo24 s.pwr.aonSec, svc := s.pwr.service }] } }

/-! Tempo time (12 R498, R500, Table 12.2). -/

/-- Tempo time in ns. -/
def Tempo.time (t : Tempo) : Int := t.count + t.offset
/-- Whole seconds of a time. -/
def secondsOf (i : Int) : Int := i / 1000000000
/-- Nanoseconds of second of a time. -/
def nanosOf (i : Int) : Nat := (i % 1000000000).toNat
/-- A time in the three-word format of 12 R500. -/
def r500 (i : Int) : List Word :=
  let sec := BitVec.ofInt 48 (secondsOf i)
  let ns := BitVec.ofNat 30 (nanosOf i)
  [lo24 sec, ((ns >>> 24).setWidth 24 <<< 18) ||| ((sec >>> 24).setWidth 18).setWidth 24, ns.setWidth 24]
/-- The time that three words in the format of 12 R500 give, without their range check. -/
def ofR500 (a b c : Word) : Int :=
  ((a.toNat + (bits b 0 18).toNat * 2 ^ 24 : Nat) : Int) * 1000000000 + ((bits b 18 6).toNat * 2 ^ 24 + c.toNat : Nat)

/-- REF of the quality word. -/
def refCode : Option TRef → BitVec 3
  | none => 0
  | some .pps => 1
  | some .ptp => 2
  | some .partner => 3

/-- ERR_LOG: the smallest n up to 24 with EST_ERR ≤ 2^n (12 Table 12.2). -/
def errLog (e : Word) : Nat := ((List.range 24).find? fun n => e.toNat ≤ 2 ^ n).getD 24

/-- The quality word (12 Table 12.2). -/
def Tempo.quality (t : Tempo) : Word :=
  t.code.setWidth 24 ||| ((refCode t.ref).setWidth 24 <<< 4) ||| flag 24 7 t.valid |||
    (BitVec.ofNat 24 (errLog t.estErr) <<< 8)

/-! The passing of time (log 3). -/

/-- SLEW_RATE in ppm as it is taken (12 Table 12.4). -/
def Tempo.rate (t : Tempo) : Nat := if 1 ≤ t.slewRate.toNat ∧ t.slewRate.toNat ≤ 200 then t.slewRate.toNat else 200

/-- Slew applied while `dt` counts pass (12 R508). -/
def Tempo.slew (t : Tempo) (dt : Nat) : Tempo :=
  if t.slewRem = 0 then { t with slewFrac := 0 }
  else
    let total := t.slewFrac + dt * t.rate
    let amount : Int := min (total / 1000000 : Nat) t.slewRem.natAbs
    let signed := if 0 < t.slewRem then amount else -amount
    { t with slewRem := t.slewRem - signed, slewDone := t.slewDone + signed, slewFrac := total % 1000000 }

/-- Parts of 10^11 by which the count runs faster or slower than the TCXO while FREQ is in force (12 R497). -/
def Tempo.pace (t : Tempo) : Nat := (100000000000 + t.freq.toInt).toNat

/-- Nanoseconds of the TCXO in which `dt` counts pass, and what is left over: the counts that the slew inserted are taken out, and
the rest runs at 10^9 × (1 + FREQ) (12 R497, R508). `t` has the slew applied, `before` has not. -/
def Tempo.tcxo (before t : Tempo) (dt : Nat) : Nat × Nat :=
  let total := ((dt : Int) - (t.slewDone - before.slewDone)).toNat * 100000000000 + t.nsRem
  (total / t.pace, total % t.pace)

/-- Counts in which `ns` nanoseconds of the TCXO pass: those of its pace, and those that the slew inserts or drops meanwhile, whose
number settles after a few rounds (12 R497, R508). -/
def Tempo.countsFor (t : Tempo) (ns : Nat) : Nat :=
  let steady := (t.pace * ns - t.nsRem + 99999999999) / 100000000000
  let again (dt : Nat) : Nat := (steady + ((t.slew dt).slewDone - t.slewDone)).toNat
  Nat.repeat again 8 steady

/-- A core's CYCLE after `n` clock cycles, and whether it wrapped. -/
def cycleAfter (c : DWord) (n : Nat) : DWord × Bool := (c + BitVec.ofNat 48 n, decide (2 ^ 48 ≤ c.toNat + n))

/-- The clock of a section in MHz. -/
def State.mhz (s : State) (sec : Fin 3) : Nat := (s.pwr.secClk[sec]).toNat

/-- CYCLE of one core after `dt` nanoseconds of the TCXO; a wrap raises private source 20 (08 Table 8.2). -/
def State.runCycles (s : State) (dt : Nat) (c : Fin 12) : State :=
  let v := s.core c
  if v.released && !v.hush then
    let total := v.cycRem + dt * s.mhz (sectionOf c)
    let r := cycleAfter v.cycle (total / 1000)
    let s := s.setCore c { v with cycle := r.1, cycRem := total % 1000 }
    if r.2 then s.edge c 20 else s
  else s

/-- CYCLE of the Conductor, whose clock is 400 MHz (01 Table 1.3). -/
def State.runCdrCycles (s : State) (dt : Nat) : State :=
  if s.cdr.run = .running then
    let total := s.cdr.cycRem + dt * 400
    let r := cycleAfter s.cdr.cycle (total / 1000)
    let s := { s with cdr := { s.cdr with cycle := r.1, cycRem := total % 1000 } }
    if r.2 then s.edge 12 20 else s
  else s

/-- The delay count of a TRIGGERED partition advances in each section cycle in which a core of the section records it
(16 R680). -/
def TraceSec.runDelay (t : TraceSec) (cycles : Nat) : TraceSec :=
  { t with parts := Vector.ofFn fun p =>
      let x := t.parts[p]
      if x.state = .triggered && t.cores.toList.any (fun c => c.inPart = some (BitVec.ofNat 4 p.val))
      then { x with dcount := x.dcount + cycles } else x }

/-- Section cycles after `dt` nanoseconds of the TCXO. -/
def State.runSection (s : State) (dt : Nat) (sec : Fin 3) : State :=
  let total := s.pwr.secRem[sec] + dt * s.mhz sec
  let cyc := total / 1000
  { s with
    pwr := { s.pwr with secCyc := s.pwr.secCyc.set sec (s.pwr.secCyc[sec] + cyc), secRem := s.pwr.secRem.set sec (total % 1000) }
    trace := s.trace.set sec (s.trace[sec].runDelay cyc) }

/-- The always-on seconds counter and the service time after `ns` nanoseconds (12 section 12.8, 15 R657). -/
def Power.runAon (p : Power) (ns : Nat) : Power :=
  let total := p.aonFrac + ns
  { p with aonSec := p.aonSec + BitVec.ofNat 48 (total / 1000000000), aonFrac := total % 1000000000, service := p.service + total / 1000000000
           instant := p.instant && ns = 0 }

/-- LAND_DRAIN by SPEED code (09 Table 9.6a). -/
def drainOf (speed : BitVec 3) : Nat :=
  match speed.toNat with
  | 0 => 1296 | 1 => 1511 | 2 => 1727 | 3 => 1944 | 4 => 2159 | 5 => 2375 | 6 => 2592 | _ => 0

/-- LAND_DRAIN (09 R359). -/
def MemCtl.landDrain (m : MemCtl) : Nat := if m.ready then drainOf m.speed else 0

/-- Words of PACE_WORDS (13 R554). -/
def Duet.paceWords (d : Duet) : Nat := d.partnerDrain.toNat * 20

/-- The pace bucket refills and the landing SRAM drains while `dt` counts pass (13 R554, R556; 09 R359). -/
def Duet.run (d : Duet) (drain dt : Nat) : Duet :=
  let fill := d.bucketFrac + dt * d.partnerDrain.toNat
  let out := d.levelFrac + dt * drain
  { d with bucket := min d.paceWords (d.bucket + fill / 1000), bucketFrac := fill % 1000, level := d.level - out / 1000, levelFrac := out % 1000 }

/-- `dt` counts of Tempo pass while the device runs; the clocks of the cores and the always-on seconds follow the TCXO (01 Table 1.3,
log 3). -/
def State.elapse (s : State) (dt : Nat) : State :=
  if dt = 0 then s
  else
    let t := s.tempo.slew dt
    let r := s.tempo.tcxo t dt
    let s := { s with tempo := { t with count := t.count + dt, nsRem := r.2 }, pwr := s.pwr.runAon r.1, duet := s.duet.run s.mc.landDrain dt }
    let s := if s.bar.run then { s with health := { s.health with cycleTime := s.health.cycleTime + dt } } else s
    let s := s.presentCores.foldl (fun s c => s.runCycles r.1 c) s
    let s := (List.finRange 3).foldl (fun s sec => s.runSection r.1 sec) s
    s.runCdrCycles r.1

/-- Time passes up to the count `at_`, if it is still ahead (log 3). -/
def State.until (s : State) (at_ : Nat) : State := s.elapse (at_ - s.tempo.count)

/-- What the block does when no command waits (log 3): one Tempo count passes while the device runs. -/
def tick (s : State) : State := if s.on then s.elapse 1 else s

/-! Beats (02 section 2.2). -/

/-- Entry `k` of a table of six words (02 R24). -/
def tableEntry (ws : Vector Word 6) (k : Nat) : BitVec 6 := bits (ws.toList.getD (k / 4) 0) (6 * (k % 4)) 6
/-- Beat type of an entry (02 Table 2.1): 0 REST, 1 PLAY, 2 OPEN, 3 CADENCE. -/
def entryType (e : BitVec 6) : BitVec 2 := bits e 0 2
/-- Partition of an entry; REST and CADENCE have none (02 R25). -/
def entryPart (e : BitVec 6) : BitVec 4 := if entryType e = 1 || entryType e = 2 then bits e 2 4 else 0
/-- An entry of type PLAY or OPEN. -/
def entryRuns (e : BitVec 6) : Bool := entryType e = 1 || entryType e = 2
/-- Two entries are equal (02 section 2.3). -/
def entryEq (a b : BitVec 6) : Bool := entryType a = entryType b && entryPart a = entryPart b
/-- The current entry of a core. -/
def State.entryNow (s : State) (c : Fin 12) : BitVec 6 := tableEntry (s.cbar c).btc s.bar.beat.toNat
/-- The entry of a core for a beat. -/
def State.entryAt (s : State) (c : Fin 12) (k : Nat) : BitVec 6 := tableEntry (s.cbar c).btc k
/-- Beat length in counts, without stretch (02 R22). -/
def BarCfg.beatLen (g : BarCfg) : Nat := g.period.toNat * 10 / g.beats.toNat
/-- Bar length in counts, without stretch. -/
def BarCfg.barLen (g : BarCfg) : Nat := g.period.toNat * 10

/-! Outcomes. -/

/-- An event that takes place while the device runs, and changes nothing otherwise (log 4). -/
def ifOn (s : State) (f : State → State) : Host.Outcome State Fault Refusal := .next (if s.on then f s else s)

/-- A flag of the state is part of a level condition while its enable is set. -/
def gated {n : Nat} (flags ien : BitVec n) : Bool := flags &&& ien != 0

end Sys2Proof.Machine
end

