-- ==== Sys2Proof/Machine/Dram.lean ====
section
/-! DEFINITION. Memory behind the caches: Stage SRAM and DRAM, check bits, error reports, dirty tracking, Echo and stalled
writes (03 section 3.4, 09). -/
namespace Sys2Proof.Machine

/-- What an unlisted byte of DRAM or of an on-chip SRAM reads as (log 6). -/
def ramDefault : Byte := 0
/-- What an unlisted byte of flash reads as: erased (log 18). -/
def flashDefault : Byte := 0xFF

/-- The last installed DRAM word (09 R340, Table 9.3). -/
def MemCtl.top (m : MemCtl) : Nat :=
  0x100000000 + 24 * 2 ^ (26 + min 2 m.density.toNat + m.ranks.toNat) - 17

/-! Instants (09 R348, R350; log 26). -/

/-- tREFI in ns (09 R350). -/
def MemCtl.tRefi (m : MemCtl) : Nat := if m.ref2x then 3900 else 7800

/-- Bursts installed (09 Table 9.3). -/
def MemCtl.bursts (m : MemCtl) : Nat := 2 ^ (26 + min 2 m.density.toNat + m.ranks.toNat)

/-- SCRUB_PERIOD in hours as it is taken (09 Table 9.7). -/
def MemCtl.scrubHours (m : MemCtl) : Nat := max 1 (min 168 m.scrubPeriod.toNat)

/-- The time between two scrub reads in ns, rounded down: every installed burst once in each period (09 R348). -/
def MemCtl.scrubStep (m : MemCtl) : Nat := m.scrubHours * 3600000000000 / m.bursts

/-- The controller serves DRAM from a count on: refresh of each rank begins, rank 1 half a tREFI after rank 0, and scrub goes on at
its position (09 R348, R350, R383). -/
def MemCtl.restart (m : MemCtl) (now : Nat) : MemCtl :=
  { m with
    scrubAt := now + m.scrubStep
    refreshAt := Vector.ofFn fun r => now + m.tRefi + r.val * (m.tRefi / 2)
    postponed := Vector.replicate 2 0 }

/-- The word lies in Stage SRAM (03 Table 3.3). -/
def inStage (a : Nat) : Bool := 0x100000 ≤ a && a < 0x140000
/-- Memory takes a write of this initiator: Stage SRAM ignores those of Voice cores and DMA engines to pages 16 to 63
(10 R392). -/
def takesWrite (w : Initiator) (a : Nat) : Bool :=
  !(inStage a && 0x110000 ≤ a && (match w with | .voice _ => true | .dma _ => true | _ => false))
/-- The word lies in the register space (03 Table 3.3). -/
def inRegs (a : Nat) : Bool := 0x1000000 ≤ a && a < 0x2000000
/-- The word lies in the DRAM window up to the installed top (03 R76, 09 R340), whether or not DRAM is served. -/
def State.installed (s : State) (a : Nat) : Bool := 0x100000000 ≤ a && a ≤ s.mc.top
/-- The word lies in installed DRAM and DRAM accesses are served (09 MC_STAT.READY, Table 9.9). -/
def State.inDram (s : State) (a : Nat) : Bool := s.mc.ready && s.installed a
/-- The word lies in memory: Stage SRAM or DRAM. -/
def State.inMem (s : State) (a : Nat) : Bool := inStage a || s.inDram a

/-- The line of a word (06 section 6.4). -/
def lineOf (a : Nat) : Nat := a / 24

/-- The word of memory behind the caches; a word outside memory reads zero (06 R204). -/
def State.raw (s : State) (a : Nat) : Word :=
  if inStage a then Memory.word ramDefault s.stage (a - 0x100000)
  else if s.installed a then Memory.word ramDefault s.dram a
  else 0

/-! Errors (09 sections 9.3 and 9.4). -/

/-- The kinds of read that the controller performs (09 R853). -/
inductive RdKind where
  | demand | scrub | stream
deriving DecidableEq, Repr

/-- The burst number of a line (09 R338). -/
def burstOf (line : Nat) : Nat := line - 178956970

/-- DRAM coordinates of a burst (09 Table 9.2). -/
structure DramCoord where
  group  : Nat
  bank   : Nat
  column : Nat
  row    : Nat
  rank   : Nat
deriving DecidableEq, Repr

/-- Row bits of the devices (09 R339). -/
def MemCtl.rowBits (m : MemCtl) : Nat := 15 + m.density.toNat

/-- The coordinates of a line (09 R338, R339); a column address has its low three bits 0. -/
def MemCtl.coordOf (m : MemCtl) (line : Nat) : DramCoord :=
  let b := burstOf line
  { group := b % 4, bank := b / 4 % 4, column := 8 * (b / 16 % 128), row := b / 2048 % 2 ^ m.rowBits
    rank := if m.ranks then b / 2 ^ (11 + m.rowBits) % 2 else 0 }

/-- The rank of a line (09 Table 9.2). -/
def MemCtl.rankOf (m : MemCtl) (line : Nat) : Nat := (m.coordOf line).rank

/-- The low and the high log word of an error (09 Table 9.7). -/
def logInfo (m dev beat kind : Nat) : Word × Word :=
  (BitVec.ofNat 24 m, BitVec.ofNat 24 (m / 2 ^ 24 % 32 + dev * 32 + beat * 512 + kind * 4096))

/-- A correctable error of a device is logged, counted and posted (09 R349, 15 Table 15.3 class 5). -/
def State.logCe (s : State) (rk : RdKind) (line beat dev : Nat) : State :=
  let kind := if rk = .scrub then 2 else 1
  let l := logInfo (burstOf line) dev beat kind
  let s := { s with mc := { s.mc with ce := true, ceCnt := satInc s.mc.ceCnt, ceLog := l.1, ceInfo := l.2 } }
  s.post (BitVec.ofNat 12 (0x500 + 10 * s.mc.rankOf line + dev)) 0

/-- An uncorrectable error or poison marker is logged and posted (09 R349, Table 9.5). -/
def State.logUe (s : State) (rk : RdKind) (line beat : Nat) (marker : Bool) : State :=
  let kind := if rk = .stream then 5 else if marker then 6 else if rk = .scrub then 4 else 3
  let l := logInfo (burstOf line) 0xF beat kind
  let s := { s with mc := { s.mc with ue := true, ueLog := l.1, ueInfo := l.2 } }
  s.post 0x514 1

/-- The key of a beat in `chk`. -/
def beatKey (line beat : Nat) : Nat := 8 * line + beat

/-- The difference of a beat's check bits is set; zero is not listed. -/
def State.setChk (s : State) (key : Nat) (e : BitVec 8) : State :=
  { s with chk := if e = 0 then Tbl.del s.chk key else Tbl.put s.chk key e }

/-- Bit `i` of the data of a beat flips. -/
def State.flipData (s : State) (line beat i : Nat) : State :=
  let a := 24 * line + 3 * beat + i / 24
  if s.installed a then
    { s with dram := Memory.setWord ramDefault s.dram a (Memory.word ramDefault s.dram a ^^^ bitAt 24 (i % 24)) }
  else s

/-- The controller reads one beat: a correctable error is corrected and written back (09 R347), an uncorrectable one is
marked (R346), and each is reported. The answer tells whether the beat is delivered poisoned. -/
def State.readBeat (s : State) (rk : RdKind) (line beat : Nat) : State × Bool :=
  let key := beatKey line beat
  match eccDecode (Tbl.get s.chk key 0) with
  | .clean => (s, false)
  | .checkBit => ((s.setChk key 0).logCe rk line beat 9, false)
  | .dataBit i => (((s.flipData line beat i).setChk key 0).logCe rk line beat (i / 8), false)
  | .poison => (s.logUe rk line beat true, true)
  | .uncorrectable => ((s.setChk key 3).logUe rk line beat false, true)

/-- The controller reads several beats of a line; the answer is the mask of the poisoned ones. -/
def State.readBeats (s : State) (rk : RdKind) (line : Nat) (beats : List Nat) : State × BitVec 8 :=
  beats.foldl (fun (s, m) b => let r := s.readBeat rk line b; (r.1, if r.2 then setBit m b true else m)) (s, 0)

/-- The poison mask of words from a mask of beats. -/
def beatsToWords (m : BitVec 8) : BitVec 24 :=
  (List.range 24).foldl (fun acc i => setBit acc i (m.getLsbD (i / 3))) 0

/-- The 24 words of a line behind the caches. -/
def State.rawLine (s : State) (line : Nat) : Vector Word 24 := Vector.ofFn fun i => s.raw (24 * line + i.val)

/-! Dirty tracking and Echo (09 section 9.7). -/

/-- A number inserted into a rising list. -/
def insertNat : List Nat → Nat → List Nat
  | [], x => [x]
  | y :: ys, x => if x < y then x :: y :: ys else if x = y then y :: ys else y :: insertNat ys x

/-- The pages of enabled region `n`: first page and count. -/
def Echo.region (e : Echo) (n : Fin 8) : Nat × Nat := (e.rgnBase[n].toNat, (bits e.rgnPages[n] 0 19).toNat)

/-- The page is protected. -/
def Echo.isProtected (e : Echo) (page : Nat) : Bool :=
  (List.finRange 8).any fun n => let r := e.region n; r.1 ≤ page && page < r.1 + r.2

/-- Every protected page, rising. -/
def Echo.allPages (e : Echo) : List Nat :=
  (List.finRange 8).foldl (fun acc n => let r := e.region n; (List.range r.2).foldl (fun acc i => insertNat acc (r.1 + i)) acc) []

/-- Lines that Echo can hold, the spill region included (09 R368). -/
def Echo.capacity (e : Echo) : Nat := 4096 + 32768 * e.spillMw.toNat

/-- A write to these words marks their protected pages in the live set (09 R360). -/
def Echo.mark (e : Echo) (addrs : List Nat) : Echo :=
  if e.track then
    { e with live := addrs.foldl (fun l a => if e.isProtected (a / 4096) then insertNat l (a / 4096) else l) e.live }
  else e

/-- Every protected page is marked (09 R361, 14 R601). -/
def Echo.markAll (e : Echo) : Echo := if e.track then { e with live := e.allPages } else e

/-- The frozen set is merged into the live set, and Echo is discarded (09 R374). -/
def Echo.mergeBack (e : Echo) : Echo :=
  { e with live := e.frozen.foldl insertNat e.live, frozen := [], lines := [] }

/-- The word is masked: it lies in a frozen page (09 R365). -/
def Echo.masked (e : Echo) (a : Nat) : Bool := e.frozen.contains (a / 4096)

/-- A stream reads lines: a checkpoint is being sent and has not ended. -/
def State.streaming (s : State) : Bool :=
  match s.refrain.stream with | some st => !st.ended | none => false

/-- The line has not been streamed since the capture (09 R366). -/
def State.notYetStreamed (s : State) (line : Nat) : Bool :=
  match s.refrain.stream with | some st => !st.ended && st.next ≤ line | none => false

/-- The 22 payload words of a flit that has `ws` in use (13 R542). -/
def payload22 (ws : List Word) : List Word := (ws ++ List.replicate 22 0).take 22

/-- The header word of a flit (13 Table 13.4). -/
def flitHeader (ch : BitVec 2) (ft : BitVec 3) (seq : BitVec 12) (nw : BitVec 5) : Word :=
  (ch.setWidth 24 <<< 22) ||| (ft.setWidth 24 <<< 19) ||| (seq.setWidth 24 <<< 7) ||| nw.setWidth 24

/-- The CRC word of a flit (13 R541). -/
def flitCrc (header : Word) (ws : List Word) : Word := recordCrc (header :: payload22 ws)

/-- The header word of a held flit. -/
def Flit.header (f : Flit) : Word := flitHeader f.ch f.ft f.seq (BitVec.ofNat 5 f.payload.length)

/-- The CRC word that a held flit is sent with. -/
def Flit.crcWord (f : Flit) : Word := flitCrc f.header f.payload

/-- The 24 words of a flit (13 Table 13.4). -/
def Flit.words (f : Flit) : List Word := f.header :: payload22 f.payload ++ [f.crcWord]

/-- A flit is produced on a sequenced channel (13 R544). -/
def Chan.produce (c : Chan) (ch : BitVec 2) (ft : BitVec 3) (payload : List Word) (gate : Option (BitVec 12) := none) : Chan :=
  { c with store := c.store ++ [{ ch, ft, seq := c.next, payload, gate }], next := c.next + 1 }

/-- Flits that the channel B store holds (13 R550). -/
def Duet.capB (d : Duet) : Nat := 2048 + min 16 d.spillMw.toNat * 1048576 / 24
/-- Flits that the channel C store holds (13 R549). -/
def capC : Nat := 512

/-- A flit is produced on channel B, or its producer stalls and REPLAY_FULL is set (13 R550). Without a session it waits. -/
def Duet.produceB (d : Duet) (ft : BitVec 3) (payload : List Word) : Duet :=
  if d.session && d.bWait.isEmpty && d.b.store.length < d.capB then { d with b := d.b.produce 2 ft payload }
  else { d with bWait := d.bWait ++ [(ft, payload)], flags := if d.session then setBit d.flags 4 true else d.flags }

/-- A flit is produced on channel C, or its producer stalls and REPLAY_FULL is set (13 R549). Without a session it waits. -/
def Duet.produceC (d : Duet) (ft : BitVec 3) (payload : List Word) (gate : Option (BitVec 12) := none) : Duet :=
  if d.session && d.cWait.isEmpty && d.c.store.length < capC then { d with c := d.c.produce 1 ft payload gate }
  else { d with cWait := d.cWait ++ [(ft, payload, gate)], flags := if d.session then setBit d.flags 4 true else d.flags }

/-- Stalled producers go on as far as the stores have room. -/
def Duet.refill (d : Duet) : Duet :=
  let nc := capC - d.c.store.length
  let nb := d.capB - d.b.store.length
  { d with
    c := (d.cWait.take nc).foldl (fun c p => c.produce 1 p.1 p.2.1 p.2.2) d.c, cWait := d.cWait.drop nc
    b := (d.bWait.take nb).foldl (fun b p => b.produce 2 p.1 p.2) d.b, bWait := d.bWait.drop nb }

/-- A flit is produced on channel C. -/
def State.produceC (s : State) (ft : BitVec 3) (payload : List Word) (gate : Option (BitVec 12) := none) : State :=
  { s with duet := s.duet.produceC ft payload gate }

/-- The last words of the body, if any wait, and CK_END are produced (14 R603, Table 14.3). -/
def State.produceEnd (s : State) (status : Word) : State :=
  match s.refrain.stream with
  | none => s
  | some st =>
    let d := if st.buf.isEmpty then s.duet else s.duet.produceB 5 st.buf
    { s with
      duet := d.produceB 6 [st.n, status, st.crc]
      refrain := { s.refrain with stream := some { st with buf := [], ended := true }, replyDue := true } }

/-! The directory of cached lines (06 sections 6.4 and 6.5). -/

/-- The cached line of a number. -/
def Caches.find (c : Caches) (line : Nat) : Option CacheLine := c.lines.find? fun l => l.line = line

/-- A line held somewhere: in an L2 or in the L3. -/
def CacheLine.held (l : CacheLine) : Bool := l.l2 != 0 || l.l3

/-- Insert a line into the directory, in rising order. -/
def insertLine : List CacheLine → CacheLine → List CacheLine
  | [], l => [l]
  | x :: xs, l => if l.line = x.line then l :: xs else if l.line < x.line then l :: x :: xs else x :: insertLine xs l

/-- The directory with a line replaced; a line that no cache holds any longer is left out. -/
def Caches.put (c : Caches) (l : CacheLine) : Caches :=
  if l.held then { c with lines := insertLine c.lines l } else { c with lines := c.lines.filter fun x => x.line ≠ l.line }

/-- The state with a cached line replaced. -/
def State.putLine (s : State) (l : CacheLine) : State := { s with caches := s.caches.put l }

/-- Reservations on a line are cleared on the cores that `p` selects (04 R133). -/
def State.clearResv (s : State) (line : Nat) (p : Fin 12 → Bool) : State :=
  s.mapCores fun c v => if p c && v.resv.any (fun r => r.line = line) then { v with resv := none } else v

/-- The line is invalidated in every cache of the domain. -/
def State.dropLine (s : State) (line : Nat) : State :=
  { s.clearResv line (fun _ => true) with caches := { s.caches with lines := s.caches.lines.filter fun x => x.line ≠ line } }

/-- The mask of the cores of a section. -/
def secMask (sec : Fin 3) : BitVec 12 := (0xF : BitVec 12) <<< (4 * sec.val)

/-- The words that an L1 data cache has changed are written back to the L2 (06 R202, R237). -/
def CacheLine.merge (l : CacheLine) : CacheLine := { l with below := none }

/-- What the L2 or the L3 holds of the line. -/
def CacheLine.lower (l : CacheLine) : Below := l.below.getD { words := l.words, dirty := l.dirty, poison := l.poison, newer := 0 }

/-- The words that an L1 data cache has changed since its last write-back. -/
def CacheLine.newer (l : CacheLine) : BitVec 24 := l.lower.newer

/-- The line leaves the L2 of a section, and with it the L1 caches of its cores (06 R205). -/
def State.dropSection (s : State) (sec : Fin 3) (line : Nat) : State :=
  match s.caches.find line with
  | none => s
  | some l =>
    let s := s.putLine { l.merge with l2 := setBit l.l2 sec.val false, l1d := l.l1d &&& ~~~secMask sec, l1i := l.l1i &&& ~~~secMask sec }
    s.clearResv line fun c => sectionOf c = sec

/-- The line leaves the cache of a site. From an L1 data cache, the words that it has changed go to the L2 first. -/
def State.dropSite (s : State) (site : CacheSite) (line : Nat) : State :=
  match s.caches.find line with
  | none => s
  | some l =>
    match site with
    | .l1i c => s.putLine { l with l1i := setBit l.l1i c.val false }
    | .l1d c =>
      if l.l1d.getLsbD c.val then (s.putLine { l.merge with l1d := setBit l.l1d c.val false }).clearResv line fun k => k = c else s
    | .l2 sec _ => s.dropSection sec line
    | .l3 _ _ => s.putLine { l with l3 := false }

/-- Words of a line that memory now holds are clean in the caches (06 R202, R209): those that still have the value and the poison
mark written. -/
def CacheLine.settled (l : CacheLine) (ws : List WrWord) : CacheLine :=
  let same (w : WrWord) : Bool := l.words.toList.getD (w.addr % 24) 0 = w.data && l.poison.getLsbD (w.addr % 24) = w.poison
  { l.merge with dirty := ws.foldl (fun d w => if same w then setBit d (w.addr % 24) false else d) l.dirty }

/-- The words of a line that memory now holds become clean. -/
def State.settleLine (s : State) (line : Nat) (ws : List WrWord) : State :=
  match s.caches.find line with
  | none => s
  | some l => s.putLine (l.settled ws)

/-- A word of a vector replaced at a place below 24. -/
def setWord24 (v : Vector Word 24) (i : Nat) (x : Word) : Vector Word 24 := if h : i < 24 then v.set i x else v

/-- One word of a cached line takes the value that another initiator has written to memory (06 R212). -/
def CacheLine.overwrite (l : CacheLine) (w : WrWord) : CacheLine :=
  let i := w.addr % 24
  let whole := w.lanes = 7
  { l.merge with
    words := setWord24 l.words i (mergeLanes (l.words.toList.getD i 0) w.data w.lanes)
    dirty := if whole then setBit l.dirty i false else l.dirty
    poison := if whole then setBit l.poison i w.poison else l.poison }

/-- The cached copies of the words written become those of memory, and every reservation on the line is cleared
(06 R212, 04 R133). -/
def State.snoopWrite (s : State) (line : Nat) (ws : List WrWord) : State :=
  let s := s.clearResv line fun _ => true
  match s.caches.find line with
  | none => s
  | some l => s.putLine (ws.foldl CacheLine.overwrite l)

/-- The dirty words of a line that `keep` selects, as words of a write. -/
def CacheLine.dirtyWords (l : CacheLine) (keep : Nat → Bool) : List WrWord :=
  (List.finRange 24).filterMap fun i =>
    let a := 24 * l.line + i.val
    if l.dirty.getLsbD i.val && keep a then some { addr := a, data := l.words[i], lanes := 7, poison := l.poison.getLsbD i.val } else none

/-- The dirty words that the caches hold of a line, and memory stores (06 R202, R204). -/
def State.dirtyOf (s : State) (line : Nat) (keep : Nat → Bool) : List WrWord :=
  match s.caches.find line with
  | none => []
  | some l => (l.dirtyWords keep).filter fun w => s.inMem w.addr

/-! Writes. -/

/-- One beat is written (09 R203, R343 to R345): `ws` are the words of the beat that are written. -/
def State.writeBeat (s : State) (line beat : Nat) (ws : List WrWord) : State :=
  let full := (List.range 3).all fun k => ws.any fun w => w.addr = 24 * line + 3 * beat + k && w.lanes = 7
  let r := if full then (s, false) else s.readBeat .demand line beat
  let bad := r.2 || ws.any (·.poison)
  let s := { r.1 with dram := ws.foldl (fun m (w : WrWord) => Memory.setLanes ramDefault m w.addr w.data w.lanes) r.1.dram }
  s.setChk (beatKey line beat) (if bad then 3 else 0)

/-- DRAM is written, with dirty tracking (09 R360). -/
def State.writeDram (s : State) (line : Nat) (ws : List WrWord) : State :=
  let s := (List.range 8).foldl (fun s b =>
    let here := ws.filter fun w => w.addr % 24 / 3 = b
    if here.isEmpty then s else s.writeBeat line b here) s
  { s with echo := s.echo.mark (ws.map (·.addr)) }

/-- The poison of the words of Stage SRAM after a write: a whole word written with good data clears it (06 R209, R846). -/
def poisonAfter (l : List Nat) (w : WrWord) : List Nat :=
  if w.poison then insertNat l w.addr else if w.lanes = 7 then l.filter (· ≠ w.addr) else l

/-- Stage SRAM is written. -/
def State.writeStage (s : State) (ws : List WrWord) : State :=
  { s with
    stage := ws.foldl (fun m (w : WrWord) => Memory.setLanes ramDefault m (w.addr - 0x100000) w.data w.lanes) s.stage
    stageBad := ws.foldl poisonAfter s.stageBad }

/-- The line's current contents are copied into Echo (09 R367, R854); beyond the on-chip lines, the copy lies in the spill
region. -/
def State.echoCopy (s : State) (line : Nat) : State :=
  let r := s.readBeats .demand line (List.range 8)
  let s := r.1
  let onChip := (s.echo.lines.filter fun l => !l.spill).length
  let e : Echo := { s.echo with lines := s.echo.lines ++ [{ line, words := s.rawLine line, bad := r.2, spill := 4096 ≤ onChip, ue := 0, ce := 0 }] }
  { s with echo := { e with hiwat := if e.hiwat.toNat < e.lines.length then BitVec.ofNat 24 e.lines.length else e.hiwat } }

/-- What the controller does with a write that it accepts: it performs it, copies first, stalls it, or holds it behind an earlier
stalled write of its initiator. -/
inductive WriteWay where
  | plain | copy | stall | queue
deriving DecidableEq, Repr

/-- The way of a write to a line (09 R367, R370, R371, R860). A write that R370 stalls waits until the stream has read its line,
or has ended (R861). -/
def State.writeWay (s : State) (x : Stalled) : WriteWay :=
  if x.who.any s.stalledBy then .queue
  else if !(s.notYetStreamed x.line && x.ws.any fun w => s.echo.masked w.addr) then .plain
  else if x.own then .stall
  else if s.echo.lines.any (fun l => l.line = x.line) then .plain
  else if s.echo.capacity ≤ s.echo.lines.length || s.echo.stalled.any (fun y => y.line = x.line) then .stall
  else .copy

/-- A write waits. It is counted when R370 first stalls it; one that only queues behind a stalled one of its initiator is not. -/
def Echo.addStall (e : Echo) (x : Stalled) (own : Bool) : Echo :=
  let fresh := own && !x.own
  { e with stalled := e.stalled ++ [{ x with own := x.own || own }], stall := e.stall || fresh, stallCnt := if fresh then satInc e.stallCnt else e.stallCnt }

/-- Memory takes the words of a write: Stage SRAM, or DRAM. A word of no lane is no write. -/
def State.store (s : State) (line : Nat) (ws : List WrWord) : State :=
  let ws := ws.filter fun w => w.lanes ≠ 0
  if ws.isEmpty then s
  else if ws.any (fun w => inStage w.addr) then s.writeStage (ws.filter fun w => inStage w.addr)
  else s.writeDram line ws

/-- The way of a write: Stage SRAM is not protected, so only an earlier stalled write of its initiator can hold one there. -/
def State.wayOf (s : State) (x : Stalled) : WriteWay :=
  if x.ws.any (fun w => inStage w.addr) then (if x.who.any s.stalledBy then .queue else .plain) else s.writeWay x

/-- The write is performed whole (09 R860): the line is first copied where it must be. -/
def State.performed (s : State) (x : Stalled) (ws : List WrWord) : State :=
  (if s.wayOf { x with ws } = .copy then s.echoCopy x.line else s).store x.line ws

/-- A write that is performed acts on the caches: a write-back leaves its words clean, and the line then leaves the cache that it
names; a write of the coherence domain invalidates every cached copy of the line, whose other dirty words are merged into it (06
R202, R212). Where a write-back of the line waits on Echo, or the merged words would, the copies stay and take the words written. -/
def State.complete (s : State) (later : List Stalled) (x : Stalled) : State :=
  if x.wb then
    let s := (s.performed x x.ws).settleLine x.line x.ws
    match x.drop with | some site => s.dropSite site x.line | none => s
  else if x.who = some .conductor || x.ws.all (fun w => w.lanes = 0) then s.performed x x.ws
  else
    let more := s.dirtyOf x.line fun a => !(x.ws.any fun w => w.addr = a && w.lanes = 7)
    let waits := (s.echo.stalled ++ later).any fun y => y.wb && y.line = x.line
    let whole := x.ws ++ more
    if (s.caches.find x.line).isNone then (s.performed x x.ws).clearResv x.line fun _ => true
    else if waits || s.wayOf { x with ws := whole } = .stall then (s.performed x x.ws).snoopWrite x.line x.ws
    else (s.performed x (more ++ x.ws)).dropLine x.line

/-- The next count of a 24-bit free-running ring count. -/
def ringNext (c : Word) : Word := c + 1

/-- A DMA engine completes a buffer: the ring count, the queue, the counters and the flags (06 R221; 17 R705, R707, R711, Tables 17.9
and 17.10). -/
def State.tell (s : State) (d : DmaDone) : State :=
  match d with
  | .ethRx n =>
    let e := s.io.eth[n]
    { s with io := { s.io with eth := s.io.eth.set n { e with rxcProd := ringNext e.rxcProd, rxOk := satInc e.rxOk } } }
  | .ethTx n w0 status =>
    let e := s.io.eth[n]
    { s with io := { s.io with eth := s.io.eth.set n { e with
        txCons := ringNext e.txCons
        txOk := if status = 0 then satInc e.txOk else e.txOk
        stat := e.stat ||| flag 5 0 (w0.getLsbD 18) ||| flag 5 1 (status = 0 && w0.getLsbD 16) ||| flag 5 3 (status ≠ 0) } } }
  | .canRx n e => { s with io := { s.io with can := s.io.can.set n { s.io.can[n] with rxq := s.io.can[n].rxq ++ [e] } } }
  | .xspi r w0 status =>
    let x := s.io.xspi
    { s with io := { s.io with xspi := { x with
        rings := x.rings.set r { x.rings[r] with cons := ringNext x.rings[r].cons }
        flags := x.flags ||| (if w0.getLsbD 5 then bitAt 3 r.val else 0) ||| flag 3 2 (status ≠ 0) } } }

/-- A write to one line of memory, without the end of a stall; `later` are stalled writes that come after it. The answer tells
whether it was performed; otherwise it waits among the stalled writes. -/
def State.tryWrite (s : State) (later : List Stalled) (x : Stalled) : State × Bool :=
  match s.wayOf x with
  | .stall => ({ s with echo := s.echo.addStall x true }, false)
  | .queue => ({ s with echo := s.echo.addStall x false }, false)
  | _ => (x.fin.foldl State.tell (s.complete later x), true)

/-- The stalled writes are tried again one after the other. -/
def State.retryAll (s : State) : List Stalled → State
  | [] => s
  | x :: xs => (s.tryWrite xs x).1.retryAll xs

/-- The stalled writes are tried again, in the order in which they were accepted (09 R860, R861). -/
def State.retryStalled (s : State) : State := { s with echo := { s.echo with stalled := [] } }.retryAll s.echo.stalled

/-! The replay spill region (13 R550). -/

/-- The write that moves the oldest flit of the channel B store that is on chip to the spill region, where more than 2048 are on
chip: each flit takes one line there, in turn (DESIGN CHOICE, log 31: the spec gives no layout). -/
def Duet.spillDue (d : Duet) : Option (Nat × List Word) :=
  if d.b.store.length - d.spilled ≤ 2048 || d.capB ≤ 2048 then none
  else d.b.store[d.spilled]?.map fun f => (d.spillBase.toNat + 24 * (d.spillNext % (d.capB - 2048)), f.words)

/-- The words of a flit that goes to the spill region, as a write. -/
def spillWrite (a : Nat) (ws : List Word) : Stalled :=
  { line := lineOf a, who := none, wb := false, own := false, drop := none
    ws := (indexed ws).map fun p => { addr := a + p.1, data := p.2, lanes := 7, poison := false } }

/-- The flit of `spillDue` lies in the spill region. -/
def State.spillDone (s : State) (a : Nat) (ws : List Word) : State :=
  let s := if s.inDram a && s.inDram (a + 23) then s.complete [] (spillWrite a ws) else s
  { s with duet := { s.duet with spilled := s.duet.spilled + 1, spillNext := s.duet.spillNext + 1 } }

/-- Flits move to the spill region while too many are on chip, at most `n`; no stream is in progress. -/
def State.spillAll (s : State) : Nat → State
  | 0 => s
  | n + 1 => match s.duet.spillDue with
    | none => s
    | some p => (s.spillDone p.1 p.2).spillAll n

/-- The stream ends abandoned (09 R372, R374, R859, R861; 14 Table 14.3): CK_END with STATUS 2 unless the session that
carried it is lost, the frozen set merged back, Echo discarded, stalled writes performed. A hand-over whose capture had not been sent
waits for the next one (14 R617). -/
def State.abandonStream (s : State) (sessionLost : Bool) : State :=
  match s.refrain.stream with
  | none => s
  | some st =>
    let s := if sessionLost || st.ended || s.refrain.headWait.isSome then s else s.produceEnd 2
    let again := s.refrain.handStep = 2 && s.refrain.headWait.isSome
    let s := { s with refrain := { s.refrain with stream := none, headWait := none, handStep := if again then 1 else s.refrain.handStep }, echo := { s.echo.mergeBack with abandoned := true } }
    s.retryStalled.spillAll 2

/-- The oldest flits on chip move to the spill region while there are too many, at most `n`; a write there that would stall on Echo
abandons the stream instead (09 R372). -/
def State.spillOut (s : State) : Nat → State
  | 0 => s
  | n + 1 => match s.duet.spillDue with
    | none => s
    | some p => ((if s.wayOf (spillWrite p.1 p.2) = .stall then s.abandonStream false else s).spillAll 1).spillOut n

/-- A flit is produced on channel B, and the oldest on chip moves to the spill region where there is no more room. -/
def State.produceB (s : State) (ft : BitVec 3) (payload : List Word) : State :=
  { s with duet := s.duet.produceB ft payload }.spillOut 2

/-- Stalled producers go on, and what has no room on chip moves to the spill region. -/
def State.refill (s : State) : State :=
  let n := s.duet.bWait.length
  { s with duet := s.duet.refill }.spillOut (n + 1)

/-- A write to one line of memory. A landing write that would stall abandons the stream instead (09 R372). The answer tells
whether the write was performed; otherwise it waits among the stalled writes. -/
def State.writeLine (s : State) (x : Stalled) : State × Bool :=
  if x.who = some .landing && s.wayOf x = .stall then (s.abandonStream false).tryWrite [] x
  else s.tryWrite [] x

/-- A list with its last entry of a kind changed. -/
def modLast {α : Type} (p : α → Bool) (f : α → α) : List α → List α
  | [] => []
  | x :: xs => if p x && !xs.any p then f x :: xs else x :: modLast p f xs

/-- A DMA engine has made the writes of a buffer: it completes the buffer now, or with the last of its writes that wait (06 R221). -/
def State.dmaDone (s : State) (eng : Initiator) (d : DmaDone) : State :=
  if s.stalledBy eng then
    { s with echo := { s.echo with stalled := modLast (fun x => x.who = some eng) (fun x => { x with fin := x.fin ++ [d] }) s.echo.stalled } }
  else s.tell d

/-- The completions that wait on stalled writes. -/
def Echo.waiting (e : Echo) : List DmaDone := e.stalled.flatMap (·.fin)

/-- Words of a write grouped by line, in rising order of lines. -/
def byLine (ws : List WrWord) : List (Nat × List WrWord) :=
  let lines := ws.foldl (fun acc w => insertNat acc (lineOf w.addr)) []
  lines.map fun l => (l, ws.filter fun w => lineOf w.addr = l)

/-! Upsets of stored bits (log 16). -/

/-- Bits of a stored DRAM beat flip (09 R341). -/
def State.upsetDram (s : State) (a : Nat) (x : BitVec 80) : State :=
  if s.inDram a then
    let line := lineOf a
    let beat := a % 24 / 3
    let s := (List.range 72).foldl (fun s i => if x.getLsbD i then s.flipData line beat i else s) s
    s.setChk (beatKey line beat) (flipAll (Tbl.get s.chk (beatKey line beat) 0) x)
  else s

/-- A word of the copy that Echo holds is in error: it will be found when the copy is sent (09 R854). -/
def State.upsetEcho (s : State) (line : Nat) (off : Nat) (ue : Bool) : State :=
  let hit (l : EchoLine) : EchoLine := if ue then { l with ue := setBit l.ue off true } else { l with ce := setBit l.ce off true }
  { s with echo := { s.echo with lines := s.echo.lines.map fun l => if l.line = line then hit l else l } }

end Sys2Proof.Machine
end

