-- ==== Sys2Proof/Machine/CacheOps.lean ====
section
/-! DEFINITION. The caches and the coherence domain: fills, write-backs, invalidation, accesses by DMA engines, the landing
engine, the debug port and the Conductor, and upsets in the caches (06). -/
namespace Sys2Proof.Machine

/-! Deferred errors (05 section 5.6). -/

/-- A deferred error is recorded on a core (05 R175, R176): VALID and the address, or MULTI while VALID is 1. -/
def VoiceCore.defer (v : VoiceCore) (a : PAddr) (kind : BitVec 3) : VoiceCore :=
  if v.mderrh.getLsbD 23 then { v with mderrh := setBit v.mderrh 22 true }
  else { v with mderr := paLo a, mderrh := (paHi a) ||| (kind.setWidth 24 <<< 12) ||| bitAt 24 23 }

/-! Write-backs (06 R202, R209). -/

/-- The dirty words of a line that `keep` selects are written to memory and become clean, and the line then leaves the cache that
`drop` names. The answer is false when the write-back stalls (09 R370): both follow when the stall ends; `who` is the initiator that
waits. -/
def State.cleanWords (s : State) (who : Option Initiator) (line : Nat) (drop : Option CacheSite) (keep : Nat → Bool) : State × Bool :=
  let ws := s.dirtyOf line keep
  if ws.isEmpty then (match drop with | some site => s.dropSite site line | none => s, true)
  else s.writeLine { line, who, wb := true, ws, own := false, drop }

/-- Every dirty word of the line is written to memory. -/
def State.cleanLine (s : State) (who : Option Initiator) (line : Nat) (drop : Option CacheSite) : State × Bool :=
  s.cleanWords who line drop fun _ => true

/-! Allocation (06 Table 6.1, R200, R205, R206). -/

/-- Ways of the L2 of a section that are in use, not isolated, and initialised (06 Table 6.5, R229). -/
def Caches.ways2 (c : Caches) (sec : Fin 3) : List Nat :=
  let r := c.l2ways[sec]
  (List.range 9).filter fun w => r.getLsbD w && !r.getLsbD (9 + w) && !c.ops.contains (.initL2 sec.val w)

/-- Ways of an L3 slice that are in use, not isolated, and initialised. -/
def Caches.ways3 (c : Caches) (n : Fin 4) : List Nat :=
  (List.range 17).filter fun w => c.l3en[n].getLsbD w && !c.l3iso[n].getLsbD w && !c.ops.contains (.initL3 n.val w)

/-- The slice of a line: N mod the number of slices (06 Table 6.1). -/
def State.sliceOf (s : State) (line : Nat) : Fin 4 :=
  ⟨line % s.die.variant.slices % 4, Nat.mod_lt _ (by decide)⟩

/-- The set of a line in an L1 cache (06 Table 6.1). -/
def setL1 (line : Nat) : Nat := line % 171
/-- The set of a line in an L2. -/
def setL2 (line : Nat) : Nat := line % 2731
/-- The set of a line in its L3 slice. -/
def State.setL3 (s : State) (line : Nat) : Nat := line / s.die.variant.slices % 2731

/-- One of a list, taken by a free value (log 9). -/
def pickOf {α : Type} (l : List α) (n : Nat) : Option α := l[Config.way n % l.length]?

/-- Another line that a way of a section's L2 holds in the set of a line. -/
def State.occupant2 (s : State) (sec : Fin 3) (w line : Nat) : Option CacheLine :=
  s.caches.lines.find? fun l => l.line ≠ line && l.l2.getLsbD sec.val && l.w2[sec] = w && setL2 l.line = setL2 line

/-- Another line that a way of an L3 slice holds in the set of a line. -/
def State.occupant3 (s : State) (w line : Nat) : Option CacheLine :=
  s.caches.lines.find? fun l => l.line ≠ line && l.l3 && l.w3 = w && s.sliceOf l.line = s.sliceOf line && s.setL3 l.line = s.setL3 line

/-- Room for a line in a cache: a way, none while no way takes part in allocation (R229), or a write-back that must come first and
stalls. -/
inductive Room where
  | way (w : Nat)
  | nowhere
  | waits
deriving DecidableEq, Repr

/-- Room for a line in its L3 slice: the line that the way holds in the set is written back and leaves (R202). -/
def State.roomL3 (s : State) (who : Option Initiator) (line : Nat) : State × Room :=
  match pickOf (s.caches.ways3 (s.sliceOf line)) s.free with
  | none => (s, .nowhere)
  | some w =>
    let s := s.draw.2
    match s.occupant3 w line with
    | none => (s, .way w)
    | some o =>
      let r := s.cleanLine who o.line (some (.l3 (s.sliceOf line) (Fin.ofNat 17 w)))
      (r.1, if r.2 then .way w else .waits)

/-- The line is evicted from the L2 of a section: its copies in the section's L1 caches go with it (R205), and the line goes into
the L3 unless another L2 holds it; while no way of the slice takes part in allocation, it is written to memory (log 26). The answer
is false when a write-back stalls. -/
def State.evict2 (s : State) (who : Option Initiator) (sec : Fin 3) (line : Nat) : State × Bool :=
  match s.caches.find line with
  | none => (s, true)
  | some l =>
    if l.l2 &&& ~~~bitAt 3 sec.val != 0 then (s.dropSection sec line, true)
    else
      let r := s.roomL3 who line
      match r.2 with
      | .way w =>
        let s := r.1.putLine { l.merge with l2 := 0, l1d := 0, l1i := 0, l3 := true, w3 := w }
        (s.clearResv line fun c => sectionOf c = sec, true)
      | .nowhere => r.1.cleanLine who line (some (.l2 sec 0))
      | .waits => (r.1, false)

/-- Room for a line in the L2 of a section: the line that the way holds in the set is evicted. -/
def State.roomL2 (s : State) (who : Option Initiator) (sec : Fin 3) (line : Nat) : State × Room :=
  match pickOf (s.caches.ways2 sec) s.free with
  | none => (s, .nowhere)
  | some w =>
    let s := s.draw.2
    match s.occupant2 sec w line with
    | none => (s, .way w)
    | some o =>
      let r := s.evict2 who sec o.line
      (r.1, if r.2 then .way w else .waits)

/-- The words of a line of Stage SRAM that hold poison. -/
def State.stagePoison (s : State) (line : Nat) : BitVec 24 :=
  (List.range 24).foldl (fun m i => setBit m i (s.stageBad.contains (24 * line + i))) 0

/-- The beats of a line that DRAM stores (09 R338). -/
def State.storedBeats (s : State) (line : Nat) : List Nat :=
  (List.range 8).filter fun b => s.inDram (24 * line + 3 * b) || s.inDram (24 * line + 3 * b + 2)

/-- The line is filled from memory into a way of the L2 of a section (06 R201, R204): its beats are read, and a word outside memory
is zero. -/
def State.fillLine (s : State) (sec : Fin 3) (w line : Nat) : State :=
  let r := s.readBeats .demand line (s.storedBeats line)
  let s := r.1
  s.putLine { line, words := s.rawLine line, dirty := 0, poison := beatsToWords r.2 ||| s.stagePoison line, l2 := bitAt 3 sec.val, l3 := false, l1d := 0, l1i := 0, w2 := Vector.replicate 3 w, w3 := 0, below := none }

/-- The line becomes present in the L2 of the section of a core (06 R205, R206, R843). The answer is false when the access must
wait: no way takes part in allocation, or a write-back that comes first stalls. -/
def State.bringL2 (s : State) (c : Fin 12) (line : Nat) : State × Bool :=
  let sec := sectionOf c
  match s.caches.find line with
  | some l =>
    if l.l2.getLsbD sec.val then (s, true)
    else
      let r := s.roomL2 (some (.voice c)) sec line
      match r.2 with
      | .way w =>
        if l.l3 then (r.1.putLine { l with l3 := false, l2 := bitAt 3 sec.val, w2 := l.w2.set sec w }, true)
        else
          let t := r.1.cleanLine (some (.voice c)) line none
          if !t.2 then t
          else match t.1.caches.find line with
            | none => (t.1.fillLine sec w line, true)
            | some l => (t.1.putLine { l.merge with l2 := setBit l.l2 sec.val true, w2 := l.w2.set sec w }, true)
      | _ => (r.1, false)
  | none =>
    let r := s.roomL2 (some (.voice c)) sec line
    match r.2 with
    | .way w => (r.1.fillLine sec w line, true)
    | _ => (r.1, false)

/-- The other lines that an L1 cache of a core holds in the set of a line. -/
def Caches.othersL1 (ch : Caches) (insn : Bool) (c : Fin 12) (line : Nat) : List Nat :=
  (ch.lines.filter fun l => l.line ≠ line && setL1 l.line = setL1 line && (if insn then l.l1i else l.l1d).getLsbD c.val).map (·.line)

/-- Room for a line in an L1 cache of a core, of four ways: one of the lines of a full set leaves. -/
def State.roomL1 (s : State) (insn : Bool) (c : Fin 12) (line : Nat) : State :=
  let l := s.caches.othersL1 insn c line
  if l.length < 4 then s
  else match pickOf l s.free with
    | none => s
    | some x => s.draw.2.dropSite (if insn then .l1i c else .l1d c) x

/-- The line enters an L1 cache of a core; words that an L1 data cache has changed go to the L2 first (06 R211). -/
def CacheLine.enterL1 (l : CacheLine) (insn : Bool) (c : Fin 12) : CacheLine :=
  if (if insn then l.l1i else l.l1d).getLsbD c.val then l
  else if insn then { l.merge with l1i := setBit l.l1i c.val true } else { l.merge with l1d := setBit l.l1d c.val true }

/-- The line becomes present in an L1 cache of a core (06 R201, R205). -/
def State.bring (s : State) (c : Fin 12) (line : Nat) (insn : Bool) : State × Bool :=
  let r := s.bringL2 c line
  if !r.2 then r
  else
    let s := r.1.roomL1 insn c line
    (match s.caches.find line with | none => s | some l => s.putLine (l.enterL1 insn c), true)

/-- A load or a store of a core brings the line into its L1 data cache. -/
def State.bringData (s : State) (c : Fin 12) (line : Nat) : State × Bool := s.bring c line false

/-- A fetch from a WB page allocates the line in the L1 instruction cache (06 R185). -/
def State.bringInsn (s : State) (c : Fin 12) (line : Nat) : State × Bool := s.bring c line true

/-- One word stored into the copy of an L1 data cache (06 R202, R846); the L2 keeps what it held. -/
def CacheLine.store (l : CacheLine) (i : Nat) (data : Word) (lanes : BitVec 3) : CacheLine :=
  { l with
    words := setWord24 l.words i (mergeLanes (l.words.toList.getD i 0) data lanes)
    dirty := setBit l.dirty i true
    poison := if lanes = 7 then setBit l.poison i false else l.poison
    below := some { l.lower with newer := setBit l.newer i true } }

/-- A WB store of a core into a line that its L2 holds: other caches lose their copies, other cores their reservations. -/
def State.storeCached (s : State) (c : Fin 12) (ws : List WrWord) : State :=
  match ws with
  | [] => s
  | w0 :: _ =>
    let line := lineOf w0.addr
    match s.caches.find line with
    | none => s
    | some l =>
      let l := ws.foldl (fun l w => l.store (w.addr % 24) w.data w.lanes) l
      let s := s.putLine { l with l2 := bitAt 3 (sectionOf c).val, l3 := false, l1d := bitAt 12 c.val, l1i := 0 }
      s.clearResv line fun k => k ≠ c

/-! Reads behind and through the caches by initiators other than Voice cores. -/

/-- Words of memory read by the controller: each beat is read once. The answer gives each word with its poison. -/
def State.readWords (s : State) (snoop : Bool) (a : Nat) : Nat → Option (Nat × Bool) → State × List (Word × Bool)
  | 0, _ => (s, [])
  | n + 1, last =>
    match (if snoop then s.caches.find (lineOf a) else none) with
    | some l =>
      let i := a % 24
      let r := State.readWords s snoop (a + 1) n none
      (r.1, (l.words.toList.getD i 0, l.poison.getLsbD i) :: r.2)
    | none =>
      let key := beatKey (lineOf a) (a % 24 / 3)
      let b := if s.inDram a then (if last.any (fun p => p.1 = key) then (s, last.any (·.2)) else s.readBeat .demand (lineOf a) (a % 24 / 3)) else (s, false)
      let v := b.1.raw a
      let r := State.readWords b.1 snoop (a + 1) n (some (key, b.2))
      (r.1, (v, b.2 || s.stageBad.contains a) :: r.2)

/-- A read by a DMA engine, the landing engine or the debug port: the latest values (06 R212). None is a bus error (03 R76). -/
def State.domainRead (s : State) (a n : Nat) : Option (State × List (Word × Bool)) :=
  if (List.range n).all fun i => s.inMem (a + i) then some (s.readWords true a n none) else none

/-- A read of memory by the debug port: the stored words, and whether the access gets an error response, which marks a poisoned
word (06 R847, Table 6.1a). None is a bus error. -/
def State.debugRead (s : State) (a n : Nat) : Option (State × List Word × Bool) :=
  (s.domainRead a n).map fun r => (r.1, r.2.map (·.1), r.2.any (·.2))

/-- Whole words from an address on, as words of a write. -/
def wholeWords (a : Nat) (data : List Word) : List WrWord :=
  (indexed data).map fun p => { addr := a + p.1, data := p.2, lanes := 7, poison := false }

/-- A write by a member of the coherence domain other than a Voice core (06 R212). Words outside memory are not written:
the answer is false (03 R76). -/
def State.domainWrite (s : State) (w : Initiator) (a : Nat) (data : List Word) : State × Bool :=
  let ws := wholeWords a data
  if ws.all fun x => s.inMem x.addr then
    ((byLine (ws.filter fun x => takesWrite w x.addr)).foldl (fun s g =>
      (s.writeLine { line := g.1, who := some w, wb := false, ws := g.2, own := false, drop := none }).1) s, true)
  else (s, false)

/-- Words that the Conductor reads from memory, outside the coherence domain (01 R13, 06 R220). -/
def State.cdrWords (s : State) (a n : Nat) : State × List (Word × Bool) := s.readWords false a n none

/-- Words that the Conductor writes to memory: no cached copy follows, no reservation is cleared (01 R13, 04 R133). -/
def State.cdrWrite (s : State) (ws : List WrWord) : State :=
  (byLine ws).foldl (fun s g => (s.writeLine { line := g.1, who := some .conductor, wb := false, ws := g.2, own := false, drop := none }).1) s

/-! Upsets (06 R207 to R210, R848; log 16). -/

/-- The ledger source of a cache site (15 Table 15.3). -/
def siteSource : CacheSite → BitVec 12
  | .l1i c => BitVec.ofNat 12 (0x100 + c.val)
  | .l1d c => BitVec.ofNat 12 (0x200 + c.val)
  | .l2 s w => BitVec.ofNat 12 (0x300 + 9 * s.val + w.val)
  | .l3 n w => BitVec.ofNat 12 (0x400 + 17 * n.val + w.val)

/-- The cache of a site holds the line: for an L2 or an L3 slice, in the way of the site (06 R200, R848). -/
def State.siteHolds (s : State) (site : CacheSite) (line : Nat) : Bool :=
  (s.caches.find line).any fun l =>
    match site with
    | .l1i c => l.l1i.getLsbD c.val
    | .l1d c => l.l1d.getLsbD c.val
    | .l2 sec w => l.l2.getLsbD sec.val && l.w2[sec] = w.val
    | .l3 n w => l.l3 && s.sliceOf line = n && l.w3 = w.val

/-- The words of a line that are dirty in the cache of a site (06 R202): an L1 data cache's are those that it has changed. -/
def CacheLine.dirtyAt (l : CacheLine) : CacheSite → BitVec 24
  | .l1i _ => 0
  | .l1d _ => l.newer
  | .l2 _ _ => l.lower.dirty
  | .l3 _ _ => l.dirty

/-- A dirty word of a line is marked poisoned in the cache of a site (06 R209): the L2's copy of a word that an L1 data cache has
changed since is seen by no one until then. -/
def CacheLine.poisonAt (l : CacheLine) (site : CacheSite) (i : Nat) : CacheLine :=
  match site with
  | .l2 _ _ =>
    { l with
      poison := if l.newer.getLsbD i then l.poison else setBit l.poison i true
      below := l.below.map fun b => { b with poison := setBit b.poison i true } }
  | _ => { l with poison := setBit l.poison i true }

/-- The core on which an error in a tag or state entry raises its deferred error (06 R210). -/
def siteOwner : CacheSite → Fin 12
  | .l1i c => ⟨4 * (c.val / 4), by omega⟩
  | .l1d c => ⟨4 * (c.val / 4), by omega⟩
  | .l2 s _ => ⟨4 * s.val, by omega⟩
  | .l3 _ _ => 0

/-- An uncorrectable error in a data word: a word dirty in that cache is marked poisoned (06 R209); otherwise the dirty words of the
line are written back, from an L1 to its L2 and from there to memory, and the line is invalidated there (R208). -/
def State.upsetCacheWord (s : State) (site : CacheSite) (a : Nat) : State :=
  let line := lineOf a
  if !s.siteHolds site line then s
  else
    let s := s.post (siteSource site) 1
    match s.caches.find line with
    | none => s
    | some l =>
      if (l.dirtyAt site).getLsbD (a % 24) then s.putLine (l.poisonAt site (a % 24))
      else match site with
        | .l1i _ => s.dropSite site line
        | .l1d _ => s.dropSite site line
        | _ => (s.cleanLine none line (some site)).1

/-- An L1 data cache loses a line with the words that it has changed: the line is again what the L2 holds (06 R210). -/
def CacheLine.lost (l : CacheLine) : CacheLine :=
  { l.merge with words := l.lower.words, dirty := l.lower.dirty, poison := l.lower.poison }

/-- An uncorrectable error in a tag or state entry (06 R210, R848): reported, and where the entry holds a valid line, the
line is lost there and a deferred error of KIND 3 with address 0 is raised. -/
def State.upsetTag (s : State) (site : CacheSite) (line : Nat) : State :=
  let s := s.post (siteSource site) 1
  if !s.siteHolds site line then s
  else
    let s := match site, s.caches.find line with
      | .l1d _, some l => s.putLine l.lost
      | _, _ => s
    (s.dropSite site line).modCore (siteOwner site) fun v => v.defer 0 3

/-- A parity error in a translation cache: the entry is discarded (07 R274). -/
def VoiceCore.tlbUpset (v : VoiceCore) (x : TlbArray) (n : Nat) : VoiceCore :=
  match x with
  | .itlb => { v with itlb := v.itlb.eraseIdx n }
  | .dtlb => { v with dtlb := v.dtlb.eraseIdx n }
  | .l2tlb => { v with l2tlb := v.l2tlb.eraseIdx n }
  | .walk => { v with walk := v.walk.eraseIdx n }

/-- One upset takes place, before the command acts. -/
def State.upset (s : State) : Upset → State
  | .dram a x => s.upsetDram a.toNat x
  | .cacheCe site => s.post (siteSource site) 0
  | .cacheUe site a => s.upsetCacheWord site a.toNat
  | .tagUe site line => s.upsetTag site line
  | .tlb c x n => (s.modCore c fun v => v.tlbUpset x n).post (BitVec.ofNat 12 (0x700 + c.val)) 0
  | .echo line off ue => s.upsetEcho line off.val ue
  | .sram n ue => s.post (BitVec.ofNat 12 (0x900 + n.val)) (if ue then 1 else 0)
  | .flash n => s.post (BitVec.ofNat 12 (0x800 + n.val)) 0
  | .trace sec i => { s with trace := s.trace.set sec { s.trace[sec] with buf := Memory.setWord ramDefault s.trace[sec].buf (i % 65536) 0 } }

/-- The upsets of a command take place. -/
def State.upsets (s : State) (l : List Upset) : State := l.foldl State.upset s

/-- The uncorrectable errors that the write-back of a line meets: each in a word dirty in its cache, which raises a deferred error of
KIND 3 on core 0 of the section (05 R174, R175; log 25). -/
def State.backErrors (s : State) (line : Nat) (l : List Upset) : State :=
  l.foldl (fun s u => match u with
    | .cacheUe site a =>
      if lineOf a.toNat = line && s.siteHolds site line && ((s.caches.find line).any fun l => (l.dirtyAt site).getLsbD (a.toNat % 24))
      then s.modCore (siteOwner site) fun v => v.defer a 3 else s
    | _ => s) s

/-- An uncorrectable error lies in the words that the command reads from on-chip SRAM `n` (15 Table 15.3 class 9). -/
def sramBad (n : Fin 3) (l : List Upset) : Bool := l.any fun u => match u with | .sram m ue => m = n && ue | _ => false

end Sys2Proof.Machine
end

