-- ==== Sys2Proof/Machine/Signals.lean ====
section
/-! DEFINITION. What Chorus signals to the cores: level inputs, pending sources and the selection at each interface (08), and
which agents can act now. -/
namespace Sys2Proof.Machine

/-! Conditions of units that drive level sources. -/

/-- Word `off` of a ring's page of Stage SRAM. -/
def State.ringWord (s : State) (r : BitVec 5) (off : Nat) : Word := Memory.word ramDefault s.stage (r.toNat * 4096 + off)
/-- RPL_PROD of a ring. -/
def State.rplProd (s : State) (r : BitVec 5) : Word := s.ringWord r 2
/-- RPL_CONS of a ring. -/
def State.rplCons (s : State) (r : BitVec 5) : Word := s.ringWord r 3
/-- The input configuration of a pin. -/
def Gpio.cfgOf (g : Gpio) (pin : Nat) : BitVec 2 := bits g.icfg (2 * pin) 2

/-- The level that a pin of level kind presents to Chorus (17 R723). -/
def Gpio.active (g : Gpio) (pin : Nat) : Bool := g.pins.getLsbD pin ^^ (g.cfgOf pin).getLsbD 0

/-- Source 16 of a target is asserted. -/
def State.timerFired (s : State) (t : Nat) : Bool := match Tbl.find s.chorus.timer t with | some (_, b) => b | none => false

/-! Level inputs (08 Tables 8.2 and 8.3, R299). -/

/-- Numbers of the doorbells and shared sources that can assert. -/
def sharedNumbers : List Nat := List.range 16 ++ (List.range 156).map (· + 48)
/-- Numbers of the private sources that can assert. -/
def privNumbers : List Nat := [16, 17, 18, 19, 20, 21]

/-- An enabled source is routed by injection to a core and a partition. -/
def Src.injects (x : Src) (c p : Nat) : Bool := x.mode && x.target.toNat = c && x.part.toNat = p

/-- The unit that a shared level source belongs to holds its condition. -/
def State.sharedLevel (s : State) (n : Nat) : Bool :=
  let io := s.io
  if n = 48 then
    s.bar.cfgReject || s.bar.captSkip || s.bar.ovrSat || s.bar.resumed || s.presentCores.any fun c => (s.cbar c).reject || (s.cbar c).stgIgn
  else if n = 49 then gated s.tempo.flags s.tempo.ien
  else if n = 51 then (s.mc.ce && s.mc.ien.getLsbD 0) || (s.mc.refqBrk && s.mc.ien.getLsbD 2) || (s.mc.resvRej && s.mc.ien.getLsbD 3) || (s.mc.trainFail && s.mc.ien.getLsbD 4)
  else if n = 52 then s.mc.ue && s.mc.ien.getLsbD 1
  else if n = 53 then s.echo.stall || s.echo.poisoned || s.echo.abandoned || s.echo.cfgRej || gated (bits s.refrain.flags 4 4) (bits s.refrain.ien 4 4)
  else if n = 54 then gated (setBit s.duet.flags 3 false) (bits s.duet.ien 0 8)
  else if n = 55 then s.duet.flags.getLsbD 3
  else if n = 56 then gated (bits s.refrain.flags 0 4) (bits s.refrain.ien 0 4)
  else if n = 57 then s.health.fail || s.health.overrun || s.health.coverLate
  else if n = 58 then !s.health.evq.isEmpty || s.health.ovf
  else if n = 59 then s.caches.reject || s.caches.short
  else if h : 60 ≤ n ∧ n ≤ 62 then let t := s.trace[n - 60]'(by omega); gated t.sstat t.sien
  else if n = 63 then s.bm.empty != 0 || s.bm.dblFree || s.bm.badFree
  else if 64 ≤ n && n ≤ 79 then let r := BitVec.ofNat 5 (n - 64); s.rplProd r != s.rplCons r
  else if n = 80 then s.rings.dbPend != 0
  else if n = 81 then s.rings.dbPartner
  else if n = 82 then s.rings.dbDebug
  else if h : 84 ≤ n ∧ n ≤ 91 then
    let e := io.eth[(n - 84) / 4]'(by omega)
    match (n - 84) % 4 with
    | 0 => e.ien.getLsbD 5 && e.rxcProd != e.rxcCons
    | 1 => e.stat.getLsbD 0 && e.ien.getLsbD 0
    | 2 => gated (e.stat &&& 0x1C) (bits e.ien 0 5)
    | _ => e.stat.getLsbD 1 && e.ien.getLsbD 1
  else if h : 92 ≤ n ∧ n ≤ 99 then
    let x := io.can[(n - 92) / 2]'(by omega)
    if n % 2 = 0 then x.ien.getLsbD 0 && !x.rxq.isEmpty else gated x.flags (bits x.ien 8 4)
  else if h : 100 ≤ n ∧ n ≤ 103 then let x := io.spi[n - 100]'(by omega); gated x.flags x.ien
  else if h : 104 ≤ n ∧ n ≤ 107 then let x := io.i2c[n - 104]'(by omega); gated x.flags x.ien
  else if h : 108 ≤ n ∧ n ≤ 111 then let x := io.uart[n - 108]'(by omega); gated x.flags x.ien
  else if 112 ≤ n && n ≤ 175 then io.gpio.active (n - 112)
  else if h : 176 ≤ n ∧ n ≤ 191 then let x := io.pwm[n - 176]'(by omega); gated x.stat x.ien
  else if n = 200 then gated io.xspi.flags io.xspi.ien
  else if n = 201 then s.pwr.tjHot
  else if n = 202 then s.pwr.supplyLow != 0 || io.gpio.low != 0 || io.vddaLow
  else if n = 203 then s.rings.noticePend
  else false

/-- INJ_WAIT of a core, but for source 21 itself (08 R320): an injected source of partition `p` is enabled and pending. -/
def State.injWaits (s : State) (c : Fin 12) (p : Nat) : Bool :=
  p ≠ (s.core c).mptag.toNat && (
    (sharedNumbers.any fun n =>
      let x := s.chorus.src c.val n
      s.srcPresent c.val n && x.en && x.injects c.val p && (if x.edge then x.latch else (s.sharedLevel n || x.input) && x.active.isNone)) ||
    ([16, 19, 20].any fun n =>
      let x := s.chorus.src c.val n
      s.srcPresent c.val n && x.en && x.injects c.val p && (if x.edge then x.latch else (s.timerFired c.val || x.input) && x.active.isNone)))

/-- INJ_WAIT, but for source 21 itself. -/
def State.injOthers (s : State) (c : Fin 12) : Word :=
  (List.range 15).foldl (fun w p => if s.injWaits c (p + 1) then setBit w (p + 1) true else w) 0

/-- INJ_NOTIFY of a target. -/
def State.injNotify (s : State) (t : Nat) : Word := Tbl.get s.chorus.notify t 0

/-- Source 21 of a core is asserted (08 Table 8.2). Its own bit in INJ_WAIT cannot assert it: that bit is 1 only while it is. -/
def State.injAsserted (s : State) (c : Fin 12) : Bool := s.injOthers c &&& s.injNotify c.val != 0

/-- INJ_WAIT (08 R320): an injected source 21 that is enabled and pending counts too. -/
def State.injWait (s : State) (c : Fin 12) : Word :=
  let x := s.chorus.src c.val 21
  let p := x.part.toNat
  let own := x.en && x.injects c.val p && p ≠ 0 && p ≠ (s.core c).mptag.toNat &&
    (if x.edge then x.latch else (s.injAsserted c || x.input) && x.active.isNone)
  if own then setBit (s.injOthers c) p true else s.injOthers c

/-- The level of the input of source `n`, private to target `t` where it is private (08 R299, log 21). -/
def State.input (s : State) (t n : Nat) : Bool :=
  s.srcPresent t n && ((s.chorus.src t n).input ||
    (if n = 16 then s.timerFired t
     else if n = 21 then (if h : t < 12 then s.injAsserted ⟨t, h⟩ else false)
     else !(s.chorus.src t n).edge && s.sharedLevel n))

/-- The source is pending (08 R299, R300). -/
def State.isPending (s : State) (t n : Nat) : Bool :=
  let x := s.chorus.src t n
  if x.edge then x.latch else s.input t n && x.active.isNone

/-! Interfaces (08 section 8.3). -/

/-- The target of an interface. -/
def Iface.target : Iface → Nat
  | .monitor t => t
  | .kernel c _ => c
/-- The routing of a source selects the interface (08 R306). -/
def Src.routesTo (x : Src) : Iface → Bool
  | .monitor t => !x.mode && x.target.toNat = t
  | .kernel c p => x.injects c p
/-- PMASK of an interface (08 R316, R317). -/
def State.pmask (s : State) : Iface → BitVec 6
  | .monitor t => Tbl.get s.chorus.pmaskM t 32
  | .kernel c p => Tbl.get s.chorus.pmaskK (16 * c + p) 32
/-- Sources that can be at the interfaces of a target. -/
def sourceNumbers : List Nat := List.range 22 ++ (List.range 156).map (· + 48)
/-- RUNPRIO of an interface (08 R311). -/
def State.runPrio (s : State) (i : Iface) : Nat :=
  sourceNumbers.foldl (fun m n => let x := s.chorus.src i.target n; if x.active = some i then min m x.prio.toNat else m) 32
/-- Source `n` is deliverable at an interface (08 R306, R295, R319). -/
def State.deliverable (s : State) (i : Iface) (n : Nat) : Bool :=
  let x := s.chorus.src i.target n
  s.chorus.en && n != 18 && s.srcPresent i.target n && x.en && s.isPending i.target n && x.active.isNone && x.routesTo i &&
    decide (x.prio.toNat < (s.pmask i).toNat) && decide (x.prio.toNat < s.runPrio i)
/-- The source that R308 selects at an interface, with its priority. -/
def State.best (s : State) (i : Iface) : Option (Nat × Nat) :=
  sourceNumbers.foldl (fun b n =>
    if s.deliverable i n then
      let p := (s.chorus.src i.target n).prio.toNat
      match b with
      | none => some (n, p)
      | some (m, q) => if p < q then some (n, p) else some (m, q)
    else b) none

/-- The monitor interface signals an interrupt to a target (08 R307). -/
def State.monIrq (s : State) (t : Nat) : Option Nat := (s.best (.monitor t)).map (·.1)
/-- The kernel interface signals an interrupt to a Voice core (08 R307, R319). -/
def State.kerIrq (s : State) (c : Fin 12) : Option Nat :=
  if (s.core c).mptag = 0 then none else (s.best (.kernel c.val (s.core c).mptag.toNat)).map (·.1)

/-! Agents that can act. -/

/-- WFI of a core ends: an interrupt is pending for it, or an asynchronous exception (04 Table 4.9, 05 R167; log 12). -/
def State.wfiEnds (s : State) (c : Fin 12) : Bool :=
  (s.monIrq c.val).isSome || (s.kerIrq c).isSome || (s.core c).bx.isSome || (s.core c).mderrh.getLsbD 23

/-- The core issues instructions: present, released, clocked, and not stopped or held (02 R34, 04 R142, 15 R630, 19). -/
def State.issues (s : State) (c : Fin 12) : Bool :=
  let v := s.core c
  s.on && s.hasCore c && v.released && !v.hush && (!v.wfi || s.wfiEnds c) && !v.barHold && !v.sliceHold && !s.stalledBy (.voice c)

/-- The Conductor executes. -/
def State.cdrRuns (s : State) : Bool := s.on && s.cdr.run = .running && !s.stalledBy .conductor

/-- The Conductor issues instructions: it executes and is not stopped by WFI (04 Table 4.9). -/
def State.cdrIssues (s : State) : Bool := s.cdrRuns && (!s.cdr.wfi || (s.monIrq 12).isSome)

/-- The agent can make an access now. DMA engines, the landing engine and the debug port can whenever the device runs. -/
def State.canAct (s : State) : Initiator → Bool
  | .voice c => s.issues c
  | .conductor => s.cdrIssues
  | w => s.on && !s.stalledBy w

/-- A core that acts is no longer stopped by WFI. -/
def State.awake (s : State) : Initiator → State
  | .voice c => s.modCore c fun v => { v with wfi := false }
  | .conductor => { s with cdr := { s.cdr with wfi := false } }
  | _ => s

/-- A register access by an initiator, which changes nothing when the initiator cannot act (log 4). -/
def ifActs (w : Initiator) (s : State) (f : State → State) : Host.Outcome State Fault Refusal :=
  .next (if s.canAct w then f (s.awake w) else s)

end Sys2Proof.Machine
end

