-- ==== Sys2Proof/Machine/Pools.lean ====
section
/-! DEFINITION. The buffer manager (10 section 10.7) and what the register windows share: the kinds of initiator. -/
namespace Sys2Proof

/-- A number for each initiator, by which latched reads are kept (12 R525, 17 R713). -/
def Initiator.idx : Initiator → Nat
  | .conductor => 0
  | .debug => 1
  | .landing => 2
  | .dma (.eth n) => 3 + n.val
  | .dma (.can n) => 5 + n.val
  | .dma .xspi => 9
  | .dma .trace => 10
  | .dma .duetTx => 11
  | .dma .stream => 12
  | .voice c => 13 + c.val

/-- The access is made by the Conductor. -/
def Initiator.isCdr (w : Initiator) : Bool := w = .conductor
/-- A lock holds against the initiator: every one but the Conductor. An RWL field ignores writes once its lock is set (00 R12, 03 R87),
and the lock rules except the Conductor alone (02 R55, 17 R729, 18 R753); they name Voice cores and the debug port, and a write of a
DMA engine is read as any other (DESIGN CHOICE, log 27). -/
def Initiator.locked (w : Initiator) : Bool := !w.isCdr

end Sys2Proof

namespace Sys2Proof.Machine

/-- The access is made by a Voice core at monitor level. -/
def State.monitorOf (s : State) (w : Initiator) : Bool := match w with | .voice c => (s.core c).level = .monitor | _ => false
/-- The initiator may write every field of a window that belongs to the Conductor, or is a Voice core at monitor level,
which may write its W1C fields (09 R376, 15 R661). -/
def State.mayW1c (s : State) (w : Initiator) : Bool := w.isCdr || s.monitorOf w

/-- The empty handle (10 R425). -/
def emptyHandle : Word := 0xFFFFFF
/-- The handle of buffer `i` of pool `p` (10 R425). -/
def handleOf (p i : Nat) : Word := BitVec.ofNat 24 (p * 2 ^ 19 + i)
/-- The pool that a handle names. -/
def handlePool (h : Word) : Fin 32 := (bits h 19 5).toFin
/-- The buffer index of a handle. -/
def handleIndex (h : Word) : Nat := (bits h 0 19).toNat

/-- Pool `p`. -/
def State.pool (s : State) (p : Fin 32) : Pool := s.bm.pools[p]
/-- The state with pool `p` replaced. -/
def State.setPool (s : State) (p : Fin 32) (x : Pool) : State := { s with bm := { s.bm with pools := s.bm.pools.set p x } }

/-- An engine's check of a handle (17 R700). -/
def State.handleOk (s : State) (h : Word) : Bool :=
  (s.pool (handlePool h)).en && handleIndex h < (s.pool (handlePool h)).count.toNat

/-- SIZE in lines: a field of 0 stands for 1024 (10 R427, Table 10.7; log 23). -/
def Pool.lines (p : Pool) : Nat := if p.size = 0 then 1024 else p.size.toNat
/-- The first word of buffer `i` of a pool (10 R426). -/
def Pool.bufAt (p : Pool) (i : Nat) : Nat := p.base.toNat + i * p.lines * 24
/-- Bytes that a buffer of the pool holds. -/
def Pool.bytes (p : Pool) : Nat := 72 * p.lines
/-- The first word of the buffer of a handle. -/
def State.handleAt (s : State) (h : Word) : Nat := (s.pool (handlePool h)).bufAt (handleIndex h)

/-- One request to a pool (10 R428 to R431): the handle granted, or the empty handle with EMPTY set. -/
def State.grant (s : State) (p : Fin 32) (cdr : Bool) : State × Word :=
  let x := s.pool p
  let enough := if cdr then 1 ≤ x.free.length else 2 < x.free.length
  match x.free with
  | i :: rest =>
    if x.en && enough then
      (s.setPool p { x with free := rest, low := if rest.length < x.low.toNat then BitVec.ofNat 19 rest.length else x.low }, handleOf p.val i)
    else ({ s with bm := { s.bm with empty := setBit s.bm.empty p.val true } }, emptyHandle)
  | [] => ({ s with bm := { s.bm with empty := setBit s.bm.empty p.val true } }, emptyHandle)

/-- A handle is released to pool `p` by a source that may release there, or not (10 R433). -/
def State.release (s : State) (p : Fin 32) (h : Word) (allowed : Bool) : State :=
  let x := s.pool p
  let i := handleIndex h
  if allowed && handlePool h = p && x.en && i < x.count.toNat then
    if x.free.contains i then { s with bm := { s.bm with dblFree := true } }
    else s.setPool p { x with free := x.free ++ [i] }
  else { s with bm := { s.bm with badFree := true } }

/-- An engine releases a buffer (17 R701). -/
def State.dmaRelease (s : State) (h : Word) : State := s.release (handlePool h) h true

/-- The source of an access admits it to a pool (10 R432): at user or kernel level only the OWNER's partition. -/
def State.poolAdmits (s : State) (w : Initiator) (p : Fin 32) : Bool :=
  match w with
  | .voice c => (s.core c).level = .monitor || ((s.core c).mptag = (s.pool p).owner && (s.pool p).owner != 0)
  | _ => true

/-- A read of POOL_ALLOC (10 R432). -/
def State.poolAlloc (s : State) (w : Initiator) (p : Fin 32) : State × Word :=
  if !(s.pool p).en || !s.poolAdmits w p then (s, emptyHandle)
  else
    let r := s.grant p w.isCdr
    match w with
    | .voice c => if r.2 = emptyHandle then r else ({ r.1 with bm := { r.1.bm with lastCore := BitVec.ofNat 4 c.val } }, r.2)
    | _ => r

/-- A write of POOL_RELEASE (10 R433). -/
def State.poolRelease (s : State) (w : Initiator) (p : Fin 32) (h : Word) : State := s.release p h (s.poolAdmits w p)

/-- A write of POOL_LOWMARK (10 Table 10.7, R439): by the Conductor, sets it to POOL_FREE. -/
def State.poolLowmark (s : State) (w : Initiator) (p : Fin 32) : State :=
  if w.isCdr then s.setPool p { s.pool p with low := BitVec.ofNat 19 (s.pool p).free.length } else s

/-- EN of a pool is set: every buffer is free, in ascending order (10 R428). -/
def Pool.enable (x : Pool) : Pool :=
  { x with en := true, free := List.range x.count.toNat, low := x.count }

/-- A read of the buffer manager's window. -/
def State.bmRead (s : State) (w : Initiator) (off : Nat) : State × Word :=
  if off = 0 then (s, flag 24 0 s.bm.dblFree ||| flag 24 1 s.bm.badFree)
  else if off = 1 then (s, s.bm.empty.setWidth 24)
  else if off = 2 then (s, (bits s.bm.empty 24 8).setWidth 24)
  else if h : 0x100 ≤ off ∧ off < 0x200 then
    let p : Fin 32 := ⟨(off - 0x100) / 8, by omega⟩
    let x := s.pool p
    match off % 8 with
    | 0 => (s, paLo x.base)
    | 1 => (s, paHi x.base)
    | 2 => (s, x.size.setWidth 24 ||| (x.owner.setWidth 24 <<< 10) ||| flag 24 14 x.en)
    | 3 => (s, x.count.setWidth 24)
    | 4 => (s, BitVec.ofNat 24 x.free.length)
    | 5 => (s, x.low.setWidth 24)
    | 6 => s.poolAlloc w p
    | _ => (s, 0)
  else (s, 0)

/-- A write to the buffer manager's window (10 Table 10.7, R439). -/
def State.bmWrite (s : State) (w : Initiator) (off : Nat) (v : Word) : State :=
  if off = 0 then { s with bm := { s.bm with dblFree := w1c s.bm.dblFree (v.getLsbD 0), badFree := w1c s.bm.badFree (v.getLsbD 1) } }
  else if off = 1 then { s with bm := { s.bm with empty := s.bm.empty &&& ~~~(v.setWidth 32) } }
  else if off = 2 then { s with bm := { s.bm with empty := s.bm.empty &&& ~~~((v.setWidth 8).setWidth 32 <<< 24) } }
  else if h : 0x100 ≤ off ∧ off < 0x200 then
    let p : Fin 32 := ⟨(off - 0x100) / 8, by omega⟩
    let x := s.pool p
    match off % 8 with
    | 0 => if w.isCdr then s.setPool p { x with base := paddrOf v (paHi x.base) } else s
    | 1 => if w.isCdr then s.setPool p { x with base := paddrOf (paLo x.base) v } else s
    | 2 =>
      if w.isCdr then
        let y := { x with size := bits v 0 10, owner := bits v 10 4 }
        s.setPool p (if v.getLsbD 14 then (if x.en then y else y.enable) else { y with en := false, free := [] })
      else s
    | 3 => if w.isCdr then s.setPool p { x with count := bits v 0 19 } else s
    | 5 => s.poolLowmark w p
    | 7 => s.poolRelease w p v
    | _ => s
  else s

end Sys2Proof.Machine
end

