-- ==== Sys2Proof/Machine/CacheCtl.lean ====
section
/-! DEFINITION. The cache-control block: way maps, flushes and initialisations, and evictions (06 sections 6.4 and 6.9). -/
namespace Sys2Proof.Machine

/-! Flushes (06 R228). -/

/-- Lines that a way of a section's L2 holds. -/
def State.wayLines2 (s : State) (sec : Fin 3) (w : Nat) : List Nat :=
  (s.caches.lines.filter fun l => l.l2.getLsbD sec.val && l.w2[sec] = w).map (·.line)

/-- Lines that a way of an L3 slice holds. -/
def State.wayLines3 (s : State) (n : Fin 4) (w : Nat) : List Nat :=
  (s.caches.lines.filter fun l => l.l3 && s.sliceOf l.line = n && l.w3 = w).map (·.line)

/-- A way of an L2 is flushed; a line whose write-back stalls stays until the stall ends (09 R370). -/
def State.flush2 (s : State) (sec : Fin 3) (w : Nat) : State :=
  (s.wayLines2 sec w).foldl (fun s line => (s.cleanLine none line (some (.l2 sec (Fin.ofNat 9 w)))).1) s

/-- A way of an L3 slice is flushed. -/
def State.flush3 (s : State) (n : Fin 4) (w : Nat) : State :=
  (s.wayLines3 n w).foldl (fun s line => (s.cleanLine none line (some (.l3 n (Fin.ofNat 17 w)))).1) s

/-! Way maps (06 Table 6.5, R227 to R230, R232). -/

/-- Bits that fall, and bits that rise, from `a` to `b` below `n`. -/
def fallen (a b : Word) (lo n : Nat) : List Nat := (List.range n).filter fun i => a.getLsbD (lo + i) && !b.getLsbD (lo + i)

/-- Operations started on a cache are queued, flushes before initialisations (06 R844). The operations of all caches share one queue,
and a later write's flushes go ahead of the initialisations that still wait (R844 orders those of one write; DESIGN CHOICE, log 26). -/
def Caches.queue (c : Caches) (flushes inits : List WayOp) : Caches :=
  let isFlush : WayOp → Bool := fun o => match o with | .flushL2 _ _ => true | .flushL3 _ _ => true | _ => false
  { c with ops := c.ops.filter isFlush ++ flushes ++ c.ops.filter (fun o => !isFlush o) ++ inits }

/-- SHORT is set where the ways in use fall below `full` (06 R232). -/
def Caches.short_ (c : Caches) (a b full : Nat) : Caches := if b < a && b < full then { c with short := true } else c

/-- L2_WAYSs takes a new value. -/
def State.setL2Ways (s : State) (sec : Fin 3) (v : Word) : State :=
  let old := s.caches.l2ways[sec]
  let out := (fallen old v 0 9 ++ fallen v old 9 9).eraseDups
  let inn := (fallen v old 0 9 ++ fallen old v 9 9).eraseDups
  let c := { s.caches with l2ways := s.caches.l2ways.set sec v }
  let c := (c.queue (out.map fun w => .flushL2 sec.val w) (inn.map fun w => .initL2 sec.val w)).short_ (popcount (bits old 0 9)) (popcount (bits v 0 9)) 8
  out.foldl (fun s w => s.flush2 sec w) { s with caches := c }

/-- L3_ENn and L3_ISOn take new values. -/
def State.setL3Ways (s : State) (n : Fin 4) (en iso : Word) : State :=
  let e0 := s.caches.l3en[n]
  let i0 := s.caches.l3iso[n]
  let out := (fallen e0 en 0 17 ++ fallen iso i0 0 17).eraseDups
  let inn := (fallen en e0 0 17 ++ fallen i0 iso 0 17).eraseDups
  let c := { s.caches with l3en := s.caches.l3en.set n en, l3iso := s.caches.l3iso.set n iso }
  let c := (c.queue (out.map fun w => .flushL3 n.val w) (inn.map fun w => .initL3 n.val w)).short_ (popcount e0) (popcount en) 16
  out.foldl (fun s w => s.flush3 n w) { s with caches := c }

/-- A way-map write is refused (06 R227). -/
def State.rejectMap (s : State) : State := { s with caches := { s.caches with reject := true } }

/-- A value that L2_WAYSs may take (06 R227). -/
def okL2 (v : Word) : Bool := popcount (bits v 0 9) ≤ 8 && bits v 0 9 &&& ~~~bits v 9 9 != 0
/-- Values that L3_ENn and L3_ISOn may take (06 R227). -/
def okL3 (en iso : Word) : Bool := popcount en ≤ 16 && en &&& ~~~iso != 0

/-- L2_WAYSs is written: not more than 8 ways in use, and one at least that is not isolated (06 R227). -/
def State.mapL2 (s : State) (sec : Fin 3) (v : Word) : State :=
  if okL2 v then s.setL2Ways sec v else s.rejectMap

/-- L3_ENn and L3_ISOn are written: not more than 16 ways in use, and one at least that is not isolated (06 R227). -/
def State.mapL3 (s : State) (n : Fin 4) (en iso : Word) : State :=
  if okL3 en iso then s.setL3Ways n en iso else s.rejectMap

/-- A way-map write: by the Conductor only, to a cache that is present (06 R226, R227). -/
def State.wayMapWrite (s : State) (w : Initiator) (reg : WayReg) (v : Word) : State :=
  if !w.isCdr then s
  else match reg with
  | .l2ways sec => if s.die.variant.sections ≤ sec.val then s else s.mapL2 sec (v &&& 0x03FFFF)
  | .l3en n => if s.die.variant.slices ≤ n.val then s else s.mapL3 n (v &&& 0x01FFFF) s.caches.l3iso[n]
  | .l3iso n => if s.die.variant.slices ≤ n.val then s else s.mapL3 n s.caches.l3en[n] (v &&& 0x01FFFF)

/-- The register at an offset of the cache-control block. -/
def wayRegAt (off : Nat) : Option WayReg :=
  if h : off < 3 then some (.l2ways ⟨off, h⟩)
  else if h : 4 ≤ off ∧ off < 8 then some (.l3en ⟨off - 4, by omega⟩)
  else if h : 8 ≤ off ∧ off < 12 then some (.l3iso ⟨off - 8, by omega⟩)
  else none

/-- A read of the cache-control block, from its offset +0x800. -/
def State.cacheRead (s : State) (off : Nat) : Word :=
  match wayRegAt off with
  | some (.l2ways sec) => if sec.val < s.die.variant.sections then s.caches.l2ways[sec] else 0
  | some (.l3en n) => if n.val < s.die.variant.slices then s.caches.l3en[n] else 0
  | some (.l3iso n) => if n.val < s.die.variant.slices then s.caches.l3iso[n] else 0
  | none => if off = 12 then flag 24 0 (!s.caches.ops.isEmpty) ||| flag 24 1 s.caches.reject ||| flag 24 2 s.caches.short else 0

/-- A write to the cache-control block (06 R226). -/
def State.cacheWrite (s : State) (w : Initiator) (off : Nat) (v : Word) : State :=
  match wayRegAt off with
  | some r => s.wayMapWrite w r v
  | none =>
    if off = 12 && w.isCdr then
      { s with caches := { s.caches with reject := w1c s.caches.reject (v.getLsbD 1), short := w1c s.caches.short (v.getLsbD 2) } }
    else s

/-- WAY_MAP_WRITE. -/
def execWayMapWrite (w : Initiator) (reg : WayReg) (v : Word) (s : State) : Host.Outcome State Fault Refusal :=
  ifActs w s fun s => s.wayMapWrite w reg v

/-- The number of a section, as a valid one. -/
def secOf (n : Nat) : Fin 3 := ⟨n % 3, Nat.mod_lt _ (by decide)⟩
/-- The number of a slice, as a valid one. -/
def sliceNo (n : Nat) : Fin 4 := ⟨n % 4, Nat.mod_lt _ (by decide)⟩

/-- The operation in front is over, where nothing is left to write back (06 R844). -/
def State.wayOpEnd (s : State) : State :=
  match s.caches.ops with
  | [] => s
  | o :: rest =>
    match o with
    | .flushL2 n w =>
      let s := s.flush2 (secOf n) w
      if (s.wayLines2 (secOf n) w).isEmpty then { s with caches := { s.caches with ops := rest } } else s
    | .flushL3 n w =>
      let s := s.flush3 (sliceNo n) w
      if (s.wayLines3 (sliceNo n) w).isEmpty then { s with caches := { s.caches with ops := rest } } else s
    | _ => { s with caches := { s.caches with ops := rest } }

/-- WAY_OPERATION_END. -/
def execWayOperationEnd (s : State) : Host.Outcome State Fault Refusal := ifOn s State.wayOpEnd

/-! Evictions (06 R202, R206). -/

/-- A line is evicted from the cache of a site that holds it. -/
def State.evict (s : State) (site : CacheSite) (line : Nat) : State :=
  if !s.siteHolds site line then s
  else match site with
  | .l2 sec _ => (s.evict2 none sec line).1
  | .l3 _ _ => (s.cleanLine none line (some site)).1
  | _ => s.dropSite site line

/-- WRITE_BACK: a line is evicted from the L1 or the way that the site names (06 R202); an uncorrectable error that the write-back
meets is a deferred error (05 R175). -/
def execWriteBack (site : CacheSite) (line : Nat) (ups : List Upset) (s : State) : Host.Outcome State Fault Refusal :=
  ifOn s fun s => ((s.backErrors line ups).upsets ups).evict site line

end Sys2Proof.Machine
end

