-- ==== Sys2Proof/Machine/Net.lean ====
section
/-! DEFINITION. Ethernet MACs and CAN FD controllers (17 sections 17.2 to 17.4): registers, received and sent frames. -/
namespace Sys2Proof.Machine

/-- The address of entry `c` of a descriptor ring (17 section 17.2). -/
def ringEntry (base : PAddr) (size : BitVec 11) (c : Word) : Nat := base.toNat + 8 * (c.toNat % size.toNat)
/-- Entries in use of a ring. -/
def ringUsed (prod cons : Word) : Nat := (prod - cons).toNat
/-- A signed 24-bit number. -/
def signed24 (w : Word) : Int := w.toInt

/-! Ethernet. -/

/-- MAC `n`. -/
def State.eth (s : State) (n : Fin 2) : Eth := s.io.eth[n]
/-- The state with MAC `n` changed. -/
def State.modEth (s : State) (n : Fin 2) (f : Eth → Eth) : State :=
  { s with io := { s.io with eth := s.io.eth.set n (f (s.eth n)) } }
/-- The MAC is present (00 Table 0.1). -/
def State.hasEth (s : State) (n : Fin 2) : Bool := n.val < s.die.variant.eths
/-- RX_EN. -/
def Eth.rxEn (e : Eth) : Bool := e.ctl.getLsbD 0
/-- TX_EN. -/
def Eth.txEn (e : Eth) : Bool := e.ctl.getLsbD 1
/-- MAX_FRAME in force: values outside 64 to 2000 are taken as 1522 (17 Table 17.4). -/
def Eth.limit (e : Eth) : Nat := if 64 ≤ e.maxFrame.toNat && e.maxFrame.toNat ≤ 2000 then e.maxFrame.toNat else 1522

/-- One bit of the CRC-32 of IEEE 802.3, reflected. -/
def crc32Bit (c : BitVec 32) : BitVec 32 := if c.getLsbD 0 then (c >>> 1) ^^^ 0xEDB88320 else c >>> 1
/-- CRC-32 of bytes. -/
def crc32 (bs : List Byte) : BitVec 32 :=
  ~~~(bs.foldl (fun c b => (List.range 8).foldl (fun c _ => crc32Bit c) (c ^^^ b.setWidth 32)) (BitVec.allOnes 32))

/-- The destination address passes the filter (17 Table 17.2): promiscuous, the unicast address, broadcast, all multicast,
or the multicast hash on bits [31:26] of the CRC-32. -/
def Eth.accepts (e : Eth) (dest : List Byte) : Bool :=
  let multicast := (dest.getD 0 0).getLsbD 0
  let hash := (bits (crc32 dest) 26 6).toNat
  e.ctl.getLsbD 4 ||
    (!multicast && dest = (wordBytes [lo24 e.addr, hi24 e.addr])) ||
    dest = List.replicate 6 0xFF ||
    (multicast && (e.ctl.getLsbD 5 || (e.hash.toList.getD (hash / 24) 0).getLsbD (hash % 24)))

/-- A MAC control PAUSE frame of IEEE 802.3 annex 31B, and its time in quanta of 512 bit times. -/
def pauseQuanta (bs : List Byte) : Option Nat :=
  if bs.take 6 = [0x01, 0x80, 0xC2, 0x00, 0x00, 0x01] && (bs.drop 12).take 4 = [0x88, 0x08, 0x00, 0x01]
  then some ((bs.getD 16 0).toNat * 256 + (bs.getD 17 0).toNat) else none

/-- Counts of Tempo for 512 bit times. -/
def Eth.quantum (e : Eth) : Nat :=
  match (bits e.ctl 2 2).toNat with | 0 => 51200 | 1 => 5120 | _ => 512

/-- A frame is dropped and counted (17 R706). -/
def Eth.drop (e : Eth) : Eth := { e with stat := setBit e.stat 2 true }

/-- Completion entries that the MAC has written, or that wait on Echo: the count of the next one. -/
def State.rxcNext (s : State) (n : Fin 2) : Word :=
  (s.eth n).rxcProd + BitVec.ofNat 24 (s.echo.waiting.countP fun d => d = .ethRx n)

/-- A received frame that passes the filter (17 R704 to R706). `bs` is the frame without its FCS. -/
def State.ethReceive (s : State) (n : Fin 2) (bs : List Byte) (fcsOk : Bool) : State :=
  let e := s.eth n
  let at_ := s.rxcNext n
  if e.rxcSize.toNat ≤ ringUsed at_ e.rxcCons then
    s.modEth n fun e => { e.drop with rxNoRing := satInc e.rxNoRing }
  else
    let g := s.grant (BitVec.toFin e.rxPool) false
    let s := g.1
    let h := g.2
    if h = emptyHandle then s.modEth n fun e => { e.drop with rxNoBuf := satInc e.rxNoBuf }
    else if !fcsOk || e.limit < bs.length + 4 || (s.pool (handlePool h)).bytes < bs.length then
      (s.dmaRelease h).modEth n fun e => { e.drop with rxBad := satInc e.rxBad }
    else
      let eng : Initiator := .dma (.eth n)
      let s := (s.domainWrite eng (s.handleAt h) (packBytes bs)).1
      let ts := r500 (s.tempo.time + signed24 e.tsRx)
      let entry := [BitVec.ofNat 24 bs.length ||| bitAt 24 23, h] ++ ts ++ [s.tempo.quality, 0, 0]
      (s.domainWrite eng (ringEntry e.rxcBase e.rxcSize at_) entry).1.dmaDone eng (.ethRx n)

/-- ETH_RX_FRAME (17 R704 to R706, R708): a frame arrives `dt` counts from now. A PAUSE frame is obeyed when PAUSE_EN is 1. -/
def execEthRxFrame (n : Fin 2) (bytes : List Byte) (fcsOk : Bool) (dt : Nat) (s : State) : Host.Outcome State Fault Refusal :=
  ifOn s fun s =>
    let s := s.elapse dt
    let e := s.eth n
    if !s.hasEth n || !e.rxEn then s
    else match (if fcsOk && e.ctl.getLsbD 6 then pauseQuanta bytes else none) with
      | some q => s.modEth n fun e => { e with pauseTo := s.tempo.count + q * e.quantum }
      | none => if e.accepts (bytes.take 6) then s.ethReceive n bytes fcsOk else s

/-- The statuses of a transmit descriptor (17 Table 17.3). -/
def Eth.txStatus (s : State) (n : Fin 2) (len : Nat) (h : Word) : Nat :=
  if !s.handleOk h then 1
  else if len < 14 || (s.eth n).limit < len + 4 || (s.pool (handlePool h)).bytes < len then 2 else 0

/-- The end of a transmit descriptor (17 R707, R701): status and timestamp before DONE, then REL, IRQ and the counters. -/
def State.ethTxDone (s : State) (n : Fin 2) (at_ : Nat) (w0 h : Word) (status : Nat) : State :=
  let eng : Initiator := .dma (.eth n)
  let stamped := status = 0 && w0.getLsbD 16
  let s := (s.domainWrite eng (at_ + 5) [BitVec.ofNat 24 status]).1
  let s := if stamped then (s.domainWrite eng (at_ + 2) (r500 (s.tempo.time + signed24 (s.eth n).tsTx))).1 else s
  let s := (s.domainWrite eng at_ [w0 ||| bitAt 24 23]).1
  let s := if w0.getLsbD 17 then s.dmaRelease h else s
  s.dmaDone eng (.ethTx n w0 status)

/-- The MAC stops at a descriptor that it cannot act on. -/
def State.ethTxStop (s : State) (n : Fin 2) : State := s.modEth n fun e => { e with stat := setBit e.stat 3 true }

/-- ETH_TX_FRAME (17 R707, R700, Table 6.1a): `dt` counts from now the MAC has sent the next transmit descriptor's frame. A descriptor
that lies outside memory or that holds a poisoned word stops the MAC at it, with TX_ERR (01 R16; 06 R847; DESIGN CHOICE, log 35). -/
def execEthTxFrame (n : Fin 2) (dt : Nat) (ups : List Upset) (s : State) : Host.Outcome State Fault Refusal :=
  ifOn s fun s =>
    let s := s.elapse dt
    let e := s.eth n
    let eng : Initiator := .dma (.eth n)
    if !s.hasEth n || !e.txEn || e.txProd = e.txCons || e.txSize = 0 || s.tempo.count < e.pauseTo || s.stalledBy eng then s
    else
      let s := s.upsets ups
      let at_ := ringEntry e.txBase e.txSize e.txCons
      match s.domainRead at_ 8 with
      | none => s.ethTxStop n
      | some r =>
        let s := r.1
        let w0 := (r.2.map (·.1)).getD 0 0
        let h := (r.2.map (·.1)).getD 1 0
        let len := (bits w0 0 14).toNat
        let st := Eth.txStatus s n len h
        if r.2.any (·.2) then s.ethTxStop n
        else if st ≠ 0 then s.ethTxDone n at_ w0 h st
        else match s.domainRead (s.handleAt h) ((len + 2) / 3) with
          | none => s.ethTxDone n at_ w0 h 3
          | some d => d.1.ethTxDone n at_ w0 h (if d.2.any (·.2) then 3 else 0)

/-- A write of MDIO_CMD starts an MDIO read or write (17 Table 17.4). -/
def Eth.mdioStart (e : Eth) (v : Word) : Eth :=
  let op := bits v 10 2
  if e.mdio.isNone && (op = 1 || op = 2) then { e with mdio := some (bits v 0 12) } else e

/-- A read of a MAC's window (17 Table 17.4). -/
def State.ethRead (s : State) (n : Fin 2) (off : Nat) : Word :=
  let e := s.eth n
  if !s.hasEth n then 0
  else match off with
    | 0x00 => e.ctl.setWidth 24
    | 0x01 => e.stat.setWidth 24
    | 0x02 => e.ien.setWidth 24
    | 0x03 => lo24 e.addr
    | 0x04 => hi24 e.addr
    | 0x05 => e.hash[0]
    | 0x06 => e.hash[1]
    | 0x07 => e.hash[2]
    | 0x08 => e.maxFrame.setWidth 24
    | 0x09 => e.rxPool.setWidth 24
    | 0x0A => paLo e.rxcBase
    | 0x0B => paHi e.rxcBase
    | 0x0C => e.rxcSize.setWidth 24
    | 0x0D => e.rxcProd
    | 0x0E => e.rxcCons
    | 0x10 => paLo e.txBase
    | 0x11 => paHi e.txBase
    | 0x12 => e.txSize.setWidth 24
    | 0x13 => e.txProd
    | 0x14 => e.txCons
    | 0x15 => e.tsRx
    | 0x16 => e.tsTx
    | 0x18 => e.mdioData.setWidth 24
    | 0x20 => e.rxOk
    | 0x21 => e.rxNoBuf
    | 0x22 => e.rxNoRing
    | 0x23 => e.rxBad
    | 0x24 => e.txOk
    | _ => 0

/-- What a write to a MAC's window does to the MAC. Ring registers are ignored while the ring's engine is enabled. -/
def Eth.write (e : Eth) (off : Nat) (v : Word) : Eth :=
  match off with
  | 0x00 => { e with ctl := bits v 0 9 }
  | 0x01 => { e with stat := e.stat &&& ~~~(bits v 0 5) }
  | 0x02 => { e with ien := bits v 0 6 }
  | 0x03 => { e with addr := setLo e.addr v }
  | 0x04 => { e with addr := setHi e.addr v }
  | 0x05 => { e with hash := e.hash.set 0 v }
  | 0x06 => { e with hash := e.hash.set 1 v }
  | 0x07 => { e with hash := e.hash.set 2 ((bits v 0 16).setWidth 24) }
  | 0x08 => { e with maxFrame := bits v 0 12 }
  | 0x09 => { e with rxPool := bits v 0 5 }
  | 0x0A => if e.rxEn then e else { e with rxcBase := paddrOf v (paHi e.rxcBase) }
  | 0x0B => if e.rxEn then e else { e with rxcBase := paddrOf (paLo e.rxcBase) v }
  | 0x0C => if e.rxEn then e else { e with rxcSize := bits v 0 11 }
  | 0x0E => { e with rxcCons := v }
  | 0x10 => if e.txEn then e else { e with txBase := paddrOf v (paHi e.txBase) }
  | 0x11 => if e.txEn then e else { e with txBase := paddrOf (paLo e.txBase) v }
  | 0x12 => if e.txEn then e else { e with txSize := bits v 0 11 }
  | 0x13 => { e with txProd := v }
  | 0x15 => { e with tsRx := v }
  | 0x16 => { e with tsTx := v }
  | 0x17 => e.mdioStart v
  | 0x18 => { e with mdioData := bits v 0 16 }
  | _ => e

/-- A write to a MAC's window. -/
def State.ethWrite (s : State) (n : Fin 2) (off : Nat) (v : Word) : State :=
  if s.hasEth n then s.modEth n fun e => e.write off v else s

/-- MDIO_CMD (17 Table 17.4). -/
def execMdioCmd (w : Initiator) (n : Fin 2) (v : Word) (s : State) : Host.Outcome State Fault Refusal :=
  ifActs w s fun s => s.ethWrite n 0x17 v

/-- MDIO_DONE (17 R703): the transaction completes; a read delivers its data. -/
def execMdioDone (n : Fin 2) (data : BitVec 16) (s : State) : Host.Outcome State Fault Refusal :=
  ifOn s fun s => s.modEth n fun e =>
    match e.mdio with
    | none => e
    | some c => { e with mdio := none, stat := setBit e.stat 4 true, mdioData := if bits c 10 2 = 2 then data else e.mdioData }

/-! CAN FD. -/

/-- Controller `n`. -/
def State.can (s : State) (n : Fin 4) : Can := s.io.can[n]
/-- The state with controller `n` changed. -/
def State.modCan (s : State) (n : Fin 4) (f : Can → Can) : State :=
  { s with io := { s.io with can := s.io.can.set n (f (s.can n)) } }
/-- The controller is present (00 Table 0.1). -/
def State.hasCan (s : State) (n : Fin 4) : Bool := n.val < s.die.variant.cans
/-- The controller takes part in bus traffic. -/
def State.canActive (s : State) (n : Fin 4) : Bool := s.hasCan n && (s.can n).ctl.getLsbD 0 && !(s.can n).busoff

/-- ID [28:0] of a pair of identifier words: the extended identifier, or the base identifier in [10:0]. -/
def canId (lo hi : Word) : BitVec 29 := (bits hi 0 5) ++ lo
/-- The identifier words of a frame (17 Table 17.6), with VALID. -/
def canIdHi (fr : CanFrame) : Word :=
  ((bits fr.id 24 5).setWidth 24) ||| flag 24 8 fr.ide ||| flag 24 9 fr.fd ||| flag 24 10 fr.brs ||| flag 24 11 fr.esi |||
    flag 24 12 fr.rtr ||| bitAt 24 23

/-- A filter matches a frame (17 R710). -/
def CanFilter.matches (f : CanFilter) (fr : CanFrame) : Bool :=
  f.idHi.getLsbD 23 && f.idHi.getLsbD 8 == fr.ide && (fr.id ^^^ canId f.idLo f.idHi) &&& canId f.maskLo f.maskHi = 0

/-- The lowest-numbered enabled filter that matches (17 R710). -/
def Can.filterOf (x : Can) (fr : CanFrame) : Option (Fin 32) := (List.finRange 32).find? fun i => x.filters[i].matches fr

/-- RX_DROP is set. -/
def Can.dropRx (x : Can) : Can := { x with flags := setBit x.flags 0 true }

/-- A kept frame is written and queued, or dropped (17 R711, R700). -/
def State.canKeep (s : State) (n : Fin 4) (fr : CanFrame) (filter : Nat) : State :=
  let x := s.can n
  match x.handles with
  | [] => s.modCan n Can.dropRx
  | h :: rest =>
    let due := s.echo.waiting.countP fun d => match d with | .canRx m _ => m = n | _ => false
    if 16 ≤ x.rxq.length + due then s.modCan n Can.dropRx
    else if !s.handleOk h then s.modCan n fun x => { x.dropRx with handles := rest, flags := setBit x.dropRx.flags 1 true }
    else
      let eng : Initiator := .dma (.can n)
      let s := (s.domainWrite eng (s.handleAt h) (packBytes fr.data)).1
      let ts := r500 s.tempo.time
      (s.modCan n fun x => { x with handles := rest }).dmaDone eng (.canRx n
        { idLo := fr.id.setWidth 24, idHi := canIdHi fr, len := BitVec.ofNat 24 (fr.data.length + filter * 256), handle := h
          ts0 := ts.getD 0 0, ts1 := ts.getD 1 0, ts2 := ts.getD 2 0 })

/-- CAN_RX_FRAME (17 R710, R711): a frame whose start lies `dt` counts ahead is received. A controller with FD_EN at 0 keeps
no FD frame. A good reception lowers the receive error count (ISO 11898-1, R709). -/
def execCanRxFrame (n : Fin 4) (fr : CanFrame) (dt : Nat) (s : State) : Host.Outcome State Fault Refusal :=
  ifOn s fun s =>
    let s := s.elapse dt
    if !s.canActive n || (fr.fd && !(s.can n).ctl.getLsbD 1) then s
    else
      let s := s.modCan n fun x => { x with rxErr := if x.rxErr = 0 then 0 else x.rxErr - 1 }
      match (s.can n).filterOf fr with
      | none => s
      | some i => s.canKeep n fr i.val

/-- The lengths that a DLC can express (17 R715). -/
def canLenOk (fd : Bool) (n : Nat) : Bool :=
  n ≤ 8 || (fd && [12, 16, 20, 24, 32, 48, 64].contains n)

/-- The order in which identifiers win arbitration: base identifier, then base format before extended, then the rest. -/
def CanSlot.order (x : CanSlot) : Nat :=
  let id := (canId x.idLo x.idHi).toNat
  if x.idHi.getLsbD 8 then id / 2 ^ 18 * 2 ^ 19 + 2 ^ 18 + id % 2 ^ 18 else id % 2 ^ 11 * 2 ^ 19

/-- The slot that transmits next (17 R714). -/
def Can.winner (x : Can) : Option (Fin 8) :=
  (List.finRange 8).foldl (fun best i =>
    if !x.tx[i].req then best
    else match best with
      | none => some i
      | some j => if x.tx[i].order < x.tx[j].order then some i else best) none

/-- A slot changes. -/
def Can.modSlot (x : Can) (i : Fin 8) (f : CanSlot → CanSlot) : Can := { x with tx := x.tx.set i (f x.tx[i]) }

/-- A slot completes with a status: DONE, TX_DONE, and the release of its buffer under REL (17 R701, R714). -/
def State.canDone (s : State) (n : Fin 4) (i : Fin 8) (status : BitVec 3) : State :=
  let sl := (s.can n).tx[i]
  let s := s.modCan n fun x =>
    { x.modSlot i (fun y => { y with req := false, done := true, status }) with flags := setBit x.flags 3 true }
  if sl.rel then s.dmaRelease sl.handle else s

/-- PASSIVE and BUSOFF follow the error counters (17 R716; ISO 11898-1). -/
def Can.errorState (x : Can) : Can :=
  let off := 256 ≤ x.tec.toNat
  { x with passive := 128 ≤ x.tec.toNat || 128 ≤ x.rxErr.toNat, busoff := x.busoff || off, flags := if off && !x.busoff then setBit x.flags 2 true else x.flags }

/-- How the winning slot's frame ends on the bus. -/
def State.canOnBus (s : State) (n : Fin 4) (i : Fin 8) (o : CanOutcome) : State :=
  match o with
  | .arbLost => s
  | .error => s.modCan n fun x => ({ x with tec := x.tec + 8 }).errorState
  | .sent =>
    let ts := r500 s.tempo.time
    let s := s.modCan n fun x =>
      ({ x.modSlot i (fun y => { y with ts0 := ts.getD 0 0, ts1 := ts.getD 1 0, ts2 := ts.getD 2 0 }) with
          tec := if x.tec = 0 then 0 else x.tec - 1 }).errorState
    s.canDone n i 0

/-- CAN_TX_FRAME (17 R714 to R716, R728, Table 6.1a): `dt` counts from now the winning slot's frame has gone to the bus.
Nothing is sent in LISTEN mode or while the fence is engaged. -/
def execCanTxFrame (n : Fin 4) (o : CanOutcome) (dt : Nat) (ups : List Upset) (s : State) : Host.Outcome State Fault Refusal :=
  ifOn s fun s =>
    let s := s.elapse dt
    let x := s.can n
    if !s.canActive n || x.ctl.getLsbD 3 || s.refrain.fence || s.stalledBy (.dma (.can n)) then s
    else match x.winner with
      | none => s
      | some i =>
        let sl := x.tx[i]
        let fd := sl.idHi.getLsbD 9 && x.ctl.getLsbD 1
        if !canLenOk fd sl.len.toNat then s.canDone n i 3
        else if sl.idHi.getLsbD 12 || sl.len = 0 then s.canOnBus n i o
        else if !s.handleOk sl.handle then s.canDone n i 2
        else
          let s := s.upsets ups
          match s.domainRead (s.handleAt sl.handle) ((sl.len.toNat + 2) / 3) with
          | none => s.canDone n i 4
          | some d => if d.2.any (·.2) then d.1.canDone n i 4 else d.1.canOnBus n i o

/-- BUS_OFF_RECOVERY (17 R716): 128 occurrences of 11 recessive bits have passed, with AUTO_REC or after a write to REC. -/
def execBusOffRecovery (n : Fin 4) (s : State) : Host.Outcome State Fault Refusal :=
  ifOn s fun s => s.modCan n fun x =>
    if x.busoff && (x.ctl.getLsbD 4 || x.ctl.getLsbD 5) then
      { x with busoff := false, passive := false, tec := 0, rxErr := 0, ctl := setBit x.ctl 5 false, flags := setBit x.flags 2 true }
    else x

/-- A push of a receive handle (17 R712). -/
def State.rxhPush (s : State) (n : Fin 4) (h : Word) : State :=
  if s.handleOk h && (s.can n).handles.length < 8 then s.modCan n fun x => { x with handles := x.handles ++ [h] }
  else s.modCan n fun x => { x with flags := setBit x.flags 1 true }

/-- An empty receive-queue entry. -/
def RxqEntry.empty : RxqEntry := { idLo := 0, idHi := 0, len := 0, handle := 0, ts0 := 0, ts1 := 0, ts2 := 0 }

/-- A read of RXQ_ID_LO latches the head entry for the reading initiator (17 R713). -/
def State.rxqLatch (s : State) (w : Initiator) (n : Fin 4) : State × Word :=
  let e := (s.can n).rxq.headD RxqEntry.empty
  (s.modCan n fun x => { x with latch := Tbl.put x.latch w.idx e }, e.idLo)

/-- The bits of TX_CTL. -/
def CanSlot.ctl (x : CanSlot) : Word :=
  flag 24 0 x.req ||| flag 24 2 x.rel ||| flag 24 8 x.done ||| (x.status.setWidth 24 <<< 9)

/-- A read of a controller's window (17 Table 17.6). -/
def State.canRead (s : State) (w : Initiator) (n : Fin 4) (off : Nat) : State × Word :=
  let x := s.can n
  let e := Tbl.get x.latch w.idx RxqEntry.empty
  if !s.hasCan n then (s, 0)
  else if h : 0x80 ≤ off ∧ off < 0x100 then
    let sl := x.tx[(⟨(off - 0x80) / 16, by omega⟩ : Fin 8)]
    (s, match off % 16 with
      | 0 => sl.idLo
      | 1 => sl.idHi
      | 2 => sl.len.setWidth 24
      | 3 => sl.handle
      | 4 => sl.ctl
      | 5 => sl.ts0
      | 6 => sl.ts1
      | 7 => sl.ts2
      | _ => 0)
  else if h : 0x100 ≤ off ∧ off < 0x180 then
    let f := x.filters[(⟨(off - 0x100) / 4, by omega⟩ : Fin 32)]
    (s, match off % 4 with
      | 0 => f.idLo
      | 1 => f.idHi
      | 2 => f.maskLo
      | _ => f.maskHi)
  else match off with
    | 0x00 => (s, x.ctl.setWidth 24)
    | 0x01 => (s, x.nbt.setWidth 24)
    | 0x02 => (s, x.dbt.setWidth 24)
    | 0x03 => (s, x.tdc.setWidth 24)
    | 0x04 => (s, flag 24 0 x.busoff ||| flag 24 1 x.passive ||| (x.flags.setWidth 24 <<< 8))
    | 0x05 => (s, x.tec.setWidth 24 ||| (x.rxErr.setWidth 24 <<< 9))
    | 0x06 => (s, x.ien)
    | 0x09 => (s, BitVec.ofNat 24 x.handles.length)
    | 0x10 => s.rxqLatch w n
    | 0x11 => (s, e.idHi)
    | 0x12 => (s, e.len)
    | 0x13 => (s, e.handle)
    | 0x14 => (s, e.ts0)
    | 0x15 => (s, e.ts1)
    | 0x16 => (s, e.ts2)
    | 0x18 => (s, BitVec.ofNat 24 x.rxq.length)
    | _ => (s, 0)

/-- Bits of the identifier and filter words that exist. -/
def canHiMask : Word := 0x001F1F

/-- A write of TX_CTL (17 Table 17.6): REQ, CANCEL of a slot that is not on the bus, REL, DONE. -/
def State.canTxCtl (s : State) (n : Fin 4) (i : Fin 8) (v : Word) : State :=
  let s := s.modCan n fun x => x.modSlot i fun y =>
    { y with rel := v.getLsbD 2, done := w1c y.done (v.getLsbD 8), req := y.req || v.getLsbD 0 }
  if v.getLsbD 1 && ((s.can n).tx[i]).req then s.canDone n i 1 else s

/-- A write to a controller's window (17 Table 17.6). -/
def State.canWrite (s : State) (n : Fin 4) (off : Nat) (v : Word) : State :=
  if !s.hasCan n then s
  else if h : 0x80 ≤ off ∧ off < 0x100 then
    let i : Fin 8 := ⟨(off - 0x80) / 16, by omega⟩
    match off % 16 with
    | 0 => s.modCan n fun x => x.modSlot i fun y => { y with idLo := v }
    | 1 => s.modCan n fun x => x.modSlot i fun y => { y with idHi := v &&& canHiMask }
    | 2 => s.modCan n fun x => x.modSlot i fun y => { y with len := bits v 0 7 }
    | 3 => s.modCan n fun x => x.modSlot i fun y => { y with handle := v }
    | 4 => s.canTxCtl n i v
    | _ => s
  else if h : 0x100 ≤ off ∧ off < 0x180 then
    let i : Fin 32 := ⟨(off - 0x100) / 4, by omega⟩
    s.modCan n fun x =>
      let f := x.filters[i]
      { x with filters := x.filters.set i (match off % 4 with
        | 0 => { f with idLo := v }
        | 1 => { f with idHi := v &&& 0x80011F }
        | 2 => { f with maskLo := v }
        | _ => { f with maskHi := v &&& canHiMask }) }
  else match off with
    | 0x00 => s.modCan n fun x => { x with ctl := (bits v 0 7 &&& 0x5F) ||| ((x.ctl ||| bits v 0 7) &&& 0x20) }
    | 0x01 => s.modCan n fun x => { x with nbt := bits v 0 23 }
    | 0x02 => s.modCan n fun x => { x with dbt := bits v 0 18 }
    | 0x03 => s.modCan n fun x => { x with tdc := bits v 0 7 }
    | 0x04 => s.modCan n fun x => { x with flags := x.flags &&& ~~~(bits v 8 4) }
    | 0x06 => s.modCan n fun x => { x with ien := v &&& 0x000F01 }
    | 0x08 => s.rxhPush n v
    | 0x17 => s.modCan n fun x => { x with rxq := x.rxq.tail }
    | _ => s

/-- REQ (17 R714): a write of REQ to a slot's TX_CTL that leaves REL as it is. -/
def execCanReq (w : Initiator) (n : Fin 4) (slot : Fin 8) (s : State) : Host.Outcome State Fault Refusal :=
  ifActs w s fun s => s.canWrite n (0x84 + 16 * slot.val) (flag 24 2 ((s.can n).tx[slot]).rel ||| 1)

/-- CANCEL (17 R714). -/
def execCanCancel (w : Initiator) (n : Fin 4) (slot : Fin 8) (s : State) : Host.Outcome State Fault Refusal :=
  ifActs w s fun s => s.canWrite n (0x84 + 16 * slot.val) (flag 24 2 ((s.can n).tx[slot]).rel ||| 2)

/-- REC (17 R716): a write of REC that leaves the other fields as they are. -/
def execCanRec (w : Initiator) (n : Fin 4) (s : State) : Host.Outcome State Fault Refusal :=
  ifActs w s fun s => s.canWrite n 0 ((s.can n).ctl.setWidth 24 ||| bitAt 24 5)

/-- RXH_PUSH (17 R712). -/
def execRxhPush (w : Initiator) (n : Fin 4) (v : Word) (s : State) : Host.Outcome State Fault Refusal :=
  ifActs w s fun s => s.canWrite n 0x08 v

/-- RXQ_ID_LO_READ (17 R713). -/
def execRxqIdLoRead (w : Initiator) (n : Fin 4) (s : State) : Host.Outcome State Fault Refusal :=
  ifActs w s fun s => (s.canRead w n 0x10).1

/-- RXQ_POP (17 R713). -/
def execRxqPop (w : Initiator) (n : Fin 4) (s : State) : Host.Outcome State Fault Refusal :=
  ifActs w s fun s => s.canWrite n 0x17 0

end Sys2Proof.Machine
end

