-- ==== Sys2Proof/Machine/Serial.lean ====
section
/-! DEFINITION. SPI, I2C, UART and xSPI (17 section 17.5). -/
namespace Sys2Proof.Machine

/-! SPI. -/

/-- SPI unit `n`. -/
def State.spi (s : State) (n : Fin 4) : Spi := s.io.spi[n]
/-- The state with SPI unit `n` changed. -/
def State.modSpi (s : State) (n : Fin 4) (f : Spi → Spi) : State :=
  { s with io := { s.io with spi := s.io.spi.set n (f (s.spi n)) } }

/-- The next frame starts when the unit is enabled and idle (17 Table 17.8). -/
def Spi.kick (x : Spi) : Spi :=
  if x.ctl.getLsbD 0 && x.busy.isNone then
    match x.tx with
    | [] => x
    | t :: ts => { x with tx := ts, busy := some t }
  else x

/-- A push to SPI_TX; a push to a full FIFO is ignored (17 R718). -/
def Spi.push (x : Spi) (v : Word) : Spi := if 32 ≤ x.tx.length then x else ({ x with tx := x.tx ++ [v] }).kick

/-- Bits of a frame: BITS of SPI_CTL. -/
def Spi.mask (x : Spi) : Word := BitVec.ofNat 24 (2 ^ min 24 (bits x.ctl 4 5).toNat - 1)

/-- A read of SPI registers. -/
def State.spiRead (s : State) (n : Fin 4) (off : Nat) : State × Word :=
  let x := s.spi n
  match off with
  | 0 => (s, x.ctl.setWidth 24)
  | 1 => (s, x.div.setWidth 24)
  | 3 => (s.modSpi n fun x => { x with rx := x.rx.tail }, x.rx.headD 0)
  | 4 => (s, BitVec.ofNat 24 (x.tx.length + 64 * x.rx.length) ||| flag 24 12 x.busy.isSome ||| (x.flags.setWidth 24 <<< 16))
  | 5 => (s, x.ien.setWidth 24 <<< 16)
  | _ => (s, 0)

/-- A write to SPI registers. -/
def Spi.write (x : Spi) (off : Nat) (v : Word) : Spi :=
  match off with
  | 0 => ({ x with ctl := bits v 0 12 }).kick
  | 1 => { x with div := bits v 0 8 }
  | 2 => x.push v
  | 4 => { x with flags := x.flags &&& ~~~(bits v 16 2) }
  | 5 => { x with ien := bits v 16 2 }
  | _ => x

/-- SPI_TX (17 R717, R718). -/
def execSpiTx (w : Initiator) (n : Fin 4) (v : Word) (s : State) : Host.Outcome State Fault Refusal :=
  ifActs w s fun s => s.modSpi n fun x => x.write 2 v

/-- SPI_FRAME_DONE (17 R718): the frame in progress completes with received data `v`; the next one starts. -/
def execSpiFrameDone (n : Fin 4) (v : Word) (s : State) : Host.Outcome State Fault Refusal :=
  ifOn s fun s => s.modSpi n fun x =>
    if x.busy.isNone then x
    else
      let full := 32 ≤ x.rx.length
      ({ x with busy := none, rx := if full then x.rx else x.rx ++ [v &&& x.mask], flags := x.flags ||| flag 2 0 full ||| 2 }).kick

/-- SPI_RX (17 R718): a read that pops the receive FIFO. -/
def execSpiRx (w : Initiator) (n : Fin 4) (s : State) : Host.Outcome State Fault Refusal :=
  ifActs w s fun s => (s.spiRead n 3).1

/-! I2C. -/

/-- I2C unit `n`. -/
def State.i2c (s : State) (n : Fin 4) : I2c := s.io.i2c[n]
/-- The state with I2C unit `n` changed. -/
def State.modI2c (s : State) (n : Fin 4) (f : I2c → I2c) : State :=
  { s with io := { s.io with i2c := s.io.i2c.set n (f (s.i2c n)) } }

/-- The front command has this OP, and the unit is enabled and not addressed as a target. -/
def I2c.atFront (x : I2c) (op : BitVec 3) : Bool :=
  x.ctl.getLsbD 0 && x.asTarget.isNone && (match x.cmds with | c :: _ => bits c 8 3 = op | [] => false)

/-- A received byte enters the FIFO or is dropped (17 R718). -/
def I2c.receive (x : I2c) (b : Byte) : I2c := if 16 ≤ x.rx.length then x else { x with rx := x.rx ++ [b] }

/-- A push to I2C_CMD; a push to a full FIFO is ignored, and a WRITE ends the stretching of SCL (17 R718, R719). -/
def I2c.push (x : I2c) (v : Word) : I2c :=
  if 16 ≤ x.cmds.length then x
  else { x with cmds := x.cmds ++ [bits v 0 11], stretch := x.stretch && bits v 8 3 ≠ 2 }

/-- A byte or an address that the unit sent: its command leaves the FIFO; NACK and a lost arbitration are flagged. -/
def I2c.sent (x : I2c) (ack arb : Bool) : I2c :=
  { x with cmds := x.cmds.tail, onBus := !arb, flags := x.flags ||| flag 4 0 (!ack && !arb) ||| flag 4 1 arb }

/-- A read of I2C registers. -/
def State.i2cRead (s : State) (n : Fin 4) (off : Nat) : State × Word :=
  let x := s.i2c n
  match off with
  | 0 => (s, x.ctl.setWidth 24)
  | 1 => (s, x.taddr.setWidth 24)
  | 3 => (s.modI2c n fun x => { x with rx := x.rx.tail }, (x.rx.headD 0).setWidth 24)
  | 4 => (s, BitVec.ofNat 24 (x.cmds.length + 32 * x.rx.length) ||| flag 24 10 (x.onBus || x.asTarget.isSome) ||| (x.flags.setWidth 24 <<< 16))
  | 5 => (s, x.ien.setWidth 24 <<< 16)
  | _ => (s, 0)

/-- A write to I2C registers. -/
def I2c.write (x : I2c) (off : Nat) (v : Word) : I2c :=
  match off with
  | 0 => { x with ctl := bits v 0 5 }
  | 1 => { x with taddr := bits v 0 10 }
  | 2 => x.push v
  | 4 => { x with flags := x.flags &&& ~~~(bits v 16 4) }
  | 5 => { x with ien := bits v 16 4 }
  | _ => x

/-- I2C_START (17 R717): START and the address byte of the front command are performed. -/
def execI2cStart (n : Fin 4) (ack arb : Bool) (s : State) : Host.Outcome State Fault Refusal :=
  ifOn s fun s => s.modI2c n fun x => if x.atFront 1 then x.sent ack arb else x

/-- I2C_WRITE (17 R717): the front WRITE is performed in an open transfer. -/
def execI2cWrite (n : Fin 4) (ack arb : Bool) (s : State) : Host.Outcome State Fault Refusal :=
  ifOn s fun s => s.modI2c n fun x => if x.atFront 2 && x.onBus then x.sent ack arb else x

/-- I2C_READ_ACK (17 R717, R718): the front READ is performed and acknowledged. -/
def execI2cReadAck (n : Fin 4) (b : Byte) (s : State) : Host.Outcome State Fault Refusal :=
  ifOn s fun s => s.modI2c n fun x => if x.atFront 3 && x.onBus then ({ x with cmds := x.cmds.tail }).receive b else x

/-- I2C_READ_NACK (17 R717, R718): the front READ is performed and not acknowledged. -/
def execI2cReadNack (n : Fin 4) (b : Byte) (s : State) : Host.Outcome State Fault Refusal :=
  ifOn s fun s => s.modI2c n fun x => if x.atFront 4 && x.onBus then ({ x with cmds := x.cmds.tail }).receive b else x

/-- I2C_STOP (17 R717): the front STOP is performed, or the outside controller that addressed the unit stops. -/
def execI2cStop (n : Fin 4) (s : State) : Host.Outcome State Fault Refusal :=
  ifOn s fun s => s.modI2c n fun x =>
    if x.asTarget.isSome then { x with asTarget := none, stretch := false, flags := setBit x.flags 3 true }
    else if x.atFront 5 && x.onBus then { x with cmds := x.cmds.tail, onBus := false, flags := setBit x.flags 3 true }
    else x

/-- I2C_ADDRESSED (17 R719): an outside controller addresses the unit; with an empty command FIFO a read stretches SCL. -/
def execI2cAddressed (n : Fin 4) (read : Bool) (s : State) : Host.Outcome State Fault Refusal :=
  ifOn s fun s => s.modI2c n fun x =>
    if x.ctl.getLsbD 0 && x.ctl.getLsbD 1 && !x.onBus then
      { x with asTarget := some read, stretch := read && x.cmds.isEmpty, flags := setBit x.flags 2 true }
    else x

/-- I2C_TARGET_BYTE (17 R719): a byte passes between the outside controller and the unit. A read takes the front WRITE; with
none, the unit stretches SCL and the byte does not pass. -/
def execI2cTargetByte (n : Fin 4) (read : Bool) (b : Byte) (s : State) : Host.Outcome State Fault Refusal :=
  ifOn s fun s => s.modI2c n fun x =>
    if x.asTarget ≠ some read then x
    else if !read then x.receive b
    else match x.cmds with
      | c :: cs => if bits c 8 3 = 2 then { x with cmds := cs, stretch := cs.isEmpty } else { x with stretch := true }
      | [] => { x with stretch := true }

/-- I2C_RX (17 R718): a read that pops the receive FIFO. -/
def execI2cRx (w : Initiator) (n : Fin 4) (s : State) : Host.Outcome State Fault Refusal :=
  ifActs w s fun s => (s.i2cRead n 3).1

/-- I2C_CMD (17 R718, R719). -/
def execI2cCmd (w : Initiator) (n : Fin 4) (v : Word) (s : State) : Host.Outcome State Fault Refusal :=
  ifActs w s fun s => s.modI2c n fun x => x.write 2 v

/-! UART. -/

/-- UART `n`. -/
def State.uart (s : State) (n : Fin 4) : Uart := s.io.uart[n]
/-- The state with UART `n` changed. -/
def State.modUart (s : State) (n : Fin 4) (f : Uart → Uart) : State :=
  { s with io := { s.io with uart := s.io.uart.set n (f (s.uart n)) } }

/-- A push to UART_TX; a push to a full FIFO is ignored (17 R718). -/
def Uart.push (x : Uart) (v : Word) : Uart := if 32 ≤ x.tx.length then x else { x with tx := x.tx ++ [bits v 0 8] }

/-- A read of UART registers. -/
def State.uartRead (s : State) (n : Fin 4) (off : Nat) : State × Word :=
  let x := s.uart n
  match off with
  | 0 => (s, x.ctl.setWidth 24)
  | 1 => (s, x.div.setWidth 24)
  | 3 => (s.modUart n fun x => { x with rx := x.rx.tail }, (x.rx.headD 0).setWidth 24)
  | 4 => (s, BitVec.ofNat 24 (x.tx.length + 64 * x.rx.length) ||| (x.flags.setWidth 24 <<< 16))
  | 5 => (s, x.ien.setWidth 24 <<< 16)
  | _ => (s, 0)

/-- A write to UART registers. -/
def Uart.write (x : Uart) (off : Nat) (v : Word) : Uart :=
  match off with
  | 0 => { x with ctl := bits v 0 8 }
  | 1 => { x with div := bits v 0 20 }
  | 2 => x.push v
  | 4 => { x with flags := x.flags &&& ~~~(bits v 16 2) }
  | 5 => { x with ien := bits v 16 2 }
  | _ => x

/-- Data bits of a character: BITS of UART_CTL gives 5 to 8. -/
def Uart.dataMask (x : Uart) : Byte := BitVec.ofNat 8 (2 ^ (5 + (bits x.ctl 1 2).toNat) - 1)

/-- UART_TX (17 R718). -/
def execUartTx (w : Initiator) (n : Fin 4) (v : Word) (s : State) : Host.Outcome State Fault Refusal :=
  ifActs w s fun s => s.modUart n fun x => x.write 2 v

/-- UART_BYTE_RECEIVED (17 R718): a character with its parity error, framing error and break arrives. -/
def execUartByteReceived (n : Fin 4) (b : Byte) (perr ferr brk : Bool) (s : State) : Host.Outcome State Fault Refusal :=
  ifOn s fun s => s.modUart n fun x =>
    if !x.ctl.getLsbD 0 then x
    else if 32 ≤ x.rx.length then { x with flags := setBit x.flags 0 true }
    else { x with rx := x.rx ++ [(b &&& x.dataMask).setWidth 11 ||| flag 11 8 perr ||| flag 11 9 ferr ||| flag 11 10 brk] }

/-- UART_RX (17 R718): a read that pops the receive FIFO. -/
def execUartRx (w : Initiator) (n : Fin 4) (s : State) : Host.Outcome State Fault Refusal :=
  ifActs w s fun s => (s.uartRead n 3).1

/-- UART_BYTE_TRANSMITTED (17 R717): the oldest byte has been sent; TXDONE is set when the FIFO empties. -/
def execUartByteTransmitted (n : Fin 4) (s : State) : Host.Outcome State Fault Refusal :=
  ifOn s fun s => s.modUart n fun x =>
    if !x.ctl.getLsbD 0 then x
    else match x.tx with
      | [] => x
      | _ :: ts => { x with tx := ts, flags := if ts.isEmpty then setBit x.flags 1 true else x.flags }

/-! xSPI. -/

/-- A byte of the external flash; an erased one reads 0xFF. -/
def State.xByte (s : State) (a : Nat) : Byte := Memory.byte flashDefault s.xflash (a % 2 ^ 32)
/-- The external flash with bytes programmed: bits only turn from 1 to 0. -/
def programFlash : Memory → Nat → List Byte → Memory
  | m, _, [] => m
  | m, a, b :: bs => programFlash (Memory.setByte flashDefault m (a % 2 ^ 32) (Memory.byte flashDefault m (a % 2 ^ 32) &&& b)) (a + 1) bs
/-- The external flash with the aligned block of `size` bytes that holds byte `a` erased. -/
def eraseFlash (m : Memory) (a size : Nat) : Memory := m.filter fun c => decide (c.1 / size ≠ a / size)

/-- The ring whose descriptor the engine takes next: ring 0 before ring 1 (17 R721). -/
def Xspi.nextRing (x : Xspi) : Option (Fin 2) :=
  let ready (r : Fin 2) : Bool := x.rings[r].prod ≠ x.rings[r].cons && x.rings[r].size ≠ 0
  if !x.ctl.getLsbD 0 then none else if ready 0 then some 0 else if ready 1 then some 1 else none

/-- The engine as initiator. -/
def xspiEngine : Initiator := .dma .xspi

/-- The address of the descriptor that ring `r` takes next. -/
def Xspi.descAt (x : Xspi) (r : Fin 2) : Nat := ringEntry x.rings[r].base x.rings[r].size x.rings[r].cons

/-- The end of a descriptor: STATUS and DONE, the ring, the flags (17 Tables 17.9 and 17.10). -/
def State.xspiDone (s : State) (r : Fin 2) (w0 : Word) (status : Nat) : State :=
  (s.domainWrite xspiEngine (s.io.xspi.descAt r + 6) [BitVec.ofNat 24 status ||| bitAt 24 23]).1.dmaDone xspiEngine (.xspi r w0 status)

/-- The engine stops at a descriptor that it cannot act on, with ERR. -/
def State.xspiStop (s : State) : State :=
  { s with io := { s.io with xspi := { s.io.xspi with flags := setBit s.io.xspi.flags 2 true } } }

/-- What a descriptor holds: its words, flash address, length, DRAM address. -/
structure XDesc where
  w0   : Word
  addr : Nat
  len  : Nat
  pa   : Nat
deriving DecidableEq, Repr

/-- The status of how the device answered (17 Table 17.9): TIMEOUT for a busy polling above XS_TMO milliseconds (R721). -/
def Xspi.code (x : Xspi) (o : XOutcome) : Nat := if 1000000 * (bits x.cfg 8 16).toNat < o.busy then 4 else if o.error then 3 else 0
/-- The status of how the device answered. -/
def State.xCode (s : State) (o : XOutcome) : Nat := s.io.xspi.code o

/-- A descriptor with this OP is taken and performed by `f`, which answers the new state and STATUS. A descriptor of no
listed OP completes with BAD_PARAM when the engine is told to read. One that lies outside memory or that holds a poisoned word stops the
engine at it, with ERR (01 R16; 06 R847; DESIGN CHOICE, log 35). -/
def State.xspiRun (s : State) (op : Nat) (f : State → Fin 2 → XDesc → State × Nat) : State :=
  match s.io.xspi.nextRing with
  | none => s
  | some r =>
    if s.stalledBy xspiEngine then s
    else match s.domainRead (s.io.xspi.descAt r) 8 with
      | none => s.xspiStop
      | some d =>
        let ws := d.2.map (·.1)
        let w0 := ws.getD 0 0
        let x : XDesc := { w0, addr := (ws.getD 1 0).toNat + (bits (ws.getD 2 0) 0 8).toNat * 2 ^ 24, len := (ws.getD 3 0).toNat, pa := (paddrOf (ws.getD 4 0) (ws.getD 5 0)).toNat }
        let found := (bits w0 0 4).toNat
        if d.2.any (·.2) then d.1.xspiStop
        else if found = op then let a := f d.1 r x; a.1.xspiDone r w0 a.2
        else if op = 1 && (found = 0 || 5 < found) then d.1.xspiDone r w0 1
        else s

/-- The words that `n` bytes take. -/
def wordsFor (n : Nat) : Nat := (n + 2) / 3

/-- The DRAM range of a descriptor is installed (17 R720). -/
def State.rangeInDram (s : State) (a n : Nat) : Bool := n = 0 || (s.inDram a && s.inDram (a + n - 1))

/-- Data read from the device is written to DRAM or, by a READ with POOL, to a pool buffer (17 R720, Table 17.9). -/
def State.xspiToMemory (s : State) (r : Fin 2) (x : XDesc) (o : XOutcome) (bytes : List Byte) : State × Nat :=
  if x.w0.getLsbD 4 && bits x.w0 0 4 = 1 then
    let p : Fin 32 := (bits x.w0 8 5).toFin
    if (s.pool p).bytes < x.len then (s, 1)
    else
      let g := s.grant p false
      if g.2 = emptyHandle then (g.1, 2)
      else
        let s := (g.1.domainWrite xspiEngine (g.1.io.xspi.descAt r + 4) [g.2]).1
        if s.xCode o ≠ 0 then (s, s.xCode o) else ((s.domainWrite xspiEngine (s.handleAt g.2) (packBytes bytes)).1, 0)
  else if !s.rangeInDram x.pa (wordsFor x.len) then (s, 1)
  else if s.xCode o ≠ 0 then (s, s.xCode o)
  else ((s.domainWrite xspiEngine x.pa (packBytes bytes)).1, 0)

/-- XSPI_READ (17 R720, R721). -/
def execXspiRead (o : XOutcome) (ups : List Upset) (s : State) : Host.Outcome State Fault Refusal :=
  ifOn s fun s => (s.upsets ups).xspiRun 1 fun s r x =>
    s.xspiToMemory r x o ((List.range x.len).map fun i => s.xByte (x.addr + i))

/-- Bytes of a flash page: XS_PAGE of XS_CFG. -/
def Xspi.pageBytes (x : Xspi) : Nat := 256 * 2 ^ (bits x.cfg 5 2).toNat

/-- XSPI_PROGRAM (17 R720, R721, Table 6.1a). -/
def execXspiProgram (o : XOutcome) (ups : List Upset) (s : State) : Host.Outcome State Fault Refusal :=
  ifOn s fun s => (s.upsets ups).xspiRun 2 fun s _ x =>
    if s.io.xspi.pageBytes < x.addr % s.io.xspi.pageBytes + x.len || !s.rangeInDram x.pa (wordsFor x.len) then (s, 1)
    else match s.domainRead x.pa (wordsFor x.len) with
      | none => (s, 1)
      | some d =>
        if d.2.any (·.2) then (d.1, 5)
        else if d.1.xCode o ≠ 0 then (d.1, d.1.xCode o)
        else ({ d.1 with xflash := programFlash d.1.xflash x.addr ((wordBytes (d.2.map (·.1))).take x.len) }, 0)

/-- XSPI_ERASE_4K (17 R721). -/
def execXspiErase4k (o : XOutcome) (s : State) : Host.Outcome State Fault Refusal :=
  ifOn s fun s => s.xspiRun 3 fun s _ x => if s.xCode o ≠ 0 then (s, s.xCode o) else ({ s with xflash := eraseFlash s.xflash x.addr 4096 }, 0)

/-- XSPI_ERASE_64K (17 R721). -/
def execXspiErase64k (o : XOutcome) (s : State) : Host.Outcome State Fault Refusal :=
  ifOn s fun s => s.xspiRun 4 fun s _ x => if s.xCode o ≠ 0 then (s, s.xCode o) else ({ s with xflash := eraseFlash s.xflash x.addr 65536 }, 0)

/-- XSPI_READ_SFDP (17 R721): `bytes` is what the device answers from the descriptor's address on; bytes it does not drive
read 0xFF. -/
def execXspiReadSfdp (o : XOutcome) (bytes : List Byte) (s : State) : Host.Outcome State Fault Refusal :=
  ifOn s fun s => s.xspiRun 5 fun s r x => s.xspiToMemory r x o ((List.range x.len).map fun i => bytes.getD i 0xFF)

/-- A read of the xSPI window (17 Table 17.10). -/
def State.xspiRegRead (s : State) (off : Nat) : Word :=
  let x := s.io.xspi
  if off = 0 then x.ctl.setWidth 24
  else if off = 1 then x.flags.setWidth 24 <<< 8
  else if off = 2 then x.ien.setWidth 24 <<< 8
  else if off = 3 then x.cfg
  else if h : 4 ≤ off ∧ off < 20 then
    let r := x.rings[(⟨(off - 4) / 8, by omega⟩ : Fin 2)]
    match (off - 4) % 8 with
    | 0 => paLo r.base
    | 1 => paHi r.base
    | 2 => r.size.setWidth 24
    | 3 => r.prod
    | 4 => r.cons
    | _ => 0
  else 0

/-- What a write to the xSPI window does to the unit. Ring 0 accepts writes from the Conductor only. CONS is written by the engine only. -/
def Xspi.write (x : Xspi) (cdr : Bool) (off : Nat) (v : Word) : Xspi :=
  if off = 0 then { x with ctl := bits v 0 10 }
  else if off = 1 then { x with flags := x.flags &&& ~~~(bits v 8 3) }
  else if off = 2 then { x with ien := bits v 8 3 }
  else if off = 3 then { x with cfg := v &&& 0xFFFF7F }
  else if h : 4 ≤ off ∧ off < 20 then
    let i : Fin 2 := ⟨(off - 4) / 8, by omega⟩
    let r := x.rings[i]
    if i = 0 && !cdr then x
    else match (off - 4) % 8 with
      | 0 => { x with rings := x.rings.set i { r with base := paddrOf v (paHi r.base) } }
      | 1 => { x with rings := x.rings.set i { r with base := paddrOf (paLo r.base) v } }
      | 2 => { x with rings := x.rings.set i { r with size := bits v 0 11 } }
      | 3 => { x with rings := x.rings.set i { r with prod := v } }
      | _ => x
  else x

/-- A write to the xSPI window. -/
def State.xspiRegWrite (s : State) (w : Initiator) (off : Nat) (v : Word) : State :=
  { s with io := { s.io with xspi := s.io.xspi.write w.isCdr off v } }

end Sys2Proof.Machine
end

