-- ==== Sys2Proof/Machine/Pins.lean ====
section
/-! DEFINITION. GPIO, PWM and the Accent comparators (17 section 17.6, 18). -/
namespace Sys2Proof.Machine

/-! GPIO. -/

/-- Word `k` of a group of 24 pins a word. -/
def pinWord (x : BitVec 64) (k : Nat) : Word := (x >>> (24 * k)).setWidth 24
/-- The pins with word `k` replaced. -/
def setPinWord (x : BitVec 64) (k : Nat) (v : Word) : BitVec 64 :=
  (x &&& ~~~((BitVec.allOnes 24).setWidth 64 <<< (24 * k))) ||| (v.setWidth 64 <<< (24 * k))
/-- Word `k` of a group of 12 pins a word, two bits each. -/
def pairWord (x : BitVec 128) (k : Nat) : Word := (x >>> (24 * k)).setWidth 24
/-- The two-bit fields with word `k` replaced. -/
def setPairWord (x : BitVec 128) (k : Nat) (v : Word) : BitVec 128 :=
  (x &&& ~~~((BitVec.allOnes 24).setWidth 128 <<< (24 * k))) ||| (v.setWidth 128 <<< (24 * k))

/-- A word of GPIO_SAFE after a write: a field written with 11 keeps its value (17 R722). -/
def safeFields (old v : Word) : Word :=
  (List.range 12).foldl (fun w j => if bits v (2 * j) 2 = 3 then w else setBits w (2 * j) (bits v (2 * j) 2)) old

/-- The state with GPIO changed. -/
def State.modGpio (s : State) (f : Gpio → Gpio) : State := { s with io := { s.io with gpio := f s.io.gpio } }

/-- A read of the GPIO window (17 Table 17.11). -/
def Gpio.read (g : Gpio) (off : Nat) : Word :=
  if off < 3 then pinWord g.pins off
  else if 4 ≤ off && off < 7 then pinWord g.out (off - 4)
  else if 0x10 ≤ off && off < 0x13 then pinWord g.oe (off - 0x10)
  else if 0x14 ≤ off && off < 0x17 then pinWord g.fen (off - 0x14)
  else if 0x18 ≤ off && off < 0x1E then pairWord g.safe (off - 0x18)
  else if 0x20 ≤ off && off < 0x26 then pairWord g.icfg (off - 0x20)
  else if 0x26 ≤ off && off < 0x29 then pinWord g.filt (off - 0x26)
  else if off = 0x30 then flag 24 0 g.lock
  else if off = 0x31 then g.low.setWidth 24 ||| flag 24 8 g.chg
  else 0

/-- What a write to the GPIO window does; `lk` tells that a set lock holds against the initiator (17 R729). -/
def Gpio.write (g : Gpio) (lk : Bool) (off : Nat) (v : Word) : Gpio :=
  let shut := g.lock && lk
  if 4 ≤ off && off < 7 then { g with out := setPinWord g.out (off - 4) v }
  else if 8 ≤ off && off < 0xB then { g with out := setPinWord g.out (off - 8) (pinWord g.out (off - 8) ||| v) }
  else if 0xC ≤ off && off < 0xF then { g with out := setPinWord g.out (off - 0xC) (pinWord g.out (off - 0xC) &&& ~~~v) }
  else if 0x10 ≤ off && off < 0x13 then { g with oe := setPinWord g.oe (off - 0x10) v }
  else if 0x14 ≤ off && off < 0x17 then if shut then g else { g with fen := setPinWord g.fen (off - 0x14) v }
  else if 0x18 ≤ off && off < 0x1E then
    if shut then g else { g with safe := setPairWord g.safe (off - 0x18) (safeFields (pairWord g.safe (off - 0x18)) v) }
  else if 0x20 ≤ off && off < 0x26 then { g with icfg := setPairWord g.icfg (off - 0x20) v }
  else if 0x26 ≤ off && off < 0x29 then { g with filt := setPinWord g.filt (off - 0x26) v }
  else if off = 0x30 then if shut then g else { g with lock := v.getLsbD 0 }
  else if off = 0x31 then { g with chg := w1c g.chg (v.getLsbD 8) }
  else g

/-- A write to the GPIO window. -/
def State.gpioWrite (s : State) (w : Initiator) (off : Nat) (v : Word) : State := s.modGpio fun g => g.write w.locked off v

/-- GPIO_SET (00 R12). -/
def execGpioSet (w : Initiator) (n : Fin 3) (v : Word) (s : State) : Host.Outcome State Fault Refusal :=
  ifActs w s fun s => s.gpioWrite w (8 + n.val) v

/-- GPIO_CLR (00 R12). -/
def execGpioClr (w : Initiator) (n : Fin 3) (v : Word) (s : State) : Host.Outcome State Fault Refusal :=
  ifActs w s fun s => s.gpioWrite w (0xC + n.val) v

/-- GPIO_SAFE_WRITE (17 R722, R729). -/
def execGpioSafeWrite (w : Initiator) (n : Fin 6) (v : Word) (s : State) : Host.Outcome State Fault Refusal :=
  ifActs w s fun s => s.gpioWrite w (0x18 + n.val) v

/-- The edge is one that the pin's configuration selects: 00 rising, 01 falling, 10 both (17 Table 17.11). -/
def edgeSelected (cfg : BitVec 2) (rising : Bool) : Bool :=
  match cfg.toNat with | 0 => rising | 1 => !rising | 2 => true | _ => false

/-- A pin takes a level after the synchroniser and the filter (17 R723). -/
def State.pinTakes (s : State) (pin : Fin 64) (level : Bool) : State :=
  if s.io.gpio.pins.getLsbD pin.val = level then s
  else
    let s := s.modGpio fun g => { g with pins := setBit g.pins pin.val level }
    if edgeSelected (s.io.gpio.cfgOf pin.val) level then s.edge 0 (112 + pin.val) else s

/-- An event of the I/O rails takes place while the I/O domain is powered and out of reset: in Play, Hush and Fermata. -/
def ifIo (s : State) (f : State → State) : Host.Outcome State Fault Refusal := .next (if s.on || s.pwr.state = .fermata then f s else s)

/-- BANK_LOW (17 R698): a bank's rail falls below 1.50 V. -/
def execBankLow (bank : Fin 6) (s : State) : Host.Outcome State Fault Refusal :=
  ifIo s fun s => s.modGpio fun g => { g with low := setBit g.low bank.val true, chg := g.chg || !g.low.getLsbD bank.val }

/-- BANK_RAIL_RECOVERY (17 R698): the rail has returned and the bank's outputs are driven again. -/
def execBankRailRecovery (bank : Fin 6) (s : State) : Host.Outcome State Fault Refusal :=
  ifIo s fun s => s.modGpio fun g => { g with low := setBit g.low bank.val false, chg := g.chg || g.low.getLsbD bank.val }

/-! PWM. -/

/-- PWM channel `k`. -/
def State.pwmCh (s : State) (k : Fin 16) : PwmCh := s.io.pwm[k]
/-- The state with a PWM channel changed. -/
def State.modPwm (s : State) (k : Fin 16) (f : PwmCh → PwmCh) : State :=
  { s with io := { s.io with pwm := s.io.pwm.set k (f (s.pwmCh k)) } }
/-- EN of a channel. -/
def PwmCh.en (p : PwmCh) : Bool := p.ctl.getLsbD 0
/-- The period in force, in counts of 5 ns, 2 or more. -/
def PwmCh.per (p : PwmCh) : Nat := max 2 p.curP.toNat
/-- The duty in force holds the active level through the period (17 R724). -/
def PwmCh.full (p : PwmCh) : Bool := p.per ≤ p.curD.toNat
/-- The count of Tempo at which the running period ends. -/
def PwmCh.endAt (p : PwmCh) : Nat := p.start + 5 * p.per
/-- Counts of 5 ns from the start of the next period to its active level: none, or in CENTRE mode half of the inactive time (18 R742). -/
def PwmCh.nextLead (p : PwmCh) : Nat :=
  if p.ctl.getLsbD 1 then (max 2 p.period.toNat - min (max 2 p.period.toNat) p.duty.toNat) / 2 else 0
/-- The count of the next start of the active level after `now`, if there is one. -/
def PwmCh.nextActive (p : PwmCh) (now : Nat) : Option Nat :=
  match p.activeAt with
  | some t => if p.level && now < t then some t else if p.duty = 0 then none else some (p.endAt + 5 * p.nextLead)
  | none => if p.duty = 0 then none else some (p.endAt + 5 * p.nextLead)
/-- The channel is at its active level at a count, without regard to the fence (17 R725). -/
def PwmCh.isActive (p : PwmCh) (now : Nat) : Bool :=
  p.en && p.level && !p.cut && (match p.activeAt with | some t => t ≤ now | none => false)
/-- The comparator that cuts the channel, if any. -/
def PwmCh.cutBy (p : PwmCh) : Option (Fin 8) := if p.ctl.getLsbD 3 then some (bits p.ctl 4 3).toFin else none

/-! Accent. -/

/-- Comparator `n`. -/
def State.acmp (s : State) (n : Fin 8) : Acmp := s.io.acmp[n]
/-- The state with a comparator changed. -/
def State.modAcmp (s : State) (n : Fin 8) (f : Acmp → Acmp) : State :=
  { s with io := { s.io with acmp := s.io.acmp.set n (f (s.acmp n)) } }
/-- The comparator is present. -/
def State.hasAcmp (s : State) (n : Fin 8) : Bool := n.val < s.die.variant.acmps
/-- EN of a comparator. -/
def Acmp.en (a : Acmp) : Bool := a.ctl.getLsbD 0
/-- RAMP_EN. -/
def Acmp.rampEn (a : Acmp) : Bool := a.ctl.getLsbD 5
/-- The PWM channel that RAMP_SEL names. -/
def Acmp.rampSel (a : Acmp) : Fin 16 := (bits a.ctl 6 4).toFin
/-- Samples of the majority filter: 3, 5 or 7 (18 R738). -/
def Acmp.taps (a : Acmp) : Nat := match (bits a.ctl 3 2).toNat with | 0 => 3 | 1 => 5 | _ => 7
/-- HYST in mV (18 R737). -/
def Acmp.hyst (a : Acmp) : Nat := match (bits a.ctl 1 2).toNat with | 0 => 0 | 1 => 10 | 2 => 20 | _ => 40

/-- A restart of the ramp whose count has come is taken, and with it the written DAC and slope (18 R744). -/
def Acmp.sync (a : Acmp) (now : Nat) : Acmp :=
  match a.rampDue with
  | some t => if t ≤ now then { a with rampAt := some t, rampDue := none, dac := a.newDac, slope := a.newSlope } else a
  | none => a

/-- REF in units of 1/64 mV at a count: the DAC level less the ramp, not below 0 (18 R736, R740, R741, R743). -/
def State.acmpRef (s : State) (n : Fin 8) : Nat :=
  let a := (s.acmp n).sync s.tempo.count
  let ramp := match a.rampAt with
    | some t => if a.rampEn && (s.pwmCh a.rampSel).en then (s.tempo.count - t) / 5 * a.slope.toNat else 0
    | none => 0
  a.dac.toNat * 64 - ramp

/-- A start of the active level of channel `k` at a count: ramps that select the channel restart (18 R740, R742, R744). -/
def State.rampStart (s : State) (k : Fin 16) (at_ : Nat) : State :=
  (List.finRange 8).foldl (fun s n =>
    let a := s.acmp n
    if s.hasAcmp n && a.rampEn && a.rampSel = k then s.modAcmp n fun a => ({ a.sync s.tempo.count with rampDue := some at_ }).sync s.tempo.count else s) s

/-- A period of channel `k` starts now: the written period and duty are adopted (17 R724), a cutoff ends (R725), and the
active level starts at once, or in CENTRE mode in the middle of the period (18 R742). Where it does not start at once, the complement stays active, or turns active after the dead time. -/
def State.pwmStart (s : State) (k : Fin 16) : State :=
  let now := s.tempo.count
  let p := s.pwmCh k
  let lead := p.nextLead
  let level : Bool := p.duty ≠ 0
  let off := if level && lead = 0 then none else some (p.compDue.getD (now + 5 * p.dead.toNat))
  let s := s.modPwm k fun p => { p with curP := p.period, curD := p.duty, start := now, cut := false, compDue := off, stat := setBit p.stat 1 true
                                        level, activeAt := if level then some (now + 5 * lead) else none }
  if level then s.rampStart k (now + 5 * lead) else s

/-- The active level of channel `k` ends now; the complement turns active after the dead time (18 R748, 17 Table 17.12). -/
def State.pwmComplement (s : State) (k : Fin 16) : State :=
  let p := s.pwmCh k
  s.modPwm k fun _ => { p with compDue := some (s.tempo.count + 5 * p.dead.toNat) }

/-- FLT of a comparator as the PWM channels see it (18 R750). -/
def State.fltOf (s : State) (n : Fin 8) : Bool := s.hasAcmp n && (s.acmp n).flt

/-- The channel is blanked for its comparator: fewer than BLANK counts since its active level started (18 R745). -/
def State.blanked (s : State) (k : Fin 16) (n : Fin 8) : Bool :=
  match (s.pwmCh k).activeAt with
  | some t => s.tempo.count < t + 5 * (s.acmp n).blank.toNat
  | none => false

/-- One channel is cut if its comparator's FLT is 1 during its active level, outside blanking (17 R725, 18 R745). -/
def State.cutOne (s : State) (n : Fin 8) (k : Fin 16) : State × Bool :=
  let p := s.pwmCh k
  if p.cutBy = some n && s.fltOf n && p.isActive s.tempo.count && !s.blanked k n then
    ((s.modPwm k fun p => { p with cut := true, stat := setBit p.stat 0 true }).pwmComplement k, true)
  else (s, false)

/-- Every channel that comparator `n` cuts now; a cut of at least one is a trip (18 R747, R749). -/
def State.cutAll (s : State) (n : Fin 8) : State :=
  let r := (List.finRange 16).foldl (fun (s, any) k => let r := s.cutOne n k; (r.1, any || r.2)) (s, false)
  if r.2 then (r.1.modAcmp n fun a => { a with trip := true, tripCnt := satInc a.tripCnt }).edge 0 (192 + n.val) else r.1

/-- FLT takes a value; FLT at 1 cuts (18 R745). -/
def State.setFlt (s : State) (n : Fin 8) (b : Bool) : State :=
  let s := s.modAcmp n fun a => { a with flt := b }
  if b then s.cutAll n else s

/-- The majority of the last samples (18 R738). -/
def Acmp.majority (a : Acmp) : Bool := a.taps < 2 * ((a.samples.take a.taps).filter id).length

/-- One sample of RAW is taken now (18 R738). While the stages settle or the supply is low, FLT does not follow. -/
def State.acmpSample (s : State) (n : Fin 8) : State :=
  let s := s.modAcmp n fun a => { a with samples := (a.raw :: a.samples).take 7 }
  let a := s.acmp n
  if a.settle.isSome || a.supplyLow || a.majority = a.flt then s else s.setFlt n a.majority

/-- Sample edges of the 200 MHz filter clock pass, at most seven of which can matter, each at its count. -/
def State.acmpSamples (s : State) (n : Fin 8) : Nat → State
  | 0 => s
  | k + 1 => State.acmpSamples ((s.until ((s.tempo.count / 5 + 1) * 5)).acmpSample n) n k

/-- ACMP_INPUT_CROSSING (18 R737, R738, R745, R749): the input takes `mv` millivolts now and keeps them for `dt` counts,
during which the filter samples RAW. -/
def execAcmpInputCrossing (n : Fin 8) (mv dt : Nat) (s : State) : Host.Outcome State Fault Refusal :=
  ifOn s fun s =>
    if !s.hasAcmp n || !(s.acmp n).en then s.elapse dt
    else
      let ref := s.acmpRef n
      let last := s.tempo.count + dt
      let s := s.modAcmp n fun a =>
        let a := a.sync s.tempo.count
        { a with raw := if ref < 64 * mv then true else if 64 * mv + 64 * a.hyst < ref then false else a.raw }
      let s := s.acmpSamples n (min 7 (last / 5 - s.tempo.count / 5))
      s.until last

/-- BLANKING_END (18 R746): the blanking window of a channel ends; a comparator that is still high cuts at once. -/
def execBlankingEnd (ch : Fin 16) (s : State) : Host.Outcome State Fault Refusal :=
  ifOn s fun s =>
    let p := s.pwmCh ch
    match p.cutBy, p.activeAt with
    | some n, some t =>
      if !p.en || !p.level || p.cut then s
      else
        let s := s.until (t + 5 * (s.acmp n).blank.toNat)
        if s.fltOf n then s.cutAll n else s
    | _, _ => s

/-- PWM_PERIOD_START (17 R724, 18 R740, R742): the running period ends and the next one starts. -/
def execPwmPeriodStart (ch : Fin 16) (s : State) : Host.Outcome State Fault Refusal :=
  ifOn s fun s => if (s.pwmCh ch).en then (s.until (s.pwmCh ch).endAt).pwmStart ch else s

/-- PWM_ACTIVE_END (18 R748, Table 18.5): the active level ends by duty, and the complement follows after the dead time. -/
def execPwmActiveEnd (ch : Fin 16) (s : State) : Host.Outcome State Fault Refusal :=
  ifOn s fun s =>
    let p := s.pwmCh ch
    match p.activeAt with
    | none => s
    | some t =>
      if !p.en || !p.level || p.full then s
      else
        let s := s.until (t + 5 * p.curD.toNat)
        let s := s.modPwm ch fun p => { p with level := false }
        if p.cut then s else s.pwmComplement ch

/-- PWM_SYNC restarts the periods of the selected channels together (17 Table 17.12, 18 R742). -/
def State.pwmSync (s : State) (v : Word) : State :=
  (List.finRange 16).foldl (fun s k => if v.getLsbD k.val && (s.pwmCh k).en then s.pwmStart k else s) s

/-- PWM_SYNC (18 R742). -/
def execPwmSync (w : Initiator) (v : Word) (s : State) : Host.Outcome State Fault Refusal :=
  ifActs w s fun s => s.pwmSync v

/-- A read of the PWM window (17 Table 17.12). -/
def State.pwmRead (s : State) (off : Nat) : Word :=
  if h : off < 0x100 then
    let p := s.pwmCh (⟨off / 16, by omega⟩ : Fin 16)
    match off % 16 with
    | 0 => p.ctl.setWidth 24
    | 1 => p.period
    | 2 => p.duty
    | 3 => p.dead.setWidth 24
    | 4 => p.fcfg.setWidth 24
    | 5 => if p.en then BitVec.ofNat 24 ((s.tempo.count - p.start) / 5) else 0
    | 6 => p.stat.setWidth 24
    | 7 => p.ien.setWidth 24
    | _ => 0
  else if off = 0x101 then flag 24 0 s.io.pwmLock
  else 0

/-- A write of PWM_CTL: a channel that becomes enabled starts its first period, one that is disabled turns inactive. -/
def State.pwmCtl (s : State) (k : Fin 16) (v : Word) : State :=
  let was := (s.pwmCh k).en
  let c := bits v 0 8 &&& (if k.val % 2 = 0 then 0xFF else 0x7F)
  let s := s.modPwm k fun p => { p with ctl := c }
  if v.getLsbD 0 then (if was then s else s.pwmStart k)
  else s.modPwm k fun p => { p with level := false, cut := false, activeAt := none, compDue := none }

/-- A write to the PWM window (17 Table 17.12, R729). -/
def State.pwmWrite (s : State) (w : Initiator) (off : Nat) (v : Word) : State :=
  let shut := s.io.pwmLock && w.locked
  if h : off < 0x100 then
    let k : Fin 16 := ⟨off / 16, by omega⟩
    match off % 16 with
    | 0 => s.pwmCtl k v
    | 1 => s.modPwm k fun p => { p with period := v }
    | 2 => s.modPwm k fun p => { p with duty := v }
    | 3 => s.modPwm k fun p => { p with dead := bits v 0 8 }
    | 4 => if shut then s else s.modPwm k fun p => { p with fcfg := bits v 0 3 }
    | 6 => s.modPwm k fun p => { p with stat := p.stat &&& ~~~(bits v 0 2) }
    | 7 => s.modPwm k fun p => { p with ien := bits v 0 2 }
    | _ => s
  else if off = 0x100 then s.pwmSync v
  else if off = 0x101 then if shut then s else { s with io := { s.io with pwmLock := v.getLsbD 0 } }
  else s

/-- A write of ACMP_DAC or ACMP_SLOPE takes effect at the next start of the active level of the RAMP_SEL channel, when
RAMP_EN is 1 and that channel is enabled, and at once otherwise (18 R744). -/
def State.acmpLevel (s : State) (n : Fin 8) (isSlope : Bool) (v : Word) : State :=
  let waits := (s.acmp n).rampEn && (s.pwmCh (s.acmp n).rampSel).en
  s.modAcmp n fun a =>
    let a := a.sync s.tempo.count
    let a := if isSlope then { a with newSlope := bits v 0 12 } else { a with newDac := bits v 0 10 }
    if waits then a else { a with dac := a.newDac, slope := a.newSlope }

/-- FILT written with 3 is taken as 2 (18 Table 18.3). -/
def acmpCtlValue (v : Word) : BitVec 12 := if bits v 3 2 = 3 then bits v 0 12 &&& 0xFF7 else bits v 0 12

/-- A write of ACMP_CTL: a comparator that becomes enabled settles for 10 µs with FLT at 0 (18 R756); one that is disabled
has FLT at 0 (Table 18.5); one enabled while its supply is low holds FLT at 1 (R757). -/
def State.acmpCtl (s : State) (n : Fin 8) (v : Word) : State :=
  let was := (s.acmp n).en
  let s := s.modAcmp n fun a => { a.sync s.tempo.count with ctl := acmpCtlValue v }
  if !v.getLsbD 0 then
    s.modAcmp n fun a => { a with flt := false, raw := false, samples := List.replicate 7 false, settle := none, supplyLow := false }
  else if was then s
  else
    let s := s.modAcmp n fun a => { a with flt := false, settle := some (s.tempo.count + 10000) }
    if s.io.vddaLow then (s.modAcmp n fun a => { a with supplyLow := true }).setFlt n true else s

/-- A read of the Accent window (18 Table 18.3). -/
def State.accentRead (s : State) (off : Nat) : Word :=
  if h : off < 0x80 then
    let n : Fin 8 := ⟨off / 16, by omega⟩
    let a := (s.acmp n).sync s.tempo.count
    if !s.hasAcmp n then 0
    else match off % 16 with
      | 0 => a.ctl.setWidth 24
      | 1 => a.newDac.setWidth 24
      | 2 => a.newSlope.setWidth 24
      | 3 => a.blank.setWidth 24
      | 4 => flag 24 0 a.flt ||| flag 24 1 a.supplyLow ||| flag 24 8 a.trip
      | 5 => a.tripCnt
      | _ => 0
  else if off = 0x100 then flag 24 0 s.io.acmpLock
  else 0

/-- A write to the Accent window (18 Table 18.3, R753). -/
def State.accentWrite (s : State) (w : Initiator) (off : Nat) (v : Word) : State :=
  let shut := s.io.acmpLock && w.locked
  if h : off < 0x80 then
    let n : Fin 8 := ⟨off / 16, by omega⟩
    if !s.hasAcmp n then s
    else match off % 16 with
      | 0 => if shut then s else s.acmpCtl n v
      | 1 => s.acmpLevel n false v
      | 2 => s.acmpLevel n true v
      | 3 => if shut then s else s.modAcmp n fun a => { a with blank := bits v 0 8 }
      | 4 => s.modAcmp n fun a => { a with trip := w1c a.trip (v.getLsbD 8) }
      | _ => s
  else if off = 0x100 then if shut then s else { s with io := { s.io with acmpLock := v.getLsbD 0 } }
  else s

/-- ACMP_DAC_WRITE (18 R736, R744): a write of ACMP_DAC, or of ACMP_SLOPE. -/
def execAcmpDacWrite (w : Initiator) (n : Fin 8) (isSlope : Bool) (v : Word) (s : State) : Host.Outcome State Fault Refusal :=
  ifActs w s fun s => s.accentWrite w (16 * n.val + (if isSlope then 2 else 1)) v

/-- ACMP_SETTLE_END (18 R756): the 10 µs of settling end, and FLT follows RAW. -/
def execAcmpSettleEnd (n : Fin 8) (s : State) : Host.Outcome State Fault Refusal :=
  ifOn s fun s =>
    match (s.acmp n).settle with
    | none => s
    | some t =>
      let s := (s.until t).modAcmp n fun a => { a with settle := none, samples := List.replicate 7 a.raw }
      if (s.acmp n).supplyLow then s else s.setFlt n (s.acmp n).raw

/-- VDDA_ACMP_LOW (18 R757): every enabled comparator holds FLT at 1; in Fermata FLT is held at 0 (R758) until the wake. -/
def execVddaAcmpLow (s : State) : Host.Outcome State Fault Refusal :=
  ifIo s fun s =>
    (List.finRange 8).foldl (fun s n =>
      if s.on && s.hasAcmp n && (s.acmp n).en then (s.modAcmp n fun a => { a with supplyLow := true }).setFlt n true else s)
      { s with io := { s.io with vddaLow := true } }

/-- VDDA_ACMP_RECOVERY (18 R757): the comparators stop forcing FLT to 1, and SUPPLY_LOW clears. -/
def execVddaAcmpRecovery (s : State) : Host.Outcome State Fault Refusal :=
  ifIo s fun s =>
    (List.finRange 8).foldl (fun s n =>
      if s.on && (s.acmp n).supplyLow then
        let s := s.modAcmp n fun a => { a with supplyLow := false }
        s.setFlt n ((s.acmp n).majority && (s.acmp n).settle.isNone)
      else s)
      { s with io := { s.io with vddaLow := false } }

end Sys2Proof.Machine
end

