-- ==== Sys2Proof/Machine/Rings.lean ====
section
/-! DEFINITION. Command rings, replies, doorbells and notices, and the service that every command shares (10 sections 10.1
to 10.5). -/
namespace Sys2Proof.Machine

/-- The status codes of 10 Table 10.5. -/
inductive Status where
  | ok | accepted | tooLate | aborted | notAbortable | badOpcode | badLength | badParam | unitAbsent | notPermitted | busy
  | tagInUse | poisoned | poolEmpty | linkLost | outcomeUnknown | versionUntested | verifyFailed
  | other (code : BitVec 8)
deriving DecidableEq, Repr

/-- The code of a status. -/
def Status.code : Status → BitVec 8
  | .ok => 0x00 | .accepted => 0x01 | .tooLate => 0x02 | .aborted => 0x03 | .notAbortable => 0x04 | .badOpcode => 0x10
  | .badLength => 0x11 | .badParam => 0x12 | .unitAbsent => 0x13 | .notPermitted => 0x14 | .busy => 0x15 | .tagInUse => 0x16
  | .poisoned => 0x17 | .poolEmpty => 0x20 | .linkLost => 0x21 | .outcomeUnknown => 0x22 | .versionUntested => 0x30
  | .verifyFailed => 0x31 | .other c => c

/-! Ring pages (10 Tables 10.1 and 10.2). -/

/-- The state with one word of a ring's page written, good data in place of what it held. -/
def State.setRingWord (s : State) (r : BitVec 5) (off : Nat) (v : Word) : State :=
  { s with stage := Memory.setWord ramDefault s.stage (r.toNat * 4096 + off) v,
           stageBad := s.stageBad.filter fun a => a ≠ 0x100000 + r.toNat * 4096 + off }
/-- REQ_PROD of a ring. -/
def State.reqProd (s : State) (r : BitVec 5) : Word := s.ringWord r 0
/-- REQ_CONS of a ring. -/
def State.reqCons (s : State) (r : BitVec 5) : Word := s.ringWord r 1
/-- STATE of a ring: 0 disabled, 1 running, 2 stopped. -/
def State.ringState (s : State) (r : BitVec 5) : Word := s.ringWord r 4
/-- Word `i` of the request ring. -/
def State.reqWord (s : State) (r : BitVec 5) (i : Word) : Word := s.ringWord r (0x400 + i.toNat % 2048)
/-- Words from index `i` of the request ring. -/
def State.reqWords (s : State) (r : BitVec 5) (i : Word) (n : Nat) : List Word :=
  (List.range n).map fun k => s.reqWord r (i + BitVec.ofNat 24 k)
/-- Words written to the request ring from index `i`. -/
def State.putReq (s : State) (r : BitVec 5) (i : Word) : List Word → State
  | [] => s
  | v :: vs => State.putReq (s.setRingWord r (0x400 + i.toNat % 2048) v) r (i + 1) vs
/-- Words written to the reply ring from index `i`. -/
def State.putRpl (s : State) (r : BitVec 5) (i : Word) : List Word → State
  | [] => s
  | v :: vs => State.putRpl (s.setRingWord r (0xC00 + i.toNat % 1024) v) r (i + 1) vs

/-- A numbered bit of the rings. -/
def ringBit (x : BitVec 18) (r : BitVec 5) : Bool := x.getLsbD r.toNat

/-- The state with the command service changed. -/
def State.modRings (s : State) (f : Rings → Rings) : State := { s with rings := f s.rings }

/-! Replies. -/

/-- The words of a reply (10 R388, R389). -/
def replyWords (st : Status) (final : Bool) (tag seq : Word) (results : List Word) : List Word :=
  let res := if st = .ok && final then results else []
  [(st.code.setWidth 24 <<< 16) ||| flag 24 12 final ||| BitVec.ofNat 24 (3 + res.length), tag, seq] ++ res

/-- The reply words written into the ring, then RPL_PROD advanced (10 R398). -/
def State.writeReply (s : State) (r : BitVec 5) (ws : List Word) : State :=
  let p := s.rplProd r
  (s.putRpl r p ws).setRingWord r 2 (p + BitVec.ofNat 24 ws.length)

/-- The partner link unit consumes a reply of page 16 and returns a final reply in RSP (13 R571). -/
def State.forwardReply (s : State) (final : Bool) (st : Status) (seq : Word) (ws : List Word) : State :=
  let s := s.setRingWord 16 3 (s.rplProd 16)
  match s.duet.inner.find? fun p => p.1 = seq with
  | none => s
  | some p =>
    if final then
      let s := { s with duet := { s.duet with inner := s.duet.inner.filter fun q => q.1 ≠ seq } }
      s.produceC 2 ([(st.code.setWidth 24 <<< 16) ||| p.2.setWidth 24, 0, 0] ++ ws)
    else s

/-- A reply of `n` words can be written into a ring now: the ring is not stopped under R397, holds no earlier reply back, and has the
room. R409 keeps that room for every command that starts; only the replies of an ABORT of a packet that has not started (R424) can
lack it. -/
def State.canReply (s : State) (r : BitVec 5) (n : Nat) : Bool :=
  !ringBit s.rings.stopped r && !(s.rings.held.any fun p => p.1 = r) && (s.rplProd r - s.rplCons r).toNat + n ≤ 1024

/-- The Conductor answers a packet of a ring, or holds the reply (10 R397; log 28). -/
def State.reply (s : State) (r : BitVec 5) (st : Status) (final : Bool) (tag seq : Word) (results : List Word) : State :=
  let ws := replyWords st final tag seq results
  if !s.canReply r ws.length then s.modRings fun x => { x with held := x.held ++ [(r, ws)] }
  else
    let s := s.writeReply r ws
    if r = 16 then s.forwardReply final st seq ws else s

/-- Two records are of one command: SEQ tells the commands of a ring apart (10 section 10.1). -/
def Cmd.same (a b : Cmd) : Bool := a.ring = b.ring && a.seq = b.seq

/-- The state without an outstanding command. -/
def State.dropCmd (s : State) (c : Cmd) : State :=
  s.modRings fun x => { x with active := x.active.filter fun a => !a.same c }

/-- An outstanding command receives its final reply (10 R390, R412). A halted Conductor sends none. -/
def State.finish (s : State) (c : Cmd) (st : Status) (results : List Word) : State :=
  if s.cdr.run = .halted then s else (s.dropCmd c).reply c.ring st true c.tag c.seq results

/-- The oldest outstanding command of an opcode. -/
def State.running (s : State) (op : BitVec 8) : Option Cmd := s.rings.active.find? fun c => c.op = op

/-- The outstanding command of an opcode, if there is one, receives its final reply. -/
def State.finishOp (s : State) (op : BitVec 8) (st : Status) (results : List Word) : State :=
  match s.running op with
  | some c => s.finish c st results
  | none => s

/-- Every outstanding command of an opcode receives its final reply, the oldest first. -/
def State.finishAll (s : State) (op : BitVec 8) (st : Status) (results : List Word) : State :=
  (s.rings.active.filter fun c => c.op = op).foldl (fun s c => s.finish c st results) s

/-- An outstanding command replaced by its new state. -/
def State.setCmd (s : State) (c : Cmd) : State :=
  s.modRings fun x => { x with active := x.active.map fun a => if a.same c then c else a }

/-! Notices and doorbells. -/

/-- A notice is queued, or counted in LOST when 16 are held (10 R404, R405). -/
def State.notice (s : State) (code : BitVec 8) (data : Word) : State :=
  if 16 ≤ s.rings.notices.length then s.modRings fun x => { x with lost := satInc x.lost }
  else s.modRings fun x => { x with notices := x.notices ++ [(code, data)], noticePend := true }

/-- A ring's doorbell is rung. -/
def State.ring (s : State) (r : BitVec 5) : State :=
  s.modRings fun x =>
    if r < 16 then { x with dbPend := setBit x.dbPend r.toNat true }
    else if r = 16 then { x with dbPartner := true }
    else { x with dbDebug := true }

/-- A ring's doorbell bit is cleared by the Conductor (10 R403). -/
def State.unring (s : State) (r : BitVec 5) : State :=
  s.modRings fun x =>
    if r < 16 then { x with dbPend := setBit x.dbPend r.toNat false }
    else if r = 16 then { x with dbPartner := false }
    else { x with dbDebug := false }

/-- A ring is rung. -/
def State.rung (s : State) (r : BitVec 5) : Bool :=
  if r < 16 then s.rings.dbPend.getLsbD r.toNat else if r = 16 then s.rings.dbPartner else s.rings.dbDebug

/-! Commands. -/

/-- How a command that has passed its checks ends: with its final reply, or it runs on. -/
inductive CmdEnd where
  | final (st : Status) (results : List Word)
  | running (aux : Nat)
deriving DecidableEq, Repr

/-- Who may send a command: M for ring 0, P for rings 1 to 15, D for the partner, G for a debug session. -/
structure Sources where
  m : Bool
  p : Bool
  d : Bool
  g : Bool
deriving DecidableEq, Repr

/-- One opcode of 10 Table 10.4: its code and kind, its length, who may send it, the checks of R410 steps 3 to 5 and 7 that
are its own, the number of its result words, and what it does. The ring is an argument where the source matters. -/
structure CmdDef where
  op        : BitVec 8
  long      : Bool
  abortable : Bool
  sources   : Sources
  lenOk     : List Word → Bool
  denied    : State → BitVec 5 → List Word → Bool
  absent    : State → List Word → Bool
  bad       : State → BitVec 5 → List Word → Bool
  busy      : State → List Word → Bool
  results   : List Word → Nat
  run       : Cmd → State → State × CmdEnd

/-- Parameter `i` of a command. -/
def param (ps : List Word) (i : Nat) : Word := ps.getD i 0

/-- The ring's class of source may send the command; the debug ring needs a session with CMD (11 R490). -/
def Sources.allows (x : Sources) (s : State) (r : BitVec 5) : Bool :=
  if r = 0 then x.m else if r < 16 then x.p else if r = 16 then x.d
  else x.g && s.boot.session && s.boot.perms.getLsbD 1

/-- Long commands outstanding (10 R410 step 7): every outstanding command is long. -/
def State.longCount (s : State) : Nat := s.rings.active.length

/-- The checks of 10 R410 from step 2 on: the status of the first failure. -/
def CmdDef.check (d : CmdDef) (s : State) (r : BitVec 5) (flags : BitVec 4) (tag : Word) (ps : List Word) : Option Status :=
  if !d.lenOk ps then some .badLength
  else if !d.sources.allows s r || d.denied s r ps then some .notPermitted
  else if d.absent s ps then some .unitAbsent
  else if bits flags 1 3 != 0 || d.bad s r ps then some .badParam
  else if s.rings.active.any (fun c => c.ring = r && c.tag = tag) then some .tagInUse
  else if d.busy s ps || 32 ≤ s.longCount then some .busy
  else none

/-- Reply words that a command needs (10 R409). -/
def CmdDef.space (d : CmdDef) (ps : List Word) : Nat := (if d.long then 3 else 0) + 3 + d.results ps

/-- Reply words free in a ring, less those held for its outstanding commands and those of replies held back (10 R409). -/
def State.rplFree (s : State) (r : BitVec 5) : Nat :=
  let used := (s.rplProd r - s.rplCons r).toNat
  let held := (s.rings.active.filter fun c => c.ring = r).foldl (fun n (c : Cmd) => n + 3 + c.resv) 0
  let late := (s.rings.held.filter fun p => p.1 = r).foldl (fun n p => n + p.2.length) 0
  1024 - used - held - late

/-- A command starts (10 R390, R407): what it does, and its replies. A long command answers ACCEPTED first, even where it ends at
once. -/
def State.startCmd (s : State) (d : CmdDef) (c : Cmd) : State :=
  let r := d.run c s
  match r.2 with
  | .final st res =>
    let s := if d.long then r.1.reply c.ring .accepted false c.tag c.seq [] else r.1
    s.reply c.ring st true c.tag c.seq res
  | .running aux =>
    (r.1.modRings fun x => { x with active := x.active ++ [{ c with aux }] }).reply c.ring .accepted false c.tag c.seq []

/-- A ring stops at the packet in front (10 R397, R411). -/
def State.stopRing (s : State) (r : BitVec 5) : State := (s.setRingWord r 4 2).setRingWord r 5 (s.reqCons r)

/-- A Voice ring has been served (10 R406). -/
def State.served (s : State) (r : BitVec 5) : State :=
  if r < 16 then s.modRings fun x => { x with last := r.setWidth 4 } else s

/-- Words known to be in the ring: REQ_PROD at the last doorbell less REQ_CONS (10 R399). -/
def State.avail (s : State) (r : BitVec 5) : Nat := (s.rings.known.toList.getD r.toNat 0 - s.reqCons r).toNat

/-- What the Conductor can do with the packet in front of a ring. -/
inductive HeadState where
  | none
  | badLength
  | packet (n : Nat)
deriving DecidableEq, Repr

/-- The packet in front of a ring that runs (10 R399, R411, R442). -/
def State.head (s : State) (r : BitVec 5) : HeadState :=
  let av := s.avail r
  if s.ringState r != 1 || ringBit s.rings.stopped r || av = 0 || 2048 < av then .none
  else
    let n := (bits (s.reqWord r (s.reqCons r)) 0 12).toNat
    if n < 2 || 256 < n then .badLength else if av < n then .none else .packet n

/-- The opcode of the packet in front. -/
def State.headOp (s : State) (r : BitVec 5) : BitVec 8 := bits (s.reqWord r (s.reqCons r)) 16 8
/-- The flags of the packet in front. -/
def State.headFlags (s : State) (r : BitVec 5) : BitVec 4 := bits (s.reqWord r (s.reqCons r)) 12 4
/-- The tag of the packet in front. -/
def State.headTag (s : State) (r : BitVec 5) : Word := s.reqWord r (s.reqCons r + 1)

/-- The packet in front waits under ORDERED (10 R387). -/
def State.ordered (s : State) (r : BitVec 5) : Bool :=
  (s.headFlags r).getLsbD 0 && s.rings.active.any (fun c => c.ring = r)

/-- REQ_CONS passes the packet in front, which has `n` words. -/
def State.consume (s : State) (r : BitVec 5) (n : Nat) : State := (s.setRingWord r 1 (s.reqCons r + BitVec.ofNat 24 n)).served r

/-- Packets at the front of a ring that an ABORT has ended are passed over, at most `n` of them (10 R424). -/
def State.skipCancelled (s : State) (r : BitVec 5) : Nat → State
  | 0 => s
  | n + 1 =>
    match s.head r with
    | .packet k =>
      let here := (r, s.reqCons r)
      if s.rings.cancelled.contains here then
        ((s.modRings fun x => { x with cancelled := x.cancelled.filter (· ≠ here) }).consume r k).skipCancelled r n
      else s
    | _ => s

/-- The Conductor takes the packet in front of a ring, if it can start now: it checks it, answers the first failure, or
starts it (10 R398, R409, R410, R411). `look` gives the opcodes; one that it does not give is unassigned. -/
def State.startFront (s : State) (look : BitVec 8 → Option CmdDef) (r : BitVec 5) : State :=
  match s.head r with
  | .none => s
  | .badLength =>
    if s.rplFree r < 3 then s
    else (((s.reply r .badLength true (if s.avail r < 2 then 0 else s.headTag r) (s.reqCons r) []).stopRing r).served r)
  | .packet n =>
    if s.ordered r then s
    else
      let seq := s.reqCons r
      let tag := s.headTag r
      let ps := (s.reqWords r seq n).drop 2
      let refuse (st : Status) : State :=
        if s.rplFree r < 3 then s else (s.consume r n).reply r st true tag seq []
      match look (s.headOp r) with
      | none => refuse .badOpcode
      | some d =>
        match d.check s r (s.headFlags r) tag ps with
        | some st => refuse st
        | none =>
          if s.rplFree r < d.space ps then s
          else
            let c : Cmd := { ring := r, seq, tag, op := d.op, params := ps, startAt := s.tempo.count, committed := false, resv := d.results ps, aux := 0 }
            (s.consume r n).startCmd d c

/-- The next packet of a ring is taken: those that an ABORT has ended are passed over. -/
def State.startHead (s : State) (look : BitVec 8 → Option CmdDef) (r : BitVec 5) : State := (s.skipCancelled r 1024).startFront look r

/-- Both counts of a ring lie within the limits of 10 R397. -/
def State.ringLimits (s : State) (r : BitVec 5) : Bool :=
  (s.reqProd r - s.reqCons r).toNat ≤ 2048 && (s.rplProd r - s.rplCons r).toNat ≤ 1024

/-- REQ_PROD is read at a doorbell (10 R399). -/
def State.learn (s : State) (r : BitVec 5) : State :=
  s.modRings fun x => { x with known := if h : r.toNat < 18 then x.known.set r.toNat (s.reqProd r) else x.known }

/-- The Conductor serves a doorbell: it clears the bit, checks the ring's counts and reads REQ_PROD (10 R397, R403, R442). -/
def State.serveDoorbell (s : State) (r : BitVec 5) : State :=
  let s := s.unring r
  if s.ringState r != 1 || ringBit s.rings.stopped r then s
  else if s.ringLimits r then s.learn r
  else (s.stopRing r).modRings fun x => { x with stopped := setBit x.stopped r.toNat true }

/-- The words of a request packet (10 R386). -/
def packetWords (op : BitVec 8) (h : Header) (ps : List Word) : List Word :=
  [(op.setWidth 24 <<< 16) ||| (h.flags.setWidth 24 <<< 12) ||| BitVec.ofNat 24 ((2 + ps.length) % 4096), h.tag] ++ ps

/-- A requester writes a packet into its ring, advances REQ_PROD and rings the doorbell (10 R394, R395). -/
def State.sendPacket (s : State) (r : BitVec 5) (ws : List Word) : State :=
  let p := s.reqProd r
  ((s.putReq r p ws).setRingWord r 0 (p + BitVec.ofNat 24 ws.length)).ring r

/-- The lines of the Stage SRAM that a packet and its REQ_PROD are written into. -/
def State.packetLines (s : State) (r : BitVec 5) (n : Nat) : List Nat :=
  let page := 0x100000 + r.toNat * 4096
  (page / 24) :: (List.range n).map fun i => (page + 0x400 + (s.reqProd r + BitVec.ofNat 24 i).toNat % 2048) / 24

/-- A requester other than the Conductor writes a packet: reservations on the lines written are cleared (04 R133). -/
def State.postPacket (s : State) (r : BitVec 5) (ws : List Word) : State :=
  (s.packetLines r ws.length).foldl (fun s line => s.clearResv line fun _ => true) (s.sendPacket r ws)

/-- The packet fits into its ring (10 R395). -/
def State.fits (s : State) (r : BitVec 5) (n : Nat) : Bool := (s.reqProd r - s.reqCons r).toNat + n ≤ 2048

/-- The Conductor serves commands now: not after a SYS_RESET or POWER_ENTER (19 R778, R793). -/
def State.serving (s : State) : Bool := s.cdrRuns && s.rings.resetReq.isNone && s.rings.sleepReq.isNone

/-- The rings in the order of service (R406). -/
def State.serviceOrder (s : State) : List (BitVec 5) :=
  [16, 17] ++ (List.range 16).map fun i => BitVec.ofNat 5 ((s.rings.last.toNat + 1 + i) % 16)

/-- The rings that are served before a ring. -/
def State.before (s : State) (r : BitVec 5) : List (BitVec 5) := s.serviceOrder.takeWhile fun x => x ≠ r

/-- A running ring has been rung, and its doorbell waits to be served. -/
def State.bell (s : State) (r : BitVec 5) : Bool := s.rung r && s.ringState r = 1 && !ringBit s.rings.stopped r

/-- A ring has pending work (R406): a doorbell to serve, or a packet that waits for neither ORDERED nor room. -/
def State.hasWork (s : State) (r : BitVec 5) : Bool := s.bell r || (s.head r ≠ .none && !s.ordered r && 3 ≤ s.rplFree r)

/-- A command row (log 13): the requester sends the packet; a Conductor that serves commands, whose ring has nothing in front of
it and no ring before it in the order of service work to do (R406), takes the doorbell and the packet at once. Otherwise the
packet waits. -/
def State.submit (s : State) (d : CmdDef) (h : Header) (ps : List Word) : State :=
  if !s.on || !(h.ring < 18) || !s.fits h.ring (2 + ps.length) then s
  else
    let first := s.reqProd h.ring = s.reqCons h.ring && !(s.before h.ring).any s.hasWork
    let s := s.postPacket h.ring (packetWords d.op h ps)
    if first && s.serving then
      (s.serveDoorbell h.ring).startHead (fun op => if op = d.op then some d else none) h.ring
    else s

/-- The outcome of a command row. -/
def cmdRow (d : CmdDef) (h : Header) (ps : List Word) (s : State) : Host.Outcome State Fault Refusal := .next (s.submit d h ps)

/-! Shapes that the opcodes share. -/

/-- Sources M. -/
def srcM : Sources := { m := true, p := false, d := false, g := false }
/-- Sources G. -/
def srcG : Sources := { m := false, p := false, d := false, g := true }
/-- Sources M and G. -/
def srcMG : Sources := { m := true, p := false, d := false, g := true }
/-- Sources M and P. -/
def srcMP : Sources := { m := true, p := true, d := false, g := false }
/-- Sources M, D and G. -/
def srcMDG : Sources := { m := true, p := false, d := true, g := true }
/-- Sources M, P, D and G. -/
def srcAll : Sources := { m := true, p := true, d := true, g := true }

/-- An opcode of fixed length with no checks of its own. -/
def mkCmd (op : BitVec 8) (nparams nresults : Nat) (src : Sources) (run : Cmd → State → State × CmdEnd) : CmdDef where
  op := op
  long := false
  abortable := false
  sources := src
  lenOk := fun ps => ps.length = nparams
  denied := fun _ _ _ => false
  absent := fun _ _ => false
  bad := fun _ _ _ => false
  busy := fun _ _ => false
  results := fun _ => nresults
  run := run

/-- A command that answers at once with OK and no results. -/
def okCmd (f : State → State) : Cmd → State → State × CmdEnd := fun _ s => (f s, .final .ok [])

/-- A core mask names an absent core (00 R8). -/
def absentCores (s : State) (mask : Word) : Bool := (mask.setWidth 12) &&& ~~~s.coreMask != 0

/-- A word has bits at or above place `n`. -/
def above (v : Word) (n : Nat) : Bool := v >>> n != 0

end Sys2Proof.Machine
end

