-- ==== Sys2Proof/Machine/TempoOps.lean ====
section
/-! DEFINITION. Tempo: references, measurements, steps, quality, TPPS_OUT, and the Tempo window (12). -/
namespace Sys2Proof.Machine

/-! Codes of 12 Table 12.3 and flags of TEMPO_STAT [14:8]. -/

/-- FREE. -/
def codeFree : BitVec 4 := 0
/-- COARSE. -/
def codeCoarse : BitVec 4 := 1
/-- SET. -/
def codeSet : BitVec 4 := 2
/-- ACQUIRING. -/
def codeAcquiring : BitVec 4 := 3
/-- LOCKED. -/
def codeLocked : BitVec 4 := 4
/-- HOLDOVER. -/
def codeHoldover : BitVec 4 := 5
/-- HOLD_EXPIRED. -/
def codeExpired : BitVec 4 := 6
/-- STEP_HELD. -/
def codeHeld : BitVec 4 := 7

/-- A flag of TEMPO_STAT is set; `k` counts from bit 8. -/
def Tempo.setFlag (t : Tempo) (k : Nat) : Tempo := { t with flags := setBit t.flags k true }

/-- ACQUIRING, LOCKED or HOLDOVER. -/
def Tempo.trusted (t : Tempo) : Bool := t.code = codeAcquiring || t.code = codeLocked || t.code = codeHoldover

/-! References (12 section 12.2). -/

/-- The state of a reference. -/
def Tempo.refOf (t : Tempo) : TRef → RefState
  | .pps => t.pps | .ptp => t.ptp | .partner => t.partner
/-- Tempo with the state of a reference replaced. -/
def Tempo.setRef (t : Tempo) (r : TRef) (x : RefState) : Tempo :=
  match r with | .pps => { t with pps := x } | .ptp => { t with ptp := x } | .partner => { t with partner := x }
/-- The bit of a reference in REF_EN. -/
def refBit : TRef → Nat
  | .pps => 0 | .ptp => 1 | .partner => 2
/-- A reference is enabled. -/
def Tempo.enabled (t : Tempo) (r : TRef) : Bool := t.refEn.getLsbD (refBit r)
/-- The reference in use (12 R504). -/
def Tempo.selected (t : Tempo) : Option TRef :=
  [TRef.pps, .ptp, .partner].find? fun r => t.enabled r && (t.refOf r).qualified
/-- REF follows the selection. -/
def Tempo.reselect (t : Tempo) : Tempo := { t with ref := t.selected }
/-- REF_ERR of a reference (12 Table 12.1). -/
def Tempo.refErrOf (t : Tempo) : TRef → Nat
  | .pps => 100 | .ptp => 1000 | .partner => t.partnerErr
/-- Counts after the last measurement at which a reference is lost (12 Table 12.1, Table 12.4). -/
def Tempo.lossAfter (t : Tempo) : TRef → Nat
  | .pps => 2000000000
  | .ptp => (if t.ptpTmo = 0 then 1 else min 60 t.ptpTmo.toNat) * 1000000000
  | .partner => 10000000

/-! Quality (12 section 12.4). -/

/-- HOLD_ELAPSED (12 R518). -/
def Tempo.holdElapsed (t : Tempo) : Nat :=
  if t.code = codeHoldover || t.code = codeExpired then (t.count - t.holdFrom) / 1000000000 else 0
/-- ERR_LIMIT as it is taken. -/
def Tempo.limit (t : Tempo) : Nat := max 100 t.errLimit.toNat
/-- EST_ERR by CODE (12 Table 12.3). -/
def Tempo.estimate (t : Tempo) : Nat :=
  if t.code = codeAcquiring then t.slewRem.natAbs + t.refErr
  else if t.code = codeLocked then t.lockO + t.refErr
  else if t.code = codeHoldover || t.code = codeExpired then t.e0.toNat + t.holdDrift.toNat * t.holdElapsed
  else if t.code = codeHeld then t.pend.natAbs
  else 0xFFFFFF
/-- TIME_VALID follows R516, and VALID_CHG tells a change. -/
def Tempo.refreshValid (t : Tempo) : Tempo :=
  let v := t.trusted && t.estErr.toNat ≤ t.limit
  if v = t.valid then t else { t with valid := v }.setFlag 5
/-- EST_ERR is updated (12 R515), and TIME_VALID with it. -/
def Tempo.update (t : Tempo) : Tempo := { t with estErr := satNat 24 t.estimate }.refreshValid

/-- Whole seconds of holdover after which a limit is passed (12 R519); EST_ERR saturates at the greatest ERR_LIMIT. -/
def Tempo.expiresAfter (t : Tempo) : Nat :=
  let byTime := max 1 t.holdLimit.toNat + 1
  if t.limit < t.e0.toNat then 0
  else if t.holdDrift = 0 || t.limit = 0xFFFFFF then byTime
  else min byTime ((t.limit - t.e0.toNat) / t.holdDrift.toNat + 1)

/-- The count at which a limit is passed. -/
def Tempo.expiresAt (t : Tempo) : Nat := t.holdFrom + t.expiresAfter * 1000000000

/-- HOLDOVER becomes HOLD_EXPIRED (12 R519). -/
def Tempo.expire (t : Tempo) : Tempo := ({ t with code := codeExpired }.setFlag 6).update

/-- The state with Tempo changed. -/
def State.modTempo (s : State) (f : Tempo → Tempo) : State := { s with tempo := f s.tempo }

/-! Seconds and TPPS_OUT (12 section 12.5). -/

/-- The seconds field increases (12 R521 to R523, R528, R515). -/
def State.secondUp (s : State) : State :=
  let t := s.tempo
  let soon : Bool := match t.ppsRise with | some r => decide (t.count - r < 500150000) | none => false
  let s := if soon then s.modTempo fun t => t.setFlag 2
    else (s.modTempo fun t => { t with ppsRise := some t.count, ppsOut := t.ppsOut || t.ppsoEn }).edge 0 50
  let s := if t.trusted then { s with pwr := { s.pwr with aonSec := BitVec.ofInt 48 (secondsOf t.time), aonFrac := 0, aonLoaded := true } } else s
  s.modTempo fun t => { t with secDone := secondsOf t.time }.update

/-! Steps (12 section 12.3). -/

/-- PEND is cleared: an outstanding TEMPO_STEP ends without its step (12 R511, R512). -/
def State.clearPend (s : State) : State :=
  (s.modTempo fun t => { t with pend := 0, stepReq := false }).finishAll 0x34 .notPermitted []

/-- A step is applied (12 R498, R509, R512, R513). -/
def State.applyStep (s : State) (st : TStep) : State :=
  let amount := if st.held then s.tempo.pend else st.amount
  let before := secondsOf s.tempo.time
  let s := s.modTempo fun t =>
    let code := if st.timeSet && t.selected.isNone then codeSet else codeLocked
    let err := match t.selected with | some r => t.refErrOf r | none => t.refErr
    { t with offset := t.offset + amount, pend := 0, stepReq := false, step := none, code, lockO := 0, refErr := err }.setFlag 4
  let s := s.finishAll 0x34 (if st.held then .ok else .notPermitted) []
  let now := secondsOf s.tempo.time
  if before < now then s.secondUp else s.modTempo fun t => { t with secDone := now }.update

/-- A step is scheduled for the next bar boundary, or applied at once while RUN is 0 (12 R509). -/
def State.schedule (s : State) (st : TStep) : State :=
  if s.bar.run then s.modTempo fun t => { t with step := some st } else s.applyStep st

/-- The scheduled step, if there is one, is applied (12 R509, R510). -/
def State.stepDue (s : State) : State := match s.tempo.step with | some st => s.applyStep st | none => s

/-! Measurements (12 R505 to R507, R511). -/

/-- An addition to FREQ in units of 0.01 ppb, saturating. -/
def Tempo.addFreq (t : Tempo) (units : Int) : Tempo := { t with freq := satSigned 24 (t.freq.toInt + units) }

/-- The change of FREQ that a measurement of PPS or the partner makes (12 R505), rounded toward zero. -/
def Tempo.freqStep (t : Tempo) (r : TRef) (o : Int) : Int :=
  match (t.refOf r).baseAt with
  | some (c0, o0, sl0) =>
    if c0 < t.count then Int.tdiv ((o - o0 + (t.slewDone - sl0)) * 100000000000) (8 * (t.count - c0 : Nat)) else 0
  | none => 0

/-- A step that is already scheduled for what PEND holds. -/
def TStep.ofPend (st : Option TStep) : Option TStep := st.filter (·.held)

/-- A measurement of the reference in use: `ppb` is the frequency parameter of PTP_CORRECT. One above 1 ms is held in PEND under
AUTO_STEP = 0, and replaces PEND while CODE is STEP_HELD; under AUTO_STEP = 1 it is scheduled as a step (12 Table 12.2a, R511). -/
def State.measure (s : State) (r : TRef) (o : Int) (ppb : Option Int) : State :=
  let far := 1000000 < o.natAbs
  let held := far && !s.tempo.autoStep
  let s := s.modTempo fun t =>
    let t := if held then t else t.addFreq (match ppb with | some p => p * 100 | none => t.freqStep r o)
    let t := t.setRef r { t.refOf r with baseAt := some (t.count, o, t.slewDone) }
    { t with lastO := satSigned 24 o, lockO := o.natAbs, refErr := t.refErrOf r }
  let s :=
    if !far then
      (s.modTempo fun t => { t with step := none, slewRem := o, slewFrac := 0, code := if o.natAbs ≤ 1000 then codeLocked else codeAcquiring }).clearPend
    else if held then
      s.modTempo fun t => { t with pend := o, slewRem := 0, code := codeHeld, step := TStep.ofPend t.step }.setFlag 1
    else
      let pendToo := s.tempo.code = codeHeld
      let again := pendToo && (TStep.ofPend s.tempo.step).isSome
      (s.modTempo fun t => { t with slewRem := 0, pend := if pendToo then o else t.pend }).schedule { amount := o, timeSet := false, held := again }
  s.modTempo fun t =>
    let t := t.update
    { t with e0 := t.estErr, holdFrom := t.count, freqAt := t.freq }

/-- The reference in use has been lost and no other is qualified (12 R517, R518). -/
def Tempo.allLost (t : Tempo) : Tempo :=
  let t := t.setFlag 0
  if t.code = codeAcquiring || t.code = codeLocked then { t with freq := t.freqAt, slewRem := 0, code := codeHoldover }.update else t

/-- A reference loses its qualification. -/
def Tempo.lose (t : Tempo) (r : TRef) : Tempo :=
  let was := t.selected
  let t := (t.setRef r RefState.reset).reselect
  if was.isSome && t.selected.isNone then t.allLost else t

/-- REF_EN is written: a reference whose enable changes begins again (DEDUCED, log 23). -/
def Tempo.setRefEn (t : Tempo) (v : BitVec 3) : Tempo :=
  let was := t.selected
  let changed := t.refEn ^^^ v
  let t := [TRef.pps, .ptp, .partner].foldl (fun t r => if changed.getLsbD (refBit r) then t.setRef r RefState.reset else t) t
  let t := { t with refEn := v }.reselect
  if was.isSome && t.selected.isNone then t.allLost else t

/-- A reference yields an accepted measurement; it qualifies after `need` consecutive ones (12 Table 12.1). -/
def Tempo.accept (t : Tempo) (r : TRef) (need : Nat) : Tempo :=
  let x := t.refOf r
  (t.setRef r { x with streak := x.streak + 1, qualified := x.qualified || need ≤ x.streak + 1, lastAt := some t.count, lastSlew := t.slewDone }).reselect

/-- An offset folded into half a second either way (12 R502). -/
def foldPps (n : Nat) : Int := if n ≤ 500000000 then -(n : Int) else 1000000000 - (n : Int)

/-- A TPPS_IN edge satisfies 12 R501. -/
def Tempo.ppsFits (t : Tempo) : Bool :=
  match t.pps.lastAt with
  | none => true
  | some c => ((t.count - c : Nat) - (t.slewDone - t.pps.lastSlew) - 1000000000 : Int).natAbs ≤ 2000

/-- A TPPS_IN edge (12 R501, R502). -/
def State.ppsEdge (s : State) : State :=
  let n := nanosOf s.tempo.time
  let s := s.modTempo fun t => { t with ppsCap := BitVec.ofNat 30 n }
  if !s.tempo.enabled .pps then s
  else if !s.tempo.ppsFits then s.modTempo fun t => t.setFlag 3
  else
    let s := s.modTempo fun t => t.accept .pps 3
    if s.tempo.selected = some .pps then s.measure .pps (foldPps n) none else s

/-- A partner sample: the partner's time now, its quality word and its EST_ERR (12 R503, Table 12.1). -/
def State.partnerSample (s : State) (partnerTime : Int) (q : Word) (err : Nat) : State :=
  if !s.tempo.enabled .partner || !q.getLsbD 7 || bits q 4 3 = 3 then s
  else
    let s := s.modTempo fun t => { t with partnerErr := err + 200 }.accept .partner 3
    if s.tempo.selected = some .partner then s.measure .partner (partnerTime - s.tempo.time) none else s

/-- A PTP_CORRECT (12 R506): it qualifies PTP, and is a measurement where PTP is in use. -/
def State.ptpCorrect (s : State) (o ppb : Int) : State :=
  if !s.tempo.enabled .ptp then s
  else
    let s := s.modTempo fun t => t.accept .ptp 1
    if s.tempo.selected = some .ptp then s.measure .ptp o (some ppb) else s

/-- The step held in PEND is requested (12 R512). -/
def State.requestHeld (s : State) : State :=
  if s.tempo.code = codeHeld then s.schedule { amount := s.tempo.pend, timeSet := false, held := true } else s

/-! The Tempo window (12 section 12.6). -/

/-- The latched words of an initiator. -/
def latchOf (l : List TLatch) (w : Initiator) : Option (List Word) := (l.find? fun x => x.who = w.idx).map (·.words)
/-- The latched words of an initiator replaced. -/
def putLatch (l : List TLatch) (w : Initiator) (ws : List Word) : List TLatch :=
  { who := w.idx, words := ws } :: l.filter fun x => x.who ≠ w.idx

/-- TIME_SEC_HI, TIME_NS_LO, TIME_NS_HI and QUALITY now. -/
def Tempo.timeWords (t : Tempo) : List Word :=
  let ns := BitVec.ofNat 30 (nanosOf t.time)
  [hi24 (BitVec.ofInt 48 (secondsOf t.time)), ns.setWidth 24, (ns >>> 24).setWidth 24, t.quality]
/-- TCOUNT_1 and TCOUNT_2 now. -/
def Tempo.countWords (t : Tempo) : List Word := [BitVec.ofNat 24 (t.count / 2 ^ 24), (BitVec.ofNat 16 (t.count / 2 ^ 48)).setWidth 24]

/-- A read of TIME_SEC_LO latches the rest (12 R525). -/
def State.readSecLo (s : State) (w : Initiator) : State × Word :=
  (s.modTempo fun t => { t with timeLatch := putLatch t.timeLatch w t.timeWords }, BitVec.ofInt 24 (secondsOf s.tempo.time))
/-- A read of TCOUNT_0 latches the rest (12 R525). -/
def State.readCount0 (s : State) (w : Initiator) : State × Word :=
  (s.modTempo fun t => { t with cntLatch := putLatch t.cntLatch w t.countWords }, BitVec.ofNat 24 s.tempo.count)

/-- A read of the Tempo window (12 Table 12.4). -/
def State.tempoRead (s : State) (w : Initiator) (off : Nat) : State × Word :=
  let t := s.tempo
  match off with
  | 0x00 => (s, t.refEn.setWidth 24 ||| flag 24 3 t.autoStep ||| flag 24 4 t.ppsoEn ||| flag 24 5 t.stepReq ||| flag 24 6 t.ppsPol)
  | 0x01 => (s, t.code.setWidth 24 ||| ((refCode t.ref).setWidth 24 <<< 4) ||| flag 24 7 t.valid ||| (t.flags.setWidth 24 <<< 8))
  | 0x02 => s.readSecLo w
  | 0x03 => (s, ((latchOf t.timeLatch w).getD t.timeWords).getD 0 0)
  | 0x04 => (s, ((latchOf t.timeLatch w).getD t.timeWords).getD 1 0)
  | 0x05 => (s, ((latchOf t.timeLatch w).getD t.timeWords).getD 2 0)
  | 0x06 => (s, ((latchOf t.timeLatch w).getD t.timeWords).getD 3 0)
  | 0x07 => (s, t.estErr)
  | 0x08 => (s, satNat 24 t.holdElapsed)
  | 0x09 => (s, t.holdLimit.setWidth 24)
  | 0x0A => (s, t.errLimit)
  | 0x0B => (s, t.holdDrift.setWidth 24)
  | 0x0C => (s, t.freq)
  | 0x0D => (s, satSigned 24 t.slewRem)
  | 0x0E => (s, t.slewRate.setWidth 24)
  | 0x0F => (s, t.lastO)
  | 0x10 => (s, t.ppsCap.setWidth 24)
  | 0x11 => (s, (t.ppsCap >>> 24).setWidth 24)
  | 0x12 => (s, satSigned 24 (secondsOf t.pend))
  | 0x13 => (s, BitVec.ofNat 24 (nanosOf t.pend))
  | 0x14 => (s, BitVec.ofNat 24 (nanosOf t.pend / 2 ^ 24))
  | 0x15 => (s, t.ppsoWidth.setWidth 24)
  | 0x16 => (s, t.ptpTmo.setWidth 24)
  | 0x17 => (s, lo24 s.pwr.aonSec)
  | 0x18 => (s, hi24 s.pwr.aonSec)
  | 0x19 => (s, t.ien.setWidth 24)
  | 0x1A => s.readCount0 w
  | 0x1B => (s, ((latchOf t.cntLatch w).getD t.countWords).getD 0 0)
  | 0x1C => (s, ((latchOf t.cntLatch w).getD t.countWords).getD 1 0)
  | _ => (s, 0)

/-- A write of TEMPO_CTL by the Conductor: STEP_REQ is set by a 1 whatever CODE holds (00 R12), and schedules a step that PEND holds. -/
def State.writeTempoCtl (s : State) (v : Word) : State :=
  let s := s.modTempo fun t => { t.setRefEn (bits v 0 3) with autoStep := v.getLsbD 3, ppsoEn := v.getLsbD 4, ppsPol := v.getLsbD 6 }
  if v.getLsbD 5 then (s.modTempo fun t => { t with stepReq := true }).requestHeld else s

/-- A write to the Tempo window (12 R524). -/
def State.tempoWrite (s : State) (w : Initiator) (off : Nat) (v : Word) : State :=
  if off = 1 then (if s.mayW1c w then s.modTempo fun t => { t with flags := t.flags &&& ~~~bits v 8 7 } else s)
  else if !w.isCdr then s
  else match off with
  | 0x00 => s.writeTempoCtl v
  | 0x09 => s.modTempo fun t => { t with holdLimit := bits v 0 16 }
  | 0x0A => s.modTempo fun t => { t with errLimit := v }.refreshValid
  | 0x0B => s.modTempo fun t => { t with holdDrift := bits v 0 16 }
  | 0x0C => s.modTempo fun t => { t with freq := v }
  | 0x0E => s.modTempo fun t => { t with slewRate := bits v 0 8 }
  | 0x15 => s.modTempo fun t => { t with ppsoWidth := bits v 0 9 }
  | 0x16 => s.modTempo fun t => { t with ptpTmo := bits v 0 6 }
  | 0x19 => s.modTempo fun t => { t with ien := bits v 0 7 }
  | _ => s

end Sys2Proof.Machine
end

