-- ==== Sys2Proof/Machine/ChorusOps.lean ====
section
/-! DEFINITION. Chorus: level inputs, selection, claim and completion, configuration words, and the Chorus window (08). -/
namespace Sys2Proof.Machine

/-! Timers (08 R325). -/

/-- COUNT of CORE_TMR. -/
def State.timerCount (s : State) (t : Nat) : Word :=
  match Tbl.find s.chorus.timer t with
  | some (e, false) => BitVec.ofNat 24 ((e - s.tempo.count + 999) / 1000)
  | _ => 0

/-- A write of CORE_TMR. -/
def State.writeTimer (s : State) (t : Nat) (v : Word) : State :=
  let timer := if v = 0 then Tbl.del s.chorus.timer t else Tbl.put s.chorus.timer t (s.tempo.count + v.toNat * 1000, false)
  { s with chorus := { s.chorus with timer } }

/-- The value of CLAIM and HIGHPEND. -/
def claimWord : Option (Nat × Nat) → Word
  | none => 0
  | some (n, p) => BitVec.ofNat 24 (n + p * 512) ||| bitAt 24 23

/-- A claim (08 R301, R310). -/
def State.claimAt (s : State) (i : Iface) : State × Word :=
  match s.best i with
  | none => (s, 0)
  | some (n, p) =>
    let x := s.chorus.src i.target n
    ({ s with chorus := s.chorus.setSrc i.target n { x with active := some i, latch := false } }, claimWord (some (n, p)))

/-- The source is active where the interface can complete it (08 R312, R313). -/
def activeFor (x : Src) (i : Iface) : Bool :=
  match x.active, i with
  | none, _ => false
  | some (.kernel c _), .monitor t => c = t
  | some j, _ => j = i

/-- A completion (08 R303, R312, R313). -/
def State.completeAt (s : State) (i : Iface) (n : Nat) : State :=
  let x := s.chorus.src i.target n
  if activeFor x i then { s with chorus := s.chorus.setSrc i.target n { x with active := none } }
  else { s with chorus := { s.chorus with badComp := true } }

/-- The interface that an access to an interface page reaches (08 R319, R322, R851). -/
def State.ifaceOf (s : State) (w : Initiator) (kernel : Bool) : Option Iface :=
  match w with
  | .voice c => if kernel then (if (s.core c).mptag = 0 then none else some (.kernel c.val (s.core c).mptag.toNat)) else some (.monitor c.val)
  | .conductor => if kernel then none else some (.monitor 12)
  | _ => none

/-- A halted core's sources are completed and its PMASK values return to 32 (08 R315). -/
def State.chorusHalt (s : State) (c : Fin 12) : State :=
  let ch := sourceNumbers.foldl (fun (ch : Chorus) n =>
    let x := ch.src c.val n
    if activeFor x (.monitor c.val) then ch.setSrc c.val n { x with active := none } else ch) s.chorus
  { s with chorus := { ch with
      pmaskM := Tbl.del ch.pmaskM c.val
      pmaskK := (List.range 16).foldl (fun t p => Tbl.del t (16 * c.val + p)) ch.pmaskK } }

/-! Raising sources. -/

/-- PART and BEAT of MBEXP are written (05 section 5.7). -/
def VoiceCore.expiryRecord (v : VoiceCore) (part : BitVec 4) (beat : BitVec 5) : Word :=
  flag 24 9 (v.mbexp.getLsbD 9) ||| part.setWidth 24 ||| (beat.setWidth 24 <<< 4)

/-- A beat-expiry is recorded at monitor level: BXPEND, and MULTI where BXPEND was 1 already (05 R168, R171). -/
def VoiceCore.deferExpiry (v : VoiceCore) (part : BitVec 4) (beat : BitVec 5) : VoiceCore :=
  { v with mbexp := v.expiryRecord part beat ||| flag 24 9 (v.mstatus.getLsbD 7), mstatus := setBit v.mstatus 7 true }

/-- A beat-expiry is raised on a core (02 R37, 08 R850): it pends, or it is recorded at monitor level (05 R167, R168). On a core that
is not released it pends. -/
def State.raiseBeatExpiry (s : State) (c : Fin 12) (part : BitVec 4) (beat : BitVec 5) : State :=
  s.modCore c fun v => if v.released && v.level = .monitor then v.deferExpiry part beat else { v with bx := some (part, beat) }

/-- A write of 1 to PEND of source 18 (08 R850). -/
def State.pendBeatExpiry (s : State) (c : Fin 12) : State :=
  if s.bar.running then s.raiseBeatExpiry c (entryPart (s.entryNow c)) s.bar.beat else s.raiseBeatExpiry c 0 0

/-- The doorbells whose bits are set become pending (08 R304, Table 8.5). -/
def State.swdb (s : State) (v : Word) : State :=
  (List.range 16).foldl (fun s n => if v.getLsbD n then s.edge 0 n else s) s

/-- Chorus takes writes to its configuration from this initiator (08 R321). -/
def State.chorusAdmits (s : State) (w : Initiator) : Bool :=
  match w with
  | .voice c => (s.core c).level = .monitor
  | .dma _ => false
  | _ => true

/-! Configuration words (08 section 8.5). -/

/-- MODE is read-only 0: source 17 on a Voice core. -/
def modeFixed (t n : Nat) : Bool := n = 17 && t < 12

/-- A configuration word as it reads. -/
def State.srcWord (s : State) (t n : Nat) : Word :=
  if !s.srcPresent t n then 0
  else
    let x := s.chorus.src t n
    x.prio.setWidth 24 ||| flag 24 5 x.en ||| (x.target.setWidth 24 <<< 6) ||| flag 24 10 x.mode ||| (x.part.setWidth 24 <<< 11) |||
      flag 24 15 x.edge ||| flag 24 16 (if n = 18 then (if h : t < 12 then (s.core ⟨t, h⟩).bx.isSome else false) else s.isPending t n) |||
      flag 24 18 x.active.isSome ||| flag 24 19 (s.input t n) ||| flag 24 20 x.own

/-- The fields that a write gives a source, before the checks of R323. -/
def srcFields (x : Src) (t n : Nat) (cdr : Bool) (v : Word) : Src :=
  let kind := if 112 ≤ n && n ≤ 175 then v.getLsbD 15 else x.edge
  { x with
    prio := bits v 0 5
    en := v.getLsbD 5
    target := if isPriv n then x.target else bits v 6 4
    mode := v.getLsbD 10 && !modeFixed t n
    part := bits v 11 4
    edge := kind
    latch := if kind = x.edge then x.latch else false
    own := if cdr then v.getLsbD 20 else x.own }

/-- A write that R323 refuses. -/
def State.srcRefused (s : State) (x : Src) : Bool :=
  12 < x.target.toNat || (x.target.toNat < 12 && !s.hasCore x.target.toNat) || (x.mode && (x.part = 0 || x.target = 12))

/-- A write to a configuration word (08 R298, R304, R305, R321, R323, R849, R850). -/
def State.srcWrite (s : State) (w : Initiator) (t n : Nat) (v : Word) : State :=
  let x := s.chorus.src t n
  let voice := match w with | .voice _ => true | _ => false
  if !s.srcPresent t n || !s.chorusAdmits w || (x.own && voice) then s
  else if n = 18 then (if h : t < 12 then (if v.getLsbD 16 then s.pendBeatExpiry ⟨t, h⟩ else s) else s)
  else
    let y := srcFields x t n w.isCdr v
    if s.srcRefused y then { s with chorus := { s.chorus with cfgReject := true } }
    else
      let latch := if y.edge then ((y.latch && !v.getLsbD 17) || v.getLsbD 16) else y.latch
      { s with chorus := s.chorus.setSrc t n { y with latch } }

/-- A configuration word without its action bits. -/
def State.srcKeep (s : State) (t n : Nat) : Word := s.srcWord t n &&& 0x10FFFF

/-! The Chorus window (08 Table 8.5). -/

/-- A read of an interface page. -/
def State.ifaceRead (s : State) (w : Initiator) (kernel : Bool) (off : Nat) : State × Word :=
  match s.ifaceOf w kernel with
  | none => (s, match w with | .voice _ => (if off = 2 || off = 3 then 32 else 0) | _ => 0)
  | some i =>
    match off with
    | 0 => s.claimAt i
    | 2 => (s, (s.pmask i).setWidth 24)
    | 3 => (s, BitVec.ofNat 24 (s.runPrio i))
    | 4 => (s, claimWord (s.best i))
    | 5 => (s, if kernel then 0 else match w with | .voice c => s.injWait c | _ => 0)
    | 6 => (s, if kernel then 0 else s.injNotify i.target)
    | 7 => (s, if kernel then 0 else s.timerCount i.target)
    | _ => (s, 0)

/-- A write to an interface page. -/
def State.ifaceWrite (s : State) (w : Initiator) (kernel : Bool) (off : Nat) (v : Word) : State :=
  match s.ifaceOf w kernel with
  | none => s
  | some i =>
    match off with
    | 1 => s.completeAt i (bits v 0 9).toNat
    | 2 =>
      let m : BitVec 6 := if 32 < (bits v 0 6).toNat then 32 else bits v 0 6
      match i with
      | .monitor t => { s with chorus := { s.chorus with pmaskM := Tbl.put s.chorus.pmaskM t m } }
      | .kernel c p => { s with chorus := { s.chorus with pmaskK := Tbl.put s.chorus.pmaskK (16 * c + p) m } }
    | 6 => if kernel then s else { s with chorus := { s.chorus with notify := Tbl.put s.chorus.notify i.target (v &&& 0xFFFE) } }
    | 7 => if kernel then s else s.writeTimer i.target v
    | _ => s

/-- The target and source of an offset of the configuration words. -/
def srcAt (off : Nat) : Option (Nat × Nat) :=
  if 0x400 ≤ off && off < 0x580 then (let n := off - 0x400; if isPriv n then none else some (0, n))
  else if 0x800 ≤ off && off < 0x800 + 0x20 * 13 then some ((off - 0x800) / 0x20, (off - 0x800) % 0x20 + 16)
  else none

/-- A read of the Chorus window. -/
def State.chorusRead (s : State) (w : Initiator) (off : Nat) : State × Word :=
  if off = 0 then (s, flag 24 0 s.chorus.en)
  else if off = 1 then (s, flag 24 0 s.chorus.cfgReject ||| flag 24 1 s.chorus.badComp ||| flag 24 2 s.chorus.restored)
  else if 0x1000 ≤ off && off < 0x1008 then s.ifaceRead w false (off - 0x1000)
  else if 0x2000 ≤ off && off < 0x2005 then s.ifaceRead w true (off - 0x2000)
  else match srcAt off with
    | some (t, n) => (s, s.srcWord t n)
    | none => (s, 0)

/-- A write to the Chorus window. -/
def State.chorusWrite (s : State) (w : Initiator) (off : Nat) (v : Word) : State :=
  if 0x1000 ≤ off && off < 0x1008 then s.ifaceWrite w false (off - 0x1000) v
  else if 0x2000 ≤ off && off < 0x2005 then s.ifaceWrite w true (off - 0x2000) v
  else if !s.chorusAdmits w then s
  else if off = 0 then { s with chorus := { s.chorus with en := v.getLsbD 0 } }
  else if off = 1 then
    { s with chorus := { s.chorus with
        cfgReject := w1c s.chorus.cfgReject (v.getLsbD 0), badComp := w1c s.chorus.badComp (v.getLsbD 1)
        restored := w1c s.chorus.restored (v.getLsbD 2) } }
  else if off = 2 then s.swdb v
  else match srcAt off with
    | some (t, n) => s.srcWrite w t n v
    | none => s

end Sys2Proof.Machine
end

