-- ==== Sys2Proof/Machine/RefrainOps.lean ====
section
/-! DEFINITION. Duet redundancy: roles, versions, capture, the checkpoint stream and its reception, and the Refrain registers
(14, and 09 section 9.7). -/
namespace Sys2Proof.Machine

/-- The state with redundancy changed. -/
def State.modRf (s : State) (f : Refrain → Refrain) : State := { s with refrain := f s.refrain }
/-- A W1C flag of RF_STAT is set; `k` counts from bit 8. -/
def Refrain.setFlag (r : Refrain) (k : Nat) : Refrain := { r with flags := setBit r.flags k true }

/-! Roles (14 Table 14.1, R589). -/

/-- The code of a role. -/
def Role.code : Role → BitVec 3
  | .none => 0 | .active => 1 | .handover => 2 | .syncing => 3 | .standby => 4 | .deposed => 5
/-- A role that receives checkpoints. -/
def Role.receives (r : Role) : Bool := r = .syncing || r = .standby

/-- PROTO_MIN, PROTO_MAX and REFRAIN_FMT of the running image (11 Table 11.3). -/
def State.ownMin (s : State) : BitVec 8 := bits s.boot.duetWord 0 8
/-- PROTO_MAX. -/
def State.ownMax (s : State) : BitVec 8 := bits s.boot.duetWord 8 8
/-- REFRAIN_FMT. -/
def State.ownFmt (s : State) : BitVec 8 := bits s.boot.duetWord 16 8
/-- A training has found the versions to agree (14 R592, R593). -/
def State.versionsAgree (s : State) : Bool := s.refrain.trained && s.refrain.protoOk && s.refrain.partnerFmt = s.ownFmt
/-- A training has found the versions to disagree (14 R593). -/
def State.versionsClash (s : State) : Bool := s.refrain.trained && !(s.refrain.protoOk && s.refrain.partnerFmt = s.ownFmt)
/-- MIRROR (14 R589). -/
def State.mirrors (s : State) : Bool := s.refrain.en && s.versionsAgree
/-- The role word (14 R589). -/
def State.roleWord (s : State) : Word :=
  s.refrain.role.code.setWidth 24 ||| flag 24 3 s.mirrors ||| (s.refrain.term.setWidth 24 <<< 8)
/-- The partner's role as last known. -/
def State.partnerRole (s : State) : BitVec 3 := bits s.duet.partnerRole 0 3
/-- The partner receives checkpoints. -/
def State.partnerReceives (s : State) : Bool := s.partnerRole = 3 || s.partnerRole = 4
/-- TERM `a` is higher than TERM `b` (14 R589). -/
def termHigher (a b : BitVec 16) : Bool := 1 ≤ (a - b).toNat && (a - b).toNat ≤ 32767
/-- BATON_TO as it is taken. -/
def Refrain.batonLimit (r : Refrain) : Nat := max 2 (min 64 r.batonTo.toNat)

/-- LAST_APPLIED becomes invalid, and every protected page is marked (14 R601). -/
def State.invalidateApplied (s : State) : State :=
  { s with refrain := { s.refrain with lastApplied := none }, echo := s.echo.markAll }

/-- TRACK_EN is cleared: the stream is abandoned, Echo discarded, both sets emptied (09 R859). -/
def State.trackOff (s : State) : State :=
  let s := s.abandonStream false
  { s with echo := { s.echo with track := false, live := [], frozen := [], lines := [] } }.retryStalled

/-- The device takes a role other than ACTIVE: its pins and its fence follow Table 14.1 (14 R622). -/
def State.leaveTo (s : State) (r : Role) : State :=
  s.modRf fun x => { x with role := r, activeN := true, fence := true, fenceDue := false, batonOut := x.batonOut && r = .handover }

/-- The device becomes ACTIVE (14 R615 step 3, R589). The fence is released one bar later (R616). -/
def State.becomeActive (s : State) : State :=
  let base := if termHigher (bits s.duet.partnerRole 8 16) s.refrain.term then bits s.duet.partnerRole 8 16 else s.refrain.term
  s.modRf fun x =>
    { x with role := .active, term := base + 1, activeN := false, batonOut := !x.batonOut, fence := true, fenceDue := true,
             takeover := false, rx := none, lastApplied := none }.setFlag 1

/-- The device enters SYNCING; TRACK_EN of a standby is 0 (14 R596, R598). A DUET_ROLE that waits to make it ACTIVE is refused. -/
def State.enterSyncing (s : State) : State :=
  let s := if s.refrain.takeActive then (s.modRf fun x => { x with takeActive := false }).finishOp 0x42 .notPermitted [] else s
  ((s.trackOff.leaveTo .syncing).modRf fun x => { x with disarmed := false, oneStale := false, takeover := false }).finishOp 0x44 .ok []

/-- A hand-over ends with a reply (14 R617, R619). -/
def State.endHandover (s : State) (st : Status) : State :=
  (s.modRf fun x => { x with handStep := 0, handBars := 0 }).finishOp 0x42 st []

/-! Protected pages and runs (14 R603, R604). -/

/-- CFG_SIG (14 R595). -/
def State.cfgSig (s : State) : Word :=
  recordCrc (((List.finRange 8).flatMap fun n => [s.echo.rgnBase[n], s.echo.rgnPages[n]]) ++ [s.refrain.k.setWidth 24])

/-- The first and the last line that hold a word of a page. -/
def pageLines (p : Nat) : Nat × Nat := (p * 4096 / 24, (p * 4096 + 4095) / 24)

/-- Lines that hold a word of any of the pages, which rise; `next` is the first line not yet counted. -/
def countLines : List Nat → Nat → Nat
  | [], _ => 0
  | p :: ps, next =>
    let r := pageLines p
    (r.2 + 1 - max r.1 next) + countLines ps (max next (r.2 + 1))

/-- Maximal runs of consecutive pages of one region: each a first page and a count. -/
def runsOf : List Nat → List (Nat × Nat)
  | [] => []
  | p :: ps =>
    match runsOf ps with
    | [] => [(p, 1)]
    | (q, n) :: rest => if q = p + 1 then (p, n + 1) :: rest else (p, 1) :: (q, n) :: rest

/-- The run list of a set of pages (14 R603), region by region. -/
def Echo.runWords (e : Echo) (pages : List Nat) : List Word :=
  (List.finRange 8).flatMap fun n =>
    let r := e.region n
    (runsOf (pages.filter fun p => r.1 ≤ p && p < r.1 + r.2)).flatMap fun q =>
      [BitVec.ofNat 24 (n.val * 2 ^ 19 + (q.1 - r.1)), BitVec.ofNat 24 q.2]

/-- The pages that a run list names, rising; none where a run leaves its region. -/
def Echo.pagesOf (e : Echo) : List Word → Option (List Nat)
  | a :: b :: rest =>
    let r := e.region ((bits a 19 3).toFin)
    let i := (bits a 0 19).toNat
    let n := (bits b 0 19).toNat
    if n = 0 || r.2 < i + n then none
    else (e.pagesOf rest).map fun ps => (List.range n).foldl (fun l k => insertNat l (r.1 + i + k)) ps
  | _ => some []

/-- The mask of the words of a line that lie in the pages. -/
def lineMask (pages : List Nat) (line : Nat) : BitVec 24 :=
  (List.range 24).foldl (fun m i => setBit m i (pages.contains ((24 * line + i) / 4096))) 0

/-- Words of a line outside the mask are zero (14 R604). -/
def maskWords (m : BitVec 24) (ws : List Word) : List Word := (indexed ws).map fun p => if m.getLsbD p.1 then p.2 else 0

/-! The stream of the active device (14 R600 to R605, 09 R362 to R374). -/

/-- Full payloads of the body leave the buffer (14 R603). -/
def State.flushBody (s : State) : Nat → State
  | 0 => s
  | n + 1 =>
    match s.refrain.stream with
    | none => s
    | some st =>
      if st.buf.length < 22 then s
      else State.flushBody ((s.modRf fun x => { x with stream := some { st with buf := st.buf.drop 22 } }).produceB 5 (st.buf.take 22)) n

/-- The next line that the stream has to send: the lowest from `next` on that holds a word of a frozen page (09 R365). -/
def nextLine (frozen : List Nat) (next : Nat) : Option Nat :=
  frozen.foldl (fun b p =>
    let r := pageLines p
    if r.2 < next then b
    else match b with | none => some (max next r.1) | some l => some (min l (max next r.1))) none

/-- The stream ends complete where no line is left (14 R603). -/
def State.endIfDone (s : State) : State :=
  match s.refrain.stream with
  | none => s
  | some st => if !st.ended && s.refrain.headWait.isNone && (nextLine s.echo.frozen st.next).isNone then s.produceEnd 0 else s

/-- CK_HEAD is produced, and what waits of the body (14 R603, R605). -/
def State.sendHead (s : State) (head : List Word) : State :=
  let s := (s.produceB 4 head).modRf fun x => { x with headWait := none }
  let n := match s.refrain.stream with | some st => st.buf.length | none => 0
  (s.flushBody n).endIfDone

/-- A capture freezes the live set and starts a stream (09 R362; 14 R602, R603, Table 14.2). `bar` is the bar that ends. -/
def State.freeze (s : State) (bar : Nat) : State :=
  let k := max 1 s.refrain.k.toNat
  let n := BitVec.ofNat 24 (bar / k)
  let frozen := s.echo.live
  let runs := s.echo.runWords frozen
  let lines := BitVec.ofNat 48 (countLines frozen 0)
  let count := BitVec.ofNat 48 bar
  let head := [n, s.refrain.lastApplied.getD 0, flag 24 0 s.refrain.lastApplied.isNone, lo24 count, hi24 count] ++ r500 s.tempo.time ++
    [lo24 lines, hi24 lines, BitVec.ofNat 24 (runs.length / 2), s.cfgSig, s.ownFmt.setWidth 24, 0]
  let s := { s with echo := { s.echo with frozen := frozen, live := [], lines := [] } }
  let s := s.modRf fun x =>
    { x with stream := some { n, next := 0, buf := runs, crc := crcMore (recordCrc head) runs, ended := false }
             handStep := if x.handStep = 1 then 2 else x.handStep }
  if s.refrain.replyDue then s.modRf fun x => { x with headWait := some head } else s.sendHead head

/-- A valid capture point (09 R362, R363; 14 R599, R600). -/
def State.captureAt (s : State) (bar : Nat) : State :=
  if !s.partnerReceives || !s.duet.session then s
  else if s.refrain.stream.isSome then s.modRf fun x => { x with lateCnt := satInc x.lateCnt }.setFlag 4
  else s.freeze bar

/-- The stream ends poisoned (09 R373, R374). -/
def State.poisonStream (s : State) : State :=
  let s := s.produceEnd 1
  { s with echo := { s.echo.mergeBack with poisoned := true } }.retryStalled

/-- The beats that hold a word of a mask. -/
def beatsOf (m : BitVec 24) : BitVec 8 := (List.range 8).foldl (fun b i => setBit b i (bits m (3 * i) 3 != 0)) 0

/-- Errors that came up in an Echo copy are reported when the words of `m` are sent: on chip as class 0x9, instance 3, and in the
spill region as errors that the stream engine finds (09 R854; log 16). -/
def State.echoErrors (s : State) (l : EchoLine) (m : BitVec 24) : State :=
  let at_ (x : BitVec 24) : List Nat := (List.range 24).filter fun i => (x &&& m).getLsbD i
  let s := (at_ l.ce).foldl (fun s i => if l.spill then s.logCe .stream l.line (i / 3) (3 * (i % 3)) else s.post 0x903 0) s
  (at_ l.ue).foldl (fun s i => if l.spill then s.logUe .stream l.line (i / 3) false else s.post 0x903 1) s

/-- The entry of a line leaves Echo (09 R368). -/
def State.freeEcho (s : State) (line : Nat) : State :=
  { s with echo := { s.echo with lines := s.echo.lines.filter fun x => x.line ≠ line } }

/-- The words of a line as the stream engine reads them, with the poisoned ones among `m` (09 R365, R368, R854). -/
def State.streamRead (s : State) (line : Nat) (m : BitVec 24) : State × List Word × Bool :=
  match s.echo.lines.find? fun l => l.line = line with
  | some l =>
    let s := (s.echoErrors l m).freeEcho line
    (s, l.words.toList, m &&& (beatsToWords l.bad ||| beatsToWords (beatsOf l.ue)) != 0)
  | none =>
    let beats := (List.range 8).filter fun b => (bits m (3 * b) 3) != 0
    let r := s.readBeats .stream line beats
    (r.1, (r.1.rawLine line).toList, m &&& beatsToWords r.2 != 0)

/-- The stream engine sends the next line, unless it stalls (09 R365 to R373; 14 R604; 13 R550). -/
def State.streamLine (s : State) : State :=
  match s.refrain.stream with
  | none => s
  | some st =>
    if st.ended || s.refrain.headWait.isSome || !s.duet.bWait.isEmpty then s
    else match nextLine s.echo.frozen st.next with
    | none => s.produceEnd 0
    | some line =>
      let m := lineMask s.echo.frozen line
      let r := s.streamRead line m
      if r.2.2 then r.1.poisonStream
      else
        let ws := maskWords m r.2.1
        let s := r.1.modRf fun x => { x with stream := some { st with next := line + 1, buf := st.buf ++ ws, crc := crcMore st.crc ws } }
        ((s.flushBody (st.buf.length + 24)).endIfDone).retryStalled

/-- A result of a checkpoint is recorded (14 Table 14.6). -/
def State.recordResult (s : State) (res : BitVec 8) : State :=
  s.modRf fun x =>
    let x := { x with lastResult := res }
    if res = 0 then x else { x with rejectCnt := satInc x.rejectCnt }.setFlag 5

/-- A CK_REPLY arrives (14 R600, R601, R605, R617, Table 14.4). Where the head of the hand-over's capture still waits, the reply is for the
stream before it. -/
def State.onReply (s : State) (n res : Word) : State :=
  if !s.refrain.replyDue then s
  else
    let r : BitVec 8 := bits res 0 8
    let s := (s.recordResult r).modRf fun x => { x with replyDue := false }
    let mine := match s.refrain.stream with | some st => st.ended && st.n = n | none => false
    let s := if mine then { s with refrain := { s.refrain with stream := none }, echo := { s.echo with frozen := [] } } else s
    let s := if r = 0 then s.modRf fun x => { x with lastApplied := some n } else if 3 ≤ r.toNat then s.invalidateApplied else s
    let s := if s.refrain.handStep = 2 && s.refrain.headWait.isNone then (if r = 0 then s.modRf fun x => { x with handStep := 3 } else s.endHandover .notPermitted) else s
    match s.refrain.headWait with | some h => s.sendHead h | none => s

/-! Reception by a standby (14 R606 to R610). -/

/-- CK_HEAD arrives (14 R608). -/
def State.onHead (s : State) (ws : List Word) : State :=
  let s := s.modRf fun x => { x with rx := some { head := ws.take 14, body := [], crc := recordCrc (ws.take 14) } }
  if (ws.getD 2 0).getLsbD 0 && s.refrain.role.receives then s.modRf fun x => { x with role := .syncing, takeover := false } else s

/-- CK_DATA arrives. -/
def State.onBody (s : State) (ws : List Word) : State :=
  s.modRf fun x => { x with rx := x.rx.map fun r => { r with body := r.body ++ ws, crc := crcMore r.crc ws } }

/-- Words of the run list of a checkpoint. -/
def runLen (head : List Word) : Nat := 2 * (head.getD 10 0).toNat
/-- LINES of a checkpoint head. -/
def headLines (head : List Word) : Nat := (pair (head.getD 9 0) (head.getD 8 0)).toNat

/-- The lines received agree with LINES and with the runs (14 Table 14.4). -/
def State.countOk (s : State) (r : CkRx) : Bool :=
  let lines := headLines r.head
  r.body.length = runLen r.head + 24 * lines &&
    (match s.echo.pagesOf (r.body.take (runLen r.head)) with | some ps => countLines ps 0 = lines | none => false)

/-- The result of a checkpoint at its CK_END, in the order of 14 Table 14.4 (R606). -/
def State.decide_ (s : State) (n status crc : Word) : BitVec 8 :=
  if !s.refrain.role.receives then 8
  else
    let clash : Bool := match s.refrain.rx with | some r => r.head.getD 11 0 != s.cfgSig || r.head.getD 12 0 != s.ownFmt.setWidth 24 | none => false
    if clash then 7
    else if status = 1 then 1
    else if status = 2 then 2
    else match s.refrain.rx with
    | none => 6
    | some r =>
      if r.head.getD 0 0 ≠ n then 6
      else if r.crc ≠ crc then 3
      else if !s.countOk r then 6
      else if (r.head.getD 2 0).getLsbD 0 then 0
      else if s.echo.spillMw.toNat * 1048576 < 14 + runLen r.head + 24 * headLines r.head then 5
      else if r.head.getD 1 0 ≠ s.refrain.lastCommit then 4
      else 0

/-- The words of one line that the mask selects are written into the replica, coherently (14 R609). -/
def State.replicaLine (s : State) (m : BitVec 24) (line : Nat) (ws : List Word) : State :=
  let out : List WrWord := (indexed ws).filterMap fun p =>
    if m.getLsbD p.1 && s.inMem (24 * line + p.1) then some { addr := 24 * line + p.1, data := p.2, lanes := 7, poison := false } else none
  if out.isEmpty then s
  else
    (s.writeLine { line, who := some .landing, wb := false, ws := out, own := false, drop := none }).1

/-- The lines of a checkpoint body are written into the replica, in log order. -/
def State.replica (s : State) (pages : List Nat) (next : Nat) : Nat → List Word → State
  | 0, _ => s
  | n + 1, ws =>
    match nextLine pages next with
    | none => s
    | some line => State.replica (s.replicaLine (lineMask pages line) line (ws.take 24)) pages (line + 1) n (ws.drop 24)

/-- The lines of a checkpoint that has passed every check are written into the replica. -/
def State.writeReplica (s : State) (head body : List Word) : State :=
  match s.echo.pagesOf (body.take (runLen head)) with
  | some ps => s.replica ps 0 (headLines head) (body.drop (runLen head))
  | none => s

/-- CK_REPLY is produced (14 Table 14.3). -/
def State.replyCk (s : State) (n : Word) (res : BitVec 8) : State := s.produceB 7 [n, res.setWidth 24, s.refrain.lastCommit]

/-- CK_END arrives (14 R606 to R609). A full checkpoint's lines reach the replica at its commit; a delta's when its apply ends. -/
def State.onEnd (s : State) (n status crc : Word) : State :=
  let res := s.decide_ n status crc
  let rx := s.refrain.rx
  let s := (s.recordResult res).modRf fun x => { x with rx := none }
  match rx with
  | none => s.replyCk n res
  | some r =>
    if res ≠ 0 then s.replyCk n res
    else
      let s := s.modRf fun x =>
        { x with lastCommit := n, ckBar := pair (r.head.getD 4 0) (r.head.getD 3 0)
                 ckTime := (r.head.getD 7 0) ++ (r.head.getD 6 0) ++ (r.head.getD 5 0) }.setFlag 7
      if (r.head.getD 2 0).getLsbD 0 then ((s.writeReplica r.head r.body).modRf fun x => { x with role := .standby }).replyCk n 0
      else s.modRf fun x => { x with applying := true, log := some (n, r.head ++ r.body) }

/-- The apply of a delta ends (14 R609). -/
def State.applyEnd (s : State) : State :=
  match s.refrain.log with
  | none => s
  | some (n, ws) => ((s.writeReplica (ws.take 14) (ws.drop 14)).modRf fun x => { x with applying := false, log := none }).replyCk n 0

/-! Loss of the session (14 R601, R610, R862). -/

/-- What the loss of the session does to redundancy. -/
def State.refrainLost (s : State) : State :=
  let s := s.abandonStream true
  let s := s.modRf fun x => { x with rx := none, replyDue := false, headWait := none, flags := if x.role = .active then setBit x.flags 3 true else x.flags }
  let s := s.invalidateApplied
  if s.refrain.handStep != 0 then s.endHandover .notPermitted else s

/-! Bar boundaries (14 section 14.4, R588, R611 to R620). -/

/-- The takeover that waits begins where no apply runs (14 R615). -/
def State.takeOver (s : State) : State :=
  if s.refrain.takeover && !s.refrain.applying && s.refrain.role.receives then s.becomeActive else s

/-- The standby's evaluation (14 R612 to R614). -/
def State.evaluateSigns (s : State) : State :=
  let r := s.refrain
  let b := decide (r.batonLimit ≤ r.batonAge.toNat)
  let h := decide (r.batonLimit ≤ r.hbAge.toNat)
  if b && h then
    s.modRf fun x => { x with oneStale := false, rx := if x.role = .standby && !x.disarmed then none else x.rx, takeover := x.takeover || (x.role = .standby && !x.disarmed) }
  else if b || h then
    s.modRf fun x => if x.oneStale then { x with disarmed := true }.setFlag 0 else { x with oneStale := true }
  else s.modRf fun x => { x with oneStale := false, disarmed := false }

/-- BATON_TO boundaries have passed in HANDOVER (14 R619). -/
def State.handoverTimeout (s : State) : State :=
  if s.refrain.role = .handover && s.refrain.batonLimit ≤ s.refrain.handBars then (s.leaveTo .none).endHandover .outcomeUnknown else s

/-- A bar boundary: the ages, which advance while RUN is 1 (R611), the fence, the hand-over, the baton, the evaluation and the
takeovers. The boundary at which bars stop is one. -/
def State.roleBoundary (s : State) : State :=
  if !s.die.variant.duet then s
  else
    let run := s.bar.run
    let s := s.modRf fun x =>
      let x := if run then { x with batonAge := satInc x.batonAge, hbAge := satInc x.hbAge, barsSinceRole := x.barsSinceRole + 1 } else x
      let x := if x.role = .active && x.fenceDue then { x with fence := false, fenceDue := false } else x
      if x.role = .handover then { x with handBars := x.handBars + 1 } else x
    let s := s.handoverTimeout
    let s := if s.refrain.role = .active && s.refrain.handStep = 3 then (s.leaveTo .handover).modRf fun x => { x with handBars := 0 } else s
    let s := s.modRf fun x => if x.role = .active || x.role = .handover then { x with batonOut := !x.batonOut } else x
    let s := if s.refrain.role.receives then s.evaluateSigns else s
    let s := s.takeOver
    if s.refrain.takeActive && (s.refrain.role = .none || s.refrain.role = .deposed) then
      (s.becomeActive.modRf fun x => { x with takeActive := false }).finishOp 0x42 .ok []
    else s

/-! A SAMPLE's role word (14 R596, R611, R618, R619, R621). -/

/-- The device is deposed (14 R621). -/
def State.depose (s : State) : State :=
  let s := (s.leaveTo .deposed).modRf fun x => x.setFlag 2
  if s.refrain.handStep != 0 then s.endHandover .notPermitted else s

/-- The role word of an accepted SAMPLE, with the partner's LOCAL_EPOCH. -/
def State.onRole (s : State) (w epoch : Word) : State :=
  let old := s.partnerReceives
  let s := { s with duet := { s.duet with partnerRole := w } }
  let pr := s.partnerRole
  let term : BitVec 16 := bits w 8 16
  let s := s.modRf fun x => { x with partnerSeen := true, barsSinceRole := 0, hbAge := if pr = 1 || pr = 2 then 0 else x.hbAge }
  let s := if s.refrain.role = .active && old && !s.partnerReceives then s.modRf fun x => x.setFlag 3 else s
  let s := if s.refrain.role = .active && !old && pr = 3 then s.invalidateApplied else s
  if s.refrain.role = .active && pr = 1 && (termHigher term s.refrain.term || (term = s.refrain.term && s.duet.localEpoch < epoch)) then s.depose
  else if s.refrain.role = .handover && pr = 1 && termHigher term s.refrain.term then (s.leaveTo .none).endHandover .ok
  else if s.refrain.role = .standby && pr = 2 && !s.refrain.disarmed then s.modRf fun x => { x with takeover := true, rx := none }
  else if (s.running 0x44).isSome && (s.refrain.role = .none || s.refrain.role = .deposed) && pr = 1 && w.getLsbD 3 then s.enterSyncing
  else s

/-! The Echo window (09 Table 9.8, 14 Table 14.6). -/

/-- Two ranges of words overlap. -/
def overlaps (a n b m : Nat) : Bool := n != 0 && m != 0 && decide (a < b + m) && decide (b < a + n)

/-- A write of 1 to TRACK_EN would be refused (09 R378). -/
def State.trackRefused (s : State) : Bool :=
  let e := s.echo
  let rs := (List.finRange 8).map fun n => e.region n
  let sb := (bits e.spillBase 0 24).toNat * 4096
  let sw := e.spillMw.toNat * 1048576
  let bad (r : Nat × Nat) : Bool := r.2 != 0 && (r.1 * 4096 < 0x100000000 || s.mc.top < (r.1 + r.2) * 4096 - 1 || !s.mc.ready || overlaps (r.1 * 4096) (r.2 * 4096) sb sw)
  let pairs := (indexed rs).any fun p => (indexed rs).any fun q => p.1 < q.1 && overlaps p.2.1 p.2.2 q.2.1 q.2.2
  rs.any bad || pairs || decide (262144 < rs.foldl (fun n r => n + r.2) 0) || e.spillMw.toNat < 1 || 64 < e.spillMw.toNat ||
    sb < 0x100000000 || s.mc.top < sb + sw - 1 || !s.mc.ready

/-- TRACK_EN is set (09 R361, R378). -/
def State.trackOn (s : State) : State :=
  if s.echo.track then s
  else if s.trackRefused then { s with echo := { s.echo with cfgRej := true } }
  else { s with echo := { s.echo with track := true }.markAll }

/-- A write of TRACK_EN. -/
def State.writeTrack (s : State) (b : Bool) : State := if b then s.trackOn else s.trackOff

/-- ECHO_HIWAT is set to ECHO_USED (09 Table 9.8). -/
def Echo.setHiwat (e : Echo) : Echo := { e with hiwat := BitVec.ofNat 24 e.lines.length }

/-- RF_STAT. -/
def State.rfStat (s : State) : Word :=
  let r := s.refrain
  r.role.code.setWidth 24 ||| flag 24 3 s.mirrors ||| flag 24 4 (r.role = .standby && !r.disarmed) ||| flag 24 5 r.applying ||| (r.flags.setWidth 24 <<< 8)

/-- PROTO. -/
def State.protoWord (s : State) : Word :=
  (if s.refrain.protoOk then s.refrain.protoVer.setWidth 24 else 0) ||| (s.refrain.partnerFmt.setWidth 24 <<< 8) ||| (s.ownFmt.setWidth 24 <<< 16)

/-- A read of the Echo window. -/
def State.echoRead (s : State) (off : Nat) : Word :=
  let e := s.echo
  let r := s.refrain
  if !s.die.variant.duet then 0
  else if h : 0x10 ≤ off ∧ off < 0x20 then
    let n : Fin 8 := ⟨(off - 0x10) / 2, by omega⟩
    if off % 2 = 0 then e.rgnBase[n] else e.rgnPages[n]
  else match off with
  | 0x000 => flag 24 0 e.track
  | 0x001 => flag 24 0 s.streaming ||| flag 24 1 (e.lines.any (·.spill)) ||| flag 24 2 e.stall ||| flag 24 3 e.poisoned ||| flag 24 4 e.abandoned ||| flag 24 5 e.cfgRej
  | 0x002 => e.spillBase
  | 0x003 => e.spillMw.setWidth 24
  | 0x004 => BitVec.ofNat 24 e.lines.length
  | 0x005 => e.hiwat
  | 0x006 => e.stallCnt
  | 0x007 => BitVec.ofNat 24 e.live.length
  | 0x008 => BitVec.ofNat 24 e.frozen.length
  | 0x100 => flag 24 0 r.en ||| (r.k.setWidth 24 <<< 1)
  | 0x101 => s.rfStat
  | 0x102 => r.term.setWidth 24
  | 0x103 => r.lastCommit
  | 0x104 => r.lastApplied.getD 0xFFFFFF
  | 0x105 => lo24 r.ckBar
  | 0x106 => hi24 r.ckBar
  | 0x107 => bits r.ckTime 0 24
  | 0x108 => bits r.ckTime 24 24
  | 0x109 => bits r.ckTime 48 24
  | 0x10A => r.lateCnt
  | 0x10B => r.rejectCnt
  | 0x10C => r.lastResult.setWidth 24
  | 0x10D => r.batonTo.setWidth 24
  | 0x10E => r.batonAge.setWidth 24 ||| (r.hbAge.setWidth 24 <<< 8)
  | 0x10F => s.protoWord
  | 0x110 => r.ien.setWidth 24 <<< 8
  | _ => 0

/-- A write to the Echo window (09 R376, R377; 14 Table 14.6). -/
def State.echoWrite (s : State) (w : Initiator) (off : Nat) (v : Word) : State :=
  let e := s.echo
  if !s.die.variant.duet || !s.mayW1c w then s
  else if off = 1 then
    { s with echo := { e with stall := w1c e.stall (v.getLsbD 2), poisoned := w1c e.poisoned (v.getLsbD 3), abandoned := w1c e.abandoned (v.getLsbD 4), cfgRej := w1c e.cfgRej (v.getLsbD 5) } }
  else if off = 0x101 then s.modRf fun x => { x with flags := x.flags &&& ~~~bits v 8 8 }
  else if !w.isCdr then s
  else if h : 0x10 ≤ off ∧ off < 0x20 then
    let n : Fin 8 := ⟨(off - 0x10) / 2, by omega⟩
    if e.track then s
    else { s with echo := if off % 2 = 0 then { e with rgnBase := e.rgnBase.set n v } else { e with rgnPages := e.rgnPages.set n (v &&& 0x07FFFF) } }
  else match off with
  | 0x000 => s.writeTrack (v.getLsbD 0)
  | 0x002 => if e.track then s else { s with echo := { e with spillBase := v } }
  | 0x003 => if e.track then s else { s with echo := { e with spillMw := bits v 0 7 } }
  | 0x005 => { s with echo := e.setHiwat }
  | 0x100 => s.modRf fun x => { x with en := v.getLsbD 0, k := bits v 1 7 }
  | 0x10D => s.modRf fun x => { x with batonTo := BitVec.ofNat 7 (max 2 (min 64 (bits v 0 7).toNat)) }
  | 0x110 => s.modRf fun x => { x with ien := bits v 8 8 }
  | _ => s

end Sys2Proof.Machine
end

