-- ==== Sys2Proof/Machine/DuetOps.lean ====
section
/-! DEFINITION. The Duet link: flits, channels, sessions, training, transactions, landing and channel T (13). -/
namespace Sys2Proof.Machine

/-- The state with the link changed. -/
def State.modDuet (s : State) (f : Duet → Duet) : State := { s with duet := f s.duet }
/-- A W1C flag of DL_STAT is set; `k` counts from bit 11. -/
def Duet.setFlag (d : Duet) (k : Nat) : Duet := { d with flags := setBit d.flags k true }

/-! Flits (13 section 13.2). -/

/-- A received flit passes 13 R542 and R543. -/
def flitGood (f : RxFlit) (ch : BitVec 2) (ft : BitVec 3) : Bool :=
  !f.uncorr && f.pair.all (· = (ch, ft)) && f.nw.toNat ≤ 22 && f.crc = flitCrc (flitHeader ch ft f.seq f.nw) f.words

/-- The payload words in use. -/
def flitBody (f : RxFlit) : List Word := f.words.take f.nw.toNat

/-- A flit is discarded for its CRC or its codeword. -/
def State.badFlit (s : State) : State := s.modDuet fun d => { d with crcErrCnt := satInc d.crcErrCnt }.setFlag 5

/-- The lane of flit `k` of the link: the lanes in use take the flits in turn, in ascending order (13 R540). -/
def laneOf (lanes : BitVec 4) (k : Nat) : Option (Fin 4) :=
  let used := (List.finRange 4).filter fun n => lanes.getLsbD n.val
  used[k % used.length]?

/-- A flit goes onto its lane. -/
def Duet.onLane (d : Duet) : Duet := { d with txCount := d.txCount + 1, lastLane := laneOf d.lanes d.txCount }

/-- A received codeword (13 R539, Table 13.3): its CWSEQ, and the flits that start in it. -/
structure Codeword where
  seq   : BitVec 8
  flits : List RxFlit
deriving DecidableEq, Repr

/-- The flits of a lane's stream, from the codeword that carries `seq` on. -/
def alignLane (seq : BitVec 8) (stream : List Codeword) : List RxFlit := (stream.dropWhile fun w => w.seq ≠ seq).flatMap (·.flits)

/-- The first flit of each lane in turn, then the second of each, and so on. -/
def inTurn : Nat → List (List RxFlit) → List RxFlit
  | 0, _ => []
  | n + 1, lanes => if lanes.any (·.isEmpty) then [] else lanes.filterMap List.head? ++ inTurn n (lanes.map List.tail)

/-- The link order of the flits that the lanes in use bring, restored from CWSEQ and the lane order (13 R540): `streams` are those of
the lanes in use, ascending, and `seq` a CWSEQ that each of them carries. The rows for received flits come in this order. -/
def linkOrder (seq : BitVec 8) (streams : List (List Codeword)) : List RxFlit :=
  let lanes := streams.map (alignLane seq)
  inTurn ((lanes.map List.length).foldl max 0) lanes

/-- A LINK flit leaves (13 R555). -/
def State.sendLink (s : State) (ft : BitVec 3) (ws : List Word) : State :=
  s.modDuet fun d => { d with lastLink := some { ch := 0, ft, seq := 0, payload := ws, gate := none } }.onLane

/-- The TRAIN flit leaves, with the lanes trained (13 section 13.10). -/
def State.sendTrain (s : State) (lanes : BitVec 4) : State :=
  let d := s.duet
  let words : List Word := [1, d.localEpoch, s.die.variant.sysId, lanes.setWidth 24,
    (d.tgtWidth.setWidth 24 <<< 1) ||| (d.tgtSpeed.setWidth 24 <<< 4), BitVec.ofNat 24 s.mc.landDrain, s.boot.duetWord]
  s.modDuet fun d => { d with lastTrain := some { ch := 0, ft := 3, seq := 0, payload := words, gate := none } }.onLane

/-- An ACK leaves: both next expected sequences (13 R546). -/
def State.sendAck (s : State) : State :=
  (s.sendLink 1 [s.duet.c.expect.setWidth 24, s.duet.b.expect.setWidth 24]).modDuet fun d =>
    { d with c := { d.c with unacked := 0, ackDue := none }, b := { d.b with unacked := 0, ackDue := none } }

/-! Training and sessions (13 sections 13.5 and 13.10). -/

/-- LOCAL_EPOCH takes a new non-zero value from the entropy source (13 section 13.5; log 7). -/
def State.drawEpoch (s : State) : State :=
  let d := s.draw
  let e := Config.entropy d.1
  d.2.modDuet fun x => { x with localEpoch := if e = 0 then 1 else e }

/-- HOLD_MS as it is taken. -/
def Duet.holdMillis (d : Duet) : Nat := max 1 (min 250 d.holdMs.toNat)

/-- The link leaves UP for RETRAIN (13 R557, R559). -/
def State.retrain (s : State) : State :=
  if s.duet.state = .up then
    s.modDuet fun d => { d with state := .retrain, retrainCnt := satInc d.retrainCnt, holdEnd := some (s.tempo.count + d.holdMillis * 1000000), info := none, resumeSent := false }
  else s

/-- Training starts where EN is 1 and DRAM is ready (13 R582). -/
def State.startTraining (s : State) : State :=
  if s.duet.en && s.mc.ready && s.duet.state = .off then s.modDuet fun d => { d with state := .training, info := none, resumeSent := false } else s

/-- The address of descriptor `i` of the transaction queue. -/
def Duet.descAt (d : Duet) (i : Nat) : Nat := d.dqBase.toNat + 8 * (i % max 1 d.dqSize.toNat)

/-- A descriptor completes: STATUS, then DONE (13 R569, Table 13.8). -/
def State.descDone (s : State) (i : Nat) (status : BitVec 8) (irq : Bool) : State :=
  let s := (s.domainWrite (.dma .duetTx) (s.duet.descAt i + 4) [status.setWidth 24 ||| bitAt 24 23]).1
  if irq then s.modDuet fun d => d.setFlag 6 else s

/-- Words in payloads of 22. -/
def chunks22 : Nat → List Word → List (List Word)
  | 0, _ => []
  | n + 1, ws => if ws.isEmpty then [] else ws.take 22 :: chunks22 n (ws.drop 22)

/-- A transaction header (13 section 13.6). -/
def txHeader (tag : BitVec 12) (win : BitVec 4) (status : BitVec 8) (offset lines : Word) : List Word :=
  [(status.setWidth 24 <<< 16) ||| (win.setWidth 24 <<< 12) ||| tag.setWidth 24, offset, lines]

/-- A tag for a new transaction. -/
def Duet.takeTag (d : Duet) : BitVec 12 × Duet :=
  let t := ((List.range 4096).map fun i => d.nextTag + BitVec.ofNat 12 i).find? fun t => !d.txns.any fun x => x.tag = t
  (t.getD d.nextTag, { d with nextTag := t.getD d.nextTag + 1 })

/-- A transaction becomes outstanding (13 R561). -/
def State.addTxn (s : State) (kind : TxKind) : BitVec 12 × State :=
  let r := s.duet.takeTag
  (r.1, { s with duet := { r.2 with txns := r.2.txns ++ [{ tag := r.1, kind, got := 0, rsp := none }] } })

/-- A request of this device for the partner's Conductor becomes outstanding and leaves (13 R571). -/
def State.issueInner (s : State) (ring : BitVec 5) (seq : Word) (query : Bool) (inner : List Word) : State :=
  let t := s.addTxn (.command ring seq query)
  let ws := txHeader t.1 0 0 0 0 ++ inner
  let rest := ws.drop 22
  (chunks22 rest.length rest).foldl (fun s p => s.produceC 3 p) (t.2.produceC 0 (ws.take 22))

/-- A request of this device for the partner's Conductor: it waits while 64 transactions are outstanding (13 R564). -/
def State.sendInner (s : State) (ring : BitVec 5) (seq : Word) (query : Bool) (inner : List Word) : State :=
  if 64 ≤ s.duet.txns.length then s.modDuet fun d => { d with cmdWait := d.cmdWait ++ [{ ring, seq, query, inner }] }
  else s.issueInner ring seq query inner

/-- A transaction leaves the list of outstanding ones, and the oldest request that waits for room there leaves. -/
def State.dropTxn (s : State) (t : BitVec 12) : State :=
  let s := s.modDuet fun d => { d with txns := d.txns.filter fun x => x.tag ≠ t }
  match s.duet.cmdWait with
  | [] => s
  | q :: rest =>
    if 64 ≤ s.duet.txns.length then s
    else (s.modDuet fun d => { d with cmdWait := rest }).issueInner q.ring q.seq q.query q.inner

/-- The status code as a reply carries it. -/
def statusOf (c : BitVec 8) : Status := if c = 0 then .ok else .other c

/-- The PARTNER_CMD of a request index receives its final reply. -/
def State.finishPartner (s : State) (ring : BitVec 5) (seq : Word) (st : Status) (res : List Word) : State :=
  match s.rings.active.find? fun c => c.ring = ring && c.seq = seq with
  | some c => s.finish c st res
  | none => s

/-- A PARTNER_CMD ends with a loss (10 R419). -/
def State.loseInner (s : State) (ring : BitVec 5) (seq : Word) (query : Bool) : State :=
  s.finishPartner ring seq (if query then .linkLost else .outcomeUnknown) []

/-- A transaction completes with a loss (13 R561, 10 R419). -/
def State.loseTxn (s : State) (t : Txn) : State :=
  match t.kind with
  | .read desc _ _ irq => s.descDone desc 0x21 irq
  | .write desc irq => s.descDone desc 0x22 irq
  | .command ring seq query => s.loseInner ring seq query

/-- The session is lost, as one step (13 R561; 14 R601, R610, R862). EPOCH_CHG is set where the partner's epoch is no longer that of
the session. -/
def State.loseSession (s : State) : State :=
  if !s.duet.session then s
  else
    let lost := s.duet.txns
    let waiting := s.duet.cmdWait
    let changed := s.duet.partnerEpoch ≠ s.duet.sessEpoch
    let s := s.modDuet fun d =>
      { d with session := false, holdEnd := none, txns := [], cmdWait := [], c := Chan.reset, b := Chan.reset, cWait := [], bWait := []
               inner := [], landing := none, cpacket := none, resumeSent := false, spilled := 0 }.setFlag 1
    let s := if changed then s.modDuet fun d => d.setFlag 2 else s
    (waiting.foldl (fun s q => s.loseInner q.ring q.seq q.query) (lost.foldl State.loseTxn s)).refrainLost

/-- A new session begins at UP (13 Table 13.6, R554; 14 R601). -/
def State.newSession (s : State) : State :=
  let s := s.modDuet fun d =>
    { d with state := .up, train := false, session := true, sessEpoch := d.partnerEpoch, holdEnd := none, c := Chan.reset, b := Chan.reset
             bucket := d.paceWords, bucketFrac := 0, landing := none, cpacket := none, resumeSent := false, spilled := 0, txCount := 0 }
  s.refill.invalidateApplied.finishOp 0x41 .ok []

/-- The lanes in use for a width, among the usable ones (13 Table 13.1). -/
def lanesFor (usable : BitVec 4) (width : Nat) : Option (BitVec 4) :=
  match width with
  | 2 => if usable = 0xF then some 0xF else none
  | 1 => if usable &&& 3 = 3 then some 3 else if usable &&& 0xC = 0xC then some 0xC else none
  | _ => (List.range 4).findSome? fun n => if usable.getLsbD n then some (bitAt 4 n) else none

/-- A width or speed code as it is taken: 3 is taken as 2. -/
def cap2 (x : BitVec 2) : Nat := min 2 x.toNat

/-- The width and the lanes that a training agrees on: the widest not above `w` (13 R583). -/
def agreeWidth (usable : BitVec 4) (w : Nat) : Option (Nat × BitVec 4) :=
  [2, 1, 0].findSome? fun k => if k ≤ w then (lanesFor usable k).map fun l => (k, l) else none

/-- Versions after a training (14 R592, R593). -/
def State.agreeVersions (s : State) (duet : Word) : State :=
  let lo := max s.ownMin.toNat (bits duet 0 8).toNat
  let hi := min s.ownMax.toNat (bits duet 8 8).toNat
  let s := s.modRf fun x => { x with trained := true, protoOk := decide (lo ≤ hi), protoVer := BitVec.ofNat 8 hi, partnerFmt := bits duet 16 8 }
  if s.versionsClash then
    let s := s.modRf fun x => x.setFlag 6
    let s := if s.refrain.role.receives then s.leaveTo .none else s
    s.finishOp 0x44 .notPermitted []
  else s

/-! Channel T (13 section 13.7). -/

/-- The SAMPLE that leaves now (13 Table 13.9). -/
def State.sampleWords (s : State) : List Word :=
  let now := s.tempo.time
  let echo := match s.duet.sample with
    | some x => let d := BitVec.ofInt 48 (now - x.t2); r500 x.t3 ++ [lo24 d, hi24 d]
    | none => [0, 0, 0, 0, 0]
  [s.duet.hb] ++ r500 now ++ [s.tempo.quality] ++ echo ++ [s.roleWord, s.duet.localEpoch, lo24 s.bar.cnt, hi24 s.bar.cnt]

/-- A SAMPLE leaves while STATE is UP (13 R572). -/
def State.sendSample (s : State) : State :=
  if s.duet.state = .up then
    let s := s.modDuet fun d => { d with hb := d.hb + 1 }
    s.modDuet fun d => { d with lastT := some { ch := 3, ft := 0, seq := 0, payload := s.sampleWords, gate := none }, sampleAt := s.tempo.count }.onLane
  else s

/-- LINK_DELAY from a SAMPLE (13 R574). -/
def linkDelayOf (t1 t2 t3 t4 : Int) : Word := BitVec.ofNat 24 (min 0xFFFFFF (max 0 (Int.tdiv ((t4 - t1) - (t3 - t2)) 2)).toNat)

/-- A SAMPLE is accepted (13 R574, R575; 12 R503; 14). -/
def State.onSample (s : State) (ws : List Word) : State :=
  let g (i : Nat) : Word := ws.getD i 0
  let t4 := s.tempo.time
  let t3 := ofR500 (g 1) (g 2) (g 3)
  let t1 := ofR500 (g 5) (g 6) (g 7)
  let diff := (pair (g 9) (g 8)).toInt
  let fresh := g 5 = 0 && g 6 = 0 && g 7 = 0 && g 8 = 0 && g 9 = 0
  let s := s.modDuet fun d =>
    { d with linkDelay := if fresh then d.linkDelay else linkDelayOf t1 0 diff t4
             partnerHb := g 0, lastSampleAt := s.tempo.count, sample := some { t3, t2 := t4 } }
  let s := s.onRole (g 10) (g 11)
  s.partnerSample (t3 + s.duet.linkDelay.toNat) (g 4) (2 ^ (bits (g 4) 8 5).toNat)

/-- T_AGE (13 R575). -/
def State.sampleAge (s : State) : Word :=
  satNat 24 ((s.tempo.count - s.duet.lastSampleAt) / 1000)

/-! Sequenced channels (13 section 13.3). -/

/-- Flits of a channel that an ACK of `v` frees: those below `v`, where the value lies within what is held. -/
def Chan.ackTo (c : Chan) (v : BitVec 12) : Chan :=
  let first := c.next - BitVec.ofNat 12 c.store.length
  let k := (v - first).toNat
  if k ≤ c.store.length then { c with store := c.store.drop k, sent := c.sent - k } else c

/-- The flits from sequence `v` on are to be sent again (13 R547). -/
def Chan.replayFrom (c : Chan) (v : BitVec 12) : Chan :=
  let first := c.next - BitVec.ofNat 12 c.store.length
  let k := (v - first).toNat
  if k ≤ c.sent then { c with sent := k } else c

/-- Words that the landing SRAM holds (13 section 13.4). -/
def landingWords : Nat := 131072

/-- An ACK of both channels frees their replay slots (13 R547); those of channel B in the spill region are the oldest. -/
def Duet.ackBoth (d : Duet) (c b : BitVec 12) : Duet :=
  let freed := d.b.store.length - (d.b.ackTo b).store.length
  { d with c := d.c.ackTo c, b := d.b.ackTo b, spilled := d.spilled - freed }

/-- The link enters FATAL (13 R556, R562). -/
def State.landingFatal (s : State) : State :=
  let s := (s.sendLink 5 [1]).loseSession
  s.modDuet fun d => { d with state := .fatal }.setFlag 3

/-- A sequenced flit arrives: it is accepted and acted on, or discarded (13 R542 to R546, R556). -/
def State.sequenced (s : State) (ch : BitVec 2) (ft : BitVec 3) (f : RxFlit) (act : State → List Word → State) : State :=
  if s.duet.state ≠ .up then s
  else if !flitGood f ch ft then s.badFlit
  else
    let c := if ch = 1 then s.duet.c else s.duet.b
    let put (s : State) (c : Chan) : State := s.modDuet fun d => if ch = 1 then { d with c := c } else { d with b := c }
    if f.seq = c.expect then
      if landingWords < s.duet.level + f.nw.toNat then s.landingFatal
      else
        let n := c.unacked + 1
        let s := put s { c with expect := c.expect + 1, nakSent := false, unacked := n, ackDue := some (c.ackDue.getD (s.tempo.count + 1000)) }
        let s := s.modDuet fun d => { d with level := d.level + f.nw.toNat }
        let s := if 64 ≤ n then s.sendAck else s
        act s (flitBody f)
    else if (c.expect - f.seq).toNat ≤ 2048 then s.sendAck
    else if c.nakSent then s
    else (put s { c with nakSent := true }).sendLink 2 [ch.setWidth 24, c.expect.setWidth 24]

/-- The next unsent flit of a channel may leave now (13 R551, R554, R569). -/
def State.mayTransmit (s : State) (c : Chan) (window : Nat) : Option Flit :=
  match c.store[c.sent]? with
  | none => none
  | some f =>
    let waits : Bool := match f.gate with
      | none => false
      | some g => (s.duet.b.store.drop s.duet.b.sent).any (fun x => x.seq = g) || !s.duet.bWait.isEmpty
    if s.duet.state = .up && c.sent < window && f.payload.length ≤ s.duet.bucket && !waits then some f else none

/-! Transactions (13 section 13.6). -/

/-- DATA flits of a transaction (13 R567). -/
def State.produceData (s : State) (ws : List Word) : State := (chunks22 ws.length ws).foldl (fun s p => s.produceB 2 p) s

/-- The link unit takes the next descriptor (13 R564 to R567, R569), unless a write of its own waits on Echo (09 R371). At a descriptor
whose ring lies outside memory it stops, and sets MAP_REJ (01 R16; DESIGN CHOICE, log 31: the spec names no bit). -/
def State.takeDesc (s : State) : State :=
  let d := s.duet
  let i := d.dqCons.toNat
  let descs := d.txns.filter fun t => match t.kind with | .command _ _ _ => false | _ => true
  if d.state ≠ .up || d.dqCons = d.dqProd || 64 ≤ d.txns.length || s.stalledBy (.dma .duetTx) then s
  else match s.domainRead (d.descAt i) 5 with
  | none => s.modDuet fun d => d.setFlag 7
  | some (s, ws) =>
    let g (k : Nat) : Word := (ws.getD k (0, false)).1
    let op := bits (g 0) 0 4
    let win : BitVec 4 := bits (g 0) 4 4
    let lines := (bits (g 0) 8 7).toNat
    let irq := (g 0).getLsbD 16
    let offset := g 1
    let addr := (paddrOf (g 2) (g 3)).toNat
    if (g 0).getLsbD 17 && !descs.isEmpty then s
    else
      let s := s.modDuet fun d => { d with dqCons := d.dqCons + 1 }
      if (ws.take 4).any (·.2) then s.descDone i 0x17 irq
      else if !(op = 1 || op = 2) || lines < 1 || 64 < lines || !s.inDram addr || !s.inDram (addr + 24 * lines - 1) then s.descDone i 0x12 irq
      else if op = 1 then
        let t := s.addTxn (.read i addr lines irq)
        t.2.produceC 1 (txHeader t.1 win 0 offset (BitVec.ofNat 24 lines))
      else match s.domainRead addr (24 * lines) with
      | none => s.descDone i 0x12 irq
      | some (s, data) =>
        if data.any (·.2) then s.descDone i 0x17 irq
        else
          let t := s.addTxn (.write i irq)
          (t.2.produceB 0 (txHeader t.1 win 0 offset (BitVec.ofNat 24 lines))).produceData (data.map (·.1))

/-- The status of a request against the window in force (13 R568), and the address it names. -/
def State.windowCheck (s : State) (win : BitVec 4) (write : Bool) (offset lines : Nat) : BitVec 8 × Nat :=
  let m := s.duet.lmap[win.toFin]
  let a := m.base.toNat + 24 * offset
  if !m.valid || !(if write then m.w else m.r) then (0x14, a) else if m.lines.toNat < offset + lines then (0x12, a) else (0, a)

/-- REQ_RD is performed: the data, then the RSP (13 R567 to R569). -/
def State.serveRead (s : State) (ws : List Word) : State :=
  let h := ws.getD 0 0
  let tag : BitVec 12 := bits h 0 12
  let win : BitVec 4 := bits h 12 4
  let offset := ws.getD 1 0
  let lines := ws.getD 2 0
  let c := s.windowCheck win false offset.toNat lines.toNat
  let rsp (s : State) (st : BitVec 8) : State := s.produceC 2 (txHeader tag win st offset lines)
  if c.1 ≠ 0 then rsp s c.1
  else match s.domainRead c.2 (24 * lines.toNat) with
  | none => rsp s 0x12
  | some (s, data) =>
    if data.any (·.2) then rsp s 0x17
    else
      let s := (s.produceB 1 (txHeader tag win 0 offset lines)).produceData (data.map (·.1))
      s.produceC 2 (txHeader tag win 0 offset lines) (some (s.duet.b.next + BitVec.ofNat 12 s.duet.bWait.length - 1))

/-- A read completes when its RSP and every word have come (13 R569). -/
def State.readDone (s : State) (tag : BitVec 12) : State :=
  match s.duet.txns.find? fun t => t.tag = tag with
  | none => s
  | some t =>
    match t.kind, t.rsp with
    | .read desc _ lines irq, some st =>
      if st ≠ 0 || 24 * lines ≤ t.got then (s.dropTxn tag).descDone desc st irq else s
    | _, _ => s

/-- WR_HEAD is accepted (13 R568). -/
def State.writeHead (s : State) (ws : List Word) : State :=
  let h := ws.getD 0 0
  let c := s.windowCheck (bits h 12 4) true (ws.getD 1 0).toNat (ws.getD 2 0).toNat
  s.modDuet fun d => { d with landing := some { tag := bits h 0 12, isRead := false, addr := c.2, words := 24 * (ws.getD 2 0).toNat, got := 0, status := c.1, head := ws.take 3 } }

/-- RD_HEAD is accepted: the data that follow go to the local range of the read, or nowhere. -/
def State.readHead (s : State) (ws : List Word) : State :=
  let tag : BitVec 12 := bits (ws.getD 0 0) 0 12
  match s.duet.txns.find? fun t => t.tag = tag with
  | some { kind := .read _ a lines _, .. } =>
    s.modDuet fun d => { d with landing := some { tag, isRead := true, addr := a, words := 24 * lines, got := 0, status := 0, head := ws.take 3 } }
  | _ => s.modDuet fun d => { d with landing := some { tag, isRead := true, addr := 0, words := 24 * (ws.getD 2 0).toNat, got := 0, status := 0x22, head := ws.take 3 } }

/-- The words of a DATA flit land (13 R567 to R569). -/
def State.landData (s : State) (ws : List Word) : State :=
  match s.duet.landing with
  | none => s
  | some l =>
    let ws := ws.take (l.words - l.got)
    let s := if l.status = 0 then (s.domainWrite .landing (l.addr + l.got) ws).1 else s
    let got := l.got + ws.length
    let s := s.modDuet fun d => { d with landing := if l.words ≤ got then none else some { l with got } }
    if l.isRead then
      (s.modDuet fun d => { d with txns := d.txns.map fun t => if t.tag = l.tag then { t with got } else t }).readDone l.tag
    else if l.words ≤ got then s.produceC 2 (txHeader l.tag (bits (l.head.getD 0 0) 12 4) l.status (l.head.getD 1 0) (l.head.getD 2 0))
    else s

/-- An inner packet has landed whole: it enters ring page 16 (13 R571; 10 R394, R402), and reservations in the page are cleared
(04 R133). -/
def State.landCommand (s : State) (tag : BitVec 12) (ws : List Word) : State :=
  if s.fits 16 ws.length then
    let seq := s.reqProd 16
    (s.postPacket 16 ws).modDuet fun d => { d with inner := d.inner ++ [(seq, tag)] }
  else s.produceC 2 (txHeader tag 0 0x15 0 0)

/-- An RSP has come whole (13 R569, R571; 10 R419). -/
def State.response (s : State) (tag : BitVec 12) (status : BitVec 8) (ws : List Word) : State :=
  match s.duet.txns.find? fun t => t.tag = tag with
  | none => s
  | some t =>
    match t.kind with
    | .write desc irq => (s.dropTxn tag).descDone desc status irq
    | .read _ _ _ _ => (s.modDuet fun d => { d with txns := d.txns.map fun x => if x.tag = tag then { x with rsp := some status } else x }).readDone tag
    | .command ring seq _ =>
      let n := (bits (ws.getD 0 0) 0 12).toNat
      (s.dropTxn tag).finishPartner ring seq (statusOf (if ws.isEmpty then status else bits (ws.getD 0 0) 16 8)) ((ws.take n).drop 3)

/-- Words that a multi-flit packet of channel C needs in all. -/
def packetNeed (ws : List Word) : Nat := if ws.length ≤ 3 then ws.length else 3 + (bits (ws.getD 3 0) 0 12).toNat

/-- A packet of channel C is complete, or waits for its continuation. -/
def State.packetC (s : State) (isReq : Bool) (ws : List Word) : State :=
  let h := ws.getD 0 0
  let tag : BitVec 12 := bits h 0 12
  let need := packetNeed ws
  if need ≤ ws.length then
    let s := s.modDuet fun d => { d with cpacket := none }
    if isReq then s.landCommand tag ((ws.drop 3).take (need - 3)) else s.response tag (bits h 16 8) ((ws.drop 3).take (need - 3))
  else s.modDuet fun d => { d with cpacket := some { isReq, tag, need, words := ws, status := bits h 16 8 } }

/-- CONT arrives. -/
def State.continueC (s : State) (ws : List Word) : State :=
  match s.duet.cpacket with
  | none => s
  | some p => s.packetC p.isReq (p.words ++ ws)

/-! The Duet window (13 Table 13.10). -/

/-- EN is set (13 DL_CTL, R582). -/
def State.linkOn (s : State) : State := if s.duet.en then s else (s.modDuet fun d => { d with en := true }).startTraining

/-- EN is cleared: CLOSE is sent for a session, which is lost, and the SerDes is powered down. A side in FATAL stays there (R563). -/
def State.linkOff (s : State) : State :=
  if !s.duet.en then s
  else
    let s := if s.duet.session then s.sendLink 6 [s.duet.localEpoch] else s
    s.loseSession.modDuet fun d =>
      { d with en := false, state := if d.state = .fatal then .fatal else .off, holdEnd := none, width := 0, speed := 0, lanes := 0 }

/-- TRAIN is written 1 (13 R557, R563). A side that leaves FATAL with EN 0 is OFF. -/
def State.linkTrain (s : State) : State :=
  let s := s.modDuet fun d => { d with train := true }
  match s.duet.state with
  | .up => s.retrain
  | .fatal => s.drawEpoch.modDuet fun d => { d with state := if d.en then .training else .off, info := none, resumeSent := false }
  | _ => s

/-- LANE_MASK is written (13 R557). Lanes that the die does not have are kept in the register, and never used. -/
def State.laneMask (s : State) (v : BitVec 4) : State :=
  let cut := s.duet.lanes &&& ~~~v != 0
  let s := s.modDuet fun d => { d with laneMask := v }
  if cut then s.retrain else s

/-- A write of LMAPn_CTL (13 R577). -/
def State.lmapCtl (s : State) (n : Fin 16) (v : Word) : State :=
  let m := s.duet.lmap[n]
  let a := m.base.toNat
  let k := 24 * m.lines.toNat
  let outside := !s.inDram a || !s.inDram (a + k - 1) || k = 0
  let region := (List.finRange 8).any fun i => let r := s.echo.region i; overlaps a k (r.1 * 4096) (r.2 * 4096)
  let spill := overlaps a k s.duet.spillBase.toNat (min 16 s.duet.spillMw.toNat * 1048576)
  if v.getLsbD 0 && (outside || region || spill) then s.modDuet fun d => d.setFlag 7
  else s.modDuet fun d => { d with lmap := d.lmap.set n { m with valid := v.getLsbD 0, r := v.getLsbD 1, w := v.getLsbD 2 } }

/-- DL_STAT. -/
def Duet.statWord (d : Duet) : Word :=
  let st : Nat := match d.state with | .off => 0 | .training => 1 | .up => 2 | .retrain => 3 | .fatal => 4
  BitVec.ofNat 24 st ||| (d.width.setWidth 24 <<< 3) ||| (d.speed.setWidth 24 <<< 5) ||| (d.lanes.setWidth 24 <<< 7) ||| (d.flags.setWidth 24 <<< 11)

/-- A read of the Duet window. -/
def State.duetRead (s : State) (off : Nat) : Word :=
  let d := s.duet
  if !s.die.variant.duet then 0
  else if h : 0x40 ≤ off ∧ off < 0x80 then
    let m := d.lmap[(off - 0x40) / 4]'(by omega)
    match off % 4 with
    | 0 => paLo m.base
    | 1 => paHi m.base
    | 2 => m.lines.setWidth 24
    | _ => flag 24 0 m.valid ||| flag 24 1 m.r ||| flag 24 2 m.w
  else match off with
  | 0x00 => flag 24 0 d.en ||| (d.tgtWidth.setWidth 24 <<< 1) ||| (d.tgtSpeed.setWidth 24 <<< 4) ||| flag 24 6 d.train
  | 0x01 => d.statWord
  | 0x02 => d.ien.setWidth 24 <<< 11
  | 0x03 => d.holdMs.setWidth 24
  | 0x04 => d.laneMask.setWidth 24
  | 0x05 => d.localEpoch
  | 0x06 => d.partnerEpoch
  | 0x07 => d.partnerDrain
  | 0x08 => d.linkDelay
  | 0x09 => s.sampleAge
  | 0x0A => d.partnerHb
  | 0x0B => d.partnerRole
  | 0x0C => d.retrainCnt
  | 0x0D => d.crcErrCnt
  | 0x0E => d.fecCorr
  | 0x0F => d.fecUncorr
  | 0x10 => paLo d.spillBase
  | 0x11 => paHi d.spillBase
  | 0x12 => d.spillMw.setWidth 24
  | 0x13 => BitVec.ofNat 24 d.b.store.length
  | 0x14 => BitVec.ofNat 24 d.c.store.length
  | 0x20 => paLo d.dqBase
  | 0x21 => paHi d.dqBase
  | 0x22 => d.dqSize.setWidth 24
  | 0x23 => d.dqProd
  | 0x24 => d.dqCons
  | _ => 0

/-- The registers that a Voice core at monitor level may write: the queue, the landing map and the W1C fields (13 R576). -/
def State.duetVoiceWrite (s : State) (off : Nat) (v : Word) : State :=
  let d := s.duet
  let idle := d.dqCons = d.dqProd
  if h : 0x40 ≤ off ∧ off < 0x80 then
    let n : Fin 16 := ⟨(off - 0x40) / 4, by omega⟩
    let m := d.lmap[n]
    match off % 4 with
    | 0 => s.modDuet fun d => { d with lmap := d.lmap.set n { m with base := paddrOf v (paHi m.base) } }
    | 1 => s.modDuet fun d => { d with lmap := d.lmap.set n { m with base := paddrOf (paLo m.base) v } }
    | 2 => s.modDuet fun d => { d with lmap := d.lmap.set n { m with lines := bits v 0 18 } }
    | _ => s.lmapCtl n v
  else match off with
  | 0x01 => s.modDuet fun d => { d with flags := d.flags &&& ~~~bits v 11 8 }
  | 0x20 => if idle then s.modDuet fun d => { d with dqBase := paddrOf v (paHi d.dqBase) } else s
  | 0x21 => if idle then s.modDuet fun d => { d with dqBase := paddrOf (paLo d.dqBase) v } else s
  | 0x22 => if idle then s.modDuet fun d => { d with dqSize := bits v 0 11 } else s
  | 0x23 => s.modDuet fun d => { d with dqProd := v }
  | _ => s

/-- A write of DL_CTL by the Conductor. -/
def State.writeDlCtl (s : State) (v : Word) : State :=
  let s := s.modDuet fun d => { d with tgtWidth := bits v 1 2, tgtSpeed := bits v 4 2 }
  let s := if v.getLsbD 0 then s.linkOn else s.linkOff
  if v.getLsbD 6 then s.linkTrain else s

/-- A write to the Duet window (13 R576). -/
def State.duetWrite (s : State) (w : Initiator) (off : Nat) (v : Word) : State :=
  if !s.die.variant.duet || !s.mayW1c w then s
  else if off = 1 || 0x20 ≤ off then s.duetVoiceWrite off v
  else if !w.isCdr then s
  else match off with
  | 0x00 => s.writeDlCtl v
  | 0x02 => s.modDuet fun d => { d with ien := bits v 11 13 }
  | 0x03 => s.modDuet fun d => { d with holdMs := bits v 0 8 }
  | 0x04 => s.laneMask (bits v 0 4)
  | 0x10 => if s.duet.en then s else s.modDuet fun d => { d with spillBase := paddrOf v (paHi d.spillBase) }
  | 0x11 => if s.duet.en then s else s.modDuet fun d => { d with spillBase := paddrOf (paLo d.spillBase) v }
  | 0x12 => if s.duet.en then s else s.modDuet fun d => { d with spillMw := bits v 0 5 }
  | _ => s

end Sys2Proof.Machine
end

