-- ==== Sys2Proof/Machine/HealthOps.lean ====
section
/-! DEFINITION. Rehearsal slices, the Fault ledger, its repairs and its mirrors, and the Health window (15). -/
namespace Sys2Proof.Machine

/-- The state with Health changed. -/
def State.modHealth (s : State) (f : Health → Health) : State := { s with health := f s.health }

/-! Sources (15 Table 15.3). -/

/-- What the ledger does when a source becomes lasting. -/
inductive RepairKind where
  | report | spare2 | spare3 | lane
deriving DecidableEq, Repr

/-- The action of a source. -/
def repairKind (src : Nat) : RepairKind :=
  match src / 256 with | 3 => .spare2 | 4 => .spare3 | 6 => .lane | _ => .report

/-- The default threshold of a class. -/
def defaultThreshold (src : Nat) : Nat :=
  match src / 256 with
  | 1 => 8 | 2 => 8 | 3 => 4 | 4 => 4 | 5 => 16 | 6 => 8 | 7 => 4 | 8 => 16 | 9 => 8 | 10 => 2 | _ => 1

/-- A source with no events (15 section 15.2.1). -/
def freshSource (src : Nat) : LSrc where
  c := 0
  window := 24
  thresh := defaultThreshold src
  state := .clean
  events := 0
  hour := 0
  nextLeak := 0

/-- A source of the ledger. -/
def State.lsrc (s : State) (src : Nat) : LSrc := Tbl.get s.health.ledger src (freshSource src)
/-- The ledger with a source replaced. -/
def State.putSrc (s : State) (src : Nat) (x : LSrc) : State := s.modHealth fun h => { h with ledger := Tbl.put h.ledger src x }
/-- The code of a state (15 Table 15.5). -/
def LState.code : LState → Nat
  | .clean => 0 | .transient => 1 | .lasting => 2 | .repaired => 3 | .unrepairable => 4
/-- A state that a lasting decision has set. -/
def LState.decided (x : LState) : Bool := match x with | .clean => false | .transient => false | _ => true
/-- The leak period in seconds (15 R644). -/
def LSrc.period (x : LSrc) : Nat := max 1 (x.window * 3600 / max 1 x.thresh)

/-! Mirrors (15 Table 15.7, R654). -/

/-- Words 11 to 61: sources and states in pairs, a word of ones, then the counts above 0 (log 23). -/
def packLedger (l : Tbl LSrc) : List Word :=
  let pairs := (l.filter fun p => p.2.state.decided).flatMap fun p => [BitVec.ofNat 24 p.1, BitVec.ofNat 24 p.2.state.code]
  let counts := (l.filter fun p => 0 < p.2.c).map fun p => BitVec.ofNat 24 (p.1 + p.2.c * 4096)
  ((pairs ++ 0xFFFFFF :: counts) ++ List.replicate 51 0).take 51

/-- Service hours, word 8 of the always-on mirror. -/
def State.serviceHours (s : State) : Word := s.health.mirror[8]

/-- The always-on mirror is brought up to date (15 R654). -/
def State.mirrorUpdate (s : State) : State :=
  let m := s.health.mirror
  let head := [s.caches.l2ways[0] &&& 0x1FF, s.caches.l2ways[1] &&& 0x1FF, s.caches.l2ways[2] &&& 0x1FF, s.caches.l3en[0], s.caches.l3en[1],
    s.caches.l3en[2], s.caches.l3en[3], s.duet.laneMask.setWidth 24, m[8], m[9], m[10]]
  let ws := head ++ packLedger s.health.ledger ++ [m[62] + 1]
  s.modHealth fun h => { h with mirror := Vector.ofFn fun i => (ws ++ [recordCrc ws]).getD i.val 0 }

/-- The flash mirror is written (15 R650, R654). -/
def State.flashLedger (s : State) : State := s.modHealth fun h => { h with flashLedger := h.ledger, flashMirror := h.mirror }

/-- Both mirrors follow a change of state or of a repair. -/
def State.bothMirrors (s : State) : State := s.mirrorUpdate.flashLedger

/-! Repairs (15 R647 to R651). -/

/-- The L2 and way of an instance. -/
def l2Way (i : Nat) : Fin 3 × Nat := (secOf (i / 9), i % 9)
/-- The L3 slice and way of an instance. -/
def l3Way (i : Nat) : Fin 4 × Nat := (sliceNo (i / 17), i % 17)

/-- The repair of a source is applied: the registers after it, or none where it is impossible (15 R648, R649), as it is too where
the way map would refuse the write (06 R227; DESIGN CHOICE, log 23). -/
def State.applyRepair (s : State) (src : Nat) : Option State :=
  let i := src % 256
  match repairKind src with
  | .report => none
  | .lane => if s.duet.laneMask &&& s.die.variant.laneMask = bitAt 4 i then none else some (s.laneMask (setBit s.duet.laneMask i false))
  | .spare2 =>
    let p := l2Way i
    let r := s.caches.l2ways[p.1]
    let v := setBit (setBit r p.2 false) (9 + p.2) false
    let v' := if r.getLsbD 8 || p.2 = 8 then v else setBit v 8 true
    if (!r.getLsbD 8 || 4 ≤ popcount (bits v 0 9)) && okL2 v' then some (s.setL2Ways p.1 v') else none
  | .spare3 =>
    let p := l3Way i
    let en := s.caches.l3en[p.1]
    let iso := setBit s.caches.l3iso[p.1] p.2 false
    let v := setBit en p.2 false
    let v' := if en.getLsbD 16 || p.2 = 16 then v else setBit v 16 true
    if (!en.getLsbD 16 || 8 ≤ popcount v) && okL3 v' iso then some (s.setL3Ways p.1 v' iso) else none

/-- A repair is undone: the way or the lane is restored; a spare that would exceed the ways of Table 6.1 leaves use (15
R651; log 23). -/
def State.undoRepair (s : State) (src : Nat) : State :=
  let i := src % 256
  match repairKind src with
  | .report => s
  | .lane => s.laneMask (setBit s.duet.laneMask i true)
  | .spare2 =>
    let p := l2Way i
    let v := setBit s.caches.l2ways[p.1] p.2 true
    s.setL2Ways p.1 (if 8 < popcount (bits v 0 9) then setBit v 8 false else v)
  | .spare3 =>
    let p := l3Way i
    let v := setBit s.caches.l3en[p.1] p.2 true
    s.setL3Ways p.1 (if 16 < popcount v then setBit v 16 false else v) s.caches.l3iso[p.1]

/-- The way of a source is isolated by a running slice (15 R647). -/
def State.repairBlocked (s : State) (src : Nat) : Bool :=
  match s.health.running with
  | none => false
  | some sl => (sl.num.toNat / 256 = 0 && src = 0x300 + sl.num.toNat % 256) || (sl.num.toNat / 256 = 1 && src = 0x400 + sl.num.toNat % 256)

/-- A source enters a state, and the mirrors follow. -/
def State.setLState (s : State) (src : Nat) (x : LState) : State := (s.putSrc src { s.lsrc src with state := x }).bothMirrors

/-- The repair of a source: recorded, applied, and REPAIRED; or UNREPAIRABLE (15 R648 to R650). The answer tells which. -/
def State.repair (s : State) (src : Nat) : State × Bool :=
  let s := s.modHealth fun h => { h with repairs := h.repairs.filter fun x => x ≠ src }
  match s.mirrorUpdate.applyRepair src with
  | some t => (t.setLState src .repaired, true)
  | none => (s.setLState src .unrepairable, false)

/-- The repair that is first in order is done, where it is of one of the kinds `p` and no slice holds its way (15 R647). -/
def State.nextRepair (s : State) (p : RepairKind → Bool) : State :=
  match s.health.repairs with
  | [] => s
  | src :: _ => if p (repairKind src) && !s.repairBlocked src && (s.running 0x63).isNone then (s.repair src).1 else s

/-- A REPAIR command does its work (15 R651). `aux` of the command becomes 1, or 2 where the repair is impossible. -/
def State.runRepair (s : State) (c : Cmd) : State × Cmd :=
  let src := (param c.params 0).toNat
  if s.repairBlocked src then (s, c)
  else if param c.params 1 = 1 then let r := s.repair src; (r.1, { c with aux := if r.2 then 1 else 2 })
  else ((s.undoRepair src).setLState src .lasting, { c with aux := 1 })

/-! Counting (15 R640, R643 to R645). -/

/-- The weight of an event kind (15 Table 15.4). -/
def weightOf (kind : BitVec 2) : Nat := if kind = 1 || kind = 2 then 2 else 1

/-- An event is counted; the answer tells whether the source becomes lasting. -/
def State.countEvent (s : State) (e : HEvent) : State × Bool :=
  let src := e.src.toNat
  let x := s.lsrc src
  let c := min 4095 (x.c + weightOf e.kind)
  let open_ := !x.state.decided
  let newly := open_ && decide (x.thresh ≤ c)
  (s.putSrc src { x with
    c := c, nextLeak := if x.c = 0 then e.svc + x.period else x.nextLeak
    state := if newly then .lasting else if open_ then .transient else x.state
    events := satInc x.events, hour := s.serviceHours }, newly)

/-- A source has become lasting: the notice, and its repair where its action is not Report (15 R645). -/
def State.becameLasting (s : State) (src : Nat) : State :=
  let s := s.notice 0x10 (BitVec.ofNat 24 (src + LState.lasting.code * 4096))
  if repairKind src = .report then s else s.modHealth fun h => { h with repairs := h.repairs ++ [src] }

/-- Conductor firmware drains the event queue (15 R643, R645, R647). -/
def State.drain (s : State) : State :=
  let q := s.health.evq
  let r := q.foldl (fun (acc : State × List Nat) e =>
    let r := acc.1.countEvent e
    (r.1, if r.2 then insertNat acc.2 e.src.toNat else acc.2)) (s.modHealth fun h => { h with evq := [] }, [])
  let s := r.2.foldl State.becameLasting r.1
  let s := s.mirrorUpdate
  if r.2.isEmpty then s else s.flashLedger

/-- One leak of a source (15 R644). -/
def State.leak (s : State) (src : Nat) : State :=
  let x := s.lsrc src
  if x.c = 0 then s
  else
    let c := x.c - 1
    let state := if c = 0 && x.state = .transient then .clean else x.state
    (s.putSrc src { x with c, state, nextLeak := x.nextLeak + x.period }).mirrorUpdate

/-- The leaks of a source that have fallen due (15 R665 step 3). -/
def State.leakDue (s : State) (src : Nat) : Nat → State
  | 0 => s
  | n + 1 => let x := s.lsrc src; if x.c = 0 || s.pwr.service < x.nextLeak then s else State.leakDue (s.leak src) src n

/-- Time passes until the service time reaches `n` seconds, if it is still ahead. -/
def State.untilService (s : State) (n : Nat) : State :=
  if n ≤ s.pwr.service then s else s.elapse (s.tempo.countsFor (1000000000 * (n - s.pwr.service) - s.pwr.aonFrac))

/-- Service hours that have passed are added (15 R657), and a due re-score is told (R658). -/
def State.addHours (s : State) : State :=
  if s.pwr.service < s.health.hourAt then s
  else
    let n := (s.pwr.service - s.health.hourAt) / 3600 + 1
    let s := s.modHealth fun h =>
      { h with hourAt := h.hourAt + 3600 * n, mirror := (h.mirror.set 8 (satAdd h.mirror[8] n)).set 10 (lo24 s.pwr.aonSec) }
    let due := s.serviceHours.toNat - (s.health.mirror[9]).toNat
    let tell := decide (70128 ≤ due) && (s.health.noticeAt = 0 || s.health.noticeAt + 168 ≤ s.serviceHours.toNat)
    let s := if tell then (s.notice 0x12 (satNat 24 due)).modHealth fun h => { h with noticeAt := s.serviceHours.toNat } else s
    let s := s.mirrorUpdate
    if (s.serviceHours.toNat / 24 != (s.serviceHours.toNat - n) / 24) then s.flashLedger else s

/-! Slices (15 section 15.1). -/

/-- Set and instance of a slice number (15 R628). -/
def sliceSet (num : Nat) : Nat := num / 256
/-- The instance of a slice number. -/
def sliceInst (num : Nat) : Nat := num % 256

/-- A slice of the catalogue on some variant (15 Table 15.1). -/
def sliceKnown (num : Nat) : Bool :=
  let i := sliceInst num
  match sliceSet num with
  | 0 => i < 27 | 1 => i < 68 | 2 => i < 12 | 3 => i < 12 | 4 => i < 4 | 5 => i = 0 | 6 => i < 3 | _ => false

/-- A slice whose unit is present. -/
def State.slicePresent (s : State) (num : Nat) : Bool :=
  let v := s.die.variant
  let i := sliceInst num
  match sliceSet num with
  | 0 => i < 9 * v.sections | 1 => i < 17 * v.slices | 2 => i < v.voices | 3 => i < v.voices | 4 => i < v.lanes | 5 => i = 0 | 6 => i < v.sections
  | _ => false

/-- The budget in ns. -/
def sliceBudget (num : Nat) : Nat :=
  match sliceSet num with
  | 0 => 30000 | 1 => 45000 | 2 => 20000 | 3 => 45000 | 4 => 10000 | _ => 5000

/-- The cores that must be REST. -/
def State.sliceCores (s : State) (num : Nat) : List (Fin 12) :=
  match sliceSet num with
  | 0 => s.coresOf (secOf (sliceInst num / 9))
  | 1 => s.presentCores
  | 2 => s.presentCores.filter fun c => c.val = sliceInst num
  | 3 => s.presentCores.filter fun c => c.val = sliceInst num
  | _ => []

/-- The ledger source of a slice's resource; of CORE_L1, `insn` tells which of the two caches failed. -/
def sliceSource (num : Nat) (insn : Bool) : BitVec 12 :=
  let i := sliceInst num
  BitVec.ofNat 12 (match sliceSet num with
    | 0 => 0x300 + i | 1 => 0x400 + i | 2 => (if insn then 0x100 else 0x200) + i | 3 => 0x700 + i | 4 => 0x600 + i | 5 => 0xA00 | _ => 0xB00 + i)

/-- A way that a repair has taken out of use is not scheduled (15 section 15.1). -/
def State.sliceOut (s : State) (num : Nat) : Bool :=
  sliceSet num ≤ 1 && (s.lsrc (sliceSource num false).toNat).state = .repaired

/-- The planned slices, ascending (15 R634). -/
def State.planned (s : State) : List Nat :=
  (List.range 0x700).filter fun n => s.health.sets.getLsbD (sliceSet n) && s.slicePresent n && !s.sliceOut n

/-- REH_PERIOD in ns. -/
def Health.periodNs (h : Health) : Nat := h.period.toNat * 3600000000000

/-- The slice that is due, if one is (15 R634). -/
def State.dueSlice (s : State) : Option Nat :=
  let p := s.planned
  match (indexed p).find? fun q => s.health.nextNum ≤ q.2 with
  | none => none
  | some (i, n) => if i * s.health.periodNs ≤ s.health.cycleTime * p.length then some n else none

/-- The way map with the way of a slice isolated is one that 06 R227 allows. -/
def State.mayIsolate (s : State) (num : Nat) : Bool :=
  let i := sliceInst num
  if sliceSet num = 0 then okL2 (setBit s.caches.l2ways[(l2Way i).1] (9 + (l2Way i).2) true)
  else if sliceSet num = 1 then okL3 s.caches.l3en[(l3Way i).1] (setBit s.caches.l3iso[(l3Way i).1] (l3Way i).2 true)
  else true

/-- R629 allows a slice in a beat of the given length, in which Rehearsal may work; a way slice also leaves a way for lookup and
allocation (06 R227; DESIGN CHOICE, log 23). -/
def State.sliceFits (s : State) (num beat len : Nat) : Bool :=
  sliceBudget num ≤ len && s.mayIsolate num && (s.sliceCores num).all fun c => entryType (s.entryAt c beat) = 0

/-- A core is stopped by a slice: its dirty L1 data lines are written back to the L2, and its L1 caches, line buffer and translation
caches are emptied (15 R630). -/
def State.holdForSlice (s : State) (c : Fin 12) : State :=
  let keep (l : CacheLine) : CacheLine :=
    { (if l.l1d.getLsbD c.val then l.merge else l) with l1d := setBit l.l1d c.val false, l1i := setBit l.l1i c.val false }
  let s := { s with caches := { s.caches with lines := s.caches.lines.map keep } }
  s.modCore c fun v => { v with sliceHold := true, resv := none, itlb := [], dtlb := [], l2tlb := [], walk := [], lineBuf := [] }

/-- The way of a slice is isolated, or rejoins (06 R230). -/
def State.isolateWay (s : State) (num : Nat) (on : Bool) : State :=
  if sliceSet num = 0 then
    let p := l2Way (sliceInst num)
    s.setL2Ways p.1 (setBit s.caches.l2ways[p.1] (9 + p.2) on)
  else if sliceSet num = 1 then
    let p := l3Way (sliceInst num)
    s.setL3Ways p.1 s.caches.l3en[p.1] (setBit s.caches.l3iso[p.1] p.2 on)
  else s

/-- A slice starts (15 R629, R630). -/
def State.startSlice (s : State) (num : Nat) (asked retest : Bool) : State :=
  let s := s.modHealth fun h =>
    { h with running := some { num := BitVec.ofNat 13 num, start := s.tempo.count, asked, retest }
             retests := if retest then h.retests.filter fun x => x.toNat ≠ num else h.retests }
  let s := s.isolateWay num true
  if sliceSet num = 2 || sliceSet num = 3 then (s.sliceCores num).foldl State.holdForSlice s else s

/-- The REH_RUN commands whose slice has not started. -/
def State.askedSlices (s : State) : List Cmd := s.rings.active.filter fun c => c.op = 0x51 && !c.committed

/-- Rehearsal may start a slice in a beat of the given length: a retest first, then an asked one, then the due one (15 R629,
R633, R636; 02 R45). -/
def State.offerBeat (s : State) (beat len : Nat) : State :=
  let s := s.modHealth fun h => { h with retests := h.retests.filter fun n => !s.sliceOut n.toNat }
  if !s.health.rehEn || s.health.running.isSome || !s.bar.cfg.reh.getLsbD beat then s
  else match s.health.retests.find? fun n => s.sliceFits n.toNat beat len with
  | some n => s.startSlice n.toNat false true
  | none =>
    match s.askedSlices.find? fun c => s.sliceFits (param c.params 0).toNat beat len with
    | some c => (s.setCmd { c with committed := true }).startSlice (param c.params 0).toNat true false
    | none =>
      match s.dueSlice with
      | some n => if s.sliceFits n beat len then s.startSlice n false false else s
      | none => s

/-- The cycle goes on after a slice of the plan; a cycle that ended late is followed at once by the next (15 R634, R635). -/
def State.advanceCycle (s : State) (num : Nat) : State :=
  let s := s.modHealth fun h => { h with nextNum := num + 1 }
  if s.planned.any fun n => num < n then s
  else
    let late := decide (s.health.periodNs ≤ s.health.cycleTime)
    s.modHealth fun h =>
      if late then { h with cycles := satInc h.cycles, nextNum := 0, cycleTime := 0, lateSet := false } else { h with cycles := satInc h.cycles }

/-- A cycle that ended in time is followed by the next when its period is over (15 R634). -/
def State.renewCycle (s : State) : State :=
  let h := s.health
  if h.periodNs ≤ h.cycleTime && !(s.planned.any fun n => h.nextNum ≤ n) then
    s.modHealth fun h => { h with nextNum := 0, cycleTime := h.cycleTime - h.periodNs, lateSet := false }
  else s

/-- The history of a slice. -/
def State.history (s : State) (num : Nat) : SliceHist := Tbl.get s.health.hist num { runs := 0, fails := 0, overruns := 0, last := 0 }

/-- AGE_SEC after an AGING slice that has measured (15 R655, R656, Table 15.8). The first measurement after a cold reset is no change of
GUIDE (DEDUCED, log 23). -/
def State.aging (s : State) (sec : Fin 3) (slow : BitVec 10) : State :=
  let n := slow.toNat
  let guide := if n < 20 then s.fmax else if n < 40 then s.fmax - 1 else s.fmax - 2
  let w : Word := slow.setWidth 24 ||| BitVec.ofNat 24 (guide * 1024)
  let old := s.health.ageSec[sec]
  let s := s.modHealth fun h => { h with ageSec := h.ageSec.set sec w }
  let s := if old != 0 && (bits old 10 8).toNat ≠ guide then s.notice 0x11 (BitVec.ofNat 24 (sec.val + guide * 256)) else s
  if 60 ≤ n then s.post (BitVec.ofNat 12 (0xB00 + sec.val)) 3 else s

/-- A slice ends with a result of 15 Table 15.2 (R630, R631, R633). `outcome` is what its unit measured: the slow-down of
AGING; of CORE_L1, bit 0 tells the instruction cache (log 23). -/
def State.endSlice (s : State) (sl : Slice) (result : Nat) (outcome : BitVec 10) : State :=
  let num := sl.num.toNat
  let dur := satNat 24 ((s.tempo.count - sl.start) / 10)
  let x := s.history num
  let hist : SliceHist := { runs := satInc x.runs, fails := if result = 1 then satInc x.fails else x.fails, overruns := if result = 2 then satInc x.overruns else x.overruns, last := BitVec.ofNat 24 result }
  let s := s.modHealth fun h =>
    { h with running := none, last := sl.num.setWidth 24 ||| BitVec.ofNat 24 (result * 65536), lastDur := dur, hist := Tbl.put h.hist num hist
             fail := h.fail || result = 1, failCnt := if result = 1 then satInc h.failCnt else h.failCnt
             overrun := h.overrun || result = 2, ovrCnt := if result = 2 then satInc h.ovrCnt else h.ovrCnt }
  let way := sliceSet num ≤ 1
  let kept := way && (result = 1 || (result = 2 && sl.retest))
  let s := if kept then s.modHealth fun h => { h with retests := h.retests.filter (fun n => n ≠ sl.num) ++ [sl.num] } else if way then s.isolateWay num false else s
  let s := (s.sliceCores num).foldl (fun s c => s.modCore c fun v => { v with sliceHold := false }) s
  let s := if result = 1 then s.post (sliceSource num (outcome.getLsbD 0)) 2 else s
  let s := if sliceSet num = 6 && result ≠ 2 then s.aging (secOf (sliceInst num)) outcome else s
  let s := if !sl.asked && !sl.retest then s.advanceCycle num else s
  let s := match s.rings.active.find? fun c => c.op = 0x51 && c.committed with
    | some c => if sl.asked then s.finish c .ok [BitVec.ofNat 24 result, dur] else s
    | none => s
  match s.rings.active.find? fun c => c.op = 0x63 && c.aux = 0 with
  | some c => let r := s.runRepair c; r.1.setCmd r.2
  | none => s

/-- Ways that stay isolated without a slice are re-initialised at a reset (15 R664). -/
def State.dropSlices (s : State) : State :=
  let nums := (match s.health.running with | some sl => [sl.num.toNat] | none => []) ++ s.health.retests.map (·.toNat)
  nums.foldl (fun s n => s.isolateWay n false) s

/-! The Health window (15 Table 15.10). -/

/-- A read of the Health window. -/
def State.healthRead (s : State) (w : Initiator) (off : Nat) : Word :=
  let h := s.health
  if 0x800 ≤ off && off ≤ 0x80C then s.cacheRead (off - 0x800)
  else if g : 0x40 ≤ off ∧ off < 0x80 then h.mirror[off - 0x40]'(by omega)
  else if g : 0x20 ≤ off ∧ off < 0x23 then (if off - 0x20 < s.die.variant.sections then h.ageSec[off - 0x20]'(by omega) else 0)
  else match off with
  | 0x00 => flag 24 0 h.rehEn
  | 0x01 => flag 24 0 h.running.isSome ||| flag 24 8 h.fail ||| flag 24 9 h.overrun ||| flag 24 10 h.coverLate
  | 0x02 => h.sets.setWidth 24
  | 0x03 => h.period.setWidth 24
  | 0x04 => h.last
  | 0x05 => h.lastDur
  | 0x06 => h.cycles
  | 0x07 => h.ovrCnt
  | 0x08 => h.failCnt
  | 0x10 => if !w.isCdr then 0 else match h.evq with | e :: _ => e.src.setWidth 24 ||| (e.kind.setWidth 24 <<< 12) ||| bitAt 24 23 | [] => 0
  | 0x11 => if !w.isCdr then 0 else match h.evq with | e :: _ => e.time | [] => 0
  | 0x13 => BitVec.ofNat 24 h.evq.length ||| flag 24 23 h.ovf
  | 0x14 => h.lost
  | _ => 0

/-- A write to the Health window (15 R661). -/
def State.healthWrite (s : State) (w : Initiator) (off : Nat) (v : Word) : State :=
  if 0x800 ≤ off && off ≤ 0x80C then s.cacheWrite w (off - 0x800) v
  else if off = 0x01 then
    if s.mayW1c w then s.modHealth fun h => { h with fail := w1c h.fail (v.getLsbD 8), overrun := w1c h.overrun (v.getLsbD 9), coverLate := w1c h.coverLate (v.getLsbD 10) } else s
  else if off = 0x13 then if s.mayW1c w then s.modHealth fun h => { h with ovf := w1c h.ovf (v.getLsbD 23) } else s
  else if !w.isCdr then s
  else if g : 0x40 ≤ off ∧ off < 0x80 then s.modHealth fun h => { h with mirror := h.mirror.set (off - 0x40) v (by omega) }
  else match off with
  | 0x00 => s.modHealth fun h => { h with rehEn := v.getLsbD 0 }
  | 0x02 => s.modHealth fun h => { h with sets := bits v 0 7 }
  | 0x03 => s.modHealth fun h => { h with period := bits v 0 8 }
  | 0x12 => s.modHealth fun h => { h with evq := h.evq.tail }
  | _ => s

end Sys2Proof.Machine
end

