-- ==== Sys2Proof/Machine/Mc.lean ====
section
/-! DEFINITION. The memory controller: its window, initialisation, patrol scrub, refresh and refresh-quiet beats (09). -/
namespace Sys2Proof.Machine

/-- The state with the memory controller changed. -/
def State.modMc (s : State) (f : MemCtl → MemCtl) : State := { s with mc := f s.mc }

/-! Initialisation (09 section 9.10). -/

/-- INIT is set (09 R380, R856, R857). -/
def State.initSet (s : State) : State :=
  if s.mc.init || s.mc.ready then s
  else if s.mc.speed = 7 || s.mc.density = 3 then s.modMc fun m => { m with trainFail := true }
  else s.modMc fun m => { m with init := true }

/-- INIT, the other fields of MC_CTL as they are (09 R376, R380). -/
def execMcInit (w : Initiator) (s : State) : Host.Outcome State Fault Refusal :=
  ifActs w s fun s => if w.isCdr then s.initSet else s

/-- Every installed burst is written with zero and valid check bits (09 Table 9.10 step 7). -/
def State.zeroFill (s : State) : State := { s with dram := [], chk := [] }

/-- Scrub reads the first burst, and refresh of each rank begins (09 R348, R350). -/
def State.startMc (s : State) : State := s.modMc fun m => { m with scrubPos := 0 }.restart s.tempo.count

/-- Initialisation ends (09 R856, Table 9.10); with READY, link training starts where EN is 1 (13 R582). -/
def execInitialisationEnd (o : InitOutcome) (s : State) : Host.Outcome State Fault Refusal :=
  ifOn s fun s =>
    if !s.mc.init then s
    else match o with
    | .trainFail => s.modMc fun m => { m with init := false, trainFail := true }
    | .ready =>
      let s := ((s.modMc fun m => { m with init := false, ready := true }).startMc).zeroFill
      if s.duet.en then s.startTraining else s

/-! Reservations (09 section 9.6). -/

/-- The link is active: EN is 1 and STATE is neither OFF nor FATAL (13 R553). -/
def Duet.active (d : Duet) : Bool := d.en && d.state ≠ .off && d.state ≠ .fatal

/-- LAND: 12 slots while the link is active (09 R357). -/
def State.landSlots (s : State) : Nat := if s.duet.active then 12 else 0

/-- A write of MC_RESV by the Conductor (09 R357, R358). -/
def State.resvWrite (s : State) (v : Word) : State :=
  let a := bits v 0 4
  let d := bits v 4 4
  if 12 < a.toNat || 8 < d.toNat || 32 < s.landSlots + a.toNat + d.toNat then s.modMc fun m => { m with resvRej := true }
  else s.modMc fun m => { m with resvStream := a, resvDma := d }

/-- MC_RESV_WRITE (09 R358, R376). -/
def execMcResvWrite (w : Initiator) (v : Word) (s : State) : Host.Outcome State Fault Refusal :=
  ifActs w s fun s => if w.isCdr then s.resvWrite v else s

/-! Refresh (09 section 9.5). -/

/-- A quiet window is open: RUN is 1, the beat is marked, and the window has not broken (02 R44, 09 R355). -/
def State.quiet (s : State) : Bool := s.bar.run && s.bar.running && s.bar.cfg.refq.getLsbD s.bar.beat.toNat && !s.mc.quietOver

/-- The rank is fitted and refreshed by the controller. -/
def State.hasRank (s : State) (r : Fin 2) : Bool := s.mc.ready && !s.mc.selfref && (r = 0 || s.mc.ranks)

/-- The postponed refreshes are issued back to back (09 R354). -/
def State.catchUp (s : State) : State := s.modMc fun m => { m with postponed := Vector.replicate 2 0 }

/-- A quiet window begins: each rank has one refresh in advance (09 R352). -/
def State.quietStart (s : State) : State := s.modMc fun m => { m with quietOver := false, ahead := Vector.ofFn fun r => s.hasRank r }

/-- The quiet window breaks (02 R44, 09 Table 9.5 kind 7). -/
def State.quietBreak (s : State) : State :=
  (s.modMc fun m => { m with quietOver := true, refqBrk := true, refqBrkCnt := satInc m.refqBrkCnt }).catchUp

/-- tREFI elapses on a rank: a refresh is postponed in a quiet window, and issued otherwise (09 R350, R353). The eighth postponed
one ends the window at once (02 R44). -/
def State.refreshDue (s : State) (r : Fin 2) : State :=
  if s.quiet then
    let s := s.modMc fun m => { m with postponed := m.postponed.set r (m.postponed[r] + 1) }
    if 8 ≤ s.mc.postponed[r] then s.quietBreak else s
  else s.modMc fun m => { m with ahead := m.ahead.set r false }

/-- Time passes until tREFI elapses on a rank (09 R350; log 3). -/
def State.refresh (s : State) (r : Fin 2) : State :=
  ((s.until s.mc.refreshAt[r]).modMc fun m => { m with refreshAt := m.refreshAt.set r (m.refreshAt[r] + m.tRefi) }).refreshDue r

/-- REFRESH. -/
def execRefresh (r : Fin 2) (s : State) : Host.Outcome State Fault Refusal :=
  ifOn s fun s => if s.hasRank r then s.refresh r else s

/-- Refreshes of a rank follow each other, `n` at most, until the quiet window is over. -/
def State.refreshToBreak (s : State) (r : Fin 2) : Nat → State
  | 0 => s
  | n + 1 => if s.quiet then (s.refresh r).refreshToBreak r n else s

/-- REFQ_BREAK: in a quiet window that lasts, the postponed count of a rank reaches 8 (02 R44). -/
def execRefqBreak (r : Fin 2) (s : State) : Host.Outcome State Fault Refusal :=
  ifOn s fun s => if s.hasRank r then s.refreshToBreak r 8 else s

/-- The beat in progress changes from a marked one to an unmarked one, or the reverse; `was` tells that the beat before was
marked in a bar that ran (02 R43, 09 R352 to R355). -/
def State.quietBeat (s : State) (was : Bool) : State :=
  let now := s.bar.run && s.bar.running && s.bar.cfg.refq.getLsbD s.bar.beat.toNat
  if now && !was then s.quietStart
  else if was && !now then s.catchUp
  else s

/-! Patrol scrub (09 R347, R348). -/

/-- Scrub reads the next burst (09 R348). -/
def State.scrub (s : State) : State :=
  let line := 178956970 + s.mc.scrubPos
  let s := (s.readBeats .scrub line (s.storedBeats line)).1
  s.modMc fun m => { m with scrubPos := (m.scrubPos + 1) % m.bursts }

/-- PATROL_SCRUB: time passes until scrub reads its next burst (09 R348; log 3). -/
def execPatrolScrub (ups : List Upset) (s : State) : Host.Outcome State Fault Refusal :=
  ifOn s fun s =>
    if s.mc.ready && !s.mc.selfref && s.mc.scrubEn then
      (((s.until s.mc.scrubAt).modMc fun m => { m with scrubAt := m.scrubAt + m.scrubStep }).upsets ups).scrub
    else s

/-! The window (09 Table 9.7). -/

/-- MC_STAT. -/
def MemCtl.stat (m : MemCtl) : Word :=
  flag 24 0 m.ready ||| flag 24 1 m.selfref ||| flag 24 2 m.ce ||| flag 24 3 m.ue ||| flag 24 4 m.refqBrk ||| flag 24 5 m.resvRej |||
    flag 24 6 m.trainFail

/-- A read of the memory-controller window. -/
def State.mcRead (s : State) (off : Nat) : Word :=
  let m := s.mc
  let top := BitVec.ofNat 36 m.top
  match off with
  | 0x0 => flag 24 0 m.init ||| flag 24 1 m.ref2x ||| flag 24 2 m.scrubEn
  | 0x1 => m.speed.setWidth 24 ||| (m.density.setWidth 24 <<< 3) ||| flag 24 5 m.ranks
  | 0x2 => m.stat
  | 0x3 => if m.ready then paLo top else 0
  | 0x4 => if m.ready then paHi top else 0
  | 0x5 => m.resvStream.setWidth 24 ||| (m.resvDma.setWidth 24 <<< 4) ||| BitVec.ofNat 24 (s.landSlots * 256)
  | 0x6 => BitVec.ofNat 24 m.landDrain
  | 0x7 => m.refqBrkCnt
  | 0x8 => m.scrubPeriod.setWidth 24
  | 0x9 => m.ceCnt
  | 0xA => m.ceLog
  | 0xB => m.ceInfo
  | 0xC => m.ueLog
  | 0xD => m.ueInfo
  | 0xE => m.ien.setWidth 24
  | _ => 0

/-- A write to the memory-controller window (09 R376, R856). -/
def State.mcWrite (s : State) (w : Initiator) (off : Nat) (v : Word) : State :=
  if off = 2 then
    if s.mayW1c w then
      s.modMc fun m =>
        { m with ce := w1c m.ce (v.getLsbD 2), ue := w1c m.ue (v.getLsbD 3), refqBrk := w1c m.refqBrk (v.getLsbD 4),
                 resvRej := w1c m.resvRej (v.getLsbD 5), trainFail := w1c m.trainFail (v.getLsbD 6) }
    else s
  else if !w.isCdr then s
  else match off with
  | 0x0 =>
    let s := s.modMc fun m =>
      { m with ref2x := v.getLsbD 1, scrubEn := v.getLsbD 2
               scrubAt := if v.getLsbD 2 && !m.scrubEn then s.tempo.count + m.scrubStep else m.scrubAt }
    if v.getLsbD 0 then s.initSet else s
  | 0x1 => if s.mc.ready then s else s.modMc fun m => { m with speed := bits v 0 3, density := bits v 3 2, ranks := v.getLsbD 5 }
  | 0x5 => s.resvWrite v
  | 0x8 => s.modMc fun m => { m with scrubPeriod := bits v 0 8 }
  | 0xE => s.modMc fun m => { m with ien := bits v 0 5 }
  | _ => s

end Sys2Proof.Machine
end

