-- ==== Sys2Proof/Machine/TraceOps.lean ====
section
/-! DEFINITION. Score trace: streams, packets, triggers, recording, and the Score trace window (16). -/
namespace Sys2Proof.Machine

/-- The trace of a section. -/
def State.tsec (s : State) (sec : Fin 3) : TraceSec := s.trace[sec]
/-- The state with the trace of a section changed. -/
def State.modTsec (s : State) (sec : Fin 3) (f : TraceSec → TraceSec) : State := { s with trace := s.trace.set sec (f s.trace[sec]) }
/-- A section with Score trace (16 R694). -/
def State.hasTrace (s : State) (sec : Fin 3) : Bool := s.die.variant.trace && sec.val < s.die.variant.sections
/-- A partition's trace in a section. -/
def TraceSec.part (t : TraceSec) (p : BitVec 4) : TracePart := t.parts[p.toFin]
/-- A section with the trace of a partition changed. -/
def TraceSec.modPart (t : TraceSec) (p : BitVec 4) (f : TracePart → TracePart) : TraceSec :=
  { t with parts := t.parts.set p.toFin (f t.parts[p.toFin]) }
/-- The state with a partition's trace in a section changed. -/
def State.modPart (s : State) (sec : Fin 3) (p : BitVec 4) (f : TracePart → TracePart) : State := s.modTsec sec fun t => t.modPart p f
/-- The number of a core in its section. -/
def coreIn (c : Fin 12) : Fin 4 := ⟨c.val % 4, Nat.mod_lt _ (by decide)⟩
/-- A section with a core's trace unit changed. -/
def TraceSec.modTcore (t : TraceSec) (k : Fin 4) (f : TraceCore → TraceCore) : TraceSec := { t with cores := t.cores.set k (f t.cores[k]) }
/-- A status flag of a section is set. -/
def TraceSec.flagged (t : TraceSec) (k : Nat) : TraceSec := { t with sstat := setBit t.sstat k true }

/-! Streams (16 section 16.3). -/

/-- The segments that a partition owns, ascending. -/
def TraceSec.segs (t : TraceSec) (p : BitVec 4) : List Nat :=
  (List.finRange 16).filterMap fun i => if p != 0 && t.segOwn[i] = p then some i.val else none
/-- The length of a partition's stream in words. -/
def TraceSec.len (t : TraceSec) (p : BitVec 4) : Nat := 4096 * (t.segs p).length
/-- The place in the section buffer of word `i` of a stream. -/
def TraceSec.place (t : TraceSec) (p : BitVec 4) (i : Nat) : Nat := (t.segs p).getD (i / 4096) 0 * 4096 + i % 4096
/-- Recording goes on in this state (16 Table 16.2). -/
def TracePart.live (x : TracePart) : Bool := x.state = .armed || x.state = .triggered
/-- The partition's stream is copied to DRAM (16 R675, R689). -/
def TracePart.streaming (x : TracePart) : Bool := x.ctl.getLsbD 3 && x.strmLines != 0

/-- One word is written to a stream (16 R675). -/
def TraceSec.putWord (t : TraceSec) (p : BitVec 4) (v : Word) : TraceSec :=
  let x := t.part p
  let n := t.len p
  let w := (x.wptr + 1) % n
  { t with buf := Memory.setWord ramDefault t.buf (t.place p x.wptr) v }.modPart p fun x =>
    { x with wptr := w, wrap := x.wrap || w = 0, uncopied := if x.streaming then x.uncopied + 1 else 0 }

/-- The words of a packet that fits a segment from place `at_`: PAD words up to the boundary come first where it would cross
(16 R674). -/
def padded (at_ : Nat) (ws : List Word) : List Word :=
  if 4096 < at_ % 4096 + ws.length then List.replicate (4096 - at_ % 4096) 0 ++ ws else ws

/-- Packets are written one after the other. -/
def TraceSec.putPackets (t : TraceSec) (p : BitVec 4) (ps : List (List Word)) : TraceSec :=
  ps.foldl (fun t ws => (padded (t.part p).wptr ws).foldl (fun t v => t.putWord p v) t) t

/-- Words that packets take from a place on. -/
def packetRoom (at_ : Nat) (ps : List (List Word)) : Nat :=
  (ps.foldl (fun (a : Nat) ws => a + (padded a ws).length) at_) - at_

/-- A packet header (16 R670). -/
def packetHeader (ty : Nat) (core : Fin 4) (info delta : Nat) : Word :=
  BitVec.ofNat 24 (ty % 16 * 2 ^ 20 + core.val * 2 ^ 18 + info % 64 * 2 ^ 12 + delta % 4096)

/-- The packet that reports lost packets, if any wait (16 R676). -/
def TracePart.lostPackets (x : TracePart) (core : Fin 4) : List (List Word) :=
  if x.dropped = 0 then [] else [[packetHeader 0xA core 1 0, satNat 24 x.dropped]]

/-- The stream has room for packets, with the LOST packet that waits before them (16 R675, R676). -/
def TraceSec.takes (t : TraceSec) (p : BitVec 4) (core : Fin 4) (ps : List (List Word)) : Bool :=
  let x := t.part p
  !(x.streaming && decide (t.len p < x.uncopied + packetRoom x.wptr (x.lostPackets core ++ ps)))

/-- Packets are written into a stream, or dropped and counted when a streaming stream has no room (16 R676). -/
def TraceSec.write (t : TraceSec) (p : BitVec 4) (core : Fin 4) (ps : List (List Word)) : TraceSec :=
  if t.len p = 0 then t
  else if t.takes p core ps then (t.putPackets p ((t.part p).lostPackets core ++ ps)).modPart p fun x => { x with dropped := 0 }
  else
    (t.modPart p fun x =>
      { x with lostCnt := satInc x.lostCnt, flags := setBit x.flags 2 true, dropped := x.dropped + 1, dropCore := core }).flagged 1

/-- The LOST packet that waits is written as soon as there is room for it (16 R676), by the core that dropped last. -/
def TraceSec.writeLost (t : TraceSec) (p : BitVec 4) : TraceSec :=
  if (t.part p).dropped != 0 && t.takes p (t.part p).dropCore [] then t.write p (t.part p).dropCore [] else t

/-- The section cycle count. -/
def State.secCycle (s : State) (sec : Fin 3) : Nat := s.pwr.secCyc[sec]

/-- A packet of a core, with its DELTA and, above 4095, its TIME packet (16 R671). A packet that is dropped is in no stream, and the
next one's DELTA counts from the last that is. -/
def State.emit (s : State) (sec : Fin 3) (core : Fin 4) (p : BitVec 4) (ty info : Nat) (rest : List Word) : State :=
  let now := s.secCycle sec
  s.modTsec sec fun t =>
    let delta := min (now - Tbl.get t.cores[core].last p.toNat now) (2 ^ 36 - 1)
    let ps := if 4095 < delta then [[packetHeader 0xB core 0 delta, BitVec.ofNat 24 (delta / 4096)], packetHeader ty core info 0 :: rest]
      else [packetHeader ty core info delta :: rest]
    if t.takes p core ps then (t.write p core ps).modTcore core fun k => { k with last := Tbl.put k.last p.toNat now } else t.write p core ps

/-- Branch outcomes as an ATOM word: bit 0 is the oldest. -/
def atomWord (l : List Bool) : Word := l.foldl (fun w b => (w <<< 1) ||| flag 24 0 b) 0

/-- The core's pending ATOM is written (16 R672). -/
def State.flushAtom (s : State) (sec : Fin 3) (core : Fin 4) (p : BitVec 4) : State :=
  let a := (s.tsec sec).cores[core].atom
  if a.isEmpty then s
  else (s.emit sec core p 4 a.length [atomWord a]).modTsec sec fun t => t.modTcore core fun k => { k with atom := [] }

/-- A packet of a core after its pending ATOM. -/
def State.packet (s : State) (sec : Fin 3) (core : Fin 4) (p : BitVec 4) (ty info : Nat) (rest : List Word) : State :=
  (s.flushAtom sec core p).emit sec core p ty info rest

/-- A core that records leaves the partition, with LEAVE (16 Table 16.1). -/
def State.traceLeave (s : State) (c : Fin 12) (reason : Nat) : State :=
  let sec := sectionOf c
  match (s.tsec sec).cores[coreIn c].inPart with
  | none => s
  | some p => (s.packet sec (coreIn c) p 3 reason []).modTsec sec fun t => t.modTcore (coreIn c) fun k => { k with inPart := none }

/-- Every core of a section that records a partition leaves it. -/
def State.traceLeaveAll (s : State) (sec : Fin 3) (p : BitVec 4) (reason : Nat) : State :=
  (s.coresOf sec).foldl (fun s c => if (s.tsec sec).cores[coreIn c].inPart = some p then s.traceLeave c reason else s) s

/-! Triggers and stop (16 section 16.4). -/

/-- A core by its number in a section. -/
def coreAt (sec : Fin 3) (k : Nat) : Fin 12 := ⟨(4 * sec.val + k % 4) % 12, Nat.mod_lt _ (by decide)⟩

/-- The delay has ended (16 R680). -/
def State.traceStop (s : State) (sec : Fin 3) (p : BitVec 4) : State :=
  let k := ((s.tsec sec).part p).trigCore
  let s := s.packet sec ⟨k % 4, Nat.mod_lt _ (by decide)⟩ p 9 0 []
  let s := s.traceLeaveAll sec p 3
  let s := s.modTsec sec fun t => (t.modPart p fun x => { x with state := .stopped, flags := setBit x.flags 1 true }).flagged 3
  s.edge (coreAt sec k).val 19

/-- A trigger of a kind is detected for a partition on a core of the section (16 R678, R679). -/
def State.trigger (s : State) (c : Fin 12) (p : BitVec 4) (kind : Nat) : State :=
  let sec := sectionOf c
  let x := (s.tsec sec).part p
  if p != 0 && s.hasTrace sec && x.state = .armed && (bits x.ctl 4 3).toNat = kind then
    let s := s.packet sec (coreIn c) p 8 kind [x.delay]
    let s := s.modPart sec p fun x => { x with state := .triggered, flags := setBit x.flags 0 true, dcount := 0, trigCore := (coreIn c).val }
    let s := s.edge c.val 19
    if x.delay = 0 then s.traceStop sec p else s
  else s

/-- The partition that the core's current beat entry names, if the Bar unit runs (16 R678). -/
def State.beatPart (s : State) (c : Fin 12) : BitVec 4 := if s.bar.running then entryPart (s.entryNow c) else 0

/-! Recording (16 R668). -/

/-- The partition for which core `c` records an instruction that retires at the given level with the given tag. -/
def State.recordsFor (s : State) (c : Fin 12) (level : Level) (mptag : BitVec 4) : Option (BitVec 4) :=
  let t := s.tsec (sectionOf c)
  if s.hasTrace (sectionOf c) && level ≠ .monitor && mptag != 0 && s.beatPart c = mptag && (t.part mptag).live && t.len mptag != 0
  then some mptag else none

/-- What a retired instruction tells its trace unit. -/
inductive TraceEv where
  | branch (taken : Bool)
  | target (kind : Nat) (ptr : DWord)
  | data (size : Nat) (store atomic : Bool) (ptr : DWord) (value : DWord)
deriving DecidableEq, Repr

/-- The word of a pointer, the lane ignored. -/
def samePtrWord (a b : DWord) : Bool := a >>> 2 = b >>> 2

/-- ENTER is written when a core begins to record a partition (16 Table 16.1). -/
def State.traceEnter (s : State) (c : Fin 12) (p : BitVec 4) (pc : DWord) (level : Level) : State :=
  let sec := sectionOf c
  if (s.tsec sec).cores[coreIn c].inPart = some p then s
  else
    let v := s.core c
    let s := s.traceLeave c 2
    let s := s.packet sec (coreIn c) p 2 s.bar.beat.toNat [lo24 pc, hi24 pc, flag 24 0 (level = .kernel) ||| (v.kasid.setWidth 24 <<< 1)]
    s.modTsec sec fun t => t.modTcore (coreIn c) fun k => { k with inPart := some p }

/-- A branch outcome joins the pending ATOM, which is written at 24 outcomes (16 R672). -/
def State.traceBranch (s : State) (c : Fin 12) (p : BitVec 4) (taken : Bool) : State :=
  let sec := sectionOf c
  let s := s.modTsec sec fun t => t.modTcore (coreIn c) fun k => { k with atom := taken :: k.atom }
  if 24 ≤ (s.tsec sec).cores[coreIn c].atom.length then s.flushAtom sec (coreIn c) p else s

/-- One event of a retired instruction. -/
def State.traceEvent (s : State) (c : Fin 12) (p : BitVec 4) (e : TraceEv) : State :=
  let sec := sectionOf c
  let x := (s.tsec sec).part p
  match e with
  | .branch taken => if x.ctl.getLsbD 1 then s.traceBranch c p taken else s
  | .target k ptr => if x.ctl.getLsbD 1 then s.packet sec (coreIn c) p 5 k [lo24 ptr, hi24 ptr] else s
  | .data size store atomic ptr v =>
    let s :=
      if x.ctl.getLsbD 2 then
        s.packet sec (coreIn c) p 7 (size + (if store then 4 else 0) + (if atomic then 8 else 0))
          ([lo24 ptr, hi24 ptr, lo24 v] ++ if size = 2 then [hi24 v] else [])
      else s
    if samePtrWord ptr x.taddr || (size = 2 && samePtrWord (ptr + 4) x.taddr) then s.trigger c p 2 else s

/-- An instruction retires on core `c`: it was fetched at `pc`, at the given level and with the given tag. -/
def State.traceRetire (s : State) (c : Fin 12) (pc : DWord) (level : Level) (mptag : BitVec 4) (evs : List TraceEv) : State :=
  match s.recordsFor c level mptag with
  | none => s
  | some p =>
    let s := s.traceEnter c p pc level
    let s := if samePtrWord pc ((s.tsec (sectionOf c)).part p).taddr then s.trigger c p 1 else s
    evs.foldl (fun s e => s.traceEvent c p e) s

/-- A core enters kernel level by an exception or interrupt while it records (16 Table 16.1). -/
def State.traceExc (s : State) (c : Fin 12) (cause : Word) : State :=
  match (s.tsec (sectionOf c)).cores[coreIn c].inPart with
  | none => s
  | some p => if ((s.tsec (sectionOf c)).part p).ctl.getLsbD 1 then s.packet (sectionOf c) (coreIn c) p 6 0 [cause] else s

/-- Cores whose beat entry no longer names the partition that they record leave it (16 Table 16.1). -/
def State.traceBeatEnd (s : State) : State :=
  s.presentCores.foldl (fun s c =>
    match (s.tsec (sectionOf c)).cores[coreIn c].inPart with
    | some p => if s.beatPart c = p then s else s.traceLeave c 2
    | none => s) s

/-- A SYNC packet is written for every live partition at a bar boundary (16 R673). -/
def State.traceSync (s : State) : State :=
  (List.finRange 3).foldl (fun s sec =>
    if s.hasTrace sec then
      let now := s.secCycle sec
      let words := [lo24 s.bar.cnt, hi24 s.bar.cnt] ++ r500 s.tempo.time ++ [s.tempo.quality, BitVec.ofNat 24 (s.mhz sec)]
      (List.range 15).foldl (fun s i =>
        let p := BitVec.ofNat 4 (i + 1)
        if ((s.tsec sec).part p).live then
          s.modTsec sec fun t =>
            let sync := [packetHeader 1 0 0 0 :: words]
            let u := t.write p 0 sync
            if t.takes p 0 sync then { u with cores := Vector.ofFn fun k => { u.cores[k] with last := Tbl.put u.cores[k].last p.toNat now } } else u
        else s) s
    else s) s

/-! Control (16 R677). -/

/-- A write of PT_CTL for a partition of a section. -/
def State.writePtCtl (s : State) (sec : Fin 3) (p : BitVec 4) (v : Word) : State :=
  if v.getLsbD 0 then
    if 5 ≤ (bits v 4 3).toNat then s.modTsec sec fun t => t.flagged 4
    else
      let now := s.secCycle sec
      let fresh := !((s.tsec sec).part p).live
      s.modTsec sec fun t =>
        let t := t.modPart p fun x => { x with ctl := bits v 0 7, state := .armed, dcount := 0, uncopied := if bits v 3 1 = 1 then x.uncopied else 0 }
        if fresh then { t with cores := Vector.ofFn fun k => { t.cores[k] with last := Tbl.put t.cores[k].last p.toNat now } } else t
  else (s.traceLeaveAll sec p 3).modPart sec p fun x => { x with ctl := bits v 0 7, state := .idle, uncopied := if bits v 3 1 = 1 then x.uncopied else 0 }

/-- A path to a partition's trace (16 section 16.5): 0 the page, 1 the monitor's mirror, 2 the debug port's mirror. -/
structure TracePath where
  sec  : Fin 3
  part : BitVec 4
  path : Fin 3
deriving DecidableEq, Repr

/-- The partition page as an initiator reaches it (16 R681). -/
def State.pagePath (s : State) (w : Initiator) : Option TracePath :=
  match w with
  | .voice c =>
    let v := s.core c
    if s.hasTrace (sectionOf c) && v.level ≠ .monitor && v.mptag != 0 then some { sec := sectionOf c, part := v.mptag, path := 0 } else none
  | _ => none

/-- A partition lies in the debug set (16 R682, R683). -/
def State.inDebugSet (s : State) (p : BitVec 4) : Bool := p != 0 && s.boot.parts.getLsbD p.toNat

/-- The section block accepts the initiator (16 R682). -/
def State.blockAdmits (s : State) (w : Initiator) : Bool := w.isCdr || s.monitorOf w

/-- The mirror of a section as an initiator reaches it (16 R682). -/
def State.mirrorPath (s : State) (w : Initiator) (sec : Fin 3) : Option TracePath :=
  let t := s.tsec sec
  if !s.hasTrace sec then none
  else if s.blockAdmits w then (if t.pselM = 0 then none else some { sec, part := t.pselM, path := 1 })
  else if w = .debug && s.inDebugSet t.pselD then some { sec, part := t.pselD, path := 2 }
  else none

/-- The core that a write of PT_FIRE triggers on: the writer, if it belongs to the section, else the section's first. -/
def fireCore (w : Initiator) (sec : Fin 3) : Fin 12 :=
  match w with
  | .voice c => if sectionOf c = sec then c else coreAt sec 0
  | _ => coreAt sec 0

/-- A read of PT_RDATA (16 R687). -/
def State.readRdata (s : State) (x : TracePath) : State × Word :=
  let t := s.tsec x.sec
  let n := t.len x.part
  let i := (t.part x.part).raddr[x.path]
  if n = 0 then (s, 0)
  else (s.modPart x.sec x.part fun p => { p with raddr := p.raddr.set x.path ((i % n + 1) % n) }, Memory.word ramDefault t.buf (t.place x.part (i % n)))

/-- A read of a register of Table 16.5. -/
def State.ptRead (s : State) (x : TracePath) (off : Nat) : State × Word :=
  let t := s.tsec x.sec
  let p := t.part x.part
  match off with
  | 0 => (s, p.ctl.setWidth 24)
  | 1 => (s, p.delay)
  | 2 => (s, lo24 p.taddr)
  | 3 => (s, hi24 p.taddr)
  | 5 => (s, (match p.state with | .idle => 0 | .armed => 1 | .triggered => 2 | .stopped => 3) ||| (p.flags.setWidth 24 <<< 8))
  | 6 => (s, BitVec.ofNat 24 p.wptr ||| flag 24 23 p.wrap)
  | 7 => (s, p.lostCnt)
  | 8 => (s, (t.segs x.part).foldl (fun w i => setBit w i true) 0)
  | 9 => (s, BitVec.ofNat 24 p.raddr[x.path])
  | 10 => s.readRdata x
  | _ => (s, 0)

/-- The partition that a write of PT_FIRE triggers: on the partition page, the one that the core's current beat entry names
(16 R678); through a mirror, the mirror's (DESIGN CHOICE, log 34: no core detects it). -/
def State.firePart (s : State) (w : Initiator) (x : TracePath) : BitVec 4 :=
  match w with
  | .voice c => if x.path = 0 then s.beatPart c else x.part
  | _ => x.part

/-- A write to a register of Table 16.5. -/
def State.ptWrite (s : State) (w : Initiator) (x : TracePath) (off : Nat) (v : Word) : State :=
  match off with
  | 0 => s.writePtCtl x.sec x.part v
  | 1 => s.modPart x.sec x.part fun p => { p with delay := v }
  | 2 => s.modPart x.sec x.part fun p => { p with taddr := setLo p.taddr v }
  | 3 => s.modPart x.sec x.part fun p => { p with taddr := setHi p.taddr v }
  | 4 => if v.getLsbD 0 then s.trigger (fireCore w x.sec) (s.firePart w x) 3 else s
  | 5 => s.modPart x.sec x.part fun p => { p with flags := p.flags &&& ~~~bits v 8 3 }
  | 9 => s.modPart x.sec x.part fun p => { p with raddr := p.raddr.set x.path (bits v 0 20).toNat }
  | _ => s

/-- The owners in a word of TR_SEGOWN. -/
def TraceSec.ownWord (t : TraceSec) (k : Nat) : Word :=
  (List.finRange 16).foldl (fun w i => if i.val / 6 = k then setBits w (4 * (i.val % 6)) t.segOwn[i] else w) 0

/-- A write of TR_SEGOWN (16 R688). One that would change the owner of any segment from or to a live partition is not performed. -/
def TraceSec.writeOwn (t : TraceSec) (k : Nat) (v : Word) : TraceSec :=
  let new (i : Fin 16) : BitVec 4 := bits v (4 * (i.val % 6)) 4
  let changed := (List.finRange 16).filter fun i => i.val / 6 = k && new i ≠ t.segOwn[i]
  if changed.any fun i => (t.part t.segOwn[i]).live || (t.part (new i)).live then t.flagged 0
  else changed.foldl (fun t i =>
    let zero := fun (p : TracePart) => { p with wptr := 0, wrap := false, uncopied := 0 }
    ({ t with segOwn := t.segOwn.set i (new i) }.modPart t.segOwn[i] zero).modPart (new i) zero) t

/-- A write of STRM_LINES (16 R689). -/
def State.writeStrmLines (s : State) (sec : Fin 3) (p : BitVec 4) (v : Word) : State :=
  let x := (s.tsec sec).part p
  let n := (bits v 0 20).toNat
  let a := x.strmBase.toNat
  if n = 0 || (s.inDram a && s.inDram (a + 24 * n - 1)) then s.modPart sec p fun x => { x with strmLines := bits v 0 20 }
  else s.modTsec sec fun t => t.flagged 4

/-- A read of a section block (16 Table 16.6). -/
def State.traceBlockRead (s : State) (w : Initiator) (sec : Fin 3) (off : Nat) : State × Word :=
  let t := s.tsec sec
  if 0x10 ≤ off && off ≤ 0x1A then (match s.mirrorPath w sec with | some x => s.ptRead x (off - 0x10) | none => (s, 0))
  else if w = .debug then (s, if off = 5 && s.hasTrace sec && s.inDebugSet t.pselD then t.pselD.setWidth 24 else 0)
  else if !s.hasTrace sec || !s.blockAdmits w then (s, 0)
  else if off < 3 then (s, t.ownWord off)
  else if off = 3 then (s, t.sstat.setWidth 24)
  else if off = 4 then (s, t.sien.setWidth 24)
  else if off = 5 then (s, t.pselM.setWidth 24)
  else if off = 6 then (s, s.boot.parts &&& 0xFFFE)
  else if 0x40 ≤ off && off < 0x80 then
    let x := t.part (BitVec.ofNat 4 ((off - 0x40) / 4))
    (s, match off % 4 with
      | 0 => paLo x.strmBase
      | 1 => paHi x.strmBase
      | 2 => x.strmLines.setWidth 24
      | _ => BitVec.ofNat 24 x.strmWptr)
  else (s, 0)

/-- A write to a section block. -/
def State.traceBlockWrite (s : State) (w : Initiator) (sec : Fin 3) (off : Nat) (v : Word) : State :=
  if 0x10 ≤ off && off ≤ 0x1A then (match s.mirrorPath w sec with | some x => s.ptWrite w x (off - 0x10) v | none => s)
  else if w = .debug then
    (if off = 5 && s.hasTrace sec && s.inDebugSet (bits v 0 4) then s.modTsec sec fun t => { t with pselD := bits v 0 4 } else s)
  else if !s.hasTrace sec || !s.blockAdmits w then s
  else if off < 3 then s.modTsec sec fun t => t.writeOwn off v
  else if off = 3 then s.modTsec sec fun t => { t with sstat := t.sstat &&& ~~~bits v 0 5 }
  else if off = 4 then s.modTsec sec fun t => { t with sien := bits v 0 5 }
  else if off = 5 then s.modTsec sec fun t => { t with pselM := bits v 0 4 }
  else if 0x40 ≤ off && off < 0x80 then
    let p := BitVec.ofNat 4 ((off - 0x40) / 4)
    match off % 4 with
    | 0 => s.modPart sec p fun x => { x with strmBase := paddrOf v (paHi x.strmBase) }
    | 1 => s.modPart sec p fun x => { x with strmBase := paddrOf (paLo x.strmBase) v }
    | 2 => s.writeStrmLines sec p v
    | _ => s
  else s

/-- The section of an offset in the Score trace window. -/
def traceSecOf (off : Nat) : Fin 3 := ⟨off / 0x100 % 3, Nat.mod_lt _ (by decide)⟩

/-- A read of the Score trace window. -/
def State.traceRead (s : State) (w : Initiator) (off : Nat) : State × Word :=
  if off < 0x300 then s.traceBlockRead w (traceSecOf off) (off % 0x100)
  else if 0x1000 ≤ off && off < 0x100B then (match s.pagePath w with | some x => s.ptRead x (off - 0x1000) | none => (s, 0))
  else (s, 0)

/-- A write to the Score trace window. -/
def State.traceWrite (s : State) (w : Initiator) (off : Nat) (v : Word) : State :=
  if off < 0x300 then s.traceBlockWrite w (traceSecOf off) (off % 0x100) v
  else if 0x1000 ≤ off && off < 0x100B then (match s.pagePath w with | some x => s.ptWrite w x (off - 0x1000) v | none => s)
  else s

/-- What a warm reset does to a section's trace (16 R693). -/
def TraceSec.warm (t : TraceSec) : TraceSec :=
  { TraceSec.reset with
    segOwn := t.segOwn
    buf := t.buf
    parts := Vector.ofFn fun p =>
      let x := t.parts[p]
      { TracePart.reset with
        state := if x.live then .stopped else .idle
        wptr := x.wptr, wrap := x.wrap, strmBase := x.strmBase, strmLines := x.strmLines, strmWptr := x.strmWptr } }

end Sys2Proof.Machine
end

