-- ==== Sys2Proof/Machine/BarOps.lean ====
section
/-! DEFINITION. The Bar unit: checks of staged configurations and tables, adoption, slots, beat and bar boundaries, re-phasing,
RUN, and the Bar window (02). -/
namespace Sys2Proof.Machine

/-- The state with the Bar unit changed. -/
def State.modBar (s : State) (f : BarUnit → BarUnit) : State := { s with bar := f s.bar }

/-! Checks (02 sections 2.1, 2.2, 2.4, 2.5). -/

/-- The longest run of adjacent marked beats in a mask, beat B-1 and beat 0 counting as adjacent: `n` beats from `k` on remain,
`run` is the run so far, `best` the longest. -/
def longestRun (mask : Word) (b : Nat) : Nat → Nat → Nat → Nat → Nat
  | 0, _, _, best => best
  | n + 1, k, run, best =>
    if mask.getLsbD (k % b) then longestRun mask b n (k + 1) (run + 1) (max best (run + 1)) else longestRun mask b n (k + 1) 0 best

/-- Every condition of R21, R22, R43 and R49 holds; bits at or beyond B are ignored (R838). -/
def BarCfg.valid (g : BarCfg) : Bool :=
  let p := g.period.toNat
  let b := g.beats.toNat
  24000 ≤ p && p ≤ 2400000 && 8 ≤ b && b ≤ 24 && p % b = 0 && longestRun g.refq b (2 * b) 0 0 0 * (p / b) ≤ 6000 &&
    (!g.align || (100000000 % p = 0 && g.offset.toNat < p))

/-- A table is valid for B beats: no PLAY or OPEN entry names partition 0 (R24, R26). -/
def tableValid (ws : Vector Word 6) (b : Nat) : Bool :=
  (List.range b).all fun k => let e := tableEntry ws k; !(entryRuns e && entryPart e = 0)

/-! Adoption (R27, R28, R53, R54). -/

/-- The command that holds the Bar unit (10 R864). -/
def barConfigOp : BitVec 8 := 0x20

/-- The staged global configuration is adopted or rejected (R53, R54; 10 R414). -/
def State.adoptConfig (s : State) : State :=
  if !s.bar.garm then s
  else if s.bar.staged.valid then
    (s.modBar fun b => { b with garm := false, cfg := b.staged }).finishOp barConfigOp .ok []
  else (s.modBar fun b => { b with garm := false, cfgReject := true }).finishOp barConfigOp .badParam []

/-- A core's staged table is adopted or rejected (R27, R28). -/
def State.adoptTable (s : State) (c : Fin 12) : State :=
  if !(s.cbar c).arm then s
  else if tableValid (s.cbar c).bst s.bar.cfg.beats.toNat then s.modCbar c fun x => { x with arm := false, btc := x.bst }
  else s.modCbar c fun x => { x with arm := false, reject := true }

/-- Armed staging is judged: the global configuration first, then the tables (R27). A table that is not armed is not judged again when
a larger B makes more of its entries live (R26; DESIGN CHOICE, log 27). -/
def State.adopt (s : State) : State := s.presentCores.foldl State.adoptTable s.adoptConfig

/-! Slots (section 2.3). -/

/-- Beat-change is raised on a core (R31, R34). -/
def State.beatChange (s : State) (c : Fin 12) (reason : Bool) : State :=
  (s.modCbar c fun x => { x with bcReason := reason }).edge c 17

/-- The core executes at user or kernel level with the partition of the current entry (R32). -/
def State.enters (s : State) (c : Fin 12) : Bool :=
  let e := s.entryNow c
  s.bar.running && entryRuns e && (s.core c).level ≠ .monitor && (s.core c).mptag = entryPart e

/-- A core executes an instruction: its partition is entered in the slot (R32). -/
def State.enterSlot (s : State) (c : Fin 12) : State :=
  if s.enters c then s.modCbar c fun x => { x with entered := true } else s

/-- A slot starts on a core (R31, R36). -/
def State.slotStart (s : State) (c : Fin 12) : State :=
  let s := s.modCbar c fun x => { x with done := false, entered := false }
  let s := if s.issues c then s.enterSlot c else s
  s.beatChange c false

/-- An overrun counter counts (R41, R56). -/
def State.countOverrun (s : State) (p : BitVec 4) : State :=
  let v := s.bar.ovr[p.toFin]
  s.modBar fun b => { b with ovr := b.ovr.set p.toFin (satInc v), ovrSat := b.ovrSat || v = BitVec.allOnes 24 }

/-- A PLAY slot ends without DONE after its partition was entered (R37, R40; 16 Table 16.3 kind 4). -/
def State.overrun (s : State) (c : Fin 12) (p : BitVec 4) : State :=
  let s := s.countOverrun p
  let s := s.modCbar c fun x => { x with lastOvr := p.setWidth 24 ||| (s.bar.beat.setWidth 24 <<< 4) }
  (s.trigger c p 4).raiseBeatExpiry c p s.bar.beat

/-- A PLAY slot ends whose partition was never entered (R38, R41). -/
def State.slotMiss (s : State) (c : Fin 12) : State :=
  let full := decide ((s.cbar c).slotMiss = BitVec.allOnes 24)
  (s.modCbar c fun x => { x with slotMiss := satInc x.slotMiss }).modBar fun b => { b with ovrSat := b.ovrSat || full }

/-- The slot in progress ends on a core with the beat in progress (R37 to R39). -/
def State.slotEnd (s : State) (c : Fin 12) : State :=
  let e := s.entryNow c
  if entryType e ≠ 1 then s
  else if !(s.cbar c).entered then s.slotMiss c
  else if (s.cbar c).done then s
  else s.overrun c (entryPart e)

/-- Cores held by BARWAIT go on (R34, R840). -/
def State.releaseHolds (s : State) : State := s.mapCores fun _ v => { v with barHold := false }

/-! Work placed at the start of a beat. -/

/-- CLOCK_SET. -/
def clockSetOp : BitVec 8 := 0x12

/-- A CLOCK_SET whose sections left are in `aux`: those that `p` selects switch; when none is left, it is done (19 R773). -/
def State.clockJob (s : State) (p : Fin 3 → Bool) (c : Cmd) : State :=
  let left := (List.finRange 3).filter fun sec => c.aux.testBit sec.val && !p sec
  let mhz := (param c.params 1).setWidth 12
  let clk := Vector.ofFn fun (sec : Fin 3) => if c.aux.testBit sec.val && p sec then mhz else s.pwr.secClk[sec]
  let s := { s with pwr := { s.pwr with secClk := clk } }
  if left.isEmpty then s.finish c .ok [] else s.setCmd { c with aux := left.foldl (fun m sec => m + 2 ^ sec.val) 0 }

/-- The sections that `p` selects switch their clocks for every outstanding CLOCK_SET (19 R773). -/
def State.clockSwitch (s : State) (p : Fin 3 → Bool) : State :=
  (s.rings.active.filter fun c => c.op = clockSetOp).foldl (fun s c => s.clockJob p c) s

/-- The current beat is REST on every present core of a section. -/
def State.sectionRests (s : State) (sec : Fin 3) : Bool := (s.coresOf sec).all fun c => entryType (s.entryNow c) = 0

/-- A slice whose budget has expired is aborted (R46, 15 R632). -/
def State.endLateSlice (s : State) : State :=
  match s.health.running with
  | some sl => if sl.start + sliceBudget sl.num.toNat ≤ s.tempo.count then s.endSlice sl 2 0 else s
  | none => s

/-- A beat has started: quiet windows, clock switches and Rehearsal (section 2.4; 19 R773; 15 R629). `was` tells that the beat
before was refresh-quiet, `len` is the beat's length in counts. -/
def State.beatStarts (s : State) (was : Bool) (len : Nat) : State :=
  let s := s.quietBeat was
  let s := s.clockSwitch s.sectionRests
  s.renewCycle.offerBeat s.bar.beat.toNat len

/-- The current beat is marked refresh-quiet in a bar that runs. -/
def State.marked (s : State) : Bool := s.bar.run && s.bar.running && s.bar.cfg.refq.getLsbD s.bar.beat.toNat

/-! Bars (sections 2.1 and 2.5). -/

/-- Counts from a Tempo time to the next grid point (R50). -/
def BarCfg.gridLag (g : BarCfg) (time : Int) : Nat := (((g.offset.toNat * 10 : Nat) - time) % (g.barLen : Int)).toNat

/-- The stretch in counts that a lag in units of 10 ns causes (R51, R52). -/
def BarCfg.stretchOf (g : BarCfg) (lag : Nat) : Nat :=
  if lag ≤ 100 || g.period.toNat ≤ lag + 100 then 0 else min lag (g.period.toNat / 8) * 10

/-- The beat in progress has this length in counts, stretch included (R22). -/
def BarUnit.lenOf (b : BarUnit) (k : Nat) : Nat := b.cfg.beatLen + if k + 1 = b.cfg.beats.toNat then b.stretch else 0

/-- The lag L of a bar boundary at this count, in units of 10 ns; a part of a unit is dropped (R50; DESIGN CHOICE, log 27). With
ALIGN = 0 there is none (R52). -/
def State.lagNow (s : State) : Nat := if s.bar.cfg.align then s.bar.cfg.gridLag s.tempo.time / 10 else 0

/-- A bar begins at this count (R23, R27, R50, R51, Table 2.6). -/
def State.startBar (s : State) (was : Bool) : State :=
  let s := s.adopt
  let g := s.bar.cfg
  let lag := s.lagNow
  let stretch := if g.align then g.stretchOf lag else 0
  let now := s.tempo.count
  let s := s.modBar fun b =>
    { b with running := true, cnt := b.nextCnt, nextCnt := b.nextCnt + 1, beat := 0, barStart := now, beatStart := now,
             stretch, lag := BitVec.ofNat 24 lag, firstAt := none }
  let s := s.traceSync.releaseHolds
  let s := (s.presentCores.foldl State.slotStart s).edge 12 17
  (s.traceBeatEnd.beatStarts was (s.bar.lenOf 0)).sendSample

/-- A capture point of R47 falls on the end of the bar in progress. -/
def State.capturePoint (s : State) : Bool :=
  s.refrain.role = .active && s.refrain.en && s.bar.cnt.toNat % max 1 s.refrain.k.toNat = 0

/-- A capture point, valid or skipped (R47, R48). -/
def State.capture (s : State) : State :=
  if !s.capturePoint then s
  else if s.presentCores.all fun c => entryType (s.entryAt c (s.bar.cfg.beats.toNat - 1)) = 0 then s.captureAt s.bar.cnt.toNat
  else s.modBar fun b => { b with captNoRest := satInc b.captNoRest, captSkip := true }

/-- Bars stop at a bar boundary, at which armed staging is judged and the lag is reported as at any other (Tables 2.4 and 2.5, R27,
R50, R53, R59). -/
def State.stopBars (s : State) (was : Bool) : State :=
  let s := s.adopt
  let lag := BitVec.ofNat 24 s.lagNow
  let s := (s.modBar fun b => { b with running := false, beat := 0, stretch := 0, lag, nextCnt := b.cnt + 1 }).releaseHolds
  ((s.quietBeat was).traceBeatEnd).sendSample

/-- The bar in progress ends (R18, R20, R23, Tables 1.5 and 2.5); another follows where `go` holds. -/
def State.endBarThen (s : State) (go : Bool) : State :=
  let s := s.until (s.bar.barStart + s.bar.cfg.barLen + s.bar.stretch)
  let was := s.marked
  let s := (s.presentCores.foldl State.slotEnd s).endLateSlice
  let s := s.capture
  let s := s.roleBoundary.stepDue
  if go then s.startBar was else s.stopBars was

/-- The bar in progress ends; another follows while RUN is 1. -/
def State.endBar (s : State) : State := s.endBarThen s.bar.run

/-- The beat in progress ends within the bar (R31, R34, R36 to R39). -/
def State.nextBeat (s : State) : State :=
  let k := s.bar.beat.toNat
  let s := s.until (s.bar.barStart + (k + 1) * s.bar.cfg.beatLen)
  let was := s.marked
  let changed := s.presentCores.filter fun c => !entryEq (s.entryAt c k) (s.entryAt c (k + 1))
  let s := (changed.foldl State.slotEnd s).endLateSlice
  let s := s.modBar fun b => { b with beat := b.beat + 1, beatStart := s.tempo.count }
  let s := changed.foldl State.slotStart s.releaseHolds
  s.traceBeatEnd.beatStarts was (s.bar.lenOf (k + 1))

/-! RUN (section 2.8). -/

/-- The count at which the first bar begins (R58). -/
def State.firstBarAt (s : State) : Nat :=
  let at_ := s.tempo.count + 1000
  if s.bar.cfg.align then at_ + s.bar.cfg.gridLag (s.tempo.time + 1000) else at_

/-- RUN is set: armed staging is adopted and the first bar is placed (R58), or a pending stop is withdrawn (R841). -/
def State.runSet (s : State) : State :=
  if s.bar.run then s
  else
    let s := s.modBar fun b => { b with run := true, resumeDue := false }
    if s.bar.running then s.quietBeat false
    else
      let s := s.adopt
      s.modBar fun b => { b with firstAt := some s.firstBarAt }

/-- RUN is cleared: bars stop at the next boundary, or the first bar does not begin (R840). A step and a clock switch that wait
take place at once where no boundary follows or none is needed (12 R509, 19 R773). -/
def State.runClear (s : State) : State :=
  if !s.bar.run then s
  else
    let was := s.marked
    let s := (s.modBar fun b => { b with run := false, resumeDue := false }).quietBeat was
    let s := s.clockSwitch fun _ => true
    if s.bar.running then s else ((s.modBar fun b => { b with firstAt := none }).releaseHolds).stepDue

/-- The first bar begins (R58; R62 after Fermata). The start of the first bar is a bar boundary (R23). -/
def State.firstBar (s : State) : State :=
  match s.bar.firstAt with
  | some t =>
    if s.bar.run && !s.bar.running then (s.until t).roleBoundary.stepDue.startBar false else s
  | none => s

/-! The window (section 2.6). -/

/-- The initiator may write the RWL fields of the window (R55). -/
def State.barAdmits (s : State) (w : Initiator) : Bool := !(s.bar.lock && w.locked)

/-- A write of BAR_CTL. -/
def State.barCtl (s : State) (w : Initiator) (v : Word) : State :=
  let s := if v.getLsbD 1 then s.modBar fun b => { b with garm := true } else s
  if !s.barAdmits w then s else if v.getLsbD 0 then s.runSet else s.runClear

/-- A staging word of a core is written (R29). -/
def State.stage_ (s : State) (c : Fin 12) (n : Fin 6) (v : Word) : State :=
  if !s.hasCore c then s
  else s.modCbar c fun x => if x.arm then { x with stgIgn := true } else { x with bst := x.bst.set n v }

/-- A write of CORE_BCTL. -/
def State.coreBctl (s : State) (c : Fin 12) (v : Word) : State :=
  if !s.hasCore c then s else s.modCbar c fun x => { x with arm := x.arm || v.getLsbD 0, bwmode := v.getLsbD 1 }

/-- A write of OVR_CLR (R42). -/
def State.ovrClr (s : State) (v : Word) : State :=
  s.modBar fun b => { b with ovr := Vector.ofFn fun (p : Fin 16) => if p.val ≠ 0 && v.getLsbD p.val then 0 else b.ovr[p] }

/-- The core of a block of the window. -/
def barCore (off : Nat) : Fin 12 := ⟨(off - 0x100) / 16 % 12, Nat.mod_lt _ (by decide)⟩

/-- BAR_STAT. -/
def BarUnit.stat (b : BarUnit) : Word :=
  flag 24 0 b.running ||| flag 24 1 (b.running && b.stretch != 0) ||| flag 24 2 b.cfgReject ||| flag 24 3 b.captSkip |||
    flag 24 4 b.ovrSat ||| flag 24 5 b.resumed

/-- A read of a core's block. -/
def State.coreBarRead (s : State) (c : Fin 12) (off : Nat) : Word :=
  if !s.hasCore c then 0
  else
    let x := s.cbar c
    if h : off < 6 then x.bst[off]
    else if h : off < 12 then x.btc[off - 6]
    else match off with
    | 12 => flag 24 0 x.arm ||| flag 24 1 x.bwmode
    | 13 => flag 24 0 x.done ||| flag 24 1 (s.core c).barHold ||| flag 24 2 x.reject ||| flag 24 3 x.stgIgn ||| flag 24 4 x.bcReason
    | 14 => x.slotMiss
    | _ => x.lastOvr

/-- A read of the Bar window (Table 2.4). -/
def State.barRegRead (s : State) (off : Nat) : Word :=
  let b := s.bar
  if h : 0x11 ≤ off ∧ off ≤ 0x1F then b.ovr[off - 0x10]
  else if 0x100 ≤ off && off < 0x1C0 then s.coreBarRead (barCore off) (off % 16)
  else match off with
  | 0x0 => flag 24 0 b.run ||| flag 24 1 b.garm
  | 0x1 => b.staged.period
  | 0x2 => b.staged.beats.setWidth 24 ||| flag 24 8 b.staged.align
  | 0x3 => b.staged.offset
  | 0x4 => b.staged.refq
  | 0x5 => b.staged.reh
  | 0x6 => b.stat
  | 0x7 => lo24 b.cnt
  | 0x8 => hi24 b.cnt
  | 0x9 => if b.running then b.beat.setWidth 24 else 0
  | 0xA => if b.running then satNat 24 ((s.tempo.count - b.beatStart) / 10) else 0
  | 0xB => if b.cfg.align then b.lag else 0
  | 0xC => b.captNoRest
  | 0xD => flag 24 0 b.lock
  | _ => 0

/-- A write of a staging register or of BAR_LOCK, which are RWL. -/
def BarUnit.stageWrite (b : BarUnit) (off : Nat) (v : Word) : BarUnit :=
  match off with
  | 0x1 => { b with staged := { b.staged with period := v } }
  | 0x2 => { b with staged := { b.staged with beats := bits v 0 5, align := v.getLsbD 8 } }
  | 0x3 => { b with staged := { b.staged with offset := v } }
  | 0x4 => { b with staged := { b.staged with refq := v } }
  | 0x5 => { b with staged := { b.staged with reh := v } }
  | 0xD => { b with lock := v.getLsbD 0 }
  | _ => b

/-- A write to the Bar window (Table 2.4, R55). -/
def State.barRegWrite (s : State) (w : Initiator) (off : Nat) (v : Word) : State :=
  if 0x100 ≤ off && off < 0x1C0 then
    let c := barCore off
    if h : off % 16 < 6 then s.stage_ c ⟨off % 16, h⟩ v
    else match off % 16 with
    | 12 => s.coreBctl c v
    | 13 => if s.hasCore c then s.modCbar c fun x => { x with reject := w1c x.reject (v.getLsbD 2), stgIgn := w1c x.stgIgn (v.getLsbD 3) } else s
    | _ => s
  else match off with
  | 0x0 => s.barCtl w v
  | 0x6 => s.modBar fun b =>
      { b with cfgReject := w1c b.cfgReject (v.getLsbD 2), captSkip := w1c b.captSkip (v.getLsbD 3),
               ovrSat := w1c b.ovrSat (v.getLsbD 4), resumed := w1c b.resumed (v.getLsbD 5) }
  | 0xE => s.ovrClr v
  | _ => if s.barAdmits w then s.modBar fun b => b.stageWrite off v else s

/-! BAR_CONFIG (10 Table 10.4, R414, R422, R864). -/

/-- The staged values and GARM in one number, which an aborted BAR_CONFIG restores. -/
def BarUnit.packStaged (b : BarUnit) : Nat :=
  (b.staged.period ++ b.staged.beats ++ flag 1 0 b.staged.align ++ b.staged.offset ++ b.staged.refq ++ b.staged.reh ++ flag 1 0 b.garm).toNat

/-- The staged values and GARM restored from that number. -/
def BarUnit.unpackStaged (b : BarUnit) (n : Nat) : BarUnit :=
  let x := BitVec.ofNat 103 n
  { b with
    staged := { period := bits x 79 24, beats := bits x 74 5, align := x.getLsbD 73, offset := bits x 49 24, refq := bits x 25 24, reh := bits x 1 24 }
    garm := x.getLsbD 0 }

end Sys2Proof.Machine
end

