-- ==== Sys2Proof/Machine/Bar.lean ====
section
/-! DEFINITION. The events of the Bar unit, the writes to its window that have rows of their own, and the bar and beats command
group (02; 10 Table 10.4). -/
namespace Sys2Proof.Machine

/-! Boundaries. -/

/-- BAR_BOUNDARY: the last beat of a bar ends (02 R23). -/
def execBarBoundary (s : State) : Host.Outcome State Fault Refusal :=
  ifOn s fun s => if s.bar.running && s.bar.cfg.beats.toNat ≤ s.bar.beat.toNat + 1 then s.endBar else s

/-- BEAT_BOUNDARY: a beat ends within its bar (02 R31). -/
def execBeatBoundary (s : State) : Host.Outcome State Fault Refusal :=
  ifOn s fun s => if s.bar.running && s.bar.beat.toNat + 1 < s.bar.cfg.beats.toNat then s.nextBeat else s

/-- FIRST_BAR_START (02 R58). -/
def execFirstBarStart (s : State) : Host.Outcome State Fault Refusal := ifOn s State.firstBar

/-! Register writes. -/

/-- RUN_SET: a write of 1 to RUN, GARM not written (02 R55, R58, R841). -/
def execRunSet (w : Initiator) (s : State) : Host.Outcome State Fault Refusal := ifActs w s fun s => s.barCtl w 1

/-- RUN_CLEAR: a write of 0 to RUN (02 R55, R840). -/
def execRunClear (w : Initiator) (s : State) : Host.Outcome State Fault Refusal := ifActs w s fun s => s.barCtl w 0

/-- GARM: a write of 1 to GARM, RUN as it is (02 R53). -/
def execGarm (w : Initiator) (s : State) : Host.Outcome State Fault Refusal :=
  ifActs w s fun s => s.barCtl w (2 ||| flag 24 0 s.bar.run)

/-- ARM: a write of CORE_BCTL (02 R27). -/
def execArm (w : Initiator) (c : Fin 12) (v : Word) (s : State) : Host.Outcome State Fault Refusal := ifActs w s fun s => s.coreBctl c v

/-- STAGING_WRITE (02 R29). -/
def execStagingWrite (w : Initiator) (c : Fin 12) (n : Fin 6) (v : Word) (s : State) : Host.Outcome State Fault Refusal :=
  ifActs w s fun s => s.stage_ c n v

/-- OVR_CLR (02 R42). -/
def execOvrClr (w : Initiator) (v : Word) (s : State) : Host.Outcome State Fault Refusal := ifActs w s fun s => s.ovrClr v

/-! Commands. -/

/-- BAR_CONFIG stages a configuration and commits it (02 R53; 10 R414, R864). -/
def barConfigCmd : CmdDef :=
  { mkCmd barConfigOp 5 0 srcM (fun c s =>
      let old := s.bar.packStaged
      (s.modBar fun b =>
        { b with staged := { period := param c.params 0, beats := bits (param c.params 1) 0 5, align := (param c.params 1).getLsbD 8,
                             offset := param c.params 2, refq := param c.params 3, reh := param c.params 4 }
                 garm := true }, .running old)) with
    long := true, abortable := true
    bad := fun _ _ ps => param ps 1 &&& ~~~0x11F != 0
    busy := fun s _ => (s.running barConfigOp).isSome }

/-- BAR_CONFIG. -/
def execBarConfig (h : Header) (p b off refq reh : Word) (s : State) : Host.Outcome State Fault Refusal :=
  cmdRow barConfigCmd h [p, b, off, refq, reh] s

/-- BAR_RUN writes RUN (02 section 2.8). While a BAR_CONFIG is outstanding it holds BAR_CONFIG alone, not the whole Bar unit: BAR_RUN,
BAR_LOCK and BAR_READ are served, and it is a BAR_RUN that ends a BAR_CONFIG of stopped bars (10 R410, R864; DEDUCED, log 28). -/
def barRunCmd : CmdDef :=
  { mkCmd 0x21 1 0 srcM (fun c s => (s.barCtl .conductor (param c.params 0), .final .ok [])) with
    bad := fun _ _ ps => above (param ps 0) 1 }

/-- BAR_RUN. -/
def execBarRun (h : Header) (run : Word) (s : State) : Host.Outcome State Fault Refusal := cmdRow barRunCmd h [run] s

/-- BAR_LOCK sets LOCK (02 R55). -/
def barLockCmd : CmdDef := mkCmd 0x22 0 0 srcM (okCmd fun s => s.modBar fun b => { b with lock := true })

/-- BAR_LOCK. -/
def execBarLock (h : Header) (s : State) : Host.Outcome State Fault Refusal := cmdRow barLockCmd h [] s

/-- BAR_READ: bar count, OVR_CNTp and CAPT_NOREST (10 Table 10.4, R863). -/
def barReadCmd : CmdDef :=
  { mkCmd 0x23 1 4 srcMP (fun c s =>
      (s, .final .ok [lo24 s.bar.cnt, hi24 s.bar.cnt, s.bar.ovr[(bits (param c.params 0) 0 4).toFin], s.bar.captNoRest])) with
    denied := fun _ r ps => r != 0 && (param ps 0).toNat ≠ r.toNat
    bad := fun _ _ ps => param ps 0 = 0 || 15 < (param ps 0).toNat }

/-- BAR_READ. -/
def execBarRead (h : Header) (part : Word) (s : State) : Host.Outcome State Fault Refusal := cmdRow barReadCmd h [part] s

end Sys2Proof.Machine
end

