-- ==== Sys2Proof/Machine/Duet.lean ====
section
/-! DEFINITION. The commands and events of the Duet link (13). -/
namespace Sys2Proof.Machine

/-- An event of the link, which a variant without lanes does not have (00 R5). -/
def ifDuet (s : State) (f : State → State) : Host.Outcome State Fault Refusal := ifOn s fun s => if s.die.variant.duet then f s else s

/-- A write of a link register that belongs to the Conductor (13 R576). -/
def ifCdrDuet (w : Initiator) (s : State) (f : State → State) : Host.Outcome State Fault Refusal :=
  ifActs w s fun s => if w.isCdr && s.die.variant.duet then f s else s

/-! Registers. -/

/-- EN of DL_CTL is set. -/
def execDlEnSet (w : Initiator) (s : State) : Host.Outcome State Fault Refusal := ifCdrDuet w s State.linkOn

/-- EN of DL_CTL is cleared (13 R561, Table 13.6). -/
def execDlEnClear (w : Initiator) (s : State) : Host.Outcome State Fault Refusal := ifCdrDuet w s State.linkOff

/-- TRAIN is written 1 (13 R557, R563). -/
def execTrainWrite (w : Initiator) (s : State) : Host.Outcome State Fault Refusal := ifCdrDuet w s State.linkTrain

/-- LANE_MASK is written (13 R557). -/
def execLaneMaskWrite (w : Initiator) (v : Word) (s : State) : Host.Outcome State Fault Refusal := ifCdrDuet w s fun s => s.laneMask (bits v 0 4)

/-- LMAPn_CTL is written, by the Conductor or at monitor level (13 R576, R577). -/
def execLmapCtlWrite (w : Initiator) (n : Fin 16) (v : Word) (s : State) : Host.Outcome State Fault Refusal :=
  ifActs w s fun s => if s.mayW1c w && s.die.variant.duet then s.lmapCtl n v else s

/-! Channels. -/

/-- The link unit takes a descriptor (13 R564). -/
def execTransactionTake (ups : List Upset) (s : State) : Host.Outcome State Fault Refusal := ifDuet s fun s => (s.upsets ups).takeDesc

/-- The next flit of a channel leaves (13 R551, R554). -/
def execFlitTransmit (chanB : Bool) (s : State) : Host.Outcome State Fault Refusal :=
  ifDuet s fun s =>
    match s.mayTransmit (if chanB then s.duet.b else s.duet.c) (if chanB then 2047 else 512) with
    | none => s
    | some f =>
      s.modDuet fun d =>
        let d := { d with bucket := d.bucket - f.payload.length, lastSent := some f }.onLane
        if chanB then { d with b := { d.b with sent := d.b.sent + 1 } } else { d with c := { d.c with sent := d.c.sent + 1 } }

/-- 1 µs has passed since a sequenced flit was accepted (13 R546). -/
def execAckDeadline (s : State) : Host.Outcome State Fault Refusal :=
  ifDuet s fun s =>
    match s.duet.c.ackDue, s.duet.b.ackDue with
    | some a, some b => (s.until (min a b)).sendAck
    | some a, none => (s.until a).sendAck
    | none, some b => (s.until b).sendAck
    | none, none => s

/-- A LINK or T flit arrives: it is discarded where 13 R542 or R543 says so. -/
def State.linkFlit (s : State) (ch : BitVec 2) (ft : BitVec 3) (f : RxFlit) (act : State → List Word → State) : State :=
  if s.duet.state = .off || s.duet.state = .fatal then s else if flitGood f ch ft then act s (flitBody f) else s.badFlit

/-- ACK (13 R547). -/
def execAckFlit (fl : RxFlit) (s : State) : Host.Outcome State Fault Refusal :=
  ifDuet s fun s => s.linkFlit 0 1 fl fun s ws =>
    if s.duet.state = .up then
      (s.modDuet fun d => d.ackBoth (bits (ws.getD 0 0) 0 12) (bits (ws.getD 1 0) 0 12)).refill
    else s

/-- NAK (13 R547). -/
def execNakFlit (fl : RxFlit) (s : State) : Host.Outcome State Fault Refusal :=
  ifDuet s fun s => s.linkFlit 0 2 fl fun s ws =>
    if s.duet.state = .up then
      s.modDuet fun d =>
        if ws.getD 0 0 = 1 then { d with c := d.c.replayFrom (bits (ws.getD 1 0) 0 12) }
        else if ws.getD 0 0 = 2 then { d with b := d.b.replayFrom (bits (ws.getD 1 0) 0 12) } else d
    else s

/-! Training, loss and hold. -/

/-- TRAIN flit (13 section 13.10, R557, R583). -/
def execTrainFlit (fl : RxFlit) (s : State) : Host.Outcome State Fault Refusal :=
  ifDuet s fun s => s.linkFlit 0 3 fl fun s ws =>
    let g (i : Nat) : Word := ws.getD i 0
    s.retrain.modDuet fun d =>
      { d with partnerEpoch := g 1, partnerDrain := g 5
               info := some { fmt := g 0, epoch := g 1, sysId := g 2, lanes := bits (g 3) 0 4, width := bits (g 4) 1 2, speed := bits (g 4) 4 2, drain := g 5, duet := g 6 } }

/-- The lanes that training has locked and that this device may use. -/
def State.trained (s : State) (usable : BitVec 4) : BitVec 4 := usable &&& s.duet.laneMask &&& s.die.variant.laneMask

/-- Training has locked the lanes that `usable` names (13 R583, Table 13.12): the TRAIN flit names them to the partner, and where the
partner's has come, width and speed are agreed. -/
def execTrainingComplete (usable : BitVec 4) (s : State) : Host.Outcome State Fault Refusal :=
  ifDuet s fun s =>
    let train := s.duet.state = .training || s.duet.state = .retrain
    let s := if train then s.sendTrain (s.trained usable) else s
    match s.duet.info with
    | none => s
    | some t =>
      let lanes := s.trained usable &&& t.lanes
      let w := min (cap2 s.duet.tgtWidth) (cap2 t.width)
      if t.fmt ≠ 1 || !train then s
      else match agreeWidth lanes w with
      | none => s
      | some (k, l) =>
        let s := (s.agreeVersions t.duet).modDuet fun d =>
          { d with width := BitVec.ofNat 2 k, speed := BitVec.ofNat 2 (min (cap2 d.tgtSpeed) (cap2 t.speed)), lanes := l, info := none }
        if s.duet.state = .training then s.newSession.sendSample
        else (s.sendLink 4 [s.duet.localEpoch, s.duet.c.expect.setWidth 24, s.duet.b.expect.setWidth 24]).modDuet fun d => { d with resumeSent := true }

/-- The hold timer has expired (13 R560). -/
def State.holdExpired (s : State) : State :=
  s.loseSession.modDuet fun d => { d with state := .training, info := none, resumeSent := false }

/-- RESUME (13 R559, R560). -/
def execResumeFlit (fl : RxFlit) (s : State) : Host.Outcome State Fault Refusal :=
  ifDuet s fun s => s.linkFlit 0 4 fl fun s ws =>
    let g (i : Nat) : Word := ws.getD i 0
    if s.duet.state ≠ .retrain || !s.duet.resumeSent then s
    else if s.duet.holdEnd.any fun e => e ≤ s.tempo.count then s.holdExpired
    else if g 0 = s.duet.sessEpoch then
      (s.modDuet fun d =>
        let d := d.ackBoth (bits (g 1) 0 12) (bits (g 2) 0 12)
        { d with state := .up, train := false, holdEnd := none, resumeSent := false, txCount := 0
                 c := { d.c with sent := 0, nakSent := false }, b := { d.b with sent := 0, nakSent := false } }.setFlag 0).refill.finishOp 0x41 .ok []
    else (s.modDuet fun d => { d with partnerEpoch := g 0 }).loseSession.newSession.sendSample

/-- The session is lost at once, and a side that is not in FATAL trains (13 R562). -/
def State.linkDown (s : State) : State :=
  s.loseSession.modDuet fun d => { d with state := .training, info := none, resumeSent := false, holdEnd := none }

/-- FATAL (13 R562). -/
def execFatalFlit (fl : RxFlit) (s : State) : Host.Outcome State Fault Refusal :=
  ifDuet s fun s => s.linkFlit 0 5 fl fun s _ => s.linkDown.modDuet fun d => d.setFlag 3

/-- CLOSE (13 R562). -/
def execCloseFlit (fl : RxFlit) (s : State) : Host.Outcome State Fault Refusal := ifDuet s fun s => s.linkFlit 0 6 fl fun s _ => s.linkDown

/-- HOLD_TIMER_EXPIRY (13 R560). -/
def execHoldTimerExpiry (s : State) : Host.Outcome State Fault Refusal :=
  ifDuet s fun s => match s.duet.state, s.duet.holdEnd with
    | .retrain, some e => (s.until e).holdExpired
    | _, _ => s

/-- Loss of signal or of lock on a lane (13 R557, 15 Table 15.3 class 6). -/
def execLossOfSignal (lane : Fin 4) (s : State) : Host.Outcome State Fault Refusal :=
  ifDuet s fun s =>
    let s := s.post (BitVec.ofNat 12 (0x600 + lane.val)) 1
    if s.duet.lanes.getLsbD lane.val then s.retrain else s

/-- The uncorrectable codewords of a lane less than 1 ms ago. -/
def State.recentCodewords (s : State) (lane : Fin 4) : List (Nat × Nat) :=
  s.duet.uncorr[lane].filter fun p => s.tempo.count < p.1 + 1000000

/-- Codewords with errors arrive on a lane (13 R557, 15 Table 15.3 class 6): uncorrectable ones, and ones that the FEC has
corrected, which FEC_CORR_CNT counts (R576). -/
def execUncorrectableCodewords (lane : Fin 4) (w : Codewords) (s : State) : Host.Outcome State Fault Refusal :=
  ifDuet s fun s =>
    if s.duet.state = .off then s
    else
      let n := w.uncorrectable
      let s := s.modDuet fun d => { d with fecCorr := satAdd d.fecCorr w.corrected }
      if n = 0 then s
      else
        let recent := s.recentCodewords lane
        let s := if recent.isEmpty then s.post (BitVec.ofNat 12 (0x600 + lane.val)) 1 else s
        let all := recent ++ [(s.tempo.count, n)]
        let s := s.modDuet fun d => { d with uncorr := d.uncorr.set lane all, fecUncorr := satAdd d.fecUncorr n }
        if 8 < (all.map (·.2)).sum && s.duet.lanes.getLsbD lane.val then s.retrain else s

/-! Transactions. -/

/-- REQ_CMD (13 R571). -/
def execReqCmd (fl : RxFlit) (s : State) : Host.Outcome State Fault Refusal := ifDuet s fun s => s.sequenced 1 0 fl fun s ws => s.packetC true ws

/-- CONT (13 R567). -/
def execContFlit (fl : RxFlit) (s : State) : Host.Outcome State Fault Refusal := ifDuet s fun s => s.sequenced 1 3 fl State.continueC

/-- REQ_RD (13 R568). -/
def execReqRd (fl : RxFlit) (ups : List Upset) (s : State) : Host.Outcome State Fault Refusal :=
  ifDuet s fun s => (s.upsets ups).sequenced 1 1 fl State.serveRead

/-- RSP (13 R569). -/
def execRspFlit (fl : RxFlit) (s : State) : Host.Outcome State Fault Refusal := ifDuet s fun s => s.sequenced 1 2 fl fun s ws => s.packetC false ws

/-- WR_HEAD (13 R568). -/
def execWrHead (fl : RxFlit) (s : State) : Host.Outcome State Fault Refusal := ifDuet s fun s => s.sequenced 2 0 fl State.writeHead

/-- RD_HEAD (13 R569). -/
def execRdHead (fl : RxFlit) (s : State) : Host.Outcome State Fault Refusal := ifDuet s fun s => s.sequenced 2 1 fl State.readHead

/-- DATA (13 R567). -/
def execDataFlit (fl : RxFlit) (s : State) : Host.Outcome State Fault Refusal := ifDuet s fun s => s.sequenced 2 2 fl State.landData

/-! Channel T. -/

/-- SAMPLE, `dt` counts from now (13 R574). -/
def execSampleFlit (fl : RxFlit) (dt : Nat) (s : State) : Host.Outcome State Fault Refusal :=
  ifDuet s fun s => (s.elapse dt).linkFlit 3 0 fl fun s ws => if s.duet.state = .up then s.onSample ws else s

/-- 1 000 000 counts have passed since the last SAMPLE, and no bar of at most 1 ms runs (13 R572). -/
def execSampleTimer (s : State) : Host.Outcome State Fault Refusal :=
  ifDuet s fun s =>
    if s.duet.state = .up && !(s.bar.running && s.bar.cfg.period.toNat * 10 ≤ 1000000) then (s.until (s.duet.sampleAt + 1000000)).sendSample
    else s

/-! Commands. -/

/-- The unit is absent (13 section 13.8). -/
def noDuet : State → List Word → Bool := fun s _ => !s.die.variant.duet

/-- DUET_STATUS (14 section 14.7). -/
def duetStatusCmd : CmdDef :=
  { mkCmd 0x40 0 6 srcMDG (fun _ s =>
      (s, .final .ok [s.roleWord, s.duet.width.setWidth 24 ||| (s.duet.speed.setWidth 24 <<< 2), s.duet.partnerEpoch,
        if s.refrain.role = .active then s.refrain.lastApplied.getD 0xFFFFFF else s.refrain.lastCommit, s.protoWord, s.refrain.flags.setWidth 24])) with
    absent := noDuet }

/-- DUET_STATUS. -/
def execDuetStatus (h : Header) (s : State) : Host.Outcome State Fault Refusal := cmdRow duetStatusCmd h [] s

/-- LINK_TRAIN writes the targets and sets TRAIN; it ends when the link is UP (13 section 13.8). -/
def linkTrainCmd : CmdDef :=
  { mkCmd 0x41 1 0 srcM (fun c s =>
      ((s.modDuet fun d => { d with tgtWidth := bits (param c.params 0) 0 2, tgtSpeed := bits (param c.params 0) 4 2 }).linkTrain, .running 0)) with
    long := true
    absent := noDuet
    bad := fun s _ ps =>
      let w := (bits (param ps 0) 0 3).toNat
      above (param ps 0) 6 || (param ps 0).getLsbD 3 || 2 < w || s.die.variant.lanes < 2 ^ w || 2 < (bits (param ps 0) 4 2).toNat
    busy := fun s _ => (s.running 0x41).isSome }

/-- LINK_TRAIN. -/
def execLinkTrain (h : Header) (width speed : Word) (s : State) : Host.Outcome State Fault Refusal := cmdRow linkTrainCmd h [width ||| (speed <<< 4)] s

/-- DUET_TIMING writes HOLD_MS and BATON_TO (13 section 13.8, 14 Table 14.6). -/
def duetTimingCmd : CmdDef :=
  { mkCmd 0x45 2 0 srcM (fun c => okCmd (fun s =>
      (s.modDuet fun d => { d with holdMs := bits (param c.params 0) 0 8 }).modRf fun r => { r with batonTo := bits (param c.params 1) 0 7 }) c) with
    absent := noDuet
    bad := fun _ _ ps => (param ps 0).toNat < 1 || 250 < (param ps 0).toNat || (param ps 1).toNat < 2 || 64 < (param ps 1).toNat }

/-- DUET_TIMING. -/
def execDuetTiming (h : Header) (hold baton : Word) (s : State) : Host.Outcome State Fault Refusal := cmdRow duetTimingCmd h [hold, baton] s

/-- The opcodes that are queries without effect (10 Table 10.4). -/
def queryOps : List (BitVec 8) := [0x00, 0x01, 0x07, 0x23, 0x30, 0x40, 0x52, 0x60, 0x80, 0x92]

/-- PARTNER_CMD (10 R419, 13 R571, 14 R593). The final reply may carry up to 8 result words (10 Table 10.4). -/
def partnerCmdDef : CmdDef :=
  { mkCmd 0x48 0 0 srcM (fun c s =>
      let query := queryOps.contains (bits (param c.params 0) 16 8)
      match s.duet.state with
      | .off => (s, .final (if query then .linkLost else .outcomeUnknown) [])
      | .fatal => (s, .final (if query then .linkLost else .outcomeUnknown) [])
      | _ => (s.sendInner c.ring c.seq query c.params, .running 0)) with
    long := true
    lenOk := fun ps => 2 ≤ ps.length && (bits (param ps 0) 0 12).toNat = ps.length
    denied := fun s _ _ => s.refrain.trained && !s.refrain.protoOk
    absent := noDuet
    bad := fun _ _ ps => bits (param ps 0) 16 8 = 0x48
    results := fun _ => 8 }

/-- PARTNER_CMD. -/
def execPartnerCmd (h : Header) (inner : List Word) (s : State) : Host.Outcome State Fault Refusal := cmdRow partnerCmdDef h inner s

end Sys2Proof.Machine
end

