-- ==== Sys2Proof/Machine/Health.lean ====
section
/-! DEFINITION. The commands and events of Rehearsal and of the Fault ledger (15). -/
namespace Sys2Proof.Machine

/-! Slices. -/

/-- REH_PLAN (15 R637). -/
def rehPlanCmd : CmdDef :=
  { mkCmd 0x50 2 0 srcM (fun c => okCmd (fun s => s.modHealth fun h =>
      { h with sets := bits (param c.params 0) 0 7, period := bits (param c.params 1) 0 8, nextNum := 0, cycleTime := 0, lateSet := false }) c) with
    bad := fun _ _ ps => above (param ps 0) 7 || (param ps 1).toNat < 1 || 168 < (param ps 1).toNat }

/-- REH_PLAN. -/
def execRehPlan (h : Header) (sets hours : Word) (s : State) : Host.Outcome State Fault Refusal := cmdRow rehPlanCmd h [sets, hours] s

/-- A slice number that names no slice of any variant, and one of an absent unit. -/
def badSlice : State → BitVec 5 → List Word → Bool := fun _ _ ps => !sliceKnown (param ps 0).toNat
/-- A slice of an absent unit (15 R638). -/
def absentSlice : State → List Word → Bool := fun s ps => sliceKnown (param ps 0).toNat && !s.slicePresent (param ps 0).toNat

/-- REH_RUN waits for its beat (15 R638). -/
def rehRunCmd : CmdDef :=
  { mkCmd 0x51 1 2 srcMG (fun _ s => (s, .running 0)) with
    long := true, abortable := true, bad := badSlice, absent := absentSlice }

/-- REH_RUN. -/
def execRehRun (h : Header) (num : Word) (s : State) : Host.Outcome State Fault Refusal := cmdRow rehRunCmd h [num] s

/-- No beat has come for a REH_RUN within 10^9 counts (15 R638). -/
def execRehRunTimeout (s : State) : Host.Outcome State Fault Refusal :=
  ifOn s fun s => match s.askedSlices with
    | c :: _ => (s.until (c.startAt + 1000000000)).finish c .notPermitted []
    | [] => s

/-- REH_STATUS (10 Table 10.4). -/
def rehStatusCmd : CmdDef :=
  { mkCmd 0x52 1 4 srcMDG (fun c s => let x := s.history (param c.params 0).toNat; (s, .final .ok [x.runs, x.fails, x.overruns, x.last])) with
    bad := badSlice, absent := absentSlice }

/-- REH_STATUS. -/
def execRehStatus (h : Header) (num : Word) (s : State) : Host.Outcome State Fault Refusal := cmdRow rehStatusCmd h [num] s

/-- A slice ends within its budget, PASS or FAIL (15 R631). -/
def execSliceEnd (fail : Bool) (slow : BitVec 10) (s : State) : Host.Outcome State Fault Refusal :=
  ifOn s fun s => match s.health.running with
    | some sl => if s.tempo.count ≤ sl.start + sliceBudget sl.num.toNat then s.endSlice sl (if fail then 1 else 0) slow else s
    | none => s

/-- A slice's budget expires (15 R632). -/
def execSliceOverrun (s : State) : Host.Outcome State Fault Refusal :=
  ifOn s fun s => match s.health.running with
    | some sl => (s.until (sl.start + sliceBudget sl.num.toNat)).endSlice sl 2 0
    | none => s

/-- The period of the cycle is over before the cycle (15 R635). -/
def execCoverLate (s : State) : Host.Outcome State Fault Refusal :=
  ifOn s fun s =>
    if s.health.rehEn && s.bar.run && !s.health.lateSet && s.planned.any fun n => s.health.nextNum ≤ n then
      (s.elapse (s.health.periodNs - s.health.cycleTime)).modHealth fun h => { h with coverLate := true, lateSet := true }
    else s

/-! The ledger. -/

/-- A source word that names no source of any variant. -/
def badSource : State → BitVec 5 → List Word → Bool := fun _ _ ps =>
  let n := (param ps 0).toNat
  let i := n % 256
  !(match n / 256 with
    | 1 => i < 12 | 2 => i < 12 | 3 => i < 27 | 4 => i < 68 | 5 => i < 21 | 6 => i < 4 | 7 => i < 12 | 8 => i < 3 | 9 => i < 4 | 10 => i = 0 | 11 => i < 3 | _ => false)
/-- A source of an absent unit (00 R7). -/
def absentSource : State → List Word → Bool := fun s ps => !badSource s 0 ps && !s.ledgerSource (bits (param ps 0) 0 12)

/-- LEDGER_READ (15 R653). -/
def ledgerReadCmd : CmdDef :=
  { mkCmd 0x60 1 6 srcMG (fun c s =>
      let x := s.lsrc (param c.params 0).toNat
      (s, .final .ok [BitVec.ofNat 24 x.c, BitVec.ofNat 24 x.window, BitVec.ofNat 24 x.thresh, x.events, BitVec.ofNat 24 x.state.code, x.hour])) with
    bad := badSource, absent := absentSource }

/-- LEDGER_READ. -/
def execLedgerRead (h : Header) (src : Word) (s : State) : Host.Outcome State Fault Refusal := cmdRow ledgerReadCmd h [src] s

/-- LEDGER_CFG (15 R653). -/
def ledgerCfgCmd : CmdDef :=
  { mkCmd 0x61 3 0 srcMG (fun c => okCmd (fun s =>
      let src := (param c.params 0).toNat
      (s.putSrc src { s.lsrc src with window := (param c.params 1).toNat, thresh := (param c.params 2).toNat }).flashLedger) c) with
    absent := absentSource
    bad := fun s r ps => badSource s r ps || (param ps 1).toNat < 1 || 8760 < (param ps 1).toNat || (param ps 2).toNat < 1 || 4095 < (param ps 2).toNat }

/-- LEDGER_CFG. -/
def execLedgerCfg (h : Header) (src window thresh : Word) (s : State) : Host.Outcome State Fault Refusal := cmdRow ledgerCfgCmd h [src, window, thresh] s

/-- LEDGER_CLEAR (15 R646, R652). -/
def ledgerClearCmd : CmdDef :=
  { mkCmd 0x62 1 0 srcG (fun c => okCmd (fun s =>
      let src := (param c.params 0).toNat
      let s := s.modHealth fun h => { h with repairs := h.repairs.filter fun x => x ≠ src }
      (s.putSrc src { s.lsrc src with c := 0, state := .clean, events := 0 }).bothMirrors) c) with
    denied := fun s _ ps => (s.lsrc (param ps 0).toNat).state = .repaired
    bad := badSource, absent := absentSource }

/-- LEDGER_CLEAR. -/
def execLedgerClear (h : Header) (src : Word) (s : State) : Host.Outcome State Fault Refusal := cmdRow ledgerClearCmd h [src] s

/-- REPAIR (15 R651). An undo of a source that is not REPAIRED is refused. -/
def repairCmd : CmdDef :=
  { mkCmd 0x63 2 0 srcMG (fun c s =>
      if param c.params 1 = 2 && (s.lsrc (param c.params 0).toNat).state ≠ .repaired then (s, .final .notPermitted [])
      else let r := s.runRepair c; (r.1, .running r.2.aux)) with
    long := true
    absent := absentSource
    denied := fun s r ps => !absentSource s ps && ((!badSource s r ps && repairKind (param ps 0).toNat = .report) || (param ps 1 = 2 && r ≠ 17))
    bad := fun s r ps => badSource s r ps || !(param ps 1 = 1 || param ps 1 = 2)
    busy := fun s _ => (s.running 0x63).isSome }

/-- REPAIR with action 1. -/
def execRepairApply (h : Header) (src : Word) (s : State) : Host.Outcome State Fault Refusal := cmdRow repairCmd h [src, 1] s

/-- REPAIR with action 2. -/
def execRepairUndo (h : Header) (src : Word) (s : State) : Host.Outcome State Fault Refusal := cmdRow repairCmd h [src, 2] s

/-- Conductor firmware drains the event queue (15 R643). -/
def execLedgerDrain (s : State) : Host.Outcome State Fault Refusal := ifOn s fun s => if s.cdrRuns then s.drain else s

/-- A source leaks (15 R644). -/
def execLeakEvent (src : BitVec 12) (s : State) : Host.Outcome State Fault Refusal :=
  ifOn s fun s => if (s.lsrc src.toNat).c = 0 then s else (s.untilService (s.lsrc src.toNat).nextLeak).leak src.toNat

/-- The next repair, a spare-way repair, is done (15 R648). -/
def execSpareWayRepair (s : State) : Host.Outcome State Fault Refusal :=
  ifOn s fun s => if s.cdrRuns then s.nextRepair fun k => k = .spare2 || k = .spare3 else s

/-- The next repair, a lane-degrade repair, is done (15 R649). -/
def execLaneDegrade (s : State) : Host.Outcome State Fault Refusal :=
  ifOn s fun s => if s.cdrRuns then s.nextRepair fun k => k = .lane else s

/-- A service hour has passed (15 R657). -/
def execServiceHour (s : State) : Host.Outcome State Fault Refusal :=
  ifOn s fun s => if s.cdrRuns then (s.untilService s.health.hourAt).addHours else s

/-- A write of EVQ_POP removes the head entry (15 R661). -/
def execEvqPop (w : Initiator) (s : State) : Host.Outcome State Fault Refusal := ifActs w s fun s => s.healthWrite w 0x12 0

end Sys2Proof.Machine
end

