-- ==== Sys2Proof/Machine/Crypto.lean ====
section
/-! DEFINITION. The digests and signatures of 11 section 11.1: SHA-384 (FIPS 180-4), HMAC-SHA-384 (FIPS 198-1) and the
verification of ECDSA over P-384 (FIPS 186-5). -/
namespace Sys2Proof.Machine

/-! SHA-384 (R447). -/

/-- The greatest `r + m` with `m` below `2 ^ n` whose `k`-th power is at most `x`. -/
def rootBelow (k x : Nat) : Nat → Nat → Nat
  | 0, r => r
  | n + 1, r => rootBelow k x n (if (r + 2 ^ n) ^ k ≤ x then r + 2 ^ n else r)
/-- The first 64 bits of the fraction of the `k`-th root of a number below `2 ^ (4 * k)`. -/
def rootFraction (k x : Nat) : BitVec 64 := BitVec.ofNat 64 (rootBelow k (x * 2 ^ (64 * k)) 68 0)
/-- The first 80 prime numbers: those below 410. -/
def firstPrimes : List Nat := (List.range 410).filter fun n => 2 ≤ n && (List.range n).all fun d => d < 2 || n % d != 0
/-- The 80 round constants: the fractions of the cube roots of the first 80 primes (FIPS 180-4 section 4.2.3). -/
def shaK : List (BitVec 64) := firstPrimes.map (rootFraction 3)
/-- The initial hash value: the fractions of the square roots of the ninth to the sixteenth prime (FIPS 180-4 section 5.3.4). -/
def shaInit : List (BitVec 64) := ((firstPrimes.drop 8).take 8).map (rootFraction 2)

/-- The eight working variables. -/
structure ShaVars where
  a : BitVec 64
  b : BitVec 64
  c : BitVec 64
  d : BitVec 64
  e : BitVec 64
  f : BitVec 64
  g : BitVec 64
  h : BitVec 64
deriving DecidableEq, Repr

/-- One round. -/
def shaRound (v : ShaVars) (kw : BitVec 64 × BitVec 64) : ShaVars :=
  let s1 := v.e.rotateRight 14 ^^^ v.e.rotateRight 18 ^^^ v.e.rotateRight 41
  let ch := (v.e &&& v.f) ^^^ (~~~v.e &&& v.g)
  let t1 := v.h + s1 + ch + kw.1 + kw.2
  let s0 := v.a.rotateRight 28 ^^^ v.a.rotateRight 34 ^^^ v.a.rotateRight 39
  let maj := (v.a &&& v.b) ^^^ (v.a &&& v.c) ^^^ (v.b &&& v.c)
  { a := t1 + (s0 + maj), b := v.a, c := v.b, d := v.c, e := v.d + t1, f := v.e, g := v.f, h := v.g }

/-- The message schedule: the newest word first, `n` words still to come. -/
def shaSchedule : Nat → List (BitVec 64) → List (BitVec 64)
  | 0, ws => ws.reverse
  | n + 1, ws =>
    let g (i : Nat) : BitVec 64 := ws.getD (i - 1) 0
    let s0 := (g 15).rotateRight 1 ^^^ (g 15).rotateRight 8 ^^^ (g 15) >>> 7
    let s1 := (g 2).rotateRight 19 ^^^ (g 2).rotateRight 61 ^^^ (g 2) >>> 6
    shaSchedule n ((s1 + g 7 + s0 + g 16) :: ws)

/-- One block of 16 words. -/
def shaBlock (hs : List (BitVec 64)) (ws : List (BitVec 64)) : List (BitVec 64) :=
  let g (i : Nat) : BitVec 64 := hs.getD i 0
  let v := (shaK.zip (shaSchedule 64 ws.reverse)).foldl shaRound { a := g 0, b := g 1, c := g 2, d := g 3, e := g 4, f := g 5, g := g 6, h := g 7 }
  [g 0 + v.a, g 1 + v.b, g 2 + v.c, g 3 + v.d, g 4 + v.e, g 5 + v.f, g 6 + v.g, g 7 + v.h]

/-- Bytes as one number, the first the most significant. -/
def beNat (bs : List Byte) : Nat := bs.foldl (fun n b => 256 * n + b.toNat) 0
/-- The `n` bytes of a number, most significant first. -/
def beBytes : Nat → Nat → List Byte
  | 0, _ => []
  | n + 1, x => beBytes n (x / 256) ++ [BitVec.ofNat 8 x]

/-- Words of eight bytes; `n` bounds their number. -/
def words64 : Nat → List Byte → List (BitVec 64)
  | 0, _ => []
  | n + 1, bs => if bs.isEmpty then [] else BitVec.ofNat 64 (beNat (bs.take 8)) :: words64 n (bs.drop 8)

/-- All blocks; `n` bounds their number. -/
def shaBlocks : Nat → List (BitVec 64) → List (BitVec 64) → List (BitVec 64)
  | 0, hs, _ => hs
  | n + 1, hs, ws => if ws.isEmpty then hs else shaBlocks n (shaBlock hs (ws.take 16)) (ws.drop 16)

/-- The padded message. -/
def shaPad (bs : List Byte) : List Byte :=
  let z := (239 - bs.length % 128) % 128
  bs ++ 0x80 :: List.replicate z 0 ++ beBytes 16 (8 * bs.length)

/-- The SHA-384 digest of bytes, 48 bytes. -/
def sha384 (bs : List Byte) : List Byte :=
  let m := shaPad bs
  ((shaBlocks (m.length / 128 + 1) shaInit (words64 (m.length / 8 + 1) m)).take 6).flatMap fun w => beBytes 8 w.toNat

/-- The keyed digest of bytes under a key of at most 128 bytes. -/
def hmac384 (key msg : List Byte) : List Byte :=
  let k := key ++ List.replicate (128 - key.length) 0
  sha384 (k.map (· ^^^ 0x5C) ++ sha384 (k.map (· ^^^ 0x36) ++ msg))

/-! P-384. -/

/-- The field. -/
def p384 : Nat := 2 ^ 384 - 2 ^ 128 - 2 ^ 96 + 2 ^ 32 - 1
/-- The order of the base point. -/
def n384 : Nat := 0xffffffffffffffffffffffffffffffffffffffffffffffffc7634d81f4372ddf581a0db248b0a77aecec196accc52973
/-- The coefficient b. -/
def b384 : Nat := 0xb3312fa7e23ee7e4988e056be3f82d19181d9c6efe8141120314088f5013875ac656398d8a2ed19d2a85c8edd3ec2aef
/-- The base point. -/
def g384 : Nat × Nat :=
  (0xaa87ca22be8b05378eb1c71ef320ad746e1d3b628ba79b9859f741e082542a385502f25dbf55296c3a545e3872760ab7,
   0x3617de4a96262c6f5d9e98bf9292dc29f8f41dbd289a147ce9da3113b5f0b8c00a60b1ce1d7e819d7a431d7c90ea0e5f)

/-- A power modulo `m`, over the low `n` bits of the exponent. -/
def powMod (m b e : Nat) : Nat → Nat
  | 0 => 1
  | n + 1 => let r := powMod m b (e / 2) n; let q := r * r % m; if e % 2 = 1 then q * b % m else q

/-- The inverse modulo a prime. -/
def invMod (m x : Nat) : Nat := powMod m (x % m) (m - 2) 384

/-- A difference modulo `m`. -/
def subMod (m a b : Nat) : Nat := (a + (m - b % m)) % m

/-- A point of the curve; none is the point at infinity. -/
abbrev Pt := Option (Nat × Nat)

/-- The sum of two points. -/
def ptAdd : Pt → Pt → Pt
  | none, q => q
  | p, none => p
  | some (x1, y1), some (x2, y2) =>
    if x1 = x2 ∧ (y1 + y2) % p384 = 0 then none
    else
      let l := if x1 = x2 then subMod p384 (3 * x1 * x1) 3 * invMod p384 (2 * y1) % p384 else subMod p384 y2 y1 * invMod p384 (subMod p384 x2 x1) % p384
      let x3 := subMod p384 (l * l) (x1 + x2)
      some (x3, subMod p384 (l * subMod p384 x1 x3) y1)

/-- A multiple of a point, over the low `n` bits of the factor. -/
def ptMul (p : Pt) (k : Nat) : Nat → Pt
  | 0 => none
  | n + 1 => let r := ptMul p (k / 2) n; let d := ptAdd r r; if k % 2 = 1 then ptAdd d p else d

/-- The point lies on the curve. -/
def onCurve (x y : Nat) : Bool := x < p384 && y < p384 && y * y % p384 = subMod p384 (x * x * x + b384) (3 * x)

/-- The signature r, s verifies over a digest under the key Q (R447, R449). -/
def ecdsaOk (key sig digest : List Byte) : Bool :=
  let qx := beNat (key.take 48)
  let qy := beNat (key.drop 48)
  let r := beNat (sig.take 48)
  let s := beNat (sig.drop 48)
  if onCurve qx qy && 0 < r && r < n384 && 0 < s && s < n384 then
    let w := invMod n384 s
    match ptAdd (ptMul (some g384) (beNat digest * w % n384) 384) (ptMul (some (qx, qy)) (r * w % n384) 384) with
    | some (x, _) => x % n384 = r
    | none => false
  else false

/-- The device-unique key (11 R460). -/
def deviceKeyBytes : List Byte := (List.range 48).map Config.deviceKey

end Sys2Proof.Machine
end

