-- ==== Sys2Proof/Machine/TrustOps.lean ====
section
/-! DEFINITION. Fuses, slot records, image checks, the Boot sentinel, what Conductor firmware does at a start, and the loading and
release of Voice images (11; 10 R441, R444; 15 R665; 19 section 19.7; log 14). -/
namespace Sys2Proof.Machine

/-- The state with the boot unit changed. -/
def State.modBoot (s : State) (f : Boot → Boot) : State := { s with boot := f s.boot }

/-! Fuses (section 11.4). -/

/-- A row whose DATA, CHK and DONE are all programmed (R458). -/
def fullRow (d : Word) : BitVec 32 := ((1 : BitVec 1) ++ fuseChk d) ++ d
/-- A row of the factory (Table 11.6). -/
def factoryRow (r : Nat) : Bool := r < 16
/-- A row of the device-unique key. -/
def keyRow (r : Nat) : Bool := 166 ≤ r && r < 182
/-- The fuses of a row; those of the device-unique key read 0 (R460). -/
def State.fuseRow (s : State) (r : Nat) : BitVec 32 :=
  if factoryRow r then fullRow (Config.factory r) else if keyRow r then 0 else Tbl.get s.boot.fuses r 0
/-- DATA of a row. -/
def State.fuseData (s : State) (r : Nat) : Word := bits (s.fuseRow r) 0 24
/-- State of a row: 0 BLANK, 1 VALID, 2 INVALID (R458). -/
def State.fuseState (s : State) (r : Nat) : Nat :=
  let x := s.fuseRow r
  if x = 0 then 0 else if x.getLsbD 31 && bits x 24 7 = fuseChk (bits x 0 24) then 1 else 2
/-- A row cannot be programmed (R461). -/
def State.rowRefused (s : State) (r : Nat) : Bool := factoryRow r || keyRow r || s.fuseState r != 0
/-- A row whose programming is cut short: `m` tells which of its fuses were reached, CHK only after all of DATA, and never DONE
(R458). -/
def cutRow (d : Word) (m : BitVec 32) : BitVec 32 :=
  let row := (fullRow d).setWidth 31
  let data := (row.setWidth 24 &&& m.setWidth 24).setWidth 32
  if data.setWidth 24 = d then (row &&& (m.setWidth 31 ||| 0xFFFFFF)).setWidth 32 else data

/-- The state with a row's programming finished; one that fails leaves part of it (R458, log 7). -/
def State.blow (s : State) (r : Nat) (d : Word) (ok : Bool) : State :=
  if ok then s.modBoot fun b => { b with fuses := Tbl.put b.fuses r (fullRow d) }
  else
    let x := s.draw
    x.2.modBoot fun b => { b with fuses := Tbl.put b.fuses r (cutRow d (Config.cutFuse x.1)) }

/-- The 16 rows from `base` are all VALID (R459). -/
def State.rowsUsable (s : State) (base : Nat) : Bool := (List.range 16).all fun i => s.fuseState (base + i) = 1
/-- The digest that 16 rows hold. -/
def State.rowsDigest (s : State) (base : Nat) : List Byte := wordBytes ((List.range 16).map fun i => s.fuseData (base + i))
/-- First row of a key slot's digest. -/
def keyBase (k : Nat) : Nat := 16 + 16 * k
/-- First row of the debug key digest. -/
def debugKeyBase : Nat := 86
/-- A key slot is revoked. -/
def State.revoked (s : State) (k : Nat) : Bool := s.fuseState (80 + k) != 0
/-- ALLOW_UNTESTED is blown. -/
def State.allowUntested (s : State) : Bool := s.fuseState 84 = 1 && s.fuseData 84 = 0x5A5A5A
/-- The floor F (section 11.6). -/
def State.floor (s : State) : Nat := ((List.range 64).takeWhile fun i => s.fuseState (102 + i) != 0).length

/-- Rows of the thermometer are programmed up to `target` (R470, R471): those that are BLANK, since no other can be (R461). -/
def State.raiseFloor (s : State) (target : Nat) : State :=
  let f := s.floor
  (List.range (min 64 target - f)).foldl (fun s i => if s.fuseState (102 + f + i) = 0 then s.blow (102 + f + i) 1 true else s) s

/-! Slot records (section 11.2). -/

/-- A word of on-chip flash, by private word address. -/
def State.flashWord (s : State) (a : Nat) : Word := Memory.word flashDefault s.flash a
/-- Words of on-chip flash. -/
def State.flashWords (s : State) (a n : Nat) : List Word := Memory.words flashDefault s.flash a n
/-- The Working slot. -/
def workingBase : Nat := 0x200000
/-- The Golden slot. -/
def goldenBase : Nat := 0x2E0000
/-- Words of a slot. -/
def slotWords : Nat := 0xE0000
/-- The configuration and ledger area. -/
def configBase : Nat := 0x3C0000
/-- The slot of SLOT parameters: 0 Working, 1 Golden. -/
def slotBase (golden : Bool) : Nat := if golden then goldenBase else workingBase

/-- A copy of the slot record, if it is valid (R453). -/
def State.recordCopy (s : State) (b : Bool) : Option (List Word) :=
  let ws := s.flashWords (configBase + if b then 0x1000 else 0) 64
  if ws.getD 0 0 = 0x525352 && recordCrc (ws.take 63) = ws.getD 63 0 then some ws else none

/-- Which copy is in use: false A, true B (R453). -/
def State.recordInUse (s : State) : Option Bool :=
  match s.recordCopy false, s.recordCopy true with
  | none, none => none
  | some _, none => some false
  | none, some _ => some true
  | some a, some b => some (decide (0 < (b.getD 1 0 - a.getD 1 0).toInt))

/-- The slot record; with no valid copy every field is 0 and WSTATE is COMMITTED (R453). -/
def State.slotRecord (s : State) : List Word :=
  ((s.recordInUse.bind fun b => s.recordCopy b)).getD ((List.replicate 64 0).set 2 2)

/-- WSTATE. -/
def State.wstate (s : State) : Word := s.slotRecord.getD 2 0
/-- VOICE_FLOOR. -/
def State.voiceFloor (s : State) : Nat := (s.slotRecord.getD 3 0).toNat

/-- A new record is written into the copy that is not in use (R454). -/
def State.writeRecord (s : State) (f : List Word → List Word) : State :=
  let old := s.slotRecord
  let ws := (((f old).set 0 0x525352).set 1 (old.getD 1 0 + 1)).take 63
  let base := configBase + if s.recordInUse = some false then 0x1000 else 0
  { s with flash := Memory.setWords flashDefault s.flash base (ws ++ [recordCrc ws]) }

/-! Image checks (section 11.3). -/

/-- What a verifier reads of an image: its words, the greatest length, the floor of RB_INDEX, the tag for the sealed mode, and
whether a read met an uncorrectable error. -/
structure ImgCheck where
  voice   : Bool
  word    : Nat → Word
  maxLen  : Nat
  floor   : Nat
  tag     : Option (List Word)
  readErr : Bool

/-- Words `a` to `a + n - 1` of an image. -/
def ImgCheck.words (x : ImgCheck) (a n : Nat) : List Word := (List.range n).map fun i => x.word (a + i)
/-- IMG_LEN. -/
def ImgCheck.len (x : ImgCheck) : Nat := (x.word 4).toNat
/-- Check 1 of Table 11.5. -/
def ImgCheck.headerOk (x : ImgCheck) : Bool :=
  x.word 0 = 0x980040 && x.word 1 = 0x564C45 && x.word 2 = 1 && x.word 3 = (if x.voice then 2 else 1) &&
    (x.words 18 46).all fun w => w = 0
/-- Check 2 of Table 11.5. -/
def ImgCheck.lenOk (x : ImgCheck) : Bool := 65 ≤ x.len && x.len ≤ x.maxLen
/-- The key slot that KEY_ID names. -/
def ImgCheck.key (x : ImgCheck) : Nat := (bits (x.word 7) 0 2).toNat
/-- RB_INDEX. -/
def ImgCheck.rollback (x : ImgCheck) : Nat := (x.word 6).toNat
/-- Signature over the image, or keyed digest (check 6; R456). -/
def ImgCheck.authentic (x : ImgCheck) : Bool :=
  match x.tag with
  | none => ecdsaOk (wordBytes (x.words x.len 32)) (wordBytes (x.words (x.len + 32) 32)) (sha384 (wordBytes (x.words 0 x.len)))
  | some t => wordBytes t = hmac384 deviceKeyBytes (wordBytes (x.words 0 (x.len + 64)))

/-- The reason of the first check that fails, or 0 (R455, Table 11.5). -/
def State.imageReason (s : State) (x : ImgCheck) : BitVec 8 :=
  if x.readErr then 0x07
  else if !x.headerOk then 0x01
  else if !x.lenOk then 0x02
  else if s.revoked x.key then 0x03
  else if !(s.rowsUsable (keyBase x.key) && s.rowsDigest (keyBase x.key) = sha384 (wordBytes (x.words x.len 32))) then 0x04
  else if x.rollback < x.floor then 0x05
  else if x.authentic then 0 else 0x06

/-- The check of a slot's Conductor image. -/
def State.slotCheck (s : State) (golden readErr : Bool) : ImgCheck where
  voice := false
  word := fun i => s.flashWord (slotBase golden + i)
  maxLen := 917440
  floor := s.floor
  tag := none
  readErr := readErr

/-- The rollback index that a slot's image gives, or 0 where its header is not one (R470; log 23). -/
def State.slotRollback (s : State) (golden : Bool) : Nat :=
  let x := s.slotCheck golden false
  if x.headerOk && x.lenOk then x.rollback else 0

/-- The thermometer follows the lower rollback index of the two slots (R470, R471). -/
def State.floorFollows (s : State) : State := s.raiseFloor (min (s.slotRollback false) (s.slotRollback true))

/-! The Boot sentinel (section 11.5). -/

/-- SYS_ID (03 section 3.6). -/
def State.sysId (s : State) : Word := match s.die.variant with | .mrn2412 => 0x4D2412 | .mrn2408 => 0x4D2408 | .mrn2404 => 0x4D2404

/-- Some key slot is usable and not revoked (R466). -/
def State.someKey (s : State) : Bool := (List.range 4).any fun k => s.rowsUsable (keyBase k) && !s.revoked k

/-- The 100 samples of GOLD_N, bit i being the one taken 100 µs times i after step 3 began: Golden is forced where all of them are low
(R463, Table 11.7 step 3). -/
def goldForced (gold : BitVec 100) : Bool := gold = 0

/-- What the sentinel finds: SLOT, WHY, the two reasons and whether a slot verified (R464, R465). -/
structure BootResult where
  golden : Bool
  why    : BitVec 2
  wr     : BitVec 8
  gr     : BitVec 8
  ok     : Bool

/-- The sentinel's choice and verification. -/
def State.verifyBoot (s : State) (goldLow errWorking errGolden : Bool) : BootResult :=
  let g := s.imageReason (s.slotCheck true errGolden)
  if goldLow then { golden := true, why := 1, wr := 0, gr := g, ok := g = 0 }
  else
    let w := if s.wstate != 2 then 0x08 else s.imageReason (s.slotCheck false errWorking)
    if w = 0 then { golden := false, why := 0, wr := 0, gr := 0, ok := true }
    else { golden := true, why := 2, wr := w, gr := g, ok := g = 0 }

/-- BOOT_INFO. -/
def BootResult.info (r : BootResult) : Word :=
  flag 24 0 r.golden ||| (r.why.setWidth 24 <<< 1) ||| (r.wr.setWidth 24 <<< 8) ||| (r.gr.setWidth 24 <<< 16)

/-- BOOTSTAT of a released Conductor (Table 11.8). -/
def BootResult.code (r : BootResult) : BitVec 3 := if !r.golden then 1 else if r.why = 1 then 2 else 3

/-- The sentinel is released from reset (R463, R496; Table 11.7): mailbox and session are clear, BOOTSTAT drives 000. -/
def State.startSentinel (s : State) : State :=
  { s with
    pwr := { s.pwr with state := .play, wdogEnd := none }
    cdr := Conductor.reset
    boot := { s.boot with sentinel := .running, startedAt := s.tempo.count, bootstat := 0, silentCode := 0, info := 0, imagesDone := false } }

/-! What Conductor firmware does at a start (log 14). -/

/-- BOOT_INFO is appended to the boot log (R468). -/
def State.bootLog (s : State) (v : Word) : State :=
  { s with
    flash := Memory.setWord flashDefault s.flash (configBase + 0x2000 + s.boot.logPos % 64) v
    boot := { s.boot with logPos := s.boot.logPos + 1 } }

/-- A mirror's CRC is correct (15 Table 15.7). -/
def mirrorValid (m : Vector Word 64) : Bool := recordCrc (m.toList.take 63) = m[63]

/-- The always-on mirror, or the flash mirror in its place (15 R665 step 1, R667). -/
def State.loadMirror (s : State) : State :=
  if mirrorValid s.health.mirror then s
  else
    s.modHealth fun h =>
      { h with
        mirror := if mirrorValid h.flashMirror then h.flashMirror else h.mirror
        ledger := h.flashLedger.map fun p => (p.1, { p.2 with nextLeak := s.pwr.service + p.2.period })
        hourAt := s.pwr.service + 3600, noticeAt := 0 }

/-- The way maps and LANE_MASK of a valid mirror are written (15 R665 step 2; 06 R235). -/
def State.writeMaps (s : State) : State :=
  if mirrorValid s.health.mirror then
    let m := s.health.mirror.toList
    let s := (List.finRange 3).foldl (fun s sec => s.wayMapWrite .conductor (.l2ways sec) (m.getD sec.val 0 &&& 0x1FF)) s
    let s := (List.finRange 4).foldl (fun s n => s.wayMapWrite .conductor (.l3en n) (m.getD (3 + n.val) 0)) s
    if s.die.variant.duet then s.laneMask ((m.getD 7 0).setWidth 4) else s
  else s

/-- The leaks that have fallen due are applied (15 R665 step 3). -/
def State.applyLeaks (s : State) : State := (s.health.ledger.map (·.1)).foldl (fun s src => s.leakDue src 4096) s

/-! Re-score (R485, R486, R493; 15 R659). -/

/-- Where the journal sector lies (Table 11.1). -/
def journalSector : Nat := configBase + 0x4000
/-- Where the journal record lies: word 0 holds the private address of the sector in work, and an erased word tells that none is
(DESIGN CHOICE, log 23). -/
def journalRecord : Nat := configBase + 0x3000
/-- The sectors that RESCORE refreshes, in order: the Working slot's, the Golden slot's, and the package's. -/
def rescoreSectors : List Nat :=
  ((List.range 224).map fun i => workingBase + 4096 * i) ++ ((List.range 224).map fun i => goldenBase + 4096 * i) ++
    (List.range 32).map fun i => configBase + 0x20000 + 4096 * i

/-- A sector is erased, and the words are programmed into it. -/
def State.programSector (s : State) (base : Nat) (ws : List Word) : State :=
  { s with flash := Memory.setWords flashDefault (Memory.clearWords s.flash base 4096) base ws }

/-- The sector is copied into the journal sector. -/
def State.journalCopy (s : State) (base : Nat) : State := s.programSector journalSector (s.flashWords base 4096)

/-- The journal record takes an address, or is cleared. -/
def State.journalMark (s : State) (w : Word) : State := s.programSector journalRecord [w]

/-- A sector that the journal record names is programmed back from the journal sector, and the record is cleared (R485, R486). -/
def State.journalEnd (s : State) : State :=
  let a := (s.flashWord journalRecord).toNat
  if rescoreSectors.contains a then (s.programSector a (s.flashWords journalSector 4096)).journalMark 0xFFFFFF else s

/-- One sector is refreshed (R485). -/
def State.refreshSector (s : State) (base : Nat) : State := ((s.journalCopy base).journalMark (BitVec.ofNat 24 base)).journalEnd

/-- A RESCORE that a reset cuts: how many sectors are done, and how far the next one is (log 7). -/
def State.cutRescore (s : State) : State :=
  let x := s.draw
  let n := Config.cutRescore x.1
  let s := (rescoreSectors.take (n % 481)).foldl State.refreshSector x.2
  match rescoreSectors[n % 481]? with
  | none => s
  | some base =>
    let k := n / 1443 % 4097
    match n / 481 % 3 with
    | 0 => s.programSector journalSector (s.flashWords base k)
    | 1 => (s.journalCopy base).journalMark (BitVec.ofNat 24 base)
    | _ =>
      let s := (s.journalCopy base).journalMark (BitVec.ofNat 24 base)
      s.programSector base (s.flashWords journalSector k)

/-- The slots and the package have been re-scored; RESCORE_H takes SERVICE_H (R485; 15 R659). -/
def State.rescored (s : State) : State :=
  let s := rescoreSectors.foldl State.refreshSector s
  (s.modHealth fun h => { h with mirror := h.mirror.set 9 h.mirror[8] }).mirrorUpdate

/-- The re-score is due (15 R658). -/
def State.rescoreDue (s : State) : Bool := decide (70128 ≤ s.serviceHours.toNat - (s.health.mirror[9]).toNat)

/-- The board configuration package verifies (R491, R492). -/
def State.packageOk (s : State) : Bool :=
  let base := configBase + 0x20000
  let len := (s.flashWord (base + 2)).toNat
  let key := wordBytes (s.flashWords (base + len) 32)
  s.flashWord base = 0x474643 && s.flashWord (base + 1) = 1 && 4 ≤ len && len ≤ 131008 &&
    ((List.range 4).any fun k => !s.revoked k && s.rowsUsable (keyBase k) && s.rowsDigest (keyBase k) = sha384 key) &&
    ecdsaOk key (wordBytes (s.flashWords (base + len + 32) 32)) (sha384 (wordBytes (s.flashWords base len)))

/-- The watchdog starts a full period (19 R797). -/
def State.kickWatchdog (s : State) : State :=
  { s with pwr := { s.pwr with wdogEnd := some (s.tempo.count + max 1 s.pwr.wdogPeriod.toNat * 1000000) } }

/-- What firmware does once it runs, before it releases a core (19 section 19.7). -/
def State.startDuties (s : State) : State :=
  let s := { s with
    stage := Memory.clearWords s.stage 0 (18 * 4096)
    stageBad := s.stageBad.filter fun a => decide (0x100000 + 18 * 4096 ≤ a) }
  let s := ((s.setRingWord 0 4 1).setRingWord 16 4 1).setRingWord 17 4 1
  let s := s.notice 0x01 (s.pwr.rstrsn &&& 0xFFFF)
  let s := (s.bootLog s.boot.info).journalEnd
  let s := s.loadMirror.writeMaps
  let s := s.applyLeaks.addHours
  let s := if s.boot.cold && s.rescoreDue then s.rescored else s
  let s := s.mirrorUpdate.floorFollows
  let s := if s.packageOk then s else s.bootLog 0x000006
  let s := { s with chorus := { s.chorus with en := true } }
  (s.modHealth fun h => { h with rehEn := true }).kickWatchdog

/-- The Conductor is released at the slot that verified (R463 step 9, R467; 04 R148), and its firmware starts. -/
def State.releaseConductor (s : State) (r : BootResult) : State :=
  let w (i : Nat) : Word := s.flashWord (slotBase r.golden + i)
  let s := { s with
    cdr := { Conductor.reset with run := .running }
    boot := { s.boot with
      sentinel := .released, bootstat := r.code, info := r.info, golden := r.golden
      duetWord := w 12, imgVer := w 5, imgIface := w 8, stepMask := (w 10, w 11) } }
  s.startDuties

/-- The sentinel finishes (R463 to R467). -/
def State.sentinelEnd (s : State) (gold : BitVec 100) (errWorking errGolden : Bool) : State :=
  let s := s.until (s.boot.startedAt + 10050000)
  let r := s.verifyBoot (goldForced gold) errWorking errGolden
  if r.ok then s.releaseConductor r
  else
    let code : BitVec 3 := if s.someKey then 4 else 5
    s.modBoot fun b => { b with sentinel := .silent, info := r.info, golden := r.golden, bootstat := code, silentCode := code }

/-! Release of Voice cores (10 R415, R416; 05 R183). -/

/-- The stepping is not one that the running image was tested on, and the fuse does not allow it (R476). -/
def State.gated (s : State) : Bool :=
  let i := s.die.index.toNat
  let bit := if i < 24 then s.boot.stepMask.1.getLsbD i else s.boot.stepMask.2.getLsbD (i - 24)
  !bit && !s.allowUntested

/-- The cores of a mask. -/
def maskCores (m : BitVec 12) : List (Fin 12) := allCores.filter fun c => m.getLsbD c.val

/-- Bars restart at the first release after Fermata (02 R62; 19 Table 19.4). -/
def State.resumeBars (s : State) : State :=
  if s.bar.resumeDue then
    let s := s.modBar fun b => { b with resumeDue := false }
    if s.bar.run && !s.bar.running then
      let s := (s.modBar fun b => { b with resumed := true }).adopt
      s.modBar fun b => { b with firstAt := some s.firstBarAt }
    else s
  else s

/-- A beat-expiry that pends is recorded at monitor level (05 R168). -/
def VoiceCore.takePending (v : VoiceCore) (bx : Option (BitVec 4 × BitVec 5)) : VoiceCore :=
  match bx with
  | some e => v.deferExpiry e.1 e.2
  | none => v

/-- A core starts at a pointer: monitor level, MPTAG 0, CSRs at reset (05 R183); a beat-expiry that pends for it is recorded. -/
def State.startCore (s : State) (c : Fin 12) (ptr : DWord) : State :=
  s.setCore c (({ VoiceCore.reset with released := true, pc := ptr, startPtr := ptr } : VoiceCore).takePending (s.core c).bx)

/-- Every core of a mask starts. -/
def State.startCores (s : State) (m : BitVec 12) (ptr : DWord) : State :=
  ((maskCores m).foldl (fun s c => s.startCore c ptr) s).resumeBars

/-- Some core of a mask is released. -/
def State.anyReleased (s : State) (m : BitVec 12) : Bool := (maskCores m).any fun c => (s.core c).released

/-! Voice images (section 11.7). -/

/-- A 32-bit byte address of two words. -/
def xAddr (lo hi : Word) : Nat := lo.toNat + (bits hi 0 8).toNat * 2 ^ 24
/-- A word of the external flash, from a byte address on (03 R72). -/
def State.xWord (s : State) (a i : Nat) : Word := ofLanes (s.xByte (a + 3 * i)) (s.xByte (a + 3 * i + 1)) (s.xByte (a + 3 * i + 2))

/-- The check of a Voice image at a byte address. -/
def State.voiceCheck (s : State) (a maxLen : Nat) (tag : Option Nat) (readErr : Bool) : ImgCheck where
  voice := true
  word := s.xWord a
  maxLen := min maxLen 0x800000
  floor := s.voiceFloor
  tag := tag.map fun t => (List.range 16).map (s.xWord t)
  readErr := readErr

/-- The first refused image is recorded for GET_INFO (R478). -/
def State.refuseImage (s : State) (v : Nat) (reason : BitVec 8) : State :=
  if s.boot.badReason = 0 then s.modBoot fun b => { b with badReason := reason, badIndex := BitVec.ofNat 8 v } else s

/-- An image is copied to LOAD, where its header, length and range allow it, and verified (R473, R474). The answer is its
reason. -/
def State.loadImage (s : State) (v : Nat) (readErr : Bool) : State × BitVec 8 :=
  let r := s.slotRecord
  let w (i : Nat) : Word := r.getD (5 + 8 * v + i) 0
  let a := xAddr (w 0) (w 1)
  let x := s.voiceCheck a (w 3).toNat (if w 2 = 2 then some (xAddr (w 4) (w 5)) else none) readErr
  let load := (paddrOf (x.word 13) (x.word 14)).toNat
  let fits := s.installed load && s.installed (load + x.len - 1)
  if !readErr && x.headerOk && x.lenOk && !fits then (s, 0x02)
  else
    let s := if !readErr && x.headerOk && x.lenOk then s.cdrWrite (wholeWords load (x.words 0 x.len)) else s
    let reason := s.imageReason x
    if reason != 0 then (s, reason)
    else if (x.word 8).toNat ≤ s.boot.imgIface.toNat && s.boot.imgIface.toNat ≤ (x.word 9).toNat then (s, 0) else (s, 0x09)

/-- Loads, verifies and, where `start` holds, starts the image of record `v` (R473 to R476). RELEASE_AUTH, which does not start it,
leaves an image alone of which a core runs: it was verified at that start (section 11.7; log 23). -/
def State.runImage (s : State) (start : Bool) (v : Nat) (readErr : Bool) : State :=
  let a := xAddr (s.slotRecord.getD (5 + 8 * v) 0) (s.slotRecord.getD (6 + 8 * v) 0)
  let mask := (s.xWord a 17).setWidth 12
  if !start && s.anyReleased mask then s
  else
    let r := s.loadImage v readErr
    let s := r.1
    if r.2 != 0 then s.refuseImage v r.2
    else if !start then s
    else if s.gated then s
    else if s.anyReleased mask then s.refuseImage v 0x0A
    else if mask = 0 || mask &&& ~~~s.coreMask != 0 then s.refuseImage v Config.refusedReason
    else (s.startCores mask (pair (s.xWord a 16) (s.xWord a 15))).modBoot fun b => { b with started := true }

/-- Every recorded image in record order (R473). -/
def State.runImages (s : State) (start : Bool) (bad : BitVec 4) : State :=
  (List.range (min 4 (s.slotRecord.getD 4 0).toNat)).foldl (fun s v => s.runImage start v (bad.getLsbD v)) s

/-! SLOT_WRITE. -/

/-- The code of SLOT_WRITE. -/
def slotWriteOp : BitVec 8 := 0x81

/-- First word of the target of a SLOT_WRITE. -/
def slotTarget (ps : List Word) : Nat := workingBase + (param ps 1).toNat

/-- The words of the range of a SLOT_WRITE that was aborted, or that a reset cut, are undefined (R482, log 7). -/
def State.slotUndefined (s : State) (c : Cmd) : State :=
  let n := (param c.params 4).toNat
  { s with
    free := s.free + n
    flash := Memory.setWords flashDefault s.flash (slotTarget c.params) ((List.range n).map fun i => Config.abortedWord (s.free + i)) }

/-- A command that changes flash, and that a reset cuts, leaves it as far as it has come (R480, R493). -/
def State.cutFlash (s : State) (c : Cmd) : State :=
  if c.op = 0x84 then s.cutRescore else if c.op = slotWriteOp then s.slotUndefined c else s

/-! Debug unlock (section 11.9). -/

/-- The mailbox issues a fresh challenge (Table 11.10, R488). -/
def State.newChallenge (s : State) : State :=
  let nonce := (List.range 7).map fun i => Config.nonce (s.free + i)
  let words := [s.sysId, s.sysStep] ++ nonce ++ [s.boot.info, BitVec.ofNat 24 s.boot.failures, 0]
  { s with free := s.free + 7, boot := { s.boot with chal := some words } }

/-- A certificate is signed by the debug key (R487). -/
def State.certSigned (s : State) (ws : List Word) : Bool :=
  let key := wordBytes ((ws.drop 16).take 32)
  s.rowsUsable debugKeyBase && s.rowsDigest debugKeyBase = sha384 key &&
    ecdsaOk key (wordBytes ((ws.drop 48).take 32)) (sha384 (wordBytes (ws.take 48)))

/-- The response in check opens a session (R487). -/
def State.responseOk (s : State) : Bool :=
  let ws := s.boot.resp
  s.fuseState 85 = 0 && (match s.boot.chal with | some c => decide ((ws.drop 4).take 12 = c) | none => false) && s.certSigned ws

/-- The check completes (R487 to R490; 16 R683). -/
def State.checkEnd (s : State) : State :=
  let s := if s.responseOk then
      let perms := bits (s.boot.resp.getD 2 0) 0 5
      s.modBoot fun b =>
        { b with session := true, perms, sessChal := b.chal.getD [], parts := if perms.getLsbD 4 then b.resp.getD 3 0 &&& 0xFFFE else 0
                 bootstat := if b.sentinel = .silent then 6 else b.bootstat }
    else s.modBoot fun b => { b with failures := b.failures + 1 }
  let again := s.boot.reqWait
  let s := s.modBoot fun b => { b with chal := none, resp := [], checking := false, reqWait := false }
  if again && s.boot.failures < 8 then s.newChallenge else s

/-- The session and the challenge end (R488, R490; 16 R683). -/
def State.closeSession (s : State) : State :=
  s.modBoot fun b =>
    { b with session := false, perms := 0, parts := 0, sessChal := [], chal := none, reqWait := false
             bootstat := if b.sentinel = .silent then b.silentCode else b.bootstat }

/-! Registers of the flash controller and the fuses (private space). -/

/-- The flash controller registers: FL_CTL and BOOT_INFO. -/
def State.flashRegRead (s : State) (off : Nat) : Word := if off = 0 then flag 24 0 s.boot.xipOff else if off = 0x10 then s.boot.info else 0
/-- FL_CTL.XIP_OFF is locked by itself until reset (section 11.8). -/
def State.flashRegWrite (s : State) (off : Nat) (v : Word) : State :=
  if off = 0 && v.getLsbD 0 then s.modBoot fun b => { b with xipOff := true } else s

/-- The fuse registers (section 11.4). -/
def State.fuseRegRead (s : State) (off : Nat) : Word :=
  if off < 0x100 then s.fuseData off
  else if off < 0x200 then BitVec.ofNat 24 (s.fuseState (off - 0x100))
  else if off = 0x200 then s.boot.fzRow.setWidth 24
  else if off = 0x201 then s.boot.fzWdata
  else if off = 0x203 then flag 24 0 s.boot.fzBusy.isSome ||| flag 24 1 s.boot.fzRefused
  else 0

/-- FZ_CMD: a row's programming starts, or REFUSED is set (R461). -/
def State.fuseCommand (s : State) : State :=
  let r := s.boot.fzRow
  if s.boot.fzBusy.isSome || s.rowRefused r.toNat then s.modBoot fun b => { b with fzRefused := true }
  else s.modBoot fun b => { b with fzBusy := some (r, b.fzWdata) }

/-- A write of the fuse registers. -/
def State.fuseRegWrite (s : State) (off : Nat) (v : Word) : State :=
  if off = 0x200 then s.modBoot fun b => { b with fzRow := bits v 0 8 }
  else if off = 0x201 then s.modBoot fun b => { b with fzWdata := v }
  else if off = 0x202 then (if v = 1 then s.fuseCommand else s)
  else if off = 0x203 then s.modBoot fun b => { b with fzRefused := w1c b.fzRefused (v.getLsbD 1) }
  else s

end Sys2Proof.Machine
end

