-- ==== Sys2Proof/Machine/PowerOps.lean ====
section
/-! DEFINITION. What each reset kind resets, entry to and wake from Fermata and Coda, and the power registers (19; 00 R836; 03
R97, R98). -/
namespace Sys2Proof.Machine

/-- The state with the power unit changed. -/
def State.modPwr (s : State) (f : Power → Power) : State := { s with pwr := f s.pwr }

/-! Reset causes (03 section 3.6). -/

/-- A SYS_RESET is due in this cycle: 100 µs after its reply (10 R417, log 28). -/
def State.resetDue (s : State) : Bool := s.rings.resetReq.isSome && s.rings.resetAt + 100000 = s.tempo.count

/-- Causes of resets that fall due in this cycle besides the one performed: the watchdog and a SYS_RESET (03 R98). -/
def State.alsoDue (s : State) : List Nat :=
  (if s.pwr.wdogEnd = some s.tempo.count then [5] else []) ++ (if s.resetDue then [4] else [])

/-- The code of LAST for a cause. -/
def lastCode (cause : Nat) : BitVec 4 := BitVec.ofNat 4 (cause + 1)

/-- A reset of a cause: its bit is set and LAST names it (03 R97). Of causes in the same cycle LAST names the lower-numbered one
(R98); resets between which no time passes are of the same cycle (log 36). -/
def Power.mark (p : Power) (cause : Nat) : Power :=
  let last := if p.instant && (bits p.rstrsn 12 4).toNat ≤ cause then bits p.rstrsn 12 4 else lastCode cause
  { p with rstrsn := setBits (setBit p.rstrsn cause true) 12 last, instant := true }

/-- The causes of a reset are recorded. -/
def State.markResets (s : State) (causes : List Nat) : State := s.modPwr fun p => causes.foldl Power.mark p

/-! The warm domain. -/

/-- Chorus after a warm reset (08 R327): levels that other units drive stay as they are (log 21). -/
def Chorus.warm (ch : Chorus) : Chorus :=
  { Chorus.reset with
    shared := (ch.shared.filter fun p => p.2.input).map fun p => (p.1, { sharedReset p.1 with input := true })
    priv := (ch.priv.filter fun p => p.2.input).map fun p => (p.1, { privReset (p.1 / 32) (p.1 % 32 + 16) with input := true }) }

/-- Field I/O after a warm reset: units disabled, outputs released, queues and locks empty (17 R732); the registers of the cold
domain otherwise keep their values (00 R836, log 23). The comparators are as a reset leaves them (18 R755). -/
def FieldIo.warm (io : FieldIo) : FieldIo where
  eth := io.eth.map fun e => { e with ctl := e.ctl &&& 0x1FC, mdio := none, pauseTo := 0 }
  can := io.can.map fun x =>
    { x with
      ctl := setBit x.ctl 0 false, handles := [], rxq := [], latch := []
      tx := x.tx.map fun t => { t with req := false } }
  spi := io.spi.map fun x => { x with ctl := setBit x.ctl 0 false, tx := [], rx := [], busy := none }
  i2c := io.i2c.map fun x => { x with ctl := setBit x.ctl 0 false, cmds := [], rx := [], onBus := false, asTarget := none, stretch := false }
  uart := io.uart.map fun x => { x with ctl := setBit x.ctl 0 false, tx := [], rx := [] }
  xspi := { io.xspi with ctl := setBit io.xspi.ctl 0 false }
  gpio := { io.gpio with oe := 0, lock := false }
  pwm := io.pwm.map fun p => { p with ctl := setBit p.ctl 0 false, activeAt := none, level := false, cut := false, compDue := none }
  pwmLock := false
  acmp := Vector.replicate 8 Acmp.reset
  acmpLock := false
  vddaLow := io.vddaLow

/-- Field I/O after a cold reset; what the board drives stays. -/
def FieldIo.cold (io : FieldIo) : FieldIo :=
  { FieldIo.reset with gpio := { FieldIo.reset.gpio with pins := io.gpio.pins, low := io.gpio.low }, vddaLow := io.vddaLow }

/-- Health after a reset: plan and status at their reset values, the ledger and the mirrors kept (15 R664, Table 15.10). -/
def Health.fresh (h : Health) (age : Vector Word 3) : Health :=
  { Health.reset with
    ageSec := age, mirror := h.mirror, ledger := h.ledger, flashLedger := h.flashLedger, flashMirror := h.flashMirror
    repairs := h.repairs, hourAt := h.hourAt, noticeAt := h.noticeAt }

/-- The boot unit at a reset: mailbox, session, FZ_STAT and the locks of the flash controller are clear (11 R490, R496); a row being
programmed and a command that changes flash are cut (log 7). ALIAS_WR, to which the spec gives no offset and no access, is a field
that no register reads, cleared at every reset (03 R82; DESIGN CHOICE, log 25). -/
def State.bootReset (s : State) (cold : Bool) : State :=
  let s := s.rings.active.foldl State.cutFlash s
  let s := match s.boot.fzBusy with
    | some (r, d) => s.blow r.toNat d false
    | none => s
  s.modBoot fun b =>
    { b with
      xipOff := false, aliasWr := false, fzRow := 0, fzWdata := 0, fzBusy := none, fzRefused := false, chal := none, resp := []
      checking := false, reqWait := false, session := false, perms := 0, parts := 0, sessChal := []
      failures := if cold then 0 else b.failures
      started := false, badReason := 0, badIndex := 0, cold := cold }

/-- What every reset resets (00 R836, Table 19.6). -/
def State.warmDomain (s : State) : State :=
  let s := { s with
    cores := Vector.replicate 12 VoiceCore.reset
    cdr := Conductor.reset
    bar := BarUnit.reset
    chorus := s.chorus.warm
    echo := Echo.reset
    rings := Rings.reset
    bm := BufMan.reset
    duet := { Duet.reset s.die.variant.laneMask with lastSampleAt := s.tempo.count }
    refrain := Refrain.reset s.die.variant.duet
    pwr := { s.pwr with fwake := false, wdogEnd := none, wasReleased := 0, wakeDue := none } }
  s.drawEpoch

/-- A warm reset (R789, R790; 06 R236, 09 R381, R858, 12 R530, 15 R664, 16 R693, 17 R732). -/
def State.warmReset (s : State) (cause : Nat) : State :=
  let causes := cause :: s.alsoDue
  let s := (s.dropSlices.bootReset false).warmDomain
  let s := { s with
    caches := { s.caches with
      lines := []
      ops := s.caches.ops.filter fun o => match o with | .initL2 _ _ => true | .initL3 _ _ => true | _ => false }
    mc := { s.mc.restart s.tempo.count with init := false, selfref := false, ahead := Vector.replicate 2 false, quietOver := false }
    health := s.health.fresh s.health.ageSec
    trace := s.trace.map TraceSec.warm
    io := s.io.warm
    tempo := { s.tempo with timeLatch := [], cntLatch := [] } }
  (s.stepDue.markResets causes).startSentinel

/-! The cold domain. -/

/-- A cold reset of every domain except the always-on domain (R789, R790; 06 R234, 12 R529, R531, 16 R692). -/
def State.coldReset (s : State) (cause : Nat) : State :=
  let causes := cause :: s.alsoDue
  let s := { s with tempo := Tempo.reset }
  let s := (s.bootReset true).warmDomain
  let s := { s with
    dram := [], chk := [], stage := [], stageBad := [], csram := []
    caches := Caches.reset
    mc := MemCtl.reset
    health := s.health.fresh (Vector.replicate 3 0)
    trace := Vector.replicate 3 TraceSec.reset
    io := s.io.cold
    pwr := { s.pwr with
      wakeGpio := 0, resume := 0, wdogPeriod := 1000, secClk := Vector.replicate 3 (BitVec.ofNat 12 (100 * s.fmax))
      secCyc := Vector.replicate 3 0, secRem := Vector.replicate 3 0, mainPwrEn := true } }
  s.markResets causes

/-- Tempo's time after a cold reset: that of the seconds counter, where it has been loaded (12 R529). -/
def State.loadTime (s : State) : State :=
  if s.pwr.aonLoaded then
    let phase := s.pwr.aonFrac * 32768 / 1000000000
    let time : Int := (s.pwr.aonSec.toNat * 1000000000 + phase * 30517578125 / 1000000 : Nat)
    s.modTempo fun t => { t with offset := time - t.count, code := codeCoarse, secDone := secondsOf time }
  else s

/-- The device leaves a cold reset, unless a trip or a rail still holds it (R764, R765). LOCAL_EPOCH takes a new value (13 R581). -/
def State.leaveReset (s : State) : State :=
  if s.pwr.tripped then s.modPwr fun p => { p with state := .thermal }
  else s.drawEpoch.loadTime.startSentinel

/-- A reset of a warm cause; a SYS_RESET 1 that is due in the same cycle makes it a cold one (03 R98; DESIGN CHOICE, log 36). -/
def State.resetFor (s : State) (cause : Nat) (cold : Bool) : State :=
  if cold || (s.resetDue && s.rings.resetReq = some true) then (s.coldReset cause).leaveReset else s.warmReset cause

/-! Sleep. -/

/-- Always-on time passes. -/
def State.aonFor (s : State) (ns : Nat) : State := s.modPwr fun p => p.runAon ns

/-- Counts that Tempo makes in `ns` nanoseconds of the TCXO, and the nanoseconds up to a count (12 R497). -/
def Tempo.countsIn (t : Tempo) (ns : Nat) : Nat := ns * t.pace / 100000000000
/-- Nanoseconds of sleep after which the count has reached `at_`. -/
def Tempo.sleepTo (t : Tempo) (at_ : Nat) : Nat := ((at_ - t.count) * 100000000000 + t.pace - 1) / t.pace

/-- Tempo asleep: count and time run; TIME_VALID stays low (12 R532), and EST_ERR follows the seconds (R515). -/
def Tempo.asleep (t : Tempo) (ns : Nat) : Tempo :=
  let dt := t.countsIn ns
  let t := { t.slew dt with count := t.count + dt }
  { t with estErr := satNat 24 t.estimate, secDone := secondsOf t.time }

/-- Time passes in Fermata, within one CODE: where a second begins in a trusted code, the seconds counter is loaded at it (12 R528). -/
def State.sleepPart (s : State) (ns : Nat) : State :=
  let before := s.tempo.secDone
  let s := { s with tempo := s.tempo.asleep ns }.aonFor ns
  if s.tempo.trusted && before < s.tempo.secDone then
    s.modPwr fun p => { p with aonSec := BitVec.ofInt 48 s.tempo.secDone, aonFrac := nanosOf s.tempo.time, aonLoaded := true }
  else s

/-- Holdover expires asleep: EXPIRED is set; TIME_VALID is low already. -/
def Tempo.expireAsleep (t : Tempo) : Tempo := if t.expiresAt ≤ t.count then { t with code := codeExpired }.setFlag 6 else t

/-- Time passes in Fermata: Tempo and the always-on domain run, and holdover expires at its instant (12 R519, R532, R533). -/
def State.sleepFor (s : State) (ns : Nat) : State :=
  if s.tempo.code = codeHoldover then
    let first := min ns (s.tempo.sleepTo s.tempo.expiresAt)
    let s := (s.sleepPart first).modTempo Tempo.expireAsleep
    if ns ≤ first then s else s.sleepPart (ns - first)
  else s.sleepPart ns

/-- Entry can take place: the bar in progress is at its last beat, or no bar runs, and no slice runs (Table 19.3, Table 15.11). -/
def State.entryDue (s : State) : Bool :=
  s.health.running.isNone && (!s.bar.running || s.bar.cfg.beats.toNat ≤ s.bar.beat.toNat + 1)

/-- Step 2 of Table 19.3: a side in any STATE but OFF sends CLOSE, its session is lost, and the SerDes is powered down with EN
kept (13 R584, R585). -/
def State.linkSleep (s : State) : State :=
  if s.duet.state = .off then s
  else
    ((s.sendLink 6 [s.duet.localEpoch]).loseSession).modDuet fun d =>
      { d with state := .off, holdEnd := none, width := 0, speed := 0, lanes := 0 }

/-- Steps 2 to 4 of Table 19.3: the link is down, and bars stop at the boundary (13 R584, R585; 02 R61). -/
def State.stopDevice (s : State) : State :=
  let s := s.linkSleep
  let s := if s.bar.running then s.endBarThen false else s
  s.modBar fun b => { b with firstAt := none, resumeDue := b.run }

/-- The role refuses sleep (01 R19, 14 R616). -/
def State.mustWake (s : State) : Bool := s.refrain.role = .active || s.refrain.role = .handover

/-- Entry is given up, since the device has become active after POWER_ENTER: the Conductor serves commands again, and the link
trains (01 R19; DESIGN CHOICE, log 36). -/
def State.refuseSleep (s : State) : State :=
  let s := (s.modRings fun r => { r with sleepReq := none }).modPwr fun p => { p with wakeDue := none }
  if s.duet.en then s.startTraining else s

/-- The cores whose release counts. -/
def State.releasedMask (s : State) : BitVec 12 :=
  s.presentCores.foldl (fun m c => if (s.core c).released then setBit m c.val true else m) 0

/-- Lines that the L2 of a section holds. -/
def Caches.linesOf (ch : Caches) (sec : Fin 3) : List Nat := (ch.lines.filter fun l => l.l2.getLsbD sec.val).map (·.line)

/-- Every L1 and L2 is written back to memory and invalidated; the L3 keeps its lines (06 R238, log 36). -/
def State.flushForSleep (s : State) : State :=
  (List.finRange 3).foldl (fun s sec => (s.caches.linesOf sec).foldl (fun s line => (s.cleanLine none line (some (.l2 sec 0))).1) s) s

/-- Tempo at entry to Fermata: every reference is lost and the outputs are low (12 R532); VALID_CHG tells that TIME_VALID fell. -/
def Tempo.sleep (t : Tempo) : Tempo :=
  let t := ([TRef.pps, .ptp, .partner].foldl Tempo.lose t)
  let t := { t with ppsOut := false }
  if t.valid then { t with valid := false }.setFlag 5 else t

/-- What Chorus keeps (08 Table 8.8): active sources are ended without being sampled again. Level inputs are not kept (R329): they
are what the units drive, asleep or not. -/
def Chorus.save (ch : Chorus) : Chorus :=
  let rest (x : Src) : Src := { x with active := none, input := false }
  { ch.warm with
    kept := some { shared := ch.shared.map fun p => (p.1, rest p.2), priv := ch.priv.map fun p => (p.1, rest p.2), en := ch.en,
                   pmaskM := ch.pmaskM, pmaskK := ch.pmaskK, notify := ch.notify } }

/-- A source whose level input is sampled high. -/
def Src.sampled (x : Src) : Src := if x.edge then x else { x with input := true }

/-- Chorus restored: the saved state, and every level input as it now stands (08 R329, R331). -/
def Chorus.restore (ch : Chorus) : Chorus :=
  match ch.kept with
  | none => ch
  | some k =>
    let high (t : Tbl Src) : List (Nat × Src) := t.filter fun p => p.2.input
    { Chorus.reset with
      shared := (high ch.shared).foldl (fun t p => Tbl.put t p.1 (Tbl.get t p.1 (sharedReset p.1)).sampled) k.shared
      priv := (high ch.priv).foldl (fun t p => Tbl.put t p.1 (Tbl.get t p.1 (privReset (p.1 / 32) (p.1 % 32 + 16))).sampled) k.priv
      en := k.en, pmaskM := k.pmaskM, pmaskK := k.pmaskK, notify := k.notify, restored := true }

/-- The comparators power down: FLT is held at 0 (18 R758). -/
def FieldIo.sleep (io : FieldIo) : FieldIo := { io with acmp := io.acmp.map fun a => { a with flt := false, settle := none } }

/-- Fermata is entered once the device has stopped (Table 19.3 from step 4; 05 R184, 14 R627, 16 R693). The latch of source 18 is
Chorus's and is kept (08 Table 8.8). -/
def State.enterFermata (s : State) : State :=
  let mask := s.releasedMask
  let s := s.flushForSleep
  let s := if s.refrain.role = .none then s
    else (s.leaveTo .none).modRf fun x => { x with lastApplied := none, rx := none, log := none, applying := false, takeover := false }
  { s with
    cores := s.cores.map fun v => { VoiceCore.reset with startPtr := v.startPtr, bx := v.bx }
    trace := Vector.replicate 3 TraceSec.reset
    tempo := s.tempo.sleep
    io := s.io.sleep
    cdr := { s.cdr with run := .sleeping, wfi := false, queue := [] }
    chorus := s.chorus.save
    mc := { s.mc with selfref := true }
    pwr := { s.pwr with state := .fermata, lastSleep := 1, wdogEnd := none, wasReleased := mask } }

/-- The settling of every enabled comparator after a wake (18 R756); a low supply holds FLT at 1 (R757). -/
def FieldIo.wake (io : FieldIo) (now : Nat) : FieldIo :=
  { io with acmp := io.acmp.map fun a => if a.en then { a with settle := some (now + 10000), supplyLow := io.vddaLow, flt := io.vddaLow } else a }

/-- The device is restored from Fermata up to the Conductor's resume (Table 19.4 steps 2 to 5; 12 R533, 13 R585). -/
def State.resumeDevice (s : State) : State :=
  let now := s.tempo.count
  let s := { s with
    chorus := s.chorus.restore
    mc := { s.mc.restart now with selfref := false }
    io := s.io.wake now
    refrain := { s.refrain with batonAge := 0, hbAge := 0 }
    tempo := ({ s.tempo with secDone := secondsOf s.tempo.time }).update
    cdr := { s.cdr with run := .running, pc := s.pwr.resume, cstatus := setBit s.cdr.cstatus 0 false }
    pwr := { s.pwr with state := .play, fwake := true } }
  let s := if s.duet.en then s.drawEpoch.startTraining else s
  s.kickWatchdog

/-- What firmware does after its resume: the notice, and the cores that were released at entry (Table 19.4 steps 6 and 7). -/
def State.wakeDuties (s : State) : State :=
  let mask := s.pwr.wasReleased
  let s := (s.modRings fun r => { r with sleepReq := none }).notice 0x02 (s.pwr.wakeStat.setWidth 24)
  let s := (maskCores mask).foldl (fun s c => s.startCore c (s.core c).startPtr) s
  let s := if mask = 0 then s else s.resumeBars
  s.modPwr fun p => { p with wasReleased := 0 }

/-- Coda is entered once the device has stopped: everything but the always-on domain loses its state (Table 19.1, R785). -/
def State.enterCoda (s : State) : State :=
  let keep := s.pwr.rstrsn
  (s.coldReset 2).modPwr fun p => { p with rstrsn := keep, instant := false, state := .coda, lastSleep := 2, mainPwrEn := false }

/-- MAINPWR_EN rises, and the rails are awaited (R787). -/
def State.raiseMain (s : State) : State := s.modPwr fun p => { p with mainPwrEn := true, state := .codaWait }

/-! Wake events (R777). -/

/-- The bit of WAKE_MASK and WAKE_STAT of an event. -/
def wakeBit : WakeEvent → Nat
  | .pin n => n.val
  | .alarm => 4
  | .gpio _ _ => 5

/-- Nanoseconds of sleep before an event: up to the alarm second for the alarm. -/
def State.sleepNs (s : State) (ev : WakeEvent) (slept : Nat) : Nat :=
  match ev with
  | .alarm => if s.pwr.wakeSec.toNat ≤ s.pwr.aonSec.toNat then 0 else (s.pwr.wakeSec.toNat - s.pwr.aonSec.toNat) * 1000000000 - s.pwr.aonFrac
  | _ => slept

/-- The level of a GPIO pin after the event. -/
def State.wakePins (s : State) (ev : WakeEvent) : State :=
  match ev with
  | .gpio n level => s.modGpio fun g => { g with pins := setBit g.pins n.val level }
  | _ => s

/-- The source of a GPIO pin is of edge kind (17 R723), as Chorus holds it or has saved it. -/
def State.pinEdge (s : State) (pin : Fin 64) : Bool :=
  match s.chorus.kept with
  | some k => (Tbl.get k.shared (112 + pin.val) (sharedReset (112 + pin.val))).edge
  | none => (s.chorus.src 0 (112 + pin.val)).edge

/-- The event counts: its bit is enabled, and a GPIO pin is selected and has the edge or the level that its configuration names. -/
def State.wakes (s : State) (ev : WakeEvent) : Bool :=
  s.pwr.wakeMask.getLsbD (wakeBit ev) &&
    (match ev with
     | .gpio n level =>
       let g := s.io.gpio
       s.pwr.wakeGpio.getLsbD n.val &&
         (if s.pinEdge n then g.pins.getLsbD n.val != level && edgeSelected (g.cfgOf n.val) level else level ^^ (g.cfgOf n.val).getLsbD 0)
     | _ => true)

/-- The event is recorded in WAKE_STAT. -/
def State.recordWake (s : State) (ev : WakeEvent) : State := s.modPwr fun p => { p with wakeStat := setBit p.wakeStat (wakeBit ev) true }

/-- The pending latch of a recorded wake event is set (08 R331). -/
def State.wakeEdge (s : State) (ev : WakeEvent) : State :=
  match ev with
  | .gpio n _ => s.edge 0 (112 + n.val)
  | _ => s

/-- Wake from Fermata by an event: the restore, the latch of the event, and firmware's duties (Table 19.4). -/
def State.wakeBy (s : State) (ev : WakeEvent) : State := (s.resumeDevice.wakeEdge ev).wakeDuties

/-- A wake event that came during entry starts the wake at once (Table 19.9). -/
def State.wakeIfDue (s : State) : State :=
  match s.pwr.wakeDue with
  | some ev => (s.modPwr fun p => { p with wakeDue := none }).wakeBy ev
  | none => s

/-- A wake event while entry to sleep is in progress: it is recorded, and the wake follows the entry (Table 19.9). -/
def State.wakeInEntry (s : State) (ev : WakeEvent) : State :=
  if s.pwr.wakeDue.isSome then s.recordWake ev else (s.recordWake ev).modPwr fun p => { p with wakeDue := some ev }

/-- Entry to sleep (Table 19.3): the device stops, `enter` follows, and a wake event that came in the meantime acts at once. A
device that has become active, or becomes active at the boundary, refuses the entry, and its bars go on (01 R19; log 36). -/
def State.sleepEntry (s : State) (coda : Bool) : State :=
  if s.mustWake then s.refuseSleep
  else
    let stopped := s.stopDevice
    if stopped.mustWake then (if s.bar.running then s.endBar else s).refuseSleep
    else if coda then
      let due := stopped.pwr.wakeDue.isSome
      let t := stopped.enterCoda
      if due then t.raiseMain else t
    else stopped.enterFermata.wakeIfDue

/-! HALT_CORES and CORE_HUSH (section 19.3). -/

/-- The dirty lines of a core's L1 data cache are written back to the L2 (06 R237). -/
def State.writeBackL1 (s : State) (c : Fin 12) : State :=
  { s with caches := { s.caches with lines := s.caches.lines.map fun l => if l.l1d.getLsbD c.val then l.merge else l } }

/-- A core's L1 caches are emptied, the dirty lines of the L1 data cache after their write-back (R770). -/
def State.emptyL1 (s : State) (c : Fin 12) : State :=
  let s := s.writeBackL1 c
  { s with caches := { s.caches with lines := s.caches.lines.map fun l => { l with l1d := setBit l.l1d c.val false, l1i := setBit l.l1i c.val false } } }

/-- A core is halted and held in reset (R770; 08 R315). The latch of source 18 is Chorus's and stays. -/
def State.haltCore (s : State) (c : Fin 12) : State :=
  let s := (s.traceLeave c 2).emptyL1 c
  let s := { s with echo := { s.echo with stalled := s.echo.stalled.map fun (x : Stalled) => if x.who = some (Initiator.voice c) then { x with who := none } else x } }
  (s.setCore c { VoiceCore.reset with startPtr := (s.core c).startPtr, bx := (s.core c).bx }).chorusHalt c

/-! The power registers (Table 19.8) and SYS_CAPS to SYS_RSTRSN (03 section 3.6). -/

/-- PWR_STAT. -/
def Power.stat (p : Power) : Word :=
  p.lastSleep.setWidth 24 ||| flag 24 8 p.fwake ||| flag 24 9 p.pwrFail ||| flag 24 10 p.thermWarn ||| flag 24 11 p.supplyWarn

/-- CORE_PSTATE (R416). -/
def State.corePstate (s : State) : Word :=
  let hush := s.presentCores.foldl (fun (m : BitVec 12) c => if (s.core c).hush then setBit m c.val true else m) 0
  (s.releasedMask ++ hush : BitVec 24)

/-- The fuse load has not ended (03 R101). Table 11.7 gives at most 50 µs for it, and the model takes 50 µs (DESIGN CHOICE, log 36). -/
def State.fuseLoading (s : State) : Bool := s.boot.sentinel = .running && s.tempo.count < s.boot.startedAt + 50000

/-- A read of the system-control window. -/
def State.sysRead (s : State) (w : Initiator) (off : Nat) : Word :=
  let p := s.pwr
  if w = .debug && s.fuseLoading then 0
  else match off with
  | 0x000 => s.sysId
  | 0x001 => s.sysStep
  | 0x002 => s.die.variant.sysCaps
  | 0x003 => flag 24 0 s.die.gradeF ||| (BitVec.ofNat 24 s.fmax <<< 8)
  | 0x004 => p.rstrsn
  | 0x010 => p.stat
  | 0x011 => s.corePstate
  | 0x012 => p.wakeMask.setWidth 24
  | 0x013 => p.wakeStat.setWidth 24
  | 0x014 => lo24 p.wakeSec
  | 0x015 => hi24 p.wakeSec
  | 0x016 => pinWord p.wakeGpio 0
  | 0x017 => pinWord p.wakeGpio 1
  | 0x018 => pinWord p.wakeGpio 2
  | 0x019 => lo24 p.resume
  | 0x01A => hi24 p.resume
  | 0x01B => p.wdogPeriod.setWidth 24
  | 0x01D => p.therm.setWidth 24
  | 0x01E => if 0 < s.die.variant.sections then p.secClk[0].setWidth 24 else 0
  | 0x01F => if 1 < s.die.variant.sections then p.secClk[1].setWidth 24 else 0
  | 0x020 => if 2 < s.die.variant.sections then p.secClk[2].setWidth 24 else 0
  | _ => 0

/-- PERIOD is written: it counts from the last start (R797; log 23). -/
def State.writePeriod (s : State) (v : BitVec 16) : State :=
  let old := max 1 s.pwr.wdogPeriod.toNat * 1000000
  let new := max 1 v.toNat * 1000000
  s.modPwr fun p => { p with wdogPeriod := v, wdogEnd := p.wdogEnd.map fun e => e - old + new }

/-- Fields that only the Conductor writes (R795). -/
def State.sysConfig (s : State) (off : Nat) (v : Word) : State :=
  match off with
  | 0x012 => s.modPwr fun p => { p with wakeMask := bits v 0 6 }
  | 0x014 => s.modPwr fun p => { p with wakeSec := setLo p.wakeSec v }
  | 0x015 => s.modPwr fun p => { p with wakeSec := setHi p.wakeSec v }
  | 0x016 => s.modPwr fun p => { p with wakeGpio := setPinWord p.wakeGpio 0 v }
  | 0x017 => s.modPwr fun p => { p with wakeGpio := setPinWord p.wakeGpio 1 v }
  | 0x018 => s.modPwr fun p => { p with wakeGpio := setPinWord p.wakeGpio 2 v }
  | 0x019 => s.modPwr fun p => { p with resume := setLo p.resume v }
  | 0x01A => s.modPwr fun p => { p with resume := setHi p.resume v }
  | 0x01B => s.writePeriod (bits v 0 16)
  | 0x01C => if bits v 0 12 = 0x5A5 && s.pwr.wdogEnd.isSome then s.kickWatchdog else s
  | _ => s

/-- A write of the system-control window (R795; 03 R87). SYS_RSTRSN, which chapter 3 lists with no rule on initiators, takes its
clears from the initiators of R795, since the power registers extend its table (DEDUCED, log 36). -/
def State.sysWrite (s : State) (w : Initiator) (off : Nat) (v : Word) : State :=
  if !s.mayW1c w then s
  else if off = 0x004 then s.modPwr fun p => { p with rstrsn := p.rstrsn &&& ~~~(v &&& 0xFF) }
  else if off = 0x010 then
    s.modPwr fun p =>
      { p with fwake := w1c p.fwake (v.getLsbD 8), pwrFail := w1c p.pwrFail (v.getLsbD 9), thermWarn := w1c p.thermWarn (v.getLsbD 10),
               supplyWarn := w1c p.supplyWarn (v.getLsbD 11) }
  else if off = 0x013 then s.modPwr fun p => { p with wakeStat := p.wakeStat &&& ~~~bits v 0 6 }
  else if w.isCdr then s.sysConfig off v
  else s

end Sys2Proof.Machine
end

