-- ==== Sys2Proof/Machine/Power.lean ====
section
/-! DEFINITION. The events of supplies, temperature, resets and sleep, and the power commands of the Conductor (19; 10 Table
10.4). -/
namespace Sys2Proof.Machine

/-! Resets (section 19.6). -/

/-- PORST_N falls: cold reset with cause POR, and WARM_PIN with it where WARMRST_N falls in the same cycle (R763, R799; 03 R98).
`off` is the always-on time that passes until the pin rises. -/
def State.porst (s : State) (warmToo : Bool) (off : Nat) : State :=
  let s := s.coldReset 0
  let s := if warmToo then s.markResets [3] else s
  (s.modPwr fun p => { p with state := .porst }).aonFor off

/-- PORST_N. -/
def execPorstN (warmToo : Bool) (off : Nat) (s : State) : Host.Outcome State Fault Refusal := .next (s.porst warmToo off)

/-- The device is held with BROWNOUT by a rail. -/
def Power.hold (p : Power) (rail : Fin 5) : Power :=
  { p with state := .brownout, supplyLow := setBit p.supplyLow rail.val true, supplyWarn := true }

/-- PORST_N rises (R763; 20 Table 20.18): a rail below its reset level holds the device with BROWNOUT; a rail in range for less
than 1 ms leaves the operation without meaning (R762). -/
def execPorstNRelease (railsOk : Bool) (low : Option (Fin 5)) (s : State) : Host.Outcome State Fault Refusal :=
  if s.pwr.state ≠ .porst then .next s
  else match low with
  | some rail =>
    .next ((s.markResets [1]).modPwr fun p => p.hold rail)
  | none => if railsOk then .next s.leaveReset else .fault .releasedTooEarly

/-- WARMRST_N held low (R792, R799): in Fermata the device wakes first; in Coda, or held in reset, nothing happens. -/
def execWarmrstN (slept : Nat) (s : State) : Host.Outcome State Fault Refusal :=
  .next <|
    match s.pwr.state with
    | .play => s.resetFor 3 false
    | .fermata => ((s.sleepFor slept).resumeDevice).warmReset 3
    | _ => s

/-- VAON is removed and applied: everything is reset (R789; 12 R529, 15 R667). Flash, fuses and the environment stay. -/
def execVaonLoss (s : State) : Host.Outcome State Fault Refusal :=
  let s := s.coldReset 0
  .next { s with
    pwr := { Power.reset with
      supplyLow := s.pwr.supplyLow, tjHot := s.pwr.tjHot, therm := s.pwr.therm
      secClk := s.pwr.secClk }
    health := { s.health with mirror := Vector.replicate 64 0, ledger := [], hourAt := 3600, noticeAt := 0, repairs := [] } }

/-- A rail below its reset level for more than 1 µs (R764); in the same cycle as a thermal trip, both causes are marked (03 R98). -/
def execBrownout (rail : Fin 5) (s : State) : Host.Outcome State Fault Refusal :=
  .next <|
    if s.on then (s.coldReset 1).modPwr fun p => p.hold rail
    else if s.pwr.state = .thermal && s.pwr.instant then (s.markResets [1]).modPwr fun p => p.hold rail
    else s

/-- The device runs, sleeps in Fermata or is held with its rails up. -/
def Power.railsUp (p : Power) : Bool := p.state ≠ .coda && p.state ≠ .codaWait

/-- SUPPLY_WARNING: a rail falls below its warning level (R764, R795). -/
def execSupplyWarning (rail : Fin 5) (s : State) : Host.Outcome State Fault Refusal :=
  .next (if s.pwr.railsUp then s.modPwr fun p => { p with supplyLow := setBit p.supplyLow rail.val true, supplyWarn := true } else s)

/-- SUPPLY_WARNING_END: the rail is back; a device held with BROWNOUT leaves its reset when none is low. -/
def execSupplyWarningEnd (rail : Fin 5) (s : State) : Host.Outcome State Fault Refusal :=
  let t := s.modPwr fun p => { p with supplyLow := setBit p.supplyLow rail.val false }
  .next (if t.pwr.state = .brownout && t.pwr.supplyLow = 0 then t.leaveReset else t)

/-- The warning level of Tj in °C (R765). -/
def State.warnLevel (s : State) : Int := if s.die.gradeF then 110 else 100
/-- The trip level of Tj. -/
def State.tripLevel (s : State) : Int := if s.die.gradeF then 130 else 120

/-- THERMAL_WARNING: Tj is at or above the warning level (R765, R795). -/
def execThermalWarning (tj : BitVec 10) (s : State) : Host.Outcome State Fault Refusal :=
  .next (if s.warnLevel ≤ tj.toInt then s.modPwr fun p => { p with therm := tj, tjHot := true, thermWarn := true } else s)

/-- THERMAL_TRIP: cold reset, held until Tj has fallen below the warning level (R765, R799). -/
def execThermalTrip (tj : BitVec 10) (s : State) : Host.Outcome State Fault Refusal :=
  .next <|
    if tj.toInt < s.tripLevel || !s.pwr.railsUp || s.pwr.tripped then s
    else
      let hold := if s.pwr.state = .porst || s.pwr.state = .brownout then s.pwr.state else .thermal
      (s.coldReset 6).modPwr fun p => { p with therm := tj, tjHot := true, thermWarn := true, tripped := true, state := hold }

/-- TJ_BELOW_WARNING: source 201 deasserts; a device held after a trip leaves its reset (R765). -/
def execTjBelowWarning (tj : BitVec 10) (s : State) : Host.Outcome State Fault Refusal :=
  .next <|
    if s.warnLevel ≤ tj.toInt then s
    else
      let t := s.modPwr fun p => { p with therm := tj, tjHot := false, tripped := false }
      if t.pwr.state = .thermal then t.leaveReset else t

/-- DEBUG_RESET: an authenticated session requests a cold reset (R789, R791). -/
def execDebugReset (s : State) : Host.Outcome State Fault Refusal :=
  ifOn s fun s => if s.boot.session then (s.coldReset 7).leaveReset else s

/-- COMMANDED_RESET: at least 100 µs after the reply of SYS_RESET (10 R417). -/
def execCommandedReset (s : State) : Host.Outcome State Fault Refusal :=
  ifOn s fun s =>
    match s.rings.resetReq with
    | none => s
    | some cold =>
      (s.until (s.rings.resetAt + 100000)).resetFor 4 cold

/-- CDR_WDOG: the watchdog expires (R797). -/
def execCdrWdog (s : State) : Host.Outcome State Fault Refusal :=
  ifOn s fun s => match s.pwr.wdogEnd with | some t => (s.until t).resetFor 5 false | none => s

/-- WDOG_KICK (R797). -/
def execWdogKick (w : Initiator) (v : Word) (s : State) : Host.Outcome State Fault Refusal := ifActs w s fun s => s.sysWrite w 0x1C v

/-! Sleep (sections 19.4 and 19.5). -/

/-- FERMATA_ENTRY. -/
def execFermataEntry (s : State) : Host.Outcome State Fault Refusal :=
  ifOn s fun s => if s.rings.sleepReq = some false && s.entryDue then s.sleepEntry false else s

/-- CODA_ENTRY. -/
def execCodaEntry (s : State) : Host.Outcome State Fault Refusal :=
  ifOn s fun s => if s.rings.sleepReq = some true && s.entryDue then s.sleepEntry true else s

/-- A wake event in Fermata: one that does not count leaves the device asleep (R777, R782). -/
def State.fermataEvent (s : State) (ev : WakeEvent) (slept : Nat) : State :=
  if !s.wakes ev then (s.sleepFor slept).wakePins ev
  else (((s.sleepFor (s.sleepNs ev slept)).wakePins ev).recordWake ev).wakeBy ev

/-- A wake event while entry to Fermata or Coda is in progress, after the counts that pass before it (Table 19.9). -/
def State.entryEvent (s : State) (ev : WakeEvent) (slept : Nat) : State :=
  let counts := s.wakes ev
  let s := s.elapse (match ev with | .alarm => s.tempo.countsFor (s.sleepNs ev 0) | _ => slept)
  let s := match ev with | .gpio n level => s.pinTakes n level | _ => s
  if counts then s.wakeInEntry ev else s

/-- FERMATA_WAKE: in Fermata, or while entry to it is in progress. -/
def execFermataWake (ev : WakeEvent) (slept : Nat) (s : State) : Host.Outcome State Fault Refusal :=
  .next <|
    if s.pwr.state = .fermata then s.fermataEvent ev slept
    else if s.on && s.rings.sleepReq = some false then s.entryEvent ev slept
    else s

/-- CODA_WAKE: MAINPWR_EN rises, and the rails are awaited (R787); while entry to Coda is in progress, the event is recorded. -/
def execCodaWake (ev : WakeEvent) (slept : Nat) (s : State) : Host.Outcome State Fault Refusal :=
  .next <|
    if s.on && s.rings.sleepReq = some true then s.entryEvent ev slept
    else if s.pwr.state ≠ .coda then s
    else if !s.wakes ev then s.aonFor slept
    else ((s.aonFor (s.sleepNs ev slept)).recordWake ev).raiseMain

/-- GPIO_INPUT_CHANGE (17 R723, 08 R330, R331): in Fermata a level that is a wake event wakes the device, and any other is what is
sampled at the wake. -/
def execGpioInputChange (pin : Fin 64) (level : Bool) (s : State) : Host.Outcome State Fault Refusal :=
  .next <|
    if s.on then s.pinTakes pin level
    else if s.pwr.state = .fermata then s.fermataEvent (.gpio pin level) 0
    else s.modGpio fun g => { g with pins := setBit g.pins pin.val level }

/-- PWR_FAIL: the rails are not in range within 50 ms (R788). -/
def execPwrFail (s : State) : Host.Outcome State Fault Refusal :=
  .next (if s.pwr.state = .codaWait then (s.aonFor 50000000).modPwr fun p => { p with mainPwrEn := false, pwrFail := true, state := .coda } else s)

/-- MAIN_RAILS_IN_RANGE: cold reset with cause CODA_WAKE (R787). -/
def execMainRailsInRange (s : State) : Host.Outcome State Fault Refusal :=
  .next <|
    if s.pwr.state ≠ .codaWait then s
    else ((s.aonFor 1000000).coldReset 2 |>.modPwr fun p => { p with supplyLow := 0 }).leaveReset

/-! Commands. -/

/-- A core mask has bits above the cores. -/
def badMask : State → BitVec 5 → List Word → Bool := fun _ _ ps => above (param ps 0) 12
/-- A core mask names an absent core (00 R8). -/
def absentMask : State → List Word → Bool := fun s ps => absentCores s (param ps 0)

/-- HALT_CORES (R770, R771). -/
def haltCoresCmd : CmdDef :=
  { mkCmd 0x04 1 0 srcMG (fun c => okCmd (fun s =>
      (maskCores ((param c.params 0).setWidth 12)).foldl (fun s k => if (s.core k).released then s.haltCore k else s) s) c) with
    absent := absentMask, bad := badMask }

/-- HALT_CORES. -/
def execHaltCores (h : Header) (mask : Word) (s : State) : Host.Outcome State Fault Refusal := cmdRow haltCoresCmd h [mask] s

/-- SYS_RESET (10 R417, 19 R793). -/
def sysResetCmd : CmdDef :=
  { mkCmd 0x05 1 0 srcMG (fun c => okCmd (fun s => s.modRings fun r => { r with resetReq := some (param c.params 0 = 1), resetAt := s.tempo.count }) c) with
    bad := fun _ _ ps => 1 < (param ps 0).toNat }

/-- SYS_RESET 0. -/
def execSysResetWarm (h : Header) (s : State) : Host.Outcome State Fault Refusal := cmdRow sysResetCmd h [0] s
/-- SYS_RESET 1. -/
def execSysResetCold (h : Header) (s : State) : Host.Outcome State Fault Refusal := cmdRow sysResetCmd h [1] s

/-- The parameters of POWER_ENTER are wrong (Table 19.2). -/
def State.sleepBad (s : State) (ps : List Word) : Bool :=
  let mask := param ps 1
  (param ps 0 != 1 && param ps 0 != 2) || mask = 0 || above mask 6 || (param ps 0 = 2 && mask.getLsbD 5) ||
    (mask.getLsbD 4 && decide ((pair (param ps 3) (param ps 2)).toNat ≤ s.pwr.aonSec.toNat + 1))

/-- POWER_ENTER is accepted: the wake registers, the request, the link's CLOSE, and for Coda the always-on mirror (R778, R785, R796;
13 R584). -/
def State.sleepAsked (s : State) (ps : List Word) : State :=
  let coda := param ps 0 = 2
  let s := if coda then s.mirrorUpdate else s
  let s := s.modPwr fun p =>
    { p with wakeMask := bits (param ps 1) 0 6, wakeStat := 0
             wakeSec := if (param ps 1).getLsbD 4 then pair (param ps 3) (param ps 2) else p.wakeSec }
  s.linkSleep.modRings fun r => { r with sleepReq := some coda }

/-- POWER_ENTER: R19, R382 and R784, then R418, then the parameters (R776). -/
def powerEnterCmd : CmdDef :=
  { mkCmd 0x10 4 0 srcM (fun c s =>
      if s.longCount != 0 then (s, .final .busy [])
      else if s.sleepBad c.params then (s, .final .badParam [])
      else (s.sleepAsked c.params, .final .ok [])) with
    denied := fun s _ _ => s.mustWake || s.echo.track }

/-- POWER_ENTER 1. -/
def execPowerEnterFermata (h : Header) (wake s0 s1 : Word) (s : State) : Host.Outcome State Fault Refusal :=
  cmdRow powerEnterCmd h [1, wake, s0, s1] s
/-- POWER_ENTER 2. -/
def execPowerEnterCoda (h : Header) (wake s0 s1 : Word) (s : State) : Host.Outcome State Fault Refusal :=
  cmdRow powerEnterCmd h [2, wake, s0, s1] s

/-- CORE_HUSH (R767 to R769; 06 R237). A write of a named core that Echo stalls stays in the queue of stalled writes (log 36). -/
def coreHushCmd : CmdDef :=
  { mkCmd 0x11 2 0 srcM (fun c s =>
      let m := maskCores ((param c.params 0).setWidth 12)
      if m.any fun k => !(s.core k).released then (s, .final .notPermitted [])
      else if param c.params 1 = 1 then (m.foldl (fun s k => (s.writeBackL1 k).modCore k fun v => { v with hush := true }) s, .final .ok [])
      else (m.foldl (fun s k => s.modCore k fun v => { v with hush := false }) s, .final .ok [])) with
    absent := absentMask
    bad := fun s r ps => badMask s r ps || 1 < (param ps 1).toNat }

/-- CORE_HUSH with enter. -/
def execCoreHushEnter (h : Header) (mask : Word) (s : State) : Host.Outcome State Fault Refusal := cmdRow coreHushCmd h [mask, 1] s
/-- CORE_HUSH with leave. -/
def execCoreHushLeave (h : Header) (mask : Word) (s : State) : Host.Outcome State Fault Refusal := cmdRow coreHushCmd h [mask, 0] s

/-- Sections that some outstanding CLOCK_SET has still to switch. -/
def State.clockHeld (s : State) (mask : Nat) : Bool :=
  s.rings.active.any fun c => c.op = clockSetOp && (List.range 3).any fun i => mask.testBit i && c.aux.testBit i

/-- CLOCK_SET (R772, R773): at once while RUN is 0. -/
def clockSetCmd : CmdDef :=
  { mkCmd clockSetOp 2 0 srcM (fun c s =>
      let mask := (bits (param c.params 0) 0 3).toNat
      if mask = 0 || !s.bar.run then
        let mhz := (param c.params 1).setWidth 12
        let clk := Vector.ofFn fun (i : Fin 3) => if mask.testBit i.val then mhz else s.pwr.secClk[i]
        (s.modPwr fun p => { p with secClk := clk }, .final .ok [])
      else (s, .running mask)) with
    long := true
    absent := fun s ps => (List.range 3).any fun i => (param ps 0).getLsbD i && s.die.variant.sections ≤ i
    bad := fun s _ ps =>
      let mhz := (param ps 1).toNat
      above (param ps 0) 3 || mhz % 100 != 0 || mhz < 400 || 100 * s.fmax < mhz
    busy := fun s ps => s.clockHeld (bits (param ps 0) 0 3).toNat }

/-- CLOCK_SET. -/
def execClockSet (h : Header) (mask mhz : Word) (s : State) : Host.Outcome State Fault Refusal := cmdRow clockSetCmd h [mask, mhz] s

/-- CLOCK_SET_TIMEOUT: the oldest CLOCK_SET ends 10^9 counts after its start (R774). -/
def execClockSetTimeout (s : State) : Host.Outcome State Fault Refusal :=
  ifOn s fun s =>
    match s.running clockSetOp with
    | some c => (s.until (c.startAt + 1000000000)).finish c .notPermitted []
    | none => s

end Sys2Proof.Machine
end

