-- ==== Sys2Proof/Machine/Refrain.lean ====
section
/-! DEFINITION. The commands and events of Duet redundancy (14) and of the Refrain stream (09 section 9.7). -/
namespace Sys2Proof.Machine

/-! Flits of channel B (14 section 14.3; their codes are in log 23). -/

/-- CK_HEAD (14 R608). -/
def execCkHead (fl : RxFlit) (s : State) : Host.Outcome State Fault Refusal := ifDuet s fun s => s.sequenced 2 4 fl State.onHead

/-- CK_DATA (14 R603). -/
def execCkData (fl : RxFlit) (s : State) : Host.Outcome State Fault Refusal := ifDuet s fun s => s.sequenced 2 5 fl State.onBody

/-- CK_END (14 R606). -/
def execCkEnd (fl : RxFlit) (s : State) : Host.Outcome State Fault Refusal :=
  ifDuet s fun s => s.sequenced 2 6 fl fun s ws => s.onEnd (ws.getD 0 0) (ws.getD 1 0) (ws.getD 2 0)

/-- CK_REPLY (14 R601). -/
def execCkReply (fl : RxFlit) (s : State) : Host.Outcome State Fault Refusal :=
  ifDuet s fun s => s.sequenced 2 7 fl fun s ws => s.onReply (ws.getD 0 0) (ws.getD 1 0)

/-- The stream engine sends a line (09 R365). -/
def execRefrainStreamLine (ups : List Upset) (s : State) : Host.Outcome State Fault Refusal := ifDuet s fun s => (s.upsets ups).streamLine

/-- A stalled write whose stall has ended is performed (09 R861). -/
def execStallEnd (s : State) : Host.Outcome State Fault Refusal := ifDuet s State.retryStalled

/-- The apply of a committed delta ends (14 R609). -/
def execApplyEnd (s : State) : Host.Outcome State Fault Refusal := ifDuet s State.applyEnd

/-- BATON_TO boundaries have passed in HANDOVER (14 R619): the boundary acts by itself, and this row where BATON_TO has been lowered
since. -/
def execHandoverTimeout (s : State) : Host.Outcome State Fault Refusal :=
  ifDuet s State.handoverTimeout

/-- A BATON_IN edge is counted (14 R590, R611). -/
def execBatonInEdge (s : State) : Host.Outcome State Fault Refusal := ifDuet s fun s => s.modRf fun r => { r with batonAge := 0 }

/-! Registers (09 Table 9.8). -/

/-- A write of 1 to TRACK_EN (09 R361, R378). -/
def execTrackEnSet (w : Initiator) (s : State) : Host.Outcome State Fault Refusal := ifCdrDuet w s State.trackOn

/-- A write of 0 to TRACK_EN (09 R859). -/
def execTrackEnClear (w : Initiator) (s : State) : Host.Outcome State Fault Refusal := ifCdrDuet w s State.trackOff

/-- A write of ECHO_HIWAT sets it to ECHO_USED, whatever the value (09 R376). -/
def execEchoHiwatWrite (w : Initiator) (v : Word) (s : State) : Host.Outcome State Fault Refusal :=
  ifActs w s fun s => s.echoWrite w 5 v

/-! Commands. -/

/-- DUET_ROLE (14 R611, R617, R620). -/
def duetRoleCmd : CmdDef :=
  { mkCmd 0x42 1 0 srcM (fun c s =>
      let r := s.refrain
      if param c.params 0 = 0 then
        if r.role = .active && s.partnerRole = 4 then (s.modRf fun x => { x with handStep := 1 }, .running 0) else (s, .final .notPermitted [])
      else if !s.bar.run || !(r.role = .none || r.role = .deposed) ||
          (r.partnerSeen && r.barsSinceRole < r.batonLimit && (s.partnerRole = 1 || s.partnerRole = 2)) || r.batonAge.toNat < r.batonLimit then
        (s, .final .notPermitted [])
      else (s.modRf fun x => { x with takeActive := true }, .running 0)) with
    long := true
    absent := noDuet
    bad := fun _ _ ps => above (param ps 0) 1
    busy := fun s _ => (s.running 0x42).isSome }

/-- DUET_ROLE with parameter 0. -/
def execDuetRoleHandover (h : Header) (s : State) : Host.Outcome State Fault Refusal := cmdRow duetRoleCmd h [0] s

/-- DUET_ROLE with parameter 1. -/
def execDuetRoleTakeActive (h : Header) (s : State) : Host.Outcome State Fault Refusal := cmdRow duetRoleCmd h [1] s

/-- The region registers take the pairs of a REFRAIN_CFG; a region that it does not name is disabled. -/
def Echo.configure (e : Echo) (base : Word) (mw : BitVec 7) (ps : List Word) : Echo :=
  if e.track then e
  else { e with spillBase := base, spillMw := mw, rgnBase := Vector.ofFn fun n => ps.getD (2 * n.val) 0, rgnPages := Vector.ofFn fun n => ps.getD (2 * n.val + 1) 0 }

/-- REFRAIN_CFG (14 R594, section 14.3.1). -/
def refrainCfgCmd : CmdDef :=
  { mkCmd 0x43 0 0 srcM (fun c => okCmd (fun s =>
      let p := c.params
      { s with refrain := { s.refrain with k := bits (param p 0) 0 7 }, echo := s.echo.configure (param p 1) (bits (param p 2) 0 7) (p.drop 6) }) c) with
    lenOk := fun ps => decide (6 ≤ ps.length) && ps.length = 6 + 2 * (param ps 3).toNat
    denied := fun s _ _ => s.refrain.en
    absent := noDuet
    bad := fun _ _ ps =>
      (param ps 0).toNat < 1 || 64 < (param ps 0).toNat || 8 < (param ps 3).toNat || above (param ps 2) 7 ||
        (List.range (param ps 3).toNat).any fun n => above (param ps (7 + 2 * n)) 19 }

/-- REFRAIN_CFG. -/
def execRefrainCfg (h : Header) (kk base mw r resv0 resv1 : Word) (rgns : List (Word × Word)) (s : State) : Host.Outcome State Fault Refusal :=
  cmdRow refrainCfgCmd h ([kk, base, mw, r, resv0, resv1] ++ rgns.flatMap fun p => [p.1, p.2]) s

/-- REFRAIN_EN with enable 1 (14 R593, R596). -/
def State.refrainOn (s : State) : State × CmdEnd :=
  let r := s.refrain
  if s.versionsClash then (s, .final .notPermitted [])
  else if r.role = .active then
    let s := s.trackOn
    if s.echo.track then (s.modRf fun x => { x with en := true }, .final .ok []) else (s, .final .badParam [])
  else if r.role = .none || r.role = .deposed then
    let s := s.modRf fun x => { x with en := true }
    if s.partnerRole = 1 && s.duet.partnerRole.getLsbD 3 then (s.enterSyncing, .final .ok []) else (s, .running 0)
  else (s, .final .notPermitted [])

/-- REFRAIN_EN with enable 0 (14 R597). A REFRAIN_EN that still waits for its role is refused. -/
def State.refrainOff (s : State) : State :=
  let s := s.finishOp 0x44 .notPermitted []
  let s := if s.refrain.role = .active || s.refrain.role = .handover then s.trackOff else s
  let s := if s.refrain.role.receives then (s.leaveTo .none).modRf fun x => { x with takeover := false } else s
  s.modRf fun x => { x with en := false }

/-- REFRAIN_EN (14 R596, R597). -/
def refrainEnCmd : CmdDef :=
  { mkCmd 0x44 1 0 srcM (fun c s => if param c.params 0 = 1 then s.refrainOn else (s.refrainOff, .final .ok [])) with
    long := true
    absent := noDuet
    bad := fun _ _ ps => above (param ps 0) 1
    busy := fun s ps => param ps 0 = 1 && (s.running 0x44).isSome }

/-- REFRAIN_EN with enable 1. -/
def execRefrainEnable (h : Header) (s : State) : Host.Outcome State Fault Refusal := cmdRow refrainEnCmd h [1] s

/-- REFRAIN_EN with enable 0. -/
def execRefrainDisable (h : Header) (s : State) : Host.Outcome State Fault Refusal := cmdRow refrainEnCmd h [0] s

end Sys2Proof.Machine
end

