-- ==== Sys2Proof/Machine/Tempo.lean ====
section
/-! DEFINITION. The commands and events of Tempo (12). -/
namespace Sys2Proof.Machine

/-- TIME_READ: time and quality (12 R500, R514). -/
def timeReadCmd : CmdDef :=
  mkCmd 0x30 0 4 srcAll fun _ s => (s, .final .ok (r500 s.tempo.time ++ [s.tempo.quality]))

/-- TIME_READ. -/
def execTimeRead (h : Header) (s : State) : Host.Outcome State Fault Refusal := cmdRow timeReadCmd h [] s

/-- TIME_SET: D, the given time less Tempo time now, is a step (12 R500, R513, R527). -/
def timeSetCmd : CmdDef :=
  { mkCmd 0x31 3 0 srcMG (okCmd fun s => s) with
    bad := fun _ _ ps => 999999999 < (bits (param ps 1) 18 6).toNat * 2 ^ 24 + (param ps 2).toNat
    run := fun c s =>
      let d := ofR500 (param c.params 0) (param c.params 1) (param c.params 2) - s.tempo.time
      (s.clearPend.schedule { amount := d, timeSet := true, held := false }, .final .ok []) }

/-- TIME_SET. -/
def execTimeSet (h : Header) (s0 s1 ns : Word) (s : State) : Host.Outcome State Fault Refusal := cmdRow timeSetCmd h [s0, s1, ns] s

/-- TEMPO_REFS writes REF_EN (12 R504, section 12.6). -/
def tempoRefsCmd : CmdDef :=
  { mkCmd 0x32 1 0 srcM (fun c => okCmd (fun s => s.modTempo fun t => t.setRefEn (bits (param c.params 0) 0 3)) c) with
    absent := fun s ps => (param ps 0).getLsbD 2 && !s.die.variant.duet
    bad := fun _ _ ps => above (param ps 0) 3 }

/-- TEMPO_REFS. -/
def execTempoRefs (h : Header) (mask : Word) (s : State) : Host.Outcome State Fault Refusal := cmdRow tempoRefsCmd h [mask] s

/-- TEMPO_POLICY writes AUTO_STEP, HOLD_LIMIT and ERR_LIMIT (12 section 12.6). -/
def tempoPolicyCmd : CmdDef :=
  { mkCmd 0x33 3 0 srcM (fun c => okCmd (fun s => s.modTempo fun t =>
      { t with autoStep := (param c.params 0).getLsbD 0, holdLimit := bits (param c.params 1) 0 16, errLimit := param c.params 2 }.refreshValid) c) with
    bad := fun _ _ ps => above (param ps 0) 1 || param ps 1 = 0 || above (param ps 1) 16 || (param ps 2).toNat < 100 }

/-- TEMPO_POLICY. -/
def execTempoPolicy (h : Header) (step limit err : Word) (s : State) : Host.Outcome State Fault Refusal :=
  cmdRow tempoPolicyCmd h [step, limit, err] s

/-- TEMPO_STEP schedules the step held in PEND; applied at once while RUN is 0 (12 R509, R512). -/
def tempoStepCmd : CmdDef :=
  { mkCmd 0x34 0 0 srcM (fun _ s =>
      if s.tempo.code ≠ codeHeld then (s, .final .notPermitted [])
      else (s.requestHeld, if s.bar.run then .running 0 else .final .ok [])) with
    long := true }

/-- TEMPO_STEP. -/
def execTempoStep (h : Header) (s : State) : Host.Outcome State Fault Refusal := cmdRow tempoStepCmd h [] s

/-- PTP_CORRECT (12 R506). -/
def ptpCorrectCmd : CmdDef :=
  mkCmd 0x35 2 0 srcM fun c => okCmd (fun s => s.ptpCorrect (param c.params 0).toInt (param c.params 1).toInt) c

/-- PTP_CORRECT. -/
def execPtpCorrect (h : Header) (off freq : Word) (s : State) : Host.Outcome State Fault Refusal := cmdRow ptpCorrectCmd h [off, freq] s

/-- A read of TIME_SEC_LO (12 R525). -/
def execTimeSecLoRead (w : Initiator) (s : State) : Host.Outcome State Fault Refusal := ifActs w s fun s => (s.readSecLo w).1

/-- A read of TCOUNT_0 (12 R525). -/
def execTcount0Read (w : Initiator) (s : State) : Host.Outcome State Fault Refusal := ifActs w s fun s => (s.readCount0 w).1

/-- A write of 1 to STEP_REQ, the other fields of TEMPO_CTL as they are (12 R512, R524; 00 R12). -/
def execStepReq (w : Initiator) (s : State) : Host.Outcome State Fault Refusal :=
  ifActs w s fun s => if w.isCdr then (s.modTempo fun t => { t with stepReq := true }).requestHeld else s

/-- The edge of TPPS_IN that PPS_POL selects, `dt` counts from now (12 R501, R502). -/
def execTppsInEdge (dt : Nat) (s : State) : Host.Outcome State Fault Refusal := ifOn s fun s => (s.elapse dt).ppsEdge

/-- A reference by its bit in REF_EN. -/
def refOfBit (r : Fin 3) : TRef := if r = 0 then .pps else if r = 1 then .ptp else .partner

/-- The loss time of a reference passes (12 Table 12.1, R517). -/
def execRefLost (r : Fin 3) (s : State) : Host.Outcome State Fault Refusal :=
  ifOn s fun s => match (s.tempo.refOf (refOfBit r)).lastAt with
    | some c => (s.until (c + s.tempo.lossAfter (refOfBit r))).modTempo fun t => t.lose (refOfBit r)
    | none => s

/-- HOLD_LIMIT or ERR_LIMIT is passed in holdover, asleep or not (12 R519, R532). -/
def execHoldExpired (s : State) : Host.Outcome State Fault Refusal :=
  .next <|
    if s.tempo.code ≠ codeHoldover then s
    else if s.on then
      (s.until s.tempo.expiresAt).modTempo Tempo.expire
    else if s.pwr.state = .fermata then s.sleepFor (s.tempo.sleepTo s.tempo.expiresAt)
    else s

/-- The seconds field of Tempo time increases by counting (12 R521). -/
def execSecondsFieldIncrease (s : State) : Host.Outcome State Fault Refusal :=
  ifOn s fun s => (s.until (((s.tempo.secDone + 1) * 1000000000 - s.tempo.offset).toNat)).secondUp

/-- TPPS_OUT falls after PPSO_WIDTH (12 R521). -/
def execTppsOutPulseEnd (s : State) : Host.Outcome State Fault Refusal :=
  ifOn s fun s => match s.tempo.ppsOut, s.tempo.ppsRise with
    | true, some r =>
      let w := s.tempo.ppsoWidth.toNat
      let ms := if 1 ≤ w ∧ w ≤ 400 then w else 100
      (s.until (r + ms * 1000000)).modTempo fun t => { t with ppsOut := false }
    | _, _ => s

end Sys2Proof.Machine
end

