-- ==== Sys2Proof/Machine/Trace.lean ====
section
/-! DEFINITION. The commands and events of Score trace (16); TRACE_AUTH is in Trust. -/
namespace Sys2Proof.Machine

/-- The path that a register row of Table 16.5 names: the partition page, or the mirror of a section. -/
def State.tracePath (s : State) (w : Initiator) (page : Bool) (sec : Fin 3) : Option TracePath :=
  if page then s.pagePath w else s.mirrorPath w sec

/-- A write of PT_CTL with EN 1 (16 R677). -/
def execPtEnSet (w : Initiator) (page : Bool) (sec : Fin 3) (v : Word) (s : State) : Host.Outcome State Fault Refusal :=
  ifActs w s fun s => match s.tracePath w page sec with | some x => s.ptWrite w x 0 (setBit v 0 true) | none => s

/-- A write of PT_CTL with EN 0 (16 R677). -/
def execPtEnClear (w : Initiator) (page : Bool) (sec : Fin 3) (v : Word) (s : State) : Host.Outcome State Fault Refusal :=
  ifActs w s fun s => match s.tracePath w page sec with | some x => s.ptWrite w x 0 (setBit v 0 false) | none => s

/-- A write of 1 to PT_FIRE (16 Table 16.3, R679). -/
def execPtFire (w : Initiator) (page : Bool) (sec : Fin 3) (s : State) : Host.Outcome State Fault Refusal :=
  ifActs w s fun s => match s.tracePath w page sec with | some x => s.ptWrite w x 4 1 | none => s

/-- Some core of a section records a partition. -/
def State.recorded (s : State) (sec : Fin 3) (p : BitVec 4) : Bool := (s.tsec sec).cores.toList.any fun k => k.inPart = some p

/-- The delay count of a triggered partition reaches PT_DELAY (16 R680). -/
def execTraceStop (sec : Fin 3) (part : BitVec 4) (s : State) : Host.Outcome State Fault Refusal :=
  ifOn s fun s =>
    let x := (s.tsec sec).part part
    if !s.hasTrace sec || x.state ≠ .triggered then s
    else if x.delay.toNat ≤ x.dcount then s.traceStop sec part
    else if s.recorded sec part && 0 < s.mhz sec then
      (s.elapse (s.tempo.countsFor ((1000 * (x.delay.toNat - x.dcount) - s.pwr.secRem[sec] + s.mhz sec - 1) / s.mhz sec))).traceStop sec part
    else s

/-- A read of PT_RDATA (16 R687). -/
def execPtRdata (w : Initiator) (page : Bool) (sec : Fin 3) (s : State) : Host.Outcome State Fault Refusal :=
  ifActs w s fun s => match s.tracePath w page sec with | some x => (s.ptRead x 10).1 | none => s

/-- A write of TR_SEGOWN (16 R688). -/
def execTrSegownWrite (w : Initiator) (sec n : Fin 3) (v : Word) (s : State) : Host.Outcome State Fault Refusal :=
  ifActs w s fun s => s.traceBlockWrite w sec n.val v

/-- A write of STRM_LINES (16 R689). -/
def execStrmLinesWrite (w : Initiator) (sec : Fin 3) (part : BitVec 4) (v : Word) (s : State) : Host.Outcome State Fault Refusal :=
  ifActs w s fun s => s.traceBlockWrite w sec (0x42 + 4 * part.toNat) v

/-- One word of a stream is copied to DRAM (16 R675). -/
def State.copyWord (s : State) (sec : Fin 3) (p : BitVec 4) : State :=
  let t := s.tsec sec
  let x := t.part p
  let size := 24 * x.strmLines.toNat
  let i := (x.wptr + t.len p - x.uncopied % t.len p) % t.len p
  let s := (s.domainWrite (.dma .trace) (x.strmBase.toNat + x.strmWptr % size) [Memory.word ramDefault t.buf (t.place p i)]).1
  let w := (x.strmWptr % size + 1) % size
  s.modTsec sec fun t =>
    let t := t.modPart p fun x => { x with strmWptr := w, uncopied := x.uncopied - 1 }
    if w = 0 then t.flagged 2 else t

/-- So many words are copied. -/
def State.copyWords (s : State) (sec : Fin 3) (p : BitVec 4) : Nat → State
  | 0 => s
  | n + 1 => State.copyWords (s.copyWord sec p) sec p n

/-- The trace DMA engine copies what a stream holds (16 R675), and a LOST packet that waits is written (R676). -/
def execTraceDmaCopy (sec : Fin 3) (part : BitVec 4) (s : State) : Host.Outcome State Fault Refusal :=
  ifActs (.dma .trace) s fun s =>
    let x := (s.tsec sec).part part
    if s.hasTrace sec && x.streaming && (s.tsec sec).len part != 0 then
      (s.copyWords sec part x.uncopied).modTsec sec fun t => t.writeLost part
    else s

/-- TRACE_REVOKE empties the debug set (16 R685, R694). -/
def traceRevokeCmd : CmdDef :=
  { mkCmd 0x71 0 0 srcMG (okCmd fun s => { s with boot := { s.boot with parts := 0 } }) with
    absent := fun s _ => !s.die.variant.trace }

/-- TRACE_REVOKE. -/
def execTraceRevoke (h : Header) (s : State) : Host.Outcome State Fault Refusal := cmdRow traceRevokeCmd h [] s

/-- The partition that TRACE_OWN names (16 R686). -/
def ownPart (r : BitVec 5) (v : Word) : BitVec 4 := if r = 0 then bits v 20 4 else r.setWidth 4

/-- TRACE_OWN writes PT_CTL of a partition in every present section (16 R686). -/
def traceOwnCmd : CmdDef :=
  { mkCmd 0x72 1 0 srcMP (fun c => okCmd (fun s =>
      (List.finRange 3).foldl (fun s sec => if s.hasTrace sec then s.writePtCtl sec (ownPart c.ring (param c.params 0)) ((bits (param c.params 0) 0 7).setWidth 24) else s) s) c) with
    denied := fun _ r ps => r != 0 && bits (param ps 0) 20 4 != 0 && bits (param ps 0) 20 4 != r.setWidth 4
    absent := fun s _ => !s.die.variant.trace
    bad := fun _ r ps => r = 0 && bits (param ps 0) 20 4 = 0 }

/-- TRACE_OWN. -/
def execTraceOwn (h : Header) (cfg : Word) (s : State) : Host.Outcome State Fault Refusal := cmdRow traceOwnCmd h [cfg] s

end Sys2Proof.Machine
end

