-- ==== Sys2Proof/Machine/Trust.lean ====
section
/-! DEFINITION. The events of boot and trust, and the flash and fuse command group of the Conductor (11; 10 Table 10.4; 16 R684). -/
namespace Sys2Proof.Machine

/-! Fuses. -/

/-- The initiator reaches the private space (03 R81): the Conductor, or a debug session with PRIV. -/
def State.reachesPrivate (s : State) (w : Initiator) : Bool :=
  match w with
  | .conductor => true
  | .debug => s.boot.session && s.boot.perms.getLsbD 0
  | _ => false

/-- FZ_CMD (R461). -/
def execFzCmd (w : Initiator) (v : Word) (s : State) : Host.Outcome State Fault Refusal :=
  ifActs w s fun s => if s.reachesPrivate w then s.fuseRegWrite 0x202 v else s

/-- FUSE_WRITE. -/
def fuseWriteOp : BitVec 8 := 0x86

/-- The row after the one that a FUSE_WRITE has finished, or its failure, which `aux` marks as 1000 (R462). -/
def State.fuseNext (s : State) (ok : Bool) : State :=
  match s.running fuseWriteOp with
  | none => s
  | some c =>
    if 1000 ≤ c.aux then s
    else if !ok then s.setCmd { c with aux := 1000 }
    else
      let s := s.setCmd { c with aux := c.aux + 1 }
      let row := (param c.params 0).toNat + c.aux + 1
      if c.aux + 2 < c.params.length then s.modBoot fun b => { b with fzBusy := some (BitVec.ofNat 8 row, param c.params (c.aux + 2)) } else s

/-- The programming of a row ends (R458, R461). -/
def State.fuseEnd (s : State) (ok : Bool) : State :=
  match s.boot.fzBusy with
  | none => s
  | some (r, d) => ((s.blow r.toNat d ok).modBoot fun b => { b with fzBusy := none }).fuseNext ok

/-- FUSE_PROGRAM_END. -/
def execFuseProgramEnd (ok : Bool) (s : State) : Host.Outcome State Fault Refusal := ifOn s fun s => s.fuseEnd ok

/-! The sentinel mailbox (section 11.9). -/

/-- DEBUG_CHALLENGE_REQUEST (R488, R489; Table 11.12). -/
def execDebugChallengeRequest (s : State) : Host.Outcome State Fault Refusal :=
  ifOn s fun s =>
    if s.boot.checking then s.modBoot fun b => { b with reqWait := true }
    else if 8 ≤ s.boot.failures then s.modBoot fun b => { b with chal := none }
    else s.newChallenge

/-- DEBUG_SESSION_CLOSE (R488, R490). -/
def execDebugSessionClose (s : State) : Host.Outcome State Fault Refusal := ifOn s State.closeSession

/-- DEBUG_RESPONSE: 80 words are handed over for checking (R487). -/
def execDebugResponse (ws : List Word) (s : State) : Host.Outcome State Fault Refusal :=
  ifOn s fun s => if s.boot.checking || ws.length ≠ 80 then s else s.modBoot fun b => { b with checking := true, resp := ws }

/-- DEBUG_CHECK_COMPLETE: after the sentinel's own verification where one runs (R487). -/
def execDebugCheckComplete (s : State) : Host.Outcome State Fault Refusal :=
  ifOn s fun s => if s.boot.checking && s.boot.sentinel ≠ .running then s.checkEnd else s

/-! Start. -/

/-- SENTINEL_COMPLETE (R463 to R467). -/
def execSentinelComplete (gold : BitVec 100) (errWorking errGolden : Bool) (s : State) : Host.Outcome State Fault Refusal :=
  ifOn s fun s => if s.boot.sentinel = .running then s.sentinelEnd gold errWorking errGolden else s

/-- VOICE_IMAGE_LOAD: once for each start (R473 to R476; 19 R794). -/
def execVoiceImageLoad (bad : BitVec 4) (s : State) : Host.Outcome State Fault Refusal :=
  ifOn s fun s =>
    if s.cdrRuns && s.mc.ready && !s.boot.imagesDone then (s.modBoot fun b => { b with imagesDone := true }).runImages true bad else s

/-! Commands on slots (section 11.8). -/

/-- A command that works on the slots is outstanding (Table 11.12, 10 R410 step 7). -/
def slotsHeld (s : State) : Bool := s.rings.active.any fun c => 0x81 ≤ c.op.toNat && c.op.toNat ≤ 0x84

/-- SLOT parameter: 0 or 1. -/
def badSlot : State → BitVec 5 → List Word → Bool := fun _ _ ps => 1 < (param ps 0).toNat

/-- What SLOT_INFO answers: version, rollback index, state, length and two words of the digest (log 23). -/
def State.slotInfo (s : State) (golden : Bool) : List Word :=
  let x := s.slotCheck golden false
  let d := if x.lenOk then packBytes (sha384 (wordBytes (x.words 0 x.len))) else []
  [x.word 5, x.word 6, if golden then 2 else s.wstate, x.word 4, d.getD 0 0, d.getD 1 0]

/-- SLOT_INFO. -/
def slotInfoCmd : CmdDef :=
  { mkCmd 0x80 1 6 srcMG (fun c s => (s, .final .ok (s.slotInfo (param c.params 0 = 1)))) with bad := badSlot }

/-- SLOT_INFO. -/
def execSlotInfo (h : Header) (slot : Word) (s : State) : Host.Outcome State Fault Refusal := cmdRow slotInfoCmd h [slot] s

/-- A pointer of two parameter words names `n` words that `p` admits, from lane 0 (03 R70, R72). -/
def srcOk (p : Nat → Bool) (lo hi : Word) (n : Nat) : Bool :=
  let ptr := pair hi lo
  let a := (bits ptr 2 36).toNat
  bits ptr 0 2 = 0 && bits ptr 38 10 = 0 && (n = 0 || (p a && p (a + n - 1)))

/-- The Working slot is erased and PENDING (R480). -/
def State.slotErase (s : State) : State :=
  ({ s with flash := Memory.clearWords s.flash workingBase slotWords }).writeRecord fun r => r.set 2 1

/-- SLOT_WRITE: with length 0 it erases at its start (R480); else it programs at its end (R481). -/
def slotWriteCmd : CmdDef :=
  { mkCmd slotWriteOp 5 0 srcMG (fun c s => if param c.params 4 = 0 then (s.slotErase, .running 0) else (s, .running 0)) with
    long := true, abortable := true
    denied := fun s _ ps =>
      if param ps 4 = 0 then !s.boot.golden && !s.boot.xipOff else s.wstate != 1
    bad := fun s _ ps =>
      let n := (param ps 4).toNat
      param ps 0 != 0 ||
        (n != 0 && (slotWords < (param ps 1).toNat + n || !srcOk s.inDram (param ps 2) (param ps 3) n ||
          !((s.flashWords (slotTarget ps) n).all fun w => w = 0xFFFFFF)))
    busy := fun s _ => slotsHeld s }

/-- SLOT_ERASE: SLOT_WRITE with length 0. -/
def execSlotErase (h : Header) (slot off p0 p1 : Word) (s : State) : Host.Outcome State Fault Refusal :=
  cmdRow slotWriteCmd h [slot, off, p0, p1, 0] s

/-- SLOT_WRITE. -/
def execSlotWrite (h : Header) (slot off p0 p1 len : Word) (s : State) : Host.Outcome State Fault Refusal :=
  cmdRow slotWriteCmd h [slot, off, p0, p1, len] s

/-- The words of a SLOT_WRITE are programmed; a source that cannot be read ends it (log 23). -/
def State.slotProgram (s : State) (c : Cmd) (readErr : Bool) : State :=
  let n := (param c.params 4).toNat
  if n = 0 then s.finish c .ok []
  else
    let r := s.cdrWords (bits (pair (param c.params 3) (param c.params 2)) 2 36).toNat n
    let s := r.1
    if readErr || r.2.any (·.2) then s.finish c .verifyFailed []
    else ({ s with flash := Memory.setWords flashDefault s.flash (slotTarget c.params) (r.2.map fun (p : Word × Bool) => p.1) }).finish c .ok []

/-- Microseconds since a command started. -/
def State.sinceStart (s : State) (c : Cmd) : Word := satNat 24 ((s.tempo.count - c.startAt) / 1000)

/-- SLOT_VERIFY (R483). -/
def slotVerifyCmd : CmdDef :=
  { mkCmd 0x82 1 2 srcMG (fun _ s => (s, .running 0)) with
    long := true, abortable := true, bad := badSlot, busy := fun s _ => slotsHeld s }

/-- SLOT_VERIFY. -/
def execSlotVerify (h : Header) (slot : Word) (s : State) : Host.Outcome State Fault Refusal := cmdRow slotVerifyCmd h [slot] s

/-- SLOT_VERIFY reports its reason and its duration. -/
def State.slotVerified (s : State) (c : Cmd) (readErr : Bool) : State :=
  s.finish c .ok [(s.imageReason (s.slotCheck (param c.params 0 = 1) readErr)).setWidth 24, s.sinceStart c]

/-- SLOT_COMMIT (R484). -/
def slotCommitCmd : CmdDef :=
  { mkCmd 0x83 0 0 srcMG (fun _ s => (s, .running 0)) with
    long := true
    busy := fun s _ => slotsHeld s || (s.running fuseWriteOp).isSome || s.boot.fzBusy.isSome }

/-- SLOT_COMMIT. -/
def execSlotCommit (h : Header) (s : State) : Host.Outcome State Fault Refusal := cmdRow slotCommitCmd h [] s

/-- SLOT_COMMIT verifies, writes COMMITTED and raises the floor (R470, R484). -/
def State.slotCommitted (s : State) (c : Cmd) (readErr : Bool) : State :=
  if s.imageReason (s.slotCheck false readErr) != 0 then s.finish c .verifyFailed []
  else ((s.writeRecord fun r => r.set 2 2).floorFollows).finish c .ok []

/-- RESCORE (R485). -/
def rescoreCmd : CmdDef :=
  { mkCmd 0x84 0 0 srcMG (fun _ s => (s, .running 0)) with long := true, busy := fun s _ => slotsHeld s }

/-- RESCORE. -/
def execRescore (h : Header) (s : State) : Host.Outcome State Fault Refusal := cmdRow rescoreCmd h [] s

/-! IMAGE_SEAL (R479). -/

/-- The address of the tag of an image: directly after the signature block. -/
def tagAddr (a len : Nat) : Nat := (a + 3 * (len + 64)) % 2 ^ 32

/-- IMAGE_SEAL. -/
def imageSealCmd : CmdDef :=
  { mkCmd 0x85 3 2 srcM (fun _ s => (s, .running 0)) with
    long := true, abortable := true
    bad := fun _ _ ps => above (param ps 1) 8
    busy := fun s _ => (s.running 0x85).isSome }

/-- IMAGE_SEAL. -/
def execImageSeal (h : Header) (a0 a1 len : Word) (s : State) : Host.Outcome State Fault Refusal := cmdRow imageSealCmd h [a0, a1, len] s

/-- IMAGE_SEAL verifies under the signed mode, writes the tag and raises VOICE_FLOOR (R456, R472, R479). -/
def State.imageSealed (s : State) (c : Cmd) (readErr : Bool) : State :=
  let a := xAddr (param c.params 0) (param c.params 1)
  let x := s.voiceCheck a ((param c.params 2).toNat / 3 - 64) none readErr
  if s.imageReason x != 0 then s.finish c .verifyFailed []
  else
    let t := tagAddr a x.len
    let tag := hmac384 deviceKeyBytes (wordBytes (x.words 0 (x.len + 64)))
    let s := { s with xflash := programFlash s.xflash t tag }
    let s := if s.voiceFloor < x.rollback then s.writeRecord fun r => r.set 3 (x.word 6) else s
    s.finish c .ok [BitVec.ofNat 24 t, BitVec.ofNat 24 (t / 2 ^ 24)]

/-! FUSE_WRITE (R462). -/

/-- FUSE_WRITE. -/
def fuseWriteCmd : CmdDef :=
  { mkCmd fuseWriteOp 1 0 srcG (fun c s =>
      (s.modBoot fun b => { b with fzBusy := some ((param c.params 0).setWidth 8, param c.params 1) }, .running 0)) with
    long := true
    lenOk := fun ps => 2 ≤ ps.length && ps.length ≤ 17
    denied := fun s _ _ => !s.boot.perms.getLsbD 2
    bad := fun s _ ps =>
      let row := (param ps 0).toNat
      256 < row + (ps.length - 1) || (List.range (ps.length - 1)).any fun i => s.rowRefused (row + i)
    busy := fun s _ => s.boot.fzBusy.isSome || (s.running fuseWriteOp).isSome || (s.running 0x83).isSome }

/-- FUSE_WRITE. -/
def execFuseWrite (h : Header) (row : Word) (data : List Word) (s : State) : Host.Outcome State Fault Refusal :=
  cmdRow fuseWriteCmd h (row :: data) s

/-- The rows that are left are programmed, the first failing where `err` holds. -/
def State.fuseRest (s : State) (err : Bool) : Nat → State
  | 0 => s
  | n + 1 => if s.boot.fzBusy.isNone then s else State.fuseRest (s.fuseEnd (!err)) err n

/-- FUSE_WRITE ends (R462). -/
def State.fusesWritten (s : State) (c : Cmd) (err : Bool) : State :=
  let s := s.fuseRest err 16
  match s.running fuseWriteOp with
  | some c' => s.finish c' (if 1000 ≤ c'.aux then .verifyFailed else .ok) []
  | none => s.dropCmd c

/-! TRACE_AUTH (16 R684). -/

/-- TRACE_AUTH. -/
def traceAuthCmd : CmdDef :=
  { mkCmd 0x70 3 0 srcG (fun _ s => (s, .running 0)) with
    long := true, abortable := true
    absent := fun s _ => !s.die.variant.trace
    bad := fun s _ ps => param ps 2 != 240 || !srcOk s.inMem (param ps 0) (param ps 1) 80
    busy := fun s _ => (s.running 0x70).isSome }

/-- TRACE_AUTH. -/
def execTraceAuth (h : Header) (p0 p1 len : Word) (s : State) : Host.Outcome State Fault Refusal := cmdRow traceAuthCmd h [p0, p1, len] s

/-- TRACE_AUTH verifies its certificate and sets the debug set (16 R684). -/
def State.traceAuthorised (s : State) (c : Cmd) (readErr : Bool) : State :=
  let r := s.cdrWords (bits (pair (param c.params 1) (param c.params 0)) 2 36).toNat 80
  let s := r.1
  let ws := r.2.map (·.1)
  if !readErr && !r.2.any (·.2) && s.boot.session && (ws.getD 2 0).getLsbD 4 && (ws.drop 4).take 12 = s.boot.sessChal && s.certSigned ws then
    (s.modBoot fun b => { b with parts := ws.getD 3 0 &&& 0xFFFE }).finish c .ok []
  else s.finish c .verifyFailed []

end Sys2Proof.Machine
end

