-- ==== Sys2Proof/Machine/Commands.lean ====
section
/-! DEFINITION. The system, pool and abort command groups, the table of all opcodes, the service of rings and the command
doorbells, and the registers of the pools (10). -/
namespace Sys2Proof.Machine

/-! System group (10 Table 10.4; 11 R476 to R478). -/

/-- NOP. -/
def nopCmd : CmdDef := mkCmd 0x00 0 0 srcAll (okCmd id)
/-- NOP. -/
def execNop (h : Header) (s : State) : Host.Outcome State Fault Refusal := cmdRow nopCmd h [] s

/-- Slot and boot state (11 R478). -/
def State.bootState (s : State) : Word :=
  (s.boot.info &&& 7) ||| flag 24 3 s.gated ||| flag 24 4 s.allowUntested ||| flag 24 5 s.boot.started |||
    (s.boot.badReason.setWidth 24 <<< 8) ||| (s.boot.badIndex.setWidth 24 <<< 16)

/-- GET_INFO. -/
def getInfoCmd : CmdDef :=
  mkCmd 0x01 0 6 srcAll fun _ s =>
    (s, .final .ok [s.boot.imgVer, s.boot.imgIface, s.boot.stepMask.1, s.boot.stepMask.2, s.sysStep, s.bootState])
/-- GET_INFO. -/
def execGetInfo (h : Header) (s : State) : Host.Outcome State Fault Refusal := cmdRow getInfoCmd h [] s

/-- The cores of a mask are released at a pointer, all or none (R415, R416; 19 R794). -/
def State.releaseCores (s : State) (ps : List Word) (despite : Bool) : State × CmdEnd :=
  let mask := (param ps 0).setWidth 12
  if !s.mc.ready then (s, .final .notPermitted [])
  else if s.gated && !despite then (s, .final .versionUntested [])
  else if mask = 0 || s.anyReleased mask then (s, .final .notPermitted [])
  else (s.startCores mask (pair (param ps 2) (param ps 1)), .final .ok [])

/-- RELEASE_CORES. -/
def releaseCoresCmd : CmdDef :=
  { mkCmd 0x02 4 0 srcMG (fun c s => s.releaseCores c.params false) with absent := absentMask, bad := badMask }
/-- RELEASE_CORES. -/
def execReleaseCores (h : Header) (mask p0 p1 resv : Word) (s : State) : Host.Outcome State Fault Refusal :=
  cmdRow releaseCoresCmd h [mask, p0, p1, resv] s

/-- RELEASE_AUTH: the loading and checking of R473 and R474, then the release, which a session whose certificate holds RELEASE makes
despite R476 (11 R477; log 23). `bad` tells of which images a read meets an uncorrectable error. -/
def releaseAuthCmd (bad : BitVec 4) : CmdDef :=
  { mkCmd 0x03 4 0 srcG (fun c s =>
      (if s.mc.ready then s.runImages false bad else s).releaseCores c.params (s.boot.perms.getLsbD 3)) with
    absent := absentMask, bad := badMask }
/-- RELEASE_AUTH. -/
def execReleaseAuth (h : Header) (mask p0 p1 : Word) (tail : AuthTail) (s : State) : Host.Outcome State Fault Refusal :=
  cmdRow (releaseAuthCmd tail.bad) h [mask, p0, p1, tail.resv] s

/-- Replies that a ring holds are written as far as there is room (R397, R409). -/
def State.flushHeld (s : State) (r : BitVec 5) : Nat → State
  | 0 => s
  | n + 1 =>
    match s.rings.held.find? fun p => p.1 = r with
    | none => s
    | some p =>
      if ringBit s.rings.stopped r || 1024 < (s.rplProd r - s.rplCons r).toNat + p.2.length then s
      else State.flushHeld ((s.modRings fun x => { x with held := x.held.erase p }).writeReply r p.2) r n

/-- RING_CTL (R397, R411; log 23). -/
def State.ringCtl (s : State) (v : Word) : State × CmdEnd :=
  let r : BitVec 5 := (bits v 0 4).setWidth 5
  let out := s.ringState r = 2 || ringBit s.rings.stopped r
  match (bits v 4 2).toNat with
  | 0 => (s.setRingWord r 4 0, .final .ok [])
  | 1 => if out then (s, .final .notPermitted []) else (s.setRingWord r 4 1, .final .ok [])
  | _ =>
    if !out then (s, .final .notPermitted [])
    else if !s.ringLimits r then (s, .final .badParam [])
    else
      let s := (s.setRingWord r 4 1).modRings fun x => { x with stopped := setBit x.stopped r.toNat false }
      ((s.learn r).flushHeld r 64, .final .ok [])

/-- RING_CTL. -/
def ringCtlCmd : CmdDef :=
  { mkCmd 0x06 1 0 srcM (fun c s => s.ringCtl (param c.params 0)) with
    bad := fun _ _ ps => above (param ps 0) 6 || bits (param ps 0) 4 2 = 3 }
/-- RING_CTL with action 0. -/
def execRingDisable (h : Header) (ring : Word) (s : State) : Host.Outcome State Fault Refusal := cmdRow ringCtlCmd h [ring &&& ~~~0x30] s
/-- RING_CTL with action 1. -/
def execRingEnable (h : Header) (ring : Word) (s : State) : Host.Outcome State Fault Refusal := cmdRow ringCtlCmd h [ring &&& ~~~0x30 ||| 0x10] s
/-- RING_CTL with action 2. -/
def execRingRestart (h : Header) (ring : Word) (s : State) : Host.Outcome State Fault Refusal := cmdRow ringCtlCmd h [ring &&& ~~~0x30 ||| 0x20] s

/-- NOTICE_READ (R404, R405). -/
def State.noticeRead (s : State) : State × List Word :=
  let lost := s.rings.lost.setWidth 24 <<< 16
  match s.rings.notices with
  | [] => (s.modRings fun x => { x with lost := 0 }, [lost, 0])
  | n :: rest =>
    let more := !rest.isEmpty
    (s.modRings fun x => { x with notices := rest, lost := 0, noticePend := x.noticePend || more },
      [n.1.setWidth 24 ||| flag 24 8 more ||| lost, n.2])

/-- NOTICE_READ. -/
def noticeReadCmd : CmdDef := mkCmd 0x07 0 2 srcM fun _ s => let r := s.noticeRead; (r.1, .final .ok r.2)
/-- NOTICE_READ. -/
def execNoticeRead (h : Header) (s : State) : Host.Outcome State Fault Refusal := cmdRow noticeReadCmd h [] s

/-! Pool group (section 10.7). -/

/-- The pool that a parameter names. -/
def poolOf (v : Word) : Fin 32 := (bits v 0 5).toFin
/-- The pool parameter is out of range or names a pool that is not enabled (R863). -/
def badPool (s : State) (ps : List Word) : Bool := above (param ps 0) 5 || !(s.pool (poolOf (param ps 0))).en

/-- First word after a pool. -/
def Pool.endAt (p : Pool) : Nat := p.base.toNat + p.count.toNat * p.lines * 24

/-- The conditions of R427. -/
def State.poolFits (s : State) (ps : List Word) : Bool :=
  let base := (paddrOf (param ps 1) (param ps 2)).toNat
  let size := (param ps 3).toNat
  let count := (param ps 4).toNat
  let last := base + count * size * 24
  !above (param ps 0) 5 && !above (param ps 2) 12 && base % 24 = 0 && 1 ≤ size && size ≤ 1024 && 3 ≤ count && count ≤ 524287 &&
    !above (param ps 5) 4 && s.inDram base && s.inDram (last - 1) && !(s.pool (poolOf (param ps 0))).en &&
    (List.finRange 32).all fun p => let x := s.pool p; !x.en || last ≤ x.base.toNat || x.endAt ≤ base

/-- POOL_CREATE (R427, R428). -/
def poolCreateCmd : CmdDef :=
  { mkCmd 0x90 7 0 srcM (fun c => okCmd (fun s =>
      let ps := c.params
      s.setPool (poolOf (param ps 0))
        { Pool.reset with
          base := paddrOf (param ps 1) (param ps 2), size := (param ps 3).setWidth 10, owner := (param ps 5).setWidth 4
          count := (param ps 4).setWidth 19 }.enable) c) with
    bad := fun s _ ps => !s.poolFits ps }
/-- POOL_CREATE. -/
def execPoolCreate (h : Header) (pool b0 b1 size count owner resv : Word) (s : State) : Host.Outcome State Fault Refusal :=
  cmdRow poolCreateCmd h [pool, b0, b1, size, count, owner, resv] s

/-- POOL_DESTROY (R435). -/
def poolDestroyCmd : CmdDef :=
  { mkCmd 0x91 1 0 srcM (fun c => okCmd (fun s =>
      let p := poolOf (param c.params 0)
      s.setPool p { s.pool p with en := false, free := [] }) c) with
    bad := fun s _ ps => badPool s ps
    busy := fun s ps => let x := s.pool (poolOf (param ps 0)); x.free.length < x.count.toNat }
/-- POOL_DESTROY. -/
def execPoolDestroy (h : Header) (pool : Word) (s : State) : Host.Outcome State Fault Refusal := cmdRow poolDestroyCmd h [pool] s

/-- POOL_READ: free, low mark, count; a partition reads only its own pools (R863). -/
def poolReadCmd : CmdDef :=
  { mkCmd 0x92 1 3 srcMP (fun c s =>
      let x := s.pool (poolOf (param c.params 0))
      (s, .final .ok [BitVec.ofNat 24 x.free.length, x.low.setWidth 24, x.count.setWidth 24])) with
    denied := fun s r ps => r != 0 && !badPool s ps && (s.pool (poolOf (param ps 0))).owner.toNat != r.toNat
    bad := fun s _ ps => badPool s ps }

/-- `n` buffers are taken as the Conductor; none where one cannot be granted (R436). -/
def State.takeBuffers (s : State) (p : Fin 32) : Nat → State × List Word
  | 0 => (s, [])
  | n + 1 =>
    let r := s.grant p true
    let rest := State.takeBuffers r.1 p n
    (rest.1, r.2 :: rest.2)

/-- POOL_TAKE (R436). -/
def poolTakeCmd : CmdDef :=
  { mkCmd 0x93 2 0 srcMDG (fun c s =>
      let p := poolOf (param c.params 0)
      let n := (param c.params 1).toNat
      if n ≤ (s.pool p).free.length then let r := s.takeBuffers p n; (r.1, .final .ok r.2)
      else ({ s with bm := { s.bm with empty := setBit s.bm.empty p.val true } }, .final .poolEmpty [])) with
    bad := fun s _ ps => badPool s ps || param ps 1 = 0 || 8 < (param ps 1).toNat
    results := fun ps => min 8 (param ps 1).toNat }
/-- POOL_TAKE. -/
def execPoolTake (h : Header) (pool n : Word) (s : State) : Host.Outcome State Fault Refusal := cmdRow poolTakeCmd h [pool, n] s

/-- POOL_GIVE: each handle is released as the Conductor releases it (R433, R437). -/
def poolGiveCmd : CmdDef :=
  { mkCmd 0x94 0 0 srcMDG (fun c => okCmd (fun s =>
      (c.params.drop 3).foldl (fun s hd => s.release (poolOf (param c.params 0)) hd true) s) c) with
    lenOk := fun ps => 3 ≤ ps.length && ps.length = 3 + (param ps 1).toNat
    bad := fun s _ ps =>
      badPool s ps || param ps 1 = 0 || 8 < (param ps 1).toNat ||
        (ps.drop 3).any fun hd => handlePool hd ≠ poolOf (param ps 0) || (s.pool (poolOf (param ps 0))).count.toNat ≤ handleIndex hd }
/-- POOL_GIVE. -/
def execPoolGive (h : Header) (pool n resv : Word) (handles : List Word) (s : State) : Host.Outcome State Fault Refusal :=
  cmdRow poolGiveCmd h ([pool, n, resv] ++ handles) s

/-! ABORT (section 10.6). -/

/-- Every opcode of Table 10.4 but ABORT. -/
def opcodes : List CmdDef :=
  [nopCmd, getInfoCmd, releaseCoresCmd, releaseAuthCmd 0, haltCoresCmd, sysResetCmd, ringCtlCmd, noticeReadCmd, powerEnterCmd, coreHushCmd,
    clockSetCmd, barConfigCmd, barRunCmd, barLockCmd, barReadCmd, timeReadCmd, timeSetCmd, tempoRefsCmd, tempoPolicyCmd, tempoStepCmd,
    ptpCorrectCmd, duetStatusCmd, linkTrainCmd, duetRoleCmd, refrainCfgCmd, refrainEnCmd, duetTimingCmd, partnerCmdDef] ++
  [rehPlanCmd, rehRunCmd, rehStatusCmd, ledgerReadCmd, ledgerCfgCmd, ledgerClearCmd, repairCmd, traceAuthCmd, traceRevokeCmd, traceOwnCmd,
    slotInfoCmd, slotWriteCmd, slotVerifyCmd, slotCommitCmd, rescoreCmd, imageSealCmd, fuseWriteCmd, poolCreateCmd, poolDestroyCmd,
    poolReadCmd, poolTakeCmd, poolGiveCmd]

/-- The opcode can be aborted (R413). -/
def opAbortable (op : BitVec 8) : Bool := opcodes.any fun d => d.op = op && d.abortable

/-- The completion of an outstanding command is committed (R412): its commit point has passed. -/
def Cmd.isCommitted (c : Cmd) : Bool := c.committed || (c.op = slotWriteOp && param c.params 4 = 0)

/-- The effect that an aborted command leaves: none, but for R482; a BAR_CONFIG restores its staging (R422). -/
def State.undoCmd (s : State) (c : Cmd) : State :=
  if c.op = barConfigOp then s.modBar fun b => b.unpackStaged c.aux
  else if c.op = slotWriteOp then s.slotUndefined c
  else s

/-- The first of the whole packets of a ring from index `i` on, of which `av` words are known, that holds a tag and that no ABORT has
ended: its index. -/
def State.findPacket (s : State) (r : BitVec 5) (tag i : Word) (av : Nat) : Nat → Option Word
  | 0 => none
  | n + 1 =>
    let k := (bits (s.reqWord r i) 0 12).toNat
    if k < 2 || 256 < k || av < k then none
    else if s.reqWord r (i + 1) = tag && !s.rings.cancelled.contains (r, i) then some i
    else s.findPacket r tag (i + BitVec.ofNat 24 k) (av - k) n

/-- The packet of a ring with a tag that the Conductor knows of and has not started. -/
def State.waitingPacket (s : State) (r : BitVec 5) (tag : Word) : Option Word :=
  match s.head r with
  | .packet _ => s.findPacket r tag (s.reqCons r) (s.avail r) 1024
  | _ => none

/-- The packet at index `i` waits under ORDERED (R387): an earlier command of its ring, or an earlier packet, has no final reply. -/
def State.waitsOrdered (s : State) (r : BitVec 5) (i : Word) : Bool :=
  (bits (s.reqWord r i) 12 4).getLsbD 0 && (i ≠ s.reqCons r || s.rings.active.any fun c => c.ring = r)

/-- The packet at index `i`, which has not started, ends with its ABORTED reply and is passed over when its turn comes. The reply is
written at once where the ring has room that is kept for no other, and else held (R423, R424; log 28). -/
def State.abortWaiting (s : State) (r : BitVec 5) (i : Word) : State :=
  let tag := s.reqWord r (i + 1)
  let s := s.modRings fun x => { x with cancelled := x.cancelled ++ [(r, i)] }
  if 3 ≤ s.rplFree r then s.reply r .aborted true tag i []
  else s.modRings fun x => { x with held := x.held ++ [(r, replyWords .aborted true tag i [])] }

/-- ABORT is examined (R422 to R424). -/
def State.abort (s : State) (ring : BitVec 5) (tag : Word) : State × CmdEnd :=
  match s.rings.active.find? fun c => c.ring = ring && c.tag = tag with
  | some c =>
    if c.isCommitted then (s, .final .tooLate [])
    else if !opAbortable c.op then (s, .final .notAbortable [])
    else ((s.undoCmd c).finish c .aborted [], .final .ok [])
  | none =>
    match s.waitingPacket ring tag with
    | some i =>
      if !s.waitsOrdered ring i then (s, .final .tooLate [])
      else if !opAbortable (bits (s.reqWord ring i) 16 8) then (s, .final .notAbortable [])
      else (s.abortWaiting ring i, .final .ok [])
    | none => (s, .final .tooLate [])

/-- The ring that an ABORT from ring `r` names. -/
def abortRing (r : BitVec 5) (v : Word) : BitVec 5 := if v = 0x1F then r else v.setWidth 5

/-- ABORT (R421, R422). -/
def abortDef : CmdDef :=
  { mkCmd 0xF0 2 0 srcAll (fun c s => s.abort (abortRing c.ring (param c.params 0)) (param c.params 1)) with
    denied := fun _ r ps => r != 0 && (param ps 0).toNat < 16 && (param ps 0).toNat != r.toNat
    bad := fun _ _ ps => 15 < (param ps 0).toNat && param ps 0 != 0x1F }
/-- ABORT. -/
def execAbortCmd (h : Header) (ring target : Word) (s : State) : Host.Outcome State Fault Refusal := cmdRow abortDef h [ring, target] s

/-! Service (R397, R399, R406, R409). -/

/-- The opcode of a packet (R404a). -/
def lookOp (op : BitVec 8) : Option CmdDef := if op = 0xF0 then some abortDef else opcodes.find? fun d => d.op = op

/-- The packet in front of a ring can be taken now. -/
def State.startable (s : State) (r : BitVec 5) : Bool :=
  let t := s.startHead lookOp r
  t.reqCons r != s.reqCons r || t.ringState r != s.ringState r

/-- The packet in front of a ring is taken, where no ring before it in the order of service has a doorbell to serve or a packet to
take. -/
def State.serveRing (s : State) (r : BitVec 5) : State :=
  let s := s.flushHeld r 64
  if (s.before r).any fun x => s.bell x || s.startable x then s else s.startHead lookOp r

/-- DOORBELL_CHECK (R397, R403, R442). -/
def execDoorbellCheck (ring : BitVec 5) (s : State) : Host.Outcome State Fault Refusal :=
  ifOn s fun s => if ring < 18 && s.serving && s.rung ring then (s.serveDoorbell ring).serveRing ring else s

/-- WAITING_COMMAND_START (R387, R409). -/
def execWaitingCommandStart (ring : BitVec 5) (s : State) : Host.Outcome State Fault Refusal :=
  ifOn s fun s => if ring < 18 && s.serving then s.serveRing ring else s

/-- A long command whose work is the Conductor's own ends (R390). -/
def State.completeCmd (s : State) (c : Cmd) (e : FinalEnv) : State :=
  match c.op.toNat with
  | 0x63 =>
    let r := if c.aux = 0 then s.runRepair c else (s, c)
    if r.2.aux = 1 then r.1.finish c .ok [] else if r.2.aux = 2 then r.1.finish c .notPermitted [] else r.1
  | 0x70 => s.traceAuthorised c e.readErr
  | 0x81 => s.slotProgram c e.readErr
  | 0x82 => s.slotVerified c e.readErr
  | 0x83 => s.slotCommitted c e.readErr
  | 0x84 => if e.readErr then s.finish c .verifyFailed [] else s.rescored.finish c .ok []
  | 0x85 => s.imageSealed c e.readErr
  | 0x86 => s.fusesWritten c e.fuseErr
  | _ => s

/-- LONG_COMMAND_FINAL. -/
def execLongCommandFinal (ring : BitVec 5) (tag : Word) (e : FinalEnv) (s : State) : Host.Outcome State Fault Refusal :=
  ifOn s fun s =>
    if !s.cdrRuns then s
    else match s.rings.active.find? fun c => c.ring = ring && c.tag = tag with
    | some c => s.completeCmd c e
    | none => s

/-! The doorbell window (Table 10.3). -/

/-- A write of DB_RING (R401). -/
def State.ringDoorbell (s : State) (w : Initiator) (v : Word) : State :=
  match w with
  | .voice c =>
    let x := s.core c
    if x.level = .monitor then s.ring ((bits v 0 4).setWidth 5) else if x.mptag = 0 then s else s.ring (x.mptag.setWidth 5)
  | .conductor => s.ring ((bits v 0 4).setWidth 5)
  | .debug => s.ring ((bits v 0 4).setWidth 5)
  | _ => s

/-- DB_RING. -/
def execDbRing (w : Initiator) (v : Word) (s : State) : Host.Outcome State Fault Refusal := ifActs w s fun s => s.ringDoorbell w v

/-- A write of DB_DEBUG by the debug port. -/
def State.debugDoorbell (s : State) (w : Initiator) (v : Word) : State := if w = .debug && v.getLsbD 0 then s.ring 17 else s

/-- DB_DEBUG. -/
def execDbDebug (w : Initiator) (v : Word) (s : State) : Host.Outcome State Fault Refusal := ifActs w s fun s => s.debugDoorbell w v

/-- A read of the doorbell window. -/
def State.dbRead (s : State) (off : Nat) : Word :=
  match off with
  | 1 => s.rings.dbPend.setWidth 24
  | 2 => flag 24 0 s.rings.dbPartner ||| flag 24 1 s.rings.dbDebug
  | 4 => ((s.rings.notices.head?.map fun (p : BitVec 8 × Word) => p.1).getD 0).setWidth 24 ||| flag 24 23 s.rings.noticePend
  | _ => 0

/-- A write of the doorbell window. -/
def State.dbWrite (s : State) (w : Initiator) (off : Nat) (v : Word) : State :=
  match off with
  | 0 => s.ringDoorbell w v
  | 1 => if w.isCdr then s.modRings fun x => { x with dbPend := x.dbPend &&& ~~~v.setWidth 16 } else s
  | 2 => if w.isCdr then s.modRings fun x => { x with dbPartner := w1c x.dbPartner (v.getLsbD 0), dbDebug := w1c x.dbDebug (v.getLsbD 1) } else s
  | 3 => s.debugDoorbell w v
  | 4 => if s.mayW1c w then s.modRings fun x => { x with noticePend := w1c x.noticePend (v.getLsbD 23) } else s
  | _ => s

/-! Pool registers with rows of their own (Table 10.7). -/

/-- POOL_ALLOC: a read of POOL_ALLOCp (R432). -/
def execPoolAlloc (w : Initiator) (pool : Fin 32) (s : State) : Host.Outcome State Fault Refusal := ifActs w s fun s => (s.poolAlloc w pool).1

/-- POOL_RELEASE: a write of POOL_RELEASEp (R433). -/
def execPoolRelease (w : Initiator) (pool : Fin 32) (v : Word) (s : State) : Host.Outcome State Fault Refusal :=
  ifActs w s fun s => s.poolRelease w pool v

/-- POOL_LOWMARK_WRITE (R439). -/
def execPoolLowmarkWrite (w : Initiator) (pool : Fin 32) (v : Word) (s : State) : Host.Outcome State Fault Refusal :=
  ifActs w s fun s => s.bmWrite w (0x105 + 8 * pool.val) v

end Sys2Proof.Machine
end

