-- ==== Sys2Proof/Machine/RegMap.lean ====
section
/-! DEFINITION. The register space and the Conductor's private space: which unit answers an address, and its reads and
writes (03 sections 3.4 and 3.5). -/
namespace Sys2Proof.Machine

/-- The register windows (03 Table 3.3). -/
inductive Win where
  | chorus | bar | tempo | mc | echo | duet | health | trace | bm | db
  | eth (n : Fin 2)
  | can (n : Fin 4)
  | spi | i2c | uart | gpio | pwm | accent | xspi | sys
deriving DecidableEq, Repr

/-- The window of a physical word address, with the offset in it; a reserved range has none (R75, R76). -/
def winAt (a : Nat) : Option (Win × Nat) :=
  let r := a - 0x1000000
  if a < 0x1000000 || 0x2000000 ≤ a then none
  else if r < 0x010000 then some (.chorus, r)
  else if r < 0x020000 then some (.bar, r - 0x010000)
  else if r < 0x030000 then some (.tempo, r - 0x020000)
  else if r < 0x038000 then some (.mc, r - 0x030000)
  else if r < 0x040000 then some (.echo, r - 0x038000)
  else if r < 0x050000 then some (.duet, r - 0x040000)
  else if r < 0x060000 then some (.health, r - 0x050000)
  else if r < 0x070000 then some (.trace, r - 0x060000)
  else if r < 0x078000 then some (.bm, r - 0x070000)
  else if r < 0x080000 then some (.db, r - 0x078000)
  else if r < 0x100000 then none
  else if r < 0x108000 then some (.eth 0, r - 0x100000)
  else if r < 0x110000 then some (.eth 1, r - 0x108000)
  else if r < 0x114000 then some (.can ⟨(r - 0x110000) / 0x1000 % 4, Nat.mod_lt _ (by decide)⟩, (r - 0x110000) % 0x1000)
  else if r < 0x120000 then none
  else if r < 0x130000 then some (.spi, r - 0x120000)
  else if r < 0x140000 then some (.i2c, r - 0x130000)
  else if r < 0x150000 then some (.uart, r - 0x140000)
  else if r < 0x160000 then some (.gpio, r - 0x150000)
  else if r < 0x170000 then some (.pwm, r - 0x160000)
  else if r < 0x180000 then some (.accent, r - 0x170000)
  else if r < 0x190000 then some (.xspi, r - 0x180000)
  else if r < 0xFF0000 then none
  else some (.sys, r - 0xFF0000)

/-- The number of a core, as a valid one. -/
def coreNo (n : Nat) : Fin 12 := ⟨n % 12, Nat.mod_lt _ (by decide)⟩

/-- A way map belongs to a cache that is present. -/
def State.hasWays (s : State) : WayReg → Bool
  | .l2ways sec => decide (sec.val < s.die.variant.sections)
  | .l3en n => decide (n.val < s.die.variant.slices)
  | .l3iso n => decide (n.val < s.die.variant.slices)

/-- The unit of a window, or the block or register at the offset, is present (00 R5, R837; 18 section 18.5). -/
def State.winPresent (s : State) (x : Win) (off : Nat) : Bool :=
  match x with
  | .chorus => (srcAt off).all fun p => decide (12 ≤ p.1) || s.hasCore (coreNo p.1)
  | .bar => decide (off < 0x100) || decide (0x1C0 ≤ off) || s.hasCore (barCore off)
  | .health =>
    if 0x800 ≤ off then (wayRegAt (off - 0x800)).all s.hasWays
    else decide (off < 0x20) || decide (0x23 ≤ off) || decide (off - 0x20 < s.die.variant.sections)
  | .sys => decide (off < 0x01E) || decide (0x021 ≤ off) || decide (off - 0x01E < s.die.variant.sections)
  | .echo => s.die.variant.duet
  | .duet => s.die.variant.duet
  | .trace => s.die.variant.trace && (decide (0x300 ≤ off) || decide (off / 0x100 < s.die.variant.sections))
  | .eth n => n.val < s.die.variant.eths
  | .can n => n.val < s.die.variant.cans
  | .accent => decide (0x80 ≤ off) || decide (off / 16 < s.die.variant.acmps)
  | _ => true

/-- The unit of a window of four units of 256 words (17 Table 17.8). -/
def unitAt (off : Nat) : Option (Fin 4 × Nat) := if h : off < 0x400 then some (⟨off / 0x100, by omega⟩, off % 0x100) else none

/-- A read of a register window; an offset that the map does not list reads as zero (R77). -/
def State.winRead (s : State) (w : Initiator) (x : Win) (off : Nat) : State × Word :=
  match x with
  | .chorus => s.chorusRead w off
  | .bar => (s, s.barRegRead off)
  | .tempo => s.tempoRead w off
  | .mc => (s, s.mcRead off)
  | .echo => (s, s.echoRead off)
  | .duet => (s, s.duetRead off)
  | .health => (s, if 0x800 ≤ off then s.cacheRead (off - 0x800) else s.healthRead w off)
  | .trace => s.traceRead w off
  | .bm => s.bmRead w off
  | .db => (s, s.dbRead off)
  | .eth n => (s, s.ethRead n off)
  | .can n => s.canRead w n off
  | .spi => match unitAt off with | some (n, o) => s.spiRead n o | none => (s, 0)
  | .i2c => match unitAt off with | some (n, o) => s.i2cRead n o | none => (s, 0)
  | .uart => match unitAt off with | some (n, o) => s.uartRead n o | none => (s, 0)
  | .gpio => (s, s.io.gpio.read off)
  | .pwm => (s, s.pwmRead off)
  | .accent => (s, s.accentRead off)
  | .xspi => (s, s.xspiRegRead off)
  | .sys => (s, s.sysRead w off)

/-- A write of a register window; an offset that the map does not list ignores it (R77). -/
def State.winWrite (s : State) (w : Initiator) (x : Win) (off : Nat) (v : Word) : State :=
  match x with
  | .chorus => s.chorusWrite w off v
  | .bar => s.barRegWrite w off v
  | .tempo => s.tempoWrite w off v
  | .mc => s.mcWrite w off v
  | .echo => s.echoWrite w off v
  | .duet => s.duetWrite w off v
  | .health => if 0x800 ≤ off then s.cacheWrite w (off - 0x800) v else s.healthWrite w off v
  | .trace => s.traceWrite w off v
  | .bm => s.bmWrite w off v
  | .db => s.dbWrite w off v
  | .eth n => s.ethWrite n off v
  | .can n => s.canWrite n off v
  | .spi => match unitAt off with | some (n, o) => s.modSpi n fun x => x.write o v | none => s
  | .i2c => match unitAt off with | some (n, o) => s.modI2c n fun x => x.write o v | none => s
  | .uart => match unitAt off with | some (n, o) => s.modUart n fun x => x.write o v | none => s
  | .gpio => s.gpioWrite w off v
  | .pwm => s.pwmWrite w off v
  | .accent => s.accentWrite w off v
  | .xspi => s.xspiRegWrite w off v
  | .sys => s.sysWrite w off v

/-- A word read of the register space; none is a bus error (R76; 00 R5). -/
def State.regRead (s : State) (w : Initiator) (a : Nat) : Option (State × Word) :=
  (winAt a).map fun (p : Win × Nat) => if s.winPresent p.1 p.2 then s.winRead w p.1 p.2 else (s, 0)

/-- A word write of the register space; none is a bus error. -/
def State.regWrite (s : State) (w : Initiator) (a : Nat) (v : Word) : Option State :=
  (winAt a).map fun (p : Win × Nat) => if s.winPresent p.1 p.2 then s.winWrite w p.1 p.2 v else s

/-! The private space (R80 to R82, Table 3.4). -/

/-- The parts of the private space. -/
inductive Priv where
  | alias_ | flash | sram | flashRegs | fuseRegs
deriving DecidableEq, Repr

/-- The part of a private word address, with the place in it: an offset, but for flash its own private address. -/
def privAt (a : Nat) : Option (Priv × Nat) :=
  if a < 0x0E0000 then some (.alias_, a)
  else if a < 0x200000 then none
  else if a < 0x400000 then some (.flash, a)
  else if a < 0x420000 then some (.sram, a - 0x400000)
  else if a < 0x421000 then some (.flashRegs, a - 0x420000)
  else if a < 0x422000 then some (.fuseRegs, a - 0x421000)
  else none

/-- A word of the private space; none is a bus error. -/
def State.privRead (s : State) (a : Nat) : Option Word :=
  (privAt a).map fun (p : Priv × Nat) => match p.1 with
    | .alias_ => s.flashWord (slotBase s.boot.golden + p.2)
    | .flash => s.flashWord p.2
    | .sram => Memory.word ramDefault s.csram p.2
    | .flashRegs => s.flashRegRead p.2
    | .fuseRegs => s.fuseRegRead p.2

/-- A write of lanes of a word of the private space (R82: a write through the alias sets ALIAS_WR; flash changes only
through its controller); none is a bus error. -/
def State.privWrite (s : State) (a : Nat) (v : Word) (lanes : BitVec 3) : Option State :=
  (privAt a).map fun (p : Priv × Nat) => match p.1 with
    | .alias_ => s.modBoot fun b => { b with aliasWr := true }
    | .flash => s
    | .sram => { s with csram := Memory.setLanes ramDefault s.csram p.2 v lanes }
    | .flashRegs => s.flashRegWrite p.2 v
    | .fuseRegs => s.fuseRegWrite p.2 v

/-- The private word is a register, to which R83 applies. -/
def privReg (a : Nat) : Bool := match privAt a with | some (.flashRegs, _) => true | some (.fuseRegs, _) => true | _ => false

/-- A write of the debug port to a private word (R81; 11 R452, R490): a session with PRIV also changes flash, a word of it at a time
(DESIGN CHOICE, log 36: the spec gives the flash controller no register to program with). -/
def State.debugPrivWrite (s : State) (a : Nat) (v : Word) : State :=
  match privAt a with
  | some (.flash, _) => { s with flash := Memory.setWord flashDefault s.flash a v }
  | _ => (s.privWrite a v 7).getD s

/-- REGISTER_WRITE: a write of one word to a register, in the shared map or in the private space. The debug port also writes memory,
as a DMA engine does (06 R212). To any other address nothing is written. -/
def execRegisterWrite (w : Initiator) (priv : Bool) (a : PAddr) (v : Word) (s : State) : Host.Outcome State Fault Refusal :=
  ifActs w s fun s =>
    if priv then
      if !s.reachesPrivate w then s
      else if w = .debug then s.debugPrivWrite a.toNat v
      else if privReg a.toNat then (s.privWrite a.toNat v 7).getD s else s
    else match s.regWrite w a.toNat v with
    | some t => t
    | none => if w = .debug then (s.domainWrite .debug a.toNat [v]).1 else s

end Sys2Proof.Machine
end

