-- ==== Sys2Proof/Machine/Operands.lean ====
section
/-! DEFINITION. Operands of instructions: registers and pairs, immediates, pointers, and the words that encode instructions
(04 sections 4.1, 4.2, 4.3 and 4.5; 03 section 3.2). -/
namespace Sys2Proof.Machine

/-! Registers (04 R102, R103). -/

/-- W0 to W31 of a core, as stored. -/
def State.regs (s : State) : Core → Vector Word 32
  | .voice c => (s.core c).w
  | .conductor => s.cdr.w

/-- The state with the registers of a core replaced. -/
def State.setRegs (s : State) (k : Core) (v : Vector Word 32) : State :=
  match k with
  | .voice c => s.modCore c fun x => { x with w := v }
  | .conductor => { s with cdr := { s.cdr with w := v } }

/-- A word register; W0 reads as zero (R102). -/
def State.rw (s : State) (k : Core) (r : BitVec 5) : Word := if r = 0 then 0 else (s.regs k)[r.toFin]

/-- A word register written; a write to W0 is discarded (R102). -/
def State.setW (s : State) (k : Core) (r : BitVec 5) (v : Word) : State :=
  if r = 0 then s else s.setRegs k ((s.regs k).set r.toFin v)

/-- A pair named by its even register number; D0 reads as zero (R102, R109). -/
def State.rd (s : State) (k : Core) (r : BitVec 5) : DWord :=
  if r = 0 then 0 else pair ((s.regs k)[(r ||| 1).toFin]) ((s.regs k)[r.toFin])

/-- A pair written, both halves together; a write to D0 is discarded (R102, R103). -/
def State.setD (s : State) (k : Core) (r : BitVec 5) (v : DWord) : State :=
  if r = 0 then s else s.setRegs k (((s.regs k).set r.toFin (lo24 v)).set (r ||| 1).toFin (hi24 v))

/-- The PC of a core. -/
def State.pc (s : State) : Core → DWord
  | .voice c => (s.core c).pc
  | .conductor => s.cdr.pc

/-- The PC of a core replaced. -/
def State.setPc (s : State) (k : Core) (p : DWord) : State :=
  match k with
  | .voice c => s.modCore c fun x => { x with pc := p }
  | .conductor => { s with cdr := { s.cdr with pc := p } }

/-- Accumulator `n` of a Voice core. -/
def State.acc (s : State) (c : Fin 12) (n : BitVec 2) : BitVec 56 := (s.core c).acc[n.toFin]
/-- An accumulator written. -/
def State.setAcc (s : State) (c : Fin 12) (n : BitVec 2) (v : BitVec 56) : State :=
  s.modCore c fun x => { x with acc := x.acc.set n.toFin v }

/-- The field names a pair (R109). -/
def isPair (r : BitVec 5) : Bool := !r.getLsbD 0

/-! Immediates (04 R111, R114). -/

/-- An 8-bit immediate with its EXT payload, sign-extended and reduced to the operand width. -/
def immS (f : Fetch) (imm : BitVec 8) (n : Nat) : BitVec n :=
  match f.ext with | none => imm.signExtend n | some e => (e ++ imm : BitVec 26).signExtend n
/-- An 8-bit immediate with its EXT payload, zero-extended and reduced to the operand width. -/
def immZ (f : Fetch) (imm : BitVec 8) (n : Nat) : BitVec n :=
  match f.ext with | none => imm.setWidth n | some e => (e ++ imm : BitVec 26).setWidth n
/-- An 18-bit offset with its EXT payload, sign-extended. -/
def off18 (f : Fetch) (off : BitVec 18) : DWord :=
  match f.ext with | none => off.signExtend 48 | some e => (e ++ off : BitVec 36).signExtend 48

/-! Pointers (03 section 3.2, 04 section 4.5). -/

/-- The lane of a pointer. -/
def ptrLane (p : DWord) : BitVec 2 := bits p 0 2
/-- `n` words added to a pointer: bits [47:2]. -/
def ptrWords (p : DWord) (n : DWord) : DWord := p + (n <<< 2)
/-- The byte index of a pointer, 3W + L with W signed. -/
def ptrIndex (p : DWord) : Int := 3 * (bits p 2 46).toInt + (ptrLane p).toNat
/-- The pointer of a byte index: the word part rounds down. -/
def ptrOf (i : Int) : DWord := (BitVec.ofInt 46 (i / 3)) ++ (BitVec.ofInt 2 (i % 3))
/-- `n` bytes added to a pointer. -/
def ptrBytes (p : DWord) (n : Int) : DWord := ptrOf (ptrIndex p + n)
/-- A pointer that is canonical as a virtual pointer (03 R70). -/
def canonical (p : DWord) : Bool := let h := bits p 41 7; h = 0 || h = BitVec.allOnes 7
/-- A pointer that holds a physical word address (03 R71). -/
def physical (p : DWord) : Bool := bits p 38 10 = 0
/-- The physical word address in a pointer. -/
def ptrAddr (p : DWord) : PAddr := bits p 2 36
/-- The virtual word address in a pointer: 40 bits. -/
def ptrVa (p : DWord) : Nat := (bits p 2 40).toNat

/-! Encodings (04 Tables 4.2 and 4.3). -/

/-- Format R. -/
def encR (major : BitVec 6) (fn : BitVec 3) (rd rs1 rs2 : BitVec 5) : Word := major ++ rd ++ rs1 ++ rs2 ++ fn
/-- Formats I, S and B: two register fields and 8 bits. -/
def encI (major : BitVec 6) (a b : BitVec 5) (imm : BitVec 8) : Word := major ++ a ++ b ++ imm
/-- Format J. -/
def encJ (major : BitVec 6) (off : BitVec 18) : Word := major ++ off
/-- Format C. -/
def encC (major : BitVec 6) (r : BitVec 5) (bit12 : Bool) (csr : BitVec 12) : Word := major ++ r ++ BitVec.ofBool bit12 ++ csr
/-- An EXT (R112). -/
def encExt (e : BitVec 18) : Word := (0x3F : BitVec 6) ++ e

/-- What the decoder tells of an instruction: its word, whether EXT applies to it (Table 4.3), whether its fields are legal
(R109, R110), whether the C profile executes it (Table 4.11), its lowest level on a Voice core (Table 4.9), and whether it needs
the extended state (R105) and a rounding mode (R126). -/
structure Insn where
  word  : Word
  extOk : Bool
  legal : Bool
  cdr   : Bool
  level : Level
  xs    : Bool
  fp    : Bool
deriving DecidableEq, Repr

/-- An instruction of group R that any level executes, on the Conductor too. -/
def insnR (major : BitVec 6) (fn : BitVec 3) (rd rs1 rs2 : BitVec 5) (legal : Bool) : Insn :=
  { word := encR major fn rd rs1 rs2, extOk := false, legal, cdr := true, level := .user, xs := false, fp := false }
/-- An instruction of format I, S or B that any level executes, on the Conductor too. -/
def insnI (major : BitVec 6) (a b : BitVec 5) (imm : BitVec 8) (legal : Bool) : Insn :=
  { word := encI major a b imm, extOk := true, legal, cdr := true, level := .user, xs := false, fp := false }
/-- An accumulator instruction (R105). -/
def insnA (major : BitVec 6) (fn : BitVec 3) (rd rs1 rs2 : BitVec 5) (legal : Bool) : Insn :=
  { insnR major fn rd rs1 rs2 legal with cdr := false, xs := true }
/-- A floating-point instruction (R105, R126). -/
def insnF (major : BitVec 6) (fn : BitVec 3) (rd rs1 rs2 : BitVec 5) (legal : Bool) : Insn :=
  { insnR major fn rd rs1 rs2 legal with cdr := false, xs := true, fp := true }

/-- The level is at least the lowest level of an instruction or CSR. -/
def Level.atLeast : Level → Level → Bool
  | .monitor, _ => true
  | .kernel, .monitor => false
  | .kernel, _ => true
  | .user, .user => true
  | .user, _ => false

end Sys2Proof.Machine
end

