-- ==== Sys2Proof/Machine/Except.lean ====
section
/-! DEFINITION. Taking an exception, an interrupt or an asynchronous event, and returning from one (05 sections 5.3 to 5.6 and
5.7.1). -/
namespace Sys2Proof.Machine

/-- A synchronous exception (05 Table 5.1): its code, the translation fault code (07 R266), the value of xDETAIL (Table 5.2),
and the stage-2 input address that faulted (07 R268). -/
structure Exc where
  code   : BitVec 9
  sub    : BitVec 8
  detail : DWord
  gwa    : Option PAddr
deriving DecidableEq, Repr

/-- An exception with no translation fault. -/
def Exc.of (code : BitVec 9) (detail : DWord) : Exc := { code, sub := 0, detail, gwa := none }

/-- A cause word: CODE, SUB, KNEST and INT (05 section 5.7). -/
def causeWord (code : BitVec 9) (sub : BitVec 8) (knest int : Bool) : Word :=
  code.setWidth 24 ||| (sub.setWidth 24 <<< 9) ||| flag 24 22 knest ||| flag 24 23 int

/-- The value of xSTATUS on entry: the interrupt enable goes to the previous enable and clears, EXL is set (R157). The bits
above EXL stay, with the previous level `ppl` of `w` bits. -/
def VoiceCore.statusM (v : VoiceCore) (lvl : Level) : Word :=
  let st := v.mstatus
  let ppl : BitVec 2 := match lvl with | .user => 0 | .kernel => 1 | .monitor => 3
  (st &&& 0xE0) ||| flag 24 5 (st.getLsbD 4) ||| flag 24 1 (st.getLsbD 0) ||| (ppl.setWidth 24 <<< 2) ||| bitAt 24 4

/-- KSTATUS on entry to kernel level (R157). -/
def VoiceCore.statusK (v : VoiceCore) (lvl : Level) : Word :=
  (v.kstatus &&& 0x10) ||| flag 24 1 (v.kstatus.getLsbD 0) ||| flag 24 2 (lvl = .kernel) ||| bitAt 24 3

/-- The translation CSRs as written (07 section 7.9). -/
def VoiceCore.xlatCsrs (v : VoiceCore) : XlatRegs := { kxlat := v.kxlat, kasid := v.kasid, mxlat := v.mxlat, mptag := v.mptag }

/-- The translation CSRs take effect (07 R288). -/
def VoiceCore.settle (v : VoiceCore) : VoiceCore := { v with inForce := v.xlatCsrs, xlatOpen := false, xlatAlt := [] }

/-- Entry to monitor level (R157, R158, R165). -/
def VoiceCore.enterM (v : VoiceCore) (epc : DWord) (cause : Word) (detail : DWord) (off : DWord) : VoiceCore :=
  { v.settle with
    mepc := epc, mcause := cause, mdetail := detail, mstatus := v.statusM v.level
    resv := none, pc := v.mvbase + off, level := .monitor, wfi := false }

/-- Entry to kernel level (R157, R158). -/
def VoiceCore.enterK (v : VoiceCore) (epc : DWord) (cause : Word) (detail : DWord) (off : DWord) : VoiceCore :=
  { v.settle with
    kepc := epc, kcause := cause, kdetail := detail, kstatus := v.statusK v.level
    resv := none, pc := v.kvbase + off, level := .kernel, wfi := false }

/-- A core enters monitor level, and leaves the partition that it records (16 Table 16.1). -/
def State.enterMonitor (s : State) (c : Fin 12) (epc : DWord) (cause : Word) (detail off : DWord) : State :=
  (s.traceLeave c 1).modCore c fun v => v.enterM epc cause detail off

/-- A core enters kernel level, which a recording core tells (16 Table 16.1). -/
def State.enterKernel (s : State) (c : Fin 12) (epc : DWord) (cause : Word) (detail off : DWord) : State :=
  (s.modCore c fun v => v.enterK epc cause detail off).traceExc c cause

/-- The exception is delegated to kernel level (R162, R163). -/
def VoiceCore.delegated (v : VoiceCore) (code : BitVec 9) : Bool :=
  v.level ≠ .monitor && v.mdeleg.getLsbD code.toNat && !(code = 2 && v.level = .kernel)

/-- A synchronous exception of a Voice core is taken (R157, R158, R162 to R165; 07 R268). The core's PC is that of the
instruction, or of its EXT. -/
def State.takeExc (s : State) (c : Fin 12) (x : Exc) : State :=
  let v := s.core c
  let s := match x.gwa with | some g => s.modCore c fun v => { v with mgwa := g } | none => s
  if v.delegated x.code && !v.kstatus.getLsbD 3 then s.enterKernel c v.pc (causeWord x.code x.sub false false) x.detail 0
  else s.enterMonitor c v.pc (causeWord x.code x.sub (v.delegated x.code) false) x.detail 0

/-- The beat-expiry that pends is taken at user or kernel level (R167), or recorded at monitor level (R168). -/
def State.takeExpiry (s : State) (c : Fin 12) (part : BitVec 4) (beat : BitVec 5) : State :=
  let v := s.core c
  if v.level = .monitor then s.modCore c fun v => { v.deferExpiry part beat with bx := none }
  else (s.modCore c fun v => { v with mbexp := v.expiryRecord part beat, bx := none }).enterMonitor c v.pc (causeWord 0x20 0 false false) 0 0x200

/-- The deferred-error event can be taken (R175). -/
def VoiceCore.derrDue (v : VoiceCore) : Bool := v.mderrh.getLsbD 23 && (v.level ≠ .monitor || v.mstatus.getLsbD 0)

/-- The deferred-error event is taken (R175). -/
def State.takeDerr (s : State) (c : Fin 12) : State := s.enterMonitor c (s.core c).pc (causeWord 0x21 0 false false) 0 0x300

/-- The monitor interrupt that a core can take now (R166). -/
def State.monIrqDue (s : State) (c : Fin 12) : Option Nat :=
  let v := s.core c
  if v.level ≠ .monitor || v.mstatus.getLsbD 0 then s.monIrq c.val else none

/-- The kernel interrupt that a core can take now (R166). -/
def State.kerIrqDue (s : State) (c : Fin 12) : Option Nat :=
  let v := s.core c
  if v.level ≠ .monitor && v.kstatus.getLsbD 0 then s.kerIrq c else none

/-- An interrupt is taken: monitor interrupts first (R156, R157; 08 R309). -/
def State.takeIrq (s : State) (c : Fin 12) : Option State :=
  match s.monIrqDue c with
  | some n => some (s.enterMonitor c (s.core c).pc (causeWord (BitVec.ofNat 9 n) 0 false true) 0 0x100)
  | none => match s.kerIrqDue c with
    | some n => some (s.enterKernel c (s.core c).pc (causeWord (BitVec.ofNat 9 n) 0 false true) 0 0x100)
    | none => none

/-- The asynchronous event that a Voice core takes at an instruction boundary, in the order of R156. -/
def State.takeAsync (s : State) (c : Fin 12) : Option State :=
  match (s.core c).bx with
  | some (p, b) => some (s.takeExpiry c p b)
  | none => if (s.core c).derrDue then some (s.takeDerr c) else s.takeIrq c

/-! Return (R159, R169, R170). -/

/-- The level that MSTATUS.MPPL names. -/
def mppl (st : Word) : Level := match (bits st 2 2).toNat with | 0 => .user | 1 => .kernel | _ => .monitor

/-- ERET at kernel level (R159). -/
def VoiceCore.eretK (v : VoiceCore) : VoiceCore :=
  { v.settle with
    kstatus := (v.kstatus &&& 0x14) ||| flag 24 0 (v.kstatus.getLsbD 1) ||| bitAt 24 1
    level := if v.kstatus.getLsbD 2 then .kernel else .user
    resv := none }

/-- ERET at monitor level (R159, R170). -/
def VoiceCore.eretM (v : VoiceCore) : VoiceCore :=
  { v.settle with
    mstatus := (v.mstatus &&& 0xEC) ||| flag 24 0 (v.mstatus.getLsbD 1) ||| bitAt 24 1
    level := mppl v.mstatus
    resv := none }

/-- ERET at monitor level to user or kernel level while BXPEND is 1: the restore and the beat-expiry entry as one step
(R169). -/
def VoiceCore.eretExpiry (v : VoiceCore) : VoiceCore :=
  let r := v.eretM
  { r.enterM v.mepc (causeWord 0x20 0 false false) 0 0x200 with mstatus := r.statusM r.level &&& ~~~(bitAt 24 7) }

/-! The Conductor (section 5.7.1). -/

/-- Conductor entry (R180): CSTATUS has CIE in bit 0, CPIE in bit 1, EXL in bit 4. -/
def Conductor.enter (d : Conductor) (cause : Word) (detail off : DWord) : Conductor :=
  { d with
    cepc := d.pc, ccause := cause, cdetail := detail
    cstatus := flag 24 1 (d.cstatus.getLsbD 0) ||| bitAt 24 4
    pc := d.cvbase + off, wfi := false, queue := [] }

/-- A Conductor exception is taken, or halts the Conductor while EXL is 1 (R180, R181). -/
def State.cdrExc (s : State) (x : Exc) : State :=
  if s.cdr.cstatus.getLsbD 4 then { s with cdr := { s.cdr with run := .halted, queue := [] } }
  else { s with cdr := s.cdr.enter (causeWord x.code x.sub false false) x.detail 0 }

/-- The interrupt that the Conductor takes at an instruction boundary while CIE is 1 (R166, R180). -/
def State.cdrIrq (s : State) : Option State :=
  if s.cdr.cstatus.getLsbD 0 then
    (s.monIrq 12).map fun n => { s with cdr := s.cdr.enter (causeWord (BitVec.ofNat 9 n) 0 false true) 0 0x100 }
  else none

/-- Conductor ERET (R159, R180). -/
def Conductor.eret (d : Conductor) : Conductor :=
  { d with cstatus := flag 24 0 (d.cstatus.getLsbD 1) ||| bitAt 24 1, queue := [] }

/-! Both kinds of core. -/

/-- The asynchronous event that a core takes at an instruction boundary. -/
def State.asyncAt (s : State) : Core → Option State
  | .voice c => s.takeAsync c
  | .conductor => s.cdrIrq

/-- A synchronous exception of a core. -/
def State.excAt (s : State) (k : Core) (x : Exc) : State :=
  match k with
  | .voice c => s.takeExc c x
  | .conductor => s.cdrExc x

/-- The core issues an instruction. -/
def State.issuesAt (s : State) : Core → Bool
  | .voice c => s.issues c
  | .conductor => s.cdrIssues

/-- The initiator that a core is. -/
def initiatorOf : Core → Initiator
  | .voice c => .voice c
  | .conductor => .conductor

end Sys2Proof.Machine
end

