-- ==== Sys2Proof/Machine/Xlat.lean ====
section
/-! DEFINITION. Address translation: regimes, page-table entries, the walk, permissions and the translation caches (07). -/
namespace Sys2Proof.Machine

/-- Why an instruction does not retire: it raises an exception, or a write-back that must come first is stalled, so that it
waits (09 R370; log 11). -/
inductive Trap where
  | exc (x : Exc)
  | wait
deriving DecidableEq, Repr

/-- What an instruction does: it changes the state, and ends with a value or a trap. -/
abbrev Exec := EStateM Trap State

/-- The instruction raises an exception. -/
def raise {α : Type} (code : BitVec 9) (detail : DWord) : Exec α := throw (.exc (Exc.of code detail))

/-- The kinds of access (07 Table 7.6): load, store, CAS.D, fetch, and the cache operations checked as a load or as a store. -/
inductive Acc where
  | load | store | cas | fetch | clean | inv
deriving DecidableEq, Repr

/-- One access that is translated: the core, its kind, the level at which it is made, its pointer and the translation CSRs
that it uses. -/
structure Req where
  c    : Fin 12
  acc  : Acc
  lvl  : Level
  ptr  : DWord
  regs : XlatRegs
deriving DecidableEq, Repr

/-! Regimes (07 Table 7.2). -/

/-- The translation CSRs that an access may use after a CSRWR whose effect is still open, besides those in force: those that a
further CSRWR has replaced, and the last written (R288). -/
def VoiceCore.xlatNew (v : VoiceCore) : List XlatRegs := v.xlatAlt ++ [v.xlatCsrs]

/-- One of the values of a translation CSR, by free values numbered from `n`: the one in force, or a later one (R288; log 8). -/
def pickXlat {α : Type} (n : Nat) (old : α) (new : List α) : α :=
  (indexed new).foldl (fun x p => if Config.usesNew (n + 6 * p.1) then p.2 else x) old

/-- The translation CSRs that an access uses: those in force, but after a CSRWR whose effect is still open each may have a value
written since (R288; log 8). -/
def State.xlatRegs (s : State) (c : Fin 12) : XlatRegs × State :=
  let v := s.core c
  if !v.xlatOpen then (v.inForce, s)
  else
    let n := s.free
    let l := v.xlatNew
    let pick {α : Type} (k : Nat) (f : XlatRegs → α) : α := pickXlat (n + k) (f v.inForce) (l.map f)
    ({ kxlat := pair (pick 1 fun r => hi24 r.kxlat) (pick 0 fun r => lo24 r.kxlat)
       kasid := pick 2 fun r => r.kasid
       mxlat := pair (pick 4 fun r => hi24 r.mxlat) (pick 3 fun r => lo24 r.mxlat)
       mptag := pick 5 fun r => r.mptag }, { s with free := n + 6 * l.length })

/-- Stage 1 is in force for the access. -/
def Req.s1 (r : Req) : Bool := r.lvl ≠ .monitor && r.regs.kxlat.getLsbD 0
/-- Stage 2 is in force for the access. -/
def Req.s2 (r : Req) : Bool := r.lvl ≠ .monitor && r.regs.mxlat.getLsbD 0
/-- The pointer passes the checks of its regime (03 R69 to R71, Table 7.2). -/
def Req.ptrOk (r : Req) : Bool := ptrLane r.ptr ≠ 3 && (if r.s1 then canonical r.ptr else physical r.ptr)
/-- A root table's address (07 section 7.9). -/
def rootOf (x : DWord) : PAddr := bits x 0 36 &&& ~~~0x7F
/-- The type of an untranslated access; none is a bus error (Table 7.3). -/
def State.plainType (s : State) (a : Nat) : Option MemType :=
  if inStage a then some .nc else if inRegs a then some .sx else if s.inDram a then some .wb else none

/-! Page-table entries (07 Table 7.4). -/

/-- TYPE. -/
def pteType (e : DWord) : Nat := (bits e 0 2).toNat
/-- OA as a word address. -/
def pteOut (e : DWord) : PAddr := bits e 0 36 &&& ~~~0xFFF
/-- The permissions of a leaf. -/
def ptePerms (e : DWord) : Perms :=
  { r := e.getLsbD 2, w := e.getLsbD 3, x := e.getLsbD 4, u := e.getLsbD 5, a := e.getLsbD 9, d := e.getLsbD 10 }
/-- G. -/
def pteGlobal (e : DWord) : Bool := e.getLsbD 6
/-- MT. -/
def pteMt (e : DWord) : MemType := match (bits e 7 2).toNat with | 0 => .wb | 1 => .nc | _ => .sx
/-- The entry is malformed at its level (R250). -/
def pteBadType (level : Nat) (e : DWord) : Bool :=
  pteType e = 2 || (pteType e = 1 && level != 1)
/-- The leaf is malformed (R249). -/
def leafBad (e : DWord) : Bool :=
  bits e 7 2 = 3 || (e.getLsbD 3 && !e.getLsbD 2) || e.getLsbD 11 || e.getLsbD 47 || (pteType e = 1 && bits e 12 11 != 0)
/-- The entry leads to a further table. -/
def pteTable (level : Nat) (e : DWord) : Bool := pteType e = 3 && level < 2

/-- The access needs permission to read, write, execute (Table 7.6). -/
def Acc.needs : Acc → Bool × Bool × Bool
  | .load => (true, false, false)
  | .store => (false, true, false)
  | .cas => (true, true, false)
  | .fetch => (false, false, true)
  | .clean => (true, false, false)
  | .inv => (false, true, false)

/-- The failure of the checks that follow BAD_ENTRY, in the order of R264: USER or KERNEL_EXEC at stage 1 (R263), READ, WRITE or
EXEC, ACCESS_FLAG, DIRTY. The answer is a code of Table 7.7. -/
def Perms.fails (p : Perms) (acc : Acc) (stage1 : Bool) (lvl : Level) : Option (BitVec 7) :=
  let n := acc.needs
  if stage1 && lvl = .user && !p.u then some 0x1B
  else if stage1 && lvl = .kernel && acc = .fetch && p.u then some 0x1C
  else if n.1 && !p.r then some 0x18
  else if n.2.1 && !p.w then some 0x19
  else if n.2.2 && !p.x then some 0x1A
  else if !p.a then some 0x14
  else if n.2.1 && !p.d then some 0x15
  else none

/-- A leaf found by a walk: the output address of the access, and what the leaf gives. -/
structure Leaf where
  pa    : PAddr
  block : Bool
  mt    : MemType
  perms : Perms
  glob  : Bool
deriving DecidableEq, Repr

/-! The walk (07 section 7.4). -/

/-- One walk of a stage: whether it is stage 2, whether it serves a stage-1 table address, the stage-2 input, and the kind of
access that its leaf is checked for. -/
structure WalkOf where
  st2  : Bool
  s1w  : Bool
  gwa  : PAddr
  acc  : Acc
deriving DecidableEq, Repr

/-- A translation fault (R265 to R268). -/
def Req.fault {α : Type} (r : Req) (w : WalkOf) (code : BitVec 7) : Exec α :=
  let fetch := r.acc = .fetch
  throw (.exc { code := if w.st2 then (if fetch then 0x0B else 0x13) else (if fetch then 0x0A else 0x12)
                sub := (BitVec.ofBool w.s1w) ++ code
                detail := r.ptr
                gwa := if w.st2 then some w.gwa else none })

/-- An entry of a translation cache carries these tags and matches the access (R269 to R271). -/
def Req.tagged (r : Req) (ptag : BitVec 4) (asid : BitVec 12) (glob : Bool) : Bool :=
  ptag = r.regs.mptag && (glob || asid = r.regs.kasid)

/-- An entry is read from memory: installed DRAM only, coherent as a WB read through the core's L2 (R252 to R254). -/
def Req.readEntry (r : Req) (w : WalkOf) (level : Nat) (addr : PAddr) : Exec DWord := do
  let s ← get
  let a := addr.toNat
  if !(s.inDram a && s.inDram (a + 1)) then r.fault w (0x0C + BitVec.ofNat 7 level)
  else
    let b := s.bringL2 r.c (lineOf a)
    set b.1
    if !b.2 then throw .wait
    else match b.1.caches.find (lineOf a) with
      | none => throw .wait
      | some l =>
        let i := a % 24
        if l.poison.getLsbD i || l.poison.getLsbD (i + 1) then r.fault w (0x10 + BitVec.ofNat 7 level)
        else pure (pair (l.words.toList.getD (i + 1) 0) (l.words.toList.getD i 0))

/-- An entry of the walk cache that serves the read of an entry at a level of a stage. -/
def Req.walkHit (r : Req) (w : WalkOf) (level : Nat) (addr : PAddr) (e : WalkEntry) : Bool :=
  e.stage = (if w.st2 then 2 else 1) && e.level = level && e.addr = addr && r.tagged e.ptag e.asid e.glob

/-- A page-table entry: one that the walk cache holds may be used (R277; log 10). -/
def Req.entry (r : Req) (w : WalkOf) (level : Nat) (addr : PAddr) : Exec DWord := do
  let s ← get
  match (s.core r.c).walk.find? (r.walkHit w level addr) with
  | some e =>
    let d := s.draw
    set d.2
    if Config.usesHeld d.1 then pure e.value else r.readEntry w level addr
  | none => r.readEntry w level addr

/-- A level-0 or level-1 entry that was used is held with the tags of the access; a stage-1 leaf with G = 1 is global (R269, R270). -/
def Req.hold (r : Req) (w : WalkOf) (level : Nat) (addr : PAddr) (value : DWord) : Exec Unit :=
  if level < 2 then
    modify fun s => s.modCore r.c fun v =>
      { v with walk := { stage := if w.st2 then 2 else 1, level, addr, ptag := r.regs.mptag, asid := r.regs.kasid
                         glob := !r.s1 || (!w.st2 && !pteTable level value && pteGlobal value), value } :: v.walk.filter fun e => !r.walkHit w level addr e }
  else pure ()

/-- The index of an input at a level (Table 7.1). -/
def walkIndex (st2 : Bool) (level : Nat) (input : Nat) : Nat :=
  match level with
  | 0 => input / 2 ^ 34 % (if st2 then 4 else 64)
  | 1 => input / 2 ^ 23 % 2048
  | _ => input / 2 ^ 12 % 2048

/-- The size of the region of a leaf. -/
def regionOf (block : Bool) : Nat := if block then 2 ^ 23 else 2 ^ 12

/-- A walk with `n` levels to go from a table; `addrOf` turns the address of an entry into a physical one (section 7.4). -/
def Req.walk (r : Req) (w : WalkOf) (addrOf : PAddr → Exec PAddr) (input : Nat) : Nat → PAddr → Exec Leaf
  | 0, _ => throw .wait
  | n + 1, table => do
    let level := 2 - n
    let addr ← addrOf (table + BitVec.ofNat 36 (2 * walkIndex w.st2 level input))
    let e ← r.entry w level addr
    if pteType e = 0 then r.fault w (0x04 + BitVec.ofNat 7 level)
    else if pteBadType level e then r.fault w (0x08 + BitVec.ofNat 7 level)
    else if pteTable level e then do
      r.hold w level addr e
      r.walk w addrOf input n (pteOut e)
    else if leafBad e then r.fault w (0x08 + BitVec.ofNat 7 level)
    else match (ptePerms e).fails w.acc (!w.st2) r.lvl with
      | some code => r.fault w code
      | none => do
        r.hold w level addr e
        let block := pteType e = 1
        pure { pa := pteOut e + BitVec.ofNat 36 (input % regionOf block), block, mt := pteMt e, perms := ptePerms e, glob := pteGlobal e }

/-- Stage 2 of a guest word address. -/
def Req.stage2 (r : Req) (s1w : Bool) (acc : Acc) (gwa : PAddr) : Exec Leaf :=
  r.walk { st2 := true, s1w, gwa, acc } pure gwa.toNat 3 (rootOf r.regs.mxlat)

/-- The physical address of a stage-1 entry. -/
def Req.tableAddr (r : Req) (gwa : PAddr) : Exec PAddr :=
  if r.s2 then do let l ← r.stage2 true .load gwa; pure l.pa else pure gwa

/-- Stage 1 of a virtual word address. -/
def Req.stage1 (r : Req) : Exec Leaf :=
  r.walk { st2 := false, s1w := false, gwa := 0, acc := r.acc } r.tableAddr (ptrVa r.ptr) 3 (rootOf r.regs.kxlat)

/-! Combination and the TLBs (R258, R273; Table 7.8). -/

/-- The stronger of two types (R258). -/
def strongest : MemType → MemType → MemType
  | .sx, _ => .sx
  | _, .sx => .sx
  | .nc, _ => .nc
  | _, .nc => .nc
  | .wb, .wb => .wb

/-- A completed translation: the output address, the region and the type that the stages in force give together, the permissions
of each stage's leaf, and the stage-2 input. -/
structure Joined where
  pa    : PAddr
  block : Bool
  mt    : MemType
  glob  : Bool
  p1    : Perms
  p2    : Perms
  ga    : PAddr
deriving DecidableEq, Repr

/-- A stage-1 leaf joined with the stage-2 leaf of its output (R258, R273). -/
def joinLeaf (a b : Leaf) : Joined :=
  { pa := b.pa, block := a.block && b.block, mt := strongest a.mt b.mt, glob := a.glob, p1 := a.perms, p2 := b.perms, ga := a.pa }

/-- The walk of all stages in force. -/
def Req.walkAll (r : Req) : Exec Joined :=
  if r.s1 then do
    let a ← r.stage1
    if r.s2 then do let b ← r.stage2 false r.acc a.pa; pure (joinLeaf a b)
    else pure { joinLeaf a a with block := a.block, ga := 0 }
  else do
    let g := ptrAddr r.ptr
    let b ← r.stage2 false r.acc g
    pure { joinLeaf b b with glob := true, ga := g }

/-- The word address that the first stage in force takes. -/
def Req.input (r : Req) : Nat := if r.s1 then ptrVa r.ptr else (ptrAddr r.ptr).toNat

/-- A TLB entry translates the access (R271). -/
def Req.tlbHit (r : Req) (e : TlbEntry) : Bool :=
  e.s1 = r.s1 && e.s2 = r.s2 && r.tagged e.ptag e.asid e.glob &&
    e.page / (if e.block then 2048 else 1) = r.input / 2 ^ 12 / (if e.block then 2048 else 1)

/-- The entry that a completed translation leaves (R269, R270, R273). -/
def Req.tlbEntry (r : Req) (l : Joined) : TlbEntry :=
  { page := if l.block then r.input / 2 ^ 23 * 2048 else r.input / 2 ^ 12, block := l.block
    ptag := r.regs.mptag, asid := r.regs.kasid, glob := l.glob || !r.s1
    pa := l.pa - BitVec.ofNat 36 (r.input % regionOf l.block), mt := l.mt, s1 := r.s1, s2 := r.s2, p1 := l.p1, p2 := l.p2
    ga := l.ga - BitVec.ofNat 36 (r.input % regionOf l.block) }

/-- The set of the L2 TLB for an entry: VA[19:12] (Table 7.8). -/
def TlbEntry.set (e : TlbEntry) : Nat := e.page % 256

/-- An entry put first into a set-associative list of `ways` ways; the oldest of a full set goes. -/
def tlbPut (l : List TlbEntry) (e : TlbEntry) (ways : Nat) : List TlbEntry :=
  let same := (l.filter fun x => x.set = e.set && !decide (x = e)).take (ways - 1)
  e :: l.filter fun x => x.set ≠ e.set || same.contains x

/-- A completed translation enters the first-level TLB of its kind and the L2 TLB. -/
def VoiceCore.tlbFill (v : VoiceCore) (acc : Acc) (e : TlbEntry) : VoiceCore :=
  let v := { v with l2tlb := tlbPut v.l2tlb e 8 }
  if acc = .fetch then { v with itlb := (e :: v.itlb.filter (· ≠ e)).take 48 } else { v with dtlb := (e :: v.dtlb.filter (· ≠ e)).take 64 }

/-- A translation that a TLB holds, if the core uses it rather than walking (R277; log 10). -/
def Req.lookup (r : Req) (s : State) : Option TlbEntry :=
  let v := s.core r.c
  match (if r.acc = .fetch then v.itlb else v.dtlb).find? r.tlbHit with
  | some e => some e
  | none => v.l2tlb.find? r.tlbHit

/-- A walk, and the TLB entry that it leaves. A walk that does not complete leaves nothing in the walk cache (R272). -/
def Req.refill (r : Req) : Exec (PAddr × MemType) := fun s =>
  match r.walkAll s with
  | .ok l t => .ok (l.pa, l.mt) (t.modCore r.c fun v => v.tlbFill r.acc (r.tlbEntry l))
  | .error x t => .error x (t.modCore r.c fun v => { v with walk := (s.core r.c).walk })

/-- A translation that a TLB holds is used: its permissions are checked, stage 1 first (R264, R277). -/
def Req.useHeld (r : Req) (e : TlbEntry) : Exec (PAddr × MemType) :=
  let off := BitVec.ofNat 36 (r.input % regionOf e.block)
  match (if r.s1 then e.p1.fails r.acc true r.lvl else none) with
  | some code => r.fault { st2 := false, s1w := false, gwa := 0, acc := r.acc } code
  | none => match (if r.s2 then e.p2.fails r.acc false r.lvl else none) with
    | some code => r.fault { st2 := true, s1w := false, gwa := e.ga + off, acc := r.acc } code
    | none => pure (e.pa + off, e.mt)

/-- Translation of an access (R244, R245): its physical word address and its memory type; no type is a bus error. A translation
that a TLB holds may be used, or the tables walked (R277; log 10). -/
def Req.translate (r : Req) : Exec (PAddr × Option MemType) := do
  let s ← get
  if !(r.s1 || r.s2) then pure (ptrAddr r.ptr, s.plainType (ptrAddr r.ptr).toNat)
  else
    let p ← match r.lookup s with
      | some e => do
        let d := s.draw
        set d.2
        if Config.usesHeld d.1 then r.useHeld e else r.refill
      | none => r.refill
    pure (p.1, some p.2)

/-- An access of a Voice core at its current level, before its checks. -/
def reqOf (c : Fin 12) (acc : Acc) (ptr : DWord) : Exec Req := do
  let s ← get
  let x := s.xlatRegs c
  set x.2
  pure { c, acc, lvl := (s.core c).level, ptr, regs := x.1 }

end Sys2Proof.Machine
end

