-- ==== Sys2Proof/Machine/Access.lean ====
section
/-! DEFINITION. Data accesses and fetches of a core: pointer checks, memory types, the caches, the register space and the
Conductor's spaces (03, 04 section 4.8, 06, 10 R392). -/
namespace Sys2Proof.Machine

/-! Sizes (03 R64 to R66). -/

/-- The sizes of loads and stores. -/
inductive Size where
  | byte | word | dbl
deriving DecidableEq, Repr

/-- Words that an access touches. -/
def Size.words : Size → Nat
  | .dbl => 2 | _ => 1
/-- The code of a size in a DATA packet (16 Table 16.1). -/
def Size.code : Size → Nat
  | .byte => 0 | .word => 1 | .dbl => 2
/-- The pointer breaks R65 or R66. -/
def Size.misaligned (z : Size) (p : DWord) : Bool := (z ≠ .byte && ptrLane p != 0) || (z = .dbl && p.getLsbD 2)
/-- The value of an access from the words it reads. -/
def Size.value (z : Size) (p : DWord) (ws : List Word) : DWord :=
  match z with
  | .byte => (lane (ws.headD 0) (ptrLane p).toNat).setWidth 48
  | .word => (ws.headD 0).setWidth 48
  | .dbl => pair (ws.getD 1 0) (ws.headD 0)
/-- The words that a store writes (R67, 00 R11). -/
def Size.stores (z : Size) (p : DWord) (a : Nat) (v : DWord) : List WrWord :=
  match z with
  | .byte => [{ addr := a, data := (v.setWidth 8).setWidth 24 <<< (8 * (ptrLane p).toNat), lanes := bitAt 3 (ptrLane p).toNat, poison := false }]
  | .word => [{ addr := a, data := lo24 v, lanes := 7, poison := false }]
  | .dbl => [{ addr := a, data := lo24 v, lanes := 7, poison := false }, { addr := a + 1, data := hi24 v, lanes := 7, poison := false }]

/-! Registers (03 R76, R79, R83; 00 R5). -/

/-- A read of the register space by a core. -/
def regLoad (k : Core) (z : Size) (p : DWord) (a : Nat) : Exec (List Word) := do
  let s ← get
  match winAt a with
  | none => raise 0x15 p
  | some x =>
    if !s.winPresent x.1 x.2 then pure (List.replicate z.words 0)
    else if z ≠ .word then raise 0x15 p
    else
      let r := s.winRead (initiatorOf k) x.1 x.2
      set r.1
      pure [r.2]

/-- A write of the register space by a core. -/
def regStore (k : Core) (z : Size) (p : DWord) (a : Nat) (v : DWord) : Exec Unit := do
  let s ← get
  match winAt a with
  | none => raise 0x15 p
  | some x =>
    if !s.winPresent x.1 x.2 then pure ()
    else if z ≠ .word then raise 0x15 p
    else set (s.winWrite (initiatorOf k) x.1 x.2 (lo24 v))

/-! Memory as a Voice core sees it. -/

/-- The words read, unless one is poisoned (05 R177) or lies in error in on-chip SRAM (log 16). -/
def unpoisoned (p : DWord) (bad : Bool) (ws : List (Word × Bool)) : Exec (List Word) :=
  if bad || ws.any (fun (w : Word × Bool) => w.2) then raise 0x16 p else pure (ws.map fun (w : Word × Bool) => w.1)

/-- An uncached access first has its line written back (06 R213), and an error that the write-back meets is deferred; a stalled
write-back makes the instruction wait. -/
def cleanFirst (c : Fin 12) (ups : List Upset) (a : Nat) : Exec Unit := do
  modify fun s => s.backErrors (lineOf a) ups
  let s ← get
  let r := s.cleanLine (some (.voice c)) (lineOf a) none
  set r.1
  if r.2 then pure () else throw .wait

/-- The line of a WB access is brought into the L1 data cache (06 R201). -/
def bringFirst (c : Fin 12) (a : Nat) : Exec Unit := do
  let s ← get
  let r := s.bringData c (lineOf a)
  set r.1
  if r.2 then pure () else throw .wait

/-- Words of memory behind the caches. -/
def readUncached (p : DWord) (bad : Bool) (a n : Nat) : Exec (List Word) := do
  let s ← get
  let r := s.readWords false a n none
  set r.1
  unpoisoned p bad r.2

/-- Words of the line that the L1 data cache holds. -/
def readCached (p : DWord) (bad : Bool) (a n : Nat) : Exec (List Word) := do
  let s ← get
  let r := s.readWords true a n none
  set r.1
  unpoisoned p bad r.2

/-- All words of an access lie in memory. -/
def State.allInMem (s : State) (a n : Nat) : Bool := (List.range n).all fun i => s.inMem (a + i)

/-- A load of a Voice core from its physical address (06 R201, R213; 03 R76, R79). -/
def voiceLoad (c : Fin 12) (z : Size) (p : DWord) (ups : List Upset) (x : PAddr × Option MemType) : Exec (List Word) := do
  let s ← get
  let a := x.1.toNat
  let bad := inStage a && sramBad 0 ups
  match x.2 with
  | none => raise 0x15 p
  | some .sx =>
    if inRegs a then regLoad (.voice c) z p a
    else if !s.allInMem a z.words then raise 0x15 p
    else do cleanFirst c ups a; readUncached p bad a z.words
  | some .nc =>
    if !s.allInMem a z.words then raise 0x15 p
    else do cleanFirst c ups a; readUncached p bad a z.words
  | some .wb =>
    if !s.allInMem a z.words then raise 0x15 p
    else do bringFirst c a; readCached p bad a z.words

/-- The core's own store into a line that the line buffer holds: the line, and every line fetched later, are discarded (06 R191;
log 26). -/
def State.ownStore (s : State) (c : Fin 12) (a : Nat) : State :=
  s.modCore c fun v => { v with lineBuf := if v.lineBuf.any (fun l => l.1 = lineOf a) then (v.lineBuf.dropWhile fun l => l.1 ≠ lineOf a).drop 1 else v.lineBuf }

/-- A posted store fails: a deferred error of KIND 1 (05 R174, R175). -/
def postedError (c : Fin 12) (a : PAddr) : Exec Unit := modify fun s => s.modCore c fun v => v.defer a 1

/-- An uncached store to memory: every cached copy of the line goes first (06 R213). -/
def storeUncached (c : Fin 12) (ups : List Upset) (a : Nat) (ws : List WrWord) : Exec Unit := do
  cleanFirst c ups a
  modify fun s =>
    let s := s.dropLine (lineOf a)
    let ws := ws.filter fun w => takesWrite (.voice c) w.addr
    (if ws.isEmpty then s else (s.writeLine { line := lineOf a, who := some (.voice c), wb := false, ws, own := false, drop := none }).1).ownStore c a

/-- A store of a Voice core to its physical address (05 R174; 06 R201, R213; 03 R76, R79). One to an untranslated address that has no
memory type is posted, and its error is a deferred one of KIND 1 (05 R174 names WB, NC and SX only; DESIGN CHOICE, log 25). -/
def voiceStore (c : Fin 12) (ups : List Upset) (z : Size) (p : DWord) (v : DWord) (x : PAddr × Option MemType) : Exec Unit := do
  let s ← get
  let a := x.1.toNat
  let ws := z.stores p a v
  match x.2 with
  | none => postedError c x.1
  | some .sx =>
    if inRegs a then regStore (.voice c) z p a v
    else if !s.allInMem a z.words then raise 0x15 p
    else storeUncached c ups a ws
  | some .nc => if !s.allInMem a z.words then postedError c x.1 else storeUncached c ups a ws
  | some .wb =>
    if !s.allInMem a z.words then postedError c x.1
    else do
      bringFirst c a
      modify fun s => (s.storeCached c (ws.filter fun w => takesWrite (.voice c) w.addr)).ownStore c a

/-- The checks and the translation of a data access of a Voice core (05 R156: 0x11, 0x10, then translation). -/
def voiceAddr (c : Fin 12) (acc : Acc) (z : Size) (p : DWord) : Exec (PAddr × Option MemType) := do
  let r ← reqOf c acc p
  if !r.ptrOk then raise 0x11 p
  else if z.misaligned p then raise 0x10 p
  else r.translate

/-! Memory as the Conductor sees it (03 section 3.4.1; 06 R222). -/

/-- A Conductor pointer keeps R80. -/
def cdrPtrOk (p : DWord) : Bool := bits p 38 9 = 0 && ptrLane p ≠ 3
/-- The pointer names the private space. -/
def inPrivate (p : DWord) : Bool := p.getLsbD 47

/-- The checks of a data access of the Conductor. -/
def cdrAddr (z : Size) (p : DWord) : Exec Nat :=
  if !cdrPtrOk p then raise 0x11 p else if z.misaligned p then raise 0x10 p else pure (ptrAddr p).toNat

/-- A load of the Conductor. -/
def cdrLoad (z : Size) (p : DWord) (ups : List Upset) (a : Nat) : Exec (List Word) := do
  let s ← get
  if inPrivate p then
    if privReg a && z ≠ .word then raise 0x15 p
    else match (List.range z.words).mapM fun i => s.privRead (a + i) with
      | none => raise 0x15 p
      | some ws => if sramBad 1 ups then raise 0x16 p else pure ws
  else if inRegs a then regLoad .conductor z p a
  else if s.allInMem a z.words then do
    let r := s.cdrWords a z.words
    set r.1
    unpoisoned p (inStage a && sramBad 0 ups) r.2
  else raise 0x15 p

/-- A store of the Conductor; it completes before the next instruction, so that its error is precise. -/
def cdrStore (z : Size) (p : DWord) (v : DWord) (a : Nat) : Exec Unit := do
  let s ← get
  let ws := z.stores p a v
  if inPrivate p then
    if privReg a && z ≠ .word then raise 0x15 p
    else match ws.foldlM (fun (s : State) (w : WrWord) => s.privWrite w.addr w.data w.lanes) s with
      | none => raise 0x15 p
      | some s => set s
  else if inRegs a then regStore .conductor z p a v
  else if s.allInMem a z.words then set (s.cdrWrite ws)
  else raise 0x15 p

/-! Both kinds of core. -/

/-- A load through a pointer: the value, zero-extended. -/
def loadAt (k : Core) (f : Fetch) (z : Size) (p : DWord) : Exec DWord :=
  match k with
  | .voice c => do
    let x ← voiceAddr c .load z p
    let ws ← voiceLoad c z p f.ups x
    pure (z.value p ws)
  | .conductor => do
    let a ← cdrAddr z p
    let ws ← cdrLoad z p f.ups a
    pure (z.value p ws)

/-- A store through a pointer. -/
def storeAt (k : Core) (f : Fetch) (z : Size) (p : DWord) (v : DWord) : Exec Unit :=
  match k with
  | .voice c => do let x ← voiceAddr c .store z p; voiceStore c f.ups z p v x
  | .conductor => do let a ← cdrAddr z p; cdrStore z p v a

/-! Fetch (06 sections 6.1 and 6.2). -/

/-- A line enters the line buffer of two entries; `bad` are its words that the fetch found in error. -/
def VoiceCore.bufLine (v : VoiceCore) (line : Nat) (bad : BitVec 24) : VoiceCore :=
  { v with lineBuf := ((line, bad) :: v.lineBuf.filter fun l => l.1 ≠ line).take 2 }

/-- The line buffer holds the word. -/
def VoiceCore.buffers (v : VoiceCore) (a : Nat) : Bool := v.lineBuf.any fun l => l.1 = lineOf a && !l.2.getLsbD (a % 24)

/-- The line enters the line buffer, and the word in it is fetched, unless it is in error (R187, R209). -/
def fetchFrom (c : Fin 12) (p : DWord) (a : Nat) (bad : BitVec 24) : Exec Unit := do
  modify fun s => s.modCore c fun v => v.bufLine (lineOf a) bad
  if bad.getLsbD (a % 24) then raise 0x0C p else pure ()

/-- A fetch of a Voice core: the word's line comes into the line buffer, through the L1 instruction cache where the page is WB
(R185, R186, R209, R261). -/
def voiceFetch (c : Fin 12) (ups : List Upset) (p : DWord) : Exec Unit := do
  let r ← reqOf c .fetch p
  if !r.ptrOk then raise 0x09 p
  else if ptrLane p ≠ 0 then raise 0x08 p
  else
    let x ← r.translate
    let a := x.1.toNat
    let s ← get
    if x.2 = none || x.2 = some .sx || !s.inMem a || (inStage a && sramBad 0 ups) then raise 0x0C p
    else if (s.core c).buffers a then pure ()
    else if x.2 = some .wb then
      let b := s.bringInsn c (lineOf a)
      set b.1
      if !b.2 then throw .wait
      else fetchFrom c p a (((b.1.caches.find (lineOf a)).map fun l => l.poison).getD 0)
    else
      cleanFirst c ups a
      let s ← get
      let b := s.readBeats .demand (lineOf a) (s.storedBeats (lineOf a))
      set b.1
      fetchFrom c p a (beatsToWords b.2 ||| b.1.stagePoison (lineOf a))

/-- The Conductor's fetch unit can read the word of a pointer: only from the selected-slot alias and the private SRAM (R188; 11
section 11.8). -/
def State.cdrReads (s : State) (p : DWord) : Bool :=
  cdrPtrOk p && match (if inPrivate p then privAt (ptrAddr p).toNat else none) with
    | some (.alias_, _) => !s.boot.xipOff
    | some (.sram, _) => true
    | _ => false

/-- A fetch of the Conductor: a word that the prefetch queue holds is as it was when it was fetched (R188, R198). The queue then
holds the four words that follow (R189). -/
def cdrFetch (ups : List Upset) (p : DWord) : Exec Unit := do
  let s ← get
  if !cdrPtrOk p then raise 0x09 p
  else if ptrLane p ≠ 0 then raise 0x08 p
  else
    let inSram := inPrivate p && (privAt (ptrAddr p).toNat).any fun x => x.1 = .sram
    let fetched (q : DWord) : Bool := match s.cdr.queue.find? fun x => x.1 = q.toNat with
      | some x => x.2
      | none => s.cdrReads q
    if !fetched p || (inSram && sramBad 1 ups) then raise 0x0C p
    else set { s with cdr := { s.cdr with queue := (List.range 4).map fun i => let q := p + BitVec.ofNat 48 (4 * (i + 1)); (q.toNat, fetched q) } }

/-- The fetch of one word. -/
def fetchWord (k : Core) (f : Fetch) (p : DWord) : Exec Unit :=
  match k with
  | .voice c => voiceFetch c f.ups p
  | .conductor => cdrFetch f.ups p

end Sys2Proof.Machine
end

