-- ==== Sys2Proof/Machine/Run.lean ====
section
/-! DEFINITION. One instruction of a core: the instruction boundary, fetch and decode checks, the body, and retirement (04, 05
R156, R173). -/
namespace Sys2Proof.Machine

/-- What an instruction leaves when it retires: the PC where it jumps, what its trace unit records, and whether it is a BARWAIT
that ends the recording (16 Table 16.1). -/
structure Done where
  target : Option DWord
  evs    : List TraceEv
  leave  : Bool
deriving DecidableEq, Repr

/-- An instruction that goes on to the next one and is not recorded by more than its retirement. -/
def Done.seq : Done := { target := none, evs := [], leave := false }
/-- An instruction that jumps. -/
def Done.jump (p : DWord) (evs : List TraceEv) : Done := { target := some p, evs, leave := false }

/-! The boundary. -/

/-- The pointer of the instruction word itself: after its EXT, where it has one (R115, R138). -/
def insnPtr (f : Fetch) (p : DWord) : DWord := if f.ext.isSome then p + 4 else p
/-- The pointer of the word that follows the instruction. -/
def nextPtr (f : Fetch) (p : DWord) : DWord := insnPtr f p + 4

/-- The words of the instruction are fetched: its EXT, and itself. -/
def fetchInsn (k : Core) (f : Fetch) (p : DWord) : Exec Unit :=
  if f.ext.isSome then do fetchWord k f p; fetchWord k f (p + 4) else fetchWord k f p

/-- The word found in the place of an instruction is no instruction there: an unassigned major or function code (04 R110), or, after an
EXT, a word that EXT does not apply to because it names none, another EXT included (R113). An EXT that stands alone is fetched with
the word that follows it. -/
def unassignedWord (k : Core) (f : Fetch) : Option Word :=
  f.word.filter fun w => (decodeInsnWord k f w).isNone && (f.ext.isSome || (extPayload w).isNone)

/-- The checks of decoding, in the order of 05 R156: illegal (04 R109, R110, R113, R126, Table 4.11), privileged (R141),
extended state disabled (R105). -/
def decodeInsn (k : Core) (f : Fetch) (i : Insn) : Exec Unit := do
  let s ← get
  let w := ((unassignedWord k f).getD i.word).setWidth 48
  if (unassignedWord k f).isSome || (f.ext.isSome && !i.extOk) || !i.legal then raise 0x01 w
  else match k with
    | .conductor => if i.cdr then pure () else raise 0x01 w
    | .voice c =>
      let v := s.core c
      if i.fp && decide (5 ≤ (bits v.fcsr 0 3).toNat) then raise 0x01 w
      else if !v.level.atLeast i.level then raise 0x02 w
      else if i.xs && !v.kstatus.getLsbD 4 then raise 0x03 0
      else pure ()

/-- An instruction that does not retire: its exception is taken, or it waits. -/
def State.trapped (s : State) (k : Core) : Trap → State
  | .exc x => s.excAt k x
  | .wait => s

/-- The partition that runs on a Voice core is entered in its slot (02 R32). -/
def State.enterAt (s : State) : Core → State
  | .voice c => s.enterSlot c
  | .conductor => s

/-- How the boundary before an instruction ends: with the command over, or with the instruction ready to execute. -/
inductive Bound where
  | over (s : State)
  | ready (s : State)
deriving DecidableEq, Repr

/-- The boundary before an instruction (05 R156): a core that does not issue does nothing (log 4); an asynchronous event that
pends is taken instead of the instruction (log 12); else the upsets of the command take place and the instruction is fetched
and decoded. -/
def State.boundary (s : State) (k : Core) (f : Fetch) (i : Insn) : Bound :=
  if !s.issuesAt k then .over s
  else
    let s := s.awake (initiatorOf k)
    match s.asyncAt k with
    | some t => .over t
    | none =>
      let s := (s.upsets f.ups).enterAt k
      match (do fetchInsn k f (s.pc k); decodeInsn k f i : Exec Unit) s with
      | .ok _ s => .ready s
      | .error t s => .over (s.trapped k t)

/-! Retirement. -/

/-- One instruction is counted; a wrap raises private source 20 (05 Table 5.5; 08 Table 8.2). -/
def State.countInsn (s : State) (k : Core) : State :=
  match k with
  | .voice c =>
    let n := (s.core c).instret + 1
    let s := s.modCore c fun v => { v with instret := n }
    if n = 0 then s.edge c.val 20 else s
  | .conductor =>
    let n := s.cdr.instret + 1
    let s := { s with cdr := { s.cdr with instret := n } }
    if n = 0 then s.edge 12 20 else s

/-- What retirement leaves besides the PC and the count: the trace of a Voice core (16 R668), or the prefetch queue of the
Conductor (06 R189, R190). `was` is the state in which the instruction was fetched. -/
def State.afterInsn (s was : State) (k : Core) (d : Done) : State :=
  match k with
  | .voice c =>
    let v := was.core c
    let s := s.traceRetire c v.pc v.level v.mptag d.evs
    let s := if d.leave then s.traceLeave c 0 else s
    s.enterSlot c
  | .conductor =>
    { s with cdr := { s.cdr with queue := if d.target.isSome then [] else s.cdr.queue } }

/-- The instruction retires. -/
def State.retire (s was : State) (k : Core) (f : Fetch) (d : Done) : State :=
  ((s.setPc k (d.target.getD (nextPtr f (was.pc k)))).countInsn k).afterInsn was k d

/-- The state after an instruction that is ready. -/
def State.perform (s : State) (k : Core) (f : Fetch) (body : Exec Done) : State :=
  match body s with
  | .ok d t => t.retire s k f d
  | .error x t => t.trapped k x

/-- One instruction. -/
def runInsn (k : Core) (f : Fetch) (i : Insn) (body : Exec Done) (s : State) : Host.Outcome State Fault Refusal :=
  .next (match s.boundary k f i with
    | .over t => t
    | .ready t => t.perform k f body)

/-- The body of an instruction that only changes registers. -/
def regBody (g : State → State) : Exec Done := fun s => .ok Done.seq (g s)

/-- An instruction that only changes registers. -/
def runReg (k : Core) (f : Fetch) (i : Insn) (g : State → State) (s : State) : Host.Outcome State Fault Refusal :=
  runInsn k f i (regBody g) s

end Sys2Proof.Machine
end

