-- ==== Sys2Proof/Machine/Alu.lean ====
section
/-! DEFINITION. Integer, pair and pointer instructions (04 sections 4.4 and 4.5). -/
namespace Sys2Proof.Machine

/-! Operations on values (R117, Table 4.4). -/

/-- 1 where a comparison holds. -/
def boolWord (b : Bool) : Word := flag 24 0 b
/-- ROL: the amount is taken mod 24. -/
def rol24 (a : Word) (n : Nat) : Word := a.rotateLeft (n % 24)
/-- Signed minimum and maximum. -/
def smin (a b : Word) : Word := if a.slt b then a else b
/-- Signed maximum. -/
def smax (a b : Word) : Word := if a.slt b then b else a
/-- Unsigned minimum. -/
def umin (a b : Word) : Word := if a.ult b then a else b
/-- Unsigned maximum. -/
def umax (a b : Word) : Word := if a.ult b then b else a
/-- The signed 48-bit product. -/
def smul48 (a b : Word) : DWord := a.signExtend 48 * b.signExtend 48
/-- The unsigned 48-bit product. -/
def umul48 (a b : Word) : DWord := a.setWidth 48 * b.setWidth 48
/-- DIV: rounded toward zero; a divisor of 0 gives all ones. -/
def divS (a b : Word) : Word := if b = 0 then 0xFFFFFF else a.sdiv b
/-- DIVU. -/
def divU (a b : Word) : Word := if b = 0 then 0xFFFFFF else a / b
/-- REM: the sign of the dividend; a divisor of 0 gives the dividend. -/
def remS (a b : Word) : Word := if b = 0 then a else a.srem b
/-- REMU. -/
def remU (a b : Word) : Word := if b = 0 then a else a % b

/-! Shapes of result. -/

/-- A word from two words. -/
def wordOp (k : Core) (rd rs1 rs2 : BitVec 5) (op : Word → Word → Word) (s : State) : State := s.setW k rd (op (s.rw k rs1) (s.rw k rs2))
/-- A word from a word and an immediate. -/
def immOp (k : Core) (rd rs1 : BitVec 5) (imm : Word) (op : Word → Word → Word) (s : State) : State := s.setW k rd (op (s.rw k rs1) imm)
/-- A pair from two pairs. -/
def pairOp (k : Core) (rd rs1 rs2 : BitVec 5) (op : DWord → DWord → DWord) (s : State) : State := s.setD k rd (op (s.rd k rs1) (s.rd k rs2))
/-- A pair from a pair and an amount of 6 bits in a word. -/
def shiftOp (k : Core) (rd rs1 rs2 : BitVec 5) (op : DWord → Nat → DWord) (s : State) : State := s.setD k rd (op (s.rd k rs1) (bits (s.rw k rs2) 0 6).toNat)
/-- The amount of a word shift: rs2[4:0]. -/
def amount (b : Word) : Nat := (bits b 0 5).toNat

/-! Word instructions (major 0x01 to 0x03). -/

/-- ADD (Table 4.4). -/
def execAddW (k : Core) (f : Fetch) (rd rs1 rs2 : BitVec 5) (s : State) : Host.Outcome State Fault Refusal :=
  runReg k f (insnR 0x01 0 rd rs1 rs2 true) (wordOp k rd rs1 rs2 fun a b => a + b) s

/-- SUB (Table 4.4). -/
def execSubW (k : Core) (f : Fetch) (rd rs1 rs2 : BitVec 5) (s : State) : Host.Outcome State Fault Refusal :=
  runReg k f (insnR 0x01 1 rd rs1 rs2 true) (wordOp k rd rs1 rs2 fun a b => a - b) s

/-- AND (Table 4.4). -/
def execAndW (k : Core) (f : Fetch) (rd rs1 rs2 : BitVec 5) (s : State) : Host.Outcome State Fault Refusal :=
  runReg k f (insnR 0x01 2 rd rs1 rs2 true) (wordOp k rd rs1 rs2 fun a b => a &&& b) s

/-- OR (Table 4.4). -/
def execOrW (k : Core) (f : Fetch) (rd rs1 rs2 : BitVec 5) (s : State) : Host.Outcome State Fault Refusal :=
  runReg k f (insnR 0x01 3 rd rs1 rs2 true) (wordOp k rd rs1 rs2 fun a b => a ||| b) s

/-- XOR (Table 4.4). -/
def execXorW (k : Core) (f : Fetch) (rd rs1 rs2 : BitVec 5) (s : State) : Host.Outcome State Fault Refusal :=
  runReg k f (insnR 0x01 4 rd rs1 rs2 true) (wordOp k rd rs1 rs2 fun a b => a ^^^ b) s

/-- SLT (Table 4.4). -/
def execSlt (k : Core) (f : Fetch) (rd rs1 rs2 : BitVec 5) (s : State) : Host.Outcome State Fault Refusal :=
  runReg k f (insnR 0x01 5 rd rs1 rs2 true) (wordOp k rd rs1 rs2 fun a b => boolWord (a.slt b)) s

/-- SLTU (Table 4.4). -/
def execSltu (k : Core) (f : Fetch) (rd rs1 rs2 : BitVec 5) (s : State) : Host.Outcome State Fault Refusal :=
  runReg k f (insnR 0x01 6 rd rs1 rs2 true) (wordOp k rd rs1 rs2 fun a b => boolWord (a.ult b)) s

/-- NOR (Table 4.4). -/
def execNorW (k : Core) (f : Fetch) (rd rs1 rs2 : BitVec 5) (s : State) : Host.Outcome State Fault Refusal :=
  runReg k f (insnR 0x01 7 rd rs1 rs2 true) (wordOp k rd rs1 rs2 fun a b => ~~~(a ||| b)) s

/-- SLL: amounts 24 to 31 give 0 (Table 4.4). -/
def execSll (k : Core) (f : Fetch) (rd rs1 rs2 : BitVec 5) (s : State) : Host.Outcome State Fault Refusal :=
  runReg k f (insnR 0x02 0 rd rs1 rs2 true) (wordOp k rd rs1 rs2 fun a b => a <<< amount b) s

/-- SRL: amounts 24 to 31 give 0 (Table 4.4). -/
def execSrl (k : Core) (f : Fetch) (rd rs1 rs2 : BitVec 5) (s : State) : Host.Outcome State Fault Refusal :=
  runReg k f (insnR 0x02 1 rd rs1 rs2 true) (wordOp k rd rs1 rs2 fun a b => a >>> amount b) s

/-- SRA: amounts 24 to 31 give copies of bit 23 (Table 4.4). -/
def execSra (k : Core) (f : Fetch) (rd rs1 rs2 : BitVec 5) (s : State) : Host.Outcome State Fault Refusal :=
  runReg k f (insnR 0x02 2 rd rs1 rs2 true) (wordOp k rd rs1 rs2 fun a b => a.sshiftRight (amount b)) s

/-- ROL (Table 4.4). -/
def execRol (k : Core) (f : Fetch) (rd rs1 rs2 : BitVec 5) (s : State) : Host.Outcome State Fault Refusal :=
  runReg k f (insnR 0x02 3 rd rs1 rs2 true) (wordOp k rd rs1 rs2 fun a b => rol24 a (amount b)) s

/-- MIN (Table 4.4). -/
def execMinS (k : Core) (f : Fetch) (rd rs1 rs2 : BitVec 5) (s : State) : Host.Outcome State Fault Refusal :=
  runReg k f (insnR 0x02 4 rd rs1 rs2 true) (wordOp k rd rs1 rs2 smin) s

/-- MAX (Table 4.4). -/
def execMaxS (k : Core) (f : Fetch) (rd rs1 rs2 : BitVec 5) (s : State) : Host.Outcome State Fault Refusal :=
  runReg k f (insnR 0x02 5 rd rs1 rs2 true) (wordOp k rd rs1 rs2 smax) s

/-- MINU (Table 4.4). -/
def execMinu (k : Core) (f : Fetch) (rd rs1 rs2 : BitVec 5) (s : State) : Host.Outcome State Fault Refusal :=
  runReg k f (insnR 0x02 6 rd rs1 rs2 true) (wordOp k rd rs1 rs2 umin) s

/-- MAXU (Table 4.4). -/
def execMaxu (k : Core) (f : Fetch) (rd rs1 rs2 : BitVec 5) (s : State) : Host.Outcome State Fault Refusal :=
  runReg k f (insnR 0x02 7 rd rs1 rs2 true) (wordOp k rd rs1 rs2 umax) s

/-- MUL (Table 4.4). -/
def execMulW (k : Core) (f : Fetch) (rd rs1 rs2 : BitVec 5) (s : State) : Host.Outcome State Fault Refusal :=
  runReg k f (insnR 0x03 0 rd rs1 rs2 true) (wordOp k rd rs1 rs2 fun a b => a * b) s

/-- MULH (Table 4.4). -/
def execMulh (k : Core) (f : Fetch) (rd rs1 rs2 : BitVec 5) (s : State) : Host.Outcome State Fault Refusal :=
  runReg k f (insnR 0x03 1 rd rs1 rs2 true) (wordOp k rd rs1 rs2 fun a b => hi24 (smul48 a b)) s

/-- MULHU (Table 4.4). -/
def execMulhu (k : Core) (f : Fetch) (rd rs1 rs2 : BitVec 5) (s : State) : Host.Outcome State Fault Refusal :=
  runReg k f (insnR 0x03 2 rd rs1 rs2 true) (wordOp k rd rs1 rs2 fun a b => hi24 (umul48 a b)) s

/-- MULW: rd is a pair (Table 4.4, R103, R109). -/
def execMulw (k : Core) (f : Fetch) (rd rs1 rs2 : BitVec 5) (s : State) : Host.Outcome State Fault Refusal :=
  runReg k f (insnR 0x03 3 rd rs1 rs2 (isPair rd)) (fun s => s.setD k rd (smul48 (s.rw k rs1) (s.rw k rs2))) s

/-- DIV (Table 4.4). -/
def execDivS (k : Core) (f : Fetch) (rd rs1 rs2 : BitVec 5) (s : State) : Host.Outcome State Fault Refusal :=
  runReg k f (insnR 0x03 4 rd rs1 rs2 true) (wordOp k rd rs1 rs2 divS) s

/-- DIVU (Table 4.4). -/
def execDivu (k : Core) (f : Fetch) (rd rs1 rs2 : BitVec 5) (s : State) : Host.Outcome State Fault Refusal :=
  runReg k f (insnR 0x03 5 rd rs1 rs2 true) (wordOp k rd rs1 rs2 divU) s

/-- REM (Table 4.4). -/
def execRemS (k : Core) (f : Fetch) (rd rs1 rs2 : BitVec 5) (s : State) : Host.Outcome State Fault Refusal :=
  runReg k f (insnR 0x03 6 rd rs1 rs2 true) (wordOp k rd rs1 rs2 remS) s

/-- REMU (Table 4.4). -/
def execRemu (k : Core) (f : Fetch) (rd rs1 rs2 : BitVec 5) (s : State) : Host.Outcome State Fault Refusal :=
  runReg k f (insnR 0x03 7 rd rs1 rs2 true) (wordOp k rd rs1 rs2 remU) s

/-! Immediate instructions (major 0x04 to 0x0A). -/

/-- ADDI (R111, R114, Table 4.4). -/
def execAddi (k : Core) (f : Fetch) (rd rs1 : BitVec 5) (imm : BitVec 8) (s : State) : Host.Outcome State Fault Refusal :=
  runReg k f (insnI 0x04 rd rs1 imm true) (immOp k rd rs1 (immS f imm 24) fun a b => a + b) s

/-- ANDI (R111, R114, Table 4.4). -/
def execAndi (k : Core) (f : Fetch) (rd rs1 : BitVec 5) (imm : BitVec 8) (s : State) : Host.Outcome State Fault Refusal :=
  runReg k f (insnI 0x05 rd rs1 imm true) (immOp k rd rs1 (immZ f imm 24) fun a b => a &&& b) s

/-- ORI (R111, R114, Table 4.4). -/
def execOri (k : Core) (f : Fetch) (rd rs1 : BitVec 5) (imm : BitVec 8) (s : State) : Host.Outcome State Fault Refusal :=
  runReg k f (insnI 0x06 rd rs1 imm true) (immOp k rd rs1 (immZ f imm 24) fun a b => a ||| b) s

/-- XORI (R111, R114, Table 4.4). -/
def execXori (k : Core) (f : Fetch) (rd rs1 : BitVec 5) (imm : BitVec 8) (s : State) : Host.Outcome State Fault Refusal :=
  runReg k f (insnI 0x07 rd rs1 imm true) (immOp k rd rs1 (immZ f imm 24) fun a b => a ^^^ b) s

/-- SLTI (R111, R114, Table 4.4). -/
def execSlti (k : Core) (f : Fetch) (rd rs1 : BitVec 5) (imm : BitVec 8) (s : State) : Host.Outcome State Fault Refusal :=
  runReg k f (insnI 0x08 rd rs1 imm true) (immOp k rd rs1 (immS f imm 24) fun a b => boolWord (a.slt b)) s

/-- SLTIU: the sign-extended immediate is compared as unsigned (R111, R114, Table 4.4). -/
def execSltiu (k : Core) (f : Fetch) (rd rs1 : BitVec 5) (imm : BitVec 8) (s : State) : Host.Outcome State Fault Refusal :=
  runReg k f (insnI 0x09 rd rs1 imm true) (immOp k rd rs1 (immS f imm 24) fun a b => boolWord (a.ult b)) s

/-- A shift by an immediate: imm[7:6] selects the shift, imm[5] is 0 and imm[4:0] is an amount of 0 to 23 (R110, Table 4.4). -/
def insnShift (sel : BitVec 2) (rd rs1 : BitVec 5) (imm : BitVec 8) : Insn :=
  { insnI 0x0A rd rs1 (sel ++ bits imm 0 6) (!imm.getLsbD 5 && decide ((bits imm 0 5).toNat < 24)) with extOk := false }
/-- The amount of a shift by an immediate. -/
def shiftImm (k : Core) (rd rs1 : BitVec 5) (imm : BitVec 8) (op : Word → Nat → Word) (s : State) : State :=
  s.setW k rd (op (s.rw k rs1) (bits imm 0 5).toNat)

/-- SLLI (Table 4.4). -/
def execSlli (k : Core) (f : Fetch) (rd rs1 : BitVec 5) (imm : BitVec 8) (s : State) : Host.Outcome State Fault Refusal :=
  runReg k f (insnShift 0 rd rs1 imm) (shiftImm k rd rs1 imm fun a n => a <<< n) s

/-- SRLI (Table 4.4). -/
def execSrli (k : Core) (f : Fetch) (rd rs1 : BitVec 5) (imm : BitVec 8) (s : State) : Host.Outcome State Fault Refusal :=
  runReg k f (insnShift 1 rd rs1 imm) (shiftImm k rd rs1 imm fun a n => a >>> n) s

/-- SRAI (Table 4.4). -/
def execSrai (k : Core) (f : Fetch) (rd rs1 : BitVec 5) (imm : BitVec 8) (s : State) : Host.Outcome State Fault Refusal :=
  runReg k f (insnShift 2 rd rs1 imm) (shiftImm k rd rs1 imm fun a n => a.sshiftRight n) s

/-- ROLI (Table 4.4). -/
def execRoli (k : Core) (f : Fetch) (rd rs1 : BitVec 5) (imm : BitVec 8) (s : State) : Host.Outcome State Fault Refusal :=
  runReg k f (insnShift 3 rd rs1 imm) (shiftImm k rd rs1 imm rol24) s

/-! Pair instructions (major 0x0B to 0x0D). -/

/-- ADD.D (R109, Table 4.4). -/
def execAddD (k : Core) (f : Fetch) (rd rs1 rs2 : BitVec 5) (s : State) : Host.Outcome State Fault Refusal :=
  runReg k f (insnR 0x0B 0 rd rs1 rs2 (isPair rd && isPair rs1 && isPair rs2)) (pairOp k rd rs1 rs2 fun a b => a + b) s

/-- SUB.D (R109, Table 4.4). -/
def execSubD (k : Core) (f : Fetch) (rd rs1 rs2 : BitVec 5) (s : State) : Host.Outcome State Fault Refusal :=
  runReg k f (insnR 0x0B 1 rd rs1 rs2 (isPair rd && isPair rs1 && isPair rs2)) (pairOp k rd rs1 rs2 fun a b => a - b) s

/-- AND.D (R109, Table 4.4). -/
def execAndD (k : Core) (f : Fetch) (rd rs1 rs2 : BitVec 5) (s : State) : Host.Outcome State Fault Refusal :=
  runReg k f (insnR 0x0B 2 rd rs1 rs2 (isPair rd && isPair rs1 && isPair rs2)) (pairOp k rd rs1 rs2 fun a b => a &&& b) s

/-- OR.D (R109, Table 4.4). -/
def execOrD (k : Core) (f : Fetch) (rd rs1 rs2 : BitVec 5) (s : State) : Host.Outcome State Fault Refusal :=
  runReg k f (insnR 0x0B 3 rd rs1 rs2 (isPair rd && isPair rs1 && isPair rs2)) (pairOp k rd rs1 rs2 fun a b => a ||| b) s

/-- XOR.D (R109, Table 4.4). -/
def execXorD (k : Core) (f : Fetch) (rd rs1 rs2 : BitVec 5) (s : State) : Host.Outcome State Fault Refusal :=
  runReg k f (insnR 0x0B 4 rd rs1 rs2 (isPair rd && isPair rs1 && isPair rs2)) (pairOp k rd rs1 rs2 fun a b => a ^^^ b) s

/-- SLT.D: rd is a word (Table 4.4). -/
def execSltD (k : Core) (f : Fetch) (rd rs1 rs2 : BitVec 5) (s : State) : Host.Outcome State Fault Refusal :=
  runReg k f (insnR 0x0B 5 rd rs1 rs2 (isPair rs1 && isPair rs2)) (fun s => s.setW k rd (boolWord ((s.rd k rs1).slt (s.rd k rs2)))) s

/-- SLTU.D: rd is a word (Table 4.4). -/
def execSltuD (k : Core) (f : Fetch) (rd rs1 rs2 : BitVec 5) (s : State) : Host.Outcome State Fault Refusal :=
  runReg k f (insnR 0x0B 6 rd rs1 rs2 (isPair rs1 && isPair rs2)) (fun s => s.setW k rd (boolWord ((s.rd k rs1).ult (s.rd k rs2)))) s

/-- SLL.D: the amount is rs2[5:0] (Table 4.4). -/
def execSllD (k : Core) (f : Fetch) (rd rs1 rs2 : BitVec 5) (s : State) : Host.Outcome State Fault Refusal :=
  runReg k f (insnR 0x0C 0 rd rs1 rs2 (isPair rd && isPair rs1)) (shiftOp k rd rs1 rs2 fun a n => a <<< n) s

/-- SRL.D: the amount is rs2[5:0] (Table 4.4). -/
def execSrlD (k : Core) (f : Fetch) (rd rs1 rs2 : BitVec 5) (s : State) : Host.Outcome State Fault Refusal :=
  runReg k f (insnR 0x0C 1 rd rs1 rs2 (isPair rd && isPair rs1)) (shiftOp k rd rs1 rs2 fun a n => a >>> n) s

/-- SRA.D: the amount is rs2[5:0] (Table 4.4). -/
def execSraD (k : Core) (f : Fetch) (rd rs1 rs2 : BitVec 5) (s : State) : Host.Outcome State Fault Refusal :=
  runReg k f (insnR 0x0C 2 rd rs1 rs2 (isPair rd && isPair rs1)) (shiftOp k rd rs1 rs2 fun a n => a.sshiftRight n) s

/-- SEXT.D (Table 4.4). -/
def execSextD (k : Core) (f : Fetch) (rd rs1 rs2 : BitVec 5) (s : State) : Host.Outcome State Fault Refusal :=
  runReg k f (insnR 0x0C 3 rd rs1 rs2 (isPair rd && rs2 = 0)) (fun s => s.setD k rd ((s.rw k rs1).signExtend 48)) s

/-- ZEXT.D (Table 4.4). -/
def execZextD (k : Core) (f : Fetch) (rd rs1 rs2 : BitVec 5) (s : State) : Host.Outcome State Fault Refusal :=
  runReg k f (insnR 0x0C 4 rd rs1 rs2 (isPair rd && rs2 = 0)) (fun s => s.setD k rd ((s.rw k rs1).setWidth 48)) s

/-- PACK.D: rs2 is the high word (Table 4.4). -/
def execPackD (k : Core) (f : Fetch) (rd rs1 rs2 : BitVec 5) (s : State) : Host.Outcome State Fault Refusal :=
  runReg k f (insnR 0x0C 5 rd rs1 rs2 (isPair rd)) (fun s => s.setD k rd (pair (s.rw k rs2) (s.rw k rs1))) s

/-- ADDI.D (Table 4.4). -/
def execAddiD (k : Core) (f : Fetch) (rd rs1 : BitVec 5) (imm : BitVec 8) (s : State) : Host.Outcome State Fault Refusal :=
  runReg k f (insnI 0x0D rd rs1 imm (isPair rd && isPair rs1)) (fun s => s.setD k rd (s.rd k rs1 + immS f imm 48)) s

/-! Pointer instructions (major 0x0E and 0x0F; R118, R119). -/

/-- A pair from a computation on source pointers, each of which must have a lane other than 11 (R119). Cause 0x11 names the source
pointer in xDETAIL, since there is no pointer of an access (05 R157; DESIGN CHOICE, log 25). -/
def ptrBody (k : Core) (rd : BitVec 5) (ptrs : State → List DWord) (v : State → DWord) : Exec Done := do
  let s ← get
  match (ptrs s).find? fun p => ptrLane p = 3 with
  | some p => raise 0x11 p
  | none => do set (s.setD k rd (v s)); pure Done.seq

/-- PADD.B: the signed word rs2 is added to the byte index. -/
def execPaddB (k : Core) (f : Fetch) (rd rs1 rs2 : BitVec 5) (s : State) : Host.Outcome State Fault Refusal :=
  runInsn k f (insnR 0x0E 0 rd rs1 rs2 (isPair rd && isPair rs1)) (ptrBody k rd (fun s => [s.rd k rs1]) fun s => ptrBytes (s.rd k rs1) (s.rw k rs2).toInt) s

/-- PADDI.B. -/
def execPaddiB (k : Core) (f : Fetch) (rd rs1 : BitVec 5) (imm : BitVec 8) (s : State) : Host.Outcome State Fault Refusal :=
  runInsn k f (insnI 0x0F rd rs1 imm (isPair rd && isPair rs1))
    (ptrBody k rd (fun s => [s.rd k rs1]) fun s => ptrBytes (s.rd k rs1) (immS f imm 48).toInt) s

/-- PSUB.B: the signed byte distance. -/
def execPsubB (k : Core) (f : Fetch) (rd rs1 rs2 : BitVec 5) (s : State) : Host.Outcome State Fault Refusal :=
  runInsn k f (insnR 0x0E 1 rd rs1 rs2 (isPair rd && isPair rs1 && isPair rs2)) (ptrBody k rd (fun s => [s.rd k rs1, s.rd k rs2]) fun s => BitVec.ofInt 48 (ptrIndex (s.rd k rs1) - ptrIndex (s.rd k rs2))) s

/-- PIDX: the byte index. -/
def execPidx (k : Core) (f : Fetch) (rd rs1 rs2 : BitVec 5) (s : State) : Host.Outcome State Fault Refusal :=
  runInsn k f (insnR 0x0E 2 rd rs1 rs2 (isPair rd && isPair rs1 && rs2 = 0)) (ptrBody k rd (fun s => [s.rd k rs1]) fun s => BitVec.ofInt 48 (ptrIndex (s.rd k rs1))) s

/-- PFROM: the pointer of a byte index. -/
def execPfrom (k : Core) (f : Fetch) (rd rs1 rs2 : BitVec 5) (s : State) : Host.Outcome State Fault Refusal :=
  runInsn k f (insnR 0x0E 3 rd rs1 rs2 (isPair rd && isPair rs1 && rs2 = 0)) (ptrBody k rd (fun _ => []) fun s => ptrOf (s.rd k rs1).toInt) s

end Sys2Proof.Machine
end

