-- ==== Sys2Proof/Machine/Branch.lean ====
section
/-! DEFINITION. Branches and jumps (04 section 4.9). -/
namespace Sys2Proof.Machine

/-- The target of an offset in words from the instruction word (R138). -/
def branchTarget (f : Fetch) (pc : DWord) (off : DWord) : DWord := ptrWords (insnPtr f pc) off

/-- A conditional branch, whose outcome is recorded (16 Table 16.1). -/
def branchBody (k : Core) (f : Fetch) (rs1 rs2 : BitVec 5) (off : BitVec 8) (cond : Word → Word → Bool) : Exec Done := do
  let s ← get
  if cond (s.rw k rs1) (s.rw k rs2) then pure (Done.jump (branchTarget f (s.pc k) (immS f off 48)) [.branch true])
  else pure { Done.seq with evs := [.branch false] }

/-- BEQ (R138). -/
def execBeq (k : Core) (f : Fetch) (rs1 rs2 : BitVec 5) (off : BitVec 8) (s : State) : Host.Outcome State Fault Refusal :=
  runInsn k f (insnI 0x20 rs1 rs2 off true) (branchBody k f rs1 rs2 off fun a b => a = b) s

/-- BNE (R138). -/
def execBne (k : Core) (f : Fetch) (rs1 rs2 : BitVec 5) (off : BitVec 8) (s : State) : Host.Outcome State Fault Refusal :=
  runInsn k f (insnI 0x21 rs1 rs2 off true) (branchBody k f rs1 rs2 off fun a b => a ≠ b) s

/-- BLT (R138). -/
def execBlt (k : Core) (f : Fetch) (rs1 rs2 : BitVec 5) (off : BitVec 8) (s : State) : Host.Outcome State Fault Refusal :=
  runInsn k f (insnI 0x22 rs1 rs2 off true) (branchBody k f rs1 rs2 off fun a b => a.slt b) s

/-- BGE (R138). -/
def execBge (k : Core) (f : Fetch) (rs1 rs2 : BitVec 5) (off : BitVec 8) (s : State) : Host.Outcome State Fault Refusal :=
  runInsn k f (insnI 0x23 rs1 rs2 off true) (branchBody k f rs1 rs2 off fun a b => !a.slt b) s

/-- BLTU (R138). -/
def execBltu (k : Core) (f : Fetch) (rs1 rs2 : BitVec 5) (off : BitVec 8) (s : State) : Host.Outcome State Fault Refusal :=
  runInsn k f (insnI 0x24 rs1 rs2 off true) (branchBody k f rs1 rs2 off fun a b => a.ult b) s

/-- BGEU (R138). -/
def execBgeu (k : Core) (f : Fetch) (rs1 rs2 : BitVec 5) (off : BitVec 8) (s : State) : Host.Outcome State Fault Refusal :=
  runInsn k f (insnI 0x25 rs1 rs2 off true) (branchBody k f rs1 rs2 off fun a b => !a.ult b) s

/-- Format J. -/
def insnJ (major : BitVec 6) (off : BitVec 18) : Insn :=
  { word := encJ major off, extOk := true, legal := true, cdr := true, level := .user, xs := false, fp := false }

/-- A jump by an offset; `link` writes D1 with the pointer to the word that follows (R139). -/
def jumpBody (k : Core) (f : Fetch) (off : BitVec 18) (link : Bool) : Exec Done := do
  let s ← get
  let pc := s.pc k
  if link then set (s.setD k 2 (nextPtr f pc))
  pure (Done.jump (branchTarget f pc (off18 f off)) [])

/-- J (R138). -/
def execJmp (k : Core) (f : Fetch) (off : BitVec 18) (s : State) : Host.Outcome State Fault Refusal :=
  runInsn k f (insnJ 0x26 off) (jumpBody k f off false) s

/-- JAL (R138, R139). -/
def execJal (k : Core) (f : Fetch) (off : BitVec 18) (s : State) : Host.Outcome State Fault Refusal :=
  runInsn k f (insnJ 0x27 off) (jumpBody k f off true) s

/-- JALR: it links in pair rd and jumps to pair rs1 plus imm words (R139). A target that cannot be fetched raises its exception
as a fetch fault at the target, before the next instruction. -/
def jalrBody (k : Core) (f : Fetch) (rd rs1 : BitVec 5) (imm : BitVec 8) : Exec Done := do
  let s ← get
  let p := ptrWords (s.rd k rs1) (immS f imm 48)
  set (s.setD k rd (nextPtr f (s.pc k)))
  pure (Done.jump p [.target 0 p])

/-- JALR. -/
def execJalr (k : Core) (f : Fetch) (rd rs1 : BitVec 5) (imm : BitVec 8) (s : State) : Host.Outcome State Fault Refusal :=
  runInsn k f (insnI 0x28 rd rs1 imm (isPair rd && isPair rs1)) (jalrBody k f rd rs1 imm) s

end Sys2Proof.Machine
end

