-- ==== Sys2Proof/Machine/Chorus.lean ====
section
/-! DEFINITION. The operations and events of Chorus (08). -/
namespace Sys2Proof.Machine

/-- A rising edge of an edge source; the doorbells are raised by software only (08 R297, R300, R302). -/
def execInterruptEdge (t : Fin 13) (src : BitVec 9) (s : State) : Host.Outcome State Fault Refusal :=
  ifOn s fun s =>
    if src.toNat < 16 then s
    else if src = 18 then (if h : t.val < 12 then (if s.hasCore t.val then s.pendBeatExpiry ⟨t.val, h⟩ else s) else s)
    else s.edge t.val src.toNat

/-- The input of a level source changes (08 R299; log 21); in Fermata the new level is what is sampled at the wake (R331). -/
def execLevelInputChange (t : Fin 13) (src : BitVec 9) (level : Bool) (s : State) : Host.Outcome State Fault Refusal :=
  .next <|
    let x := s.chorus.src t.val src.toNat
    if !s.on && s.pwr.state ≠ .fermata then s
    else if s.srcPresent t.val src.toNat && !x.edge then { s with chorus := s.chorus.setSrc t.val src.toNat { x with input := level } } else s

/-- A read of CLAIM (08 R301, R310, R319, R322). -/
def execClaimIrq (w : Initiator) (kernel : Bool) (s : State) : Host.Outcome State Fault Refusal :=
  ifActs w s fun s => (s.ifaceRead w kernel 0).1

/-- A write to COMPLETE (08 R303, R312, R313, R319, R322). -/
def execCompleteIrq (w : Initiator) (kernel : Bool) (v : Word) (s : State) : Host.Outcome State Fault Refusal :=
  ifActs w s fun s => s.ifaceWrite w kernel 1 v

/-- A write of 1 to PEND, the other fields as they are (08 R304). -/
def execPendIrq (w : Initiator) (t : Fin 13) (src : BitVec 9) (s : State) : Host.Outcome State Fault Refusal :=
  ifActs w s fun s => s.srcWrite w t.val src.toNat (s.srcKeep t.val src.toNat ||| bitAt 24 16)

/-- A write of 1 to UNPEND, the other fields as they are (08 R305). -/
def execUnpendIrq (w : Initiator) (t : Fin 13) (src : BitVec 9) (s : State) : Host.Outcome State Fault Refusal :=
  ifActs w s fun s => s.srcWrite w t.val src.toNat (s.srcKeep t.val src.toNat ||| bitAt 24 17)

/-- A write of 1 to PEND of source 18 of a core (08 R850). -/
def execBeatexpPend (w : Initiator) (c : Fin 12) (s : State) : Host.Outcome State Fault Refusal :=
  ifActs w s fun s => s.srcWrite w c.val 18 (bitAt 24 16)

/-- A write to CH_SWDB (08 R304, R321). -/
def execChSwdb (w : Initiator) (v : Word) (s : State) : Host.Outcome State Fault Refusal :=
  ifActs w s fun s => if s.chorusAdmits w then s.swdb v else s

/-- A write to a configuration word (08 R323). -/
def execSrcCfgWrite (w : Initiator) (t : Fin 13) (src : BitVec 9) (v : Word) (s : State) : Host.Outcome State Fault Refusal :=
  ifActs w s fun s => s.srcWrite w t.val src.toNat v

/-- A write to CORE_TMR of the initiating target (08 R322, R325). -/
def execCoreTmrWrite (w : Initiator) (v : Word) (s : State) : Host.Outcome State Fault Refusal :=
  ifActs w s fun s => s.ifaceWrite w false 7 v

/-- COUNT of a target's timer reaches 0 (08 R325). -/
def execCoreTimerExpiry (t : Fin 13) (s : State) : Host.Outcome State Fault Refusal :=
  ifOn s fun s => match Tbl.find s.chorus.timer t.val with
    | some (e, false) =>
      let s := s.until e
      { s with chorus := { s.chorus with timer := Tbl.put s.chorus.timer t.val (e, true) } }
    | _ => s

end Sys2Proof.Machine
end

