-- ==== Sys2Proof/Machine/Csr.lean ====
section
/-! DEFINITION. Control and status registers and their access (05 Table 5.5 and section 5.7, 07 section 7.9, 04 section 4.10). -/
namespace Sys2Proof.Machine

/-! Numbers (04 section 4.10, R178). -/

/-- The CSRs that a Voice core implements. -/
def voiceCsrs : List Nat :=
  [0x001, 0x002, 0x200, 0x201, 0x202, 0x203, 0x400, 0x401, 0x402, 0x403, 0x404, 0x405, 0x406, 0x407, 0x408, 0x409, 0x40A, 0x40B, 0x600,
   0xC00, 0xC01, 0xC02, 0xC03, 0xC04, 0xC05, 0xC06, 0xC07, 0xC08, 0xC09, 0xC0A, 0xC0B, 0xC0C, 0xC0D, 0xC0E, 0xC0F, 0xC10, 0xC11, 0xE00]
/-- The CSRs that the Conductor implements. -/
def cdrCsrs : List Nat := [0x002, 0x200, 0x201, 0x202, 0x203, 0x800, 0x801, 0x802, 0x803, 0x804, 0x805, 0x806, 0x807, 0x808]
/-- The core implements the CSR. -/
def csrExists (k : Core) (n : BitVec 12) : Bool :=
  match k with | .voice _ => voiceCsrs.contains n.toNat | .conductor => cdrCsrs.contains n.toNat
/-- The CSR is read-only. -/
def csrReadOnly (n : BitVec 12) : Bool := n.getLsbD 9
/-- The lowest level that the number encodes. -/
def csrLevel (n : BitVec 12) : Level := match (bits n 10 2).toNat with | 0 => .user | 1 => .kernel | _ => .monitor

/-! Voice cores. -/

/-- BEATINFO (05 section 5.7, R178). While no bar runs, BEAT, TYPE and OWN read 0, as R178 states of BEAT_NOW alone (DESIGN CHOICE, log
25). -/
def State.beatInfo (s : State) (c : Fin 12) : Word :=
  if !s.bar.running then flag 24 8 (s.cbar c).done
  else
    let e := s.entryNow c
    s.bar.beat.setWidth 24 ||| ((entryType e).setWidth 24 <<< 5) ||| flag 24 7 (entryRuns e && entryPart e = (s.core c).mptag) |||
      flag 24 8 (s.cbar c).done

/-- A CSR of a Voice core as it reads. -/
def State.readCsr (s : State) (c : Fin 12) (n : Nat) : Word :=
  let v := s.core c
  match n with
  | 0x001 => v.fcsr
  | 0x002 => v.qstat
  | 0x200 => lo24 v.cycle
  | 0x201 => hi24 v.cycle
  | 0x202 => lo24 v.instret
  | 0x203 => hi24 v.instret
  | 0x400 => v.kstatus
  | 0x401 => lo24 v.kvbase
  | 0x402 => hi24 v.kvbase
  | 0x403 => lo24 v.kepc
  | 0x404 => hi24 v.kepc
  | 0x405 => v.kcause
  | 0x406 => lo24 v.kdetail
  | 0x407 => hi24 v.kdetail
  | 0x408 => v.kscratch
  | 0x409 => lo24 v.kxlat
  | 0x40A => hi24 v.kxlat
  | 0x40B => v.kasid.setWidth 24
  | 0x600 => s.beatInfo c
  | 0xC00 => v.mstatus
  | 0xC01 => lo24 v.mvbase
  | 0xC02 => hi24 v.mvbase
  | 0xC03 => lo24 v.mepc
  | 0xC04 => hi24 v.mepc
  | 0xC05 => v.mcause
  | 0xC06 => lo24 v.mdetail
  | 0xC07 => hi24 v.mdetail
  | 0xC08 => v.mscratch
  | 0xC09 => lo24 v.mxlat
  | 0xC0A => hi24 v.mxlat
  | 0xC0B => v.mptag.setWidth 24
  | 0xC0C => v.mdeleg
  | 0xC0D => v.mbexp
  | 0xC0E => v.mderr
  | 0xC0F => v.mderrh
  | 0xC10 => paLo v.mgwa
  | 0xC11 => paHi v.mgwa
  | 0xE00 => BitVec.ofNat 24 (c.val + c.val / 4 * 16)
  | _ => 0

/-- MSTATUS as a write leaves it: a write of 10 to MPPL leaves that field (R161). -/
def mstatusWrite (old v : Word) : Word :=
  if bits v 2 2 = 2 then (v &&& 0xF3) ||| (old &&& 0x0C) else v &&& 0xFF

/-- The bits of MDELEG that delegate (05 section 5.7). -/
def delegMask : Word := 0x37173E

/-- A translation CSR is about to be written: until the next TFENCE, entry or ERET an access may use its old value, or one that
this write replaces, or the new one (07 R288; log 8). -/
def VoiceCore.openXlat (v : VoiceCore) : VoiceCore :=
  { v with xlatOpen := true, xlatAlt := if v.xlatOpen then v.xlatAlt ++ [v.xlatCsrs] else [] }

/-- A write of a CSR of a Voice core; reserved and read-only fields stay zero. A translation CSR opens the interval in which the
old or the new value is used (07 R288). -/
def VoiceCore.writeCsr (v : VoiceCore) (n : Nat) (x : Word) : VoiceCore :=
  match n with
  | 0x001 => { v with fcsr := x &&& 0x1F07 }
  | 0x002 => { v with qstat := x &&& 3 }
  | 0x400 => { v with kstatus := x &&& 0x1F }
  | 0x401 => { v with kvbase := setLo v.kvbase (x &&& 0xFFFC00) }
  | 0x402 => { v with kvbase := setHi v.kvbase x }
  | 0x403 => { v with kepc := setLo v.kepc x }
  | 0x404 => { v with kepc := setHi v.kepc x }
  | 0x405 => { v with kcause := x &&& 0x81FFFF }
  | 0x406 => { v with kdetail := setLo v.kdetail x }
  | 0x407 => { v with kdetail := setHi v.kdetail x }
  | 0x408 => { v with kscratch := x }
  | 0x409 => { v.openXlat with kxlat := setLo v.kxlat (x &&& 0xFFFF81) }
  | 0x40A => { v.openXlat with kxlat := setHi v.kxlat (x &&& 0xFFF) }
  | 0x40B => { v.openXlat with kasid := x.setWidth 12 }
  | 0xC00 => { v with mstatus := mstatusWrite v.mstatus x }
  | 0xC01 => { v with mvbase := setLo v.mvbase (x &&& 0xFFFC00) }
  | 0xC02 => { v with mvbase := setHi v.mvbase x }
  | 0xC03 => { v with mepc := setLo v.mepc x }
  | 0xC04 => { v with mepc := setHi v.mepc x }
  | 0xC05 => { v with mcause := x &&& 0xC1FFFF }
  | 0xC06 => { v with mdetail := setLo v.mdetail x }
  | 0xC07 => { v with mdetail := setHi v.mdetail x }
  | 0xC08 => { v with mscratch := x }
  | 0xC09 => { v.openXlat with mxlat := setLo v.mxlat (x &&& 0xFFFF81) }
  | 0xC0A => { v.openXlat with mxlat := setHi v.mxlat (x &&& 0xFFF) }
  | 0xC0B => { v.openXlat with mptag := x.setWidth 4 }
  | 0xC0C => { v with mdeleg := x &&& delegMask }
  | 0xC0D => { v with mbexp := x &&& 0x3FF }
  | 0xC0E => { v with mderr := x }
  | 0xC0F => { v with mderrh := v.mderrh &&& ~~~(x &&& 0xC00000) }
  | 0xC10 => { v with mgwa := paddrOf x (paHi v.mgwa) }
  | 0xC11 => { v with mgwa := paddrOf (paLo v.mgwa) x }
  | _ => v

/-! The Conductor. -/

/-- A CSR of the Conductor as it reads. -/
def Conductor.readCsr (d : Conductor) (n : Nat) : Word :=
  match n with
  | 0x002 => d.qstat
  | 0x200 => lo24 d.cycle
  | 0x201 => hi24 d.cycle
  | 0x202 => lo24 d.instret
  | 0x203 => hi24 d.instret
  | 0x800 => d.cstatus
  | 0x801 => lo24 d.cvbase
  | 0x802 => hi24 d.cvbase
  | 0x803 => lo24 d.cepc
  | 0x804 => hi24 d.cepc
  | 0x805 => d.ccause
  | 0x806 => lo24 d.cdetail
  | 0x807 => hi24 d.cdetail
  | 0x808 => d.cscratch
  | _ => 0

/-- A write of a CSR of the Conductor. -/
def Conductor.writeCsr (d : Conductor) (n : Nat) (x : Word) : Conductor :=
  match n with
  | 0x002 => { d with qstat := x &&& 3 }
  | 0x800 => { d with cstatus := x &&& 0x13 }
  | 0x801 => { d with cvbase := setLo d.cvbase (x &&& 0xFFFC00) }
  | 0x802 => { d with cvbase := setHi d.cvbase x }
  | 0x803 => { d with cepc := setLo d.cepc x }
  | 0x804 => { d with cepc := setHi d.cepc x }
  | 0x805 => { d with ccause := x &&& 0x81FFFF }
  | 0x806 => { d with cdetail := setLo d.cdetail x }
  | 0x807 => { d with cdetail := setHi d.cdetail x }
  | 0x808 => { d with cscratch := x }
  | _ => d

/-! CSRRD and CSRWR (04 R143 to R145). -/

/-- A CSR access: the number gives its level and whether it may be written; FCSR needs the extended state (04 R105, R144). -/
def insnCsr (k : Core) (write : Bool) (r : BitVec 5) (bit12 : Bool) (n : BitVec 12) : Insn :=
  { word := encC (if write then 0x35 else 0x34) r bit12 n, extOk := false
    legal := !bit12 && csrExists k n && !(write && csrReadOnly n), cdr := true, level := csrLevel n, xs := n = 1, fp := false }

/-- A CSR of a core as it reads. -/
def State.csr (s : State) (k : Core) (n : BitVec 12) : Word :=
  match k with | .voice c => s.readCsr c n.toNat | .conductor => s.cdr.readCsr n.toNat

/-- A CSR of a core written. -/
def State.setCsr (s : State) (k : Core) (n : BitVec 12) (x : Word) : State :=
  match k with
  | .voice c => s.modCore c fun v => v.writeCsr n.toNat x
  | .conductor => { s with cdr := s.cdr.writeCsr n.toNat x }

/-- CSRRD. -/
def execCsrrd (k : Core) (f : Fetch) (r : BitVec 5) (bit12 : Bool) (csr : BitVec 12) (s : State) : Host.Outcome State Fault Refusal :=
  runReg k f (insnCsr k false r bit12 csr) (fun s => s.setW k r (s.csr k csr)) s

/-- CSRWR. -/
def execCsrwr (k : Core) (f : Fetch) (r : BitVec 5) (bit12 : Bool) (csr : BitVec 12) (s : State) : Host.Outcome State Fault Refusal :=
  runReg k f (insnCsr k true r bit12 csr) (fun s => s.setCsr k csr (s.rw k r)) s

end Sys2Proof.Machine
end

