-- ==== Sys2Proof/Machine/Flags.lean ====
section
/-! DEFINITION. Saturation and the sticky flags of QSTAT and FCSR (04 sections 4.1, 4.6 and 4.7). -/
namespace Sys2Proof.Machine

/-- A signed result as a word, saturated, and whether it was (04 R120). -/
def satWord (i : Int) : Word × Bool :=
  if 0x7FFFFF < i then (0x7FFFFF, true) else if i < -0x800000 then (0x800000, true) else (BitVec.ofInt 24 i, false)

/-- A signed result as an accumulator, saturated, and whether it was (04 R121). -/
def satAcc (i : Int) : BitVec 56 × Bool :=
  if (2 : Int) ^ 55 - 1 < i then (0x7FFFFFFFFFFFFF, true)
  else if i < -((2 : Int) ^ 55) then (0x80000000000000, true)
  else (BitVec.ofInt 56 i, false)

/-- Flags of QSTAT are set; none is cleared (04 R107). -/
def State.orQstat (s : State) (k : Core) (q : Word) : State :=
  match k with
  | .voice c => s.modCore c fun v => { v with qstat := v.qstat ||| q }
  | .conductor => { s with cdr := { s.cdr with qstat := s.cdr.qstat ||| q } }

/-- A word result with its saturation, which sets QSAT (04 R120). -/
def State.setSat (s : State) (k : Core) (r : BitVec 5) (v : Word × Bool) : State :=
  (s.setW k r v.1).orQstat k (flag 24 0 v.2)

/-- An accumulator result with its saturation, which sets ASAT (04 R121). -/
def State.setSatAcc (s : State) (c : Fin 12) (n : BitVec 2) (v : BitVec 56 × Bool) : State :=
  (s.setAcc c n v.1).orQstat (.voice c) (flag 24 1 v.2)

/-- Flags of FCSR are set; none is cleared (04 R107, R125). Bits: 8 INV, 9 DIV0, 10 OVF, 11 UNF, 12 INX. -/
def State.orFcsr (s : State) (c : Fin 12) (q : Word) : State :=
  s.modCore c fun v => { v with fcsr := v.fcsr ||| q }

/-- The floating-point flags that one operation raises. -/
structure FFlags where
  inv  : Bool
  div0 : Bool
  ovf  : Bool
  unf  : Bool
  inx  : Bool
deriving DecidableEq, Repr

/-- No flag. -/
def FFlags.none : FFlags := { inv := false, div0 := false, ovf := false, unf := false, inx := false }
/-- Invalid operation. -/
def FFlags.invalid : FFlags := { FFlags.none with inv := true }
/-- The flags as bits of FCSR. -/
def FFlags.word (f : FFlags) : Word := flag 24 8 f.inv ||| flag 24 9 f.div0 ||| flag 24 10 f.ovf ||| flag 24 11 f.unf ||| flag 24 12 f.inx

end Sys2Proof.Machine
end

