-- ==== Sys2Proof/Machine/Float.lean ====
section
/-! DEFINITION. The 48-bit floating-point format and its arithmetic: IEEE 754-2019 computed exactly and rounded once (04
section 4.7, R123 to R125). -/
namespace Sys2Proof.Machine

/-- A floating-point value: a NaN, an infinity, or m × 2^e with a sign. -/
inductive FVal where
  | nan (signalling : Bool)
  | inf (neg : Bool)
  | fin (neg : Bool) (m : Nat) (e : Int)
deriving DecidableEq, Repr

/-- The sign bit (04 Table 4.7). -/
def fSign (x : DWord) : Bool := x.getLsbD 47
/-- The exponent field. -/
def fExp (x : DWord) : Nat := (bits x 36 11).toNat
/-- The fraction field. -/
def fFrac (x : DWord) : Nat := (bits x 0 36).toNat

/-- The value of an encoding (04 Table 4.7). -/
def fVal (x : DWord) : FVal :=
  if fExp x = 0x7FF then (if fFrac x = 0 then .inf (fSign x) else .nan (!x.getLsbD 35))
  else if fExp x = 0 then .fin (fSign x) (fFrac x) (-1058)
  else .fin (fSign x) (2 ^ 36 + fFrac x) ((fExp x : Int) - 1059)

/-- The canonical quiet NaN (R124). -/
def fNan : DWord := 0x7FF800000000
/-- An infinity. -/
def fInf (neg : Bool) : DWord := flag 48 47 neg ||| 0x7FF000000000
/-- A zero. -/
def fZero (neg : Bool) : DWord := flag 48 47 neg
/-- The largest finite value. -/
def fMax (neg : Bool) : DWord := flag 48 47 neg ||| 0x7FEFFFFFFFFF

/-! Rounding. -/

/-- Whether a magnitude `m + r / 2^k` with `r < 2^k` rounds up in mode `rm` (FCSR.RM). `sticky` adds less than one unit of `r`. -/
def roundsUp (rm : Nat) (neg : Bool) (m r k : Nat) (sticky : Bool) : Bool :=
  let inexact := r != 0 || sticky
  let twice := 2 * r
  let above := decide (2 ^ k < twice) || (decide (twice = 2 ^ k) && sticky)
  let tie := decide (twice = 2 ^ k) && !sticky
  match rm with
  | 0 => (above && decide (0 < k)) || (tie && decide (0 < k) && m % 2 == 1)
  | 1 => decide (0 < k) && (above || tie)
  | 2 => inexact && !neg
  | 3 => inexact && neg
  | _ => false

/-- A magnitude `m × 2^e` (and a little more where `sticky`) in units of `2^q`: the rounded integer and whether it is
inexact. -/
def roundTo (rm : Nat) (neg : Bool) (m : Nat) (e q : Int) (sticky : Bool) : Nat × Bool :=
  if q ≤ e then (m * 2 ^ (e - q).toNat, sticky)
  else
    let k := (q - e).toNat
    let hi := m / 2 ^ k
    let r := m % 2 ^ k
    (hi + (if roundsUp rm neg hi r k sticky then 1 else 0), r != 0 || sticky)

/-- The result of an overflow in mode `rm`. -/
def fOverflow (rm : Nat) (neg : Bool) : DWord :=
  match rm with
  | 2 => if neg then fMax neg else fInf neg
  | 3 => if neg then fInf neg else fMax neg
  | 4 => fMax neg
  | _ => fInf neg

/-- A magnitude `m × 2^e`, m > 0, rounded into the format; tininess is detected after rounding (R123). -/
def fRound (rm : Nat) (neg : Bool) (m : Nat) (e : Int) (sticky : Bool) : DWord × FFlags :=
  let top : Int := e + (Nat.log2 m : Int)
  let free := roundTo rm neg m e (top - 36) sticky
  let tiny := decide ((if free.1 = 2 ^ 37 then top + 1 else top) < -1022)
  let q : Int := max (top - 36) (-1058)
  let r := roundTo rm neg m e q sticky
  let carry := r.1 = 2 ^ 37
  let m1 := if carry then 2 ^ 36 else r.1
  let q1 := if carry then q + 1 else q
  let fl : FFlags := { FFlags.none with unf := tiny && r.2, inx := r.2 }
  if 987 < q1 then (fOverflow rm neg, { FFlags.none with ovf := true, inx := true })
  else if m1 < 2 ^ 36 then (flag 48 47 neg ||| BitVec.ofNat 48 m1, fl)
  else (flag 48 47 neg ||| (BitVec.ofNat 48 (q1 + 1059).toNat <<< 36) ||| BitVec.ofNat 48 (m1 - 2 ^ 36), fl)

/-- A signed magnitude rounded into the format; an exact zero has the sign `zneg`. -/
def fPack (rm : Nat) (i : Int) (e : Int) (zneg : Bool) : DWord × FFlags :=
  if i = 0 then (fZero zneg, FFlags.none) else fRound rm (decide (i < 0)) i.natAbs e false

/-- Some operand is a signalling NaN. -/
def anySignalling (l : List FVal) : Bool := l.any fun v => v = .nan true
/-- Some operand is a NaN. -/
def anyNan (l : List FVal) : Bool := l.any fun v => match v with | .nan _ => true | _ => false
/-- The NaN result of operands with a NaN among them. -/
def nanOf (l : List FVal) : DWord × FFlags := (fNan, { FFlags.none with inv := anySignalling l })
/-- The NaN result of an invalid operation. -/
def nanInvalid : DWord × FFlags := (fNan, FFlags.invalid)

/-- A signed integer of a sign and a magnitude. -/
def signed (neg : Bool) (m : Nat) : Int := if neg then -(m : Int) else m

/-- The sum of two finite values, exact, then rounded (R123). -/
def finAdd (rm : Nat) (n1 : Bool) (m1 : Nat) (e1 : Int) (n2 : Bool) (m2 : Nat) (e2 : Int) : DWord × FFlags :=
  let e := min e1 e2
  let a := signed n1 (m1 * 2 ^ (e1 - e).toNat)
  let b := signed n2 (m2 * 2 ^ (e2 - e).toNat)
  let zneg := if m1 = 0 ∧ m2 = 0 ∧ n1 = n2 then n1 else decide (rm = 3)
  fPack rm (a + b) e zneg

/-! Operations (04 Table 4.8). -/

/-- The sum of two values, one of them perhaps exact and wider than the format. -/
def fAddV (rm : Nat) (x y : FVal) : DWord × FFlags :=
  match x, y with
  | .fin n1 m1 e1, .fin n2 m2 e2 => finAdd rm n1 m1 e1 n2 m2 e2
  | .inf n1, .inf n2 => if n1 = n2 then (fInf n1, FFlags.none) else nanInvalid
  | .inf n, .fin _ _ _ => (fInf n, FFlags.none)
  | .fin _ _ _, .inf n => (fInf n, FFlags.none)
  | _, _ => nanOf [x, y]

/-- The value with its sign changed. -/
def FVal.neg : FVal → FVal
  | .nan q => .nan q
  | .inf n => .inf (!n)
  | .fin n m e => .fin (!n) m e

/-- FADD. -/
def fAdd (rm : Nat) (x y : DWord) : DWord × FFlags := fAddV rm (fVal x) (fVal y)
/-- FSUB. -/
def fSub (rm : Nat) (x y : DWord) : DWord × FFlags := fAddV rm (fVal x) (fVal y).neg

/-- FMUL. -/
def fMul (rm : Nat) (x y : DWord) : DWord × FFlags :=
  match fVal x, fVal y with
  | .fin n1 m1 e1, .fin n2 m2 e2 =>
    if m1 * m2 = 0 then (fZero (n1 ^^ n2), FFlags.none) else fRound rm (n1 ^^ n2) (m1 * m2) (e1 + e2) false
  | .inf n1, .inf n2 => (fInf (n1 ^^ n2), FFlags.none)
  | .inf n1, .fin n2 m _ => if m = 0 then nanInvalid else (fInf (n1 ^^ n2), FFlags.none)
  | .fin n1 m _, .inf n2 => if m = 0 then nanInvalid else (fInf (n1 ^^ n2), FFlags.none)
  | a, b => nanOf [a, b]

/-- FDIV. -/
def fDiv (rm : Nat) (x y : DWord) : DWord × FFlags :=
  match fVal x, fVal y with
  | .fin n1 m1 e1, .fin n2 m2 e2 =>
    if m2 = 0 then (if m1 = 0 then nanInvalid else (fInf (n1 ^^ n2), { FFlags.none with div0 := true }))
    else if m1 = 0 then (fZero (n1 ^^ n2), FFlags.none)
    else fRound rm (n1 ^^ n2) (m1 * 2 ^ 80 / m2) (e1 - e2 - 80) (m1 * 2 ^ 80 % m2 != 0)
  | .inf _, .inf _ => nanInvalid
  | .inf n1, .fin n2 _ _ => (fInf (n1 ^^ n2), FFlags.none)
  | .fin n1 _ _, .inf n2 => (fZero (n1 ^^ n2), FFlags.none)
  | a, b => nanOf [a, b]

/-- The integer square root, found bit by bit from bit `k` down. -/
def isqrt (n : Nat) : Nat → Nat → Nat
  | 0, r => r
  | k + 1, r => isqrt n k (if (r + 2 ^ k) * (r + 2 ^ k) ≤ n then r + 2 ^ k else r)

/-- FSQRT. -/
def fSqrt (rm : Nat) (x : DWord) : DWord × FFlags :=
  match fVal x with
  | .nan q => nanOf [.nan q]
  | .inf n => if n then nanInvalid else (fInf false, FFlags.none)
  | .fin n m e =>
    if m = 0 then (fZero n, FFlags.none)
    else if n then nanInvalid
    else
      let odd := e % 2 = 1
      let a := (if odd then 2 * m else m) * 2 ^ 80
      let r := isqrt a 64 0
      fRound rm false r ((if odd then e - 1 else e) / 2 - 40) (r * r != a)

/-- FMADD: `z + x × y` with one rounding. Whether the invalid operation is signalled for infinity times zero with a quiet NaN
as `z` is left to the implementation by IEEE 754-2019 (log 24). -/
def fMadd (rm : Nat) (z x y : DWord) : DWord × FFlags :=
  let a := fVal x
  let b := fVal y
  let c := fVal z
  let zeroInf : Bool := match a, b with | .inf _, .fin _ m _ => m = 0 | .fin _ m _, .inf _ => m = 0 | _, _ => false
  if anyNan [a, b, c] then
    (fNan, { FFlags.none with inv := anySignalling [a, b, c] || (zeroInf && Config.fmaNanInvalid) })
  else if zeroInf then nanInvalid
  else match a, b with
    | .fin n1 m1 e1, .fin n2 m2 e2 => fAddV rm c (.fin (n1 ^^ n2) (m1 * m2) (e1 + e2))
    | .inf n1, .inf n2 => fAddV rm c (.inf (n1 ^^ n2))
    | .inf n1, .fin n2 _ _ => fAddV rm c (.inf (n1 ^^ n2))
    | .fin n1 _ _, .inf n2 => fAddV rm c (.inf (n1 ^^ n2))
    | _, _ => nanInvalid

/-- `x < y` on values that are not NaN; zeros are equal. -/
def fLess : FVal → FVal → Bool
  | .fin n1 m1 e1, .fin n2 m2 e2 =>
    let e := min e1 e2
    decide (signed n1 (m1 * 2 ^ (e1 - e).toNat) < signed n2 (m2 * 2 ^ (e2 - e).toNat))
  | .inf n1, .inf n2 => n1 && !n2
  | .inf n1, .fin _ _ _ => n1
  | .fin _ _ _, .inf n2 => !n2
  | _, _ => false

/-- FMIN and FMAX: minimumNumber and maximumNumber; −0 is below +0. -/
def fMinMax (isMax : Bool) (x y : DWord) : DWord × FFlags :=
  let a := fVal x
  let b := fVal y
  let fl : FFlags := { FFlags.none with inv := anySignalling [a, b] }
  match a, b with
  | .nan _, .nan _ => (fNan, fl)
  | .nan _, _ => (y, fl)
  | _, .nan _ => (x, fl)
  | _, _ =>
    let xLow := fLess a b || (!fLess b a && fSign x)
    (if xLow ^^ isMax then x else y, fl)

/-- FEQ. -/
def fEq (x y : DWord) : Bool × FFlags :=
  let a := fVal x
  let b := fVal y
  if anyNan [a, b] then (false, { FFlags.none with inv := anySignalling [a, b] }) else (!fLess a b && !fLess b a, FFlags.none)

/-- FLT. -/
def fLt (x y : DWord) : Bool × FFlags :=
  let a := fVal x
  let b := fVal y
  if anyNan [a, b] then (false, FFlags.invalid) else (fLess a b, FFlags.none)

/-- FLE. -/
def fLe (x y : DWord) : Bool × FFlags :=
  let a := fVal x
  let b := fVal y
  if anyNan [a, b] then (false, FFlags.invalid) else (!fLess b a, FFlags.none)

/-- FCLASS: the bit of the class. -/
def fClass (x : DWord) : Word :=
  let n := fSign x
  match fVal x with
  | .nan q => bitAt 24 (if q then 8 else 9)
  | .inf _ => bitAt 24 (if n then 0 else 7)
  | .fin _ m _ =>
    if m = 0 then bitAt 24 (if n then 3 else 4)
    else if fExp x = 0 then bitAt 24 (if n then 2 else 5)
    else bitAt 24 (if n then 1 else 6)

/-- A signed integer times 2^e as a float. -/
def fOfInt (rm : Nat) (i : Int) (e : Int) : DWord × FFlags := fPack rm i e false

/-- A float times 2^scale as a signed integer of `n` bits, rounded; NaN and values out of range saturate and set INV (log 24:
INX where the rounding is inexact). -/
def fToInt (rm n : Nat) (scale : Int) (x : DWord) : BitVec n × FFlags :=
  let hi := BitVec.ofInt n ((2 : Int) ^ (n - 1) - 1)
  let lo := BitVec.ofInt n (-((2 : Int) ^ (n - 1)))
  match fVal x with
  | .nan _ => (hi, FFlags.invalid)
  | .inf neg => (if neg then lo else hi, FFlags.invalid)
  | .fin neg m e =>
    let r := roundTo rm neg m (e + scale) 0 false
    let i := signed neg r.1
    if (2 : Int) ^ (n - 1) - 1 < i then (hi, FFlags.invalid)
    else if i < -((2 : Int) ^ (n - 1)) then (lo, FFlags.invalid)
    else (BitVec.ofInt n i, { FFlags.none with inx := r.2 })

end Sys2Proof.Machine
end

