-- ==== Sys2Proof/Machine/FloatRows.lean ====
section
/-! DEFINITION. Floating-point instructions (04 section 4.7, Table 4.8). -/
namespace Sys2Proof.Machine

/-- A floating-point instruction: its result, computed in the rounding mode of FCSR, and the flags that it sets (R125). -/
def floatBody (k : Core) (g : Nat → State → State × FFlags) (s : State) : State :=
  match k with
  | .voice c => let r := g (bits (s.core c).fcsr 0 3).toNat s; r.1.orFcsr c r.2.word
  | .conductor => s

/-- A pair with the flags of its computation. -/
def putD (k : Core) (rd : BitVec 5) (v : DWord × FFlags) (s : State) : State × FFlags := (s.setD k rd v.1, v.2)
/-- A word with the flags of its computation. -/
def putW (k : Core) (rd : BitVec 5) (v : Word × FFlags) (s : State) : State × FFlags := (s.setW k rd v.1, v.2)
/-- A truth value with the flags of its computation. -/
def putB (k : Core) (rd : BitVec 5) (v : Bool × FFlags) (s : State) : State × FFlags := (s.setW k rd (boolWord v.1), v.2)

/-- FADD. -/
def execFadd (k : Core) (f : Fetch) (rd rs1 rs2 : BitVec 5) (s : State) : Host.Outcome State Fault Refusal :=
  runReg k f (insnF 0x1C 0 rd rs1 rs2 (isPair rd && isPair rs1 && isPair rs2)) (floatBody k fun rm s => putD k rd (fAdd rm (s.rd k rs1) (s.rd k rs2)) s) s

/-- FSUB. -/
def execFsub (k : Core) (f : Fetch) (rd rs1 rs2 : BitVec 5) (s : State) : Host.Outcome State Fault Refusal :=
  runReg k f (insnF 0x1C 1 rd rs1 rs2 (isPair rd && isPair rs1 && isPair rs2)) (floatBody k fun rm s => putD k rd (fSub rm (s.rd k rs1) (s.rd k rs2)) s) s

/-- FMUL. -/
def execFmul (k : Core) (f : Fetch) (rd rs1 rs2 : BitVec 5) (s : State) : Host.Outcome State Fault Refusal :=
  runReg k f (insnF 0x1C 2 rd rs1 rs2 (isPair rd && isPair rs1 && isPair rs2)) (floatBody k fun rm s => putD k rd (fMul rm (s.rd k rs1) (s.rd k rs2)) s) s

/-- FDIV. -/
def execFdiv (k : Core) (f : Fetch) (rd rs1 rs2 : BitVec 5) (s : State) : Host.Outcome State Fault Refusal :=
  runReg k f (insnF 0x1C 3 rd rs1 rs2 (isPair rd && isPair rs1 && isPair rs2)) (floatBody k fun rm s => putD k rd (fDiv rm (s.rd k rs1) (s.rd k rs2)) s) s

/-- FMIN. -/
def execFmin (k : Core) (f : Fetch) (rd rs1 rs2 : BitVec 5) (s : State) : Host.Outcome State Fault Refusal :=
  runReg k f (insnF 0x1C 4 rd rs1 rs2 (isPair rd && isPair rs1 && isPair rs2)) (floatBody k fun _ s => putD k rd (fMinMax false (s.rd k rs1) (s.rd k rs2)) s) s

/-- FMAX. -/
def execFmax (k : Core) (f : Fetch) (rd rs1 rs2 : BitVec 5) (s : State) : Host.Outcome State Fault Refusal :=
  runReg k f (insnF 0x1C 5 rd rs1 rs2 (isPair rd && isPair rs1 && isPair rs2)) (floatBody k fun _ s => putD k rd (fMinMax true (s.rd k rs1) (s.rd k rs2)) s) s

/-- FSQRT. -/
def execFsqrt (k : Core) (f : Fetch) (rd rs1 rs2 : BitVec 5) (s : State) : Host.Outcome State Fault Refusal :=
  runReg k f (insnF 0x1C 6 rd rs1 rs2 (isPair rd && isPair rs1 && rs2 = 0)) (floatBody k fun rm s => putD k rd (fSqrt rm (s.rd k rs1)) s) s

/-- FMADD: rd + rs1 × rs2 with one rounding. -/
def execFmadd (k : Core) (f : Fetch) (rd rs1 rs2 : BitVec 5) (s : State) : Host.Outcome State Fault Refusal :=
  runReg k f (insnF 0x1C 7 rd rs1 rs2 (isPair rd && isPair rs1 && isPair rs2)) (floatBody k fun rm s => putD k rd (fMadd rm (s.rd k rd) (s.rd k rs1) (s.rd k rs2)) s) s

/-- FEQ. -/
def execFeq (k : Core) (f : Fetch) (rd rs1 rs2 : BitVec 5) (s : State) : Host.Outcome State Fault Refusal :=
  runReg k f (insnF 0x1D 0 rd rs1 rs2 (isPair rs1 && isPair rs2)) (floatBody k fun _ s => putB k rd (fEq (s.rd k rs1) (s.rd k rs2)) s) s

/-- FLT. -/
def execFlt (k : Core) (f : Fetch) (rd rs1 rs2 : BitVec 5) (s : State) : Host.Outcome State Fault Refusal :=
  runReg k f (insnF 0x1D 1 rd rs1 rs2 (isPair rs1 && isPair rs2)) (floatBody k fun _ s => putB k rd (fLt (s.rd k rs1) (s.rd k rs2)) s) s

/-- FLE. -/
def execFle (k : Core) (f : Fetch) (rd rs1 rs2 : BitVec 5) (s : State) : Host.Outcome State Fault Refusal :=
  runReg k f (insnF 0x1D 2 rd rs1 rs2 (isPair rs1 && isPair rs2)) (floatBody k fun _ s => putB k rd (fLe (s.rd k rs1) (s.rd k rs2)) s) s

/-- FCLASS. -/
def execFclass (k : Core) (f : Fetch) (rd rs1 rs2 : BitVec 5) (s : State) : Host.Outcome State Fault Refusal :=
  runReg k f (insnF 0x1D 3 rd rs1 rs2 (isPair rs1 && rs2 = 0)) (floatBody k fun _ s => putW k rd (fClass (s.rd k rs1), FFlags.none) s) s

/-- FCVT.F.W. -/
def execFcvtFW (k : Core) (f : Fetch) (rd rs1 rs2 : BitVec 5) (s : State) : Host.Outcome State Fault Refusal :=
  runReg k f (insnF 0x1D 4 rd rs1 rs2 (isPair rd && rs2 = 0)) (floatBody k fun rm s => putD k rd (fOfInt rm (s.rw k rs1).toInt 0) s) s

/-- FCVT.W.F. -/
def execFcvtWF (k : Core) (f : Fetch) (rd rs1 rs2 : BitVec 5) (s : State) : Host.Outcome State Fault Refusal :=
  runReg k f (insnF 0x1D 5 rd rs1 rs2 (isPair rs1 && rs2 = 0)) (floatBody k fun rm s => putW k rd (fToInt rm 24 0 (s.rd k rs1)) s) s

/-- FCVT.F.Q. -/
def execFcvtFQ (k : Core) (f : Fetch) (rd rs1 rs2 : BitVec 5) (s : State) : Host.Outcome State Fault Refusal :=
  runReg k f (insnF 0x1D 6 rd rs1 rs2 (isPair rd && rs2 = 0)) (floatBody k fun rm s => putD k rd (fOfInt rm (s.rw k rs1).toInt (-23)) s) s

/-- FCVT.Q.F. -/
def execFcvtQF (k : Core) (f : Fetch) (rd rs1 rs2 : BitVec 5) (s : State) : Host.Outcome State Fault Refusal :=
  runReg k f (insnF 0x1D 7 rd rs1 rs2 (isPair rs1 && rs2 = 0)) (floatBody k fun rm s => putW k rd (fToInt rm 24 23 (s.rd k rs1)) s) s

/-- FNEG: the sign changes, a NaN payload stays. -/
def execFneg (k : Core) (f : Fetch) (rd rs1 rs2 : BitVec 5) (s : State) : Host.Outcome State Fault Refusal :=
  runReg k f (insnF 0x1E 0 rd rs1 rs2 (isPair rd && isPair rs1 && rs2 = 0)) (floatBody k fun _ s => putD k rd (s.rd k rs1 ^^^ bitAt 48 47, FFlags.none) s) s

/-- FABS. -/
def execFabs (k : Core) (f : Fetch) (rd rs1 rs2 : BitVec 5) (s : State) : Host.Outcome State Fault Refusal :=
  runReg k f (insnF 0x1E 1 rd rs1 rs2 (isPair rd && isPair rs1 && rs2 = 0)) (floatBody k fun _ s => putD k rd (setBit (s.rd k rs1) 47 false, FFlags.none) s) s

/-- FSGNJ: rs1 with the sign of rs2. -/
def execFsgnj (k : Core) (f : Fetch) (rd rs1 rs2 : BitVec 5) (s : State) : Host.Outcome State Fault Refusal :=
  runReg k f (insnF 0x1E 2 rd rs1 rs2 (isPair rd && isPair rs1 && isPair rs2)) (floatBody k fun _ s => putD k rd (setBit (s.rd k rs1) 47 ((s.rd k rs2).getLsbD 47), FFlags.none) s) s

/-- FCVT.F.D. -/
def execFcvtFD (k : Core) (f : Fetch) (rd rs1 rs2 : BitVec 5) (s : State) : Host.Outcome State Fault Refusal :=
  runReg k f (insnF 0x1E 3 rd rs1 rs2 (isPair rd && isPair rs1 && rs2 = 0)) (floatBody k fun rm s => putD k rd (fOfInt rm (s.rd k rs1).toInt 0) s) s

/-- FCVT.D.F. -/
def execFcvtDF (k : Core) (f : Fetch) (rd rs1 rs2 : BitVec 5) (s : State) : Host.Outcome State Fault Refusal :=
  runReg k f (insnF 0x1E 4 rd rs1 rs2 (isPair rd && isPair rs1 && rs2 = 0)) (floatBody k fun rm s => putD k rd (fToInt rm 48 0 (s.rd k rs1)) s) s

end Sys2Proof.Machine
end

