-- ==== Sys2Proof/Machine/Frac.lean ====
section
/-! DEFINITION. Accumulator and fractional instructions (04 section 4.6). -/
namespace Sys2Proof.Machine

/-! Accumulators. -/

/-- The accumulator that a register field names: its two low bits. -/
def accOf (r : BitVec 5) : BitVec 2 := bits r 0 2
/-- The other bits of a field that names an accumulator are zero. -/
def accField (r : BitVec 5) : Bool := bits r 2 3 = 0
/-- The product of two Q0.23 words, shifted left by one. -/
def qProduct (a b : Word) : Int := a.toInt * b.toInt * 2
/-- ASFT: the amount, clamped to −55 … +55. -/
def asftAmount (b : Word) : Int := max (-55) (min 55 b.toInt)
/-- ASFT: the exact result, rounded down on a right shift. -/
def asftValue (a : BitVec 56) (n : Int) : Int := if 0 ≤ n then a.toInt * 2 ^ n.toNat else a.toInt / 2 ^ (-n).toNat

/-- An accumulator gets a value that saturates. -/
def accSat (k : Core) (rd : BitVec 5) (v : Fin 12 → State → Int) (s : State) : State :=
  match k with | .voice c => s.setSatAcc c (accOf rd) (satAcc (v c s)) | .conductor => s
/-- An accumulator gets a value that fits. -/
def accSet (k : Core) (rd : BitVec 5) (v : Fin 12 → State → BitVec 56) (s : State) : State :=
  match k with | .voice c => s.setAcc c (accOf rd) (v c s) | .conductor => s
/-- A result is taken from the accumulator that rs1 names. -/
def accGet (k : Core) (rs1 : BitVec 5) (put : BitVec 56 → State → State) (s : State) : State :=
  match k with | .voice c => put (s.acc c (accOf rs1)) s | .conductor => s

/-- AMUL: the product fits exactly. -/
def execAmul (k : Core) (f : Fetch) (rd rs1 rs2 : BitVec 5) (s : State) : Host.Outcome State Fault Refusal :=
  runReg k f (insnA 0x18 0 rd rs1 rs2 (accField rd)) (accSet k rd fun _ s => BitVec.ofInt 56 (qProduct (s.rw k rs1) (s.rw k rs2))) s

/-- AMAC (R121). -/
def execAmac (k : Core) (f : Fetch) (rd rs1 rs2 : BitVec 5) (s : State) : Host.Outcome State Fault Refusal :=
  runReg k f (insnA 0x18 1 rd rs1 rs2 (accField rd)) (accSat k rd fun c s => (s.acc c (accOf rd)).toInt + qProduct (s.rw k rs1) (s.rw k rs2)) s

/-- AMSU (R121). -/
def execAmsu (k : Core) (f : Fetch) (rd rs1 rs2 : BitVec 5) (s : State) : Host.Outcome State Fault Refusal :=
  runReg k f (insnA 0x18 2 rd rs1 rs2 (accField rd)) (accSat k rd fun c s => (s.acc c (accOf rd)).toInt - qProduct (s.rw k rs1) (s.rw k rs2)) s

/-- ALOAD. -/
def execAload (k : Core) (f : Fetch) (rd rs1 rs2 : BitVec 5) (s : State) : Host.Outcome State Fault Refusal :=
  runReg k f (insnA 0x18 3 rd rs1 rs2 (accField rd && rs2 = 0)) (accSet k rd fun _ s => (s.rw k rs1).signExtend 56 <<< 24) s

/-- ACLR. -/
def execAclr (k : Core) (f : Fetch) (rd rs1 rs2 : BitVec 5) (s : State) : Host.Outcome State Fault Refusal :=
  runReg k f (insnA 0x18 4 rd rs1 rs2 (accField rd && rs1 = 0 && rs2 = 0)) (accSet k rd fun _ _ => 0) s

/-- ASFT: a left shift saturates (R121). -/
def execAsft (k : Core) (f : Fetch) (rd rs1 rs2 : BitVec 5) (s : State) : Host.Outcome State Fault Refusal :=
  runReg k f (insnA 0x18 5 rd rs1 rs2 (accField rd && rs1 = 0)) (accSat k rd fun c s => asftValue (s.acc c (accOf rd)) (asftAmount (s.rw k rs2))) s

/-- ARND (R120). -/
def execArnd (k : Core) (f : Fetch) (rd rs1 rs2 : BitVec 5) (s : State) : Host.Outcome State Fault Refusal :=
  runReg k f (insnA 0x19 0 rd rs1 rs2 (accField rs1 && rs2 = 0)) (accGet k rs1 fun a s => s.setSat k rd (satWord ((a.toInt + 2 ^ 23) / 2 ^ 24))) s

/-- ATRN (R120). -/
def execAtrn (k : Core) (f : Fetch) (rd rs1 rs2 : BitVec 5) (s : State) : Host.Outcome State Fault Refusal :=
  runReg k f (insnA 0x19 1 rd rs1 rs2 (accField rs1 && rs2 = 0)) (accGet k rs1 fun a s => s.setSat k rd (satWord (a.toInt / 2 ^ 24))) s

/-- AGET.D. -/
def execAgetD (k : Core) (f : Fetch) (rd rs1 rs2 : BitVec 5) (s : State) : Host.Outcome State Fault Refusal :=
  runReg k f (insnA 0x19 2 rd rs1 rs2 (isPair rd && accField rs1 && rs2 = 0)) (accGet k rs1 fun a s => s.setD k rd (bits a 0 48)) s

/-- AGETG. -/
def execAgetg (k : Core) (f : Fetch) (rd rs1 rs2 : BitVec 5) (s : State) : Host.Outcome State Fault Refusal :=
  runReg k f (insnA 0x19 3 rd rs1 rs2 (accField rs1 && rs2 = 0)) (accGet k rs1 fun a s => s.setW k rd ((bits a 48 8).signExtend 24)) s

/-- APUT.D. -/
def execAputD (k : Core) (f : Fetch) (rd rs1 rs2 : BitVec 5) (s : State) : Host.Outcome State Fault Refusal :=
  runReg k f (insnA 0x19 4 rd rs1 rs2 (accField rd && isPair rs1 && rs2 = 0)) (accSet k rd fun _ s => (s.rd k rs1).signExtend 56) s

/-- APUTG. -/
def execAputg (k : Core) (f : Fetch) (rd rs1 rs2 : BitVec 5) (s : State) : Host.Outcome State Fault Refusal :=
  runReg k f (insnA 0x19 5 rd rs1 rs2 (accField rd && rs1 = 0)) (accSet k rd fun c s => bits (s.rw k rs2) 0 8 ++ bits (s.acc c (accOf rd)) 0 48) s

/-! Fractional words. -/

/-- A word from two words that saturates (R120). -/
def satOp (k : Core) (rd rs1 rs2 : BitVec 5) (op : Word → Word → Int) (s : State) : State :=
  s.setSat k rd (satWord (op (s.rw k rs1) (s.rw k rs2)))
/-- Leading bits of `w`, of the `n` low ones, that equal `b`. -/
def leading (w : Word) (b : Bool) : Nat → Nat
  | 0 => 0
  | n + 1 => if w.getLsbD n = b then leading w b n + 1 else 0

/-- QADD (R120). -/
def execQadd (k : Core) (f : Fetch) (rd rs1 rs2 : BitVec 5) (s : State) : Host.Outcome State Fault Refusal :=
  runReg k f (insnR 0x1A 0 rd rs1 rs2 true) (satOp k rd rs1 rs2 fun a b => a.toInt + b.toInt) s

/-- QSUB (R120). -/
def execQsub (k : Core) (f : Fetch) (rd rs1 rs2 : BitVec 5) (s : State) : Host.Outcome State Fault Refusal :=
  runReg k f (insnR 0x1A 1 rd rs1 rs2 true) (satOp k rd rs1 rs2 fun a b => a.toInt - b.toInt) s

/-- QMUL (R120). -/
def execQmul (k : Core) (f : Fetch) (rd rs1 rs2 : BitVec 5) (s : State) : Host.Outcome State Fault Refusal :=
  runReg k f (insnR 0x1A 2 rd rs1 rs2 true) (satOp k rd rs1 rs2 fun a b => (a.toInt * b.toInt + 2 ^ 22) / 2 ^ 23) s

/-- QNEG (R120). -/
def execQneg (k : Core) (f : Fetch) (rd rs1 rs2 : BitVec 5) (s : State) : Host.Outcome State Fault Refusal :=
  runReg k f (insnR 0x1A 3 rd rs1 rs2 (rs2 = 0)) (satOp k rd rs1 rs2 fun a _ => -a.toInt) s

/-- QABS (R120). -/
def execQabs (k : Core) (f : Fetch) (rd rs1 rs2 : BitVec 5) (s : State) : Host.Outcome State Fault Refusal :=
  runReg k f (insnR 0x1A 4 rd rs1 rs2 (rs2 = 0)) (satOp k rd rs1 rs2 fun a _ => (a.toInt.natAbs : Int)) s

/-- QSHL: rs1 shifted left by rs2[4:0] (R120). -/
def execQshl (k : Core) (f : Fetch) (rd rs1 rs2 : BitVec 5) (s : State) : Host.Outcome State Fault Refusal :=
  runReg k f (insnR 0x1A 5 rd rs1 rs2 true) (satOp k rd rs1 rs2 fun a b => a.toInt * 2 ^ amount b) s

/-- CLS. -/
def execCls (k : Core) (f : Fetch) (rd rs1 rs2 : BitVec 5) (s : State) : Host.Outcome State Fault Refusal :=
  runReg k f (insnR 0x1A 6 rd rs1 rs2 (rs2 = 0)) (fun s => s.setW k rd (BitVec.ofNat 24 (leading (s.rw k rs1) ((s.rw k rs1).getLsbD 23) 23))) s

/-- CLZ. -/
def execClz (k : Core) (f : Fetch) (rd rs1 rs2 : BitVec 5) (s : State) : Host.Outcome State Fault Refusal :=
  runReg k f (insnR 0x1A 7 rd rs1 rs2 (rs2 = 0)) (fun s => s.setW k rd (BitVec.ofNat 24 (leading (s.rw k rs1) false 24))) s

end Sys2Proof.Machine
end

