-- ==== Sys2Proof/Machine/LoadStore.lean ====
section
/-! DEFINITION. Loads, stores and atomics (04 section 4.8). -/
namespace Sys2Proof.Machine

/-! Loads and stores. -/

/-- The effective pointer: bytes are added as PADDI.B adds them, words to bits [47:2]; a byte access through a base of lane 11
is refused before that (R119). -/
def effPtr (z : Size) (base : DWord) (imm : DWord) : Exec DWord :=
  match z with
  | .byte => if ptrLane base = 3 then raise 0x11 base else pure (ptrBytes base imm.toInt)
  | _ => pure (ptrWords base imm)

/-- What a data access tells the trace unit (16 Table 16.1). -/
def dataEv (z : Size) (store atomic : Bool) (p : DWord) (v : DWord) : TraceEv :=
  .data z.code store atomic p (match z with | .byte => v &&& 0xFF | .word => v &&& 0xFFFFFF | .dbl => v)

/-- A load into a register: `put` writes the value into its destination (R127 to R129). -/
def loadBody (k : Core) (f : Fetch) (z : Size) (rs1 : BitVec 5) (imm : BitVec 8) (put : State → DWord → State) : Exec Done := do
  let s ← get
  let p ← effPtr z (s.rd k rs1) (immS f imm 48)
  let v ← loadAt k f z p
  modify fun s => put s v
  pure { Done.seq with evs := [dataEv z false false p v] }

/-- A store of a register value (R127, R128). -/
def storeBody (k : Core) (f : Fetch) (z : Size) (rs1 : BitVec 5) (imm : BitVec 8) (value : State → DWord) : Exec Done := do
  let s ← get
  let p ← effPtr z (s.rd k rs1) (immS f imm 48)
  storeAt k f z p (value s)
  pure { Done.seq with evs := [dataEv z true false p (value s)] }

/-- LB: the byte is zero-extended (R127). -/
def execLb (k : Core) (f : Fetch) (rd rs1 : BitVec 5) (imm : BitVec 8) (s : State) : Host.Outcome State Fault Refusal :=
  runInsn k f (insnI 0x10 rd rs1 imm (isPair rs1)) (loadBody k f .byte rs1 imm fun s v => s.setW k rd ((bits v 0 8).setWidth 24)) s

/-- LBS: the byte is sign-extended (R127). -/
def execLbs (k : Core) (f : Fetch) (rd rs1 : BitVec 5) (imm : BitVec 8) (s : State) : Host.Outcome State Fault Refusal :=
  runInsn k f (insnI 0x11 rd rs1 imm (isPair rs1)) (loadBody k f .byte rs1 imm fun s v => s.setW k rd ((bits v 0 8).signExtend 24)) s

/-- LW. -/
def execLw (k : Core) (f : Fetch) (rd rs1 : BitVec 5) (imm : BitVec 8) (s : State) : Host.Outcome State Fault Refusal :=
  runInsn k f (insnI 0x12 rd rs1 imm (isPair rs1)) (loadBody k f .word rs1 imm fun s v => s.setW k rd (lo24 v)) s

/-- LD (R128). -/
def execLd (k : Core) (f : Fetch) (rd rs1 : BitVec 5) (imm : BitVec 8) (s : State) : Host.Outcome State Fault Refusal :=
  runInsn k f (insnI 0x13 rd rs1 imm (isPair rd && isPair rs1)) (loadBody k f .dbl rs1 imm fun s v => s.setD k rd v) s

/-- SB: bits [7:0] of rs2 (R127). -/
def execSb (k : Core) (f : Fetch) (rs2 rs1 : BitVec 5) (imm : BitVec 8) (s : State) : Host.Outcome State Fault Refusal :=
  runInsn k f (insnI 0x14 rs2 rs1 imm (isPair rs1)) (storeBody k f .byte rs1 imm fun s => (s.rw k rs2).setWidth 48) s

/-- SW. -/
def execSw (k : Core) (f : Fetch) (rs2 rs1 : BitVec 5) (imm : BitVec 8) (s : State) : Host.Outcome State Fault Refusal :=
  runInsn k f (insnI 0x15 rs2 rs1 imm (isPair rs1)) (storeBody k f .word rs1 imm fun s => (s.rw k rs2).setWidth 48) s

/-- SD (R128). -/
def execSd (k : Core) (f : Fetch) (rs2 rs1 : BitVec 5) (imm : BitVec 8) (s : State) : Host.Outcome State Fault Refusal :=
  runInsn k f (insnI 0x16 rs2 rs1 imm (isPair rs2 && isPair rs1)) (storeBody k f .dbl rs1 imm fun s => s.rd k rs2) s

/-! Atomics (R130 to R137, R147). -/

/-- An atomic on a type on which it is not performed raises the atomic-type fault (R135); an address without a type is a bus
error (03 R76). -/
def atomType (p : DWord) (nc : Bool) (mt : Option MemType) : Exec Unit :=
  match mt with
  | none => raise 0x15 p
  | some .wb => pure ()
  | some .nc => if nc then pure () else raise 0x14 p
  | some .sx => raise 0x14 p

/-- LL on a Voice core: a load that sets the reservation (R130). -/
def llBody (k : Core) (f : Fetch) (z : Size) (rs1 : BitVec 5) (put : State → DWord → State) : Exec Done :=
  match k with
  | .conductor => throw .wait
  | .voice c => do
    let s ← get
    let p := s.rd k rs1
    let x ← voiceAddr c .load z p
    atomType p false x.2
    let ws ← voiceLoad c z p f.ups x
    let v := z.value p ws
    modify fun s => (put s v).modCore c fun u => { u with resv := some { line := lineOf x.1.toNat, addr := x.1, dbl := z = .dbl } }
    pure { Done.seq with evs := [dataEv z false true p v] }

/-- SC on a Voice core: it stores only if the reservation is held for its address and size, writes 0 or 1 into rd, and clears
the reservation (R131, R132). A failed SC is not recorded. The addresses compared are the physical ones, so that an SC through
another mapping of the word succeeds (DESIGN CHOICE, log 25: R131 does not say which address). -/
def scBody (k : Core) (f : Fetch) (z : Size) (rd rs1 : BitVec 5) (value : State → DWord) : Exec Done :=
  match k with
  | .conductor => throw .wait
  | .voice c => do
    let s ← get
    let p := s.rd k rs1
    let x ← voiceAddr c .store z p
    atomType p false x.2
    let s1 ← get
    let held := (s1.core c).resv.any fun r => r.addr = x.1 && r.dbl = decide (z = .dbl)
    if held then
      voiceStore c f.ups z p (value s) x
      modify fun s => (s.modCore c fun u => { u with resv := none }).setW k rd 0
      pure { Done.seq with evs := [dataEv z true true p (value s)] }
    else
      modify fun s => (s.modCore c fun u => { u with resv := none }).setW k rd 1
      pure Done.seq

/-- An atomic store behind the caches is performed whole with its load: where Echo would stall it, the instruction waits for the end
of the stall, which holds its initiator as a stalled write does (09 R370, R371; log 11). -/
def notStalled (w : Initiator) (a : Nat) (ws : List WrWord) : Exec Unit := do
  let s ← get
  let x : Stalled := { line := lineOf a, who := some w, wb := false, ws, own := false, drop := none }
  if s.wayOf x = .stall then do
    set { s with echo := s.echo.addStall { x with ws := ws.map fun (y : WrWord) => { y with lanes := 0 } } true }
    throw .wait
  else pure ()

/-- CAS.D: the double word in memory is compared with pair rd, replaced by pair rs2 if equal, and written into rd in both
cases. -/
def casBody (k : Core) (f : Fetch) (rd rs1 rs2 : BitVec 5) : Exec Done := do
  let s ← get
  let p := s.rd k rs1
  match k with
  | .voice c =>
    let x ← voiceAddr c .cas .dbl p
    atomType p true x.2
    let ws ← voiceLoad c .dbl p f.ups x
    let old := Size.dbl.value p ws
    if old = s.rd k rd then
      if x.2 = some .nc then notStalled (.voice c) x.1.toNat (Size.dbl.stores p x.1.toNat (s.rd k rs2))
      voiceStore c f.ups .dbl p (s.rd k rs2) x
    modify fun s => s.setD k rd old
    pure { Done.seq with evs := [dataEv .dbl (old = s.rd k rd) true p old] }
  | .conductor =>
    let a ← cdrAddr .dbl p
    let served := if inPrivate p then (privAt a).any fun x => x.1 = .sram else s.allInMem a 2
    if !served then raise 0x15 p
    else
      let ws ← cdrLoad .dbl p f.ups a
      let old := Size.dbl.value p ws
      if old = s.rd k rd then
        if !inPrivate p then notStalled .conductor a (Size.dbl.stores p a (s.rd k rs2))
        cdrStore .dbl p (s.rd k rs2) a
      modify fun s => s.setD k rd old
      pure Done.seq

/-- An instruction that the C profile does not execute (Table 4.11). -/
def Insn.voiceOnly (i : Insn) : Insn := { i with cdr := false }

/-- LL.W. -/
def execLlW (k : Core) (f : Fetch) (rd rs1 rs2 : BitVec 5) (s : State) : Host.Outcome State Fault Refusal :=
  runInsn k f (insnR 0x17 0 rd rs1 rs2 (isPair rs1 && rs2 = 0)).voiceOnly (llBody k f .word rs1 fun s v => s.setW k rd (lo24 v)) s

/-- LL.D. -/
def execLlD (k : Core) (f : Fetch) (rd rs1 rs2 : BitVec 5) (s : State) : Host.Outcome State Fault Refusal :=
  runInsn k f (insnR 0x17 1 rd rs1 rs2 (isPair rd && isPair rs1 && rs2 = 0)).voiceOnly (llBody k f .dbl rs1 fun s v => s.setD k rd v) s

/-- SC.W. -/
def execScW (k : Core) (f : Fetch) (rd rs1 rs2 : BitVec 5) (s : State) : Host.Outcome State Fault Refusal :=
  runInsn k f (insnR 0x17 2 rd rs1 rs2 (isPair rs1)).voiceOnly (scBody k f .word rd rs1 fun s => (s.rw k rs2).setWidth 48) s

/-- SC.D. -/
def execScD (k : Core) (f : Fetch) (rd rs1 rs2 : BitVec 5) (s : State) : Host.Outcome State Fault Refusal :=
  runInsn k f (insnR 0x17 3 rd rs1 rs2 (isPair rs1 && isPair rs2)).voiceOnly (scBody k f .dbl rd rs1 fun s => s.rd k rs2) s

/-- CAS.D. -/
def execCasD (k : Core) (f : Fetch) (rd rs1 rs2 : BitVec 5) (s : State) : Host.Outcome State Fault Refusal :=
  runInsn k f (insnR 0x17 4 rd rs1 rs2 (isPair rd && isPair rs1 && isPair rs2)) (casBody k f rd rs1 rs2) s

end Sys2Proof.Machine
end

