-- ==== Sys2Proof/Machine/System.lean ====
section
/-! DEFINITION. Barriers, system instructions, TLB maintenance and cache maintenance (04 section 4.10, 06 section 6.7, 07 section
7.8). -/
namespace Sys2Proof.Machine

/-! System (major 0x30). -/

/-- An instruction of group SYS: no operands (04 R110, Table 4.9, Table 4.11). -/
def insnSys (fn : BitVec 3) (rd rs1 rs2 : BitVec 5) (cdr : Bool) (level : Level) : Insn :=
  { insnR 0x30 fn rd rs1 rs2 (rd = 0 && rs1 = 0 && rs2 = 0) with cdr, level }

/-- FENCE: every earlier access of the core is complete, since a core whose write is stalled does not issue (06 R218; log 11). -/
def execFence (k : Core) (f : Fetch) (rd rs1 rs2 : BitVec 5) (s : State) : Host.Outcome State Fault Refusal :=
  runReg k f (insnSys 0 rd rs1 rs2 true .user) (fun s => s) s

/-- IFENCE: the line buffer is emptied (06 R219); on the Conductor it has no effect (04 Table 4.11). -/
def ifenceOp (k : Core) (s : State) : State :=
  match k with | .voice c => s.modCore c fun v => { v with lineBuf := [] } | .conductor => s

/-- IFENCE. -/
def execIfence (k : Core) (f : Fetch) (rd rs1 rs2 : BitVec 5) (s : State) : Host.Outcome State Fault Refusal :=
  runReg k f (insnSys 1 rd rs1 rs2 true .user) (ifenceOp k) s

/-- A core that an earlier TLBI of this core reached still has an access in progress that began before it: a write that Echo stalls
(07 R284; log 10). -/
def State.tlbiBusy (s : State) (c : Fin 12) : Bool :=
  allCores.any fun d => (s.core c).fenceOn.getLsbD d.val && s.stalledBy (.voice d)

/-- TFENCE: every earlier TLBI is performed already; once the accesses that began before one are complete, the translation CSRs take
effect (07 R284, R288). -/
def tfenceBody (k : Core) : Exec Done := do
  let s ← get
  match k with
  | .conductor => pure Done.seq
  | .voice c =>
    if s.tlbiBusy c then throw .wait
    else do
      set (s.modCore c fun v => { v.settle with fenceOn := 0 })
      pure Done.seq

/-- TFENCE. -/
def execTfence (k : Core) (f : Fetch) (rd rs1 rs2 : BitVec 5) (s : State) : Host.Outcome State Fault Refusal :=
  runInsn k f (insnSys 2 rd rs1 rs2 false .kernel) (tfenceBody k) s

/-- BARWAIT (02 R33 to R35; 16 Table 16.1 LEAVE reason 0). -/
def barwaitBody (k : Core) : Exec Done := do
  let s ← get
  match k with
  | .conductor => pure Done.seq
  | .voice c =>
    if !s.bar.run then pure Done.seq
    else
      let s := if s.enters c then s.modCbar c fun x => { x with done := true } else s
      set (if (s.cbar c).bwmode then s.beatChange c true else s.modCore c fun v => { v with barHold := true })
      pure { Done.seq with leave := true }

/-- BARWAIT. -/
def execBarwait (k : Core) (f : Fetch) (rd rs1 rs2 : BitVec 5) (s : State) : Host.Outcome State Fault Refusal :=
  runInsn k f (insnSys 3 rd rs1 rs2 false .user) (barwaitBody k) s

/-- The cause of an environment call (05 Table 5.1). -/
def ecallCause (s : State) (k : Core) : BitVec 9 :=
  match k with
  | .voice c => (match (s.core c).level with | .user => 0x05 | .kernel => 0x06 | .monitor => 0x07)
  | .conductor => 0x01

/-- ECALL. -/
def execEcall (k : Core) (f : Fetch) (rd rs1 rs2 : BitVec 5) (s : State) : Host.Outcome State Fault Refusal :=
  runInsn k f (insnSys 4 rd rs1 rs2 false .user) (do let s ← get; raise (ecallCause s k) 0) s

/-- WFI: issue stops until an interrupt is pending (04 Table 4.9); at kernel level TWFI traps it (R142). -/
def wfiBody (k : Core) (word : Word) : Exec Done := do
  let s ← get
  match k with
  | .conductor => do
    if (s.monIrq 12).isNone then set { s with cdr := { s.cdr with wfi := true } }
    pure Done.seq
  | .voice c =>
    let v := s.core c
    if v.level = .kernel && v.mstatus.getLsbD 6 then raise 0x02 (word.setWidth 48)
    else do
      if !s.wfiEnds c then set (s.modCore c fun v => { v with wfi := true })
      pure Done.seq

/-- WFI. -/
def execWfi (k : Core) (f : Fetch) (rd rs1 rs2 : BitVec 5) (s : State) : Host.Outcome State Fault Refusal :=
  runInsn k f (insnSys 5 rd rs1 rs2 true .kernel) (wfiBody k (insnSys 5 rd rs1 rs2 true .kernel).word) s

/-- ERET (05 R152, R159, R169, R170, R180). -/
def eretBody (k : Core) (word : Word) : Exec Done := do
  let s ← get
  match k with
  | .conductor => do
    set { s with cdr := s.cdr.eret }
    pure (Done.jump s.cdr.cepc [])
  | .voice c =>
    let v := s.core c
    if v.level = .kernel then do
      set (s.modCore c VoiceCore.eretK)
      pure (Done.jump v.kepc [.target 1 v.kepc])
    else if mppl v.mstatus = .monitor then do
      set (s.modCore c VoiceCore.eretM)
      pure (Done.jump v.mepc [])
    else if v.mptag = 0 then raise 0x01 (word.setWidth 48)
    else if v.mstatus.getLsbD 7 then do
      set (s.modCore c VoiceCore.eretExpiry)
      pure (Done.jump (v.mvbase + 0x200) [])
    else do
      set (s.modCore c VoiceCore.eretM)
      pure (Done.jump v.mepc [])

/-- ERET. -/
def execEret (k : Core) (f : Fetch) (rd rs1 rs2 : BitVec 5) (s : State) : Host.Outcome State Fault Refusal :=
  runInsn k f (insnSys 6 rd rs1 rs2 true .kernel) (eretBody k (insnSys 6 rd rs1 rs2 true .kernel).word) s

/-- BREAK. -/
def execBrk (k : Core) (f : Fetch) (rd rs1 rs2 : BitVec 5) (s : State) : Host.Outcome State Fault Refusal :=
  runInsn k f (insnSys 7 rd rs1 rs2 true .user) (raise 0x04 0) s

/-! TLBI (major 0x31; 07 R279 to R287). -/

/-- What a TLBI invalidates (07 Table 7.9). -/
inductive Tlbi where
  | va (ptag : BitVec 4) (page : Nat) (asid : BitVec 12)
  | asid (ptag : BitVec 4) (asid : BitVec 12)
  | ptag (ptag : BitVec 4)
  | all
deriving DecidableEq, Repr

/-- The TLBI invalidates a translation. With MPTAG = 0, TLBI.VA and TLBI.ASID invalidate nothing (R281). -/
def Tlbi.hits (t : Tlbi) (e : TlbEntry) : Bool :=
  match t with
  | .va p page a => p != 0 && e.ptag = p && (e.glob || e.asid = a) && e.page / (if e.block then 2048 else 1) = page / (if e.block then 2048 else 1)
  | .asid p a => p != 0 && e.ptag = p && !e.glob && e.asid = a
  | .ptag p => e.ptag = p
  | .all => true

/-- The TLBI invalidates a walk-cache entry. -/
def Tlbi.hitsWalk (t : Tlbi) (e : WalkEntry) : Bool :=
  match t with
  | .va p _ _ => p != 0 && e.ptag = p && e.stage = 1
  | .asid p _ => p != 0 && e.ptag = p && e.stage = 1
  | .ptag p => e.ptag = p
  | .all => true

/-- The TLBI is performed on a core, which also drops what it has fetched (R285). -/
def VoiceCore.tlbi (v : VoiceCore) (t : Tlbi) : VoiceCore :=
  { v with
    itlb := v.itlb.filter fun e => !t.hits e
    dtlb := v.dtlb.filter fun e => !t.hits e
    l2tlb := v.l2tlb.filter fun e => !t.hits e
    walk := v.walk.filter fun e => !t.hitsWalk e
    lineBuf := [] }

/-- The TLBI reaches the executing core, or every present one in its broadcast form (R282, R287). -/
def State.tlbi (s : State) (k : Core) (bcast : Bool) (t : BitVec 4 → Tlbi) : State :=
  match k with
  | .conductor => s
  | .voice c =>
    let t := t (s.core c).mptag
    let reached := if bcast then s.presentCores else [c]
    let busy := reached.foldl (fun m d => if s.stalledBy (.voice d) then setBit m d.val true else m) (s.core c).fenceOn
    (reached.foldl (fun s d => s.modCore d fun v => v.tlbi t) s).modCore c fun v => { v with fenceOn := busy }

/-- An instruction of group TLBI: rd holds 0 or 1 (04 section 4.10). -/
def insnTlbi (fn : BitVec 3) (rd rs1 rs2 : BitVec 5) (ok : Bool) (level : Level) : Insn :=
  { insnR 0x31 fn rd rs1 rs2 (bits rd 1 4 = 0 && ok) with cdr := false, level }

/-- TLBI.VA: the page number is bits [41:14] of rs1 (R280, R281). -/
def execTlbiVa (k : Core) (f : Fetch) (rd rs1 rs2 : BitVec 5) (s : State) : Host.Outcome State Fault Refusal :=
  runReg k f (insnTlbi 0 rd rs1 rs2 (isPair rs1) .kernel)
    (fun s => s.tlbi k (rd = 1) fun p => .va p (bits (s.rd k rs1) 14 28).toNat (bits (s.rw k rs2) 0 12)) s

/-- TLBI.ASID (R281). -/
def execTlbiAsid (k : Core) (f : Fetch) (rd rs1 rs2 : BitVec 5) (s : State) : Host.Outcome State Fault Refusal :=
  runReg k f (insnTlbi 1 rd rs1 rs2 (rs1 = 0) .kernel) (fun s => s.tlbi k (rd = 1) fun p => .asid p (bits (s.rw k rs2) 0 12)) s

/-- TLBI.PTAG: the tag is rs2[3:0]. -/
def execTlbiPtag (k : Core) (f : Fetch) (rd rs1 rs2 : BitVec 5) (s : State) : Host.Outcome State Fault Refusal :=
  runReg k f (insnTlbi 2 rd rs1 rs2 (rs1 = 0) .monitor) (fun s => s.tlbi k (rd = 1) fun _ => .ptag (bits (s.rw k rs2) 0 4)) s

/-- TLBI.ALL. -/
def execTlbiAll (k : Core) (f : Fetch) (rd rs1 rs2 : BitVec 5) (s : State) : Host.Outcome State Fault Refusal :=
  runReg k f (insnTlbi 3 rd rs1 rs2 (rs1 = 0 && rs2 = 0) .monitor) (fun s => s.tlbi k (rd = 1) fun _ => .all) s

/-! CMO (major 0x32; 06 R223 to R225). -/

/-- The words of a physical frame of 4096 words. -/
def frameOf (a : Nat) : Nat := a / 4096

/-- A cache operation on the line of an address: the checks and the translation of its kind; on an SX page, or where there is no
memory, it has no effect (R224; log 23). -/
def cmoBody (k : Core) (acc : Acc) (rs1 : BitVec 5) (op : Fin 12 → Nat → Exec Unit) : Exec Done := do
  let s ← get
  match k with
  | .conductor => pure Done.seq
  | .voice c =>
    let p := s.rd k rs1
    let r ← reqOf c acc p
    if !r.ptrOk then raise 0x11 p
    else
      let x ← r.translate
      let s ← get
      if x.2 = some .sx || x.2 = none || !s.inMem x.1.toNat then pure Done.seq
      else do
        op c x.1.toNat
        pure Done.seq

/-- DC.CLEAN: dirty words are written to memory; a stalled write-back holds the core (R225; 09 R370). -/
def cleanOp (ups : List Upset) (c : Fin 12) (a : Nat) : Exec Unit :=
  modify fun s => ((s.backErrors (lineOf a) ups).cleanLine (some (.voice c)) (lineOf a) none).1
/-- DC.CLINV: as DC.CLEAN, then the line is invalidated everywhere. -/
def clinvOp (ups : List Upset) (c : Fin 12) (a : Nat) : Exec Unit := do cleanFirst c ups a; modify fun s => s.dropLine (lineOf a)
/-- DC.INV: the dirty words of the addressed frame are discarded, those of the other frame written back. -/
def invOp (c : Fin 12) (a : Nat) : Exec Unit := do
  let s ← get
  let r := s.cleanWords (some (.voice c)) (lineOf a) none fun x => frameOf x ≠ frameOf a
  set r.1
  if r.2 then modify fun s => s.dropLine (lineOf a) else throw .wait
/-- IC.INV: the line is invalidated in every L1 instruction cache. -/
def icinvOp (_ : Fin 12) (a : Nat) : Exec Unit :=
  modify fun s => match s.caches.find (lineOf a) with | some l => s.putLine { l with l1i := 0 } | none => s

/-- An instruction of group CMO. -/
def insnCmo (fn : BitVec 3) (rd rs1 rs2 : BitVec 5) (level : Level) : Insn :=
  { insnR 0x32 fn rd rs1 rs2 (rd = 0 && isPair rs1 && rs2 = 0) with cdr := false, level }

/-- DC.CLEAN. -/
def execDcClean (k : Core) (f : Fetch) (rd rs1 rs2 : BitVec 5) (s : State) : Host.Outcome State Fault Refusal :=
  runInsn k f (insnCmo 0 rd rs1 rs2 .user) (cmoBody k .clean rs1 (cleanOp f.ups)) s

/-- DC.INV. -/
def execDcInv (k : Core) (f : Fetch) (rd rs1 rs2 : BitVec 5) (s : State) : Host.Outcome State Fault Refusal :=
  runInsn k f (insnCmo 1 rd rs1 rs2 .kernel) (cmoBody k .inv rs1 invOp) s

/-- DC.CLINV. -/
def execDcClinv (k : Core) (f : Fetch) (rd rs1 rs2 : BitVec 5) (s : State) : Host.Outcome State Fault Refusal :=
  runInsn k f (insnCmo 2 rd rs1 rs2 .user) (cmoBody k .clean rs1 (clinvOp f.ups)) s

/-- IC.INV. -/
def execIcInv (k : Core) (f : Fetch) (rd rs1 rs2 : BitVec 5) (s : State) : Host.Outcome State Fault Refusal :=
  runInsn k f (insnCmo 3 rd rs1 rs2 .user) (cmoBody k .clean rs1 icinvOp) s

/-! Events of the cores. -/

/-- INTERRUPT_ENTRY (05 R156, R166, R167; 08 R309): a core at an instruction boundary takes the interrupt that is signalled to it,
where no event that comes first in R156 pends. -/
def execInterruptEntry (k : Core) (s : State) : Host.Outcome State Fault Refusal :=
  .next (if !s.issuesAt k then s
    else match k with
      | .voice c => if (s.core c).bx.isSome || (s.core c).derrDue then s else ((s.awake (.voice c)).takeIrq c).getD s
      | .conductor => ((s.awake .conductor).cdrIrq).getD s)

/-- BEAT_EXPIRY_ENTRY (05 R167, R168). -/
def execBeatExpiryEntry (c : Fin 12) (s : State) : Host.Outcome State Fault Refusal :=
  .next (if !s.issues c then s
    else match (s.core c).bx with
      | some (p, b) => (s.awake (.voice c)).takeExpiry c p b
      | none => s)

/-- The core on which a deferred error of a kind is recorded: that of the access, or core 0 of its section for a write-back (05
R175). -/
def deferOn (c : Fin 12) (kind : BitVec 3) : Fin 12 := if kind = 2 || kind = 3 then siteOwner (.l1d c) else c

/-- DEFERRED_ERROR (05 R174 to R176): a posted store or a write-back completes with an error. -/
def execDeferredError (c : Fin 12) (a : PAddr) (kind : BitVec 3) (s : State) : Host.Outcome State Fault Refusal :=
  ifOn s fun s => if s.hasCore c then s.modCore (deferOn c kind) fun v => v.defer a kind else s

/-- DEFERRED_ERROR_ENTRY (05 R175). -/
def execDeferredErrorEntry (c : Fin 12) (s : State) : Host.Outcome State Fault Refusal :=
  .next (if s.issues c && (s.core c).bx.isNone && (s.core c).derrDue then (s.awake (.voice c)).takeDerr c else s)

/-- Nanoseconds until a cycle counter at `mhz` wraps. -/
def wrapDue (cycle : DWord) (rem mhz : Nat) : Nat := ((2 ^ 48 - cycle.toNat) * 1000 - rem + mhz - 1) / mhz

/-- CYCLE_WRAP (08 Table 8.2): time passes until the core's cycle count wraps, which raises private source 20. -/
def execCycleWrap (k : Core) (s : State) : Host.Outcome State Fault Refusal :=
  ifOn s fun s => match k with
    | .voice c =>
      let v := s.core c
      let mhz := s.mhz (sectionOf c)
      if s.hasCore c && v.released && !v.hush && 0 < mhz then s.elapse (s.tempo.countsFor (wrapDue v.cycle v.cycRem mhz)) else s
    | .conductor => if s.cdr.run = .running then s.elapse (s.tempo.countsFor (wrapDue s.cdr.cycle s.cdr.cycRem 400)) else s

end Sys2Proof.Machine
end

