-- ==== Sys2Proof/Machine/Dispatch.lean ====
section
/-! DEFINITION. The arm of every command: one direct call of its meaning. -/
namespace Sys2Proof.Machine

/-- The effect of a command on everything but the queue. -/
def exec (i : Instr) (s : State) : Host.Outcome State Fault Refusal :=
  match i with
  | .addW k f rd rs1 rs2 => Sys2Proof.Machine.execAddW k f rd rs1 rs2 s
  | .subW k f rd rs1 rs2 => Sys2Proof.Machine.execSubW k f rd rs1 rs2 s
  | .andW k f rd rs1 rs2 => Sys2Proof.Machine.execAndW k f rd rs1 rs2 s
  | .orW k f rd rs1 rs2 => Sys2Proof.Machine.execOrW k f rd rs1 rs2 s
  | .xorW k f rd rs1 rs2 => Sys2Proof.Machine.execXorW k f rd rs1 rs2 s
  | .slt k f rd rs1 rs2 => Sys2Proof.Machine.execSlt k f rd rs1 rs2 s
  | .sltu k f rd rs1 rs2 => Sys2Proof.Machine.execSltu k f rd rs1 rs2 s
  | .norW k f rd rs1 rs2 => Sys2Proof.Machine.execNorW k f rd rs1 rs2 s
  | .sll k f rd rs1 rs2 => Sys2Proof.Machine.execSll k f rd rs1 rs2 s
  | .srl k f rd rs1 rs2 => Sys2Proof.Machine.execSrl k f rd rs1 rs2 s
  | .sra k f rd rs1 rs2 => Sys2Proof.Machine.execSra k f rd rs1 rs2 s
  | .rol k f rd rs1 rs2 => Sys2Proof.Machine.execRol k f rd rs1 rs2 s
  | .minS k f rd rs1 rs2 => Sys2Proof.Machine.execMinS k f rd rs1 rs2 s
  | .maxS k f rd rs1 rs2 => Sys2Proof.Machine.execMaxS k f rd rs1 rs2 s
  | .minu k f rd rs1 rs2 => Sys2Proof.Machine.execMinu k f rd rs1 rs2 s
  | .maxu k f rd rs1 rs2 => Sys2Proof.Machine.execMaxu k f rd rs1 rs2 s
  | .mulW k f rd rs1 rs2 => Sys2Proof.Machine.execMulW k f rd rs1 rs2 s
  | .mulh k f rd rs1 rs2 => Sys2Proof.Machine.execMulh k f rd rs1 rs2 s
  | .mulhu k f rd rs1 rs2 => Sys2Proof.Machine.execMulhu k f rd rs1 rs2 s
  | .mulw k f rd rs1 rs2 => Sys2Proof.Machine.execMulw k f rd rs1 rs2 s
  | .divS k f rd rs1 rs2 => Sys2Proof.Machine.execDivS k f rd rs1 rs2 s
  | .divu k f rd rs1 rs2 => Sys2Proof.Machine.execDivu k f rd rs1 rs2 s
  | .remS k f rd rs1 rs2 => Sys2Proof.Machine.execRemS k f rd rs1 rs2 s
  | .remu k f rd rs1 rs2 => Sys2Proof.Machine.execRemu k f rd rs1 rs2 s
  | .addi k f rd rs1 imm => Sys2Proof.Machine.execAddi k f rd rs1 imm s
  | .andi k f rd rs1 imm => Sys2Proof.Machine.execAndi k f rd rs1 imm s
  | .ori k f rd rs1 imm => Sys2Proof.Machine.execOri k f rd rs1 imm s
  | .xori k f rd rs1 imm => Sys2Proof.Machine.execXori k f rd rs1 imm s
  | .slti k f rd rs1 imm => Sys2Proof.Machine.execSlti k f rd rs1 imm s
  | .sltiu k f rd rs1 imm => Sys2Proof.Machine.execSltiu k f rd rs1 imm s
  | .slli k f rd rs1 imm => Sys2Proof.Machine.execSlli k f rd rs1 imm s
  | .srli k f rd rs1 imm => Sys2Proof.Machine.execSrli k f rd rs1 imm s
  | .srai k f rd rs1 imm => Sys2Proof.Machine.execSrai k f rd rs1 imm s
  | .roli k f rd rs1 imm => Sys2Proof.Machine.execRoli k f rd rs1 imm s
  | .addD k f rd rs1 rs2 => Sys2Proof.Machine.execAddD k f rd rs1 rs2 s
  | .subD k f rd rs1 rs2 => Sys2Proof.Machine.execSubD k f rd rs1 rs2 s
  | .andD k f rd rs1 rs2 => Sys2Proof.Machine.execAndD k f rd rs1 rs2 s
  | .orD k f rd rs1 rs2 => Sys2Proof.Machine.execOrD k f rd rs1 rs2 s
  | .xorD k f rd rs1 rs2 => Sys2Proof.Machine.execXorD k f rd rs1 rs2 s
  | .sltD k f rd rs1 rs2 => Sys2Proof.Machine.execSltD k f rd rs1 rs2 s
  | .sltuD k f rd rs1 rs2 => Sys2Proof.Machine.execSltuD k f rd rs1 rs2 s
  | .sllD k f rd rs1 rs2 => Sys2Proof.Machine.execSllD k f rd rs1 rs2 s
  | .srlD k f rd rs1 rs2 => Sys2Proof.Machine.execSrlD k f rd rs1 rs2 s
  | .sraD k f rd rs1 rs2 => Sys2Proof.Machine.execSraD k f rd rs1 rs2 s
  | .sextD k f rd rs1 rs2 => Sys2Proof.Machine.execSextD k f rd rs1 rs2 s
  | .zextD k f rd rs1 rs2 => Sys2Proof.Machine.execZextD k f rd rs1 rs2 s
  | .packD k f rd rs1 rs2 => Sys2Proof.Machine.execPackD k f rd rs1 rs2 s
  | .addiD k f rd rs1 imm => Sys2Proof.Machine.execAddiD k f rd rs1 imm s
  | .paddB k f rd rs1 rs2 => Sys2Proof.Machine.execPaddB k f rd rs1 rs2 s
  | .paddiB k f rd rs1 imm => Sys2Proof.Machine.execPaddiB k f rd rs1 imm s
  | .psubB k f rd rs1 rs2 => Sys2Proof.Machine.execPsubB k f rd rs1 rs2 s
  | .pidx k f rd rs1 rs2 => Sys2Proof.Machine.execPidx k f rd rs1 rs2 s
  | .pfrom k f rd rs1 rs2 => Sys2Proof.Machine.execPfrom k f rd rs1 rs2 s
  | .lb k f rd rs1 imm => Sys2Proof.Machine.execLb k f rd rs1 imm s
  | .lbs k f rd rs1 imm => Sys2Proof.Machine.execLbs k f rd rs1 imm s
  | .lw k f rd rs1 imm => Sys2Proof.Machine.execLw k f rd rs1 imm s
  | .ld k f rd rs1 imm => Sys2Proof.Machine.execLd k f rd rs1 imm s
  | .sb k f rs2 rs1 imm => Sys2Proof.Machine.execSb k f rs2 rs1 imm s
  | .sw k f rs2 rs1 imm => Sys2Proof.Machine.execSw k f rs2 rs1 imm s
  | .sd k f rs2 rs1 imm => Sys2Proof.Machine.execSd k f rs2 rs1 imm s
  | .llW k f rd rs1 rs2 => Sys2Proof.Machine.execLlW k f rd rs1 rs2 s
  | .llD k f rd rs1 rs2 => Sys2Proof.Machine.execLlD k f rd rs1 rs2 s
  | .scW k f rd rs1 rs2 => Sys2Proof.Machine.execScW k f rd rs1 rs2 s
  | .scD k f rd rs1 rs2 => Sys2Proof.Machine.execScD k f rd rs1 rs2 s
  | .casD k f rd rs1 rs2 => Sys2Proof.Machine.execCasD k f rd rs1 rs2 s
  | .amul k f rd rs1 rs2 => Sys2Proof.Machine.execAmul k f rd rs1 rs2 s
  | .amac k f rd rs1 rs2 => Sys2Proof.Machine.execAmac k f rd rs1 rs2 s
  | .amsu k f rd rs1 rs2 => Sys2Proof.Machine.execAmsu k f rd rs1 rs2 s
  | .aload k f rd rs1 rs2 => Sys2Proof.Machine.execAload k f rd rs1 rs2 s
  | .aclr k f rd rs1 rs2 => Sys2Proof.Machine.execAclr k f rd rs1 rs2 s
  | .asft k f rd rs1 rs2 => Sys2Proof.Machine.execAsft k f rd rs1 rs2 s
  | .arnd k f rd rs1 rs2 => Sys2Proof.Machine.execArnd k f rd rs1 rs2 s
  | .atrn k f rd rs1 rs2 => Sys2Proof.Machine.execAtrn k f rd rs1 rs2 s
  | .agetD k f rd rs1 rs2 => Sys2Proof.Machine.execAgetD k f rd rs1 rs2 s
  | .agetg k f rd rs1 rs2 => Sys2Proof.Machine.execAgetg k f rd rs1 rs2 s
  | .aputD k f rd rs1 rs2 => Sys2Proof.Machine.execAputD k f rd rs1 rs2 s
  | .aputg k f rd rs1 rs2 => Sys2Proof.Machine.execAputg k f rd rs1 rs2 s
  | .qadd k f rd rs1 rs2 => Sys2Proof.Machine.execQadd k f rd rs1 rs2 s
  | .qsub k f rd rs1 rs2 => Sys2Proof.Machine.execQsub k f rd rs1 rs2 s
  | .qmul k f rd rs1 rs2 => Sys2Proof.Machine.execQmul k f rd rs1 rs2 s
  | .qneg k f rd rs1 rs2 => Sys2Proof.Machine.execQneg k f rd rs1 rs2 s
  | .qabs k f rd rs1 rs2 => Sys2Proof.Machine.execQabs k f rd rs1 rs2 s
  | .qshl k f rd rs1 rs2 => Sys2Proof.Machine.execQshl k f rd rs1 rs2 s
  | .cls k f rd rs1 rs2 => Sys2Proof.Machine.execCls k f rd rs1 rs2 s
  | .clz k f rd rs1 rs2 => Sys2Proof.Machine.execClz k f rd rs1 rs2 s
  | .fadd k f rd rs1 rs2 => Sys2Proof.Machine.execFadd k f rd rs1 rs2 s
  | .fsub k f rd rs1 rs2 => Sys2Proof.Machine.execFsub k f rd rs1 rs2 s
  | .fmul k f rd rs1 rs2 => Sys2Proof.Machine.execFmul k f rd rs1 rs2 s
  | .fdiv k f rd rs1 rs2 => Sys2Proof.Machine.execFdiv k f rd rs1 rs2 s
  | .fmin k f rd rs1 rs2 => Sys2Proof.Machine.execFmin k f rd rs1 rs2 s
  | .fmax k f rd rs1 rs2 => Sys2Proof.Machine.execFmax k f rd rs1 rs2 s
  | .fsqrt k f rd rs1 rs2 => Sys2Proof.Machine.execFsqrt k f rd rs1 rs2 s
  | .fmadd k f rd rs1 rs2 => Sys2Proof.Machine.execFmadd k f rd rs1 rs2 s
  | .feq k f rd rs1 rs2 => Sys2Proof.Machine.execFeq k f rd rs1 rs2 s
  | .flt k f rd rs1 rs2 => Sys2Proof.Machine.execFlt k f rd rs1 rs2 s
  | .fle k f rd rs1 rs2 => Sys2Proof.Machine.execFle k f rd rs1 rs2 s
  | .fclass k f rd rs1 rs2 => Sys2Proof.Machine.execFclass k f rd rs1 rs2 s
  | .fcvtFW k f rd rs1 rs2 => Sys2Proof.Machine.execFcvtFW k f rd rs1 rs2 s
  | .fcvtWF k f rd rs1 rs2 => Sys2Proof.Machine.execFcvtWF k f rd rs1 rs2 s
  | .fcvtFQ k f rd rs1 rs2 => Sys2Proof.Machine.execFcvtFQ k f rd rs1 rs2 s
  | .fcvtQF k f rd rs1 rs2 => Sys2Proof.Machine.execFcvtQF k f rd rs1 rs2 s
  | .fneg k f rd rs1 rs2 => Sys2Proof.Machine.execFneg k f rd rs1 rs2 s
  | .fabs k f rd rs1 rs2 => Sys2Proof.Machine.execFabs k f rd rs1 rs2 s
  | .fsgnj k f rd rs1 rs2 => Sys2Proof.Machine.execFsgnj k f rd rs1 rs2 s
  | .fcvtFD k f rd rs1 rs2 => Sys2Proof.Machine.execFcvtFD k f rd rs1 rs2 s
  | .fcvtDF k f rd rs1 rs2 => Sys2Proof.Machine.execFcvtDF k f rd rs1 rs2 s
  | .beq k f rs1 rs2 off => Sys2Proof.Machine.execBeq k f rs1 rs2 off s
  | .bne k f rs1 rs2 off => Sys2Proof.Machine.execBne k f rs1 rs2 off s
  | .blt k f rs1 rs2 off => Sys2Proof.Machine.execBlt k f rs1 rs2 off s
  | .bge k f rs1 rs2 off => Sys2Proof.Machine.execBge k f rs1 rs2 off s
  | .bltu k f rs1 rs2 off => Sys2Proof.Machine.execBltu k f rs1 rs2 off s
  | .bgeu k f rs1 rs2 off => Sys2Proof.Machine.execBgeu k f rs1 rs2 off s
  | .jmp k f off => Sys2Proof.Machine.execJmp k f off s
  | .jal k f off => Sys2Proof.Machine.execJal k f off s
  | .jalr k f rd rs1 imm => Sys2Proof.Machine.execJalr k f rd rs1 imm s
  | .fence k f rd rs1 rs2 => Sys2Proof.Machine.execFence k f rd rs1 rs2 s
  | .ifence k f rd rs1 rs2 => Sys2Proof.Machine.execIfence k f rd rs1 rs2 s
  | .tfence k f rd rs1 rs2 => Sys2Proof.Machine.execTfence k f rd rs1 rs2 s
  | .barwait k f rd rs1 rs2 => Sys2Proof.Machine.execBarwait k f rd rs1 rs2 s
  | .ecall k f rd rs1 rs2 => Sys2Proof.Machine.execEcall k f rd rs1 rs2 s
  | .wfi k f rd rs1 rs2 => Sys2Proof.Machine.execWfi k f rd rs1 rs2 s
  | .eret k f rd rs1 rs2 => Sys2Proof.Machine.execEret k f rd rs1 rs2 s
  | .brk k f rd rs1 rs2 => Sys2Proof.Machine.execBrk k f rd rs1 rs2 s
  | .tlbiVa k f rd rs1 rs2 => Sys2Proof.Machine.execTlbiVa k f rd rs1 rs2 s
  | .tlbiAsid k f rd rs1 rs2 => Sys2Proof.Machine.execTlbiAsid k f rd rs1 rs2 s
  | .tlbiPtag k f rd rs1 rs2 => Sys2Proof.Machine.execTlbiPtag k f rd rs1 rs2 s
  | .tlbiAll k f rd rs1 rs2 => Sys2Proof.Machine.execTlbiAll k f rd rs1 rs2 s
  | .dcClean k f rd rs1 rs2 => Sys2Proof.Machine.execDcClean k f rd rs1 rs2 s
  | .dcInv k f rd rs1 rs2 => Sys2Proof.Machine.execDcInv k f rd rs1 rs2 s
  | .dcClinv k f rd rs1 rs2 => Sys2Proof.Machine.execDcClinv k f rd rs1 rs2 s
  | .icInv k f rd rs1 rs2 => Sys2Proof.Machine.execIcInv k f rd rs1 rs2 s
  | .csrrd k f r bit12 csr => Sys2Proof.Machine.execCsrrd k f r bit12 csr s
  | .csrwr k f r bit12 csr => Sys2Proof.Machine.execCsrwr k f r bit12 csr s
  | .interruptEntry k => Sys2Proof.Machine.execInterruptEntry k s
  | .beatExpiryEntry c => Sys2Proof.Machine.execBeatExpiryEntry c s
  | .deferredError c a kind => Sys2Proof.Machine.execDeferredError c a kind s
  | .deferredErrorEntry c => Sys2Proof.Machine.execDeferredErrorEntry c s
  | .writeBack site line ups => Sys2Proof.Machine.execWriteBack site line ups s
  | .barBoundary => Sys2Proof.Machine.execBarBoundary s
  | .beatBoundary => Sys2Proof.Machine.execBeatBoundary s
  | .firstBarStart => Sys2Proof.Machine.execFirstBarStart s
  | .runSet w => Sys2Proof.Machine.execRunSet w s
  | .runClear w => Sys2Proof.Machine.execRunClear w s
  | .garm w => Sys2Proof.Machine.execGarm w s
  | .arm w c v => Sys2Proof.Machine.execArm w c v s
  | .stagingWrite w c n v => Sys2Proof.Machine.execStagingWrite w c n v s
  | .ovrClr w v => Sys2Proof.Machine.execOvrClr w v s
  | .interruptEdge t src => Sys2Proof.Machine.execInterruptEdge t src s
  | .levelInputChange t src level => Sys2Proof.Machine.execLevelInputChange t src level s
  | .claimIrq w kernel => Sys2Proof.Machine.execClaimIrq w kernel s
  | .completeIrq w kernel v => Sys2Proof.Machine.execCompleteIrq w kernel v s
  | .pendIrq w t src => Sys2Proof.Machine.execPendIrq w t src s
  | .unpendIrq w t src => Sys2Proof.Machine.execUnpendIrq w t src s
  | .beatexpPend w c => Sys2Proof.Machine.execBeatexpPend w c s
  | .chSwdb w v => Sys2Proof.Machine.execChSwdb w v s
  | .srcCfgWrite w t src v => Sys2Proof.Machine.execSrcCfgWrite w t src v s
  | .coreTmrWrite w v => Sys2Proof.Machine.execCoreTmrWrite w v s
  | .coreTimerExpiry t => Sys2Proof.Machine.execCoreTimerExpiry t s
  | .mcInit w => Sys2Proof.Machine.execMcInit w s
  | .initialisationEnd o => Sys2Proof.Machine.execInitialisationEnd o s
  | .refresh r => Sys2Proof.Machine.execRefresh r s
  | .refqBreak r => Sys2Proof.Machine.execRefqBreak r s
  | .patrolScrub ups => Sys2Proof.Machine.execPatrolScrub ups s
  | .mcResvWrite w v => Sys2Proof.Machine.execMcResvWrite w v s
  | .trackEnSet w => Sys2Proof.Machine.execTrackEnSet w s
  | .trackEnClear w => Sys2Proof.Machine.execTrackEnClear w s
  | .echoHiwatWrite w v => Sys2Proof.Machine.execEchoHiwatWrite w v s
  | .stallEnd => Sys2Proof.Machine.execStallEnd s
  | .refrainStreamLine ups => Sys2Proof.Machine.execRefrainStreamLine ups s
  | .wayMapWrite w reg v => Sys2Proof.Machine.execWayMapWrite w reg v s
  | .wayOperationEnd => Sys2Proof.Machine.execWayOperationEnd s
  | .dbRing w v => Sys2Proof.Machine.execDbRing w v s
  | .dbDebug w v => Sys2Proof.Machine.execDbDebug w v s
  | .doorbellCheck ring => Sys2Proof.Machine.execDoorbellCheck ring s
  | .waitingCommandStart ring => Sys2Proof.Machine.execWaitingCommandStart ring s
  | .longCommandFinal ring tag e => Sys2Proof.Machine.execLongCommandFinal ring tag e s
  | .nop h => Sys2Proof.Machine.execNop h s
  | .getInfo h => Sys2Proof.Machine.execGetInfo h s
  | .releaseCores h mask p0 p1 resv => Sys2Proof.Machine.execReleaseCores h mask p0 p1 resv s
  | .releaseAuth h mask p0 p1 resv => Sys2Proof.Machine.execReleaseAuth h mask p0 p1 resv s
  | .haltCores h mask => Sys2Proof.Machine.execHaltCores h mask s
  | .sysResetWarm h => Sys2Proof.Machine.execSysResetWarm h s
  | .sysResetCold h => Sys2Proof.Machine.execSysResetCold h s
  | .commandedReset => Sys2Proof.Machine.execCommandedReset s
  | .ringDisable h ring => Sys2Proof.Machine.execRingDisable h ring s
  | .ringEnable h ring => Sys2Proof.Machine.execRingEnable h ring s
  | .ringRestart h ring => Sys2Proof.Machine.execRingRestart h ring s
  | .noticeRead h => Sys2Proof.Machine.execNoticeRead h s
  | .powerEnterFermata h wake s0 s1 => Sys2Proof.Machine.execPowerEnterFermata h wake s0 s1 s
  | .powerEnterCoda h wake s0 s1 => Sys2Proof.Machine.execPowerEnterCoda h wake s0 s1 s
  | .coreHushEnter h mask => Sys2Proof.Machine.execCoreHushEnter h mask s
  | .coreHushLeave h mask => Sys2Proof.Machine.execCoreHushLeave h mask s
  | .clockSet h mask mhz => Sys2Proof.Machine.execClockSet h mask mhz s
  | .clockSetTimeout => Sys2Proof.Machine.execClockSetTimeout s
  | .barConfig h p b off refq reh => Sys2Proof.Machine.execBarConfig h p b off refq reh s
  | .barRun h run => Sys2Proof.Machine.execBarRun h run s
  | .barLock h => Sys2Proof.Machine.execBarLock h s
  | .barRead h part => Sys2Proof.Machine.execBarRead h part s
  | .timeRead h => Sys2Proof.Machine.execTimeRead h s
  | .timeSet h s0 s1 ns => Sys2Proof.Machine.execTimeSet h s0 s1 ns s
  | .tempoRefs h mask => Sys2Proof.Machine.execTempoRefs h mask s
  | .tempoPolicy h step limit err => Sys2Proof.Machine.execTempoPolicy h step limit err s
  | .tempoStep h => Sys2Proof.Machine.execTempoStep h s
  | .ptpCorrect h off freq => Sys2Proof.Machine.execPtpCorrect h off freq s
  | .duetStatus h => Sys2Proof.Machine.execDuetStatus h s
  | .linkTrain h width speed => Sys2Proof.Machine.execLinkTrain h width speed s
  | .duetRoleHandover h => Sys2Proof.Machine.execDuetRoleHandover h s
  | .duetRoleTakeActive h => Sys2Proof.Machine.execDuetRoleTakeActive h s
  | .refrainCfg h kk base mw r resv0 resv1 rgns => Sys2Proof.Machine.execRefrainCfg h kk base mw r resv0 resv1 rgns s
  | .refrainEnable h => Sys2Proof.Machine.execRefrainEnable h s
  | .refrainDisable h => Sys2Proof.Machine.execRefrainDisable h s
  | .duetTiming h hold baton => Sys2Proof.Machine.execDuetTiming h hold baton s
  | .partnerCmd h inner => Sys2Proof.Machine.execPartnerCmd h inner s
  | .rehPlan h sets hours => Sys2Proof.Machine.execRehPlan h sets hours s
  | .rehRun h num => Sys2Proof.Machine.execRehRun h num s
  | .rehRunTimeout => Sys2Proof.Machine.execRehRunTimeout s
  | .rehStatus h num => Sys2Proof.Machine.execRehStatus h num s
  | .ledgerRead h src => Sys2Proof.Machine.execLedgerRead h src s
  | .ledgerCfg h src window thresh => Sys2Proof.Machine.execLedgerCfg h src window thresh s
  | .ledgerClear h src => Sys2Proof.Machine.execLedgerClear h src s
  | .repairApply h src => Sys2Proof.Machine.execRepairApply h src s
  | .repairUndo h src => Sys2Proof.Machine.execRepairUndo h src s
  | .traceAuth h p0 p1 len => Sys2Proof.Machine.execTraceAuth h p0 p1 len s
  | .traceRevoke h => Sys2Proof.Machine.execTraceRevoke h s
  | .traceOwn h cfg => Sys2Proof.Machine.execTraceOwn h cfg s
  | .slotInfo h slot => Sys2Proof.Machine.execSlotInfo h slot s
  | .slotErase h slot off p0 p1 => Sys2Proof.Machine.execSlotErase h slot off p0 p1 s
  | .slotWrite h slot off p0 p1 len => Sys2Proof.Machine.execSlotWrite h slot off p0 p1 len s
  | .slotVerify h slot => Sys2Proof.Machine.execSlotVerify h slot s
  | .slotCommit h => Sys2Proof.Machine.execSlotCommit h s
  | .rescore h => Sys2Proof.Machine.execRescore h s
  | .imageSeal h a0 a1 len => Sys2Proof.Machine.execImageSeal h a0 a1 len s
  | .fuseWrite h row data => Sys2Proof.Machine.execFuseWrite h row data s
  | .poolCreate h pool b0 b1 size count owner resv => Sys2Proof.Machine.execPoolCreate h pool b0 b1 size count owner resv s
  | .poolDestroy h pool => Sys2Proof.Machine.execPoolDestroy h pool s
  | .poolTake h pool n => Sys2Proof.Machine.execPoolTake h pool n s
  | .poolGive h pool n resv handles => Sys2Proof.Machine.execPoolGive h pool n resv handles s
  | .abortCmd h ring target => Sys2Proof.Machine.execAbortCmd h ring target s
  | .poolAlloc w pool => Sys2Proof.Machine.execPoolAlloc w pool s
  | .poolRelease w pool v => Sys2Proof.Machine.execPoolRelease w pool v s
  | .poolLowmarkWrite w pool v => Sys2Proof.Machine.execPoolLowmarkWrite w pool v s
  | .timeSecLoRead w => Sys2Proof.Machine.execTimeSecLoRead w s
  | .tcount0Read w => Sys2Proof.Machine.execTcount0Read w s
  | .stepReq w => Sys2Proof.Machine.execStepReq w s
  | .tppsInEdge dt => Sys2Proof.Machine.execTppsInEdge dt s
  | .refLost r => Sys2Proof.Machine.execRefLost r s
  | .holdExpired => Sys2Proof.Machine.execHoldExpired s
  | .secondsFieldIncrease => Sys2Proof.Machine.execSecondsFieldIncrease s
  | .tppsOutPulseEnd => Sys2Proof.Machine.execTppsOutPulseEnd s
  | .fzCmd w v => Sys2Proof.Machine.execFzCmd w v s
  | .fuseProgramEnd ok => Sys2Proof.Machine.execFuseProgramEnd ok s
  | .debugChallengeRequest => Sys2Proof.Machine.execDebugChallengeRequest s
  | .debugSessionClose => Sys2Proof.Machine.execDebugSessionClose s
  | .debugResponse ws => Sys2Proof.Machine.execDebugResponse ws s
  | .voiceImageLoad bad => Sys2Proof.Machine.execVoiceImageLoad bad s
  | .dlEnSet w => Sys2Proof.Machine.execDlEnSet w s
  | .dlEnClear w => Sys2Proof.Machine.execDlEnClear w s
  | .trainWrite w => Sys2Proof.Machine.execTrainWrite w s
  | .laneMaskWrite w v => Sys2Proof.Machine.execLaneMaskWrite w v s
  | .lmapCtlWrite w n v => Sys2Proof.Machine.execLmapCtlWrite w n v s
  | .transactionTake ups => Sys2Proof.Machine.execTransactionTake ups s
  | .flitTransmit chanB => Sys2Proof.Machine.execFlitTransmit chanB s
  | .ackDeadline => Sys2Proof.Machine.execAckDeadline s
  | .ackFlit fl => Sys2Proof.Machine.execAckFlit fl s
  | .nakFlit fl => Sys2Proof.Machine.execNakFlit fl s
  | .trainFlit fl => Sys2Proof.Machine.execTrainFlit fl s
  | .trainingComplete usable => Sys2Proof.Machine.execTrainingComplete usable s
  | .resumeFlit fl => Sys2Proof.Machine.execResumeFlit fl s
  | .fatalFlit fl => Sys2Proof.Machine.execFatalFlit fl s
  | .closeFlit fl => Sys2Proof.Machine.execCloseFlit fl s
  | .holdTimerExpiry => Sys2Proof.Machine.execHoldTimerExpiry s
  | .lossOfSignal lane => Sys2Proof.Machine.execLossOfSignal lane s
  | .uncorrectableCodewords lane n => Sys2Proof.Machine.execUncorrectableCodewords lane n s
  | .reqCmd fl => Sys2Proof.Machine.execReqCmd fl s
  | .contFlit fl => Sys2Proof.Machine.execContFlit fl s
  | .reqRd fl ups => Sys2Proof.Machine.execReqRd fl ups s
  | .rspFlit fl => Sys2Proof.Machine.execRspFlit fl s
  | .wrHead fl => Sys2Proof.Machine.execWrHead fl s
  | .rdHead fl => Sys2Proof.Machine.execRdHead fl s
  | .dataFlit fl => Sys2Proof.Machine.execDataFlit fl s
  | .sampleFlit fl dt => Sys2Proof.Machine.execSampleFlit fl dt s
  | .sampleTimer => Sys2Proof.Machine.execSampleTimer s
  | .ckHead fl => Sys2Proof.Machine.execCkHead fl s
  | .ckData fl => Sys2Proof.Machine.execCkData fl s
  | .ckEnd fl => Sys2Proof.Machine.execCkEnd fl s
  | .ckReply fl => Sys2Proof.Machine.execCkReply fl s
  | .applyEnd => Sys2Proof.Machine.execApplyEnd s
  | .handoverTimeout => Sys2Proof.Machine.execHandoverTimeout s
  | .batonInEdge => Sys2Proof.Machine.execBatonInEdge s
  | .sliceEnd fail slow => Sys2Proof.Machine.execSliceEnd fail slow s
  | .sliceOverrun => Sys2Proof.Machine.execSliceOverrun s
  | .coverLate => Sys2Proof.Machine.execCoverLate s
  | .ledgerDrain => Sys2Proof.Machine.execLedgerDrain s
  | .leakEvent src => Sys2Proof.Machine.execLeakEvent src s
  | .spareWayRepair => Sys2Proof.Machine.execSpareWayRepair s
  | .laneDegrade => Sys2Proof.Machine.execLaneDegrade s
  | .serviceHour => Sys2Proof.Machine.execServiceHour s
  | .evqPop w => Sys2Proof.Machine.execEvqPop w s
  | .ptEnSet w page sec v => Sys2Proof.Machine.execPtEnSet w page sec v s
  | .ptEnClear w page sec v => Sys2Proof.Machine.execPtEnClear w page sec v s
  | .ptFire w page sec => Sys2Proof.Machine.execPtFire w page sec s
  | .traceStop sec part => Sys2Proof.Machine.execTraceStop sec part s
  | .ptRdata w page sec => Sys2Proof.Machine.execPtRdata w page sec s
  | .trSegownWrite w sec n v => Sys2Proof.Machine.execTrSegownWrite w sec n v s
  | .strmLinesWrite w sec part v => Sys2Proof.Machine.execStrmLinesWrite w sec part v s
  | .traceDmaCopy sec part => Sys2Proof.Machine.execTraceDmaCopy sec part s
  | .ethRxFrame n bytes fcsOk dt => Sys2Proof.Machine.execEthRxFrame n bytes fcsOk dt s
  | .ethTxFrame n dt ups => Sys2Proof.Machine.execEthTxFrame n dt ups s
  | .mdioCmd w n v => Sys2Proof.Machine.execMdioCmd w n v s
  | .mdioDone n data => Sys2Proof.Machine.execMdioDone n data s
  | .canRxFrame n fr dt => Sys2Proof.Machine.execCanRxFrame n fr dt s
  | .canReq w n slot => Sys2Proof.Machine.execCanReq w n slot s
  | .canCancel w n slot => Sys2Proof.Machine.execCanCancel w n slot s
  | .canTxFrame n o dt ups => Sys2Proof.Machine.execCanTxFrame n o dt ups s
  | .busOffRecovery n => Sys2Proof.Machine.execBusOffRecovery n s
  | .canRec w n => Sys2Proof.Machine.execCanRec w n s
  | .rxhPush w n v => Sys2Proof.Machine.execRxhPush w n v s
  | .rxqIdLoRead w n => Sys2Proof.Machine.execRxqIdLoRead w n s
  | .rxqPop w n => Sys2Proof.Machine.execRxqPop w n s
  | .spiTx w n v => Sys2Proof.Machine.execSpiTx w n v s
  | .spiFrameDone n v => Sys2Proof.Machine.execSpiFrameDone n v s
  | .spiRx w n => Sys2Proof.Machine.execSpiRx w n s
  | .i2cStart n ack arb => Sys2Proof.Machine.execI2cStart n ack arb s
  | .i2cWrite n ack arb => Sys2Proof.Machine.execI2cWrite n ack arb s
  | .i2cReadAck n b => Sys2Proof.Machine.execI2cReadAck n b s
  | .i2cReadNack n b => Sys2Proof.Machine.execI2cReadNack n b s
  | .i2cStop n => Sys2Proof.Machine.execI2cStop n s
  | .i2cAddressed n read => Sys2Proof.Machine.execI2cAddressed n read s
  | .i2cRx w n => Sys2Proof.Machine.execI2cRx w n s
  | .uartTx w n v => Sys2Proof.Machine.execUartTx w n v s
  | .uartByteReceived n b perr ferr brk => Sys2Proof.Machine.execUartByteReceived n b perr ferr brk s
  | .uartRx w n => Sys2Proof.Machine.execUartRx w n s
  | .xspiRead o ups => Sys2Proof.Machine.execXspiRead o ups s
  | .xspiProgram o ups => Sys2Proof.Machine.execXspiProgram o ups s
  | .xspiErase4k o => Sys2Proof.Machine.execXspiErase4k o s
  | .xspiErase64k o => Sys2Proof.Machine.execXspiErase64k o s
  | .xspiReadSfdp o bytes => Sys2Proof.Machine.execXspiReadSfdp o bytes s
  | .gpioSet w n v => Sys2Proof.Machine.execGpioSet w n v s
  | .gpioClr w n v => Sys2Proof.Machine.execGpioClr w n v s
  | .gpioSafeWrite w n v => Sys2Proof.Machine.execGpioSafeWrite w n v s
  | .gpioInputChange pin level => Sys2Proof.Machine.execGpioInputChange pin level s
  | .pwmPeriodStart ch => Sys2Proof.Machine.execPwmPeriodStart ch s
  | .pwmActiveEnd ch => Sys2Proof.Machine.execPwmActiveEnd ch s
  | .pwmSync w v => Sys2Proof.Machine.execPwmSync w v s
  | .acmpInputCrossing n mv dt => Sys2Proof.Machine.execAcmpInputCrossing n mv dt s
  | .blankingEnd ch => Sys2Proof.Machine.execBlankingEnd ch s
  | .acmpDacWrite w n isSlope v => Sys2Proof.Machine.execAcmpDacWrite w n isSlope v s
  | .acmpSettleEnd n => Sys2Proof.Machine.execAcmpSettleEnd n s
  | .vddaAcmpLow => Sys2Proof.Machine.execVddaAcmpLow s
  | .bankLow bank => Sys2Proof.Machine.execBankLow bank s
  | .fermataEntry => Sys2Proof.Machine.execFermataEntry s
  | .fermataWake ev slept => Sys2Proof.Machine.execFermataWake ev slept s
  | .codaEntry => Sys2Proof.Machine.execCodaEntry s
  | .codaWake ev slept => Sys2Proof.Machine.execCodaWake ev slept s
  | .pwrFail => Sys2Proof.Machine.execPwrFail s
  | .porstN warmToo off => Sys2Proof.Machine.execPorstN warmToo off s
  | .warmrstN slept => Sys2Proof.Machine.execWarmrstN slept s
  | .vaonLoss => Sys2Proof.Machine.execVaonLoss s
  | .brownout rail => Sys2Proof.Machine.execBrownout rail s
  | .supplyWarning rail => Sys2Proof.Machine.execSupplyWarning rail s
  | .thermalWarning tj => Sys2Proof.Machine.execThermalWarning tj s
  | .thermalTrip tj => Sys2Proof.Machine.execThermalTrip tj s
  | .debugReset => Sys2Proof.Machine.execDebugReset s
  | .wdogKick w v => Sys2Proof.Machine.execWdogKick w v s
  | .cdrWdog => Sys2Proof.Machine.execCdrWdog s
  | .registerWrite w priv a v => Sys2Proof.Machine.execRegisterWrite w priv a v s
  | .porstNRelease railsOk low => Sys2Proof.Machine.execPorstNRelease railsOk low s
  | .mainRailsInRange => Sys2Proof.Machine.execMainRailsInRange s
  | .sentinelComplete gold errWorking errGolden => Sys2Proof.Machine.execSentinelComplete gold errWorking errGolden s
  | .debugCheckComplete => Sys2Proof.Machine.execDebugCheckComplete s
  | .cycleWrap k => Sys2Proof.Machine.execCycleWrap k s
  | .uartByteTransmitted n => Sys2Proof.Machine.execUartByteTransmitted n s
  | .i2cCmd w n v => Sys2Proof.Machine.execI2cCmd w n v s
  | .i2cTargetByte n read b => Sys2Proof.Machine.execI2cTargetByte n read b s
  | .bankRailRecovery bank => Sys2Proof.Machine.execBankRailRecovery bank s
  | .vddaAcmpRecovery => Sys2Proof.Machine.execVddaAcmpRecovery s
  | .supplyWarningEnd rail => Sys2Proof.Machine.execSupplyWarningEnd rail s
  | .tjBelowWarning tj => Sys2Proof.Machine.execTjBelowWarning tj s

end Sys2Proof.Machine
end

