-- ==== Sys2Proof/Machine/Outputs.lean ====
section
/-! DEFINITION. What the device drives on its output pins: the banks, the output fence, and the pin of each comparator (17 sections 17.1
and 17.7; 18 R739; 14 Table 14.1; 19 R760, R763; 20 Table 20.13). -/
namespace Sys2Proof.Machine

/-- The I/O banks (17 Table 17.1). -/
inductive Bank where
  | a | b | c | d | e | f
deriving DecidableEq, Repr

/-- The bit of a bank in BANK_LOW (17 Table 17.11). -/
def Bank.bit : Bank → Nat
  | .a => 0 | .b => 1 | .c => 2 | .d => 3 | .e => 4 | .f => 5

/-- The interfaces whose pins lie in a bank (17 Table 17.1; 18 section 18.1; 20 Table 20.13). -/
inductive Interface where
  | eth (n : Fin 2)
  | can (n : Fin 4)
  | uart (n : Fin 4)
  | spi (n : Fin 4)
  | i2c (n : Fin 4)
  | gpio (n : Fin 64)
  | pwm (k : Fin 16)
  | acmpOut (n : Fin 8)
  | xspi
  | tempo
  | baton
  | boot
deriving DecidableEq, Repr

/-- The bank of an interface (17 R695). -/
def Interface.bank : Interface → Bank
  | .eth n => if n = 0 then .a else .b
  | .can _ => .c
  | .uart _ => .c
  | .spi _ => .d
  | .i2c _ => .d
  | .gpio n => if n.val < 32 then .e else .f
  | .pwm _ => .e
  | .acmpOut _ => .e
  | .xspi => .f
  | .tempo => .f
  | .baton => .f
  | .boot => .f

/-- The output pins whose level the state decides. -/
inductive OutPin where
  | gpio (n : Fin 64)
  | pwm (k : Fin 16)
  | canTx (n : Fin 4)
  | acmpOut (n : Fin 8)
  | tppsOut
  | timeValid
  | batonOut
  | activeN
  | bootstat (i : Fin 3)
  | mainPwrEn
deriving DecidableEq, Repr

/-- The interface of a pin; MAINPWR_EN is an always-on pin (19 section 19.1). -/
def OutPin.unit : OutPin → Option Interface
  | .gpio n => some (.gpio n)
  | .pwm k => some (.pwm k)
  | .canTx n => some (.can n)
  | .acmpOut n => some (.acmpOut n)
  | .tppsOut => some .tempo
  | .timeValid => some .tempo
  | .batonOut => some .baton
  | .activeN => some .baton
  | .bootstat _ => some .boot
  | .mainPwrEn => none

/-- What a pin is driven to. -/
inductive Drive where
  | highZ
  | low
  | high
deriving DecidableEq, Repr

/-- A pin driven to a level. -/
def Drive.level (b : Bool) : Drive := if b then .high else .low

/-- The safe state that a code of two bits names (17 Table 17.11, R727). -/
def Drive.safe (x : BitVec 2) : Drive := if x = 1 then .low else if x = 2 then .high else .highZ

/-- The complement of a channel is at its active level (17 Table 17.12; 18 R748): while the channel is inactive, from the end of the dead
time after its active level to the beginning of the dead time before the next one. -/
def PwmCh.complementOn (p : PwmCh) (now : Nat) : Bool :=
  p.en && !p.isActive now &&
    (match p.compDue with | some t => t ≤ now | none => false) &&
    (match p.nextActive now with | some u => now + 5 * p.dead.toNat < u | none => true)

/-- The active level of channel `k` (17 Table 17.12, R724, R725), or of the complement of the even channel before it. -/
def State.pwmActive (s : State) (k : Fin 16) : Bool :=
  let even : Fin 16 := ⟨k.val - 1, by omega⟩
  if k.val % 2 = 1 && (s.pwmCh even).ctl.getLsbD 7 then (s.pwmCh even).complementOn s.tempo.count
  else (s.pwmCh k).isActive s.tempo.count

/-- What the unit of a pin drives, the output fence applied (17 R727, R728; 18 R739; 12 R521, R516; 14 Table 14.1; 11 Table 11.8). A CAN
controller that sends no frame drives recessive. -/
def State.unitDrives (s : State) : OutPin → Drive
  | .gpio n =>
    let g := s.io.gpio
    if s.refrain.fence && g.fen.getLsbD n.val then .safe (bits g.safe (2 * n.val) 2)
    else if g.oe.getLsbD n.val then .level (g.out.getLsbD n.val)
    else .highZ
  | .pwm k =>
    let p := s.pwmCh k
    if s.refrain.fence && p.fcfg.getLsbD 0 then .safe (bits p.fcfg 1 2) else .level (s.pwmActive k ^^ p.ctl.getLsbD 2)
  | .canTx _ => .high
  | .acmpOut n => if !s.hasAcmp n then .highZ else .level ((s.acmp n).ctl.getLsbD 11 && ((s.acmp n).flt ^^ (s.acmp n).ctl.getLsbD 10))
  | .tppsOut => .level s.tempo.ppsOut
  | .timeValid => .level s.tempo.valid
  | .batonOut => .level s.refrain.batonOut
  | .activeN => .level s.refrain.activeN
  | .bootstat i => .level (s.boot.bootstat.getLsbD i.val)
  | .mainPwrEn => .level s.pwr.mainPwrEn

/-- The bank of a pin lies below 1.50 V (17 R698). -/
def State.bankLow (s : State) (p : OutPin) : Bool :=
  match p.unit with
  | some i => s.io.gpio.low.getLsbD i.bank.bit
  | none => false

/-- The main rails are off: in Coda, and until they are in range again (19 R787; 12 R534). -/
def Power.unpowered (p : Power) : Bool := p.state = .coda || p.state = .codaWait

/-- What a pin is driven to. While PORST_N is low every output except MAINPWR_EN is high-impedance (19 R763), as are the pins of an
unpowered domain and those of a bank below 1.50 V, under the fence too (17 R698, Table 17.13). -/
def State.output (s : State) (p : OutPin) : Drive :=
  if p = .mainPwrEn then s.unitDrives p
  else if s.pwr.state = .porst || s.pwr.unpowered || s.bankLow p then .highZ
  else s.unitDrives p

end Sys2Proof.Machine
end

