-- ==== Sys2Proof/Safety.lean ====
section
/-! DEFINITION. What a safe run is: a step of it answers a next state; and the legal states, which every step keeps. -/
namespace Sys2Proof.Machine

/-- The step of this state answers a next state: neither a fault nor a refusal. -/
def StepSafe (s : State) : Prop := ∃ t, step s = .next t

/-- The command completes in this state, in a next state that has the property. -/
def Completes (i : Instr) (s : State) (P : State → Prop) : Prop := ∃ t, exec i s = .next t ∧ P t

/-- The registers of a Voice core hold legal values: W0 holds zero (04 R102), MSTATUS, KSTATUS, FCSR and QSTAT read zero in
their reserved bits, and MSTATUS.MPPL names a level (04, 05 section 5.7, R161). -/
structure VoiceCore.Legal (v : VoiceCore) : Prop where
  w0      : v.w[0] = 0
  mstatus : v.mstatus &&& 0xFFFF00 = 0
  mppl    : bits v.mstatus 2 2 ≠ 2
  kstatus : v.kstatus &&& 0xFFFFE0 = 0
  fcsr    : v.fcsr &&& 0xFFE0F8 = 0
  qstat   : v.qstat &&& 0xFFFFFC = 0

/-- The registers of the Conductor hold legal values (04 R102, 05 section 5.7.1). -/
structure Conductor.Legal (d : Conductor) : Prop where
  w0      : d.w[0] = 0
  cstatus : d.cstatus &&& 0xFFFFEC = 0
  qstat   : d.qstat &&& 0xFFFFFC = 0

/-- A legal state: the memories are in their canonical form, and the registers of every core hold legal values. -/
structure State.Legal (s : State) : Prop where
  dram   : Memory.wf ramDefault s.dram = true
  stage  : Memory.wf ramDefault s.stage = true
  csram  : Memory.wf ramDefault s.csram = true
  flash  : Memory.wf flashDefault s.flash = true
  xflash : Memory.wf flashDefault s.xflash = true
  cores  : ∀ c : Fin 12, (s.cores[c]).Legal
  cdr    : s.cdr.Legal

/-! The terms in which claims about instructions of the cores are stated. -/

/-- The instruction of core `k` is ready to execute in state `r`: at the boundary before it the core issues, no asynchronous
event is taken instead, and its words are fetched and decoded without an exception (05 R156). -/
def Ready (s : State) (k : Core) (f : Fetch) (x : Insn) (r : State) : Prop := s.boundary k f x = .ready r

/-- State `t` is `e` once an instruction of core `k` has retired in it and execution goes on at `p`: the PC and the count of
instructions follow, the trace of the section, the slot's record that its partition was entered and the latches of Chorus may
change, and nothing else differs. -/
def Retired (e t : State) (k : Core) (p : DWord) : Prop :=
  match k with
  | .voice c =>
    t = { e with
      cores := e.cores.set c { e.core c with pc := p, instret := (e.core c).instret + 1 }
      bar := { e.bar with cores := t.bar.cores }, trace := t.trace, chorus := t.chorus }
  | .conductor => t = { e with cdr := { e.cdr with pc := p, instret := e.cdr.instret + 1, queue := t.cdr.queue }, chorus := t.chorus }

/-- The command is an instruction that, wherever it is ready and `ok` holds, has the effect `effect` and goes on at `target`. -/
def Jumps (i : Instr) (k : Core) (f : Fetch) (x : Insn) (ok : State → Prop) (effect : State → State) (target : State → DWord) : Prop :=
  ∀ s r, Ready s k f x r → ok r → ∃ t, exec i s = .next t ∧ Retired (effect r) t k (target r)

/-- The command is an instruction that, wherever it is ready, has the effect `effect` and goes on at the word that follows. -/
def Does (i : Instr) (k : Core) (f : Fetch) (x : Insn) (effect : State → State) : Prop :=
  Jumps i k f x (fun _ => True) effect fun r => nextPtr f (r.pc k)

/-- The command is an instruction that, wherever it is ready and `ok` holds, takes the exception `exc` instead of retiring. -/
def Traps (i : Instr) (k : Core) (f : Fetch) (x : Insn) (ok : State → Prop) (exc : State → Exc) : Prop :=
  ∀ s r, Ready s k f x r → ok r → exec i s = .next (r.excAt k (exc r))

/-- What software sees of a Voice core: its registers, without what the fetch of an instruction may change (the translation
caches, the line buffer, that WFI has ended, the mark of a TLBI in progress, and the reservation, which an eviction clears: 04 R133). -/
def VoiceCore.seen (v : VoiceCore) : VoiceCore :=
  { v with wfi := false, resv := none, itlb := [], dtlb := [], l2tlb := [], walk := [], lineBuf := [], fenceOn := 0 }

/-- What software sees of the Conductor, without its prefetch queue. -/
def Conductor.seen (d : Conductor) : Conductor := { d with wfi := false, queue := [] }

/-- State `s` shows software the same registers as state `o`, and the private SRAM and the flashes are the same. -/
structure Seen (o s : State) : Prop where
  cores  : ∀ c : Fin 12, (s.cores[c]).seen = (o.cores[c]).seen
  cdr    : s.cdr.seen = o.cdr.seen
  csram  : s.csram = o.csram
  flash  : s.flash = o.flash
  xflash : s.xflash = o.xflash

/-! The terms in which claims about command packets are stated (10 sections 10.1 to 10.4). -/

/-- A packet of `n` parameters is taken when it is sent into ring `h.ring` in this state: the device is on and its Conductor serves
commands, the ring runs, is empty and within its limits (10 R397), the flags hold no reserved bit and ORDERED has nothing to
wait for (R387), no outstanding command of the ring has the tag, the ring has room for `space` reply words (R409), no packet of it is
ended by an ABORT, and no ring that is served before it has work (R406). -/
structure Accepts (s : State) (h : Header) (n space : Nat) : Prop where
  on       : s.on = true
  serving  : s.serving = true
  ring     : h.ring.toNat < 18
  words    : n ≤ 254
  runs     : s.ringState h.ring = 1
  going    : ringBit s.rings.stopped h.ring = false
  empty    : s.reqProd h.ring = s.reqCons h.ring
  replies  : (s.rplProd h.ring - s.rplCons h.ring).toNat ≤ 1024
  flags    : bits h.flags 1 3 = 0
  ordered  : h.flags.getLsbD 0 = true → ∀ c ∈ s.rings.active, c.ring ≠ h.ring
  tag      : ∀ c ∈ s.rings.active, c.ring = h.ring → c.tag ≠ h.tag
  room     : space ≤ s.rplFree h.ring
  alone    : ∀ p ∈ s.rings.cancelled, p.1 ≠ h.ring
  first    : ∀ q ∈ s.before h.ring, s.hasWork q = false
  stage    : Memory.wf ramDefault s.stage = true

/-- The state once the Conductor has taken the packet that a command row sends. -/
def State.taken (s : State) (op : BitVec 8) (h : Header) (ps : List Word) : State :=
  ((s.postPacket h.ring (packetWords op h ps)).serveDoorbell h.ring).consume h.ring (2 + ps.length)

/-- The state once the Conductor has answered the packet of a command row with its final reply. -/
def State.answered (s t : State) (h : Header) (st : Status) (results : List Word) : State :=
  t.reply h.ring st true h.tag (s.reqProd h.ring) results

/-- The command is a packet that, wherever it is taken, its source may send it, fewer than 32 commands are outstanding (10 R410 step 7)
and `ok` holds, has the effect `effect` and is answered at once with the status and the results. -/
def Answers (i : Instr) (op : BitVec 8) (h : Header) (ps : List Word) (src : Sources) (space : Nat) (ok : State → Prop)
    (st : Status) (results : State → List Word) (effect : State → State) : Prop :=
  ∀ s, Accepts s h ps.length space → src.allows s h.ring = true → s.rings.active.length < 32 → ok s →
    exec i s = .next (s.answered (effect (s.taken op h ps)) h st (results (s.taken op h ps)))

/-- The command is a packet that, wherever it is taken, its source may send it, `ok` holds and fewer than 32 commands are
outstanding, has the effect `effect`, becomes outstanding and is answered with ACCEPTED (10 R390). -/
def Begins (i : Instr) (op : BitVec 8) (h : Header) (ps : List Word) (src : Sources) (results : Nat) (ok : State → Prop)
    (aux : State → Nat) (effect : State → State) : Prop :=
  ∀ s, Accepts s h ps.length (6 + results) → src.allows s h.ring = true → s.rings.active.length < 32 → ok s →
    let u := s.taken op h ps
    let c : Cmd := { ring := h.ring, seq := s.reqProd h.ring, tag := h.tag, op, params := ps, startAt := s.tempo.count
                     committed := false, resv := results, aux := aux u }
    exec i s = .next (((effect u).modRings fun x => { x with active := x.active ++ [c] }).reply h.ring .accepted false h.tag
      (s.reqProd h.ring) [])

/-- As `Answers`, for a long command that ends at once: ACCEPTED and the final reply follow each other (10 R390). -/
def AnswersLong (i : Instr) (op : BitVec 8) (h : Header) (ps : List Word) (src : Sources) (space : Nat) (ok : State → Prop)
    (st : Status) (results : State → List Word) (effect : State → State) : Prop :=
  ∀ s, Accepts s h ps.length space → src.allows s h.ring = true → s.rings.active.length < 32 → ok s →
    exec i s = .next (s.answered ((effect (s.taken op h ps)).reply h.ring .accepted false h.tag (s.reqProd h.ring) []) h st
      (results (s.taken op h ps)))

/-- As `Answers`, where `post` relates the state in which the packet has been taken to the one that is left before the reply. -/
def AnswersWith (i : Instr) (op : BitVec 8) (h : Header) (ps : List Word) (src : Sources) (space : Nat) (ok : State → Prop)
    (st : Status) (results : State → List Word) (post : State → State → Prop) : Prop :=
  ∀ s, Accepts s h ps.length space → src.allows s h.ring = true → s.rings.active.length < 32 → ok s →
    ∃ t, post (s.taken op h ps) t ∧ exec i s = .next (s.answered t h st (results (s.taken op h ps)))

/-- The command is a packet that, wherever it is taken and `ok` holds, is answered with the status and has no other effect. -/
def Refuses (i : Instr) (op : BitVec 8) (h : Header) (ps : List Word) (space : Nat) (ok : State → Prop) (st : Status) : Prop :=
  ∀ s, Accepts s h ps.length space → ok s → exec i s = .next (s.answered (s.taken op h ps) h st [])

/-! The terms in which claims about register accesses and events are stated. -/

/-- The command is a register access that, wherever the initiator can act and `ok` holds, leaves a state that `post` relates to
the one it finds. -/
def Accesses (i : Instr) (w : Initiator) (ok : State → Prop) (post : State → State → Prop) : Prop :=
  ∀ s, s.canAct w = true → ok (s.awake w) → ∃ t, exec i s = .next t ∧ post (s.awake w) t

/-- The command is an event that, wherever the device runs and `ok` holds, leaves a state that `post` relates to the one it finds. -/
def Occurs (i : Instr) (ok : State → Prop) (post : State → State → Prop) : Prop :=
  ∀ s, s.on = true → ok s → ∃ t, exec i s = .next t ∧ post s t

/-! The terms in which claims about floating point are stated (04 section 4.7, R123). -/

/-- The magnitude of an encoding without its sign (04 Table 4.7). The encoding of an infinity stands for 2^1024, the value that would
follow the largest finite one. -/
def floatMag (n : Nat) : ℚ :=
  (if n / 2 ^ 36 = 0 then (n : ℚ) else ((2 ^ 36 + n % 2 ^ 36 : Nat) : ℚ)) * 2 ^ (((max 1 (n / 2 ^ 36) : Nat) : Int) - 1059)

/-- The value of an encoding that is not a NaN. -/
def floatVal (x : DWord) : ℚ := if x.getLsbD 47 then -floatMag (bits x 0 47).toNat else floatMag (bits x 0 47).toNat

/-- A rounding mode that rounds `q` away from zero (04 section 4.1, FCSR.RM). -/
def Outward (rm : Nat) (q : ℝ) : Prop := (rm = 2 ∧ 0 < q) ∨ (rm = 3 ∧ q < 0)

/-- The encoding `n` is the magnitude of `q` in mode `rm`: of the two neighbours of `q` among the encodings, the one that the mode
takes, and beyond the range an infinity or the largest finite value (R123). -/
def RoundedMag (rm : Nat) (q : ℝ) (n : Nat) : Prop :=
  (2 ^ 1024 ≤ |q| → (rm ≤ 1 ∨ Outward rm q → n = 0x7FF000000000) ∧ (¬(rm ≤ 1 ∨ Outward rm q) → n = 0x7FEFFFFFFFFF)) ∧
  ∀ k < 0x7FF000000000, (floatMag k : ℝ) ≤ |q| → |q| < (floatMag (k + 1) : ℝ) →
    let middle : ℝ := (floatMag k : ℝ) + (floatMag (k + 1) : ℝ)
    let up : Prop := (rm = 0 ∧ (middle < 2 * |q| ∨ (middle = 2 * |q| ∧ k % 2 = 1))) ∨ (rm = 1 ∧ middle ≤ 2 * |q|) ∨
      (Outward rm q ∧ (floatMag k : ℝ) < |q|)
    (up → n = k + 1) ∧ (¬up → n = k)

/-- `q` lies below the normal range after rounding to the precision of the format (R123). -/
def Tiny (rm : Nat) (q : ℝ) : Prop :=
  |q| < 1 / 2 ^ 1022 ∧ (rm ≤ 1 → |q| < 1 / 2 ^ 1022 - 1 / 2 ^ 1060) ∧ (Outward rm q → |q| ≤ 1 / 2 ^ 1022 - 1 / 2 ^ 1059)

/-- `q`, rounded to the precision of the format, lies beyond the largest finite value (R123). -/
def Overflows (rm : Nat) (q : ℝ) : Prop :=
  2 ^ 1024 ≤ |q| ∨ (rm ≤ 1 ∧ 2 ^ 1024 - 2 ^ 986 ≤ |q|) ∨ (Outward rm q ∧ 2 ^ 1024 - 2 ^ 987 < |q|)

/-- A result and its flags are those of the exact value `q` in mode `rm`; an exact zero has the sign `zneg` (R123). -/
def FloatOf (rm : Nat) (q : ℝ) (zneg : Bool) (p : DWord × FFlags) : Prop :=
  RoundedMag rm q (bits p.1 0 47).toNat ∧
  (q < 0 → p.1.getLsbD 47 = true) ∧ (0 < q → p.1.getLsbD 47 = false) ∧ (q = 0 → p.1.getLsbD 47 = zneg) ∧
  p.2.inv = false ∧ p.2.div0 = false ∧ (p.2.ovf = true ↔ Overflows rm q) ∧
  (p.2.inx = true ↔ (floatVal p.1 : ℝ) ≠ q ∨ Overflows rm q) ∧ (p.2.unf = true ↔ Tiny rm q ∧ p.2.inx = true)

/-- The integer `i` is `q` rounded in mode `rm`. -/
def IntegerOf (rm : Nat) (q : ℚ) (i : Int) : Prop :=
  (rm ≤ 1 → 2 * |q - i| ≤ 1 ∧ (2 * |q - i| = 1 → (rm = 0 → i % 2 = 0) ∧ (rm = 1 → |q| < |(i : ℚ)|))) ∧
  (rm = 2 → i = ⌈q⌉) ∧ (rm = 3 → i = ⌊q⌋) ∧ (rm = 4 → i = if q < 0 then ⌈q⌉ else ⌊q⌋)

end Sys2Proof.Machine
end

