-- ==== Sys2Proof/Certificates/Slice0/Obligations.lean ====
section
/-! DEFINITION. The statements for the provers. -/
open Sys2Proof Sys2Proof.Machine

/-! The queue and the step. -/

/-- The command at the front of the queue is taken and performed on the state with the queue's rest. -/
def Obligations.QueueFrontIsPerformed : Prop :=
  ∀ (c : Instr) (cs : List Instr) (s : State), step { s with pending := c :: cs } = exec c { s with pending := cs }

/-- With an empty queue a step answers a next state in which one Tempo count has passed, where the device runs, and which is
unchanged where it does not. The model's choice (DESIGN CHOICE, log 3); that the count increments each nanosecond is 12 R498. -/
def Obligations.EmptyQueueLetsTimePass : Prop :=
  ∀ s : State, s.pending = [] →
    ∃ t, step s = .next t ∧ t.pending = [] ∧ (s.on = false → t = s) ∧
      (s.on = true → t.tempo.count = s.tempo.count + 1 ∧ t.dram = s.dram ∧ t.stage = s.stage ∧ t.csram = s.csram ∧
        t.flash = s.flash ∧ t.xflash = s.xflash)

/-- Every step keeps a legal state legal: the memories in their canonical form, W0 zero in every core, the reserved bits of
MSTATUS, KSTATUS, CSTATUS, FCSR and QSTAT zero, and MSTATUS.MPPL the code of a level. -/
def Obligations.StepKeepsLegalState : Prop := ∀ s t : State, s.Legal → step s = .next t → t.Legal

/-- The state after reset is legal, no command waits, and no core executes. -/
def Obligations.ResetStateIsLegal : Prop :=
  State.reset.Legal ∧ State.reset.pending = [] ∧ (∀ c : Fin 12, (State.reset.core c).released = false) ∧
    State.reset.dram = [] ∧ State.reset.stage = []

/-- Every command answers a next state in every state, but for PORST_N_RELEASE with rails that have been in range for less than 1 ms and
are not below a reset level (20 Table 20.18: "Operation is not specified"), which stops where PORST_N holds the device. -/
def Obligations.OnlyEarlyReleaseStops : Prop :=
  (∀ (c : Instr) (s : State), (∃ t, exec c s = .next t) ∨
    (c = .porstNRelease false none ∧ s.pwr.state = .porst ∧ exec c s = .fault .releasedTooEarly)) ∧
  (∀ s : State, s.pwr.state = .porst → exec (.porstNRelease false none) s = .fault .releasedTooEarly)

/-! Memory. -/

/-- A byte written to a memory in canonical form reads back, every other byte reads as before, and the form is kept; two such memories in
which every byte reads the same are equal; and a word written changes exactly the bytes of its lanes. -/
def Obligations.MemoryReadsWhatWasWritten : Prop :=
  (∀ (d : Byte) (m : Memory) (k : Nat) (b : Byte), Memory.wf d m = true →
    Memory.wf d (Memory.setByte d m k b) = true ∧
    ∀ j, Memory.byte d (Memory.setByte d m k b) j = if j = k then b else Memory.byte d m j) ∧
  (∀ (d : Byte) (m n : Memory), Memory.wf d m = true → Memory.wf d n = true →
    (∀ k, Memory.byte d m k = Memory.byte d n k) → m = n) ∧
  (∀ (d : Byte) (m : Memory) (a : Nat) (v : Word) (lanes : BitVec 3), Memory.wf d m = true →
    (∀ l < 3, Memory.byte d (Memory.setLanes d m a v lanes) (3 * a + l) =
      if lanes.getLsbD l then lane v l else Memory.byte d m (3 * a + l)) ∧
    (∀ j, j < 3 * a ∨ 3 * a + 3 ≤ j → Memory.byte d (Memory.setLanes d m a v lanes) j = Memory.byte d m j))

/-! Instructions of the cores. -/

/-- The boundary before an instruction lets a Voice core execute it: the core issues, nothing asynchronous is due, no translation is
in force, the words lie in memory and in the line buffer without an error, and decoding finds a legal instruction that the level, the
extended state and the rounding mode allow (05 R156); where it finds a word with an unassigned major or function code instead, or one
that an EXT cannot stand before, the illegal-instruction exception is taken with that word as detail (04 R110, R113). Likewise the
Conductor, which fetches from its private SRAM and keeps the words that it fetched ahead (06 R198). The fetch of an
instruction leaves what software sees of every core, the private SRAM and the flashes as they were, where the command brings no
upset. Where the spec leaves a point open, the model's choice: log 5, log 12. -/
def Obligations.InstructionBecomesReady : Prop :=
  ((∀ (c : Fin 12) (f : Fetch) (x : Insn) (s : State),
    s.issues c = true → (s.awake (.voice c)).takeAsync c = none → f.ups = [] →
    ((s.core c).level = .monitor ∨ ((s.core c).inForce.kxlat.getLsbD 0 = false ∧ (s.core c).inForce.mxlat.getLsbD 0 = false)) →
    (s.core c).xlatOpen = false →
    (∀ p ∈ (if f.ext.isSome then [(s.core c).pc, (s.core c).pc + 4] else [(s.core c).pc]),
      physical p = true ∧ ptrLane p = 0 ∧ (inStage (ptrAddr p).toNat = true ∨ s.inDram (ptrAddr p).toNat = true) ∧
        ∃ bad, (lineOf (ptrAddr p).toNat, bad) ∈ (s.core c).lineBuf ∧ bad.getLsbD ((ptrAddr p).toNat % 24) = false) →
    (unassignedWord (.voice c) f = none → x.legal = true → (f.ext.isSome = true → x.extOk = true) →
      (s.core c).level.atLeast x.level = true →
      (x.xs = true → (s.core c).kstatus.getLsbD 4 = true) → (x.fp = true → (bits (s.core c).fcsr 0 3).toNat < 5) →
      Ready s (.voice c) f x ((s.awake (.voice c)).enterSlot c)) ∧
    ∀ w : Word, f.word = some w → decodeInsnWord (.voice c) f w = none → (f.ext.isSome = true ∨ bits w 18 6 ≠ 0x3F) →
      s.boundary (.voice c) f x = .over (((s.awake (.voice c)).enterSlot c).excAt (.voice c) (Exc.of 0x01 (w.setWidth 48)))) ∧
  (∀ (f : Fetch) (x : Insn) (s : State),
    s.cdrIssues = true → (s.awake .conductor).cdrIrq = none → f.ups = [] →
    (∀ p ∈ (if f.ext.isSome then [s.cdr.pc, s.cdr.pc + 4] else [s.cdr.pc]),
      cdrPtrOk p = true ∧ ptrLane p = 0 ∧ inPrivate p = true ∧ (∃ o, privAt (ptrAddr p).toNat = some (.sram, o)) ∧
        ∀ e ∈ s.cdr.queue, e.1 = p.toNat → e.2 = true) →
    unassignedWord .conductor f = none → x.legal = true → x.cdr = true → (f.ext.isSome = true → x.extOk = true) →
    ∃ q, Ready s .conductor f x { s.awake .conductor with cdr := { (s.awake .conductor).cdr with queue := q } })) ∧
  (∀ (k : Core) (f : Fetch) (x : Insn) (s r : State), f.ups = [] → Ready s k f x r → Seen s r)

/-- W0 and D0 read as zero and discard writes; every other word or pair reads back what was written, both halves, and the other
registers of the core, the other cores and everything else stay. -/
def Obligations.RegisterWritesReadBack : Prop :=
  ∀ (s : State) (k : Core),
    (∀ v, s.setW k 0 v = s) ∧ (∀ v, s.setD k 0 v = s) ∧ s.rw k 0 = 0 ∧ s.rd k 0 = 0 ∧
    (∀ (r : BitVec 5) (v : Word), r ≠ 0 → (s.setW k r v).rw k r = v ∧ ∀ q, q ≠ r → (s.setW k r v).rw k q = s.rw k q) ∧
    (∀ (r : BitVec 5) (v : DWord), r ≠ 0 → isPair r = true →
      (s.setD k r v).rd k r = v ∧ ∀ q, q ≠ r → q ≠ r + 1 → (s.setD k r v).rw k q = s.rw k q) ∧
    (∀ (r : BitVec 5) (v : Word), ∃ ws, s.setW k r v = s.setRegs k ws) ∧
    (∀ (r : BitVec 5) (v : DWord), ∃ ws, s.setD k r v = s.setRegs k ws) ∧
    (∀ ws, match k with
      | .voice c => s.setRegs k ws = { s with cores := s.cores.set c { s.core c with w := ws } }
      | .conductor => s.setRegs k ws = { s with cdr := { s.cdr with w := ws } })

/-- The register word instructions: each writes rd with the value that Table 4.4 gives for rs1 and rs2, modulo 2^24, changes
nothing else, and goes on at the next word. -/
def Obligations.WordInstructions : Prop :=
  ∀ (k : Core) (f : Fetch) (rd rs1 rs2 : BitVec 5),
    let row := fun (i : Instr) (major : BitVec 6) (fn : BitVec 3) (op : Word → Word → Word) =>
      Does i k f (insnR major fn rd rs1 rs2 true) fun r => r.setW k rd (op (r.rw k rs1) (r.rw k rs2))
    row (.addW k f rd rs1 rs2) 0x01 0 (fun a b => BitVec.ofNat 24 (a.toNat + b.toNat)) ∧
    row (.subW k f rd rs1 rs2) 0x01 1 (fun a b => BitVec.ofInt 24 (a.toInt - b.toInt)) ∧
    row (.andW k f rd rs1 rs2) 0x01 2 (fun a b => a &&& b) ∧
    row (.orW k f rd rs1 rs2) 0x01 3 (fun a b => a ||| b) ∧
    row (.xorW k f rd rs1 rs2) 0x01 4 (fun a b => a ^^^ b) ∧
    row (.slt k f rd rs1 rs2) 0x01 5 (fun a b => if a.toInt < b.toInt then 1 else 0) ∧
    row (.sltu k f rd rs1 rs2) 0x01 6 (fun a b => if a.toNat < b.toNat then 1 else 0) ∧
    row (.norW k f rd rs1 rs2) 0x01 7 (fun a b => ~~~a &&& ~~~b) ∧
    row (.sll k f rd rs1 rs2) 0x02 0 (fun a b => if 24 ≤ (bits b 0 5).toNat then 0 else BitVec.ofNat 24 (a.toNat * 2 ^ (bits b 0 5).toNat)) ∧
    row (.srl k f rd rs1 rs2) 0x02 1 (fun a b => if 24 ≤ (bits b 0 5).toNat then 0 else BitVec.ofNat 24 (a.toNat / 2 ^ (bits b 0 5).toNat)) ∧
    row (.sra k f rd rs1 rs2) 0x02 2 (fun a b => BitVec.ofInt 24 (a.toInt / 2 ^ (bits b 0 5).toNat)) ∧
    row (.rol k f rd rs1 rs2) 0x02 3 (fun a b =>
      (a <<< ((bits b 0 5).toNat % 24)) ||| (a >>> (24 - (bits b 0 5).toNat % 24))) ∧
    row (.minS k f rd rs1 rs2) 0x02 4 (fun a b => BitVec.ofInt 24 (min a.toInt b.toInt)) ∧
    row (.maxS k f rd rs1 rs2) 0x02 5 (fun a b => BitVec.ofInt 24 (max a.toInt b.toInt)) ∧
    row (.minu k f rd rs1 rs2) 0x02 6 (fun a b => BitVec.ofNat 24 (min a.toNat b.toNat)) ∧
    row (.maxu k f rd rs1 rs2) 0x02 7 (fun a b => BitVec.ofNat 24 (max a.toNat b.toNat)) ∧
    row (.mulW k f rd rs1 rs2) 0x03 0 (fun a b => BitVec.ofNat 24 (a.toNat * b.toNat)) ∧
    row (.mulh k f rd rs1 rs2) 0x03 1 (fun a b => BitVec.ofInt 24 (a.toInt * b.toInt / 2 ^ 24)) ∧
    row (.mulhu k f rd rs1 rs2) 0x03 2 (fun a b => BitVec.ofNat 24 (a.toNat * b.toNat / 2 ^ 24)) ∧
    row (.divS k f rd rs1 rs2) 0x03 4 (fun a b => if b = 0 then 0xFFFFFF else BitVec.ofInt 24 (a.toInt.tdiv b.toInt)) ∧
    row (.divu k f rd rs1 rs2) 0x03 5 (fun a b => if b = 0 then 0xFFFFFF else BitVec.ofNat 24 (a.toNat / b.toNat)) ∧
    row (.remS k f rd rs1 rs2) 0x03 6 (fun a b => if b = 0 then a else BitVec.ofInt 24 (a.toInt.tmod b.toInt)) ∧
    row (.remu k f rd rs1 rs2) 0x03 7 (fun a b => if b = 0 then a else BitVec.ofNat 24 (a.toNat % b.toNat)) ∧
    Does (.mulw k f rd rs1 rs2) k f (insnR 0x03 3 rd rs1 rs2 (isPair rd))
      (fun r => r.setD k rd (BitVec.ofInt 48 ((r.rw k rs1).toInt * (r.rw k rs2).toInt)))

/-- The immediate word instructions (Table 4.4), with the extension of the immediate by EXT (R111, R114) and shift amounts of 0
to 23. -/
def Obligations.ImmediateInstructions : Prop :=
  ∀ (k : Core) (f : Fetch) (rd rs1 : BitVec 5) (imm : BitVec 8),
    let row := fun (i : Instr) (major : BitVec 6) (op : Word → Word) =>
      Does i k f (insnI major rd rs1 imm true) fun r => r.setW k rd (op (r.rw k rs1))
    let shift := fun (i : Instr) (sel : BitVec 2) (op : Word → Nat → Word) =>
      Does i k f (insnShift sel rd rs1 imm) fun r => r.setW k rd (op (r.rw k rs1) (bits imm 0 5).toNat)
    let signed : Word := match f.ext with | none => imm.signExtend 24 | some e => (bits e 0 16 ++ imm : BitVec 24)
    let plain : Word := match f.ext with | none => imm.setWidth 24 | some e => (bits e 0 16 ++ imm : BitVec 24)
    row (.addi k f rd rs1 imm) 0x04 (fun a => a + signed) ∧
    row (.andi k f rd rs1 imm) 0x05 (fun a => a &&& plain) ∧
    row (.ori k f rd rs1 imm) 0x06 (fun a => a ||| plain) ∧
    row (.xori k f rd rs1 imm) 0x07 (fun a => a ^^^ plain) ∧
    row (.slti k f rd rs1 imm) 0x08 (fun a => if a.toInt < signed.toInt then 1 else 0) ∧
    row (.sltiu k f rd rs1 imm) 0x09 (fun a => if a.toNat < signed.toNat then 1 else 0) ∧
    shift (.slli k f rd rs1 imm) 0 (fun a n => BitVec.ofNat 24 (a.toNat * 2 ^ n)) ∧
    shift (.srli k f rd rs1 imm) 1 (fun a n => BitVec.ofNat 24 (a.toNat / 2 ^ n)) ∧
    shift (.srai k f rd rs1 imm) 2 (fun a n => BitVec.ofInt 24 (a.toInt / 2 ^ n)) ∧
    shift (.roli k f rd rs1 imm) 3 (fun a n => (a <<< (n % 24)) ||| (a >>> (24 - n % 24)))

/-- The pair instructions (Table 4.4), modulo 2^48; amounts of 6 bits, and amounts of 48 and above shift everything out. -/
def Obligations.PairInstructions : Prop :=
  ∀ (k : Core) (f : Fetch) (rd rs1 rs2 : BitVec 5) (imm : BitVec 8),
    let row := fun (i : Instr) (major : BitVec 6) (fn : BitVec 3) (legal : Bool) (effect : State → State) =>
      Does i k f (insnR major fn rd rs1 rs2 legal) effect
    let all := isPair rd && isPair rs1 && isPair rs2
    row (.addD k f rd rs1 rs2) 0x0B 0 all (fun r => r.setD k rd (BitVec.ofNat 48 ((r.rd k rs1).toNat + (r.rd k rs2).toNat))) ∧
    row (.subD k f rd rs1 rs2) 0x0B 1 all (fun r => r.setD k rd (BitVec.ofInt 48 ((r.rd k rs1).toInt - (r.rd k rs2).toInt))) ∧
    row (.andD k f rd rs1 rs2) 0x0B 2 all (fun r => r.setD k rd (r.rd k rs1 &&& r.rd k rs2)) ∧
    row (.orD k f rd rs1 rs2) 0x0B 3 all (fun r => r.setD k rd (r.rd k rs1 ||| r.rd k rs2)) ∧
    row (.xorD k f rd rs1 rs2) 0x0B 4 all (fun r => r.setD k rd (r.rd k rs1 ^^^ r.rd k rs2)) ∧
    row (.sltD k f rd rs1 rs2) 0x0B 5 (isPair rs1 && isPair rs2)
      (fun r => r.setW k rd (if (r.rd k rs1).toInt < (r.rd k rs2).toInt then 1 else 0)) ∧
    row (.sltuD k f rd rs1 rs2) 0x0B 6 (isPair rs1 && isPair rs2)
      (fun r => r.setW k rd (if (r.rd k rs1).toNat < (r.rd k rs2).toNat then 1 else 0)) ∧
    row (.sllD k f rd rs1 rs2) 0x0C 0 (isPair rd && isPair rs1)
      (fun r => r.setD k rd (BitVec.ofNat 48 ((r.rd k rs1).toNat * 2 ^ (bits (r.rw k rs2) 0 6).toNat))) ∧
    row (.srlD k f rd rs1 rs2) 0x0C 1 (isPair rd && isPair rs1)
      (fun r => r.setD k rd (BitVec.ofNat 48 ((r.rd k rs1).toNat / 2 ^ (bits (r.rw k rs2) 0 6).toNat))) ∧
    row (.sraD k f rd rs1 rs2) 0x0C 2 (isPair rd && isPair rs1)
      (fun r => r.setD k rd (BitVec.ofInt 48 ((r.rd k rs1).toInt / 2 ^ (bits (r.rw k rs2) 0 6).toNat))) ∧
    row (.sextD k f rd rs1 rs2) 0x0C 3 (isPair rd && rs2 = 0) (fun r => r.setD k rd (BitVec.ofInt 48 (r.rw k rs1).toInt)) ∧
    row (.zextD k f rd rs1 rs2) 0x0C 4 (isPair rd && rs2 = 0) (fun r => r.setD k rd (BitVec.ofNat 48 (r.rw k rs1).toNat)) ∧
    row (.packD k f rd rs1 rs2) 0x0C 5 (isPair rd)
      (fun r => r.setD k rd (BitVec.ofNat 48 ((r.rw k rs2).toNat * 2 ^ 24 + (r.rw k rs1).toNat))) ∧
    Does (.addiD k f rd rs1 imm) k f (insnI 0x0D rd rs1 imm (isPair rd && isPair rs1))
      (fun r => r.setD k rd (r.rd k rs1 + match f.ext with | none => imm.signExtend 48 | some e => (e ++ imm : BitVec 26).signExtend 48))

/-- The pointer instructions (R118): byte index 3W + L with W signed, and the pointer of a byte index, the word part rounded down.
A source pointer of lane 11 raises the invalid-pointer exception with that pointer as detail (R119). -/
def Obligations.PointerInstructions : Prop :=
  ∀ (k : Core) (f : Fetch) (rd rs1 rs2 : BitVec 5) (imm : BitVec 8),
    let index := fun (p : DWord) => 3 * (bits p 2 46).toInt + ((bits p 0 2).toNat : Int)
    let pointer := fun (b : Int) => (BitVec.ofInt 46 (b / 3) ++ BitVec.ofInt 2 (b % 3) : BitVec 48)
    let row := fun (i : Instr) (x : Insn) (ok : State → Prop) (value : State → DWord) =>
      Jumps i k f x ok (fun r => r.setD k rd (value r)) fun r => nextPtr f (r.pc k)
    let good := fun (a : BitVec 5) (r : State) => bits (r.rd k a) 0 2 ≠ 3
    let offset : Int := match f.ext with | none => imm.toInt | some e => (e ++ imm : BitVec 26).toInt
    row (.paddB k f rd rs1 rs2) (insnR 0x0E 0 rd rs1 rs2 (isPair rd && isPair rs1)) (good rs1)
      (fun r => pointer (index (r.rd k rs1) + (r.rw k rs2).toInt)) ∧
    row (.paddiB k f rd rs1 imm) (insnI 0x0F rd rs1 imm (isPair rd && isPair rs1)) (good rs1)
      (fun r => pointer (index (r.rd k rs1) + offset)) ∧
    row (.psubB k f rd rs1 rs2) (insnR 0x0E 1 rd rs1 rs2 (isPair rd && isPair rs1 && isPair rs2)) (fun r => good rs1 r ∧ good rs2 r)
      (fun r => BitVec.ofInt 48 (index (r.rd k rs1) - index (r.rd k rs2))) ∧
    row (.pidx k f rd rs1 rs2) (insnR 0x0E 2 rd rs1 rs2 (isPair rd && isPair rs1 && rs2 = 0)) (good rs1)
      (fun r => BitVec.ofInt 48 (index (r.rd k rs1))) ∧
    row (.pfrom k f rd rs1 rs2) (insnR 0x0E 3 rd rs1 rs2 (isPair rd && isPair rs1 && rs2 = 0)) (fun _ => True)
      (fun r => pointer (r.rd k rs1).toInt) ∧
    Traps (.paddB k f rd rs1 rs2) k f (insnR 0x0E 0 rd rs1 rs2 (isPair rd && isPair rs1)) (fun r => bits (r.rd k rs1) 0 2 = 3)
      (fun r => Exc.of 0x11 (r.rd k rs1)) ∧
    Traps (.paddiB k f rd rs1 imm) k f (insnI 0x0F rd rs1 imm (isPair rd && isPair rs1)) (fun r => bits (r.rd k rs1) 0 2 = 3)
      (fun r => Exc.of 0x11 (r.rd k rs1)) ∧
    Traps (.pidx k f rd rs1 rs2) k f (insnR 0x0E 2 rd rs1 rs2 (isPair rd && isPair rs1 && rs2 = 0))
      (fun r => bits (r.rd k rs1) 0 2 = 3) (fun r => Exc.of 0x11 (r.rd k rs1)) ∧
    Traps (.psubB k f rd rs1 rs2) k f (insnR 0x0E 1 rd rs1 rs2 (isPair rd && isPair rs1 && isPair rs2))
      (fun r => bits (r.rd k rs1) 0 2 = 3) (fun r => Exc.of 0x11 (r.rd k rs1)) ∧
    Traps (.psubB k f rd rs1 rs2) k f (insnR 0x0E 1 rd rs1 rs2 (isPair rd && isPair rs1 && isPair rs2))
      (fun r => bits (r.rd k rs1) 0 2 ≠ 3 ∧ bits (r.rd k rs2) 0 2 = 3) (fun r => Exc.of 0x11 (r.rd k rs2))

/-- The accumulator instructions of a Voice core (Table 4.5, R121): products of Q0.23 words shifted left by one, sums that saturate
to 56 bits and then set ASAT, and words taken from an accumulator that saturate and then set QSAT (R120). -/
def Obligations.AccumulatorInstructions : Prop :=
  ∀ (c : Fin 12) (f : Fetch) (rd rs1 rs2 : BitVec 5),
    let k := Core.voice c
    let row := fun (i : Instr) (major : BitVec 6) (fn : BitVec 3) (legal : Bool) (effect : State → State) =>
      Does i k f { insnR major fn rd rs1 rs2 legal with cdr := false, xs := true } effect
    let product := fun (r : State) => (r.rw k rs1).toInt * (r.rw k rs2).toInt * 2
    let sum := fun (r : State) (x : Int) =>
      let v : BitVec 56 := if 2 ^ 55 - 1 < x then 0x7FFFFFFFFFFFFF else if x < -2 ^ 55 then 0x80000000000000 else BitVec.ofInt 56 x
      (r.setAcc c (bits rd 0 2) v).orQstat k (if 2 ^ 55 - 1 < x ∨ x < -2 ^ 55 then 2 else 0)
    let word := fun (r : State) (x : Int) =>
      let v : Word := if 0x7FFFFF < x then 0x7FFFFF else if x < -0x800000 then 0x800000 else BitVec.ofInt 24 x
      (r.setW k rd v).orQstat k (if 0x7FFFFF < x ∨ x < -0x800000 then 1 else 0)
    let toAcc := bits rd 2 3 = 0
    let ofAcc := bits rs1 2 3 = 0
    row (.amul k f rd rs1 rs2) 0x18 0 toAcc (fun r => r.setAcc c (bits rd 0 2) (BitVec.ofInt 56 (product r))) ∧
    row (.amac k f rd rs1 rs2) 0x18 1 toAcc (fun r => sum r ((r.acc c (bits rd 0 2)).toInt + product r)) ∧
    row (.amsu k f rd rs1 rs2) 0x18 2 toAcc (fun r => sum r ((r.acc c (bits rd 0 2)).toInt - product r)) ∧
    row (.aload k f rd rs1 rs2) 0x18 3 (toAcc ∧ rs2 = 0) (fun r => r.setAcc c (bits rd 0 2) (BitVec.ofInt 56 ((r.rw k rs1).toInt * 2 ^ 24))) ∧
    row (.aclr k f rd rs1 rs2) 0x18 4 (toAcc ∧ rs1 = 0 ∧ rs2 = 0) (fun r => r.setAcc c (bits rd 0 2) 0) ∧
    row (.asft k f rd rs1 rs2) 0x18 5 (toAcc ∧ rs1 = 0) (fun r =>
      let n := max (-55) (min 55 (r.rw k rs2).toInt)
      sum r (if 0 ≤ n then (r.acc c (bits rd 0 2)).toInt * 2 ^ n.toNat else (r.acc c (bits rd 0 2)).toInt / 2 ^ (-n).toNat)) ∧
    row (.arnd k f rd rs1 rs2) 0x19 0 (ofAcc ∧ rs2 = 0) (fun r => word r (((r.acc c (bits rs1 0 2)).toInt + 2 ^ 23) / 2 ^ 24)) ∧
    row (.atrn k f rd rs1 rs2) 0x19 1 (ofAcc ∧ rs2 = 0) (fun r => word r ((r.acc c (bits rs1 0 2)).toInt / 2 ^ 24)) ∧
    row (.agetD k f rd rs1 rs2) 0x19 2 (isPair rd ∧ ofAcc ∧ rs2 = 0) (fun r => r.setD k rd (bits (r.acc c (bits rs1 0 2)) 0 48)) ∧
    row (.agetg k f rd rs1 rs2) 0x19 3 (ofAcc ∧ rs2 = 0)
      (fun r => r.setW k rd (BitVec.ofInt 24 ((r.acc c (bits rs1 0 2)).toInt / 2 ^ 48))) ∧
    row (.aputD k f rd rs1 rs2) 0x19 4 (toAcc ∧ isPair rs1 ∧ rs2 = 0)
      (fun r => r.setAcc c (bits rd 0 2) (BitVec.ofInt 56 (r.rd k rs1).toInt)) ∧
    row (.aputg k f rd rs1 rs2) 0x19 5 (toAcc ∧ rs1 = 0)
      (fun r => r.setAcc c (bits rd 0 2) (bits (r.rw k rs2) 0 8 ++ bits (r.acc c (bits rd 0 2)) 0 48))

/-- The fractional word instructions (Table 4.5, R120): results that saturate set QSAT, the counts of leading bits do not. -/
def Obligations.FractionalInstructions : Prop :=
  ∀ (k : Core) (f : Fetch) (rd rs1 rs2 : BitVec 5),
    let row := fun (i : Instr) (fn : BitVec 3) (legal : Bool) (effect : State → State) =>
      Does i k f (insnR 0x1A fn rd rs1 rs2 legal) effect
    let word := fun (r : State) (x : Int) =>
      let v : Word := if 0x7FFFFF < x then 0x7FFFFF else if x < -0x800000 then 0x800000 else BitVec.ofInt 24 x
      (r.setW k rd v).orQstat k (if 0x7FFFFF < x ∨ x < -0x800000 then 1 else 0)
    row (.qadd k f rd rs1 rs2) 0 true (fun r => word r ((r.rw k rs1).toInt + (r.rw k rs2).toInt)) ∧
    row (.qsub k f rd rs1 rs2) 1 true (fun r => word r ((r.rw k rs1).toInt - (r.rw k rs2).toInt)) ∧
    row (.qmul k f rd rs1 rs2) 2 true (fun r => word r (((r.rw k rs1).toInt * (r.rw k rs2).toInt + 2 ^ 22) / 2 ^ 23)) ∧
    row (.qneg k f rd rs1 rs2) 3 (rs2 = 0) (fun r => word r (-(r.rw k rs1).toInt)) ∧
    row (.qabs k f rd rs1 rs2) 4 (rs2 = 0) (fun r => word r ((r.rw k rs1).toInt.natAbs : Nat)) ∧
    row (.qshl k f rd rs1 rs2) 5 true (fun r => word r ((r.rw k rs1).toInt * 2 ^ ((r.rw k rs2).toNat % 32))) ∧
    (∀ s r, Ready s k f (insnR 0x1A 6 rd rs1 rs2 (rs2 = 0)) r → ∃ t n, exec (.cls k f rd rs1 rs2) s = .next t ∧ n ≤ 23 ∧
      Retired (r.setW k rd (BitVec.ofNat 24 n)) t k (nextPtr f (r.pc k)) ∧
      (∀ i < n, (r.rw k rs1).getLsbD (22 - i) = (r.rw k rs1).getLsbD 23) ∧
      (n < 23 → (r.rw k rs1).getLsbD (22 - n) ≠ (r.rw k rs1).getLsbD 23)) ∧
    (∀ s r, Ready s k f (insnR 0x1A 7 rd rs1 rs2 (rs2 = 0)) r → ∃ t n, exec (.clz k f rd rs1 rs2) s = .next t ∧ n ≤ 24 ∧
      Retired (r.setW k rd (BitVec.ofNat 24 n)) t k (nextPtr f (r.pc k)) ∧
      (∀ i < n, (r.rw k rs1).getLsbD (23 - i) = false) ∧ (n < 24 → (r.rw k rs1).getLsbD (23 - n) = true))

/-- The floating-point instructions of a Voice core write the result that the operation of Table 4.8 gives in the rounding mode of
FCSR, set the flags that it raises, clear none, and never trap (R105, R107, R123 to R125). The operations: sums, products, quotients,
square roots and FMADD are the exact value rounded once in the mode, with the overflow, underflow and inexact conditions of that
rounding; the special values; NaNs, of which FMIN and FMAX return the other operand; the order of FEQ, FLT, FLE, FMIN and FMAX; the
ten classes; and the conversions. Where the spec leaves a point open, the model's choice: log 24. -/
def Obligations.FloatInstructions : Prop :=
  (∀ (c : Fin 12) (f : Fetch) (rd rs1 rs2 : BitVec 5),
    let k := Core.voice c
    let mode := fun (r : State) => (bits (r.core c).fcsr 0 3).toNat
    let insn := fun (major : BitVec 6) (fn : BitVec 3) (legal : Bool) =>
      ({ insnR major fn rd rs1 rs2 legal with cdr := false, xs := true, fp := true } : Insn)
    let d := fun (i : Instr) (major : BitVec 6) (fn : BitVec 3) (legal : Bool) (v : State → DWord × FFlags) =>
      Does i k f (insn major fn legal) fun r => (r.setD k rd (v r).1).orFcsr c (v r).2.word
    let w := fun (i : Instr) (fn : BitVec 3) (legal : Bool) (v : State → Word × FFlags) =>
      Does i k f (insn 0x1D fn legal) fun r => (r.setW k rd (v r).1).orFcsr c (v r).2.word
    let truth := fun (v : Bool × FFlags) => ((if v.1 then 1 else 0 : Word), v.2)
    let all := isPair rd && isPair rs1 && isPair rs2
    let two := isPair rd && isPair rs1 && decide (rs2 = 0)
    d (.fadd k f rd rs1 rs2) 0x1C 0 all (fun r => fAdd (mode r) (r.rd k rs1) (r.rd k rs2)) ∧
    d (.fsub k f rd rs1 rs2) 0x1C 1 all (fun r => fSub (mode r) (r.rd k rs1) (r.rd k rs2)) ∧
    d (.fmul k f rd rs1 rs2) 0x1C 2 all (fun r => fMul (mode r) (r.rd k rs1) (r.rd k rs2)) ∧
    d (.fdiv k f rd rs1 rs2) 0x1C 3 all (fun r => fDiv (mode r) (r.rd k rs1) (r.rd k rs2)) ∧
    d (.fmin k f rd rs1 rs2) 0x1C 4 all (fun r => fMinMax false (r.rd k rs1) (r.rd k rs2)) ∧
    d (.fmax k f rd rs1 rs2) 0x1C 5 all (fun r => fMinMax true (r.rd k rs1) (r.rd k rs2)) ∧
    d (.fsqrt k f rd rs1 rs2) 0x1C 6 two (fun r => fSqrt (mode r) (r.rd k rs1)) ∧
    d (.fmadd k f rd rs1 rs2) 0x1C 7 all (fun r => fMadd (mode r) (r.rd k rd) (r.rd k rs1) (r.rd k rs2)) ∧
    w (.feq k f rd rs1 rs2) 0 (isPair rs1 && isPair rs2) (fun r => truth (fEq (r.rd k rs1) (r.rd k rs2))) ∧
    w (.flt k f rd rs1 rs2) 1 (isPair rs1 && isPair rs2) (fun r => truth (fLt (r.rd k rs1) (r.rd k rs2))) ∧
    w (.fle k f rd rs1 rs2) 2 (isPair rs1 && isPair rs2) (fun r => truth (fLe (r.rd k rs1) (r.rd k rs2))) ∧
    w (.fclass k f rd rs1 rs2) 3 (isPair rs1 && decide (rs2 = 0)) (fun r => (fClass (r.rd k rs1), FFlags.none)) ∧
    d (.fcvtFW k f rd rs1 rs2) 0x1D 4 (isPair rd && decide (rs2 = 0)) (fun r => fOfInt (mode r) (r.rw k rs1).toInt 0) ∧
    w (.fcvtWF k f rd rs1 rs2) 5 (isPair rs1 && decide (rs2 = 0)) (fun r => fToInt (mode r) 24 0 (r.rd k rs1)) ∧
    d (.fcvtFQ k f rd rs1 rs2) 0x1D 6 (isPair rd && decide (rs2 = 0)) (fun r => fOfInt (mode r) (r.rw k rs1).toInt (-23)) ∧
    w (.fcvtQF k f rd rs1 rs2) 7 (isPair rs1 && decide (rs2 = 0)) (fun r => fToInt (mode r) 24 23 (r.rd k rs1)) ∧
    d (.fcvtFD k f rd rs1 rs2) 0x1E 3 two (fun r => fOfInt (mode r) (r.rd k rs1).toInt 0) ∧
    d (.fcvtDF k f rd rs1 rs2) 0x1E 4 two (fun r => fToInt (mode r) 48 0 (r.rd k rs1)) ∧
    d (.fneg k f rd rs1 rs2) 0x1E 0 two (fun r => (BitVec.ofBool (!(r.rd k rs1).getLsbD 47) ++ bits (r.rd k rs1) 0 47, FFlags.none)) ∧
    d (.fabs k f rd rs1 rs2) 0x1E 1 two (fun r => ((0 : BitVec 1) ++ bits (r.rd k rs1) 0 47, FFlags.none)) ∧
    d (.fsgnj k f rd rs1 rs2) 0x1E 2 all
      (fun r => (BitVec.ofBool ((r.rd k rs2).getLsbD 47) ++ bits (r.rd k rs1) 0 47, FFlags.none))) ∧
  (∀ (rm : Nat) (a b z : DWord), rm ≤ 4 →
    let nan := fun (x : DWord) => bits x 36 11 = 0x7FF ∧ bits x 0 36 ≠ 0
    let signals := fun (x : DWord) => nan x ∧ x.getLsbD 35 = false
    let inf := fun (x : DWord) => bits x 0 47 = 0x7FF000000000
    let fin := fun (x : DWord) => bits x 36 11 ≠ 0x7FF
    let zero := fun (x : DWord) => bits x 0 47 = 0
    let neg := fun (x : DWord) => x.getLsbD 47
    let with_ := fun (sign : Bool) (x : BitVec 47) => (BitVec.ofBool sign ++ x : DWord)
    let val := fun (x : DWord) => (floatVal x : ℝ)
    let exact := fun (x : DWord) => (x, FFlags.none)
    let invalid : DWord × FFlags := (0x7FF800000000, FFlags.invalid)
    let sign := neg a ^^ neg b
    (nan a ∨ nan b → ∀ op ∈ [fAdd, fSub, fMul, fDiv],
      op rm a b = (0x7FF800000000, { FFlags.none with inv := decide (signals a ∨ signals b) })) ∧
    (fSub rm a b = fAdd rm a (with_ (!neg b) (bits b 0 47))) ∧
    (fin a → fin b → FloatOf rm (val a + val b) (if neg a = neg b then neg a else decide (rm = 3)) (fAdd rm a b)) ∧
    (inf a → fin b → fAdd rm a b = exact a ∧ fAdd rm b a = exact a) ∧
    (inf a → inf b → fAdd rm a b = if neg a = neg b then exact a else invalid) ∧
    (fin a → fin b → FloatOf rm (val a * val b) sign (fMul rm a b)) ∧
    (inf a → ¬nan b → (zero b → fMul rm a b = invalid ∧ fMul rm b a = invalid) ∧
      (¬zero b → fMul rm a b = exact (with_ sign 0x7FF000000000) ∧ fMul rm b a = exact (with_ sign 0x7FF000000000))) ∧
    (fin a → fin b → ¬zero b → FloatOf rm (val a / val b) sign (fDiv rm a b)) ∧
    (fin a → ¬zero a → zero b → fDiv rm a b = (with_ sign 0x7FF000000000, { FFlags.none with div0 := true })) ∧
    (zero a ∧ zero b ∨ inf a ∧ inf b → fDiv rm a b = invalid) ∧
    (inf a → fin b → fDiv rm a b = exact (with_ sign 0x7FF000000000) ∧ fDiv rm b a = exact (with_ sign 0)) ∧
    (nan a → fSqrt rm a = (0x7FF800000000, { FFlags.none with inv := decide (signals a) })) ∧
    (fin a → neg a = false → FloatOf rm (Real.sqrt (val a)) false (fSqrt rm a)) ∧
    (zero a ∨ (inf a ∧ neg a = false) → fSqrt rm a = exact a) ∧
    (¬nan a → ¬zero a → neg a = true → fSqrt rm a = invalid) ∧
    (nan a ∨ nan b ∨ nan z → (fMadd rm z a b).1 = 0x7FF800000000 ∧ (signals a ∨ signals b ∨ signals z → (fMadd rm z a b).2 = FFlags.invalid) ∧
      (¬signals a → ¬signals b → ¬signals z → ¬(inf a ∧ zero b) → ¬(zero a ∧ inf b) → (fMadd rm z a b).2 = FFlags.none)) ∧
    (fin a → fin b → fin z → FloatOf rm (val z + val a * val b) (if neg z = sign then sign else decide (rm = 3)) (fMadd rm z a b)) ∧
    (fin a → fin b → inf z → fMadd rm z a b = exact z) ∧
    (inf a → ¬nan b → ¬nan z → (zero b → fMadd rm z a b = invalid ∧ fMadd rm z b a = invalid) ∧
      (¬zero b → inf z → neg z ≠ sign → fMadd rm z a b = invalid ∧ fMadd rm z b a = invalid) ∧
      (¬zero b → fin z ∨ neg z = sign →
        fMadd rm z a b = exact (with_ sign 0x7FF000000000) ∧ fMadd rm z b a = exact (with_ sign 0x7FF000000000))) ∧
    (nan a ∨ nan b → fEq a b = (false, { FFlags.none with inv := decide (signals a ∨ signals b) }) ∧
      fLt a b = (false, FFlags.invalid) ∧ fLe a b = (false, FFlags.invalid)) ∧
    (¬nan a → ¬nan b → fEq a b = (decide (floatVal a = floatVal b), FFlags.none) ∧
      fLt a b = (decide (floatVal a < floatVal b), FFlags.none) ∧ fLe a b = (decide (floatVal a ≤ floatVal b), FFlags.none) ∧
      let first : Prop := floatVal a < floatVal b ∨ (floatVal a = floatVal b ∧ neg a = true)
      (first → fMinMax false a b = exact a ∧ fMinMax true a b = exact b) ∧
      (¬first → fMinMax false a b = exact b ∧ fMinMax true a b = exact a)) ∧
    (∀ isMax : Bool, nan a →
      (¬nan b → fMinMax isMax a b = (b, { FFlags.none with inv := decide (signals a) }) ∧
        fMinMax isMax b a = (b, { FFlags.none with inv := decide (signals a) })) ∧
      (nan b → fMinMax isMax a b = (0x7FF800000000, { FFlags.none with inv := decide (signals a ∨ signals b) }))) ∧
    (∃ i < 10, fClass a = bitAt 24 i ∧ match i with
      | 0 => inf a ∧ neg a = true
      | 1 => fin a ∧ bits a 36 11 ≠ 0 ∧ neg a = true
      | 2 => bits a 36 11 = 0 ∧ ¬zero a ∧ neg a = true
      | 3 => zero a ∧ neg a = true
      | 4 => zero a ∧ neg a = false
      | 5 => bits a 36 11 = 0 ∧ ¬zero a ∧ neg a = false
      | 6 => fin a ∧ bits a 36 11 ≠ 0 ∧ neg a = false
      | 7 => inf a ∧ neg a = false
      | 8 => signals a
      | _ => nan a ∧ ¬signals a)) ∧
  (∀ (rm : Nat) (i : Word), rm ≤ 4 →
    (floatVal (fOfInt rm i.toInt 0).1 = i.toInt ∧ (fOfInt rm i.toInt 0).2 = FFlags.none) ∧
    (floatVal (fOfInt rm i.toInt (-23)).1 = i.toInt / 2 ^ 23 ∧ (fOfInt rm i.toInt (-23)).2 = FFlags.none) ∧
    (i = 0 → (fOfInt rm i.toInt 0).1 = 0 ∧ (fOfInt rm i.toInt (-23)).1 = 0)) ∧
  (∀ (rm : Nat) (i : DWord), rm ≤ 4 → FloatOf rm (i.toInt : ℝ) false (fOfInt rm i.toInt 0)) ∧
  ∀ (rm : Nat) (a : DWord), rm ≤ 4 → ∀ p ∈ [(24, 0), (24, 23), (48, 0)],
    let n : Nat := p.1
    let r := fToInt rm n (p.2 : Nat) a
    let most : Int := 2 ^ (n - 1) - 1
    let least : Int := -2 ^ (n - 1)
    let high := (BitVec.ofInt n most, FFlags.invalid)
    let low := (BitVec.ofInt n least, FFlags.invalid)
    (bits a 36 11 = 0x7FF → r = if bits a 0 36 = 0 ∧ a.getLsbD 47 = true then low else high) ∧
    (bits a 36 11 ≠ 0x7FF → ∃ i, IntegerOf rm (floatVal a * 2 ^ p.2) i ∧ (most < i → r = high) ∧ (i < least → r = low) ∧
      (least ≤ i → i ≤ most → r = (BitVec.ofInt n i, { FFlags.none with inx := decide ((i : ℚ) ≠ floatVal a * 2 ^ p.2) })))

/-- The branches and jumps: an offset counts words from the instruction word that carries it, not from an EXT before it (R138);
JAL links in D1 and JALR in pair rd with the pointer to the word that follows (R139). -/
def Obligations.BranchesAndJumps : Prop :=
  ∀ (k : Core) (f : Fetch) (rd rs1 rs2 : BitVec 5) (imm : BitVec 8) (off : BitVec 18),
    let here := fun (r : State) => if f.ext.isSome then r.pc k + 4 else r.pc k
    let words8 : BitVec 48 := match f.ext with | none => imm.signExtend 48 | some e => (e ++ imm : BitVec 26).signExtend 48
    let words18 : BitVec 48 := match f.ext with | none => off.signExtend 48 | some e => (e ++ off : BitVec 36).signExtend 48
    let branch := fun (i : Instr) (major : BitVec 6) (taken : Word → Word → Prop) =>
      Jumps i k f (insnI major rs1 rs2 imm true) (fun r => taken (r.rw k rs1) (r.rw k rs2)) id (fun r => here r + 4 * words8) ∧
      Jumps i k f (insnI major rs1 rs2 imm true) (fun r => ¬taken (r.rw k rs1) (r.rw k rs2)) id (fun r => here r + 4)
    branch (.beq k f rs1 rs2 imm) 0x20 (fun a b => a = b) ∧
    branch (.bne k f rs1 rs2 imm) 0x21 (fun a b => a ≠ b) ∧
    branch (.blt k f rs1 rs2 imm) 0x22 (fun a b => a.toInt < b.toInt) ∧
    branch (.bge k f rs1 rs2 imm) 0x23 (fun a b => b.toInt ≤ a.toInt) ∧
    branch (.bltu k f rs1 rs2 imm) 0x24 (fun a b => a.toNat < b.toNat) ∧
    branch (.bgeu k f rs1 rs2 imm) 0x25 (fun a b => b.toNat ≤ a.toNat) ∧
    Jumps (.jmp k f off) k f (insnJ 0x26 off) (fun _ => True) id (fun r => here r + 4 * words18) ∧
    Jumps (.jal k f off) k f (insnJ 0x27 off) (fun _ => True) (fun r => r.setD k 2 (here r + 4)) (fun r => here r + 4 * words18) ∧
    Jumps (.jalr k f rd rs1 imm) k f (insnI 0x28 rd rs1 imm (isPair rd && isPair rs1)) (fun _ => True)
      (fun r => r.setD k rd (here r + 4)) (fun r => r.rd k rs1 + 4 * words8)

/-- The loads and stores complete wherever their access does: `p` is the effective pointer, a byte offset or a word offset added to
pair rs1; a load writes the value read into its destination, or discards it for W0 and D0 (R127 to R129), and a store performs
the access of the register's value; both then go on at the next word. -/
def Obligations.LoadsAndStores : Prop :=
  ∀ (k : Core) (f : Fetch) (r1 rs1 : BitVec 5) (imm : BitVec 8),
    let offset : BitVec 48 := match f.ext with | none => imm.signExtend 48 | some e => (e ++ imm : BitVec 26).signExtend 48
    let bytePtr := fun (r : State) => ptrOf (ptrIndex (r.rd k rs1) + offset.toInt)
    let wordPtr := fun (r : State) => r.rd k rs1 + 4 * offset
    let load := fun (i : Instr) (x : Insn) (z : Size) (ok : State → Prop) (ptr : State → DWord) (put : State → DWord → State) =>
      ∀ s r u v, Ready s k f x r → ok r → loadAt k f z (ptr r) r = .ok v u →
        ∃ t, exec i s = .next t ∧ Retired (put u v) t k (nextPtr f (r.pc k))
    let store := fun (i : Instr) (x : Insn) (z : Size) (ok : State → Prop) (ptr : State → DWord) (value : State → DWord) =>
      ∀ s r u, Ready s k f x r → ok r → storeAt k f z (ptr r) (value r) r = .ok () u →
        ∃ t, exec i s = .next t ∧ Retired u t k (nextPtr f (r.pc k))
    let lane := fun (r : State) => ptrLane (r.rd k rs1) ≠ 3
    load (.lb k f r1 rs1 imm) (insnI 0x10 r1 rs1 imm (isPair rs1)) .byte lane bytePtr
      (fun u v => u.setW k r1 (BitVec.ofNat 24 (v.toNat % 256))) ∧
    load (.lbs k f r1 rs1 imm) (insnI 0x11 r1 rs1 imm (isPair rs1)) .byte lane bytePtr
      (fun u v => u.setW k r1 ((bits v 0 8).signExtend 24)) ∧
    load (.lw k f r1 rs1 imm) (insnI 0x12 r1 rs1 imm (isPair rs1)) .word (fun _ => True) wordPtr
      (fun u v => u.setW k r1 (bits v 0 24)) ∧
    load (.ld k f r1 rs1 imm) (insnI 0x13 r1 rs1 imm (isPair r1 && isPair rs1)) .dbl (fun _ => True) wordPtr
      (fun u v => u.setD k r1 v) ∧
    store (.sb k f r1 rs1 imm) (insnI 0x14 r1 rs1 imm (isPair rs1)) .byte lane bytePtr (fun r => (r.rw k r1).setWidth 48) ∧
    store (.sw k f r1 rs1 imm) (insnI 0x15 r1 rs1 imm (isPair rs1)) .word (fun _ => True) wordPtr (fun r => (r.rw k r1).setWidth 48) ∧
    store (.sd k f r1 rs1 imm) (insnI 0x16 r1 rs1 imm (isPair r1 && isPair rs1)) .dbl (fun _ => True) wordPtr (fun r => r.rd k r1)

/-- The accesses that loads and stores make, for the Conductor's private SRAM (word address 0x400000 on) and for a Voice core's
uncached Stage SRAM without translation: a load gives the bytes of memory, byte, word
or double word with its low word at the lower address (00 R11); a store writes exactly the bytes of its size. -/
def Obligations.AccessesReadAndWriteMemory : Prop :=
  (∀ (f : Fetch) (p v : DWord) (s : State), cdrPtrOk p = true → inPrivate p = true → sramBad 1 f.ups = false →
    0x400000 ≤ (ptrAddr p).toNat → (ptrAddr p).toNat < 0x41FFFF →
    let o := (ptrAddr p).toNat - 0x400000
    let word := fun (i : Nat) => Memory.word ramDefault s.csram (o + i)
    loadAt .conductor f .byte p s = .ok ((lane (word 0) (ptrLane p).toNat).setWidth 48) s ∧
    (ptrLane p = 0 → loadAt .conductor f .word p s = .ok ((word 0).setWidth 48) s) ∧
    (ptrLane p = 0 → p.getLsbD 2 = false → loadAt .conductor f .dbl p s = .ok (word 1 ++ word 0) s) ∧
    storeAt .conductor f .byte p v s =
      .ok () { s with csram := Memory.setByte ramDefault s.csram (3 * o + (ptrLane p).toNat) (bits v 0 8) } ∧
    (ptrLane p = 0 → storeAt .conductor f .word p v s = .ok () { s with csram := Memory.setWord ramDefault s.csram o (bits v 0 24) }) ∧
    (ptrLane p = 0 → p.getLsbD 2 = false → storeAt .conductor f .dbl p v s =
      .ok () { s with csram := Memory.setWord ramDefault (Memory.setWord ramDefault s.csram o (bits v 0 24)) (o + 1) (bits v 24 24) })) ∧
  (∀ (c : Fin 12) (f : Fetch) (p : DWord) (s : State), (s.core c).level = .monitor → (s.core c).xlatOpen = false →
    physical p = true → ptrLane p = 0 → inStage (ptrAddr p).toNat = true → s.caches.find (lineOf (ptrAddr p).toNat) = none →
    s.inDram (ptrAddr p).toNat = false → sramBad 0 f.ups = false → (ptrAddr p).toNat ∉ s.stageBad → s.stalledBy (.voice c) = false →
    loadAt (.voice c) f .word p s = .ok ((Memory.word ramDefault s.stage ((ptrAddr p).toNat - 0x100000)).setWidth 48) s ∧
    ∀ v : DWord, takesWrite (.voice c) (ptrAddr p).toNat = true →
      ∃ u, storeAt (.voice c) f .word p v s = .ok () u ∧
        u.stage = Memory.setWord ramDefault s.stage ((ptrAddr p).toNat - 0x100000) (bits v 0 24) ∧
        u.dram = s.dram ∧ u.csram = s.csram ∧ u.flash = s.flash ∧ u.xflash = s.xflash ∧
        ∀ d, ((u.core d).w = (s.core d).w ∧ (u.core d).acc = (s.core d).acc))

/-- The atomics of a Voice core on the memory types that perform them (R130 to R132, R135). LL writes the value and records the
reservation; SC stores and writes 0 where the reservation is held for its address and size, else writes 1 without an access,
and clears the reservation in both cases; CAS.D writes the old double word into rd and stores pair rs2 where it was equal. -/
def Obligations.AtomicInstructions : Prop :=
  ∀ (c : Fin 12) (f : Fetch) (rd rs1 rs2 : BitVec 5),
    let k := Core.voice c
    let ll := fun (i : Instr) (x : Insn) (z : Size) (put : State → DWord → State) =>
      ∀ s r u w (a : PAddr) (ws : List Word), Ready s k f { x with cdr := false } r →
        voiceAddr c .load z (r.rd k rs1) r = .ok (a, some .wb) u →
        voiceLoad c z (r.rd k rs1) f.ups (a, some .wb) u = .ok ws w →
        ∃ t, exec i s = .next t ∧
          Retired ((put w (z.value (r.rd k rs1) ws)).modCore c fun v =>
            { v with resv := some { line := a.toNat / 24, addr := a, dbl := decide (z = .dbl) } }) t k (nextPtr f (r.pc k))
    let sc := fun (i : Instr) (x : Insn) (z : Size) (value : State → DWord) =>
      ∀ s r u (a : PAddr), Ready s k f { x with cdr := false } r →
        voiceAddr c .store z (r.rd k rs1) r = .ok (a, some .wb) u →
        (∀ w, (∃ q, (u.core c).resv = some q ∧ q.addr = a ∧ q.dbl = decide (z = .dbl)) →
          voiceStore c f.ups z (r.rd k rs1) (value r) (a, some .wb) u = .ok () w →
          ∃ t, exec i s = .next t ∧ Retired ((w.modCore c fun v => { v with resv := none }).setW k rd 0) t k (nextPtr f (r.pc k))) ∧
        ((∀ q, (u.core c).resv = some q → q.addr = a → q.dbl ≠ decide (z = .dbl)) →
          ∃ t, exec i s = .next t ∧ Retired ((u.modCore c fun v => { v with resv := none }).setW k rd 1) t k (nextPtr f (r.pc k)))
    ll (.llW k f rd rs1 rs2) (insnR 0x17 0 rd rs1 rs2 (isPair rs1 && decide (rs2 = 0))) .word (fun u v => u.setW k rd (bits v 0 24)) ∧
    ll (.llD k f rd rs1 rs2) (insnR 0x17 1 rd rs1 rs2 (isPair rd && isPair rs1 && decide (rs2 = 0))) .dbl (fun u v => u.setD k rd v) ∧
    sc (.scW k f rd rs1 rs2) (insnR 0x17 2 rd rs1 rs2 (isPair rs1)) .word (fun r => (r.rw k rs2).setWidth 48) ∧
    sc (.scD k f rd rs1 rs2) (insnR 0x17 3 rd rs1 rs2 (isPair rs1 && isPair rs2)) .dbl (fun r => r.rd k rs2) ∧
    (∀ s r u w (a : PAddr) (ws : List Word),
      Ready s k f (insnR 0x17 4 rd rs1 rs2 (isPair rd && isPair rs1 && isPair rs2)) r →
      voiceAddr c .cas .dbl (r.rd k rs1) r = .ok (a, some .wb) u →
      voiceLoad c .dbl (r.rd k rs1) f.ups (a, some .wb) u = .ok ws w →
      (Size.dbl.value (r.rd k rs1) ws ≠ r.rd k rd → ∃ t, exec (.casD k f rd rs1 rs2) s = .next t ∧
        Retired (w.setD k rd (Size.dbl.value (r.rd k rs1) ws)) t k (nextPtr f (r.pc k))) ∧
      (Size.dbl.value (r.rd k rs1) ws = r.rd k rd → ∀ y, voiceStore c f.ups .dbl (r.rd k rs1) (r.rd k rs2) (a, some .wb) w = .ok () y →
        ∃ t, exec (.casD k f rd rs1 rs2) s = .next t ∧
          Retired (y.setD k rd (Size.dbl.value (r.rd k rs1) ws)) t k (nextPtr f (r.pc k)))) ∧
    (∀ s r u (a : PAddr) (mt : MemType), Ready s k f { insnR 0x17 0 rd rs1 rs2 (isPair rs1 && decide (rs2 = 0)) with cdr := false } r →
      voiceAddr c .load .word (r.rd k rs1) r = .ok (a, some mt) u → mt ≠ .wb →
      exec (.llW k f rd rs1 rs2) s = .next (u.excAt k (Exc.of 0x14 (r.rd k rs1))))

/-- The barriers and WFI: FENCE has no further effect in this model, IFENCE drops what the core has fetched, TFENCE puts the
translation CSRs in force (07 R288) once no core that an earlier TLBI reached has an access from before it in progress, and waits until
then (07 R284), BARWAIT does nothing while RUN is 0 and otherwise holds a core with BWMODE 0 and sets DONE
where the partition of the entry executes it (R33 to R35), and WFI stops issue unless an event is already there to end it.
Where the spec leaves a point open, the model's choice: log 12. -/
def Obligations.BarriersAndWaits : Prop :=
  ∀ (k : Core) (f : Fetch),
    let insn := fun (fn : BitVec 3) (cdr : Bool) (level : Level) => insnSys fn 0 0 0 cdr level
    Does (.fence k f 0 0 0) k f (insn 0 true .user) id ∧
    (∀ c, k = .voice c → Does (.ifence k f 0 0 0) k f (insn 1 true .user) fun r => r.modCore c fun v => { v with lineBuf := [] }) ∧
    (k = .conductor → Does (.ifence k f 0 0 0) k f (insn 1 true .user) id) ∧
    (∀ c, k = .voice c →
      let clear_ := fun (r : State) => ∀ d : Fin 12, (r.core c).fenceOn.getLsbD d.val = true → r.stalledBy (.voice d) = false
      Jumps (.tfence k f 0 0 0) k f (insn 2 false .kernel) clear_
        (fun r => r.modCore c fun v => { v with inForce := { kxlat := v.kxlat, kasid := v.kasid, mxlat := v.mxlat, mptag := v.mptag }
                                                xlatOpen := false, xlatAlt := [], fenceOn := 0 })
        (fun r => nextPtr f (r.pc k)) ∧
      ∀ s r, Ready s k f (insn 2 false .kernel) r → ¬clear_ r → exec (.tfence k f 0 0 0) s = .next r) ∧
    (∀ c, k = .voice c →
      (∀ s r, Ready s k f (insn 3 false .user) r → r.bar.run = false →
        ∃ t, exec (.barwait k f 0 0 0) s = .next t ∧ Retired r t k (nextPtr f (r.pc k))) ∧
      (∀ s r, Ready s k f (insn 3 false .user) r → r.bar.run = true → (r.cbar c).bwmode = false →
        ∃ t, exec (.barwait k f 0 0 0) s = .next t ∧ (t.core c).barHold = true ∧
          (r.enters c = true → (t.cbar c).done = true) ∧ (r.enters c = false → (t.cbar c).done = (r.cbar c).done) ∧
          Retired (r.modCore c fun v => { v with barHold := true }) t k (nextPtr f (r.pc k))) ∧
      (∀ s r, Ready s k f (insn 3 false .user) r → r.bar.run = true → (r.cbar c).bwmode = true →
        ∃ t, exec (.barwait k f 0 0 0) s = .next t ∧ (t.core c).barHold = (r.core c).barHold ∧ (t.cbar c).bcReason = true ∧
          (r.enters c = true → (t.cbar c).done = true) ∧ Retired r t k (nextPtr f (r.pc k))) ∧
      Jumps (.wfi k f 0 0 0) k f (insn 5 true .kernel)
        (fun r => r.wfiEnds c = false ∧ ((r.core c).level = .kernel → (r.core c).mstatus.getLsbD 6 = false))
        (fun r => r.modCore c fun v => { v with wfi := true }) (fun r => nextPtr f (r.pc k)) ∧
      Jumps (.wfi k f 0 0 0) k f (insn 5 true .kernel)
        (fun r => r.wfiEnds c = true ∧ ((r.core c).level = .kernel → (r.core c).mstatus.getLsbD 6 = false))
        id (fun r => nextPtr f (r.pc k)) ∧
      Traps (.wfi k f 0 0 0) k f (insn 5 true .kernel)
        (fun r => (r.core c).level = .kernel ∧ (r.core c).mstatus.getLsbD 6 = true)
        (fun _ => Exc.of 0x02 ((insn 5 true .kernel).word.setWidth 48))) ∧
    (k = .conductor → Jumps (.wfi k f 0 0 0) k f (insn 5 true .kernel) (fun r => r.monIrq 12 = none)
      (fun r => { r with cdr := { r.cdr with wfi := true } }) (fun r => nextPtr f (r.pc k)))

/-- ECALL and BREAK take their exceptions: cause 0x05, 0x06 or 0x07 for the level that executed ECALL, 0x04 for BREAK, with detail
0 (05 Tables 5.1 and 5.2). -/
def Obligations.CallsAndBreaksTrap : Prop :=
  (∀ (c : Fin 12) (f : Fetch) (code : BitVec 9), Traps (.ecall (.voice c) f 0 0 0) (.voice c) f (insnSys 4 0 0 0 false .user)
    (fun r => code = match (r.core c).level with | .user => 0x05 | .kernel => 0x06 | .monitor => 0x07) (fun _ => Exc.of code 0)) ∧
  (∀ (k : Core) (f : Fetch), Traps (.brk k f 0 0 0) k f (insnSys 7 0 0 0 true .user) (fun _ => True) (fun _ => Exc.of 0x04 0))

/-- Entry by a synchronous exception (R157, R158, R162 to R165, R180, R181). On a Voice core an exception below monitor level whose
cause bit is set in MDELEG, but for a privileged instruction at kernel level, is taken at kernel level unless KSTATUS.EXL is 1;
every other one at monitor level. The level entered has its EPC, cause, detail, status, level and PC written; the other level's
registers, the general registers and the accumulators stay; the reservation goes. The Conductor halts where CSTATUS.EXL is 1. An
exception of one core leaves every other core, the Conductor (or the Voice cores), and every memory as they were. -/
def Obligations.ExceptionEntrySavesState : Prop :=
  ((∀ (c : Fin 12) (s : State) (x : Exc), x.gwa = none →
    let v := s.core c
    let u := (s.takeExc c x).core c
    let deleg := v.level ≠ .monitor ∧ v.mdeleg.getLsbD x.code.toNat = true ∧ ¬(x.code = 2 ∧ v.level = .kernel)
    u.w = v.w ∧ u.acc = v.acc ∧ u.fcsr = v.fcsr ∧ u.qstat = v.qstat ∧ u.mptag = v.mptag ∧ u.resv = none ∧
    (deleg ∧ v.kstatus.getLsbD 3 = false →
      u.level = .kernel ∧ u.pc = v.kvbase ∧ u.kepc = v.pc ∧ u.kdetail = x.detail ∧
      bits u.kcause 0 9 = x.code ∧ bits u.kcause 9 8 = x.sub ∧ u.kcause.getLsbD 23 = false ∧
      u.kstatus.getLsbD 0 = false ∧ u.kstatus.getLsbD 1 = v.kstatus.getLsbD 0 ∧
      u.kstatus.getLsbD 2 = decide (v.level = .kernel) ∧ u.kstatus.getLsbD 3 = true ∧ u.kstatus.getLsbD 4 = v.kstatus.getLsbD 4 ∧
      u.mepc = v.mepc ∧ u.mcause = v.mcause ∧ u.mdetail = v.mdetail ∧ u.mstatus = v.mstatus) ∧
    (¬(deleg ∧ v.kstatus.getLsbD 3 = false) →
      u.level = .monitor ∧ u.pc = v.mvbase ∧ u.mepc = v.pc ∧ u.mdetail = x.detail ∧
      bits u.mcause 0 9 = x.code ∧ bits u.mcause 9 8 = x.sub ∧ u.mcause.getLsbD 22 = decide deleg ∧ u.mcause.getLsbD 23 = false ∧
      u.mstatus.getLsbD 0 = false ∧ u.mstatus.getLsbD 1 = v.mstatus.getLsbD 0 ∧
      bits u.mstatus 2 2 = (match v.level with | .user => 0 | .kernel => 1 | .monitor => 3) ∧ u.mstatus.getLsbD 4 = true ∧
      (v.mstatus.getLsbD 4 = true → u.mstatus.getLsbD 5 = true) ∧
      u.mstatus.getLsbD 6 = v.mstatus.getLsbD 6 ∧ u.mstatus.getLsbD 7 = v.mstatus.getLsbD 7 ∧
      u.kepc = v.kepc ∧ u.kcause = v.kcause ∧ u.kdetail = v.kdetail ∧ u.kstatus = v.kstatus)) ∧
  (∀ (s : State) (x : Exc),
    let u := (s.cdrExc x).cdr
    u.w = s.cdr.w ∧ (s.cdr.cstatus.getLsbD 4 = true → u.run = .halted ∧ u.cepc = s.cdr.cepc ∧ u.ccause = s.cdr.ccause) ∧
    (s.cdr.cstatus.getLsbD 4 = false →
      u.cepc = s.cdr.pc ∧ u.cdetail = x.detail ∧ bits u.ccause 0 9 = x.code ∧ bits u.ccause 9 8 = x.sub ∧ u.pc = s.cdr.cvbase ∧
      u.cstatus.getLsbD 0 = false ∧ u.cstatus.getLsbD 1 = s.cdr.cstatus.getLsbD 0 ∧ u.cstatus.getLsbD 4 = true))) ∧
  ((∀ (c : Fin 12) (s : State) (x : Exc),
    let t := s.takeExc c x
    (∀ d, d ≠ c → t.core d = s.core d) ∧
    t = { s with cores := t.cores, trace := t.trace, chorus := t.chorus }) ∧
  (∀ (s : State) (x : Exc), s.cdrExc x = { s with cdr := (s.cdrExc x).cdr }))

/-- ERET (R152, R159, R169, R170, R180): the PC from xEPC, the level from the previous-level field, the enable from the previous
enable, which becomes 1, EXL 0, and the reservation gone; to user or kernel level with MPTAG 0 it raises the illegal-instruction
exception; and with BXPEND 1 the beat-expiry entry follows in the same step. -/
def Obligations.ExceptionReturns : Prop :=
  (∀ (c : Fin 12) (f : Fetch) (s r : State),
    let k := Core.voice c
    let x := insnSys 6 0 0 0 true .kernel
    let v := r.core c
    Ready s k f x r →
    (v.level = .kernel → ∃ t, exec (.eret k f 0 0 0) s = .next t ∧
      let u := t.core c
      u = { v with pc := v.kepc, level := u.level, kstatus := u.kstatus, resv := none, instret := v.instret + 1
                   inForce := v.xlatCsrs, xlatOpen := false, xlatAlt := [] } ∧
      u.level = (if v.kstatus.getLsbD 2 then .kernel else .user) ∧ u.kstatus.getLsbD 0 = v.kstatus.getLsbD 1 ∧
      u.kstatus.getLsbD 1 = true ∧ u.kstatus.getLsbD 3 = false ∧ u.kstatus.getLsbD 4 = v.kstatus.getLsbD 4) ∧
    (v.level = .monitor → (bits v.mstatus 2 2 = 3 ∨ (v.mptag ≠ 0 ∧ v.mstatus.getLsbD 7 = false)) → bits v.mstatus 2 2 ≠ 2 →
      ∃ t, exec (.eret k f 0 0 0) s = .next t ∧
      let u := t.core c
      u = { v with pc := v.mepc, level := u.level, mstatus := u.mstatus, resv := none, instret := v.instret + 1
                   inForce := v.xlatCsrs, xlatOpen := false, xlatAlt := [] } ∧
      (match u.level with | .user => bits v.mstatus 2 2 = 0 | .kernel => bits v.mstatus 2 2 = 1 | .monitor => bits v.mstatus 2 2 = 3) ∧
      u.mstatus.getLsbD 0 = v.mstatus.getLsbD 1 ∧ u.mstatus.getLsbD 1 = true ∧ u.mstatus.getLsbD 4 = false ∧
      u.mstatus.getLsbD 7 = v.mstatus.getLsbD 7) ∧
    (v.level = .monitor → bits v.mstatus 2 2 < 2 → v.mptag = 0 →
      exec (.eret k f 0 0 0) s = .next (r.takeExc c (Exc.of 0x01 (x.word.setWidth 48)))) ∧
    (v.level = .monitor → bits v.mstatus 2 2 < 2 → v.mptag ≠ 0 → v.mstatus.getLsbD 7 = true →
      ∃ t, exec (.eret k f 0 0 0) s = .next t ∧
      let u := t.core c
      u.level = .monitor ∧ u.mepc = v.mepc ∧ bits u.mcause 0 9 = 0x20 ∧ bits u.mstatus 2 2 = bits v.mstatus 2 2 ∧
      u.mstatus.getLsbD 1 = v.mstatus.getLsbD 1 ∧ u.mstatus.getLsbD 0 = false ∧ u.mstatus.getLsbD 7 = false ∧
      u.pc = v.mvbase + 0x200)) ∧
  (∀ (f : Fetch) (s r : State), Ready s .conductor f (insnSys 6 0 0 0 true .kernel) r →
    ∃ t, exec (.eret .conductor f 0 0 0) s = .next t ∧ t.cdr.pc = r.cdr.cepc ∧
      t.cdr.cstatus.getLsbD 0 = r.cdr.cstatus.getLsbD 1 ∧ t.cdr.cstatus.getLsbD 1 = true ∧ t.cdr.cstatus.getLsbD 4 = false ∧
      t.cdr.w = r.cdr.w)

/-- CSRRD copies the CSR into the register and CSRWR the register into the CSR (04 R143 to R145), for every CSR of Table 5.5 that
the core has; a CSRWR changes no general register, and FCSR, QSTAT, the scratch registers and MPTAG read back what was written in
their implemented bits. Where the spec leaves a point open, the model's choice: log 25. -/
def Obligations.CsrInstructions : Prop :=
  ∀ (k : Core) (f : Fetch) (r1 : BitVec 5) (n : BitVec 12),
    Does (.csrrd k f r1 false n) k f (insnCsr k false r1 false n) (fun r => r.setW k r1 (r.csr k n)) ∧
    Does (.csrwr k f r1 false n) k f (insnCsr k true r1 false n) (fun r => r.setCsr k n (r.rw k r1)) ∧
    (∀ (s : State) (x : Word), (s.setCsr k n x).regs k = s.regs k ∧ (s.setCsr k n x).pc k = s.pc k) ∧
    (∀ (s : State) (c : Fin 12) (x : Word),
      (s.setCsr (.voice c) 0x001 x).csr (.voice c) 0x001 = x &&& 0x1F07 ∧
      (s.setCsr (.voice c) 0x002 x).csr (.voice c) 0x002 = x &&& 3 ∧
      (s.setCsr .conductor 0x002 x).csr .conductor 0x002 = x &&& 3 ∧
      (s.setCsr .conductor 0x800 x).csr .conductor 0x800 = x &&& 0x13 ∧
      (s.setCsr .conductor 0x808 x).csr .conductor 0x808 = x)

/-- The TLBI instructions: where they are ready they complete, and no translation in their scope stays in a TLB of the executing
core, nor, with rd 1, of any present core (07 R281, R282, R287); the registers stay. A cache operation completes where the pointer
passes its checks and is translated to memory, unless Echo stalls its write-back: DC.CLEAN leaves no dirty word of the line in any cache,
DC.CLINV and DC.INV leave the line in no cache, DC.INV writes no word of the addressed frame, and IC.INV leaves it in no L1 instruction
cache (06 R223 to R225); each leaves the memory of every other line and what software sees of every core as they were, and on an SX page
or outside memory it changes nothing.
Where the spec leaves a point open, the model's choice: log 25, log 26. -/
def Obligations.TlbAndCacheMaintenance : Prop :=
  ∀ (c : Fin 12) (f : Fetch) (rd rs1 rs2 : BitVec 5),
    let k := Core.voice c
    let row := fun (i : Instr) (x : Insn) (scope : State → TlbEntry → Prop) =>
      ∀ s r, Ready s k f x r → ∃ t u, exec i s = .next t ∧ Retired u t k (nextPtr f (r.pc k)) ∧
        (∀ d : Fin 12, (d = c ∨ (rd = 1 ∧ r.hasCore d = true)) → r.hasCore c = true →
          ∀ e, e ∈ (u.core d).itlb ++ (u.core d).dtlb ++ (u.core d).l2tlb → ¬scope r e) ∧
        (∀ d, (u.core d).seen = (r.core d).seen ∧ (u.core d).resv = (r.core d).resv) ∧
        u = { r with cores := u.cores }
    let cmo := fun (i : Instr) (x : Insn) (acc : Acc) (post : PAddr → State → State → Prop) =>
      ∀ s r o u (a : PAddr) (mt : Option MemType) (q : Req), Ready s k f x r → reqOf c acc (r.rd k rs1) r = .ok q o → q.ptrOk = true →
        q.translate o = .ok (a, mt) u →
        ((mt = some .wb ∨ mt = some .nc) ∧ u.inMem a.toNat = true → f.ups = [] → u.stalledBy (.voice c) = false →
          u.notYetStreamed (lineOf a.toNat) = false →
          ∃ t w, exec i s = .next t ∧ Retired w t k (nextPtr f (r.pc k)) ∧ post a u w ∧
            (∀ j, lineOf j ≠ lineOf a.toNat → w.raw j = u.raw j) ∧ ∀ d, (w.core d).seen = (u.core d).seen) ∧
        (mt = some .sx ∨ mt = none ∨ u.inMem a.toNat = false →
          ∃ t, exec i s = .next t ∧ Retired u t k (nextPtr f (r.pc k)))
    let gone := fun (a : PAddr) (w : State) => w.caches.find (lineOf a.toNat) = none
    row (.tlbiVa k f rd rs1 rs2) (insnTlbi 0 rd rs1 rs2 (isPair rs1) .kernel) (fun r e =>
      (r.core c).mptag ≠ 0 ∧ e.ptag = (r.core c).mptag ∧ (e.glob = true ∨ e.asid = bits (r.rw k rs2) 0 12) ∧
        e.block = false ∧ e.page = (bits (r.rd k rs1) 14 28).toNat) ∧
    row (.tlbiAsid k f rd rs1 rs2) (insnTlbi 1 rd rs1 rs2 (decide (rs1 = 0)) .kernel) (fun r e =>
      (r.core c).mptag ≠ 0 ∧ e.ptag = (r.core c).mptag ∧ e.glob = false ∧ e.asid = bits (r.rw k rs2) 0 12) ∧
    row (.tlbiPtag k f rd rs1 rs2) (insnTlbi 2 rd rs1 rs2 (decide (rs1 = 0)) .monitor) (fun r e => e.ptag = bits (r.rw k rs2) 0 4) ∧
    row (.tlbiAll k f rd rs1 rs2) (insnTlbi 3 rd rs1 rs2 (decide (rs1 = 0) && decide (rs2 = 0)) .monitor) (fun _ _ => True) ∧
    cmo (.dcClean k f rd rs1 rs2) (insnCmo 0 rd rs1 rs2 .user) .clean (fun a _ w => w.dirtyOf (lineOf a.toNat) (fun _ => true) = []) ∧
    cmo (.dcInv k f rd rs1 rs2) (insnCmo 1 rd rs1 rs2 .kernel) .inv (fun a u w => gone a w ∧
      ((∀ i < 24, frameOf (24 * lineOf a.toNat + i) = frameOf a.toNat) → w.dram = u.dram ∧ w.stage = u.stage)) ∧
    cmo (.dcClinv k f rd rs1 rs2) (insnCmo 2 rd rs1 rs2 .user) .clean (fun a _ w => gone a w) ∧
    cmo (.icInv k f rd rs1 rs2) (insnCmo 3 rd rs1 rs2 .user) .clean (fun a u w => w.dram = u.dram ∧ w.stage = u.stage ∧
      ∀ l, w.caches.find (lineOf a.toNat) = some l → l.l1i = 0)

/-- The asynchronous events of the cores (R156, R157, R166 to R168, R175, R180): a monitor interrupt, a kernel interrupt, a beat-expiry
and a deferred error are taken where they are due, each at its vector with its cause; and a posted error is
recorded in MDERR. Where the spec leaves a point open, the model's choice: log 12. -/
def Obligations.CoreEvents : Prop :=
  (∀ (c : Fin 12) (n : Nat) (s : State),
    let v := s.core c
    s.issues c = true → v.bx = none → v.derrDue = false → (s.awake (.voice c)).monIrqDue c = some n →
    ∃ t, exec (.interruptEntry (.voice c)) s = .next t ∧
      let u := t.core c
      u.level = .monitor ∧ u.pc = v.mvbase + 0x100 ∧ u.mepc = v.pc ∧ bits u.mcause 0 9 = BitVec.ofNat 9 n ∧ u.mcause.getLsbD 23 = true ∧
      u.mstatus.getLsbD 0 = false ∧ u.mstatus.getLsbD 1 = v.mstatus.getLsbD 0 ∧ u.mstatus.getLsbD 4 = true ∧ u.resv = none ∧ u.w = v.w) ∧
  (∀ (c : Fin 12) (n : Nat) (s : State),
    let v := s.core c
    s.issues c = true → v.bx = none → v.derrDue = false → (s.awake (.voice c)).monIrqDue c = none →
    (s.awake (.voice c)).kerIrqDue c = some n →
    ∃ t, exec (.interruptEntry (.voice c)) s = .next t ∧
      let u := t.core c
      u.level = .kernel ∧ u.pc = v.kvbase + 0x100 ∧ u.kepc = v.pc ∧ bits u.kcause 0 9 = BitVec.ofNat 9 n ∧ u.kcause.getLsbD 23 = true ∧
      u.kstatus.getLsbD 0 = false ∧ u.kstatus.getLsbD 1 = v.kstatus.getLsbD 0 ∧ u.kstatus.getLsbD 3 = true ∧ u.resv = none ∧ u.w = v.w) ∧
  (∀ (n : Nat) (s : State), s.cdrIssues = true → s.cdr.cstatus.getLsbD 0 = true → (s.awake .conductor).monIrq 12 = some n →
    ∃ t, exec (.interruptEntry .conductor) s = .next t ∧ t.cdr.pc = s.cdr.cvbase + 0x100 ∧ t.cdr.cepc = s.cdr.pc ∧
      bits t.cdr.ccause 0 9 = BitVec.ofNat 9 n ∧ t.cdr.ccause.getLsbD 23 = true ∧ t.cdr.cstatus.getLsbD 0 = false ∧
      t.cdr.cstatus.getLsbD 1 = true ∧ t = { s with cdr := t.cdr }) ∧
  (∀ (c : Fin 12) (p : BitVec 4) (b : BitVec 5) (s : State),
    let v := s.core c
    s.issues c = true → v.bx = some (p, b) →
    ∃ t, exec (.beatExpiryEntry c) s = .next t ∧
      let u := t.core c
      u.bx = none ∧
      (v.level ≠ .monitor → u.level = .monitor ∧ u.pc = v.mvbase + 0x200 ∧ u.mepc = v.pc ∧ bits u.mcause 0 9 = 0x20 ∧ u.resv = none) ∧
      (v.level = .monitor → u.level = .monitor ∧ u.pc = v.pc ∧ u.mstatus.getLsbD 7 = true)) ∧
  (∀ (c : Fin 12) (a : PAddr) (kind : BitVec 3) (s : State), s.on = true → s.hasCore c = true →
    ∃ t, exec (.deferredError c a kind) s = .next t ∧
      let on : Fin 12 := if kind = 2 ∨ kind = 3 then ⟨4 * (c.val / 4), by omega⟩ else c
      t = { s with cores := t.cores } ∧ (∀ d, d ≠ on → t.core d = s.core d) ∧ (t.core on).mderrh.getLsbD 23 = true ∧
      ((s.core on).mderrh.getLsbD 23 = false → (t.core on).mderr = bits a 0 24) ∧
      ((s.core on).mderrh.getLsbD 23 = true → (t.core on).mderr = (s.core on).mderr ∧ (t.core on).mderrh.getLsbD 22 = true)) ∧
  (∀ (c : Fin 12) (s : State), s.issues c = true → (s.core c).bx = none → (s.core c).derrDue = true →
    ∃ t, exec (.deferredErrorEntry c) s = .next t ∧ (t.core c).level = .monitor ∧ (t.core c).pc = (s.core c).mvbase + 0x300 ∧
      (t.core c).mepc = (s.core c).pc ∧ bits (t.core c).mcause 0 9 = 0x21 ∧ (t.core c).w = (s.core c).w)

/-! Command packets. -/

/-- Taking a packet: its words stand in the request ring, REQ_PROD and REQ_CONS are past it (10 R394, R398), the other rings and
the outstanding commands stay, and nothing outside the ring's page and the command service changes but reservations: one on a line that
the packet or REQ_PROD is written into is gone, as after any write by another agent (04 R133). A reply of a ring that is not
held back is written at RPL_PROD, which then passes it (10 R388, R389): the status and the length, the tag, the sequence number, and
the results of a final reply with status OK. In ring 16 the link unit consumes it. A stopped ring holds its replies (R397), and so does
one that has no room, which R409 leaves to the reply of a packet that an ABORT has ended. Where the spec leaves a point open, the
model's choice: log 28. -/
def Obligations.PacketsAreTakenAndAnswered : Prop :=
  (∀ (s : State) (op : BitVec 8) (h : Header) (ps : List Word) (space : Nat), Accepts s h ps.length space →
    let t := s.taken op h ps
    let n := BitVec.ofNat 24 (2 + ps.length)
    t = { s with stage := t.stage, stageBad := t.stageBad, rings := t.rings, cores := t.cores } ∧ Memory.wf ramDefault t.stage = true ∧
    (∀ a ∈ t.stageBad, a ∈ s.stageBad) ∧
    (∀ c, t.core c = { s.core c with resv := (t.core c).resv } ∧
      ((t.core c).resv = (s.core c).resv ∨ (t.core c).resv = none) ∧
      ∀ q, (t.core c).resv = some q → q.line ≠ (0x100000 + h.ring.toNat * 4096) / 24 ∧
        ∀ i < 2 + ps.length, q.line ≠ (0x100400 + h.ring.toNat * 4096 + (s.reqProd h.ring + BitVec.ofNat 24 i).toNat % 2048) / 24) ∧
    t.reqProd h.ring = s.reqProd h.ring + n ∧ t.reqCons h.ring = s.reqProd h.ring + n ∧
    t.rplProd h.ring = s.rplProd h.ring ∧ t.rplCons h.ring = s.rplCons h.ring ∧ t.ringState h.ring = 1 ∧
    t.reqWord h.ring (s.reqProd h.ring) = (op ++ h.flags ++ BitVec.ofNat 12 (2 + ps.length) : BitVec 24) ∧
    t.reqWord h.ring (s.reqProd h.ring + 1) = h.tag ∧
    (∀ i < ps.length, t.reqWord h.ring (s.reqProd h.ring + BitVec.ofNat 24 (2 + i)) = ps.getD i 0) ∧
    (∀ (q : BitVec 5) (o : Nat), q ≠ h.ring → o < 4096 → t.ringWord q o = s.ringWord q o) ∧
    t.rings.active = s.rings.active ∧ t.rings.notices = s.rings.notices ∧ t.rings.held = s.rings.held ∧
    t.rings.stopped = s.rings.stopped ∧ (h.ring.toNat < 16 → t.rings.last.toNat = h.ring.toNat)) ∧
  (∀ (s : State) (r : BitVec 5) (st : Status) (final : Bool) (tag seq : Word) (res : List Word),
    Memory.wf ramDefault s.stage = true → res.length ≤ 253 →
    let t := s.reply r st final tag seq res
    let shown := if st = .ok ∧ final = true then res else []
    let n := 3 + shown.length
    let fits := ringBit s.rings.stopped r = false ∧ (∀ p ∈ s.rings.held, p.1 ≠ r) ∧ (s.rplProd r - s.rplCons r).toNat + n ≤ 1024
    (¬fits → t = { s with rings := { s.rings with held := t.rings.held } } ∧
      ∃ ws, t.rings.held = s.rings.held ++ [(r, ws)] ∧ ws.length = n) ∧
    (fits →
      t = { s with stage := t.stage, stageBad := t.stageBad, duet := t.duet } ∧ t.rplProd r = s.rplProd r + BitVec.ofNat 24 n ∧
      (r ≠ 16 → t.duet = s.duet ∧ t.rplCons r = s.rplCons r) ∧ (r = 16 → t.rplCons r = t.rplProd r) ∧
      let word := fun (i : Nat) => t.ringWord r (0xC00 + (s.rplProd r + BitVec.ofNat 24 i).toNat % 1024)
      word 0 = (st.code ++ (0 : BitVec 3) ++ BitVec.ofBool final ++ BitVec.ofNat 12 n : BitVec 24) ∧ word 1 = tag ∧ word 2 = seq ∧
      ∀ i < shown.length, word (3 + i) = shown.getD i 0))

/-- The system group (10 R414 to R418, R397, R404, R405, R410; 11 R477; 19 R767 to R770, R772, R776, R778, R793): what each command leaves
where its conditions hold, and what answers it where they do not. RELEASE_AUTH first loads and checks the images as a start would (11
R473, R474), whether it then releases or not; a beat-expiry that pended for a core that is released is recorded in it (05 R168); while 32
commands are outstanding every command is answered BUSY. Where the spec leaves a point open, the model's choice: log 28, log 29. -/
def Obligations.SystemCommands : Prop :=
  ∀ (h : Header) (mask p0 p1 resv ring : Word) (bad : BitVec 4),
    let none_ := fun (_ : State) => ([] : List Word)
    let m := fun (c : Fin 12) => mask.getLsbD c.val
    let present := fun (s : State) => mask.toNat < 4096 ∧ ∀ c : Fin 12, m c = true → s.hasCore c = true
    let fresh := fun (s : State) => present s ∧ mask ≠ 0 ∧ ∀ c : Fin 12, m c = true → (s.core c).released = false
    let started : VoiceCore := { VoiceCore.reset with released := true, pc := (p1 ++ p0 : BitVec 48), startPtr := (p1 ++ p0 : BitVec 48) }
    let starts := fun (v w : VoiceCore) => w = { started with mbexp := w.mbexp, mstatus := w.mstatus } ∧
      (v.bx = none → w = started) ∧
      ∀ e, v.bx = some e → bits w.mbexp 0 4 = e.1 ∧ bits w.mbexp 4 5 = e.2 ∧ w.mstatus.getLsbD 7 = true
    let releases := fun (u t : State) =>
      (∀ c, (m c = true → starts (u.core c) (t.core c)) ∧ (m c = false → t.core c = u.core c)) ∧
      (u.bar.resumeDue = false → t = { u with cores := t.cores })
    let room := fun (s : State) => s.rings.active.length < 32
    let r : BitVec 5 := (bits ring 0 4).setWidth 5
    let out := fun (s : State) => s.ringState r = 2 ∨ ringBit s.rings.stopped r = true
    Answers (.nop h) 0x00 h [] srcAll 3 (fun _ => True) .ok none_ id ∧
    Refuses (.nop h) 0x00 h [] 3 (fun s => srcAll.allows s h.ring = true ∧ 32 ≤ s.rings.active.length) .busy ∧
    Answers (.getInfo h) 0x01 h [] srcAll 9 (fun _ => True) .ok
      (fun u => [u.boot.imgVer, u.boot.imgIface, u.boot.stepMask.1, u.boot.stepMask.2, u.sysStep, u.bootState]) id ∧
    AnswersWith (.releaseCores h mask p0 p1 resv) 0x02 h [mask, p0, p1, resv] srcMG 3
      (fun s => s.mc.ready = true ∧ s.gated = false ∧ fresh s) .ok none_ releases ∧
    Refuses (.releaseCores h mask p0 p1 resv) 0x02 h [mask, p0, p1, resv] 3
      (fun s => srcMG.allows s h.ring = true ∧ room s ∧ present s ∧ (s.mc.ready = false ∨ (s.gated = false ∧ ¬fresh s))) .notPermitted ∧
    Refuses (.releaseCores h mask p0 p1 resv) 0x02 h [mask, p0, p1, resv] 3
      (fun s => srcMG.allows s h.ring = true ∧ room s ∧ present s ∧ s.mc.ready = true ∧ s.gated = true) .versionUntested ∧
    AnswersWith (.releaseAuth h mask p0 p1 { resv, bad }) 0x03 h [mask, p0, p1, resv] srcG 3
      (fun s => s.mc.ready = true ∧ (s.gated = false ∨ s.boot.perms.getLsbD 3 = true) ∧ fresh s) .ok none_
      (fun u t => releases (u.runImages false bad) t) ∧
    AnswersWith (.releaseAuth h mask p0 p1 { resv, bad }) 0x03 h [mask, p0, p1, resv] srcG 3
      (fun s => s.mc.ready = true ∧ s.gated = true ∧ s.boot.perms.getLsbD 3 = false ∧ present s)
      .versionUntested none_ (fun u t => t = u.runImages false bad) ∧
    Refuses (.releaseAuth h mask p0 p1 { resv, bad }) 0x03 h [mask, p0, p1, resv] 3
      (fun s => srcG.allows s h.ring = true ∧ room s ∧ present s ∧ s.mc.ready = false) .notPermitted ∧
    AnswersWith (.haltCores h mask) 0x04 h [mask] srcMG 3 present .ok none_ (fun u t =>
      (∀ c, t.core c = if m c && (u.core c).released then { VoiceCore.reset with startPtr := (u.core c).startPtr, bx := (u.core c).bx } else u.core c) ∧
      t = { u with cores := t.cores, trace := t.trace, caches := t.caches, echo := t.echo, chorus := t.chorus }) ∧
    Refuses (.haltCores h mask) 0x04 h [mask] 3
      (fun s => srcMG.allows s h.ring = true ∧ ∃ c : Fin 12, m c = true ∧ s.hasCore c = false) .unitAbsent ∧
    Answers (.sysResetWarm h) 0x05 h [0] srcMG 3 (fun _ => True) .ok none_
      (fun u => { u with rings := { u.rings with resetReq := some false, resetAt := u.tempo.count } }) ∧
    Answers (.sysResetCold h) 0x05 h [1] srcMG 3 (fun _ => True) .ok none_
      (fun u => { u with rings := { u.rings with resetReq := some true, resetAt := u.tempo.count } }) ∧
    Answers (.ringDisable h ring) 0x06 h [ring &&& ~~~0x30] srcM 3 (fun _ => ring.toNat < 64) .ok none_ (fun u => u.setRingWord r 4 0) ∧
    Answers (.ringEnable h ring) 0x06 h [ring &&& ~~~0x30 ||| 0x10] srcM 3 (fun s => ring.toNat < 64 ∧ ¬out s) .ok none_
      (fun u => u.setRingWord r 4 1) ∧
    Refuses (.ringEnable h ring) 0x06 h [ring &&& ~~~0x30 ||| 0x10] 3
      (fun s => srcM.allows s h.ring = true ∧ room s ∧ ring.toNat < 64 ∧ out s) .notPermitted ∧
    AnswersWith (.ringRestart h ring) 0x06 h [ring &&& ~~~0x30 ||| 0x20] srcM 3
      (fun s => ring.toNat < 64 ∧ out s ∧ s.ringLimits r = true) .ok none_ (fun u t =>
      t.ringState r = 1 ∧ ringBit t.rings.stopped r = false ∧ t.reqCons r = u.reqCons r ∧
      t = { u with stage := t.stage, stageBad := t.stageBad, rings := t.rings }) ∧
    Refuses (.ringRestart h ring) 0x06 h [ring &&& ~~~0x30 ||| 0x20] 3
      (fun s => srcM.allows s h.ring = true ∧ room s ∧ ring.toNat < 64 ∧ ¬out s) .notPermitted ∧
    Answers (.noticeRead h) 0x07 h [] srcM 5 (fun _ => True) .ok
      (fun u => match u.rings.notices with
        | [] => [(u.rings.lost ++ (0 : BitVec 16) : BitVec 24), 0]
        | n :: rest => [(u.rings.lost ++ (0 : BitVec 7) ++ BitVec.ofBool (!rest.isEmpty) ++ n.1 : BitVec 24), n.2])
      (fun u => { u with rings := { u.rings with notices := u.rings.notices.tail, lost := 0
                                                 noticePend := u.rings.noticePend || !u.rings.notices.tail.isEmpty } }) ∧
    AnswersWith (.coreHushEnter h mask) 0x11 h [mask, 1] srcM 3 (fun s => present s ∧ ∀ c, m c = true → (s.core c).released = true) .ok none_
      (fun u t => (∀ c, t.core c = if m c then { u.core c with hush := true } else u.core c) ∧
        t = { u with cores := t.cores, caches := t.caches } ∧
        ∀ c, m c = true → ∀ l ∈ t.caches.lines, l.l1d.getLsbD c.val = true → l.below = none) ∧
    AnswersWith (.coreHushLeave h mask) 0x11 h [mask, 0] srcM 3 (fun s => present s ∧ ∀ c, m c = true → (s.core c).released = true) .ok none_
      (fun u t => (∀ c, t.core c = if m c then { u.core c with hush := false } else u.core c) ∧ t = { u with cores := t.cores }) ∧
    Refuses (.coreHushEnter h mask) 0x11 h [mask, 1] 3
      (fun s => srcM.allows s h.ring = true ∧ room s ∧ present s ∧ ∃ c, m c = true ∧ (s.core c).released = false) .notPermitted

/-- POWER_ENTER and CLOCK_SET (19 R772, R773, R776, R778, R784, R785, R796). The bar and beats group (02 R53, R55; 10 R414, R864,
R863): POWER_ENTER takes the link down where it is not OFF (13 R584); BAR_CONFIG stages its parameters, arms them and stays outstanding, BAR_RUN writes RUN, BAR_LOCK sets LOCK, and BAR_READ
answers the bar count, the overruns of a partition and the captures without REST, to that partition or to the monitor.
Where the spec leaves a point open, the model's choice: log 27, log 28, log 36. -/
def Obligations.PowerAndBarCommands : Prop :=
  (∀ (h : Header) (wake s0 s1 mask mhz : Word),
    let sec : BitVec 48 := s1 ++ s0
    let allowed := fun (s : State) => s.refrain.role ≠ .active ∧ s.refrain.role ≠ .handover ∧ s.echo.track = false
    let alarm := fun (s : State) => wake.getLsbD 4 = true → s.pwr.aonSec.toNat + 1 < sec.toNat
    let armed := fun (p : Power) =>
      { p with wakeMask := bits wake 0 6, wakeStat := 0, wakeSec := if wake.getLsbD 4 then sec else p.wakeSec }
    let ps := fun (kind : Word) => [kind, wake, s0, s1]
    let asked := fun (coda : Bool) (u v t : State) => t.rings.sleepReq = some coda ∧ t.pwr = armed v.pwr ∧ t.duet.state = .off ∧
      t.csram = u.csram ∧ t.flash = u.flash ∧ t.xflash = u.xflash ∧
      (u.duet.state = .off → t = { v with pwr := armed v.pwr, rings := { v.rings with sleepReq := some coda } })
    let speeds := fun (s : State) => mask.toNat < 8 ∧ (∀ i < 3, mask.getLsbD i = true → i < s.die.variant.sections) ∧
      mhz.toNat % 100 = 0 ∧ 400 ≤ mhz.toNat ∧ mhz.toNat ≤ 100 * s.fmax ∧ ∀ c ∈ s.rings.active, c.op ≠ 0x12
    AnswersWith (.powerEnterFermata h wake s0 s1) 0x10 h (ps 1) srcM 3
      (fun s => allowed s ∧ s.rings.active = [] ∧ wake ≠ 0 ∧ wake.toNat < 64 ∧ alarm s) .ok (fun _ => [])
      (fun u t => asked false u u t) ∧
    AnswersWith (.powerEnterCoda h wake s0 s1) 0x10 h (ps 2) srcM 3
      (fun s => allowed s ∧ s.rings.active = [] ∧ wake ≠ 0 ∧ wake.toNat < 32 ∧ alarm s) .ok (fun _ => [])
      (fun u t => asked true u u.mirrorUpdate t) ∧
    (∀ kind : Word, kind = 1 ∨ kind = 2 →
      let i : Instr := if kind = 1 then .powerEnterFermata h wake s0 s1 else .powerEnterCoda h wake s0 s1
      Refuses i 0x10 h (ps kind) 3 (fun s => srcM.allows s h.ring = true ∧ ¬allowed s) .notPermitted ∧
      Refuses i 0x10 h (ps kind) 3 (fun s => srcM.allows s h.ring = true ∧ allowed s ∧ s.rings.active ≠ []) .busy ∧
      Refuses i 0x10 h (ps kind) 3 (fun s => srcM.allows s h.ring = true ∧ allowed s ∧ s.rings.active = [] ∧
        (wake = 0 ∨ 64 ≤ wake.toNat ∨ (kind = 2 ∧ wake.getLsbD 5 = true) ∨ ¬alarm s)) .badParam) ∧
    AnswersLong (.clockSet h mask mhz) 0x12 h [mask, mhz] srcM 6 (fun s => speeds s ∧ (mask = 0 ∨ s.bar.run = false)) .ok (fun _ => [])
      (fun u => { u with pwr := { u.pwr with
        secClk := Vector.ofFn fun (i : Fin 3) => if mask.getLsbD i.val then bits mhz 0 12 else u.pwr.secClk[i] } }) ∧
    Begins (.clockSet h mask mhz) 0x12 h [mask, mhz] srcM 0 (fun s => speeds s ∧ mask ≠ 0 ∧ s.bar.run = true) (fun _ => mask.toNat) id) ∧
  (∀ (h : Header) (p b off refq reh run part : Word),
    Begins (.barConfig h p b off refq reh) 0x20 h [p, b, off, refq, reh] srcM 0
      (fun s => b &&& ~~~0x11F = 0 ∧ ∀ c ∈ s.rings.active, c.op ≠ 0x20) (fun u => u.bar.packStaged)
      (fun u => { u with bar := { u.bar with
        staged := { period := p, beats := bits b 0 5, align := b.getLsbD 8, offset := off, refq, reh }, garm := true } }) ∧
    Refuses (.barConfig h p b off refq reh) 0x20 h [p, b, off, refq, reh] 6
      (fun s => srcM.allows s h.ring = true ∧ b &&& ~~~0x11F = 0 ∧ ∃ c ∈ s.rings.active, c.op = 0x20) .busy ∧
    Answers (.barRun h run) 0x21 h [run] srcM 3 (fun _ => run.toNat < 2) .ok (fun _ => []) (fun u => if run = 1 then u.runSet else u.runClear) ∧
    Refuses (.barRun h run) 0x21 h [run] 3 (fun s => srcM.allows s h.ring = true ∧ 2 ≤ run.toNat) .badParam ∧
    Answers (.barLock h) 0x22 h [] srcM 3 (fun _ => True) .ok (fun _ => []) (fun u => { u with bar := { u.bar with lock := true } }) ∧
    Answers (.barRead h part) 0x23 h [part] srcMP 7
      (fun _ => part ≠ 0 ∧ part.toNat < 16 ∧ (h.ring = 0 ∨ part.toNat = h.ring.toNat)) .ok
      (fun u => [bits u.bar.cnt 0 24, bits u.bar.cnt 24 24, u.bar.ovr[(bits part 0 4).toFin], u.bar.captNoRest]) id ∧
    Refuses (.barRead h part) 0x23 h [part] 7
      (fun s => srcMP.allows s h.ring = true ∧ h.ring ≠ 0 ∧ part.toNat ≠ h.ring.toNat) .notPermitted)

/-! Tempo. -/

/-- The Tempo group (12 R498, R500, R504, R506, R507, R509, R511 to R514, R527): time and quality in four words; a TIME_SET applies the
difference as a step at once while RUN is 0, else at the next bar boundary; REF_EN, the policy, the step held in PEND, and a
PTP measurement. Where the spec leaves a point open, the model's choice: log 30. -/
def Obligations.TempoCommands : Prop :=
  ∀ (h : Header) (s0 s1 ns mask step limit err off freq : Word),
    let words := fun (t : Tempo) =>
      let sec := BitVec.ofInt 48 ((t.count + t.offset) / 1000000000)
      let nano := BitVec.ofNat 30 ((t.count + t.offset) % 1000000000).toNat
      [bits sec 0 24, (bits nano 24 6 ++ bits sec 24 18 : BitVec 24), bits nano 0 24, t.quality]
    let given : Int := ((bits s1 0 18 ++ s0).toNat : Int) * 1000000000 + (bits s1 18 6 ++ ns).toNat
    let apart := fun (u t : State) => t = { u with tempo := t.tempo, rings := t.rings, stage := t.stage, stageBad := t.stageBad, duet := t.duet,
                                                   pwr := t.pwr, chorus := t.chorus }
    let held : State → TStep := fun u => { amount := u.tempo.pend, timeSet := false, held := true }
    Answers (.timeRead h) 0x30 h [] srcAll 7 (fun _ => True) .ok (fun u => words u.tempo) id ∧
    AnswersWith (.timeSet h s0 s1 ns) 0x31 h [s0, s1, ns] srcMG 3 (fun _ => (bits s1 18 6 ++ ns).toNat < 1000000000) .ok (fun _ => [])
      (fun u t => t.tempo.count = u.tempo.count ∧ t.tempo.pend = 0 ∧ apart u t ∧
        (u.bar.run = false → t.tempo.time = given ∧ t.tempo.flags.getLsbD 4 = true ∧ t.tempo.step = none ∧
          t.tempo.code = if u.tempo.selected.isNone then 2 else 4) ∧
        (u.bar.run = true → t.tempo.offset = u.tempo.offset ∧
          t.tempo.step = some { amount := given - u.tempo.time, timeSet := true, held := false })) ∧
    Refuses (.timeSet h s0 s1 ns) 0x31 h [s0, s1, ns] 3
      (fun s => srcMG.allows s h.ring = true ∧ 1000000000 ≤ (bits s1 18 6 ++ ns).toNat) .badParam ∧
    AnswersWith (.tempoRefs h mask) 0x32 h [mask] srcM 3 (fun s => mask.toNat < 8 ∧ (mask.getLsbD 2 = true → s.die.variant.duet = true)) .ok
      (fun _ => []) (fun u t => t.tempo.refEn = bits mask 0 3 ∧ t = { u with tempo := t.tempo } ∧
        (t.tempo.pps = if u.tempo.refEn.getLsbD 0 = mask.getLsbD 0 then u.tempo.pps else RefState.reset) ∧
        (t.tempo.ptp = if u.tempo.refEn.getLsbD 1 = mask.getLsbD 1 then u.tempo.ptp else RefState.reset) ∧
        (t.tempo.partner = if u.tempo.refEn.getLsbD 2 = mask.getLsbD 2 then u.tempo.partner else RefState.reset) ∧
        t.tempo.offset = u.tempo.offset ∧ t.tempo.count = u.tempo.count) ∧
    AnswersWith (.tempoPolicy h step limit err) 0x33 h [step, limit, err] srcM 3
      (fun _ => step.toNat < 2 ∧ limit ≠ 0 ∧ limit.toNat < 2 ^ 16 ∧ 100 ≤ err.toNat) .ok (fun _ => [])
      (fun u t => t = { u with tempo := { u.tempo with
          autoStep := step.getLsbD 0, holdLimit := bits limit 0 16, errLimit := err, valid := t.tempo.valid, flags := t.tempo.flags } } ∧
        (t.tempo.valid = true ↔ (u.tempo.code = 3 ∨ u.tempo.code = 4 ∨ u.tempo.code = 5) ∧ u.tempo.estErr.toNat ≤ err.toNat)) ∧
    Begins (.tempoStep h) 0x34 h [] srcM 0 (fun s => s.tempo.code = 7 ∧ s.bar.run = true) (fun _ => 0)
      (fun u => { u with tempo := { u.tempo with step := some (held u) } }) ∧
    AnswersLong (.tempoStep h) 0x34 h [] srcM 6 (fun s => s.tempo.code = 7 ∧ s.bar.run = false) .ok (fun _ => []) (fun u => u.applyStep (held u)) ∧
    (∀ u, (u.applyStep (held u)).tempo.time = u.tempo.time + u.tempo.pend ∧ (u.applyStep (held u)).tempo.pend = 0 ∧
      (u.applyStep (held u)).tempo.count = u.tempo.count ∧ (u.applyStep (held u)).tempo.code = 4 ∧ apart u (u.applyStep (held u))) ∧
    AnswersWith (.ptpCorrect h off freq) 0x35 h [off, freq] srcM 3 (fun _ => True) .ok (fun _ => []) (fun u t =>
      (u.tempo.refEn.getLsbD 1 = false → t = u) ∧
      (u.tempo.refEn.getLsbD 1 = true → apart u t ∧ t.tempo.ptp.qualified = true ∧ t.tempo.ptp.lastAt = some u.tempo.count) ∧
      (u.tempo.refEn.getLsbD 1 = true → u.tempo.refEn.getLsbD 0 = true → u.tempo.pps.qualified = true →
        t.tempo.freq = u.tempo.freq ∧ t.tempo.slewRem = u.tempo.slewRem ∧ t.tempo.code = u.tempo.code) ∧
      (u.tempo.refEn.getLsbD 1 = true → (u.tempo.refEn.getLsbD 0 && u.tempo.pps.qualified) = false → off.toInt.natAbs ≤ 1000000 →
        t.tempo.freq = satSigned 24 (u.tempo.freq.toInt + freq.toInt * 100) ∧ t.tempo.slewRem = off.toInt ∧ t.tempo.pend = 0 ∧
        t.tempo.code = if off.toInt.natAbs ≤ 1000 then 4 else 3)) ∧
    AnswersLong (.tempoStep h) 0x34 h [] srcM 6 (fun s => s.tempo.code ≠ 7) .notPermitted (fun _ => []) id

/-- The events of Tempo (12 R501, R502, R507, R508, R512, R517 to R523, R525): reads latch the words that go with them for their
initiator, the loop treats a PPS edge, a reference is lost, holdover expires, in Fermata too (R532), and TPPS_OUT rises and falls.
Where the spec leaves a point open, the model's choice: log 30. -/
def Obligations.TempoEvents : Prop :=
  (∀ w : Initiator, Accesses (.timeSecLoRead w) w (fun _ => True) fun s t =>
    t = { s with tempo := { s.tempo with timeLatch := t.tempo.timeLatch } } ∧ latchOf t.tempo.timeLatch w = some s.tempo.timeWords ∧
    ∀ v : Initiator, v.idx ≠ w.idx → latchOf t.tempo.timeLatch v = latchOf s.tempo.timeLatch v) ∧
  (∀ w : Initiator, Accesses (.tcount0Read w) w (fun _ => True) fun s t =>
    t = { s with tempo := { s.tempo with cntLatch := t.tempo.cntLatch } } ∧ latchOf t.tempo.cntLatch w = some s.tempo.countWords ∧
    ∀ v : Initiator, v.idx ≠ w.idx → latchOf t.tempo.cntLatch v = latchOf s.tempo.cntLatch v) ∧
  (∀ w : Initiator, Accesses (.stepReq w) w (fun _ => True) fun s t =>
    (w ≠ .conductor → t = s) ∧
    (w = .conductor → s.tempo.code ≠ 7 → t = { s with tempo := { s.tempo with stepReq := true } }) ∧
    (w = .conductor → s.tempo.code = 7 → s.bar.run = true → t = { s with tempo := { s.tempo with
      stepReq := true, step := some { amount := s.tempo.pend, timeSet := false, held := true } } }) ∧
    (w = .conductor → s.tempo.code = 7 → s.bar.run = false →
      t.tempo.time = s.tempo.time + s.tempo.pend ∧ t.tempo.pend = 0 ∧ t.tempo.stepReq = false ∧ t.tempo.code = 4)) ∧
  (∀ dt : Nat, Occurs (.tppsInEdge dt) (fun _ => True) fun s t =>
    let e := s.elapse dt
    let n := (e.tempo.time % 1000000000).toNat
    let o : Int := if n ≤ 500000000 then -(n : Int) else 1000000000 - n
    let on := e.tempo.refEn.getLsbD 0
    let fits : Prop := ∀ c, e.tempo.pps.lastAt = some c →
      (((e.tempo.count - c : Nat) : Int) - (e.tempo.slewDone - e.tempo.pps.lastSlew) - 1000000000).natAbs ≤ 2000
    t.tempo.ppsCap = BitVec.ofNat 30 n ∧
    (on = false → t = { e with tempo := { e.tempo with ppsCap := BitVec.ofNat 30 n } }) ∧
    (on = true → ¬fits → t.tempo.flags.getLsbD 3 = true ∧ t.tempo.pps = e.tempo.pps ∧ t.tempo.freq = e.tempo.freq) ∧
    (on = true → fits → t.tempo.pps.streak = e.tempo.pps.streak + 1 ∧ t.tempo.pps.lastAt = some e.tempo.count ∧
      (t.tempo.pps.qualified = true ↔ e.tempo.pps.qualified = true ∨ 2 ≤ e.tempo.pps.streak) ∧
      (t.tempo.pps.qualified = true → o.natAbs ≤ 1000000 →
        t.tempo.slewRem = o ∧ t.tempo.pend = 0 ∧ t.tempo.code = if o.natAbs ≤ 1000 then 4 else 3) ∧
      (t.tempo.pps.qualified = true → 1000000 < o.natAbs → e.tempo.autoStep = false →
        t.tempo.slewRem = 0 ∧ t.tempo.pend = o ∧ t.tempo.code = 7 ∧ t.tempo.freq = e.tempo.freq) ∧
      (t.tempo.pps.qualified = true → 1000000 < o.natAbs → e.tempo.autoStep = true → e.bar.run = true →
        t.tempo.slewRem = 0 ∧ t.tempo.code = e.tempo.code ∧ ∃ st, t.tempo.step = some st ∧ st.amount = o))) ∧
  (∀ r : Fin 3, Occurs (.refLost r) (fun s => (s.tempo.refOf (refOfBit r)).lastAt.isSome = true) fun s t =>
    ∃ c, (s.tempo.refOf (refOfBit r)).lastAt = some c ∧
      let e := s.until (c + match r with
        | 0 => 2000000000
        | 1 => (if s.tempo.ptpTmo = 0 then 1 else min 60 s.tempo.ptpTmo.toNat) * 1000000000
        | 2 => 10000000)
      t = { e with tempo := t.tempo } ∧ t.tempo.refOf (refOfBit r) = RefState.reset ∧
      (e.tempo.selected ≠ none → t.tempo.ref = none → t.tempo.flags.getLsbD 0 = true ∧
        (e.tempo.code = 3 ∨ e.tempo.code = 4 → t.tempo.code = 5 ∧ t.tempo.slewRem = 0))) ∧
  Occurs .holdExpired (fun s => s.tempo.code = 5) (fun s t =>
    let e := s.until (s.tempo.holdFrom + s.tempo.expiresAfter * 1000000000)
    t = { e with tempo := t.tempo } ∧ t.tempo.code = 6 ∧ t.tempo.flags.getLsbD 6 = true ∧ t.tempo.valid = false) ∧
  (∀ s, s.on = false → s.pwr.state = .fermata → s.tempo.code = 5 → ∃ t, exec .holdExpired s = .next t ∧ t.tempo.code = 6 ∧
    t.pwr.state = .fermata) ∧
  Occurs .secondsFieldIncrease (fun _ => True) (fun s t =>
    let e := s.until ((s.tempo.secDone + 1) * 1000000000 - s.tempo.offset).toNat
    let soon : Prop := ∃ r, e.tempo.ppsRise = some r ∧ e.tempo.count - r < 500150000
    t = { e with tempo := t.tempo, pwr := t.pwr, chorus := t.chorus } ∧ t.tempo.time = e.tempo.time ∧
    t.tempo.secDone = e.tempo.time / 1000000000 ∧
    (soon → t.tempo.ppsRise = e.tempo.ppsRise ∧ t.tempo.ppsOut = e.tempo.ppsOut ∧ t.tempo.flags.getLsbD 2 = true) ∧
    (¬soon → t.tempo.ppsRise = some e.tempo.count ∧ t.tempo.ppsOut = (e.tempo.ppsOut || e.tempo.ppsoEn)) ∧
    (e.tempo.trusted = true → t.pwr.aonSec = BitVec.ofInt 48 (e.tempo.time / 1000000000) ∧ t.pwr.aonLoaded = true)) ∧
  Occurs .tppsOutPulseEnd (fun s => s.tempo.ppsOut = true ∧ s.tempo.ppsRise.isSome = true) (fun s t => ∃ r, s.tempo.ppsRise = some r ∧
    let width := if 1 ≤ s.tempo.ppsoWidth.toNat ∧ s.tempo.ppsoWidth.toNat ≤ 400 then s.tempo.ppsoWidth.toNat else 100
    let e := s.until (r + width * 1000000)
    t = { e with tempo := { e.tempo with ppsOut := false } })

/-! Chorus. -/

/-- The interrupt that an interface is given (08 R306 to R308, R311): it is deliverable there, which takes an enabled, pending source
that is not active and is routed there, with a priority value below PMASK and below RUNPRIO; and none that is deliverable has a
lower value, or the same value and a lower number. -/
def Obligations.SelectionTakesTheHighestPriority : Prop :=
  ∀ (s : State) (i : Iface),
    (∀ n, s.deliverable i n = true → let x := s.chorus.src i.target n
      s.chorus.en = true ∧ x.en = true ∧ x.active = none ∧ s.isPending i.target n = true ∧ n ≠ 18 ∧ x.prio.toNat < (s.pmask i).toNat ∧
      (∀ m ∈ sourceNumbers, (s.chorus.src i.target m).active = some i → x.prio.toNat < (s.chorus.src i.target m).prio.toNat) ∧
      (match i with
       | .monitor t => x.mode = false ∧ x.target.toNat = t
       | .kernel c p => x.mode = true ∧ x.target.toNat = c ∧ x.part.toNat = p)) ∧
    (∀ n p, s.best i = some (n, p) → s.deliverable i n = true ∧ p = (s.chorus.src i.target n).prio.toNat ∧
      ∀ m ∈ sourceNumbers, s.deliverable i m = true →
        p < (s.chorus.src i.target m).prio.toNat ∨ (p = (s.chorus.src i.target m).prio.toNat ∧ n ≤ m)) ∧
    (s.best i = none → ∀ m ∈ sourceNumbers, s.deliverable i m = false)

/-- The operations and events of Chorus (08 R297 to R305, R310 to R313, R319 to R325, R331, R849, R850): edges and levels of inputs, claim and
completion at the interface of the initiator, PEND and UNPEND, the doorbells, a configuration word, and the timer.
Where the spec leaves a point open, the model's choice: log 21. -/
def Obligations.ChorusOperations : Prop :=
  let put := fun (s : State) (t n : Nat) (x : Src) => { s with chorus := s.chorus.setSrc t n x }
  let expiry := fun (s u : State) (c : Fin 12) =>
    let part := if s.bar.running then entryPart (s.entryNow c) else 0
    let beat := if s.bar.running then s.bar.beat else 0
    u = { s with cores := u.cores } ∧ (∀ d, d ≠ c → u.core d = s.core d) ∧
    let here : Prop := (s.core c).released = true ∧ (s.core c).level = .monitor
    (¬here → u.core c = { s.core c with bx := some (part, beat) }) ∧
    (here → (u.core c).mstatus.getLsbD 7 = true ∧ bits (u.core c).mbexp 0 9 = (beat ++ part : BitVec 9) ∧
      ((s.core c).mstatus.getLsbD 7 = true → (u.core c).mbexp.getLsbD 9 = true))
  let mine := fun (s : State) (w : Initiator) (kernel : Bool) (i : Iface) => match w, kernel with
    | .voice c, false => i = .monitor c.val
    | .voice c, true => (s.core c).mptag ≠ 0 ∧ i = .kernel c.val (s.core c).mptag.toNat
    | .conductor, false => i = .monitor 12
    | _, _ => False
  let mayWrite := fun (s : State) (w : Initiator) (x : Src) => match w with
    | .voice c => (s.core c).level = .monitor ∧ x.own = false
    | .dma _ => False
    | _ => True
  (∀ (t : Fin 13) (n : BitVec 9), 16 ≤ n.toNat → n ≠ 18 → Occurs (.interruptEdge t n) (fun _ => True) fun s u =>
    let x := s.chorus.src t.val n.toNat
    u = if s.srcPresent t.val n.toNat = true ∧ x.edge = true then put s t.val n.toNat { x with latch := true } else s) ∧
  (∀ (t : Fin 13) (c : Fin 12), t.val = c.val → Occurs (.interruptEdge t 18) (fun s => s.hasCore c = true) fun s u => expiry s u c) ∧
  (∀ (t : Fin 13) (n : BitVec 9) (level : Bool), Occurs (.levelInputChange t n level) (fun _ => True) fun s u =>
    let x := s.chorus.src t.val n.toNat
    u = if s.srcPresent t.val n.toNat = true ∧ x.edge = false then put s t.val n.toNat { x with input := level } else s) ∧
  (∀ (t : Fin 13) (n : BitVec 9) (level : Bool) (s : State), s.on = false → s.pwr.state = .fermata →
    let x := s.chorus.src t.val n.toNat
    exec (.levelInputChange t n level) s = .next (if s.srcPresent t.val n.toNat = true ∧ x.edge = false
      then put s t.val n.toNat { x with input := level } else s)) ∧
  (∀ (w : Initiator) (kernel : Bool), Accesses (.claimIrq w kernel) w (fun _ => True) fun s u =>
    ((∀ i, ¬mine s w kernel i) → u = s) ∧
    ∀ i, mine s w kernel i → (s.best i = none → u = s) ∧
      ∀ n p, s.best i = some (n, p) →
        u = put s i.target n { s.chorus.src i.target n with active := some i, latch := false }) ∧
  (∀ (w : Initiator) (kernel : Bool) (v : Word), Accesses (.completeIrq w kernel v) w (fun _ => True) fun s u =>
    ((∀ i, ¬mine s w kernel i) → u = s) ∧
    ∀ i, mine s w kernel i →
      let n := (bits v 0 9).toNat
      let x := s.chorus.src i.target n
      let its : Prop := x.active = some i ∨ ∃ c p, x.active = some (.kernel c p) ∧ i = .monitor c
      (its → u = put s i.target n { x with active := none }) ∧ (¬its → u = { s with chorus := { s.chorus with badComp := true } })) ∧
  (∀ (w : Initiator) (t : Fin 13) (n : BitVec 9), n ≠ 18 →
    let ok := fun (s : State) => let x := s.chorus.src t.val n.toNat
      s.srcPresent t.val n.toNat = true ∧ mayWrite s w x ∧ s.srcRefused x = false ∧ (n = 17 → x.mode = false)
    Accesses (.pendIrq w t n) w ok (fun s u => let x := s.chorus.src t.val n.toNat
      u = put s t.val n.toNat { x with latch := x.latch || x.edge }) ∧
    Accesses (.unpendIrq w t n) w ok (fun s u => let x := s.chorus.src t.val n.toNat
      u = put s t.val n.toNat { x with latch := x.latch && !x.edge }) ∧
    Accesses (.pendIrq w t n) w (fun s => ¬mayWrite s w (s.chorus.src t.val n.toNat)) (fun s u => u = s)) ∧
  (∀ (w : Initiator) (c : Fin 12), Accesses (.beatexpPend w c) w
    (fun s => s.hasCore c = true ∧ mayWrite s w (s.chorus.src c.val 18)) fun s u => expiry s u c) ∧
  (∀ (w : Initiator) (v : Word), Accesses (.chSwdb w v) w (fun s => mayWrite s w (sharedReset 0)) fun s u =>
    u = { s with chorus := u.chorus } ∧ ∀ n < 16, let x := s.chorus.src 0 n
      u.chorus.src 0 n = { x with latch := x.latch || (v.getLsbD n && x.edge) }) ∧
  (∀ (w : Initiator) (t : Fin 13) (n : BitVec 9) (v : Word), n ≠ 18 → Accesses (.srcCfgWrite w t n v) w
    (fun s => s.srcPresent t.val n.toNat = true ∧ mayWrite s w (s.chorus.src t.val n.toNat)) fun s u =>
    let x := s.chorus.src t.val n.toNat
    let target : BitVec 4 := if 16 ≤ n.toNat ∧ n.toNat ≤ 47 then x.target else bits v 6 4
    let mode := v.getLsbD 10 && !(n = 17 && decide (t.val < 12))
    let refused : Prop := 12 < target.toNat ∨ (target.toNat < 12 ∧ s.hasCore target.toNat = false) ∨
      (mode = true ∧ (bits v 11 4 = 0 ∨ target = 12))
    (refused → u = { s with chorus := { s.chorus with cfgReject := true } }) ∧
    (¬refused → ∃ y : Src, u = put s t.val n.toNat y ∧ y.prio = bits v 0 5 ∧ y.en = v.getLsbD 5 ∧ y.target = target ∧
      y.mode = mode ∧ y.part = bits v 11 4 ∧ y.active = x.active ∧ y.input = x.input ∧
      y.edge = (if 112 ≤ n.toNat ∧ n.toNat ≤ 175 then v.getLsbD 15 else x.edge) ∧ y.own = if w = .conductor then v.getLsbD 20 else x.own)) ∧
  (∀ (w : Initiator) (v : Word), Accesses (.coreTmrWrite w v) w (fun _ => True) fun s u =>
    ((∀ i, ¬mine s w false i) → u = s) ∧
    ∀ i, mine s w false i →
      let timer := if v = 0 then Tbl.del s.chorus.timer i.target else Tbl.put s.chorus.timer i.target (s.tempo.count + v.toNat * 1000, false)
      u = { s with chorus := { s.chorus with timer } }) ∧
  (∀ (t : Fin 13) (e : Nat), Occurs (.coreTimerExpiry t) (fun s => Tbl.find s.chorus.timer t.val = some (e, false)) fun s u =>
    u = { s.until e with chorus := { (s.until e).chorus with timer := Tbl.put (s.until e).chorus.timer t.val (e, true) } })

/-! The Bar unit. -/

/-- The boundaries (02 R18, R23, R27, R31, R34, R50, R52, R58, R59): a bar ends at its length from its start, stretch included; while RUN is
1 the next one starts there with the next count and beat 0, and otherwise bars stop; either way no staging stays armed and the lag of the
boundary is reported in units of 10 ns. A beat within a bar ends at its length. The
first bar starts where RUN placed it. Cores held by BARWAIT go on. Where the spec leaves a point open, the model's choice: log 27. -/
def Obligations.BarBoundaries : Prop :=
  let goes := fun (t : State) => ∀ c : Fin 12, (t.core c).barHold = false
  Occurs .barBoundary (fun s => s.bar.running = true ∧ s.bar.cfg.beats.toNat ≤ s.bar.beat.toNat + 1) (fun s t =>
    t.tempo.count = max s.tempo.count (s.bar.barStart + s.bar.cfg.period.toNat * 10 + s.bar.stretch) ∧ t.bar.beat = 0 ∧ goes t ∧
    t.bar.run = s.bar.run ∧ t.bar.garm = false ∧ (∀ c : Fin 12, s.hasCore c = true → (t.cbar c).arm = false) ∧
    (t.bar.cfg.align = true → 0 < t.bar.cfg.period.toNat → t.bar.lag.toNat =
      (((t.bar.cfg.offset.toNat * 10 : Nat) - t.tempo.time) % ((t.bar.cfg.period.toNat * 10 : Nat) : Int)).toNat / 10) ∧
    (t.bar.cfg.align = false → t.bar.lag = 0) ∧
    (s.bar.run = true → t.bar.running = true ∧ t.bar.cnt = s.bar.nextCnt ∧ t.bar.nextCnt = s.bar.nextCnt + 1 ∧
      t.bar.barStart = t.tempo.count ∧ t.bar.beatStart = t.tempo.count) ∧
    (s.bar.run = false → t.bar.running = false ∧ t.bar.cnt = s.bar.cnt ∧ t.bar.nextCnt = s.bar.cnt + 1)) ∧
  Occurs .beatBoundary (fun s => s.bar.running = true ∧ s.bar.beat.toNat + 1 < s.bar.cfg.beats.toNat) (fun s t =>
    t.tempo.count = max s.tempo.count (s.bar.barStart + (s.bar.beat.toNat + 1) * (s.bar.cfg.period.toNat * 10 / s.bar.cfg.beats.toNat)) ∧
    t.bar.beat = s.bar.beat + 1 ∧ t.bar.beatStart = t.tempo.count ∧ t.bar.running = true ∧ t.bar.run = s.bar.run ∧
    t.bar.cnt = s.bar.cnt ∧ t.bar.barStart = s.bar.barStart ∧ t.bar.cfg = s.bar.cfg ∧ goes t) ∧
  Occurs .firstBarStart (fun s => s.bar.firstAt.isSome = true ∧ s.bar.run = true ∧ s.bar.running = false) (fun s t =>
    t.tempo.count = max s.tempo.count (s.bar.firstAt.getD 0) ∧ t.bar.running = true ∧ t.bar.firstAt = none ∧ t.bar.beat = 0 ∧
    t.bar.cnt = s.bar.nextCnt ∧ t.bar.nextCnt = s.bar.nextCnt + 1 ∧ t.bar.barStart = t.tempo.count ∧ goes t)

/-- The end of a slot on a core (02 R37 to R42): a PLAY slot whose partition was entered and did not set DONE overruns, which counts
in OVR_CNT of the partition, saturating, is noted in LAST_OVR and raises a beat-expiry; one whose partition was never entered
counts in SLOT_MISS; every other slot ends without effect. -/
def Obligations.SlotsEnd : Prop :=
  ∀ (s : State) (c : Fin 12),
    let e := s.entryNow c
    let p := bits e 2 4
    let t := s.slotEnd c
    let play : Prop := bits e 0 2 = 1
    (¬play ∨ ((s.cbar c).entered = true ∧ (s.cbar c).done = true) → t = s) ∧
    (play → (s.cbar c).entered = false → t = { s with bar := t.bar } ∧
      (t.cbar c).slotMiss = (if (s.cbar c).slotMiss = 0xFFFFFF then 0xFFFFFF else (s.cbar c).slotMiss + 1) ∧ t.bar.ovr = s.bar.ovr) ∧
    (play → (s.cbar c).entered = true → (s.cbar c).done = false →
      t = { s with bar := t.bar, cores := t.cores, trace := t.trace, chorus := t.chorus } ∧
      t.bar.ovr = s.bar.ovr.set p.toFin (if s.bar.ovr[p.toFin] = 0xFFFFFF then 0xFFFFFF else s.bar.ovr[p.toFin] + 1) ∧
      (t.cbar c).lastOvr = (0#15 ++ s.bar.beat ++ p : BitVec 24) ∧
      (¬((s.core c).released = true ∧ (s.core c).level = .monitor) → (t.core c).bx = some (p, s.bar.beat)) ∧
      ((s.core c).released = true ∧ (s.core c).level = .monitor → (t.core c).mstatus.getLsbD 7 = true) ∧
      ∀ d, d ≠ c → t.core d = s.core d)

/-- Adoption at a bar boundary (02 R21, R22, R26 to R28, R43, R49, R53, R54): armed staging that satisfies every condition becomes the
running configuration, other armed staging is rejected, and neither stays armed. Where the spec leaves a point open, the model's choice: log 27. -/
def Obligations.ArmedStagingIsJudged : Prop :=
  (∀ (s : State) (c : Fin 12), (s.cbar c).arm = true →
    let t := s.adoptTable c
    let legal : Prop := ∀ k < s.bar.cfg.beats.toNat, let e := tableEntry (s.cbar c).bst k
      (bits e 0 2 = 1 ∨ bits e 0 2 = 2) → bits e 2 4 ≠ 0
    (t.cbar c).arm = false ∧ t = { s with bar := { s.bar with cores := t.bar.cores } } ∧
    (legal → (t.cbar c).btc = (s.cbar c).bst ∧ (t.cbar c).reject = (s.cbar c).reject) ∧
    (¬legal → (t.cbar c).btc = (s.cbar c).btc ∧ (t.cbar c).reject = true)) ∧
  (∀ s : State, s.bar.garm = true → (∀ c ∈ s.rings.active, c.op ≠ 0x20) →
    let t := s.adoptConfig
    let g := s.bar.staged
    let p := g.period.toNat
    let b := g.beats.toNat
    let legal : Prop := 24000 ≤ p ∧ p ≤ 2400000 ∧ 8 ≤ b ∧ b ≤ 24 ∧ p % b = 0 ∧
      longestRun g.refq b (2 * b) 0 0 0 * (p / b) ≤ 6000 ∧ (g.align = true → 100000000 % p = 0 ∧ g.offset.toNat < p)
    t.bar.garm = false ∧ t = { s with bar := t.bar } ∧
    (legal → t.bar.cfg = s.bar.staged ∧ t.bar.cfgReject = s.bar.cfgReject) ∧
    (¬legal → t.bar.cfg = s.bar.cfg ∧ t.bar.cfgReject = true))

/-- The writes of the Bar window that have rows of their own (02 R27, R29, R42, R53, R55, R58, R840, R841).
Where the spec leaves a point open, the model's choice: log 27. -/
def Obligations.BarWindowWrites : Prop :=
  ∀ (w : Initiator) (c : Fin 12) (n : Fin 6) (v : Word),
    let shut := fun (s : State) => s.bar.lock = true ∧ w ≠ .conductor
    Accesses (.runSet w) w (fun _ => True) (fun s t =>
      (shut s ∨ s.bar.run = true → t = s) ∧
      (¬shut s → s.bar.run = false → t.bar.run = true ∧ t.bar.running = s.bar.running ∧ t.tempo = s.tempo ∧
        (s.bar.running = true → t.bar = { s.bar with run := true, resumeDue := false }) ∧
        (s.bar.running = false → ∃ at_, t.bar.firstAt = some at_ ∧ s.tempo.count + 1000 ≤ at_ ∧
          (t.bar.cfg.align = false → at_ = s.tempo.count + 1000) ∧
          (t.bar.cfg.align = true → 0 < t.bar.cfg.period.toNat → at_ < s.tempo.count + 1000 + t.bar.cfg.period.toNat * 10 ∧
            ((at_ : Int) + s.tempo.offset - t.bar.cfg.offset.toNat * 10) % (t.bar.cfg.period.toNat * 10 : Nat) = 0)))) ∧
    Accesses (.runClear w) w (fun _ => True) (fun s t =>
      (shut s ∨ s.bar.run = false → t = s) ∧
      (¬shut s → s.bar.run = true → t.bar.run = false ∧ t.bar.running = s.bar.running ∧ t.bar.cnt = s.bar.cnt ∧
        (s.bar.running = false → t.bar.firstAt = none ∧ ∀ d : Fin 12, (t.core d).barHold = false))) ∧
    Accesses (.garm w) w (fun _ => True) (fun s t => t = { s with bar := { s.bar with garm := true } }) ∧
    Accesses (.arm w c v) w (fun _ => True) (fun s t =>
      t = if s.hasCore c then s.modCbar c fun x => { x with arm := x.arm || v.getLsbD 0, bwmode := v.getLsbD 1 } else s) ∧
    Accesses (.stagingWrite w c n v) w (fun _ => True) (fun s t =>
      (s.hasCore c = false → t = s) ∧
      (s.hasCore c = true → (s.cbar c).arm = true → t = s.modCbar c fun x => { x with stgIgn := true }) ∧
      (s.hasCore c = true → (s.cbar c).arm = false → t = s.modCbar c fun x => { x with bst := x.bst.set n v })) ∧
    Accesses (.ovrClr w v) w (fun _ => True) (fun s t => t = { s with bar := { s.bar with ovr := t.bar.ovr } } ∧
      ∀ p : Fin 16, t.bar.ovr[p] = if p ≠ 0 ∧ v.getLsbD p.val = true then 0 else s.bar.ovr[p])

/-! The memory controller, Echo and the caches. -/

/-- The memory controller (09 R348, R350 to R355, R357, R358, R376, R380, R856, Table 9.10; 02 R44): initialisation, from whose end refresh
of each rank and scrub run at their periods, rank 1 half a tREFI after rank 0; refresh inside and outside a refresh-quiet window, where the
eighth postponed one ends the window at once; patrol scrub, and reservations, of which the landing engine has 12 while the link is active
(13 R553). Where the spec leaves a point open, the model's choice: log 22, log 26. -/
def Obligations.MemoryController : Prop :=
  (∀ w : Initiator, Accesses (.mcInit w) w (fun _ => True) fun s t => t =
    if w ≠ .conductor ∨ s.mc.init = true ∨ s.mc.ready = true then s
    else if s.mc.speed = 7 ∨ s.mc.density = 3 then { s with mc := { s.mc with trainFail := true } }
    else { s with mc := { s.mc with init := true } }) ∧
  Occurs (.initialisationEnd .trainFail) (fun s => s.mc.init = true)
    (fun s t => t = { s with mc := { s.mc with init := false, trainFail := true } }) ∧
  Occurs (.initialisationEnd .ready) (fun s => s.mc.init = true) (fun s t =>
    let refi := if s.mc.ref2x then 3900 else 7800
    t = { s with
      mc := { s.mc with init := false, ready := true, scrubPos := 0, scrubAt := t.mc.scrubAt, refreshAt := t.mc.refreshAt
                        postponed := Vector.replicate 2 0 }
      dram := [], chk := [], duet := t.duet } ∧
    t.mc.refreshAt[0] = s.tempo.count + refi ∧ t.mc.refreshAt[1] = s.tempo.count + refi + refi / 2 ∧
    t.mc.scrubAt = s.tempo.count + max 1 (min 168 s.mc.scrubPeriod.toNat) * 3600000000000 / s.mc.bursts ∧
    (s.duet.en = false → t.duet = s.duet)) ∧
  (∀ r : Fin 2,
    let broken := fun (m : MemCtl) => { m with
      quietOver := true, refqBrk := true, refqBrkCnt := if m.refqBrkCnt = 0xFFFFFF then m.refqBrkCnt else m.refqBrkCnt + 1
      postponed := Vector.replicate 2 0 }
    Occurs (.refresh r) (fun s => s.hasRank r = true) (fun s t =>
      let e := s.until s.mc.refreshAt[r]
      let m := { e.mc with refreshAt := e.mc.refreshAt.set r (e.mc.refreshAt[r] + if e.mc.ref2x then 3900 else 7800) }
      (s.quiet = false → t = { e with mc := { m with ahead := m.ahead.set r false } }) ∧
      (s.quiet = true → s.mc.postponed[r] < 7 →
        t = { e with mc := { m with postponed := m.postponed.set r (m.postponed[r] + 1) } }) ∧
      (s.quiet = true → 7 ≤ s.mc.postponed[r] → t = { e with mc := broken m })) ∧
    Occurs (.refqBreak r) (fun s => s.hasRank r = true) (fun s t =>
      (s.quiet = false → t = s) ∧
      (s.quiet = true → t.mc.quietOver = true ∧ t.mc.refqBrk = true ∧ t.mc.refqBrkCnt = (broken s.mc).refqBrkCnt ∧
        t.mc.postponed = Vector.replicate 2 0 ∧ t.bar = s.bar ∧ t.dram = s.dram ∧ s.tempo.count ≤ t.tempo.count))) ∧
  Occurs (.patrolScrub []) (fun s => s.mc.ready = true ∧ s.mc.selfref = false ∧ s.mc.scrubEn = true) (fun s t =>
    let e := s.until s.mc.scrubAt
    t.mc.scrubPos = (s.mc.scrubPos + 1) % s.mc.bursts ∧ t = { e with mc := t.mc, dram := t.dram, chk := t.chk, health := t.health } ∧
    t.mc.scrubAt = s.mc.scrubAt + max 1 (min 168 s.mc.scrubPeriod.toNat) * 3600000000000 / s.mc.bursts ∧
    ((∀ b < 8, Tbl.get s.chk (8 * (178956970 + s.mc.scrubPos) + b) 0 = 0) →
      t = { e with mc := { e.mc with scrubPos := t.mc.scrubPos, scrubAt := t.mc.scrubAt } })) ∧
  (∀ (w : Initiator) (v : Word), Accesses (.mcResvWrite w v) w (fun _ => True) fun s t =>
    let stream := bits v 0 4
    let dma := bits v 4 4
    let land_ := if s.duet.en = true ∧ s.duet.state ≠ .off ∧ s.duet.state ≠ .fatal then 12 else 0
    t = if w ≠ .conductor then s
      else if 12 < stream.toNat ∨ 8 < dma.toNat ∨ 32 < land_ + stream.toNat + dma.toNat then { s with mc := { s.mc with resvRej := true } }
      else { s with mc := { s.mc with resvStream := stream, resvDma := dma } })

/-- Error correction (09 R341 to R347, R349): any one flipped bit of a beat is corrected by the next read of the beat, which leaves
DRAM and its check bits as they were before the flip and reports a correctable error; any two flipped bits are reported as
uncorrectable and the beat is delivered poisoned. -/
def Obligations.DramErrors : Prop :=
  ∀ (s : State) (a : Nat) (rk : RdKind), s.inDram a = true → Memory.wf ramDefault s.dram = true →
    let line := a / 24
    let beat := a % 24 / 3
    Tbl.find s.chk (8 * line + beat) = none →
    (∀ i < 80,
      let r := (s.upsetDram a (bitAt 80 i)).readBeat rk line beat
      r.2 = false ∧ r.1.dram = s.dram ∧ r.1.chk = s.chk ∧ r.1.mc.ce = true ∧ r.1.mc.ue = s.mc.ue ∧
        r.1.mc.ceCnt = if s.mc.ceCnt = 0xFFFFFF then s.mc.ceCnt else s.mc.ceCnt + 1) ∧
    (∀ i < 80, ∀ j < 80, i ≠ j →
      let r := (s.upsetDram a (bitAt 80 i ||| bitAt 80 j)).readBeat rk line beat
      r.2 = true ∧ r.1.mc.ue = true ∧ r.1.mc.ce = s.mc.ce)

/-- Echo and the caches (06 R202, R205, R227 to R232, R844; 09 R360, R361, R370, R374, R376, R859, R861): dirty tracking starts with every
protected page marked and ends with everything discarded and no write stalled; way maps; evictions.
Where the spec leaves a point open, the model's choice: log 9, log 26. -/
def Obligations.EchoAndCaches : Prop :=
  (∀ w : Initiator,
    let its := fun (s : State) => w = .conductor ∧ s.die.variant.duet = true
    Accesses (.trackEnSet w) w (fun _ => True) (fun s t => (¬its s ∨ s.echo.track = true → t = s) ∧
      (its s → s.echo.track = false → s.trackRefused = true → t = { s with echo := { s.echo with cfgRej := true } }) ∧
      (its s → s.echo.track = false → s.trackRefused = false → t = { s with echo := { s.echo with track := true, live := s.echo.allPages } })) ∧
    Accesses (.trackEnClear w) w (fun _ => True) (fun s t => (¬its s → t = s) ∧
      (its s → t.echo.track = false ∧ t.echo.live = [] ∧ t.echo.frozen = [] ∧ t.echo.lines = [] ∧ t.echo.stalled = [] ∧
        t.refrain.stream = none) ∧
      (its s → s.refrain.stream = none → s.echo.stalled = [] →
        t = { s with echo := { s.echo with track := false, live := [], frozen := [], lines := [] } })) ∧
    ∀ v, Accesses (.echoHiwatWrite w v) w (fun _ => True) (fun s t => (¬its s → t = s) ∧
      (its s → t = { s with echo := { s.echo with hiwat := BitVec.ofNat 24 s.echo.lines.length } }))) ∧
  Occurs .stallEnd (fun s => s.die.variant.duet = true ∧ s.refrain.stream = none) (fun s t => t.echo.stalled = [] ∧
    (s.echo.stalled = [] → t = s) ∧
    ∀ x, s.echo.stalled = [x] → (∀ y ∈ x.ws, inStage y.addr = false ∧ y.lanes ≠ 0) → (x.wb = true ∨ s.caches.find x.line = none) →
      t.dram = ({ s with echo := { s.echo with stalled := [] } }.writeDram x.line x.ws).dram) ∧
  (∀ (w : Initiator) (sec : Fin 3) (v : Word), Accesses (.wayMapWrite w (.l2ways sec) v) w (fun _ => True) fun s t =>
    let u := v &&& 0x03FFFF
    let wrong : Prop := 8 < popcount (bits u 0 9) ∨ bits u 0 9 &&& ~~~(bits u 9 9) = 0
    (w ≠ .conductor ∨ s.die.variant.sections ≤ sec.val → t = s) ∧
    (w = .conductor → sec.val < s.die.variant.sections → wrong → t = { s with caches := { s.caches with reject := true } }) ∧
    (w = .conductor → sec.val < s.die.variant.sections → ¬wrong → t.caches.l2ways = s.caches.l2ways.set sec u ∧
      t.caches.l3en = s.caches.l3en ∧ t.caches.l3iso = s.caches.l3iso ∧ t.caches.reject = s.caches.reject)) ∧
  (∀ (w : Initiator) (n : Fin 4) (v : Word), let u := v &&& 0x01FFFF
    Accesses (.wayMapWrite w (.l3en n) v) w (fun s => w = .conductor ∧ n.val < s.die.variant.slices) (fun s t =>
      let wrong : Prop := 16 < popcount u ∨ u &&& ~~~s.caches.l3iso[n] = 0
      (wrong → t = { s with caches := { s.caches with reject := true } }) ∧
      (¬wrong → t.caches.l3en = s.caches.l3en.set n u ∧ t.caches.l3iso = s.caches.l3iso ∧ t.caches.l2ways = s.caches.l2ways)) ∧
    Accesses (.wayMapWrite w (.l3iso n) v) w (fun s => w = .conductor ∧ n.val < s.die.variant.slices) (fun s t =>
      let wrong : Prop := s.caches.l3en[n] &&& ~~~u = 0
      (wrong → t = { s with caches := { s.caches with reject := true } }) ∧
      (¬wrong → t.caches.l3iso = s.caches.l3iso.set n u ∧ t.caches.l3en = s.caches.l3en ∧ t.caches.l2ways = s.caches.l2ways))) ∧
  Occurs .wayOperationEnd (fun _ => True) (fun s t => (s.caches.ops = [] → t = s) ∧
    ∀ o rest, s.caches.ops = o :: rest →
      (match o with
       | .flushL2 n w => s.wayLines2 (secOf n) w = []
       | .flushL3 n w => s.wayLines3 (sliceNo n) w = []
       | _ => True) → t = { s with caches := { s.caches with ops := rest } }) ∧
  (∀ (site : CacheSite) (line : Nat), Occurs (.writeBack site line []) (fun _ => True) fun s t =>
    (s.siteHolds site line = false → t = s) ∧
    (s.siteHolds site line = true → (s.refrain.stream = none ∨ ∃ c, site = .l1d c ∨ site = .l1i c) → t.siteHolds site line = false))

/-! Rings and pools. -/

/-- Doorbells and the service of rings (10 R397, R399, R401 to R403, R406, R409, R442): who may ring which ring; a doorbell is cleared,
the counts of the ring are checked, and the packet in front is taken where no ring before it in the order of service has one to take or a
doorbell to serve.
Where the spec leaves a point open, the model's choice: log 13, log 28. -/
def Obligations.DoorbellsAreServed : Prop :=
  (∀ (w : Initiator) (v : Word), Accesses (.dbRing w v) w (fun _ => True) fun s t =>
    let ring := fun (p : BitVec 4) => { s with rings := { s.rings with dbPend := setBit s.rings.dbPend p.toNat true } }
    match w with
    | .voice c => t = if (s.core c).level = .monitor then ring (bits v 0 4) else if (s.core c).mptag = 0 then s else ring (s.core c).mptag
    | .conductor | .debug => t = ring (bits v 0 4)
    | _ => t = s) ∧
  (∀ (w : Initiator) (v : Word), Accesses (.dbDebug w v) w (fun _ => True) fun s t =>
    t = if w = .debug ∧ v.getLsbD 0 = true then { s with rings := { s.rings with dbDebug := true } } else s) ∧
  (∀ s : State, s.rings.last.toNat < 15 → s.serviceOrder.take 3 = [16, 17, BitVec.ofNat 5 (s.rings.last.toNat + 1)]) ∧
  (∀ r : BitVec 5, r.toNat < 18 →
    let ready := fun (s : State) => s.serving = true ∧ s.rung r = true ∧ s.ringState r = 1 ∧ ringBit s.rings.stopped r = false ∧
      Memory.wf ramDefault s.stage = true ∧ ∀ p ∈ s.rings.held, p.1 ≠ r
    Occurs (.doorbellCheck r) (fun s => ready s ∧ s.ringLimits r = true ∧ s.reqProd r = s.reqCons r) (fun s t =>
      t = (s.unring r).learn r ∧ t.rung r = false ∧ t = { s with rings := t.rings } ∧ t.rings.active = s.rings.active) ∧
    Occurs (.doorbellCheck r) (fun s => ready s ∧ s.ringLimits r = false) (fun s t =>
      t.ringState r = 2 ∧ t.ringWord r 5 = s.reqCons r ∧ ringBit t.rings.stopped r = true ∧ t.rung r = false ∧
      t = { s with stage := t.stage, stageBad := t.stageBad, rings := t.rings }) ∧
    Occurs (.doorbellCheck r) (fun s => ready s ∧ s.ringLimits r = true ∧
        ∀ q ∈ s.serviceOrder.takeWhile (fun x => x ≠ r), ((s.unring r).learn r).bell q = false ∧
          ((s.unring r).learn r).startable q = false) (fun s t =>
      t = ((s.unring r).learn r).startHead lookOp r) ∧
    Occurs (.waitingCommandStart r) (fun s => s.serving = true ∧ (∀ p ∈ s.rings.held, p.1 ≠ r) ∧
        ∀ q ∈ s.serviceOrder.takeWhile (fun x => x ≠ r), s.bell q = false ∧ s.startable q = false) (fun s t => t = s.startHead lookOp r) ∧
    Occurs (.waitingCommandStart r) (fun s => s.serving = true ∧ (∀ p ∈ s.rings.held, p.1 ≠ r) ∧
        ∃ q ∈ s.serviceOrder.takeWhile (fun x => x ≠ r), s.bell q = true ∨ s.startable q = true) (fun s t => t = s))

/-- The long commands whose work the Conductor does itself end with their final replies, which remove them from the outstanding
commands (10 R390; 11 R479 to R485; 16 R684). Where the spec leaves a point open, the model's choice: log 28, log 29. -/
def Obligations.LongCommandsEnd : Prop :=
  ∀ (ring : BitVec 5) (tag : Word) (e : FinalEnv) (c : Cmd),
    let found := fun (op : BitVec 8) (s : State) => s.cdrRuns = true ∧ c.op = op ∧
      s.rings.active.find? (fun x => x.ring = ring && x.tag = tag) = some c
    let ends := fun (op : BitVec 8) (ok : State → Prop) (st : Status) (res : State → List Word) (effect : State → State) =>
      Occurs (.longCommandFinal ring tag e) (fun s => found op s ∧ ok s) fun s t => t = (effect s).finish c st (res s)
    (∀ (s : State) (st : Status) (res : List Word), s.cdr.run ≠ .halted →
      s.finish c st res = ({ s with rings := { s.rings with active := s.rings.active.filter fun a => !(a.ring = c.ring && a.seq = c.seq) } }
        ).reply c.ring st true c.tag c.seq res) ∧
    ends 0x82 (fun _ => True) .ok (fun s => [(s.imageReason (s.slotCheck (param c.params 0 = 1) e.readErr)).setWidth 24,
      satNat 24 ((s.tempo.count - c.startAt) / 1000)]) id ∧
    ends 0x83 (fun s => s.imageReason (s.slotCheck false e.readErr) ≠ 0) .verifyFailed (fun _ => []) id ∧
    ends 0x83 (fun s => s.imageReason (s.slotCheck false e.readErr) = 0) .ok (fun _ => [])
      (fun s => (s.writeRecord fun r => r.set 2 2).floorFollows) ∧
    ends 0x84 (fun _ => e.readErr = true) .verifyFailed (fun _ => []) id ∧
    ends 0x84 (fun _ => e.readErr = false) .ok (fun _ => []) State.rescored ∧
    ends 0x81 (fun _ => param c.params 4 = 0) .ok (fun _ => []) id ∧
    ends 0x81 (fun _ => param c.params 4 ≠ 0 ∧ e.readErr = true) .verifyFailed (fun _ => [])
      (fun s => (s.cdrWords (bits (pair (param c.params 3) (param c.params 2)) 2 36).toNat (param c.params 4).toNat).1) ∧
    ends 0x70 (fun _ => e.readErr = true) .verifyFailed (fun _ => [])
      (fun s => (s.cdrWords (bits (pair (param c.params 1) (param c.params 0)) 2 36).toNat 80).1)

/-- The pool registers (10 R428 to R433, R439): a read of POOL_ALLOC takes the buffer that has been free longest where the pool admits
the source and, for any but the Conductor, more than two are free; a release adds the buffer at the end, and a handle that is
free already, or not the pool's, only sets its flag. Where the spec leaves a point open, the model's choice: log 28. -/
def Obligations.PoolRegisters : Prop :=
  ∀ (w : Initiator) (p : Fin 32) (v : Word),
    let admits := fun (s : State) => match w with
      | .voice c => (s.core c).level = .monitor ∨ ((s.core c).mptag = (s.pool p).owner ∧ (s.pool p).owner ≠ 0)
      | _ => True
    let set := fun (s : State) (x : Pool) => { s with bm := { s.bm with pools := s.bm.pools.set p x } }
    let index := (bits v 0 19).toNat
    let its := fun (s : State) => admits s ∧ bits v 19 5 = BitVec.ofNat 5 p.val ∧ (s.pool p).en = true ∧ index < (s.pool p).count.toNat
    Accesses (.poolAlloc w p) w (fun _ => True) (fun s t =>
      ((s.pool p).en = false ∨ ¬admits s → t = s) ∧
      ((s.pool p).en = true → admits s →
        let x := s.pool p
        let enough : Prop := if w = .conductor then 1 ≤ x.free.length else 2 < x.free.length
        (¬enough → t = { s with bm := { s.bm with empty := setBit s.bm.empty p.val true } }) ∧
        (enough → t.pool p = { x with free := x.free.tail, low := (t.pool p).low } ∧
          (t.pool p).low.toNat = min x.low.toNat (x.free.length - 1) % 2 ^ 19 ∧
          t = { s with bm := { s.bm with pools := t.bm.pools, lastCore := t.bm.lastCore } } ∧
          (∀ c, w = .voice c → (∀ i, x.free.head? = some i → handleOf p.val i ≠ 0xFFFFFF) → t.bm.lastCore.toNat = c.val) ∧ ∀ q, q ≠ p → t.pool q = s.pool q))) ∧
    Accesses (.poolRelease w p v) w (fun _ => True) (fun s t =>
      (¬its s → t = { s with bm := { s.bm with badFree := true } }) ∧
      (its s → index ∈ (s.pool p).free → t = { s with bm := { s.bm with dblFree := true } }) ∧
      (its s → index ∉ (s.pool p).free → t = set s { s.pool p with free := (s.pool p).free ++ [index] })) ∧
    Accesses (.poolLowmarkWrite w p v) w (fun _ => True) (fun s t =>
      t = if w = .conductor then set s { s.pool p with low := BitVec.ofNat 19 (s.pool p).free.length } else s)

/-! Duet, Rehearsal, trace, slot and pool commands. -/

/-- The Duet group (10 R390, R410, R419; 13 R557, R564, R571, R578, section 13.8; 14 R589, R593 to R597, R611, R617, R620): status,
training, timing, roles, the Refrain configuration, REFRAIN_EN, and a command for the partner, which becomes an outstanding
transaction, or waits while 64 are outstanding. A long command that ends at once answers ACCEPTED first, whatever its status.
Where the spec leaves a point open, the model's choice: log 31, log 32. -/
def Obligations.DuetCommands : Prop :=
  ∀ (h : Header) (width speed hold baton : Word) (inner : List Word) (kk base mw r x0 x1 : Word) (rgns : List (Word × Word)),
    let duet := fun (s : State) => s.die.variant.duet = true
    let idle := fun (op : BitVec 8) (s : State) => ∀ c ∈ s.rings.active, c.op ≠ op
    let role := fun (u : State) => (u.refrain.term ++ (0 : BitVec 4) ++ BitVec.ofBool u.mirrors ++ u.refrain.role.code : BitVec 24)
    let op := bits (param inner 0) 16 8
    let query : Bool := op = 0x00 || op = 0x01 || op = 0x07 || op = 0x23 || op = 0x30 || op = 0x40 || op = 0x52 || op = 0x60 || op = 0x80 || op = 0x92
    let whole := 2 ≤ inner.length ∧ (bits (param inner 0) 0 12).toNat = inner.length
    let partner := fun (s : State) => duet s ∧ op ≠ 0x48 ∧ whole
    let clash := fun (s : State) => s.refrain.trained = true ∧ s.refrain.protoOk = false
    let cfg := [kk, base, mw, r, x0, x1] ++ rgns.flatMap fun p => [p.1, p.2]
    let cfgOk := fun (s : State) => duet s ∧ r.toNat = rgns.length ∧ rgns.length ≤ 8 ∧ 1 ≤ kk.toNat ∧ kk.toNat ≤ 64 ∧ mw.toNat < 128 ∧
      ∀ p ∈ rgns, p.2.toNat < 2 ^ 19
    let out := fun (s : State) => s.refrain.role = .none ∨ s.refrain.role = .deposed
    let claim := fun (s : State) => s.bar.run = true ∧ out s ∧ s.refrain.batonLimit ≤ s.refrain.batonAge.toNat ∧
      (s.refrain.partnerSeen = true → s.refrain.barsSinceRole < s.refrain.batonLimit → s.partnerRole ≠ 1 ∧ s.partnerRole ≠ 2)
    Answers (.duetStatus h) 0x40 h [] srcMDG 9 duet .ok (fun u => [role u, (0#20 ++ u.duet.speed ++ u.duet.width : BitVec 24),
      u.duet.partnerEpoch, if u.refrain.role = .active then u.refrain.lastApplied.getD 0xFFFFFF else u.refrain.lastCommit, u.protoWord,
      (0#16 ++ u.refrain.flags : BitVec 24)]) id ∧
    Refuses (.duetStatus h) 0x40 h [] 9 (fun s => srcMDG.allows s h.ring = true ∧ s.die.variant.duet = false) .unitAbsent ∧
    Begins (.linkTrain h width speed) 0x41 h [width ||| (speed <<< 4)] srcM 0
      (fun s => duet s ∧ idle 0x41 s ∧ width.toNat ≤ 2 ∧ speed.toNat ≤ 2 ∧ 2 ^ width.toNat ≤ s.die.variant.lanes)
      (fun _ => 0) (fun u => { u with duet := { u.duet with tgtWidth := bits width 0 2, tgtSpeed := bits speed 0 2 } }.linkTrain) ∧
    Answers (.duetTiming h hold baton) 0x45 h [hold, baton] srcM 3
      (fun s => duet s ∧ 1 ≤ hold.toNat ∧ hold.toNat ≤ 250 ∧ 2 ≤ baton.toNat ∧ baton.toNat ≤ 64) .ok (fun _ => [])
      (fun u => { u with duet := { u.duet with holdMs := bits hold 0 8 }, refrain := { u.refrain with batonTo := bits baton 0 7 } }) ∧
    Begins (.duetRoleHandover h) 0x42 h [0] srcM 0 (fun s => duet s ∧ idle 0x42 s ∧ s.refrain.role = .active ∧ s.partnerRole = 4) (fun _ => 0)
      (fun u => { u with refrain := { u.refrain with handStep := 1 } }) ∧
    AnswersLong (.duetRoleHandover h) 0x42 h [0] srcM 6
      (fun s => duet s ∧ idle 0x42 s ∧ (s.refrain.role ≠ .active ∨ s.partnerRole ≠ 4)) .notPermitted (fun _ => []) id ∧
    Begins (.duetRoleTakeActive h) 0x42 h [1] srcM 0 (fun s => duet s ∧ idle 0x42 s ∧ claim s) (fun _ => 0)
      (fun u => { u with refrain := { u.refrain with takeActive := true } }) ∧
    AnswersLong (.duetRoleTakeActive h) 0x42 h [1] srcM 6 (fun s => duet s ∧ idle 0x42 s ∧ ¬claim s) .notPermitted (fun _ => []) id ∧
    Answers (.refrainCfg h kk base mw r x0 x1 rgns) 0x43 h cfg srcM 3 (fun s => cfgOk s ∧ s.refrain.en = false) .ok (fun _ => []) (fun u =>
      let e := u.echo
      let echo := if e.track then e else { e with
        spillBase := base, spillMw := bits mw 0 7, rgnBase := Vector.ofFn fun n => (rgns.getD n.val (0, 0)).1
        rgnPages := Vector.ofFn fun n => (rgns.getD n.val (0, 0)).2 }
      { u with refrain := { u.refrain with k := bits kk 0 7 }, echo }) ∧
    Refuses (.refrainCfg h kk base mw r x0 x1 rgns) 0x43 h cfg 3
      (fun s => srcM.allows s h.ring = true ∧ cfgOk s ∧ s.refrain.en = true) .notPermitted ∧
    AnswersLong (.refrainEnable h) 0x44 h [1] srcM 6
      (fun s => duet s ∧ idle 0x44 s ∧ s.versionsClash = false ∧ s.refrain.role = .active ∧ (s.echo.track = true ∨ s.trackRefused = false))
      .ok (fun _ => []) (fun u => { u with
        refrain := { u.refrain with en := true }
        echo := if u.echo.track then u.echo else { u.echo with track := true, live := u.echo.allPages } }) ∧
    AnswersLong (.refrainEnable h) 0x44 h [1] srcM 6
      (fun s => duet s ∧ idle 0x44 s ∧ s.versionsClash = false ∧ s.refrain.role = .active ∧ s.echo.track = false ∧
        s.trackRefused = true) .badParam (fun _ => []) (fun u => { u with echo := { u.echo with cfgRej := true } }) ∧
    Begins (.refrainEnable h) 0x44 h [1] srcM 0
      (fun s => duet s ∧ idle 0x44 s ∧ s.versionsClash = false ∧ out s ∧ ¬(s.partnerRole = 1 ∧ s.duet.partnerRole.getLsbD 3 = true)) (fun _ => 0)
      (fun u => { u with refrain := { u.refrain with en := true } }) ∧
    AnswersLong (.refrainEnable h) 0x44 h [1] srcM 6
      (fun s => duet s ∧ idle 0x44 s ∧ s.versionsClash = false ∧ out s ∧ s.partnerRole = 1 ∧ s.duet.partnerRole.getLsbD 3 = true) .ok (fun _ => [])
      (fun u => { u with refrain := { u.refrain with en := true } }.enterSyncing) ∧
    (∀ u, idle 0x44 u → u.enterSyncing.refrain.role = .syncing ∧ u.enterSyncing.echo.track = false ∧ u.enterSyncing.refrain.fence = true ∧
      u.enterSyncing.refrain.activeN = true ∧ u.enterSyncing.refrain.disarmed = false ∧ u.enterSyncing.refrain.en = u.refrain.en) ∧
    AnswersLong (.refrainEnable h) 0x44 h [1] srcM 6
      (fun s => duet s ∧ idle 0x44 s ∧ (s.versionsClash = true ∨ (s.refrain.role ≠ .active ∧ ¬out s))) .notPermitted (fun _ => []) id ∧
    AnswersLong (.refrainDisable h) 0x44 h [0] srcM 6 duet .ok (fun _ => []) State.refrainOff ∧
    (∀ u, u.refrainOff.refrain.en = false ∧ (u.refrain.role.receives = true → u.refrainOff.refrain.role = .none) ∧
      (u.refrain.role = .active ∨ u.refrain.role = .handover → u.refrainOff.echo.track = false ∧ u.refrainOff.refrain.role = u.refrain.role) ∧
      (out u → idle 0x44 u → u.refrainOff = { u with refrain := { u.refrain with en := false } })) ∧
    Begins (.partnerCmd h inner) 0x48 h inner srcM 8 (fun s => partner s ∧ ¬clash s ∧ s.duet.state ≠ .off ∧ s.duet.state ≠ .fatal) (fun _ => 0)
      (fun u => u.sendInner h.ring (u.reqProd h.ring - BitVec.ofNat 24 (2 + inner.length)) query inner) ∧
    (∀ (u : State) (ring : BitVec 5) (seq : Word), u.duet.txns.length < 64 → let t := u.sendInner ring seq query inner
      t = { u with duet := t.duet } ∧ ∃ tag, (∀ x ∈ u.duet.txns, x.tag ≠ tag) ∧
        t.duet.txns = u.duet.txns ++ [{ tag, kind := .command ring seq query, got := 0, rsp := none }] ∧
        (u.duet.session = true → u.duet.cWait = [] → u.duet.c.store.length < 512 →
          t.duet.c.store[u.duet.c.store.length]? = some
            { ch := 1, ft := 0, seq := u.duet.c.next, payload := ([(0#12 ++ tag : BitVec 24), 0, 0] ++ inner).take 22, gate := none })) ∧
    (∀ (u : State) (ring : BitVec 5) (seq : Word), 64 ≤ u.duet.txns.length → u.sendInner ring seq query inner =
      { u with duet := { u.duet with cmdWait := u.duet.cmdWait ++ [{ ring, seq, query, inner }] } }) ∧
    AnswersLong (.partnerCmd h inner) 0x48 h inner srcM 14 (fun s => partner s ∧ ¬clash s ∧ (s.duet.state = .off ∨ s.duet.state = .fatal))
      (if query then .linkLost else .outcomeUnknown) (fun _ => []) id ∧
    Refuses (.partnerCmd h inner) 0x48 h inner 14 (fun s => srcM.allows s h.ring = true ∧ whole ∧ clash s) .notPermitted ∧
    Refuses (.partnerCmd h inner) 0x48 h inner 14 (fun _ => ¬whole) .badLength

/-- Rehearsal, the ledger and trace ownership (15 R637, R638, R644 to R653; 16 R684 to R686, R694): the plan, a slice on demand and its
history; what the ledger holds of a source; repairs; and the certificate and the owner of trace.
Where the spec leaves a point open, the model's choice: log 32, log 33, log 34. -/
def Obligations.HealthAndTraceCommands : Prop :=
  ∀ (h : Header) (sets hours num src window thresh p0 p1 len cfg : Word),
    let n := num.toNat
    let slice := fun (s : State) => sliceKnown n = true ∧ s.slicePresent n = true
    let i := src.toNat
    let source := fun (s : State) => badSource s 0 [src] = false ∧ s.ledgerSource (bits src 0 12) = true
    let idle := fun (op : BitVec 8) (s : State) => ∀ c ∈ s.rings.active, c.op ≠ op
    let part := if h.ring = 0 then bits cfg 20 4 else h.ring.setWidth 4
    let trace := fun (s : State) => s.die.variant.trace = true
    Answers (.rehPlan h sets hours) 0x50 h [sets, hours] srcM 3 (fun _ => sets.toNat < 128 ∧ 1 ≤ hours.toNat ∧ hours.toNat ≤ 168) .ok
      (fun _ => []) (fun u => { u with health := { u.health with
        sets := bits sets 0 7, period := bits hours 0 8, nextNum := 0, cycleTime := 0, lateSet := false } }) ∧
    Refuses (.rehPlan h sets hours) 0x50 h [sets, hours] 3
      (fun s => srcM.allows s h.ring = true ∧ (128 ≤ sets.toNat ∨ hours = 0 ∨ 168 < hours.toNat)) .badParam ∧
    Begins (.rehRun h num) 0x51 h [num] srcMG 2 slice (fun _ => 0) id ∧
    Refuses (.rehRun h num) 0x51 h [num] 8 (fun s => srcMG.allows s h.ring = true ∧ sliceKnown n = true ∧ s.slicePresent n = false)
      .unitAbsent ∧
    Answers (.rehStatus h num) 0x52 h [num] srcMDG 7 slice .ok
      (fun u => let x := Tbl.get u.health.hist n { runs := 0, fails := 0, overruns := 0, last := 0 }; [x.runs, x.fails, x.overruns, x.last]) id ∧
    Answers (.ledgerRead h src) 0x60 h [src] srcMG 9 source .ok (fun u => let x := u.lsrc i
      [BitVec.ofNat 24 x.c, BitVec.ofNat 24 x.window, BitVec.ofNat 24 x.thresh, x.events, BitVec.ofNat 24 x.state.code, x.hour]) id ∧
    AnswersWith (.ledgerCfg h src window thresh) 0x61 h [src, window, thresh] srcMG 3
      (fun s => source s ∧ 1 ≤ window.toNat ∧ window.toNat ≤ 8760 ∧ 1 ≤ thresh.toNat ∧ thresh.toNat ≤ 4095) .ok (fun _ => []) (fun u t =>
      t = { u with health := { u.health with ledger := t.health.ledger, flashLedger := t.health.ledger, flashMirror := u.health.mirror } } ∧
      t.lsrc i = { u.lsrc i with window := window.toNat, thresh := thresh.toNat } ∧ ∀ j, j ≠ i → t.lsrc j = u.lsrc j) ∧
    AnswersWith (.ledgerClear h src) 0x62 h [src] srcG 3 (fun s => source s ∧ (s.lsrc i).state ≠ .repaired) .ok (fun _ => []) (fun u t =>
      t = { u with health := t.health } ∧ t.lsrc i = { u.lsrc i with c := 0, state := .clean, events := 0 } ∧
      (∀ j, j ≠ i → t.lsrc j = u.lsrc j) ∧ t.health.flashLedger = t.health.ledger ∧ t.health.flashMirror = t.health.mirror ∧
      t.health.repairs = u.health.repairs.filter fun x => x ≠ i) ∧
    Refuses (.ledgerClear h src) 0x62 h [src] 3
      (fun s => srcG.allows s h.ring = true ∧ source s ∧ (s.lsrc i).state = .repaired) .notPermitted ∧
    Begins (.repairApply h src) 0x63 h [src, 1] srcMG 0 (fun s => source s ∧ repairKind i ≠ .report ∧ idle 0x63 s)
      (fun u => if u.repairBlocked i then 0 else if (u.repair i).2 then 1 else 2) (fun u => if u.repairBlocked i then u else (u.repair i).1) ∧
    Refuses (.repairApply h src) 0x63 h [src, 1] 6
      (fun s => srcMG.allows s h.ring = true ∧ source s ∧ repairKind i = .report) .notPermitted ∧
    Refuses (.repairApply h src) 0x63 h [src, 1] 6
      (fun s => srcMG.allows s h.ring = true ∧ badSource s 0 [src] = false ∧ s.ledgerSource (bits src 0 12) = false) .unitAbsent ∧
    Begins (.repairUndo h src) 0x63 h [src, 2] srcMG 0
      (fun s => source s ∧ repairKind i ≠ .report ∧ idle 0x63 s ∧ h.ring = 17 ∧ (s.lsrc i).state = .repaired)
      (fun u => if u.repairBlocked i then 0 else 1) (fun u => if u.repairBlocked i then u else (u.undoRepair i).setLState i .lasting) ∧
    AnswersLong (.repairUndo h src) 0x63 h [src, 2] srcMG 6
      (fun s => source s ∧ repairKind i ≠ .report ∧ idle 0x63 s ∧ h.ring = 17 ∧ (s.lsrc i).state ≠ .repaired) .notPermitted (fun _ => []) id ∧
    (∀ u : State, ((u.repair i).1.lsrc i).state = (if (u.repair i).2 then LState.repaired else LState.unrepairable) ∧
      (∀ j, j ≠ i → (u.repair i).1.lsrc j = u.lsrc j) ∧ i ∉ (u.repair i).1.health.repairs ∧
      (((u.undoRepair i).setLState i .lasting).lsrc i).state = .lasting) ∧
    Begins (.traceAuth h p0 p1 len) 0x70 h [p0, p1, len] srcG 0
      (fun s => trace s ∧ idle 0x70 s ∧ len = 240 ∧ srcOk s.inMem p0 p1 80 = true) (fun _ => 0) id ∧
    Answers (.traceRevoke h) 0x71 h [] srcMG 3 trace .ok (fun _ => []) (fun u => { u with boot := { u.boot with parts := 0 } }) ∧
    AnswersWith (.traceOwn h cfg) 0x72 h [cfg] srcMP 3
      (fun s => trace s ∧ (h.ring = 0 → bits cfg 20 4 ≠ 0) ∧ (h.ring ≠ 0 → bits cfg 20 4 = 0 ∨ bits cfg 20 4 = part)) .ok (fun _ => [])
      (fun u t => t = (List.finRange 3).foldl (fun s sec => if s.hasTrace sec then s.writePtCtl sec part (0#17 ++ bits cfg 0 7) else s) u) ∧
    Refuses (.traceOwn h cfg) 0x72 h [cfg] 3
      (fun s => srcMP.allows s h.ring = true ∧ h.ring ≠ 0 ∧ bits cfg 20 4 ≠ 0 ∧ bits cfg 20 4 ≠ part) .notPermitted

/-- The slots, fuses and pools groups and ABORT (10 R412, R413, R421 to R424, R427, R428, R433, R435 to R437; 11 R461, R462, R479 to
R485): which commands begin, which are refused, what a pool command does to a pool, and when an outstanding command, or a packet that
waits under ORDERED, is aborted.
Where the spec leaves a point open, the model's choice: log 28, log 29. -/
def Obligations.SlotPoolAndAbortCommands : Prop :=
  ∀ (h : Header) (slot off p0 p1 len row pool b0 b1 size count owner resv n ring target : Word) (data handles : List Word),
    let idle := fun (s : State) => ∀ c ∈ s.rings.active, c.op.toNat < 0x81 ∨ 0x84 < c.op.toNat
    let clear := fun (op : BitVec 8) (s : State) => ∀ c ∈ s.rings.active, c.op ≠ op
    let same := fun (_ : State) => 0
    let p : Fin 32 := (bits pool 0 5).toFin
    let made := fun (s : State) => pool.toNat < 32 ∧ (s.pool p).en = true
    let base := b0.toNat + b1.toNat * 2 ^ 24
    let rows := data.length
    let abortable := fun (op : BitVec 8) => op = 0x20 ∨ op = 0x51 ∨ op = 0x70 ∨ op = 0x81 ∨ op = 0x82 ∨ op = 0x85
    let into := if ring = 0x1F then h.ring else ring.setWidth 5
    let idleTag := fun (s : State) => ∀ c ∈ s.rings.active, c.ring = into → c.tag ≠ target
    let ringOk := (ring.toNat < 16 ∧ (h.ring = 0 ∨ ring.toNat = h.ring.toNat)) ∨ ring = 0x1F
    Answers (.slotInfo h slot) 0x80 h [slot] srcMG 9 (fun _ => slot.toNat < 2) .ok (fun u => u.slotInfo (slot = 1)) id ∧
    Begins (.slotErase h slot off p0 p1) 0x81 h [slot, off, p0, p1, 0] srcMG 0
      (fun s => slot = 0 ∧ idle s ∧ (s.boot.golden = true ∨ s.boot.xipOff = true)) same
      (fun u => { u with flash := Memory.clearWords u.flash 0x200000 0xE0000 }.writeRecord fun r => r.set 2 1) ∧
    Begins (.slotWrite h slot off p0 p1 len) 0x81 h [slot, off, p0, p1, len] srcMG 0
      (fun s => slot = 0 ∧ idle s ∧ s.wstate = 1 ∧ len ≠ 0 ∧ off.toNat + len.toNat ≤ 0xE0000 ∧ srcOk s.inDram p0 p1 len.toNat = true ∧
        ∀ w ∈ s.flashWords (0x200000 + off.toNat) len.toNat, w = 0xFFFFFF) same id ∧
    Refuses (.slotWrite h slot off p0 p1 len) 0x81 h [slot, off, p0, p1, len] 6
      (fun s => srcMG.allows s h.ring = true ∧ s.rings.active.length < 32 ∧ len ≠ 0 ∧ s.wstate ≠ 1) .notPermitted ∧
    Begins (.slotVerify h slot) 0x82 h [slot] srcMG 2 (fun s => slot.toNat < 2 ∧ idle s) same id ∧
    Begins (.slotCommit h) 0x83 h [] srcMG 0 (fun s => idle s ∧ clear 0x86 s ∧ s.boot.fzBusy = none) same id ∧
    Begins (.rescore h) 0x84 h [] srcMG 0 idle same id ∧
    Begins (.imageSeal h p0 p1 len) 0x85 h [p0, p1, len] srcM 2 (fun s => p1.toNat < 256 ∧ clear 0x85 s) same id ∧
    Begins (.fuseWrite h row data) 0x86 h (row :: data) srcG 0
      (fun s => 1 ≤ rows ∧ rows ≤ 16 ∧ s.boot.perms.getLsbD 2 = true ∧ row.toNat + rows ≤ 256 ∧ (∀ i < rows, s.rowRefused (row.toNat + i) = false) ∧
        s.boot.fzBusy = none ∧ clear 0x86 s ∧ clear 0x83 s) same
      (fun u => { u with boot := { u.boot with fzBusy := some (bits row 0 8, data.getD 0 0) } }) ∧
    Refuses (.fuseWrite h row data) 0x86 h (row :: data) 6 (fun s => srcG.allows s h.ring = true ∧ s.rings.active.length < 32 ∧ 1 ≤ rows ∧ rows ≤ 16 ∧
        s.boot.perms.getLsbD 2 = true ∧ ∃ i < rows, s.rowRefused (row.toNat + i) = true) .badParam ∧
    AnswersWith (.poolCreate h pool b0 b1 size count owner resv) 0x90 h [pool, b0, b1, size, count, owner, resv] srcM 3 (fun s =>
        pool.toNat < 32 ∧ b1.toNat < 4096 ∧ base % 24 = 0 ∧ 1 ≤ size.toNat ∧ size.toNat ≤ 1024 ∧ 3 ≤ count.toNat ∧ count.toNat ≤ 524287 ∧
        owner.toNat < 16 ∧ s.inDram base = true ∧ s.inDram (base + count.toNat * size.toNat * 24 - 1) = true ∧ (s.pool p).en = false ∧
        ∀ q, (s.pool q).en = true → base + count.toNat * size.toNat * 24 ≤ (s.pool q).base.toNat ∨ (s.pool q).endAt ≤ base)
      .ok (fun _ => []) (fun u t => t = { u with bm := { u.bm with pools := t.bm.pools } } ∧ (∀ q, q ≠ p → t.pool q = u.pool q) ∧
        (t.pool p).en = true ∧ (t.pool p).base.toNat = base ∧ (t.pool p).lines = size.toNat ∧ (t.pool p).owner.toNat = owner.toNat ∧
        (t.pool p).count.toNat = count.toNat ∧ (t.pool p).low.toNat = count.toNat ∧ (t.pool p).free = List.range count.toNat) ∧
    AnswersWith (.poolDestroy h pool) 0x91 h [pool] srcM 3 (fun s => made s ∧ (s.pool p).count.toNat ≤ (s.pool p).free.length) .ok (fun _ => [])
      (fun u t => t = u.setPool p { u.pool p with en := false, free := [] }) ∧
    Refuses (.poolDestroy h pool) 0x91 h [pool] 3
      (fun s => srcM.allows s h.ring = true ∧ made s ∧ (s.pool p).free.length < (s.pool p).count.toNat) .busy ∧
    AnswersWith (.poolTake h pool n) 0x93 h [pool, n] srcMDG (3 + n.toNat)
      (fun s => made s ∧ 1 ≤ n.toNat ∧ n.toNat ≤ 8 ∧ n.toNat ≤ (s.pool p).free.length) .ok
      (fun u => ((u.pool p).free.take n.toNat).map (handleOf p.val)) (fun u t =>
        t = { u with bm := { u.bm with pools := t.bm.pools } } ∧ (∀ q, q ≠ p → t.pool q = u.pool q) ∧
        t.pool p = { u.pool p with free := (u.pool p).free.drop n.toNat, low := (t.pool p).low }) ∧
    Answers (.poolTake h pool n) 0x93 h [pool, n] srcMDG (3 + n.toNat)
      (fun s => made s ∧ 1 ≤ n.toNat ∧ n.toNat ≤ 8 ∧ (s.pool p).free.length < n.toNat) .poolEmpty (fun _ => [])
      (fun u => { u with bm := { u.bm with empty := setBit u.bm.empty p.val true } }) ∧
    AnswersWith (.poolGive h pool n resv handles) 0x94 h ([pool, n, resv] ++ handles) srcMDG 3
      (fun s => made s ∧ 1 ≤ n.toNat ∧ n.toNat ≤ 8 ∧ handles.length = n.toNat ∧
        ∀ x ∈ handles, bits x 19 5 = bits pool 0 5 ∧ (bits x 0 19).toNat < (s.pool p).count.toNat) .ok (fun _ => []) (fun u t =>
        (∀ q, q ≠ p → t.pool q = u.pool q) ∧ t = { u with bm := { u.bm with pools := t.bm.pools, dblFree := t.bm.dblFree } } ∧
        ((handles.map handleIndex).Nodup → (∀ x ∈ handles, handleIndex x ∉ (u.pool p).free) →
          t.pool p = { u.pool p with free := (u.pool p).free ++ handles.map handleIndex } ∧ t.bm.dblFree = u.bm.dblFree)) ∧
    (∀ c : Cmd,
      let found := fun (s : State) => ringOk ∧ s.rings.active.find? (fun x => x.ring = into && x.tag = target) = some c
      Answers (.abortCmd h ring target) 0xF0 h [ring, target] srcAll 3 (fun s => found s ∧ c.isCommitted = true) .tooLate (fun _ => []) id ∧
      Answers (.abortCmd h ring target) 0xF0 h [ring, target] srcAll 3 (fun s => found s ∧ c.isCommitted = false ∧ ¬abortable c.op) .notAbortable
        (fun _ => []) id ∧
      Answers (.abortCmd h ring target) 0xF0 h [ring, target] srcAll 3 (fun s => found s ∧ c.isCommitted = false ∧ abortable c.op) .ok (fun _ => [])
        (fun u => (u.undoCmd c).finish c .aborted [])) ∧
    (∀ i : Word,
      let u := fun (s : State) => s.taken 0xF0 h [ring, target]
      let waits := fun (s : State) => ringOk ∧ idleTag s ∧ (u s).waitingPacket into target = some i ∧ (u s).waitsOrdered into i = true
      Answers (.abortCmd h ring target) 0xF0 h [ring, target] srcAll 3 (fun s => waits s ∧ abortable (bits ((u s).reqWord into i) 16 8)) .ok
        (fun _ => []) (fun v => v.abortWaiting into i) ∧
      Answers (.abortCmd h ring target) 0xF0 h [ring, target] srcAll 3 (fun s => waits s ∧ ¬abortable (bits ((u s).reqWord into i) 16 8))
        .notAbortable (fun _ => []) id ∧
      Answers (.abortCmd h ring target) 0xF0 h [ring, target] srcAll 3 (fun s => ringOk ∧ idleTag s ∧
        ∀ j, (u s).waitingPacket into target = some j → (u s).waitsOrdered into j = false) .tooLate (fun _ => []) id ∧
      ∀ v : State, (into, i) ∈ (v.abortWaiting into i).rings.cancelled ∧ (v.abortWaiting into i).rings.active = v.rings.active) ∧
    Refuses (.abortCmd h ring target) 0xF0 h [ring, target] 3
      (fun s => srcAll.allows s h.ring = true ∧ h.ring ≠ 0 ∧ ring.toNat < 16 ∧ ring.toNat ≠ h.ring.toNat) .notPermitted

/-! The Duet link. -/

/-- The link registers and the sending side (13 R540, R543 to R547, R551, R554, R557 to R566, R572, R576, R577, R582, R583, Table 13.6):
EN, TRAIN, LANE_MASK and the landing map; descriptors, flits, each on its lane, and ACKs that leave; what lane faults and the hold
timer do; and the TRAIN flit and the end of a training, which begins a session. Where the spec leaves a point open, the model's choice: log 31. -/
def Obligations.LinkControl : Prop :=
  let retrained := fun (s : State) (d : Duet) => if d.state = .up then { d with
    state := .retrain, retrainCnt := satInc d.retrainCnt, holdEnd := some (s.tempo.count + max 1 (min 250 d.holdMs.toNat) * 1000000)
    info := none, resumeSent := false } else d
  let duet := fun (s : State) => s.die.variant.duet = true
  let link := fun (ft : BitVec 3) (ws : List Word) => ({ ch := 0, ft, seq := 0, payload := ws, gate := none } : Flit)
  (∀ w : Initiator, let its := fun (s : State) => w = .conductor ∧ duet s
    Accesses (.dlEnSet w) w (fun _ => True) (fun s t => (¬its s ∨ s.duet.en = true → t = s) ∧ (its s → s.duet.en = false →
      t = { s with duet := if s.mc.ready && s.duet.state = .off then { s.duet with en := true, state := .training, info := none, resumeSent := false }
        else { s.duet with en := true } })) ∧
    Accesses (.dlEnClear w) w (fun _ => True) (fun s t => (¬its s ∨ s.duet.en = false → t = s) ∧ (its s → s.duet.en = true →
      t.duet.en = false ∧ t.duet.state = (if s.duet.state = .fatal then .fatal else .off) ∧ t.duet.width = 0 ∧ t.duet.speed = 0 ∧ t.duet.lanes = 0 ∧ t.duet.holdEnd = none ∧
      t.duet.session = false ∧
      (s.duet.session = true → t.duet.txns = [] ∧ t.duet.flags.getLsbD 1 = true ∧ t.duet.lastLink = some (link 6 [s.duet.localEpoch])) ∧
      (s.duet.session = false →
        t = { s with duet := { s.duet with en := false, state := if s.duet.state = .fatal then .fatal else .off, width := 0, speed := 0
                                           lanes := 0, holdEnd := none } }))) ∧
    Accesses (.trainWrite w) w (fun _ => True) (fun s t => (¬its s → t = s) ∧ (its s → t.duet.train = true ∧
      (s.duet.state = .up → t = { s with duet := retrained s { s.duet with train := true } }) ∧
      (s.duet.state = .fatal → t.duet.state = (if s.duet.en then .training else .off) ∧ t.duet.localEpoch ≠ 0 ∧ t = { s with duet := t.duet, free := s.free + 1 }) ∧
      (s.duet.state ≠ .up → s.duet.state ≠ .fatal → t = { s with duet := { s.duet with train := true } }))) ∧
    ∀ v, Accesses (.laneMaskWrite w v) w (fun _ => True) (fun s t => (¬its s → t = s) ∧ (its s →
      let m := bits v 0 4
      let d := { s.duet with laneMask := m }
      t = { s with duet := if s.duet.lanes &&& ~~~m = 0 then d else retrained s d }))) ∧
  (∀ (w : Initiator) (n : Fin 16) (v : Word), Accesses (.lmapCtlWrite w n v) w (fun _ => True) fun s t =>
    let its : Prop := s.mayW1c w = true ∧ duet s
    let m := s.duet.lmap[n]
    let a := m.base.toNat
    let k := 24 * m.lines.toNat
    let wrong : Prop := v.getLsbD 0 = true ∧ (k = 0 ∨ s.inDram a = false ∨ s.inDram (a + k - 1) = false ∨
      (∃ i : Fin 8, overlaps a k ((s.echo.region i).1 * 4096) ((s.echo.region i).2 * 4096) = true) ∨
      overlaps a k s.duet.spillBase.toNat (min 16 s.duet.spillMw.toNat * 1048576) = true)
    (¬its → t = s) ∧ (its → wrong → t = { s with duet := { s.duet with flags := setBit s.duet.flags 7 true } }) ∧
    (its → ¬wrong → t = { s with duet := { s.duet with
      lmap := s.duet.lmap.set n { m with valid := v.getLsbD 0, r := v.getLsbD 1, w := v.getLsbD 2 } } })) ∧
  Occurs (.transactionTake []) duet (fun s t =>
    let i := s.duet.dqCons.toNat
    let stalled := s.stalledBy (.dma .duetTx)
    (s.duet.state ≠ .up ∨ s.duet.dqCons = s.duet.dqProd ∨ 64 ≤ s.duet.txns.length ∨ stalled = true → t = s) ∧
    (s.duet.state = .up → s.duet.dqCons ≠ s.duet.dqProd → s.duet.txns.length < 64 → stalled = false →
      s.domainRead (s.duet.descAt i) 5 = none → t = { s with duet := { s.duet with flags := setBit s.duet.flags 7 true } }) ∧
    (s.duet.state = .up → s.duet.dqCons ≠ s.duet.dqProd → s.duet.txns.length < 64 → stalled = false →
      ∀ s1 ws, s.domainRead (s.duet.descAt i) 5 = some (s1, ws) → s1.duet = s.duet → ws.length = 5 → (∀ x ∈ ws, x.2 = false) →
        let g := fun (k : Nat) => (ws.getD k (0, false)).1
        let lines := (bits (g 0) 8 7).toNat
        let irq := (g 0).getLsbD 16
        let addr := (paddrOf (g 2) (g 3)).toNat
        let head := fun (tag : BitVec 12) => [(0#8 ++ bits (g 0) 4 4 ++ tag : BitVec 24), g 1, BitVec.ofNat 24 lines]
        (g 0).getLsbD 17 = false →
        (bits (g 0) 0 4 ≠ 1 → bits (g 0) 0 4 ≠ 2 → t = ({ s1 with duet := { s.duet with dqCons := s.duet.dqCons + 1 } }).descDone i 0x12 irq) ∧
        (bits (g 0) 0 4 = 1 → 1 ≤ lines → lines ≤ 64 → s1.inDram addr = true → s1.inDram (addr + 24 * lines - 1) = true →
          t = { s1 with duet := t.duet } ∧ t.duet.dqCons = s.duet.dqCons + 1 ∧ ∃ tag, (∀ x ∈ s.duet.txns, x.tag ≠ tag) ∧
            t.duet.txns = s.duet.txns ++ [{ tag, kind := .read i addr lines irq, got := 0, rsp := none }] ∧
            (s.duet.session = true → s.duet.cWait = [] → s.duet.c.store.length < 512 → t.duet.c.store = s.duet.c.store ++
              [{ ch := 1, ft := 1, seq := s.duet.c.next, payload := head tag, gate := none }])))) ∧
  (∀ f : Flit, f.gate = none →
    let leaves := fun (s : State) (c : Chan) (window : Nat) => s.duet.state = .up ∧ c.store[c.sent]? = some f ∧ c.sent < window ∧
      f.payload.length ≤ s.duet.bucket
    Occurs (.flitTransmit false) (fun s => duet s ∧ leaves s s.duet.c 512) (fun s t => t = { s with duet := { s.duet with
      bucket := s.duet.bucket - f.payload.length, lastSent := some f, txCount := s.duet.txCount + 1
      lastLane := laneOf s.duet.lanes s.duet.txCount, c := { s.duet.c with sent := s.duet.c.sent + 1 } } }) ∧
    Occurs (.flitTransmit true) (fun s => duet s ∧ leaves s s.duet.b 2047) (fun s t => t = { s with duet := { s.duet with
      bucket := s.duet.bucket - f.payload.length, lastSent := some f, txCount := s.duet.txCount + 1
      lastLane := laneOf s.duet.lanes s.duet.txCount, b := { s.duet.b with sent := s.duet.b.sent + 1 } } })) ∧
  Occurs .ackDeadline (fun s => duet s ∧ (s.duet.c.ackDue ≠ none ∨ s.duet.b.ackDue ≠ none)) (fun s t =>
    t.duet.c = { s.duet.c with unacked := 0, ackDue := none } ∧ t.duet.b = { s.duet.b with unacked := 0, ackDue := none } ∧
    t.duet.lastLink = some (link 1 [s.duet.c.expect.setWidth 24, s.duet.b.expect.setWidth 24]) ∧ t.duet.state = s.duet.state ∧
    ∀ a, s.duet.c.ackDue = some a → s.duet.b.ackDue = none → t.tempo.count = max s.tempo.count a) ∧
  (∀ e : Nat, Occurs .holdTimerExpiry (fun s => duet s ∧ s.duet.state = .retrain ∧ s.duet.holdEnd = some e) fun s t =>
    t.tempo.count = max s.tempo.count e ∧ t.duet.state = .training ∧ t.duet.session = false ∧
    (s.duet.session = true → t.duet.txns = [] ∧ t.duet.flags.getLsbD 1 = true ∧
      (s.duet.partnerEpoch ≠ s.duet.sessEpoch → t.duet.flags.getLsbD 2 = true))) ∧
  (∀ lane : Fin 4,
    let told := fun (s : State) => (s.post (BitVec.ofNat 12 (0x600 + lane.val)) 1).health
    Occurs (.lossOfSignal lane) duet (fun s t =>
      t = { s with health := told s, duet := if s.duet.lanes.getLsbD lane.val then retrained s s.duet else s.duet }) ∧
    ∀ n k : Nat, Occurs (.uncorrectableCodewords lane { uncorrectable := n, corrected := k }) duet (fun s t =>
      let d := { s.duet with fecCorr := satAdd s.duet.fecCorr k }
      (s.duet.state = .off → t = s) ∧ (s.duet.state ≠ .off → n = 0 → t = { s with duet := d }) ∧
      (s.duet.state ≠ .off → n ≠ 0 →
        let had := s.duet.uncorr[lane].filter fun p => s.tempo.count < p.1 + 1000000
        let d := { d with uncorr := s.duet.uncorr.set lane (had ++ [(s.tempo.count, n)]), fecUncorr := satAdd s.duet.fecUncorr n }
        t = { s with health := if had = [] then told s else s.health
                     duet := if 8 < (had.map fun p => p.2).sum + n ∧ s.duet.lanes.getLsbD lane.val = true then retrained s d else d }))) ∧
  Occurs .sampleTimer (fun s => duet s ∧ s.duet.state = .up ∧ (s.bar.running = false ∨ 1000000 < s.bar.cfg.period.toNat * 10)) (fun s t =>
    t.tempo.count = max s.tempo.count (s.duet.sampleAt + 1000000) ∧ t.duet.hb = s.duet.hb + 1 ∧ t.duet.sampleAt = t.tempo.count ∧
    t.duet.lastT = some { ch := 3, ft := 0, seq := 0, payload := t.sampleWords, gate := none }) ∧
  (∀ usable : BitVec 4, Occurs (.trainingComplete usable) duet fun s t =>
    let named := (usable &&& s.duet.laneMask &&& s.die.variant.laneMask).setWidth 24
    (s.duet.state ≠ .training → s.duet.state ≠ .retrain → t = s) ∧
    (s.duet.state = .training ∨ s.duet.state = .retrain → t.duet.lastTrain = some (link 3
      [1, s.duet.localEpoch, s.die.variant.sysId, named, 0#18 ++ s.duet.tgtSpeed ++ 0#1 ++ s.duet.tgtWidth ++ 0#1,
       BitVec.ofNat 24 s.mc.landDrain, s.boot.duetWord]))) ∧
  (∀ (usable : BitVec 4) (x : TrainInfo) (k : Nat) (l : BitVec 4),
    let agreed := fun (s : State) => duet s ∧ s.duet.info = some x ∧ x.fmt = 1 ∧
      agreeWidth (usable &&& s.duet.laneMask &&& x.lanes &&& s.die.variant.laneMask) (min (cap2 s.duet.tgtWidth) (cap2 x.width)) = some (k, l)
    let as_ := fun (s t : State) => t.duet.width = BitVec.ofNat 2 k ∧ t.duet.lanes = l ∧
      t.duet.speed = BitVec.ofNat 2 (min (cap2 s.duet.tgtSpeed) (cap2 x.speed)) ∧ t.duet.info = none ∧ t.refrain.trained = true ∧
      t.refrain.partnerFmt = bits x.duet 16 8 ∧
      (t.refrain.protoOk = true ↔ max s.ownMin.toNat (bits x.duet 0 8).toNat ≤ min s.ownMax.toNat (bits x.duet 8 8).toNat)
    Occurs (.trainingComplete usable) (fun s => agreed s ∧ s.duet.state = .training) (fun s t =>
      as_ s t ∧ t.duet.state = .up ∧ t.duet.session = true ∧ t.duet.train = false ∧ t.duet.sessEpoch = s.duet.partnerEpoch ∧
      t.duet.hb = s.duet.hb + 1 ∧ t.refrain.lastApplied = none) ∧
    Occurs (.trainingComplete usable) (fun s => agreed s ∧ s.duet.state = .retrain) (fun s t => as_ s t ∧ t.duet.state = .retrain ∧
      t.duet.resumeSent = true ∧ t.duet.session = s.duet.session ∧
      ∃ c b, t.duet.lastLink = some (link 4 [s.duet.localEpoch, c, b])))

/-- Received flits (13 R542 to R547, R550, R556, R559 to R562, R567 to R571, R574, R575; 14 R601, R603, R606 to R609, Table 14.4): one that
its codeword, its CRC or a kind that is no flit's spoils is dropped and counted, one out of sequence is not acted on, and one in sequence is accepted and has
its effect. Where the spec leaves a point open, the model's choice: log 31, log 32. -/
def Obligations.FlitsAreReceived : Prop :=
  let duet := fun (s : State) => s.die.variant.duet = true
  let link := fun (ft : BitVec 3) (ws : List Word) => ({ ch := 0, ft, seq := 0, payload := ws, gate := none } : Flit)
  let spoiled := fun (s : State) => { s with duet := { s.duet with
    crcErrCnt := satInc s.duet.crcErrCnt, flags := setBit s.duet.flags 5 true } }
  (∀ f : RxFlit,
    let body := f.words.take f.nw.toNat
    let w := fun (i : Nat) => body.getD i 0
    -- LINK and T flits
    (∀ x ∈ [(Instr.ackFlit f, (0 : BitVec 2), (1 : BitVec 3)), (.nakFlit f, 0, 2), (.trainFlit f, 0, 3), (.resumeFlit f, 0, 4),
        (.fatalFlit f, 0, 5), (.closeFlit f, 0, 6), (.sampleFlit f 0, 3, 0)],
      Occurs x.1 (fun s => duet s ∧ (s.duet.state = .off ∨ s.duet.state = .fatal)) (fun s t => t = s) ∧
      Occurs x.1 (fun s => duet s ∧ s.duet.state ≠ .off ∧ s.duet.state ≠ .fatal ∧ flitGood f x.2.1 x.2.2 = false) (fun s t => t = spoiled s)) ∧
    Occurs (.ackFlit f) (fun s => duet s ∧ s.duet.state = .up ∧ flitGood f 0 1 = true) (fun s t =>
      let b := s.duet.b.ackTo (bits (w 1) 0 12)
      let d := { s.duet with c := s.duet.c.ackTo (bits (w 0) 0 12), b
                             spilled := s.duet.spilled - (s.duet.b.store.length - b.store.length) }
      t = { s with duet := d }.refill ∧ (s.duet.bWait = [] → s.duet.b.store.length ≤ 2048 → t = { s with duet := d.refill })) ∧
    Occurs (.nakFlit f) (fun s => duet s ∧ s.duet.state = .up ∧ flitGood f 0 2 = true) (fun s t =>
      let again := if w 0 = 1 then { s.duet with c := s.duet.c.replayFrom (bits (w 1) 0 12) }
        else if w 0 = 2 then { s.duet with b := s.duet.b.replayFrom (bits (w 1) 0 12) } else s.duet
      t = { s with duet := again }) ∧
    Occurs (.trainFlit f) (fun s => duet s ∧ s.duet.state ≠ .off ∧ s.duet.state ≠ .fatal ∧ flitGood f 0 3 = true) (fun s t =>
      t = { s with duet := t.duet } ∧ t.duet.state = (if s.duet.state = .up then .retrain else s.duet.state) ∧
      t.duet.partnerEpoch = w 1 ∧ t.duet.partnerDrain = w 5 ∧ t.duet.info = some {
        fmt := w 0, epoch := w 1, sysId := w 2, lanes := bits (w 3) 0 4, width := bits (w 4) 1 2, speed := bits (w 4) 4 2
        drain := w 5, duet := w 6 }) ∧
    Occurs (.resumeFlit f) (fun s => duet s ∧ s.duet.state = .retrain ∧ s.duet.resumeSent = true ∧ flitGood f 0 4 = true ∧
        (∀ e, s.duet.holdEnd = some e → s.tempo.count < e) ∧ w 0 = s.duet.sessEpoch) (fun s t =>
      t.duet.state = .up ∧ t.duet.session = s.duet.session ∧ t.duet.train = false ∧ t.duet.holdEnd = none ∧ t.duet.flags.getLsbD 0 = true ∧
      ((∀ c ∈ s.rings.active, c.op ≠ 0x41) → s.duet.bWait = [] → s.duet.b.store.length ≤ 2048 → t = { s with duet := t.duet })) ∧
    Occurs (.resumeFlit f) (fun s => duet s ∧ s.duet.state = .retrain ∧ s.duet.resumeSent = true ∧ flitGood f 0 4 = true ∧
        (∀ e, s.duet.holdEnd = some e → s.tempo.count < e) ∧ w 0 ≠ s.duet.sessEpoch) (fun s t =>
      t.duet.state = .up ∧ t.duet.session = true ∧ t.duet.sessEpoch = w 0 ∧ t.duet.hb = s.duet.hb + 1 ∧
      (s.duet.session = true → t.duet.flags.getLsbD 2 = true ∧ t.duet.txns = [])) ∧
    (∀ x ∈ [(Instr.fatalFlit f, (5 : BitVec 3)), (.closeFlit f, 6)],
      Occurs x.1 (fun s => duet s ∧ s.duet.state ≠ .off ∧ s.duet.state ≠ .fatal ∧ flitGood f 0 x.2 = true) (fun s t =>
        t.duet.state = .training ∧ t.duet.session = false ∧ (x.2 = 5 → t.duet.flags.getLsbD 3 = true) ∧
        (s.duet.session = true → t.duet.txns = [] ∧ t.duet.flags.getLsbD 1 = true))) ∧
    (∀ dt, Occurs (.sampleFlit f dt) (fun s => duet s ∧ s.duet.state = .up ∧ flitGood f 3 0 = true) fun s t =>
      let e := s.elapse dt
      t.tempo.count = s.tempo.count + dt ∧ t.duet.partnerHb = w 0 ∧ t.duet.partnerRole = w 10 ∧ t.duet.lastSampleAt = t.tempo.count ∧
      t.duet.sample = some { t3 := ofR500 (w 1) (w 2) (w 3), t2 := e.tempo.time } ∧
      ((w 5, w 6, w 7, w 8, w 9) = (0, 0, 0, 0, 0) → t.duet.linkDelay = e.duet.linkDelay)) ∧
    -- sequenced flits
    (∀ x ∈ [(Instr.reqCmd f, (1 : BitVec 2), (0 : BitVec 3)), (.reqRd f [], 1, 1), (.rspFlit f, 1, 2), (.contFlit f, 1, 3), (.wrHead f, 2, 0),
        (.rdHead f, 2, 1), (.dataFlit f, 2, 2), (.ckHead f, 2, 4), (.ckData f, 2, 5), (.ckEnd f, 2, 6), (.ckReply f, 2, 7)],
      let chan := fun (d : Duet) => if x.2.1 = 1 then d.c else d.b
      let good := fun (s : State) => duet s ∧ s.duet.state = .up ∧ flitGood f x.2.1 x.2.2 = true
      Occurs x.1 (fun s => duet s ∧ s.duet.state ≠ .up) (fun s t => t = s) ∧
      Occurs x.1 (fun s => duet s ∧ s.duet.state = .up ∧ flitGood f x.2.1 x.2.2 = false) (fun s t => t = spoiled s) ∧
      Occurs x.1 (fun s => good s ∧ f.seq ≠ (chan s.duet).expect ∧ ((chan s.duet).expect - f.seq).toNat ≤ 2048) (fun s t =>
        t = { s with duet := t.duet } ∧ (chan t.duet).expect = (chan s.duet).expect ∧
        t.duet.lastLink = some (link 1 [s.duet.c.expect.setWidth 24, s.duet.b.expect.setWidth 24])) ∧
      Occurs x.1 (fun s => good s ∧ 2048 < ((chan s.duet).expect - f.seq).toNat ∧ (chan s.duet).nakSent = true) (fun s t => t = s) ∧
      Occurs x.1 (fun s => good s ∧ 2048 < ((chan s.duet).expect - f.seq).toNat ∧ (chan s.duet).nakSent = false) (fun s t =>
        t = { s with duet := t.duet } ∧ (chan t.duet).expect = (chan s.duet).expect ∧ (chan t.duet).nakSent = true ∧
        t.duet.lastLink = some (link 2 [x.2.1.setWidth 24, (chan s.duet).expect.setWidth 24])) ∧
      Occurs x.1 (fun s => good s ∧ f.seq = (chan s.duet).expect ∧ 131072 < s.duet.level + f.nw.toNat) (fun s t =>
        t.duet.state = .fatal ∧ t.duet.flags.getLsbD 3 = true ∧ t.duet.session = false ∧ t.duet.lastLink = some (link 5 [1]))) ∧
    (∀ x ∈ [(Instr.reqCmd f, (0 : BitVec 3), fun s : State => s.packetC true body), (.reqRd f [], 1, fun s => s.serveRead body),
        (.rspFlit f, 2, fun s => s.packetC false body), (.contFlit f, 3, fun s => s.continueC body)],
      Occurs x.1 (fun s => duet s ∧ s.duet.state = .up ∧ flitGood f 1 x.2.1 = true ∧ f.seq = s.duet.c.expect ∧
          s.duet.level + f.nw.toNat ≤ 131072 ∧ s.duet.c.unacked < 63) (fun s t =>
        t = x.2.2 { s with duet := { s.duet with
          level := s.duet.level + f.nw.toNat
          c := { s.duet.c with
            expect := s.duet.c.expect + 1, nakSent := false, unacked := s.duet.c.unacked + 1
            ackDue := some (s.duet.c.ackDue.getD (s.tempo.count + 1000)) } } })) ∧
    (∀ x ∈ [(Instr.wrHead f, (0 : BitVec 3), fun s : State => s.writeHead body), (.rdHead f, 1, fun s => s.readHead body),
        (.dataFlit f, 2, fun s => s.landData body), (.ckHead f, 4, fun s => s.onHead body), (.ckData f, 5, fun s => s.onBody body),
        (.ckEnd f, 6, fun s => s.onEnd (w 0) (w 1) (w 2)), (.ckReply f, 7, fun s => s.onReply (w 0) (w 1))],
      Occurs x.1 (fun s => duet s ∧ s.duet.state = .up ∧ flitGood f 2 x.2.1 = true ∧ f.seq = s.duet.b.expect ∧
          s.duet.level + f.nw.toNat ≤ 131072 ∧ s.duet.b.unacked < 63) (fun s t =>
        t = x.2.2 { s with duet := { s.duet with
          level := s.duet.level + f.nw.toNat
          b := { s.duet.b with
            expect := s.duet.b.expect + 1, nakSent := false, unacked := s.duet.b.unacked + 1
            ackDue := some (s.duet.b.ackDue.getD (s.tempo.count + 1000)) } } }))) ∧
  -- what the accepted flits do
  (∀ (s : State) (ws : List Word),
    let g := fun (i : Nat) => ws.getD i 0
    let tag := bits (g 0) 0 12
    let win := bits (g 0) 12 4
    let m := s.duet.lmap[win.toFin]
    (∀ (isReq : Bool), 3 < ws.length → ws.length < 3 + (bits (g 3) 0 12).toNat → s.packetC isReq ws = { s with duet := { s.duet with
      cpacket := some { isReq, tag, need := 3 + (bits (g 3) 0 12).toNat, words := ws, status := bits (g 0) 16 8 } } }) ∧
    (3 < ws.length → 3 + (bits (g 3) 0 12).toNat ≤ ws.length → let inner := (ws.drop 3).take (bits (g 3) 0 12).toNat
      s.fits 16 inner.length = true → s.packetC true ws = { (s.postPacket 16 inner) with duet := { s.duet with
        cpacket := none, inner := s.duet.inner ++ [(s.reqProd 16, tag)] } }) ∧
    (s.duet.cpacket = none → s.continueC ws = s) ∧
    (m.valid = false ∨ m.r = false → s.serveRead ws = s.produceC 2 [(0x14#8 ++ win ++ tag : BitVec 24), g 1, g 2]) ∧
    (m.valid = true → m.r = true → m.lines.toNat < (g 1).toNat + (g 2).toNat →
      s.serveRead ws = s.produceC 2 [(0x12#8 ++ win ++ tag : BitVec 24), g 1, g 2]) ∧
    s.writeHead ws = { s with duet := { s.duet with landing := some {
      tag, isRead := false, addr := m.base.toNat + 24 * (g 1).toNat, words := 24 * (g 2).toNat, got := 0, head := ws.take 3
      status := if m.valid = false ∨ m.w = false then 0x14 else if m.lines.toNat < (g 1).toNat + (g 2).toNat then 0x12 else 0 } } } ∧
    (∀ ft, s.duet.session = true → s.duet.bWait = [] → s.duet.b.store.length - s.duet.spilled = 2048 → s.duet.b.store.length < s.duet.capB →
      s.refrain.stream = none → let t := s.produceB ft ws
      t.duet = { s.duet with b := s.duet.b.produce 2 ft ws, spilled := s.duet.spilled + 1, spillNext := s.duet.spillNext + 1 }) ∧
    (s.duet.landing = none → s.landData ws = s) ∧
    (∀ l, s.duet.landing = some l → l.isRead = false → l.status ≠ 0 → l.got + ws.length < l.words →
      s.landData ws = { s with duet := { s.duet with landing := some { l with got := l.got + ws.length } } }) ∧
    (∀ l, s.duet.landing = some l → l.isRead = false → l.status = 0 → l.got + ws.length < l.words →
      let u := (s.domainWrite .landing (l.addr + l.got) ws).1
      s.landData ws = { u with duet := { u.duet with landing := some { l with got := l.got + ws.length } } }) ∧
    (∀ x desc a lines irq, s.duet.txns.find? (fun t => t.tag = tag) = some x → x.kind = .read desc a lines irq →
      s.readHead ws = { s with duet := { s.duet with landing := some {
        tag, isRead := true, addr := a, words := 24 * lines, got := 0, status := 0, head := ws.take 3 } } }) ∧
    ((g 2).getLsbD 0 = false ∨ s.refrain.role.receives = false → s.onHead ws = { s with refrain := { s.refrain with
      rx := some { head := ws.take 14, body := [], crc := recordCrc (ws.take 14) } } }) ∧
    (∀ r, s.refrain.rx = some r → s.onBody ws = { s with refrain := { s.refrain with
      rx := some { r with body := r.body ++ ws, crc := crcMore r.crc ws } } }) ∧
    (∀ n status crc : Word, s.refrain.role.receives = false → s.duet.b.store.length < 2048 → let t := s.onEnd n status crc
      t = { s with refrain := t.refrain, duet := t.duet } ∧ t.refrain = { s.refrain with
        rx := none, lastResult := 8, rejectCnt := satInc s.refrain.rejectCnt, flags := setBit s.refrain.flags 5 true } ∧
      t.duet = s.duet.produceB 7 [n, 8, s.refrain.lastCommit]) ∧
    (∀ n res : Word, (s.refrain.replyDue = false → s.onReply n res = s) ∧
      (s.refrain.replyDue = true → bits res 0 8 = 0 → (s.onReply n res).refrain.lastApplied = some n) ∧
      (s.refrain.replyDue = true → 3 ≤ (bits res 0 8).toNat → (s.onReply n res).refrain.lastApplied = none)))

/-! Refrain, Rehearsal, the ledger and trace. -/

/-- The events of Refrain, Rehearsal and the ledger (09 R365, R373, R374; 14 R590, R603, R609, R611, R619; 15 R630 to R635, R638, R640,
R643 to R649, R657, R661): a line is streamed, an apply ends, a hand-over times out; a slice ends, overruns or is late; events
are counted, sources leak, repairs are done, and service hours pass. Where the spec leaves a point open, the model's choice: log 32, log 33. -/
def Obligations.RefrainAndHealthEvents : Prop :=
  let duet := fun (s : State) => s.die.variant.duet = true
  let running := fun (s : State) => s.cdrRuns = true
  let even := fun (s : State) => s.pwr.aonFrac < 1000000000 ∧ s.tempo.nsRem < s.tempo.pace ∧ s.tempo.slewRem = 0
  Occurs (.refrainStreamLine []) duet (fun s t =>
    (s.refrain.stream = none → t = s) ∧
    ∀ st, s.refrain.stream = some st →
      (st.ended = true ∨ s.refrain.headWait.isSome = true ∨ s.duet.bWait ≠ [] → t = s) ∧
      (st.ended = false → s.refrain.headWait = none → s.duet.bWait = [] →
        (nextLine s.echo.frozen st.next = none → t = s.produceEnd 0) ∧
        ∀ line, nextLine s.echo.frozen st.next = some line →
          let m := lineMask s.echo.frozen line
          let r := s.streamRead line m
          (r.2.2 = true → t.echo.poisoned = true ∧ t.echo.frozen = [] ∧ ∃ x, t.refrain.stream = some x ∧ x.ended = true) ∧
          (r.2.2 = false → s.duet.b.store.length + st.buf.length < 2000 → ∃ x, t.refrain.stream = some x ∧ x.n = st.n ∧ x.next = line + 1 ∧ x.crc = crcMore st.crc (maskWords m r.2.1)))) ∧
  Occurs .applyEnd duet (fun s t => (s.refrain.log = none → t = s) ∧ ∀ n ws, s.refrain.log = some (n, ws) →
    let u := s.writeReplica (ws.take 14) (ws.drop 14)
    u.duet.b.store.length < 2048 → t.refrain = { u.refrain with applying := false, log := none } ∧ t.dram = u.dram ∧ t.stage = u.stage ∧
    t.duet = u.duet.produceB 7 [n, 0, u.refrain.lastCommit]) ∧
  Occurs .handoverTimeout duet (fun s t =>
    (s.refrain.role ≠ .handover ∨ s.refrain.handBars < s.refrain.batonLimit → t = s) ∧
    (s.refrain.role = .handover → s.refrain.batonLimit ≤ s.refrain.handBars → t.refrain = { s.refrain with
      role := .none, activeN := true, fence := true, fenceDue := false, batonOut := false, handStep := 0, handBars := 0 })) ∧
  Occurs .batonInEdge duet (fun s t => t = { s with refrain := { s.refrain with batonAge := 0 } }) ∧
  Occurs .rehRunTimeout (fun _ => True) (fun s t => (s.askedSlices = [] → t = s) ∧
    ∀ c rest, s.askedSlices = c :: rest → t = (s.until (c.startAt + 1000000000)).finish c .notPermitted []) ∧
  (∀ (sl : Slice), let n := sl.num.toNat
    let ended := fun (s t : State) (result : Nat) =>
      let x := s.history n
      t.health.running = none ∧ t.health.last = sl.num.setWidth 24 ||| BitVec.ofNat 24 (result * 65536) ∧
      t.health.fail = (s.health.fail || result = 1) ∧ t.health.overrun = (s.health.overrun || result = 2) ∧
      t.history n = { runs := satInc x.runs, last := BitVec.ofNat 24 result, fails := if result = 1 then satInc x.fails else x.fails
                      overruns := if result = 2 then satInc x.overruns else x.overruns } ∧
      ∀ c ∈ s.sliceCores n, (t.core c).sliceHold = false
    (∀ (fail : Bool) (slow : BitVec 10), Occurs (.sliceEnd fail slow)
      (fun s => s.health.running = some sl ∧ s.tempo.count ≤ sl.start + sliceBudget n) (fun s t => ended s t (if fail then 1 else 0))) ∧
    Occurs .sliceOverrun (fun s => s.health.running = some sl) (fun s t => ended s t 2 ∧
      t.tempo.count = max s.tempo.count (sl.start + sliceBudget n) ∧ t.health.ovrCnt = satInc s.health.ovrCnt)) ∧
  Occurs .coverLate (fun _ => True) (fun s t =>
    let open_ : Prop := s.health.rehEn = true ∧ s.bar.run = true ∧ s.health.lateSet = false ∧ ∃ n ∈ s.planned, s.health.nextNum ≤ n
    (¬open_ → t = s) ∧ (open_ → t.health.coverLate = true ∧ t.health.lateSet = true ∧ t.health.cycles = s.health.cycles ∧
      t.tempo.count = s.tempo.count + (s.health.periodNs - s.health.cycleTime))) ∧
  Occurs .ledgerDrain (fun _ => True) (fun s t => (¬running s → t = s) ∧ (running s → t.health.evq = [] ∧
    ∀ e : HEvent, s.health.evq = [e] →
      let n := e.src.toNat
      let x := s.lsrc n
      let c := min 4095 (x.c + if e.kind = 1 ∨ e.kind = 2 then 2 else 1)
      let open_ : Prop := x.state = .clean ∨ x.state = .transient
      t.lsrc n = { x with
        c, events := satInc x.events, hour := s.health.mirror[8], nextLeak := if x.c = 0 then e.svc + x.period else x.nextLeak
        state := if open_ then (if x.thresh ≤ c then .lasting else .transient) else x.state } ∧
      (∀ m, m ≠ n → t.lsrc m = s.lsrc m) ∧
      (open_ → x.thresh ≤ c → s.rings.notices.length < 16 →
        t.rings.notices = s.rings.notices ++ [(0x10, BitVec.ofNat 24 (n + 2 * 4096))] ∧ t.rings.noticePend = true ∧
        t.health.repairs = (if repairKind n = .report then s.health.repairs else s.health.repairs ++ [n])))) ∧
  (∀ src : BitVec 12, Occurs (.leakEvent src) (fun _ => True) fun s t =>
    let x := s.lsrc src.toNat
    (x.c = 0 → t = s) ∧ (x.c ≠ 0 → (∀ m, m ≠ src.toNat → t.lsrc m = s.lsrc m) ∧
      t.lsrc src.toNat = { x with
        c := x.c - 1, nextLeak := x.nextLeak + x.period, state := if x.c = 1 ∧ x.state = .transient then .clean else x.state } ∧
      (even s → t.pwr.service = max s.pwr.service x.nextLeak))) ∧
  (let next := fun (i : Instr) (p : RepairKind → Prop) => Occurs i (fun _ => True) fun s t =>
      let due := fun (src : Nat) => running s ∧ p (repairKind src) ∧ s.repairBlocked src = false ∧ ∀ c ∈ s.rings.active, c.op ≠ 0x63
      (s.health.repairs = [] → t = s) ∧ ∀ src rest, s.health.repairs = src :: rest → (due src → t = (s.repair src).1) ∧ (¬due src → t = s)
   next .spareWayRepair (fun k => k = .spare2 ∨ k = .spare3) ∧ next .laneDegrade (fun k => k = .lane)) ∧
  Occurs .serviceHour even (fun s t => (¬running s → t = s) ∧ (running s →
    let past := (t.pwr.service - s.health.hourAt) / 3600 + 1
    t.pwr.service = max s.pwr.service s.health.hourAt ∧ t.health.hourAt = s.health.hourAt + 3600 * past ∧ t.pwr.service < t.health.hourAt ∧
    t.health.mirror[8] = satAdd s.health.mirror[8] past)) ∧
  (∀ w : Initiator, Accesses (.evqPop w) w (fun _ => True) fun s t =>
    t = if w = .conductor then { s with health := { s.health with evq := s.health.evq.tail } } else s)

/-- Score trace (16 R675, R677 to R682, R687 to R689, Tables 16.3, 16.5, 16.6): the registers that arm, disarm, fire and read a
partition's trace, the owners of segments, the stream area, the stop after the delay, and the DMA engine.
Where the spec leaves a point open, the model's choice: log 34. -/
def Obligations.TraceRegistersAndEvents : Prop :=
  let part := fun (s : State) (x : TracePath) => (s.tsec x.sec).part x.part
  let refused := fun (s t : State) (sec : Fin 3) => t = { s with
    trace := s.trace.set sec { s.tsec sec with sstat := setBit (s.tsec sec).sstat 4 true } }
  (∀ (w : Initiator) (page : Bool) (sec : Fin 3) (v : Word),
    let path := fun (s : State) => if page then s.pagePath w else s.mirrorPath w sec
    Accesses (.ptEnSet w page sec v) w (fun _ => True) (fun s t => (path s = none → t = s) ∧ ∀ x, path s = some x →
      (5 ≤ (bits v 4 3).toNat → refused s t x.sec) ∧
      ((bits v 4 3).toNat < 5 → t = { s with trace := t.trace } ∧ (part t x).state = .armed ∧ (part t x).ctl = (bits v 1 6 ++ 1#1 : BitVec 7) ∧
        (part t x).dcount = 0 ∧ (part t x).wptr = (part s x).wptr ∧ (part t x).flags = (part s x).flags ∧
        ∀ p, p ≠ x.part → (t.tsec x.sec).part p = (s.tsec x.sec).part p)) ∧
    Accesses (.ptEnClear w page sec v) w (fun _ => True) (fun s t => (path s = none → t = s) ∧ ∀ x, path s = some x →
      t = { s with trace := t.trace } ∧ (part t x).state = .idle ∧ (part t x).ctl = (bits v 1 6 ++ 0#1 : BitVec 7) ∧
      ∀ p, p ≠ x.part → (t.tsec x.sec).part p = (s.tsec x.sec).part p) ∧
    Accesses (.ptFire w page sec) w (fun _ => True) (fun s t => (path s = none → t = s) ∧ ∀ x, path s = some x →
      let y := match w with | .voice c => if x.path = 0 then { x with part := s.beatPart c } else x | _ => x
      let armed : Prop := (part s y).state = .armed ∧ (bits (part s y).ctl 4 3).toNat = 3
      t = { s with trace := t.trace, chorus := t.chorus } ∧ (¬armed → t = s) ∧
      (armed → (part t y).flags.getLsbD 0 = true ∧ (part t y).delay = (part s y).delay ∧
        (part t y).state = if (part s y).delay = 0 then .stopped else .triggered)) ∧
    Accesses (.ptRdata w page sec) w (fun _ => True) (fun s t => (path s = none → t = s) ∧ ∀ x, path s = some x →
      let n := (s.tsec x.sec).len x.part
      (n = 0 → t = s) ∧ (n ≠ 0 → t = { s with trace := t.trace } ∧ part t x = { part s x with
        raddr := (part s x).raddr.set x.path ((((part s x).raddr[x.path]) % n + 1) % n) }))) ∧
  (∀ (sec : Fin 3) (p : BitVec 4),
    let part := fun (s : State) => (s.tsec sec).part p
    Occurs (.traceStop sec p) (fun _ => True) (fun s t => (s.hasTrace sec = false ∨ (part s).state ≠ .triggered → t = s) ∧
      (s.hasTrace sec = true → (part s).state = .triggered →
        ((part s).delay.toNat ≤ (part s).dcount → t = { s with trace := t.trace, chorus := t.chorus }) ∧
        ((part s).delay.toNat ≤ (part s).dcount ∨ (s.recorded sec p = true ∧ 0 < s.mhz sec) →
          (part t).state = .stopped ∧ (part t).flags.getLsbD 1 = true ∧ (t.tsec sec).sstat.getLsbD 3 = true))) ∧
    Accesses (.traceDmaCopy sec p) (.dma .trace) (fun _ => True) (fun s t =>
      let copies : Prop := s.hasTrace sec = true ∧ (part s).streaming = true ∧ (s.tsec sec).len p ≠ 0
      (¬copies → t = s) ∧ (copies → (part s).dropped = 0 → (part t).uncopied = 0 ∧ (part t).wptr = (part s).wptr ∧ (part t).state = (part s).state ∧
        ((part s).uncopied ≠ 0 → (part t).strmWptr =
          ((part s).strmWptr + (part s).uncopied) % (24 * (part s).strmLines.toNat)) ∧
        ((part s).uncopied = 0 → t = s))) ∧
    ∀ (w : Initiator) (n : Fin 3) (v : Word),
      let its := fun (s : State) => s.hasTrace sec = true ∧ (w = .conductor ∨ s.monitorOf w = true)
      Accesses (.strmLinesWrite w sec p v) w (fun _ => True) (fun s t => (¬its s → t = s) ∧ (its s →
        let lines := (bits v 0 20).toNat
        let a := (part s).strmBase.toNat
        let fits : Prop := lines = 0 ∨ (s.inDram a = true ∧ s.inDram (a + 24 * lines - 1) = true)
        (fits → t = { s with trace := t.trace } ∧ part t = { part s with strmLines := bits v 0 20 }) ∧ (¬fits → refused s t sec))) ∧
      Accesses (.trSegownWrite w sec n v) w (fun _ => True) (fun s t => (¬its s → t = s) ∧ (its s → t = { s with trace := t.trace } ∧
        let old := fun (i : Fin 16) => (s.tsec sec).segOwn[i]
        let new := fun (i : Fin 16) => bits v (4 * (i.val % 6)) 4
        let moves := fun (i : Fin 16) => i.val / 6 = n.val ∧ new i ≠ old i
        let held := ∃ i, moves i ∧ (((s.tsec sec).part (old i)).live = true ∨ ((s.tsec sec).part (new i)).live = true)
        (held → (t.tsec sec).sstat.getLsbD 0 = true) ∧ ∀ i,
          (t.tsec sec).segOwn[i] = (if i.val / 6 = n.val ∧ ¬held then new i else old i) ∧
          (moves i → ¬held → ((t.tsec sec).part (new i)).wptr = 0 ∧ ((t.tsec sec).part (new i)).wrap = false))))

/-! Boot, trust, resets and sleep. -/

/-- The events of fuses, boot and debug unlock (11 R458, R460, R461, R463 to R467, R473, R485 to R490): a row is programmed once, the
sentinel releases the Conductor at a slot that verifies or stays silent, a session opens on a signed certificate for the
challenge in force, and a re-score loses no word of a sector, cut or not. Where the spec leaves a point open, the model's choice: log 29. -/
def Obligations.TrustEvents : Prop :=
  (∀ (w : Initiator) (v : Word), Accesses (.fzCmd w v) w (fun _ => True) fun s t =>
    let its : Prop := v = 1 ∧ (w = .conductor ∨ (w = .debug ∧ s.boot.session = true ∧ s.boot.perms.getLsbD 0 = true))
    let r := s.boot.fzRow
    let wrong : Prop := s.boot.fzBusy.isSome = true ∨ r.toNat < 16 ∨ (166 ≤ r.toNat ∧ r.toNat < 182) ∨ s.fuseState r.toNat ≠ 0
    (¬its → t = s) ∧ (its → wrong → t = { s with boot := { s.boot with fzRefused := true } }) ∧
    (its → ¬wrong → t = { s with boot := { s.boot with fzBusy := some (r, s.boot.fzWdata) } })) ∧
  (∀ (ok : Bool), Occurs (.fuseProgramEnd ok) (fun s => ∀ c ∈ s.rings.active, c.op ≠ 0x86) fun s t => (s.boot.fzBusy = none → t = s) ∧
    ∀ r d, s.boot.fzBusy = some (r, d) → t.boot.fzBusy = none ∧
      t = { s with boot := { s.boot with fuses := t.boot.fuses, fzBusy := none }, free := t.free } ∧
      (∀ q : Nat, q ≠ r.toNat → t.fuseRow q = s.fuseRow q) ∧
      (16 ≤ r.toNat → (r.toNat < 166 ∨ 182 ≤ r.toNat) →
        (ok = true → t.free = s.free ∧ t.fuseState r.toNat = 1 ∧ t.fuseData r.toNat = d) ∧
        (ok = false → t.free = s.free + 1 ∧ t.fuseRow r.toNat &&& ~~~fullRow d = 0 ∧ (t.fuseRow r.toNat).getLsbD 31 = false ∧
          ((t.fuseRow r.toNat).setWidth 24 ≠ d → (t.fuseRow r.toNat).toNat < 2 ^ 24)))) ∧
  Occurs .debugChallengeRequest (fun _ => True) (fun s t =>
    (s.boot.checking = true → t = { s with boot := { s.boot with reqWait := true } }) ∧
    (s.boot.checking = false → 8 ≤ s.boot.failures → t = { s with boot := { s.boot with chal := none } }) ∧
    (s.boot.checking = false → s.boot.failures < 8 → t = { s with free := s.free + 7, boot := { s.boot with chal := t.boot.chal } } ∧
      ∃ ws, t.boot.chal = some ws ∧ ws.length = 12 ∧ ws.getD 0 0 = s.sysId ∧ ws.getD 1 0 = s.sysStep ∧ ws.getD 9 0 = s.boot.info ∧
        ws.getD 10 0 = BitVec.ofNat 24 s.boot.failures)) ∧
  Occurs .debugSessionClose (fun _ => True) (fun s t => t = { s with boot := { s.boot with
    session := false, perms := 0, parts := 0, sessChal := [], chal := none, reqWait := false
    bootstat := if s.boot.sentinel = .silent then s.boot.silentCode else s.boot.bootstat } }) ∧
  (∀ ws : List Word, Occurs (.debugResponse ws) (fun _ => True) fun s t =>
    t = if s.boot.checking = true ∨ ws.length ≠ 80 then s else { s with boot := { s.boot with checking := true, resp := ws } }) ∧
  Occurs .debugCheckComplete (fun _ => True) (fun s t =>
    let due : Prop := s.boot.checking = true ∧ s.boot.sentinel ≠ .running
    (¬due → t = s) ∧ (due → t.boot.checking = false ∧ t.boot.resp = [] ∧ t.boot.reqWait = false ∧ t = { s with boot := t.boot, free := t.free } ∧
      (s.responseOk = true → t.boot.session = true ∧ t.boot.perms = bits (s.boot.resp.getD 2 0) 0 5 ∧ t.boot.failures = s.boot.failures ∧
        some t.boot.sessChal = s.boot.chal) ∧
      (s.responseOk = false → t.boot.session = s.boot.session ∧ t.boot.perms = s.boot.perms ∧ t.boot.failures = s.boot.failures + 1) ∧
      (s.boot.reqWait = false ∨ 8 ≤ t.boot.failures → t.boot.chal = none))) ∧
  (∀ s : State, s.responseOk = true → s.fuseState 85 = 0 ∧ s.certSigned s.boot.resp = true ∧
    s.boot.chal = some ((s.boot.resp.drop 4).take 12)) ∧
  (∀ (gold : BitVec 100) (e1 e2 : Bool), Occurs (.sentinelComplete gold e1 e2) (fun _ => True) fun s t => (s.boot.sentinel ≠ .running → t = s) ∧
    (s.boot.sentinel = .running →
      let u := s.until (s.boot.startedAt + 10050000)
      let r := u.verifyBoot (gold = 0) e1 e2
      t.boot.info = r.info ∧ t.boot.golden = r.golden ∧
      (r.ok = true → t.cdr.run = .running ∧ t.boot.sentinel = .released ∧ t.boot.bootstat = (if !r.golden then 1 else if r.why = 1 then 2 else 3)) ∧
      (r.ok = false → t.cdr = u.cdr ∧ t.boot.sentinel = .silent ∧ t.boot.bootstat = (if u.someKey then 4 else 5)))) ∧
  (∀ (u : State) (e1 e2 : Bool),
    let working := u.imageReason (u.slotCheck false e1)
    ((u.verifyBoot true e1 e2).golden = true ∧ (u.verifyBoot true e1 e2).why = 1) ∧
    (u.wstate = 2 → working = 0 → (u.verifyBoot false e1 e2).golden = false ∧ (u.verifyBoot false e1 e2).ok = true) ∧
    (u.wstate ≠ 2 ∨ working ≠ 0 → (u.verifyBoot false e1 e2).golden = true ∧ (u.verifyBoot false e1 e2).why = 2 ∧
      ((u.verifyBoot false e1 e2).ok = true ↔ u.imageReason (u.slotCheck true e2) = 0))) ∧
  (∀ bad : BitVec 4, Occurs (.voiceImageLoad bad) (fun _ => True) fun s t =>
    let due : Prop := s.cdrRuns = true ∧ s.mc.ready = true ∧ s.boot.imagesDone = false
    (¬due → t = s) ∧ (due → t.boot.imagesDone = true ∧ t.flash = s.flash ∧ t.xflash = s.xflash ∧
      (s.slotRecord.getD 4 0 = 0 → t = { s with boot := { s.boot with imagesDone := true } }))) ∧
  (∀ (u : State), Memory.wf flashDefault u.flash = true → ∀ base ∈ rescoreSectors,
    (∀ (ws : List Word), ws.length ≤ 4096 → let cut := ((u.journalCopy base).journalMark (BitVec.ofNat 24 base)).programSector base ws
      ∀ i < 4096, cut.journalEnd.flashWord (base + i) = u.flashWord (base + i)) ∧
    ∀ a, a / 4096 ≠ journalSector / 4096 → a / 4096 ≠ journalRecord / 4096 → (u.refreshSector base).flashWord a = u.flashWord a)

/-- Resets, supplies and temperature (00 R836; 03 R97, R98; 10 R417; 19 R763 to R765, R789 to R793, R795, R797, R799): each cause is recorded,
a cold reset clears memory and every core, a warm one keeps memory, and what held the device lets it go. A cause that falls due in
the cycle of another is recorded with it, and LAST names the lower-numbered one.
Where the spec leaves a point open, the model's choice: log 18, log 19, log 36. -/
def Obligations.ResetsAndSupplies : Prop :=
  let alone := fun (s : State) => s.pwr.instant = false ∧ s.pwr.wdogEnd ≠ some s.tempo.count ∧ s.resetDue = false
  let marks := fun (s t : State) (k : Nat) => t.pwr.rstrsn.getLsbD k = true ∧ ∀ j < 8, s.pwr.rstrsn.getLsbD j = true → t.pwr.rstrsn.getLsbD j = true
  let only := fun (s t : State) (k : Nat) => t.pwr.rstrsn = setBits (setBit s.pwr.rstrsn k true) 12 (BitVec.ofNat 4 (k + 1))
  let cause := fun (s t : State) (k : Nat) => marks s t k ∧ (alone s → only s t k) ∧
    (s.pwr.wdogEnd = some s.tempo.count → t.pwr.rstrsn.getLsbD 5 = true ∧ (bits t.pwr.rstrsn 12 4).toNat ≤ 6) ∧
    (s.resetDue = true → t.pwr.rstrsn.getLsbD 4 = true ∧ (bits t.pwr.rstrsn 12 4).toNat ≤ 5)
  let writesFlash := fun (s : State) => ∃ c ∈ s.rings.active, c.op = 0x81 ∨ c.op = 0x84
  let cores := fun (t : State) => t.cores = Vector.replicate 12 VoiceCore.reset ∧ t.cdr = Conductor.reset ∧ t.bar = BarUnit.reset ∧
    t.rings = Rings.reset ∧ t.bm = BufMan.reset
  let cleared := fun (s t : State) => cores t ∧ t.dram = [] ∧ t.stage = [] ∧ t.csram = [] ∧ t.mc = MemCtl.reset ∧
    t.caches = Caches.reset ∧ t.boot.session = false ∧ t.boot.failures = 0 ∧ (¬writesFlash s → t.flash = s.flash) ∧ t.xflash = s.xflash ∧
    t.health.ledger = s.health.ledger ∧ t.health.mirror = s.health.mirror
  let cold := fun (s t : State) (k : Nat) => cause s t k ∧ cleared s t
  let kept := fun (s t : State) => cores t ∧ t.pwr.state = .play ∧ t.boot.sentinel = .running ∧ t.mc.ready = s.mc.ready ∧
    t.boot.session = false ∧ t.boot.failures = s.boot.failures ∧ (¬writesFlash s → t.flash = s.flash) ∧ t.health.ledger = s.health.ledger ∧
    (s.health.running = none → s.health.retests = [] → t.dram = s.dram ∧ t.stage = s.stage ∧ t.csram = s.csram)
  let warm := fun (s t : State) (k : Nat) => cause s t k ∧ kept s t
  let starts := fun (t : State) => t.pwr.state = .play ∧ t.boot.sentinel = .running
  let starts_ := fun (s t : State) => if s.pwr.tripped then t.pwr.state = .thermal else starts t
  let low := fun (p : Power) (rail : Fin 5) => { p with supplyLow := setBit p.supplyLow rail.val true, supplyWarn := true }
  let railsUp := fun (s : State) => s.pwr.state ≠ .coda ∧ s.pwr.state ≠ .codaWait
  let warnAt := fun (s : State) => if s.die.gradeF then (110 : Int) else 100
  let tripAt := fun (s : State) => if s.die.gradeF then (130 : Int) else 120
  (∀ (s : State) (off : Nat), Completes (.porstN false off) s fun t => cold s t 0 ∧ t.pwr.state = .porst) ∧
  (∀ (s : State) (off : Nat), Completes (.porstN true off) s fun t => t.pwr.state = .porst ∧ cores t ∧ t.pwr.rstrsn.getLsbD 0 = true ∧
    t.pwr.rstrsn.getLsbD 3 = true ∧ (s.pwr.instant = false → bits t.pwr.rstrsn 12 4 = 1)) ∧
  (∀ (s : State) (railsOk : Bool) (rail : Fin 5), s.pwr.state = .porst →
    Completes (.porstNRelease railsOk (some rail)) s (fun t => marks s t 1 ∧ (s.pwr.instant = false → only s t 1) ∧ t = { s with pwr := t.pwr } ∧ t.pwr.state = .brownout ∧
      t.pwr.supplyLow.getLsbD rail.val = true ∧ t.pwr.supplyWarn = true) ∧
    Completes (.porstNRelease true none) s (starts_ s)) ∧
  (∀ (s : State) (slept : Nat),
    (s.pwr.state = .play → Completes (.warmrstN slept) s fun t =>
      if s.resetDue = true ∧ s.rings.resetReq = some true then cold s t 3 ∧ starts_ s t else warm s t 3) ∧
    (s.pwr.state = .fermata → Completes (.warmrstN slept) s fun t => marks s t 3 ∧ cores t ∧ starts t ∧ t.mc.selfref = false ∧
      (s.pwr.instant = false → s.rings.resetReq = none → only s t 3)) ∧
    (s.pwr.state ≠ .play → s.pwr.state ≠ .fermata → Completes (.warmrstN slept) s (· = s))) ∧
  (∀ s : State, Completes .vaonLoss s fun t => cores t ∧ t.dram = [] ∧ (¬writesFlash s → t.flash = s.flash) ∧ t.health.ledger = [] ∧
    t.health.mirror = Vector.replicate 64 0 ∧ t.pwr.state = .porst ∧ t.pwr.aonSec = 0 ∧ t.pwr.aonLoaded = false ∧ t.pwr.service = 0) ∧
  (∀ rail : Fin 5,
    Occurs (.brownout rail) (fun _ => True) (fun s t => cold s t 1 ∧ t.pwr.state = .brownout ∧ t.pwr.supplyLow.getLsbD rail.val = true ∧
      t.pwr.supplyWarn = true) ∧
    ∀ s : State, (s.on = false → Completes (.brownout rail) s fun t =>
        (s.pwr.state ≠ .thermal ∨ s.pwr.instant = false → t = s) ∧
        (s.pwr.state = .thermal → s.pwr.instant = true → t = { s with pwr := t.pwr } ∧ t.pwr.state = .brownout ∧ marks s t 1 ∧
          (bits t.pwr.rstrsn 12 4).toNat = min 2 (bits s.pwr.rstrsn 12 4).toNat)) ∧
      Completes (.supplyWarning rail) s (fun t => (railsUp s → t = { s with pwr := low s.pwr rail }) ∧ (¬railsUp s → t = s)) ∧
      Completes (.supplyWarningEnd rail) s (fun t =>
        let left := setBit s.pwr.supplyLow rail.val false
        (s.pwr.state ≠ .brownout ∨ left ≠ 0 → t = { s with pwr := { s.pwr with supplyLow := left } }) ∧
        (s.pwr.state = .brownout → left = 0 → starts_ s t ∧ t.pwr.supplyLow = 0))) ∧
  (∀ (s : State) (tj : BitVec 10),
    Completes (.thermalWarning tj) s (fun t => (tj.toInt < warnAt s → t = s) ∧
      (warnAt s ≤ tj.toInt → t = { s with pwr := { s.pwr with therm := tj, tjHot := true, thermWarn := true } })) ∧
    Completes (.thermalTrip tj) s (fun t => (tj.toInt < tripAt s ∨ ¬railsUp s ∨ s.pwr.tripped = true → t = s) ∧
      (tripAt s ≤ tj.toInt → railsUp s → s.pwr.tripped = false → cold s t 6 ∧ t.pwr.tripped = true ∧ t.pwr.tjHot = true ∧
        t.pwr.thermWarn = true ∧ t.pwr.state = if s.pwr.state = .porst ∨ s.pwr.state = .brownout then s.pwr.state else .thermal)) ∧
    Completes (.tjBelowWarning tj) s (fun t => (warnAt s ≤ tj.toInt → t = s) ∧
      (tj.toInt < warnAt s → t.pwr.tjHot = false ∧ t.pwr.tripped = false ∧
        (s.pwr.state = .thermal → starts t) ∧
        (s.pwr.state ≠ .thermal → t = { s with pwr := { s.pwr with therm := tj, tjHot := false, tripped := false } })))) ∧
  Occurs .debugReset (fun s => s.pwr.tripped = false) (fun s t => (s.boot.session = false → t = s) ∧
    (s.boot.session = true → cold s t 7 ∧ starts t)) ∧
  Occurs .commandedReset (fun s => s.pwr.tripped = false) (fun s t => (s.rings.resetReq = none → t = s) ∧
    let at_ := max s.tempo.count (s.rings.resetAt + 100000)
    ∀ deep, s.rings.resetReq = some deep → marks s t 4 ∧ (s.pwr.instant = false → s.pwr.wdogEnd ≠ some at_ → only s t 4) ∧
      if deep then cleared s t ∧ starts t else kept s t ∧ t.tempo.count = at_) ∧
  Occurs .cdrWdog (fun s => s.pwr.tripped = false) (fun s t => (s.pwr.wdogEnd = none → t = s) ∧ ∀ e, s.pwr.wdogEnd = some e →
    let at_ := max s.tempo.count e
    let both : Prop := s.rings.resetReq.isSome = true ∧ s.rings.resetAt + 100000 = at_
    marks s t 5 ∧ (s.pwr.instant = false → ¬both → only s t 5) ∧
      (both → t.pwr.rstrsn.getLsbD 4 = true ∧ (s.pwr.instant = false → bits t.pwr.rstrsn 12 4 = 5)) ∧
      if both ∧ s.rings.resetReq = some true then cleared s t ∧ starts t else kept s t ∧ t.tempo.count = at_) ∧
  (∀ (w : Initiator) (v : Word), Accesses (.wdogKick w v) w (fun _ => True) fun s t =>
    t = if w = .conductor ∧ bits v 0 12 = 0x5A5 ∧ s.pwr.wdogEnd.isSome = true then
        { s with pwr := { s.pwr with wdogEnd := some (s.tempo.count + max 1 s.pwr.wdogPeriod.toNat * 1000000) } }
      else s)

/-- Fermata and Coda (01 R19; 05 R184; 06 R238; 08 R329, R331; 19 R774, R777, R782, R785, R787, R788, Tables 19.3, 19.4, 19.9): an active device
refuses entry; what entry keeps, which wake event counts, also while entry is in progress, and what the wake restores. Where the spec leaves a point open, the model's choice: log 36. -/
def Obligations.SleepAndWake : Prop :=
  let entry := fun (coda : Bool) (s : State) => s.rings.sleepReq = some coda ∧ s.health.running = none ∧
    (s.bar.running = false ∨ s.bar.cfg.beats.toNat ≤ s.bar.beat.toNat + 1)
  let bit := fun (ev : WakeEvent) => match ev with | .pin n => n.val | .alarm => 4 | .gpio _ _ => 5
  let given := fun (s t : State) => t.pwr.state = s.pwr.state ∧ t.rings = { s.rings with sleepReq := none } ∧ t.cores = s.cores ∧ t.dram = s.dram ∧
    t.bar = s.bar ∧ t.cdr = s.cdr ∧ t.refrain = s.refrain
  let sleeps := fun (coda : Bool) (s : State) => entry coda s ∧ s.mustWake = false ∧ s.stopDevice.mustWake = false
  (∀ s : State, (s.mustWake = true ↔ s.refrain.role = .active ∨ s.refrain.role = .handover) ∧
    (s.refrain.role = .none → s.refrain.takeActive = false → s.refrain.takeover = false → s.stopDevice.mustWake = false)) ∧
  Occurs .fermataEntry (fun _ => True) (fun s t => (¬entry false s → t = s) ∧ (entry false s → s.mustWake = true → given s t) ∧
    (sleeps false s → s.pwr.wakeDue.isSome = true → t.pwr.state = .play ∧ t.pwr.fwake = true ∧ t.pwr.wakeDue = none) ∧
    (sleeps false s → s.pwr.wakeDue = none → t.pwr.state = .fermata ∧ t.pwr.lastSleep = 1 ∧ t.mc.selfref = true ∧ t.pwr.wdogEnd = none ∧ t.cdr.run = .sleeping ∧ t.cdr.w = s.cdr.w ∧
    t.bar.running = false ∧ t.bar.resumeDue = s.bar.run ∧ t.duet.state = .off ∧ t.duet.en = s.duet.en ∧
    (∀ c : Fin 12, ∃ bx, t.core c = { VoiceCore.reset with startPtr := (s.core c).startPtr, bx } ∧ (s.bar.running = false → bx = (s.core c).bx)) ∧
    (∀ c : Fin 12, s.hasCore c = true → t.pwr.wasReleased.getLsbD c.val = (s.core c).released))) ∧
  Occurs .codaEntry (fun _ => True) (fun s t => (¬entry true s → t = s) ∧ (entry true s → s.mustWake = true → given s t) ∧ (sleeps true s →
    t.pwr.state = (if s.pwr.wakeDue.isSome then .codaWait else .coda) ∧ t.pwr.lastSleep = 2 ∧ t.pwr.mainPwrEn = s.pwr.wakeDue.isSome ∧ t.pwr.rstrsn = s.pwr.rstrsn ∧ t.dram = [] ∧ t.stage = [] ∧
    t.cores = Vector.replicate 12 VoiceCore.reset ∧ t.pwr.wakeMask = s.pwr.wakeMask ∧ t.pwr.wakeSec = s.pwr.wakeSec ∧
    ((∀ c ∈ s.rings.active, c.op ≠ 0x81 ∧ c.op ≠ 0x84) → t.flash = s.flash))) ∧
  (∀ (s : State) (ev : WakeEvent) (slept : Nat),
    let entering := fun (coda : Bool) (s : State) => s.on && s.rings.sleepReq = some coda
    let recorded := fun (s t : State) => t.pwr.state = s.pwr.state ∧ t.dram = s.dram ∧
      (s.wakes ev = false → t.pwr.wakeStat = s.pwr.wakeStat ∧ t.pwr.wakeDue = s.pwr.wakeDue) ∧
      (s.wakes ev = true → t.pwr.wakeStat = setBit s.pwr.wakeStat (bit ev) true ∧ t.pwr.wakeDue = some (s.pwr.wakeDue.getD ev))
    Completes (.fermataWake ev slept) s (fun t =>
      (s.pwr.state ≠ .fermata → entering false s = false → t = s) ∧ (entering false s = true → recorded s t) ∧
      (s.pwr.state = .fermata → s.wakes ev = false → t.pwr.state = .fermata ∧ t.cores = s.cores ∧ t.dram = s.dram ∧
        (s.tempo.freq = 0 → t.tempo.count = s.tempo.count + slept)) ∧
      (s.pwr.state = .fermata → s.wakes ev = true → t.pwr.state = .play ∧ t.pwr.fwake = true ∧ t.pwr.wakeStat.getLsbD (bit ev) = true ∧
        t.mc.selfref = false ∧ t.cdr.run = .running ∧ t.cdr.pc = s.pwr.resume ∧ t.rings.sleepReq = none ∧ t.pwr.wasReleased = 0 ∧
        t.dram = s.dram ∧ t.stage = s.stage ∧
        ∀ c : Fin 12, t.core c = if s.pwr.wasReleased.getLsbD c.val then
            ({ VoiceCore.reset with released := true, pc := (s.core c).startPtr, startPtr := (s.core c).startPtr } : VoiceCore).takePending
              (s.core c).bx
          else s.core c)) ∧
    Completes (.codaWake ev slept) s (fun t =>
      (s.pwr.state ≠ .coda → entering true s = false → t = s) ∧ (entering true s = true → recorded s t) ∧
      (s.pwr.state = .coda → s.wakes ev = false → t = { s with pwr := s.pwr.runAon slept }) ∧
      (s.pwr.state = .coda → s.wakes ev = true → t = { s with pwr := t.pwr } ∧ t.pwr.state = .codaWait ∧ t.pwr.mainPwrEn = true ∧
        t.pwr.wakeStat = setBit s.pwr.wakeStat (bit ev) true))) ∧
  (∀ (s : State) (ev : WakeEvent), s.pwr.wakeMask.getLsbD (bit ev) = false → s.wakes ev = false) ∧
  (∀ (s : State) (n : Fin 4), s.wakes (.pin n) = s.pwr.wakeMask.getLsbD n.val) ∧
  (∀ s : State, Completes .pwrFail s (fun t => (s.pwr.state ≠ .codaWait → t = s) ∧ (s.pwr.state = .codaWait →
      t = { s with pwr := { s.pwr.runAon 50000000 with mainPwrEn := false, pwrFail := true, state := .coda } })) ∧
    Completes .mainRailsInRange s (fun t => (s.pwr.state ≠ .codaWait → t = s) ∧ (s.pwr.state = .codaWait →
      (s.pwr.wdogEnd = none → s.rings.resetReq = none → t.pwr.rstrsn = setBits (setBit s.pwr.rstrsn 2 true) 12 (3 : BitVec 4)) ∧
      t.pwr.rstrsn.getLsbD 2 = true ∧ t.pwr.supplyLow = 0 ∧ t.cores = Vector.replicate 12 VoiceCore.reset ∧
      (s.pwr.tripped = false → t.pwr.state = .play ∧ t.boot.sentinel = .running)))) ∧
  Occurs .clockSetTimeout (fun _ => True) (fun s t => (s.running 0x12 = none → t = s) ∧
    ∀ c, s.running 0x12 = some c → t = (s.until (c.startAt + 1000000000)).finish c .notPermitted [])

/-! Field I/O. -/

/-- Ethernet and CAN FD (01 R16; 06 R221, R847; 17 R700, R701, R703 to R716, R728): received frames are filtered, stored in a buffer and counted; the next
descriptor or slot is sent, and a descriptor that cannot be acted on stops the MAC; MDIO transactions; receive handles and the receive queue; bus-off.
Where the spec leaves a point open, the model's choice: log 35. -/
def Obligations.NetworkUnits : Prop :=
  let quiet := fun (s : State) => s.refrain.stream = none ∧ s.echo.stalled = []
  (∀ (n : Fin 2) (bytes : List Byte) (fcs : Bool) (dt : Nat), Occurs (.ethRxFrame n bytes fcs dt) (fun _ => True) fun s t =>
    let e := s.elapse dt
    let x := s.eth n
    let pause := if fcs && x.ctl.getLsbD 6 then pauseQuanta bytes else none
    let p : Fin 32 := x.rxPool.toFin
    let listens : Prop := s.hasEth n = true ∧ x.ctl.getLsbD 0 = true
    let kept : Prop := listens ∧ pause = none ∧ x.accepts (bytes.take 6) = true
    let room : Prop := ringUsed (s.rxcNext n) x.rxcCons < x.rxcSize.toNat
    let told := { x with rxcProd := x.rxcProd + 1, rxOk := satInc x.rxOk }
    let granted : Prop := (s.pool p).en = true ∧ 2 < (s.pool p).free.length
    let indexed : Prop := p.val < 31 ∧ (s.pool p).free.headD 0 < 2 ^ 19
    let whole : Prop := fcs = true ∧ bytes.length + 4 ≤ x.limit ∧ bytes.length ≤ (s.pool p).bytes
    (¬listens ∨ (pause = none ∧ x.accepts (bytes.take 6) = false) → t = e) ∧
    (∀ q, listens → pause = some q → t = e.modEth n fun y => { y with pauseTo := e.tempo.count + q * x.quantum }) ∧
    (kept → ¬room → t = e.modEth n fun y => { y with rxNoRing := satInc y.rxNoRing, stat := setBit y.stat 2 true }) ∧
    (kept → room → ¬granted → t.eth n = { x with rxNoBuf := satInc x.rxNoBuf, stat := setBit x.stat 2 true } ∧ t.pool p = s.pool p) ∧
    (kept → room → granted → indexed → ¬whole → t.eth n = { x with rxBad := satInc x.rxBad, stat := setBit x.stat 2 true }) ∧
    (kept → room → granted → indexed → whole → (t.pool p).free = (s.pool p).free.tail ∧ (quiet s → t.eth n = told))) ∧
  (∀ (n : Fin 2) (dt : Nat), Occurs (.ethTxFrame n dt []) (fun _ => True) fun s t =>
    let e := s.elapse dt
    let x := s.eth n
    let at_ := ringEntry x.txBase x.txSize x.txCons
    let sends : Prop := s.hasEth n = true ∧ x.ctl.getLsbD 1 = true ∧ x.txProd ≠ x.txCons ∧ x.txSize ≠ 0 ∧ x.pauseTo ≤ e.tempo.count ∧
      e.stalledBy (.dma (.eth n)) = false
    (¬sends → t = e) ∧
    let stopped := fun (u : State) => u.modEth n fun y => { y with stat := setBit y.stat 3 true }
    (sends → e.domainRead at_ 8 = none → t = stopped e) ∧
    (∀ r, sends → e.domainRead at_ 8 = some r → (∃ y ∈ r.2, y.2 = true) → t = stopped r.1) ∧
    (∀ r, sends → e.domainRead at_ 8 = some r → (∀ y ∈ r.2, y.2 = false) → quiet s →
      let w := fun (i : Nat) => (r.2.map Prod.fst).getD i 0
      (t.eth n).txCons = x.txCons + 1 ∧
      (∀ h, h = w 1 → r.1.handleOk h = false → (t.eth n).txOk = x.txOk ∧ (t.eth n).stat.getLsbD 3 = true) ∧
      ∀ d, r.1.handleOk (w 1) = true → 14 ≤ (bits (w 0) 0 14).toNat → (bits (w 0) 0 14).toNat + 4 ≤ x.limit →
        (bits (w 0) 0 14).toNat ≤ (r.1.pool (handlePool (w 1))).bytes →
        r.1.domainRead (r.1.handleAt (w 1)) (((bits (w 0) 0 14).toNat + 2) / 3) = some d → (∀ y ∈ d.2, y.2 = false) →
        (t.eth n).txOk = satInc x.txOk ∧ (t.eth n).stat.getLsbD 0 = (x.stat.getLsbD 0 || (w 0).getLsbD 18))) ∧
  (∀ (w : Initiator) (n : Fin 2) (v : Word), Accesses (.mdioCmd w n v) w (fun _ => True) fun s t =>
    let op := bits v 10 2
    let starts : Prop := s.hasEth n = true ∧ (s.eth n).mdio = none ∧ (op = 1 ∨ op = 2)
    (¬starts → t = s) ∧ (starts → t = s.modEth n fun x => { x with mdio := some (bits v 0 12) })) ∧
  (∀ (n : Fin 2) (data : BitVec 16), Occurs (.mdioDone n data) (fun _ => True) fun s t =>
    ((s.eth n).mdio = none → t = s) ∧ ∀ c, (s.eth n).mdio = some c → t = s.modEth n fun x => { x with
      mdio := none, stat := setBit x.stat 4 true, mdioData := if bits c 10 2 = 2 then data else x.mdioData }) ∧
  (∀ n : Fin 4,
    (∀ (fr : CanFrame) (dt : Nat), Occurs (.canRxFrame n fr dt) (fun _ => True) fun s t =>
      let e := s.elapse dt
      let x := s.can n
      let less := { x with rxErr := if x.rxErr = 0 then 0 else x.rxErr - 1 }
      let takes : Prop := s.canActive n = true ∧ (fr.fd = true → x.ctl.getLsbD 1 = true)
      (¬takes → t = e) ∧ (takes → x.filterOf fr = none → t.can n = less) ∧
      (∀ i, takes → x.filterOf fr = some i →
        (x.handles = [] → t.can n = { less with flags := setBit x.flags 0 true }) ∧
        ∀ h rest, x.handles = h :: rest → quiet s →
          (16 ≤ x.rxq.length → t.can n = { less with flags := setBit x.flags 0 true }) ∧
          (x.rxq.length < 16 → s.handleOk h = false →
            t.can n = { less with handles := rest, flags := setBit (setBit x.flags 0 true) 1 true }) ∧
          (x.rxq.length < 16 → s.handleOk h = true → ∃ q, t.can n = { less with handles := rest, rxq := x.rxq ++ [q] } ∧ q.handle = h ∧
            q.idLo = fr.id.setWidth 24 ∧ q.idHi = canIdHi fr ∧ q.len = BitVec.ofNat 24 (fr.data.length + i.val * 256)))) ∧
    (∀ (o : CanOutcome) (dt : Nat), Occurs (.canTxFrame n o dt []) (fun _ => True) fun s t =>
      let e := s.elapse dt
      let x := s.can n
      let sends : Prop := s.canActive n = true ∧ x.ctl.getLsbD 3 = false ∧ s.refrain.fence = false ∧ e.stalledBy (.dma (.can n)) = false
      (¬sends ∨ x.winner = none → t = e) ∧
      ∀ i, sends → x.winner = some i →
        let sl := x.tx[i]
        let lenOk := canLenOk (sl.idHi.getLsbD 9 && x.ctl.getLsbD 1) sl.len.toNat
        (lenOk = false → (t.can n).tx[i] = { sl with req := false, done := true, status := 3 } ∧ (t.can n).flags = setBit x.flags 3 true) ∧
        (lenOk = true → sl.idHi.getLsbD 12 = true ∨ sl.len = 0 →
          (o = .arbLost → t = e) ∧ (o = .error → (t.can n).tec = x.tec + 8 ∧ (t.can n).tx = x.tx) ∧
          (o = .sent → (t.can n).tx[i].req = false ∧ (t.can n).tx[i].done = true ∧ (t.can n).tx[i].status = 0 ∧
            (t.can n).tec = (if x.tec = 0 then 0 else x.tec - 1) ∧ (t.can n).flags.getLsbD 3 = true)) ∧
        (lenOk = true → sl.idHi.getLsbD 12 = false → sl.len ≠ 0 → s.handleOk sl.handle = false →
          (t.can n).tx[i] = { sl with req := false, done := true, status := 2 })) ∧
    Occurs (.busOffRecovery n) (fun _ => True) (fun s t =>
      let x := s.can n
      let due : Prop := x.busoff = true ∧ (x.ctl.getLsbD 4 = true ∨ x.ctl.getLsbD 5 = true)
      (¬due → t = s) ∧ (due → t.can n = { x with
        busoff := false, passive := false, tec := 0, rxErr := 0, ctl := setBit x.ctl 5 false, flags := setBit x.flags 2 true })) ∧
    ∀ w : Initiator, let its := fun (s : State) => s.hasCan n = true
      (∀ slot : Fin 8,
        Accesses (.canReq w n slot) w its (fun s t => t = s.modCan n fun x => x.modSlot slot fun y => { y with req := true }) ∧
        Accesses (.canCancel w n slot) w its (fun s t =>
          (((s.can n).tx[slot]).req = false → t = s) ∧
          (((s.can n).tx[slot]).req = true → ((s.can n).tx[slot]).rel = false → t = s.modCan n fun x =>
            { x.modSlot slot (fun y => { y with req := false, done := true, status := 1 }) with flags := setBit x.flags 3 true }) ∧
          (((s.can n).tx[slot]).req = true → ((t.can n).tx[slot]).req = false ∧ ((t.can n).tx[slot]).status = 1))) ∧
      Accesses (.canRec w n) w its (fun s t => t = s.modCan n fun x => { x with ctl := setBit x.ctl 5 true }) ∧
      (∀ v : Word, Accesses (.rxhPush w n v) w its fun s t =>
        t = if s.handleOk v = true ∧ (s.can n).handles.length < 8 then s.modCan n fun x => { x with handles := x.handles ++ [v] }
          else s.modCan n fun x => { x with flags := setBit x.flags 1 true }) ∧
      Accesses (.rxqIdLoRead w n) w its (fun s t =>
        t = s.modCan n fun x => { x with latch := Tbl.put x.latch w.idx (x.rxq.headD RxqEntry.empty) }) ∧
      Accesses (.rxqPop w n) w its (fun s t => t = s.modCan n fun x => { x with rxq := x.rxq.tail }))

/-- SPI, I2C, UART and xSPI (01 R16; 06 R221, R847; 17 R717 to R721, Tables 17.8 to 17.10): FIFOs that ignore a push when they are full, frames and bytes on
the lines, the descriptors that read, program and erase the external flash, and those at which the engine stops. Where the spec leaves a point open, the model's choice: log 35. -/
def Obligations.SerialPorts : Prop :=
  let quiet := fun (s : State) => s.refrain.stream = none ∧ s.echo.stalled = []
  (∀ (n : Fin 4) (w : Initiator) (v : Word),
    let frames := fun (x : Spi) => x.ctl.getLsbD 0 = true ∧ x.busy = none
    let front := fun (x : I2c) (op : BitVec 3) => x.ctl.getLsbD 0 = true ∧ x.asTarget = none ∧ ∃ c, x.cmds.head? = some c ∧ bits c 8 3 = op
    Accesses (.spiTx w n v) w (fun _ => True) (fun s t => let x := s.spi n
      (32 ≤ x.tx.length → t = s) ∧
      (x.tx.length < 32 → frames x → t = s.modSpi n fun x => { x with tx := (x.tx ++ [v]).tail, busy := (x.tx ++ [v]).head? }) ∧
      (x.tx.length < 32 → ¬frames x → t = s.modSpi n fun x => { x with tx := x.tx ++ [v] })) ∧
    Occurs (.spiFrameDone n v) (fun _ => True) (fun s t => let x := s.spi n
      (x.busy = none → t = s) ∧ (x.busy ≠ none →
        (t.spi n).rx = (if 32 ≤ x.rx.length then x.rx else x.rx ++ [v &&& x.mask]) ∧
        (t.spi n).flags.getLsbD 1 = true ∧ (t.spi n).flags.getLsbD 0 = (x.flags.getLsbD 0 || 32 ≤ x.rx.length) ∧
        (x.ctl.getLsbD 0 = true → (t.spi n).busy = x.tx.head? ∧ (t.spi n).tx = x.tx.tail) ∧ ∀ k, k ≠ n → t.spi k = s.spi k)) ∧
    Accesses (.spiRx w n) w (fun _ => True) (fun s t => t = s.modSpi n fun x => { x with rx := x.rx.tail }) ∧
    (∀ (ack arb : Bool) (b : Byte),
      let sent := fun (x : I2c) => { x with cmds := x.cmds.tail, onBus := !arb, flags := x.flags ||| flag 4 0 (!ack && !arb) ||| flag 4 1 arb }
      let got := fun (x : I2c) => { x with cmds := x.cmds.tail, rx := if 16 ≤ x.rx.length then x.rx else x.rx ++ [b] }
      let step := fun (i : Instr) (ok : I2c → Prop) (f : I2c → I2c) => Occurs i (fun _ => True) fun s t =>
        (ok (s.i2c n) → t = s.modI2c n f) ∧ (¬ok (s.i2c n) → t = s)
      step (.i2cStart n ack arb) (front · 1) sent ∧ step (.i2cWrite n ack arb) (fun x => front x 2 ∧ x.onBus = true) sent ∧
      step (.i2cReadAck n b) (fun x => front x 3 ∧ x.onBus = true) got ∧ step (.i2cReadNack n b) (fun x => front x 4 ∧ x.onBus = true) got ∧
      step (.i2cAddressed n ack) (fun x => x.ctl.getLsbD 0 = true ∧ x.ctl.getLsbD 1 = true ∧ x.onBus = false)
        (fun x => { x with asTarget := some ack, stretch := ack && x.cmds.isEmpty, flags := setBit x.flags 2 true }) ∧
      Occurs (.i2cTargetByte n ack b) (fun _ => True) (fun s t => let x := s.i2c n
        (x.asTarget ≠ some ack → t = s) ∧
        (x.asTarget = some ack → ack = false → t = s.modI2c n fun x => { x with rx := if 16 ≤ x.rx.length then x.rx else x.rx ++ [b] }) ∧
        (x.asTarget = some ack → ack = true →
          (∀ c cs, x.cmds = c :: cs → bits c 8 3 = 2 → t = s.modI2c n fun x => { x with cmds := cs, stretch := cs.isEmpty }) ∧
          ((∀ c cs, x.cmds = c :: cs → bits c 8 3 ≠ 2) → t = s.modI2c n fun x => { x with stretch := true })))) ∧
    Occurs (.i2cStop n) (fun _ => True) (fun s t => let x := s.i2c n
      (x.asTarget ≠ none → t = s.modI2c n fun x => { x with asTarget := none, stretch := false, flags := setBit x.flags 3 true }) ∧
      (front x 5 → x.onBus = true → t = s.modI2c n fun x => { x with cmds := x.cmds.tail, onBus := false, flags := setBit x.flags 3 true }) ∧
      (x.asTarget = none → ¬(front x 5 ∧ x.onBus = true) → t = s)) ∧
    Accesses (.i2cRx w n) w (fun _ => True) (fun s t => t = s.modI2c n fun x => { x with rx := x.rx.tail }) ∧
    Accesses (.i2cCmd w n v) w (fun _ => True) (fun s t => (16 ≤ (s.i2c n).cmds.length → t = s) ∧
      ((s.i2c n).cmds.length < 16 → t = s.modI2c n fun x =>
        { x with cmds := x.cmds ++ [bits v 0 11], stretch := if bits v 8 3 = 2 then false else x.stretch })) ∧
    Accesses (.uartTx w n v) w (fun _ => True) (fun s t => (32 ≤ (s.uart n).tx.length → t = s) ∧
      ((s.uart n).tx.length < 32 → t = s.modUart n fun x => { x with tx := x.tx ++ [bits v 0 8] })) ∧
    Accesses (.uartRx w n) w (fun _ => True) (fun s t => t = s.modUart n fun x => { x with rx := x.rx.tail }) ∧
    (∀ (b : Byte) (perr ferr brk : Bool), Occurs (.uartByteReceived n b perr ferr brk) (fun _ => True) fun s t => let x := s.uart n
      (x.ctl.getLsbD 0 = false → t = s) ∧
      (x.ctl.getLsbD 0 = true → 32 ≤ x.rx.length → t = s.modUart n fun x => { x with flags := setBit x.flags 0 true }) ∧
      (x.ctl.getLsbD 0 = true → x.rx.length < 32 → t = s.modUart n fun x => { x with
        rx := x.rx ++ [(BitVec.ofBool brk ++ BitVec.ofBool ferr ++ BitVec.ofBool perr ++ (b &&& x.dataMask) : BitVec 11)] })) ∧
    Occurs (.uartByteTransmitted n) (fun _ => True) (fun s t => let x := s.uart n
      (x.ctl.getLsbD 0 = false ∨ x.tx = [] → t = s) ∧
      (x.ctl.getLsbD 0 = true → x.tx ≠ [] → t = s.modUart n fun x => { x with
        tx := x.tx.tail, flags := if x.tx.length = 1 then setBit x.flags 1 true else x.flags }))) ∧
  (let performs := fun (i : Instr) (op : Nat) (post : State → Fin 2 → XDesc → State → Prop) => Occurs i (fun _ => True) fun s t =>
      (s.io.xspi.nextRing = none ∨ s.stalledBy (.dma .xspi) = true → t = s) ∧
      let stopped := fun (u : State) => { u with io := { u.io with xspi := { u.io.xspi with flags := setBit u.io.xspi.flags 2 true } } }
      (∀ r, s.io.xspi.nextRing = some r → s.stalledBy (.dma .xspi) = false → s.domainRead (s.io.xspi.descAt r) 8 = none → t = stopped s) ∧
      ∀ r d, s.io.xspi.nextRing = some r → s.stalledBy (.dma .xspi) = false → s.domainRead (s.io.xspi.descAt r) 8 = some d →
        ((∃ y ∈ d.2, y.2 = true) → t = stopped d.1) ∧ ((∀ y ∈ d.2, y.2 = false) →
        let w := fun (i : Nat) => (d.2.map Prod.fst).getD i 0
        let x : XDesc := { w0 := w 0, addr := (w 1).toNat + (bits (w 2) 0 8).toNat * 2 ^ 24, len := (w 3).toNat, pa := (paddrOf (w 4) (w 5)).toNat }
        ((bits (w 0) 0 4).toNat ≠ op → op ≠ 1 → t = s) ∧ ((bits (w 0) 0 4).toNat = op → post d.1 r x t))
   let code := fun (u : State) (o : XOutcome) => if 1000000 * (bits u.io.xspi.cfg 8 16).toNat < o.busy then 4 else if o.error then 3 else 0
   let reads := fun (i : Instr) (op : Nat) (o : XOutcome) (answer : State → XDesc → List Byte) => performs i op fun u r x t =>
      let p : Fin 32 := (bits x.w0 8 5).toFin
      (op = 1 → x.w0.getLsbD 4 = true → (u.pool p).bytes < x.len → t = u.xspiDone r x.w0 1) ∧
      (op = 1 → x.w0.getLsbD 4 = true → x.len ≤ (u.pool p).bytes → (u.pool p).en = false → t = (u.grant p false).1.xspiDone r x.w0 2) ∧
      ((op = 1 → x.w0.getLsbD 4 = false) →
        let ranged : Prop := x.len = 0 ∨ (u.inDram x.pa = true ∧ u.inDram (x.pa + (x.len + 2) / 3 - 1) = true)
        (¬ranged → t = u.xspiDone r x.w0 1) ∧
        (ranged → code u o ≠ 0 → t = u.xspiDone r x.w0 (code u o)) ∧
        (ranged → code u o = 0 → t = ((u.domainWrite (.dma .xspi) x.pa (packBytes (answer u x))).1).xspiDone r x.w0 0))
   ∀ o : XOutcome,
    reads (.xspiRead o []) 1 o (fun u x => (List.range x.len).map fun i => u.xByte (x.addr + i)) ∧
    (∀ bytes, reads (.xspiReadSfdp o bytes) 5 o fun _ x => (List.range x.len).map fun i => bytes.getD i 0xFF) ∧
    performs (.xspiErase4k o) 3 (fun u r x t => (code u o ≠ 0 → t = u.xspiDone r x.w0 (code u o)) ∧
      (code u o = 0 → t = { u with xflash := eraseFlash u.xflash x.addr 4096 }.xspiDone r x.w0 0)) ∧
    performs (.xspiErase64k o) 4 (fun u r x t => (code u o ≠ 0 → t = u.xspiDone r x.w0 (code u o)) ∧
      (code u o = 0 → t = { u with xflash := eraseFlash u.xflash x.addr 65536 }.xspiDone r x.w0 0)) ∧
    performs (.xspiProgram o []) 2 (fun u r x t =>
      let page := 256 * 2 ^ (bits u.io.xspi.cfg 5 2).toNat
      let fits : Prop := x.addr % page + x.len ≤ page ∧ (x.len = 0 ∨ (u.inDram x.pa = true ∧ u.inDram (x.pa + (x.len + 2) / 3 - 1) = true))
      (¬fits → t = u.xspiDone r x.w0 1) ∧
      ∀ d, fits → u.domainRead x.pa ((x.len + 2) / 3) = some d →
        ((∃ y ∈ d.2, y.2 = true) → t = d.1.xspiDone r x.w0 5) ∧
        ((∀ y ∈ d.2, y.2 = false) → code u o ≠ 0 → t = d.1.xspiDone r x.w0 (code u o)) ∧
        ((∀ y ∈ d.2, y.2 = false) → code u o = 0 →
          t = { d.1 with xflash := programFlash d.1.xflash x.addr ((wordBytes (d.2.map Prod.fst)).take x.len) }.xspiDone r x.w0 0))) ∧
  (∀ (u : State) (r : Fin 2) (w0 : Word) (status : Nat), let t := u.xspiDone r w0 status
    t.xflash = u.xflash ∧ (quiet u → t.io.xspi.rings[r].cons = u.io.xspi.rings[r].cons + 1 ∧
    (∀ q, q ≠ r → t.io.xspi.rings[q] = u.io.xspi.rings[q]) ∧ (w0.getLsbD 5 = true → t.io.xspi.flags.getLsbD r.val = true) ∧
    (status ≠ 0 → t.io.xspi.flags.getLsbD 2 = true))) ∧
  (∀ (m : Memory) (a k b : Nat), Memory.wf flashDefault m = true → 0 < k →
    Memory.byte flashDefault (eraseFlash m a k) b = if b / k = a / k then 0xFF else Memory.byte flashDefault m b) ∧
  (∀ (m : Memory) (a b : Nat) (v : Byte), Memory.wf flashDefault m = true → b < 2 ^ 32 →
    Memory.byte flashDefault (programFlash m a [v]) b =
      if b = a % 2 ^ 32 then Memory.byte flashDefault m b &&& v else Memory.byte flashDefault m b)

/-! Pins, registers and counters. -/

/-- GPIO and the output pins (17 R695, R698, R722, R723, R727, R729; 18 R739; 19 R763): the set, clear and safe-state registers change
exactly the pins that they name, a change at an input is shown and told where its kind selects the edge, a bank whose rail is low is
recorded and its outputs are high-impedance, the fence drives safe states, and ACMPn_OUT drives FLT.
Where the spec leaves a point open, the model's choice: log 35. -/
def Obligations.GpioPins : Prop :=
  let outIs := fun (s t : State) (f : Nat → Bool) => (∀ p < 64, t.io.gpio.out.getLsbD p = f p) ∧
    t = s.modGpio fun g => { g with out := t.io.gpio.out }
  let field := fun (s : State) (p : Nat) => bits s.io.gpio.safe (2 * p) 2
  (∀ (w : Initiator) (n : Fin 3) (v : Word),
    Accesses (.gpioSet w n v) w (fun _ => True) (fun s t =>
      outIs s t fun p => s.io.gpio.out.getLsbD p || (decide (p / 24 = n.val) && v.getLsbD (p % 24))) ∧
    Accesses (.gpioClr w n v) w (fun _ => True) fun s t =>
      outIs s t fun p => s.io.gpio.out.getLsbD p && !(decide (p / 24 = n.val) && v.getLsbD (p % 24))) ∧
  (∀ (w : Initiator) (n : Fin 6) (v : Word), Accesses (.gpioSafeWrite w n v) w (fun _ => True) fun s t =>
    (s.io.gpio.lock = true ∧ w.locked = true → t = s) ∧
    (s.io.gpio.lock = false ∨ w.locked = false →
      (∀ p < 64, field t p = if p / 12 = n.val ∧ bits v (2 * (p % 12)) 2 ≠ 3 then bits v (2 * (p % 12)) 2 else field s p) ∧
      t = s.modGpio fun g => { g with safe := t.io.gpio.safe })) ∧
  (∀ (pin : Fin 64) (level : Bool), Occurs (.gpioInputChange pin level) (fun _ => True) fun s t =>
    let cfg := bits s.io.gpio.icfg (2 * pin.val) 2
    let selected : Prop := (cfg = 0 ∧ level = true) ∨ (cfg = 1 ∧ level = false) ∨ cfg = 2
    let shown := s.modGpio fun g => { g with pins := setBit g.pins pin.val level }
    (s.io.gpio.pins.getLsbD pin.val = level → t = s) ∧
    (s.io.gpio.pins.getLsbD pin.val ≠ level → selected → t = shown.edge 0 (112 + pin.val)) ∧
    (s.io.gpio.pins.getLsbD pin.val ≠ level → ¬selected → t = shown)) ∧
  (∀ (pin : Fin 64) (level : Bool) (s : State), s.pwr.state ≠ .fermata → s.on = false →
    exec (.gpioInputChange pin level) s = .next (s.modGpio fun g => { g with pins := setBit g.pins pin.val level })) ∧
  (∀ (pin : Fin 64) (level : Bool) (s : State), s.pwr.state = .fermata → Completes (.gpioInputChange pin level) s fun t =>
    exec (.fermataWake (.gpio pin level) 0) s = .next t ∧
    (s.wakes (.gpio pin level) = false → t.pwr.state = .fermata ∧ t.io.gpio.pins.getLsbD pin.val = level)) ∧
  (∀ (bank : Fin 6) (s : State), s.on = true ∨ s.pwr.state = .fermata →
    Completes (.bankLow bank) s (fun t => t = (s.modGpio fun g =>
      { g with low := setBit g.low bank.val true, chg := g.chg || !g.low.getLsbD bank.val }) ∧
      ∀ p i, p.unit = some i → i.bank.bit = bank.val → t.output p = .highZ) ∧
    Completes (.bankRailRecovery bank) s fun t => t = (s.modGpio fun g =>
      { g with low := setBit g.low bank.val false, chg := g.chg || g.low.getLsbD bank.val }) ∧
      ∀ p i, p.unit = some i → i.bank.bit = bank.val → p ≠ .mainPwrEn → s.pwr.state = .play → t.output p = t.unitDrives p) ∧
  (∀ (s : State) (p : OutPin), s.pwr.state = .porst → p ≠ .mainPwrEn → s.output p = .highZ) ∧
  (∀ n : Fin 64, (OutPin.gpio n).unit.map Interface.bank = some (if n.val < 32 then .e else .f)) ∧
  (∀ k : Fin 16, (OutPin.pwm k).unit.map Interface.bank = some .e) ∧ (∀ n : Fin 4, (OutPin.canTx n).unit.map Interface.bank = some .c) ∧
  (∀ (s : State) (n : Fin 64), let code := bits s.io.gpio.safe (2 * n.val) 2
    (s.refrain.fence = true → s.io.gpio.fen.getLsbD n.val = true →
      s.unitDrives (.gpio n) = if code = 1 then .low else if code = 2 then .high else .highZ) ∧
    (s.refrain.fence = false ∨ s.io.gpio.fen.getLsbD n.val = false →
      s.unitDrives (.gpio n) = if s.io.gpio.oe.getLsbD n.val = false then .highZ else if s.io.gpio.out.getLsbD n.val = true then .high else .low)) ∧
  (∀ (s : State) (k : Fin 16), s.refrain.fence = true → (s.pwmCh k).fcfg.getLsbD 0 = true → let code := bits (s.pwmCh k).fcfg 1 2
    s.unitDrives (.pwm k) = if code = 1 then .low else if code = 2 then .high else .highZ) ∧
  ∀ (s : State) (n : Fin 8), s.hasAcmp n = true → let a := s.acmp n
    (a.ctl.getLsbD 11 = false → s.unitDrives (.acmpOut n) = .low) ∧
    (a.ctl.getLsbD 11 = true → s.unitDrives (.acmpOut n) = if a.flt = a.ctl.getLsbD 10 then .low else .high)

/-- PWM channels (17 R724, 18 R740, R742, R744, R748): a period starts with the written period and duty and ends a cutoff, a start of
the active level restarts the ramps that name the channel, and the end of the active level makes the complement due.
Where the spec leaves a point open, the model's choice: log 35. -/
def Obligations.PwmChannels : Prop :=
  let lead := fun (p : PwmCh) => if p.ctl.getLsbD 1 then ((max 2 p.period.toNat) - min (max 2 p.period.toNat) p.duty.toNat) / 2 else 0
  let started := fun (p : PwmCh) (now : Nat) => { p with
    curP := p.period, curD := p.duty, start := now, cut := false, stat := setBit p.stat 1 true, level := decide (p.duty ≠ 0)
    compDue := if p.duty ≠ 0 ∧ lead p = 0 then none else some (p.compDue.getD (now + 5 * p.dead.toNat))
    activeAt := if p.duty = 0 then none else some (now + 5 * lead p) }
  let names := fun (s : State) (n : Fin 8) (ch : Fin 16) => s.hasAcmp n = true ∧ (s.acmp n).rampEn = true ∧ (s.acmp n).rampSel = ch
  (∀ ch : Fin 16, Occurs (.pwmPeriodStart ch) (fun _ => True) fun s t =>
    let p := s.pwmCh ch
    let u := s.until (p.start + 5 * max 2 p.curP.toNat)
    (p.en = false → t = s) ∧ (p.en = true →
      t.pwmCh ch = started p u.tempo.count ∧ t = { u with io := { u.io with pwm := t.io.pwm, acmp := t.io.acmp } } ∧
      (∀ k, k ≠ ch → t.pwmCh k = s.pwmCh k) ∧
      ∀ n : Fin 8, let a := s.acmp n
        (¬names s n ch ∨ p.duty = 0 → t.acmp n = a) ∧
        (names s n ch → p.duty ≠ 0 → lead p = 0 →
          t.acmp n = { a with rampAt := some u.tempo.count, rampDue := none, dac := a.newDac, slope := a.newSlope }) ∧
        (names s n ch → p.duty ≠ 0 → 0 < lead p → t.acmp n = { a.sync u.tempo.count with rampDue := some (u.tempo.count + 5 * lead p) }))) ∧
  (∀ ch : Fin 16, Occurs (.pwmActiveEnd ch) (fun _ => True) fun s t =>
    let p := s.pwmCh ch
    let ends : Prop := p.en = true ∧ p.level = true ∧ p.curD.toNat < max 2 p.curP.toNat
    (p.activeAt = none ∨ ¬ends → t = s) ∧
    ∀ b, p.activeAt = some b → ends →
      let u := s.until (b + 5 * p.curD.toNat)
      t = u.modPwm ch fun q => { q with
        level := false, compDue := if p.cut = false then some (u.tempo.count + 5 * p.dead.toNat) else p.compDue }) ∧
  ∀ (w : Initiator) (v : Word), Accesses (.pwmSync w v) w (fun _ => True) fun s t =>
    (∀ k : Fin 16, t.pwmCh k = if v.getLsbD k.val = true ∧ (s.pwmCh k).en = true then started (s.pwmCh k) s.tempo.count else s.pwmCh k) ∧
    t = { s with io := { s.io with pwm := t.io.pwm, acmp := t.io.acmp } } ∧
    ∀ n : Fin 8, (∀ k : Fin 16, v.getLsbD k.val = true → (s.pwmCh k).en = true → ¬names s n k) → t.acmp n = s.acmp n

/-- The Accent comparators (17 R725; 18 R736 to R738, R744 to R747, R749, R756, R757): RAW follows the input with its hysteresis, FLT
follows the majority of its samples, a written level waits for the next start of the active level where a ramp runs, FLT that is 1
when blanking ends cuts the channel and is counted, and the supply holds FLT at 1 while it is low.
Where the spec leaves a point open, the model's choice: log 35. -/
def Obligations.AccentComparators : Prop :=
  (∀ (n : Fin 8) (mv dt : Nat), Occurs (.acmpInputCrossing n mv dt) (fun _ => True) fun s t =>
    let a := s.acmp n
    let live : Prop := s.hasAcmp n = true ∧ a.en = true
    let raw := if s.acmpRef n < 64 * mv then true else if 64 * mv + 64 * a.hyst < s.acmpRef n then false else a.raw
    (¬live → t = s.elapse dt) ∧
    (live → (t.acmp n).raw = raw ∧ t.tempo.count = s.tempo.count + dt ∧ (t.acmp n).ctl = a.ctl ∧
      (35 ≤ dt → a.settle = none → a.supplyLow = false → (t.acmp n).flt = raw) ∧
      (a.settle ≠ none ∨ a.supplyLow = true ∨ dt = 0 → (t.acmp n).flt = a.flt) ∧ ∀ k, k ≠ n → t.acmp k = s.acmp k)) ∧
  (∀ (w : Initiator) (n : Fin 8) (isSlope : Bool) (v : Word), Accesses (.acmpDacWrite w n isSlope v) w (fun _ => True) fun s t =>
    let a := (s.acmp n).sync s.tempo.count
    let waits : Prop := a.rampEn = true ∧ (s.pwmCh a.rampSel).en = true
    let put := if isSlope then { a with newSlope := bits v 0 12 } else { a with newDac := bits v 0 10 }
    (s.hasAcmp n = false → t = s) ∧
    (s.hasAcmp n = true → waits → t = s.modAcmp n fun _ => put) ∧
    (s.hasAcmp n = true → ¬waits → t = s.modAcmp n fun _ => { put with dac := put.newDac, slope := put.newSlope })) ∧
  (∀ n : Fin 8, Occurs (.acmpSettleEnd n) (fun _ => True) fun s t =>
    ((s.acmp n).settle = none → t = s) ∧
    ∀ e, (s.acmp n).settle = some e →
      (t.acmp n).settle = none ∧ (∀ k, k ≠ n → t.acmp k = s.acmp k) ∧ t.tempo.count = max s.tempo.count e ∧
      (t.acmp n).flt = if (s.acmp n).supplyLow then (s.acmp n).flt else (s.acmp n).raw) ∧
  (∀ ch : Fin 16, Occurs (.blankingEnd ch) (fun _ => True) fun s t =>
    let p := s.pwmCh ch
    ∀ n b, p.cutBy = some n → p.activeAt = some b → p.en = true → p.level = true → p.cut = false →
      let u := s.until (b + 5 * (s.acmp n).blank.toNat)
      (s.fltOf n = false → t = u) ∧
      (s.fltOf n = true → (t.pwmCh ch).cut = true ∧ (t.pwmCh ch).stat.getLsbD 0 = true ∧ (t.acmp n).trip = true ∧
        (t.acmp n).tripCnt = satInc (s.acmp n).tripCnt ∧ (∀ k, k ≠ n → t.acmp k = s.acmp k) ∧
        ∀ k, (s.pwmCh k).cutBy ≠ some n → t.pwmCh k = s.pwmCh k)) ∧
  (∀ ch : Fin 16, Occurs (.blankingEnd ch) (fun s =>
    (s.pwmCh ch).cutBy = none ∨ (s.pwmCh ch).activeAt = none ∨ (s.pwmCh ch).en = false ∨ (s.pwmCh ch).level = false ∨ (s.pwmCh ch).cut = true)
    fun s t => t = s) ∧
  (∀ s : State, s.pwr.state = .fermata → Completes .vddaAcmpLow s (fun t => t = { s with io := { s.io with vddaLow := true } }) ∧
    Completes .vddaAcmpRecovery s fun t => t = { s with io := { s.io with vddaLow := false } }) ∧
  Occurs .vddaAcmpLow (fun _ => True) (fun s t => t.io.vddaLow = true ∧ ∀ n : Fin 8,
    (s.hasAcmp n = true → (s.acmp n).en = true → (t.acmp n).flt = true ∧ (t.acmp n).supplyLow = true) ∧
    (s.hasAcmp n = false ∨ (s.acmp n).en = false → t.acmp n = s.acmp n)) ∧
  Occurs .vddaAcmpRecovery (fun _ => True) (fun s t => t.io.vddaLow = false ∧ ∀ n : Fin 8, let a := s.acmp n
    (a.supplyLow = false → t.acmp n = a) ∧
    (a.supplyLow = true → (t.acmp n).supplyLow = false ∧ (t.acmp n).raw = a.raw ∧
      (t.acmp n).flt = (a.majority && a.settle.isNone)))

/-- REGISTER_WRITE (00 R5, R837; 03 R75 to R77, R80, R83; 06 R212; 11 R452): a write to an absent unit, or to the private space by an
initiator that does not reach it, changes nothing, one outside every window writes memory for the debug port alone, and every other is
the write of the window's register; a cycle count that passes 2^48 starts again and raises source 20. That a debug session with PRIV
changes flash by words is the model's choice: log 36. -/
def Obligations.RegisterWritesAndCounters : Prop :=
  (∀ (w : Initiator) (a : PAddr) (v : Word), Accesses (.registerWrite w false a v) w (fun _ => True) fun s t =>
    (winAt a.toNat = none → w ≠ .debug → t = s) ∧ (winAt a.toNat = none → w = .debug → t = (s.domainWrite .debug a.toNat [v]).1) ∧ ∀ x off, winAt a.toNat = some (x, off) →
      (s.winPresent x off = false → t = s) ∧ (s.winPresent x off = true → t = s.winWrite w x off v)) ∧
  (∀ (w : Initiator) (a : PAddr) (v : Word), Accesses (.registerWrite w true a v) w (fun _ => True) fun s t =>
    let o := a.toNat
    (s.reachesPrivate w = false ∨ 0x422000 ≤ o ∨ (o < 0x420000 ∧ w ≠ .debug) → t = s) ∧
    (0x0E0000 ≤ o → o < 0x200000 → t = s) ∧ (s.reachesPrivate w = true → w = .debug →
      (0x200000 ≤ o → o < 0x400000 → t = { s with flash := Memory.setWord flashDefault s.flash o v }) ∧
      (0x400000 ≤ o → o < 0x420000 → t = { s with csram := Memory.setLanes ramDefault s.csram (o - 0x400000) v 7 })) ∧
    (s.reachesPrivate w = true → 0x420000 ≤ o → o < 0x421000 → t = s.flashRegWrite (o - 0x420000) v) ∧
    (s.reachesPrivate w = true → 0x421000 ≤ o → o < 0x422000 → t = s.fuseRegWrite (o - 0x421000) v)) ∧
  (∀ a : Nat, a < 0x1000000 ∨ 0x2000000 ≤ a → winAt a = none) ∧
  (∀ (c : Fin 12) (s : State), s.on = true → s.hasCore c = true → (s.core c).released = true → (s.core c).hush = false →
    0 < s.mhz (sectionOf c) → (s.core c).cycRem < 1000 → s.tempo.nsRem < s.tempo.pace → s.tempo.slewRem = 0 →
    ∃ t, exec (.cycleWrap (.voice c)) s = .next t ∧ (t.core c).cycle.toNat ≤ 8 ∧ (t.core c).w = (s.core c).w ∧ t.dram = s.dram ∧
      ((s.chorus.src c.val 20).edge = true → (t.chorus.src c.val 20).latch = true)) ∧
  (∀ s : State, s.on = true → s.cdr.run = .running → s.cdr.cycRem < 1000 → s.tempo.nsRem < s.tempo.pace → s.tempo.slewRem = 0 →
    ∃ t, exec (.cycleWrap .conductor) s = .next t ∧ t.cdr.cycle = 0 ∧ t.cdr.w = s.cdr.w ∧ t.dram = s.dram ∧
      ((s.chorus.src 12 20).edge = true → (t.chorus.src 12 20).latch = true))

/-- What a warm reset from Play and every cold reset by PORST_N leave (02 R57, 05 R183, 08 R327, 17 R732, 18 R755): the Bar unit stopped
with its reset configuration and REST in every beat table entry, no edge latch and no active source, the field units disabled with
empty queues and open locks, and no Voice core executing. -/
def Obligations.ResetLeavesUnitsAtRest : Prop :=
  let bar := fun (t : State) => t.bar = BarUnit.reset ∧ t.bar.run = false ∧ t.bar.running = false ∧ t.bar.cnt = 0 ∧ t.bar.cfg = t.bar.staged ∧ t.bar.lock = false ∧
    t.bar.staged.period.toNat = 100000 ∧ t.bar.staged.beats.toNat = 20 ∧ t.bar.staged.align = false ∧ t.bar.staged.offset = 0 ∧
    t.bar.staged.refq = 0 ∧ t.bar.staged.reh = 0 ∧
    ∀ (c : Fin 12) (k : Nat), tableEntry (t.bar.cores[c]).bst k = 0 ∧ tableEntry (t.bar.cores[c]).btc k = 0
  let chorus := fun (t : State) => t.chorus.en = false ∧ ∀ g n : Nat, (t.chorus.src g n).latch = false ∧ (t.chorus.src g n).active = none ∧
    (n ≠ 18 → (t.chorus.src g n).en = false)
  let io := fun (t : State) =>
    (∀ n : Fin 2, (t.eth n).ctl.getLsbD 0 = false ∧ (t.eth n).ctl.getLsbD 1 = false) ∧
    (∀ n : Fin 4, (t.can n).ctl.getLsbD 0 = false ∧ (t.can n).handles = [] ∧ (t.can n).rxq = [] ∧ ∀ i : Fin 8, ((t.can n).tx[i]).req = false) ∧
    (∀ n : Fin 4, (t.spi n).ctl.getLsbD 0 = false ∧ (t.spi n).tx = [] ∧ (t.spi n).rx = []) ∧
    (∀ n : Fin 4, (t.i2c n).ctl.getLsbD 0 = false ∧ (t.i2c n).cmds = [] ∧ (t.i2c n).rx = []) ∧
    (∀ n : Fin 4, (t.uart n).ctl.getLsbD 0 = false ∧ (t.uart n).tx = [] ∧ (t.uart n).rx = []) ∧ t.io.xspi.ctl.getLsbD 0 = false ∧
    t.io.gpio.oe = 0 ∧ t.io.gpio.lock = false ∧ t.io.pwmLock = false ∧ t.io.acmpLock = false ∧
    (∀ k : Fin 16, (t.pwmCh k).en = false ∧ (t.pwmCh k).level = false) ∧
    ∀ n : Fin 8, (t.acmp n).flt = false ∧ (t.acmp n).ctl = 0 ∧ (t.acmp n).dac = 0 ∧ (t.acmp n).slope = 0 ∧ (t.acmp n).blank = 0 ∧
      (t.acmp n).trip = false ∧ (t.acmp n).tripCnt = 0
  let cores := fun (t : State) => ∀ c : Fin 12, (t.core c).released = false ∧ (t.core c).level = .monitor ∧ (t.core c).mptag = 0
  let rest := fun (t : State) => bar t ∧ chorus t ∧ io t ∧ cores t
  (∀ (s : State) (slept : Nat), s.pwr.state = .play → s.tempo.step = none → Completes (.warmrstN slept) s rest) ∧
  (∀ (s : State) (off : Nat), Completes (.porstN false off) s rest)
end

