-- ==== Sys2Proof/Laws/Memory.lean ====
section
/-! SUPPORT. The canonical form of a memory is kept by every operation on it, and what a byte reads as after a write. -/
set_option Elab.async false
set_option linter.all false
namespace Sys2Proof.Machine

/-! Sparse tables. -/

@[simp] theorem Memory.wfFrom_nil (d : Byte) (p : Option Nat) : Memory.wfFrom d p [] = true := by cases p <;> rfl

theorem Memory.wfFrom_cons (d : Byte) (p : Option Nat) (k : Nat) (b : Byte) (t : Memory) :
    Memory.wfFrom d p ((k, b) :: t) = true ↔ (∀ q, p = some q → q < k) ∧ b ≠ d ∧ Memory.wfFrom d (some k) t = true := by
  cases p <;> simp [Memory.wfFrom, and_assoc]

/-- A canonical tail stays canonical behind a smaller key. -/
theorem Memory.wfFrom_weaken (d : Byte) {p q : Option Nat} {m : Memory} (h : Memory.wfFrom d p m = true)
    (hq : ∀ x, q = some x → ∃ y, p = some y ∧ x ≤ y) : Memory.wfFrom d q m = true := by
  cases m with
  | nil => simp
  | cons c t =>
    obtain ⟨k, b⟩ := c
    rw [Memory.wfFrom_cons] at h ⊢
    refine ⟨fun x hx => ?_, h.2⟩
    obtain ⟨y, hy, hle⟩ := hq x hx
    exact Nat.lt_of_le_of_lt hle (h.1 y hy)

theorem Tbl.put_wf (d : Byte) (m : Memory) (p : Option Nat) (k : Nat) (b : Byte) (h : Memory.wfFrom d p m = true)
    (hp : ∀ q, p = some q → q < k) (hb : b ≠ d) : Memory.wfFrom d p (Tbl.put m k b) = true := by
  induction m generalizing p with
  | nil => simpa [Tbl.put, Memory.wfFrom_cons, hb] using hp
  | cons c t ih =>
    obtain ⟨j, y⟩ := c
    rw [Memory.wfFrom_cons] at h
    rw [Tbl.put]
    split
    · rename_i e
      subst e
      exact (Memory.wfFrom_cons ..).2 ⟨hp, hb, h.2.2⟩
    · split
      · rename_i hlt
        exact (Memory.wfFrom_cons ..).2 ⟨hp, hb, (Memory.wfFrom_cons ..).2 ⟨by rintro q ⟨⟩; exact hlt, h.2⟩⟩
      · exact (Memory.wfFrom_cons ..).2 ⟨h.1, h.2.1, ih _ h.2.2 (by rintro q ⟨⟩; omega)⟩

theorem Tbl.del_wf (d : Byte) (m : Memory) (p : Option Nat) (k : Nat) (h : Memory.wfFrom d p m = true) :
    Memory.wfFrom d p (Tbl.del m k) = true := by
  induction m generalizing p with
  | nil => simp [Tbl.del]
  | cons c t ih =>
    obtain ⟨j, y⟩ := c
    rw [Tbl.del]
    split
    · rw [Memory.wfFrom_cons] at h
      exact Memory.wfFrom_weaken d h.2.2 fun x hx => ⟨j, rfl, Nat.le_of_lt (h.1 x hx)⟩
    · split
      · exact h
      · rw [Memory.wfFrom_cons] at h
        exact (Memory.wfFrom_cons ..).2 ⟨h.1, h.2.1, ih _ h.2.2⟩

/-! Every memory operation keeps the canonical form. -/

theorem Memory.setByte_wf {d : Byte} {m : Memory} (k : Nat) (b : Byte) (h : Memory.wf d m = true) :
    Memory.wf d (Memory.setByte d m k b) = true := by
  rw [Memory.setByte]
  split
  · exact Tbl.del_wf d m none k h
  · rename_i hb
    exact Tbl.put_wf d m none k b h nofun hb

theorem Memory.setLanes_wf {d : Byte} {m : Memory} (a : Nat) (v : Word) (mask : BitVec 3) (h : Memory.wf d m = true) :
    Memory.wf d (Memory.setLanes d m a v mask) = true := by
  have step : ∀ (c : Bool) (m : Memory) (k : Nat) (b : Byte), Memory.wf d m = true →
      Memory.wf d (if c then Memory.setByte d m k b else m) = true := by
    intro c m k b h
    cases c
    · exact h
    · exact Memory.setByte_wf k b h
  exact step _ _ _ _ (step _ _ _ _ (step _ _ _ _ h))

theorem Memory.setWord_wf {d : Byte} {m : Memory} (a : Nat) (v : Word) (h : Memory.wf d m = true) :
    Memory.wf d (Memory.setWord d m a v) = true := Memory.setLanes_wf a v 7 h

theorem Memory.setWords_wf {d : Byte} {m : Memory} (a : Nat) (vs : List Word) (h : Memory.wf d m = true) :
    Memory.wf d (Memory.setWords d m a vs) = true := by
  induction vs generalizing m a with
  | nil => exact h
  | cons v vs ih => exact ih (a + 1) (Memory.setWord_wf a v h)

theorem Memory.filter_wf {d : Byte} (m : Memory) (p : Option Nat) (q : Host.Cell → Bool) (h : Memory.wfFrom d p m = true) :
    Memory.wfFrom d p (m.filter q) = true := by
  induction m generalizing p with
  | nil => simp
  | cons c t ih =>
    obtain ⟨k, b⟩ := c
    rw [Memory.wfFrom_cons] at h
    rw [List.filter_cons]
    split
    · exact (Memory.wfFrom_cons ..).2 ⟨h.1, h.2.1, ih _ h.2.2⟩
    · exact ih _ (Memory.wfFrom_weaken d h.2.2 fun x hx => ⟨k, rfl, Nat.le_of_lt (h.1 x hx)⟩)

theorem Memory.clearWords_wf {d : Byte} {m : Memory} (a n : Nat) (h : Memory.wf d m = true) :
    Memory.wf d (Memory.clearWords m a n) = true := Memory.filter_wf m none _ h

theorem Memory.foldl_wf {d : Byte} {α : Type} (f : Memory → α → Memory) (l : List α) {m : Memory} (h : Memory.wf d m = true)
    (hf : ∀ m x, Memory.wf d m = true → Memory.wf d (f m x) = true) : Memory.wf d (l.foldl f m) = true := by
  induction l generalizing m with
  | nil => exact h
  | cons x l ih => exact ih (hf m x h)

/-! What a write leaves to read. -/

theorem Tbl.find_below {d : Byte} {m : Memory} {p k : Nat} (h : Memory.wfFrom d (some p) m = true) (hk : k ≤ p) : Tbl.find m k = none := by
  cases m with
  | nil => rfl
  | cons c t =>
    have := ((Memory.wfFrom_cons ..).1 h).1 p rfl
    rw [Tbl.find, if_neg (by omega), if_pos (by omega)]

theorem Tbl.find_put {α : Type} (m : Tbl α) (k j : Nat) (b : α) : Tbl.find (Tbl.put m k b) j = if j = k then some b else Tbl.find m j := by
  induction m with
  | nil => simp only [Tbl.put, Tbl.find]; split <;> simp
  | cons c t ih =>
    obtain ⟨q, y⟩ := c
    rw [Tbl.put]
    split
    · subst q; simp only [Tbl.find]; split <;> simp
    · split
      · rw [Tbl.find]
        split
        · rfl
        · split
          · rw [Tbl.find, if_neg (by omega), if_pos (by omega)]
          · rfl
      · rw [Tbl.find, ih]
        split
        · rename_i e; subst q; rw [if_neg (by omega), Tbl.find, if_pos rfl]
        · split
          · rw [if_neg (by omega), Tbl.find, if_neg (by assumption), if_pos (by assumption)]
          · rename_i h3 h4
            rw [show Tbl.find ((q, y) :: t) j = Tbl.find t j by rw [Tbl.find, if_neg h3, if_neg h4]]

theorem Tbl.find_del {d : Byte} {m : Memory} {p : Option Nat} (h : Memory.wfFrom d p m = true) (k j : Nat) :
    Tbl.find (Tbl.del m k) j = if j = k then none else Tbl.find m j := by
  induction m generalizing p with
  | nil => simp [Tbl.del, Tbl.find]
  | cons c t ih =>
    obtain ⟨q, y⟩ := c
    have h' := ((Memory.wfFrom_cons ..).1 h).2.2
    rw [Tbl.del]
    split
    · subst q
      split
      · subst j; exact Tbl.find_below h' (Nat.le_refl _)
      · rw [Tbl.find, if_neg (by assumption)]
        split
        · exact Tbl.find_below h' (by omega)
        · rfl
    · split
      · split
        · rw [Tbl.find, if_neg (by omega), if_pos (by omega)]
        · rfl
      · rw [Tbl.find, ih h']
        split
        · rename_i e; subst q; rw [if_neg (by omega), Tbl.find, if_pos rfl]
        · split
          · rw [if_neg (by omega), Tbl.find, if_neg (by assumption), if_pos (by assumption)]
          · rename_i h3 h4
            rw [show Tbl.find ((q, y) :: t) j = Tbl.find t j by rw [Tbl.find, if_neg h3, if_neg h4]]

theorem Memory.byte_setByte {d : Byte} {m : Memory} (h : Memory.wf d m = true) (k j : Nat) (b : Byte) :
    Memory.byte d (Memory.setByte d m k b) j = if j = k then b else Memory.byte d m j := by
  unfold Memory.byte Memory.setByte Tbl.get
  split
  · rename_i e; rw [Tbl.find_del h]; split <;> simp [e]
  · rw [Tbl.find_put]; split <;> rfl

theorem ofLanes_lane (v : Word) : ofLanes (lane v 0) (lane v 1) (lane v 2) = v := by
  apply BitVec.eq_of_getLsbD_eq
  intro i hi
  simp only [ofLanes, lane, BitVec.getLsbD_append, BitVec.getLsbD_setWidth, BitVec.getLsbD_ushiftRight]
  by_cases h1 : i < 8
  · simp [h1]
  · by_cases h2 : i - 8 < 8
    · simp [h1, h2, show 8 + (i - 8) = i by omega]
    · simp [h1, h2, show 16 + (i - 8 - 8) = i by omega, show i - 8 - 8 < 8 by omega]

theorem Memory.word_setWord {d : Byte} {m : Memory} (h : Memory.wf d m = true) (a j : Nat) (v : Word) :
    Memory.word d (Memory.setWord d m a v) j = if j = a then v else Memory.word d m j := by
  have h0 : Memory.wf d (Memory.setByte d m (3 * a) (lane v 0)) = true := Memory.setByte_wf _ _ h
  have h1 : Memory.wf d (Memory.setByte d (Memory.setByte d m (3 * a) (lane v 0)) (3 * a + 1) (lane v 1)) = true :=
    Memory.setByte_wf _ _ h0
  have e : Memory.setWord d m a v = Memory.setByte d (Memory.setByte d (Memory.setByte d m (3 * a) (lane v 0)) (3 * a + 1) (lane v 1))
      (3 * a + 2) (lane v 2) := rfl
  rw [e]
  unfold Memory.word
  simp only [Memory.byte_setByte h1, Memory.byte_setByte h0, Memory.byte_setByte h]
  by_cases e_a : j = a
  · subst j
    have n1 : ¬(3 * a = 3 * a + 2) := by omega
    have n2 : ¬(3 * a = 3 * a + 1) := by omega
    have n3 : ¬(3 * a + 1 = 3 * a + 2) := by omega
    simp only [n1, n2, n3, if_false, if_true]
    exact ofLanes_lane v
  · have e : ∀ x y : Nat, x < 3 → y < 3 → ¬(3 * j + x = 3 * a + y) := fun x y _ _ => by omega
    have e0 := e 0 0 (by omega) (by omega); have e1 := e 0 1 (by omega) (by omega); have e2 := e 0 2 (by omega) (by omega)
    have e3 := e 1 0 (by omega) (by omega); have e4 := e 1 1 (by omega) (by omega); have e5 := e 1 2 (by omega) (by omega)
    have e6 := e 2 0 (by omega) (by omega); have e7 := e 2 1 (by omega) (by omega); have e8 := e 2 2 (by omega) (by omega)
    simp only [Nat.add_zero] at e0 e1 e2 e3 e6
    simp only [e_a, e0, e1, e2, e3, e4, e5, e6, e7, e8, if_false]

end Sys2Proof.Machine
end

