-- ==== Sys2Proof/Laws/Rings.lean ====
section
/-! SUPPORT. What sending, taking and answering a command packet does (10 sections 10.1 to 10.4), for every opcode. -/
set_option Elab.async false
set_option linter.all false
namespace Sys2Proof.Machine

/-- The rings' pages lie in a memory of canonical form. -/
def State.PagesOk (s : State) : Prop := Memory.wf ramDefault s.stage = true

theorem State.setRingWord_pages {s : State} (h : s.PagesOk) (r : BitVec 5) (o : Nat) (v : Word) : (s.setRingWord r o v).PagesOk :=
  Memory.setWord_wf _ _ h

theorem State.ringWord_setRingWord {s : State} (h : s.PagesOk) (r : BitVec 5) (o o' : Nat) (v : Word) :
    (s.setRingWord r o v).ringWord r o' = if o' = o then v else s.ringWord r o' := by
  unfold State.setRingWord State.ringWord
  simp only
  rw [Memory.word_setWord h]
  congr 1
  simp

theorem State.putReq_eq (s : State) (r : BitVec 5) (i : Word) (vs : List Word) : ∃ st bad, s.putReq r i vs = { s with stage := st, stageBad := bad } := by
  induction vs generalizing s i with
  | nil => exact ⟨_, _, rfl⟩
  | cons v vs ih =>
    obtain ⟨st, bad, h⟩ := ih (s.setRingWord r (0x400 + i.toNat % 2048) v) (i + 1)
    exact ⟨st, bad, h⟩

theorem State.putReq_pages {s : State} (h : s.PagesOk) (r : BitVec 5) (i : Word) (vs : List Word) : (s.putReq r i vs).PagesOk := by
  induction vs generalizing s i with
  | nil => exact h
  | cons v vs ih => exact ih (State.setRingWord_pages h ..) _

/-- Words written to a request ring are found at their places, and every other word of the page stays. -/
theorem State.ringWord_putReq {s : State} (h : s.PagesOk) (r : BitVec 5) (i : Word) (vs : List Word) (hl : vs.length ≤ 2048) (o : Nat) :
    (s.putReq r i vs).ringWord r o =
      if 0x400 ≤ o ∧ o < 0xC00 ∧ (o - 0x400 + 2048 - i.toNat % 2048) % 2048 < vs.length then
        vs.getD ((o - 0x400 + 2048 - i.toNat % 2048) % 2048) 0
      else s.ringWord r o := by
  induction vs generalizing s i with
  | nil => simp [State.putReq]
  | cons v vs ih =>
    rw [State.putReq, ih (State.setRingWord_pages h ..) _ (by simp at hl; omega), State.ringWord_setRingWord h]
    have hi : (i + 1).toNat % 2048 = (i.toNat % 2048 + 1) % 2048 := by
      rw [BitVec.toNat_add]; simp
    simp only [List.length_cons] at hl ⊢
    by_cases ho : 0x400 ≤ o ∧ o < 0xC00
    · have k : ∃ k, k < 2048 ∧ (o - 0x400 + 2048 - i.toNat % 2048) % 2048 = k := ⟨_, by omega, rfl⟩
      obtain ⟨k, hk, ek⟩ := k
      rw [ek, hi]
      by_cases h0 : k = 0
      · have : o = 0x400 + i.toNat % 2048 := by omega
        rw [if_neg (by omega), if_pos this, if_pos ⟨ho.1, ho.2, by omega⟩, h0]; rfl
      · have e1 : (o - 0x400 + 2048 - (i.toNat % 2048 + 1) % 2048) % 2048 = k - 1 := by omega
        rw [e1]
        by_cases hlt : k - 1 < vs.length
        · rw [if_pos ⟨ho.1, ho.2, hlt⟩, if_pos ⟨ho.1, ho.2, by omega⟩]
          obtain ⟨m, rfl⟩ : ∃ m, k = m + 1 := ⟨k - 1, by omega⟩
          simp
        · rw [if_neg (by omega), if_neg (by omega), if_neg (by omega)]
    · rw [if_neg (by omega), if_neg (by omega), if_neg (by omega)]

/-- The fields of a packet's first word. -/
theorem packetHead_bits (op : BitVec 8) (fl : BitVec 4) (n : Nat) (hn : n < 4096) :
    let w : Word := (op.setWidth 24 <<< 16) ||| (fl.setWidth 24 <<< 12) ||| BitVec.ofNat 24 n
    (bits w 0 12).toNat = n ∧ bits w 12 4 = fl ∧ bits w 16 8 = op := by
  have e : BitVec.ofNat 24 n = (BitVec.ofNat 12 n).setWidth 24 := by apply BitVec.eq_of_toNat_eq; simp; omega
  intro w
  have hw : w = (op.setWidth 24 <<< 16) ||| (fl.setWidth 24 <<< 12) ||| (BitVec.ofNat 12 n).setWidth 24 := by rw [← e]
  have h3 : BitVec.toNat (BitVec.ofNat 12 n) = n := by simp; omega
  have key : ∀ x : BitVec 12, let w : Word := (op.setWidth 24 <<< 16) ||| (fl.setWidth 24 <<< 12) ||| x.setWidth 24
      bits w 0 12 = x ∧ bits w 12 4 = fl ∧ bits w 16 8 = op := by
    intro x
    have fin : ∀ (m : Nat) (y z : BitVec m), (∀ i, i < m → y.getLsbD i = z.getLsbD i) → y = z := fun m y z h =>
      BitVec.eq_of_getLsbD_eq fun i hi => h i hi
    refine ⟨fin _ _ _ fun i hi => ?_, fin _ _ _ fun i hi => ?_, fin _ _ _ fun i hi => ?_⟩ <;>
      simp only [bits, BitVec.getLsbD_extractLsb', BitVec.getLsbD_or, BitVec.getLsbD_shiftLeft, BitVec.getLsbD_setWidth]
    · simp [hi, show i < 24 by omega, show i < 16 by omega]
    · simp [hi, show 12 + i < 24 by omega, show 12 + i < 16 by omega, show i < 24 by omega]
    · have h1 : fl.getLsbD (16 + i - 12) = false := BitVec.getLsbD_of_ge _ _ (by omega)
      have h2 : x.getLsbD (16 + i) = false := BitVec.getLsbD_of_ge _ _ (by omega)
      simp [hi, h1, h2, show 16 + i < 24 by omega, show i < 24 by omega]
  rw [hw]
  obtain ⟨k1, k2, k3⟩ := key (BitVec.ofNat 12 n)
  exact ⟨by rw [k1, h3], k2, k3⟩

theorem State.served_eq (s : State) (r) : ∃ rg, s.served r = { s with rings := rg } := by
  unfold State.served; split <;> exact ⟨_, rfl⟩
theorem State.serveDoorbell_eq (s : State) (r) : ∃ st bad rg, s.serveDoorbell r = { s with stage := st, stageBad := bad, rings := rg } := by
  unfold State.serveDoorbell; dsimp only; split
  · exact ⟨_, _, _, rfl⟩
  · split
    · exact ⟨_, _, _, rfl⟩
    · exact ⟨_, _, _, rfl⟩

/-- The cores with the reservations on lines cleared. -/
def clearedCores (l : List Nat) (cores : Vector VoiceCore 12) : Vector VoiceCore 12 :=
  l.foldl (fun C line => Vector.ofFn fun c => if C[c].resv.any (fun r => r.line = line) then { C[c] with resv := none } else C[c]) cores

theorem clearedCores_core (l : List Nat) (cores : Vector VoiceCore 12) (c : Fin 12) :
    ∃ r, (clearedCores l cores)[c] = { cores[c] with resv := r } := by
  induction l generalizing cores with
  | nil => exact ⟨_, rfl⟩
  | cons x l ih =>
    obtain ⟨r, h⟩ := ih (Vector.ofFn fun c => if cores[c].resv.any (fun r => r.line = x) then { cores[c] with resv := none } else cores[c])
    refine ⟨r, h.trans ?_⟩
    simp only [Fin.getElem_fin, Vector.getElem_ofFn]
    split <;> rfl

theorem State.foldl_clearResv (l : List Nat) (s : State) :
    l.foldl (fun s line => s.clearResv line fun _ => true) s = { s with cores := clearedCores l s.cores } := by
  induction l generalizing s with
  | nil => rfl
  | cons x l ih => rw [List.foldl_cons, ih]; rfl

theorem State.putReq_cores (s : State) (C : Vector VoiceCore 12) (r : BitVec 5) (i : Word) (vs : List Word) :
    State.putReq { s with cores := C } r i vs = { s.putReq r i vs with cores := C } := by
  induction vs generalizing s i with
  | nil => rfl
  | cons v vs ih => exact ih (s.setRingWord r (0x400 + i.toNat % 2048) v) (i + 1)

/-- A packet sent clears reservations (04 R133): it is sent in a state whose cores hold them no more. -/
theorem State.postPacket_eq (s : State) (r : BitVec 5) (ws : List Word) :
    ∃ C, (∀ c : Fin 12, ∃ q, C[c] = { s.cores[c] with resv := q }) ∧
      s.postPacket r ws = State.sendPacket { s with cores := C } r ws := by
  refine ⟨clearedCores (s.packetLines r ws.length) s.cores, clearedCores_core _ _, ?_⟩
  unfold State.postPacket
  rw [State.foldl_clearResv]
  unfold State.sendPacket
  dsimp only
  obtain ⟨st, bad, e⟩ := State.putReq_eq s r (s.reqProd r) ws
  show _ = State.ring (State.setRingWord (State.putReq { s with cores := clearedCores (s.packetLines r ws.length) s.cores } r (s.reqProd r) ws)
    r 0 (s.reqProd r + BitVec.ofNat 24 ws.length)) r
  rw [State.putReq_cores s (clearedCores (s.packetLines r ws.length) s.cores), e]
  rfl

/-- The state `u` is `s` with another ring page, another command service and other reservations; the outstanding commands are the
same. -/
def State.SameButRings (s u : State) : Prop :=
  ∃ (C : Vector VoiceCore 12) (st : Memory) (bad : List Nat) (rg : Rings),
    (∀ c : Fin 12, ∃ q, C[c] = { s.cores[c] with resv := q }) ∧
    u = { s with cores := C, stage := st, stageBad := bad, rings := { rg with active := s.rings.active } }

/-- A core of such a state differs in its reservation only. -/
theorem State.SameButRings.core {s u : State} (h : s.SameButRings u) (c : Fin 12) : ∃ q, u.core c = { s.core c with resv := q } := by
  obtain ⟨C, st, bad, rg, hC, rfl⟩ := h
  exact hC c

theorem State.SameButRings.active {s u : State} (h : s.SameButRings u) : u.rings.active = s.rings.active := by
  obtain ⟨C, st, bad, rg, hC, rfl⟩ := h
  rfl

/-- Packets further on in the ring's page leave the command service alone but for what the ring knows. -/
theorem State.skipCancelled_none (s : State) (r : BitVec 5) (n : Nat) (h : ∀ p ∈ s.rings.cancelled, p.1 ≠ r) : s.skipCancelled r n = s := by
  cases n with
  | zero => rfl
  | succ n =>
    unfold State.skipCancelled
    split
    · rename_i k _
      dsimp only
      rw [if_neg]
      simp only [List.contains_iff_mem]
      exact fun hm => h _ hm rfl
    · rfl

/-- The record of a command that the packet of `d` starts. -/
def startedCmd (d : CmdDef) (h : Header) (ps : List Word) (s : State) : Cmd where
  ring := h.ring
  seq := s.reqProd h.ring
  tag := h.tag
  op := d.op
  params := ps
  startAt := s.tempo.count
  committed := false
  resv := d.results ps
  aux := 0

/-- A packet that a ring accepts is checked at once, in a state that differs in the ring's page, in reservations and in the command
service only; it is then answered with the check's status, or it starts. -/
theorem State.submit_sent (d : CmdDef) (h : Header) (ps : List Word) (s : State) {space : Nat} (a : Accepts s h ps.length space) :
    ∃ u : State, s.SameButRings u ∧
      u.rplFree h.ring = s.rplFree h.ring ∧ u.consume h.ring (2 + ps.length) = s.taken d.op h ps ∧
      s.submit d h ps = (match d.check u h.ring h.flags h.tag ps with
        | some st => if u.rplFree h.ring < 3 then u else (u.consume h.ring (2 + ps.length)).reply h.ring st true h.tag (s.reqProd h.ring) []
        | none => if u.rplFree h.ring < d.space ps then u else (u.consume h.ring (2 + ps.length)).startCmd d (startedCmd d h ps s)) := by
  obtain ⟨C, hC, post⟩ := State.postPacket_eq s h.ring (packetWords d.op h ps)
  let z : State := { s with cores := C }
  have hw : Memory.wf ramDefault z.stage = true := a.stage
  have hlen := a.words
  have hp : (packetWords d.op h ps).length = 2 + ps.length := by simp [packetWords]; omega
  obtain ⟨st, bad, e⟩ := State.putReq_eq z h.ring (z.reqProd h.ring) (packetWords d.op h ps)
  let u0 := z.putReq h.ring (z.reqProd h.ring) (packetWords d.op h ps)
  have ok0 : State.PagesOk u0 := State.putReq_pages hw ..
  let p := z.reqProd h.ring
  let u1 := u0.setRingWord h.ring 0 (p + BitVec.ofNat 24 (2 + ps.length))
  have ok1 : State.PagesOk u1 := State.setRingWord_pages ok0 ..
  have low0 : ∀ o, o < 0x400 → u0.ringWord h.ring o = z.ringWord h.ring o := fun o ho => by
    show (z.putReq _ _ _).ringWord _ _ = _
    rw [State.ringWord_putReq hw _ _ _ (by omega), if_neg (by omega)]
  have low1 : ∀ o, 0 < o → o < 0x400 → u1.ringWord h.ring o = z.ringWord h.ring o := fun o h0 ho => by
    show (State.setRingWord _ _ _ _).ringWord _ _ = _
    rw [State.ringWord_setRingWord ok0, if_neg (by omega), low0 o ho]
  have prod1 : u1.ringWord h.ring 0 = p + BitVec.ofNat 24 (2 + ps.length) := by
    show (State.setRingWord _ _ _ _).ringWord _ _ = _
    rw [State.ringWord_setRingWord ok0, if_pos rfl]
  let u2 := (u1.ring h.ring).unring h.ring
  have low2 : ∀ o, u2.ringWord h.ring o = u1.ringWord h.ring o := fun o => by
    unfold State.ringWord; rfl
  have send : z.sendPacket h.ring (packetWords d.op h ps) = u1.ring h.ring := by
    unfold State.sendPacket
    dsimp only
    rw [hp]
  have st2 : u2.ringState h.ring = 1 := by
    show u2.ringWord _ 4 = _; rw [low2, low1 4 (by omega) (by omega)]; exact a.runs
  have stopped2 : u2.rings.stopped = z.rings.stopped := by
    have e1 : u2.rings.stopped = u1.rings.stopped := by
      show ((u1.ring h.ring).unring h.ring).rings.stopped = _
      unfold State.ring State.unring State.modRings
      dsimp only
      repeat' split
      all_goals rfl
    rw [e1]
    show u0.rings.stopped = _
    show (z.putReq _ _ _).rings.stopped = _
    rw [e]
  have cons2 : u2.reqCons h.ring = p := by
    show u2.ringWord _ 1 = _; rw [low2, low1 1 (by omega) (by omega)]; exact a.empty.symm
  have prod2 : u2.reqProd h.ring = p + BitVec.ofNat 24 (2 + ps.length) := by
    show u2.ringWord _ 0 = _; rw [low2, prod1]
  have diff : (p + BitVec.ofNat 24 (2 + ps.length) - p).toNat = 2 + ps.length := by
    rw [BitVec.add_comm, BitVec.add_sub_cancel]; simp; omega
  have lim : u2.ringLimits h.ring = true := by
    unfold State.ringLimits
    rw [prod2, cons2, diff]
    have h1 : u2.rplProd h.ring = z.rplProd h.ring := by
      show u2.ringWord _ 2 = _; rw [low2, low1 2 (by omega) (by omega)]; rfl
    have h2 : u2.rplCons h.ring = z.rplCons h.ring := by
      show u2.ringWord _ 3 = _; rw [low2, low1 3 (by omega) (by omega)]; rfl
    rw [h1, h2]
    have : (z.rplProd h.ring - z.rplCons h.ring).toNat ≤ 1024 := a.replies
    rw [Bool.and_eq_true]; exact ⟨decide_eq_true (by omega), decide_eq_true (by omega)⟩
  let u3 := u2.learn h.ring
  have serve : (u1.ring h.ring).serveDoorbell h.ring = u3 := by
    show State.serveDoorbell _ _ = _
    unfold State.serveDoorbell
    show (if (u2.ringState h.ring != 1 || ringBit u2.rings.stopped h.ring) = true then u2 else if u2.ringLimits h.ring = true then u3 else _) = _
    rw [st2, stopped2, a.going, lim]
    rfl
  have w3 : ∀ o, u3.ringWord h.ring o = u1.ringWord h.ring o := fun o => by unfold State.ringWord; rfl
  have known3 : u3.rings.known.toList.getD h.ring.toNat 0 = p + BitVec.ofNat 24 (2 + ps.length) := by
    show (u2.learn h.ring).rings.known.toList.getD _ _ = _
    have := a.ring
    simp [State.learn, State.modRings, this, List.getD, prod2]
  have cons3 : u3.reqCons h.ring = p := by show u3.ringWord _ 1 = _; rw [w3, low1 1 (by omega) (by omega)]; exact a.empty.symm
  have avail3 : u3.avail h.ring = 2 + ps.length := by
    unfold State.avail; rw [known3, cons3, diff]
  have req3 : ∀ i, i < 2 + ps.length → u3.reqWord h.ring (p + BitVec.ofNat 24 i) = (packetWords d.op h ps).getD i 0 := fun i hi => by
    show u3.ringWord _ _ = _
    rw [w3]
    show (State.setRingWord _ _ _ _).ringWord _ _ = _
    rw [State.ringWord_setRingWord ok0, if_neg (by omega)]
    show (z.putReq _ _ _).ringWord _ _ = _
    rw [State.ringWord_putReq hw _ _ _ (by omega)]
    have : (1024 + (p + BitVec.ofNat 24 i).toNat % 2048 - 1024 + 2048 - (z.reqProd h.ring).toNat % 2048) % 2048 = i := by
      show (1024 + (p + BitVec.ofNat 24 i).toNat % 2048 - 1024 + 2048 - p.toNat % 2048) % 2048 = i
      simp; omega
    rw [this, if_pos (by omega)]
  have reqHead : u3.reqWord h.ring p = (d.op.setWidth 24 <<< 16) ||| (h.flags.setWidth 24 <<< 12) ||| BitVec.ofNat 24 (2 + ps.length) := by
    have := req3 0 (by omega)
    simp at this
    rw [this]; simp [packetWords]; rw [Nat.mod_eq_of_lt (by omega)]
  obtain ⟨b1, b2, b3⟩ := packetHead_bits d.op h.flags (2 + ps.length) (by omega)
  have head3 : u3.head h.ring = .packet (2 + ps.length) := by
    unfold State.head
    dsimp only
    rw [avail3, cons3, reqHead, b1]
    have h1 : u3.ringState h.ring = 1 := by show u3.ringWord _ 4 = _; rw [w3, low1 4 (by omega) (by omega)]; exact a.runs
    have h2 : u3.rings.stopped = u2.rings.stopped := rfl
    rw [h1, h2, stopped2, a.going]
    simp
    rw [if_neg (by omega), if_neg (by omega)]
  have op3 : u3.headOp h.ring = d.op := by unfold State.headOp; rw [cons3, reqHead, b3]
  have fl3 : u3.headFlags h.ring = h.flags := by unfold State.headFlags; rw [cons3, reqHead, b2]
  have tag3 : u3.headTag h.ring = h.tag := by
    unfold State.headTag; rw [cons3]
    have := req3 1 (by omega)
    simpa [packetWords] using this
  have act3 : u3.rings.active = z.rings.active := by
    have e1 : u3.rings.active = u1.rings.active := by
      show (((u1.ring h.ring).unring h.ring).learn h.ring).rings.active = _
      unfold State.learn State.ring State.unring State.modRings
      dsimp only
      repeat' split
      all_goals rfl
    rw [e1]
    show (z.putReq _ _ _).rings.active = _
    rw [e]
  have ord3 : u3.ordered h.ring = false := by
    unfold State.ordered
    rw [fl3, act3]
    cases hb : h.flags.getLsbD 0
    · rfl
    · have := a.ordered hb
      simpa using this
  have words3 : (u3.reqWords h.ring p (2 + ps.length)).drop 2 = ps := by
    apply List.ext_getElem
    · simp [State.reqWords]
    · intro i h1 h2
      simp [State.reqWords] at h1 ⊢
      have := req3 (2 + i) (by omega)
      simp [packetWords] at this
      rw [show 2 + i = i + 2 by omega] at this
      simp [h1] at this
      rw [show BitVec.ofNat 24 (2 + i) = BitVec.ofNat 24 (i+2) by rw [show 2 + i = i + 2 by omega]]
      exact this
  have e3 : ∃ (st : Memory) (bd : List Nat) (rg : Rings), u3 = { z with stage := st, stageBad := bd, rings := { rg with active := z.rings.active } } := by
    have ⟨rg, h1⟩ : ∃ rg : Rings, u3 = { u1 with rings := rg } := by
      show ∃ rg : Rings, (((u1.ring h.ring).unring h.ring).learn h.ring) = { u1 with rings := rg }
      unfold State.learn State.ring State.unring State.modRings
      exact ⟨_, rfl⟩
    have h2 : ∃ (st : Memory) (bd : List Nat), u1 = { z with stage := st, stageBad := bd } := by
      show ∃ (st : Memory) (bd : List Nat), ((z.putReq _ _ _).setRingWord _ _ _) = { z with stage := st, stageBad := bd }
      rw [e]; exact ⟨_, _, rfl⟩
    obtain ⟨st, bd, h2⟩ := h2
    refine ⟨st, bd, rg, ?_⟩
    have h3 : rg.active = z.rings.active := by rw [h1] at act3; exact act3
    rw [← h3, h1, h2]
  have held3 : u3.rings.held = z.rings.held := by
    have e1 : u3.rings.held = u1.rings.held := by
      show (((u1.ring h.ring).unring h.ring).learn h.ring).rings.held = _
      unfold State.learn State.ring State.unring State.modRings
      dsimp only
      repeat' split
      all_goals rfl
    rw [e1]
    show (z.putReq _ _ _).rings.held = _
    rw [e]
  have free3 : u3.rplFree h.ring = z.rplFree h.ring := by
    unfold State.rplFree
    rw [act3, held3]
    have h1 : u3.rplProd h.ring = z.rplProd h.ring := by
      show u3.ringWord _ 2 = _; rw [w3, low1 2 (by omega) (by omega)]; rfl
    have h2 : u3.rplCons h.ring = z.rplCons h.ring := by
      show u3.ringWord _ 3 = _; rw [w3, low1 3 (by omega) (by omega)]; rfl
    rw [h1, h2]
  have time3 : u3.tempo = z.tempo := by obtain ⟨_, _, _, e3⟩ := e3; rw [e3]
  have fits : z.fits h.ring (2 + ps.length) = true := by
    have e0 : z.reqProd h.ring = z.reqCons h.ring := a.empty
    unfold State.fits; rw [e0]; simp; omega
  have srv : (u1.ring h.ring).serving = true := by
    have e1 : u1.serving = z.serving := by
      show ((z.putReq _ _ _).setRingWord _ _ _).serving = _
      rw [e]; rfl
    have e2 : z.serving = true := a.serving
    rw [← e2, ← e1]
    unfold State.ring State.modRings State.serving
    dsimp only
    repeat' split
    all_goals rfl
  have same : s.SameButRings u3 := by
    obtain ⟨st, bd, rg, e3⟩ := e3
    exact ⟨C, st, bd, rg, hC, e3⟩
  refine ⟨u3, same, free3, by unfold State.taken; rw [post]; exact congrArg (fun x => State.consume x h.ring (2 + ps.length)) ((congrArg (fun x => State.serveDoorbell x h.ring) send).trans serve).symm, ?_⟩
  unfold State.submit
  have hr : (decide (h.ring < 18)) = true := by have := a.ring; simp [BitVec.lt_def]; omega
  have fits' : s.fits h.ring (2 + ps.length) = true := fits
  rw [a.on, hr, fits']
  dsimp only
  rw [post]
  have send' : State.sendPacket { s with cores := C } h.ring (packetWords d.op h ps) = u1.ring h.ring := send
  rw [send', srv, serve]
  have hf : (decide (s.reqProd h.ring = s.reqCons h.ring)) = true := by simp [a.empty]
  have hb : ((s.before h.ring).any s.hasWork) = false := by
    rw [List.any_eq_false]
    exact fun q hq => by rw [a.first q hq]; exact Bool.false_ne_true
  have hsk : u3.skipCancelled h.ring 1024 = u3 := by
    refine State.skipCancelled_none _ _ _ ?_
    have ec : u3.rings.cancelled = s.rings.cancelled := by
      have e1 : u3.rings.cancelled = u1.rings.cancelled := by
        show (((u1.ring h.ring).unring h.ring).learn h.ring).rings.cancelled = _
        unfold State.learn State.ring State.unring State.modRings
        dsimp only
        repeat' split
        all_goals rfl
      rw [e1]
      show (z.putReq _ _ _).rings.cancelled = _
      rw [e]
    rw [ec]
    exact a.alone
  rw [hf, hb]
  simp only [Bool.not_true, Bool.or_false, Bool.not_false, Bool.false_eq_true, ↓reduceIte, Bool.and_self]
  unfold State.startHead
  rw [hsk]
  unfold State.startFront
  rw [head3]
  dsimp only
  rw [ord3, op3, if_pos rfl, cons3, words3, tag3, fl3, time3]
  rfl

/-- What the checks of an opcode see passes in a state whose ring page, reservations and command service differ. -/
def CmdDef.Passes (d : CmdDef) (h : Header) (ps : List Word) (s : State) : Prop :=
  ∀ u, s.SameButRings u → d.denied u h.ring ps = false ∧ d.absent u ps = false ∧ d.bad u h.ring ps = false ∧ d.busy u ps = false

/-- A packet that is accepted and passes its checks starts. -/
theorem State.submit_taken (d : CmdDef) (h : Header) (ps : List Word) (s : State) (a : Accepts s h ps.length (d.space ps))
    (hs : d.sources.allows s h.ring = true) (hl : d.lenOk ps = true) (hk : d.Passes h ps s) (hlong : s.rings.active.length < 32) :
    s.submit d h ps = (s.taken d.op h ps).startCmd d (startedCmd d h ps s) := by
  obtain ⟨u, eu, free, cons, sub⟩ := State.submit_sent d h ps s a
  have act : u.rings.active = s.rings.active := eu.active
  have chk : d.check u h.ring h.flags h.tag ps = none := by
    obtain ⟨k1, k2, k3, k4⟩ := hk u eu
    unfold CmdDef.check
    have hadm : d.sources.allows u h.ring = true := by obtain ⟨_, _, _, _, _, rfl⟩ := eu; exact hs
    rw [hadm, hl, a.flags]
    have htag : u.rings.active.any (fun c => c.ring = h.ring && c.tag = h.tag) = false := by
      rw [act]; simp; exact a.tag
    rw [htag]
    have hlong' : decide (32 ≤ u.longCount) = false := by
      unfold State.longCount; rw [act]
      simp; exact hlong
    rw [hlong', k1, k2, k3, k4]
    rfl
  rw [sub, chk, free, cons]
  exact if_neg (Nat.not_lt.2 a.room)

/-- A packet that is accepted and fails a check is answered with the check's status and has no other effect. -/
theorem State.submit_refused (d : CmdDef) (h : Header) (ps : List Word) (s : State) {space : Nat} (a : Accepts s h ps.length space)
    (h3 : 3 ≤ space) {st : Status} (hk : ∀ u : State, s.SameButRings u → d.check u h.ring h.flags h.tag ps = some st) :
    s.submit d h ps = s.answered (s.taken d.op h ps) h st [] := by
  obtain ⟨u, eu, free, cons, sub⟩ := State.submit_sent d h ps s a
  rw [sub, hk u eu, free, cons]
  exact if_neg (Nat.not_lt.2 (Nat.le_trans h3 a.room))

/-- The state in which a packet has been taken. -/
theorem State.taken_frame {s : State} {op : BitVec 8} {h : Header} {ps : List Word} {space : Nat} (a : Accepts s h ps.length space) :
    s.SameButRings (s.taken op h ps) := by
  obtain ⟨u, ⟨C, st, bd, rg, hC, eu⟩, _, cons, _⟩ := State.submit_sent (mkCmd op 0 0 srcAll (okCmd id)) h ps s a
  obtain ⟨rg', e⟩ := State.served_eq (u.setRingWord h.ring 1 (u.reqCons h.ring + BitVec.ofNat 24 (2 + ps.length))) h.ring
  have act : rg'.active = s.rings.active := by
    have h1 : ((u.setRingWord h.ring 1 (u.reqCons h.ring + BitVec.ofNat 24 (2 + ps.length))).served h.ring).rings.active = u.rings.active := by
      unfold State.served State.modRings; split <;> rfl
    rw [e, eu] at h1
    exact h1
  let v := u.setRingWord h.ring 1 (u.reqCons h.ring + BitVec.ofNat 24 (2 + ps.length))
  refine ⟨C, v.stage, v.stageBad, rg', hC, ?_⟩
  rw [← act]
  refine cons.symm.trans (e.trans ?_)
  show { v with rings := rg' } = _
  have ev : v = { u with stage := v.stage, stageBad := v.stageBad } := rfl
  rw [ev, eu]

end Sys2Proof.Machine
end

