-- ==== Sys2Proof/Laws/Claims.lean ====
section
/-! SUPPORT. How a claim about a command packet, a register access or an event follows from what its row runs. -/
set_option Elab.async false
set_option linter.all false
namespace Sys2Proof.Machine

theorem State.startCmd_final {d : CmdDef} {c : Cmd} {s t : State} {st : Status} {res : List Word} (h : d.run c s = (t, .final st res))
    (hl : d.long = false) : s.startCmd d c = t.reply c.ring st true c.tag c.seq res := by
  unfold State.startCmd
  rw [h]
  dsimp only
  rw [hl]
  rfl

theorem State.startCmd_long {d : CmdDef} {c : Cmd} {s t : State} {st : Status} {res : List Word} (h : d.run c s = (t, .final st res))
    (hl : d.long = true) :
    s.startCmd d c = (t.reply c.ring .accepted false c.tag c.seq []).reply c.ring st true c.tag c.seq res := by
  unfold State.startCmd
  rw [h]
  dsimp only
  rw [hl]
  rfl

theorem State.startCmd_running {d : CmdDef} {c : Cmd} {s t : State} {aux : Nat} (h : d.run c s = (t, .running aux)) :
    s.startCmd d c = (t.modRings fun x => { x with active := x.active ++ [{ c with aux }] }).reply c.ring .accepted false c.tag c.seq [] := by
  unfold State.startCmd
  rw [h]

/-- A row of a short command. -/
theorem Answers.of {i : Instr} (d : CmdDef) {op : BitVec 8} {h : Header} {ps : List Word} {src : Sources} {space : Nat}
    {ok : State → Prop} {st : Status} {results : State → List Word} {effect : State → State} (hi : ∀ s, exec i s = cmdRow d h ps s)
    (h1 : d.op = op) (h2 : d.sources = src) (h3 : d.space ps = space)
    (h4 : d.long = false) (hl : ∀ s, ok s → d.lenOk ps = true)
    (hk : ∀ s, ok s → d.Passes h ps s)
    (hr : ∀ s u, ok s → s.SameButRings u → d.run (startedCmd d h ps s) u = (effect u, .final st (results u))) :
    Answers i op h ps src space ok st results effect := by
  intro s a hs h5 hok
  subst h1 h2 h3
  rw [hi s]
  unfold cmdRow
  rw [s.submit_taken d h ps a hs (hl s hok) (hk s hok) h5, State.startCmd_final (hr s _ hok (State.taken_frame a)) h4]
  rfl

/-- As `Answers.of`, where the effect is known by a relation. -/
theorem AnswersWith.of {i : Instr} (d : CmdDef) {op : BitVec 8} {h : Header} {ps : List Word} {src : Sources} {space : Nat}
    {ok : State → Prop} {st : Status} {results : State → List Word} {post : State → State → Prop} (hi : ∀ s, exec i s = cmdRow d h ps s)
    (h1 : d.op = op) (h2 : d.sources = src) (h3 : d.space ps = space)
    (h4 : d.long = false) (hl : ∀ s, ok s → d.lenOk ps = true)
    (hk : ∀ s, ok s → d.Passes h ps s)
    (hr : ∀ s u, ok s → s.SameButRings u → ∃ t, post u t ∧ d.run (startedCmd d h ps s) u = (t, .final st (results u))) :
    AnswersWith i op h ps src space ok st results post := by
  intro s a hs h5 hok
  subst h1 h2 h3
  obtain ⟨t, hp, hr⟩ := hr s _ hok (State.taken_frame a)
  refine ⟨t, hp, ?_⟩
  rw [hi s]
  unfold cmdRow
  rw [s.submit_taken d h ps a hs (hl s hok) (hk s hok) h5, State.startCmd_final hr h4]
  rfl

/-- A row of a long command that ends at once. -/
theorem AnswersLong.of {i : Instr} (d : CmdDef) {op : BitVec 8} {h : Header} {ps : List Word} {src : Sources} {space : Nat}
    {ok : State → Prop} {st : Status} {results : State → List Word} {effect : State → State} (hi : ∀ s, exec i s = cmdRow d h ps s)
    (h1 : d.op = op) (h2 : d.sources = src) (h3 : d.space ps = space) (h4 : d.long = true) (hl : ∀ s, ok s → d.lenOk ps = true)
    (hk : ∀ s, ok s → d.Passes h ps s)
    (hr : ∀ s u, ok s → s.SameButRings u → d.run (startedCmd d h ps s) u = (effect u, .final st (results u))) :
    AnswersLong i op h ps src space ok st results effect := by
  intro s a hs h5 hok
  subst h1 h2 h3
  rw [hi s]
  unfold cmdRow
  rw [s.submit_taken d h ps a hs (hl s hok) (hk s hok) h5, State.startCmd_long (hr s _ hok (State.taken_frame a)) h4]
  rfl

/-- A row of a long command that goes on. -/
theorem Begins.of {i : Instr} (d : CmdDef) {op : BitVec 8} {h : Header} {ps : List Word} {src : Sources} {res : Nat}
    {ok : State → Prop} {aux : State → Nat} {effect : State → State} (hi : ∀ s, exec i s = cmdRow d h ps s)
    (h1 : d.op = op) (h2 : d.sources = src) (h3 : d.results ps = res) (h4 : d.long = true) (hl : ∀ s, ok s → d.lenOk ps = true)
    (hk : ∀ s, ok s → d.Passes h ps s)
    (hr : ∀ s u, ok s → s.SameButRings u → d.run (startedCmd d h ps s) u = (effect u, .running (aux u))) :
    Begins i op h ps src res ok aux effect := by
  intro s a hs h5 hok
  subst h1 h2 h3
  rw [hi s]
  unfold cmdRow
  have a' : Accepts s h ps.length (d.space ps) := by unfold CmdDef.space; rw [h4]; exact a
  rw [s.submit_taken d h ps a' hs (hl s hok) (hk s hok) h5, State.startCmd_running (hr s _ hok (State.taken_frame a))]
  rfl

/-- A row whose packet fails a check of its opcode. -/
theorem Refuses.of_check {i : Instr} (d : CmdDef) {op : BitVec 8} {h : Header} {ps : List Word} {space : Nat} {ok : State → Prop}
    {st : Status} (hi : ∀ s, exec i s = cmdRow d h ps s) (h1 : d.op = op) (h3 : 3 ≤ space)
    (hk : ∀ s u, Accepts s h ps.length space → ok s → s.SameButRings u → d.check u h.ring h.flags h.tag ps = some st) :
    Refuses i op h ps space ok st := by
  intro s a hok
  subst h1
  rw [hi s]
  exact congrArg Host.Outcome.next (s.submit_refused d h ps a h3 fun u hu => hk s u a hok hu)

/-- A row of a short command that passes its checks and then ends with a status other than OK and no effect. -/
theorem Refuses.of_run {i : Instr} (d : CmdDef) {op : BitVec 8} {h : Header} {ps : List Word} {space : Nat} {ok : State → Prop}
    {st : Status} (hi : ∀ s, exec i s = cmdRow d h ps s) (h1 : d.op = op) (h3 : d.space ps = space) (h4 : d.long = false)
    (hs : ∀ s, ok s → d.sources.allows s h.ring = true) (hl : ∀ s, ok s → d.lenOk ps = true) (hk : ∀ s, ok s → d.Passes h ps s)
    (h5 : ∀ s, ok s → s.rings.active.length < 32)
    (hr : ∀ s u, ok s → s.SameButRings u → d.run (startedCmd d h ps s) u = (u, .final st [])) :
    Refuses i op h ps space ok st := by
  intro s a hok
  subst h1 h3
  rw [hi s]
  unfold cmdRow
  rw [s.submit_taken d h ps a (hs s hok) (hl s hok) (hk s hok) (h5 s hok), State.startCmd_final (hr s _ hok (State.taken_frame a)) h4]
  rfl

/-- A row of a register access. -/
theorem Accesses.of {i : Instr} {w : Initiator} {ok : State → Prop} {post : State → State → Prop} {f : State → State}
    (hi : ∀ s, exec i s = ifActs w s f) (hp : ∀ s, ok s → post s (f s)) : Accesses i w ok post := by
  intro s ha hok
  refine ⟨f (s.awake w), ?_, hp _ hok⟩
  rw [hi s]
  unfold ifActs
  rw [if_pos ha]

/-- A row of an event. -/
theorem Occurs.of {i : Instr} {ok : State → Prop} {post : State → State → Prop} {f : State → State}
    (hi : ∀ s, exec i s = ifOn s f) (hp : ∀ s, s.on = true → ok s → post s (f s)) : Occurs i ok post := by
  intro s ho hok
  refine ⟨f s, ?_, hp s ho hok⟩
  rw [hi s]
  unfold ifOn
  rw [if_pos ho]

end Sys2Proof.Machine
end

