-- ==== Sys2Proof/Laws/Legal.lean ====
section
/-! SUPPORT. A legal state stays legal: updates of fields, cores replaced, folds and choices. -/
set_option Elab.async false
set_option linter.all false
namespace Sys2Proof.Machine

/-! Fields replaced. -/

theorem State.legal_with {s : State}
    {die chk stageBad caches bar tempo chorus mc echo rings bm boot duet refrain health trace io pwr free pending}  :
    (State.mk die s.cores s.cdr s.dram chk s.stage stageBad s.csram s.flash s.xflash caches bar tempo chorus mc echo rings bm boot
    duet refrain health trace io pwr free pending).Legal ↔ s.Legal :=
  ⟨fun h => ⟨h.dram, h.stage, h.csram, h.flash, h.xflash, h.cores, h.cdr⟩, fun h => ⟨h.dram, h.stage, h.csram, h.flash, h.xflash, h.cores, h.cdr⟩⟩

theorem State.legal_with_dram {s : State} (h : s.Legal)
    {die dram chk stageBad caches bar tempo chorus mc echo rings bm boot duet refrain health trace io pwr free pending} (h_dram :
    Memory.wf ramDefault dram = true) :
    (State.mk die s.cores s.cdr dram chk s.stage stageBad s.csram s.flash s.xflash caches bar tempo chorus mc echo rings bm boot duet
    refrain health trace io pwr free pending).Legal := ⟨h_dram, h.stage, h.csram, h.flash, h.xflash, h.cores, h.cdr⟩

theorem State.legal_with_stage {s : State} (h : s.Legal)
    {die chk stage stageBad caches bar tempo chorus mc echo rings bm boot duet refrain health trace io pwr free pending} (h_stage :
    Memory.wf ramDefault stage = true) :
    (State.mk die s.cores s.cdr s.dram chk stage stageBad s.csram s.flash s.xflash caches bar tempo chorus mc echo rings bm boot duet
    refrain health trace io pwr free pending).Legal := ⟨h.dram, h_stage, h.csram, h.flash, h.xflash, h.cores, h.cdr⟩

theorem State.legal_with_csram {s : State} (h : s.Legal)
    {die chk csram stageBad caches bar tempo chorus mc echo rings bm boot duet refrain health trace io pwr free pending} (h_csram :
    Memory.wf ramDefault csram = true) :
    (State.mk die s.cores s.cdr s.dram chk s.stage stageBad csram s.flash s.xflash caches bar tempo chorus mc echo rings bm boot duet
    refrain health trace io pwr free pending).Legal := ⟨h.dram, h.stage, h_csram, h.flash, h.xflash, h.cores, h.cdr⟩

theorem State.legal_with_flash {s : State} (h : s.Legal)
    {die chk flash stageBad caches bar tempo chorus mc echo rings bm boot duet refrain health trace io pwr free pending} (h_flash :
    Memory.wf flashDefault flash = true) :
    (State.mk die s.cores s.cdr s.dram chk s.stage stageBad s.csram flash s.xflash caches bar tempo chorus mc echo rings bm boot duet
    refrain health trace io pwr free pending).Legal := ⟨h.dram, h.stage, h.csram, h_flash, h.xflash, h.cores, h.cdr⟩

theorem State.legal_with_xflash {s : State} (h : s.Legal)
    {die chk xflash stageBad caches bar tempo chorus mc echo rings bm boot duet refrain health trace io pwr free pending} (h_xflash :
    Memory.wf flashDefault xflash = true) :
    (State.mk die s.cores s.cdr s.dram chk s.stage stageBad s.csram s.flash xflash caches bar tempo chorus mc echo rings bm boot duet
    refrain health trace io pwr free pending).Legal := ⟨h.dram, h.stage, h.csram, h.flash, h_xflash, h.cores, h.cdr⟩

theorem State.legal_with_cdr {s : State} (h : s.Legal)
    {die cdr chk stageBad caches bar tempo chorus mc echo rings bm boot duet refrain health trace io pwr free pending} (h_cdr :
    (cdr).Legal) :
    (State.mk die s.cores cdr s.dram chk s.stage stageBad s.csram s.flash s.xflash caches bar tempo chorus mc echo rings bm boot duet
    refrain health trace io pwr free pending).Legal := ⟨h.dram, h.stage, h.csram, h.flash, h.xflash, h.cores, h_cdr⟩

theorem VoiceCore.legal_with {v : VoiceCore}
    {acc pc level cycle cycRem instret kvbase kepc kcause kdetail kscratch kxlat kasid mvbase mepc mcause mdetail mscratch
    mxlat mptag mdeleg mbexp mderr mderrh mgwa inForce xlatOpen xlatAlt fenceOn resv released hush wfi barHold sliceHold startPtr bx itlb
    dtlb l2tlb walk lineBuf}  :
    (VoiceCore.mk v.w acc pc level v.fcsr v.qstat cycle cycRem instret v.kstatus kvbase kepc kcause kdetail kscratch kxlat
    kasid v.mstatus mvbase mepc mcause mdetail mscratch mxlat mptag mdeleg mbexp mderr mderrh mgwa inForce xlatOpen xlatAlt fenceOn resv
    released hush wfi barHold sliceHold startPtr bx itlb dtlb l2tlb walk lineBuf).Legal ↔ v.Legal :=
  ⟨fun h => ⟨h.w0, h.mstatus, h.mppl, h.kstatus, h.fcsr, h.qstat⟩, fun h => ⟨h.w0, h.mstatus, h.mppl, h.kstatus, h.fcsr, h.qstat⟩⟩

theorem VoiceCore.legal_with_w {v : VoiceCore} (h : v.Legal)
    {w acc pc level cycle cycRem instret kvbase kepc kcause kdetail kscratch kxlat kasid mvbase mepc mcause mdetail mscratch
    mxlat mptag mdeleg mbexp mderr mderrh mgwa inForce xlatOpen xlatAlt fenceOn resv released hush wfi barHold sliceHold startPtr bx itlb
    dtlb l2tlb walk lineBuf} (hw : w[0] = 0) :
    (VoiceCore.mk w acc pc level v.fcsr v.qstat cycle cycRem instret v.kstatus kvbase kepc kcause kdetail kscratch kxlat
    kasid v.mstatus mvbase mepc mcause mdetail mscratch mxlat mptag mdeleg mbexp mderr mderrh mgwa inForce xlatOpen xlatAlt fenceOn resv
    released hush wfi barHold sliceHold startPtr bx itlb dtlb l2tlb walk lineBuf).Legal := ⟨hw, h.mstatus, h.mppl, h.kstatus,
    h.fcsr, h.qstat⟩

theorem VoiceCore.legal_with_mstatus {v : VoiceCore} (h : v.Legal)
    {acc pc level cycle cycRem instret kvbase kepc kcause kdetail kscratch kxlat kasid mstatus mvbase mepc mcause mdetail
    mscratch mxlat mptag mdeleg mbexp mderr mderrh mgwa inForce xlatOpen xlatAlt fenceOn resv released hush wfi barHold sliceHold startPtr bx
    itlb dtlb l2tlb walk lineBuf} (h1 : mstatus &&& 0xFFFF00 = 0) (h2 : bits mstatus 2 2 ≠ 2) :
    (VoiceCore.mk v.w acc pc level v.fcsr v.qstat cycle cycRem instret v.kstatus kvbase kepc kcause kdetail kscratch kxlat
    kasid mstatus mvbase mepc mcause mdetail mscratch mxlat mptag mdeleg mbexp mderr mderrh mgwa inForce xlatOpen xlatAlt fenceOn resv
    released hush wfi barHold sliceHold startPtr bx itlb dtlb l2tlb walk lineBuf).Legal := ⟨h.w0, h1, h2, h.kstatus, h.fcsr,
    h.qstat⟩

theorem VoiceCore.legal_with_kstatus {v : VoiceCore} (h : v.Legal)
    {acc pc level cycle cycRem instret kstatus kvbase kepc kcause kdetail kscratch kxlat kasid mvbase mepc mcause mdetail
    mscratch mxlat mptag mdeleg mbexp mderr mderrh mgwa inForce xlatOpen xlatAlt fenceOn resv released hush wfi barHold sliceHold startPtr bx
    itlb dtlb l2tlb walk lineBuf} (h1 : kstatus &&& 0xFFFFE0 = 0) :
    (VoiceCore.mk v.w acc pc level v.fcsr v.qstat cycle cycRem instret kstatus kvbase kepc kcause kdetail kscratch kxlat
    kasid v.mstatus mvbase mepc mcause mdetail mscratch mxlat mptag mdeleg mbexp mderr mderrh mgwa inForce xlatOpen xlatAlt fenceOn resv
    released hush wfi barHold sliceHold startPtr bx itlb dtlb l2tlb walk lineBuf).Legal := ⟨h.w0, h.mstatus, h.mppl, h1,
    h.fcsr, h.qstat⟩

theorem VoiceCore.legal_with_fcsr {v : VoiceCore} (h : v.Legal)
    {acc pc level fcsr cycle cycRem instret kvbase kepc kcause kdetail kscratch kxlat kasid mvbase mepc mcause mdetail
    mscratch mxlat mptag mdeleg mbexp mderr mderrh mgwa inForce xlatOpen xlatAlt fenceOn resv released hush wfi barHold sliceHold startPtr bx
    itlb dtlb l2tlb walk lineBuf} (h1 : fcsr &&& 0xFFE0F8 = 0) :
    (VoiceCore.mk v.w acc pc level fcsr v.qstat cycle cycRem instret v.kstatus kvbase kepc kcause kdetail kscratch kxlat
    kasid v.mstatus mvbase mepc mcause mdetail mscratch mxlat mptag mdeleg mbexp mderr mderrh mgwa inForce xlatOpen xlatAlt fenceOn resv
    released hush wfi barHold sliceHold startPtr bx itlb dtlb l2tlb walk lineBuf).Legal := ⟨h.w0, h.mstatus, h.mppl,
    h.kstatus, h1, h.qstat⟩

theorem VoiceCore.legal_with_qstat {v : VoiceCore} (h : v.Legal)
    {acc pc level qstat cycle cycRem instret kvbase kepc kcause kdetail kscratch kxlat kasid mvbase mepc mcause mdetail
    mscratch mxlat mptag mdeleg mbexp mderr mderrh mgwa inForce xlatOpen xlatAlt fenceOn resv released hush wfi barHold sliceHold startPtr bx
    itlb dtlb l2tlb walk lineBuf} (h1 : qstat &&& 0xFFFFFC = 0) :
    (VoiceCore.mk v.w acc pc level v.fcsr qstat cycle cycRem instret v.kstatus kvbase kepc kcause kdetail kscratch kxlat
    kasid v.mstatus mvbase mepc mcause mdetail mscratch mxlat mptag mdeleg mbexp mderr mderrh mgwa inForce xlatOpen xlatAlt fenceOn resv
    released hush wfi barHold sliceHold startPtr bx itlb dtlb l2tlb walk lineBuf).Legal := ⟨h.w0, h.mstatus, h.mppl,
    h.kstatus, h.fcsr, h1⟩

theorem Conductor.legal_with {d : Conductor}
    {pc cycle cycRem instret cvbase cepc ccause cdetail cscratch run wfi queue}  :
    (Conductor.mk d.w pc d.qstat cycle cycRem instret d.cstatus cvbase cepc ccause cdetail cscratch run wfi queue).Legal ↔ d.Legal :=
  ⟨fun h => ⟨h.w0, h.cstatus, h.qstat⟩, fun h => ⟨h.w0, h.cstatus, h.qstat⟩⟩

theorem Conductor.legal_with_w {d : Conductor} (h : d.Legal)
    {w pc cycle cycRem instret cvbase cepc ccause cdetail cscratch run wfi queue} (hw : w[0] = 0) :
    (Conductor.mk w pc d.qstat cycle cycRem instret d.cstatus cvbase cepc ccause cdetail cscratch run wfi queue).Legal :=
    ⟨hw, h.cstatus, h.qstat⟩

theorem Conductor.legal_with_cstatus {d : Conductor} (h : d.Legal)
    {pc cycle cycRem instret cstatus cvbase cepc ccause cdetail cscratch run wfi queue} (h1 : cstatus &&& 0xFFFFEC = 0) :
    (Conductor.mk d.w pc d.qstat cycle cycRem instret cstatus cvbase cepc ccause cdetail cscratch run wfi queue).Legal :=
    ⟨h.w0, h1, h.qstat⟩

theorem Conductor.legal_with_qstat {d : Conductor} (h : d.Legal)
    {pc qstat cycle cycRem instret cvbase cepc ccause cdetail cscratch run wfi queue} (h1 : qstat &&& 0xFFFFFC = 0) :
    (Conductor.mk d.w pc qstat cycle cycRem instret d.cstatus cvbase cepc ccause cdetail cscratch run wfi queue).Legal :=
    ⟨h.w0, h.cstatus, h1⟩

/-- Fields of the Conductor that no legal value depends on. -/
theorem State.legal_with_cdr_fields {s : State}
    {die chk stageBad caches bar tempo chorus mc echo rings bm boot duet refrain health trace io pwr free pending pc cycle cycRem instret
    cvbase cepc ccause cdetail cscratch run wfi queue} :
    (State.mk die s.cores (Conductor.mk s.cdr.w pc s.cdr.qstat cycle cycRem instret s.cdr.cstatus cvbase cepc ccause cdetail
    cscratch run wfi queue) s.dram chk s.stage stageBad s.csram s.flash s.xflash caches bar tempo chorus mc echo rings bm boot
    duet refrain health trace io pwr free pending).Legal ↔ s.Legal :=
  ⟨fun h => ⟨h.dram, h.stage, h.csram, h.flash, h.xflash, h.cores, ⟨h.cdr.w0, h.cdr.cstatus, h.cdr.qstat⟩⟩,
    fun h => ⟨h.dram, h.stage, h.csram, h.flash, h.xflash, h.cores, ⟨h.cdr.w0, h.cdr.cstatus, h.cdr.qstat⟩⟩⟩

/-! Cores replaced. -/

theorem State.legal_setCore {s : State} {c : Fin 12} {v : VoiceCore} (h : s.Legal) (hv : v.Legal) : (s.setCore c v).Legal := by
  obtain ⟨h1, h2, h3, h4, h5, h6, h7⟩ := h
  refine ⟨h1, h2, h3, h4, h5, fun d => ?_, h7⟩
  have e : ((s.setCore c v).cores[d]) = if c = d then v else s.cores[d] := by
    simp [State.setCore, Fin.getElem_fin, Vector.getElem_set, Fin.ext_iff]
  rw [e]
  split
  · exact hv
  · exact h6 d

theorem State.legal_core {s : State} {c : Fin 12} (h : s.Legal) : (s.core c).Legal := h.cores c

theorem State.legal_modCore {s : State} {c : Fin 12} {f : VoiceCore → VoiceCore} (h : s.Legal) (hf : ∀ v, v.Legal → (f v).Legal) :
    (s.modCore c f).Legal := State.legal_setCore h (hf _ (h.cores c))

theorem State.legal_mapCores {s : State} {f : Fin 12 → VoiceCore → VoiceCore} (h : s.Legal) (hf : ∀ c v, v.Legal → (f c v).Legal) :
    (s.mapCores f).Legal := by
  obtain ⟨h1, h2, h3, h4, h5, h6, h7⟩ := h
  exact ⟨h1, h2, h3, h4, h5, fun d => by simpa [State.mapCores, State.core] using hf d _ (h6 d), h7⟩

theorem State.legal_cdr {s : State} (h : s.Legal) : s.cdr.Legal := h.cdr

/-! Folds and choices. -/

theorem State.legal_foldl {α : Type} {f : State → α → State} {l : List α} {s : State} (h : s.Legal)
    (hf : ∀ s x, s.Legal → (f s x).Legal) : (l.foldl f s).Legal := by
  induction l generalizing s with
  | nil => exact h
  | cons x l ih => exact ih (hf s x h)

theorem State.legal_foldl_fst {α β : Type} {f : State × β → α → State × β} {l : List α} {p : State × β} (h : p.1.Legal)
    (hf : ∀ p x, p.1.Legal → (f p x).1.Legal) : (l.foldl f p).1.Legal := by
  induction l generalizing p with
  | nil => exact h
  | cons x l ih => exact ih (hf p x h)

theorem State.legal_ite {c : Prop} [Decidable c] {s t : State} (hs : s.Legal) (ht : t.Legal) : (if c then s else t).Legal := by
  split
  · exact hs
  · exact ht

theorem VoiceCore.legal_ite {c : Prop} [Decidable c] {s t : VoiceCore} (hs : s.Legal) (ht : t.Legal) : (if c then s else t).Legal := by
  split
  · exact hs
  · exact ht

theorem State.legal_getD {o : Option State} {s : State} (h : s.Legal) (ho : ∀ t, o = some t → t.Legal) : (o.getD s).Legal := by
  cases o with
  | none => exact h
  | some t => exact ho t rfl

/-! Outcomes and programs. -/

/-- An outcome in which a next state is legal. -/
structure Outcome.Legal (o : Host.Outcome State Fault Refusal) : Prop where
  next : ∀ t, o = .next t → t.Legal

theorem Outcome.legal_next {s : State} (h : s.Legal) : Outcome.Legal (.next s) := ⟨by rintro t ⟨⟩; exact h⟩
theorem Outcome.legal_fault {e : Fault} : Outcome.Legal (.fault e) := ⟨by rintro t ⟨⟩⟩

/-- A program of an instruction that leads from legal states to legal states, whether it completes or traps. -/
structure Exec.Legal {α : Type} (m : Exec α) : Prop where
  ok  : ∀ s a t, s.Legal → m s = .ok a t → t.Legal
  err : ∀ s e t, s.Legal → m s = .error e t → t.Legal

theorem Exec.legal_pure {α : Type} {a : α} : Exec.Legal (pure a : Exec α) :=
  ⟨fun _ _ _ h e => by cases e; exact h, fun _ _ _ _ e => by cases e⟩
theorem Exec.legal_throw {α : Type} {x : Trap} : Exec.Legal (throw x : Exec α) := by
  constructor
  · intro s a t h e
    cases e
  · intro s y t h e
    cases e
    exact h
theorem Exec.legal_bind {α β : Type} {m : Exec α} {f : α → Exec β} (hm : Exec.Legal m) (hf : ∀ a, Exec.Legal (f a)) :
    Exec.Legal (m >>= f) := by
  constructor
  · intro s b t hs e
    simp only [bind, EStateM.bind] at e
    split at e
    · rename_i a s' h
      exact (hf a).ok s' b t (hm.ok s a s' hs h) e
    · cases e
  · intro s x t hs e
    simp only [bind, EStateM.bind] at e
    split at e
    · rename_i a s' h
      exact (hf a).err s' x t (hm.ok s a s' hs h) e
    · rename_i y s' h
      cases e
      exact hm.err s _ _ hs h
theorem Exec.legal_get {β : Type} {f : State → Exec β} (hf : ∀ s, s.Legal → Exec.Legal (f s)) : Exec.Legal (get >>= f) :=
  ⟨fun s b t hs e => (hf s hs).ok s b t hs e, fun s x t hs e => (hf s hs).err s x t hs e⟩
theorem Exec.legal_set {s : State} (h : s.Legal) : Exec.Legal (set s : Exec Unit) :=
  ⟨fun _ _ _ _ e => by cases e; exact h, fun _ _ _ _ e => by cases e⟩
theorem Exec.legal_modify {f : State → State} (hf : ∀ s, s.Legal → (f s).Legal) : Exec.Legal (modify f : Exec Unit) :=
  ⟨fun s _ _ h e => by cases e; exact hf s h, fun _ _ _ _ e => by cases e⟩

/-! Words of bits. -/

theorem or_and_zero {n : Nat} {a b m : BitVec n} (ha : a &&& m = 0) (hb : b &&& m = 0) : (a ||| b) &&& m = 0 := by
  ext i hi
  have h1 := congrArg (fun x => x.getLsbD i) ha
  have h2 := congrArg (fun x => x.getLsbD i) hb
  simp only [BitVec.getLsbD_and, BitVec.getLsbD_zero] at h1 h2
  simp [BitVec.getLsbD_eq_getElem hi] at h1 h2 ⊢
  exact fun h => h.elim h1 h2
theorem and_and_zero {n : Nat} {a k m : BitVec n} (h : k &&& m = 0) : (a &&& k) &&& m = 0 := by
  rw [BitVec.and_assoc, h]
  simp
theorem flag_and_zero {n i : Nat} {b : Bool} {m : BitVec n} (h : bitAt n i &&& m = 0) : flag n i b &&& m = 0 := by
  unfold flag
  split
  · exact h
  · simp
theorem and_zero_and {n : Nat} {a k m : BitVec n} (h : a &&& m = 0) : (a &&& k) &&& m = 0 := by
  rw [BitVec.and_assoc, BitVec.and_comm k m, ← BitVec.and_assoc, h]
  simp
theorem setBit_and_zero {n i : Nat} {b : Bool} {a m : BitVec n} (ha : a &&& m = 0) (hm : bitAt n i &&& m = 0) :
    setBit a i b &&& m = 0 := by
  unfold setBit
  split
  · exact or_and_zero ha hm
  · exact and_zero_and ha

theorem bits_or {n lo k : Nat} (a b : BitVec n) : bits (a ||| b) lo k = bits a lo k ||| bits b lo k := by
  unfold bits
  ext i hi
  simp
theorem bits_and {n lo k : Nat} (a b : BitVec n) : bits (a &&& b) lo k = bits a lo k &&& bits b lo k := by
  unfold bits
  ext i hi
  simp
theorem and_ones2 (x : BitVec 2) : x &&& BitVec.allOnes 2 = x := BitVec.and_allOnes
theorem bits_flag_zero {n i lo k : Nat} {b : Bool} (h : bits (bitAt n i) lo k = 0) : bits (flag n i b) lo k = 0 := by
  unfold flag
  split
  · exact h
  · unfold bits
    ext j hj
    simp

/-! The cores' own operations. -/

theorem VoiceCore.reset_legal : VoiceCore.reset.Legal := ⟨by decide +kernel, by decide, by decide, by decide, by decide, by decide⟩
theorem Conductor.reset_legal : Conductor.reset.Legal := ⟨by decide +kernel, by decide, by decide⟩

theorem VoiceCore.defer_legal {v : VoiceCore} {a : PAddr} {kind : BitVec 3} (h : v.Legal) : (v.defer a kind).Legal := by
  unfold VoiceCore.defer
  split <;> exact VoiceCore.legal_with.2 h

theorem VoiceCore.mppl_setBit7 {st : Word} {b : Bool} (h : bits st 2 2 ≠ 2) : bits (setBit st 7 b) 2 2 ≠ 2 := by
  unfold setBit
  split
  · rw [bits_or]
    simpa [bits] using h
  · rw [bits_and]
    have e : bits (~~~((1 : Word) <<< 7)) 2 2 = BitVec.allOnes 2 := by decide
    rw [e, and_ones2]
    simpa using h

theorem VoiceCore.deferExpiry_legal {v : VoiceCore} {part : BitVec 4} {beat : BitVec 5} (h : v.Legal) : (v.deferExpiry part beat).Legal :=
  VoiceCore.legal_with_mstatus h (setBit_and_zero h.mstatus (by decide)) (VoiceCore.mppl_setBit7 h.mppl)

theorem VoiceCore.settle_legal {v : VoiceCore} (h : v.Legal) : v.settle.Legal := VoiceCore.legal_with.2 h

theorem VoiceCore.statusM_reserved {v : VoiceCore} {l : Level} : v.statusM l &&& 0xFFFF00 = 0 := by
  unfold VoiceCore.statusM
  refine or_and_zero (or_and_zero (or_and_zero (or_and_zero (and_and_zero (by decide)) (flag_and_zero (by decide)))
    (flag_and_zero (by decide))) ?_) (by decide)
  cases l <;> decide

theorem VoiceCore.statusM_mppl {v : VoiceCore} {l : Level} : bits (v.statusM l) 2 2 ≠ 2 := by
  unfold VoiceCore.statusM
  simp only [bits_or, bits_and]
  rw [bits_flag_zero (by decide), bits_flag_zero (by decide)]
  have e : ∀ x : BitVec 2, x &&& bits (224#24) 2 2 = 0 := by decide
  cases l <;> simp [e] <;> decide

theorem VoiceCore.statusK_reserved {v : VoiceCore} {l : Level} : v.statusK l &&& 0xFFFFE0 = 0 := by
  unfold VoiceCore.statusK
  exact or_and_zero (or_and_zero (or_and_zero (and_and_zero (by decide)) (flag_and_zero (by decide))) (flag_and_zero (by decide)))
    (by decide)

theorem VoiceCore.enterM_legal {v : VoiceCore} {epc : DWord} {cause : Word} {detail off : DWord} (h : v.Legal) :
    (v.enterM epc cause detail off).Legal :=
  VoiceCore.legal_with_mstatus (VoiceCore.settle_legal h) VoiceCore.statusM_reserved VoiceCore.statusM_mppl
theorem VoiceCore.enterK_legal {v : VoiceCore} {epc : DWord} {cause : Word} {detail off : DWord} (h : v.Legal) :
    (v.enterK epc cause detail off).Legal := VoiceCore.legal_with_kstatus (VoiceCore.settle_legal h) VoiceCore.statusK_reserved

theorem VoiceCore.eretK_legal {v : VoiceCore} (h : v.Legal) : v.eretK.Legal :=
  VoiceCore.legal_with_kstatus (VoiceCore.settle_legal h) (or_and_zero (or_and_zero (and_and_zero (by decide)) (flag_and_zero (by decide))) (by decide))
theorem VoiceCore.eretM_legal {v : VoiceCore} (h : v.Legal) : v.eretM.Legal := by
  refine VoiceCore.legal_with_mstatus (VoiceCore.settle_legal h)
    (or_and_zero (or_and_zero (and_and_zero (by decide)) (flag_and_zero (by decide))) (by decide)) ?_
  simp only [bits_or, bits_and]
  rw [bits_flag_zero (by decide)]
  have e : bits (0xEC : Word) 2 2 = BitVec.allOnes 2 := by decide
  have e' : bits (bitAt 24 1) 2 2 = 0 := by decide
  rw [e, e', and_ones2]
  simpa using h.mppl
theorem VoiceCore.eretExpiry_legal {v : VoiceCore} (h : v.Legal) : v.eretExpiry.Legal := by
  refine VoiceCore.legal_with_mstatus (VoiceCore.enterM_legal (VoiceCore.eretM_legal h)) (and_zero_and VoiceCore.statusM_reserved) ?_
  rw [bits_and]
  have e : bits (~~~(bitAt 24 7)) 2 2 = BitVec.allOnes 2 := by decide
  rw [e, and_ones2]
  simpa using VoiceCore.statusM_mppl

theorem VoiceCore.bufLine_legal {v : VoiceCore} {line : Nat} {bad : BitVec 24} (h : v.Legal) : (v.bufLine line bad).Legal := VoiceCore.legal_with.2 h
theorem VoiceCore.tlbFill_legal {v : VoiceCore} {acc : Acc} {e : TlbEntry} (h : v.Legal) : (v.tlbFill acc e).Legal := by
  unfold VoiceCore.tlbFill
  dsimp only
  split <;> exact VoiceCore.legal_with.2 h
theorem VoiceCore.tlbi_legal {v : VoiceCore} {t : Tlbi} (h : v.Legal) : (v.tlbi t).Legal := VoiceCore.legal_with.2 h

theorem mstatusWrite_reserved {old v : Word} : mstatusWrite old v &&& 0xFFFF00 = 0 := by
  unfold mstatusWrite
  split
  · exact or_and_zero (and_and_zero (by decide)) (and_and_zero (by decide))
  · exact and_and_zero (by decide)
theorem mstatusWrite_mppl {old v : Word} (h : bits old 2 2 ≠ 2) : bits (mstatusWrite old v) 2 2 ≠ 2 := by
  unfold mstatusWrite
  split
  · simp only [bits_or, bits_and]
    have e : bits (0xF3 : Word) 2 2 = 0 := by decide
    have e' : bits (0x0C : Word) 2 2 = BitVec.allOnes 2 := by decide
    rw [e, e', and_ones2]
    simpa using h
  · rename_i hv
    rw [bits_and]
    have e : bits (0xFF : Word) 2 2 = BitVec.allOnes 2 := by decide
    rw [e, and_ones2]
    simpa using hv

theorem VoiceCore.openXlat_legal {v : VoiceCore} (h : v.Legal) : v.openXlat.Legal := by
  unfold VoiceCore.openXlat
  split <;> exact VoiceCore.legal_with.2 h

theorem VoiceCore.writeCsr_legal {v : VoiceCore} {n : Nat} {x : Word} (h : v.Legal) : (v.writeCsr n x).Legal := by
  unfold VoiceCore.writeCsr
  split
  case h_1 => exact VoiceCore.legal_with_fcsr h (and_and_zero (by decide))
  case h_2 => exact VoiceCore.legal_with_qstat h (and_and_zero (by decide))
  case h_3 => exact VoiceCore.legal_with_kstatus h (and_and_zero (by decide))
  case h_15 => exact VoiceCore.legal_with_mstatus h mstatusWrite_reserved (mstatusWrite_mppl h.mppl)
  all_goals first | exact VoiceCore.legal_with.2 h | exact VoiceCore.legal_with.2 (VoiceCore.openXlat_legal h) | exact h

theorem Conductor.enter_legal {d : Conductor} {cause : Word} {detail off : DWord} (h : d.Legal) : (d.enter cause detail off).Legal :=
  Conductor.legal_with_cstatus h (or_and_zero (flag_and_zero (by decide)) (by decide))
theorem Conductor.eret_legal {d : Conductor} (h : d.Legal) : d.eret.Legal :=
  Conductor.legal_with_cstatus h (or_and_zero (flag_and_zero (by decide)) (by decide))
theorem Conductor.writeCsr_legal {d : Conductor} {n : Nat} {x : Word} (h : d.Legal) : (d.writeCsr n x).Legal := by
  unfold Conductor.writeCsr
  split
  case h_1 => exact Conductor.legal_with_qstat h (and_and_zero (by decide))
  case h_2 => exact Conductor.legal_with_cstatus h (and_and_zero (by decide))
  all_goals first | exact Conductor.legal_with.2 h | exact h

end Sys2Proof.Machine
end

