-- ==== Sys2Proof/Laws/LegalOps.lean ====
section
/-! SUPPORT. A legal state stays legal: Ops. -/
set_option Elab.async false
set_option linter.all false
namespace Sys2Proof.Machine

theorem State.modCbar_legal {s : State} {c : Fin 12} {f : CoreBar → CoreBar} (h_s : s.Legal) : (State.modCbar s c f).Legal := by
  unfold State.modCbar
  repeat' first | assumption | simp only [State.legal_with]

theorem State.draw_legal {s : State} (h_s : s.Legal) : (State.draw s).2.Legal := by
  unfold State.draw
  repeat' first | assumption | simp only [State.legal_with]

theorem State.edge_legal {s : State} {t : Nat} {n : Nat} (h_s : s.Legal) : (State.edge s t n).Legal := by
  unfold State.edge
  repeat' first | assumption | simp only [State.legal_with] | with_reducible apply State.legal_ite

theorem State.post_legal {s : State} {src : BitVec 12} {kind : BitVec 2} (h_s : s.Legal) : (State.post s src kind).Legal := by
  unfold State.post
  repeat' first | assumption | simp only [State.legal_with] | with_reducible apply State.legal_ite

theorem State.runCycles_legal {s : State} {dt : Nat} {c : Fin 12} (h_s : s.Legal) : (State.runCycles s dt c).Legal := by
  unfold State.runCycles
  repeat'
    first
    | assumption | with_reducible apply State.legal_setCore | with_reducible apply State.edge_legal
    | simp only [VoiceCore.legal_with] | with_reducible apply State.legal_core | with_reducible apply State.legal_ite

theorem State.runCdrCycles_legal {s : State} {dt : Nat} (h_s : s.Legal) : (State.runCdrCycles s dt).Legal := by
  unfold State.runCdrCycles
  repeat'
    first
    | assumption | with_reducible apply State.edge_legal
    | simp only [State.legal_with, State.legal_with_cdr_fields] | with_reducible apply State.legal_ite

theorem State.runSection_legal {s : State} {dt : Nat} {sec : Fin 3} (h_s : s.Legal) : (State.runSection s dt sec).Legal := by
  unfold State.runSection
  repeat' first | assumption | simp only [State.legal_with]

theorem State.elapse_legal {s : State} {dt : Nat} (h_s : s.Legal) : (State.elapse s dt).Legal := by
  unfold State.elapse
  repeat'
    first
    | assumption | intro _ | with_reducible apply State.runCycles_legal
    | with_reducible apply State.runSection_legal | with_reducible apply State.runCdrCycles_legal
    | simp only [State.legal_with] | with_reducible apply State.legal_ite | with_reducible apply State.legal_foldl

theorem State.until_legal {s : State} {at_ : Nat} (h_s : s.Legal) : (State.until s at_).Legal := by
  unfold State.until
  repeat' first | assumption | with_reducible apply State.elapse_legal

theorem tick_legal {s : State} (h_s : s.Legal) : (tick s).Legal := by
  unfold tick
  repeat' first | assumption | with_reducible apply State.elapse_legal | with_reducible apply State.legal_ite

theorem ifOn_legal {s : State} {f : State → State} (h_s : s.Legal) (h_f : ∀ s, s.Legal → (f s).Legal) : Outcome.Legal (ifOn s f) :=
  Outcome.legal_next (State.legal_ite (h_f s h_s) h_s)

end Sys2Proof.Machine
end

