-- ==== Sys2Proof/Laws/LegalDram.lean ====
section
/-! SUPPORT. A legal state stays legal: Dram. -/
set_option Elab.async false
set_option linter.all false
namespace Sys2Proof.Machine

theorem State.logCe_legal {s : State} {rk : RdKind} {line : Nat} {beat : Nat} {dev : Nat} (h_s : s.Legal) :
    (State.logCe s rk line beat dev).Legal := by
  unfold State.logCe
  repeat' first | assumption | with_reducible apply State.post_legal | simp only [State.legal_with]

theorem State.logUe_legal {s : State} {rk : RdKind} {line : Nat} {beat : Nat} {marker : Bool} (h_s : s.Legal) :
    (State.logUe s rk line beat marker).Legal := by
  unfold State.logUe
  repeat' first | assumption | with_reducible apply State.post_legal | simp only [State.legal_with]

theorem State.setChk_legal {s : State} {key : Nat} {e : BitVec 8} (h_s : s.Legal) : (State.setChk s key e).Legal := by
  unfold State.setChk
  repeat' first | assumption | simp only [State.legal_with]

theorem State.flipData_legal {s : State} {line beat i : Nat} (h_s : s.Legal) : (State.flipData s line beat i).Legal := by
  unfold State.flipData
  dsimp only
  split
  · exact State.legal_with_dram h_s (Memory.setWord_wf _ _ h_s.dram)
  · exact h_s

theorem State.readBeat_legal {s : State} {rk : RdKind} {line : Nat} {beat : Nat} (h_s : s.Legal) :
    (State.readBeat s rk line beat).1.Legal := by
  unfold State.readBeat
  repeat'
    first
    | assumption | with_reducible apply State.logCe_legal | with_reducible apply State.setChk_legal
    | with_reducible apply State.flipData_legal | with_reducible apply State.logUe_legal | split | dsimp only

theorem State.readBeats_legal {s : State} {rk : RdKind} {line : Nat} {beats : List Nat} (h_s : s.Legal) :
    (State.readBeats s rk line beats).1.Legal := by
  unfold State.readBeats
  repeat'
    first
    | assumption | intro _ | with_reducible apply State.readBeat_legal
    | with_reducible apply State.legal_foldl_fst

theorem State.produceC_legal {s : State} {ft : BitVec 3} {payload : List Word} {gate : Option (BitVec 12)} (h_s : s.Legal) :
    (State.produceC s ft payload gate).Legal := by
  unfold State.produceC
  repeat' first | assumption | simp only [State.legal_with]

theorem State.produceEnd_legal {s : State} {status : Word} (h_s : s.Legal) : (State.produceEnd s status).Legal := by
  unfold State.produceEnd
  repeat'
    first
    | assumption | with_reducible apply State.produceB_legal | simp only [State.legal_with]
    | with_reducible apply State.legal_ite | split

theorem State.putLine_legal {s : State} {l : CacheLine} (h_s : s.Legal) :
    (State.putLine s l).Legal := by
  unfold State.putLine
  repeat'
    first
    | with_reducible assumption | intro _ | with_reducible apply State.legal_core
    | with_reducible apply State.legal_cdr
    | simp only [State.legal_with, VoiceCore.legal_with, State.legal_with_cdr_fields]
    | with_reducible apply State.legal_ite | split | dsimp only

theorem State.clearResv_legal {s : State} {line : Nat} {p : Fin 12 → Bool} (h_s : s.Legal) :
    (State.clearResv s line p).Legal := by
  unfold State.clearResv
  repeat'
    first
    | with_reducible assumption | intro _ | with_reducible apply State.legal_mapCores
    | with_reducible apply State.legal_core | with_reducible apply State.legal_cdr
    | simp only [State.legal_with, VoiceCore.legal_with, State.legal_with_cdr_fields]
    | with_reducible apply State.legal_ite | split | dsimp only

theorem State.dropLine_legal {s : State} {line : Nat} (h_s : s.Legal) :
    (State.dropLine s line).Legal := by
  unfold State.dropLine
  repeat'
    first
    | with_reducible assumption | intro _ | with_reducible apply State.clearResv_legal
    | with_reducible apply State.legal_mapCores | with_reducible apply State.legal_core
    | with_reducible apply State.legal_cdr
    | simp only [State.legal_with, VoiceCore.legal_with, State.legal_with_cdr_fields]
    | with_reducible apply State.legal_ite | split | dsimp only

theorem State.dropSection_legal {s : State} {sec : Fin 3} {line : Nat} (h_s : s.Legal) :
    (State.dropSection s sec line).Legal := by
  unfold State.dropSection
  repeat'
    first
    | with_reducible assumption | intro _ | with_reducible apply State.clearResv_legal
    | with_reducible apply State.putLine_legal | with_reducible apply State.legal_mapCores
    | with_reducible apply State.legal_core | with_reducible apply State.legal_cdr
    | simp only [State.legal_with, VoiceCore.legal_with, State.legal_with_cdr_fields]
    | with_reducible apply State.legal_ite | split | dsimp only

theorem State.dropSite_legal {s : State} {site : CacheSite} {line : Nat} (h_s : s.Legal) :
    (State.dropSite s site line).Legal := by
  unfold State.dropSite
  repeat'
    first
    | with_reducible assumption | intro _ | with_reducible apply State.clearResv_legal
    | with_reducible apply State.dropSection_legal | with_reducible apply State.putLine_legal
    | with_reducible apply State.legal_mapCores | with_reducible apply State.legal_core
    | with_reducible apply State.legal_cdr
    | simp only [State.legal_with, VoiceCore.legal_with, State.legal_with_cdr_fields]
    | with_reducible apply State.legal_ite | split | dsimp only

theorem State.settleLine_legal {s : State} {line : Nat} {ws : List WrWord} (h_s : s.Legal) :
    (State.settleLine s line ws).Legal := by
  unfold State.settleLine
  repeat'
    first
    | with_reducible assumption | intro _ | with_reducible apply State.putLine_legal
    | with_reducible apply State.legal_core | with_reducible apply State.legal_cdr
    | simp only [State.legal_with, VoiceCore.legal_with, State.legal_with_cdr_fields]
    | with_reducible apply State.legal_ite | split | dsimp only

theorem State.snoopWrite_legal {s : State} {line : Nat} {ws : List WrWord} (h_s : s.Legal) :
    (State.snoopWrite s line ws).Legal := by
  unfold State.snoopWrite
  extract_lets e1
  have h_e1 : e1.Legal := by
    dsimp only [e1]
    repeat'
      first
      | with_reducible assumption | intro _ | with_reducible apply State.clearResv_legal
      | with_reducible apply State.putLine_legal | with_reducible apply State.legal_mapCores
      | with_reducible apply State.legal_core | with_reducible apply State.legal_cdr
      | simp only [State.legal_with, VoiceCore.legal_with, State.legal_with_cdr_fields]
      | with_reducible apply State.legal_ite | with_reducible apply State.legal_foldl
      | with_reducible apply State.legal_foldl_fst | split | dsimp only
  try clear_value e1
  repeat'
    first
    | with_reducible assumption | intro _ | with_reducible apply State.clearResv_legal
    | with_reducible apply State.putLine_legal | with_reducible apply State.legal_mapCores
    | with_reducible apply State.legal_core | with_reducible apply State.legal_cdr
    | simp only [State.legal_with, VoiceCore.legal_with, State.legal_with_cdr_fields]
    | with_reducible apply State.legal_ite | with_reducible apply State.legal_foldl
    | with_reducible apply State.legal_foldl_fst | split | dsimp only

theorem State.writeBeat_legal {s : State} {line beat : Nat} {ws : List WrWord} (h_s : s.Legal) :
    (State.writeBeat s line beat ws).Legal := by
  unfold State.writeBeat
  refine State.setChk_legal (State.legal_with_dram ?_ (Memory.foldl_wf _ _ ?_ fun m w => Memory.setLanes_wf _ _ _)) <;> split
  · exact h_s
  · exact State.readBeat_legal h_s
  · exact h_s.dram
  · exact (State.readBeat_legal h_s).dram

theorem State.writeDram_legal {s : State} {line : Nat} {ws : List WrWord} (h_s : s.Legal) :
    (State.writeDram s line ws).Legal := by
  unfold State.writeDram
  repeat'
    first
    | assumption | intro _ | with_reducible apply State.writeBeat_legal | simp only [State.legal_with]
    | with_reducible apply State.legal_ite | with_reducible apply State.legal_foldl

theorem State.writeStage_legal {s : State} {ws : List WrWord} (h_s : s.Legal) : (State.writeStage s ws).Legal :=
  State.legal_with_stage h_s (Memory.foldl_wf _ _ h_s.stage fun _ _ => Memory.setLanes_wf _ _ _)

theorem State.echoCopy_legal {s : State} {line : Nat} (h_s : s.Legal) : (State.echoCopy s line).Legal := by
  unfold State.echoCopy
  repeat' first | assumption | with_reducible apply State.readBeats_legal | simp only [State.legal_with]

theorem State.store_legal {s : State} {line : Nat} {ws : List WrWord} (h_s : s.Legal) :
    (State.store s line ws).Legal := by
  unfold State.store
  extract_lets e1
  try clear_value e1
  repeat'
    first
    | with_reducible assumption | intro _ | with_reducible apply State.writeDram_legal
    | with_reducible apply State.writeStage_legal | with_reducible apply State.legal_core
    | with_reducible apply State.legal_cdr
    | simp only [State.legal_with, VoiceCore.legal_with, State.legal_with_cdr_fields]
    | with_reducible apply State.legal_ite | split | dsimp only

theorem State.performed_legal {s : State} {x : Stalled} {ws : List WrWord} (h_s : s.Legal) :
    (State.performed s x ws).Legal := by
  unfold State.performed
  repeat'
    first
    | with_reducible assumption | intro _ | with_reducible apply State.echoCopy_legal
    | with_reducible apply State.store_legal | with_reducible apply State.legal_core
    | with_reducible apply State.legal_cdr
    | simp only [State.legal_with, VoiceCore.legal_with, State.legal_with_cdr_fields]
    | with_reducible apply State.legal_ite | split | dsimp only

theorem State.complete_legal {s : State} {later : List Stalled} {x : Stalled} (h_s : s.Legal) :
    (State.complete s later x).Legal := by
  unfold State.complete
  repeat'
    first
    | with_reducible assumption | intro _ | with_reducible apply State.clearResv_legal
    | with_reducible apply State.dropLine_legal | with_reducible apply State.dropSite_legal
    | with_reducible apply State.performed_legal | with_reducible apply State.settleLine_legal
    | with_reducible apply State.snoopWrite_legal | with_reducible apply State.legal_mapCores
    | with_reducible apply State.legal_core | with_reducible apply State.legal_cdr
    | simp only [State.legal_with, VoiceCore.legal_with, State.legal_with_cdr_fields]
    | with_reducible apply State.legal_ite | split | dsimp only

theorem State.tell_legal {s : State} {d : DmaDone} (h_s : s.Legal) :
    (State.tell s d).Legal := by
  unfold State.tell
  repeat'
    first
    | with_reducible assumption | intro _ | with_reducible apply State.legal_core
    | with_reducible apply State.legal_cdr
    | simp only [State.legal_with, VoiceCore.legal_with, State.legal_with_cdr_fields]
    | with_reducible apply State.legal_ite | split | dsimp only

theorem State.tryWrite_legal {s : State} {later : List Stalled} {x : Stalled} (h_s : s.Legal) :
    (State.tryWrite s later x).1.Legal := by
  unfold State.tryWrite
  repeat'
    first
    | with_reducible assumption | intro _ | with_reducible apply State.complete_legal
    | with_reducible apply State.tell_legal | with_reducible apply State.legal_core
    | with_reducible apply State.legal_cdr
    | simp only [State.legal_with, VoiceCore.legal_with, State.legal_with_cdr_fields]
    | with_reducible apply State.legal_ite | with_reducible apply State.legal_foldl
    | with_reducible apply State.legal_foldl_fst | split | dsimp only

theorem State.retryAll_legal {s : State} {a0 : List Stalled} (h_s : s.Legal) :
    (State.retryAll s a0).Legal := by
  induction a0 generalizing s with
  | nil => exact h_s
  | cons x xs ih =>
    unfold State.retryAll
    repeat' first | with_reducible assumption | intro _ | with_reducible apply ih | with_reducible apply State.tryWrite_legal | with_reducible apply State.legal_core | with_reducible apply State.legal_cdr | simp only [State.legal_with, VoiceCore.legal_with, State.legal_with_cdr_fields] | with_reducible apply State.legal_ite | split | dsimp only

theorem State.retryStalled_legal {s : State} (h_s : s.Legal) :
    (State.retryStalled s).Legal := by
  unfold State.retryStalled
  repeat'
    first
    | with_reducible assumption | intro _ | with_reducible apply State.retryAll_legal
    | with_reducible apply State.legal_core | with_reducible apply State.legal_cdr
    | simp only [State.legal_with, VoiceCore.legal_with, State.legal_with_cdr_fields]
    | with_reducible apply State.legal_ite | split | dsimp only

theorem State.spillDone_legal {s : State} {a : Nat} {ws : List Word} (h_s : s.Legal) :
    (State.spillDone s a ws).Legal := by
  unfold State.spillDone
  extract_lets e1
  have h_e1 : e1.Legal := by
    dsimp only [e1]
    repeat'
      first
      | with_reducible assumption | intro _ | with_reducible apply State.complete_legal
      | with_reducible apply State.legal_core | with_reducible apply State.legal_cdr
      | simp only [State.legal_with, VoiceCore.legal_with, State.legal_with_cdr_fields]
      | with_reducible apply State.legal_ite | split | dsimp only
  try clear_value e1
  repeat'
    first
    | with_reducible assumption | intro _ | with_reducible apply State.complete_legal
    | with_reducible apply State.legal_core | with_reducible apply State.legal_cdr
    | simp only [State.legal_with, VoiceCore.legal_with, State.legal_with_cdr_fields]
    | with_reducible apply State.legal_ite | split | dsimp only

theorem State.spillAll_legal {s : State} {a0 : Nat} (h_s : s.Legal) :
    (State.spillAll s a0).Legal := by
  induction a0 generalizing s with
  | zero => exact h_s
  | succ n ih =>
    unfold State.spillAll
    repeat' first | with_reducible assumption | intro _ | with_reducible apply ih | with_reducible apply State.spillDone_legal | with_reducible apply State.legal_core | with_reducible apply State.legal_cdr | simp only [State.legal_with, VoiceCore.legal_with, State.legal_with_cdr_fields] | with_reducible apply State.legal_ite | split | dsimp only

theorem State.abandonStream_legal {s : State} {sessionLost : Bool} (h_s : s.Legal) :
    (State.abandonStream s sessionLost).Legal := by
  unfold State.abandonStream
  repeat'
    first
    | with_reducible assumption | intro _ | with_reducible apply State.produceEnd_legal
    | with_reducible apply State.retryStalled_legal | with_reducible apply State.spillAll_legal
    | with_reducible apply State.legal_core | with_reducible apply State.legal_cdr
    | simp only [State.legal_with, VoiceCore.legal_with, State.legal_with_cdr_fields]
    | with_reducible apply State.legal_ite | split | dsimp only

theorem State.spillOut_legal {s : State} {a0 : Nat} (h_s : s.Legal) :
    (State.spillOut s a0).Legal := by
  induction a0 generalizing s with
  | zero => exact h_s
  | succ n ih =>
    unfold State.spillOut
    repeat' first | with_reducible assumption | intro _ | with_reducible apply ih | with_reducible apply State.abandonStream_legal | with_reducible apply State.spillAll_legal | with_reducible apply State.legal_core | with_reducible apply State.legal_cdr | simp only [State.legal_with, VoiceCore.legal_with, State.legal_with_cdr_fields] | with_reducible apply State.legal_ite | split | dsimp only

theorem State.produceB_legal {s : State} {ft : BitVec 3} {payload : List Word} (h_s : s.Legal) :
    (State.produceB s ft payload).Legal := by
  unfold State.produceB
  repeat'
    first
    | with_reducible assumption | intro _ | with_reducible apply State.spillOut_legal
    | with_reducible apply State.legal_core | with_reducible apply State.legal_cdr
    | simp only [State.legal_with, VoiceCore.legal_with, State.legal_with_cdr_fields]
    | with_reducible apply State.legal_ite | split | dsimp only

theorem State.refill_legal {s : State} (h_s : s.Legal) :
    (State.refill s).Legal := by
  unfold State.refill
  extract_lets e1
  try clear_value e1
  repeat'
    first
    | with_reducible assumption | intro _ | with_reducible apply State.spillOut_legal
    | with_reducible apply State.legal_core | with_reducible apply State.legal_cdr
    | simp only [State.legal_with, VoiceCore.legal_with, State.legal_with_cdr_fields]
    | with_reducible apply State.legal_ite | split | dsimp only

theorem State.writeLine_legal {s : State} {x : Stalled} (h_s : s.Legal) : (State.writeLine s x).1.Legal := by
  unfold State.writeLine
  repeat'
    first
    | assumption | with_reducible apply State.tryWrite_legal
    | with_reducible apply State.abandonStream_legal | split

theorem State.dmaDone_legal {s : State} {eng : Initiator} {d : DmaDone} (h_s : s.Legal) :
    (State.dmaDone s eng d).Legal := by
  unfold State.dmaDone
  repeat'
    first
    | with_reducible assumption | intro _ | with_reducible apply State.tell_legal
    | with_reducible apply State.legal_core | with_reducible apply State.legal_cdr
    | simp only [State.legal_with, VoiceCore.legal_with, State.legal_with_cdr_fields]
    | with_reducible apply State.legal_ite | split | dsimp only

theorem State.upsetDram_legal {s : State} {a : Nat} {x : BitVec 80} (h_s : s.Legal) : (State.upsetDram s a x).Legal := by
  unfold State.upsetDram
  repeat'
    first
    | assumption | intro _ | with_reducible apply State.flipData_legal
    | with_reducible apply State.setChk_legal | with_reducible apply State.legal_ite
    | with_reducible apply State.legal_foldl

theorem State.upsetEcho_legal {s : State} {line : Nat} {off : Nat} {ue : Bool} (h_s : s.Legal) :
    (State.upsetEcho s line off ue).Legal := by
  unfold State.upsetEcho
  extract_lets e1
  try clear_value e1
  repeat'
    first
    | with_reducible assumption | intro _ | with_reducible apply State.legal_core
    | with_reducible apply State.legal_cdr
    | simp only [State.legal_with, VoiceCore.legal_with, State.legal_with_cdr_fields]
    | with_reducible apply State.legal_ite | split | dsimp only

end Sys2Proof.Machine
end

