-- ==== Sys2Proof/Laws/LegalSignals.lean ====
section
/-! SUPPORT. A legal state stays legal: Signals. -/
set_option Elab.async false
set_option linter.all false
namespace Sys2Proof.Machine

theorem State.awake_legal {s : State} {w : Initiator} (h_s : s.Legal) : (State.awake s w).Legal := by
  unfold State.awake
  split
  · exact State.legal_modCore h_s fun v hv => VoiceCore.legal_with.2 hv
  · exact State.legal_with_cdr_fields.2 h_s
  · exact h_s

theorem ifActs_legal {w : Initiator} {s : State} {f : State → State} (h_s : s.Legal) (h_f : ∀ s, s.Legal → (f s).Legal) :
    Outcome.Legal (ifActs w s f) :=
  Outcome.legal_next (State.legal_ite (h_f _ (State.awake_legal h_s)) h_s)

end Sys2Proof.Machine
end

