-- ==== Sys2Proof/Laws/LegalOperands.lean ====
section
/-! SUPPORT. A legal state stays legal: Operands. -/
set_option Elab.async false
set_option linter.all false
namespace Sys2Proof.Machine

theorem State.regs_w0 {s : State} {k : Core} (h_s : s.Legal) : (s.regs k)[0] = 0 := by
  unfold State.regs
  split
  · exact (h_s.cores _).w0
  · exact h_s.cdr.w0

theorem State.setRegs_legal {s : State} {k : Core} {v : Vector Word 32} (h_s : s.Legal) (h_v : v[0] = 0) : (State.setRegs s k v).Legal := by
  unfold State.setRegs
  split
  · exact State.legal_modCore h_s fun u hu => VoiceCore.legal_with_w hu h_v
  · exact State.legal_with_cdr h_s (Conductor.legal_with_w h_s.cdr h_v)

theorem State.setW_legal {s : State} {k : Core} {r : BitVec 5} {v : Word} (h_s : s.Legal) : (State.setW s k r v).Legal := by
  unfold State.setW
  split
  · exact h_s
  · rename_i hr
    refine State.setRegs_legal h_s ?_
    have : r.toFin.val ≠ 0 := fun e => hr (BitVec.eq_of_toNat_eq e)
    have : r.toNat ≠ 0 := this
    simpa [Vector.getElem_set, this] using State.regs_w0 h_s

theorem State.setD_legal {s : State} {k : Core} {r : BitVec 5} {v : DWord} (h_s : s.Legal) : (State.setD s k r v).Legal := by
  unfold State.setD
  split
  · exact h_s
  · rename_i hr
    refine State.setRegs_legal h_s ?_
    have h1 : r.toFin.val ≠ 0 := fun e => hr (BitVec.eq_of_toNat_eq e)
    have h2 : (r ||| 1).toFin.val ≠ 0 := by
      revert r
      decide
    have e : (((s.regs k).set r.toFin (lo24 v)).set (r ||| 1).toFin (hi24 v))[0] = (s.regs k)[0] := by
      rw [Vector.getElem_set_ne _ _ h2, Vector.getElem_set_ne _ _ h1]
    exact e.trans (State.regs_w0 h_s)

theorem State.setPc_legal {s : State} {k : Core} {p : DWord} (h_s : s.Legal) : (State.setPc s k p).Legal := by
  unfold State.setPc
  split
  · exact State.legal_modCore h_s fun u hu => VoiceCore.legal_with.2 hu
  · exact State.legal_with_cdr_fields.2 h_s

theorem State.setAcc_legal {s : State} {c : Fin 12} {n : BitVec 2} {v : BitVec 56} (h_s : s.Legal) :
    (State.setAcc s c n v).Legal := by
  unfold State.setAcc
  repeat' first | assumption | intro _ | with_reducible apply State.legal_modCore | simp only [VoiceCore.legal_with]

end Sys2Proof.Machine
end

