-- ==== Sys2Proof/Laws/LegalCacheOps.lean ====
section
/-! SUPPORT. A legal state stays legal: CacheOps. -/
set_option Elab.async false
set_option linter.all false
namespace Sys2Proof.Machine

theorem State.cleanWords_legal {s : State} {who : Option Initiator} {line : Nat} {drop : Option CacheSite}
  {keep : Nat → Bool} (h_s : s.Legal) :
    (State.cleanWords s who line drop keep).1.Legal := by
  unfold State.cleanWords
  extract_lets e1
  try clear_value e1
  repeat'
    first
    | with_reducible assumption | intro _ | with_reducible apply State.dropSite_legal
    | with_reducible apply State.writeLine_legal | with_reducible apply State.legal_core
    | with_reducible apply State.legal_cdr
    | simp only [State.legal_with, VoiceCore.legal_with, State.legal_with_cdr_fields]
    | with_reducible apply State.legal_ite | split | dsimp only

theorem State.cleanLine_legal {s : State} {who : Option Initiator} {line : Nat}
  {drop : Option CacheSite} (h_s : s.Legal) :
    (State.cleanLine s who line drop).1.Legal := by
  unfold State.cleanLine
  repeat'
    first
    | with_reducible assumption | intro _ | with_reducible apply State.cleanWords_legal
    | with_reducible apply State.legal_core | with_reducible apply State.legal_cdr
    | simp only [State.legal_with, VoiceCore.legal_with, State.legal_with_cdr_fields]
    | with_reducible apply State.legal_ite | split | dsimp only

theorem State.roomL3_legal {s : State} {who : Option Initiator} {line : Nat} (h_s : s.Legal) :
    (State.roomL3 s who line).1.Legal := by
  unfold State.roomL3
  repeat'
    first
    | with_reducible assumption | intro _ | with_reducible apply State.cleanLine_legal
    | with_reducible apply State.draw_legal | with_reducible apply State.legal_core
    | with_reducible apply State.legal_cdr
    | simp only [State.legal_with, VoiceCore.legal_with, State.legal_with_cdr_fields]
    | with_reducible apply State.legal_ite | split | dsimp only

theorem State.evict2_legal {s : State} {who : Option Initiator} {sec : Fin 3} {line : Nat} (h_s : s.Legal) :
    (State.evict2 s who sec line).1.Legal := by
  unfold State.evict2
  repeat'
    first
    | with_reducible assumption | intro _ | with_reducible apply State.cleanLine_legal
    | with_reducible apply State.clearResv_legal | with_reducible apply State.dropSection_legal
    | with_reducible apply State.putLine_legal | with_reducible apply State.roomL3_legal
    | with_reducible apply State.legal_mapCores | with_reducible apply State.legal_core
    | with_reducible apply State.legal_cdr
    | simp only [State.legal_with, VoiceCore.legal_with, State.legal_with_cdr_fields]
    | with_reducible apply State.legal_ite | split | dsimp only

theorem State.roomL2_legal {s : State} {who : Option Initiator} {sec : Fin 3} {line : Nat} (h_s : s.Legal) :
    (State.roomL2 s who sec line).1.Legal := by
  unfold State.roomL2
  repeat'
    first
    | with_reducible assumption | intro _ | with_reducible apply State.draw_legal
    | with_reducible apply State.evict2_legal | with_reducible apply State.legal_core
    | with_reducible apply State.legal_cdr
    | simp only [State.legal_with, VoiceCore.legal_with, State.legal_with_cdr_fields]
    | with_reducible apply State.legal_ite | split | dsimp only

theorem State.fillLine_legal {s : State} {sec : Fin 3} {w : Nat} {line : Nat} (h_s : s.Legal) :
    (State.fillLine s sec w line).Legal := by
  unfold State.fillLine
  extract_lets e1 e2
  have h_p1 : e1.1.Legal := by
    dsimp only [e1]
    repeat'
      first
      | with_reducible assumption | intro _ | with_reducible apply State.putLine_legal
      | with_reducible apply State.readBeats_legal | with_reducible apply State.legal_core
      | with_reducible apply State.legal_cdr
      | simp only [State.legal_with, VoiceCore.legal_with, State.legal_with_cdr_fields]
      | with_reducible apply State.legal_ite | split | dsimp only
  have h_e2 : e2.Legal := by
    dsimp only [e2]
    repeat'
      first
      | with_reducible assumption | intro _ | with_reducible apply State.putLine_legal
      | with_reducible apply State.readBeats_legal | with_reducible apply State.legal_core
      | with_reducible apply State.legal_cdr
      | simp only [State.legal_with, VoiceCore.legal_with, State.legal_with_cdr_fields]
      | with_reducible apply State.legal_ite | split | dsimp only
  try clear_value e1
  try clear_value e2
  repeat'
    first
    | with_reducible assumption | intro _ | with_reducible apply State.putLine_legal
    | with_reducible apply State.readBeats_legal | with_reducible apply State.legal_core
    | with_reducible apply State.legal_cdr
    | simp only [State.legal_with, VoiceCore.legal_with, State.legal_with_cdr_fields]
    | with_reducible apply State.legal_ite | split | dsimp only

theorem State.bringL2_legal {s : State} {c : Fin 12} {line : Nat} (h_s : s.Legal) :
    (State.bringL2 s c line).1.Legal := by
  unfold State.bringL2
  extract_lets e1
  try clear_value e1
  repeat'
    first
    | with_reducible assumption | intro _ | with_reducible apply State.cleanLine_legal
    | with_reducible apply State.fillLine_legal | with_reducible apply State.putLine_legal
    | with_reducible apply State.roomL2_legal | with_reducible apply State.legal_core
    | with_reducible apply State.legal_cdr
    | simp only [State.legal_with, VoiceCore.legal_with, State.legal_with_cdr_fields]
    | with_reducible apply State.legal_ite | split | dsimp only

theorem State.roomL1_legal {s : State} {insn : Bool} {c : Fin 12} {line : Nat} (h_s : s.Legal) :
    (State.roomL1 s insn c line).Legal := by
  unfold State.roomL1
  extract_lets e1
  try clear_value e1
  repeat'
    first
    | with_reducible assumption | intro _ | with_reducible apply State.draw_legal
    | with_reducible apply State.dropSite_legal | with_reducible apply State.legal_core
    | with_reducible apply State.legal_cdr
    | simp only [State.legal_with, VoiceCore.legal_with, State.legal_with_cdr_fields]
    | with_reducible apply State.legal_ite | split | dsimp only

theorem State.bring_legal {s : State} {c : Fin 12} {line : Nat} {insn : Bool} (h_s : s.Legal) :
    (State.bring s c line insn).1.Legal := by
  unfold State.bring
  extract_lets e1
  have h_p1 : e1.1.Legal := by
    dsimp only [e1]
    repeat'
      first
      | with_reducible assumption | intro _ | with_reducible apply State.bringL2_legal
      | with_reducible apply State.putLine_legal | with_reducible apply State.roomL1_legal
      | with_reducible apply State.legal_core | with_reducible apply State.legal_cdr
      | simp only [State.legal_with, VoiceCore.legal_with, State.legal_with_cdr_fields]
      | with_reducible apply State.legal_ite | split | dsimp only
  try clear_value e1
  repeat'
    first
    | with_reducible assumption | intro _ | with_reducible apply State.bringL2_legal
    | with_reducible apply State.putLine_legal | with_reducible apply State.roomL1_legal
    | with_reducible apply State.legal_core | with_reducible apply State.legal_cdr
    | simp only [State.legal_with, VoiceCore.legal_with, State.legal_with_cdr_fields]
    | with_reducible apply State.legal_ite | split | dsimp only

theorem State.bringData_legal {s : State} {c : Fin 12} {line : Nat} (h_s : s.Legal) :
    (State.bringData s c line).1.Legal := by
  unfold State.bringData
  repeat'
    first
    | with_reducible assumption | intro _ | with_reducible apply State.bring_legal
    | with_reducible apply State.legal_core | with_reducible apply State.legal_cdr
    | simp only [State.legal_with, VoiceCore.legal_with, State.legal_with_cdr_fields]
    | with_reducible apply State.legal_ite | split | dsimp only

theorem State.bringInsn_legal {s : State} {c : Fin 12} {line : Nat} (h_s : s.Legal) :
    (State.bringInsn s c line).1.Legal := by
  unfold State.bringInsn
  repeat'
    first
    | with_reducible assumption | intro _ | with_reducible apply State.bring_legal
    | with_reducible apply State.legal_core | with_reducible apply State.legal_cdr
    | simp only [State.legal_with, VoiceCore.legal_with, State.legal_with_cdr_fields]
    | with_reducible apply State.legal_ite | split | dsimp only

theorem State.storeCached_legal {s : State} {c : Fin 12} {ws : List WrWord} (h_s : s.Legal) :
    (State.storeCached s c ws).Legal := by
  unfold State.storeCached
  repeat'
    first
    | with_reducible assumption | with_reducible apply State.putLine_legal
    | with_reducible apply State.clearResv_legal | split | dsimp only

theorem State.readWords_legal {s : State} {snoop : Bool} {a n : Nat} {last : Option (Nat × Bool)} (h_s : s.Legal) :
    (State.readWords s snoop a n last).1.Legal := by
  induction n generalizing s a last with
  | zero => exact h_s
  | succ n ih =>
    unfold State.readWords
    dsimp only
    split
    · exact ih h_s
    · apply ih
      split
      · split
        · exact h_s
        · exact State.readBeat_legal h_s
      · exact h_s

theorem State.domainRead_legal {s t : State} {a n : Nat} {ws : List (Word × Bool)} (e : State.domainRead s a n = some (t, ws))
    (h_s : s.Legal) : t.Legal := by
  unfold State.domainRead at e
  split at e
  · have := congrArg (fun o => o.map (·.1)) e
    cases this
    exact State.readWords_legal h_s
  · cases e

theorem State.domainWrite_legal {s : State} {w : Initiator} {a : Nat} {data : List Word} (h_s : s.Legal) :
    (State.domainWrite s w a data).1.Legal := by
  unfold State.domainWrite
  repeat'
    first
    | with_reducible assumption | intro _ | with_reducible apply State.writeLine_legal
    | with_reducible apply State.snoopWrite_legal | with_reducible apply State.legal_ite
    | with_reducible apply State.legal_foldl | split | dsimp only

theorem State.cdrWords_legal {s : State} {a : Nat} {n : Nat} (h_s : s.Legal) : (State.cdrWords s a n).1.Legal := by
  unfold State.cdrWords
  repeat' first | with_reducible assumption | with_reducible apply State.readWords_legal

theorem State.cdrWrite_legal {s : State} {ws : List WrWord} (h_s : s.Legal) : (State.cdrWrite s ws).Legal := by
  unfold State.cdrWrite
  repeat'
    first
    | with_reducible assumption | intro _ | with_reducible apply State.writeLine_legal
    | with_reducible apply State.legal_foldl

theorem State.upsetCacheWord_legal {s : State} {site : CacheSite} {a : Nat} (h_s : s.Legal) :
    (State.upsetCacheWord s site a).Legal := by
  unfold State.upsetCacheWord
  extract_lets e1
  try clear_value e1
  repeat'
    first
    | with_reducible assumption | intro _ | with_reducible apply State.cleanLine_legal
    | with_reducible apply State.dropSite_legal | with_reducible apply State.post_legal
    | with_reducible apply State.putLine_legal | with_reducible apply State.legal_core
    | with_reducible apply State.legal_cdr
    | simp only [State.legal_with, VoiceCore.legal_with, State.legal_with_cdr_fields]
    | with_reducible apply State.legal_ite | split | dsimp only

theorem State.upsetTag_legal {s : State} {site : CacheSite} {line : Nat} (h_s : s.Legal) :
    (State.upsetTag s site line).Legal := by
  unfold State.upsetTag
  repeat'
    first
    | with_reducible assumption | intro _ | with_reducible apply State.dropSite_legal
    | with_reducible apply State.post_legal | with_reducible apply State.putLine_legal
    | with_reducible apply VoiceCore.defer_legal | with_reducible apply State.legal_modCore
    | with_reducible apply State.legal_core | with_reducible apply State.legal_cdr
    | simp only [State.legal_with, VoiceCore.legal_with, State.legal_with_cdr_fields]
    | with_reducible apply State.legal_ite | split | dsimp only

theorem VoiceCore.tlbUpset_legal {v : VoiceCore} {x : TlbArray} {n : Nat} (h_v : v.Legal) :
    (VoiceCore.tlbUpset v x n).Legal := by
  unfold VoiceCore.tlbUpset
  repeat'
    first
    | with_reducible assumption | intro _ | with_reducible apply State.legal_core
    | with_reducible apply State.legal_cdr
    | simp only [State.legal_with, VoiceCore.legal_with, State.legal_with_cdr_fields]
    | with_reducible apply State.legal_ite | split | dsimp only

theorem State.upset_legal {s : State} {a : Upset} (h_s : s.Legal) : (State.upset s a).Legal := by
  unfold State.upset
  repeat'
    first
    | with_reducible assumption | intro _ | with_reducible apply State.upsetDram_legal
    | with_reducible apply State.post_legal | with_reducible apply State.upsetCacheWord_legal
    | with_reducible apply State.upsetTag_legal | with_reducible apply State.legal_modCore
    | with_reducible apply State.upsetEcho_legal | with_reducible apply VoiceCore.tlbUpset_legal
    | simp only [State.legal_with] | split

theorem State.upsets_legal {s : State} {l : List Upset} (h_s : s.Legal) : (State.upsets s l).Legal := by
  unfold State.upsets
  repeat'
    first
    | with_reducible assumption | intro _ | with_reducible apply State.upset_legal
    | with_reducible apply State.legal_foldl

theorem State.backErrors_legal {s : State} {line : Nat} {l : List Upset} (h_s : s.Legal) :
    (State.backErrors s line l).Legal := by
  unfold State.backErrors
  repeat'
    first
    | with_reducible assumption | intro _ | with_reducible apply VoiceCore.defer_legal
    | with_reducible apply State.legal_modCore | with_reducible apply State.legal_core
    | with_reducible apply State.legal_cdr
    | simp only [State.legal_with, VoiceCore.legal_with, State.legal_with_cdr_fields]
    | with_reducible apply State.legal_ite | with_reducible apply State.legal_foldl
    | with_reducible apply State.legal_foldl_fst | split | dsimp only

end Sys2Proof.Machine
end

