-- ==== Sys2Proof/Laws/LegalPools.lean ====
section
/-! SUPPORT. A legal state stays legal: Pools. -/
set_option Elab.async false
set_option linter.all false
namespace Sys2Proof.Machine

theorem State.setPool_legal {s : State} {p : Fin 32} {x : Pool} (h_s : s.Legal) : (State.setPool s p x).Legal := by
  unfold State.setPool
  repeat' first | assumption | simp only [State.legal_with]

theorem State.grant_legal {s : State} {p : Fin 32} {cdr : Bool} (h_s : s.Legal) : (State.grant s p cdr).1.Legal := by
  unfold State.grant
  repeat' first | assumption | with_reducible apply State.setPool_legal | simp only [State.legal_with] | split

theorem State.release_legal {s : State} {p : Fin 32} {h : Word} {allowed : Bool} (h_s : s.Legal) :
    (State.release s p h allowed).Legal := by
  unfold State.release
  repeat'
    first
    | assumption | with_reducible apply State.setPool_legal | simp only [State.legal_with]
    | with_reducible apply State.legal_ite

theorem State.dmaRelease_legal {s : State} {h : Word} (h_s : s.Legal) : (State.dmaRelease s h).Legal := by
  unfold State.dmaRelease
  repeat' first | assumption | with_reducible apply State.release_legal

theorem State.poolAlloc_legal {s : State} {w : Initiator} {p : Fin 32} (h_s : s.Legal) : (State.poolAlloc s w p).1.Legal := by
  unfold State.poolAlloc
  extract_lets e1 e2 e3
  have h_e1 : e1.1.Legal := by
    dsimp only [e1]
    repeat' first | assumption | with_reducible apply State.grant_legal
  have h_e2 : e2.Legal := by
    dsimp only [e2]
    repeat' assumption
  clear_value e1 e2
  repeat' first | assumption | simp only [State.legal_with] | split

theorem State.poolRelease_legal {s : State} {w : Initiator} {p : Fin 32} {h : Word} (h_s : s.Legal) :
    (State.poolRelease s w p h).Legal := by
  unfold State.poolRelease
  repeat' first | assumption | with_reducible apply State.release_legal

theorem State.poolLowmark_legal {s : State} {w : Initiator} {p : Fin 32} (h_s : s.Legal) : (State.poolLowmark s w p).Legal := by
  unfold State.poolLowmark
  repeat' first | assumption | with_reducible apply State.setPool_legal | with_reducible apply State.legal_ite

theorem State.bmRead_legal {s : State} {w : Initiator} {off : Nat} (h_s : s.Legal) : (State.bmRead s w off).1.Legal := by
  unfold State.bmRead
  repeat' first | assumption | with_reducible apply State.poolAlloc_legal | split

theorem State.bmWrite_legal {s : State} {w : Initiator} {off : Nat} {v : Word} (h_s : s.Legal) :
    (State.bmWrite s w off v).Legal := by
  unfold State.bmWrite
  repeat'
    first
    | assumption | with_reducible apply State.setPool_legal | with_reducible apply State.poolLowmark_legal
    | with_reducible apply State.poolRelease_legal | simp only [State.legal_with] | with_reducible apply State.legal_ite
    | split

end Sys2Proof.Machine
end

