-- ==== Sys2Proof/Laws/LegalRings.lean ====
section
/-! SUPPORT. A legal state stays legal: Rings. -/
set_option Elab.async false
set_option linter.all false
namespace Sys2Proof.Machine

theorem State.setRingWord_legal {s : State} {r : BitVec 5} {off : Nat} {v : Word} (h_s : s.Legal) : (State.setRingWord s r off v).Legal :=
  State.legal_with_stage h_s (Memory.setWord_wf _ _ h_s.stage)

theorem State.putReq_legal {s : State} {r : BitVec 5} {i : Word} {ws : List Word} (h_s : s.Legal) : (State.putReq s r i ws).Legal := by
  induction ws generalizing s i with
  | nil => exact h_s
  | cons v vs ih => exact ih (State.setRingWord_legal h_s)

theorem State.putRpl_legal {s : State} {r : BitVec 5} {i : Word} {ws : List Word} (h_s : s.Legal) : (State.putRpl s r i ws).Legal := by
  induction ws generalizing s i with
  | nil => exact h_s
  | cons v vs ih => exact ih (State.setRingWord_legal h_s)

theorem State.modRings_legal {s : State} {f : Rings → Rings} (h_s : s.Legal) : (State.modRings s f).Legal := by
  unfold State.modRings
  repeat' first | with_reducible assumption | simp only [State.legal_with]

theorem State.writeReply_legal {s : State} {r : BitVec 5} {ws : List Word} (h_s : s.Legal) :
    (State.writeReply s r ws).Legal := by
  unfold State.writeReply
  repeat'
    first
    | with_reducible assumption | with_reducible apply State.setRingWord_legal
    | with_reducible apply State.putRpl_legal

theorem State.forwardReply_legal {s : State} {final : Bool} {st : Status} {seq : Word} {ws : List Word} (h_s : s.Legal) :
    (State.forwardReply s final st seq ws).Legal := by
  unfold State.forwardReply
  extract_lets e1 e2 e3
  have h_e1 : e1.Legal := by
    dsimp only [e1]
    repeat' first | with_reducible assumption | with_reducible apply State.setRingWord_legal
  have h_e3 : e3.Legal := by
    dsimp only [e3]
    repeat' first | with_reducible assumption | simp only [State.legal_with]
  (try clear_value e1)
  (try clear_value e2)
  (try clear_value e3)
  repeat'
    first
    | with_reducible assumption | with_reducible apply State.produceC_legal
    | with_reducible apply State.legal_ite | split

theorem State.reply_legal {s : State} {r : BitVec 5} {st : Status} {final : Bool} {tag : Word} {seq : Word} {results : List Word} (h_s : s.Legal) :
    (State.reply s r st final tag seq results).Legal := by
  unfold State.reply
  extract_lets e1 e2
  have h_e2 : e2.Legal := by
    dsimp only [e2]
    repeat' first | with_reducible assumption | with_reducible apply State.writeReply_legal
  (try clear_value e1)
  (try clear_value e2)
  repeat'
    first
    | with_reducible assumption | with_reducible apply State.modRings_legal
    | with_reducible apply State.forwardReply_legal | with_reducible apply State.legal_ite

theorem State.dropCmd_legal {s : State} {c : Cmd} (h_s : s.Legal) : (State.dropCmd s c).Legal := by
  unfold State.dropCmd
  repeat' first | with_reducible assumption | with_reducible apply State.modRings_legal

theorem State.finish_legal {s : State} {c : Cmd} {st : Status} {results : List Word} (h_s : s.Legal) :
    (State.finish s c st results).Legal := by
  unfold State.finish
  repeat'
    first
    | with_reducible assumption | with_reducible apply State.reply_legal
    | with_reducible apply State.dropCmd_legal | with_reducible apply State.legal_ite

theorem State.finishOp_legal {s : State} {op : BitVec 8} {st : Status} {results : List Word} (h_s : s.Legal) :
    (State.finishOp s op st results).Legal := by
  unfold State.finishOp
  repeat' first | with_reducible assumption | with_reducible apply State.finish_legal | split

theorem State.finishAll_legal {s : State} {op : BitVec 8} {st : Status} {results : List Word} (h_s : s.Legal) :
    (State.finishAll s op st results).Legal := by
  unfold State.finishAll
  repeat'
    first
    | with_reducible assumption | intro _ | with_reducible apply State.finish_legal
    | with_reducible apply State.legal_core | with_reducible apply State.legal_cdr
    | simp only [State.legal_with, VoiceCore.legal_with, State.legal_with_cdr_fields]
    | with_reducible apply State.legal_ite | with_reducible apply State.legal_foldl
    | with_reducible apply State.legal_foldl_fst | split | dsimp only

theorem State.setCmd_legal {s : State} {c : Cmd} (h_s : s.Legal) : (State.setCmd s c).Legal := by
  unfold State.setCmd
  repeat' first | with_reducible assumption | with_reducible apply State.modRings_legal

theorem State.notice_legal {s : State} {code : BitVec 8} {data : Word} (h_s : s.Legal) : (State.notice s code data).Legal := by
  unfold State.notice
  repeat'
    first
    | with_reducible assumption | with_reducible apply State.modRings_legal
    | with_reducible apply State.legal_ite

theorem State.ring_legal {s : State} {r : BitVec 5} (h_s : s.Legal) : (State.ring s r).Legal := by
  unfold State.ring
  repeat' first | with_reducible assumption | with_reducible apply State.modRings_legal

theorem State.unring_legal {s : State} {r : BitVec 5} (h_s : s.Legal) : (State.unring s r).Legal := by
  unfold State.unring
  repeat' first | with_reducible assumption | with_reducible apply State.modRings_legal

/-- What the command does leads to a legal state. -/
structure CmdDef.Legal (d : CmdDef) : Prop where
  run : ∀ c s, s.Legal → (d.run c s).1.Legal

theorem State.startCmd_legal {s : State} {d : CmdDef} {c : Cmd} (h_s : s.Legal) (h_d : d.Legal) : (State.startCmd s d c).Legal := by
  have h := h_d.run c s h_s
  unfold State.startCmd
  dsimp only
  split
  · apply State.reply_legal
    split
    · exact State.reply_legal h
    · exact h
  · exact State.reply_legal (State.modRings_legal h)

theorem State.stopRing_legal {s : State} {r : BitVec 5} (h_s : s.Legal) : (State.stopRing s r).Legal := by
  unfold State.stopRing
  repeat' first | with_reducible assumption | with_reducible apply State.setRingWord_legal

theorem State.served_legal {s : State} {r : BitVec 5} (h_s : s.Legal) : (State.served s r).Legal := by
  unfold State.served
  repeat'
    first
    | with_reducible assumption | with_reducible apply State.modRings_legal
    | with_reducible apply State.legal_ite

theorem State.consume_legal {s : State} {r : BitVec 5} {n : Nat} (h_s : s.Legal) : (State.consume s r n).Legal := by
  unfold State.consume
  repeat'
    first
    | with_reducible assumption | with_reducible apply State.served_legal
    | with_reducible apply State.setRingWord_legal

theorem State.skipCancelled_legal {s : State} {r : BitVec 5} {a0 : Nat} (h_s : s.Legal) :
    (State.skipCancelled s r a0).Legal := by
  induction a0 generalizing s with
  | zero => exact h_s
  | succ n ih =>
    unfold State.skipCancelled
    repeat' first | with_reducible assumption | intro _ | with_reducible apply ih | with_reducible apply State.consume_legal | with_reducible apply State.modRings_legal | with_reducible apply State.legal_core | with_reducible apply State.legal_cdr | simp only [State.legal_with, VoiceCore.legal_with, State.legal_with_cdr_fields] | with_reducible apply State.legal_ite | split | dsimp only

theorem State.startFront_legal {s : State} {look : BitVec 8 → Option CmdDef} {r : BitVec 5} (h_s : s.Legal)
    (h_look : ∀ op d, look op = some d → d.Legal) : (State.startFront s look r).Legal := by
  unfold State.startFront
  split
  · exact h_s
  · split
    · exact h_s
    · exact State.served_legal (State.stopRing_legal (State.reply_legal h_s))
  · rename_i n _
    split
    · exact h_s
    · have refuse : ∀ st tag seq, (if s.rplFree r < 3 then s else (s.consume r n).reply r st true tag seq []).Legal := fun st tag seq =>
        State.legal_ite h_s (State.reply_legal (State.consume_legal h_s))
      dsimp only
      split
      · exact refuse ..
      · split
        · exact refuse ..
        · split
          · exact h_s
          · exact State.startCmd_legal (State.consume_legal h_s) (h_look _ _ (by assumption))

theorem State.startHead_legal {s : State} {look : BitVec 8 → Option CmdDef} {r : BitVec 5} (h_s : s.Legal)
    (h_look : ∀ op d, look op = some d → d.Legal) : (State.startHead s look r).Legal :=
  State.startFront_legal (State.skipCancelled_legal h_s) h_look

theorem State.learn_legal {s : State} {r : BitVec 5} (h_s : s.Legal) : (State.learn s r).Legal := by
  unfold State.learn
  repeat' first | with_reducible assumption | with_reducible apply State.modRings_legal

theorem State.serveDoorbell_legal {s : State} {r : BitVec 5} (h_s : s.Legal) : (State.serveDoorbell s r).Legal := by
  unfold State.serveDoorbell
  extract_lets e1
  have h_e1 : e1.Legal := by
    dsimp only [e1]
    repeat' first | with_reducible assumption | with_reducible apply State.unring_legal
  (try clear_value e1)
  repeat'
    first
    | with_reducible assumption | with_reducible apply State.learn_legal
    | with_reducible apply State.modRings_legal | with_reducible apply State.stopRing_legal
    | with_reducible apply State.legal_ite

theorem State.sendPacket_legal {s : State} {r : BitVec 5} {ws : List Word} (h_s : s.Legal) :
    (State.sendPacket s r ws).Legal := by
  unfold State.sendPacket
  repeat'
    first
    | with_reducible assumption | with_reducible apply State.ring_legal
    | with_reducible apply State.setRingWord_legal | with_reducible apply State.putReq_legal

theorem State.postPacket_legal {s : State} {r : BitVec 5} {ws : List Word} (h_s : s.Legal) :
    (State.postPacket s r ws).Legal := by
  unfold State.postPacket
  repeat'
    first
    | with_reducible assumption | intro _ | with_reducible apply State.clearResv_legal
    | with_reducible apply State.sendPacket_legal | with_reducible apply State.legal_mapCores
    | with_reducible apply State.legal_core | with_reducible apply State.legal_cdr
    | simp only [State.legal_with, VoiceCore.legal_with, State.legal_with_cdr_fields]
    | with_reducible apply State.legal_ite | with_reducible apply State.legal_foldl
    | with_reducible apply State.legal_foldl_fst | split | dsimp only

theorem State.submit_legal {s : State} {d : CmdDef} {h : Header} {ps : List Word} (h_s : s.Legal) (h_d : d.Legal) :
    (State.submit s d h ps).Legal := by
  have look : ∀ op e, (if op = d.op then some d else none) = some e → e.Legal := by
    intro op e he
    split at he
    · cases he
      exact h_d
    · cases he
  unfold State.submit
  dsimp only
  split
  · exact h_s
  · split
    · exact State.startHead_legal (State.serveDoorbell_legal (State.postPacket_legal h_s)) look
    · exact State.postPacket_legal h_s

theorem cmdRow_legal {d : CmdDef} {h : Header} {ps : List Word} {s : State} (h_s : s.Legal) (h_d : d.Legal) :
    Outcome.Legal (cmdRow d h ps s) := Outcome.legal_next (State.submit_legal h_s h_d)

theorem okCmd_legal {f : State → State} {c : Cmd} {s : State} (h_s : s.Legal) (h_f : ∀ s, s.Legal → (f s).Legal) : (okCmd f c s).1.Legal :=
  h_f s h_s

end Sys2Proof.Machine
end

