-- ==== Sys2Proof/Laws/LegalTempoOps.lean ====
section
/-! SUPPORT. A legal state stays legal: TempoOps. -/
set_option Elab.async false
set_option linter.all false
namespace Sys2Proof.Machine

theorem State.modTempo_legal {s : State} {f : Tempo → Tempo} (h_s : s.Legal) : (State.modTempo s f).Legal := by
  unfold State.modTempo
  repeat' first | with_reducible assumption | simp only [State.legal_with]

theorem State.secondUp_legal {s : State} (h_s : s.Legal) : (State.secondUp s).Legal := by
  unfold State.secondUp
  extract_lets e1 e2 e3 e4 e5
  have h_e3 : e3.Legal := by
    dsimp only [e3]
    repeat'
      first
      | with_reducible assumption | with_reducible apply State.modTempo_legal
      | with_reducible apply State.edge_legal | with_reducible apply State.legal_ite
  have h_e5 : e5.Legal := by
    dsimp only [e5]
    repeat' first | with_reducible assumption | simp only [State.legal_with] | with_reducible apply State.legal_ite
  (try clear_value e1)
  (try clear_value e2)
  (try clear_value e3)
  (try clear_value e4)
  (try clear_value e5)
  repeat' first | with_reducible assumption | with_reducible apply State.modTempo_legal

theorem State.clearPend_legal {s : State} (h_s : s.Legal) :
    (State.clearPend s).Legal := by
  unfold State.clearPend
  repeat'
    first
    | with_reducible assumption | intro _ | with_reducible apply State.finishAll_legal
    | with_reducible apply State.modTempo_legal | with_reducible apply State.legal_core
    | with_reducible apply State.legal_cdr
    | simp only [State.legal_with, VoiceCore.legal_with, State.legal_with_cdr_fields]
    | with_reducible apply State.legal_ite | split | dsimp only

theorem State.applyStep_legal {s : State} {st : TStep} (h_s : s.Legal) :
    (State.applyStep s st).Legal := by
  unfold State.applyStep
  extract_lets e1 e2 e3 e4 e5
  have h_e3 : e3.Legal := by
    dsimp only [e3]
    repeat'
      first
      | with_reducible assumption | intro _ | with_reducible apply State.finishAll_legal
      | with_reducible apply State.modTempo_legal | with_reducible apply State.secondUp_legal
      | with_reducible apply State.legal_core | with_reducible apply State.legal_cdr
      | simp only [State.legal_with, VoiceCore.legal_with, State.legal_with_cdr_fields]
      | with_reducible apply State.legal_ite | split | dsimp only
  have h_e4 : e4.Legal := by
    dsimp only [e4]
    repeat'
      first
      | with_reducible assumption | intro _ | with_reducible apply State.finishAll_legal
      | with_reducible apply State.modTempo_legal | with_reducible apply State.secondUp_legal
      | with_reducible apply State.legal_core | with_reducible apply State.legal_cdr
      | simp only [State.legal_with, VoiceCore.legal_with, State.legal_with_cdr_fields]
      | with_reducible apply State.legal_ite | split | dsimp only
  try clear_value e1
  try clear_value e2
  try clear_value e3
  try clear_value e4
  try clear_value e5
  repeat'
    first
    | with_reducible assumption | intro _ | with_reducible apply State.finishAll_legal
    | with_reducible apply State.modTempo_legal | with_reducible apply State.secondUp_legal
    | with_reducible apply State.legal_core | with_reducible apply State.legal_cdr
    | simp only [State.legal_with, VoiceCore.legal_with, State.legal_with_cdr_fields]
    | with_reducible apply State.legal_ite | split | dsimp only

theorem State.schedule_legal {s : State} {st : TStep} (h_s : s.Legal) : (State.schedule s st).Legal := by
  unfold State.schedule
  repeat'
    first
    | with_reducible assumption | with_reducible apply State.modTempo_legal
    | with_reducible apply State.applyStep_legal | with_reducible apply State.legal_ite

theorem State.stepDue_legal {s : State} (h_s : s.Legal) : (State.stepDue s).Legal := by
  unfold State.stepDue
  repeat' first | with_reducible assumption | with_reducible apply State.applyStep_legal | split

theorem State.measure_legal {s : State} {r : TRef} {o : Int} {ppb : Option Int} (h_s : s.Legal) :
    (State.measure s r o ppb).Legal := by
  unfold State.measure
  repeat'
    first
    | with_reducible assumption | intro _ | with_reducible apply State.clearPend_legal
    | with_reducible apply State.modTempo_legal | with_reducible apply State.schedule_legal
    | with_reducible apply State.legal_core | with_reducible apply State.legal_cdr
    | simp only [State.legal_with, VoiceCore.legal_with, State.legal_with_cdr_fields]
    | with_reducible apply State.legal_ite | split | dsimp only

theorem State.ppsEdge_legal {s : State} (h_s : s.Legal) : (State.ppsEdge s).Legal := by
  unfold State.ppsEdge
  extract_lets e1 e2 e3
  have h_e2 : e2.Legal := by
    dsimp only [e2]
    repeat' first | with_reducible assumption | with_reducible apply State.modTempo_legal
  have h_e3 : e3.Legal := by
    dsimp only [e3]
    repeat' first | with_reducible assumption | with_reducible apply State.modTempo_legal
  (try clear_value e1)
  (try clear_value e2)
  (try clear_value e3)
  repeat'
    first
    | with_reducible assumption | with_reducible apply State.modTempo_legal
    | with_reducible apply State.measure_legal | with_reducible apply State.legal_ite

theorem State.partnerSample_legal {s : State} {partnerTime : Int} {q : Word} {err : Nat} (h_s : s.Legal) :
    (State.partnerSample s partnerTime q err).Legal := by
  unfold State.partnerSample
  extract_lets e1
  have h_e1 : e1.Legal := by
    dsimp only [e1]
    repeat' first | with_reducible assumption | with_reducible apply State.modTempo_legal
  (try clear_value e1)
  repeat'
    first
    | with_reducible assumption | with_reducible apply State.measure_legal
    | with_reducible apply State.legal_ite

theorem State.ptpCorrect_legal {s : State} {o : Int} {ppb : Int} (h_s : s.Legal) : (State.ptpCorrect s o ppb).Legal := by
  unfold State.ptpCorrect
  extract_lets e1
  have h_e1 : e1.Legal := by
    dsimp only [e1]
    repeat' first | with_reducible assumption | with_reducible apply State.modTempo_legal
  (try clear_value e1)
  repeat'
    first
    | with_reducible assumption | with_reducible apply State.measure_legal
    | with_reducible apply State.legal_ite

theorem State.requestHeld_legal {s : State} (h_s : s.Legal) : (State.requestHeld s).Legal := by
  unfold State.requestHeld
  repeat'
    first
    | with_reducible assumption | with_reducible apply State.schedule_legal
    | with_reducible apply State.legal_ite

theorem State.readSecLo_legal {s : State} {w : Initiator} (h_s : s.Legal) : (State.readSecLo s w).1.Legal := by
  unfold State.readSecLo
  repeat' first | with_reducible assumption | with_reducible apply State.modTempo_legal

theorem State.readCount0_legal {s : State} {w : Initiator} (h_s : s.Legal) : (State.readCount0 s w).1.Legal := by
  unfold State.readCount0
  repeat' first | with_reducible assumption | with_reducible apply State.modTempo_legal

theorem State.tempoRead_legal {s : State} {w : Initiator} {off : Nat} (h_s : s.Legal) : (State.tempoRead s w off).1.Legal := by
  unfold State.tempoRead
  repeat'
    first
    | with_reducible assumption | with_reducible apply State.readSecLo_legal
    | with_reducible apply State.readCount0_legal | split

theorem State.writeTempoCtl_legal {s : State} {v : Word} (h_s : s.Legal) : (State.writeTempoCtl s v).Legal := by
  unfold State.writeTempoCtl
  extract_lets e1
  have h_e1 : e1.Legal := by
    dsimp only [e1]
    repeat' first | with_reducible assumption | with_reducible apply State.modTempo_legal
  (try clear_value e1)
  repeat'
    first
    | with_reducible assumption | with_reducible apply State.modTempo_legal
    | with_reducible apply State.requestHeld_legal | with_reducible apply State.legal_ite

theorem State.tempoWrite_legal {s : State} {w : Initiator} {off : Nat} {v : Word} (h_s : s.Legal) :
    (State.tempoWrite s w off v).Legal := by
  unfold State.tempoWrite
  repeat'
    first
    | with_reducible assumption | with_reducible apply State.modTempo_legal
    | with_reducible apply State.writeTempoCtl_legal | with_reducible apply State.legal_ite | split

end Sys2Proof.Machine
end

