-- ==== Sys2Proof/Laws/LegalRefrainOps.lean ====
section
/-! SUPPORT. A legal state stays legal: RefrainOps. -/
set_option Elab.async false
set_option linter.all false
namespace Sys2Proof.Machine

theorem State.modRf_legal {s : State} {f : Refrain → Refrain} (h_s : s.Legal) : (State.modRf s f).Legal := by
  unfold State.modRf
  repeat' first | with_reducible assumption | simp only [State.legal_with]

theorem State.invalidateApplied_legal {s : State} (h_s : s.Legal) : (State.invalidateApplied s).Legal := by
  unfold State.invalidateApplied
  repeat' first | with_reducible assumption | simp only [State.legal_with]

theorem State.trackOff_legal {s : State} (h_s : s.Legal) : (State.trackOff s).Legal := by
  unfold State.trackOff
  extract_lets e1 e2
  have h_e1 : e1.Legal := by
    dsimp only [e1]
    repeat' first | with_reducible assumption | with_reducible apply State.abandonStream_legal
  (try clear_value e1)
  (try clear_value e2)
  repeat'
    first
    | with_reducible assumption | with_reducible apply State.retryStalled_legal
    | simp only [State.legal_with]

theorem State.leaveTo_legal {s : State} {r : Role} (h_s : s.Legal) : (State.leaveTo s r).Legal := by
  unfold State.leaveTo
  repeat' first | with_reducible assumption | with_reducible apply State.modRf_legal

theorem State.becomeActive_legal {s : State} (h_s : s.Legal) : (State.becomeActive s).Legal := by
  unfold State.becomeActive
  repeat' first | with_reducible assumption | with_reducible apply State.modRf_legal

theorem State.enterSyncing_legal {s : State} (h_s : s.Legal) :
    (State.enterSyncing s).Legal := by
  unfold State.enterSyncing
  extract_lets e1
  have h_e1 : e1.Legal := by
    dsimp only [e1]
    repeat'
      first
      | with_reducible assumption | intro _ | with_reducible apply State.finishOp_legal
      | with_reducible apply State.leaveTo_legal | with_reducible apply State.modRf_legal
      | with_reducible apply State.trackOff_legal | with_reducible apply State.legal_core
      | with_reducible apply State.legal_cdr
      | simp only [State.legal_with, VoiceCore.legal_with, State.legal_with_cdr_fields]
      | with_reducible apply State.legal_ite | split | dsimp only
  try clear_value e1
  repeat'
    first
    | with_reducible assumption | intro _ | with_reducible apply State.finishOp_legal
    | with_reducible apply State.leaveTo_legal | with_reducible apply State.modRf_legal
    | with_reducible apply State.trackOff_legal | with_reducible apply State.legal_core
    | with_reducible apply State.legal_cdr
    | simp only [State.legal_with, VoiceCore.legal_with, State.legal_with_cdr_fields]
    | with_reducible apply State.legal_ite | split | dsimp only

theorem State.endHandover_legal {s : State} {st : Status} (h_s : s.Legal) : (State.endHandover s st).Legal := by
  unfold State.endHandover
  repeat'
    first
    | with_reducible assumption | with_reducible apply State.finishOp_legal
    | with_reducible apply State.modRf_legal

theorem State.flushBody_legal {s : State} {a0 : Nat} (h_s : s.Legal) :
    (State.flushBody s a0).Legal := by
  induction a0 generalizing s with
  | zero => exact h_s
  | succ n ih =>
    unfold State.flushBody
    repeat' first | with_reducible assumption | intro _ | with_reducible apply ih | with_reducible apply State.modRf_legal | with_reducible apply State.produceB_legal | with_reducible apply State.legal_core | with_reducible apply State.legal_cdr | simp only [State.legal_with, VoiceCore.legal_with, State.legal_with_cdr_fields] | with_reducible apply State.legal_ite | split | dsimp only

theorem State.endIfDone_legal {s : State} (h_s : s.Legal) : (State.endIfDone s).Legal := by
  unfold State.endIfDone
  repeat'
    first
    | with_reducible assumption | with_reducible apply State.produceEnd_legal
    | with_reducible apply State.legal_ite | split

theorem State.sendHead_legal {s : State} {head : List Word} (h_s : s.Legal) : (State.sendHead s head).Legal := by
  unfold State.sendHead
  extract_lets e1 e2
  have h_e1 : e1.Legal := by
    dsimp only [e1]
    repeat'
      first
      | with_reducible assumption | with_reducible apply State.modRf_legal
      | with_reducible apply State.produceB_legal
  (try clear_value e1)
  (try clear_value e2)
  repeat'
    first
    | with_reducible assumption | with_reducible apply State.endIfDone_legal
    | with_reducible apply State.flushBody_legal

theorem State.freeze_legal {s : State} {bar : Nat} (h_s : s.Legal) : (State.freeze s bar).Legal := by
  unfold State.freeze
  extract_lets e1 e2 e3 e4 e5 e6 e7 e8 e9 e10
  have h_e9 : e9.Legal := by
    dsimp only [e9]
    repeat' first | with_reducible assumption | simp only [State.legal_with]
  have h_e10 : e10.Legal := by
    dsimp only [e10]
    repeat' first | with_reducible assumption | with_reducible apply State.modRf_legal
  (try clear_value e1)
  (try clear_value e2)
  (try clear_value e3)
  (try clear_value e4)
  (try clear_value e5)
  (try clear_value e6)
  (try clear_value e7)
  (try clear_value e8)
  (try clear_value e9)
  (try clear_value e10)
  repeat'
    first
    | with_reducible assumption | with_reducible apply State.modRf_legal
    | with_reducible apply State.sendHead_legal | with_reducible apply State.legal_ite

theorem State.captureAt_legal {s : State} {bar : Nat} (h_s : s.Legal) : (State.captureAt s bar).Legal := by
  unfold State.captureAt
  repeat'
    first
    | with_reducible assumption | with_reducible apply State.modRf_legal
    | with_reducible apply State.freeze_legal | with_reducible apply State.legal_ite

theorem State.poisonStream_legal {s : State} (h_s : s.Legal) : (State.poisonStream s).Legal := by
  unfold State.poisonStream
  extract_lets e1 e2
  have h_e1 : e1.Legal := by
    dsimp only [e1]
    repeat' first | with_reducible assumption | with_reducible apply State.produceEnd_legal
  (try clear_value e1)
  (try clear_value e2)
  repeat'
    first
    | with_reducible assumption | with_reducible apply State.retryStalled_legal
    | simp only [State.legal_with]

theorem State.echoErrors_legal {s : State} {l : EchoLine} {m : BitVec 24} (h_s : s.Legal) :
    (State.echoErrors s l m).Legal := by
  unfold State.echoErrors
  extract_lets e1 e2
  have h_e2 : e2.Legal := by
    dsimp only [e2]
    repeat'
      first
      | with_reducible assumption | intro _ | with_reducible apply State.logCe_legal
      | with_reducible apply State.logUe_legal | with_reducible apply State.post_legal
      | with_reducible apply State.legal_core | with_reducible apply State.legal_cdr
      | simp only [State.legal_with, VoiceCore.legal_with, State.legal_with_cdr_fields]
      | with_reducible apply State.legal_ite | with_reducible apply State.legal_foldl
      | with_reducible apply State.legal_foldl_fst | split | dsimp only
  try clear_value e1
  try clear_value e2
  repeat'
    first
    | with_reducible assumption | intro _ | with_reducible apply State.logCe_legal
    | with_reducible apply State.logUe_legal | with_reducible apply State.post_legal
    | with_reducible apply State.legal_core | with_reducible apply State.legal_cdr
    | simp only [State.legal_with, VoiceCore.legal_with, State.legal_with_cdr_fields]
    | with_reducible apply State.legal_ite | with_reducible apply State.legal_foldl
    | with_reducible apply State.legal_foldl_fst | split | dsimp only

theorem State.freeEcho_legal {s : State} {line : Nat} (h_s : s.Legal) :
    (State.freeEcho s line).Legal := by
  unfold State.freeEcho
  repeat'
    first
    | with_reducible assumption | intro _ | with_reducible apply State.legal_core
    | with_reducible apply State.legal_cdr
    | simp only [State.legal_with, VoiceCore.legal_with, State.legal_with_cdr_fields]
    | with_reducible apply State.legal_ite | split | dsimp only

theorem State.streamRead_legal {s : State} {line : Nat} {m : BitVec 24} (h_s : s.Legal) :
    (State.streamRead s line m).1.Legal := by
  unfold State.streamRead
  repeat'
    first
    | with_reducible assumption | intro _ | with_reducible apply State.echoErrors_legal
    | with_reducible apply State.freeEcho_legal | with_reducible apply State.readBeats_legal
    | with_reducible apply State.legal_core | with_reducible apply State.legal_cdr
    | simp only [State.legal_with, VoiceCore.legal_with, State.legal_with_cdr_fields]
    | with_reducible apply State.legal_ite | split | dsimp only

theorem State.streamLine_legal {s : State} (h_s : s.Legal) : (State.streamLine s).Legal := by
  unfold State.streamLine
  repeat'
    first
    | with_reducible assumption | with_reducible apply State.produceEnd_legal
    | with_reducible apply State.streamRead_legal | with_reducible apply State.poisonStream_legal
    | with_reducible apply State.modRf_legal | with_reducible apply State.retryStalled_legal
    | with_reducible apply State.endIfDone_legal | with_reducible apply State.flushBody_legal
    | with_reducible apply State.legal_ite | split

theorem State.recordResult_legal {s : State} {res : BitVec 8} (h_s : s.Legal) : (State.recordResult s res).Legal := by
  unfold State.recordResult
  repeat' first | with_reducible assumption | with_reducible apply State.modRf_legal

theorem State.onReply_legal {s : State} {n : Word} {res : Word} (h_s : s.Legal) : (State.onReply s n res).Legal := by
  unfold State.onReply
  extract_lets e1 e2 e3 e4 e5 e6 e7 e8
  have h_e2 : e2.Legal := by
    dsimp only [e2]
    repeat'
      first
      | with_reducible assumption | with_reducible apply State.modRf_legal
      | with_reducible apply State.recordResult_legal
  have h_e6 : e6.Legal := by
    dsimp only [e6]
    repeat' first | with_reducible assumption | simp only [State.legal_with] | with_reducible apply State.legal_ite
  have h_e7 : e7.Legal := by
    dsimp only [e7]
    repeat'
      first
      | with_reducible assumption | with_reducible apply State.modRf_legal
      | with_reducible apply State.invalidateApplied_legal | with_reducible apply State.legal_ite
  have h_e8 : e8.Legal := by
    dsimp only [e8]
    repeat'
      first
      | with_reducible assumption | with_reducible apply State.modRf_legal
      | with_reducible apply State.endHandover_legal | with_reducible apply State.legal_ite
  (try clear_value e1)
  (try clear_value e2)
  (try clear_value e3)
  (try clear_value e4)
  (try clear_value e5)
  (try clear_value e6)
  (try clear_value e7)
  (try clear_value e8)
  repeat'
    first
    | with_reducible assumption | with_reducible apply State.sendHead_legal
    | with_reducible apply State.legal_ite | split

theorem State.onHead_legal {s : State} {ws : List Word} (h_s : s.Legal) : (State.onHead s ws).Legal := by
  unfold State.onHead
  extract_lets e1
  have h_e1 : e1.Legal := by
    dsimp only [e1]
    repeat' first | with_reducible assumption | with_reducible apply State.modRf_legal
  (try clear_value e1)
  repeat'
    first
    | with_reducible assumption | with_reducible apply State.modRf_legal
    | with_reducible apply State.legal_ite

theorem State.onBody_legal {s : State} {ws : List Word} (h_s : s.Legal) : (State.onBody s ws).Legal := by
  unfold State.onBody
  repeat' first | with_reducible assumption | with_reducible apply State.modRf_legal

theorem State.replicaLine_legal {s : State} {m : BitVec 24} {line : Nat} {ws : List Word} (h_s : s.Legal) :
    (State.replicaLine s m line ws).Legal := by
  unfold State.replicaLine
  extract_lets e1
  try clear_value e1
  repeat'
    first
    | with_reducible assumption | intro _ | with_reducible apply State.writeLine_legal
    | with_reducible apply State.legal_core | with_reducible apply State.legal_cdr
    | simp only [State.legal_with, VoiceCore.legal_with, State.legal_with_cdr_fields]
    | with_reducible apply State.legal_ite | split | dsimp only

theorem State.replica_legal {s : State} {pages : List Nat} {next n : Nat} {ws : List Word} (h_s : s.Legal) :
    (State.replica s pages next n ws).Legal := by
  induction n generalizing s next ws with
  | zero => exact h_s
  | succ n ih =>
    unfold State.replica
    split
    · exact h_s
    · exact ih (State.replicaLine_legal h_s)

theorem State.writeReplica_legal {s : State} {head : List Word} {body : List Word} (h_s : s.Legal) :
    (State.writeReplica s head body).Legal := by
  unfold State.writeReplica
  repeat' first | with_reducible assumption | with_reducible apply State.replica_legal | split

theorem State.replyCk_legal {s : State} {n : Word} {res : BitVec 8} (h_s : s.Legal) : (State.replyCk s n res).Legal := by
  unfold State.replyCk
  repeat' first | with_reducible assumption | with_reducible apply State.produceB_legal

theorem State.onEnd_legal {s : State} {n : Word} {status : Word} {crc : Word} (h_s : s.Legal) :
    (State.onEnd s n status crc).Legal := by
  unfold State.onEnd
  extract_lets e1 e2 e3
  have h_e3 : e3.Legal := by
    dsimp only [e3]
    repeat'
      first
      | with_reducible assumption | with_reducible apply State.modRf_legal
      | with_reducible apply State.recordResult_legal
  (try clear_value e1)
  (try clear_value e2)
  (try clear_value e3)
  repeat'
    first
    | with_reducible assumption | with_reducible apply State.modRf_legal
    | with_reducible apply State.replyCk_legal | with_reducible apply State.writeReplica_legal
    | with_reducible apply State.legal_ite | split

theorem State.applyEnd_legal {s : State} (h_s : s.Legal) : (State.applyEnd s).Legal := by
  unfold State.applyEnd
  repeat'
    first
    | with_reducible assumption | with_reducible apply State.replyCk_legal
    | with_reducible apply State.modRf_legal | with_reducible apply State.writeReplica_legal | split

theorem State.refrainLost_legal {s : State} (h_s : s.Legal) : (State.refrainLost s).Legal := by
  unfold State.refrainLost
  extract_lets e1 e2 e3
  have h_e1 : e1.Legal := by
    dsimp only [e1]
    repeat' first | with_reducible assumption | with_reducible apply State.abandonStream_legal
  have h_e2 : e2.Legal := by
    dsimp only [e2]
    repeat' first | with_reducible assumption | with_reducible apply State.modRf_legal
  have h_e3 : e3.Legal := by
    dsimp only [e3]
    repeat' first | with_reducible assumption | with_reducible apply State.invalidateApplied_legal
  (try clear_value e1)
  (try clear_value e2)
  (try clear_value e3)
  repeat'
    first
    | with_reducible assumption | with_reducible apply State.endHandover_legal
    | with_reducible apply State.legal_ite

theorem State.takeOver_legal {s : State} (h_s : s.Legal) : (State.takeOver s).Legal := by
  unfold State.takeOver
  repeat'
    first
    | with_reducible assumption | with_reducible apply State.becomeActive_legal
    | with_reducible apply State.legal_ite

theorem State.evaluateSigns_legal {s : State} (h_s : s.Legal) : (State.evaluateSigns s).Legal := by
  unfold State.evaluateSigns
  repeat'
    first
    | with_reducible assumption | with_reducible apply State.modRf_legal
    | with_reducible apply State.legal_ite

theorem State.handoverTimeout_legal {s : State} (h_s : s.Legal) :
    (State.handoverTimeout s).Legal := by
  unfold State.handoverTimeout
  repeat'
    first
    | with_reducible assumption | intro _ | with_reducible apply State.endHandover_legal
    | with_reducible apply State.leaveTo_legal | with_reducible apply State.legal_core
    | with_reducible apply State.legal_cdr
    | simp only [State.legal_with, VoiceCore.legal_with, State.legal_with_cdr_fields]
    | with_reducible apply State.legal_ite | split | dsimp only

theorem State.roleBoundary_legal {s : State} (h_s : s.Legal) :
    (State.roleBoundary s).Legal := by
  unfold State.roleBoundary
  repeat'
    first
    | with_reducible assumption | intro _ | with_reducible apply State.becomeActive_legal
    | with_reducible apply State.evaluateSigns_legal | with_reducible apply State.finishOp_legal
    | with_reducible apply State.handoverTimeout_legal | with_reducible apply State.leaveTo_legal
    | with_reducible apply State.modRf_legal | with_reducible apply State.takeOver_legal
    | with_reducible apply State.legal_core | with_reducible apply State.legal_cdr
    | simp only [State.legal_with, VoiceCore.legal_with, State.legal_with_cdr_fields]
    | with_reducible apply State.legal_ite | split | dsimp only

theorem State.depose_legal {s : State} (h_s : s.Legal) : (State.depose s).Legal := by
  unfold State.depose
  extract_lets e1
  have h_e1 : e1.Legal := by
    dsimp only [e1]
    repeat'
      first
      | with_reducible assumption | with_reducible apply State.modRf_legal
      | with_reducible apply State.leaveTo_legal
  (try clear_value e1)
  repeat'
    first
    | with_reducible assumption | with_reducible apply State.endHandover_legal
    | with_reducible apply State.legal_ite

theorem State.onRole_legal {s : State} {w : Word} {epoch : Word} (h_s : s.Legal) : (State.onRole s w epoch).Legal := by
  unfold State.onRole
  extract_lets e1 e2 e3 e4 e5 e6 e7 e8
  have h_e3 : e3.Legal := by
    dsimp only [e3]
    repeat' first | with_reducible assumption | simp only [State.legal_with]
  have h_e6 : e6.Legal := by
    dsimp only [e6]
    repeat' first | with_reducible assumption | with_reducible apply State.modRf_legal
  have h_e7 : e7.Legal := by
    dsimp only [e7]
    repeat'
      first
      | with_reducible assumption | with_reducible apply State.modRf_legal
      | with_reducible apply State.legal_ite
  have h_e8 : e8.Legal := by
    dsimp only [e8]
    repeat'
      first
      | with_reducible assumption | with_reducible apply State.invalidateApplied_legal
      | with_reducible apply State.legal_ite
  (try clear_value e1)
  (try clear_value e2)
  (try clear_value e3)
  (try clear_value e4)
  (try clear_value e5)
  (try clear_value e6)
  (try clear_value e7)
  (try clear_value e8)
  repeat'
    first
    | with_reducible assumption | with_reducible apply State.modRf_legal
    | with_reducible apply State.depose_legal | with_reducible apply State.endHandover_legal
    | with_reducible apply State.leaveTo_legal | with_reducible apply State.enterSyncing_legal
    | with_reducible apply State.legal_ite

theorem State.trackOn_legal {s : State} (h_s : s.Legal) : (State.trackOn s).Legal := by
  unfold State.trackOn
  repeat' first | with_reducible assumption | simp only [State.legal_with] | with_reducible apply State.legal_ite

theorem State.writeTrack_legal {s : State} {b : Bool} (h_s : s.Legal) : (State.writeTrack s b).Legal := by
  unfold State.writeTrack
  repeat'
    first
    | with_reducible assumption | with_reducible apply State.trackOn_legal
    | with_reducible apply State.trackOff_legal | with_reducible apply State.legal_ite

theorem State.echoWrite_legal {s : State} {w : Initiator} {off : Nat} {v : Word} (h_s : s.Legal) :
    (State.echoWrite s w off v).Legal := by
  unfold State.echoWrite
  repeat'
    first
    | with_reducible assumption | with_reducible apply State.modRf_legal
    | with_reducible apply State.writeTrack_legal | simp only [State.legal_with] | with_reducible apply State.legal_ite
    | split

end Sys2Proof.Machine
end

