-- ==== Sys2Proof/Laws/LegalDuetOps.lean ====
section
/-! SUPPORT. A legal state stays legal: DuetOps. -/
set_option Elab.async false
set_option linter.all false
namespace Sys2Proof.Machine

theorem State.modDuet_legal {s : State} {f : Duet → Duet} (h_s : s.Legal) : (State.modDuet s f).Legal := by
  unfold State.modDuet
  repeat' first | with_reducible assumption | simp only [State.legal_with]

theorem State.badFlit_legal {s : State} (h_s : s.Legal) : (State.badFlit s).Legal := by
  unfold State.badFlit
  repeat' first | with_reducible assumption | with_reducible apply State.modDuet_legal

theorem State.sendLink_legal {s : State} {ft : BitVec 3} {ws : List Word} (h_s : s.Legal) : (State.sendLink s ft ws).Legal := by
  unfold State.sendLink
  repeat' first | with_reducible assumption | with_reducible apply State.modDuet_legal

theorem State.sendTrain_legal {s : State} {lanes : BitVec 4} (h_s : s.Legal) :
    (State.sendTrain s lanes).Legal := by
  unfold State.sendTrain
  extract_lets e1 e2
  try clear_value e1
  try clear_value e2
  repeat'
    first
    | with_reducible assumption | intro _ | with_reducible apply State.modDuet_legal
    | with_reducible apply State.legal_core | with_reducible apply State.legal_cdr
    | simp only [State.legal_with, VoiceCore.legal_with, State.legal_with_cdr_fields]
    | with_reducible apply State.legal_ite | split | dsimp only

theorem State.sendAck_legal {s : State} (h_s : s.Legal) : (State.sendAck s).Legal := by
  unfold State.sendAck
  repeat'
    first
    | with_reducible assumption | with_reducible apply State.modDuet_legal
    | with_reducible apply State.sendLink_legal

theorem State.drawEpoch_legal {s : State} (h_s : s.Legal) : (State.drawEpoch s).Legal := by
  unfold State.drawEpoch
  extract_lets e1 e2
  have h_e1 : e1.2.Legal := by
    dsimp only [e1]
    repeat' first | with_reducible assumption | with_reducible apply State.draw_legal
  (try clear_value e1)
  (try clear_value e2)
  repeat' first | with_reducible assumption | with_reducible apply State.modDuet_legal

theorem State.retrain_legal {s : State} (h_s : s.Legal) : (State.retrain s).Legal := by
  unfold State.retrain
  repeat'
    first
    | with_reducible assumption | with_reducible apply State.modDuet_legal
    | with_reducible apply State.legal_ite

theorem State.startTraining_legal {s : State} (h_s : s.Legal) : (State.startTraining s).Legal := by
  unfold State.startTraining
  repeat'
    first
    | with_reducible assumption | with_reducible apply State.modDuet_legal
    | with_reducible apply State.legal_ite

theorem State.descDone_legal {s : State} {i : Nat} {status : BitVec 8} {irq : Bool} (h_s : s.Legal) :
    (State.descDone s i status irq).Legal := by
  unfold State.descDone
  extract_lets e1
  have h_e1 : e1.Legal := by
    dsimp only [e1]
    repeat' first | with_reducible assumption | with_reducible apply State.domainWrite_legal
  (try clear_value e1)
  repeat'
    first
    | with_reducible assumption | with_reducible apply State.modDuet_legal
    | with_reducible apply State.legal_ite

theorem State.addTxn_legal {s : State} {kind : TxKind} (h_s : s.Legal) : (State.addTxn s kind).2.Legal := by
  unfold State.addTxn
  repeat' first | with_reducible assumption | simp only [State.legal_with]

theorem State.issueInner_legal {s : State} {ring : BitVec 5} {seq : Word} {query : Bool}
  {inner : List Word} (h_s : s.Legal) :
    (State.issueInner s ring seq query inner).Legal := by
  unfold State.issueInner
  repeat'
    first
    | with_reducible assumption | intro _ | with_reducible apply State.addTxn_legal
    | with_reducible apply State.produceC_legal | with_reducible apply State.ring_legal
    | with_reducible apply State.legal_core | with_reducible apply State.legal_cdr
    | simp only [State.legal_with, VoiceCore.legal_with, State.legal_with_cdr_fields]
    | with_reducible apply State.legal_ite | with_reducible apply State.legal_foldl
    | with_reducible apply State.legal_foldl_fst | split | dsimp only

theorem State.sendInner_legal {s : State} {ring : BitVec 5} {seq : Word} {query : Bool}
  {inner : List Word} (h_s : s.Legal) :
    (State.sendInner s ring seq query inner).Legal := by
  unfold State.sendInner
  repeat'
    first
    | with_reducible assumption | intro _ | with_reducible apply State.issueInner_legal
    | with_reducible apply State.modDuet_legal | with_reducible apply State.ring_legal
    | with_reducible apply State.legal_core | with_reducible apply State.legal_cdr
    | simp only [State.legal_with, VoiceCore.legal_with, State.legal_with_cdr_fields]
    | with_reducible apply State.legal_ite | split | dsimp only

theorem State.dropTxn_legal {s : State} {t : BitVec 12} (h_s : s.Legal) :
    (State.dropTxn s t).Legal := by
  unfold State.dropTxn
  extract_lets e1
  have h_e1 : e1.Legal := by
    dsimp only [e1]
    repeat'
      first
      | with_reducible assumption | intro _ | with_reducible apply State.issueInner_legal
      | with_reducible apply State.modDuet_legal | with_reducible apply State.ring_legal
      | with_reducible apply State.legal_core | with_reducible apply State.legal_cdr
      | simp only [State.legal_with, VoiceCore.legal_with, State.legal_with_cdr_fields]
      | with_reducible apply State.legal_ite | split | dsimp only
  try clear_value e1
  repeat'
    first
    | with_reducible assumption | intro _ | with_reducible apply State.issueInner_legal
    | with_reducible apply State.modDuet_legal | with_reducible apply State.ring_legal
    | with_reducible apply State.legal_core | with_reducible apply State.legal_cdr
    | simp only [State.legal_with, VoiceCore.legal_with, State.legal_with_cdr_fields]
    | with_reducible apply State.legal_ite | split | dsimp only

theorem State.finishPartner_legal {s : State} {ring : BitVec 5} {seq : Word} {st : Status} {res : List Word} (h_s : s.Legal) :
    (State.finishPartner s ring seq st res).Legal := by
  unfold State.finishPartner
  repeat' first | with_reducible assumption | with_reducible apply State.finish_legal | split

theorem State.loseInner_legal {s : State} {ring : BitVec 5} {seq : Word} {query : Bool} (h_s : s.Legal) :
    (State.loseInner s ring seq query).Legal := by
  unfold State.loseInner
  repeat'
    first
    | with_reducible assumption | intro _ | with_reducible apply State.finishPartner_legal
    | with_reducible apply State.ring_legal | with_reducible apply State.legal_core
    | with_reducible apply State.legal_cdr
    | simp only [State.legal_with, VoiceCore.legal_with, State.legal_with_cdr_fields]
    | with_reducible apply State.legal_ite | split | dsimp only

theorem State.loseTxn_legal {s : State} {t : Txn} (h_s : s.Legal) :
    (State.loseTxn s t).Legal := by
  unfold State.loseTxn
  repeat'
    first
    | with_reducible assumption | intro _ | with_reducible apply State.descDone_legal
    | with_reducible apply State.loseInner_legal | with_reducible apply State.ring_legal
    | with_reducible apply State.legal_core | with_reducible apply State.legal_cdr
    | simp only [State.legal_with, VoiceCore.legal_with, State.legal_with_cdr_fields]
    | with_reducible apply State.legal_ite | split | dsimp only

theorem State.loseSession_legal {s : State} (h_s : s.Legal) :
    (State.loseSession s).Legal := by
  unfold State.loseSession
  repeat'
    first
    | with_reducible assumption | intro _ | with_reducible apply Conductor.reset_legal
    | with_reducible apply State.loseInner_legal | with_reducible apply State.loseTxn_legal
    | with_reducible apply State.modDuet_legal | with_reducible apply State.refrainLost_legal
    | with_reducible apply State.ring_legal | with_reducible apply VoiceCore.reset_legal
    | with_reducible apply State.legal_core | with_reducible apply State.legal_cdr
    | simp only [State.legal_with, VoiceCore.legal_with, State.legal_with_cdr_fields]
    | with_reducible apply State.legal_ite | with_reducible apply State.legal_foldl
    | with_reducible apply State.legal_foldl_fst | split | dsimp only

theorem State.newSession_legal {s : State} (h_s : s.Legal) :
    (State.newSession s).Legal := by
  unfold State.newSession
  extract_lets e1
  have h_e1 : e1.Legal := by
    dsimp only [e1]
    repeat'
      first
      | with_reducible assumption | intro _ | with_reducible apply Conductor.reset_legal
      | with_reducible apply State.finishOp_legal | with_reducible apply State.invalidateApplied_legal
      | with_reducible apply State.modDuet_legal | with_reducible apply State.refill_legal
      | with_reducible apply VoiceCore.reset_legal | with_reducible apply State.legal_core
      | with_reducible apply State.legal_cdr
      | simp only [State.legal_with, VoiceCore.legal_with, State.legal_with_cdr_fields]
      | with_reducible apply State.legal_ite | split | dsimp only
  try clear_value e1
  repeat'
    first
    | with_reducible assumption | intro _ | with_reducible apply Conductor.reset_legal
    | with_reducible apply State.finishOp_legal | with_reducible apply State.invalidateApplied_legal
    | with_reducible apply State.modDuet_legal | with_reducible apply State.refill_legal
    | with_reducible apply VoiceCore.reset_legal | with_reducible apply State.legal_core
    | with_reducible apply State.legal_cdr
    | simp only [State.legal_with, VoiceCore.legal_with, State.legal_with_cdr_fields]
    | with_reducible apply State.legal_ite | split | dsimp only

theorem State.agreeVersions_legal {s : State} {duet : Word} (h_s : s.Legal) : (State.agreeVersions s duet).Legal := by
  unfold State.agreeVersions
  extract_lets e1 e2 e3 e4 e5
  have h_e3 : e3.Legal := by
    dsimp only [e3]
    repeat' first | with_reducible assumption | with_reducible apply State.modRf_legal
  have h_e4 : e4.Legal := by
    dsimp only [e4]
    repeat' first | with_reducible assumption | with_reducible apply State.modRf_legal
  have h_e5 : e5.Legal := by
    dsimp only [e5]
    repeat'
      first
      | with_reducible assumption | with_reducible apply State.leaveTo_legal
      | with_reducible apply State.legal_ite
  (try clear_value e1)
  (try clear_value e2)
  (try clear_value e3)
  (try clear_value e4)
  (try clear_value e5)
  repeat'
    first
    | with_reducible assumption | with_reducible apply State.finishOp_legal
    | with_reducible apply State.legal_ite

theorem State.sendSample_legal {s : State} (h_s : s.Legal) : (State.sendSample s).Legal := by
  unfold State.sendSample
  extract_lets e1
  have h_e1 : e1.Legal := by
    dsimp only [e1]
    repeat' first | with_reducible assumption | with_reducible apply State.modDuet_legal
  (try clear_value e1)
  repeat'
    first
    | with_reducible assumption | with_reducible apply State.modDuet_legal
    | with_reducible apply State.legal_ite

theorem State.onSample_legal {s : State} {ws : List Word} (h_s : s.Legal) : (State.onSample s ws).Legal := by
  unfold State.onSample
  extract_lets e1 e2 e3 e4 e5 e6 e7 e8
  have h_e7 : e7.Legal := by
    dsimp only [e7]
    repeat' first | with_reducible assumption | with_reducible apply State.modDuet_legal
  have h_e8 : e8.Legal := by
    dsimp only [e8]
    repeat' first | with_reducible assumption | with_reducible apply State.onRole_legal
  (try clear_value e1)
  (try clear_value e2)
  (try clear_value e3)
  (try clear_value e4)
  (try clear_value e5)
  (try clear_value e6)
  (try clear_value e7)
  (try clear_value e8)
  repeat' first | with_reducible assumption | with_reducible apply State.partnerSample_legal

theorem State.landingFatal_legal {s : State} (h_s : s.Legal) :
    (State.landingFatal s).Legal := by
  unfold State.landingFatal
  extract_lets e1
  have h_e1 : e1.Legal := by
    dsimp only [e1]
    repeat'
      first
      | with_reducible assumption | intro _ | with_reducible apply State.loseSession_legal
      | with_reducible apply State.modDuet_legal | with_reducible apply State.sendLink_legal
      | with_reducible apply State.legal_core | with_reducible apply State.legal_cdr
      | simp only [State.legal_with, VoiceCore.legal_with, State.legal_with_cdr_fields]
      | with_reducible apply State.legal_ite | split | dsimp only
  try clear_value e1
  repeat'
    first
    | with_reducible assumption | intro _ | with_reducible apply State.loseSession_legal
    | with_reducible apply State.modDuet_legal | with_reducible apply State.sendLink_legal
    | with_reducible apply State.legal_core | with_reducible apply State.legal_cdr
    | simp only [State.legal_with, VoiceCore.legal_with, State.legal_with_cdr_fields]
    | with_reducible apply State.legal_ite | split | dsimp only

theorem State.sequenced_legal {s : State} {ch : BitVec 2} {ft : BitVec 3} {f : RxFlit} {act : State → List Word → State}
    (h_s : s.Legal) (h_act : ∀ s ws, s.Legal → (act s ws).Legal) : (State.sequenced s ch ft f act).Legal := by
  unfold State.sequenced
  repeat'
    first
    | with_reducible assumption | with_reducible apply h_act | with_reducible apply State.badFlit_legal
    | with_reducible apply State.landingFatal_legal | with_reducible apply State.sendAck_legal
    | with_reducible apply State.sendLink_legal | with_reducible apply State.modDuet_legal
    | with_reducible apply State.legal_ite

theorem State.produceData_legal {s : State} {ws : List Word} (h_s : s.Legal) : (State.produceData s ws).Legal := by
  unfold State.produceData
  repeat'
    first
    | with_reducible assumption | intro _ | with_reducible apply State.produceB_legal
    | with_reducible apply State.legal_foldl

theorem State.takeDesc_legal {s : State} (h_s : s.Legal) : (State.takeDesc s).Legal := by
  unfold State.takeDesc
  repeat'
    first
    | with_reducible assumption | with_reducible apply State.modDuet_legal
    | with_reducible apply State.descDone_legal | with_reducible apply State.addTxn_legal
    | with_reducible apply State.produceC_legal | with_reducible apply State.produceData_legal
    | with_reducible apply State.produceB_legal | refine State.domainRead_legal (by assumption) ?_
    | with_reducible apply State.legal_ite | split

theorem State.serveRead_legal {s : State} {ws : List Word} (h_s : s.Legal) :
    (State.serveRead s ws).Legal := by
  unfold State.serveRead
  repeat'
    first
    | with_reducible assumption | intro _ | exact State.domainRead_legal (by assumption) (by assumption)
    | with_reducible apply State.produceB_legal | with_reducible apply State.produceC_legal
    | with_reducible apply State.produceData_legal | with_reducible apply State.legal_core
    | with_reducible apply State.legal_cdr
    | simp only [State.legal_with, VoiceCore.legal_with, State.legal_with_cdr_fields]
    | with_reducible apply State.legal_ite | split | dsimp only

theorem State.readDone_legal {s : State} {tag : BitVec 12} (h_s : s.Legal) : (State.readDone s tag).Legal := by
  unfold State.readDone
  repeat'
    first
    | with_reducible assumption | with_reducible apply State.descDone_legal
    | with_reducible apply State.dropTxn_legal | with_reducible apply State.legal_ite | split

theorem State.writeHead_legal {s : State} {ws : List Word} (h_s : s.Legal) : (State.writeHead s ws).Legal := by
  unfold State.writeHead
  repeat' first | with_reducible assumption | with_reducible apply State.modDuet_legal

theorem State.readHead_legal {s : State} {ws : List Word} (h_s : s.Legal) : (State.readHead s ws).Legal := by
  unfold State.readHead
  repeat' first | with_reducible assumption | with_reducible apply State.modDuet_legal | split | dsimp only

theorem State.landData_legal {s : State} {ws : List Word} (h_s : s.Legal) : (State.landData s ws).Legal := by
  unfold State.landData
  repeat'
    first
    | with_reducible assumption | with_reducible apply State.domainWrite_legal
    | with_reducible apply State.modDuet_legal | with_reducible apply State.readDone_legal
    | with_reducible apply State.produceC_legal | with_reducible apply State.legal_ite | split

theorem State.landCommand_legal {s : State} {tag : BitVec 12} {ws : List Word} (h_s : s.Legal) :
    (State.landCommand s tag ws).Legal := by
  unfold State.landCommand
  repeat'
    first
    | with_reducible assumption | intro _ | with_reducible apply State.modDuet_legal
    | with_reducible apply State.postPacket_legal | with_reducible apply State.produceC_legal
    | with_reducible apply State.legal_core | with_reducible apply State.legal_cdr
    | simp only [State.legal_with, VoiceCore.legal_with, State.legal_with_cdr_fields]
    | with_reducible apply State.legal_ite | split | dsimp only

theorem State.response_legal {s : State} {tag : BitVec 12} {status : BitVec 8} {ws : List Word} (h_s : s.Legal) :
    (State.response s tag status ws).Legal := by
  unfold State.response
  repeat'
    first
    | with_reducible assumption | with_reducible apply State.descDone_legal
    | with_reducible apply State.dropTxn_legal | with_reducible apply State.readDone_legal
    | with_reducible apply State.modDuet_legal | with_reducible apply State.finishPartner_legal | split

theorem State.packetC_legal {s : State} {isReq : Bool} {ws : List Word} (h_s : s.Legal) : (State.packetC s isReq ws).Legal := by
  unfold State.packetC
  extract_lets e1 e2 e3 e4
  have h_e4 : e4.Legal := by
    dsimp only [e4]
    repeat' first | with_reducible assumption | with_reducible apply State.modDuet_legal
  (try clear_value e1)
  (try clear_value e2)
  (try clear_value e3)
  (try clear_value e4)
  repeat'
    first
    | with_reducible assumption | with_reducible apply State.modDuet_legal
    | with_reducible apply State.landCommand_legal | with_reducible apply State.response_legal
    | with_reducible apply State.legal_ite

theorem State.continueC_legal {s : State} {ws : List Word} (h_s : s.Legal) : (State.continueC s ws).Legal := by
  unfold State.continueC
  repeat' first | with_reducible assumption | with_reducible apply State.packetC_legal | split

theorem State.linkOn_legal {s : State} (h_s : s.Legal) : (State.linkOn s).Legal := by
  unfold State.linkOn
  repeat'
    first
    | with_reducible assumption | with_reducible apply State.startTraining_legal
    | with_reducible apply State.modDuet_legal | with_reducible apply State.legal_ite

theorem State.linkOff_legal {s : State} (h_s : s.Legal) :
    (State.linkOff s).Legal := by
  unfold State.linkOff
  repeat'
    first
    | with_reducible assumption | intro _ | with_reducible apply State.loseSession_legal
    | with_reducible apply State.modDuet_legal | with_reducible apply State.sendLink_legal
    | with_reducible apply State.legal_core | with_reducible apply State.legal_cdr
    | simp only [State.legal_with, VoiceCore.legal_with, State.legal_with_cdr_fields]
    | with_reducible apply State.legal_ite | split | dsimp only

theorem State.linkTrain_legal {s : State} (h_s : s.Legal) : (State.linkTrain s).Legal := by
  unfold State.linkTrain
  extract_lets e1
  have h_e1 : e1.Legal := by
    dsimp only [e1]
    repeat' first | with_reducible assumption | with_reducible apply State.modDuet_legal
  (try clear_value e1)
  repeat'
    first
    | with_reducible assumption | with_reducible apply State.modDuet_legal
    | with_reducible apply State.retrain_legal | with_reducible apply State.drawEpoch_legal | split

theorem State.laneMask_legal {s : State} {v : BitVec 4} (h_s : s.Legal) :
    (State.laneMask s v).Legal := by
  unfold State.laneMask
  extract_lets e1 e2
  have h_e2 : e2.Legal := by
    dsimp only [e2]
    repeat'
      first
      | with_reducible assumption | intro _ | with_reducible apply State.modDuet_legal
      | with_reducible apply State.retrain_legal | with_reducible apply State.legal_core
      | with_reducible apply State.legal_cdr
      | simp only [State.legal_with, VoiceCore.legal_with, State.legal_with_cdr_fields]
      | with_reducible apply State.legal_ite | split | dsimp only
  try clear_value e1
  try clear_value e2
  repeat'
    first
    | with_reducible assumption | intro _ | with_reducible apply State.modDuet_legal
    | with_reducible apply State.retrain_legal | with_reducible apply State.legal_core
    | with_reducible apply State.legal_cdr
    | simp only [State.legal_with, VoiceCore.legal_with, State.legal_with_cdr_fields]
    | with_reducible apply State.legal_ite | split | dsimp only

theorem State.lmapCtl_legal {s : State} {n : Fin 16} {v : Word} (h_s : s.Legal) : (State.lmapCtl s n v).Legal := by
  unfold State.lmapCtl
  repeat'
    first
    | with_reducible assumption | with_reducible apply State.modDuet_legal
    | with_reducible apply State.legal_ite

theorem State.duetVoiceWrite_legal {s : State} {off : Nat} {v : Word} (h_s : s.Legal) :
    (State.duetVoiceWrite s off v).Legal := by
  unfold State.duetVoiceWrite
  repeat'
    first
    | with_reducible assumption | with_reducible apply State.modDuet_legal
    | with_reducible apply State.lmapCtl_legal | with_reducible apply State.legal_ite | split | dsimp only

theorem State.writeDlCtl_legal {s : State} {v : Word} (h_s : s.Legal) : (State.writeDlCtl s v).Legal := by
  unfold State.writeDlCtl
  extract_lets e1 e2
  have h_e1 : e1.Legal := by
    dsimp only [e1]
    repeat' first | with_reducible assumption | with_reducible apply State.modDuet_legal
  have h_e2 : e2.Legal := by
    dsimp only [e2]
    repeat'
      first
      | with_reducible assumption | with_reducible apply State.linkOn_legal
      | with_reducible apply State.linkOff_legal | with_reducible apply State.legal_ite
  (try clear_value e1)
  (try clear_value e2)
  repeat'
    first
    | with_reducible assumption | with_reducible apply State.linkTrain_legal
    | with_reducible apply State.legal_ite

theorem State.duetWrite_legal {s : State} {w : Initiator} {off : Nat} {v : Word} (h_s : s.Legal) :
    (State.duetWrite s w off v).Legal := by
  unfold State.duetWrite
  repeat'
    first
    | with_reducible assumption | with_reducible apply State.duetVoiceWrite_legal
    | with_reducible apply State.writeDlCtl_legal | with_reducible apply State.modDuet_legal
    | with_reducible apply State.laneMask_legal | with_reducible apply State.legal_ite | split

end Sys2Proof.Machine
end

