-- ==== Sys2Proof/Laws/LegalMc.lean ====
section
/-! SUPPORT. A legal state stays legal: Mc. -/
set_option Elab.async false
set_option linter.all false
namespace Sys2Proof.Machine

theorem State.modMc_legal {s : State} {f : MemCtl → MemCtl} (h_s : s.Legal) : (State.modMc s f).Legal := by
  unfold State.modMc
  repeat' first | with_reducible assumption | simp only [State.legal_with]

theorem State.initSet_legal {s : State} (h_s : s.Legal) : (State.initSet s).Legal := by
  unfold State.initSet
  repeat'
    first
    | with_reducible assumption | with_reducible apply State.modMc_legal
    | with_reducible apply State.legal_ite

theorem execMcInit_legal {w : Initiator} {s : State} (h_s : s.Legal) : Outcome.Legal (execMcInit w s) := by
  unfold execMcInit
  repeat'
    first
    | with_reducible assumption | intro _ | with_reducible apply ifActs_legal
    | with_reducible apply State.initSet_legal | with_reducible apply State.legal_ite

theorem State.zeroFill_legal {s : State} (h_s : s.Legal) : (State.zeroFill s).Legal := by
  have h := State.legal_with_dram h_s (dram := []) (chk := []) rfl (die := s.die) (stageBad := s.stageBad)
    (caches := s.caches) (bar := s.bar)
    (tempo := s.tempo) (chorus := s.chorus) (mc := s.mc) (echo := s.echo) (rings := s.rings) (bm := s.bm) (boot := s.boot)
    (duet := s.duet) (refrain := s.refrain) (health := s.health) (trace := s.trace) (io := s.io) (pwr := s.pwr)
    (free := s.free) (pending := s.pending)
  exact h

theorem State.startMc_legal {s : State} (h_s : s.Legal) :
    (State.startMc s).Legal := by
  unfold State.startMc
  repeat'
    first
    | with_reducible assumption | intro _ | with_reducible apply State.modMc_legal
    | with_reducible apply State.legal_core | with_reducible apply State.legal_cdr
    | simp only [State.legal_with, VoiceCore.legal_with, State.legal_with_cdr_fields]
    | with_reducible apply State.legal_ite | split | dsimp only

theorem execInitialisationEnd_legal {o : InitOutcome} {s : State} (h_s : s.Legal) :
    Outcome.Legal (execInitialisationEnd o s) := by
  unfold execInitialisationEnd
  repeat'
    first
    | with_reducible assumption | intro _ | with_reducible apply Outcome.legal_next
    | with_reducible apply State.modMc_legal | with_reducible apply State.startMc_legal
    | with_reducible apply State.startTraining_legal | with_reducible apply State.zeroFill_legal
    | with_reducible apply ifOn_legal | with_reducible apply State.legal_core | with_reducible apply State.legal_cdr
    | simp only [State.legal_with, VoiceCore.legal_with, State.legal_with_cdr_fields]
    | with_reducible apply State.legal_ite | split | dsimp only

theorem State.resvWrite_legal {s : State} {v : Word} (h_s : s.Legal) : (State.resvWrite s v).Legal := by
  unfold State.resvWrite
  repeat'
    first
    | with_reducible assumption | with_reducible apply State.modMc_legal
    | with_reducible apply State.legal_ite

theorem execMcResvWrite_legal {w : Initiator} {v : Word} {s : State} (h_s : s.Legal) :
    Outcome.Legal (execMcResvWrite w v s) := by
  unfold execMcResvWrite
  repeat'
    first
    | with_reducible assumption | intro _ | with_reducible apply ifActs_legal
    | with_reducible apply State.resvWrite_legal | with_reducible apply State.legal_ite

theorem State.catchUp_legal {s : State} (h_s : s.Legal) : (State.catchUp s).Legal := by
  unfold State.catchUp
  repeat' first | with_reducible assumption | with_reducible apply State.modMc_legal

theorem State.quietStart_legal {s : State} (h_s : s.Legal) : (State.quietStart s).Legal := by
  unfold State.quietStart
  repeat' first | with_reducible assumption | with_reducible apply State.modMc_legal

theorem State.quietBreak_legal {s : State} (h_s : s.Legal) : (State.quietBreak s).Legal := by
  unfold State.quietBreak
  repeat'
    first
    | with_reducible assumption | with_reducible apply State.catchUp_legal
    | with_reducible apply State.modMc_legal

theorem State.refreshDue_legal {s : State} {r : Fin 2} (h_s : s.Legal) : (State.refreshDue s r).Legal := by
  unfold State.refreshDue
  repeat'
    first
    | with_reducible assumption | with_reducible apply State.quietBreak_legal
    | with_reducible apply State.modMc_legal | with_reducible apply State.legal_ite

theorem State.refresh_legal {s : State} {r : Fin 2} (h_s : s.Legal) :
    (State.refresh s r).Legal := by
  unfold State.refresh
  repeat'
    first
    | with_reducible assumption | intro _ | with_reducible apply State.modMc_legal
    | with_reducible apply State.refreshDue_legal | with_reducible apply State.until_legal
    | with_reducible apply State.legal_core | with_reducible apply State.legal_cdr
    | simp only [State.legal_with, VoiceCore.legal_with, State.legal_with_cdr_fields]
    | with_reducible apply State.legal_ite | split | dsimp only

theorem execRefresh_legal {r : Fin 2} {s : State} (h_s : s.Legal) :
    Outcome.Legal (execRefresh r s) := by
  unfold execRefresh
  repeat'
    first
    | with_reducible assumption | intro _ | with_reducible apply Outcome.legal_next
    | with_reducible apply State.refresh_legal | with_reducible apply ifOn_legal
    | with_reducible apply State.legal_core | with_reducible apply State.legal_cdr
    | simp only [State.legal_with, VoiceCore.legal_with, State.legal_with_cdr_fields]
    | with_reducible apply State.legal_ite | split | dsimp only

theorem State.refreshToBreak_legal {s : State} {r : Fin 2} {a0 : Nat} (h_s : s.Legal) :
    (State.refreshToBreak s r a0).Legal := by
  induction a0 generalizing s with
  | zero => exact h_s
  | succ n ih =>
    unfold State.refreshToBreak
    repeat' first | with_reducible assumption | intro _ | with_reducible apply ih | with_reducible apply State.refresh_legal | with_reducible apply State.legal_core | with_reducible apply State.legal_cdr | simp only [State.legal_with, VoiceCore.legal_with, State.legal_with_cdr_fields] | with_reducible apply State.legal_ite | split | dsimp only

theorem execRefqBreak_legal {r : Fin 2} {s : State} (h_s : s.Legal) :
    Outcome.Legal (execRefqBreak r s) := by
  unfold execRefqBreak
  repeat'
    first
    | with_reducible assumption | intro _ | with_reducible apply Outcome.legal_next
    | with_reducible apply State.refreshToBreak_legal | with_reducible apply ifOn_legal
    | with_reducible apply State.legal_core | with_reducible apply State.legal_cdr
    | simp only [State.legal_with, VoiceCore.legal_with, State.legal_with_cdr_fields]
    | with_reducible apply State.legal_ite | split | dsimp only

theorem State.quietBeat_legal {s : State} {was : Bool} (h_s : s.Legal) : (State.quietBeat s was).Legal := by
  unfold State.quietBeat
  repeat'
    first
    | with_reducible assumption | with_reducible apply State.quietStart_legal
    | with_reducible apply State.catchUp_legal | with_reducible apply State.legal_ite

theorem State.scrub_legal {s : State} (h_s : s.Legal) : (State.scrub s).Legal := by
  unfold State.scrub
  extract_lets e1 e2
  have h_e2 : e2.Legal := by
    dsimp only [e2]
    repeat' first | with_reducible assumption | with_reducible apply State.readBeats_legal
  (try clear_value e1)
  (try clear_value e2)
  repeat' first | with_reducible assumption | with_reducible apply State.modMc_legal

theorem execPatrolScrub_legal {ups : List Upset} {s : State} (h_s : s.Legal) :
    Outcome.Legal (execPatrolScrub ups s) := by
  unfold execPatrolScrub
  repeat'
    first
    | with_reducible assumption | intro _ | with_reducible apply Outcome.legal_next
    | with_reducible apply State.modMc_legal | with_reducible apply State.scrub_legal
    | with_reducible apply State.until_legal | with_reducible apply State.upsets_legal
    | with_reducible apply ifOn_legal | with_reducible apply State.legal_core | with_reducible apply State.legal_cdr
    | simp only [State.legal_with, VoiceCore.legal_with, State.legal_with_cdr_fields]
    | with_reducible apply State.legal_ite | split | dsimp only

theorem State.mcWrite_legal {s : State} {w : Initiator} {off : Nat} {v : Word} (h_s : s.Legal) :
    (State.mcWrite s w off v).Legal := by
  unfold State.mcWrite
  extract_lets e1
  have h_e1 : e1.Legal := by
    dsimp only [e1]
    repeat' first | with_reducible assumption | with_reducible apply State.modMc_legal
  (try clear_value e1)
  repeat'
    first
    | with_reducible assumption | with_reducible apply State.modMc_legal
    | with_reducible apply State.initSet_legal | with_reducible apply State.resvWrite_legal
    | with_reducible apply State.legal_ite | split

end Sys2Proof.Machine
end

