-- ==== Sys2Proof/Laws/LegalCacheCtl.lean ====
section
/-! SUPPORT. A legal state stays legal: CacheCtl. -/
set_option Elab.async false
set_option linter.all false
namespace Sys2Proof.Machine

theorem State.flush2_legal {s : State} {sec : Fin 3} {w : Nat} (h_s : s.Legal) : (State.flush2 s sec w).Legal := by
  unfold State.flush2
  repeat'
    first
    | with_reducible assumption | intro _ | with_reducible apply State.cleanLine_legal
    | with_reducible apply State.dropSection_legal | with_reducible apply State.legal_ite
    | with_reducible apply State.legal_foldl

theorem State.flush3_legal {s : State} {n : Fin 4} {w : Nat} (h_s : s.Legal) : (State.flush3 s n w).Legal := by
  unfold State.flush3
  repeat'
    first
    | with_reducible assumption | intro _ | with_reducible apply State.cleanLine_legal
    | with_reducible apply State.dropL3_legal | with_reducible apply State.legal_ite
    | with_reducible apply State.legal_foldl

theorem State.setL2Ways_legal {s : State} {sec : Fin 3} {v : Word} (h_s : s.Legal) : (State.setL2Ways s sec v).Legal := by
  unfold State.setL2Ways
  repeat'
    first
    | with_reducible assumption | intro _ | with_reducible apply State.flush2_legal
    | simp only [State.legal_with] | with_reducible apply State.legal_foldl

theorem State.setL3Ways_legal {s : State} {n : Fin 4} {en : Word} {iso : Word} (h_s : s.Legal) :
    (State.setL3Ways s n en iso).Legal := by
  unfold State.setL3Ways
  repeat'
    first
    | with_reducible assumption | intro _ | with_reducible apply State.flush3_legal
    | simp only [State.legal_with] | with_reducible apply State.legal_foldl

theorem State.rejectMap_legal {s : State} (h_s : s.Legal) : (State.rejectMap s).Legal := by
  unfold State.rejectMap
  repeat' first | with_reducible assumption | simp only [State.legal_with]

theorem State.mapL2_legal {s : State} {sec : Fin 3} {v : Word} (h_s : s.Legal) :
    (State.mapL2 s sec v).Legal := by
  unfold State.mapL2
  repeat'
    first
    | with_reducible assumption | intro _ | with_reducible apply State.rejectMap_legal
    | with_reducible apply State.setL2Ways_legal | with_reducible apply State.legal_core
    | with_reducible apply State.legal_cdr
    | simp only [State.legal_with, VoiceCore.legal_with, State.legal_with_cdr_fields]
    | with_reducible apply State.legal_ite | split | dsimp only

theorem State.mapL3_legal {s : State} {n : Fin 4} {en : Word} {iso : Word} (h_s : s.Legal) :
    (State.mapL3 s n en iso).Legal := by
  unfold State.mapL3
  repeat'
    first
    | with_reducible assumption | intro _ | with_reducible apply State.rejectMap_legal
    | with_reducible apply State.setL3Ways_legal | with_reducible apply State.legal_core
    | with_reducible apply State.legal_cdr
    | simp only [State.legal_with, VoiceCore.legal_with, State.legal_with_cdr_fields]
    | with_reducible apply State.legal_ite | split | dsimp only

theorem State.wayMapWrite_legal {s : State} {w : Initiator} {reg : WayReg} {v : Word} (h_s : s.Legal) :
    (State.wayMapWrite s w reg v).Legal := by
  unfold State.wayMapWrite
  repeat'
    first
    | with_reducible assumption | intro _ | with_reducible apply State.mapL2_legal
    | with_reducible apply State.mapL3_legal | with_reducible apply State.legal_core
    | with_reducible apply State.legal_cdr
    | simp only [State.legal_with, VoiceCore.legal_with, State.legal_with_cdr_fields]
    | with_reducible apply State.legal_ite | split | dsimp only

theorem State.cacheWrite_legal {s : State} {w : Initiator} {off : Nat} {v : Word} (h_s : s.Legal) :
    (State.cacheWrite s w off v).Legal := by
  unfold State.cacheWrite
  repeat'
    first
    | with_reducible assumption | with_reducible apply State.wayMapWrite_legal
    | simp only [State.legal_with] | with_reducible apply State.legal_ite | split

theorem execWayMapWrite_legal {w : Initiator} {reg : WayReg} {v : Word} {s : State} (h_s : s.Legal) :
    Outcome.Legal (execWayMapWrite w reg v s) := by
  unfold execWayMapWrite
  repeat'
    first
    | with_reducible assumption | intro _ | with_reducible apply ifActs_legal
    | with_reducible apply State.wayMapWrite_legal

theorem State.wayOpEnd_legal {s : State} (h_s : s.Legal) : (State.wayOpEnd s).Legal := by
  unfold State.wayOpEnd
  repeat'
    first
    | with_reducible assumption | with_reducible apply State.flush2_legal
    | with_reducible apply State.flush3_legal | simp only [State.legal_with] | with_reducible apply State.legal_ite
    | split

theorem execWayOperationEnd_legal {s : State} (h_s : s.Legal) : Outcome.Legal (execWayOperationEnd s) := by
  unfold execWayOperationEnd
  repeat'
    first
    | with_reducible assumption | intro _ | with_reducible apply ifOn_legal
    | with_reducible apply State.wayOpEnd_legal

theorem State.evict_legal {s : State} {site : CacheSite} {line : Nat} (h_s : s.Legal) :
    (State.evict s site line).Legal := by
  unfold State.evict
  repeat'
    first
    | with_reducible assumption | intro _ | with_reducible apply State.cleanLine_legal
    | with_reducible apply State.dropSite_legal | with_reducible apply State.evict2_legal
    | with_reducible apply State.legal_core | with_reducible apply State.legal_cdr
    | simp only [State.legal_with, VoiceCore.legal_with, State.legal_with_cdr_fields]
    | with_reducible apply State.legal_ite | split | dsimp only

theorem execWriteBack_legal {site : CacheSite} {line : Nat} {ups : List Upset} {s : State} (h_s : s.Legal) :
    Outcome.Legal (execWriteBack site line ups s) := by
  unfold execWriteBack
  repeat'
    first
    | with_reducible assumption | intro _ | with_reducible apply Outcome.legal_next
    | with_reducible apply State.backErrors_legal | with_reducible apply State.evict_legal
    | with_reducible apply State.upsets_legal | with_reducible apply ifOn_legal
    | with_reducible apply State.legal_core | with_reducible apply State.legal_cdr
    | simp only [State.legal_with, VoiceCore.legal_with, State.legal_with_cdr_fields]
    | with_reducible apply State.legal_ite | split | dsimp only

end Sys2Proof.Machine
end

