-- ==== Sys2Proof/Laws/LegalHealthOps.lean ====
section
/-! SUPPORT. A legal state stays legal: HealthOps. -/
set_option Elab.async false
set_option linter.all false
namespace Sys2Proof.Machine

theorem State.modHealth_legal {s : State} {f : Health → Health} (h_s : s.Legal) : (State.modHealth s f).Legal := by
  unfold State.modHealth
  repeat' first | with_reducible assumption | simp only [State.legal_with]

theorem State.putSrc_legal {s : State} {src : Nat} {x : LSrc} (h_s : s.Legal) : (State.putSrc s src x).Legal := by
  unfold State.putSrc
  repeat' first | with_reducible assumption | with_reducible apply State.modHealth_legal

theorem State.mirrorUpdate_legal {s : State} (h_s : s.Legal) : (State.mirrorUpdate s).Legal := by
  unfold State.mirrorUpdate
  repeat' first | with_reducible assumption | with_reducible apply State.modHealth_legal

theorem State.flashLedger_legal {s : State} (h_s : s.Legal) : (State.flashLedger s).Legal := by
  unfold State.flashLedger
  repeat' first | with_reducible assumption | with_reducible apply State.modHealth_legal

theorem State.bothMirrors_legal {s : State} (h_s : s.Legal) : (State.bothMirrors s).Legal := by
  unfold State.bothMirrors
  repeat'
    first
    | with_reducible assumption | with_reducible apply State.flashLedger_legal
    | with_reducible apply State.mirrorUpdate_legal

theorem State.applyRepair_legal {s : State} {src : Nat} {t : State} (e : (State.applyRepair s src) = some t) (h_s : s.Legal) :
    t.Legal := by
  unfold State.applyRepair at e
  (try dsimp only at e)
  repeat' split at e
  all_goals first | contradiction | (injection e with e; subst e; repeat' first | with_reducible assumption | intro _ | with_reducible apply State.laneMask_legal | with_reducible apply State.setL2Ways_legal | with_reducible apply State.setL3Ways_legal | with_reducible apply State.legal_ite | with_reducible apply State.legal_foldl | with_reducible apply State.legal_foldl_fst | split | dsimp only) | (repeat' first | with_reducible assumption | intro _ | with_reducible apply State.laneMask_legal | with_reducible apply State.setL2Ways_legal | with_reducible apply State.setL3Ways_legal | with_reducible apply State.legal_ite | with_reducible apply State.legal_foldl | with_reducible apply State.legal_foldl_fst | split | dsimp only)

theorem State.undoRepair_legal {s : State} {src : Nat} (h_s : s.Legal) : (State.undoRepair s src).Legal := by
  unfold State.undoRepair
  repeat'
    first
    | with_reducible assumption | with_reducible apply State.laneMask_legal
    | with_reducible apply State.setL2Ways_legal | with_reducible apply State.setL3Ways_legal | split

theorem State.setLState_legal {s : State} {src : Nat} {x : LState} (h_s : s.Legal) : (State.setLState s src x).Legal := by
  unfold State.setLState
  repeat'
    first
    | with_reducible assumption | with_reducible apply State.bothMirrors_legal
    | with_reducible apply State.putSrc_legal

theorem State.repair_legal {s : State} {src : Nat} (h_s : s.Legal) : (State.repair s src).1.Legal := by
  unfold State.repair
  extract_lets e1
  have h_e1 : e1.Legal := by
    dsimp only [e1]
    repeat' first | with_reducible assumption | with_reducible apply State.modHealth_legal
  (try clear_value e1)
  repeat'
    first
    | with_reducible assumption | with_reducible apply State.mirrorUpdate_legal
    | with_reducible apply State.setLState_legal | refine State.applyRepair_legal (by assumption) ?_ | split

theorem State.nextRepair_legal {s : State} {p : RepairKind → Bool} (h_s : s.Legal) : (State.nextRepair s p).Legal := by
  unfold State.nextRepair
  repeat'
    first
    | with_reducible assumption | with_reducible apply State.repair_legal
    | with_reducible apply State.legal_ite | split

theorem State.runRepair_legal {s : State} {c : Cmd} (h_s : s.Legal) : (State.runRepair s c).1.Legal := by
  unfold State.runRepair
  extract_lets e1 e2
  have h_e2 : e2.1.Legal := by
    dsimp only [e2]
    repeat' first | with_reducible assumption | with_reducible apply State.repair_legal
  (try clear_value e1)
  (try clear_value e2)
  repeat'
    first
    | with_reducible assumption | with_reducible apply State.setLState_legal
    | with_reducible apply State.undoRepair_legal | split

theorem State.countEvent_legal {s : State} {e : HEvent} (h_s : s.Legal) : (State.countEvent s e).1.Legal := by
  unfold State.countEvent
  repeat' first | with_reducible assumption | with_reducible apply State.putSrc_legal

theorem State.becameLasting_legal {s : State} {src : Nat} (h_s : s.Legal) : (State.becameLasting s src).Legal := by
  unfold State.becameLasting
  extract_lets e1
  have h_e1 : e1.Legal := by
    dsimp only [e1]
    repeat' first | with_reducible assumption | with_reducible apply State.notice_legal
  (try clear_value e1)
  repeat'
    first
    | with_reducible assumption | with_reducible apply State.modHealth_legal
    | with_reducible apply State.legal_ite

theorem State.drain_legal {s : State} (h_s : s.Legal) : (State.drain s).Legal := by
  unfold State.drain
  extract_lets e1 e2 e3 e4
  have h_e2 : e2.1.Legal := by
    dsimp only [e2]
    repeat'
      first
      | with_reducible assumption | intro _ | with_reducible apply State.countEvent_legal
      | with_reducible apply State.modHealth_legal | with_reducible apply State.legal_foldl_fst
  have h_e3 : e3.Legal := by
    dsimp only [e3]
    repeat'
      first
      | with_reducible assumption | intro _ | with_reducible apply State.becameLasting_legal
      | with_reducible apply State.legal_foldl
  have h_e4 : e4.Legal := by
    dsimp only [e4]
    repeat' first | with_reducible assumption | with_reducible apply State.mirrorUpdate_legal
  (try clear_value e1)
  (try clear_value e2)
  (try clear_value e3)
  (try clear_value e4)
  repeat'
    first
    | with_reducible assumption | with_reducible apply State.flashLedger_legal
    | with_reducible apply State.legal_ite

theorem State.leak_legal {s : State} {src : Nat} (h_s : s.Legal) : (State.leak s src).Legal := by
  unfold State.leak
  repeat'
    first
    | with_reducible assumption | with_reducible apply State.mirrorUpdate_legal
    | with_reducible apply State.putSrc_legal | with_reducible apply State.legal_ite

theorem State.leakDue_legal {s : State} {src n : Nat} (h_s : s.Legal) : (State.leakDue s src n).Legal := by
  induction n generalizing s with
  | zero => exact h_s
  | succ n ih =>
    unfold State.leakDue
    dsimp only
    split
    · exact h_s
    · exact ih (State.leak_legal h_s)

theorem State.untilService_legal {s : State} {n : Nat} (h_s : s.Legal) : (State.untilService s n).Legal := by
  unfold State.untilService
  repeat'
    first
    | with_reducible assumption | with_reducible apply State.elapse_legal
    | with_reducible apply State.legal_ite

theorem State.addHours_legal {s : State} (h_s : s.Legal) : (State.addHours s).Legal := by
  unfold State.addHours
  extract_lets e1 e2 e3 e4 e5 e6
  have h_e2 : e2.Legal := by
    dsimp only [e2]
    repeat' first | with_reducible assumption | with_reducible apply State.modHealth_legal
  have h_e5 : e5.Legal := by
    dsimp only [e5]
    repeat'
      first
      | with_reducible assumption | with_reducible apply State.modHealth_legal
      | with_reducible apply State.notice_legal | with_reducible apply State.legal_ite
  have h_e6 : e6.Legal := by
    dsimp only [e6]
    repeat' first | with_reducible assumption | with_reducible apply State.mirrorUpdate_legal
  (try clear_value e1)
  (try clear_value e2)
  (try clear_value e3)
  (try clear_value e4)
  (try clear_value e5)
  (try clear_value e6)
  repeat'
    first
    | with_reducible assumption | with_reducible apply State.flashLedger_legal
    | with_reducible apply State.legal_ite

theorem State.holdForSlice_legal {s : State} {c : Fin 12} (h_s : s.Legal) : (State.holdForSlice s c).Legal := by
  unfold State.holdForSlice
  extract_lets e1 e2 e3
  have h_e3 : e3.Legal := by
    dsimp only [e3]
    repeat' first | with_reducible assumption | simp only [State.legal_with, VoiceCore.legal_with]
  (try clear_value e1)
  (try clear_value e2)
  (try clear_value e3)
  repeat'
    first
    | with_reducible assumption | intro _ | with_reducible apply State.legal_modCore
    | simp only [State.legal_with, VoiceCore.legal_with]

theorem State.isolateWay_legal {s : State} {num : Nat} {on : Bool} (h_s : s.Legal) : (State.isolateWay s num on).Legal := by
  unfold State.isolateWay
  repeat'
    first
    | with_reducible assumption | with_reducible apply State.setL2Ways_legal
    | with_reducible apply State.setL3Ways_legal | with_reducible apply State.legal_ite

theorem State.startSlice_legal {s : State} {num : Nat} {asked : Bool} {retest : Bool} (h_s : s.Legal) :
    (State.startSlice s num asked retest).Legal := by
  unfold State.startSlice
  extract_lets e1 e2
  have h_e1 : e1.Legal := by
    dsimp only [e1]
    repeat' first | with_reducible assumption | with_reducible apply State.modHealth_legal
  have h_e2 : e2.Legal := by
    dsimp only [e2]
    repeat' first | with_reducible assumption | with_reducible apply State.isolateWay_legal
  (try clear_value e1)
  (try clear_value e2)
  repeat'
    first
    | with_reducible assumption | intro _ | with_reducible apply State.holdForSlice_legal
    | with_reducible apply State.legal_ite | with_reducible apply State.legal_foldl

theorem State.offerBeat_legal {s : State} {beat : Nat} {len : Nat} (h_s : s.Legal) : (State.offerBeat s beat len).Legal := by
  unfold State.offerBeat
  extract_lets e1
  have h_e1 : e1.Legal := by
    dsimp only [e1]
    repeat' first | with_reducible assumption | with_reducible apply State.modHealth_legal
  (try clear_value e1)
  repeat'
    first
    | with_reducible assumption | with_reducible apply State.startSlice_legal
    | with_reducible apply State.setCmd_legal | with_reducible apply State.legal_ite | split

theorem State.advanceCycle_legal {s : State} {num : Nat} (h_s : s.Legal) : (State.advanceCycle s num).Legal := by
  unfold State.advanceCycle
  extract_lets e1 e2
  have h_e1 : e1.Legal := by
    dsimp only [e1]
    repeat' first | with_reducible assumption | with_reducible apply State.modHealth_legal
  (try clear_value e1)
  (try clear_value e2)
  repeat'
    first
    | with_reducible assumption | with_reducible apply State.modHealth_legal
    | with_reducible apply State.legal_ite

theorem State.renewCycle_legal {s : State} (h_s : s.Legal) : (State.renewCycle s).Legal := by
  unfold State.renewCycle
  repeat'
    first
    | with_reducible assumption | with_reducible apply State.modHealth_legal
    | with_reducible apply State.legal_ite

theorem State.aging_legal {s : State} {sec : Fin 3} {slow : BitVec 10} (h_s : s.Legal) : (State.aging s sec slow).Legal := by
  unfold State.aging
  extract_lets e1 e2 e3 e4 e5 e6
  have h_e5 : e5.Legal := by
    dsimp only [e5]
    repeat' first | with_reducible assumption | with_reducible apply State.modHealth_legal
  have h_e6 : e6.Legal := by
    dsimp only [e6]
    repeat'
      first
      | with_reducible assumption | with_reducible apply State.notice_legal
      | with_reducible apply State.legal_ite
  (try clear_value e1)
  (try clear_value e2)
  (try clear_value e3)
  (try clear_value e4)
  (try clear_value e5)
  (try clear_value e6)
  repeat'
    first
    | with_reducible assumption | with_reducible apply State.post_legal
    | with_reducible apply State.legal_ite

theorem State.endSlice_legal {s : State} {sl : Slice} {result : Nat} {outcome : BitVec 10} (h_s : s.Legal) :
    (State.endSlice s sl result outcome).Legal := by
  unfold State.endSlice
  extract_lets e1 e2 e3 e4 e5 e6 e7 e8 e9 e10 e11 e12 e13
  have h_e5 : e5.Legal := by
    dsimp only [e5]
    repeat' first | with_reducible assumption | with_reducible apply State.modHealth_legal
  have h_e8 : e8.Legal := by
    dsimp only [e8]
    repeat'
      first
      | with_reducible assumption | with_reducible apply State.modHealth_legal
      | with_reducible apply State.isolateWay_legal | with_reducible apply State.legal_ite
  have h_e9 : e9.Legal := by
    dsimp only [e9]
    repeat'
      first
      | with_reducible assumption | intro _ | with_reducible apply State.legal_modCore
      | simp only [VoiceCore.legal_with] | with_reducible apply State.legal_foldl
  have h_e10 : e10.Legal := by
    dsimp only [e10]
    repeat'
      first
      | with_reducible assumption | with_reducible apply State.post_legal
      | with_reducible apply State.legal_ite
  have h_e11 : e11.Legal := by
    dsimp only [e11]
    repeat'
      first
      | with_reducible assumption | with_reducible apply State.aging_legal
      | with_reducible apply State.legal_ite
  have h_e12 : e12.Legal := by
    dsimp only [e12]
    repeat'
      first
      | with_reducible assumption | with_reducible apply State.advanceCycle_legal
      | with_reducible apply State.legal_ite
  have h_e13 : e13.Legal := by
    dsimp only [e13]
    repeat'
      first
      | with_reducible assumption | with_reducible apply State.finish_legal
      | with_reducible apply State.legal_ite | split
  (try clear_value e1)
  (try clear_value e2)
  (try clear_value e3)
  (try clear_value e4)
  (try clear_value e5)
  (try clear_value e6)
  (try clear_value e7)
  (try clear_value e8)
  (try clear_value e9)
  (try clear_value e10)
  (try clear_value e11)
  (try clear_value e12)
  (try clear_value e13)
  repeat'
    first
    | with_reducible assumption | with_reducible apply State.runRepair_legal
    | with_reducible apply State.setCmd_legal | simp only [VoiceCore.legal_with] | split

theorem State.dropSlices_legal {s : State} (h_s : s.Legal) : (State.dropSlices s).Legal := by
  unfold State.dropSlices
  repeat'
    first
    | with_reducible assumption | intro _ | with_reducible apply State.isolateWay_legal
    | with_reducible apply State.legal_foldl

theorem State.healthWrite_legal {s : State} {w : Initiator} {off : Nat} {v : Word} (h_s : s.Legal) :
    (State.healthWrite s w off v).Legal := by
  unfold State.healthWrite
  repeat'
    first
    | with_reducible assumption | with_reducible apply State.cacheWrite_legal
    | with_reducible apply State.modHealth_legal | with_reducible apply State.legal_ite | split

end Sys2Proof.Machine
end

