-- ==== Sys2Proof/Laws/LegalTraceOps.lean ====
section
/-! SUPPORT. A legal state stays legal: TraceOps. -/
set_option Elab.async false
set_option linter.all false
namespace Sys2Proof.Machine

theorem State.modTsec_legal {s : State} {sec : Fin 3} {f : TraceSec → TraceSec} (h_s : s.Legal) :
    (State.modTsec s sec f).Legal := by
  unfold State.modTsec
  repeat' first | with_reducible assumption | simp only [State.legal_with]

theorem State.modPart_legal {s : State} {sec : Fin 3} {p : BitVec 4} {f : TracePart → TracePart} (h_s : s.Legal) :
    (State.modPart s sec p f).Legal := by
  unfold State.modPart
  repeat' first | with_reducible assumption | with_reducible apply State.modTsec_legal

theorem State.emit_legal {s : State} {sec : Fin 3} {core : Fin 4} {p : BitVec 4} {ty : Nat} {info : Nat} {rest : List Word} (h_s : s.Legal) :
    (State.emit s sec core p ty info rest).Legal := by
  unfold State.emit
  repeat' first | with_reducible assumption | with_reducible apply State.modTsec_legal

theorem State.flushAtom_legal {s : State} {sec : Fin 3} {core : Fin 4} {p : BitVec 4} (h_s : s.Legal) :
    (State.flushAtom s sec core p).Legal := by
  unfold State.flushAtom
  repeat'
    first
    | with_reducible assumption | with_reducible apply State.modTsec_legal
    | with_reducible apply State.emit_legal | with_reducible apply State.legal_ite

theorem State.packet_legal {s : State} {sec : Fin 3} {core : Fin 4} {p : BitVec 4} {ty : Nat} {info : Nat} {rest : List Word} (h_s : s.Legal) :
    (State.packet s sec core p ty info rest).Legal := by
  unfold State.packet
  repeat'
    first
    | with_reducible assumption | with_reducible apply State.emit_legal
    | with_reducible apply State.flushAtom_legal

theorem State.traceLeave_legal {s : State} {c : Fin 12} {reason : Nat} (h_s : s.Legal) :
    (State.traceLeave s c reason).Legal := by
  unfold State.traceLeave
  repeat'
    first
    | with_reducible assumption | with_reducible apply State.modTsec_legal
    | with_reducible apply State.packet_legal | split | dsimp only

theorem State.traceLeaveAll_legal {s : State} {sec : Fin 3} {p : BitVec 4} {reason : Nat} (h_s : s.Legal) :
    (State.traceLeaveAll s sec p reason).Legal := by
  unfold State.traceLeaveAll
  repeat'
    first
    | with_reducible assumption | intro _ | with_reducible apply State.traceLeave_legal
    | with_reducible apply State.legal_ite | with_reducible apply State.legal_foldl

theorem State.traceStop_legal {s : State} {sec : Fin 3} {p : BitVec 4} (h_s : s.Legal) : (State.traceStop s sec p).Legal := by
  unfold State.traceStop
  extract_lets e1 e2 e3 e4
  have h_e2 : e2.Legal := by
    dsimp only [e2]
    repeat' first | with_reducible assumption | with_reducible apply State.packet_legal
  have h_e3 : e3.Legal := by
    dsimp only [e3]
    repeat' first | with_reducible assumption | with_reducible apply State.traceLeaveAll_legal
  have h_e4 : e4.Legal := by
    dsimp only [e4]
    repeat' first | with_reducible assumption | with_reducible apply State.modTsec_legal
  (try clear_value e1)
  (try clear_value e2)
  (try clear_value e3)
  (try clear_value e4)
  repeat' first | with_reducible assumption | with_reducible apply State.edge_legal

theorem State.trigger_legal {s : State} {c : Fin 12} {p : BitVec 4} {kind : Nat} (h_s : s.Legal) :
    (State.trigger s c p kind).Legal := by
  unfold State.trigger
  extract_lets e1 e2 e3 e4 e5
  have h_e3 : e3.Legal := by
    dsimp only [e3]
    repeat' first | with_reducible assumption | with_reducible apply State.packet_legal
  have h_e4 : e4.Legal := by
    dsimp only [e4]
    repeat' first | with_reducible assumption | with_reducible apply State.modPart_legal
  have h_e5 : e5.Legal := by
    dsimp only [e5]
    repeat' first | with_reducible assumption | with_reducible apply State.edge_legal
  (try clear_value e1)
  (try clear_value e2)
  (try clear_value e3)
  (try clear_value e4)
  (try clear_value e5)
  repeat'
    first
    | with_reducible assumption | with_reducible apply State.traceStop_legal
    | with_reducible apply State.legal_ite

theorem State.traceEnter_legal {s : State} {c : Fin 12} {p : BitVec 4} {pc : DWord} {level : Level} (h_s : s.Legal) :
    (State.traceEnter s c p pc level).Legal := by
  unfold State.traceEnter
  extract_lets e1 e2 e3 e4
  have h_e3 : e3.Legal := by
    dsimp only [e3]
    repeat' first | with_reducible assumption | with_reducible apply State.traceLeave_legal
  have h_e4 : e4.Legal := by
    dsimp only [e4]
    repeat' first | with_reducible assumption | with_reducible apply State.packet_legal
  (try clear_value e1)
  (try clear_value e2)
  (try clear_value e3)
  (try clear_value e4)
  repeat'
    first
    | with_reducible assumption | with_reducible apply State.modTsec_legal
    | with_reducible apply State.legal_ite

theorem State.traceBranch_legal {s : State} {c : Fin 12} {p : BitVec 4} {taken : Bool} (h_s : s.Legal) :
    (State.traceBranch s c p taken).Legal := by
  unfold State.traceBranch
  extract_lets e1 e2
  have h_e2 : e2.Legal := by
    dsimp only [e2]
    repeat' first | with_reducible assumption | with_reducible apply State.modTsec_legal
  (try clear_value e1)
  (try clear_value e2)
  repeat'
    first
    | with_reducible assumption | with_reducible apply State.flushAtom_legal
    | with_reducible apply State.legal_ite

theorem State.traceEvent_legal {s : State} {c : Fin 12} {p : BitVec 4} {e : TraceEv} (h_s : s.Legal) :
    (State.traceEvent s c p e).Legal := by
  unfold State.traceEvent
  repeat'
    first
    | with_reducible assumption | with_reducible apply State.traceBranch_legal
    | with_reducible apply State.packet_legal | with_reducible apply State.trigger_legal
    | with_reducible apply State.legal_ite | split

theorem State.traceRetire_legal {s : State} {c : Fin 12} {pc : DWord} {level : Level} {mptag : BitVec 4} {evs : List TraceEv} (h_s : s.Legal) :
    (State.traceRetire s c pc level mptag evs).Legal := by
  unfold State.traceRetire
  repeat'
    first
    | with_reducible assumption | intro _ | with_reducible apply State.traceEnter_legal
    | with_reducible apply State.trigger_legal | with_reducible apply State.traceEvent_legal
    | with_reducible apply State.legal_ite | with_reducible apply State.legal_foldl | split

theorem State.traceExc_legal {s : State} {c : Fin 12} {cause : Word} (h_s : s.Legal) : (State.traceExc s c cause).Legal := by
  unfold State.traceExc
  repeat'
    first
    | with_reducible assumption | with_reducible apply State.packet_legal
    | with_reducible apply State.legal_ite | split

theorem State.traceBeatEnd_legal {s : State} (h_s : s.Legal) : (State.traceBeatEnd s).Legal := by
  unfold State.traceBeatEnd
  repeat'
    first
    | with_reducible assumption | intro _ | with_reducible apply State.traceLeave_legal
    | with_reducible apply State.legal_ite | with_reducible apply State.legal_foldl | split

theorem State.traceSync_legal {s : State} (h_s : s.Legal) : (State.traceSync s).Legal := by
  unfold State.traceSync
  repeat'
    first
    | with_reducible assumption | intro _ | with_reducible apply State.modTsec_legal
    | with_reducible apply State.legal_ite | with_reducible apply State.legal_foldl

theorem State.writePtCtl_legal {s : State} {sec : Fin 3} {p : BitVec 4} {v : Word} (h_s : s.Legal) :
    (State.writePtCtl s sec p v).Legal := by
  unfold State.writePtCtl
  repeat'
    first
    | with_reducible assumption | with_reducible apply State.modTsec_legal
    | with_reducible apply State.modPart_legal | with_reducible apply State.traceLeaveAll_legal
    | with_reducible apply State.legal_ite

theorem State.readRdata_legal {s : State} {x : TracePath} (h_s : s.Legal) : (State.readRdata s x).1.Legal := by
  unfold State.readRdata
  repeat' first | with_reducible assumption | with_reducible apply State.modPart_legal | split | dsimp only

theorem State.ptRead_legal {s : State} {x : TracePath} {off : Nat} (h_s : s.Legal) : (State.ptRead s x off).1.Legal := by
  unfold State.ptRead
  repeat' first | with_reducible assumption | with_reducible apply State.readRdata_legal | split

theorem State.ptWrite_legal {s : State} {w : Initiator} {x : TracePath} {off : Nat} {v : Word} (h_s : s.Legal) :
    (State.ptWrite s w x off v).Legal := by
  unfold State.ptWrite
  repeat'
    first
    | with_reducible assumption | with_reducible apply State.writePtCtl_legal
    | with_reducible apply State.modPart_legal | with_reducible apply State.trigger_legal
    | with_reducible apply State.legal_ite | split

theorem State.writeStrmLines_legal {s : State} {sec : Fin 3} {p : BitVec 4} {v : Word} (h_s : s.Legal) :
    (State.writeStrmLines s sec p v).Legal := by
  unfold State.writeStrmLines
  repeat'
    first
    | with_reducible assumption | with_reducible apply State.modPart_legal
    | with_reducible apply State.modTsec_legal | with_reducible apply State.legal_ite

theorem State.traceBlockRead_legal {s : State} {w : Initiator} {sec : Fin 3} {off : Nat} (h_s : s.Legal) :
    (State.traceBlockRead s w sec off).1.Legal := by
  unfold State.traceBlockRead
  repeat' first | with_reducible assumption | with_reducible apply State.ptRead_legal | split

theorem State.traceBlockWrite_legal {s : State} {w : Initiator} {sec : Fin 3} {off : Nat} {v : Word} (h_s : s.Legal) :
    (State.traceBlockWrite s w sec off v).Legal := by
  unfold State.traceBlockWrite
  repeat'
    first
    | with_reducible assumption | with_reducible apply State.ptWrite_legal
    | with_reducible apply State.modTsec_legal | with_reducible apply State.modPart_legal
    | with_reducible apply State.writeStrmLines_legal | with_reducible apply State.legal_ite | split

theorem State.traceRead_legal {s : State} {w : Initiator} {off : Nat} (h_s : s.Legal) : (State.traceRead s w off).1.Legal := by
  unfold State.traceRead
  repeat'
    first
    | with_reducible assumption | with_reducible apply State.traceBlockRead_legal
    | with_reducible apply State.ptRead_legal | split

theorem State.traceWrite_legal {s : State} {w : Initiator} {off : Nat} {v : Word} (h_s : s.Legal) :
    (State.traceWrite s w off v).Legal := by
  unfold State.traceWrite
  repeat'
    first
    | with_reducible assumption | with_reducible apply State.traceBlockWrite_legal
    | with_reducible apply State.ptWrite_legal | with_reducible apply State.legal_ite | split

end Sys2Proof.Machine
end

