-- ==== Sys2Proof/Laws/LegalNet.lean ====
section
/-! SUPPORT. A legal state stays legal: Net. -/
set_option Elab.async false
set_option linter.all false
namespace Sys2Proof.Machine

theorem State.modEth_legal {s : State} {n : Fin 2} {f : Eth → Eth} (h_s : s.Legal) : (State.modEth s n f).Legal := by
  unfold State.modEth
  repeat' first | with_reducible assumption | simp only [State.legal_with]

theorem State.ethReceive_legal {s : State} {n : Fin 2} {bs : List Byte} {fcsOk : Bool} (h_s : s.Legal) :
    (State.ethReceive s n bs fcsOk).Legal := by
  unfold State.ethReceive
  extract_lets e1 e2
  try clear_value e1
  try clear_value e2
  repeat'
    first
    | with_reducible assumption | intro _ | with_reducible apply State.dmaDone_legal
    | with_reducible apply State.dmaRelease_legal | with_reducible apply State.domainWrite_legal
    | with_reducible apply State.grant_legal | with_reducible apply State.modEth_legal
    | with_reducible apply State.legal_core | with_reducible apply State.legal_cdr
    | simp only [State.legal_with, VoiceCore.legal_with, State.legal_with_cdr_fields]
    | with_reducible apply State.legal_ite | split | dsimp only

theorem execEthRxFrame_legal {n : Fin 2} {bytes : List Byte} {fcsOk : Bool} {dt : Nat} {s : State} (h_s : s.Legal) :
    Outcome.Legal (execEthRxFrame n bytes fcsOk dt s) := by
  unfold execEthRxFrame
  repeat'
    first
    | with_reducible assumption | intro _ | with_reducible apply ifOn_legal
    | with_reducible apply State.elapse_legal | with_reducible apply State.modEth_legal
    | with_reducible apply State.ethReceive_legal | with_reducible apply State.legal_ite | split

theorem State.ethTxDone_legal {s : State} {n : Fin 2} {at_ : Nat} {w0 : Word} {h : Word}
  {status : Nat} (h_s : s.Legal) :
    (State.ethTxDone s n at_ w0 h status).Legal := by
  unfold State.ethTxDone
  extract_lets e1 e2 e3 e4 e5 e6
  have h_e3 : e3.Legal := by
    dsimp only [e3]
    repeat'
      first
      | with_reducible assumption | intro _ | with_reducible apply State.dmaDone_legal
      | with_reducible apply State.dmaRelease_legal | with_reducible apply State.domainWrite_legal
      | with_reducible apply State.legal_core | with_reducible apply State.legal_cdr
      | simp only [State.legal_with, VoiceCore.legal_with, State.legal_with_cdr_fields]
      | with_reducible apply State.legal_ite | split | dsimp only
  have h_e4 : e4.Legal := by
    dsimp only [e4]
    repeat'
      first
      | with_reducible assumption | intro _ | with_reducible apply State.dmaDone_legal
      | with_reducible apply State.dmaRelease_legal | with_reducible apply State.domainWrite_legal
      | with_reducible apply State.legal_core | with_reducible apply State.legal_cdr
      | simp only [State.legal_with, VoiceCore.legal_with, State.legal_with_cdr_fields]
      | with_reducible apply State.legal_ite | split | dsimp only
  have h_e5 : e5.Legal := by
    dsimp only [e5]
    repeat'
      first
      | with_reducible assumption | intro _ | with_reducible apply State.dmaDone_legal
      | with_reducible apply State.dmaRelease_legal | with_reducible apply State.domainWrite_legal
      | with_reducible apply State.legal_core | with_reducible apply State.legal_cdr
      | simp only [State.legal_with, VoiceCore.legal_with, State.legal_with_cdr_fields]
      | with_reducible apply State.legal_ite | split | dsimp only
  have h_e6 : e6.Legal := by
    dsimp only [e6]
    repeat'
      first
      | with_reducible assumption | intro _ | with_reducible apply State.dmaDone_legal
      | with_reducible apply State.dmaRelease_legal | with_reducible apply State.domainWrite_legal
      | with_reducible apply State.legal_core | with_reducible apply State.legal_cdr
      | simp only [State.legal_with, VoiceCore.legal_with, State.legal_with_cdr_fields]
      | with_reducible apply State.legal_ite | split | dsimp only
  try clear_value e1
  try clear_value e2
  try clear_value e3
  try clear_value e4
  try clear_value e5
  try clear_value e6
  repeat'
    first
    | with_reducible assumption | intro _ | with_reducible apply State.dmaDone_legal
    | with_reducible apply State.dmaRelease_legal | with_reducible apply State.domainWrite_legal
    | with_reducible apply State.legal_core | with_reducible apply State.legal_cdr
    | simp only [State.legal_with, VoiceCore.legal_with, State.legal_with_cdr_fields]
    | with_reducible apply State.legal_ite | split | dsimp only

theorem State.ethTxStop_legal {s : State} {n : Fin 2} (h_s : s.Legal) :
    (State.ethTxStop s n).Legal := by
  unfold State.ethTxStop
  repeat'
    first
    | with_reducible assumption | intro _ | with_reducible apply State.modEth_legal
    | with_reducible apply State.legal_core | with_reducible apply State.legal_cdr
    | simp only [State.legal_with, VoiceCore.legal_with, State.legal_with_cdr_fields]
    | with_reducible apply State.legal_ite | split | dsimp only

theorem execEthTxFrame_legal {n : Fin 2} {dt : Nat} {ups : List Upset} {s : State} (h_s : s.Legal) :
    Outcome.Legal (execEthTxFrame n dt ups s) := by
  unfold execEthTxFrame
  repeat'
    first
    | with_reducible assumption | intro _ | with_reducible apply Outcome.legal_next
    | refine State.domainRead_legal (by assumption) ?_ | with_reducible apply State.elapse_legal
    | with_reducible apply State.ethTxDone_legal | with_reducible apply State.ethTxStop_legal
    | with_reducible apply State.upsets_legal | with_reducible apply ifOn_legal
    | with_reducible apply State.legal_core | with_reducible apply State.legal_cdr
    | simp only [State.legal_with, VoiceCore.legal_with, State.legal_with_cdr_fields]
    | with_reducible apply State.legal_ite | split | dsimp only

theorem State.ethWrite_legal {s : State} {n : Fin 2} {off : Nat} {v : Word} (h_s : s.Legal) :
    (State.ethWrite s n off v).Legal := by
  unfold State.ethWrite
  repeat'
    first
    | with_reducible assumption | with_reducible apply State.modEth_legal
    | with_reducible apply State.legal_ite

theorem execMdioCmd_legal {w : Initiator} {n : Fin 2} {v : Word} {s : State} (h_s : s.Legal) :
    Outcome.Legal (execMdioCmd w n v s) := by
  unfold execMdioCmd
  repeat'
    first
    | with_reducible assumption | intro _ | with_reducible apply ifActs_legal
    | with_reducible apply State.ethWrite_legal

theorem execMdioDone_legal {n : Fin 2} {data : BitVec 16} {s : State} (h_s : s.Legal) :
    Outcome.Legal (execMdioDone n data s) := by
  unfold execMdioDone
  repeat'
    first
    | with_reducible assumption | intro _ | with_reducible apply ifOn_legal
    | with_reducible apply State.modEth_legal

theorem State.modCan_legal {s : State} {n : Fin 4} {f : Can → Can} (h_s : s.Legal) : (State.modCan s n f).Legal := by
  unfold State.modCan
  repeat' first | with_reducible assumption | simp only [State.legal_with]

theorem State.canKeep_legal {s : State} {n : Fin 4} {fr : CanFrame} {filter : Nat} (h_s : s.Legal) :
    (State.canKeep s n fr filter).Legal := by
  unfold State.canKeep
  extract_lets e1
  try clear_value e1
  repeat'
    first
    | with_reducible assumption | intro _ | with_reducible apply State.dmaDone_legal
    | with_reducible apply State.domainWrite_legal | with_reducible apply State.modCan_legal
    | with_reducible apply State.legal_core | with_reducible apply State.legal_cdr
    | simp only [State.legal_with, VoiceCore.legal_with, State.legal_with_cdr_fields]
    | with_reducible apply State.legal_ite | split | dsimp only

theorem execCanRxFrame_legal {n : Fin 4} {fr : CanFrame} {dt : Nat} {s : State} (h_s : s.Legal) :
    Outcome.Legal (execCanRxFrame n fr dt s) := by
  unfold execCanRxFrame
  repeat'
    first
    | with_reducible assumption | intro _ | with_reducible apply ifOn_legal
    | with_reducible apply State.elapse_legal | with_reducible apply State.modCan_legal
    | with_reducible apply State.canKeep_legal | with_reducible apply State.legal_ite | split | dsimp only

theorem State.canDone_legal {s : State} {n : Fin 4} {i : Fin 8} {status : BitVec 3} (h_s : s.Legal) :
    (State.canDone s n i status).Legal := by
  unfold State.canDone
  extract_lets e1 e2
  have h_e2 : e2.Legal := by
    dsimp only [e2]
    repeat' first | with_reducible assumption | with_reducible apply State.modCan_legal
  (try clear_value e1)
  (try clear_value e2)
  repeat'
    first
    | with_reducible assumption | with_reducible apply State.dmaRelease_legal
    | with_reducible apply State.legal_ite

theorem State.canOnBus_legal {s : State} {n : Fin 4} {i : Fin 8} {o : CanOutcome} (h_s : s.Legal) :
    (State.canOnBus s n i o).Legal := by
  unfold State.canOnBus
  extract_lets e1 e2
  have h_e2 : e2.Legal := by
    dsimp only [e2]
    repeat' first | with_reducible assumption | with_reducible apply State.modCan_legal
  (try clear_value e1)
  (try clear_value e2)
  repeat'
    first
    | with_reducible assumption | with_reducible apply State.modCan_legal
    | with_reducible apply State.canDone_legal | split

theorem execCanTxFrame_legal {n : Fin 4} {o : CanOutcome} {dt : Nat} {ups : List Upset} {s : State} (h_s : s.Legal) :
    Outcome.Legal (execCanTxFrame n o dt ups s) := by
  unfold execCanTxFrame
  repeat'
    first
    | with_reducible assumption | intro _ | with_reducible apply ifOn_legal
    | with_reducible apply State.elapse_legal | with_reducible apply State.canDone_legal
    | with_reducible apply State.canOnBus_legal | with_reducible apply State.upsets_legal
    | refine State.domainRead_legal (by assumption) ?_ | with_reducible apply State.legal_ite | split | dsimp only

theorem execBusOffRecovery_legal {n : Fin 4} {s : State} (h_s : s.Legal) : Outcome.Legal (execBusOffRecovery n s) := by
  unfold execBusOffRecovery
  repeat'
    first
    | with_reducible assumption | intro _ | with_reducible apply ifOn_legal
    | with_reducible apply State.modCan_legal

theorem State.rxhPush_legal {s : State} {n : Fin 4} {h : Word} (h_s : s.Legal) : (State.rxhPush s n h).Legal := by
  unfold State.rxhPush
  repeat'
    first
    | with_reducible assumption | with_reducible apply State.modCan_legal
    | with_reducible apply State.legal_ite

theorem State.rxqLatch_legal {s : State} {w : Initiator} {n : Fin 4} (h_s : s.Legal) : (State.rxqLatch s w n).1.Legal := by
  unfold State.rxqLatch
  repeat' first | with_reducible assumption | with_reducible apply State.modCan_legal

theorem State.canRead_legal {s : State} {w : Initiator} {n : Fin 4} {off : Nat} (h_s : s.Legal) :
    (State.canRead s w n off).1.Legal := by
  unfold State.canRead
  repeat' first | with_reducible assumption | with_reducible apply State.rxqLatch_legal | split

theorem State.canTxCtl_legal {s : State} {n : Fin 4} {i : Fin 8} {v : Word} (h_s : s.Legal) :
    (State.canTxCtl s n i v).Legal := by
  unfold State.canTxCtl
  extract_lets e1
  have h_e1 : e1.Legal := by
    dsimp only [e1]
    repeat' first | with_reducible assumption | with_reducible apply State.modCan_legal
  (try clear_value e1)
  repeat'
    first
    | with_reducible assumption | with_reducible apply State.canDone_legal
    | with_reducible apply State.legal_ite

theorem State.canWrite_legal {s : State} {n : Fin 4} {off : Nat} {v : Word} (h_s : s.Legal) :
    (State.canWrite s n off v).Legal := by
  unfold State.canWrite
  repeat'
    first
    | with_reducible assumption | with_reducible apply State.modCan_legal
    | with_reducible apply State.canTxCtl_legal | with_reducible apply State.rxhPush_legal
    | with_reducible apply State.legal_ite | split

theorem execCanReq_legal {w : Initiator} {n : Fin 4} {slot : Fin 8} {s : State} (h_s : s.Legal) :
    Outcome.Legal (execCanReq w n slot s) := by
  unfold execCanReq
  repeat'
    first
    | with_reducible assumption | intro _ | with_reducible apply ifActs_legal
    | with_reducible apply State.canWrite_legal

theorem execCanCancel_legal {w : Initiator} {n : Fin 4} {slot : Fin 8} {s : State} (h_s : s.Legal) :
    Outcome.Legal (execCanCancel w n slot s) := by
  unfold execCanCancel
  repeat'
    first
    | with_reducible assumption | intro _ | with_reducible apply ifActs_legal
    | with_reducible apply State.canWrite_legal

theorem execCanRec_legal {w : Initiator} {n : Fin 4} {s : State} (h_s : s.Legal) : Outcome.Legal (execCanRec w n s) := by
  unfold execCanRec
  repeat'
    first
    | with_reducible assumption | intro _ | with_reducible apply ifActs_legal
    | with_reducible apply State.canWrite_legal

theorem execRxhPush_legal {w : Initiator} {n : Fin 4} {v : Word} {s : State} (h_s : s.Legal) :
    Outcome.Legal (execRxhPush w n v s) := by
  unfold execRxhPush
  repeat'
    first
    | with_reducible assumption | intro _ | with_reducible apply ifActs_legal
    | with_reducible apply State.canWrite_legal

theorem execRxqIdLoRead_legal {w : Initiator} {n : Fin 4} {s : State} (h_s : s.Legal) :
    Outcome.Legal (execRxqIdLoRead w n s) := by
  unfold execRxqIdLoRead
  repeat'
    first
    | with_reducible assumption | intro _ | with_reducible apply ifActs_legal
    | with_reducible apply State.canRead_legal

theorem execRxqPop_legal {w : Initiator} {n : Fin 4} {s : State} (h_s : s.Legal) : Outcome.Legal (execRxqPop w n s) := by
  unfold execRxqPop
  repeat'
    first
    | with_reducible assumption | intro _ | with_reducible apply ifActs_legal
    | with_reducible apply State.canWrite_legal

end Sys2Proof.Machine
end

