-- ==== Sys2Proof/Laws/LegalSerial.lean ====
section
/-! SUPPORT. A legal state stays legal: Serial. -/
set_option Elab.async false
set_option linter.all false
namespace Sys2Proof.Machine

theorem State.modSpi_legal {s : State} {n : Fin 4} {f : Spi → Spi} (h_s : s.Legal) : (State.modSpi s n f).Legal := by
  unfold State.modSpi
  repeat' first | with_reducible assumption | simp only [State.legal_with]

theorem State.spiRead_legal {s : State} {n : Fin 4} {off : Nat} (h_s : s.Legal) : (State.spiRead s n off).1.Legal := by
  unfold State.spiRead
  repeat' first | with_reducible assumption | with_reducible apply State.modSpi_legal | split

theorem execSpiTx_legal {w : Initiator} {n : Fin 4} {v : Word} {s : State} (h_s : s.Legal) :
    Outcome.Legal (execSpiTx w n v s) := by
  unfold execSpiTx
  repeat'
    first
    | with_reducible assumption | intro _ | with_reducible apply ifActs_legal
    | with_reducible apply State.modSpi_legal

theorem execSpiFrameDone_legal {n : Fin 4} {v : Word} {s : State} (h_s : s.Legal) : Outcome.Legal (execSpiFrameDone n v s) := by
  unfold execSpiFrameDone
  repeat'
    first
    | with_reducible assumption | intro _ | with_reducible apply ifOn_legal
    | with_reducible apply State.modSpi_legal

theorem execSpiRx_legal {w : Initiator} {n : Fin 4} {s : State} (h_s : s.Legal) : Outcome.Legal (execSpiRx w n s) := by
  unfold execSpiRx
  repeat'
    first
    | with_reducible assumption | intro _ | with_reducible apply ifActs_legal
    | with_reducible apply State.spiRead_legal

theorem State.modI2c_legal {s : State} {n : Fin 4} {f : I2c → I2c} (h_s : s.Legal) : (State.modI2c s n f).Legal := by
  unfold State.modI2c
  repeat' first | with_reducible assumption | simp only [State.legal_with]

theorem State.i2cRead_legal {s : State} {n : Fin 4} {off : Nat} (h_s : s.Legal) : (State.i2cRead s n off).1.Legal := by
  unfold State.i2cRead
  repeat' first | with_reducible assumption | with_reducible apply State.modI2c_legal | split

theorem execI2cStart_legal {n : Fin 4} {ack : Bool} {arb : Bool} {s : State} (h_s : s.Legal) :
    Outcome.Legal (execI2cStart n ack arb s) := by
  unfold execI2cStart
  repeat'
    first
    | with_reducible assumption | intro _ | with_reducible apply ifOn_legal
    | with_reducible apply State.modI2c_legal

theorem execI2cWrite_legal {n : Fin 4} {ack : Bool} {arb : Bool} {s : State} (h_s : s.Legal) :
    Outcome.Legal (execI2cWrite n ack arb s) := by
  unfold execI2cWrite
  repeat'
    first
    | with_reducible assumption | intro _ | with_reducible apply ifOn_legal
    | with_reducible apply State.modI2c_legal

theorem execI2cReadAck_legal {n : Fin 4} {b : Byte} {s : State} (h_s : s.Legal) : Outcome.Legal (execI2cReadAck n b s) := by
  unfold execI2cReadAck
  repeat'
    first
    | with_reducible assumption | intro _ | with_reducible apply ifOn_legal
    | with_reducible apply State.modI2c_legal

theorem execI2cReadNack_legal {n : Fin 4} {b : Byte} {s : State} (h_s : s.Legal) : Outcome.Legal (execI2cReadNack n b s) := by
  unfold execI2cReadNack
  repeat'
    first
    | with_reducible assumption | intro _ | with_reducible apply ifOn_legal
    | with_reducible apply State.modI2c_legal

theorem execI2cStop_legal {n : Fin 4} {s : State} (h_s : s.Legal) : Outcome.Legal (execI2cStop n s) := by
  unfold execI2cStop
  repeat'
    first
    | with_reducible assumption | intro _ | with_reducible apply ifOn_legal
    | with_reducible apply State.modI2c_legal

theorem execI2cAddressed_legal {n : Fin 4} {read : Bool} {s : State} (h_s : s.Legal) :
    Outcome.Legal (execI2cAddressed n read s) := by
  unfold execI2cAddressed
  repeat'
    first
    | with_reducible assumption | intro _ | with_reducible apply ifOn_legal
    | with_reducible apply State.modI2c_legal

theorem execI2cTargetByte_legal {n : Fin 4} {read : Bool} {b : Byte} {s : State} (h_s : s.Legal) :
    Outcome.Legal (execI2cTargetByte n read b s) := by
  unfold execI2cTargetByte
  repeat'
    first
    | with_reducible assumption | intro _ | with_reducible apply ifOn_legal
    | with_reducible apply State.modI2c_legal

theorem execI2cRx_legal {w : Initiator} {n : Fin 4} {s : State} (h_s : s.Legal) : Outcome.Legal (execI2cRx w n s) := by
  unfold execI2cRx
  repeat'
    first
    | with_reducible assumption | intro _ | with_reducible apply ifActs_legal
    | with_reducible apply State.i2cRead_legal

theorem execI2cCmd_legal {w : Initiator} {n : Fin 4} {v : Word} {s : State} (h_s : s.Legal) :
    Outcome.Legal (execI2cCmd w n v s) := by
  unfold execI2cCmd
  repeat'
    first
    | with_reducible assumption | intro _ | with_reducible apply ifActs_legal
    | with_reducible apply State.modI2c_legal

theorem State.modUart_legal {s : State} {n : Fin 4} {f : Uart → Uart} (h_s : s.Legal) : (State.modUart s n f).Legal := by
  unfold State.modUart
  repeat' first | with_reducible assumption | simp only [State.legal_with]

theorem State.uartRead_legal {s : State} {n : Fin 4} {off : Nat} (h_s : s.Legal) : (State.uartRead s n off).1.Legal := by
  unfold State.uartRead
  repeat' first | with_reducible assumption | with_reducible apply State.modUart_legal | split

theorem execUartTx_legal {w : Initiator} {n : Fin 4} {v : Word} {s : State} (h_s : s.Legal) :
    Outcome.Legal (execUartTx w n v s) := by
  unfold execUartTx
  repeat'
    first
    | with_reducible assumption | intro _ | with_reducible apply ifActs_legal
    | with_reducible apply State.modUart_legal

theorem execUartByteReceived_legal {n : Fin 4} {b : Byte} {perr : Bool} {ferr : Bool} {brk : Bool} {s : State} (h_s : s.Legal) :
    Outcome.Legal (execUartByteReceived n b perr ferr brk s) := by
  unfold execUartByteReceived
  repeat'
    first
    | with_reducible assumption | intro _ | with_reducible apply ifOn_legal
    | with_reducible apply State.modUart_legal

theorem execUartRx_legal {w : Initiator} {n : Fin 4} {s : State} (h_s : s.Legal) : Outcome.Legal (execUartRx w n s) := by
  unfold execUartRx
  repeat'
    first
    | with_reducible assumption | intro _ | with_reducible apply ifActs_legal
    | with_reducible apply State.uartRead_legal

theorem execUartByteTransmitted_legal {n : Fin 4} {s : State} (h_s : s.Legal) : Outcome.Legal (execUartByteTransmitted n s) := by
  unfold execUartByteTransmitted
  repeat'
    first
    | with_reducible assumption | intro _ | with_reducible apply ifOn_legal
    | with_reducible apply State.modUart_legal

theorem State.xspiDone_legal {s : State} {r : Fin 2} {w0 : Word} {status : Nat} (h_s : s.Legal) :
    (State.xspiDone s r w0 status).Legal := by
  unfold State.xspiDone
  repeat'
    first
    | with_reducible assumption | intro _ | with_reducible apply State.dmaDone_legal
    | with_reducible apply State.domainWrite_legal | with_reducible apply State.legal_core
    | with_reducible apply State.legal_cdr
    | simp only [State.legal_with, VoiceCore.legal_with, State.legal_with_cdr_fields]
    | with_reducible apply State.legal_ite | split | dsimp only

theorem State.xspiStop_legal {s : State} (h_s : s.Legal) :
    (State.xspiStop s).Legal := by
  unfold State.xspiStop
  repeat'
    first
    | with_reducible assumption | intro _ | with_reducible apply State.legal_core
    | with_reducible apply State.legal_cdr
    | simp only [State.legal_with, VoiceCore.legal_with, State.legal_with_cdr_fields]
    | with_reducible apply State.legal_ite | split | dsimp only

theorem State.xspiRun_legal {s : State} {op : Nat} {f : State → Fin 2 → XDesc → State × Nat} (h_s : s.Legal)
    (h_f : ∀ s r x, s.Legal → (f s r x).1.Legal) : (State.xspiRun s op f).Legal := by
  unfold State.xspiRun
  split
  · exact h_s
  · split
    · exact h_s
    · split
      · exact State.xspiStop_legal h_s
      · rename_i d hd
        have h : d.1.Legal := State.domainRead_legal (t := d.1) (ws := d.2) hd h_s
        dsimp only
        split
        · exact State.xspiStop_legal h
        · split
          · exact State.xspiDone_legal (h_f _ _ _ h)
          · split
            · exact State.xspiDone_legal h
            · exact h_s

theorem State.xspiToMemory_legal {s : State} {r : Fin 2} {x : XDesc} {o : XOutcome} {bytes : List Byte} (h_s : s.Legal) :
    (State.xspiToMemory s r x o bytes).1.Legal := by
  unfold State.xspiToMemory
  extract_lets e1 e2 e3
  have h_e2 : e2.1.Legal := by
    dsimp only [e2]
    repeat' first | with_reducible assumption | with_reducible apply State.grant_legal
  have h_e3 : e3.Legal := by
    dsimp only [e3]
    repeat' first | with_reducible assumption | with_reducible apply State.domainWrite_legal
  (try clear_value e1)
  (try clear_value e2)
  (try clear_value e3)
  repeat' first | with_reducible assumption | with_reducible apply State.domainWrite_legal | split

theorem execXspiRead_legal {o : XOutcome} {ups : List Upset} {s : State} (h_s : s.Legal) :
    Outcome.Legal (execXspiRead o ups s) := by
  unfold execXspiRead
  repeat'
    first
    | with_reducible assumption | intro _ | with_reducible apply ifOn_legal
    | with_reducible apply State.xspiRun_legal | with_reducible apply State.upsets_legal
    | with_reducible apply State.xspiToMemory_legal

theorem programFlash_wf {m : Memory} {a : Nat} {bs : List Byte} (h : Memory.wf flashDefault m = true) :
    Memory.wf flashDefault (programFlash m a bs) = true := by
  induction bs generalizing m a with
  | nil => exact h
  | cons b bs ih => exact ih (Memory.setByte_wf _ _ h)

theorem execXspiProgram_legal {o : XOutcome} {ups : List Upset} {s : State} (h_s : s.Legal) :
    Outcome.Legal (execXspiProgram o ups s) := by
  refine ifOn_legal h_s fun s h => State.xspiRun_legal (State.upsets_legal h) fun s r x h => ?_
  split
  · exact h
  · split
    · exact h
    · rename_i d hd
      have hd : d.1.Legal := State.domainRead_legal (t := d.1) (ws := d.2) hd h
      split
      · exact hd
      · split
        · exact hd
        · exact State.legal_with_xflash hd (programFlash_wf hd.xflash)

theorem eraseFlash_wf {m : Memory} {a n : Nat} (h : Memory.wf flashDefault m = true) : Memory.wf flashDefault (eraseFlash m a n) = true :=
  Memory.filter_wf m none _ h

/-- Erasing keeps a legal state, for any size. -/
theorem eraseRun_legal {o : XOutcome} {op n : Nat} {s : State} (h : s.Legal) : (s.xspiRun op fun s _ x =>
    if s.xCode o ≠ 0 then (s, s.xCode o) else ({ s with xflash := eraseFlash s.xflash x.addr n }, 0)).Legal :=
  State.xspiRun_legal h fun s r x h => by
    split
    · exact h
    · exact State.legal_with_xflash h (eraseFlash_wf h.xflash)

theorem execXspiErase4k_legal {o : XOutcome} {s : State} (h_s : s.Legal) : Outcome.Legal (execXspiErase4k o s) := by
  unfold execXspiErase4k
  exact ifOn_legal h_s fun s h => eraseRun_legal h

theorem execXspiErase64k_legal {o : XOutcome} {s : State} (h_s : s.Legal) : Outcome.Legal (execXspiErase64k o s) := by
  unfold execXspiErase64k
  exact ifOn_legal h_s fun s h => eraseRun_legal h

theorem execXspiReadSfdp_legal {o : XOutcome} {bytes : List Byte} {s : State} (h_s : s.Legal) :
    Outcome.Legal (execXspiReadSfdp o bytes s) := by
  unfold execXspiReadSfdp
  repeat'
    first
    | with_reducible assumption | intro _ | with_reducible apply ifOn_legal
    | with_reducible apply State.xspiRun_legal | with_reducible apply State.xspiToMemory_legal

theorem State.xspiRegWrite_legal {s : State} {w : Initiator} {off : Nat} {v : Word} (h_s : s.Legal) :
    (State.xspiRegWrite s w off v).Legal := by
  unfold State.xspiRegWrite
  repeat' first | with_reducible assumption | simp only [State.legal_with]

end Sys2Proof.Machine
end

