-- ==== Sys2Proof/Laws/LegalPins.lean ====
section
/-! SUPPORT. A legal state stays legal: Pins. -/
set_option Elab.async false
set_option linter.all false
namespace Sys2Proof.Machine

theorem State.modGpio_legal {s : State} {f : Gpio → Gpio} (h_s : s.Legal) : (State.modGpio s f).Legal := by
  unfold State.modGpio
  repeat' first | with_reducible assumption | simp only [State.legal_with]

theorem State.gpioWrite_legal {s : State} {w : Initiator} {off : Nat} {v : Word} (h_s : s.Legal) :
    (State.gpioWrite s w off v).Legal := by
  unfold State.gpioWrite
  repeat' first | with_reducible assumption | with_reducible apply State.modGpio_legal

theorem execGpioSet_legal {w : Initiator} {n : Fin 3} {v : Word} {s : State} (h_s : s.Legal) :
    Outcome.Legal (execGpioSet w n v s) := by
  unfold execGpioSet
  repeat'
    first
    | with_reducible assumption | intro _ | with_reducible apply ifActs_legal
    | with_reducible apply State.gpioWrite_legal

theorem execGpioClr_legal {w : Initiator} {n : Fin 3} {v : Word} {s : State} (h_s : s.Legal) :
    Outcome.Legal (execGpioClr w n v s) := by
  unfold execGpioClr
  repeat'
    first
    | with_reducible assumption | intro _ | with_reducible apply ifActs_legal
    | with_reducible apply State.gpioWrite_legal

theorem execGpioSafeWrite_legal {w : Initiator} {n : Fin 6} {v : Word} {s : State} (h_s : s.Legal) :
    Outcome.Legal (execGpioSafeWrite w n v s) := by
  unfold execGpioSafeWrite
  repeat'
    first
    | with_reducible assumption | intro _ | with_reducible apply ifActs_legal
    | with_reducible apply State.gpioWrite_legal

theorem State.pinTakes_legal {s : State} {pin : Fin 64} {level : Bool} (h_s : s.Legal) :
    (State.pinTakes s pin level).Legal := by
  unfold State.pinTakes
  repeat'
    first
    | with_reducible assumption | intro _ | with_reducible apply State.edge_legal
    | with_reducible apply State.modGpio_legal | with_reducible apply State.legal_core
    | with_reducible apply State.legal_cdr
    | simp only [State.legal_with, VoiceCore.legal_with, State.legal_with_cdr_fields]
    | with_reducible apply State.legal_ite | split | dsimp only

theorem ifIo_legal {s : State} {f : State → State} (h_s : s.Legal) (h_f : ∀ s, s.Legal → (f s).Legal) :
    Outcome.Legal (ifIo s f) := Outcome.legal_next (State.legal_ite (h_f s h_s) h_s)

theorem execBankLow_legal {bank : Fin 6} {s : State} (h_s : s.Legal) :
    Outcome.Legal (execBankLow bank s) := by
  unfold execBankLow
  repeat'
    first
    | with_reducible assumption | intro _ | with_reducible apply Outcome.legal_next
    | with_reducible apply State.modGpio_legal | with_reducible apply ifIo_legal
    | with_reducible apply State.legal_core | with_reducible apply State.legal_cdr
    | simp only [State.legal_with, VoiceCore.legal_with, State.legal_with_cdr_fields]
    | with_reducible apply State.legal_ite | split | dsimp only

theorem execBankRailRecovery_legal {bank : Fin 6} {s : State} (h_s : s.Legal) :
    Outcome.Legal (execBankRailRecovery bank s) := by
  unfold execBankRailRecovery
  repeat'
    first
    | with_reducible assumption | intro _ | with_reducible apply Outcome.legal_next
    | with_reducible apply State.modGpio_legal | with_reducible apply ifIo_legal
    | with_reducible apply State.legal_core | with_reducible apply State.legal_cdr
    | simp only [State.legal_with, VoiceCore.legal_with, State.legal_with_cdr_fields]
    | with_reducible apply State.legal_ite | split | dsimp only

theorem State.modPwm_legal {s : State} {k : Fin 16} {f : PwmCh → PwmCh} (h_s : s.Legal) : (State.modPwm s k f).Legal := by
  unfold State.modPwm
  repeat' first | with_reducible assumption | simp only [State.legal_with]

theorem State.modAcmp_legal {s : State} {n : Fin 8} {f : Acmp → Acmp} (h_s : s.Legal) : (State.modAcmp s n f).Legal := by
  unfold State.modAcmp
  repeat' first | with_reducible assumption | simp only [State.legal_with]

theorem State.rampStart_legal {s : State} {k : Fin 16} {at_ : Nat} (h_s : s.Legal) : (State.rampStart s k at_).Legal := by
  unfold State.rampStart
  repeat'
    first
    | with_reducible assumption | intro _ | with_reducible apply State.modAcmp_legal
    | with_reducible apply State.legal_ite | with_reducible apply State.legal_foldl

theorem State.pwmStart_legal {s : State} {k : Fin 16} (h_s : s.Legal) :
    (State.pwmStart s k).Legal := by
  unfold State.pwmStart
  extract_lets e1 e2 e3 e4 e5 e6
  have h_e6 : e6.Legal := by
    dsimp only [e6]
    repeat'
      first
      | with_reducible assumption | intro _ | with_reducible apply State.modPwm_legal
      | with_reducible apply State.rampStart_legal | with_reducible apply State.legal_core
      | with_reducible apply State.legal_cdr
      | simp only [State.legal_with, VoiceCore.legal_with, State.legal_with_cdr_fields]
      | with_reducible apply State.legal_ite | split | dsimp only
  try clear_value e1
  try clear_value e2
  try clear_value e3
  try clear_value e4
  try clear_value e5
  try clear_value e6
  repeat'
    first
    | with_reducible assumption | intro _ | with_reducible apply State.modPwm_legal
    | with_reducible apply State.rampStart_legal | with_reducible apply State.legal_core
    | with_reducible apply State.legal_cdr
    | simp only [State.legal_with, VoiceCore.legal_with, State.legal_with_cdr_fields]
    | with_reducible apply State.legal_ite | split | dsimp only

theorem State.pwmComplement_legal {s : State} {k : Fin 16} (h_s : s.Legal) : (State.pwmComplement s k).Legal := by
  unfold State.pwmComplement
  repeat'
    first
    | with_reducible assumption | with_reducible apply State.modPwm_legal
    | with_reducible apply State.legal_ite

theorem State.cutOne_legal {s : State} {n : Fin 8} {k : Fin 16} (h_s : s.Legal) : (State.cutOne s n k).1.Legal := by
  unfold State.cutOne
  repeat'
    first
    | with_reducible assumption | with_reducible apply State.pwmComplement_legal
    | with_reducible apply State.modPwm_legal | split | dsimp only

theorem State.cutAll_legal {s : State} {n : Fin 8} (h_s : s.Legal) : (State.cutAll s n).Legal := by
  unfold State.cutAll
  extract_lets e1
  have h_e1 : e1.1.Legal := by
    dsimp only [e1]
    repeat'
      first
      | with_reducible assumption | intro _ | with_reducible apply State.cutOne_legal
      | with_reducible apply State.legal_foldl_fst
  (try clear_value e1)
  repeat'
    first
    | with_reducible assumption | with_reducible apply State.edge_legal
    | with_reducible apply State.modAcmp_legal | with_reducible apply State.legal_ite

theorem State.setFlt_legal {s : State} {n : Fin 8} {b : Bool} (h_s : s.Legal) : (State.setFlt s n b).Legal := by
  unfold State.setFlt
  extract_lets e1
  have h_e1 : e1.Legal := by
    dsimp only [e1]
    repeat' first | with_reducible assumption | with_reducible apply State.modAcmp_legal
  (try clear_value e1)
  repeat'
    first
    | with_reducible assumption | with_reducible apply State.cutAll_legal
    | with_reducible apply State.legal_ite

theorem State.acmpSample_legal {s : State} {n : Fin 8} (h_s : s.Legal) : (State.acmpSample s n).Legal := by
  unfold State.acmpSample
  extract_lets e1 e2
  have h_e1 : e1.Legal := by
    dsimp only [e1]
    repeat' first | with_reducible assumption | with_reducible apply State.modAcmp_legal
  (try clear_value e1)
  (try clear_value e2)
  repeat'
    first
    | with_reducible assumption | with_reducible apply State.setFlt_legal
    | with_reducible apply State.legal_ite

theorem State.acmpSamples_legal {s : State} {n : Fin 8} {k : Nat} (h_s : s.Legal) : (State.acmpSamples s n k).Legal := by
  induction k generalizing s with
  | zero => exact h_s
  | succ k ih => exact ih (State.acmpSample_legal (State.until_legal h_s))

theorem execAcmpInputCrossing_legal {n : Fin 8} {mv : Nat} {dt : Nat} {s : State} (h_s : s.Legal) :
    Outcome.Legal (execAcmpInputCrossing n mv dt s) := by
  unfold execAcmpInputCrossing
  repeat'
    first
    | with_reducible assumption | intro _ | with_reducible apply ifOn_legal
    | with_reducible apply State.elapse_legal | with_reducible apply State.modAcmp_legal
    | with_reducible apply State.acmpSamples_legal | with_reducible apply State.until_legal
    | with_reducible apply State.legal_ite

theorem execBlankingEnd_legal {ch : Fin 16} {s : State} (h_s : s.Legal) : Outcome.Legal (execBlankingEnd ch s) := by
  unfold execBlankingEnd
  repeat'
    first
    | with_reducible assumption | intro _ | with_reducible apply ifOn_legal
    | with_reducible apply State.until_legal | with_reducible apply State.cutAll_legal
    | with_reducible apply State.legal_ite | split | dsimp only

theorem execPwmPeriodStart_legal {ch : Fin 16} {s : State} (h_s : s.Legal) : Outcome.Legal (execPwmPeriodStart ch s) := by
  unfold execPwmPeriodStart
  repeat'
    first
    | with_reducible assumption | intro _ | with_reducible apply ifOn_legal
    | with_reducible apply State.pwmStart_legal | with_reducible apply State.until_legal
    | with_reducible apply State.legal_ite

theorem execPwmActiveEnd_legal {ch : Fin 16} {s : State} (h_s : s.Legal) : Outcome.Legal (execPwmActiveEnd ch s) := by
  unfold execPwmActiveEnd
  repeat'
    first
    | with_reducible assumption | intro _ | with_reducible apply ifOn_legal
    | with_reducible apply State.until_legal | with_reducible apply State.modPwm_legal
    | with_reducible apply State.pwmComplement_legal | with_reducible apply State.legal_ite | split | dsimp only

theorem State.pwmSync_legal {s : State} {v : Word} (h_s : s.Legal) : (State.pwmSync s v).Legal := by
  unfold State.pwmSync
  repeat'
    first
    | with_reducible assumption | intro _ | with_reducible apply State.pwmStart_legal
    | with_reducible apply State.legal_ite | with_reducible apply State.legal_foldl

theorem execPwmSync_legal {w : Initiator} {v : Word} {s : State} (h_s : s.Legal) : Outcome.Legal (execPwmSync w v s) := by
  unfold execPwmSync
  repeat'
    first
    | with_reducible assumption | intro _ | with_reducible apply ifActs_legal
    | with_reducible apply State.pwmSync_legal

theorem State.pwmCtl_legal {s : State} {k : Fin 16} {v : Word} (h_s : s.Legal) : (State.pwmCtl s k v).Legal := by
  unfold State.pwmCtl
  extract_lets e1 e2 e3
  have h_e3 : e3.Legal := by
    dsimp only [e3]
    repeat' first | with_reducible assumption | with_reducible apply State.modPwm_legal
  (try clear_value e1)
  (try clear_value e2)
  (try clear_value e3)
  repeat'
    first
    | with_reducible assumption | with_reducible apply State.modPwm_legal
    | with_reducible apply State.pwmStart_legal | with_reducible apply State.legal_ite

theorem State.pwmWrite_legal {s : State} {w : Initiator} {off : Nat} {v : Word} (h_s : s.Legal) :
    (State.pwmWrite s w off v).Legal := by
  unfold State.pwmWrite
  repeat'
    first
    | with_reducible assumption | with_reducible apply State.pwmCtl_legal
    | with_reducible apply State.modPwm_legal | with_reducible apply State.pwmSync_legal | simp only [State.legal_with]
    | with_reducible apply State.legal_ite | split

theorem State.acmpLevel_legal {s : State} {n : Fin 8} {isSlope : Bool} {v : Word} (h_s : s.Legal) :
    (State.acmpLevel s n isSlope v).Legal := by
  unfold State.acmpLevel
  repeat' first | with_reducible assumption | with_reducible apply State.modAcmp_legal

theorem State.acmpCtl_legal {s : State} {n : Fin 8} {v : Word} (h_s : s.Legal) : (State.acmpCtl s n v).Legal := by
  unfold State.acmpCtl
  extract_lets e1 e2 e3
  have h_e2 : e2.Legal := by
    dsimp only [e2]
    repeat' first | with_reducible assumption | with_reducible apply State.modAcmp_legal
  have h_e3 : e3.Legal := by
    dsimp only [e3]
    repeat' first | with_reducible assumption | with_reducible apply State.modAcmp_legal
  (try clear_value e1)
  (try clear_value e2)
  (try clear_value e3)
  repeat'
    first
    | with_reducible assumption | with_reducible apply State.modAcmp_legal
    | with_reducible apply State.setFlt_legal | with_reducible apply State.legal_ite

theorem State.accentWrite_legal {s : State} {w : Initiator} {off : Nat} {v : Word} (h_s : s.Legal) :
    (State.accentWrite s w off v).Legal := by
  unfold State.accentWrite
  repeat'
    first
    | with_reducible assumption | with_reducible apply State.acmpCtl_legal
    | with_reducible apply State.acmpLevel_legal | with_reducible apply State.modAcmp_legal
    | simp only [State.legal_with] | with_reducible apply State.legal_ite | split

theorem execAcmpDacWrite_legal {w : Initiator} {n : Fin 8} {isSlope : Bool} {v : Word} {s : State} (h_s : s.Legal) :
    Outcome.Legal (execAcmpDacWrite w n isSlope v s) := by
  unfold execAcmpDacWrite
  repeat'
    first
    | with_reducible assumption | intro _ | with_reducible apply ifActs_legal
    | with_reducible apply State.accentWrite_legal

theorem execAcmpSettleEnd_legal {n : Fin 8} {s : State} (h_s : s.Legal) : Outcome.Legal (execAcmpSettleEnd n s) := by
  unfold execAcmpSettleEnd
  repeat'
    first
    | with_reducible assumption | intro _ | with_reducible apply ifOn_legal
    | with_reducible apply State.modAcmp_legal | with_reducible apply State.until_legal
    | with_reducible apply State.setFlt_legal | with_reducible apply State.legal_ite | split

theorem execVddaAcmpLow_legal {s : State} (h_s : s.Legal) :
    Outcome.Legal (execVddaAcmpLow s) := by
  unfold execVddaAcmpLow
  repeat'
    first
    | with_reducible assumption | intro _ | with_reducible apply Outcome.legal_next
    | with_reducible apply State.modAcmp_legal | with_reducible apply State.setFlt_legal
    | with_reducible apply ifIo_legal | with_reducible apply State.legal_core | with_reducible apply State.legal_cdr
    | simp only [State.legal_with, VoiceCore.legal_with, State.legal_with_cdr_fields]
    | with_reducible apply State.legal_ite | with_reducible apply State.legal_foldl
    | with_reducible apply State.legal_foldl_fst | split | dsimp only

theorem execVddaAcmpRecovery_legal {s : State} (h_s : s.Legal) :
    Outcome.Legal (execVddaAcmpRecovery s) := by
  unfold execVddaAcmpRecovery
  repeat'
    first
    | with_reducible assumption | intro _ | with_reducible apply Outcome.legal_next
    | with_reducible apply State.modAcmp_legal | with_reducible apply State.setFlt_legal
    | with_reducible apply VoiceCore.settle_legal | with_reducible apply ifIo_legal
    | with_reducible apply State.legal_core | with_reducible apply State.legal_cdr
    | simp only [State.legal_with, VoiceCore.legal_with, State.legal_with_cdr_fields]
    | with_reducible apply State.legal_ite | with_reducible apply State.legal_foldl
    | with_reducible apply State.legal_foldl_fst | split | dsimp only

end Sys2Proof.Machine
end

