-- ==== Sys2Proof/Laws/LegalChorusOps.lean ====
section
/-! SUPPORT. A legal state stays legal: ChorusOps. -/
set_option Elab.async false
set_option linter.all false
namespace Sys2Proof.Machine

theorem State.writeTimer_legal {s : State} {t : Nat} {v : Word} (h_s : s.Legal) : (State.writeTimer s t v).Legal := by
  unfold State.writeTimer
  repeat' first | with_reducible assumption | simp only [State.legal_with]

theorem State.claimAt_legal {s : State} {i : Iface} (h_s : s.Legal) : (State.claimAt s i).1.Legal := by
  unfold State.claimAt
  repeat' first | with_reducible assumption | simp only [State.legal_with] | split

theorem State.completeAt_legal {s : State} {i : Iface} {n : Nat} (h_s : s.Legal) : (State.completeAt s i n).Legal := by
  unfold State.completeAt
  repeat' first | with_reducible assumption | simp only [State.legal_with] | with_reducible apply State.legal_ite

theorem State.chorusHalt_legal {s : State} {c : Fin 12} (h_s : s.Legal) : (State.chorusHalt s c).Legal := by
  unfold State.chorusHalt
  repeat' first | with_reducible assumption | simp only [State.legal_with]

theorem State.raiseBeatExpiry_legal {s : State} {c : Fin 12} {part : BitVec 4} {beat : BitVec 5} (h_s : s.Legal) :
    (State.raiseBeatExpiry s c part beat).Legal := by
  unfold State.raiseBeatExpiry
  repeat'
    first
    | with_reducible assumption | intro _ | with_reducible apply State.legal_modCore
    | with_reducible apply VoiceCore.deferExpiry_legal | simp only [VoiceCore.legal_with] | split

theorem State.pendBeatExpiry_legal {s : State} {c : Fin 12} (h_s : s.Legal) : (State.pendBeatExpiry s c).Legal := by
  unfold State.pendBeatExpiry
  repeat'
    first
    | with_reducible assumption | with_reducible apply State.raiseBeatExpiry_legal
    | with_reducible apply State.legal_ite

theorem State.swdb_legal {s : State} {v : Word} (h_s : s.Legal) : (State.swdb s v).Legal := by
  unfold State.swdb
  repeat'
    first
    | with_reducible assumption | intro _ | with_reducible apply State.edge_legal
    | with_reducible apply State.legal_ite | with_reducible apply State.legal_foldl

theorem State.srcWrite_legal {s : State} {w : Initiator} {t : Nat} {n : Nat} {v : Word} (h_s : s.Legal) :
    (State.srcWrite s w t n v).Legal := by
  unfold State.srcWrite
  repeat'
    first
    | with_reducible assumption | with_reducible apply State.pendBeatExpiry_legal
    | simp only [State.legal_with] | with_reducible apply State.legal_ite | split

theorem State.ifaceRead_legal {s : State} {w : Initiator} {kernel : Bool} {off : Nat} (h_s : s.Legal) :
    (State.ifaceRead s w kernel off).1.Legal := by
  unfold State.ifaceRead
  repeat' first | with_reducible assumption | with_reducible apply State.claimAt_legal | split

theorem State.ifaceWrite_legal {s : State} {w : Initiator} {kernel : Bool} {off : Nat} {v : Word} (h_s : s.Legal) :
    (State.ifaceWrite s w kernel off v).Legal := by
  unfold State.ifaceWrite
  repeat'
    first
    | with_reducible assumption | with_reducible apply State.completeAt_legal
    | with_reducible apply State.writeTimer_legal | simp only [State.legal_with] | with_reducible apply State.legal_ite
    | split

theorem State.chorusRead_legal {s : State} {w : Initiator} {off : Nat} (h_s : s.Legal) : (State.chorusRead s w off).1.Legal := by
  unfold State.chorusRead
  repeat' first | with_reducible assumption | with_reducible apply State.ifaceRead_legal | split

theorem State.chorusWrite_legal {s : State} {w : Initiator} {off : Nat} {v : Word} (h_s : s.Legal) :
    (State.chorusWrite s w off v).Legal := by
  unfold State.chorusWrite
  repeat'
    first
    | with_reducible assumption | with_reducible apply State.ifaceWrite_legal
    | with_reducible apply State.swdb_legal | with_reducible apply State.srcWrite_legal | simp only [State.legal_with]
    | with_reducible apply State.legal_ite | split

end Sys2Proof.Machine
end

