-- ==== Sys2Proof/Laws/LegalBarOps.lean ====
section
/-! SUPPORT. A legal state stays legal: BarOps. -/
set_option Elab.async false
set_option linter.all false
namespace Sys2Proof.Machine

theorem State.modBar_legal {s : State} {f : BarUnit → BarUnit} (h_s : s.Legal) : (State.modBar s f).Legal := by
  unfold State.modBar
  repeat' first | with_reducible assumption | simp only [State.legal_with]

theorem State.adoptConfig_legal {s : State} (h_s : s.Legal) : (State.adoptConfig s).Legal := by
  unfold State.adoptConfig
  repeat'
    first
    | with_reducible assumption | with_reducible apply State.finishOp_legal
    | with_reducible apply State.modBar_legal | with_reducible apply State.legal_ite

theorem State.adoptTable_legal {s : State} {c : Fin 12} (h_s : s.Legal) : (State.adoptTable s c).Legal := by
  unfold State.adoptTable
  repeat'
    first
    | with_reducible assumption | with_reducible apply State.modCbar_legal
    | with_reducible apply State.legal_ite

theorem State.adopt_legal {s : State} (h_s : s.Legal) : (State.adopt s).Legal := by
  unfold State.adopt
  repeat'
    first
    | with_reducible assumption | intro _ | with_reducible apply State.adoptTable_legal
    | with_reducible apply State.adoptConfig_legal | with_reducible apply State.legal_foldl

theorem State.beatChange_legal {s : State} {c : Fin 12} {reason : Bool} (h_s : s.Legal) :
    (State.beatChange s c reason).Legal := by
  unfold State.beatChange
  repeat'
    first
    | with_reducible assumption | with_reducible apply State.edge_legal
    | with_reducible apply State.modCbar_legal

theorem State.enterSlot_legal {s : State} {c : Fin 12} (h_s : s.Legal) : (State.enterSlot s c).Legal := by
  unfold State.enterSlot
  repeat'
    first
    | with_reducible assumption | with_reducible apply State.modCbar_legal
    | with_reducible apply State.legal_ite

theorem State.slotStart_legal {s : State} {c : Fin 12} (h_s : s.Legal) : (State.slotStart s c).Legal := by
  unfold State.slotStart
  extract_lets e1 e2
  have h_e1 : e1.Legal := by
    dsimp only [e1]
    repeat' first | with_reducible assumption | with_reducible apply State.modCbar_legal
  have h_e2 : e2.Legal := by
    dsimp only [e2]
    repeat'
      first
      | with_reducible assumption | with_reducible apply State.enterSlot_legal
      | with_reducible apply State.legal_ite
  (try clear_value e1)
  (try clear_value e2)
  repeat' first | with_reducible assumption | with_reducible apply State.beatChange_legal

theorem State.countOverrun_legal {s : State} {p : BitVec 4} (h_s : s.Legal) : (State.countOverrun s p).Legal := by
  unfold State.countOverrun
  repeat' first | with_reducible assumption | with_reducible apply State.modBar_legal

theorem State.overrun_legal {s : State} {c : Fin 12} {p : BitVec 4} (h_s : s.Legal) : (State.overrun s c p).Legal := by
  unfold State.overrun
  extract_lets e1 e2
  have h_e1 : e1.Legal := by
    dsimp only [e1]
    repeat' first | with_reducible assumption | with_reducible apply State.countOverrun_legal
  have h_e2 : e2.Legal := by
    dsimp only [e2]
    repeat' first | with_reducible assumption | with_reducible apply State.modCbar_legal
  (try clear_value e1)
  (try clear_value e2)
  repeat'
    first
    | with_reducible assumption | with_reducible apply State.raiseBeatExpiry_legal
    | with_reducible apply State.trigger_legal

theorem State.slotMiss_legal {s : State} {c : Fin 12} (h_s : s.Legal) : (State.slotMiss s c).Legal := by
  unfold State.slotMiss
  repeat'
    first
    | with_reducible assumption | with_reducible apply State.modBar_legal
    | with_reducible apply State.modCbar_legal

theorem State.slotEnd_legal {s : State} {c : Fin 12} (h_s : s.Legal) : (State.slotEnd s c).Legal := by
  unfold State.slotEnd
  repeat'
    first
    | with_reducible assumption | with_reducible apply State.slotMiss_legal
    | with_reducible apply State.overrun_legal | with_reducible apply State.legal_ite

theorem State.releaseHolds_legal {s : State} (h_s : s.Legal) : (State.releaseHolds s).Legal := by
  unfold State.releaseHolds
  repeat'
    first
    | with_reducible assumption | intro _ | with_reducible apply State.legal_mapCores
    | simp only [VoiceCore.legal_with]

theorem State.clockJob_legal {s : State} {p : Fin 3 → Bool} {c : Cmd} (h_s : s.Legal) : (State.clockJob s p c).Legal := by
  unfold State.clockJob
  extract_lets e1 e2 e3 e4 e5
  have h_e5 : e5.Legal := by
    dsimp only [e5]
    repeat' first | with_reducible assumption | simp only [State.legal_with]
  (try clear_value e1)
  (try clear_value e2)
  (try clear_value e3)
  (try clear_value e4)
  (try clear_value e5)
  repeat'
    first
    | with_reducible assumption | with_reducible apply State.finish_legal
    | with_reducible apply State.setCmd_legal | with_reducible apply State.legal_ite

theorem State.clockSwitch_legal {s : State} {p : Fin 3 → Bool} (h_s : s.Legal) : (State.clockSwitch s p).Legal := by
  unfold State.clockSwitch
  repeat'
    first
    | with_reducible assumption | intro _ | with_reducible apply State.clockJob_legal
    | with_reducible apply State.legal_foldl

theorem State.endLateSlice_legal {s : State} (h_s : s.Legal) : (State.endLateSlice s).Legal := by
  unfold State.endLateSlice
  repeat'
    first
    | with_reducible assumption | with_reducible apply State.endSlice_legal
    | with_reducible apply State.legal_ite | split

theorem State.beatStarts_legal {s : State} {was : Bool} {len : Nat} (h_s : s.Legal) : (State.beatStarts s was len).Legal := by
  unfold State.beatStarts
  extract_lets e1 e2
  have h_e1 : e1.Legal := by
    dsimp only [e1]
    repeat' first | with_reducible assumption | with_reducible apply State.quietBeat_legal
  have h_e2 : e2.Legal := by
    dsimp only [e2]
    repeat' first | with_reducible assumption | with_reducible apply State.clockSwitch_legal
  (try clear_value e1)
  (try clear_value e2)
  repeat'
    first
    | with_reducible assumption | with_reducible apply State.offerBeat_legal
    | with_reducible apply State.renewCycle_legal

theorem State.startBar_legal {s : State} {was : Bool} (h_s : s.Legal) : (State.startBar s was).Legal := by
  unfold State.startBar
  extract_lets e1 e2 e3 e4 e5 e6 e7 e8
  have h_e1 : e1.Legal := by
    dsimp only [e1]
    repeat' first | with_reducible assumption | with_reducible apply State.adopt_legal
  have h_e6 : e6.Legal := by
    dsimp only [e6]
    repeat' first | with_reducible assumption | with_reducible apply State.modBar_legal
  have h_e7 : e7.Legal := by
    dsimp only [e7]
    repeat'
      first
      | with_reducible assumption | with_reducible apply State.releaseHolds_legal
      | with_reducible apply State.traceSync_legal
  have h_e8 : e8.Legal := by
    dsimp only [e8]
    repeat'
      first
      | with_reducible assumption | intro _ | with_reducible apply State.edge_legal
      | with_reducible apply State.slotStart_legal | with_reducible apply State.legal_foldl
  (try clear_value e1)
  (try clear_value e2)
  (try clear_value e3)
  (try clear_value e4)
  (try clear_value e5)
  (try clear_value e6)
  (try clear_value e7)
  (try clear_value e8)
  repeat'
    first
    | with_reducible assumption | with_reducible apply State.sendSample_legal
    | with_reducible apply State.beatStarts_legal | with_reducible apply State.traceBeatEnd_legal

theorem State.capture_legal {s : State} (h_s : s.Legal) : (State.capture s).Legal := by
  unfold State.capture
  repeat'
    first
    | with_reducible assumption | with_reducible apply State.captureAt_legal
    | with_reducible apply State.modBar_legal | with_reducible apply State.legal_ite

theorem State.stopBars_legal {s : State} {was : Bool} (h_s : s.Legal) :
    (State.stopBars s was).Legal := by
  unfold State.stopBars
  extract_lets e1 e2 e3
  have h_e1 : e1.Legal := by
    dsimp only [e1]
    repeat'
      first
      | with_reducible assumption | intro _ | with_reducible apply State.adopt_legal
      | with_reducible apply State.modBar_legal | with_reducible apply State.quietBeat_legal
      | with_reducible apply State.releaseHolds_legal | with_reducible apply State.sendSample_legal
      | with_reducible apply State.traceBeatEnd_legal | with_reducible apply State.legal_core
      | with_reducible apply State.legal_cdr
      | simp only [State.legal_with, VoiceCore.legal_with, State.legal_with_cdr_fields]
      | with_reducible apply State.legal_ite | split | dsimp only
  have h_e3 : e3.Legal := by
    dsimp only [e3]
    repeat'
      first
      | with_reducible assumption | intro _ | with_reducible apply State.adopt_legal
      | with_reducible apply State.modBar_legal | with_reducible apply State.quietBeat_legal
      | with_reducible apply State.releaseHolds_legal | with_reducible apply State.sendSample_legal
      | with_reducible apply State.traceBeatEnd_legal | with_reducible apply State.legal_core
      | with_reducible apply State.legal_cdr
      | simp only [State.legal_with, VoiceCore.legal_with, State.legal_with_cdr_fields]
      | with_reducible apply State.legal_ite | split | dsimp only
  try clear_value e1
  try clear_value e2
  try clear_value e3
  repeat'
    first
    | with_reducible assumption | intro _ | with_reducible apply State.adopt_legal
    | with_reducible apply State.modBar_legal | with_reducible apply State.quietBeat_legal
    | with_reducible apply State.releaseHolds_legal | with_reducible apply State.sendSample_legal
    | with_reducible apply State.traceBeatEnd_legal | with_reducible apply State.legal_core
    | with_reducible apply State.legal_cdr
    | simp only [State.legal_with, VoiceCore.legal_with, State.legal_with_cdr_fields]
    | with_reducible apply State.legal_ite | split | dsimp only

theorem State.endBarThen_legal {s : State} {go : Bool} (h_s : s.Legal) : (State.endBarThen s go).Legal := by
  unfold State.endBarThen
  extract_lets e1 e2 e3 e4 e5
  have h_e1 : e1.Legal := by
    dsimp only [e1]
    repeat' first | with_reducible assumption | with_reducible apply State.until_legal
  have h_e3 : e3.Legal := by
    dsimp only [e3]
    repeat'
      first
      | with_reducible assumption | intro _ | with_reducible apply State.endLateSlice_legal
      | with_reducible apply State.slotEnd_legal | with_reducible apply State.legal_foldl
  have h_e4 : e4.Legal := by
    dsimp only [e4]
    repeat' first | with_reducible assumption | with_reducible apply State.capture_legal
  have h_e5 : e5.Legal := by
    dsimp only [e5]
    repeat'
      first
      | with_reducible assumption | with_reducible apply State.stepDue_legal
      | with_reducible apply State.roleBoundary_legal
  (try clear_value e1)
  (try clear_value e2)
  (try clear_value e3)
  (try clear_value e4)
  (try clear_value e5)
  repeat'
    first
    | with_reducible assumption | with_reducible apply State.startBar_legal
    | with_reducible apply State.stopBars_legal | with_reducible apply State.legal_ite

theorem State.endBar_legal {s : State} (h_s : s.Legal) : (State.endBar s).Legal := by
  unfold State.endBar
  repeat' first | with_reducible assumption | with_reducible apply State.endBarThen_legal

theorem State.nextBeat_legal {s : State} (h_s : s.Legal) : (State.nextBeat s).Legal := by
  unfold State.nextBeat
  extract_lets e1 e2 e3 e4 e5 e6 e7
  have h_e2 : e2.Legal := by
    dsimp only [e2]
    repeat' first | with_reducible assumption | with_reducible apply State.until_legal
  have h_e5 : e5.Legal := by
    dsimp only [e5]
    repeat'
      first
      | with_reducible assumption | intro _ | with_reducible apply State.endLateSlice_legal
      | with_reducible apply State.slotEnd_legal | with_reducible apply State.legal_foldl
  have h_e6 : e6.Legal := by
    dsimp only [e6]
    repeat' first | with_reducible assumption | with_reducible apply State.modBar_legal
  have h_e7 : e7.Legal := by
    dsimp only [e7]
    repeat'
      first
      | with_reducible assumption | intro _ | with_reducible apply State.slotStart_legal
      | with_reducible apply State.releaseHolds_legal | with_reducible apply State.legal_foldl
  (try clear_value e1)
  (try clear_value e2)
  (try clear_value e3)
  (try clear_value e4)
  (try clear_value e5)
  (try clear_value e6)
  (try clear_value e7)
  repeat'
    first
    | with_reducible assumption | with_reducible apply State.beatStarts_legal
    | with_reducible apply State.traceBeatEnd_legal

theorem State.runSet_legal {s : State} (h_s : s.Legal) : (State.runSet s).Legal := by
  unfold State.runSet
  extract_lets e1 e2
  have h_e1 : e1.Legal := by
    dsimp only [e1]
    repeat' first | with_reducible assumption | with_reducible apply State.modBar_legal
  have h_e2 : e2.Legal := by
    dsimp only [e2]
    repeat' first | with_reducible assumption | with_reducible apply State.adopt_legal
  (try clear_value e1)
  (try clear_value e2)
  repeat'
    first
    | with_reducible assumption | with_reducible apply State.modBar_legal
    | with_reducible apply State.quietBeat_legal | with_reducible apply State.legal_ite

theorem State.runClear_legal {s : State} (h_s : s.Legal) : (State.runClear s).Legal := by
  unfold State.runClear
  extract_lets e1 e2 e3
  have h_e2 : e2.Legal := by
    dsimp only [e2]
    repeat'
      first
      | with_reducible assumption | with_reducible apply State.quietBeat_legal
      | with_reducible apply State.modBar_legal
  have h_e3 : e3.Legal := by
    dsimp only [e3]
    repeat' first | with_reducible assumption | with_reducible apply State.clockSwitch_legal
  (try clear_value e1)
  (try clear_value e2)
  (try clear_value e3)
  repeat'
    first
    | with_reducible assumption | with_reducible apply State.modBar_legal
    | with_reducible apply State.stepDue_legal | with_reducible apply State.releaseHolds_legal
    | with_reducible apply State.legal_ite

theorem State.firstBar_legal {s : State} (h_s : s.Legal) : (State.firstBar s).Legal := by
  unfold State.firstBar
  repeat'
    first
    | with_reducible assumption | with_reducible apply State.startBar_legal
    | with_reducible apply State.stepDue_legal | with_reducible apply State.roleBoundary_legal
    | with_reducible apply State.until_legal | with_reducible apply State.legal_ite | split

theorem State.barCtl_legal {s : State} {w : Initiator} {v : Word} (h_s : s.Legal) : (State.barCtl s w v).Legal := by
  unfold State.barCtl
  extract_lets e1
  have h_e1 : e1.Legal := by
    dsimp only [e1]
    repeat'
      first
      | with_reducible assumption | with_reducible apply State.modBar_legal
      | with_reducible apply State.legal_ite
  (try clear_value e1)
  repeat'
    first
    | with_reducible assumption | with_reducible apply State.runSet_legal
    | with_reducible apply State.runClear_legal | with_reducible apply State.legal_ite

theorem State.stage__legal {s : State} {c : Fin 12} {n : Fin 6} {v : Word} (h_s : s.Legal) : (State.stage_ s c n v).Legal := by
  unfold State.stage_
  repeat'
    first
    | with_reducible assumption | with_reducible apply State.modCbar_legal
    | with_reducible apply State.legal_ite

theorem State.coreBctl_legal {s : State} {c : Fin 12} {v : Word} (h_s : s.Legal) : (State.coreBctl s c v).Legal := by
  unfold State.coreBctl
  repeat'
    first
    | with_reducible assumption | with_reducible apply State.modCbar_legal
    | with_reducible apply State.legal_ite

theorem State.ovrClr_legal {s : State} {v : Word} (h_s : s.Legal) : (State.ovrClr s v).Legal := by
  unfold State.ovrClr
  repeat' first | with_reducible assumption | with_reducible apply State.modBar_legal

theorem State.barRegWrite_legal {s : State} {w : Initiator} {off : Nat} {v : Word} (h_s : s.Legal) :
    (State.barRegWrite s w off v).Legal := by
  unfold State.barRegWrite
  repeat'
    first
    | with_reducible assumption | with_reducible apply State.stage__legal
    | with_reducible apply State.coreBctl_legal | with_reducible apply State.modCbar_legal
    | with_reducible apply State.barCtl_legal | with_reducible apply State.modBar_legal
    | with_reducible apply State.ovrClr_legal | with_reducible apply State.legal_ite | split

end Sys2Proof.Machine
end

