-- ==== Sys2Proof/Laws/LegalExcept.lean ====
section
/-! SUPPORT. A legal state stays legal: Except. -/
set_option Elab.async false
set_option linter.all false
namespace Sys2Proof.Machine

theorem State.enterMonitor_legal {s : State} {c : Fin 12} {epc : DWord} {cause : Word} {detail : DWord} {off : DWord} (h_s : s.Legal) :
    (State.enterMonitor s c epc cause detail off).Legal := by
  unfold State.enterMonitor
  repeat'
    first
    | with_reducible assumption | intro _ | with_reducible apply State.legal_modCore
    | with_reducible apply State.traceLeave_legal | with_reducible apply VoiceCore.enterM_legal

theorem State.enterKernel_legal {s : State} {c : Fin 12} {epc : DWord} {cause : Word} {detail : DWord} {off : DWord} (h_s : s.Legal) :
    (State.enterKernel s c epc cause detail off).Legal := by
  unfold State.enterKernel
  repeat'
    first
    | with_reducible assumption | intro _ | with_reducible apply State.traceExc_legal
    | with_reducible apply State.legal_modCore | with_reducible apply VoiceCore.enterK_legal

theorem State.takeExc_legal {s : State} {c : Fin 12} {x : Exc} (h_s : s.Legal) : (State.takeExc s c x).Legal := by
  unfold State.takeExc
  extract_lets e1 e2
  have h_e2 : e2.Legal := by
    dsimp only [e2]
    repeat'
      first
      | with_reducible assumption | intro _ | with_reducible apply State.legal_modCore
      | simp only [VoiceCore.legal_with] | split
  (try clear_value e1)
  (try clear_value e2)
  repeat'
    first
    | with_reducible assumption | with_reducible apply State.enterKernel_legal
    | with_reducible apply State.enterMonitor_legal | with_reducible apply State.legal_ite

theorem State.takeExpiry_legal {s : State} {c : Fin 12} {part : BitVec 4} {beat : BitVec 5} (h_s : s.Legal) :
    (State.takeExpiry s c part beat).Legal := by
  unfold State.takeExpiry
  dsimp only
  split
  · exact State.legal_modCore h_s fun v hv => VoiceCore.legal_with.2 (VoiceCore.deferExpiry_legal hv)
  · exact State.enterMonitor_legal (State.legal_modCore h_s fun v hv => VoiceCore.legal_with.2 hv)

theorem State.takeDerr_legal {s : State} {c : Fin 12} (h_s : s.Legal) : (State.takeDerr s c).Legal := by
  unfold State.takeDerr
  repeat' first | with_reducible assumption | with_reducible apply State.enterMonitor_legal

theorem State.takeIrq_legal {s : State} {c : Fin 12} {t : State} (e : s.takeIrq c = some t) (h_s : s.Legal) : t.Legal := by
  unfold State.takeIrq at e
  split at e
  · injection e with e
    subst e
    exact State.enterMonitor_legal h_s
  · split at e
    · injection e with e
      subst e
      exact State.enterKernel_legal h_s
    · contradiction

theorem State.takeAsync_legal {s : State} {c : Fin 12} {t : State} (e : s.takeAsync c = some t) (h_s : s.Legal) : t.Legal := by
  unfold State.takeAsync at e
  split at e
  · injection e with e
    subst e
    exact State.takeExpiry_legal h_s
  · split at e
    · injection e with e
      subst e
      exact State.takeDerr_legal h_s
    · exact State.takeIrq_legal e h_s

theorem State.cdrExc_legal {s : State} {x : Exc} (h_s : s.Legal) : (State.cdrExc s x).Legal := by
  unfold State.cdrExc
  repeat'
    first
    | with_reducible assumption | with_reducible apply Conductor.enter_legal
    | simp only [State.legal_with, State.legal_with_cdr_fields] | with_reducible apply State.legal_cdr
    | with_reducible apply State.legal_ite | apply State.legal_with_cdr

theorem State.cdrIrq_legal {s t : State} (e : s.cdrIrq = some t) (h_s : s.Legal) : t.Legal := by
  unfold State.cdrIrq at e
  split at e
  · obtain ⟨n, -, e⟩ := Option.map_eq_some_iff.1 e
    subst e
    exact State.legal_with_cdr h_s (Conductor.enter_legal h_s.cdr)
  · contradiction

theorem State.asyncAt_legal {s : State} {k : Core} {t : State} (e : s.asyncAt k = some t) (h_s : s.Legal) : t.Legal := by
  cases k with
  | voice c => exact State.takeAsync_legal e h_s
  | conductor => exact State.cdrIrq_legal e h_s

theorem State.excAt_legal {s : State} {k : Core} {x : Exc} (h_s : s.Legal) : (State.excAt s k x).Legal := by
  unfold State.excAt
  repeat'
    first
    | with_reducible assumption | with_reducible apply State.takeExc_legal
    | with_reducible apply State.cdrExc_legal | split

end Sys2Proof.Machine
end

