-- ==== Sys2Proof/Laws/LegalXlat.lean ====
section
/-! SUPPORT. A legal state stays legal: Xlat. -/
set_option Elab.async false
set_option linter.all false
namespace Sys2Proof.Machine

theorem raise_legal {α : Type} {code : BitVec 9} {detail : DWord} : Exec.Legal (raise code detail : Exec α) := Exec.legal_throw

theorem State.xlatRegs_legal {s : State} {c : Fin 12} (h_s : s.Legal) : (State.xlatRegs s c).2.Legal := by
  unfold State.xlatRegs
  repeat' first | with_reducible assumption | simp only [State.legal_with] | split

theorem Req.fault_legal {α : Type} {r : Req} {w : WalkOf} {code : BitVec 7} : Exec.Legal (r.fault w code : Exec α) := Exec.legal_throw

theorem Req.readEntry_legal {r : Req} {w : WalkOf} {level : Nat} {addr : PAddr} : Exec.Legal (Req.readEntry r w level addr) := by
  unfold Req.readEntry
  repeat'
    first
    | with_reducible assumption | intro _ | with_reducible apply Req.fault_legal
    | with_reducible apply State.bringL2_legal | with_reducible apply Exec.legal_get | with_reducible apply Exec.legal_set
    | with_reducible apply Exec.legal_pure | with_reducible apply Exec.legal_throw
    | with_reducible apply Exec.legal_bind | split | dsimp only

theorem Req.entry_legal {r : Req} {w : WalkOf} {level : Nat} {addr : PAddr} : Exec.Legal (Req.entry r w level addr) := by
  unfold Req.entry
  repeat'
    first
    | with_reducible assumption | intro _ | with_reducible apply State.draw_legal
    | with_reducible apply Req.readEntry_legal | with_reducible apply Exec.legal_get
    | with_reducible apply Exec.legal_set | with_reducible apply Exec.legal_pure | with_reducible apply Exec.legal_bind
    | split

theorem Req.hold_legal {r : Req} {w : WalkOf} {level : Nat} {addr : PAddr} {value : DWord} :
    Exec.Legal (Req.hold r w level addr value) := by
  unfold Req.hold
  repeat'
    first
    | with_reducible assumption | intro _ | with_reducible apply State.legal_modCore
    | with_reducible apply Exec.legal_modify | with_reducible apply Exec.legal_pure | simp only [VoiceCore.legal_with]
    | split

theorem Req.walk_legal {r : Req} {w : WalkOf} {addrOf : PAddr → Exec PAddr} {input n : Nat} {table : PAddr}
    (h : ∀ a, Exec.Legal (addrOf a)) : Exec.Legal (r.walk w addrOf input n table) := by
  induction n generalizing table with
  | zero => exact Exec.legal_throw
  | succ n ih =>
    unfold Req.walk
    repeat'
      first
      | intro _ | exact ih | exact h _ | exact Req.fault_legal | apply Req.hold_legal
      | apply Req.entry_legal | apply Exec.legal_pure | apply Exec.legal_bind | split

theorem Req.stage2_legal {r : Req} {s1w : Bool} {acc : Acc} {gwa : PAddr} : Exec.Legal (r.stage2 s1w acc gwa) :=
  Req.walk_legal fun _ => Exec.legal_pure

theorem Req.tableAddr_legal {r : Req} {gwa : PAddr} : Exec.Legal (Req.tableAddr r gwa) := by
  unfold Req.tableAddr
  repeat'
    first
    | intro _ | with_reducible apply Req.stage2_legal | with_reducible apply Exec.legal_pure
    | with_reducible apply Exec.legal_bind | split

theorem Req.stage1_legal {r : Req} : Exec.Legal r.stage1 := Req.walk_legal fun _ => Req.tableAddr_legal

theorem Req.walkAll_legal {r : Req} : Exec.Legal (Req.walkAll r) := by
  unfold Req.walkAll
  repeat'
    first
    | intro _ | with_reducible apply Req.stage1_legal | with_reducible apply Req.stage2_legal
    | with_reducible apply Exec.legal_pure | with_reducible apply Exec.legal_bind | split

theorem Req.refill_legal {r : Req} : Exec.Legal (Req.refill r) := by
  constructor
  · intro s b t hs e
    unfold Req.refill at e
    split at e
    · cases e
      rename_i h
      exact State.legal_modCore (Req.walkAll_legal.ok s _ _ hs h) fun v hv => VoiceCore.tlbFill_legal hv
    · cases e
  · intro s x t hs e
    unfold Req.refill at e
    split at e
    · cases e
    · cases e
      rename_i h
      exact State.legal_modCore (Req.walkAll_legal.err s _ _ hs h) fun v hv => VoiceCore.legal_with.2 hv

theorem Req.useHeld_legal {r : Req} {e : TlbEntry} : Exec.Legal (Req.useHeld r e) := by
  unfold Req.useHeld
  split
  · exact Req.fault_legal
  · split
    · exact Req.fault_legal
    · exact Exec.legal_pure

theorem Req.translate_legal {r : Req} : Exec.Legal (Req.translate r) := by
  unfold Req.translate
  repeat'
    first
    | with_reducible assumption | intro _ | with_reducible apply State.draw_legal
    | with_reducible apply Req.refill_legal | with_reducible apply Req.useHeld_legal | with_reducible apply Exec.legal_get | with_reducible apply Exec.legal_set
    | with_reducible apply Exec.legal_pure | with_reducible apply Exec.legal_bind | split

theorem reqOf_legal {c : Fin 12} {acc : Acc} {ptr : DWord} : Exec.Legal (reqOf c acc ptr) := by
  unfold reqOf
  repeat'
    first
    | with_reducible assumption | intro _ | with_reducible apply State.xlatRegs_legal
    | with_reducible apply Exec.legal_get | with_reducible apply Exec.legal_set | with_reducible apply Exec.legal_pure
    | with_reducible apply Exec.legal_bind

end Sys2Proof.Machine
end

