-- ==== Sys2Proof/Laws/LegalTrustOps.lean ====
section
/-! SUPPORT. A legal state stays legal: TrustOps. -/
set_option Elab.async false
set_option linter.all false
namespace Sys2Proof.Machine

theorem State.modBoot_legal {s : State} {f : Boot → Boot} (h_s : s.Legal) : (State.modBoot s f).Legal := by
  unfold State.modBoot
  repeat' first | with_reducible assumption | simp only [State.legal_with]

theorem State.blow_legal {s : State} {r : Nat} {d : Word} {ok : Bool} (h_s : s.Legal) : (State.blow s r d ok).Legal := by
  unfold State.blow
  extract_lets e1
  have h_e1 : e1.2.Legal := by
    dsimp only [e1]
    repeat' first | with_reducible assumption | with_reducible apply State.draw_legal
  (try clear_value e1)
  repeat'
    first
    | with_reducible assumption | with_reducible apply State.modBoot_legal
    | with_reducible apply State.legal_ite

theorem State.raiseFloor_legal {s : State} {target : Nat} (h_s : s.Legal) :
    (State.raiseFloor s target).Legal := by
  unfold State.raiseFloor
  extract_lets e1
  try clear_value e1
  repeat'
    first
    | with_reducible assumption | intro _ | with_reducible apply State.blow_legal
    | with_reducible apply State.legal_core | with_reducible apply State.legal_cdr
    | simp only [State.legal_with, VoiceCore.legal_with, State.legal_with_cdr_fields]
    | with_reducible apply State.legal_ite | with_reducible apply State.legal_foldl
    | with_reducible apply State.legal_foldl_fst | split | dsimp only

theorem State.writeRecord_legal {s : State} {f : List Word → List Word} (h_s : s.Legal) : (State.writeRecord s f).Legal := by
  unfold State.writeRecord
  repeat'
    first
    | with_reducible assumption | simp only [State.legal_with] | split
    | with_reducible apply Memory.setWords_wf | with_reducible apply State.Legal.flash | apply State.legal_with_flash

theorem State.floorFollows_legal {s : State} (h_s : s.Legal) : (State.floorFollows s).Legal := by
  unfold State.floorFollows
  repeat' first | with_reducible assumption | with_reducible apply State.raiseFloor_legal

theorem State.startSentinel_legal {s : State} (h_s : s.Legal) : (State.startSentinel s).Legal := by
  unfold State.startSentinel
  repeat'
    first
    | with_reducible assumption | with_reducible apply Conductor.reset_legal | simp only [State.legal_with]
    | apply State.legal_with_cdr

theorem State.bootLog_legal {s : State} {v : Word} (h_s : s.Legal) : (State.bootLog s v).Legal := by
  unfold State.bootLog
  repeat'
    first
    | with_reducible assumption | simp only [State.legal_with] | with_reducible apply Memory.setWord_wf
    | with_reducible apply State.Legal.flash | apply State.legal_with_flash

theorem State.loadMirror_legal {s : State} (h_s : s.Legal) : (State.loadMirror s).Legal := by
  unfold State.loadMirror
  repeat'
    first
    | with_reducible assumption | with_reducible apply State.modHealth_legal
    | with_reducible apply State.legal_ite

theorem State.writeMaps_legal {s : State} (h_s : s.Legal) : (State.writeMaps s).Legal := by
  unfold State.writeMaps
  extract_lets e1 e2 e3
  have h_e2 : e2.Legal := by
    dsimp only [e2]
    repeat'
      first
      | with_reducible assumption | intro _ | with_reducible apply State.wayMapWrite_legal
      | with_reducible apply State.legal_foldl
  have h_e3 : e3.Legal := by
    dsimp only [e3]
    repeat'
      first
      | with_reducible assumption | intro _ | with_reducible apply State.wayMapWrite_legal
      | with_reducible apply State.legal_foldl
  (try clear_value e1)
  (try clear_value e2)
  (try clear_value e3)
  repeat'
    first
    | with_reducible assumption | with_reducible apply State.laneMask_legal
    | with_reducible apply State.legal_ite

theorem State.applyLeaks_legal {s : State} (h_s : s.Legal) : (State.applyLeaks s).Legal := by
  unfold State.applyLeaks
  repeat'
    first
    | with_reducible assumption | intro _ | with_reducible apply State.leakDue_legal
    | with_reducible apply State.legal_foldl

theorem State.programSector_legal {s : State} {base : Nat} {ws : List Word} (h_s : s.Legal) : (State.programSector s base ws).Legal :=
  State.legal_with_flash h_s (Memory.setWords_wf _ _ (Memory.clearWords_wf _ _ h_s.flash))

theorem State.journalCopy_legal {s : State} {base : Nat} (h_s : s.Legal) :
    (State.journalCopy s base).Legal := by
  unfold State.journalCopy
  repeat'
    first
    | with_reducible assumption | intro _ | with_reducible apply State.programSector_legal
    | with_reducible apply State.legal_core | with_reducible apply State.legal_cdr
    | simp only [State.legal_with, VoiceCore.legal_with, State.legal_with_cdr_fields]
    | with_reducible apply State.legal_ite | split | dsimp only

theorem State.journalMark_legal {s : State} {w : Word} (h_s : s.Legal) :
    (State.journalMark s w).Legal := by
  unfold State.journalMark
  repeat'
    first
    | with_reducible assumption | intro _ | with_reducible apply State.programSector_legal
    | with_reducible apply State.legal_core | with_reducible apply State.legal_cdr
    | simp only [State.legal_with, VoiceCore.legal_with, State.legal_with_cdr_fields]
    | with_reducible apply State.legal_ite | split | dsimp only

theorem State.journalEnd_legal {s : State} (h_s : s.Legal) :
    (State.journalEnd s).Legal := by
  unfold State.journalEnd
  extract_lets e1
  try clear_value e1
  repeat'
    first
    | with_reducible assumption | intro _ | with_reducible apply State.journalMark_legal
    | with_reducible apply State.programSector_legal | with_reducible apply State.legal_core
    | with_reducible apply State.legal_cdr
    | simp only [State.legal_with, VoiceCore.legal_with, State.legal_with_cdr_fields]
    | with_reducible apply State.legal_ite | split | dsimp only

theorem State.refreshSector_legal {s : State} {base : Nat} (h_s : s.Legal) :
    (State.refreshSector s base).Legal := by
  unfold State.refreshSector
  repeat'
    first
    | with_reducible assumption | intro _ | with_reducible apply State.journalCopy_legal
    | with_reducible apply State.journalEnd_legal | with_reducible apply State.journalMark_legal
    | with_reducible apply State.legal_core | with_reducible apply State.legal_cdr
    | simp only [State.legal_with, VoiceCore.legal_with, State.legal_with_cdr_fields]
    | with_reducible apply State.legal_ite | split | dsimp only

theorem State.cutRescore_legal {s : State} (h_s : s.Legal) :
    (State.cutRescore s).Legal := by
  unfold State.cutRescore
  repeat'
    first
    | with_reducible assumption | intro _ | with_reducible apply State.draw_legal
    | with_reducible apply State.journalCopy_legal | with_reducible apply State.journalMark_legal
    | with_reducible apply State.programSector_legal | with_reducible apply State.refreshSector_legal
    | with_reducible apply State.legal_core | with_reducible apply State.legal_cdr
    | simp only [State.legal_with, VoiceCore.legal_with, State.legal_with_cdr_fields]
    | with_reducible apply State.legal_ite | with_reducible apply State.legal_foldl
    | with_reducible apply State.legal_foldl_fst | split | dsimp only

theorem State.rescored_legal {s : State} (h_s : s.Legal) :
    (State.rescored s).Legal := by
  unfold State.rescored
  extract_lets e1
  have h_e1 : e1.Legal := by
    dsimp only [e1]
    repeat'
      first
      | with_reducible assumption | intro _ | with_reducible apply State.mirrorUpdate_legal
      | with_reducible apply State.modHealth_legal | with_reducible apply State.refreshSector_legal
      | with_reducible apply State.legal_core | with_reducible apply State.legal_cdr
      | simp only [State.legal_with, VoiceCore.legal_with, State.legal_with_cdr_fields]
      | with_reducible apply State.legal_ite | with_reducible apply State.legal_foldl
      | with_reducible apply State.legal_foldl_fst | split | dsimp only
  try clear_value e1
  repeat'
    first
    | with_reducible assumption | intro _ | with_reducible apply State.mirrorUpdate_legal
    | with_reducible apply State.modHealth_legal | with_reducible apply State.refreshSector_legal
    | with_reducible apply State.legal_core | with_reducible apply State.legal_cdr
    | simp only [State.legal_with, VoiceCore.legal_with, State.legal_with_cdr_fields]
    | with_reducible apply State.legal_ite | with_reducible apply State.legal_foldl
    | with_reducible apply State.legal_foldl_fst | split | dsimp only

theorem State.kickWatchdog_legal {s : State} (h_s : s.Legal) : (State.kickWatchdog s).Legal := by
  unfold State.kickWatchdog
  repeat' first | with_reducible assumption | simp only [State.legal_with]

theorem State.startDuties_legal {s : State} (h_s : s.Legal) : (State.startDuties s).Legal := by
  unfold State.startDuties
  extract_lets e1 e2 e3 e4 e5 e6 e7 e8 e9 e10 e11
  have h1 : e1.Legal := State.legal_with_stage h_s (Memory.clearWords_wf _ _ h_s.stage)
  have h2 : e2.Legal := State.setRingWord_legal (State.setRingWord_legal (State.setRingWord_legal h1))
  have h3 : e3.Legal := State.notice_legal h2
  have h4 : e4.Legal := State.journalEnd_legal (State.bootLog_legal h3)
  have h5 : e5.Legal := State.writeMaps_legal (State.loadMirror_legal h4)
  have h6 : e6.Legal := State.addHours_legal (State.applyLeaks_legal h5)
  have h7 : e7.Legal := State.legal_ite (State.rescored_legal h6) h6
  have h8 : e8.Legal := State.floorFollows_legal (State.mirrorUpdate_legal h7)
  have h9 : e9.Legal := State.legal_ite h8 (State.bootLog_legal h8)
  exact State.kickWatchdog_legal (State.modHealth_legal (State.legal_with.2 h9))

theorem State.releaseConductor_legal {s : State} {r : BootResult} (h_s : s.Legal) : (State.releaseConductor s r).Legal := by
  unfold State.releaseConductor
  extract_lets e1 e2 e3 e4
  have h_e4 : e4.Legal := by
    dsimp only [e4]
    repeat'
      first
      | with_reducible assumption | with_reducible apply Conductor.reset_legal
      | simp only [Conductor.legal_with] | apply State.legal_with_cdr
  (try clear_value e1)
  (try clear_value e2)
  (try clear_value e3)
  (try clear_value e4)
  repeat' first | with_reducible assumption | with_reducible apply State.startDuties_legal

theorem State.sentinelEnd_legal {s : State} {gold : BitVec 100} {errWorking : Bool} {errGolden : Bool} (h_s : s.Legal) :
    (State.sentinelEnd s gold errWorking errGolden).Legal := by
  unfold State.sentinelEnd
  extract_lets e1 e2
  have h_e1 : e1.Legal := by
    dsimp only [e1]
    repeat'
      first
      | with_reducible assumption | intro _ | with_reducible apply State.modBoot_legal
      | with_reducible apply State.releaseConductor_legal | with_reducible apply State.until_legal
      | with_reducible apply State.legal_core | with_reducible apply State.legal_cdr
      | simp only [State.legal_with, VoiceCore.legal_with, State.legal_with_cdr_fields]
      | with_reducible apply State.legal_ite | split | dsimp only
  try clear_value e1
  try clear_value e2
  repeat'
    first
    | with_reducible assumption | intro _ | with_reducible apply State.modBoot_legal
    | with_reducible apply State.releaseConductor_legal | with_reducible apply State.until_legal
    | with_reducible apply State.legal_core | with_reducible apply State.legal_cdr
    | simp only [State.legal_with, VoiceCore.legal_with, State.legal_with_cdr_fields]
    | with_reducible apply State.legal_ite | split | dsimp only

theorem State.resumeBars_legal {s : State} (h_s : s.Legal) : (State.resumeBars s).Legal := by
  unfold State.resumeBars
  extract_lets e1 e2
  have h_e1 : e1.Legal := by
    dsimp only [e1]
    repeat' first | with_reducible assumption | with_reducible apply State.modBar_legal
  have h_e2 : e2.Legal := by
    dsimp only [e2]
    repeat'
      first
      | with_reducible assumption | with_reducible apply State.modBar_legal
      | with_reducible apply State.adopt_legal
  (try clear_value e1)
  (try clear_value e2)
  repeat'
    first
    | with_reducible assumption | with_reducible apply State.modBar_legal
    | with_reducible apply State.legal_ite

theorem VoiceCore.takePending_legal {v : VoiceCore} {bx : Option (BitVec 4 × BitVec 5)} (h_v : v.Legal) :
    (VoiceCore.takePending v bx).Legal := by
  unfold VoiceCore.takePending
  repeat'
    first
    | with_reducible assumption | intro _ | with_reducible apply VoiceCore.deferExpiry_legal
    | with_reducible apply State.legal_core | with_reducible apply State.legal_cdr
    | simp only [State.legal_with, VoiceCore.legal_with, State.legal_with_cdr_fields]
    | with_reducible apply State.legal_ite | split | dsimp only

theorem State.startCore_legal {s : State} {c : Fin 12} {ptr : DWord} (h_s : s.Legal) :
    (State.startCore s c ptr).Legal := by
  unfold State.startCore
  repeat'
    first
    | with_reducible assumption | intro _ | with_reducible apply Conductor.reset_legal
    | with_reducible apply VoiceCore.reset_legal | with_reducible apply VoiceCore.takePending_legal
    | with_reducible apply State.legal_setCore | with_reducible apply State.legal_core
    | with_reducible apply State.legal_cdr
    | simp only [State.legal_with, VoiceCore.legal_with, State.legal_with_cdr_fields]
    | with_reducible apply State.legal_ite | split | dsimp only

theorem State.startCores_legal {s : State} {m : BitVec 12} {ptr : DWord} (h_s : s.Legal) : (State.startCores s m ptr).Legal := by
  unfold State.startCores
  repeat'
    first
    | with_reducible assumption | intro _ | with_reducible apply State.resumeBars_legal
    | with_reducible apply State.startCore_legal | with_reducible apply State.legal_foldl

theorem State.refuseImage_legal {s : State} {v : Nat} {reason : BitVec 8} (h_s : s.Legal) :
    (State.refuseImage s v reason).Legal := by
  unfold State.refuseImage
  repeat'
    first
    | with_reducible assumption | with_reducible apply State.modBoot_legal
    | with_reducible apply State.legal_ite

theorem State.loadImage_legal {s : State} {v : Nat} {readErr : Bool} (h_s : s.Legal) :
    (State.loadImage s v readErr).1.Legal := by
  unfold State.loadImage
  extract_lets e1 e2 e3 e4 e5 e6 e7 e8
  have h_e7 : e7.Legal := by
    dsimp only [e7]
    repeat'
      first
      | with_reducible assumption | with_reducible apply State.cdrWrite_legal
      | with_reducible apply State.legal_ite
  (try clear_value e1)
  (try clear_value e2)
  (try clear_value e3)
  (try clear_value e4)
  (try clear_value e5)
  (try clear_value e6)
  (try clear_value e7)
  (try clear_value e8)
  repeat' first | with_reducible assumption | split

theorem State.runImage_legal {s : State} {start : Bool} {v : Nat} {readErr : Bool} (h_s : s.Legal) :
    (State.runImage s start v readErr).Legal := by
  unfold State.runImage
  extract_lets e1 e2
  try clear_value e1
  try clear_value e2
  repeat'
    first
    | with_reducible assumption | intro _ | with_reducible apply State.loadImage_legal
    | with_reducible apply State.modBoot_legal | with_reducible apply State.refuseImage_legal
    | with_reducible apply State.startCores_legal | with_reducible apply State.legal_core
    | with_reducible apply State.legal_cdr
    | simp only [State.legal_with, VoiceCore.legal_with, State.legal_with_cdr_fields]
    | with_reducible apply State.legal_ite | split | dsimp only

theorem State.runImages_legal {s : State} {start : Bool} {bad : BitVec 4} (h_s : s.Legal) :
    (State.runImages s start bad).Legal := by
  unfold State.runImages
  repeat'
    first
    | with_reducible assumption | intro _ | with_reducible apply State.runImage_legal
    | with_reducible apply State.legal_foldl

theorem State.slotUndefined_legal {s : State} {c : Cmd} (h_s : s.Legal) : (State.slotUndefined s c).Legal :=
  State.legal_with_flash h_s (Memory.setWords_wf _ _ h_s.flash)

theorem State.cutFlash_legal {s : State} {c : Cmd} (h_s : s.Legal) :
    (State.cutFlash s c).Legal := by
  unfold State.cutFlash
  repeat'
    first
    | with_reducible assumption | intro _ | with_reducible apply State.cutRescore_legal
    | with_reducible apply State.slotUndefined_legal | with_reducible apply State.legal_core
    | with_reducible apply State.legal_cdr
    | simp only [State.legal_with, VoiceCore.legal_with, State.legal_with_cdr_fields]
    | with_reducible apply State.legal_ite | split | dsimp only

theorem State.newChallenge_legal {s : State} (h_s : s.Legal) : (State.newChallenge s).Legal := by
  unfold State.newChallenge
  repeat' first | with_reducible assumption | simp only [State.legal_with]

theorem State.checkEnd_legal {s : State} (h_s : s.Legal) : (State.checkEnd s).Legal := by
  unfold State.checkEnd
  extract_lets e1 e2 e3 e4
  have h_e2 : e2.Legal := by
    dsimp only [e2]
    repeat'
      first
      | with_reducible assumption | with_reducible apply State.modBoot_legal
      | with_reducible apply State.legal_ite
  have h_e4 : e4.Legal := by
    dsimp only [e4]
    repeat' first | with_reducible assumption | with_reducible apply State.modBoot_legal
  (try clear_value e1)
  (try clear_value e2)
  (try clear_value e3)
  (try clear_value e4)
  repeat'
    first
    | with_reducible assumption | with_reducible apply State.newChallenge_legal
    | with_reducible apply State.legal_ite

theorem State.closeSession_legal {s : State} (h_s : s.Legal) : (State.closeSession s).Legal := by
  unfold State.closeSession
  repeat' first | with_reducible assumption | with_reducible apply State.modBoot_legal

theorem State.flashRegWrite_legal {s : State} {off : Nat} {v : Word} (h_s : s.Legal) : (State.flashRegWrite s off v).Legal := by
  unfold State.flashRegWrite
  repeat'
    first
    | with_reducible assumption | with_reducible apply State.modBoot_legal
    | with_reducible apply State.legal_ite

theorem State.fuseCommand_legal {s : State} (h_s : s.Legal) : (State.fuseCommand s).Legal := by
  unfold State.fuseCommand
  repeat'
    first
    | with_reducible assumption | with_reducible apply State.modBoot_legal
    | with_reducible apply State.legal_ite

theorem State.fuseRegWrite_legal {s : State} {off : Nat} {v : Word} (h_s : s.Legal) : (State.fuseRegWrite s off v).Legal := by
  unfold State.fuseRegWrite
  repeat'
    first
    | with_reducible assumption | with_reducible apply State.modBoot_legal
    | with_reducible apply State.fuseCommand_legal | with_reducible apply State.legal_ite

end Sys2Proof.Machine
end

