-- ==== Sys2Proof/Laws/LegalPowerOps.lean ====
section
/-! SUPPORT. A legal state stays legal: PowerOps. -/
set_option Elab.async false
set_option linter.all false
namespace Sys2Proof.Machine

theorem State.modPwr_legal {s : State} {f : Power → Power} (h_s : s.Legal) : (State.modPwr s f).Legal := by
  unfold State.modPwr
  repeat' first | with_reducible assumption | simp only [State.legal_with]

theorem State.markResets_legal {s : State} {causes : List Nat} (h_s : s.Legal) :
    (State.markResets s causes).Legal := by
  unfold State.markResets
  repeat'
    first
    | with_reducible assumption | intro _ | with_reducible apply State.modPwr_legal
    | with_reducible apply State.legal_core | with_reducible apply State.legal_cdr
    | simp only [State.legal_with, VoiceCore.legal_with, State.legal_with_cdr_fields]
    | with_reducible apply State.legal_ite | with_reducible apply State.legal_foldl
    | with_reducible apply State.legal_foldl_fst | split | dsimp only

theorem State.bootReset_legal {s : State} {cold : Bool} (h_s : s.Legal) :
    (State.bootReset s cold).Legal := by
  unfold State.bootReset
  extract_lets e1 e2
  have h_e1 : e1.Legal := by
    dsimp only [e1]
    repeat'
      first
      | with_reducible assumption | intro _ | with_reducible apply State.blow_legal
      | with_reducible apply State.cutFlash_legal | with_reducible apply State.modBoot_legal
      | with_reducible apply State.legal_core | with_reducible apply State.legal_cdr
      | simp only [State.legal_with, VoiceCore.legal_with, State.legal_with_cdr_fields]
      | with_reducible apply State.legal_ite | with_reducible apply State.legal_foldl
      | with_reducible apply State.legal_foldl_fst | split | dsimp only
  have h_e2 : e2.Legal := by
    dsimp only [e2]
    repeat'
      first
      | with_reducible assumption | intro _ | with_reducible apply State.blow_legal
      | with_reducible apply State.cutFlash_legal | with_reducible apply State.modBoot_legal
      | with_reducible apply State.legal_core | with_reducible apply State.legal_cdr
      | simp only [State.legal_with, VoiceCore.legal_with, State.legal_with_cdr_fields]
      | with_reducible apply State.legal_ite | with_reducible apply State.legal_foldl
      | with_reducible apply State.legal_foldl_fst | split | dsimp only
  try clear_value e1
  try clear_value e2
  repeat'
    first
    | with_reducible assumption | intro _ | with_reducible apply State.blow_legal
    | with_reducible apply State.cutFlash_legal | with_reducible apply State.modBoot_legal
    | with_reducible apply State.legal_core | with_reducible apply State.legal_cdr
    | simp only [State.legal_with, VoiceCore.legal_with, State.legal_with_cdr_fields]
    | with_reducible apply State.legal_ite | with_reducible apply State.legal_foldl
    | with_reducible apply State.legal_foldl_fst | split | dsimp only

theorem State.warmDomain_legal {s : State} (h_s : s.Legal) : (State.warmDomain s).Legal := by
  unfold State.warmDomain
  refine State.drawEpoch_legal ⟨h_s.dram, h_s.stage, h_s.csram, h_s.flash, h_s.xflash, fun c => ?_, Conductor.reset_legal⟩
  simpa using VoiceCore.reset_legal

theorem State.warmReset_legal {s : State} {cause : Nat} (h_s : s.Legal) :
    (State.warmReset s cause).Legal := by
  unfold State.warmReset
  repeat'
    first
    | with_reducible assumption | intro _ | with_reducible apply State.bootReset_legal
    | with_reducible apply State.dropSlices_legal | with_reducible apply State.markResets_legal
    | with_reducible apply State.startSentinel_legal | with_reducible apply State.stepDue_legal
    | with_reducible apply State.warmDomain_legal | with_reducible apply State.legal_core
    | with_reducible apply State.legal_cdr
    | simp only [State.legal_with, VoiceCore.legal_with, State.legal_with_cdr_fields]
    | with_reducible apply State.legal_ite | split | dsimp only

theorem State.coldReset_legal {s : State} {cause : Nat} (h_s : s.Legal) : (State.coldReset s cause).Legal := by
  unfold State.coldReset
  extract_lets cs s1 s2 s3
  have h1 : s1.Legal := State.legal_with.2 h_s
  have h : s2.Legal := State.warmDomain_legal (State.bootReset_legal h1)
  clear_value s2
  exact State.markResets_legal ⟨rfl, rfl, rfl, h.flash, h.xflash, h.cores, h.cdr⟩

theorem State.loadTime_legal {s : State} (h_s : s.Legal) : (State.loadTime s).Legal := by
  unfold State.loadTime
  repeat'
    first
    | with_reducible assumption | with_reducible apply State.modTempo_legal
    | with_reducible apply State.legal_ite

theorem State.leaveReset_legal {s : State} (h_s : s.Legal) :
    (State.leaveReset s).Legal := by
  unfold State.leaveReset
  repeat'
    first
    | with_reducible assumption | intro _ | with_reducible apply State.drawEpoch_legal
    | with_reducible apply State.loadTime_legal | with_reducible apply State.modPwr_legal
    | with_reducible apply State.startSentinel_legal | with_reducible apply State.legal_core
    | with_reducible apply State.legal_cdr
    | simp only [State.legal_with, VoiceCore.legal_with, State.legal_with_cdr_fields]
    | with_reducible apply State.legal_ite | split | dsimp only

theorem State.resetFor_legal {s : State} {cause : Nat} {cold : Bool} (h_s : s.Legal) :
    (State.resetFor s cause cold).Legal := by
  unfold State.resetFor
  repeat'
    first
    | with_reducible assumption | intro _ | with_reducible apply State.coldReset_legal
    | with_reducible apply State.leaveReset_legal | with_reducible apply State.warmReset_legal
    | with_reducible apply State.legal_core | with_reducible apply State.legal_cdr
    | simp only [State.legal_with, VoiceCore.legal_with, State.legal_with_cdr_fields]
    | with_reducible apply State.legal_ite | split | dsimp only

theorem State.aonFor_legal {s : State} {ns : Nat} (h_s : s.Legal) : (State.aonFor s ns).Legal := by
  unfold State.aonFor
  repeat' first | with_reducible assumption | with_reducible apply State.modPwr_legal

theorem State.sleepPart_legal {s : State} {ns : Nat} (h_s : s.Legal) :
    (State.sleepPart s ns).Legal := by
  unfold State.sleepPart
  extract_lets e1 e2
  have h_e2 : e2.Legal := by
    dsimp only [e2]
    repeat'
      first
      | with_reducible assumption | intro _ | with_reducible apply State.aonFor_legal
      | with_reducible apply State.modPwr_legal | with_reducible apply State.legal_core
      | with_reducible apply State.legal_cdr
      | simp only [State.legal_with, VoiceCore.legal_with, State.legal_with_cdr_fields]
      | with_reducible apply State.legal_ite | split | dsimp only
  try clear_value e1
  try clear_value e2
  repeat'
    first
    | with_reducible assumption | intro _ | with_reducible apply State.aonFor_legal
    | with_reducible apply State.modPwr_legal | with_reducible apply State.legal_core
    | with_reducible apply State.legal_cdr
    | simp only [State.legal_with, VoiceCore.legal_with, State.legal_with_cdr_fields]
    | with_reducible apply State.legal_ite | split | dsimp only

theorem State.sleepFor_legal {s : State} {ns : Nat} (h_s : s.Legal) :
    (State.sleepFor s ns).Legal := by
  unfold State.sleepFor
  repeat'
    first
    | with_reducible assumption | intro _ | with_reducible apply State.modTempo_legal
    | with_reducible apply State.sleepPart_legal | with_reducible apply State.legal_core
    | with_reducible apply State.legal_cdr
    | simp only [State.legal_with, VoiceCore.legal_with, State.legal_with_cdr_fields]
    | with_reducible apply State.legal_ite | split | dsimp only

theorem State.linkSleep_legal {s : State} (h_s : s.Legal) :
    (State.linkSleep s).Legal := by
  unfold State.linkSleep
  repeat'
    first
    | with_reducible assumption | intro _ | with_reducible apply State.loseSession_legal
    | with_reducible apply State.modDuet_legal | with_reducible apply State.sendLink_legal
    | with_reducible apply State.legal_core | with_reducible apply State.legal_cdr
    | simp only [State.legal_with, VoiceCore.legal_with, State.legal_with_cdr_fields]
    | with_reducible apply State.legal_ite | split | dsimp only

theorem State.stopDevice_legal {s : State} (h_s : s.Legal) :
    (State.stopDevice s).Legal := by
  unfold State.stopDevice
  extract_lets e1 e2
  have h_e1 : e1.Legal := by
    dsimp only [e1]
    repeat'
      first
      | with_reducible assumption | intro _ | with_reducible apply State.endBarThen_legal
      | with_reducible apply State.linkSleep_legal | with_reducible apply State.modBar_legal
      | with_reducible apply State.legal_core | with_reducible apply State.legal_cdr
      | simp only [State.legal_with, VoiceCore.legal_with, State.legal_with_cdr_fields]
      | with_reducible apply State.legal_ite | split | dsimp only
  have h_e2 : e2.Legal := by
    dsimp only [e2]
    repeat'
      first
      | with_reducible assumption | intro _ | with_reducible apply State.endBarThen_legal
      | with_reducible apply State.linkSleep_legal | with_reducible apply State.modBar_legal
      | with_reducible apply State.legal_core | with_reducible apply State.legal_cdr
      | simp only [State.legal_with, VoiceCore.legal_with, State.legal_with_cdr_fields]
      | with_reducible apply State.legal_ite | split | dsimp only
  try clear_value e1
  try clear_value e2
  repeat'
    first
    | with_reducible assumption | intro _ | with_reducible apply State.endBarThen_legal
    | with_reducible apply State.linkSleep_legal | with_reducible apply State.modBar_legal
    | with_reducible apply State.legal_core | with_reducible apply State.legal_cdr
    | simp only [State.legal_with, VoiceCore.legal_with, State.legal_with_cdr_fields]
    | with_reducible apply State.legal_ite | split | dsimp only

theorem State.refuseSleep_legal {s : State} (h_s : s.Legal) :
    (State.refuseSleep s).Legal := by
  unfold State.refuseSleep
  extract_lets e1
  have h_e1 : e1.Legal := by
    dsimp only [e1]
    repeat'
      first
      | with_reducible assumption | intro _ | with_reducible apply State.modPwr_legal
      | with_reducible apply State.modRings_legal | with_reducible apply State.startTraining_legal
      | with_reducible apply State.legal_core | with_reducible apply State.legal_cdr
      | simp only [State.legal_with, VoiceCore.legal_with, State.legal_with_cdr_fields]
      | with_reducible apply State.legal_ite | split | dsimp only
  try clear_value e1
  repeat'
    first
    | with_reducible assumption | intro _ | with_reducible apply State.modPwr_legal
    | with_reducible apply State.modRings_legal | with_reducible apply State.startTraining_legal
    | with_reducible apply State.legal_core | with_reducible apply State.legal_cdr
    | simp only [State.legal_with, VoiceCore.legal_with, State.legal_with_cdr_fields]
    | with_reducible apply State.legal_ite | split | dsimp only

theorem State.flushForSleep_legal {s : State} (h_s : s.Legal) : (State.flushForSleep s).Legal := by
  unfold State.flushForSleep
  repeat'
    first
    | with_reducible assumption | intro _ | with_reducible apply State.cleanLine_legal
    | with_reducible apply State.putLine_legal | with_reducible apply State.legal_foldl | split | dsimp only

theorem State.enterFermata_legal {s : State} (h_s : s.Legal) : (State.enterFermata s).Legal := by
  unfold State.enterFermata
  extract_lets mask s2 s3 e6 e7 e8 e9
  have h2 : s2.Legal := State.flushForSleep_legal h_s
  have h3 : s3.Legal := State.legal_ite h2 (State.modRf_legal (State.leaveTo_legal h2))
  clear_value s3
  refine ⟨h3.dram, h3.stage, h3.csram, h3.flash, h3.xflash, fun c => ?_, Conductor.legal_with.2 h3.cdr⟩
  have : VoiceCore.reset.Legal := VoiceCore.reset_legal
  simpa using VoiceCore.legal_with.2 this

theorem State.resumeDevice_legal {s : State} (h_s : s.Legal) : (State.resumeDevice s).Legal := by
  unfold State.resumeDevice
  extract_lets e1 e2 e3 e4 e5 e6 e7 e8 e9
  have h7 : e7.Legal := State.legal_with_cdr h_s ⟨h_s.cdr.w0, setBit_and_zero h_s.cdr.cstatus (by decide), h_s.cdr.qstat⟩
  clear_value e7
  exact State.kickWatchdog_legal (State.legal_ite (State.startTraining_legal (State.drawEpoch_legal h7)) h7)

theorem State.wakeDuties_legal {s : State} (h_s : s.Legal) : (State.wakeDuties s).Legal := by
  unfold State.wakeDuties
  extract_lets e1 e2 e3 e4
  have h_e2 : e2.Legal := by
    dsimp only [e2]
    repeat'
      first
      | with_reducible assumption | with_reducible apply State.notice_legal
      | with_reducible apply State.modRings_legal
  have h_e3 : e3.Legal := by
    dsimp only [e3]
    repeat'
      first
      | with_reducible assumption | intro _ | with_reducible apply State.startCore_legal
      | with_reducible apply State.legal_foldl
  have h_e4 : e4.Legal := by
    dsimp only [e4]
    repeat'
      first
      | with_reducible assumption | with_reducible apply State.resumeBars_legal
      | with_reducible apply State.legal_ite
  (try clear_value e1)
  (try clear_value e2)
  (try clear_value e3)
  (try clear_value e4)
  repeat' first | with_reducible assumption | with_reducible apply State.modPwr_legal

theorem State.enterCoda_legal {s : State} (h_s : s.Legal) :
    (State.enterCoda s).Legal := by
  unfold State.enterCoda
  extract_lets e1
  try clear_value e1
  repeat'
    first
    | with_reducible assumption | intro _ | with_reducible apply State.coldReset_legal
    | with_reducible apply State.modPwr_legal | with_reducible apply State.legal_core
    | with_reducible apply State.legal_cdr
    | simp only [State.legal_with, VoiceCore.legal_with, State.legal_with_cdr_fields]
    | with_reducible apply State.legal_ite | split | dsimp only

theorem State.raiseMain_legal {s : State} (h_s : s.Legal) :
    (State.raiseMain s).Legal := by
  unfold State.raiseMain
  repeat'
    first
    | with_reducible assumption | intro _ | with_reducible apply State.modPwr_legal
    | with_reducible apply State.legal_core | with_reducible apply State.legal_cdr
    | simp only [State.legal_with, VoiceCore.legal_with, State.legal_with_cdr_fields]
    | with_reducible apply State.legal_ite | split | dsimp only

theorem State.wakePins_legal {s : State} {ev : WakeEvent} (h_s : s.Legal) : (State.wakePins s ev).Legal := by
  unfold State.wakePins
  repeat' first | with_reducible assumption | with_reducible apply State.modGpio_legal | split

theorem State.recordWake_legal {s : State} {ev : WakeEvent} (h_s : s.Legal) : (State.recordWake s ev).Legal := by
  unfold State.recordWake
  repeat' first | with_reducible assumption | with_reducible apply State.modPwr_legal

theorem State.wakeEdge_legal {s : State} {ev : WakeEvent} (h_s : s.Legal) : (State.wakeEdge s ev).Legal := by
  unfold State.wakeEdge
  repeat' first | with_reducible assumption | with_reducible apply State.edge_legal | split

theorem State.wakeBy_legal {s : State} {ev : WakeEvent} (h_s : s.Legal) :
    (State.wakeBy s ev).Legal := by
  unfold State.wakeBy
  repeat'
    first
    | with_reducible assumption | intro _ | with_reducible apply State.resumeDevice_legal
    | with_reducible apply State.wakeDuties_legal | with_reducible apply State.wakeEdge_legal
    | with_reducible apply State.legal_core | with_reducible apply State.legal_cdr
    | simp only [State.legal_with, VoiceCore.legal_with, State.legal_with_cdr_fields]
    | with_reducible apply State.legal_ite | split | dsimp only

theorem State.wakeIfDue_legal {s : State} (h_s : s.Legal) :
    (State.wakeIfDue s).Legal := by
  unfold State.wakeIfDue
  repeat'
    first
    | with_reducible assumption | intro _ | with_reducible apply State.modPwr_legal
    | with_reducible apply State.wakeBy_legal | with_reducible apply State.legal_core
    | with_reducible apply State.legal_cdr
    | simp only [State.legal_with, VoiceCore.legal_with, State.legal_with_cdr_fields]
    | with_reducible apply State.legal_ite | split | dsimp only

theorem State.wakeInEntry_legal {s : State} {ev : WakeEvent} (h_s : s.Legal) :
    (State.wakeInEntry s ev).Legal := by
  unfold State.wakeInEntry
  repeat'
    first
    | with_reducible assumption | intro _ | with_reducible apply State.modPwr_legal
    | with_reducible apply State.recordWake_legal | with_reducible apply State.legal_core
    | with_reducible apply State.legal_cdr
    | simp only [State.legal_with, VoiceCore.legal_with, State.legal_with_cdr_fields]
    | with_reducible apply State.legal_ite | split | dsimp only

theorem State.sleepEntry_legal {s : State} {coda : Bool} (h_s : s.Legal) :
    (State.sleepEntry s coda).Legal := by
  unfold State.sleepEntry
  repeat'
    first
    | with_reducible assumption | intro _ | with_reducible apply State.endBar_legal
    | with_reducible apply State.enterCoda_legal | with_reducible apply State.enterFermata_legal
    | with_reducible apply State.raiseMain_legal | with_reducible apply State.refuseSleep_legal
    | with_reducible apply State.stopDevice_legal | with_reducible apply State.wakeIfDue_legal
    | with_reducible apply State.legal_core | with_reducible apply State.legal_cdr
    | simp only [State.legal_with, VoiceCore.legal_with, State.legal_with_cdr_fields]
    | with_reducible apply State.legal_ite | split | dsimp only

theorem State.writeBackL1_legal {s : State} {c : Fin 12} (h_s : s.Legal) :
    (State.writeBackL1 s c).Legal := by
  unfold State.writeBackL1
  repeat'
    first
    | with_reducible assumption | intro _ | with_reducible apply State.legal_core
    | with_reducible apply State.legal_cdr
    | simp only [State.legal_with, VoiceCore.legal_with, State.legal_with_cdr_fields]
    | with_reducible apply State.legal_ite | split | dsimp only

theorem State.emptyL1_legal {s : State} {c : Fin 12} (h_s : s.Legal) :
    (State.emptyL1 s c).Legal := by
  unfold State.emptyL1
  extract_lets e1
  have h_e1 : e1.Legal := by
    dsimp only [e1]
    repeat'
      first
      | with_reducible assumption | intro _ | with_reducible apply State.writeBackL1_legal
      | with_reducible apply State.legal_core | with_reducible apply State.legal_cdr
      | simp only [State.legal_with, VoiceCore.legal_with, State.legal_with_cdr_fields]
      | with_reducible apply State.legal_ite | split | dsimp only
  try clear_value e1
  repeat'
    first
    | with_reducible assumption | intro _ | with_reducible apply State.writeBackL1_legal
    | with_reducible apply State.legal_core | with_reducible apply State.legal_cdr
    | simp only [State.legal_with, VoiceCore.legal_with, State.legal_with_cdr_fields]
    | with_reducible apply State.legal_ite | split | dsimp only

theorem State.haltCore_legal {s : State} {c : Fin 12} (h_s : s.Legal) : (State.haltCore s c).Legal := by
  unfold State.haltCore
  refine State.chorusHalt_legal (State.legal_setCore (State.legal_with.2 (State.emptyL1_legal (State.traceLeave_legal h_s)))
    (VoiceCore.legal_with.2 VoiceCore.reset_legal))

theorem State.writePeriod_legal {s : State} {v : BitVec 16} (h_s : s.Legal) : (State.writePeriod s v).Legal := by
  unfold State.writePeriod
  repeat' first | with_reducible assumption | with_reducible apply State.modPwr_legal

theorem State.sysConfig_legal {s : State} {off : Nat} {v : Word} (h_s : s.Legal) : (State.sysConfig s off v).Legal := by
  unfold State.sysConfig
  repeat'
    first
    | with_reducible assumption | with_reducible apply State.modPwr_legal
    | with_reducible apply State.writePeriod_legal | with_reducible apply State.kickWatchdog_legal
    | with_reducible apply State.legal_ite | split

theorem State.sysWrite_legal {s : State} {w : Initiator} {off : Nat} {v : Word} (h_s : s.Legal) :
    (State.sysWrite s w off v).Legal := by
  unfold State.sysWrite
  repeat'
    first
    | with_reducible assumption | with_reducible apply State.modPwr_legal
    | with_reducible apply State.sysConfig_legal | with_reducible apply State.legal_ite

end Sys2Proof.Machine
end

