-- ==== Sys2Proof/Laws/LegalPower.lean ====
section
/-! SUPPORT. A legal state stays legal: Power. -/
set_option Elab.async false
set_option linter.all false
namespace Sys2Proof.Machine

theorem State.porst_legal {s : State} {warmToo : Bool} {off : Nat} (h_s : s.Legal) :
    (State.porst s warmToo off).Legal := by
  unfold State.porst
  extract_lets e1 e2
  have h_e1 : e1.Legal := by
    dsimp only [e1]
    repeat'
      first
      | with_reducible assumption | intro _ | with_reducible apply State.aonFor_legal
      | with_reducible apply State.coldReset_legal | with_reducible apply State.markResets_legal
      | with_reducible apply State.modPwr_legal | with_reducible apply State.legal_core
      | with_reducible apply State.legal_cdr
      | simp only [State.legal_with, VoiceCore.legal_with, State.legal_with_cdr_fields]
      | with_reducible apply State.legal_ite | split | dsimp only
  have h_e2 : e2.Legal := by
    dsimp only [e2]
    repeat'
      first
      | with_reducible assumption | intro _ | with_reducible apply State.aonFor_legal
      | with_reducible apply State.coldReset_legal | with_reducible apply State.markResets_legal
      | with_reducible apply State.modPwr_legal | with_reducible apply State.legal_core
      | with_reducible apply State.legal_cdr
      | simp only [State.legal_with, VoiceCore.legal_with, State.legal_with_cdr_fields]
      | with_reducible apply State.legal_ite | split | dsimp only
  try clear_value e1
  try clear_value e2
  repeat'
    first
    | with_reducible assumption | intro _ | with_reducible apply State.aonFor_legal
    | with_reducible apply State.coldReset_legal | with_reducible apply State.markResets_legal
    | with_reducible apply State.modPwr_legal | with_reducible apply State.legal_core
    | with_reducible apply State.legal_cdr
    | simp only [State.legal_with, VoiceCore.legal_with, State.legal_with_cdr_fields]
    | with_reducible apply State.legal_ite | split | dsimp only

theorem execPorstN_legal {warmToo : Bool} {off : Nat} {s : State} (h_s : s.Legal) :
    Outcome.Legal (execPorstN warmToo off s) := by
  unfold execPorstN
  repeat'
    first
    | with_reducible assumption | with_reducible apply Outcome.legal_next
    | with_reducible apply State.porst_legal

theorem execPorstNRelease_legal {railsOk : Bool} {low : Option (Fin 5)} {s : State} (h_s : s.Legal) :
    Outcome.Legal (execPorstNRelease railsOk low s) := by
  unfold execPorstNRelease
  repeat'
    first
    | with_reducible assumption | intro _ | with_reducible apply Outcome.legal_next
    | with_reducible apply Outcome.legal_fault | with_reducible apply State.leaveReset_legal
    | with_reducible apply State.markResets_legal | with_reducible apply State.modPwr_legal
    | with_reducible apply State.porst_legal | with_reducible apply State.legal_core
    | with_reducible apply State.legal_cdr
    | simp only [State.legal_with, VoiceCore.legal_with, State.legal_with_cdr_fields]
    | with_reducible apply State.legal_ite | split | dsimp only

theorem execWarmrstN_legal {slept : Nat} {s : State} (h_s : s.Legal) :
    Outcome.Legal (execWarmrstN slept s) := by
  unfold execWarmrstN
  repeat'
    first
    | with_reducible assumption | intro _ | with_reducible apply Outcome.legal_next
    | with_reducible apply State.resetFor_legal | with_reducible apply State.resumeDevice_legal
    | with_reducible apply State.sleepFor_legal | with_reducible apply State.warmReset_legal
    | with_reducible apply State.legal_core | with_reducible apply State.legal_cdr
    | simp only [State.legal_with, VoiceCore.legal_with, State.legal_with_cdr_fields]
    | with_reducible apply State.legal_ite | split | dsimp only

theorem execVaonLoss_legal {s : State} (h_s : s.Legal) : Outcome.Legal (execVaonLoss s) := by
  unfold execVaonLoss
  repeat'
    first
    | with_reducible assumption | with_reducible apply Outcome.legal_next
    | with_reducible apply State.coldReset_legal | simp only [State.legal_with]

theorem execBrownout_legal {rail : Fin 5} {s : State} (h_s : s.Legal) :
    Outcome.Legal (execBrownout rail s) := by
  unfold execBrownout
  repeat'
    first
    | with_reducible assumption | intro _ | with_reducible apply Outcome.legal_next
    | with_reducible apply State.coldReset_legal | with_reducible apply State.markResets_legal
    | with_reducible apply State.modPwr_legal | with_reducible apply State.legal_core
    | with_reducible apply State.legal_cdr
    | simp only [State.legal_with, VoiceCore.legal_with, State.legal_with_cdr_fields]
    | with_reducible apply State.legal_ite | split | dsimp only

theorem execSupplyWarning_legal {rail : Fin 5} {s : State} (h_s : s.Legal) : Outcome.Legal (execSupplyWarning rail s) := by
  unfold execSupplyWarning
  repeat'
    first
    | with_reducible assumption | with_reducible apply Outcome.legal_next
    | with_reducible apply State.modPwr_legal | with_reducible apply State.legal_ite

theorem execSupplyWarningEnd_legal {rail : Fin 5} {s : State} (h_s : s.Legal) : Outcome.Legal (execSupplyWarningEnd rail s) := by
  unfold execSupplyWarningEnd
  repeat'
    first
    | with_reducible assumption | with_reducible apply Outcome.legal_next
    | with_reducible apply State.modPwr_legal | with_reducible apply State.leaveReset_legal
    | with_reducible apply State.legal_ite

theorem execThermalWarning_legal {tj : BitVec 10} {s : State} (h_s : s.Legal) : Outcome.Legal (execThermalWarning tj s) := by
  unfold execThermalWarning
  repeat'
    first
    | with_reducible assumption | with_reducible apply Outcome.legal_next
    | with_reducible apply State.modPwr_legal | with_reducible apply State.legal_ite

theorem execThermalTrip_legal {tj : BitVec 10} {s : State} (h_s : s.Legal) : Outcome.Legal (execThermalTrip tj s) := by
  unfold execThermalTrip
  repeat'
    first
    | with_reducible assumption | with_reducible apply Outcome.legal_next
    | with_reducible apply State.modPwr_legal | with_reducible apply State.coldReset_legal
    | with_reducible apply State.legal_ite

theorem execTjBelowWarning_legal {tj : BitVec 10} {s : State} (h_s : s.Legal) : Outcome.Legal (execTjBelowWarning tj s) := by
  unfold execTjBelowWarning
  repeat'
    first
    | with_reducible assumption | with_reducible apply Outcome.legal_next
    | with_reducible apply State.modPwr_legal | with_reducible apply State.leaveReset_legal
    | with_reducible apply State.legal_ite

theorem execDebugReset_legal {s : State} (h_s : s.Legal) : Outcome.Legal (execDebugReset s) := by
  unfold execDebugReset
  repeat'
    first
    | with_reducible assumption | intro _ | with_reducible apply ifOn_legal
    | with_reducible apply State.leaveReset_legal | with_reducible apply State.coldReset_legal
    | with_reducible apply State.legal_ite

theorem execCommandedReset_legal {s : State} (h_s : s.Legal) :
    Outcome.Legal (execCommandedReset s) := by
  unfold execCommandedReset
  repeat'
    first
    | with_reducible assumption | intro _ | with_reducible apply Outcome.legal_next
    | with_reducible apply State.resetFor_legal | with_reducible apply State.until_legal
    | with_reducible apply ifOn_legal | with_reducible apply State.legal_core | with_reducible apply State.legal_cdr
    | simp only [State.legal_with, VoiceCore.legal_with, State.legal_with_cdr_fields]
    | with_reducible apply State.legal_ite | split | dsimp only

theorem execCdrWdog_legal {s : State} (h_s : s.Legal) :
    Outcome.Legal (execCdrWdog s) := by
  unfold execCdrWdog
  repeat'
    first
    | with_reducible assumption | intro _ | with_reducible apply Outcome.legal_next
    | with_reducible apply State.resetFor_legal | with_reducible apply State.until_legal
    | with_reducible apply ifOn_legal | with_reducible apply State.legal_core | with_reducible apply State.legal_cdr
    | simp only [State.legal_with, VoiceCore.legal_with, State.legal_with_cdr_fields]
    | with_reducible apply State.legal_ite | split | dsimp only

theorem execWdogKick_legal {w : Initiator} {v : Word} {s : State} (h_s : s.Legal) : Outcome.Legal (execWdogKick w v s) := by
  unfold execWdogKick
  repeat'
    first
    | with_reducible assumption | intro _ | with_reducible apply ifActs_legal
    | with_reducible apply State.sysWrite_legal

theorem execFermataEntry_legal {s : State} (h_s : s.Legal) :
    Outcome.Legal (execFermataEntry s) := by
  unfold execFermataEntry
  repeat'
    first
    | with_reducible assumption | intro _ | with_reducible apply Outcome.legal_next
    | with_reducible apply State.sleepEntry_legal | with_reducible apply ifOn_legal
    | with_reducible apply State.legal_core | with_reducible apply State.legal_cdr
    | simp only [State.legal_with, VoiceCore.legal_with, State.legal_with_cdr_fields]
    | with_reducible apply State.legal_ite | split | dsimp only

theorem execCodaEntry_legal {s : State} (h_s : s.Legal) :
    Outcome.Legal (execCodaEntry s) := by
  unfold execCodaEntry
  repeat'
    first
    | with_reducible assumption | intro _ | with_reducible apply Outcome.legal_next
    | with_reducible apply State.sleepEntry_legal | with_reducible apply ifOn_legal
    | with_reducible apply State.legal_core | with_reducible apply State.legal_cdr
    | simp only [State.legal_with, VoiceCore.legal_with, State.legal_with_cdr_fields]
    | with_reducible apply State.legal_ite | split | dsimp only

theorem State.fermataEvent_legal {s : State} {ev : WakeEvent} {slept : Nat} (h_s : s.Legal) :
    (State.fermataEvent s ev slept).Legal := by
  unfold State.fermataEvent
  repeat'
    first
    | with_reducible assumption | intro _ | with_reducible apply State.recordWake_legal
    | with_reducible apply State.sleepFor_legal | with_reducible apply State.wakeBy_legal
    | with_reducible apply State.wakePins_legal | with_reducible apply State.legal_core
    | with_reducible apply State.legal_cdr
    | simp only [State.legal_with, VoiceCore.legal_with, State.legal_with_cdr_fields]
    | with_reducible apply State.legal_ite | split | dsimp only

theorem State.entryEvent_legal {s : State} {ev : WakeEvent} {slept : Nat} (h_s : s.Legal) :
    (State.entryEvent s ev slept).Legal := by
  unfold State.entryEvent
  extract_lets e1 e2 e3
  have h_e2 : e2.Legal := by
    dsimp only [e2]
    repeat'
      first
      | with_reducible assumption | intro _ | with_reducible apply State.elapse_legal
      | with_reducible apply State.pinTakes_legal | with_reducible apply State.wakeInEntry_legal
      | with_reducible apply State.legal_core | with_reducible apply State.legal_cdr
      | simp only [State.legal_with, VoiceCore.legal_with, State.legal_with_cdr_fields]
      | with_reducible apply State.legal_ite | split | dsimp only
  have h_e3 : e3.Legal := by
    dsimp only [e3]
    repeat'
      first
      | with_reducible assumption | intro _ | with_reducible apply State.elapse_legal
      | with_reducible apply State.pinTakes_legal | with_reducible apply State.wakeInEntry_legal
      | with_reducible apply State.legal_core | with_reducible apply State.legal_cdr
      | simp only [State.legal_with, VoiceCore.legal_with, State.legal_with_cdr_fields]
      | with_reducible apply State.legal_ite | split | dsimp only
  try clear_value e1
  try clear_value e2
  try clear_value e3
  repeat'
    first
    | with_reducible assumption | intro _ | with_reducible apply State.elapse_legal
    | with_reducible apply State.pinTakes_legal | with_reducible apply State.wakeInEntry_legal
    | with_reducible apply State.legal_core | with_reducible apply State.legal_cdr
    | simp only [State.legal_with, VoiceCore.legal_with, State.legal_with_cdr_fields]
    | with_reducible apply State.legal_ite | split | dsimp only

theorem execFermataWake_legal {ev : WakeEvent} {slept : Nat} {s : State} (h_s : s.Legal) :
    Outcome.Legal (execFermataWake ev slept s) := by
  unfold execFermataWake
  repeat'
    first
    | with_reducible assumption | intro _ | with_reducible apply Outcome.legal_next
    | with_reducible apply State.entryEvent_legal | with_reducible apply State.fermataEvent_legal
    | with_reducible apply State.legal_core | with_reducible apply State.legal_cdr
    | simp only [State.legal_with, VoiceCore.legal_with, State.legal_with_cdr_fields]
    | with_reducible apply State.legal_ite | split | dsimp only

theorem execCodaWake_legal {ev : WakeEvent} {slept : Nat} {s : State} (h_s : s.Legal) :
    Outcome.Legal (execCodaWake ev slept s) := by
  unfold execCodaWake
  repeat'
    first
    | with_reducible assumption | intro _ | with_reducible apply Outcome.legal_next
    | with_reducible apply State.aonFor_legal | with_reducible apply State.entryEvent_legal
    | with_reducible apply State.raiseMain_legal | with_reducible apply State.recordWake_legal
    | with_reducible apply State.legal_core | with_reducible apply State.legal_cdr
    | simp only [State.legal_with, VoiceCore.legal_with, State.legal_with_cdr_fields]
    | with_reducible apply State.legal_ite | split | dsimp only

theorem execGpioInputChange_legal {pin : Fin 64} {level : Bool} {s : State} (h_s : s.Legal) :
    Outcome.Legal (execGpioInputChange pin level s) := by
  unfold execGpioInputChange
  repeat'
    first
    | with_reducible assumption | intro _ | with_reducible apply Outcome.legal_next
    | with_reducible apply State.fermataEvent_legal | with_reducible apply State.modGpio_legal
    | with_reducible apply State.pinTakes_legal | with_reducible apply State.legal_core
    | with_reducible apply State.legal_cdr
    | simp only [State.legal_with, VoiceCore.legal_with, State.legal_with_cdr_fields]
    | with_reducible apply State.legal_ite | split | dsimp only

theorem execPwrFail_legal {s : State} (h_s : s.Legal) : Outcome.Legal (execPwrFail s) := by
  unfold execPwrFail
  repeat'
    first
    | with_reducible assumption | with_reducible apply Outcome.legal_next
    | with_reducible apply State.modPwr_legal | with_reducible apply State.aonFor_legal
    | with_reducible apply State.legal_ite

theorem execMainRailsInRange_legal {s : State} (h_s : s.Legal) : Outcome.Legal (execMainRailsInRange s) := by
  unfold execMainRailsInRange
  repeat'
    first
    | with_reducible assumption | with_reducible apply Outcome.legal_next
    | with_reducible apply State.leaveReset_legal | with_reducible apply State.modPwr_legal
    | with_reducible apply State.coldReset_legal | with_reducible apply State.aonFor_legal
    | with_reducible apply State.legal_ite

theorem haltCoresCmd_legal : CmdDef.Legal haltCoresCmd := by
  refine ⟨fun c s h_s => ?_⟩
  dsimp only [haltCoresCmd, mkCmd]
  repeat'
    first
    | with_reducible assumption | intro _ | with_reducible apply okCmd_legal
    | with_reducible apply State.haltCore_legal | with_reducible apply State.legal_ite
    | with_reducible apply State.legal_foldl

theorem execHaltCores_legal {h : Header} {mask : Word} {s : State} (h_s : s.Legal) : Outcome.Legal (execHaltCores h mask s) := by
  unfold execHaltCores
  repeat'
    first
    | with_reducible assumption | with_reducible apply cmdRow_legal
    | with_reducible apply haltCoresCmd_legal

theorem sysResetCmd_legal : CmdDef.Legal sysResetCmd := by
  refine ⟨fun c s h_s => ?_⟩
  dsimp only [sysResetCmd, mkCmd]
  repeat'
    first
    | with_reducible assumption | intro _ | with_reducible apply okCmd_legal
    | with_reducible apply State.modRings_legal

theorem execSysResetWarm_legal {h : Header} {s : State} (h_s : s.Legal) : Outcome.Legal (execSysResetWarm h s) := by
  unfold execSysResetWarm
  repeat' first | with_reducible assumption | with_reducible apply cmdRow_legal | with_reducible apply sysResetCmd_legal

theorem execSysResetCold_legal {h : Header} {s : State} (h_s : s.Legal) : Outcome.Legal (execSysResetCold h s) := by
  unfold execSysResetCold
  repeat' first | with_reducible assumption | with_reducible apply cmdRow_legal | with_reducible apply sysResetCmd_legal

theorem State.sleepAsked_legal {s : State} {ps : List Word} (h_s : s.Legal) :
    (State.sleepAsked s ps).Legal := by
  unfold State.sleepAsked
  extract_lets e1 e2 e3
  have h_e2 : e2.Legal := by
    dsimp only [e2]
    repeat'
      first
      | with_reducible assumption | intro _ | with_reducible apply State.linkSleep_legal
      | with_reducible apply State.mirrorUpdate_legal | with_reducible apply State.modPwr_legal
      | with_reducible apply State.modRings_legal | with_reducible apply State.legal_core
      | with_reducible apply State.legal_cdr
      | simp only [State.legal_with, VoiceCore.legal_with, State.legal_with_cdr_fields]
      | with_reducible apply State.legal_ite | split | dsimp only
  have h_e3 : e3.Legal := by
    dsimp only [e3]
    repeat'
      first
      | with_reducible assumption | intro _ | with_reducible apply State.linkSleep_legal
      | with_reducible apply State.mirrorUpdate_legal | with_reducible apply State.modPwr_legal
      | with_reducible apply State.modRings_legal | with_reducible apply State.legal_core
      | with_reducible apply State.legal_cdr
      | simp only [State.legal_with, VoiceCore.legal_with, State.legal_with_cdr_fields]
      | with_reducible apply State.legal_ite | split | dsimp only
  try clear_value e1
  try clear_value e2
  try clear_value e3
  repeat'
    first
    | with_reducible assumption | intro _ | with_reducible apply State.linkSleep_legal
    | with_reducible apply State.mirrorUpdate_legal | with_reducible apply State.modPwr_legal
    | with_reducible apply State.modRings_legal | with_reducible apply State.legal_core
    | with_reducible apply State.legal_cdr
    | simp only [State.legal_with, VoiceCore.legal_with, State.legal_with_cdr_fields]
    | with_reducible apply State.legal_ite | split | dsimp only

theorem powerEnterCmd_legal : CmdDef.Legal powerEnterCmd := by
  refine ⟨fun c s h_s => ?_⟩
  dsimp only [powerEnterCmd, mkCmd]
  repeat' first | with_reducible assumption | with_reducible apply State.sleepAsked_legal | split

theorem execPowerEnterFermata_legal {h : Header} {wake : Word} {s0 : Word} {s1 : Word} {s : State} (h_s : s.Legal) :
    Outcome.Legal (execPowerEnterFermata h wake s0 s1 s) := by
  unfold execPowerEnterFermata
  repeat'
    first
    | with_reducible assumption | with_reducible apply cmdRow_legal
    | with_reducible apply powerEnterCmd_legal

theorem execPowerEnterCoda_legal {h : Header} {wake : Word} {s0 : Word} {s1 : Word} {s : State} (h_s : s.Legal) :
    Outcome.Legal (execPowerEnterCoda h wake s0 s1 s) := by
  unfold execPowerEnterCoda
  repeat'
    first
    | with_reducible assumption | with_reducible apply cmdRow_legal
    | with_reducible apply powerEnterCmd_legal

theorem coreHushCmd_legal : CmdDef.Legal coreHushCmd := by
  refine ⟨fun c s h_s => ?_⟩
  dsimp only [coreHushCmd, mkCmd]
  repeat'
    first
    | with_reducible assumption | intro _ | with_reducible apply State.writeBackL1_legal | with_reducible apply State.legal_modCore
    | simp only [VoiceCore.legal_with] | with_reducible apply State.legal_foldl | split

theorem execCoreHushEnter_legal {h : Header} {mask : Word} {s : State} (h_s : s.Legal) :
    Outcome.Legal (execCoreHushEnter h mask s) := by
  unfold execCoreHushEnter
  repeat' first | with_reducible assumption | with_reducible apply cmdRow_legal | with_reducible apply coreHushCmd_legal

theorem execCoreHushLeave_legal {h : Header} {mask : Word} {s : State} (h_s : s.Legal) :
    Outcome.Legal (execCoreHushLeave h mask s) := by
  unfold execCoreHushLeave
  repeat' first | with_reducible assumption | with_reducible apply cmdRow_legal | with_reducible apply coreHushCmd_legal

theorem clockSetCmd_legal : CmdDef.Legal clockSetCmd := by
  refine ⟨fun c s h_s => ?_⟩
  dsimp only [clockSetCmd, mkCmd]
  repeat' first | with_reducible assumption | with_reducible apply State.modPwr_legal | split

theorem execClockSet_legal {h : Header} {mask : Word} {mhz : Word} {s : State} (h_s : s.Legal) :
    Outcome.Legal (execClockSet h mask mhz s) := by
  unfold execClockSet
  repeat' first | with_reducible assumption | with_reducible apply cmdRow_legal | with_reducible apply clockSetCmd_legal

theorem execClockSetTimeout_legal {s : State} (h_s : s.Legal) : Outcome.Legal (execClockSetTimeout s) := by
  unfold execClockSetTimeout
  repeat'
    first
    | with_reducible assumption | intro _ | with_reducible apply ifOn_legal
    | with_reducible apply State.finish_legal | with_reducible apply State.until_legal | split

end Sys2Proof.Machine
end

