-- ==== Sys2Proof/Laws/LegalTrust.lean ====
section
/-! SUPPORT. A legal state stays legal: Trust. -/
set_option Elab.async false
set_option linter.all false
namespace Sys2Proof.Machine

theorem execFzCmd_legal {w : Initiator} {v : Word} {s : State} (h_s : s.Legal) : Outcome.Legal (execFzCmd w v s) := by
  unfold execFzCmd
  repeat'
    first
    | with_reducible assumption | intro _ | with_reducible apply ifActs_legal
    | with_reducible apply State.fuseRegWrite_legal | with_reducible apply State.legal_ite

theorem State.fuseNext_legal {s : State} {ok : Bool} (h_s : s.Legal) : (State.fuseNext s ok).Legal := by
  unfold State.fuseNext
  repeat'
    first
    | with_reducible assumption | with_reducible apply State.setCmd_legal
    | with_reducible apply State.modBoot_legal | with_reducible apply State.legal_ite | split

theorem State.fuseEnd_legal {s : State} {ok : Bool} (h_s : s.Legal) : (State.fuseEnd s ok).Legal := by
  unfold State.fuseEnd
  repeat'
    first
    | with_reducible assumption | with_reducible apply State.fuseNext_legal
    | with_reducible apply State.modBoot_legal | with_reducible apply State.blow_legal | split

theorem execFuseProgramEnd_legal {ok : Bool} {s : State} (h_s : s.Legal) : Outcome.Legal (execFuseProgramEnd ok s) := by
  unfold execFuseProgramEnd
  repeat'
    first
    | with_reducible assumption | intro _ | with_reducible apply ifOn_legal
    | with_reducible apply State.fuseEnd_legal

theorem execDebugChallengeRequest_legal {s : State} (h_s : s.Legal) : Outcome.Legal (execDebugChallengeRequest s) := by
  unfold execDebugChallengeRequest
  repeat'
    first
    | with_reducible assumption | intro _ | with_reducible apply ifOn_legal
    | with_reducible apply State.modBoot_legal | with_reducible apply State.newChallenge_legal
    | with_reducible apply State.legal_ite

theorem execDebugSessionClose_legal {s : State} (h_s : s.Legal) : Outcome.Legal (execDebugSessionClose s) := by
  unfold execDebugSessionClose
  repeat'
    first
    | with_reducible assumption | intro _ | with_reducible apply ifOn_legal
    | with_reducible apply State.closeSession_legal

theorem execDebugResponse_legal {ws : List Word} {s : State} (h_s : s.Legal) : Outcome.Legal (execDebugResponse ws s) := by
  unfold execDebugResponse
  repeat'
    first
    | with_reducible assumption | intro _ | with_reducible apply ifOn_legal
    | with_reducible apply State.modBoot_legal | with_reducible apply State.legal_ite

theorem execDebugCheckComplete_legal {s : State} (h_s : s.Legal) : Outcome.Legal (execDebugCheckComplete s) := by
  unfold execDebugCheckComplete
  repeat'
    first
    | with_reducible assumption | intro _ | with_reducible apply ifOn_legal
    | with_reducible apply State.checkEnd_legal | with_reducible apply State.legal_ite

theorem execSentinelComplete_legal {gold : BitVec 100} {errWorking : Bool} {errGolden : Bool}
  {s : State} (h_s : s.Legal) :
    Outcome.Legal (execSentinelComplete gold errWorking errGolden s) := by
  unfold execSentinelComplete
  repeat'
    first
    | with_reducible assumption | intro _ | with_reducible apply Outcome.legal_next
    | with_reducible apply State.sentinelEnd_legal | with_reducible apply ifOn_legal
    | with_reducible apply State.legal_core | with_reducible apply State.legal_cdr
    | simp only [State.legal_with, VoiceCore.legal_with, State.legal_with_cdr_fields]
    | with_reducible apply State.legal_ite | split | dsimp only

theorem execVoiceImageLoad_legal {bad : BitVec 4} {s : State} (h_s : s.Legal) : Outcome.Legal (execVoiceImageLoad bad s) := by
  unfold execVoiceImageLoad
  repeat'
    first
    | with_reducible assumption | intro _ | with_reducible apply ifOn_legal
    | with_reducible apply State.runImages_legal | with_reducible apply State.modBoot_legal
    | with_reducible apply State.legal_ite

theorem slotInfoCmd_legal : CmdDef.Legal slotInfoCmd := by
  refine ⟨fun c s h_s => ?_⟩
  dsimp only [slotInfoCmd, mkCmd]
  repeat' with_reducible assumption

theorem execSlotInfo_legal {h : Header} {slot : Word} {s : State} (h_s : s.Legal) : Outcome.Legal (execSlotInfo h slot s) := by
  unfold execSlotInfo
  repeat' first | with_reducible assumption | with_reducible apply cmdRow_legal | with_reducible apply slotInfoCmd_legal

theorem State.slotErase_legal {s : State} (h_s : s.Legal) : (State.slotErase s).Legal := by
  unfold State.slotErase
  repeat'
    first
    | with_reducible assumption | with_reducible apply State.writeRecord_legal
    | with_reducible apply Memory.clearWords_wf | with_reducible apply State.Legal.flash | apply State.legal_with_flash

theorem slotWriteCmd_legal : CmdDef.Legal slotWriteCmd := by
  refine ⟨fun c s h_s => ?_⟩
  dsimp only [slotWriteCmd, mkCmd]
  repeat' first | with_reducible assumption | with_reducible apply State.slotErase_legal | split

theorem execSlotErase_legal {h : Header} {slot : Word} {off : Word} {p0 : Word} {p1 : Word} {s : State} (h_s : s.Legal) :
    Outcome.Legal (execSlotErase h slot off p0 p1 s) := by
  unfold execSlotErase
  repeat'
    first
    | with_reducible assumption | with_reducible apply cmdRow_legal
    | with_reducible apply slotWriteCmd_legal

theorem execSlotWrite_legal {h : Header} {slot : Word} {off : Word} {p0 : Word} {p1 : Word} {len : Word} {s : State} (h_s : s.Legal) :
    Outcome.Legal (execSlotWrite h slot off p0 p1 len s) := by
  unfold execSlotWrite
  repeat'
    first
    | with_reducible assumption | with_reducible apply cmdRow_legal
    | with_reducible apply slotWriteCmd_legal

theorem State.slotProgram_legal {s : State} {c : Cmd} {readErr : Bool} (h_s : s.Legal) :
    (State.slotProgram s c readErr).Legal := by
  unfold State.slotProgram
  extract_lets e1 e2 e3
  have h_e2 : e2.1.Legal := by
    dsimp only [e2]
    repeat' first | with_reducible assumption | with_reducible apply State.cdrWords_legal
  have h_e3 : e3.Legal := by
    dsimp only [e3]
    repeat' with_reducible assumption
  (try clear_value e1)
  (try clear_value e2)
  (try clear_value e3)
  repeat'
    first
    | with_reducible assumption | with_reducible apply State.finish_legal
    | with_reducible apply State.legal_ite | with_reducible apply Memory.setWords_wf
    | with_reducible apply State.Legal.flash | apply State.legal_with_flash

theorem slotVerifyCmd_legal : CmdDef.Legal slotVerifyCmd := by
  refine ⟨fun c s h_s => ?_⟩
  dsimp only [slotVerifyCmd, mkCmd]
  repeat' with_reducible assumption

theorem execSlotVerify_legal {h : Header} {slot : Word} {s : State} (h_s : s.Legal) :
    Outcome.Legal (execSlotVerify h slot s) := by
  unfold execSlotVerify
  repeat'
    first
    | with_reducible assumption | with_reducible apply cmdRow_legal
    | with_reducible apply slotVerifyCmd_legal

theorem State.slotVerified_legal {s : State} {c : Cmd} {readErr : Bool} (h_s : s.Legal) :
    (State.slotVerified s c readErr).Legal := by
  unfold State.slotVerified
  repeat' first | with_reducible assumption | with_reducible apply State.finish_legal

theorem slotCommitCmd_legal : CmdDef.Legal slotCommitCmd := by
  refine ⟨fun c s h_s => ?_⟩
  dsimp only [slotCommitCmd, mkCmd]
  repeat' with_reducible assumption

theorem execSlotCommit_legal {h : Header} {s : State} (h_s : s.Legal) : Outcome.Legal (execSlotCommit h s) := by
  unfold execSlotCommit
  repeat'
    first
    | with_reducible assumption | with_reducible apply cmdRow_legal
    | with_reducible apply slotCommitCmd_legal

theorem State.slotCommitted_legal {s : State} {c : Cmd} {readErr : Bool} (h_s : s.Legal) :
    (State.slotCommitted s c readErr).Legal := by
  unfold State.slotCommitted
  repeat'
    first
    | with_reducible assumption | with_reducible apply State.finish_legal
    | with_reducible apply State.floorFollows_legal | with_reducible apply State.writeRecord_legal
    | with_reducible apply State.legal_ite

theorem rescoreCmd_legal : CmdDef.Legal rescoreCmd := by
  refine ⟨fun c s h_s => ?_⟩
  dsimp only [rescoreCmd, mkCmd]
  repeat' with_reducible assumption

theorem execRescore_legal {h : Header} {s : State} (h_s : s.Legal) : Outcome.Legal (execRescore h s) := by
  unfold execRescore
  repeat' first | with_reducible assumption | with_reducible apply cmdRow_legal | with_reducible apply rescoreCmd_legal

theorem imageSealCmd_legal : CmdDef.Legal imageSealCmd := by
  refine ⟨fun c s h_s => ?_⟩
  dsimp only [imageSealCmd, mkCmd]
  repeat' with_reducible assumption

theorem execImageSeal_legal {h : Header} {a0 : Word} {a1 : Word} {len : Word} {s : State} (h_s : s.Legal) :
    Outcome.Legal (execImageSeal h a0 a1 len s) := by
  unfold execImageSeal
  repeat'
    first
    | with_reducible assumption | with_reducible apply cmdRow_legal
    | with_reducible apply imageSealCmd_legal

theorem State.imageSealed_legal {s : State} {c : Cmd} {readErr : Bool} (h_s : s.Legal) :
    (State.imageSealed s c readErr).Legal := by
  have h {m : Memory} {a : Nat} {bs : List Byte} (h : Memory.wf flashDefault m = true) := programFlash_wf (a := a) (bs := bs) h
  unfold State.imageSealed
  repeat'
    first
    | with_reducible assumption | with_reducible apply State.finish_legal
    | with_reducible apply State.writeRecord_legal | with_reducible apply State.legal_ite
    | exact State.legal_with_xflash h_s (h h_s.xflash)

theorem fuseWriteCmd_legal : CmdDef.Legal fuseWriteCmd := by
  refine ⟨fun c s h_s => ?_⟩
  dsimp only [fuseWriteCmd, mkCmd]
  repeat' first | with_reducible assumption | with_reducible apply State.modBoot_legal

theorem execFuseWrite_legal {h : Header} {row : Word} {data : List Word} {s : State} (h_s : s.Legal) :
    Outcome.Legal (execFuseWrite h row data s) := by
  unfold execFuseWrite
  repeat'
    first
    | with_reducible assumption | with_reducible apply cmdRow_legal
    | with_reducible apply fuseWriteCmd_legal

theorem State.fuseRest_legal {s : State} {err : Bool} {a : Nat} (h_s : s.Legal) : (State.fuseRest s err a).Legal := by
  induction a generalizing s with
  | zero => exact h_s
  | succ n ih => exact State.legal_ite h_s (ih (State.fuseEnd_legal h_s))

theorem State.fusesWritten_legal {s : State} {c : Cmd} {err : Bool} (h_s : s.Legal) : (State.fusesWritten s c err).Legal := by
  unfold State.fusesWritten
  extract_lets e1
  have h_e1 : e1.Legal := by
    dsimp only [e1]
    repeat' first | with_reducible assumption | with_reducible apply State.fuseRest_legal
  (try clear_value e1)
  repeat'
    first
    | with_reducible assumption | with_reducible apply State.finish_legal
    | with_reducible apply State.dropCmd_legal | split

theorem traceAuthCmd_legal : CmdDef.Legal traceAuthCmd := by
  refine ⟨fun c s h_s => ?_⟩
  dsimp only [traceAuthCmd, mkCmd]
  repeat' with_reducible assumption

theorem execTraceAuth_legal {h : Header} {p0 : Word} {p1 : Word} {len : Word} {s : State} (h_s : s.Legal) :
    Outcome.Legal (execTraceAuth h p0 p1 len s) := by
  unfold execTraceAuth
  repeat'
    first
    | with_reducible assumption | with_reducible apply cmdRow_legal
    | with_reducible apply traceAuthCmd_legal

theorem State.traceAuthorised_legal {s : State} {c : Cmd} {readErr : Bool} (h_s : s.Legal) :
    (State.traceAuthorised s c readErr).Legal := by
  unfold State.traceAuthorised
  extract_lets e1 e2 e3
  have h_e1 : e1.1.Legal := by
    dsimp only [e1]
    repeat' first | with_reducible assumption | with_reducible apply State.cdrWords_legal
  have h_e2 : e2.Legal := by
    dsimp only [e2]
    repeat' with_reducible assumption
  (try clear_value e1)
  (try clear_value e2)
  (try clear_value e3)
  repeat'
    first
    | with_reducible assumption | with_reducible apply State.finish_legal
    | with_reducible apply State.modBoot_legal | with_reducible apply State.legal_ite

end Sys2Proof.Machine
end

