-- ==== Sys2Proof/Laws/LegalBar.lean ====
section
/-! SUPPORT. A legal state stays legal: Bar. -/
set_option Elab.async false
set_option linter.all false
namespace Sys2Proof.Machine

theorem execBarBoundary_legal {s : State} (h_s : s.Legal) : Outcome.Legal (execBarBoundary s) := by
  unfold execBarBoundary
  repeat'
    first
    | with_reducible assumption | intro _ | with_reducible apply ifOn_legal
    | with_reducible apply State.endBar_legal | with_reducible apply State.legal_ite

theorem execBeatBoundary_legal {s : State} (h_s : s.Legal) : Outcome.Legal (execBeatBoundary s) := by
  unfold execBeatBoundary
  repeat'
    first
    | with_reducible assumption | intro _ | with_reducible apply ifOn_legal
    | with_reducible apply State.nextBeat_legal | with_reducible apply State.legal_ite

theorem execFirstBarStart_legal {s : State} (h_s : s.Legal) : Outcome.Legal (execFirstBarStart s) := by
  unfold execFirstBarStart
  repeat'
    first
    | with_reducible assumption | intro _ | with_reducible apply ifOn_legal
    | with_reducible apply State.firstBar_legal

theorem execRunSet_legal {w : Initiator} {s : State} (h_s : s.Legal) : Outcome.Legal (execRunSet w s) := by
  unfold execRunSet
  repeat'
    first
    | with_reducible assumption | intro _ | with_reducible apply ifActs_legal
    | with_reducible apply State.barCtl_legal

theorem execRunClear_legal {w : Initiator} {s : State} (h_s : s.Legal) : Outcome.Legal (execRunClear w s) := by
  unfold execRunClear
  repeat'
    first
    | with_reducible assumption | intro _ | with_reducible apply ifActs_legal
    | with_reducible apply State.barCtl_legal

theorem execGarm_legal {w : Initiator} {s : State} (h_s : s.Legal) : Outcome.Legal (execGarm w s) := by
  unfold execGarm
  repeat'
    first
    | with_reducible assumption | intro _ | with_reducible apply ifActs_legal
    | with_reducible apply State.barCtl_legal

theorem execArm_legal {w : Initiator} {c : Fin 12} {v : Word} {s : State} (h_s : s.Legal) : Outcome.Legal (execArm w c v s) := by
  unfold execArm
  repeat'
    first
    | with_reducible assumption | intro _ | with_reducible apply ifActs_legal
    | with_reducible apply State.coreBctl_legal

theorem execStagingWrite_legal {w : Initiator} {c : Fin 12} {n : Fin 6} {v : Word} {s : State} (h_s : s.Legal) :
    Outcome.Legal (execStagingWrite w c n v s) := by
  unfold execStagingWrite
  repeat'
    first
    | with_reducible assumption | intro _ | with_reducible apply ifActs_legal
    | with_reducible apply State.stage__legal

theorem execOvrClr_legal {w : Initiator} {v : Word} {s : State} (h_s : s.Legal) : Outcome.Legal (execOvrClr w v s) := by
  unfold execOvrClr
  repeat'
    first
    | with_reducible assumption | intro _ | with_reducible apply ifActs_legal
    | with_reducible apply State.ovrClr_legal

theorem barConfigCmd_legal : CmdDef.Legal barConfigCmd := by
  refine ⟨fun c s h_s => ?_⟩
  dsimp only [barConfigCmd, mkCmd]
  repeat' first | with_reducible assumption | with_reducible apply State.modBar_legal

theorem execBarConfig_legal {h : Header} {p : Word} {b : Word} {off : Word} {refq : Word} {reh : Word} {s : State} (h_s : s.Legal) :
    Outcome.Legal (execBarConfig h p b off refq reh s) := by
  unfold execBarConfig
  repeat'
    first
    | with_reducible assumption | with_reducible apply cmdRow_legal
    | with_reducible apply barConfigCmd_legal

theorem barRunCmd_legal : CmdDef.Legal barRunCmd := by
  refine ⟨fun c s h_s => ?_⟩
  dsimp only [barRunCmd, mkCmd]
  repeat' first | with_reducible assumption | with_reducible apply State.barCtl_legal

theorem execBarRun_legal {h : Header} {run : Word} {s : State} (h_s : s.Legal) : Outcome.Legal (execBarRun h run s) := by
  unfold execBarRun
  repeat' first | with_reducible assumption | with_reducible apply cmdRow_legal | with_reducible apply barRunCmd_legal

theorem barLockCmd_legal : CmdDef.Legal barLockCmd := by
  refine ⟨fun c s h_s => ?_⟩
  dsimp only [barLockCmd, mkCmd]
  repeat'
    first
    | with_reducible assumption | intro _ | with_reducible apply okCmd_legal
    | with_reducible apply State.modBar_legal

theorem execBarLock_legal {h : Header} {s : State} (h_s : s.Legal) : Outcome.Legal (execBarLock h s) := by
  unfold execBarLock
  repeat' first | with_reducible assumption | with_reducible apply cmdRow_legal | with_reducible apply barLockCmd_legal

theorem barReadCmd_legal : CmdDef.Legal barReadCmd := by
  refine ⟨fun c s h_s => ?_⟩
  dsimp only [barReadCmd, mkCmd]
  repeat' with_reducible assumption

theorem execBarRead_legal {h : Header} {part : Word} {s : State} (h_s : s.Legal) : Outcome.Legal (execBarRead h part s) := by
  unfold execBarRead
  repeat' first | with_reducible assumption | with_reducible apply cmdRow_legal | with_reducible apply barReadCmd_legal

end Sys2Proof.Machine
end

