-- ==== Sys2Proof/Laws/LegalTempo.lean ====
section
/-! SUPPORT. A legal state stays legal: Tempo. -/
set_option Elab.async false
set_option linter.all false
namespace Sys2Proof.Machine

theorem timeReadCmd_legal : CmdDef.Legal timeReadCmd := by
  refine ⟨fun c s h_s => ?_⟩
  dsimp only [timeReadCmd, mkCmd]
  repeat' with_reducible assumption

theorem execTimeRead_legal {h : Header} {s : State} (h_s : s.Legal) : Outcome.Legal (execTimeRead h s) := by
  unfold execTimeRead
  repeat' first | with_reducible assumption | with_reducible apply cmdRow_legal | with_reducible apply timeReadCmd_legal

theorem timeSetCmd_legal : CmdDef.Legal timeSetCmd := by
  refine ⟨fun c s h_s => ?_⟩
  dsimp only [timeSetCmd, mkCmd]
  repeat'
    first
    | with_reducible assumption | with_reducible apply State.schedule_legal
    | with_reducible apply State.clearPend_legal

theorem execTimeSet_legal {h : Header} {s0 : Word} {s1 : Word} {ns : Word} {s : State} (h_s : s.Legal) :
    Outcome.Legal (execTimeSet h s0 s1 ns s) := by
  unfold execTimeSet
  repeat' first | with_reducible assumption | with_reducible apply cmdRow_legal | with_reducible apply timeSetCmd_legal

theorem tempoRefsCmd_legal : CmdDef.Legal tempoRefsCmd := by
  refine ⟨fun c s h_s => ?_⟩
  dsimp only [tempoRefsCmd, mkCmd]
  repeat'
    first
    | with_reducible assumption | intro _ | with_reducible apply okCmd_legal
    | with_reducible apply State.modTempo_legal

theorem execTempoRefs_legal {h : Header} {mask : Word} {s : State} (h_s : s.Legal) : Outcome.Legal (execTempoRefs h mask s) := by
  unfold execTempoRefs
  repeat'
    first
    | with_reducible assumption | with_reducible apply cmdRow_legal
    | with_reducible apply tempoRefsCmd_legal

theorem tempoPolicyCmd_legal : CmdDef.Legal tempoPolicyCmd := by
  refine ⟨fun c s h_s => ?_⟩
  dsimp only [tempoPolicyCmd, mkCmd]
  repeat'
    first
    | with_reducible assumption | intro _ | with_reducible apply okCmd_legal
    | with_reducible apply State.modTempo_legal

theorem execTempoPolicy_legal {h : Header} {step : Word} {limit : Word} {err : Word} {s : State} (h_s : s.Legal) :
    Outcome.Legal (execTempoPolicy h step limit err s) := by
  unfold execTempoPolicy
  repeat'
    first
    | with_reducible assumption | with_reducible apply cmdRow_legal
    | with_reducible apply tempoPolicyCmd_legal

theorem tempoStepCmd_legal : CmdDef.Legal tempoStepCmd := by
  refine ⟨fun c s h_s => ?_⟩
  dsimp only [tempoStepCmd, mkCmd]
  repeat' first | with_reducible assumption | with_reducible apply State.requestHeld_legal | split

theorem execTempoStep_legal {h : Header} {s : State} (h_s : s.Legal) : Outcome.Legal (execTempoStep h s) := by
  unfold execTempoStep
  repeat'
    first
    | with_reducible assumption | with_reducible apply cmdRow_legal
    | with_reducible apply tempoStepCmd_legal

theorem ptpCorrectCmd_legal : CmdDef.Legal ptpCorrectCmd := by
  refine ⟨fun c s h_s => ?_⟩
  dsimp only [ptpCorrectCmd, mkCmd]
  repeat'
    first
    | with_reducible assumption | intro _ | with_reducible apply okCmd_legal
    | with_reducible apply State.ptpCorrect_legal

theorem execPtpCorrect_legal {h : Header} {off : Word} {freq : Word} {s : State} (h_s : s.Legal) :
    Outcome.Legal (execPtpCorrect h off freq s) := by
  unfold execPtpCorrect
  repeat'
    first
    | with_reducible assumption | with_reducible apply cmdRow_legal
    | with_reducible apply ptpCorrectCmd_legal

theorem execTimeSecLoRead_legal {w : Initiator} {s : State} (h_s : s.Legal) : Outcome.Legal (execTimeSecLoRead w s) := by
  unfold execTimeSecLoRead
  repeat'
    first
    | with_reducible assumption | intro _ | with_reducible apply ifActs_legal
    | with_reducible apply State.readSecLo_legal

theorem execTcount0Read_legal {w : Initiator} {s : State} (h_s : s.Legal) : Outcome.Legal (execTcount0Read w s) := by
  unfold execTcount0Read
  repeat'
    first
    | with_reducible assumption | intro _ | with_reducible apply ifActs_legal
    | with_reducible apply State.readCount0_legal

theorem execStepReq_legal {w : Initiator} {s : State} (h_s : s.Legal) : Outcome.Legal (execStepReq w s) := by
  unfold execStepReq
  repeat'
    first
    | with_reducible assumption | intro _ | with_reducible apply ifActs_legal
    | with_reducible apply State.requestHeld_legal | with_reducible apply State.modTempo_legal
    | with_reducible apply State.legal_ite

theorem execTppsInEdge_legal {dt : Nat} {s : State} (h_s : s.Legal) : Outcome.Legal (execTppsInEdge dt s) := by
  unfold execTppsInEdge
  repeat'
    first
    | with_reducible assumption | intro _ | with_reducible apply ifOn_legal
    | with_reducible apply State.ppsEdge_legal | with_reducible apply State.elapse_legal

theorem execRefLost_legal {r : Fin 3} {s : State} (h_s : s.Legal) : Outcome.Legal (execRefLost r s) := by
  unfold execRefLost
  repeat'
    first
    | with_reducible assumption | intro _ | with_reducible apply ifOn_legal
    | with_reducible apply State.modTempo_legal | with_reducible apply State.until_legal | split

theorem execHoldExpired_legal {s : State} (h_s : s.Legal) :
    Outcome.Legal (execHoldExpired s) := by
  unfold execHoldExpired
  repeat'
    first
    | with_reducible assumption | intro _ | with_reducible apply Outcome.legal_next
    | with_reducible apply State.modTempo_legal | with_reducible apply State.sleepFor_legal
    | with_reducible apply State.until_legal | with_reducible apply State.legal_core
    | with_reducible apply State.legal_cdr
    | simp only [State.legal_with, VoiceCore.legal_with, State.legal_with_cdr_fields]
    | with_reducible apply State.legal_ite | split | dsimp only

theorem execSecondsFieldIncrease_legal {s : State} (h_s : s.Legal) : Outcome.Legal (execSecondsFieldIncrease s) := by
  unfold execSecondsFieldIncrease
  repeat'
    first
    | with_reducible assumption | intro _ | with_reducible apply ifOn_legal
    | with_reducible apply State.secondUp_legal | with_reducible apply State.until_legal

theorem execTppsOutPulseEnd_legal {s : State} (h_s : s.Legal) : Outcome.Legal (execTppsOutPulseEnd s) := by
  unfold execTppsOutPulseEnd
  repeat'
    first
    | with_reducible assumption | intro _ | with_reducible apply ifOn_legal
    | with_reducible apply State.modTempo_legal | with_reducible apply State.until_legal | split

end Sys2Proof.Machine
end

