-- ==== Sys2Proof/Laws/LegalDuet.lean ====
section
/-! SUPPORT. A legal state stays legal: Duet. -/
set_option Elab.async false
set_option linter.all false
namespace Sys2Proof.Machine

theorem ifDuet_legal {s : State} {f : State → State} (h_s : s.Legal) (h_f : ∀ s0, s0.Legal → (f s0).Legal) :
    Outcome.Legal (ifDuet s f) := by
  unfold ifDuet
  repeat'
    first
    | with_reducible assumption | intro _ | with_reducible apply ifOn_legal | with_reducible apply h_f
    | with_reducible apply State.legal_ite

theorem ifCdrDuet_legal {w : Initiator} {s : State} {f : State → State} (h_s : s.Legal) (h_f : ∀ s0, s0.Legal → (f s0).Legal) :
    Outcome.Legal (ifCdrDuet w s f) := by
  unfold ifCdrDuet
  repeat'
    first
    | with_reducible assumption | intro _ | with_reducible apply ifActs_legal | with_reducible apply h_f
    | with_reducible apply State.legal_ite

theorem execDlEnSet_legal {w : Initiator} {s : State} (h_s : s.Legal) : Outcome.Legal (execDlEnSet w s) := by
  unfold execDlEnSet
  repeat'
    first
    | with_reducible assumption | intro _ | with_reducible apply ifCdrDuet_legal
    | with_reducible apply State.linkOn_legal

theorem execDlEnClear_legal {w : Initiator} {s : State} (h_s : s.Legal) : Outcome.Legal (execDlEnClear w s) := by
  unfold execDlEnClear
  repeat'
    first
    | with_reducible assumption | intro _ | with_reducible apply ifCdrDuet_legal
    | with_reducible apply State.linkOff_legal

theorem execTrainWrite_legal {w : Initiator} {s : State} (h_s : s.Legal) : Outcome.Legal (execTrainWrite w s) := by
  unfold execTrainWrite
  repeat'
    first
    | with_reducible assumption | intro _ | with_reducible apply ifCdrDuet_legal
    | with_reducible apply State.linkTrain_legal

theorem execLaneMaskWrite_legal {w : Initiator} {v : Word} {s : State} (h_s : s.Legal) :
    Outcome.Legal (execLaneMaskWrite w v s) := by
  unfold execLaneMaskWrite
  repeat'
    first
    | with_reducible assumption | intro _ | with_reducible apply ifCdrDuet_legal
    | with_reducible apply State.laneMask_legal

theorem execLmapCtlWrite_legal {w : Initiator} {n : Fin 16} {v : Word} {s : State} (h_s : s.Legal) :
    Outcome.Legal (execLmapCtlWrite w n v s) := by
  unfold execLmapCtlWrite
  repeat'
    first
    | with_reducible assumption | intro _ | with_reducible apply ifActs_legal
    | with_reducible apply State.lmapCtl_legal | with_reducible apply State.legal_ite

theorem execTransactionTake_legal {ups : List Upset} {s : State} (h_s : s.Legal) :
    Outcome.Legal (execTransactionTake ups s) := by
  unfold execTransactionTake
  repeat'
    first
    | with_reducible assumption | intro _ | with_reducible apply ifDuet_legal
    | with_reducible apply State.takeDesc_legal | with_reducible apply State.upsets_legal

theorem execFlitTransmit_legal {chanB : Bool} {s : State} (h_s : s.Legal) : Outcome.Legal (execFlitTransmit chanB s) := by
  unfold execFlitTransmit
  repeat'
    first
    | with_reducible assumption | intro _ | with_reducible apply ifDuet_legal
    | with_reducible apply State.modDuet_legal | split

theorem execAckDeadline_legal {s : State} (h_s : s.Legal) : Outcome.Legal (execAckDeadline s) := by
  unfold execAckDeadline
  repeat'
    first
    | with_reducible assumption | intro _ | with_reducible apply ifDuet_legal
    | with_reducible apply State.sendAck_legal | with_reducible apply State.until_legal | split

theorem State.linkFlit_legal {s : State} {ch : BitVec 2} {ft : BitVec 3} {f : RxFlit} {act : State → List Word → State} (h_s : s.Legal) (h_act : ∀ s0 x1, s0.Legal → (act s0 x1).Legal) :
    (State.linkFlit s ch ft f act).Legal := by
  unfold State.linkFlit
  repeat'
    first
    | with_reducible assumption | with_reducible apply State.badFlit_legal | with_reducible apply h_act
    | with_reducible apply State.legal_ite

theorem execAckFlit_legal {fl : RxFlit} {s : State} (h_s : s.Legal) :
    Outcome.Legal (execAckFlit fl s) := by
  unfold execAckFlit
  repeat'
    first
    | with_reducible assumption | intro _ | with_reducible apply Outcome.legal_next
    | with_reducible apply State.linkFlit_legal | with_reducible apply State.modDuet_legal
    | with_reducible apply State.refill_legal | with_reducible apply ifDuet_legal
    | with_reducible apply State.legal_core | with_reducible apply State.legal_cdr
    | simp only [State.legal_with, VoiceCore.legal_with, State.legal_with_cdr_fields]
    | with_reducible apply State.legal_ite | split | dsimp only

theorem execNakFlit_legal {fl : RxFlit} {s : State} (h_s : s.Legal) : Outcome.Legal (execNakFlit fl s) := by
  unfold execNakFlit
  repeat'
    first
    | with_reducible assumption | intro _ | with_reducible apply ifDuet_legal
    | with_reducible apply State.linkFlit_legal | with_reducible apply State.modDuet_legal
    | with_reducible apply State.legal_ite

theorem execTrainFlit_legal {fl : RxFlit} {s : State} (h_s : s.Legal) : Outcome.Legal (execTrainFlit fl s) := by
  unfold execTrainFlit
  repeat'
    first
    | with_reducible assumption | intro _ | with_reducible apply ifDuet_legal
    | with_reducible apply State.linkFlit_legal | with_reducible apply State.modDuet_legal
    | with_reducible apply State.retrain_legal

theorem execTrainingComplete_legal {usable : BitVec 4} {s : State} (h_s : s.Legal) :
    Outcome.Legal (execTrainingComplete usable s) := by
  unfold execTrainingComplete
  repeat'
    first
    | with_reducible assumption | intro _ | with_reducible apply Outcome.legal_next
    | with_reducible apply State.agreeVersions_legal | with_reducible apply State.modDuet_legal
    | with_reducible apply State.newSession_legal | with_reducible apply State.retrain_legal
    | with_reducible apply State.sendLink_legal | with_reducible apply State.sendSample_legal
    | with_reducible apply State.sendTrain_legal | with_reducible apply ifDuet_legal
    | with_reducible apply State.legal_core | with_reducible apply State.legal_cdr
    | simp only [State.legal_with, VoiceCore.legal_with, State.legal_with_cdr_fields]
    | with_reducible apply State.legal_ite | split | dsimp only

theorem State.holdExpired_legal {s : State} (h_s : s.Legal) : (State.holdExpired s).Legal := by
  unfold State.holdExpired
  repeat'
    first
    | with_reducible assumption | with_reducible apply State.modDuet_legal
    | with_reducible apply State.loseSession_legal

theorem execResumeFlit_legal {fl : RxFlit} {s : State} (h_s : s.Legal) :
    Outcome.Legal (execResumeFlit fl s) := by
  unfold execResumeFlit
  repeat'
    first
    | with_reducible assumption | intro _ | with_reducible apply Outcome.legal_next
    | with_reducible apply State.finishOp_legal | with_reducible apply State.holdExpired_legal
    | with_reducible apply State.linkFlit_legal | with_reducible apply State.loseSession_legal
    | with_reducible apply State.modDuet_legal | with_reducible apply State.newSession_legal
    | with_reducible apply State.refill_legal | with_reducible apply State.retrain_legal
    | with_reducible apply State.sendSample_legal | with_reducible apply ifDuet_legal
    | with_reducible apply State.legal_core | with_reducible apply State.legal_cdr
    | simp only [State.legal_with, VoiceCore.legal_with, State.legal_with_cdr_fields]
    | with_reducible apply State.legal_ite | split | dsimp only

theorem State.linkDown_legal {s : State} (h_s : s.Legal) : (State.linkDown s).Legal := by
  unfold State.linkDown
  repeat'
    first
    | with_reducible assumption | with_reducible apply State.modDuet_legal
    | with_reducible apply State.loseSession_legal

theorem execFatalFlit_legal {fl : RxFlit} {s : State} (h_s : s.Legal) : Outcome.Legal (execFatalFlit fl s) := by
  unfold execFatalFlit
  repeat'
    first
    | with_reducible assumption | intro _ | with_reducible apply ifDuet_legal
    | with_reducible apply State.linkFlit_legal | with_reducible apply State.modDuet_legal
    | with_reducible apply State.linkDown_legal

theorem execCloseFlit_legal {fl : RxFlit} {s : State} (h_s : s.Legal) : Outcome.Legal (execCloseFlit fl s) := by
  unfold execCloseFlit
  repeat'
    first
    | with_reducible assumption | intro _ | with_reducible apply ifDuet_legal
    | with_reducible apply State.linkFlit_legal | with_reducible apply State.linkDown_legal

theorem execHoldTimerExpiry_legal {s : State} (h_s : s.Legal) : Outcome.Legal (execHoldTimerExpiry s) := by
  unfold execHoldTimerExpiry
  repeat'
    first
    | with_reducible assumption | intro _ | with_reducible apply ifDuet_legal
    | with_reducible apply State.holdExpired_legal | with_reducible apply State.until_legal | split

theorem execLossOfSignal_legal {lane : Fin 4} {s : State} (h_s : s.Legal) : Outcome.Legal (execLossOfSignal lane s) := by
  unfold execLossOfSignal
  repeat'
    first
    | with_reducible assumption | intro _ | with_reducible apply ifDuet_legal
    | with_reducible apply State.post_legal | with_reducible apply State.retrain_legal
    | with_reducible apply State.legal_ite

theorem execUncorrectableCodewords_legal {lane : Fin 4} {w : Codewords} {s : State} (h_s : s.Legal) :
    Outcome.Legal (execUncorrectableCodewords lane w s) := by
  unfold execUncorrectableCodewords
  repeat'
    first
    | with_reducible assumption | intro _ | with_reducible apply Outcome.legal_next
    | with_reducible apply State.modDuet_legal | with_reducible apply State.post_legal
    | with_reducible apply State.retrain_legal | with_reducible apply ifDuet_legal
    | with_reducible apply State.legal_core | with_reducible apply State.legal_cdr
    | simp only [State.legal_with, VoiceCore.legal_with, State.legal_with_cdr_fields]
    | with_reducible apply State.legal_ite | split | dsimp only

theorem execReqCmd_legal {fl : RxFlit} {s : State} (h_s : s.Legal) : Outcome.Legal (execReqCmd fl s) := by
  unfold execReqCmd
  repeat'
    first
    | with_reducible assumption | intro _ | with_reducible apply ifDuet_legal
    | with_reducible apply State.sequenced_legal | with_reducible apply State.packetC_legal

theorem execContFlit_legal {fl : RxFlit} {s : State} (h_s : s.Legal) : Outcome.Legal (execContFlit fl s) := by
  unfold execContFlit
  repeat'
    first
    | with_reducible assumption | intro _ | with_reducible apply ifDuet_legal
    | with_reducible apply State.sequenced_legal | with_reducible apply State.continueC_legal

theorem execReqRd_legal {fl : RxFlit} {ups : List Upset} {s : State} (h_s : s.Legal) : Outcome.Legal (execReqRd fl ups s) := by
  unfold execReqRd
  repeat'
    first
    | with_reducible assumption | intro _ | with_reducible apply ifDuet_legal
    | with_reducible apply State.sequenced_legal | with_reducible apply State.upsets_legal
    | with_reducible apply State.serveRead_legal

theorem execRspFlit_legal {fl : RxFlit} {s : State} (h_s : s.Legal) : Outcome.Legal (execRspFlit fl s) := by
  unfold execRspFlit
  repeat'
    first
    | with_reducible assumption | intro _ | with_reducible apply ifDuet_legal
    | with_reducible apply State.sequenced_legal | with_reducible apply State.packetC_legal

theorem execWrHead_legal {fl : RxFlit} {s : State} (h_s : s.Legal) : Outcome.Legal (execWrHead fl s) := by
  unfold execWrHead
  repeat'
    first
    | with_reducible assumption | intro _ | with_reducible apply ifDuet_legal
    | with_reducible apply State.sequenced_legal | with_reducible apply State.writeHead_legal

theorem execRdHead_legal {fl : RxFlit} {s : State} (h_s : s.Legal) : Outcome.Legal (execRdHead fl s) := by
  unfold execRdHead
  repeat'
    first
    | with_reducible assumption | intro _ | with_reducible apply ifDuet_legal
    | with_reducible apply State.sequenced_legal | with_reducible apply State.readHead_legal

theorem execDataFlit_legal {fl : RxFlit} {s : State} (h_s : s.Legal) : Outcome.Legal (execDataFlit fl s) := by
  unfold execDataFlit
  repeat'
    first
    | with_reducible assumption | intro _ | with_reducible apply ifDuet_legal
    | with_reducible apply State.sequenced_legal | with_reducible apply State.landData_legal

theorem execSampleFlit_legal {fl : RxFlit} {dt : Nat} {s : State} (h_s : s.Legal) : Outcome.Legal (execSampleFlit fl dt s) := by
  unfold execSampleFlit
  repeat'
    first
    | with_reducible assumption | intro _ | with_reducible apply ifDuet_legal
    | with_reducible apply State.linkFlit_legal | with_reducible apply State.elapse_legal
    | with_reducible apply State.onSample_legal | with_reducible apply State.legal_ite

theorem execSampleTimer_legal {s : State} (h_s : s.Legal) : Outcome.Legal (execSampleTimer s) := by
  unfold execSampleTimer
  repeat'
    first
    | with_reducible assumption | intro _ | with_reducible apply ifDuet_legal
    | with_reducible apply State.sendSample_legal | with_reducible apply State.until_legal
    | with_reducible apply State.legal_ite

theorem duetStatusCmd_legal : CmdDef.Legal duetStatusCmd := by
  refine ⟨fun c s h_s => ?_⟩
  dsimp only [duetStatusCmd, mkCmd]
  repeat' with_reducible assumption

theorem execDuetStatus_legal {h : Header} {s : State} (h_s : s.Legal) : Outcome.Legal (execDuetStatus h s) := by
  unfold execDuetStatus
  repeat'
    first
    | with_reducible assumption | with_reducible apply cmdRow_legal
    | with_reducible apply duetStatusCmd_legal

theorem linkTrainCmd_legal : CmdDef.Legal linkTrainCmd := by
  refine ⟨fun c s h_s => ?_⟩
  dsimp only [linkTrainCmd, mkCmd]
  repeat'
    first
    | with_reducible assumption | with_reducible apply State.linkTrain_legal
    | with_reducible apply State.modDuet_legal | split

theorem execLinkTrain_legal {h : Header} {width : Word} {speed : Word} {s : State} (h_s : s.Legal) :
    Outcome.Legal (execLinkTrain h width speed s) := by
  unfold execLinkTrain
  repeat'
    first
    | with_reducible assumption | with_reducible apply cmdRow_legal
    | with_reducible apply linkTrainCmd_legal

theorem duetTimingCmd_legal : CmdDef.Legal duetTimingCmd := by
  refine ⟨fun c s h_s => ?_⟩
  dsimp only [duetTimingCmd, mkCmd]
  repeat'
    first
    | with_reducible assumption | intro _ | with_reducible apply okCmd_legal
    | with_reducible apply State.modRf_legal | with_reducible apply State.modDuet_legal

theorem execDuetTiming_legal {h : Header} {hold : Word} {baton : Word} {s : State} (h_s : s.Legal) :
    Outcome.Legal (execDuetTiming h hold baton s) := by
  unfold execDuetTiming
  repeat'
    first
    | with_reducible assumption | with_reducible apply cmdRow_legal
    | with_reducible apply duetTimingCmd_legal

theorem partnerCmdDef_legal : CmdDef.Legal partnerCmdDef := by
  refine ⟨fun c s h_s => ?_⟩
  dsimp only [partnerCmdDef, mkCmd]
  repeat' first | with_reducible assumption | with_reducible apply State.sendInner_legal | split

theorem execPartnerCmd_legal {h : Header} {inner : List Word} {s : State} (h_s : s.Legal) :
    Outcome.Legal (execPartnerCmd h inner s) := by
  unfold execPartnerCmd
  repeat'
    first
    | with_reducible assumption | with_reducible apply cmdRow_legal
    | with_reducible apply partnerCmdDef_legal

end Sys2Proof.Machine
end

