-- ==== Sys2Proof/Laws/LegalRefrain.lean ====
section
/-! SUPPORT. A legal state stays legal: Refrain. -/
set_option Elab.async false
set_option linter.all false
namespace Sys2Proof.Machine

theorem execCkHead_legal {fl : RxFlit} {s : State} (h_s : s.Legal) : Outcome.Legal (execCkHead fl s) := by
  unfold execCkHead
  repeat'
    first
    | with_reducible assumption | intro _ | with_reducible apply ifDuet_legal
    | with_reducible apply State.sequenced_legal | with_reducible apply State.onHead_legal

theorem execCkData_legal {fl : RxFlit} {s : State} (h_s : s.Legal) : Outcome.Legal (execCkData fl s) := by
  unfold execCkData
  repeat'
    first
    | with_reducible assumption | intro _ | with_reducible apply ifDuet_legal
    | with_reducible apply State.sequenced_legal | with_reducible apply State.onBody_legal

theorem execCkEnd_legal {fl : RxFlit} {s : State} (h_s : s.Legal) : Outcome.Legal (execCkEnd fl s) := by
  unfold execCkEnd
  repeat'
    first
    | with_reducible assumption | intro _ | with_reducible apply ifDuet_legal
    | with_reducible apply State.sequenced_legal | with_reducible apply State.onEnd_legal

theorem execCkReply_legal {fl : RxFlit} {s : State} (h_s : s.Legal) : Outcome.Legal (execCkReply fl s) := by
  unfold execCkReply
  repeat'
    first
    | with_reducible assumption | intro _ | with_reducible apply ifDuet_legal
    | with_reducible apply State.sequenced_legal | with_reducible apply State.onReply_legal

theorem execRefrainStreamLine_legal {ups : List Upset} {s : State} (h_s : s.Legal) :
    Outcome.Legal (execRefrainStreamLine ups s) := by
  unfold execRefrainStreamLine
  repeat'
    first
    | with_reducible assumption | intro _ | with_reducible apply ifDuet_legal
    | with_reducible apply State.streamLine_legal | with_reducible apply State.upsets_legal

theorem execStallEnd_legal {s : State} (h_s : s.Legal) : Outcome.Legal (execStallEnd s) := by
  unfold execStallEnd
  repeat'
    first
    | with_reducible assumption | intro _ | with_reducible apply ifDuet_legal
    | with_reducible apply State.retryStalled_legal

theorem execApplyEnd_legal {s : State} (h_s : s.Legal) : Outcome.Legal (execApplyEnd s) := by
  unfold execApplyEnd
  repeat'
    first
    | with_reducible assumption | intro _ | with_reducible apply ifDuet_legal
    | with_reducible apply State.applyEnd_legal

theorem execHandoverTimeout_legal {s : State} (h_s : s.Legal) :
    Outcome.Legal (execHandoverTimeout s) := by
  unfold execHandoverTimeout
  repeat'
    first
    | with_reducible assumption | intro _ | with_reducible apply Outcome.legal_next
    | with_reducible apply State.handoverTimeout_legal | with_reducible apply ifDuet_legal
    | with_reducible apply State.legal_core | with_reducible apply State.legal_cdr
    | simp only [State.legal_with, VoiceCore.legal_with, State.legal_with_cdr_fields]
    | with_reducible apply State.legal_ite | split | dsimp only

theorem execBatonInEdge_legal {s : State} (h_s : s.Legal) : Outcome.Legal (execBatonInEdge s) := by
  unfold execBatonInEdge
  repeat'
    first
    | with_reducible assumption | intro _ | with_reducible apply ifDuet_legal
    | with_reducible apply State.modRf_legal

theorem execTrackEnSet_legal {w : Initiator} {s : State} (h_s : s.Legal) : Outcome.Legal (execTrackEnSet w s) := by
  unfold execTrackEnSet
  repeat'
    first
    | with_reducible assumption | intro _ | with_reducible apply ifCdrDuet_legal
    | with_reducible apply State.trackOn_legal

theorem execTrackEnClear_legal {w : Initiator} {s : State} (h_s : s.Legal) : Outcome.Legal (execTrackEnClear w s) := by
  unfold execTrackEnClear
  repeat'
    first
    | with_reducible assumption | intro _ | with_reducible apply ifCdrDuet_legal
    | with_reducible apply State.trackOff_legal

theorem execEchoHiwatWrite_legal {w : Initiator} {v : Word} {s : State} (h_s : s.Legal) :
    Outcome.Legal (execEchoHiwatWrite w v s) := by
  unfold execEchoHiwatWrite
  repeat'
    first
    | with_reducible assumption | intro _ | with_reducible apply ifActs_legal
    | with_reducible apply State.echoWrite_legal

theorem duetRoleCmd_legal : CmdDef.Legal duetRoleCmd := by
  refine ⟨fun c s h_s => ?_⟩
  dsimp only [duetRoleCmd, mkCmd]
  repeat' first | with_reducible assumption | with_reducible apply State.modRf_legal | split

theorem execDuetRoleHandover_legal {h : Header} {s : State} (h_s : s.Legal) : Outcome.Legal (execDuetRoleHandover h s) := by
  unfold execDuetRoleHandover
  repeat' first | with_reducible assumption | with_reducible apply cmdRow_legal | with_reducible apply duetRoleCmd_legal

theorem execDuetRoleTakeActive_legal {h : Header} {s : State} (h_s : s.Legal) : Outcome.Legal (execDuetRoleTakeActive h s) := by
  unfold execDuetRoleTakeActive
  repeat' first | with_reducible assumption | with_reducible apply cmdRow_legal | with_reducible apply duetRoleCmd_legal

theorem refrainCfgCmd_legal : CmdDef.Legal refrainCfgCmd := by
  refine ⟨fun c s h_s => ?_⟩
  dsimp only [refrainCfgCmd, mkCmd]
  repeat' first | with_reducible assumption | intro _ | with_reducible apply okCmd_legal | simp only [State.legal_with]

theorem execRefrainCfg_legal {h : Header} {kk : Word} {base : Word} {mw : Word} {r : Word} {resv0 : Word} {resv1 : Word} {rgns : List (Word × Word)} {s : State} (h_s : s.Legal) :
    Outcome.Legal (execRefrainCfg h kk base mw r resv0 resv1 rgns s) := by
  unfold execRefrainCfg
  repeat'
    first
    | with_reducible assumption | with_reducible apply cmdRow_legal
    | with_reducible apply refrainCfgCmd_legal

theorem State.refrainOn_legal {s : State} (h_s : s.Legal) : (State.refrainOn s).1.Legal := by
  unfold State.refrainOn
  extract_lets e1 e2 e3
  have h_e2 : e2.Legal := by
    dsimp only [e2]
    repeat' first | with_reducible assumption | with_reducible apply State.trackOn_legal
  have h_e3 : e3.Legal := by
    dsimp only [e3]
    repeat' first | with_reducible assumption | with_reducible apply State.modRf_legal
  (try clear_value e1)
  (try clear_value e2)
  (try clear_value e3)
  repeat'
    first
    | with_reducible assumption | with_reducible apply State.modRf_legal
    | with_reducible apply State.enterSyncing_legal | split

theorem State.refrainOff_legal {s : State} (h_s : s.Legal) : (State.refrainOff s).Legal := by
  unfold State.refrainOff
  extract_lets e1 e2 e3
  have h_e1 : e1.Legal := by
    dsimp only [e1]
    repeat' first | with_reducible assumption | with_reducible apply State.finishOp_legal
  have h_e2 : e2.Legal := by
    dsimp only [e2]
    repeat'
      first
      | with_reducible assumption | with_reducible apply State.trackOff_legal
      | with_reducible apply State.legal_ite
  have h_e3 : e3.Legal := by
    dsimp only [e3]
    repeat'
      first
      | with_reducible assumption | with_reducible apply State.modRf_legal
      | with_reducible apply State.leaveTo_legal | with_reducible apply State.legal_ite
  (try clear_value e1)
  (try clear_value e2)
  (try clear_value e3)
  repeat' first | with_reducible assumption | with_reducible apply State.modRf_legal

theorem refrainEnCmd_legal : CmdDef.Legal refrainEnCmd := by
  refine ⟨fun c s h_s => ?_⟩
  dsimp only [refrainEnCmd, mkCmd]
  repeat'
    first
    | with_reducible assumption | with_reducible apply State.refrainOn_legal
    | with_reducible apply State.refrainOff_legal | split

theorem execRefrainEnable_legal {h : Header} {s : State} (h_s : s.Legal) : Outcome.Legal (execRefrainEnable h s) := by
  unfold execRefrainEnable
  repeat'
    first
    | with_reducible assumption | with_reducible apply cmdRow_legal
    | with_reducible apply refrainEnCmd_legal

theorem execRefrainDisable_legal {h : Header} {s : State} (h_s : s.Legal) : Outcome.Legal (execRefrainDisable h s) := by
  unfold execRefrainDisable
  repeat'
    first
    | with_reducible assumption | with_reducible apply cmdRow_legal
    | with_reducible apply refrainEnCmd_legal

end Sys2Proof.Machine
end

