-- ==== Sys2Proof/Laws/LegalHealth.lean ====
section
/-! SUPPORT. A legal state stays legal: Health. -/
set_option Elab.async false
set_option linter.all false
namespace Sys2Proof.Machine

theorem rehPlanCmd_legal : CmdDef.Legal rehPlanCmd := by
  refine ⟨fun c s h_s => ?_⟩
  dsimp only [rehPlanCmd, mkCmd]
  repeat'
    first
    | with_reducible assumption | intro _ | with_reducible apply okCmd_legal
    | with_reducible apply State.modHealth_legal

theorem execRehPlan_legal {h : Header} {sets : Word} {hours : Word} {s : State} (h_s : s.Legal) :
    Outcome.Legal (execRehPlan h sets hours s) := by
  unfold execRehPlan
  repeat' first | with_reducible assumption | with_reducible apply cmdRow_legal | with_reducible apply rehPlanCmd_legal

theorem rehRunCmd_legal : CmdDef.Legal rehRunCmd := by
  refine ⟨fun c s h_s => ?_⟩
  dsimp only [rehRunCmd, mkCmd]
  repeat' with_reducible assumption

theorem execRehRun_legal {h : Header} {num : Word} {s : State} (h_s : s.Legal) : Outcome.Legal (execRehRun h num s) := by
  unfold execRehRun
  repeat' first | with_reducible assumption | with_reducible apply cmdRow_legal | with_reducible apply rehRunCmd_legal

theorem execRehRunTimeout_legal {s : State} (h_s : s.Legal) : Outcome.Legal (execRehRunTimeout s) := by
  unfold execRehRunTimeout
  repeat'
    first
    | with_reducible assumption | intro _ | with_reducible apply ifOn_legal
    | with_reducible apply State.finish_legal | with_reducible apply State.until_legal | split

theorem rehStatusCmd_legal : CmdDef.Legal rehStatusCmd := by
  refine ⟨fun c s h_s => ?_⟩
  dsimp only [rehStatusCmd, mkCmd]
  repeat' with_reducible assumption

theorem execRehStatus_legal {h : Header} {num : Word} {s : State} (h_s : s.Legal) : Outcome.Legal (execRehStatus h num s) := by
  unfold execRehStatus
  repeat'
    first
    | with_reducible assumption | with_reducible apply cmdRow_legal
    | with_reducible apply rehStatusCmd_legal

theorem execSliceEnd_legal {fail : Bool} {slow : BitVec 10} {s : State} (h_s : s.Legal) :
    Outcome.Legal (execSliceEnd fail slow s) := by
  unfold execSliceEnd
  repeat'
    first
    | with_reducible assumption | intro _ | with_reducible apply ifOn_legal
    | with_reducible apply State.endSlice_legal | with_reducible apply State.legal_ite | split

theorem execSliceOverrun_legal {s : State} (h_s : s.Legal) : Outcome.Legal (execSliceOverrun s) := by
  unfold execSliceOverrun
  repeat'
    first
    | with_reducible assumption | intro _ | with_reducible apply ifOn_legal
    | with_reducible apply State.endSlice_legal | with_reducible apply State.until_legal | split

theorem execCoverLate_legal {s : State} (h_s : s.Legal) : Outcome.Legal (execCoverLate s) := by
  unfold execCoverLate
  repeat'
    first
    | with_reducible assumption | intro _ | with_reducible apply ifOn_legal
    | with_reducible apply State.modHealth_legal | with_reducible apply State.elapse_legal
    | with_reducible apply State.legal_ite

theorem ledgerReadCmd_legal : CmdDef.Legal ledgerReadCmd := by
  refine ⟨fun c s h_s => ?_⟩
  dsimp only [ledgerReadCmd, mkCmd]
  repeat' with_reducible assumption

theorem execLedgerRead_legal {h : Header} {src : Word} {s : State} (h_s : s.Legal) : Outcome.Legal (execLedgerRead h src s) := by
  unfold execLedgerRead
  repeat'
    first
    | with_reducible assumption | with_reducible apply cmdRow_legal
    | with_reducible apply ledgerReadCmd_legal

theorem ledgerCfgCmd_legal : CmdDef.Legal ledgerCfgCmd := by
  refine ⟨fun c s h_s => ?_⟩
  dsimp only [ledgerCfgCmd, mkCmd]
  repeat'
    first
    | with_reducible assumption | intro _ | with_reducible apply okCmd_legal
    | with_reducible apply State.flashLedger_legal | with_reducible apply State.putSrc_legal

theorem execLedgerCfg_legal {h : Header} {src : Word} {window : Word} {thresh : Word} {s : State} (h_s : s.Legal) :
    Outcome.Legal (execLedgerCfg h src window thresh s) := by
  unfold execLedgerCfg
  repeat'
    first
    | with_reducible assumption | with_reducible apply cmdRow_legal
    | with_reducible apply ledgerCfgCmd_legal

theorem ledgerClearCmd_legal : CmdDef.Legal ledgerClearCmd := by
  refine ⟨fun c s h_s => ?_⟩
  dsimp only [ledgerClearCmd, mkCmd]
  repeat'
    first
    | with_reducible assumption | intro _ | with_reducible apply okCmd_legal
    | with_reducible apply State.modHealth_legal | with_reducible apply State.bothMirrors_legal
    | with_reducible apply State.putSrc_legal

theorem execLedgerClear_legal {h : Header} {src : Word} {s : State} (h_s : s.Legal) :
    Outcome.Legal (execLedgerClear h src s) := by
  unfold execLedgerClear
  repeat'
    first
    | with_reducible assumption | with_reducible apply cmdRow_legal
    | with_reducible apply ledgerClearCmd_legal

theorem repairCmd_legal : CmdDef.Legal repairCmd := by
  refine ⟨fun c s h_s => ?_⟩
  dsimp only [repairCmd, mkCmd]
  repeat' first | with_reducible assumption | with_reducible apply State.runRepair_legal | split

theorem execRepairApply_legal {h : Header} {src : Word} {s : State} (h_s : s.Legal) :
    Outcome.Legal (execRepairApply h src s) := by
  unfold execRepairApply
  repeat' first | with_reducible assumption | with_reducible apply cmdRow_legal | with_reducible apply repairCmd_legal

theorem execRepairUndo_legal {h : Header} {src : Word} {s : State} (h_s : s.Legal) : Outcome.Legal (execRepairUndo h src s) := by
  unfold execRepairUndo
  repeat' first | with_reducible assumption | with_reducible apply cmdRow_legal | with_reducible apply repairCmd_legal

theorem execLedgerDrain_legal {s : State} (h_s : s.Legal) : Outcome.Legal (execLedgerDrain s) := by
  unfold execLedgerDrain
  repeat'
    first
    | with_reducible assumption | intro _ | with_reducible apply ifOn_legal
    | with_reducible apply State.drain_legal | with_reducible apply State.legal_ite

theorem execLeakEvent_legal {src : BitVec 12} {s : State} (h_s : s.Legal) : Outcome.Legal (execLeakEvent src s) := by
  unfold execLeakEvent
  repeat'
    first
    | with_reducible assumption | intro _ | with_reducible apply ifOn_legal
    | with_reducible apply State.leak_legal | with_reducible apply State.untilService_legal
    | with_reducible apply State.legal_ite

theorem execSpareWayRepair_legal {s : State} (h_s : s.Legal) : Outcome.Legal (execSpareWayRepair s) := by
  unfold execSpareWayRepair
  repeat'
    first
    | with_reducible assumption | intro _ | with_reducible apply ifOn_legal
    | with_reducible apply State.nextRepair_legal | with_reducible apply State.legal_ite

theorem execLaneDegrade_legal {s : State} (h_s : s.Legal) : Outcome.Legal (execLaneDegrade s) := by
  unfold execLaneDegrade
  repeat'
    first
    | with_reducible assumption | intro _ | with_reducible apply ifOn_legal
    | with_reducible apply State.nextRepair_legal | with_reducible apply State.legal_ite

theorem execServiceHour_legal {s : State} (h_s : s.Legal) : Outcome.Legal (execServiceHour s) := by
  unfold execServiceHour
  repeat'
    first
    | with_reducible assumption | intro _ | with_reducible apply ifOn_legal
    | with_reducible apply State.addHours_legal | with_reducible apply State.untilService_legal
    | with_reducible apply State.legal_ite

theorem execEvqPop_legal {w : Initiator} {s : State} (h_s : s.Legal) : Outcome.Legal (execEvqPop w s) := by
  unfold execEvqPop
  repeat'
    first
    | with_reducible assumption | intro _ | with_reducible apply ifActs_legal
    | with_reducible apply State.healthWrite_legal

end Sys2Proof.Machine
end

