-- ==== Sys2Proof/Laws/LegalTrace.lean ====
section
/-! SUPPORT. A legal state stays legal: Trace. -/
set_option Elab.async false
set_option linter.all false
namespace Sys2Proof.Machine

theorem execPtEnSet_legal {w : Initiator} {page : Bool} {sec : Fin 3} {v : Word} {s : State} (h_s : s.Legal) :
    Outcome.Legal (execPtEnSet w page sec v s) := by
  unfold execPtEnSet
  repeat'
    first
    | with_reducible assumption | intro _ | with_reducible apply ifActs_legal
    | with_reducible apply State.ptWrite_legal | split

theorem execPtEnClear_legal {w : Initiator} {page : Bool} {sec : Fin 3} {v : Word} {s : State} (h_s : s.Legal) :
    Outcome.Legal (execPtEnClear w page sec v s) := by
  unfold execPtEnClear
  repeat'
    first
    | with_reducible assumption | intro _ | with_reducible apply ifActs_legal
    | with_reducible apply State.ptWrite_legal | split

theorem execPtFire_legal {w : Initiator} {page : Bool} {sec : Fin 3} {s : State} (h_s : s.Legal) :
    Outcome.Legal (execPtFire w page sec s) := by
  unfold execPtFire
  repeat'
    first
    | with_reducible assumption | intro _ | with_reducible apply ifActs_legal
    | with_reducible apply State.ptWrite_legal | split

theorem execTraceStop_legal {sec : Fin 3} {part : BitVec 4} {s : State} (h_s : s.Legal) :
    Outcome.Legal (execTraceStop sec part s) := by
  unfold execTraceStop
  repeat'
    first
    | with_reducible assumption | intro _ | with_reducible apply ifOn_legal
    | with_reducible apply State.traceStop_legal | with_reducible apply State.elapse_legal
    | with_reducible apply State.legal_ite

theorem execPtRdata_legal {w : Initiator} {page : Bool} {sec : Fin 3} {s : State} (h_s : s.Legal) :
    Outcome.Legal (execPtRdata w page sec s) := by
  unfold execPtRdata
  repeat'
    first
    | with_reducible assumption | intro _ | with_reducible apply ifActs_legal
    | with_reducible apply State.ptRead_legal | split

theorem execTrSegownWrite_legal {w : Initiator} {sec : Fin 3} {n : Fin 3} {v : Word} {s : State} (h_s : s.Legal) :
    Outcome.Legal (execTrSegownWrite w sec n v s) := by
  unfold execTrSegownWrite
  repeat'
    first
    | with_reducible assumption | intro _ | with_reducible apply ifActs_legal
    | with_reducible apply State.traceBlockWrite_legal

theorem execStrmLinesWrite_legal {w : Initiator} {sec : Fin 3} {part : BitVec 4} {v : Word} {s : State} (h_s : s.Legal) :
    Outcome.Legal (execStrmLinesWrite w sec part v s) := by
  unfold execStrmLinesWrite
  repeat'
    first
    | with_reducible assumption | intro _ | with_reducible apply ifActs_legal
    | with_reducible apply State.traceBlockWrite_legal

theorem State.copyWord_legal {s : State} {sec : Fin 3} {p : BitVec 4} (h_s : s.Legal) : (State.copyWord s sec p).Legal := by
  unfold State.copyWord
  extract_lets e1 e2 e3 e4 e5 e6
  have h_e5 : e5.Legal := by
    dsimp only [e5]
    repeat' first | with_reducible assumption | with_reducible apply State.domainWrite_legal
  (try clear_value e1)
  (try clear_value e2)
  (try clear_value e3)
  (try clear_value e4)
  (try clear_value e5)
  (try clear_value e6)
  repeat' first | with_reducible assumption | with_reducible apply State.modTsec_legal

theorem State.copyWords_legal {s : State} {sec : Fin 3} {p : BitVec 4} {a : Nat} (h_s : s.Legal) : (State.copyWords s sec p a).Legal := by
  induction a generalizing s with
  | zero => exact h_s
  | succ n ih => exact ih (State.copyWord_legal h_s)

theorem execTraceDmaCopy_legal {sec : Fin 3} {part : BitVec 4} {s : State} (h_s : s.Legal) :
    Outcome.Legal (execTraceDmaCopy sec part s) := by
  unfold execTraceDmaCopy
  repeat'
    first
    | with_reducible assumption | intro _ | with_reducible apply Outcome.legal_next
    | with_reducible apply State.copyWords_legal | with_reducible apply State.modTsec_legal
    | with_reducible apply ifActs_legal | with_reducible apply State.legal_core | with_reducible apply State.legal_cdr
    | simp only [State.legal_with, VoiceCore.legal_with, State.legal_with_cdr_fields]
    | with_reducible apply State.legal_ite | split | dsimp only

theorem traceRevokeCmd_legal : CmdDef.Legal traceRevokeCmd := by
  refine ⟨fun c s h_s => ?_⟩
  dsimp only [traceRevokeCmd, mkCmd]
  repeat' first | with_reducible assumption | intro _ | with_reducible apply okCmd_legal | simp only [State.legal_with]

theorem execTraceRevoke_legal {h : Header} {s : State} (h_s : s.Legal) : Outcome.Legal (execTraceRevoke h s) := by
  unfold execTraceRevoke
  repeat'
    first
    | with_reducible assumption | with_reducible apply cmdRow_legal
    | with_reducible apply traceRevokeCmd_legal

theorem traceOwnCmd_legal : CmdDef.Legal traceOwnCmd := by
  refine ⟨fun c s h_s => ?_⟩
  dsimp only [traceOwnCmd, mkCmd]
  repeat'
    first
    | with_reducible assumption | intro _ | with_reducible apply okCmd_legal
    | with_reducible apply State.writePtCtl_legal | with_reducible apply State.legal_ite
    | with_reducible apply State.legal_foldl

theorem execTraceOwn_legal {h : Header} {cfg : Word} {s : State} (h_s : s.Legal) : Outcome.Legal (execTraceOwn h cfg s) := by
  unfold execTraceOwn
  repeat' first | with_reducible assumption | with_reducible apply cmdRow_legal | with_reducible apply traceOwnCmd_legal

end Sys2Proof.Machine
end

