-- ==== Sys2Proof/Laws/LegalCommands.lean ====
section
/-! SUPPORT. A legal state stays legal: Commands. -/
set_option Elab.async false
set_option linter.all false
namespace Sys2Proof.Machine

theorem nopCmd_legal : CmdDef.Legal nopCmd := ⟨fun _ _ h => h⟩

theorem execNop_legal {h : Header} {s : State} (h_s : s.Legal) : Outcome.Legal (execNop h s) := by
  unfold execNop
  repeat' first | with_reducible assumption | with_reducible apply cmdRow_legal | with_reducible apply nopCmd_legal

theorem getInfoCmd_legal : CmdDef.Legal getInfoCmd := by
  refine ⟨fun c s h_s => ?_⟩
  dsimp only [getInfoCmd, mkCmd]
  repeat' with_reducible assumption

theorem execGetInfo_legal {h : Header} {s : State} (h_s : s.Legal) : Outcome.Legal (execGetInfo h s) := by
  unfold execGetInfo
  repeat' first | with_reducible assumption | with_reducible apply cmdRow_legal | with_reducible apply getInfoCmd_legal

theorem State.releaseCores_legal {s : State} {ps : List Word} {despite : Bool} (h_s : s.Legal) :
    (State.releaseCores s ps despite).1.Legal := by
  unfold State.releaseCores
  repeat' first | with_reducible assumption | with_reducible apply State.startCores_legal | split | dsimp only

theorem releaseCoresCmd_legal : CmdDef.Legal releaseCoresCmd := by
  refine ⟨fun c s h_s => ?_⟩
  dsimp only [releaseCoresCmd, mkCmd]
  repeat' first | with_reducible assumption | with_reducible apply State.releaseCores_legal

theorem execReleaseCores_legal {h : Header} {mask : Word} {p0 : Word} {p1 : Word} {resv : Word} {s : State} (h_s : s.Legal) :
    Outcome.Legal (execReleaseCores h mask p0 p1 resv s) := by
  unfold execReleaseCores
  repeat'
    first
    | with_reducible assumption | with_reducible apply cmdRow_legal
    | with_reducible apply releaseCoresCmd_legal

theorem releaseAuthCmd_legal {bad : BitVec 4} : CmdDef.Legal (releaseAuthCmd bad) := by
  refine ⟨fun c s h_s => ?_⟩
  dsimp only [releaseAuthCmd, mkCmd]
  repeat'
    first
    | with_reducible assumption | with_reducible apply State.releaseCores_legal
    | with_reducible apply State.runImages_legal | with_reducible apply State.legal_ite

theorem execReleaseAuth_legal {h : Header} {mask : Word} {p0 : Word} {p1 : Word} {tail : AuthTail}
  {s : State} (h_s : s.Legal) :
    Outcome.Legal (execReleaseAuth h mask p0 p1 tail s) := by
  unfold execReleaseAuth
  repeat'
    first
    | with_reducible assumption | intro _ | with_reducible apply Outcome.legal_next
    | with_reducible apply cmdRow_legal | with_reducible apply releaseAuthCmd_legal
    | with_reducible apply State.legal_core | with_reducible apply State.legal_cdr
    | simp only [State.legal_with, VoiceCore.legal_with, State.legal_with_cdr_fields]
    | with_reducible apply State.legal_ite | split | dsimp only

theorem State.flushHeld_legal {s : State} {r : BitVec 5} {a : Nat} (h_s : s.Legal) : (State.flushHeld s r a).Legal := by
  induction a generalizing s with
  | zero => exact h_s
  | succ n ih =>
    unfold State.flushHeld
    split
    · exact h_s
    · exact State.legal_ite h_s (ih (State.writeReply_legal (State.modRings_legal h_s)))

theorem State.ringCtl_legal {s : State} {v : Word} (h_s : s.Legal) : (State.ringCtl s v).1.Legal := by
  unfold State.ringCtl
  extract_lets e1 e2 e3
  have h_e3 : e3.Legal := by
    dsimp only [e3]
    repeat'
      first
      | with_reducible assumption | with_reducible apply State.setRingWord_legal
      | with_reducible apply State.modRings_legal
  (try clear_value e1)
  (try clear_value e2)
  (try clear_value e3)
  repeat'
    first
    | with_reducible assumption | with_reducible apply State.setRingWord_legal
    | with_reducible apply State.flushHeld_legal | with_reducible apply State.learn_legal | split

theorem ringCtlCmd_legal : CmdDef.Legal ringCtlCmd := by
  refine ⟨fun c s h_s => ?_⟩
  dsimp only [ringCtlCmd, mkCmd]
  repeat' first | with_reducible assumption | with_reducible apply State.ringCtl_legal

theorem execRingDisable_legal {h : Header} {ring : Word} {s : State} (h_s : s.Legal) :
    Outcome.Legal (execRingDisable h ring s) := by
  unfold execRingDisable
  repeat' first | with_reducible assumption | with_reducible apply cmdRow_legal | with_reducible apply ringCtlCmd_legal

theorem execRingEnable_legal {h : Header} {ring : Word} {s : State} (h_s : s.Legal) :
    Outcome.Legal (execRingEnable h ring s) := by
  unfold execRingEnable
  repeat' first | with_reducible assumption | with_reducible apply cmdRow_legal | with_reducible apply ringCtlCmd_legal

theorem execRingRestart_legal {h : Header} {ring : Word} {s : State} (h_s : s.Legal) :
    Outcome.Legal (execRingRestart h ring s) := by
  unfold execRingRestart
  repeat' first | with_reducible assumption | with_reducible apply cmdRow_legal | with_reducible apply ringCtlCmd_legal

theorem State.noticeRead_legal {s : State} (h_s : s.Legal) : (State.noticeRead s).1.Legal := by
  unfold State.noticeRead
  repeat' first | with_reducible assumption | with_reducible apply State.modRings_legal | split

theorem noticeReadCmd_legal : CmdDef.Legal noticeReadCmd := by
  refine ⟨fun c s h_s => ?_⟩
  dsimp only [noticeReadCmd, mkCmd]
  repeat' first | with_reducible assumption | with_reducible apply State.noticeRead_legal

theorem execNoticeRead_legal {h : Header} {s : State} (h_s : s.Legal) : Outcome.Legal (execNoticeRead h s) := by
  unfold execNoticeRead
  repeat'
    first
    | with_reducible assumption | with_reducible apply cmdRow_legal
    | with_reducible apply noticeReadCmd_legal

theorem poolCreateCmd_legal : CmdDef.Legal poolCreateCmd := by
  refine ⟨fun c s h_s => ?_⟩
  dsimp only [poolCreateCmd, mkCmd]
  repeat'
    first
    | with_reducible assumption | intro _ | with_reducible apply okCmd_legal
    | with_reducible apply State.setPool_legal

theorem execPoolCreate_legal {h : Header} {pool : Word} {b0 : Word} {b1 : Word} {size : Word} {count : Word} {owner : Word} {resv : Word} {s : State} (h_s : s.Legal) :
    Outcome.Legal (execPoolCreate h pool b0 b1 size count owner resv s) := by
  unfold execPoolCreate
  repeat'
    first
    | with_reducible assumption | with_reducible apply cmdRow_legal
    | with_reducible apply poolCreateCmd_legal

theorem poolDestroyCmd_legal : CmdDef.Legal poolDestroyCmd := by
  refine ⟨fun c s h_s => ?_⟩
  dsimp only [poolDestroyCmd, mkCmd]
  repeat'
    first
    | with_reducible assumption | intro _ | with_reducible apply okCmd_legal
    | with_reducible apply State.setPool_legal

theorem execPoolDestroy_legal {h : Header} {pool : Word} {s : State} (h_s : s.Legal) :
    Outcome.Legal (execPoolDestroy h pool s) := by
  unfold execPoolDestroy
  repeat'
    first
    | with_reducible assumption | with_reducible apply cmdRow_legal
    | with_reducible apply poolDestroyCmd_legal

theorem poolReadCmd_legal : CmdDef.Legal poolReadCmd := by
  refine ⟨fun c s h_s => ?_⟩
  dsimp only [poolReadCmd, mkCmd]
  repeat' with_reducible assumption

theorem State.takeBuffers_legal {s : State} {p : Fin 32} {a : Nat} (h_s : s.Legal) : (State.takeBuffers s p a).1.Legal := by
  induction a generalizing s with
  | zero => exact h_s
  | succ n ih => exact ih (State.grant_legal h_s)

theorem poolTakeCmd_legal : CmdDef.Legal poolTakeCmd := by
  refine ⟨fun c s h_s => ?_⟩
  dsimp only [poolTakeCmd, mkCmd]
  repeat'
    first
    | with_reducible assumption | with_reducible apply State.takeBuffers_legal
    | simp only [State.legal_with] | split

theorem execPoolTake_legal {h : Header} {pool : Word} {n : Word} {s : State} (h_s : s.Legal) :
    Outcome.Legal (execPoolTake h pool n s) := by
  unfold execPoolTake
  repeat' first | with_reducible assumption | with_reducible apply cmdRow_legal | with_reducible apply poolTakeCmd_legal

theorem poolGiveCmd_legal : CmdDef.Legal poolGiveCmd := by
  refine ⟨fun c s h_s => ?_⟩
  dsimp only [poolGiveCmd, mkCmd]
  repeat'
    first
    | with_reducible assumption | intro _ | with_reducible apply okCmd_legal
    | with_reducible apply State.release_legal | with_reducible apply State.legal_foldl

theorem execPoolGive_legal {h : Header} {pool : Word} {n : Word} {resv : Word} {handles : List Word} {s : State} (h_s : s.Legal) :
    Outcome.Legal (execPoolGive h pool n resv handles s) := by
  unfold execPoolGive
  repeat' first | with_reducible assumption | with_reducible apply cmdRow_legal | with_reducible apply poolGiveCmd_legal

theorem opcodes_legal : ∀ d ∈ opcodes, d.Legal := by
  intro d h
  simp only [opcodes, List.cons_append, List.nil_append, List.mem_cons, List.not_mem_nil, or_false] at h
  rcases h with
    rfl | rfl | rfl | rfl | rfl | rfl | rfl | rfl | rfl | rfl | rfl | rfl | rfl | rfl | rfl | rfl | rfl | rfl | rfl | rfl | rfl | rfl | rfl | rfl | rfl | rfl | rfl | rfl | rfl | rfl | rfl | rfl | rfl | rfl | rfl | rfl | rfl | rfl | rfl | rfl | rfl | rfl | rfl | rfl | rfl | rfl | rfl | rfl | rfl | rfl
  all_goals first | exact nopCmd_legal | exact getInfoCmd_legal | exact releaseCoresCmd_legal | exact releaseAuthCmd_legal | exact haltCoresCmd_legal | exact sysResetCmd_legal | exact ringCtlCmd_legal | exact noticeReadCmd_legal | exact powerEnterCmd_legal | exact coreHushCmd_legal | exact clockSetCmd_legal | exact barConfigCmd_legal | exact barRunCmd_legal | exact barLockCmd_legal | exact barReadCmd_legal | exact timeReadCmd_legal | exact timeSetCmd_legal | exact tempoRefsCmd_legal | exact tempoPolicyCmd_legal | exact tempoStepCmd_legal | exact ptpCorrectCmd_legal | exact duetStatusCmd_legal | exact linkTrainCmd_legal | exact duetRoleCmd_legal | exact refrainCfgCmd_legal | exact refrainEnCmd_legal | exact duetTimingCmd_legal | exact partnerCmdDef_legal | exact rehPlanCmd_legal | exact rehRunCmd_legal | exact rehStatusCmd_legal | exact ledgerReadCmd_legal | exact ledgerCfgCmd_legal | exact ledgerClearCmd_legal | exact repairCmd_legal | exact traceAuthCmd_legal | exact traceRevokeCmd_legal | exact traceOwnCmd_legal | exact slotInfoCmd_legal | exact slotWriteCmd_legal | exact slotVerifyCmd_legal | exact slotCommitCmd_legal | exact rescoreCmd_legal | exact imageSealCmd_legal | exact fuseWriteCmd_legal | exact poolCreateCmd_legal | exact poolDestroyCmd_legal | exact poolReadCmd_legal | exact poolTakeCmd_legal | exact poolGiveCmd_legal

theorem State.undoCmd_legal {s : State} {c : Cmd} (h_s : s.Legal) : (State.undoCmd s c).Legal := by
  unfold State.undoCmd
  repeat'
    first
    | with_reducible assumption | with_reducible apply State.modBar_legal
    | with_reducible apply State.slotUndefined_legal | with_reducible apply State.legal_ite

theorem State.abortWaiting_legal {s : State} {r : BitVec 5} {i : Word} (h_s : s.Legal) :
    (State.abortWaiting s r i).Legal := by
  unfold State.abortWaiting
  extract_lets e1 e2
  have h_e2 : e2.Legal := by
    dsimp only [e2]
    repeat'
      first
      | with_reducible assumption | intro _ | with_reducible apply State.modRings_legal
      | with_reducible apply State.reply_legal | with_reducible apply State.legal_core
      | with_reducible apply State.legal_cdr
      | simp only [State.legal_with, VoiceCore.legal_with, State.legal_with_cdr_fields]
      | with_reducible apply State.legal_ite | split | dsimp only
  try clear_value e1
  try clear_value e2
  repeat'
    first
    | with_reducible assumption | intro _ | with_reducible apply State.modRings_legal
    | with_reducible apply State.reply_legal | with_reducible apply State.legal_core
    | with_reducible apply State.legal_cdr
    | simp only [State.legal_with, VoiceCore.legal_with, State.legal_with_cdr_fields]
    | with_reducible apply State.legal_ite | split | dsimp only

theorem State.abort_legal {s : State} {ring : BitVec 5} {tag : Word} (h_s : s.Legal) :
    (State.abort s ring tag).1.Legal := by
  unfold State.abort
  repeat'
    first
    | with_reducible assumption | intro _ | with_reducible apply State.abortWaiting_legal
    | with_reducible apply State.finish_legal | with_reducible apply State.ring_legal
    | with_reducible apply State.undoCmd_legal | with_reducible apply State.legal_core
    | with_reducible apply State.legal_cdr
    | simp only [State.legal_with, VoiceCore.legal_with, State.legal_with_cdr_fields]
    | with_reducible apply State.legal_ite | split | dsimp only

theorem abortDef_legal : CmdDef.Legal abortDef := by
  refine ⟨fun c s h_s => ?_⟩
  dsimp only [abortDef, mkCmd]
  repeat' first | with_reducible assumption | with_reducible apply State.abort_legal

theorem execAbortCmd_legal {h : Header} {ring : Word} {target : Word} {s : State} (h_s : s.Legal) :
    Outcome.Legal (execAbortCmd h ring target s) := by
  unfold execAbortCmd
  repeat' first | with_reducible assumption | with_reducible apply cmdRow_legal | with_reducible apply abortDef_legal

theorem lookOp_legal {op : BitVec 8} {d : CmdDef} (e : lookOp op = some d) : d.Legal := by
  unfold lookOp at e
  split at e
  · injection e with e
    subst e
    exact abortDef_legal
  · exact opcodes_legal d (List.mem_of_find?_eq_some e)

theorem State.serveRing_legal {s : State} {r : BitVec 5} (h_s : s.Legal) : (State.serveRing s r).Legal :=
  State.legal_ite (State.flushHeld_legal h_s) (State.startHead_legal (State.flushHeld_legal h_s) fun _ _ e => lookOp_legal e)

theorem execDoorbellCheck_legal {ring : BitVec 5} {s : State} (h_s : s.Legal) : Outcome.Legal (execDoorbellCheck ring s) := by
  unfold execDoorbellCheck
  repeat'
    first
    | with_reducible assumption | intro _ | with_reducible apply ifOn_legal
    | with_reducible apply State.serveRing_legal | with_reducible apply State.serveDoorbell_legal
    | with_reducible apply State.legal_ite

theorem execWaitingCommandStart_legal {ring : BitVec 5} {s : State} (h_s : s.Legal) :
    Outcome.Legal (execWaitingCommandStart ring s) := by
  unfold execWaitingCommandStart
  repeat'
    first
    | with_reducible assumption | intro _ | with_reducible apply ifOn_legal
    | with_reducible apply State.serveRing_legal | with_reducible apply State.legal_ite

theorem State.completeCmd_legal {s : State} {c : Cmd} {e : FinalEnv} (h_s : s.Legal) : (State.completeCmd s c e).Legal := by
  unfold State.completeCmd
  extract_lets e1
  have h_e1 : e1.1.Legal := by
    dsimp only [e1]
    repeat' first | with_reducible assumption | with_reducible apply State.runRepair_legal | split
  (try clear_value e1)
  repeat'
    first
    | with_reducible assumption | with_reducible apply State.finish_legal
    | with_reducible apply State.traceAuthorised_legal | with_reducible apply State.slotProgram_legal
    | with_reducible apply State.slotVerified_legal | with_reducible apply State.slotCommitted_legal
    | with_reducible apply State.rescored_legal | with_reducible apply State.imageSealed_legal
    | with_reducible apply State.fusesWritten_legal | with_reducible apply State.legal_ite | split

theorem execLongCommandFinal_legal {ring : BitVec 5} {tag : Word} {e : FinalEnv} {s : State} (h_s : s.Legal) :
    Outcome.Legal (execLongCommandFinal ring tag e s) := by
  unfold execLongCommandFinal
  repeat'
    first
    | with_reducible assumption | intro _ | with_reducible apply ifOn_legal
    | with_reducible apply State.completeCmd_legal | with_reducible apply State.legal_ite | split

theorem State.ringDoorbell_legal {s : State} {w : Initiator} {v : Word} (h_s : s.Legal) : (State.ringDoorbell s w v).Legal := by
  unfold State.ringDoorbell
  repeat'
    first
    | with_reducible assumption | with_reducible apply State.ring_legal
    | with_reducible apply State.legal_ite | split

theorem execDbRing_legal {w : Initiator} {v : Word} {s : State} (h_s : s.Legal) : Outcome.Legal (execDbRing w v s) := by
  unfold execDbRing
  repeat'
    first
    | with_reducible assumption | intro _ | with_reducible apply ifActs_legal
    | with_reducible apply State.ringDoorbell_legal

theorem State.debugDoorbell_legal {s : State} {w : Initiator} {v : Word} (h_s : s.Legal) :
    (State.debugDoorbell s w v).Legal := by
  unfold State.debugDoorbell
  repeat'
    first
    | with_reducible assumption | with_reducible apply State.ring_legal
    | with_reducible apply State.legal_ite

theorem execDbDebug_legal {w : Initiator} {v : Word} {s : State} (h_s : s.Legal) : Outcome.Legal (execDbDebug w v s) := by
  unfold execDbDebug
  repeat'
    first
    | with_reducible assumption | intro _ | with_reducible apply ifActs_legal
    | with_reducible apply State.debugDoorbell_legal

theorem State.dbWrite_legal {s : State} {w : Initiator} {off : Nat} {v : Word} (h_s : s.Legal) :
    (State.dbWrite s w off v).Legal := by
  unfold State.dbWrite
  repeat'
    first
    | with_reducible assumption | with_reducible apply State.ringDoorbell_legal
    | with_reducible apply State.modRings_legal | with_reducible apply State.debugDoorbell_legal
    | with_reducible apply State.legal_ite | split

theorem execPoolAlloc_legal {w : Initiator} {pool : Fin 32} {s : State} (h_s : s.Legal) :
    Outcome.Legal (execPoolAlloc w pool s) := by
  unfold execPoolAlloc
  repeat'
    first
    | with_reducible assumption | intro _ | with_reducible apply ifActs_legal
    | with_reducible apply State.poolAlloc_legal

theorem execPoolRelease_legal {w : Initiator} {pool : Fin 32} {v : Word} {s : State} (h_s : s.Legal) :
    Outcome.Legal (execPoolRelease w pool v s) := by
  unfold execPoolRelease
  repeat'
    first
    | with_reducible assumption | intro _ | with_reducible apply ifActs_legal
    | with_reducible apply State.poolRelease_legal

theorem execPoolLowmarkWrite_legal {w : Initiator} {pool : Fin 32} {v : Word} {s : State} (h_s : s.Legal) :
    Outcome.Legal (execPoolLowmarkWrite w pool v s) := by
  unfold execPoolLowmarkWrite
  repeat'
    first
    | with_reducible assumption | intro _ | with_reducible apply ifActs_legal
    | with_reducible apply State.bmWrite_legal

end Sys2Proof.Machine
end

