-- ==== Sys2Proof/Laws/LegalRegMap.lean ====
section
/-! SUPPORT. A legal state stays legal: RegMap. -/
set_option Elab.async false
set_option linter.all false
namespace Sys2Proof.Machine

theorem State.winRead_legal {s : State} {w : Initiator} {x : Win} {off : Nat} (h_s : s.Legal) :
    (State.winRead s w x off).1.Legal := by
  unfold State.winRead
  repeat'
    first
    | with_reducible assumption | with_reducible apply State.chorusRead_legal
    | with_reducible apply State.tempoRead_legal | with_reducible apply State.traceRead_legal
    | with_reducible apply State.bmRead_legal | with_reducible apply State.canRead_legal
    | with_reducible apply State.spiRead_legal | with_reducible apply State.i2cRead_legal
    | with_reducible apply State.uartRead_legal | split

theorem State.winWrite_legal {s : State} {w : Initiator} {x : Win} {off : Nat} {v : Word} (h_s : s.Legal) :
    (State.winWrite s w x off v).Legal := by
  unfold State.winWrite
  repeat'
    first
    | with_reducible assumption | with_reducible apply State.chorusWrite_legal
    | with_reducible apply State.barRegWrite_legal | with_reducible apply State.tempoWrite_legal
    | with_reducible apply State.mcWrite_legal | with_reducible apply State.echoWrite_legal
    | with_reducible apply State.duetWrite_legal | with_reducible apply State.cacheWrite_legal
    | with_reducible apply State.healthWrite_legal | with_reducible apply State.traceWrite_legal
    | with_reducible apply State.bmWrite_legal | with_reducible apply State.dbWrite_legal
    | with_reducible apply State.ethWrite_legal | with_reducible apply State.canWrite_legal
    | with_reducible apply State.modSpi_legal | with_reducible apply State.modI2c_legal
    | with_reducible apply State.modUart_legal | with_reducible apply State.gpioWrite_legal
    | with_reducible apply State.pwmWrite_legal | with_reducible apply State.accentWrite_legal
    | with_reducible apply State.xspiRegWrite_legal | with_reducible apply State.sysWrite_legal
    | with_reducible apply State.legal_ite | split

theorem State.regRead_legal {s : State} {w : Initiator} {a : Nat} {t : State} {v : Word} (e : s.regRead w a = some (t, v))
    (h_s : s.Legal) : t.Legal := by
  obtain ⟨p, -, e⟩ := Option.map_eq_some_iff.1 e
  split at e
  · rw [show t = _ from (congrArg Prod.fst e).symm]
    exact State.winRead_legal h_s
  · rw [show t = _ from (congrArg Prod.fst e).symm]
    exact h_s

theorem State.regWrite_legal {s : State} {w : Initiator} {a : Nat} {v : Word} {t : State} (e : s.regWrite w a v = some t)
    (h_s : s.Legal) : t.Legal := by
  obtain ⟨p, -, rfl⟩ := Option.map_eq_some_iff.1 e
  exact State.legal_ite (State.winWrite_legal h_s) h_s

theorem State.privWrite_legal {s : State} {a : Nat} {v : Word} {lanes : BitVec 3} {t : State}
    (e : s.privWrite a v lanes = some t) (h_s : s.Legal) : t.Legal := by
  obtain ⟨p, -, rfl⟩ := Option.map_eq_some_iff.1 e
  split
  · exact State.modBoot_legal h_s
  · exact h_s
  · exact State.legal_with_csram h_s (Memory.setLanes_wf _ _ _ h_s.csram)
  · exact State.flashRegWrite_legal h_s
  · exact State.fuseRegWrite_legal h_s

theorem State.debugPrivWrite_legal {s : State} {a : Nat} {v : Word} (h_s : s.Legal) : (State.debugPrivWrite s a v).Legal := by
  unfold State.debugPrivWrite
  split
  · exact State.legal_with_flash h_s (Memory.setWord_wf _ _ h_s.flash)
  · exact State.legal_getD h_s fun t e => State.privWrite_legal e h_s

theorem execRegisterWrite_legal {w : Initiator} {priv : Bool} {a : PAddr} {v : Word} {s : State} (h_s : s.Legal) :
    Outcome.Legal (execRegisterWrite w priv a v s) := by
  refine ifActs_legal h_s fun s h => ?_
  repeat'
    first
    | with_reducible assumption | with_reducible apply State.legal_ite | with_reducible apply State.debugPrivWrite_legal
    | with_reducible apply State.domainWrite_legal | exact State.legal_getD h fun t e => State.privWrite_legal e h
    | exact State.regWrite_legal (by assumption) h | split

end Sys2Proof.Machine
end

