-- ==== Sys2Proof/Laws/LegalAccess.lean ====
section
/-! SUPPORT. A legal state stays legal: Access. -/
set_option Elab.async false
set_option linter.all false
namespace Sys2Proof.Machine

theorem regLoad_legal {k : Core} {z : Size} {p : DWord} {a : Nat} : Exec.Legal (regLoad k z p a) := by
  unfold regLoad
  repeat'
    first
    | with_reducible assumption | intro _ | with_reducible apply raise_legal
    | with_reducible apply State.winRead_legal | with_reducible apply Exec.legal_get
    | with_reducible apply Exec.legal_set | with_reducible apply Exec.legal_pure | with_reducible apply Exec.legal_bind
    | split

theorem regStore_legal {k : Core} {z : Size} {p : DWord} {a : Nat} {v : DWord} : Exec.Legal (regStore k z p a v) := by
  unfold regStore
  repeat'
    first
    | with_reducible assumption | intro _ | with_reducible apply raise_legal
    | with_reducible apply State.winWrite_legal | with_reducible apply Exec.legal_get
    | with_reducible apply Exec.legal_set | with_reducible apply Exec.legal_pure | split

theorem unpoisoned_legal {p : DWord} {bad : Bool} {ws : List (Word × Bool)} : Exec.Legal (unpoisoned p bad ws) := by
  unfold unpoisoned
  repeat' first | with_reducible apply raise_legal | with_reducible apply Exec.legal_pure | split

theorem cleanFirst_legal {c : Fin 12} {ups : List Upset} {a : Nat}  :
    Exec.Legal (cleanFirst c ups a) := by
  unfold cleanFirst
  repeat'
    first
    | with_reducible assumption | intro _ | with_reducible apply Exec.legal_get | with_reducible apply Exec.legal_bind
    | with_reducible apply Exec.legal_set | with_reducible apply Exec.legal_modify
    | with_reducible apply Exec.legal_pure | with_reducible apply Exec.legal_throw
    | with_reducible apply State.backErrors_legal | with_reducible apply State.cleanLine_legal
    | with_reducible apply State.legal_core | with_reducible apply State.legal_cdr
    | simp only [State.legal_with, VoiceCore.legal_with, State.legal_with_cdr_fields]
    | with_reducible apply State.legal_ite | split | dsimp only

theorem bringFirst_legal {c : Fin 12} {a : Nat} : Exec.Legal (bringFirst c a) := by
  unfold bringFirst
  repeat'
    first
    | with_reducible assumption | intro _ | with_reducible apply State.bringData_legal
    | with_reducible apply Exec.legal_get | with_reducible apply Exec.legal_set | with_reducible apply Exec.legal_pure
    | with_reducible apply Exec.legal_throw | with_reducible apply Exec.legal_bind | split

theorem readUncached_legal {p : DWord} {bad : Bool} {a : Nat} {n : Nat} : Exec.Legal (readUncached p bad a n) := by
  unfold readUncached
  repeat'
    first
    | with_reducible assumption | intro _ | with_reducible apply State.readWords_legal
    | with_reducible apply unpoisoned_legal | with_reducible apply Exec.legal_get | with_reducible apply Exec.legal_set
    | with_reducible apply Exec.legal_bind

theorem readCached_legal {p : DWord} {bad : Bool} {a : Nat} {n : Nat} : Exec.Legal (readCached p bad a n) := by
  unfold readCached
  repeat'
    first
    | with_reducible assumption | intro _ | with_reducible apply State.readWords_legal
    | with_reducible apply unpoisoned_legal | with_reducible apply Exec.legal_get | with_reducible apply Exec.legal_set
    | with_reducible apply Exec.legal_bind

theorem voiceLoad_legal {c : Fin 12} {z : Size} {p : DWord} {ups : List Upset} {x : PAddr × Option MemType}  :
    Exec.Legal (voiceLoad c z p ups x) := by
  unfold voiceLoad
  repeat'
    first
    | with_reducible assumption | intro _ | with_reducible apply Exec.legal_get | with_reducible apply Exec.legal_bind
    | with_reducible apply Exec.legal_set | with_reducible apply Exec.legal_modify
    | with_reducible apply Exec.legal_pure | with_reducible apply Exec.legal_throw
    | with_reducible apply bringFirst_legal | with_reducible apply cleanFirst_legal | with_reducible apply raise_legal
    | with_reducible apply readCached_legal | with_reducible apply readUncached_legal
    | with_reducible apply regLoad_legal | with_reducible apply State.legal_core
    | with_reducible apply State.legal_cdr
    | simp only [State.legal_with, VoiceCore.legal_with, State.legal_with_cdr_fields]
    | with_reducible apply State.legal_ite | split | dsimp only

theorem State.ownStore_legal {s : State} {c : Fin 12} {a : Nat} (h_s : s.Legal) : (State.ownStore s c a).Legal := by
  unfold State.ownStore
  repeat'
    first
    | with_reducible assumption | intro _ | with_reducible apply State.legal_modCore
    | simp only [VoiceCore.legal_with]

theorem postedError_legal {c : Fin 12} {a : PAddr} : Exec.Legal (postedError c a) := by
  unfold postedError
  repeat'
    first
    | with_reducible assumption | intro _ | with_reducible apply State.legal_modCore
    | with_reducible apply VoiceCore.defer_legal | with_reducible apply Exec.legal_modify

theorem storeUncached_legal {c : Fin 12} {ups : List Upset} {a : Nat} {ws : List WrWord}  :
    Exec.Legal (storeUncached c ups a ws) := by
  unfold storeUncached
  repeat'
    first
    | with_reducible assumption | intro _ | with_reducible apply Exec.legal_get | with_reducible apply Exec.legal_bind
    | with_reducible apply Exec.legal_set | with_reducible apply Exec.legal_modify
    | with_reducible apply Exec.legal_pure | with_reducible apply Exec.legal_throw
    | with_reducible apply State.dropLine_legal | with_reducible apply State.ownStore_legal
    | with_reducible apply State.writeLine_legal | with_reducible apply cleanFirst_legal
    | with_reducible apply State.legal_core | with_reducible apply State.legal_cdr
    | simp only [State.legal_with, VoiceCore.legal_with, State.legal_with_cdr_fields]
    | with_reducible apply State.legal_ite | split | dsimp only

theorem voiceStore_legal {c : Fin 12} {ups : List Upset} {z : Size} {p : DWord} {v : DWord}
  {x : PAddr × Option MemType}  :
    Exec.Legal (voiceStore c ups z p v x) := by
  unfold voiceStore
  repeat'
    first
    | with_reducible assumption | intro _ | with_reducible apply Exec.legal_get | with_reducible apply Exec.legal_bind
    | with_reducible apply Exec.legal_set | with_reducible apply Exec.legal_modify
    | with_reducible apply Exec.legal_pure | with_reducible apply Exec.legal_throw
    | with_reducible apply State.ownStore_legal | with_reducible apply State.storeCached_legal
    | with_reducible apply bringFirst_legal | with_reducible apply postedError_legal
    | with_reducible apply raise_legal | with_reducible apply regStore_legal
    | with_reducible apply storeUncached_legal | with_reducible apply State.legal_core
    | with_reducible apply State.legal_cdr
    | simp only [State.legal_with, VoiceCore.legal_with, State.legal_with_cdr_fields]
    | with_reducible apply State.legal_ite | split | dsimp only

theorem voiceAddr_legal {c : Fin 12} {acc : Acc} {z : Size} {p : DWord} : Exec.Legal (voiceAddr c acc z p) := by
  unfold voiceAddr
  repeat'
    first
    | intro _ | with_reducible apply reqOf_legal | with_reducible apply raise_legal
    | with_reducible apply Req.translate_legal | with_reducible apply Exec.legal_bind | split

theorem cdrAddr_legal {z : Size} {p : DWord} : Exec.Legal (cdrAddr z p) := by
  unfold cdrAddr
  repeat' first | with_reducible apply raise_legal | with_reducible apply Exec.legal_pure | split

theorem cdrLoad_legal {z : Size} {p : DWord} {ups : List Upset} {a : Nat} : Exec.Legal (cdrLoad z p ups a) := by
  unfold cdrLoad
  repeat'
    first
    | with_reducible assumption | intro _ | with_reducible apply raise_legal
    | with_reducible apply regLoad_legal | with_reducible apply State.cdrWords_legal
    | with_reducible apply unpoisoned_legal | with_reducible apply Exec.legal_get | with_reducible apply Exec.legal_set
    | with_reducible apply Exec.legal_pure | with_reducible apply Exec.legal_bind | split

theorem State.privWrites_legal {ws : List WrWord} {s t : State}
    (e : ws.foldlM (fun (s : State) (w : WrWord) => s.privWrite w.addr w.data w.lanes) s = some t) (h_s : s.Legal) : t.Legal := by
  induction ws generalizing s with
  | nil =>
    injection e with e
    exact e ▸ h_s
  | cons w ws ih =>
    rw [List.foldlM_cons] at e
    obtain ⟨u, hu, e⟩ := Option.bind_eq_some_iff.1 e
    exact ih e (State.privWrite_legal hu h_s)

theorem cdrStore_legal {z : Size} {p : DWord} {v : DWord} {a : Nat} : Exec.Legal (cdrStore z p v a) := by
  unfold cdrStore
  repeat'
    first
    | with_reducible assumption | intro _ | with_reducible apply raise_legal
    | with_reducible apply regStore_legal | with_reducible apply State.cdrWrite_legal
    | refine State.privWrites_legal (by assumption) ?_ | with_reducible apply Exec.legal_get
    | with_reducible apply Exec.legal_set | split | dsimp only

theorem loadAt_legal {k : Core} {f : Fetch} {z : Size} {p : DWord}  :
    Exec.Legal (loadAt k f z p) := by
  unfold loadAt
  repeat'
    first
    | with_reducible assumption | intro _ | with_reducible apply Exec.legal_get | with_reducible apply Exec.legal_bind
    | with_reducible apply Exec.legal_set | with_reducible apply Exec.legal_modify
    | with_reducible apply Exec.legal_pure | with_reducible apply Exec.legal_throw
    | with_reducible apply cdrAddr_legal | with_reducible apply cdrLoad_legal | with_reducible apply voiceAddr_legal
    | with_reducible apply voiceLoad_legal | with_reducible apply State.legal_core
    | with_reducible apply State.legal_cdr
    | simp only [State.legal_with, VoiceCore.legal_with, State.legal_with_cdr_fields]
    | with_reducible apply State.legal_ite | split | dsimp only

theorem storeAt_legal {k : Core} {f : Fetch} {z : Size} {p : DWord} {v : DWord}  :
    Exec.Legal (storeAt k f z p v) := by
  unfold storeAt
  repeat'
    first
    | with_reducible assumption | intro _ | with_reducible apply Exec.legal_get | with_reducible apply Exec.legal_bind
    | with_reducible apply Exec.legal_set | with_reducible apply Exec.legal_modify
    | with_reducible apply Exec.legal_pure | with_reducible apply Exec.legal_throw
    | with_reducible apply State.store_legal | with_reducible apply cdrAddr_legal
    | with_reducible apply cdrStore_legal | with_reducible apply voiceAddr_legal
    | with_reducible apply voiceStore_legal | with_reducible apply State.legal_core
    | with_reducible apply State.legal_cdr
    | simp only [State.legal_with, VoiceCore.legal_with, State.legal_with_cdr_fields]
    | with_reducible apply State.legal_ite | split | dsimp only

theorem fetchFrom_legal {c : Fin 12} {p : DWord} {a : Nat} {bad : BitVec 24}  :
    Exec.Legal (fetchFrom c p a bad) := by
  unfold fetchFrom
  repeat'
    first
    | with_reducible assumption | intro _ | with_reducible apply Exec.legal_get | with_reducible apply Exec.legal_bind
    | with_reducible apply Exec.legal_set | with_reducible apply Exec.legal_modify
    | with_reducible apply Exec.legal_pure | with_reducible apply Exec.legal_throw
    | with_reducible apply VoiceCore.bufLine_legal | with_reducible apply raise_legal
    | with_reducible apply State.legal_modCore | with_reducible apply State.legal_core
    | with_reducible apply State.legal_cdr
    | simp only [State.legal_with, VoiceCore.legal_with, State.legal_with_cdr_fields]
    | with_reducible apply State.legal_ite | split | dsimp only

theorem voiceFetch_legal {c : Fin 12} {ups : List Upset} {p : DWord}  :
    Exec.Legal (voiceFetch c ups p) := by
  unfold voiceFetch
  repeat'
    first
    | with_reducible assumption | intro _ | with_reducible apply Exec.legal_get | with_reducible apply Exec.legal_bind
    | with_reducible apply Exec.legal_set | with_reducible apply Exec.legal_modify
    | with_reducible apply Exec.legal_pure | with_reducible apply Exec.legal_throw
    | with_reducible apply State.bringInsn_legal | with_reducible apply State.readBeats_legal
    | with_reducible apply Req.translate_legal | with_reducible apply cleanFirst_legal | with_reducible apply fetchFrom_legal | with_reducible apply raise_legal
    | with_reducible apply reqOf_legal | with_reducible apply State.legal_core | with_reducible apply State.legal_cdr
    | simp only [State.legal_with, VoiceCore.legal_with, State.legal_with_cdr_fields]
    | with_reducible apply State.legal_ite | split | dsimp only

theorem cdrFetch_legal {ups : List Upset} {p : DWord}  :
    Exec.Legal (cdrFetch ups p) := by
  unfold cdrFetch
  repeat'
    first
    | with_reducible assumption | intro _ | with_reducible apply Exec.legal_get | with_reducible apply Exec.legal_bind
    | with_reducible apply Exec.legal_set | with_reducible apply Exec.legal_modify
    | with_reducible apply Exec.legal_pure | with_reducible apply Exec.legal_throw | with_reducible apply raise_legal
    | with_reducible apply State.legal_core | with_reducible apply State.legal_cdr
    | simp only [State.legal_with, VoiceCore.legal_with, State.legal_with_cdr_fields]
    | with_reducible apply State.legal_ite | split | dsimp only

theorem fetchWord_legal {k : Core} {f : Fetch} {p : DWord} : Exec.Legal (fetchWord k f p) := by
  unfold fetchWord
  repeat' first | with_reducible apply voiceFetch_legal | with_reducible apply cdrFetch_legal | split

end Sys2Proof.Machine
end

