-- ==== Sys2Proof/Laws/LegalRun.lean ====
section
/-! SUPPORT. A legal state stays legal: Run. -/
set_option Elab.async false
set_option linter.all false
namespace Sys2Proof.Machine

theorem fetchInsn_legal {k : Core} {f : Fetch} {p : DWord} : Exec.Legal (fetchInsn k f p) := by
  unfold fetchInsn
  repeat' first | intro _ | with_reducible apply fetchWord_legal | with_reducible apply Exec.legal_bind | split

theorem decodeInsn_legal {k : Core} {f : Fetch} {i : Insn} : Exec.Legal (decodeInsn k f i) := by
  unfold decodeInsn
  repeat'
    first
    | intro _ | with_reducible apply raise_legal | with_reducible apply Exec.legal_get
    | with_reducible apply Exec.legal_pure | split | dsimp only

theorem State.trapped_legal {s : State} {k : Core} {a : Trap} (h_s : s.Legal) : (State.trapped s k a).Legal := by
  unfold State.trapped
  repeat' first | with_reducible assumption | with_reducible apply State.excAt_legal | split

theorem State.enterAt_legal {s : State} {a : Core} (h_s : s.Legal) : (State.enterAt s a).Legal := by
  unfold State.enterAt
  repeat' first | with_reducible assumption | with_reducible apply State.enterSlot_legal | split

/-- The state in which a boundary ends. -/
def Bound.state : Bound → State
  | .over s => s
  | .ready s => s

theorem State.boundary_legal {s : State} {k : Core} {f : Fetch} {i : Insn} (h_s : s.Legal) : (s.boundary k f i).state.Legal := by
  unfold State.boundary
  dsimp only
  split
  · exact h_s
  · split
    · rename_i t e
      exact State.asyncAt_legal e (State.awake_legal h_s)
    · have h : ((((s.awake (initiatorOf k)).upsets f.ups).enterAt k)).Legal := State.enterAt_legal (State.upsets_legal (State.awake_legal h_s))
      split
      · rename_i t e
        exact (Exec.legal_bind fetchInsn_legal fun _ => decodeInsn_legal).ok _ _ t h e
      · rename_i x t e
        exact State.trapped_legal ((Exec.legal_bind fetchInsn_legal fun _ => decodeInsn_legal).err _ x t h e)

theorem State.countInsn_legal {s : State} {k : Core} (h_s : s.Legal) : (State.countInsn s k).Legal := by
  unfold State.countInsn
  cases k with
  | voice c =>
    have h : (s.modCore c fun v => { v with instret := (s.core c).instret + 1 }).Legal :=
      State.legal_modCore h_s fun _ hv => VoiceCore.legal_with.2 hv
    exact State.legal_ite (State.edge_legal h) h
  | conductor =>
    have h : ({ s with cdr := { s.cdr with instret := s.cdr.instret + 1 } } : State).Legal := State.legal_with_cdr_fields.2 h_s
    exact State.legal_ite (State.edge_legal h) h

theorem State.afterInsn_legal {s : State} {was : State} {k : Core} {d : Done} (h_s : s.Legal) (_ : was.Legal) :
    (State.afterInsn s was k d).Legal := by
  unfold State.afterInsn
  repeat'
    first
    | with_reducible assumption | with_reducible apply State.traceRetire_legal
    | with_reducible apply State.traceLeave_legal | with_reducible apply State.enterSlot_legal
    | simp only [State.legal_with, State.legal_with_cdr_fields] | with_reducible apply State.legal_ite | split

theorem State.retire_legal {s was : State} {k : Core} {f : Fetch} {d : Done} (h_s : s.Legal) (h_was : was.Legal) :
    (State.retire s was k f d).Legal := State.afterInsn_legal (State.countInsn_legal (State.setPc_legal h_s)) h_was

theorem State.perform_legal {s : State} {k : Core} {f : Fetch} {body : Exec Done} (h_s : s.Legal) (h_body : Exec.Legal body) :
    (State.perform s k f body).Legal := by
  unfold State.perform
  split
  · rename_i d t e
    exact State.retire_legal (h_body.ok s d t h_s e) h_s
  · rename_i x t e
    exact State.trapped_legal (h_body.err s x t h_s e)

theorem runInsn_legal {k : Core} {f : Fetch} {i : Insn} {body : Exec Done} {s : State} (h_s : s.Legal) (h_body : Exec.Legal body) :
    Outcome.Legal (runInsn k f i body s) := by
  have h := State.boundary_legal (k := k) (f := f) (i := i) h_s
  refine Outcome.legal_next ?_
  split
  · rename_i t e
    rwa [e] at h
  · rename_i t e
    rw [e] at h
    exact State.perform_legal h h_body

theorem regBody_legal {g : State → State} (h_g : ∀ s, s.Legal → (g s).Legal) : Exec.Legal (regBody g) :=
  ⟨fun s _ _ h e => by cases e; exact h_g s h, fun _ _ _ _ e => by cases e⟩

theorem runReg_legal {k : Core} {f : Fetch} {i : Insn} {g : State → State} {s : State} (h_s : s.Legal) (h_g : ∀ s0, s0.Legal → (g s0).Legal) :
    Outcome.Legal (runReg k f i g s) := by
  unfold runReg
  repeat' first | with_reducible assumption | with_reducible apply runInsn_legal | with_reducible apply regBody_legal

end Sys2Proof.Machine
end

