-- ==== Sys2Proof/Laws/LegalAlu.lean ====
section
/-! SUPPORT. A legal state stays legal: Alu. -/
set_option Elab.async false
set_option linter.all false
namespace Sys2Proof.Machine

theorem wordOp_legal {k : Core} {rd : BitVec 5} {rs1 : BitVec 5} {rs2 : BitVec 5} {op : Word → Word → Word} {s : State} (h_s : s.Legal) :
    (wordOp k rd rs1 rs2 op s).Legal := by
  unfold wordOp
  repeat' first | with_reducible assumption | with_reducible apply State.setW_legal

theorem immOp_legal {k : Core} {rd : BitVec 5} {rs1 : BitVec 5} {imm : Word} {op : Word → Word → Word} {s : State} (h_s : s.Legal) :
    (immOp k rd rs1 imm op s).Legal := by
  unfold immOp
  repeat' first | with_reducible assumption | with_reducible apply State.setW_legal

theorem pairOp_legal {k : Core} {rd : BitVec 5} {rs1 : BitVec 5} {rs2 : BitVec 5} {op : DWord → DWord → DWord} {s : State} (h_s : s.Legal) :
    (pairOp k rd rs1 rs2 op s).Legal := by
  unfold pairOp
  repeat' first | with_reducible assumption | with_reducible apply State.setD_legal

theorem shiftOp_legal {k : Core} {rd : BitVec 5} {rs1 : BitVec 5} {rs2 : BitVec 5} {op : DWord → Nat → DWord} {s : State} (h_s : s.Legal) :
    (shiftOp k rd rs1 rs2 op s).Legal := by
  unfold shiftOp
  repeat' first | with_reducible assumption | with_reducible apply State.setD_legal

theorem execAddW_legal {k : Core} {f : Fetch} {rd : BitVec 5} {rs1 : BitVec 5} {rs2 : BitVec 5} {s : State} (h_s : s.Legal) :
    Outcome.Legal (execAddW k f rd rs1 rs2 s) := by
  unfold execAddW
  repeat'
    first
    | with_reducible assumption | intro _ | with_reducible apply runReg_legal
    | with_reducible apply wordOp_legal

theorem execSubW_legal {k : Core} {f : Fetch} {rd : BitVec 5} {rs1 : BitVec 5} {rs2 : BitVec 5} {s : State} (h_s : s.Legal) :
    Outcome.Legal (execSubW k f rd rs1 rs2 s) := by
  unfold execSubW
  repeat'
    first
    | with_reducible assumption | intro _ | with_reducible apply runReg_legal
    | with_reducible apply wordOp_legal

theorem execAndW_legal {k : Core} {f : Fetch} {rd : BitVec 5} {rs1 : BitVec 5} {rs2 : BitVec 5} {s : State} (h_s : s.Legal) :
    Outcome.Legal (execAndW k f rd rs1 rs2 s) := by
  unfold execAndW
  repeat'
    first
    | with_reducible assumption | intro _ | with_reducible apply runReg_legal
    | with_reducible apply wordOp_legal

theorem execOrW_legal {k : Core} {f : Fetch} {rd : BitVec 5} {rs1 : BitVec 5} {rs2 : BitVec 5} {s : State} (h_s : s.Legal) :
    Outcome.Legal (execOrW k f rd rs1 rs2 s) := by
  unfold execOrW
  repeat'
    first
    | with_reducible assumption | intro _ | with_reducible apply runReg_legal
    | with_reducible apply wordOp_legal

theorem execXorW_legal {k : Core} {f : Fetch} {rd : BitVec 5} {rs1 : BitVec 5} {rs2 : BitVec 5} {s : State} (h_s : s.Legal) :
    Outcome.Legal (execXorW k f rd rs1 rs2 s) := by
  unfold execXorW
  repeat'
    first
    | with_reducible assumption | intro _ | with_reducible apply runReg_legal
    | with_reducible apply wordOp_legal

theorem execSlt_legal {k : Core} {f : Fetch} {rd : BitVec 5} {rs1 : BitVec 5} {rs2 : BitVec 5} {s : State} (h_s : s.Legal) :
    Outcome.Legal (execSlt k f rd rs1 rs2 s) := by
  unfold execSlt
  repeat'
    first
    | with_reducible assumption | intro _ | with_reducible apply runReg_legal
    | with_reducible apply wordOp_legal

theorem execSltu_legal {k : Core} {f : Fetch} {rd : BitVec 5} {rs1 : BitVec 5} {rs2 : BitVec 5} {s : State} (h_s : s.Legal) :
    Outcome.Legal (execSltu k f rd rs1 rs2 s) := by
  unfold execSltu
  repeat'
    first
    | with_reducible assumption | intro _ | with_reducible apply runReg_legal
    | with_reducible apply wordOp_legal

theorem execNorW_legal {k : Core} {f : Fetch} {rd : BitVec 5} {rs1 : BitVec 5} {rs2 : BitVec 5} {s : State} (h_s : s.Legal) :
    Outcome.Legal (execNorW k f rd rs1 rs2 s) := by
  unfold execNorW
  repeat'
    first
    | with_reducible assumption | intro _ | with_reducible apply runReg_legal
    | with_reducible apply wordOp_legal

theorem execSll_legal {k : Core} {f : Fetch} {rd : BitVec 5} {rs1 : BitVec 5} {rs2 : BitVec 5} {s : State} (h_s : s.Legal) :
    Outcome.Legal (execSll k f rd rs1 rs2 s) := by
  unfold execSll
  repeat'
    first
    | with_reducible assumption | intro _ | with_reducible apply runReg_legal
    | with_reducible apply wordOp_legal

theorem execSrl_legal {k : Core} {f : Fetch} {rd : BitVec 5} {rs1 : BitVec 5} {rs2 : BitVec 5} {s : State} (h_s : s.Legal) :
    Outcome.Legal (execSrl k f rd rs1 rs2 s) := by
  unfold execSrl
  repeat'
    first
    | with_reducible assumption | intro _ | with_reducible apply runReg_legal
    | with_reducible apply wordOp_legal

theorem execSra_legal {k : Core} {f : Fetch} {rd : BitVec 5} {rs1 : BitVec 5} {rs2 : BitVec 5} {s : State} (h_s : s.Legal) :
    Outcome.Legal (execSra k f rd rs1 rs2 s) := by
  unfold execSra
  repeat'
    first
    | with_reducible assumption | intro _ | with_reducible apply runReg_legal
    | with_reducible apply wordOp_legal

theorem execRol_legal {k : Core} {f : Fetch} {rd : BitVec 5} {rs1 : BitVec 5} {rs2 : BitVec 5} {s : State} (h_s : s.Legal) :
    Outcome.Legal (execRol k f rd rs1 rs2 s) := by
  unfold execRol
  repeat'
    first
    | with_reducible assumption | intro _ | with_reducible apply runReg_legal
    | with_reducible apply wordOp_legal

theorem execMinS_legal {k : Core} {f : Fetch} {rd : BitVec 5} {rs1 : BitVec 5} {rs2 : BitVec 5} {s : State} (h_s : s.Legal) :
    Outcome.Legal (execMinS k f rd rs1 rs2 s) := by
  unfold execMinS
  repeat'
    first
    | with_reducible assumption | intro _ | with_reducible apply runReg_legal
    | with_reducible apply wordOp_legal

theorem execMaxS_legal {k : Core} {f : Fetch} {rd : BitVec 5} {rs1 : BitVec 5} {rs2 : BitVec 5} {s : State} (h_s : s.Legal) :
    Outcome.Legal (execMaxS k f rd rs1 rs2 s) := by
  unfold execMaxS
  repeat'
    first
    | with_reducible assumption | intro _ | with_reducible apply runReg_legal
    | with_reducible apply wordOp_legal

theorem execMinu_legal {k : Core} {f : Fetch} {rd : BitVec 5} {rs1 : BitVec 5} {rs2 : BitVec 5} {s : State} (h_s : s.Legal) :
    Outcome.Legal (execMinu k f rd rs1 rs2 s) := by
  unfold execMinu
  repeat'
    first
    | with_reducible assumption | intro _ | with_reducible apply runReg_legal
    | with_reducible apply wordOp_legal

theorem execMaxu_legal {k : Core} {f : Fetch} {rd : BitVec 5} {rs1 : BitVec 5} {rs2 : BitVec 5} {s : State} (h_s : s.Legal) :
    Outcome.Legal (execMaxu k f rd rs1 rs2 s) := by
  unfold execMaxu
  repeat'
    first
    | with_reducible assumption | intro _ | with_reducible apply runReg_legal
    | with_reducible apply wordOp_legal

theorem execMulW_legal {k : Core} {f : Fetch} {rd : BitVec 5} {rs1 : BitVec 5} {rs2 : BitVec 5} {s : State} (h_s : s.Legal) :
    Outcome.Legal (execMulW k f rd rs1 rs2 s) := by
  unfold execMulW
  repeat'
    first
    | with_reducible assumption | intro _ | with_reducible apply runReg_legal
    | with_reducible apply wordOp_legal

theorem execMulh_legal {k : Core} {f : Fetch} {rd : BitVec 5} {rs1 : BitVec 5} {rs2 : BitVec 5} {s : State} (h_s : s.Legal) :
    Outcome.Legal (execMulh k f rd rs1 rs2 s) := by
  unfold execMulh
  repeat'
    first
    | with_reducible assumption | intro _ | with_reducible apply runReg_legal
    | with_reducible apply wordOp_legal

theorem execMulhu_legal {k : Core} {f : Fetch} {rd : BitVec 5} {rs1 : BitVec 5} {rs2 : BitVec 5} {s : State} (h_s : s.Legal) :
    Outcome.Legal (execMulhu k f rd rs1 rs2 s) := by
  unfold execMulhu
  repeat'
    first
    | with_reducible assumption | intro _ | with_reducible apply runReg_legal
    | with_reducible apply wordOp_legal

theorem execMulw_legal {k : Core} {f : Fetch} {rd : BitVec 5} {rs1 : BitVec 5} {rs2 : BitVec 5} {s : State} (h_s : s.Legal) :
    Outcome.Legal (execMulw k f rd rs1 rs2 s) := by
  unfold execMulw
  repeat'
    first
    | with_reducible assumption | intro _ | with_reducible apply runReg_legal
    | with_reducible apply State.setD_legal

theorem execDivS_legal {k : Core} {f : Fetch} {rd : BitVec 5} {rs1 : BitVec 5} {rs2 : BitVec 5} {s : State} (h_s : s.Legal) :
    Outcome.Legal (execDivS k f rd rs1 rs2 s) := by
  unfold execDivS
  repeat'
    first
    | with_reducible assumption | intro _ | with_reducible apply runReg_legal
    | with_reducible apply wordOp_legal

theorem execDivu_legal {k : Core} {f : Fetch} {rd : BitVec 5} {rs1 : BitVec 5} {rs2 : BitVec 5} {s : State} (h_s : s.Legal) :
    Outcome.Legal (execDivu k f rd rs1 rs2 s) := by
  unfold execDivu
  repeat'
    first
    | with_reducible assumption | intro _ | with_reducible apply runReg_legal
    | with_reducible apply wordOp_legal

theorem execRemS_legal {k : Core} {f : Fetch} {rd : BitVec 5} {rs1 : BitVec 5} {rs2 : BitVec 5} {s : State} (h_s : s.Legal) :
    Outcome.Legal (execRemS k f rd rs1 rs2 s) := by
  unfold execRemS
  repeat'
    first
    | with_reducible assumption | intro _ | with_reducible apply runReg_legal
    | with_reducible apply wordOp_legal

theorem execRemu_legal {k : Core} {f : Fetch} {rd : BitVec 5} {rs1 : BitVec 5} {rs2 : BitVec 5} {s : State} (h_s : s.Legal) :
    Outcome.Legal (execRemu k f rd rs1 rs2 s) := by
  unfold execRemu
  repeat'
    first
    | with_reducible assumption | intro _ | with_reducible apply runReg_legal
    | with_reducible apply wordOp_legal

theorem execAddi_legal {k : Core} {f : Fetch} {rd : BitVec 5} {rs1 : BitVec 5} {imm : BitVec 8} {s : State} (h_s : s.Legal) :
    Outcome.Legal (execAddi k f rd rs1 imm s) := by
  unfold execAddi
  repeat'
    first
    | with_reducible assumption | intro _ | with_reducible apply runReg_legal
    | with_reducible apply immOp_legal

theorem execAndi_legal {k : Core} {f : Fetch} {rd : BitVec 5} {rs1 : BitVec 5} {imm : BitVec 8} {s : State} (h_s : s.Legal) :
    Outcome.Legal (execAndi k f rd rs1 imm s) := by
  unfold execAndi
  repeat'
    first
    | with_reducible assumption | intro _ | with_reducible apply runReg_legal
    | with_reducible apply immOp_legal

theorem execOri_legal {k : Core} {f : Fetch} {rd : BitVec 5} {rs1 : BitVec 5} {imm : BitVec 8} {s : State} (h_s : s.Legal) :
    Outcome.Legal (execOri k f rd rs1 imm s) := by
  unfold execOri
  repeat'
    first
    | with_reducible assumption | intro _ | with_reducible apply runReg_legal
    | with_reducible apply immOp_legal

theorem execXori_legal {k : Core} {f : Fetch} {rd : BitVec 5} {rs1 : BitVec 5} {imm : BitVec 8} {s : State} (h_s : s.Legal) :
    Outcome.Legal (execXori k f rd rs1 imm s) := by
  unfold execXori
  repeat'
    first
    | with_reducible assumption | intro _ | with_reducible apply runReg_legal
    | with_reducible apply immOp_legal

theorem execSlti_legal {k : Core} {f : Fetch} {rd : BitVec 5} {rs1 : BitVec 5} {imm : BitVec 8} {s : State} (h_s : s.Legal) :
    Outcome.Legal (execSlti k f rd rs1 imm s) := by
  unfold execSlti
  repeat'
    first
    | with_reducible assumption | intro _ | with_reducible apply runReg_legal
    | with_reducible apply immOp_legal

theorem execSltiu_legal {k : Core} {f : Fetch} {rd : BitVec 5} {rs1 : BitVec 5} {imm : BitVec 8} {s : State} (h_s : s.Legal) :
    Outcome.Legal (execSltiu k f rd rs1 imm s) := by
  unfold execSltiu
  repeat'
    first
    | with_reducible assumption | intro _ | with_reducible apply runReg_legal
    | with_reducible apply immOp_legal

theorem shiftImm_legal {k : Core} {rd : BitVec 5} {rs1 : BitVec 5} {imm : BitVec 8} {op : Word → Nat → Word} {s : State} (h_s : s.Legal) :
    (shiftImm k rd rs1 imm op s).Legal := by
  unfold shiftImm
  repeat' first | with_reducible assumption | with_reducible apply State.setW_legal

theorem execSlli_legal {k : Core} {f : Fetch} {rd : BitVec 5} {rs1 : BitVec 5} {imm : BitVec 8} {s : State} (h_s : s.Legal) :
    Outcome.Legal (execSlli k f rd rs1 imm s) := by
  unfold execSlli
  repeat'
    first
    | with_reducible assumption | intro _ | with_reducible apply runReg_legal
    | with_reducible apply shiftImm_legal

theorem execSrli_legal {k : Core} {f : Fetch} {rd : BitVec 5} {rs1 : BitVec 5} {imm : BitVec 8} {s : State} (h_s : s.Legal) :
    Outcome.Legal (execSrli k f rd rs1 imm s) := by
  unfold execSrli
  repeat'
    first
    | with_reducible assumption | intro _ | with_reducible apply runReg_legal
    | with_reducible apply shiftImm_legal

theorem execSrai_legal {k : Core} {f : Fetch} {rd : BitVec 5} {rs1 : BitVec 5} {imm : BitVec 8} {s : State} (h_s : s.Legal) :
    Outcome.Legal (execSrai k f rd rs1 imm s) := by
  unfold execSrai
  repeat'
    first
    | with_reducible assumption | intro _ | with_reducible apply runReg_legal
    | with_reducible apply shiftImm_legal

theorem execRoli_legal {k : Core} {f : Fetch} {rd : BitVec 5} {rs1 : BitVec 5} {imm : BitVec 8} {s : State} (h_s : s.Legal) :
    Outcome.Legal (execRoli k f rd rs1 imm s) := by
  unfold execRoli
  repeat'
    first
    | with_reducible assumption | intro _ | with_reducible apply runReg_legal
    | with_reducible apply shiftImm_legal

theorem execAddD_legal {k : Core} {f : Fetch} {rd : BitVec 5} {rs1 : BitVec 5} {rs2 : BitVec 5} {s : State} (h_s : s.Legal) :
    Outcome.Legal (execAddD k f rd rs1 rs2 s) := by
  unfold execAddD
  repeat'
    first
    | with_reducible assumption | intro _ | with_reducible apply runReg_legal
    | with_reducible apply pairOp_legal

theorem execSubD_legal {k : Core} {f : Fetch} {rd : BitVec 5} {rs1 : BitVec 5} {rs2 : BitVec 5} {s : State} (h_s : s.Legal) :
    Outcome.Legal (execSubD k f rd rs1 rs2 s) := by
  unfold execSubD
  repeat'
    first
    | with_reducible assumption | intro _ | with_reducible apply runReg_legal
    | with_reducible apply pairOp_legal

theorem execAndD_legal {k : Core} {f : Fetch} {rd : BitVec 5} {rs1 : BitVec 5} {rs2 : BitVec 5} {s : State} (h_s : s.Legal) :
    Outcome.Legal (execAndD k f rd rs1 rs2 s) := by
  unfold execAndD
  repeat'
    first
    | with_reducible assumption | intro _ | with_reducible apply runReg_legal
    | with_reducible apply pairOp_legal

theorem execOrD_legal {k : Core} {f : Fetch} {rd : BitVec 5} {rs1 : BitVec 5} {rs2 : BitVec 5} {s : State} (h_s : s.Legal) :
    Outcome.Legal (execOrD k f rd rs1 rs2 s) := by
  unfold execOrD
  repeat'
    first
    | with_reducible assumption | intro _ | with_reducible apply runReg_legal
    | with_reducible apply pairOp_legal

theorem execXorD_legal {k : Core} {f : Fetch} {rd : BitVec 5} {rs1 : BitVec 5} {rs2 : BitVec 5} {s : State} (h_s : s.Legal) :
    Outcome.Legal (execXorD k f rd rs1 rs2 s) := by
  unfold execXorD
  repeat'
    first
    | with_reducible assumption | intro _ | with_reducible apply runReg_legal
    | with_reducible apply pairOp_legal

theorem execSltD_legal {k : Core} {f : Fetch} {rd : BitVec 5} {rs1 : BitVec 5} {rs2 : BitVec 5} {s : State} (h_s : s.Legal) :
    Outcome.Legal (execSltD k f rd rs1 rs2 s) := by
  unfold execSltD
  repeat'
    first
    | with_reducible assumption | intro _ | with_reducible apply runReg_legal
    | with_reducible apply State.setW_legal

theorem execSltuD_legal {k : Core} {f : Fetch} {rd : BitVec 5} {rs1 : BitVec 5} {rs2 : BitVec 5} {s : State} (h_s : s.Legal) :
    Outcome.Legal (execSltuD k f rd rs1 rs2 s) := by
  unfold execSltuD
  repeat'
    first
    | with_reducible assumption | intro _ | with_reducible apply runReg_legal
    | with_reducible apply State.setW_legal

theorem execSllD_legal {k : Core} {f : Fetch} {rd : BitVec 5} {rs1 : BitVec 5} {rs2 : BitVec 5} {s : State} (h_s : s.Legal) :
    Outcome.Legal (execSllD k f rd rs1 rs2 s) := by
  unfold execSllD
  repeat'
    first
    | with_reducible assumption | intro _ | with_reducible apply runReg_legal
    | with_reducible apply shiftOp_legal

theorem execSrlD_legal {k : Core} {f : Fetch} {rd : BitVec 5} {rs1 : BitVec 5} {rs2 : BitVec 5} {s : State} (h_s : s.Legal) :
    Outcome.Legal (execSrlD k f rd rs1 rs2 s) := by
  unfold execSrlD
  repeat'
    first
    | with_reducible assumption | intro _ | with_reducible apply runReg_legal
    | with_reducible apply shiftOp_legal

theorem execSraD_legal {k : Core} {f : Fetch} {rd : BitVec 5} {rs1 : BitVec 5} {rs2 : BitVec 5} {s : State} (h_s : s.Legal) :
    Outcome.Legal (execSraD k f rd rs1 rs2 s) := by
  unfold execSraD
  repeat'
    first
    | with_reducible assumption | intro _ | with_reducible apply runReg_legal
    | with_reducible apply shiftOp_legal

theorem execSextD_legal {k : Core} {f : Fetch} {rd : BitVec 5} {rs1 : BitVec 5} {rs2 : BitVec 5} {s : State} (h_s : s.Legal) :
    Outcome.Legal (execSextD k f rd rs1 rs2 s) := by
  unfold execSextD
  repeat'
    first
    | with_reducible assumption | intro _ | with_reducible apply runReg_legal
    | with_reducible apply State.setD_legal

theorem execZextD_legal {k : Core} {f : Fetch} {rd : BitVec 5} {rs1 : BitVec 5} {rs2 : BitVec 5} {s : State} (h_s : s.Legal) :
    Outcome.Legal (execZextD k f rd rs1 rs2 s) := by
  unfold execZextD
  repeat'
    first
    | with_reducible assumption | intro _ | with_reducible apply runReg_legal
    | with_reducible apply State.setD_legal

theorem execPackD_legal {k : Core} {f : Fetch} {rd : BitVec 5} {rs1 : BitVec 5} {rs2 : BitVec 5} {s : State} (h_s : s.Legal) :
    Outcome.Legal (execPackD k f rd rs1 rs2 s) := by
  unfold execPackD
  repeat'
    first
    | with_reducible assumption | intro _ | with_reducible apply runReg_legal
    | with_reducible apply State.setD_legal

theorem execAddiD_legal {k : Core} {f : Fetch} {rd : BitVec 5} {rs1 : BitVec 5} {imm : BitVec 8} {s : State} (h_s : s.Legal) :
    Outcome.Legal (execAddiD k f rd rs1 imm s) := by
  unfold execAddiD
  repeat'
    first
    | with_reducible assumption | intro _ | with_reducible apply runReg_legal
    | with_reducible apply State.setD_legal

theorem ptrBody_legal {k : Core} {rd : BitVec 5} {ptrs : State → List DWord} {v : State → DWord} :
    Exec.Legal (ptrBody k rd ptrs v) := by
  unfold ptrBody
  repeat'
    first
    | with_reducible assumption | intro _ | with_reducible apply raise_legal
    | with_reducible apply State.setD_legal | with_reducible apply Exec.legal_get | with_reducible apply Exec.legal_set
    | with_reducible apply Exec.legal_pure | with_reducible apply Exec.legal_bind | split

theorem execPaddB_legal {k : Core} {f : Fetch} {rd : BitVec 5} {rs1 : BitVec 5} {rs2 : BitVec 5} {s : State} (h_s : s.Legal) :
    Outcome.Legal (execPaddB k f rd rs1 rs2 s) := by
  unfold execPaddB
  repeat' first | with_reducible assumption | with_reducible apply runInsn_legal | with_reducible apply ptrBody_legal

theorem execPaddiB_legal {k : Core} {f : Fetch} {rd : BitVec 5} {rs1 : BitVec 5} {imm : BitVec 8} {s : State} (h_s : s.Legal) :
    Outcome.Legal (execPaddiB k f rd rs1 imm s) := by
  unfold execPaddiB
  repeat' first | with_reducible assumption | with_reducible apply runInsn_legal | with_reducible apply ptrBody_legal

theorem execPsubB_legal {k : Core} {f : Fetch} {rd : BitVec 5} {rs1 : BitVec 5} {rs2 : BitVec 5} {s : State} (h_s : s.Legal) :
    Outcome.Legal (execPsubB k f rd rs1 rs2 s) := by
  unfold execPsubB
  repeat' first | with_reducible assumption | with_reducible apply runInsn_legal | with_reducible apply ptrBody_legal

theorem execPidx_legal {k : Core} {f : Fetch} {rd : BitVec 5} {rs1 : BitVec 5} {rs2 : BitVec 5} {s : State} (h_s : s.Legal) :
    Outcome.Legal (execPidx k f rd rs1 rs2 s) := by
  unfold execPidx
  repeat' first | with_reducible assumption | with_reducible apply runInsn_legal | with_reducible apply ptrBody_legal

theorem execPfrom_legal {k : Core} {f : Fetch} {rd : BitVec 5} {rs1 : BitVec 5} {rs2 : BitVec 5} {s : State} (h_s : s.Legal) :
    Outcome.Legal (execPfrom k f rd rs1 rs2 s) := by
  unfold execPfrom
  repeat' first | with_reducible assumption | with_reducible apply runInsn_legal | with_reducible apply ptrBody_legal

end Sys2Proof.Machine
end

