-- ==== Sys2Proof/Laws/LegalBranch.lean ====
section
/-! SUPPORT. A legal state stays legal: Branch. -/
set_option Elab.async false
set_option linter.all false
namespace Sys2Proof.Machine

theorem branchBody_legal {k : Core} {f : Fetch} {rs1 : BitVec 5} {rs2 : BitVec 5} {off : BitVec 8} {cond : Word → Word → Bool} :
    Exec.Legal (branchBody k f rs1 rs2 off cond) := by
  unfold branchBody
  repeat' first | intro _ | with_reducible apply Exec.legal_get | with_reducible apply Exec.legal_pure | split

theorem execBeq_legal {k : Core} {f : Fetch} {rs1 : BitVec 5} {rs2 : BitVec 5} {off : BitVec 8} {s : State} (h_s : s.Legal) :
    Outcome.Legal (execBeq k f rs1 rs2 off s) := by
  unfold execBeq
  repeat' first | with_reducible assumption | with_reducible apply runInsn_legal | with_reducible apply branchBody_legal

theorem execBne_legal {k : Core} {f : Fetch} {rs1 : BitVec 5} {rs2 : BitVec 5} {off : BitVec 8} {s : State} (h_s : s.Legal) :
    Outcome.Legal (execBne k f rs1 rs2 off s) := by
  unfold execBne
  repeat' first | with_reducible assumption | with_reducible apply runInsn_legal | with_reducible apply branchBody_legal

theorem execBlt_legal {k : Core} {f : Fetch} {rs1 : BitVec 5} {rs2 : BitVec 5} {off : BitVec 8} {s : State} (h_s : s.Legal) :
    Outcome.Legal (execBlt k f rs1 rs2 off s) := by
  unfold execBlt
  repeat' first | with_reducible assumption | with_reducible apply runInsn_legal | with_reducible apply branchBody_legal

theorem execBge_legal {k : Core} {f : Fetch} {rs1 : BitVec 5} {rs2 : BitVec 5} {off : BitVec 8} {s : State} (h_s : s.Legal) :
    Outcome.Legal (execBge k f rs1 rs2 off s) := by
  unfold execBge
  repeat' first | with_reducible assumption | with_reducible apply runInsn_legal | with_reducible apply branchBody_legal

theorem execBltu_legal {k : Core} {f : Fetch} {rs1 : BitVec 5} {rs2 : BitVec 5} {off : BitVec 8} {s : State} (h_s : s.Legal) :
    Outcome.Legal (execBltu k f rs1 rs2 off s) := by
  unfold execBltu
  repeat' first | with_reducible assumption | with_reducible apply runInsn_legal | with_reducible apply branchBody_legal

theorem execBgeu_legal {k : Core} {f : Fetch} {rs1 : BitVec 5} {rs2 : BitVec 5} {off : BitVec 8} {s : State} (h_s : s.Legal) :
    Outcome.Legal (execBgeu k f rs1 rs2 off s) := by
  unfold execBgeu
  repeat' first | with_reducible assumption | with_reducible apply runInsn_legal | with_reducible apply branchBody_legal

theorem jumpBody_legal {k : Core} {f : Fetch} {off : BitVec 18} {link : Bool} : Exec.Legal (jumpBody k f off link) := by
  unfold jumpBody
  repeat'
    first
    | with_reducible assumption | intro _ | with_reducible apply State.setD_legal
    | with_reducible apply Exec.legal_get | with_reducible apply Exec.legal_set | with_reducible apply Exec.legal_pure
    | with_reducible apply Exec.legal_bind | split

theorem execJmp_legal {k : Core} {f : Fetch} {off : BitVec 18} {s : State} (h_s : s.Legal) :
    Outcome.Legal (execJmp k f off s) := by
  unfold execJmp
  repeat' first | with_reducible assumption | with_reducible apply runInsn_legal | with_reducible apply jumpBody_legal

theorem execJal_legal {k : Core} {f : Fetch} {off : BitVec 18} {s : State} (h_s : s.Legal) :
    Outcome.Legal (execJal k f off s) := by
  unfold execJal
  repeat' first | with_reducible assumption | with_reducible apply runInsn_legal | with_reducible apply jumpBody_legal

theorem jalrBody_legal {k : Core} {f : Fetch} {rd : BitVec 5} {rs1 : BitVec 5} {imm : BitVec 8} :
    Exec.Legal (jalrBody k f rd rs1 imm) := by
  unfold jalrBody
  repeat'
    first
    | with_reducible assumption | intro _ | with_reducible apply State.setD_legal
    | with_reducible apply Exec.legal_get | with_reducible apply Exec.legal_set | with_reducible apply Exec.legal_pure
    | with_reducible apply Exec.legal_bind

theorem execJalr_legal {k : Core} {f : Fetch} {rd : BitVec 5} {rs1 : BitVec 5} {imm : BitVec 8} {s : State} (h_s : s.Legal) :
    Outcome.Legal (execJalr k f rd rs1 imm s) := by
  unfold execJalr
  repeat' first | with_reducible assumption | with_reducible apply runInsn_legal | with_reducible apply jalrBody_legal

end Sys2Proof.Machine
end

