-- ==== Sys2Proof/Laws/LegalChorus.lean ====
section
/-! SUPPORT. A legal state stays legal: Chorus. -/
set_option Elab.async false
set_option linter.all false
namespace Sys2Proof.Machine

theorem execInterruptEdge_legal {t : Fin 13} {src : BitVec 9} {s : State} (h_s : s.Legal) :
    Outcome.Legal (execInterruptEdge t src s) := by
  unfold execInterruptEdge
  repeat'
    first
    | with_reducible assumption | intro _ | with_reducible apply ifOn_legal
    | with_reducible apply State.pendBeatExpiry_legal | with_reducible apply State.edge_legal
    | with_reducible apply State.legal_ite | split

theorem execLevelInputChange_legal {t : Fin 13} {src : BitVec 9} {level : Bool} {s : State} (h_s : s.Legal) :
    Outcome.Legal (execLevelInputChange t src level s) := by
  unfold execLevelInputChange
  repeat'
    first
    | with_reducible assumption | intro _ | with_reducible apply Outcome.legal_next
    | with_reducible apply State.edge_legal | with_reducible apply State.legal_core
    | with_reducible apply State.legal_cdr
    | simp only [State.legal_with, VoiceCore.legal_with, State.legal_with_cdr_fields]
    | with_reducible apply State.legal_ite | split | dsimp only

theorem execClaimIrq_legal {w : Initiator} {kernel : Bool} {s : State} (h_s : s.Legal) :
    Outcome.Legal (execClaimIrq w kernel s) := by
  unfold execClaimIrq
  repeat'
    first
    | with_reducible assumption | intro _ | with_reducible apply ifActs_legal
    | with_reducible apply State.ifaceRead_legal

theorem execCompleteIrq_legal {w : Initiator} {kernel : Bool} {v : Word} {s : State} (h_s : s.Legal) :
    Outcome.Legal (execCompleteIrq w kernel v s) := by
  unfold execCompleteIrq
  repeat'
    first
    | with_reducible assumption | intro _ | with_reducible apply ifActs_legal
    | with_reducible apply State.ifaceWrite_legal

theorem execPendIrq_legal {w : Initiator} {t : Fin 13} {src : BitVec 9} {s : State} (h_s : s.Legal) :
    Outcome.Legal (execPendIrq w t src s) := by
  unfold execPendIrq
  repeat'
    first
    | with_reducible assumption | intro _ | with_reducible apply ifActs_legal
    | with_reducible apply State.srcWrite_legal

theorem execUnpendIrq_legal {w : Initiator} {t : Fin 13} {src : BitVec 9} {s : State} (h_s : s.Legal) :
    Outcome.Legal (execUnpendIrq w t src s) := by
  unfold execUnpendIrq
  repeat'
    first
    | with_reducible assumption | intro _ | with_reducible apply ifActs_legal
    | with_reducible apply State.srcWrite_legal

theorem execBeatexpPend_legal {w : Initiator} {c : Fin 12} {s : State} (h_s : s.Legal) :
    Outcome.Legal (execBeatexpPend w c s) := by
  unfold execBeatexpPend
  repeat'
    first
    | with_reducible assumption | intro _ | with_reducible apply ifActs_legal
    | with_reducible apply State.srcWrite_legal

theorem execChSwdb_legal {w : Initiator} {v : Word} {s : State} (h_s : s.Legal) : Outcome.Legal (execChSwdb w v s) := by
  unfold execChSwdb
  repeat'
    first
    | with_reducible assumption | intro _ | with_reducible apply ifActs_legal
    | with_reducible apply State.swdb_legal | with_reducible apply State.legal_ite

theorem execSrcCfgWrite_legal {w : Initiator} {t : Fin 13} {src : BitVec 9} {v : Word} {s : State} (h_s : s.Legal) :
    Outcome.Legal (execSrcCfgWrite w t src v s) := by
  unfold execSrcCfgWrite
  repeat'
    first
    | with_reducible assumption | intro _ | with_reducible apply ifActs_legal
    | with_reducible apply State.srcWrite_legal

theorem execCoreTmrWrite_legal {w : Initiator} {v : Word} {s : State} (h_s : s.Legal) :
    Outcome.Legal (execCoreTmrWrite w v s) := by
  unfold execCoreTmrWrite
  repeat'
    first
    | with_reducible assumption | intro _ | with_reducible apply ifActs_legal
    | with_reducible apply State.ifaceWrite_legal

theorem execCoreTimerExpiry_legal {t : Fin 13} {s : State} (h_s : s.Legal) : Outcome.Legal (execCoreTimerExpiry t s) := by
  unfold execCoreTimerExpiry
  repeat'
    first
    | with_reducible assumption | intro _ | with_reducible apply ifOn_legal
    | with_reducible apply State.until_legal | simp only [State.legal_with] | split

end Sys2Proof.Machine
end

