-- ==== Sys2Proof/Laws/LegalCsr.lean ====
section
/-! SUPPORT. A legal state stays legal: Csr. -/
set_option Elab.async false
set_option linter.all false
namespace Sys2Proof.Machine

theorem State.setCsr_legal {s : State} {k : Core} {n : BitVec 12} {x : Word} (h_s : s.Legal) : (State.setCsr s k n x).Legal := by
  unfold State.setCsr
  repeat'
    first
    | with_reducible assumption | intro _ | with_reducible apply State.legal_modCore
    | with_reducible apply VoiceCore.writeCsr_legal | with_reducible apply Conductor.writeCsr_legal
    | with_reducible apply State.legal_cdr | split | apply State.legal_with_cdr

theorem execCsrrd_legal {k : Core} {f : Fetch} {r : BitVec 5} {bit12 : Bool} {csr : BitVec 12} {s : State} (h_s : s.Legal) :
    Outcome.Legal (execCsrrd k f r bit12 csr s) := by
  unfold execCsrrd
  repeat'
    first
    | with_reducible assumption | intro _ | with_reducible apply runReg_legal
    | with_reducible apply State.setW_legal

theorem execCsrwr_legal {k : Core} {f : Fetch} {r : BitVec 5} {bit12 : Bool} {csr : BitVec 12} {s : State} (h_s : s.Legal) :
    Outcome.Legal (execCsrwr k f r bit12 csr s) := by
  unfold execCsrwr
  repeat'
    first
    | with_reducible assumption | intro _ | with_reducible apply runReg_legal
    | with_reducible apply State.setCsr_legal

end Sys2Proof.Machine
end

