-- ==== Sys2Proof/Laws/LegalFlags.lean ====
section
/-! SUPPORT. A legal state stays legal: Flags. -/
set_option Elab.async false
set_option linter.all false
namespace Sys2Proof.Machine

theorem State.orQstat_legal {s : State} {k : Core} {q : Word} (h_s : s.Legal) (h_q : q &&& 0xFFFFFC = 0) :
    (State.orQstat s k q).Legal := by
  cases k with
  | voice c => exact State.legal_modCore (f := fun v => { v with qstat := v.qstat ||| q }) h_s fun _ h => ⟨h.w0, h.mstatus, h.mppl, h.kstatus, h.fcsr, or_and_zero h.qstat h_q⟩
  | conductor => exact State.legal_with_cdr h_s ⟨h_s.cdr.w0, h_s.cdr.cstatus, or_and_zero h_s.cdr.qstat h_q⟩

theorem State.setSat_legal {s : State} {k : Core} {r : BitVec 5} {v : Word × Bool} (h_s : s.Legal) :
    (State.setSat s k r v).Legal := State.orQstat_legal (State.setW_legal h_s) (flag_and_zero (by decide))

theorem State.setSatAcc_legal {s : State} {c : Fin 12} {n : BitVec 2} {v : BitVec 56 × Bool} (h_s : s.Legal) :
    (State.setSatAcc s c n v).Legal := State.orQstat_legal (State.setAcc_legal h_s) (flag_and_zero (by decide))

theorem FFlags.word_and_zero {f : FFlags} : f.word &&& 0xFFE0F8 = 0 := by
  cases f with | mk a b c d e => cases a <;> cases b <;> cases c <;> cases d <;> cases e <;> decide

theorem State.orFcsr_legal {s : State} {c : Fin 12} {q : Word} (h_s : s.Legal) (h_q : q &&& 0xFFE0F8 = 0) :
    (State.orFcsr s c q).Legal :=
  State.legal_modCore (f := fun v => { v with fcsr := v.fcsr ||| q }) h_s fun _ h => ⟨h.w0, h.mstatus, h.mppl, h.kstatus, or_and_zero h.fcsr h_q, h.qstat⟩

end Sys2Proof.Machine
end

