-- ==== Sys2Proof/Laws/LegalFloatRows.lean ====
section
/-! SUPPORT. A legal state stays legal: FloatRows. -/
set_option Elab.async false
set_option linter.all false
namespace Sys2Proof.Machine

theorem floatBody_legal {k : Core} {g : Nat → State → State × FFlags} {s : State} (h_s : s.Legal)
    (h_g : ∀ n s, s.Legal → (g n s).1.Legal) : (floatBody k g s).Legal := by
  cases k with
  | voice c => exact State.orFcsr_legal (h_g _ s h_s) FFlags.word_and_zero
  | conductor => exact h_s

theorem putD_legal {k : Core} {rd : BitVec 5} {v : DWord × FFlags} {s : State} (h_s : s.Legal) : (putD k rd v s).1.Legal := by
  unfold putD
  repeat' first | with_reducible assumption | with_reducible apply State.setD_legal

theorem putW_legal {k : Core} {rd : BitVec 5} {v : Word × FFlags} {s : State} (h_s : s.Legal) : (putW k rd v s).1.Legal := by
  unfold putW
  repeat' first | with_reducible assumption | with_reducible apply State.setW_legal

theorem putB_legal {k : Core} {rd : BitVec 5} {v : Bool × FFlags} {s : State} (h_s : s.Legal) : (putB k rd v s).1.Legal := by
  unfold putB
  repeat' first | with_reducible assumption | with_reducible apply State.setW_legal

theorem execFadd_legal {k : Core} {f : Fetch} {rd : BitVec 5} {rs1 : BitVec 5} {rs2 : BitVec 5} {s : State} (h_s : s.Legal) :
    Outcome.Legal (execFadd k f rd rs1 rs2 s) := by
  unfold execFadd
  repeat'
    first
    | with_reducible assumption | intro _ | with_reducible apply runReg_legal
    | with_reducible apply floatBody_legal | with_reducible apply putD_legal

theorem execFsub_legal {k : Core} {f : Fetch} {rd : BitVec 5} {rs1 : BitVec 5} {rs2 : BitVec 5} {s : State} (h_s : s.Legal) :
    Outcome.Legal (execFsub k f rd rs1 rs2 s) := by
  unfold execFsub
  repeat'
    first
    | with_reducible assumption | intro _ | with_reducible apply runReg_legal
    | with_reducible apply floatBody_legal | with_reducible apply putD_legal

theorem execFmul_legal {k : Core} {f : Fetch} {rd : BitVec 5} {rs1 : BitVec 5} {rs2 : BitVec 5} {s : State} (h_s : s.Legal) :
    Outcome.Legal (execFmul k f rd rs1 rs2 s) := by
  unfold execFmul
  repeat'
    first
    | with_reducible assumption | intro _ | with_reducible apply runReg_legal
    | with_reducible apply floatBody_legal | with_reducible apply putD_legal

theorem execFdiv_legal {k : Core} {f : Fetch} {rd : BitVec 5} {rs1 : BitVec 5} {rs2 : BitVec 5} {s : State} (h_s : s.Legal) :
    Outcome.Legal (execFdiv k f rd rs1 rs2 s) := by
  unfold execFdiv
  repeat'
    first
    | with_reducible assumption | intro _ | with_reducible apply runReg_legal
    | with_reducible apply floatBody_legal | with_reducible apply putD_legal

theorem execFmin_legal {k : Core} {f : Fetch} {rd : BitVec 5} {rs1 : BitVec 5} {rs2 : BitVec 5} {s : State} (h_s : s.Legal) :
    Outcome.Legal (execFmin k f rd rs1 rs2 s) := by
  unfold execFmin
  repeat'
    first
    | with_reducible assumption | intro _ | with_reducible apply runReg_legal
    | with_reducible apply floatBody_legal | with_reducible apply putD_legal

theorem execFmax_legal {k : Core} {f : Fetch} {rd : BitVec 5} {rs1 : BitVec 5} {rs2 : BitVec 5} {s : State} (h_s : s.Legal) :
    Outcome.Legal (execFmax k f rd rs1 rs2 s) := by
  unfold execFmax
  repeat'
    first
    | with_reducible assumption | intro _ | with_reducible apply runReg_legal
    | with_reducible apply floatBody_legal | with_reducible apply putD_legal

theorem execFsqrt_legal {k : Core} {f : Fetch} {rd : BitVec 5} {rs1 : BitVec 5} {rs2 : BitVec 5} {s : State} (h_s : s.Legal) :
    Outcome.Legal (execFsqrt k f rd rs1 rs2 s) := by
  unfold execFsqrt
  repeat'
    first
    | with_reducible assumption | intro _ | with_reducible apply runReg_legal
    | with_reducible apply floatBody_legal | with_reducible apply putD_legal

theorem execFmadd_legal {k : Core} {f : Fetch} {rd : BitVec 5} {rs1 : BitVec 5} {rs2 : BitVec 5} {s : State} (h_s : s.Legal) :
    Outcome.Legal (execFmadd k f rd rs1 rs2 s) := by
  unfold execFmadd
  repeat'
    first
    | with_reducible assumption | intro _ | with_reducible apply runReg_legal
    | with_reducible apply floatBody_legal | with_reducible apply putD_legal

theorem execFeq_legal {k : Core} {f : Fetch} {rd : BitVec 5} {rs1 : BitVec 5} {rs2 : BitVec 5} {s : State} (h_s : s.Legal) :
    Outcome.Legal (execFeq k f rd rs1 rs2 s) := by
  unfold execFeq
  repeat'
    first
    | with_reducible assumption | intro _ | with_reducible apply runReg_legal
    | with_reducible apply floatBody_legal | with_reducible apply putB_legal

theorem execFlt_legal {k : Core} {f : Fetch} {rd : BitVec 5} {rs1 : BitVec 5} {rs2 : BitVec 5} {s : State} (h_s : s.Legal) :
    Outcome.Legal (execFlt k f rd rs1 rs2 s) := by
  unfold execFlt
  repeat'
    first
    | with_reducible assumption | intro _ | with_reducible apply runReg_legal
    | with_reducible apply floatBody_legal | with_reducible apply putB_legal

theorem execFle_legal {k : Core} {f : Fetch} {rd : BitVec 5} {rs1 : BitVec 5} {rs2 : BitVec 5} {s : State} (h_s : s.Legal) :
    Outcome.Legal (execFle k f rd rs1 rs2 s) := by
  unfold execFle
  repeat'
    first
    | with_reducible assumption | intro _ | with_reducible apply runReg_legal
    | with_reducible apply floatBody_legal | with_reducible apply putB_legal

theorem execFclass_legal {k : Core} {f : Fetch} {rd : BitVec 5} {rs1 : BitVec 5} {rs2 : BitVec 5} {s : State} (h_s : s.Legal) :
    Outcome.Legal (execFclass k f rd rs1 rs2 s) := by
  unfold execFclass
  repeat'
    first
    | with_reducible assumption | intro _ | with_reducible apply runReg_legal
    | with_reducible apply floatBody_legal | with_reducible apply putW_legal

theorem execFcvtFW_legal {k : Core} {f : Fetch} {rd : BitVec 5} {rs1 : BitVec 5} {rs2 : BitVec 5} {s : State} (h_s : s.Legal) :
    Outcome.Legal (execFcvtFW k f rd rs1 rs2 s) := by
  unfold execFcvtFW
  repeat'
    first
    | with_reducible assumption | intro _ | with_reducible apply runReg_legal
    | with_reducible apply floatBody_legal | with_reducible apply putD_legal

theorem execFcvtWF_legal {k : Core} {f : Fetch} {rd : BitVec 5} {rs1 : BitVec 5} {rs2 : BitVec 5} {s : State} (h_s : s.Legal) :
    Outcome.Legal (execFcvtWF k f rd rs1 rs2 s) := by
  unfold execFcvtWF
  repeat'
    first
    | with_reducible assumption | intro _ | with_reducible apply runReg_legal
    | with_reducible apply floatBody_legal | with_reducible apply putW_legal

theorem execFcvtFQ_legal {k : Core} {f : Fetch} {rd : BitVec 5} {rs1 : BitVec 5} {rs2 : BitVec 5} {s : State} (h_s : s.Legal) :
    Outcome.Legal (execFcvtFQ k f rd rs1 rs2 s) := by
  unfold execFcvtFQ
  repeat'
    first
    | with_reducible assumption | intro _ | with_reducible apply runReg_legal
    | with_reducible apply floatBody_legal | with_reducible apply putD_legal

theorem execFcvtQF_legal {k : Core} {f : Fetch} {rd : BitVec 5} {rs1 : BitVec 5} {rs2 : BitVec 5} {s : State} (h_s : s.Legal) :
    Outcome.Legal (execFcvtQF k f rd rs1 rs2 s) := by
  unfold execFcvtQF
  repeat'
    first
    | with_reducible assumption | intro _ | with_reducible apply runReg_legal
    | with_reducible apply floatBody_legal | with_reducible apply putW_legal

theorem execFneg_legal {k : Core} {f : Fetch} {rd : BitVec 5} {rs1 : BitVec 5} {rs2 : BitVec 5} {s : State} (h_s : s.Legal) :
    Outcome.Legal (execFneg k f rd rs1 rs2 s) := by
  unfold execFneg
  repeat'
    first
    | with_reducible assumption | intro _ | with_reducible apply runReg_legal
    | with_reducible apply floatBody_legal | with_reducible apply putD_legal

theorem execFabs_legal {k : Core} {f : Fetch} {rd : BitVec 5} {rs1 : BitVec 5} {rs2 : BitVec 5} {s : State} (h_s : s.Legal) :
    Outcome.Legal (execFabs k f rd rs1 rs2 s) := by
  unfold execFabs
  repeat'
    first
    | with_reducible assumption | intro _ | with_reducible apply runReg_legal
    | with_reducible apply floatBody_legal | with_reducible apply putD_legal

theorem execFsgnj_legal {k : Core} {f : Fetch} {rd : BitVec 5} {rs1 : BitVec 5} {rs2 : BitVec 5} {s : State} (h_s : s.Legal) :
    Outcome.Legal (execFsgnj k f rd rs1 rs2 s) := by
  unfold execFsgnj
  repeat'
    first
    | with_reducible assumption | intro _ | with_reducible apply runReg_legal
    | with_reducible apply floatBody_legal | with_reducible apply putD_legal

theorem execFcvtFD_legal {k : Core} {f : Fetch} {rd : BitVec 5} {rs1 : BitVec 5} {rs2 : BitVec 5} {s : State} (h_s : s.Legal) :
    Outcome.Legal (execFcvtFD k f rd rs1 rs2 s) := by
  unfold execFcvtFD
  repeat'
    first
    | with_reducible assumption | intro _ | with_reducible apply runReg_legal
    | with_reducible apply floatBody_legal | with_reducible apply putD_legal

theorem execFcvtDF_legal {k : Core} {f : Fetch} {rd : BitVec 5} {rs1 : BitVec 5} {rs2 : BitVec 5} {s : State} (h_s : s.Legal) :
    Outcome.Legal (execFcvtDF k f rd rs1 rs2 s) := by
  unfold execFcvtDF
  repeat'
    first
    | with_reducible assumption | intro _ | with_reducible apply runReg_legal
    | with_reducible apply floatBody_legal | with_reducible apply putD_legal

end Sys2Proof.Machine
end

