-- ==== Sys2Proof/Laws/LegalFrac.lean ====
section
/-! SUPPORT. A legal state stays legal: Frac. -/
set_option Elab.async false
set_option linter.all false
namespace Sys2Proof.Machine

theorem accSat_legal {k : Core} {rd : BitVec 5} {v : Fin 12 → State → Int} {s : State} (h_s : s.Legal) :
    (accSat k rd v s).Legal := by
  unfold accSat
  repeat' first | with_reducible assumption | with_reducible apply State.setSatAcc_legal | split

theorem accSet_legal {k : Core} {rd : BitVec 5} {v : Fin 12 → State → BitVec 56} {s : State} (h_s : s.Legal) :
    (accSet k rd v s).Legal := by
  unfold accSet
  repeat' first | with_reducible assumption | with_reducible apply State.setAcc_legal | split

theorem accGet_legal {k : Core} {rs1 : BitVec 5} {put : BitVec 56 → State → State} {s : State} (h_s : s.Legal) (h_put : ∀ x0 s1, s1.Legal → (put x0 s1).Legal) :
    (accGet k rs1 put s).Legal := by
  unfold accGet
  repeat' first | with_reducible assumption | with_reducible apply h_put | split

theorem execAmul_legal {k : Core} {f : Fetch} {rd : BitVec 5} {rs1 : BitVec 5} {rs2 : BitVec 5} {s : State} (h_s : s.Legal) :
    Outcome.Legal (execAmul k f rd rs1 rs2 s) := by
  unfold execAmul
  repeat'
    first
    | with_reducible assumption | intro _ | with_reducible apply runReg_legal
    | with_reducible apply accSet_legal

theorem execAmac_legal {k : Core} {f : Fetch} {rd : BitVec 5} {rs1 : BitVec 5} {rs2 : BitVec 5} {s : State} (h_s : s.Legal) :
    Outcome.Legal (execAmac k f rd rs1 rs2 s) := by
  unfold execAmac
  repeat'
    first
    | with_reducible assumption | intro _ | with_reducible apply runReg_legal
    | with_reducible apply accSat_legal

theorem execAmsu_legal {k : Core} {f : Fetch} {rd : BitVec 5} {rs1 : BitVec 5} {rs2 : BitVec 5} {s : State} (h_s : s.Legal) :
    Outcome.Legal (execAmsu k f rd rs1 rs2 s) := by
  unfold execAmsu
  repeat'
    first
    | with_reducible assumption | intro _ | with_reducible apply runReg_legal
    | with_reducible apply accSat_legal

theorem execAload_legal {k : Core} {f : Fetch} {rd : BitVec 5} {rs1 : BitVec 5} {rs2 : BitVec 5} {s : State} (h_s : s.Legal) :
    Outcome.Legal (execAload k f rd rs1 rs2 s) := by
  unfold execAload
  repeat'
    first
    | with_reducible assumption | intro _ | with_reducible apply runReg_legal
    | with_reducible apply accSet_legal

theorem execAclr_legal {k : Core} {f : Fetch} {rd : BitVec 5} {rs1 : BitVec 5} {rs2 : BitVec 5} {s : State} (h_s : s.Legal) :
    Outcome.Legal (execAclr k f rd rs1 rs2 s) := by
  unfold execAclr
  repeat'
    first
    | with_reducible assumption | intro _ | with_reducible apply runReg_legal
    | with_reducible apply accSet_legal

theorem execAsft_legal {k : Core} {f : Fetch} {rd : BitVec 5} {rs1 : BitVec 5} {rs2 : BitVec 5} {s : State} (h_s : s.Legal) :
    Outcome.Legal (execAsft k f rd rs1 rs2 s) := by
  unfold execAsft
  repeat'
    first
    | with_reducible assumption | intro _ | with_reducible apply runReg_legal
    | with_reducible apply accSat_legal

theorem execArnd_legal {k : Core} {f : Fetch} {rd : BitVec 5} {rs1 : BitVec 5} {rs2 : BitVec 5} {s : State} (h_s : s.Legal) :
    Outcome.Legal (execArnd k f rd rs1 rs2 s) := by
  unfold execArnd
  repeat'
    first
    | with_reducible assumption | intro _ | with_reducible apply runReg_legal
    | with_reducible apply accGet_legal | with_reducible apply State.setSat_legal

theorem execAtrn_legal {k : Core} {f : Fetch} {rd : BitVec 5} {rs1 : BitVec 5} {rs2 : BitVec 5} {s : State} (h_s : s.Legal) :
    Outcome.Legal (execAtrn k f rd rs1 rs2 s) := by
  unfold execAtrn
  repeat'
    first
    | with_reducible assumption | intro _ | with_reducible apply runReg_legal
    | with_reducible apply accGet_legal | with_reducible apply State.setSat_legal

theorem execAgetD_legal {k : Core} {f : Fetch} {rd : BitVec 5} {rs1 : BitVec 5} {rs2 : BitVec 5} {s : State} (h_s : s.Legal) :
    Outcome.Legal (execAgetD k f rd rs1 rs2 s) := by
  unfold execAgetD
  repeat'
    first
    | with_reducible assumption | intro _ | with_reducible apply runReg_legal
    | with_reducible apply accGet_legal | with_reducible apply State.setD_legal

theorem execAgetg_legal {k : Core} {f : Fetch} {rd : BitVec 5} {rs1 : BitVec 5} {rs2 : BitVec 5} {s : State} (h_s : s.Legal) :
    Outcome.Legal (execAgetg k f rd rs1 rs2 s) := by
  unfold execAgetg
  repeat'
    first
    | with_reducible assumption | intro _ | with_reducible apply runReg_legal
    | with_reducible apply accGet_legal | with_reducible apply State.setW_legal

theorem execAputD_legal {k : Core} {f : Fetch} {rd : BitVec 5} {rs1 : BitVec 5} {rs2 : BitVec 5} {s : State} (h_s : s.Legal) :
    Outcome.Legal (execAputD k f rd rs1 rs2 s) := by
  unfold execAputD
  repeat'
    first
    | with_reducible assumption | intro _ | with_reducible apply runReg_legal
    | with_reducible apply accSet_legal

theorem execAputg_legal {k : Core} {f : Fetch} {rd : BitVec 5} {rs1 : BitVec 5} {rs2 : BitVec 5} {s : State} (h_s : s.Legal) :
    Outcome.Legal (execAputg k f rd rs1 rs2 s) := by
  unfold execAputg
  repeat'
    first
    | with_reducible assumption | intro _ | with_reducible apply runReg_legal
    | with_reducible apply accSet_legal

theorem satOp_legal {k : Core} {rd : BitVec 5} {rs1 : BitVec 5} {rs2 : BitVec 5} {op : Word → Word → Int} {s : State} (h_s : s.Legal) :
    (satOp k rd rs1 rs2 op s).Legal := by
  unfold satOp
  repeat' first | with_reducible assumption | with_reducible apply State.setSat_legal

theorem execQadd_legal {k : Core} {f : Fetch} {rd : BitVec 5} {rs1 : BitVec 5} {rs2 : BitVec 5} {s : State} (h_s : s.Legal) :
    Outcome.Legal (execQadd k f rd rs1 rs2 s) := by
  unfold execQadd
  repeat'
    first
    | with_reducible assumption | intro _ | with_reducible apply runReg_legal
    | with_reducible apply satOp_legal

theorem execQsub_legal {k : Core} {f : Fetch} {rd : BitVec 5} {rs1 : BitVec 5} {rs2 : BitVec 5} {s : State} (h_s : s.Legal) :
    Outcome.Legal (execQsub k f rd rs1 rs2 s) := by
  unfold execQsub
  repeat'
    first
    | with_reducible assumption | intro _ | with_reducible apply runReg_legal
    | with_reducible apply satOp_legal

theorem execQmul_legal {k : Core} {f : Fetch} {rd : BitVec 5} {rs1 : BitVec 5} {rs2 : BitVec 5} {s : State} (h_s : s.Legal) :
    Outcome.Legal (execQmul k f rd rs1 rs2 s) := by
  unfold execQmul
  repeat'
    first
    | with_reducible assumption | intro _ | with_reducible apply runReg_legal
    | with_reducible apply satOp_legal

theorem execQneg_legal {k : Core} {f : Fetch} {rd : BitVec 5} {rs1 : BitVec 5} {rs2 : BitVec 5} {s : State} (h_s : s.Legal) :
    Outcome.Legal (execQneg k f rd rs1 rs2 s) := by
  unfold execQneg
  repeat'
    first
    | with_reducible assumption | intro _ | with_reducible apply runReg_legal
    | with_reducible apply satOp_legal

theorem execQabs_legal {k : Core} {f : Fetch} {rd : BitVec 5} {rs1 : BitVec 5} {rs2 : BitVec 5} {s : State} (h_s : s.Legal) :
    Outcome.Legal (execQabs k f rd rs1 rs2 s) := by
  unfold execQabs
  repeat'
    first
    | with_reducible assumption | intro _ | with_reducible apply runReg_legal
    | with_reducible apply satOp_legal

theorem execQshl_legal {k : Core} {f : Fetch} {rd : BitVec 5} {rs1 : BitVec 5} {rs2 : BitVec 5} {s : State} (h_s : s.Legal) :
    Outcome.Legal (execQshl k f rd rs1 rs2 s) := by
  unfold execQshl
  repeat'
    first
    | with_reducible assumption | intro _ | with_reducible apply runReg_legal
    | with_reducible apply satOp_legal

theorem execCls_legal {k : Core} {f : Fetch} {rd : BitVec 5} {rs1 : BitVec 5} {rs2 : BitVec 5} {s : State} (h_s : s.Legal) :
    Outcome.Legal (execCls k f rd rs1 rs2 s) := by
  unfold execCls
  repeat'
    first
    | with_reducible assumption | intro _ | with_reducible apply runReg_legal
    | with_reducible apply State.setW_legal

theorem execClz_legal {k : Core} {f : Fetch} {rd : BitVec 5} {rs1 : BitVec 5} {rs2 : BitVec 5} {s : State} (h_s : s.Legal) :
    Outcome.Legal (execClz k f rd rs1 rs2 s) := by
  unfold execClz
  repeat'
    first
    | with_reducible assumption | intro _ | with_reducible apply runReg_legal
    | with_reducible apply State.setW_legal

end Sys2Proof.Machine
end

