-- ==== Sys2Proof/Laws/LegalLoadStore.lean ====
section
/-! SUPPORT. A legal state stays legal: LoadStore. -/
set_option Elab.async false
set_option linter.all false
namespace Sys2Proof.Machine

theorem effPtr_legal {z : Size} {base : DWord} {imm : DWord} : Exec.Legal (effPtr z base imm) := by
  unfold effPtr
  repeat' first | with_reducible apply raise_legal | with_reducible apply Exec.legal_pure | split

theorem loadBody_legal {k : Core} {f : Fetch} {z : Size} {rs1 : BitVec 5} {imm : BitVec 8} {put : State → DWord → State} (h_put : ∀ s0 x1, s0.Legal → (put s0 x1).Legal) :
    Exec.Legal (loadBody k f z rs1 imm put) := by
  unfold loadBody
  repeat'
    first
    | with_reducible assumption | intro _ | with_reducible apply effPtr_legal
    | with_reducible apply loadAt_legal | with_reducible apply h_put | with_reducible apply Exec.legal_get
    | with_reducible apply Exec.legal_modify | with_reducible apply Exec.legal_pure
    | with_reducible apply Exec.legal_bind

theorem storeBody_legal {k : Core} {f : Fetch} {z : Size} {rs1 : BitVec 5} {imm : BitVec 8} {value : State → DWord} :
    Exec.Legal (storeBody k f z rs1 imm value) := by
  unfold storeBody
  repeat'
    first
    | intro _ | with_reducible apply effPtr_legal | with_reducible apply storeAt_legal
    | with_reducible apply Exec.legal_get | with_reducible apply Exec.legal_pure | with_reducible apply Exec.legal_bind

theorem execLb_legal {k : Core} {f : Fetch} {rd : BitVec 5} {rs1 : BitVec 5} {imm : BitVec 8} {s : State} (h_s : s.Legal) :
    Outcome.Legal (execLb k f rd rs1 imm s) := by
  unfold execLb
  repeat'
    first
    | with_reducible assumption | intro _ | with_reducible apply runInsn_legal
    | with_reducible apply loadBody_legal | with_reducible apply State.setW_legal

theorem execLbs_legal {k : Core} {f : Fetch} {rd : BitVec 5} {rs1 : BitVec 5} {imm : BitVec 8} {s : State} (h_s : s.Legal) :
    Outcome.Legal (execLbs k f rd rs1 imm s) := by
  unfold execLbs
  repeat'
    first
    | with_reducible assumption | intro _ | with_reducible apply runInsn_legal
    | with_reducible apply loadBody_legal | with_reducible apply State.setW_legal

theorem execLw_legal {k : Core} {f : Fetch} {rd : BitVec 5} {rs1 : BitVec 5} {imm : BitVec 8} {s : State} (h_s : s.Legal) :
    Outcome.Legal (execLw k f rd rs1 imm s) := by
  unfold execLw
  repeat'
    first
    | with_reducible assumption | intro _ | with_reducible apply runInsn_legal
    | with_reducible apply loadBody_legal | with_reducible apply State.setW_legal

theorem execLd_legal {k : Core} {f : Fetch} {rd : BitVec 5} {rs1 : BitVec 5} {imm : BitVec 8} {s : State} (h_s : s.Legal) :
    Outcome.Legal (execLd k f rd rs1 imm s) := by
  unfold execLd
  repeat'
    first
    | with_reducible assumption | intro _ | with_reducible apply runInsn_legal
    | with_reducible apply loadBody_legal | with_reducible apply State.setD_legal

theorem execSb_legal {k : Core} {f : Fetch} {rs2 : BitVec 5} {rs1 : BitVec 5} {imm : BitVec 8} {s : State} (h_s : s.Legal) :
    Outcome.Legal (execSb k f rs2 rs1 imm s) := by
  unfold execSb
  repeat' first | with_reducible assumption | with_reducible apply runInsn_legal | with_reducible apply storeBody_legal

theorem execSw_legal {k : Core} {f : Fetch} {rs2 : BitVec 5} {rs1 : BitVec 5} {imm : BitVec 8} {s : State} (h_s : s.Legal) :
    Outcome.Legal (execSw k f rs2 rs1 imm s) := by
  unfold execSw
  repeat' first | with_reducible assumption | with_reducible apply runInsn_legal | with_reducible apply storeBody_legal

theorem execSd_legal {k : Core} {f : Fetch} {rs2 : BitVec 5} {rs1 : BitVec 5} {imm : BitVec 8} {s : State} (h_s : s.Legal) :
    Outcome.Legal (execSd k f rs2 rs1 imm s) := by
  unfold execSd
  repeat' first | with_reducible assumption | with_reducible apply runInsn_legal | with_reducible apply storeBody_legal

theorem atomType_legal {p : DWord} {nc : Bool} {mt : Option MemType} : Exec.Legal (atomType p nc mt) := by
  unfold atomType
  repeat' first | with_reducible apply raise_legal | with_reducible apply Exec.legal_pure | split

theorem llBody_legal {k : Core} {f : Fetch} {z : Size} {rs1 : BitVec 5} {put : State → DWord → State} (h_put : ∀ s0 x1, s0.Legal → (put s0 x1).Legal) :
    Exec.Legal (llBody k f z rs1 put) := by
  unfold llBody
  repeat'
    first
    | with_reducible assumption | intro _ | with_reducible apply voiceAddr_legal
    | with_reducible apply atomType_legal | with_reducible apply voiceLoad_legal
    | with_reducible apply State.legal_modCore | with_reducible apply h_put | with_reducible apply Exec.legal_get
    | with_reducible apply Exec.legal_modify | with_reducible apply Exec.legal_pure
    | with_reducible apply Exec.legal_throw | with_reducible apply Exec.legal_bind | simp only [VoiceCore.legal_with]
    | split

theorem scBody_legal {k : Core} {f : Fetch} {z : Size} {rd : BitVec 5} {rs1 : BitVec 5} {value : State → DWord}  :
    Exec.Legal (scBody k f z rd rs1 value) := by
  unfold scBody
  repeat'
    first
    | with_reducible assumption | intro _ | with_reducible apply Exec.legal_get | with_reducible apply Exec.legal_bind
    | with_reducible apply Exec.legal_set | with_reducible apply Exec.legal_modify
    | with_reducible apply Exec.legal_pure | with_reducible apply Exec.legal_throw
    | with_reducible apply State.setW_legal | with_reducible apply State.store_legal
    | with_reducible apply atomType_legal | with_reducible apply voiceAddr_legal
    | with_reducible apply voiceStore_legal | with_reducible apply State.legal_modCore
    | with_reducible apply State.legal_core | with_reducible apply State.legal_cdr
    | simp only [State.legal_with, VoiceCore.legal_with, State.legal_with_cdr_fields]
    | with_reducible apply State.legal_ite | split | dsimp only

theorem notStalled_legal {w : Initiator} {a : Nat} {ws : List WrWord}  :
    Exec.Legal (notStalled w a ws) := by
  unfold notStalled
  repeat'
    first
    | with_reducible assumption | intro _ | with_reducible apply Exec.legal_get | with_reducible apply Exec.legal_bind
    | with_reducible apply Exec.legal_set | with_reducible apply Exec.legal_modify
    | with_reducible apply Exec.legal_pure | with_reducible apply Exec.legal_throw
    | with_reducible apply State.legal_core | with_reducible apply State.legal_cdr
    | simp only [State.legal_with, VoiceCore.legal_with, State.legal_with_cdr_fields]
    | with_reducible apply State.legal_ite | split | dsimp only

theorem casBody_legal {k : Core} {f : Fetch} {rd : BitVec 5} {rs1 : BitVec 5} {rs2 : BitVec 5} :
    Exec.Legal (casBody k f rd rs1 rs2) := by
  unfold casBody
  repeat'
    first
    | with_reducible assumption | intro _ | with_reducible apply voiceAddr_legal
    | with_reducible apply atomType_legal | with_reducible apply voiceLoad_legal | with_reducible apply State.setD_legal
    | with_reducible apply voiceStore_legal | with_reducible apply notStalled_legal | with_reducible apply cdrAddr_legal
    | with_reducible apply raise_legal | with_reducible apply cdrLoad_legal | with_reducible apply cdrStore_legal
    | with_reducible apply Exec.legal_get | with_reducible apply Exec.legal_modify
    | with_reducible apply Exec.legal_pure | with_reducible apply Exec.legal_bind | split | dsimp only

theorem execLlW_legal {k : Core} {f : Fetch} {rd : BitVec 5} {rs1 : BitVec 5} {rs2 : BitVec 5} {s : State} (h_s : s.Legal) :
    Outcome.Legal (execLlW k f rd rs1 rs2 s) := by
  unfold execLlW
  repeat'
    first
    | with_reducible assumption | intro _ | with_reducible apply runInsn_legal
    | with_reducible apply llBody_legal | with_reducible apply State.setW_legal

theorem execLlD_legal {k : Core} {f : Fetch} {rd : BitVec 5} {rs1 : BitVec 5} {rs2 : BitVec 5} {s : State} (h_s : s.Legal) :
    Outcome.Legal (execLlD k f rd rs1 rs2 s) := by
  unfold execLlD
  repeat'
    first
    | with_reducible assumption | intro _ | with_reducible apply runInsn_legal
    | with_reducible apply llBody_legal | with_reducible apply State.setD_legal

theorem execScW_legal {k : Core} {f : Fetch} {rd : BitVec 5} {rs1 : BitVec 5} {rs2 : BitVec 5}
  {s : State} (h_s : s.Legal) :
    Outcome.Legal (execScW k f rd rs1 rs2 s) := by
  unfold execScW
  repeat'
    first
    | with_reducible assumption | intro _ | with_reducible apply Outcome.legal_next
    | with_reducible apply runInsn_legal | with_reducible apply scBody_legal | with_reducible apply State.legal_core
    | with_reducible apply State.legal_cdr
    | simp only [State.legal_with, VoiceCore.legal_with, State.legal_with_cdr_fields]
    | with_reducible apply State.legal_ite | split | dsimp only

theorem execScD_legal {k : Core} {f : Fetch} {rd : BitVec 5} {rs1 : BitVec 5} {rs2 : BitVec 5}
  {s : State} (h_s : s.Legal) :
    Outcome.Legal (execScD k f rd rs1 rs2 s) := by
  unfold execScD
  repeat'
    first
    | with_reducible assumption | intro _ | with_reducible apply Outcome.legal_next
    | with_reducible apply runInsn_legal | with_reducible apply scBody_legal | with_reducible apply State.legal_core
    | with_reducible apply State.legal_cdr
    | simp only [State.legal_with, VoiceCore.legal_with, State.legal_with_cdr_fields]
    | with_reducible apply State.legal_ite | split | dsimp only

theorem execCasD_legal {k : Core} {f : Fetch} {rd : BitVec 5} {rs1 : BitVec 5} {rs2 : BitVec 5} {s : State} (h_s : s.Legal) :
    Outcome.Legal (execCasD k f rd rs1 rs2 s) := by
  unfold execCasD
  repeat' first | with_reducible assumption | with_reducible apply runInsn_legal | with_reducible apply casBody_legal

end Sys2Proof.Machine
end

