-- ==== Sys2Proof/Laws/LegalSystem.lean ====
section
/-! SUPPORT. A legal state stays legal: System. -/
set_option Elab.async false
set_option linter.all false
namespace Sys2Proof.Machine

theorem execFence_legal {k : Core} {f : Fetch} {rd : BitVec 5} {rs1 : BitVec 5} {rs2 : BitVec 5} {s : State} (h_s : s.Legal) :
    Outcome.Legal (execFence k f rd rs1 rs2 s) := by
  unfold execFence
  repeat' first | with_reducible assumption | intro _ | with_reducible apply runReg_legal

theorem ifenceOp_legal {k : Core} {s : State} (h_s : s.Legal) : (ifenceOp k s).Legal := by
  unfold ifenceOp
  repeat'
    first
    | with_reducible assumption | intro _ | with_reducible apply State.legal_modCore
    | simp only [VoiceCore.legal_with] | split

theorem execIfence_legal {k : Core} {f : Fetch} {rd : BitVec 5} {rs1 : BitVec 5} {rs2 : BitVec 5} {s : State} (h_s : s.Legal) :
    Outcome.Legal (execIfence k f rd rs1 rs2 s) := by
  unfold execIfence
  repeat'
    first
    | with_reducible assumption | intro _ | with_reducible apply runReg_legal
    | with_reducible apply ifenceOp_legal

theorem tfenceBody_legal {k : Core}  :
    Exec.Legal (tfenceBody k) := by
  unfold tfenceBody
  repeat'
    first
    | with_reducible assumption | intro _ | with_reducible apply Exec.legal_get | with_reducible apply Exec.legal_bind
    | with_reducible apply Exec.legal_set | with_reducible apply Exec.legal_modify
    | with_reducible apply Exec.legal_pure | with_reducible apply Exec.legal_throw
    | with_reducible apply VoiceCore.settle_legal | with_reducible apply State.legal_modCore
    | with_reducible apply State.legal_core | with_reducible apply State.legal_cdr
    | simp only [State.legal_with, VoiceCore.legal_with, State.legal_with_cdr_fields]
    | with_reducible apply State.legal_ite | split | dsimp only

theorem execTfence_legal {k : Core} {f : Fetch} {rd : BitVec 5} {rs1 : BitVec 5} {rs2 : BitVec 5}
  {s : State} (h_s : s.Legal) :
    Outcome.Legal (execTfence k f rd rs1 rs2 s) := by
  unfold execTfence
  repeat'
    first
    | with_reducible assumption | intro _ | with_reducible apply Outcome.legal_next
    | with_reducible apply runInsn_legal | with_reducible apply tfenceBody_legal
    | with_reducible apply State.legal_core | with_reducible apply State.legal_cdr
    | simp only [State.legal_with, VoiceCore.legal_with, State.legal_with_cdr_fields]
    | with_reducible apply State.legal_ite | split | dsimp only

theorem barwaitBody_legal {k : Core} : Exec.Legal (barwaitBody k) := by
  unfold barwaitBody
  repeat'
    first
    | with_reducible assumption | intro _ | with_reducible apply State.modCbar_legal
    | with_reducible apply State.beatChange_legal | with_reducible apply State.legal_modCore
    | with_reducible apply Exec.legal_get | with_reducible apply Exec.legal_set | with_reducible apply Exec.legal_pure
    | with_reducible apply Exec.legal_bind | simp only [VoiceCore.legal_with] | with_reducible apply State.legal_ite
    | split

theorem execBarwait_legal {k : Core} {f : Fetch} {rd : BitVec 5} {rs1 : BitVec 5} {rs2 : BitVec 5} {s : State} (h_s : s.Legal) :
    Outcome.Legal (execBarwait k f rd rs1 rs2 s) := by
  unfold execBarwait
  repeat'
    first
    | with_reducible assumption | with_reducible apply runInsn_legal
    | with_reducible apply barwaitBody_legal

theorem execEcall_legal {k : Core} {f : Fetch} {rd : BitVec 5} {rs1 : BitVec 5} {rs2 : BitVec 5} {s : State} (h_s : s.Legal) :
    Outcome.Legal (execEcall k f rd rs1 rs2 s) := by
  unfold execEcall
  repeat'
    first
    | with_reducible assumption | intro _ | with_reducible apply Exec.legal_get
    | with_reducible apply runInsn_legal | with_reducible apply raise_legal

theorem wfiBody_legal {k : Core} {word : Word} : Exec.Legal (wfiBody k word) := by
  unfold wfiBody
  repeat'
    first
    | with_reducible assumption | intro _ | with_reducible apply raise_legal
    | with_reducible apply State.legal_modCore | with_reducible apply Exec.legal_get
    | with_reducible apply Exec.legal_set | with_reducible apply Exec.legal_pure | with_reducible apply Exec.legal_bind
    | simp only [State.legal_with, VoiceCore.legal_with, State.legal_with_cdr_fields] | split

theorem execWfi_legal {k : Core} {f : Fetch} {rd : BitVec 5} {rs1 : BitVec 5} {rs2 : BitVec 5} {s : State} (h_s : s.Legal) :
    Outcome.Legal (execWfi k f rd rs1 rs2 s) := by
  unfold execWfi
  repeat' first | with_reducible assumption | with_reducible apply runInsn_legal | with_reducible apply wfiBody_legal

theorem eretBody_legal {k : Core} {word : Word} : Exec.Legal (eretBody k word) := by
  unfold eretBody
  repeat'
    first
    | with_reducible assumption | intro _ | with_reducible apply Conductor.eret_legal
    | with_reducible apply State.legal_modCore | with_reducible apply VoiceCore.eretK_legal
    | with_reducible apply VoiceCore.eretM_legal | with_reducible apply raise_legal
    | with_reducible apply VoiceCore.eretExpiry_legal | with_reducible apply Exec.legal_get
    | with_reducible apply Exec.legal_set | with_reducible apply Exec.legal_pure | with_reducible apply Exec.legal_bind
    | simp only [State.legal_with] | with_reducible apply State.legal_cdr | split | apply State.legal_with_cdr

theorem execEret_legal {k : Core} {f : Fetch} {rd : BitVec 5} {rs1 : BitVec 5} {rs2 : BitVec 5} {s : State} (h_s : s.Legal) :
    Outcome.Legal (execEret k f rd rs1 rs2 s) := by
  unfold execEret
  repeat' first | with_reducible assumption | with_reducible apply runInsn_legal | with_reducible apply eretBody_legal

theorem execBrk_legal {k : Core} {f : Fetch} {rd : BitVec 5} {rs1 : BitVec 5} {rs2 : BitVec 5} {s : State} (h_s : s.Legal) :
    Outcome.Legal (execBrk k f rd rs1 rs2 s) := by
  unfold execBrk
  repeat' first | with_reducible assumption | with_reducible apply runInsn_legal | with_reducible apply raise_legal

theorem State.tlbi_legal {s : State} {k : Core} {bcast : Bool} {t : BitVec 4 → Tlbi} (h_s : s.Legal) :
    (State.tlbi s k bcast t).Legal := by
  unfold State.tlbi
  repeat'
    first
    | with_reducible assumption | intro _ | with_reducible apply VoiceCore.tlbi_legal
    | with_reducible apply State.legal_modCore | with_reducible apply State.legal_core
    | with_reducible apply State.legal_cdr
    | simp only [State.legal_with, VoiceCore.legal_with, State.legal_with_cdr_fields]
    | with_reducible apply State.legal_ite | with_reducible apply State.legal_foldl
    | with_reducible apply State.legal_foldl_fst | split | dsimp only

theorem execTlbiVa_legal {k : Core} {f : Fetch} {rd : BitVec 5} {rs1 : BitVec 5} {rs2 : BitVec 5} {s : State} (h_s : s.Legal) :
    Outcome.Legal (execTlbiVa k f rd rs1 rs2 s) := by
  unfold execTlbiVa
  repeat'
    first
    | with_reducible assumption | intro _ | with_reducible apply runReg_legal
    | with_reducible apply State.tlbi_legal

theorem execTlbiAsid_legal {k : Core} {f : Fetch} {rd : BitVec 5} {rs1 : BitVec 5} {rs2 : BitVec 5} {s : State} (h_s : s.Legal) :
    Outcome.Legal (execTlbiAsid k f rd rs1 rs2 s) := by
  unfold execTlbiAsid
  repeat'
    first
    | with_reducible assumption | intro _ | with_reducible apply runReg_legal
    | with_reducible apply State.tlbi_legal

theorem execTlbiPtag_legal {k : Core} {f : Fetch} {rd : BitVec 5} {rs1 : BitVec 5} {rs2 : BitVec 5} {s : State} (h_s : s.Legal) :
    Outcome.Legal (execTlbiPtag k f rd rs1 rs2 s) := by
  unfold execTlbiPtag
  repeat'
    first
    | with_reducible assumption | intro _ | with_reducible apply runReg_legal
    | with_reducible apply State.tlbi_legal

theorem execTlbiAll_legal {k : Core} {f : Fetch} {rd : BitVec 5} {rs1 : BitVec 5} {rs2 : BitVec 5} {s : State} (h_s : s.Legal) :
    Outcome.Legal (execTlbiAll k f rd rs1 rs2 s) := by
  unfold execTlbiAll
  repeat'
    first
    | with_reducible assumption | intro _ | with_reducible apply runReg_legal
    | with_reducible apply State.tlbi_legal

theorem cmoBody_legal {k : Core} {acc : Acc} {rs1 : BitVec 5} {op : Fin 12 → Nat → Exec Unit} (h_op : ∀ x0 x1, Exec.Legal (op x0 x1)) :
    Exec.Legal (cmoBody k acc rs1 op) := by
  unfold cmoBody
  repeat'
    first
    | intro _ | with_reducible apply reqOf_legal | with_reducible apply raise_legal
    | with_reducible apply Req.translate_legal | with_reducible apply h_op | with_reducible apply Exec.legal_get
    | with_reducible apply Exec.legal_pure | with_reducible apply Exec.legal_bind | split

theorem cleanOp_legal {ups : List Upset} {c : Fin 12} {a : Nat}  :
    Exec.Legal (cleanOp ups c a) := by
  unfold cleanOp
  repeat'
    first
    | with_reducible assumption | intro _ | with_reducible apply Exec.legal_get | with_reducible apply Exec.legal_bind
    | with_reducible apply Exec.legal_set | with_reducible apply Exec.legal_modify
    | with_reducible apply Exec.legal_pure | with_reducible apply Exec.legal_throw
    | with_reducible apply State.backErrors_legal | with_reducible apply State.cleanLine_legal
    | with_reducible apply State.legal_core | with_reducible apply State.legal_cdr
    | simp only [State.legal_with, VoiceCore.legal_with, State.legal_with_cdr_fields]
    | with_reducible apply State.legal_ite | split | dsimp only

theorem clinvOp_legal {ups : List Upset} {c : Fin 12} {a : Nat}  :
    Exec.Legal (clinvOp ups c a) := by
  unfold clinvOp
  repeat'
    first
    | with_reducible assumption | intro _ | with_reducible apply Exec.legal_get | with_reducible apply Exec.legal_bind
    | with_reducible apply Exec.legal_set | with_reducible apply Exec.legal_modify
    | with_reducible apply Exec.legal_pure | with_reducible apply Exec.legal_throw
    | with_reducible apply State.dropLine_legal | with_reducible apply cleanFirst_legal
    | with_reducible apply State.legal_core | with_reducible apply State.legal_cdr
    | simp only [State.legal_with, VoiceCore.legal_with, State.legal_with_cdr_fields]
    | with_reducible apply State.legal_ite | split | dsimp only

theorem invOp_legal {c : Fin 12} {a : Nat} : Exec.Legal (invOp c a) := by
  unfold invOp
  repeat'
    first
    | with_reducible assumption | intro _ | with_reducible apply State.cleanWords_legal
    | with_reducible apply State.dropLine_legal | with_reducible apply Exec.legal_get
    | with_reducible apply Exec.legal_modify | with_reducible apply Exec.legal_set
    | with_reducible apply Exec.legal_throw | with_reducible apply Exec.legal_bind | split

theorem icinvOp_legal {x : Fin 12} {a : Nat} : Exec.Legal (icinvOp x a) := by
  unfold icinvOp
  repeat'
    first
    | with_reducible assumption | intro _ | with_reducible apply State.putLine_legal
    | with_reducible apply Exec.legal_modify | split

theorem execDcClean_legal {k : Core} {f : Fetch} {rd : BitVec 5} {rs1 : BitVec 5} {rs2 : BitVec 5}
  {s : State} (h_s : s.Legal) :
    Outcome.Legal (execDcClean k f rd rs1 rs2 s) := by
  unfold execDcClean
  repeat'
    first
    | with_reducible assumption | intro _ | with_reducible apply Outcome.legal_next
    | with_reducible apply cleanOp_legal | with_reducible apply cmoBody_legal | with_reducible apply runInsn_legal
    | with_reducible apply State.legal_core | with_reducible apply State.legal_cdr
    | simp only [State.legal_with, VoiceCore.legal_with, State.legal_with_cdr_fields]
    | with_reducible apply State.legal_ite | split | dsimp only

theorem execDcInv_legal {k : Core} {f : Fetch} {rd : BitVec 5} {rs1 : BitVec 5} {rs2 : BitVec 5} {s : State} (h_s : s.Legal) :
    Outcome.Legal (execDcInv k f rd rs1 rs2 s) := by
  unfold execDcInv
  repeat'
    first
    | with_reducible assumption | intro _ | with_reducible apply runInsn_legal
    | with_reducible apply cmoBody_legal | with_reducible apply invOp_legal

theorem execDcClinv_legal {k : Core} {f : Fetch} {rd : BitVec 5} {rs1 : BitVec 5} {rs2 : BitVec 5}
  {s : State} (h_s : s.Legal) :
    Outcome.Legal (execDcClinv k f rd rs1 rs2 s) := by
  unfold execDcClinv
  repeat'
    first
    | with_reducible assumption | intro _ | with_reducible apply Outcome.legal_next
    | with_reducible apply clinvOp_legal | with_reducible apply cmoBody_legal | with_reducible apply runInsn_legal
    | with_reducible apply State.legal_core | with_reducible apply State.legal_cdr
    | simp only [State.legal_with, VoiceCore.legal_with, State.legal_with_cdr_fields]
    | with_reducible apply State.legal_ite | split | dsimp only

theorem execIcInv_legal {k : Core} {f : Fetch} {rd : BitVec 5} {rs1 : BitVec 5} {rs2 : BitVec 5} {s : State} (h_s : s.Legal) :
    Outcome.Legal (execIcInv k f rd rs1 rs2 s) := by
  unfold execIcInv
  repeat'
    first
    | with_reducible assumption | intro _ | with_reducible apply runInsn_legal
    | with_reducible apply cmoBody_legal | with_reducible apply icinvOp_legal

theorem execInterruptEntry_legal {k : Core} {s : State} (h_s : s.Legal) : Outcome.Legal (execInterruptEntry k s) := by
  refine Outcome.legal_next ?_
  refine State.legal_ite h_s ?_
  cases k with
  | voice c => exact State.legal_ite h_s (State.legal_getD h_s fun t e => State.takeIrq_legal e (State.awake_legal h_s))
  | conductor => exact State.legal_getD h_s fun t e => State.cdrIrq_legal e (State.awake_legal h_s)

theorem execBeatExpiryEntry_legal {c : Fin 12} {s : State} (h_s : s.Legal) : Outcome.Legal (execBeatExpiryEntry c s) := by
  unfold execBeatExpiryEntry
  repeat'
    first
    | with_reducible assumption | with_reducible apply Outcome.legal_next
    | with_reducible apply State.takeExpiry_legal | with_reducible apply State.awake_legal
    | with_reducible apply State.legal_ite | split

theorem execDeferredError_legal {c : Fin 12} {a : PAddr} {kind : BitVec 3} {s : State} (h_s : s.Legal) :
    Outcome.Legal (execDeferredError c a kind s) := by
  unfold execDeferredError
  repeat'
    first
    | with_reducible assumption | intro _ | with_reducible apply ifOn_legal
    | with_reducible apply State.legal_modCore | with_reducible apply VoiceCore.defer_legal
    | with_reducible apply State.legal_ite

theorem execDeferredErrorEntry_legal {c : Fin 12} {s : State} (h_s : s.Legal) : Outcome.Legal (execDeferredErrorEntry c s) := by
  unfold execDeferredErrorEntry
  repeat'
    first
    | with_reducible assumption | with_reducible apply Outcome.legal_next
    | with_reducible apply State.takeDerr_legal | with_reducible apply State.awake_legal
    | with_reducible apply State.legal_ite

theorem execCycleWrap_legal {k : Core} {s : State} (h_s : s.Legal) : Outcome.Legal (execCycleWrap k s) := by
  unfold execCycleWrap
  repeat'
    first
    | with_reducible assumption | intro _ | with_reducible apply ifOn_legal
    | with_reducible apply State.elapse_legal | with_reducible apply State.legal_ite | split

end Sys2Proof.Machine
end

