-- ==== Sys2Proof/Laws/LegalDispatch.lean ====
section
/-! SUPPORT. A legal state stays legal: Dispatch. -/
set_option Elab.async false
set_option linter.all false
namespace Sys2Proof.Machine

theorem exec_legal {i : Instr} {s : State} (h_s : s.Legal) : Outcome.Legal (exec i s) := by
  cases i with
  | addW _ _ _ _ _ => exact execAddW_legal h_s
  | subW _ _ _ _ _ => exact execSubW_legal h_s
  | andW _ _ _ _ _ => exact execAndW_legal h_s
  | orW _ _ _ _ _ => exact execOrW_legal h_s
  | xorW _ _ _ _ _ => exact execXorW_legal h_s
  | slt _ _ _ _ _ => exact execSlt_legal h_s
  | sltu _ _ _ _ _ => exact execSltu_legal h_s
  | norW _ _ _ _ _ => exact execNorW_legal h_s
  | sll _ _ _ _ _ => exact execSll_legal h_s
  | srl _ _ _ _ _ => exact execSrl_legal h_s
  | sra _ _ _ _ _ => exact execSra_legal h_s
  | rol _ _ _ _ _ => exact execRol_legal h_s
  | minS _ _ _ _ _ => exact execMinS_legal h_s
  | maxS _ _ _ _ _ => exact execMaxS_legal h_s
  | minu _ _ _ _ _ => exact execMinu_legal h_s
  | maxu _ _ _ _ _ => exact execMaxu_legal h_s
  | mulW _ _ _ _ _ => exact execMulW_legal h_s
  | mulh _ _ _ _ _ => exact execMulh_legal h_s
  | mulhu _ _ _ _ _ => exact execMulhu_legal h_s
  | mulw _ _ _ _ _ => exact execMulw_legal h_s
  | divS _ _ _ _ _ => exact execDivS_legal h_s
  | divu _ _ _ _ _ => exact execDivu_legal h_s
  | remS _ _ _ _ _ => exact execRemS_legal h_s
  | remu _ _ _ _ _ => exact execRemu_legal h_s
  | addi _ _ _ _ _ => exact execAddi_legal h_s
  | andi _ _ _ _ _ => exact execAndi_legal h_s
  | ori _ _ _ _ _ => exact execOri_legal h_s
  | xori _ _ _ _ _ => exact execXori_legal h_s
  | slti _ _ _ _ _ => exact execSlti_legal h_s
  | sltiu _ _ _ _ _ => exact execSltiu_legal h_s
  | slli _ _ _ _ _ => exact execSlli_legal h_s
  | srli _ _ _ _ _ => exact execSrli_legal h_s
  | srai _ _ _ _ _ => exact execSrai_legal h_s
  | roli _ _ _ _ _ => exact execRoli_legal h_s
  | addD _ _ _ _ _ => exact execAddD_legal h_s
  | subD _ _ _ _ _ => exact execSubD_legal h_s
  | andD _ _ _ _ _ => exact execAndD_legal h_s
  | orD _ _ _ _ _ => exact execOrD_legal h_s
  | xorD _ _ _ _ _ => exact execXorD_legal h_s
  | sltD _ _ _ _ _ => exact execSltD_legal h_s
  | sltuD _ _ _ _ _ => exact execSltuD_legal h_s
  | sllD _ _ _ _ _ => exact execSllD_legal h_s
  | srlD _ _ _ _ _ => exact execSrlD_legal h_s
  | sraD _ _ _ _ _ => exact execSraD_legal h_s
  | sextD _ _ _ _ _ => exact execSextD_legal h_s
  | zextD _ _ _ _ _ => exact execZextD_legal h_s
  | packD _ _ _ _ _ => exact execPackD_legal h_s
  | addiD _ _ _ _ _ => exact execAddiD_legal h_s
  | paddB _ _ _ _ _ => exact execPaddB_legal h_s
  | paddiB _ _ _ _ _ => exact execPaddiB_legal h_s
  | psubB _ _ _ _ _ => exact execPsubB_legal h_s
  | pidx _ _ _ _ _ => exact execPidx_legal h_s
  | pfrom _ _ _ _ _ => exact execPfrom_legal h_s
  | lb _ _ _ _ _ => exact execLb_legal h_s
  | lbs _ _ _ _ _ => exact execLbs_legal h_s
  | lw _ _ _ _ _ => exact execLw_legal h_s
  | ld _ _ _ _ _ => exact execLd_legal h_s
  | sb _ _ _ _ _ => exact execSb_legal h_s
  | sw _ _ _ _ _ => exact execSw_legal h_s
  | sd _ _ _ _ _ => exact execSd_legal h_s
  | llW _ _ _ _ _ => exact execLlW_legal h_s
  | llD _ _ _ _ _ => exact execLlD_legal h_s
  | scW _ _ _ _ _ => exact execScW_legal h_s
  | scD _ _ _ _ _ => exact execScD_legal h_s
  | casD _ _ _ _ _ => exact execCasD_legal h_s
  | amul _ _ _ _ _ => exact execAmul_legal h_s
  | amac _ _ _ _ _ => exact execAmac_legal h_s
  | amsu _ _ _ _ _ => exact execAmsu_legal h_s
  | aload _ _ _ _ _ => exact execAload_legal h_s
  | aclr _ _ _ _ _ => exact execAclr_legal h_s
  | asft _ _ _ _ _ => exact execAsft_legal h_s
  | arnd _ _ _ _ _ => exact execArnd_legal h_s
  | atrn _ _ _ _ _ => exact execAtrn_legal h_s
  | agetD _ _ _ _ _ => exact execAgetD_legal h_s
  | agetg _ _ _ _ _ => exact execAgetg_legal h_s
  | aputD _ _ _ _ _ => exact execAputD_legal h_s
  | aputg _ _ _ _ _ => exact execAputg_legal h_s
  | qadd _ _ _ _ _ => exact execQadd_legal h_s
  | qsub _ _ _ _ _ => exact execQsub_legal h_s
  | qmul _ _ _ _ _ => exact execQmul_legal h_s
  | qneg _ _ _ _ _ => exact execQneg_legal h_s
  | qabs _ _ _ _ _ => exact execQabs_legal h_s
  | qshl _ _ _ _ _ => exact execQshl_legal h_s
  | cls _ _ _ _ _ => exact execCls_legal h_s
  | clz _ _ _ _ _ => exact execClz_legal h_s
  | fadd _ _ _ _ _ => exact execFadd_legal h_s
  | fsub _ _ _ _ _ => exact execFsub_legal h_s
  | fmul _ _ _ _ _ => exact execFmul_legal h_s
  | fdiv _ _ _ _ _ => exact execFdiv_legal h_s
  | fmin _ _ _ _ _ => exact execFmin_legal h_s
  | fmax _ _ _ _ _ => exact execFmax_legal h_s
  | fsqrt _ _ _ _ _ => exact execFsqrt_legal h_s
  | fmadd _ _ _ _ _ => exact execFmadd_legal h_s
  | feq _ _ _ _ _ => exact execFeq_legal h_s
  | flt _ _ _ _ _ => exact execFlt_legal h_s
  | fle _ _ _ _ _ => exact execFle_legal h_s
  | fclass _ _ _ _ _ => exact execFclass_legal h_s
  | fcvtFW _ _ _ _ _ => exact execFcvtFW_legal h_s
  | fcvtWF _ _ _ _ _ => exact execFcvtWF_legal h_s
  | fcvtFQ _ _ _ _ _ => exact execFcvtFQ_legal h_s
  | fcvtQF _ _ _ _ _ => exact execFcvtQF_legal h_s
  | fneg _ _ _ _ _ => exact execFneg_legal h_s
  | fabs _ _ _ _ _ => exact execFabs_legal h_s
  | fsgnj _ _ _ _ _ => exact execFsgnj_legal h_s
  | fcvtFD _ _ _ _ _ => exact execFcvtFD_legal h_s
  | fcvtDF _ _ _ _ _ => exact execFcvtDF_legal h_s
  | beq _ _ _ _ _ => exact execBeq_legal h_s
  | bne _ _ _ _ _ => exact execBne_legal h_s
  | blt _ _ _ _ _ => exact execBlt_legal h_s
  | bge _ _ _ _ _ => exact execBge_legal h_s
  | bltu _ _ _ _ _ => exact execBltu_legal h_s
  | bgeu _ _ _ _ _ => exact execBgeu_legal h_s
  | jmp _ _ _ => exact execJmp_legal h_s
  | jal _ _ _ => exact execJal_legal h_s
  | jalr _ _ _ _ _ => exact execJalr_legal h_s
  | fence _ _ _ _ _ => exact execFence_legal h_s
  | ifence _ _ _ _ _ => exact execIfence_legal h_s
  | tfence _ _ _ _ _ => exact execTfence_legal h_s
  | barwait _ _ _ _ _ => exact execBarwait_legal h_s
  | ecall _ _ _ _ _ => exact execEcall_legal h_s
  | wfi _ _ _ _ _ => exact execWfi_legal h_s
  | eret _ _ _ _ _ => exact execEret_legal h_s
  | brk _ _ _ _ _ => exact execBrk_legal h_s
  | tlbiVa _ _ _ _ _ => exact execTlbiVa_legal h_s
  | tlbiAsid _ _ _ _ _ => exact execTlbiAsid_legal h_s
  | tlbiPtag _ _ _ _ _ => exact execTlbiPtag_legal h_s
  | tlbiAll _ _ _ _ _ => exact execTlbiAll_legal h_s
  | dcClean _ _ _ _ _ => exact execDcClean_legal h_s
  | dcInv _ _ _ _ _ => exact execDcInv_legal h_s
  | dcClinv _ _ _ _ _ => exact execDcClinv_legal h_s
  | icInv _ _ _ _ _ => exact execIcInv_legal h_s
  | csrrd _ _ _ _ _ => exact execCsrrd_legal h_s
  | csrwr _ _ _ _ _ => exact execCsrwr_legal h_s
  | interruptEntry _ => exact execInterruptEntry_legal h_s
  | beatExpiryEntry _ => exact execBeatExpiryEntry_legal h_s
  | deferredError _ _ _ => exact execDeferredError_legal h_s
  | deferredErrorEntry _ => exact execDeferredErrorEntry_legal h_s
  | writeBack _ _ _ => exact execWriteBack_legal h_s
  | barBoundary => exact execBarBoundary_legal h_s
  | beatBoundary => exact execBeatBoundary_legal h_s
  | firstBarStart => exact execFirstBarStart_legal h_s
  | runSet _ => exact execRunSet_legal h_s
  | runClear _ => exact execRunClear_legal h_s
  | garm _ => exact execGarm_legal h_s
  | arm _ _ _ => exact execArm_legal h_s
  | stagingWrite _ _ _ _ => exact execStagingWrite_legal h_s
  | ovrClr _ _ => exact execOvrClr_legal h_s
  | interruptEdge _ _ => exact execInterruptEdge_legal h_s
  | levelInputChange _ _ _ => exact execLevelInputChange_legal h_s
  | claimIrq _ _ => exact execClaimIrq_legal h_s
  | completeIrq _ _ _ => exact execCompleteIrq_legal h_s
  | pendIrq _ _ _ => exact execPendIrq_legal h_s
  | unpendIrq _ _ _ => exact execUnpendIrq_legal h_s
  | beatexpPend _ _ => exact execBeatexpPend_legal h_s
  | chSwdb _ _ => exact execChSwdb_legal h_s
  | srcCfgWrite _ _ _ _ => exact execSrcCfgWrite_legal h_s
  | coreTmrWrite _ _ => exact execCoreTmrWrite_legal h_s
  | coreTimerExpiry _ => exact execCoreTimerExpiry_legal h_s
  | mcInit _ => exact execMcInit_legal h_s
  | initialisationEnd _ => exact execInitialisationEnd_legal h_s
  | refresh _ => exact execRefresh_legal h_s
  | refqBreak _ => exact execRefqBreak_legal h_s
  | patrolScrub _ => exact execPatrolScrub_legal h_s
  | mcResvWrite _ _ => exact execMcResvWrite_legal h_s
  | trackEnSet _ => exact execTrackEnSet_legal h_s
  | trackEnClear _ => exact execTrackEnClear_legal h_s
  | echoHiwatWrite _ _ => exact execEchoHiwatWrite_legal h_s
  | stallEnd => exact execStallEnd_legal h_s
  | refrainStreamLine _ => exact execRefrainStreamLine_legal h_s
  | wayMapWrite _ _ _ => exact execWayMapWrite_legal h_s
  | wayOperationEnd => exact execWayOperationEnd_legal h_s
  | dbRing _ _ => exact execDbRing_legal h_s
  | dbDebug _ _ => exact execDbDebug_legal h_s
  | doorbellCheck _ => exact execDoorbellCheck_legal h_s
  | waitingCommandStart _ => exact execWaitingCommandStart_legal h_s
  | longCommandFinal _ _ _ => exact execLongCommandFinal_legal h_s
  | nop _ => exact execNop_legal h_s
  | getInfo _ => exact execGetInfo_legal h_s
  | releaseCores _ _ _ _ _ => exact execReleaseCores_legal h_s
  | releaseAuth _ _ _ _ _ => exact execReleaseAuth_legal h_s
  | haltCores _ _ => exact execHaltCores_legal h_s
  | sysResetWarm _ => exact execSysResetWarm_legal h_s
  | sysResetCold _ => exact execSysResetCold_legal h_s
  | commandedReset => exact execCommandedReset_legal h_s
  | ringDisable _ _ => exact execRingDisable_legal h_s
  | ringEnable _ _ => exact execRingEnable_legal h_s
  | ringRestart _ _ => exact execRingRestart_legal h_s
  | noticeRead _ => exact execNoticeRead_legal h_s
  | powerEnterFermata _ _ _ _ => exact execPowerEnterFermata_legal h_s
  | powerEnterCoda _ _ _ _ => exact execPowerEnterCoda_legal h_s
  | coreHushEnter _ _ => exact execCoreHushEnter_legal h_s
  | coreHushLeave _ _ => exact execCoreHushLeave_legal h_s
  | clockSet _ _ _ => exact execClockSet_legal h_s
  | clockSetTimeout => exact execClockSetTimeout_legal h_s
  | barConfig _ _ _ _ _ _ => exact execBarConfig_legal h_s
  | barRun _ _ => exact execBarRun_legal h_s
  | barLock _ => exact execBarLock_legal h_s
  | barRead _ _ => exact execBarRead_legal h_s
  | timeRead _ => exact execTimeRead_legal h_s
  | timeSet _ _ _ _ => exact execTimeSet_legal h_s
  | tempoRefs _ _ => exact execTempoRefs_legal h_s
  | tempoPolicy _ _ _ _ => exact execTempoPolicy_legal h_s
  | tempoStep _ => exact execTempoStep_legal h_s
  | ptpCorrect _ _ _ => exact execPtpCorrect_legal h_s
  | duetStatus _ => exact execDuetStatus_legal h_s
  | linkTrain _ _ _ => exact execLinkTrain_legal h_s
  | duetRoleHandover _ => exact execDuetRoleHandover_legal h_s
  | duetRoleTakeActive _ => exact execDuetRoleTakeActive_legal h_s
  | refrainCfg _ _ _ _ _ _ _ _ => exact execRefrainCfg_legal h_s
  | refrainEnable _ => exact execRefrainEnable_legal h_s
  | refrainDisable _ => exact execRefrainDisable_legal h_s
  | duetTiming _ _ _ => exact execDuetTiming_legal h_s
  | partnerCmd _ _ => exact execPartnerCmd_legal h_s
  | rehPlan _ _ _ => exact execRehPlan_legal h_s
  | rehRun _ _ => exact execRehRun_legal h_s
  | rehRunTimeout => exact execRehRunTimeout_legal h_s
  | rehStatus _ _ => exact execRehStatus_legal h_s
  | ledgerRead _ _ => exact execLedgerRead_legal h_s
  | ledgerCfg _ _ _ _ => exact execLedgerCfg_legal h_s
  | ledgerClear _ _ => exact execLedgerClear_legal h_s
  | repairApply _ _ => exact execRepairApply_legal h_s
  | repairUndo _ _ => exact execRepairUndo_legal h_s
  | traceAuth _ _ _ _ => exact execTraceAuth_legal h_s
  | traceRevoke _ => exact execTraceRevoke_legal h_s
  | traceOwn _ _ => exact execTraceOwn_legal h_s
  | slotInfo _ _ => exact execSlotInfo_legal h_s
  | slotErase _ _ _ _ _ => exact execSlotErase_legal h_s
  | slotWrite _ _ _ _ _ _ => exact execSlotWrite_legal h_s
  | slotVerify _ _ => exact execSlotVerify_legal h_s
  | slotCommit _ => exact execSlotCommit_legal h_s
  | rescore _ => exact execRescore_legal h_s
  | imageSeal _ _ _ _ => exact execImageSeal_legal h_s
  | fuseWrite _ _ _ => exact execFuseWrite_legal h_s
  | poolCreate _ _ _ _ _ _ _ _ => exact execPoolCreate_legal h_s
  | poolDestroy _ _ => exact execPoolDestroy_legal h_s
  | poolTake _ _ _ => exact execPoolTake_legal h_s
  | poolGive _ _ _ _ _ => exact execPoolGive_legal h_s
  | abortCmd _ _ _ => exact execAbortCmd_legal h_s
  | poolAlloc _ _ => exact execPoolAlloc_legal h_s
  | poolRelease _ _ _ => exact execPoolRelease_legal h_s
  | poolLowmarkWrite _ _ _ => exact execPoolLowmarkWrite_legal h_s
  | timeSecLoRead _ => exact execTimeSecLoRead_legal h_s
  | tcount0Read _ => exact execTcount0Read_legal h_s
  | stepReq _ => exact execStepReq_legal h_s
  | tppsInEdge _ => exact execTppsInEdge_legal h_s
  | refLost _ => exact execRefLost_legal h_s
  | holdExpired => exact execHoldExpired_legal h_s
  | secondsFieldIncrease => exact execSecondsFieldIncrease_legal h_s
  | tppsOutPulseEnd => exact execTppsOutPulseEnd_legal h_s
  | fzCmd _ _ => exact execFzCmd_legal h_s
  | fuseProgramEnd _ => exact execFuseProgramEnd_legal h_s
  | debugChallengeRequest => exact execDebugChallengeRequest_legal h_s
  | debugSessionClose => exact execDebugSessionClose_legal h_s
  | debugResponse _ => exact execDebugResponse_legal h_s
  | voiceImageLoad _ => exact execVoiceImageLoad_legal h_s
  | dlEnSet _ => exact execDlEnSet_legal h_s
  | dlEnClear _ => exact execDlEnClear_legal h_s
  | trainWrite _ => exact execTrainWrite_legal h_s
  | laneMaskWrite _ _ => exact execLaneMaskWrite_legal h_s
  | lmapCtlWrite _ _ _ => exact execLmapCtlWrite_legal h_s
  | transactionTake _ => exact execTransactionTake_legal h_s
  | flitTransmit _ => exact execFlitTransmit_legal h_s
  | ackDeadline => exact execAckDeadline_legal h_s
  | ackFlit _ => exact execAckFlit_legal h_s
  | nakFlit _ => exact execNakFlit_legal h_s
  | trainFlit _ => exact execTrainFlit_legal h_s
  | trainingComplete _ => exact execTrainingComplete_legal h_s
  | resumeFlit _ => exact execResumeFlit_legal h_s
  | fatalFlit _ => exact execFatalFlit_legal h_s
  | closeFlit _ => exact execCloseFlit_legal h_s
  | holdTimerExpiry => exact execHoldTimerExpiry_legal h_s
  | lossOfSignal _ => exact execLossOfSignal_legal h_s
  | uncorrectableCodewords _ _ => exact execUncorrectableCodewords_legal h_s
  | reqCmd _ => exact execReqCmd_legal h_s
  | contFlit _ => exact execContFlit_legal h_s
  | reqRd _ _ => exact execReqRd_legal h_s
  | rspFlit _ => exact execRspFlit_legal h_s
  | wrHead _ => exact execWrHead_legal h_s
  | rdHead _ => exact execRdHead_legal h_s
  | dataFlit _ => exact execDataFlit_legal h_s
  | sampleFlit _ _ => exact execSampleFlit_legal h_s
  | sampleTimer => exact execSampleTimer_legal h_s
  | ckHead _ => exact execCkHead_legal h_s
  | ckData _ => exact execCkData_legal h_s
  | ckEnd _ => exact execCkEnd_legal h_s
  | ckReply _ => exact execCkReply_legal h_s
  | applyEnd => exact execApplyEnd_legal h_s
  | handoverTimeout => exact execHandoverTimeout_legal h_s
  | batonInEdge => exact execBatonInEdge_legal h_s
  | sliceEnd _ _ => exact execSliceEnd_legal h_s
  | sliceOverrun => exact execSliceOverrun_legal h_s
  | coverLate => exact execCoverLate_legal h_s
  | ledgerDrain => exact execLedgerDrain_legal h_s
  | leakEvent _ => exact execLeakEvent_legal h_s
  | spareWayRepair => exact execSpareWayRepair_legal h_s
  | laneDegrade => exact execLaneDegrade_legal h_s
  | serviceHour => exact execServiceHour_legal h_s
  | evqPop _ => exact execEvqPop_legal h_s
  | ptEnSet _ _ _ _ => exact execPtEnSet_legal h_s
  | ptEnClear _ _ _ _ => exact execPtEnClear_legal h_s
  | ptFire _ _ _ => exact execPtFire_legal h_s
  | traceStop _ _ => exact execTraceStop_legal h_s
  | ptRdata _ _ _ => exact execPtRdata_legal h_s
  | trSegownWrite _ _ _ _ => exact execTrSegownWrite_legal h_s
  | strmLinesWrite _ _ _ _ => exact execStrmLinesWrite_legal h_s
  | traceDmaCopy _ _ => exact execTraceDmaCopy_legal h_s
  | ethRxFrame _ _ _ _ => exact execEthRxFrame_legal h_s
  | ethTxFrame _ _ _ => exact execEthTxFrame_legal h_s
  | mdioCmd _ _ _ => exact execMdioCmd_legal h_s
  | mdioDone _ _ => exact execMdioDone_legal h_s
  | canRxFrame _ _ _ => exact execCanRxFrame_legal h_s
  | canReq _ _ _ => exact execCanReq_legal h_s
  | canCancel _ _ _ => exact execCanCancel_legal h_s
  | canTxFrame _ _ _ _ => exact execCanTxFrame_legal h_s
  | busOffRecovery _ => exact execBusOffRecovery_legal h_s
  | canRec _ _ => exact execCanRec_legal h_s
  | rxhPush _ _ _ => exact execRxhPush_legal h_s
  | rxqIdLoRead _ _ => exact execRxqIdLoRead_legal h_s
  | rxqPop _ _ => exact execRxqPop_legal h_s
  | spiTx _ _ _ => exact execSpiTx_legal h_s
  | spiFrameDone _ _ => exact execSpiFrameDone_legal h_s
  | spiRx _ _ => exact execSpiRx_legal h_s
  | i2cStart _ _ _ => exact execI2cStart_legal h_s
  | i2cWrite _ _ _ => exact execI2cWrite_legal h_s
  | i2cReadAck _ _ => exact execI2cReadAck_legal h_s
  | i2cReadNack _ _ => exact execI2cReadNack_legal h_s
  | i2cStop _ => exact execI2cStop_legal h_s
  | i2cAddressed _ _ => exact execI2cAddressed_legal h_s
  | i2cRx _ _ => exact execI2cRx_legal h_s
  | uartTx _ _ _ => exact execUartTx_legal h_s
  | uartByteReceived _ _ _ _ _ => exact execUartByteReceived_legal h_s
  | uartRx _ _ => exact execUartRx_legal h_s
  | xspiRead _ _ => exact execXspiRead_legal h_s
  | xspiProgram _ _ => exact execXspiProgram_legal h_s
  | xspiErase4k _ => exact execXspiErase4k_legal h_s
  | xspiErase64k _ => exact execXspiErase64k_legal h_s
  | xspiReadSfdp _ _ => exact execXspiReadSfdp_legal h_s
  | gpioSet _ _ _ => exact execGpioSet_legal h_s
  | gpioClr _ _ _ => exact execGpioClr_legal h_s
  | gpioSafeWrite _ _ _ => exact execGpioSafeWrite_legal h_s
  | gpioInputChange _ _ => exact execGpioInputChange_legal h_s
  | pwmPeriodStart _ => exact execPwmPeriodStart_legal h_s
  | pwmActiveEnd _ => exact execPwmActiveEnd_legal h_s
  | pwmSync _ _ => exact execPwmSync_legal h_s
  | acmpInputCrossing _ _ _ => exact execAcmpInputCrossing_legal h_s
  | blankingEnd _ => exact execBlankingEnd_legal h_s
  | acmpDacWrite _ _ _ _ => exact execAcmpDacWrite_legal h_s
  | acmpSettleEnd _ => exact execAcmpSettleEnd_legal h_s
  | vddaAcmpLow => exact execVddaAcmpLow_legal h_s
  | bankLow _ => exact execBankLow_legal h_s
  | fermataEntry => exact execFermataEntry_legal h_s
  | fermataWake _ _ => exact execFermataWake_legal h_s
  | codaEntry => exact execCodaEntry_legal h_s
  | codaWake _ _ => exact execCodaWake_legal h_s
  | pwrFail => exact execPwrFail_legal h_s
  | porstN _ _ => exact execPorstN_legal h_s
  | warmrstN _ => exact execWarmrstN_legal h_s
  | vaonLoss => exact execVaonLoss_legal h_s
  | brownout _ => exact execBrownout_legal h_s
  | supplyWarning _ => exact execSupplyWarning_legal h_s
  | thermalWarning _ => exact execThermalWarning_legal h_s
  | thermalTrip _ => exact execThermalTrip_legal h_s
  | debugReset => exact execDebugReset_legal h_s
  | wdogKick _ _ => exact execWdogKick_legal h_s
  | cdrWdog => exact execCdrWdog_legal h_s
  | registerWrite _ _ _ _ => exact execRegisterWrite_legal h_s
  | porstNRelease _ _ => exact execPorstNRelease_legal h_s
  | mainRailsInRange => exact execMainRailsInRange_legal h_s
  | sentinelComplete _ _ _ => exact execSentinelComplete_legal h_s
  | debugCheckComplete => exact execDebugCheckComplete_legal h_s
  | cycleWrap _ => exact execCycleWrap_legal h_s
  | uartByteTransmitted _ => exact execUartByteTransmitted_legal h_s
  | i2cCmd _ _ _ => exact execI2cCmd_legal h_s
  | i2cTargetByte _ _ _ => exact execI2cTargetByte_legal h_s
  | bankRailRecovery _ => exact execBankRailRecovery_legal h_s
  | vddaAcmpRecovery => exact execVddaAcmpRecovery_legal h_s
  | supplyWarningEnd _ => exact execSupplyWarningEnd_legal h_s
  | tjBelowWarning _ => exact execTjBelowWarning_legal h_s

end Sys2Proof.Machine
end

