-- ==== Sys2Proof/Laws/Seen.lean ====
section
/-! SUPPORT. What an access leaves as software sees it: the base lemmas. -/
set_option Elab.async false
set_option linter.all false
namespace Sys2Proof.Machine

theorem Seen.refl {s : State} : Seen s s := ⟨fun _ => rfl, rfl, rfl, rfl, rfl⟩

theorem Seen.fields {o s : State}
    {die dram chk stage stageBad caches bar tempo chorus mc echo rings bm boot duet refrain health trace io pwr free pending} :
    Seen o (State.mk die s.cores s.cdr dram chk stage stageBad s.csram s.flash s.xflash caches bar tempo chorus mc echo rings bm boot
    duet refrain health trace io pwr free pending) ↔ Seen o s :=
  ⟨fun h => ⟨h.cores, h.cdr, h.csram, h.flash, h.xflash⟩, fun h => ⟨h.cores, h.cdr, h.csram, h.flash, h.xflash⟩⟩

theorem Seen.setCore {o s : State} {c : Fin 12} {v : VoiceCore} (h : Seen o s) (hv : v.seen = (s.core c).seen) :
    Seen o (s.setCore c v) := by
  refine ⟨fun d => ?_, h.cdr, h.csram, h.flash, h.xflash⟩
  have e : (s.setCore c v).cores[d] = if c = d then v else s.cores[d] := by
    simp [State.setCore, Fin.getElem_fin, Vector.getElem_set, Fin.ext_iff]
  rw [e]
  split
  · rename_i e
    rw [hv, ← h.cores d, ← e]
    rfl
  · exact h.cores d

theorem Seen.modCore {o s : State} {c : Fin 12} {f : VoiceCore → VoiceCore} (h : Seen o s) (hf : ∀ v, (f v).seen = v.seen) :
    Seen o (s.modCore c f) := Seen.setCore h (hf _)

theorem Seen.mapCores {o s : State} {f : Fin 12 → VoiceCore → VoiceCore} (h : Seen o s) (hf : ∀ c v, (f c v).seen = v.seen) :
    Seen o (s.mapCores f) :=
  ⟨fun d => by simpa [State.mapCores, State.core, hf] using h.cores d, h.cdr, h.csram, h.flash, h.xflash⟩

theorem Seen.foldl {o : State} {α : Type} {f : State → α → State} {l : List α} {s : State} (h : Seen o s)
    (hf : ∀ s x, Seen o s → Seen o (f s x)) : Seen o (l.foldl f s) := by
  induction l generalizing s with
  | nil => exact h
  | cons x l ih => exact ih (hf s x h)

theorem Seen.foldl_fst {o : State} {α β : Type} {f : State × β → α → State × β} {l : List α} {p : State × β} (h : Seen o p.1)
    (hf : ∀ p x, Seen o p.1 → Seen o (f p x).1) : Seen o (l.foldl f p).1 := by
  induction l generalizing p with
  | nil => exact h
  | cons x l ih => exact ih (hf p x h)

theorem Seen.ite {o : State} {c : Prop} [Decidable c] {s t : State} (hs : Seen o s) (ht : Seen o t) : Seen o (if c then s else t) := by
  split
  · exact hs
  · exact ht

theorem VoiceCore.tlbFill_seen {v : VoiceCore} {acc : Acc} {e : TlbEntry} : (v.tlbFill acc e).seen = v.seen := by
  unfold VoiceCore.tlbFill
  split <;> rfl

/-- A program that changes nothing software sees, whether it completes or traps. -/
structure Unseen {α : Type} (o : State) (m : Exec α) : Prop where
  ok  : ∀ s a t, Seen o s → m s = .ok a t → Seen o t
  err : ∀ s e t, Seen o s → m s = .error e t → Seen o t

theorem Unseen.pure {o : State} {α : Type} {a : α} : Unseen o (pure a : Exec α) :=
  ⟨fun _ _ _ h e => by cases e; exact h, fun _ _ _ _ e => by cases e⟩
theorem Unseen.throw {o : State} {α : Type} {x : Trap} : Unseen o (throw x : Exec α) := by
  constructor
  · intro s a t h e
    cases e
  · intro s y t h e
    cases e
    exact h
theorem Unseen.bind {o : State} {α β : Type} {m : Exec α} {f : α → Exec β} (hm : Unseen o m) (hf : ∀ a, Unseen o (f a)) :
    Unseen o (m >>= f) := by
  constructor
  · intro s b t hs e
    simp only [Bind.bind, EStateM.bind] at e
    split at e
    · rename_i a s' h
      exact (hf a).ok s' b t (hm.ok s a s' hs h) e
    · cases e
  · intro s x t hs e
    simp only [Bind.bind, EStateM.bind] at e
    split at e
    · rename_i a s' h
      exact (hf a).err s' x t (hm.ok s a s' hs h) e
    · rename_i y s' h
      cases e
      exact hm.err s _ _ hs h
theorem Unseen.get {o : State} {β : Type} {f : State → Exec β} (hf : ∀ s, Seen o s → Unseen o (f s)) : Unseen o (get >>= f) :=
  ⟨fun s b t hs e => (hf s hs).ok s b t hs e, fun s x t hs e => (hf s hs).err s x t hs e⟩
theorem Unseen.set {o s : State} (h : Seen o s) : Unseen o (set s : Exec Unit) :=
  ⟨fun _ _ _ _ e => by cases e; exact h, fun _ _ _ _ e => by cases e⟩
theorem Unseen.modify {o : State} {f : State → State} (hf : ∀ s, Seen o s → Seen o (f s)) : Unseen o (modify f : Exec Unit) :=
  ⟨fun s _ _ h e => by cases e; exact hf s h, fun _ _ _ _ e => by cases e⟩

end Sys2Proof.Machine
end

