-- ==== Sys2Proof/Laws/SeenFetch.lean ====
section
/-! SUPPORT. What the fetch of an instruction leaves as software sees it. -/
set_option Elab.async false
set_option linter.all false
namespace Sys2Proof.Machine

theorem State.draw_seen {o : State} {s : State} (h_s : Seen o s) :
    Seen o (State.draw s).2 := by
  unfold State.draw
  repeat' first | with_reducible assumption | intro _ | exact rfl | simp only [Seen.fields] | exact VoiceCore.tlbFill_seen | with_reducible apply Seen.ite | with_reducible apply Seen.foldl | with_reducible apply Seen.foldl_fst | split | dsimp only

theorem State.awake_seen {o s : State} {a : Initiator} (h_s : Seen o s) : Seen o (State.awake s a) := by
  unfold State.awake
  split
  · exact Seen.modCore h_s fun _ => rfl
  · exact ⟨h_s.cores, h_s.cdr, h_s.csram, h_s.flash, h_s.xflash⟩
  · exact h_s

theorem State.modCbar_seen {o : State} {s : State} {c : Fin 12} {f : CoreBar → CoreBar} (h_s : Seen o s) :
    Seen o (State.modCbar s c f) := by
  unfold State.modCbar
  repeat' first | with_reducible assumption | intro _ | exact rfl | with_reducible apply h_f | simp only [Seen.fields] | exact VoiceCore.tlbFill_seen | with_reducible apply Seen.ite | with_reducible apply Seen.foldl | with_reducible apply Seen.foldl_fst | split | dsimp only

theorem State.post_seen {o : State} {s : State} {src : BitVec 12} {kind : BitVec 2} (h_s : Seen o s) :
    Seen o (State.post s src kind) := by
  unfold State.post
  repeat' first | with_reducible assumption | intro _ | exact rfl | simp only [Seen.fields] | exact VoiceCore.tlbFill_seen | with_reducible apply Seen.ite | with_reducible apply Seen.foldl | with_reducible apply Seen.foldl_fst | split | dsimp only

theorem State.logCe_seen {o : State} {s : State} {rk : RdKind} {line : Nat} {beat : Nat} {dev : Nat} (h_s : Seen o s) :
    Seen o (State.logCe s rk line beat dev) := by
  unfold State.logCe
  extract_lets e1 e2 e3 e4
  have h_e4 : Seen o e4 := by
    dsimp only [e4]
    repeat' first | with_reducible assumption | intro _ | exact rfl | with_reducible apply State.post_seen | simp only [Seen.fields] | exact VoiceCore.tlbFill_seen | with_reducible apply Seen.ite | with_reducible apply Seen.foldl | with_reducible apply Seen.foldl_fst | split | dsimp only
  (try clear_value e4)
  repeat' first | with_reducible assumption | intro _ | exact rfl | with_reducible apply State.post_seen | simp only [Seen.fields] | exact VoiceCore.tlbFill_seen | with_reducible apply Seen.ite | with_reducible apply Seen.foldl | with_reducible apply Seen.foldl_fst | split | dsimp only

theorem State.logUe_seen {o : State} {s : State} {rk : RdKind} {line : Nat} {beat : Nat} {marker : Bool} (h_s : Seen o s) :
    Seen o (State.logUe s rk line beat marker) := by
  unfold State.logUe
  extract_lets e1 e2 e3 e4
  have h_e4 : Seen o e4 := by
    dsimp only [e4]
    repeat' first | with_reducible assumption | intro _ | exact rfl | with_reducible apply State.post_seen | simp only [Seen.fields] | exact VoiceCore.tlbFill_seen | with_reducible apply Seen.ite | with_reducible apply Seen.foldl | with_reducible apply Seen.foldl_fst | split | dsimp only
  (try clear_value e4)
  repeat' first | with_reducible assumption | intro _ | exact rfl | with_reducible apply State.post_seen | simp only [Seen.fields] | exact VoiceCore.tlbFill_seen | with_reducible apply Seen.ite | with_reducible apply Seen.foldl | with_reducible apply Seen.foldl_fst | split | dsimp only

theorem State.setChk_seen {o : State} {s : State} {key : Nat} {e : BitVec 8} (h_s : Seen o s) :
    Seen o (State.setChk s key e) := by
  unfold State.setChk
  repeat' first | with_reducible assumption | intro _ | exact rfl | simp only [Seen.fields] | exact VoiceCore.tlbFill_seen | with_reducible apply Seen.ite | with_reducible apply Seen.foldl | with_reducible apply Seen.foldl_fst | split | dsimp only

theorem State.flipData_seen {o : State} {s : State} {line : Nat} {beat : Nat} {i : Nat} (h_s : Seen o s) :
    Seen o (State.flipData s line beat i) := by
  unfold State.flipData
  repeat' first | with_reducible assumption | intro _ | exact rfl | simp only [Seen.fields] | exact VoiceCore.tlbFill_seen | with_reducible apply Seen.ite | with_reducible apply Seen.foldl | with_reducible apply Seen.foldl_fst | split | dsimp only

theorem State.readBeat_seen {o : State} {s : State} {rk : RdKind} {line : Nat} {beat : Nat} (h_s : Seen o s) :
    Seen o (State.readBeat s rk line beat).1 := by
  unfold State.readBeat
  repeat' first | with_reducible assumption | intro _ | exact rfl | with_reducible apply State.logCe_seen | with_reducible apply State.setChk_seen | with_reducible apply State.flipData_seen | with_reducible apply State.logUe_seen | simp only [Seen.fields] | exact VoiceCore.tlbFill_seen | with_reducible apply Seen.ite | with_reducible apply Seen.foldl | with_reducible apply Seen.foldl_fst | split | dsimp only

theorem State.readBeats_seen {o : State} {s : State} {rk : RdKind} {line : Nat} {beats : List Nat} (h_s : Seen o s) :
    Seen o (State.readBeats s rk line beats).1 := by
  unfold State.readBeats
  repeat' first | with_reducible assumption | intro _ | exact rfl | with_reducible apply State.readBeat_seen | simp only [Seen.fields] | exact VoiceCore.tlbFill_seen | with_reducible apply Seen.ite | with_reducible apply Seen.foldl | with_reducible apply Seen.foldl_fst | split | dsimp only

theorem State.produceEnd_seen {o : State} {s : State} {status : Word} (h_s : Seen o s) :
    Seen o (State.produceEnd s status) := by
  unfold State.produceEnd
  repeat' first | with_reducible assumption | intro _ | exact rfl | with_reducible apply State.produceB_seen | simp only [Seen.fields] | exact VoiceCore.tlbFill_seen | with_reducible apply Seen.ite | with_reducible apply Seen.foldl | with_reducible apply Seen.foldl_fst | split | dsimp only

theorem State.putLine_seen {o : State} {s : State} {l : CacheLine} (h_s : Seen o s) :
    Seen o (State.putLine s l) := by
  unfold State.putLine
  repeat' first | with_reducible assumption | intro _ | exact rfl | simp only [Seen.fields] | exact VoiceCore.tlbFill_seen | with_reducible apply Seen.ite | with_reducible apply Seen.foldl | with_reducible apply Seen.foldl_fst | split | dsimp only

theorem State.clearResv_seen {o : State} {s : State} {line : Nat} {p : Fin 12 → Bool} (h_s : Seen o s) :
    Seen o (State.clearResv s line p) := by
  unfold State.clearResv
  repeat'
    first
    | with_reducible assumption | intro _ | with_reducible apply Seen.mapCores
    | simp only [Seen.fields] | exact rfl | exact VoiceCore.tlbFill_seen
    | with_reducible apply Seen.ite | split | dsimp only

theorem State.dropLine_seen {o : State} {s : State} {line : Nat} (h_s : Seen o s) :
    Seen o (State.dropLine s line) := by
  unfold State.dropLine
  repeat'
    first
    | with_reducible assumption | intro _ | with_reducible apply State.clearResv_seen
    | with_reducible apply Seen.mapCores
    | simp only [Seen.fields] | exact rfl | exact VoiceCore.tlbFill_seen
    | with_reducible apply Seen.ite | split | dsimp only

theorem State.dropSection_seen {o : State} {s : State} {sec : Fin 3} {line : Nat} (h_s : Seen o s) :
    Seen o (State.dropSection s sec line) := by
  unfold State.dropSection
  repeat'
    first
    | with_reducible assumption | intro _ | with_reducible apply State.clearResv_seen
    | with_reducible apply State.putLine_seen | with_reducible apply Seen.mapCores
    | simp only [Seen.fields] | exact rfl | exact VoiceCore.tlbFill_seen
    | with_reducible apply Seen.ite | split | dsimp only

theorem State.dropSite_seen {o : State} {s : State} {site : CacheSite} {line : Nat} (h_s : Seen o s) :
    Seen o (State.dropSite s site line) := by
  unfold State.dropSite
  repeat'
    first
    | with_reducible assumption | intro _ | with_reducible apply State.clearResv_seen
    | with_reducible apply State.dropSection_seen | with_reducible apply State.putLine_seen
    | with_reducible apply Seen.mapCores
    | simp only [Seen.fields] | exact rfl | exact VoiceCore.tlbFill_seen
    | with_reducible apply Seen.ite | split | dsimp only

theorem State.settleLine_seen {o : State} {s : State} {line : Nat} {ws : List WrWord} (h_s : Seen o s) :
    Seen o (State.settleLine s line ws) := by
  unfold State.settleLine
  repeat'
    first
    | with_reducible assumption | intro _ | with_reducible apply State.putLine_seen
    | simp only [Seen.fields] | exact rfl | exact VoiceCore.tlbFill_seen
    | with_reducible apply Seen.ite | split | dsimp only

theorem State.snoopWrite_seen {o : State} {s : State} {line : Nat} {ws : List WrWord} (h_s : Seen o s) :
    Seen o (State.snoopWrite s line ws) := by
  unfold State.snoopWrite
  extract_lets e1
  have h_e1 : Seen o e1 := by
    dsimp only [e1]
    repeat'
      first
      | with_reducible assumption | intro _ | with_reducible apply State.clearResv_seen
      | with_reducible apply State.putLine_seen | with_reducible apply Seen.mapCores

      | simp only [Seen.fields] | exact rfl | exact VoiceCore.tlbFill_seen
      | with_reducible apply Seen.ite | with_reducible apply Seen.foldl
      | with_reducible apply Seen.foldl_fst | split | dsimp only
  try clear_value e1
  repeat'
    first
    | with_reducible assumption | intro _ | with_reducible apply State.clearResv_seen
    | with_reducible apply State.putLine_seen | with_reducible apply Seen.mapCores
    | simp only [Seen.fields] | exact rfl | exact VoiceCore.tlbFill_seen
    | with_reducible apply Seen.ite | with_reducible apply Seen.foldl
    | with_reducible apply Seen.foldl_fst | split | dsimp only

theorem State.writeBeat_seen {o : State} {s : State} {line : Nat} {beat : Nat} {ws : List WrWord} (h_s : Seen o s) :
    Seen o (State.writeBeat s line beat ws) := by
  unfold State.writeBeat
  extract_lets e1 e2 e3 e4 e5
  have h_e2 : Seen o e2.1 := by
    dsimp only [e2]
    repeat' first | with_reducible assumption | intro _ | exact rfl | with_reducible apply State.readBeat_seen | with_reducible apply State.setChk_seen | simp only [Seen.fields] | exact VoiceCore.tlbFill_seen | with_reducible apply Seen.ite | with_reducible apply Seen.foldl | with_reducible apply Seen.foldl_fst | split | dsimp only
  have h_e4 : Seen o e4 := by
    dsimp only [e4]
    repeat' first | with_reducible assumption | intro _ | exact rfl | with_reducible apply State.readBeat_seen | with_reducible apply State.setChk_seen | simp only [Seen.fields] | exact VoiceCore.tlbFill_seen | with_reducible apply Seen.ite | with_reducible apply Seen.foldl | with_reducible apply Seen.foldl_fst | split | dsimp only
  have h_e5 : Seen o e5 := by
    dsimp only [e5]
    repeat' first | with_reducible assumption | intro _ | exact rfl | with_reducible apply State.readBeat_seen | with_reducible apply State.setChk_seen | simp only [Seen.fields] | exact VoiceCore.tlbFill_seen | with_reducible apply Seen.ite | with_reducible apply Seen.foldl | with_reducible apply Seen.foldl_fst | split | dsimp only
  (try clear_value e2)
  (try clear_value e4)
  (try clear_value e5)
  repeat' first | with_reducible assumption | intro _ | exact rfl | with_reducible apply State.readBeat_seen | with_reducible apply State.setChk_seen | simp only [Seen.fields] | exact VoiceCore.tlbFill_seen | with_reducible apply Seen.ite | with_reducible apply Seen.foldl | with_reducible apply Seen.foldl_fst | split | dsimp only

theorem State.writeDram_seen {o : State} {s : State} {line : Nat} {ws : List WrWord} (h_s : Seen o s) :
    Seen o (State.writeDram s line ws) := by
  unfold State.writeDram
  extract_lets e1
  have h_e1 : Seen o e1 := by
    dsimp only [e1]
    repeat' first | with_reducible assumption | intro _ | exact rfl | with_reducible apply State.writeBeat_seen | simp only [Seen.fields] | exact VoiceCore.tlbFill_seen | with_reducible apply Seen.ite | with_reducible apply Seen.foldl | with_reducible apply Seen.foldl_fst | split | dsimp only
  (try clear_value e1)
  repeat' first | with_reducible assumption | intro _ | exact rfl | with_reducible apply State.writeBeat_seen | simp only [Seen.fields] | exact VoiceCore.tlbFill_seen | with_reducible apply Seen.ite | with_reducible apply Seen.foldl | with_reducible apply Seen.foldl_fst | split | dsimp only

theorem State.writeStage_seen {o : State} {s : State} {ws : List WrWord} (h_s : Seen o s) :
    Seen o (State.writeStage s ws) := by
  unfold State.writeStage
  repeat' first | with_reducible assumption | intro _ | exact rfl | simp only [Seen.fields] | exact VoiceCore.tlbFill_seen | with_reducible apply Seen.ite | with_reducible apply Seen.foldl | with_reducible apply Seen.foldl_fst | split | dsimp only

theorem State.echoCopy_seen {o : State} {s : State} {line : Nat} (h_s : Seen o s) :
    Seen o (State.echoCopy s line) := by
  unfold State.echoCopy
  extract_lets e1 e2 e3 e4
  have h_e1 : Seen o e1.1 := by
    dsimp only [e1]
    repeat' first | with_reducible assumption | intro _ | exact rfl | with_reducible apply State.readBeats_seen | simp only [Seen.fields] | exact VoiceCore.tlbFill_seen | with_reducible apply Seen.ite | with_reducible apply Seen.foldl | with_reducible apply Seen.foldl_fst | split | dsimp only
  have h_e2 : Seen o e2 := by
    dsimp only [e2]
    repeat' first | with_reducible assumption | intro _ | exact rfl | with_reducible apply State.readBeats_seen | simp only [Seen.fields] | exact VoiceCore.tlbFill_seen | with_reducible apply Seen.ite | with_reducible apply Seen.foldl | with_reducible apply Seen.foldl_fst | split | dsimp only
  (try clear_value e1)
  (try clear_value e2)
  repeat' first | with_reducible assumption | intro _ | exact rfl | with_reducible apply State.readBeats_seen | simp only [Seen.fields] | exact VoiceCore.tlbFill_seen | with_reducible apply Seen.ite | with_reducible apply Seen.foldl | with_reducible apply Seen.foldl_fst | split | dsimp only

theorem State.store_seen {o : State} {s : State} {line : Nat} {ws : List WrWord} (h_s : Seen o s) :
    Seen o (State.store s line ws) := by
  unfold State.store
  extract_lets e1
  try clear_value e1
  repeat'
    first
    | with_reducible assumption | intro _ | with_reducible apply State.writeDram_seen
    | with_reducible apply State.writeStage_seen
    | simp only [Seen.fields] | exact rfl | exact VoiceCore.tlbFill_seen
    | with_reducible apply Seen.ite | split | dsimp only

theorem State.performed_seen {o : State} {s : State} {x : Stalled} {ws : List WrWord} (h_s : Seen o s) :
    Seen o (State.performed s x ws) := by
  unfold State.performed
  repeat'
    first
    | with_reducible assumption | intro _ | with_reducible apply State.echoCopy_seen
    | with_reducible apply State.store_seen
    | simp only [Seen.fields] | exact rfl | exact VoiceCore.tlbFill_seen
    | with_reducible apply Seen.ite | split | dsimp only

theorem State.complete_seen {o : State} {s : State} {later : List Stalled} {x : Stalled} (h_s : Seen o s) :
    Seen o (State.complete s later x) := by
  unfold State.complete
  repeat'
    first
    | with_reducible assumption | intro _ | with_reducible apply State.clearResv_seen
    | with_reducible apply State.dropLine_seen | with_reducible apply State.dropSite_seen
    | with_reducible apply State.performed_seen | with_reducible apply State.settleLine_seen
    | with_reducible apply State.snoopWrite_seen | with_reducible apply Seen.mapCores
    | simp only [Seen.fields] | exact rfl | exact VoiceCore.tlbFill_seen
    | with_reducible apply Seen.ite | split | dsimp only

theorem State.tell_seen {o : State} {s : State} {d : DmaDone} (h_s : Seen o s) :
    Seen o (State.tell s d) := by
  unfold State.tell
  repeat'
    first
    | with_reducible assumption | intro _
    | simp only [Seen.fields] | exact rfl | exact VoiceCore.tlbFill_seen
    | with_reducible apply Seen.ite | split | dsimp only

theorem State.tryWrite_seen {o : State} {s : State} {later : List Stalled} {x : Stalled} (h_s : Seen o s) :
    Seen o (State.tryWrite s later x).1 := by
  unfold State.tryWrite
  repeat'
    first
    | with_reducible assumption | intro _ | with_reducible apply State.complete_seen
    | with_reducible apply State.tell_seen
    | simp only [Seen.fields] | exact rfl | exact VoiceCore.tlbFill_seen
    | with_reducible apply Seen.ite | with_reducible apply Seen.foldl
    | with_reducible apply Seen.foldl_fst | split | dsimp only

theorem State.retryAll_seen {o : State} {s : State} {a0 : List Stalled} (h_s : Seen o s) :
    Seen o (State.retryAll s a0) := by
  induction a0 generalizing s with
  | nil => exact h_s
  | cons x xs ih =>
    unfold State.retryAll
    repeat' first | with_reducible assumption | intro _ | with_reducible apply ih | with_reducible apply State.tryWrite_seen | simp only [Seen.fields] | exact rfl | exact VoiceCore.tlbFill_seen | with_reducible apply Seen.ite | split | dsimp only

theorem State.retryStalled_seen {o : State} {s : State} (h_s : Seen o s) :
    Seen o (State.retryStalled s) := by
  unfold State.retryStalled
  repeat'
    first
    | with_reducible assumption | intro _ | with_reducible apply State.retryAll_seen
    | simp only [Seen.fields] | exact rfl | exact VoiceCore.tlbFill_seen
    | with_reducible apply Seen.ite | split | dsimp only

theorem State.spillDone_seen {o : State} {s : State} {a : Nat} {ws : List Word} (h_s : Seen o s) :
    Seen o (State.spillDone s a ws) := by
  unfold State.spillDone
  extract_lets e1
  have h_e1 : Seen o e1 := by
    dsimp only [e1]
    repeat'
      first
      | with_reducible assumption | intro _ | with_reducible apply State.complete_seen

      | simp only [Seen.fields] | exact rfl | exact VoiceCore.tlbFill_seen
      | with_reducible apply Seen.ite | split | dsimp only
  try clear_value e1
  repeat'
    first
    | with_reducible assumption | intro _ | with_reducible apply State.complete_seen
    | simp only [Seen.fields] | exact rfl | exact VoiceCore.tlbFill_seen
    | with_reducible apply Seen.ite | split | dsimp only

theorem State.spillAll_seen {o : State} {s : State} {a0 : Nat} (h_s : Seen o s) :
    Seen o (State.spillAll s a0) := by
  induction a0 generalizing s with
  | zero => exact h_s
  | succ n ih =>
    unfold State.spillAll
    repeat' first | with_reducible assumption | intro _ | with_reducible apply ih | with_reducible apply State.spillDone_seen | simp only [Seen.fields] | exact rfl | exact VoiceCore.tlbFill_seen | with_reducible apply Seen.ite | split | dsimp only

theorem State.abandonStream_seen {o : State} {s : State} {sessionLost : Bool} (h_s : Seen o s) :
    Seen o (State.abandonStream s sessionLost) := by
  unfold State.abandonStream
  repeat'
    first
    | with_reducible assumption | intro _ | with_reducible apply State.produceEnd_seen
    | with_reducible apply State.retryStalled_seen | with_reducible apply State.spillAll_seen
    | simp only [Seen.fields] | exact rfl | exact VoiceCore.tlbFill_seen
    | with_reducible apply Seen.ite | split | dsimp only

theorem State.spillOut_seen {o : State} {s : State} {a0 : Nat} (h_s : Seen o s) :
    Seen o (State.spillOut s a0) := by
  induction a0 generalizing s with
  | zero => exact h_s
  | succ n ih =>
    unfold State.spillOut
    repeat' first | with_reducible assumption | intro _ | with_reducible apply ih | with_reducible apply State.abandonStream_seen | with_reducible apply State.spillAll_seen | simp only [Seen.fields] | exact rfl | exact VoiceCore.tlbFill_seen | with_reducible apply Seen.ite | split | dsimp only

theorem State.produceB_seen {o : State} {s : State} {ft : BitVec 3} {payload : List Word} (h_s : Seen o s) :
    Seen o (State.produceB s ft payload) := by
  unfold State.produceB
  repeat'
    first
    | with_reducible assumption | intro _ | with_reducible apply State.spillOut_seen
    | simp only [Seen.fields] | exact rfl | exact VoiceCore.tlbFill_seen
    | with_reducible apply Seen.ite | split | dsimp only

theorem State.refill_seen {o : State} {s : State} (h_s : Seen o s) :
    Seen o (State.refill s) := by
  unfold State.refill
  extract_lets e1
  try clear_value e1
  repeat'
    first
    | with_reducible assumption | intro _ | with_reducible apply State.spillOut_seen
    | simp only [Seen.fields] | exact rfl | exact VoiceCore.tlbFill_seen
    | with_reducible apply Seen.ite | split | dsimp only

theorem State.writeLine_seen {o : State} {s : State} {x : Stalled} (h_s : Seen o s) :
    Seen o (State.writeLine s x).1 := by
  unfold State.writeLine
  repeat' first | with_reducible assumption | intro _ | exact rfl | with_reducible apply State.tryWrite_seen | with_reducible apply State.abandonStream_seen | simp only [Seen.fields] | exact VoiceCore.tlbFill_seen | with_reducible apply Seen.ite | with_reducible apply Seen.foldl | with_reducible apply Seen.foldl_fst | split | dsimp only

theorem State.cleanWords_seen {o : State} {s : State} {who : Option Initiator} {line : Nat} {drop : Option CacheSite}
  {keep : Nat → Bool} (h_s : Seen o s) :
    Seen o (State.cleanWords s who line drop keep).1 := by
  unfold State.cleanWords
  extract_lets e1
  try clear_value e1
  repeat'
    first
    | with_reducible assumption | intro _ | with_reducible apply State.dropSite_seen
    | with_reducible apply State.writeLine_seen
    | simp only [Seen.fields] | exact rfl | exact VoiceCore.tlbFill_seen
    | with_reducible apply Seen.ite | split | dsimp only

theorem State.cleanLine_seen {o : State} {s : State} {who : Option Initiator} {line : Nat}
  {drop : Option CacheSite} (h_s : Seen o s) :
    Seen o (State.cleanLine s who line drop).1 := by
  unfold State.cleanLine
  repeat'
    first
    | with_reducible assumption | intro _ | with_reducible apply State.cleanWords_seen
    | simp only [Seen.fields] | exact rfl | exact VoiceCore.tlbFill_seen
    | with_reducible apply Seen.ite | split | dsimp only

theorem State.roomL3_seen {o : State} {s : State} {who : Option Initiator} {line : Nat} (h_s : Seen o s) :
    Seen o (State.roomL3 s who line).1 := by
  unfold State.roomL3
  repeat'
    first
    | with_reducible assumption | with_reducible apply State.draw_seen | intro _ | with_reducible apply State.cleanLine_seen
    | simp only [Seen.fields] | exact rfl | exact VoiceCore.tlbFill_seen
    | with_reducible apply Seen.ite | split | dsimp only

theorem State.evict2_seen {o : State} {s : State} {who : Option Initiator} {sec : Fin 3} {line : Nat} (h_s : Seen o s) :
    Seen o (State.evict2 s who sec line).1 := by
  unfold State.evict2
  repeat'
    first
    | with_reducible assumption | intro _ | with_reducible apply State.cleanLine_seen
    | with_reducible apply State.clearResv_seen | with_reducible apply State.dropSection_seen
    | with_reducible apply State.putLine_seen | with_reducible apply State.roomL3_seen
    | with_reducible apply Seen.mapCores
    | simp only [Seen.fields] | exact rfl | exact VoiceCore.tlbFill_seen
    | with_reducible apply Seen.ite | split | dsimp only

theorem State.roomL2_seen {o : State} {s : State} {who : Option Initiator} {sec : Fin 3} {line : Nat} (h_s : Seen o s) :
    Seen o (State.roomL2 s who sec line).1 := by
  unfold State.roomL2
  repeat'
    first
    | with_reducible assumption | with_reducible apply State.draw_seen | intro _ | with_reducible apply State.evict2_seen
    | simp only [Seen.fields] | exact rfl | exact VoiceCore.tlbFill_seen
    | with_reducible apply Seen.ite | split | dsimp only

theorem State.fillLine_seen {o : State} {s : State} {sec : Fin 3} {w : Nat} {line : Nat} (h_s : Seen o s) :
    Seen o (State.fillLine s sec w line) := by
  unfold State.fillLine
  extract_lets e1 e2
  have h_p1 : Seen o e1.1 := by
    dsimp only [e1]
    repeat'
      first
      | with_reducible assumption | intro _ | with_reducible apply State.putLine_seen
      | with_reducible apply State.readBeats_seen

      | simp only [Seen.fields] | exact rfl | exact VoiceCore.tlbFill_seen
      | with_reducible apply Seen.ite | split | dsimp only
  have h_e2 : Seen o e2 := by
    dsimp only [e2]
    repeat'
      first
      | with_reducible assumption | intro _ | with_reducible apply State.putLine_seen
      | with_reducible apply State.readBeats_seen

      | simp only [Seen.fields] | exact rfl | exact VoiceCore.tlbFill_seen
      | with_reducible apply Seen.ite | split | dsimp only
  try clear_value e1
  try clear_value e2
  repeat'
    first
    | with_reducible assumption | intro _ | with_reducible apply State.putLine_seen
    | with_reducible apply State.readBeats_seen
    | simp only [Seen.fields] | exact rfl | exact VoiceCore.tlbFill_seen
    | with_reducible apply Seen.ite | split | dsimp only

theorem State.bringL2_seen {o : State} {s : State} {c : Fin 12} {line : Nat} (h_s : Seen o s) :
    Seen o (State.bringL2 s c line).1 := by
  unfold State.bringL2
  extract_lets e1
  try clear_value e1
  repeat'
    first
    | with_reducible assumption | intro _ | with_reducible apply State.cleanLine_seen
    | with_reducible apply State.fillLine_seen | with_reducible apply State.putLine_seen
    | with_reducible apply State.roomL2_seen
    | simp only [Seen.fields] | exact rfl | exact VoiceCore.tlbFill_seen
    | with_reducible apply Seen.ite | split | dsimp only

theorem State.roomL1_seen {o : State} {s : State} {insn : Bool} {c : Fin 12} {line : Nat} (h_s : Seen o s) :
    Seen o (State.roomL1 s insn c line) := by
  unfold State.roomL1
  extract_lets e1
  try clear_value e1
  repeat'
    first
    | with_reducible assumption | with_reducible apply State.draw_seen | intro _ | with_reducible apply State.dropSite_seen
    | simp only [Seen.fields] | exact rfl | exact VoiceCore.tlbFill_seen
    | with_reducible apply Seen.ite | split | dsimp only

theorem State.bring_seen {o : State} {s : State} {c : Fin 12} {line : Nat} {insn : Bool} (h_s : Seen o s) :
    Seen o (State.bring s c line insn).1 := by
  unfold State.bring
  extract_lets e1
  have h_p1 : Seen o e1.1 := by
    dsimp only [e1]
    repeat'
      first
      | with_reducible assumption | intro _ | with_reducible apply State.bringL2_seen
      | with_reducible apply State.putLine_seen | with_reducible apply State.roomL1_seen

      | simp only [Seen.fields] | exact rfl | exact VoiceCore.tlbFill_seen
      | with_reducible apply Seen.ite | split | dsimp only
  try clear_value e1
  repeat'
    first
    | with_reducible assumption | intro _ | with_reducible apply State.bringL2_seen
    | with_reducible apply State.putLine_seen | with_reducible apply State.roomL1_seen
    | simp only [Seen.fields] | exact rfl | exact VoiceCore.tlbFill_seen
    | with_reducible apply Seen.ite | split | dsimp only

theorem State.bringInsn_seen {o : State} {s : State} {c : Fin 12} {line : Nat} (h_s : Seen o s) :
    Seen o (State.bringInsn s c line).1 := by
  unfold State.bringInsn
  repeat' first | with_reducible assumption | intro _ | exact rfl | with_reducible apply State.bring_seen | simp only [Seen.fields] | exact VoiceCore.tlbFill_seen | with_reducible apply Seen.ite | with_reducible apply Seen.foldl | with_reducible apply Seen.foldl_fst | split | dsimp only



theorem State.modMc_seen {o : State} {s : State} {f : MemCtl → MemCtl} (h_s : Seen o s) :
    Seen o (State.modMc s f) := by
  unfold State.modMc
  repeat'
    first
    | with_reducible assumption | intro _
    | simp only [Seen.fields] | exact rfl | exact VoiceCore.tlbFill_seen
    | with_reducible apply Seen.ite | split | dsimp only

theorem State.scrub_seen {o : State} {s : State} (h_s : Seen o s) :
    Seen o (State.scrub s) := by
  unfold State.scrub
  extract_lets e1 e2
  have h_e2 : Seen o e2 := by
    dsimp only [e2]
    repeat'
      first
      | with_reducible assumption | intro _ | with_reducible apply State.modMc_seen
      | with_reducible apply State.readBeats_seen

      | simp only [Seen.fields] | exact rfl | exact VoiceCore.tlbFill_seen
      | with_reducible apply Seen.ite | split | dsimp only
  try clear_value e1
  try clear_value e2
  repeat'
    first
    | with_reducible assumption | intro _ | with_reducible apply State.modMc_seen
    | with_reducible apply State.readBeats_seen
    | simp only [Seen.fields] | exact rfl | exact VoiceCore.tlbFill_seen
    | with_reducible apply Seen.ite | split | dsimp only

theorem State.enterSlot_seen {o : State} {s : State} {c : Fin 12} (h_s : Seen o s) :
    Seen o (State.enterSlot s c) := by
  unfold State.enterSlot
  repeat' first | with_reducible assumption | intro _ | exact rfl | with_reducible apply State.modCbar_seen | simp only [Seen.fields] | exact VoiceCore.tlbFill_seen | with_reducible apply Seen.ite | with_reducible apply Seen.foldl | with_reducible apply Seen.foldl_fst | split | dsimp only

theorem raise_seen {o : State} {α : Type} {code : BitVec 9} {detail : DWord} : Unseen o (raise code detail : Exec α) := Unseen.throw

theorem Req.fault_seen {o : State} {α : Type} {r : Req} {w : WalkOf} {code : BitVec 7} : Unseen o (r.fault w code : Exec α) := Unseen.throw

theorem Req.readEntry_seen {o : State} {r : Req} {w : WalkOf} {level : Nat} {addr : PAddr} :
    Unseen o (Req.readEntry r w level addr) := by
  unfold Req.readEntry
  repeat' first | with_reducible assumption | intro _ | exact rfl | with_reducible apply Req.fault_seen | with_reducible apply State.bringL2_seen | with_reducible apply Unseen.get | with_reducible apply Unseen.modify | with_reducible apply Unseen.set | with_reducible apply Unseen.pure | with_reducible apply Unseen.throw | with_reducible apply Unseen.bind | simp only [Seen.fields] | exact VoiceCore.tlbFill_seen | with_reducible apply Seen.ite | with_reducible apply Seen.foldl | with_reducible apply Seen.foldl_fst | split | dsimp only

theorem Req.entry_seen {o : State} {r : Req} {w : WalkOf} {level : Nat} {addr : PAddr} :
    Unseen o (Req.entry r w level addr) := by
  unfold Req.entry
  repeat' first | with_reducible assumption | intro _ | exact rfl | with_reducible apply State.draw_seen | with_reducible apply Req.readEntry_seen | with_reducible apply Unseen.get | with_reducible apply Unseen.modify | with_reducible apply Unseen.set | with_reducible apply Unseen.pure | with_reducible apply Unseen.throw | with_reducible apply Unseen.bind | simp only [Seen.fields] | exact VoiceCore.tlbFill_seen | with_reducible apply Seen.ite | with_reducible apply Seen.foldl | with_reducible apply Seen.foldl_fst | split | dsimp only

theorem Req.hold_seen {o : State} {r : Req} {w : WalkOf} {level : Nat} {addr : PAddr} {value : DWord} :
    Unseen o (Req.hold r w level addr value) := by
  unfold Req.hold
  repeat' first | with_reducible assumption | intro _ | exact rfl | with_reducible apply Seen.modCore | with_reducible apply Unseen.get | with_reducible apply Unseen.modify | with_reducible apply Unseen.set | with_reducible apply Unseen.pure | with_reducible apply Unseen.throw | with_reducible apply Unseen.bind | simp only [Seen.fields] | exact VoiceCore.tlbFill_seen | with_reducible apply Seen.ite | with_reducible apply Seen.foldl | with_reducible apply Seen.foldl_fst | split | dsimp only

theorem Req.walk_seen {o : State} {r : Req} {w : WalkOf} {addrOf : PAddr → Exec PAddr} {input n : Nat} {table : PAddr}
    (h : ∀ a, Unseen o (addrOf a)) : Unseen o (r.walk w addrOf input n table) := by
  induction n generalizing table with
  | zero => exact Unseen.throw
  | succ n ih =>
    unfold Req.walk
    repeat' first | assumption | intro _ | exact ih | exact h _ | exact Req.fault_seen | apply Req.hold_seen | apply Req.entry_seen | apply Unseen.pure | apply Unseen.bind | split | dsimp only

theorem Req.stage2_seen {o : State} {r : Req} {s1w : Bool} {acc : Acc} {gwa : PAddr} : Unseen o (r.stage2 s1w acc gwa) :=
  Req.walk_seen fun _ => Unseen.pure

theorem Req.tableAddr_seen {o : State} {r : Req} {gwa : PAddr} :
    Unseen o (Req.tableAddr r gwa) := by
  unfold Req.tableAddr
  repeat' first | with_reducible assumption | intro _ | exact rfl | with_reducible apply Req.stage2_seen | with_reducible apply Unseen.get | with_reducible apply Unseen.modify | with_reducible apply Unseen.set | with_reducible apply Unseen.pure | with_reducible apply Unseen.throw | with_reducible apply Unseen.bind | simp only [Seen.fields] | exact VoiceCore.tlbFill_seen | with_reducible apply Seen.ite | with_reducible apply Seen.foldl | with_reducible apply Seen.foldl_fst | split | dsimp only

theorem Req.stage1_seen {o : State} {r : Req} : Unseen o r.stage1 := Req.walk_seen fun _ => Req.tableAddr_seen

theorem Req.walkAll_seen {o : State} {r : Req} :
    Unseen o (Req.walkAll r) := by
  unfold Req.walkAll
  repeat' first | with_reducible assumption | intro _ | exact rfl | with_reducible apply Req.stage1_seen | with_reducible apply Req.stage2_seen | with_reducible apply Unseen.get | with_reducible apply Unseen.modify | with_reducible apply Unseen.set | with_reducible apply Unseen.pure | with_reducible apply Unseen.throw | with_reducible apply Unseen.bind | simp only [Seen.fields] | exact VoiceCore.tlbFill_seen | with_reducible apply Seen.ite | with_reducible apply Seen.foldl | with_reducible apply Seen.foldl_fst | split | dsimp only

theorem Req.refill_seen {o : State} {r : Req} : Unseen o (Req.refill r) := by
  constructor
  · intro s b t hs e
    unfold Req.refill at e
    split at e
    · cases e
      rename_i h
      exact Seen.modCore (Req.walkAll_seen.ok s _ _ hs h) fun v => VoiceCore.tlbFill_seen
    · cases e
  · intro s x t hs e
    unfold Req.refill at e
    split at e
    · cases e
    · cases e
      rename_i h
      exact Seen.modCore (Req.walkAll_seen.err s _ _ hs h) fun v => rfl

theorem Req.useHeld_seen {o : State} {r : Req} {e : TlbEntry} : Unseen o (Req.useHeld r e) := by
  unfold Req.useHeld
  split
  · exact Req.fault_seen
  · split
    · exact Req.fault_seen
    · exact Unseen.pure

theorem Req.translate_seen {o : State} {r : Req} :
    Unseen o (Req.translate r) := by
  unfold Req.translate
  repeat' first | with_reducible assumption | intro _ | exact rfl | with_reducible apply State.draw_seen | with_reducible apply Req.refill_seen | with_reducible apply Req.useHeld_seen | with_reducible apply Unseen.get | with_reducible apply Unseen.modify | with_reducible apply Unseen.set | with_reducible apply Unseen.pure | with_reducible apply Unseen.throw | with_reducible apply Unseen.bind | simp only [Seen.fields] | exact VoiceCore.tlbFill_seen | with_reducible apply Seen.ite | with_reducible apply Seen.foldl | with_reducible apply Seen.foldl_fst | split | dsimp only

theorem State.xlatRegs_seen {o : State} {s : State} {c : Fin 12} (h_s : Seen o s) :
    Seen o (State.xlatRegs s c).2 := by
  unfold State.xlatRegs
  repeat' first | with_reducible assumption | intro _ | exact rfl | simp only [Seen.fields] | exact VoiceCore.tlbFill_seen | with_reducible apply Seen.ite | with_reducible apply Seen.foldl | with_reducible apply Seen.foldl_fst | split | dsimp only

theorem reqOf_seen {o : State} {c : Fin 12} {acc : Acc} {ptr : DWord} :
    Unseen o (reqOf c acc ptr) := by
  unfold reqOf
  repeat' first | with_reducible assumption | intro _ | exact rfl | with_reducible apply State.xlatRegs_seen | with_reducible apply Unseen.get | with_reducible apply Unseen.modify | with_reducible apply Unseen.set | with_reducible apply Unseen.pure | with_reducible apply Unseen.throw | with_reducible apply Unseen.bind | simp only [Seen.fields] | exact VoiceCore.tlbFill_seen | with_reducible apply Seen.ite | with_reducible apply Seen.foldl | with_reducible apply Seen.foldl_fst | split | dsimp only

theorem State.backErrors_nil {s : State} {line : Nat} : s.backErrors line [] = s := rfl

theorem cleanFirst_seen {o : State} {c : Fin 12} {a : Nat} :
    Unseen o (cleanFirst c [] a) := by
  unfold cleanFirst
  repeat'
    first
    | with_reducible assumption | intro _ | with_reducible apply Unseen.get | with_reducible apply Unseen.bind
    | with_reducible apply Unseen.set | with_reducible apply Unseen.modify
    | with_reducible apply Unseen.pure | with_reducible apply Unseen.throw
    | rw [State.backErrors_nil] | with_reducible apply State.cleanLine_seen
    | simp only [Seen.fields] | exact rfl | exact VoiceCore.tlbFill_seen
    | with_reducible apply Seen.ite | split | dsimp only

theorem fetchFrom_seen {o : State} {c : Fin 12} {p : DWord} {a : Nat} {bad : BitVec 24}  :
    Unseen o (fetchFrom c p a bad) := by
  unfold fetchFrom
  repeat'
    first
    | with_reducible assumption | intro _ | with_reducible apply Unseen.get | with_reducible apply Unseen.bind
    | with_reducible apply Unseen.set | with_reducible apply Unseen.modify
    | with_reducible apply Unseen.pure | with_reducible apply Unseen.throw | with_reducible apply raise_seen
    | with_reducible apply Seen.modCore
    | simp only [Seen.fields] | exact rfl | exact VoiceCore.tlbFill_seen
    | with_reducible apply Seen.ite | split | dsimp only

theorem voiceFetch_seen {o : State} {c : Fin 12} {p : DWord}  :
    Unseen o (voiceFetch c [] p) := by
  unfold voiceFetch
  repeat'
    first
    | with_reducible assumption | intro _ | with_reducible apply Unseen.get | with_reducible apply Unseen.bind
    | with_reducible apply Unseen.set | with_reducible apply Unseen.modify
    | with_reducible apply Unseen.pure | with_reducible apply Unseen.throw
    | with_reducible apply State.bringInsn_seen | with_reducible apply State.readBeats_seen
    | with_reducible apply cleanFirst_seen | with_reducible apply fetchFrom_seen | with_reducible apply raise_seen
    | with_reducible apply Req.translate_seen | with_reducible apply reqOf_seen
    | simp only [Seen.fields] | exact rfl | exact VoiceCore.tlbFill_seen
    | with_reducible apply Seen.ite | split | dsimp only

theorem Seen.queue {o s : State} {q : List (Nat × Bool)} (h : Seen o s) : Seen o { s with cdr := { s.cdr with queue := q } } :=
  ⟨h.cores, h.cdr, h.csram, h.flash, h.xflash⟩

theorem cdrFetch_seen {o : State} {ups : List Upset} {p : DWord} : Unseen o (cdrFetch ups p) := by
  unfold cdrFetch
  refine Unseen.get fun s h => ?_
  extract_lets e1 e2 e3
  clear_value e1 e2
  split
  · exact raise_seen
  · split
    · exact raise_seen
    · split
      · exact raise_seen
      · exact Unseen.set h.queue

theorem fetchWord_seen {o : State} {k : Core} {f : Fetch} {p : DWord} (hf : f.ups = []) : Unseen o (fetchWord k f p) := by
  unfold fetchWord
  split
  · rw [hf]
    exact voiceFetch_seen
  · exact cdrFetch_seen

theorem fetchInsn_seen {o : State} {k : Core} {f : Fetch} {p : DWord} (hf : f.ups = []) :
    Unseen o (fetchInsn k f p) := by
  unfold fetchInsn
  repeat' first | with_reducible assumption | intro _ | exact rfl | with_reducible apply fetchWord_seen hf | with_reducible apply Unseen.get | with_reducible apply Unseen.modify | with_reducible apply Unseen.set | with_reducible apply Unseen.pure | with_reducible apply Unseen.throw | with_reducible apply Unseen.bind | simp only [Seen.fields] | exact VoiceCore.tlbFill_seen | with_reducible apply Seen.ite | with_reducible apply Seen.foldl | with_reducible apply Seen.foldl_fst | split | dsimp only

theorem decodeInsn_seen {o : State} {k : Core} {f : Fetch} {i : Insn} :
    Unseen o (decodeInsn k f i) := by
  unfold decodeInsn
  repeat' first | with_reducible assumption | intro _ | exact rfl | with_reducible apply raise_seen | with_reducible apply Unseen.get | with_reducible apply Unseen.modify | with_reducible apply Unseen.set | with_reducible apply Unseen.pure | with_reducible apply Unseen.throw | with_reducible apply Unseen.bind | simp only [Seen.fields] | exact VoiceCore.tlbFill_seen | with_reducible apply Seen.ite | with_reducible apply Seen.foldl | with_reducible apply Seen.foldl_fst | split | dsimp only

theorem State.enterAt_seen {o : State} {s : State} {a : Core} (h_s : Seen o s) :
    Seen o (State.enterAt s a) := by
  unfold State.enterAt
  repeat' first | with_reducible assumption | intro _ | exact rfl | with_reducible apply State.enterSlot_seen | simp only [Seen.fields] | exact VoiceCore.tlbFill_seen | with_reducible apply Seen.ite | with_reducible apply Seen.foldl | with_reducible apply Seen.foldl_fst | split | dsimp only

end Sys2Proof.Machine
end

