-- ==== Sys2Proof/Laws/Traced.lean ====
section
/-! SUPPORT. What retirement of an instruction changes besides its effect: the base lemmas. -/
set_option Elab.async false
set_option linter.all false
namespace Sys2Proof.Machine

/-- State `s` is `o` but for the trace of the sections and the latches of Chorus. -/
structure Traced (o s : State) : Prop where
  eq : s = { o with trace := s.trace, chorus := s.chorus }

theorem Traced.refl {s : State} : Traced s s := ⟨rfl⟩

theorem Traced.withTrace {o s : State} (h : Traced o s) (x : Vector TraceSec 3) : Traced o { s with trace := x } := ⟨by rw [h.eq]⟩

theorem Traced.withChorus {o s : State} (h : Traced o s) (x : Chorus) : Traced o { s with chorus := x } := ⟨by rw [h.eq]⟩

theorem Traced.edge {o s : State} {t n : Nat} (h : Traced o s) : Traced o (s.edge t n) := by
  unfold State.edge
  dsimp only
  split
  · exact h.withChorus _
  · exact h

theorem Traced.modTsec {o s : State} {sec : Fin 3} {f : TraceSec → TraceSec} (h : Traced o s) : Traced o (s.modTsec sec f) :=
  h.withTrace _

theorem Traced.ite {o : State} {c : Prop} [Decidable c] {s t : State} (hs : Traced o s) (ht : Traced o t) : Traced o (if c then s else t) := by
  split
  · exact hs
  · exact ht

theorem Traced.foldl {o : State} {α : Type} {f : State → α → State} {l : List α} {s : State} (h : Traced o s)
    (hf : ∀ s x, Traced o s → Traced o (f s x)) : Traced o (l.foldl f s) := by
  induction l generalizing s with
  | nil => exact h
  | cons x l ih => exact ih (hf s x h)

end Sys2Proof.Machine
end

