-- ==== Sys2Proof/Laws/TracedRetire.lean ====
section
/-! SUPPORT. What the trace unit of a core changes. -/
set_option Elab.async false
set_option linter.all false
namespace Sys2Proof.Machine

theorem State.modPart_traced {o : State} {s : State} {sec : Fin 3} {p : BitVec 4} {f : TracePart → TracePart} (h_s : Traced o s) :
    Traced o (State.modPart s sec p f) := by
  unfold State.modPart
  repeat' first | with_reducible assumption | intro _ | with_reducible apply Traced.modTsec | with_reducible apply h_f | with_reducible apply Traced.ite | with_reducible apply Traced.foldl | with_reducible apply Traced.foldl_fst | split | dsimp only

theorem State.emit_traced {o : State} {s : State} {sec : Fin 3} {core : Fin 4} {p : BitVec 4} {ty : Nat} {info : Nat} {rest : List Word} (h_s : Traced o s) :
    Traced o (State.emit s sec core p ty info rest) := by
  unfold State.emit
  repeat' first | with_reducible assumption | intro _ | with_reducible apply Traced.modTsec | with_reducible apply Traced.ite | with_reducible apply Traced.foldl | with_reducible apply Traced.foldl_fst | split | dsimp only

theorem State.flushAtom_traced {o : State} {s : State} {sec : Fin 3} {core : Fin 4} {p : BitVec 4} (h_s : Traced o s) :
    Traced o (State.flushAtom s sec core p) := by
  unfold State.flushAtom
  repeat' first | with_reducible assumption | intro _ | with_reducible apply Traced.modTsec | with_reducible apply State.emit_traced | with_reducible apply Traced.ite | with_reducible apply Traced.foldl | with_reducible apply Traced.foldl_fst | split | dsimp only

theorem State.packet_traced {o : State} {s : State} {sec : Fin 3} {core : Fin 4} {p : BitVec 4} {ty : Nat} {info : Nat} {rest : List Word} (h_s : Traced o s) :
    Traced o (State.packet s sec core p ty info rest) := by
  unfold State.packet
  repeat' first | with_reducible assumption | intro _ | with_reducible apply State.emit_traced | with_reducible apply State.flushAtom_traced | with_reducible apply Traced.ite | with_reducible apply Traced.foldl | with_reducible apply Traced.foldl_fst | split | dsimp only

theorem State.traceLeave_traced {o : State} {s : State} {c : Fin 12} {reason : Nat} (h_s : Traced o s) :
    Traced o (State.traceLeave s c reason) := by
  unfold State.traceLeave
  repeat' first | with_reducible assumption | intro _ | with_reducible apply Traced.modTsec | with_reducible apply State.packet_traced | with_reducible apply Traced.ite | with_reducible apply Traced.foldl | with_reducible apply Traced.foldl_fst | split | dsimp only

theorem State.traceLeaveAll_traced {o : State} {s : State} {sec : Fin 3} {p : BitVec 4} {reason : Nat} (h_s : Traced o s) :
    Traced o (State.traceLeaveAll s sec p reason) := by
  unfold State.traceLeaveAll
  repeat' first | with_reducible assumption | intro _ | with_reducible apply State.traceLeave_traced | with_reducible apply Traced.ite | with_reducible apply Traced.foldl | with_reducible apply Traced.foldl_fst | split | dsimp only

theorem State.traceStop_traced {o : State} {s : State} {sec : Fin 3} {p : BitVec 4} (h_s : Traced o s) :
    Traced o (State.traceStop s sec p) := by
  unfold State.traceStop
  extract_lets e1 e2 e3 e4
  have h_e2 : Traced o e2 := by
    dsimp only [e2]
    repeat' first | with_reducible assumption | intro _ | with_reducible apply State.packet_traced | with_reducible apply State.traceLeaveAll_traced | with_reducible apply Traced.modTsec | with_reducible apply Traced.edge | with_reducible apply Traced.ite | with_reducible apply Traced.foldl | with_reducible apply Traced.foldl_fst | split | dsimp only
  have h_e3 : Traced o e3 := by
    dsimp only [e3]
    repeat' first | with_reducible assumption | intro _ | with_reducible apply State.packet_traced | with_reducible apply State.traceLeaveAll_traced | with_reducible apply Traced.modTsec | with_reducible apply Traced.edge | with_reducible apply Traced.ite | with_reducible apply Traced.foldl | with_reducible apply Traced.foldl_fst | split | dsimp only
  have h_e4 : Traced o e4 := by
    dsimp only [e4]
    repeat' first | with_reducible assumption | intro _ | with_reducible apply State.packet_traced | with_reducible apply State.traceLeaveAll_traced | with_reducible apply Traced.modTsec | with_reducible apply Traced.edge | with_reducible apply Traced.ite | with_reducible apply Traced.foldl | with_reducible apply Traced.foldl_fst | split | dsimp only
  (try clear_value e2)
  (try clear_value e3)
  (try clear_value e4)
  repeat' first | with_reducible assumption | intro _ | with_reducible apply State.packet_traced | with_reducible apply State.traceLeaveAll_traced | with_reducible apply Traced.modTsec | with_reducible apply Traced.edge | with_reducible apply Traced.ite | with_reducible apply Traced.foldl | with_reducible apply Traced.foldl_fst | split | dsimp only

theorem State.trigger_traced {o : State} {s : State} {c : Fin 12} {p : BitVec 4} {kind : Nat} (h_s : Traced o s) :
    Traced o (State.trigger s c p kind) := by
  unfold State.trigger
  extract_lets e1 e2 e3 e4 e5
  have h_e3 : Traced o e3 := by
    dsimp only [e3]
    repeat' first | with_reducible assumption | intro _ | with_reducible apply State.packet_traced | with_reducible apply State.modPart_traced | with_reducible apply Traced.edge | with_reducible apply State.traceStop_traced | with_reducible apply Traced.ite | with_reducible apply Traced.foldl | with_reducible apply Traced.foldl_fst | split | dsimp only
  have h_e4 : Traced o e4 := by
    dsimp only [e4]
    repeat' first | with_reducible assumption | intro _ | with_reducible apply State.packet_traced | with_reducible apply State.modPart_traced | with_reducible apply Traced.edge | with_reducible apply State.traceStop_traced | with_reducible apply Traced.ite | with_reducible apply Traced.foldl | with_reducible apply Traced.foldl_fst | split | dsimp only
  have h_e5 : Traced o e5 := by
    dsimp only [e5]
    repeat' first | with_reducible assumption | intro _ | with_reducible apply State.packet_traced | with_reducible apply State.modPart_traced | with_reducible apply Traced.edge | with_reducible apply State.traceStop_traced | with_reducible apply Traced.ite | with_reducible apply Traced.foldl | with_reducible apply Traced.foldl_fst | split | dsimp only
  (try clear_value e3)
  (try clear_value e4)
  (try clear_value e5)
  repeat' first | with_reducible assumption | intro _ | with_reducible apply State.packet_traced | with_reducible apply State.modPart_traced | with_reducible apply Traced.edge | with_reducible apply State.traceStop_traced | with_reducible apply Traced.ite | with_reducible apply Traced.foldl | with_reducible apply Traced.foldl_fst | split | dsimp only

theorem State.traceEnter_traced {o : State} {s : State} {c : Fin 12} {p : BitVec 4} {pc : DWord} {level : Level} (h_s : Traced o s) :
    Traced o (State.traceEnter s c p pc level) := by
  unfold State.traceEnter
  extract_lets e1 e2 e3 e4
  have h_e3 : Traced o e3 := by
    dsimp only [e3]
    repeat' first | with_reducible assumption | intro _ | with_reducible apply State.traceLeave_traced | with_reducible apply State.packet_traced | with_reducible apply Traced.modTsec | with_reducible apply Traced.ite | with_reducible apply Traced.foldl | with_reducible apply Traced.foldl_fst | split | dsimp only
  have h_e4 : Traced o e4 := by
    dsimp only [e4]
    repeat' first | with_reducible assumption | intro _ | with_reducible apply State.traceLeave_traced | with_reducible apply State.packet_traced | with_reducible apply Traced.modTsec | with_reducible apply Traced.ite | with_reducible apply Traced.foldl | with_reducible apply Traced.foldl_fst | split | dsimp only
  (try clear_value e3)
  (try clear_value e4)
  repeat' first | with_reducible assumption | intro _ | with_reducible apply State.traceLeave_traced | with_reducible apply State.packet_traced | with_reducible apply Traced.modTsec | with_reducible apply Traced.ite | with_reducible apply Traced.foldl | with_reducible apply Traced.foldl_fst | split | dsimp only

theorem State.traceBranch_traced {o : State} {s : State} {c : Fin 12} {p : BitVec 4} {taken : Bool} (h_s : Traced o s) :
    Traced o (State.traceBranch s c p taken) := by
  unfold State.traceBranch
  extract_lets e1 e2
  have h_e2 : Traced o e2 := by
    dsimp only [e2]
    repeat' first | with_reducible assumption | intro _ | with_reducible apply Traced.modTsec | with_reducible apply State.flushAtom_traced | with_reducible apply Traced.ite | with_reducible apply Traced.foldl | with_reducible apply Traced.foldl_fst | split | dsimp only
  (try clear_value e2)
  repeat' first | with_reducible assumption | intro _ | with_reducible apply Traced.modTsec | with_reducible apply State.flushAtom_traced | with_reducible apply Traced.ite | with_reducible apply Traced.foldl | with_reducible apply Traced.foldl_fst | split | dsimp only

theorem State.traceEvent_traced {o : State} {s : State} {c : Fin 12} {p : BitVec 4} {e : TraceEv} (h_s : Traced o s) :
    Traced o (State.traceEvent s c p e) := by
  unfold State.traceEvent
  repeat' first | with_reducible assumption | intro _ | with_reducible apply State.traceBranch_traced | with_reducible apply State.packet_traced | with_reducible apply State.trigger_traced | with_reducible apply Traced.ite | with_reducible apply Traced.foldl | with_reducible apply Traced.foldl_fst | split | dsimp only

theorem State.traceRetire_traced {o : State} {s : State} {c : Fin 12} {pc : DWord} {level : Level} {mptag : BitVec 4} {evs : List TraceEv} (h_s : Traced o s) :
    Traced o (State.traceRetire s c pc level mptag evs) := by
  unfold State.traceRetire
  repeat' first | with_reducible assumption | intro _ | with_reducible apply State.traceEnter_traced | with_reducible apply State.trigger_traced | with_reducible apply State.traceEvent_traced | with_reducible apply Traced.ite | with_reducible apply Traced.foldl | with_reducible apply Traced.foldl_fst | split | dsimp only

theorem State.traceExc_traced {o : State} {s : State} {c : Fin 12} {cause : Word} (h_s : Traced o s) :
    Traced o (State.traceExc s c cause) := by
  unfold State.traceExc
  repeat' first | with_reducible assumption | intro _ | with_reducible apply State.packet_traced | with_reducible apply Traced.ite | with_reducible apply Traced.foldl | with_reducible apply Traced.foldl_fst | split | dsimp only

end Sys2Proof.Machine
end

