-- ==== Sys2Proof/Laws/Run.lean ====
section
/-! SUPPORT. What the boundary before an instruction, its retirement and its exceptions can do. -/
set_option Elab.async false
set_option linter.all false
namespace Sys2Proof.Machine

/-- A slot's entry changes the blocks of the Bar unit only. -/
theorem State.enterSlot_eq (s : State) (c : Fin 12) :
    s.enterSlot c = { s with bar := { s.bar with cores := (s.enterSlot c).bar.cores } } := by
  unfold State.enterSlot
  split <;> rfl

/-- The PC and the count of a Voice core after an instruction. -/
theorem State.count_voice (e : State) (c : Fin 12) (p : DWord) :
    ∃ ch, (e.setPc (.voice c) p).countInsn (.voice c) =
      { e with cores := e.cores.set c { e.core c with pc := p, instret := (e.core c).instret + 1 }, chorus := ch } := by
  have h : ((e.setPc (.voice c) p).modCore c fun v => { v with instret := ((e.setPc (.voice c) p).core c).instret + 1 }) =
      { e with cores := e.cores.set c { e.core c with pc := p, instret := (e.core c).instret + 1 } } := by
    simp [State.setPc, State.modCore, State.setCore, State.core]
  unfold State.countInsn
  dsimp only
  rw [h]
  split
  · unfold State.edge
    dsimp only
    split
    · exact ⟨_, rfl⟩
    · exact ⟨e.chorus, rfl⟩
  · exact ⟨e.chorus, rfl⟩

/-- The PC and the count of the Conductor after an instruction. -/
theorem State.count_conductor (e : State) (p : DWord) :
    ∃ ch, (e.setPc .conductor p).countInsn .conductor =
      { e with cdr := { e.cdr with pc := p, instret := e.cdr.instret + 1 }, chorus := ch } := by
  unfold State.countInsn State.setPc
  dsimp only
  split
  · unfold State.edge
    dsimp only
    split
    · exact ⟨_, rfl⟩
    · exact ⟨e.chorus, rfl⟩
  · exact ⟨e.chorus, rfl⟩

/-- What a Voice core's retirement leaves besides the PC and the count. -/
theorem State.afterInsn_voice (e was : State) (c : Fin 12) (d : Done) :
    ∃ tr ch bc, e.afterInsn was (.voice c) d = { e with trace := tr, chorus := ch, bar := { e.bar with cores := bc } } := by
  unfold State.afterInsn
  dsimp only
  have t : Traced e (e.traceRetire c (was.core c).pc (was.core c).level (was.core c).mptag d.evs) := State.traceRetire_traced .refl
  have t : Traced e (if d.leave = true then (e.traceRetire c (was.core c).pc (was.core c).level (was.core c).mptag d.evs).traceLeave c 0
      else e.traceRetire c (was.core c).pc (was.core c).level (was.core c).mptag d.evs) := Traced.ite (State.traceLeave_traced t) t
  rw [State.enterSlot_eq, t.eq]
  exact ⟨_, _, _, rfl⟩

/-- Everything that the retirement of an instruction does. -/
theorem State.retire_retired (e was : State) (k : Core) (f : Fetch) (d : Done) :
    Retired e (e.retire was k f d) k (d.target.getD (nextPtr f (was.pc k))) := by
  unfold State.retire
  cases k with
  | voice c =>
    obtain ⟨ch, h⟩ := e.count_voice c (d.target.getD (nextPtr f (was.pc (.voice c))))
    rw [h]
    generalize hx : State.afterInsn _ _ _ _ = x
    obtain ⟨tr, ch', bc, h2⟩ := State.afterInsn_voice _ was c d
    rw [hx] at h2
    rw [h2]
    rfl
  | conductor =>
    obtain ⟨ch, h⟩ := e.count_conductor (d.target.getD (nextPtr f (was.pc .conductor)))
    rw [h]
    rfl

/-- An instruction that is ready is performed. -/
theorem runInsn_ready {s r : State} {k : Core} {f : Fetch} {x : Insn} {body : Exec Done} (h : Ready s k f x r) :
    runInsn k f x body s = .next (r.perform k f body) := by
  unfold runInsn
  rw [h]

/-- An instruction whose body completes retires. -/
theorem runInsn_retired {s r u : State} {k : Core} {f : Fetch} {x : Insn} {body : Exec Done} {d : Done} (h : Ready s k f x r)
    (hb : body r = .ok d u) :
    ∃ t, runInsn k f x body s = .next t ∧ Retired u t k (d.target.getD (nextPtr f (r.pc k))) :=
  ⟨_, by rw [runInsn_ready h]; unfold State.perform; rw [hb], State.retire_retired u r k f d⟩

/-- An instruction that only changes registers has its effect and goes on at the word that follows. -/
theorem runReg_retired {s r : State} {k : Core} {f : Fetch} {x : Insn} {g : State → State} (h : Ready s k f x r) :
    ∃ t, runReg k f x g s = .next t ∧ Retired (g r) t k (nextPtr f (r.pc k)) :=
  runInsn_retired (body := regBody g) (u := g r) (d := Done.seq) h rfl

/-- An instruction whose body raises an exception takes it. -/
theorem runInsn_trapped {s r u : State} {k : Core} {f : Fetch} {x : Insn} {body : Exec Done} {e : Exc} (h : Ready s k f x r)
    (hb : body r = .error (.exc e) u) : runInsn k f x body s = .next (u.excAt k e) := by
  rw [runInsn_ready h]
  unfold State.perform
  rw [hb]
  rfl

/-- What the boundary before an instruction leaves as software sees it, where no upset is part of the command. -/
theorem State.boundary_seen {s r : State} {k : Core} {f : Fetch} {x : Insn} (h : Ready s k f x r) (hu : f.ups = []) : Seen s r := by
  unfold Ready State.boundary at h
  dsimp only at h
  split at h
  · cases h
  · split at h
    · cases h
    · split at h
      · rename_i e
        injection h with h
        subst h
        refine (Unseen.bind (fetchInsn_seen hu) fun _ => decodeInsn_seen).ok _ _ _ ?_ e
        rw [hu]
        exact State.enterAt_seen (State.awake_seen .refl)
      · cases h

end Sys2Proof.Machine
end

