-- ==== Sys2Proof/Laws/State.lean ====
section
/-! SUPPORT. What each update of the state leaves in each field of the state. -/
set_option Elab.async false
set_option linter.all false
namespace Sys2Proof.Machine

/-! A change of the field `bar`. -/

@[simp] theorem State.modBar_die (s : State) (f : BarUnit → BarUnit) : (s.modBar f).die = s.die := rfl
@[simp] theorem State.modBar_cores (s : State) (f : BarUnit → BarUnit) : (s.modBar f).cores = s.cores := rfl
@[simp] theorem State.modBar_cdr (s : State) (f : BarUnit → BarUnit) : (s.modBar f).cdr = s.cdr := rfl
@[simp] theorem State.modBar_dram (s : State) (f : BarUnit → BarUnit) : (s.modBar f).dram = s.dram := rfl
@[simp] theorem State.modBar_chk (s : State) (f : BarUnit → BarUnit) : (s.modBar f).chk = s.chk := rfl
@[simp] theorem State.modBar_stage (s : State) (f : BarUnit → BarUnit) : (s.modBar f).stage = s.stage := rfl
@[simp] theorem State.modBar_stageBad (s : State) (f : BarUnit → BarUnit) : (s.modBar f).stageBad = s.stageBad := rfl
@[simp] theorem State.modBar_csram (s : State) (f : BarUnit → BarUnit) : (s.modBar f).csram = s.csram := rfl
@[simp] theorem State.modBar_flash (s : State) (f : BarUnit → BarUnit) : (s.modBar f).flash = s.flash := rfl
@[simp] theorem State.modBar_xflash (s : State) (f : BarUnit → BarUnit) : (s.modBar f).xflash = s.xflash := rfl
@[simp] theorem State.modBar_caches (s : State) (f : BarUnit → BarUnit) : (s.modBar f).caches = s.caches := rfl
@[simp] theorem State.modBar_tempo (s : State) (f : BarUnit → BarUnit) : (s.modBar f).tempo = s.tempo := rfl
@[simp] theorem State.modBar_chorus (s : State) (f : BarUnit → BarUnit) : (s.modBar f).chorus = s.chorus := rfl
@[simp] theorem State.modBar_mc (s : State) (f : BarUnit → BarUnit) : (s.modBar f).mc = s.mc := rfl
@[simp] theorem State.modBar_echo (s : State) (f : BarUnit → BarUnit) : (s.modBar f).echo = s.echo := rfl
@[simp] theorem State.modBar_rings (s : State) (f : BarUnit → BarUnit) : (s.modBar f).rings = s.rings := rfl
@[simp] theorem State.modBar_bm (s : State) (f : BarUnit → BarUnit) : (s.modBar f).bm = s.bm := rfl
@[simp] theorem State.modBar_boot (s : State) (f : BarUnit → BarUnit) : (s.modBar f).boot = s.boot := rfl
@[simp] theorem State.modBar_duet (s : State) (f : BarUnit → BarUnit) : (s.modBar f).duet = s.duet := rfl
@[simp] theorem State.modBar_refrain (s : State) (f : BarUnit → BarUnit) : (s.modBar f).refrain = s.refrain := rfl
@[simp] theorem State.modBar_health (s : State) (f : BarUnit → BarUnit) : (s.modBar f).health = s.health := rfl
@[simp] theorem State.modBar_trace (s : State) (f : BarUnit → BarUnit) : (s.modBar f).trace = s.trace := rfl
@[simp] theorem State.modBar_io (s : State) (f : BarUnit → BarUnit) : (s.modBar f).io = s.io := rfl
@[simp] theorem State.modBar_pwr (s : State) (f : BarUnit → BarUnit) : (s.modBar f).pwr = s.pwr := rfl
@[simp] theorem State.modBar_free (s : State) (f : BarUnit → BarUnit) : (s.modBar f).free = s.free := rfl
@[simp] theorem State.modBar_pending (s : State) (f : BarUnit → BarUnit) : (s.modBar f).pending = s.pending := rfl
@[simp] theorem State.modBar_bar (s : State) (f : BarUnit → BarUnit) : (s.modBar f).bar = f s.bar := rfl

/-! A change of the field `tempo`. -/

@[simp] theorem State.modTempo_die (s : State) (f : Tempo → Tempo) : (s.modTempo f).die = s.die := rfl
@[simp] theorem State.modTempo_cores (s : State) (f : Tempo → Tempo) : (s.modTempo f).cores = s.cores := rfl
@[simp] theorem State.modTempo_cdr (s : State) (f : Tempo → Tempo) : (s.modTempo f).cdr = s.cdr := rfl
@[simp] theorem State.modTempo_dram (s : State) (f : Tempo → Tempo) : (s.modTempo f).dram = s.dram := rfl
@[simp] theorem State.modTempo_chk (s : State) (f : Tempo → Tempo) : (s.modTempo f).chk = s.chk := rfl
@[simp] theorem State.modTempo_stage (s : State) (f : Tempo → Tempo) : (s.modTempo f).stage = s.stage := rfl
@[simp] theorem State.modTempo_stageBad (s : State) (f : Tempo → Tempo) : (s.modTempo f).stageBad = s.stageBad := rfl
@[simp] theorem State.modTempo_csram (s : State) (f : Tempo → Tempo) : (s.modTempo f).csram = s.csram := rfl
@[simp] theorem State.modTempo_flash (s : State) (f : Tempo → Tempo) : (s.modTempo f).flash = s.flash := rfl
@[simp] theorem State.modTempo_xflash (s : State) (f : Tempo → Tempo) : (s.modTempo f).xflash = s.xflash := rfl
@[simp] theorem State.modTempo_caches (s : State) (f : Tempo → Tempo) : (s.modTempo f).caches = s.caches := rfl
@[simp] theorem State.modTempo_bar (s : State) (f : Tempo → Tempo) : (s.modTempo f).bar = s.bar := rfl
@[simp] theorem State.modTempo_chorus (s : State) (f : Tempo → Tempo) : (s.modTempo f).chorus = s.chorus := rfl
@[simp] theorem State.modTempo_mc (s : State) (f : Tempo → Tempo) : (s.modTempo f).mc = s.mc := rfl
@[simp] theorem State.modTempo_echo (s : State) (f : Tempo → Tempo) : (s.modTempo f).echo = s.echo := rfl
@[simp] theorem State.modTempo_rings (s : State) (f : Tempo → Tempo) : (s.modTempo f).rings = s.rings := rfl
@[simp] theorem State.modTempo_bm (s : State) (f : Tempo → Tempo) : (s.modTempo f).bm = s.bm := rfl
@[simp] theorem State.modTempo_boot (s : State) (f : Tempo → Tempo) : (s.modTempo f).boot = s.boot := rfl
@[simp] theorem State.modTempo_duet (s : State) (f : Tempo → Tempo) : (s.modTempo f).duet = s.duet := rfl
@[simp] theorem State.modTempo_refrain (s : State) (f : Tempo → Tempo) : (s.modTempo f).refrain = s.refrain := rfl
@[simp] theorem State.modTempo_health (s : State) (f : Tempo → Tempo) : (s.modTempo f).health = s.health := rfl
@[simp] theorem State.modTempo_trace (s : State) (f : Tempo → Tempo) : (s.modTempo f).trace = s.trace := rfl
@[simp] theorem State.modTempo_io (s : State) (f : Tempo → Tempo) : (s.modTempo f).io = s.io := rfl
@[simp] theorem State.modTempo_pwr (s : State) (f : Tempo → Tempo) : (s.modTempo f).pwr = s.pwr := rfl
@[simp] theorem State.modTempo_free (s : State) (f : Tempo → Tempo) : (s.modTempo f).free = s.free := rfl
@[simp] theorem State.modTempo_pending (s : State) (f : Tempo → Tempo) : (s.modTempo f).pending = s.pending := rfl
@[simp] theorem State.modTempo_tempo (s : State) (f : Tempo → Tempo) : (s.modTempo f).tempo = f s.tempo := rfl

/-! A change of the field `mc`. -/

@[simp] theorem State.modMc_die (s : State) (f : MemCtl → MemCtl) : (s.modMc f).die = s.die := rfl
@[simp] theorem State.modMc_cores (s : State) (f : MemCtl → MemCtl) : (s.modMc f).cores = s.cores := rfl
@[simp] theorem State.modMc_cdr (s : State) (f : MemCtl → MemCtl) : (s.modMc f).cdr = s.cdr := rfl
@[simp] theorem State.modMc_dram (s : State) (f : MemCtl → MemCtl) : (s.modMc f).dram = s.dram := rfl
@[simp] theorem State.modMc_chk (s : State) (f : MemCtl → MemCtl) : (s.modMc f).chk = s.chk := rfl
@[simp] theorem State.modMc_stage (s : State) (f : MemCtl → MemCtl) : (s.modMc f).stage = s.stage := rfl
@[simp] theorem State.modMc_stageBad (s : State) (f : MemCtl → MemCtl) : (s.modMc f).stageBad = s.stageBad := rfl
@[simp] theorem State.modMc_csram (s : State) (f : MemCtl → MemCtl) : (s.modMc f).csram = s.csram := rfl
@[simp] theorem State.modMc_flash (s : State) (f : MemCtl → MemCtl) : (s.modMc f).flash = s.flash := rfl
@[simp] theorem State.modMc_xflash (s : State) (f : MemCtl → MemCtl) : (s.modMc f).xflash = s.xflash := rfl
@[simp] theorem State.modMc_caches (s : State) (f : MemCtl → MemCtl) : (s.modMc f).caches = s.caches := rfl
@[simp] theorem State.modMc_bar (s : State) (f : MemCtl → MemCtl) : (s.modMc f).bar = s.bar := rfl
@[simp] theorem State.modMc_tempo (s : State) (f : MemCtl → MemCtl) : (s.modMc f).tempo = s.tempo := rfl
@[simp] theorem State.modMc_chorus (s : State) (f : MemCtl → MemCtl) : (s.modMc f).chorus = s.chorus := rfl
@[simp] theorem State.modMc_echo (s : State) (f : MemCtl → MemCtl) : (s.modMc f).echo = s.echo := rfl
@[simp] theorem State.modMc_rings (s : State) (f : MemCtl → MemCtl) : (s.modMc f).rings = s.rings := rfl
@[simp] theorem State.modMc_bm (s : State) (f : MemCtl → MemCtl) : (s.modMc f).bm = s.bm := rfl
@[simp] theorem State.modMc_boot (s : State) (f : MemCtl → MemCtl) : (s.modMc f).boot = s.boot := rfl
@[simp] theorem State.modMc_duet (s : State) (f : MemCtl → MemCtl) : (s.modMc f).duet = s.duet := rfl
@[simp] theorem State.modMc_refrain (s : State) (f : MemCtl → MemCtl) : (s.modMc f).refrain = s.refrain := rfl
@[simp] theorem State.modMc_health (s : State) (f : MemCtl → MemCtl) : (s.modMc f).health = s.health := rfl
@[simp] theorem State.modMc_trace (s : State) (f : MemCtl → MemCtl) : (s.modMc f).trace = s.trace := rfl
@[simp] theorem State.modMc_io (s : State) (f : MemCtl → MemCtl) : (s.modMc f).io = s.io := rfl
@[simp] theorem State.modMc_pwr (s : State) (f : MemCtl → MemCtl) : (s.modMc f).pwr = s.pwr := rfl
@[simp] theorem State.modMc_free (s : State) (f : MemCtl → MemCtl) : (s.modMc f).free = s.free := rfl
@[simp] theorem State.modMc_pending (s : State) (f : MemCtl → MemCtl) : (s.modMc f).pending = s.pending := rfl
@[simp] theorem State.modMc_mc (s : State) (f : MemCtl → MemCtl) : (s.modMc f).mc = f s.mc := rfl

/-! A change of the field `rings`. -/

@[simp] theorem State.modRings_die (s : State) (f : Rings → Rings) : (s.modRings f).die = s.die := rfl
@[simp] theorem State.modRings_cores (s : State) (f : Rings → Rings) : (s.modRings f).cores = s.cores := rfl
@[simp] theorem State.modRings_cdr (s : State) (f : Rings → Rings) : (s.modRings f).cdr = s.cdr := rfl
@[simp] theorem State.modRings_dram (s : State) (f : Rings → Rings) : (s.modRings f).dram = s.dram := rfl
@[simp] theorem State.modRings_chk (s : State) (f : Rings → Rings) : (s.modRings f).chk = s.chk := rfl
@[simp] theorem State.modRings_stage (s : State) (f : Rings → Rings) : (s.modRings f).stage = s.stage := rfl
@[simp] theorem State.modRings_stageBad (s : State) (f : Rings → Rings) : (s.modRings f).stageBad = s.stageBad := rfl
@[simp] theorem State.modRings_csram (s : State) (f : Rings → Rings) : (s.modRings f).csram = s.csram := rfl
@[simp] theorem State.modRings_flash (s : State) (f : Rings → Rings) : (s.modRings f).flash = s.flash := rfl
@[simp] theorem State.modRings_xflash (s : State) (f : Rings → Rings) : (s.modRings f).xflash = s.xflash := rfl
@[simp] theorem State.modRings_caches (s : State) (f : Rings → Rings) : (s.modRings f).caches = s.caches := rfl
@[simp] theorem State.modRings_bar (s : State) (f : Rings → Rings) : (s.modRings f).bar = s.bar := rfl
@[simp] theorem State.modRings_tempo (s : State) (f : Rings → Rings) : (s.modRings f).tempo = s.tempo := rfl
@[simp] theorem State.modRings_chorus (s : State) (f : Rings → Rings) : (s.modRings f).chorus = s.chorus := rfl
@[simp] theorem State.modRings_mc (s : State) (f : Rings → Rings) : (s.modRings f).mc = s.mc := rfl
@[simp] theorem State.modRings_echo (s : State) (f : Rings → Rings) : (s.modRings f).echo = s.echo := rfl
@[simp] theorem State.modRings_bm (s : State) (f : Rings → Rings) : (s.modRings f).bm = s.bm := rfl
@[simp] theorem State.modRings_boot (s : State) (f : Rings → Rings) : (s.modRings f).boot = s.boot := rfl
@[simp] theorem State.modRings_duet (s : State) (f : Rings → Rings) : (s.modRings f).duet = s.duet := rfl
@[simp] theorem State.modRings_refrain (s : State) (f : Rings → Rings) : (s.modRings f).refrain = s.refrain := rfl
@[simp] theorem State.modRings_health (s : State) (f : Rings → Rings) : (s.modRings f).health = s.health := rfl
@[simp] theorem State.modRings_trace (s : State) (f : Rings → Rings) : (s.modRings f).trace = s.trace := rfl
@[simp] theorem State.modRings_io (s : State) (f : Rings → Rings) : (s.modRings f).io = s.io := rfl
@[simp] theorem State.modRings_pwr (s : State) (f : Rings → Rings) : (s.modRings f).pwr = s.pwr := rfl
@[simp] theorem State.modRings_free (s : State) (f : Rings → Rings) : (s.modRings f).free = s.free := rfl
@[simp] theorem State.modRings_pending (s : State) (f : Rings → Rings) : (s.modRings f).pending = s.pending := rfl
@[simp] theorem State.modRings_rings (s : State) (f : Rings → Rings) : (s.modRings f).rings = f s.rings := rfl

/-! A change of the field `boot`. -/

@[simp] theorem State.modBoot_die (s : State) (f : Boot → Boot) : (s.modBoot f).die = s.die := rfl
@[simp] theorem State.modBoot_cores (s : State) (f : Boot → Boot) : (s.modBoot f).cores = s.cores := rfl
@[simp] theorem State.modBoot_cdr (s : State) (f : Boot → Boot) : (s.modBoot f).cdr = s.cdr := rfl
@[simp] theorem State.modBoot_dram (s : State) (f : Boot → Boot) : (s.modBoot f).dram = s.dram := rfl
@[simp] theorem State.modBoot_chk (s : State) (f : Boot → Boot) : (s.modBoot f).chk = s.chk := rfl
@[simp] theorem State.modBoot_stage (s : State) (f : Boot → Boot) : (s.modBoot f).stage = s.stage := rfl
@[simp] theorem State.modBoot_stageBad (s : State) (f : Boot → Boot) : (s.modBoot f).stageBad = s.stageBad := rfl
@[simp] theorem State.modBoot_csram (s : State) (f : Boot → Boot) : (s.modBoot f).csram = s.csram := rfl
@[simp] theorem State.modBoot_flash (s : State) (f : Boot → Boot) : (s.modBoot f).flash = s.flash := rfl
@[simp] theorem State.modBoot_xflash (s : State) (f : Boot → Boot) : (s.modBoot f).xflash = s.xflash := rfl
@[simp] theorem State.modBoot_caches (s : State) (f : Boot → Boot) : (s.modBoot f).caches = s.caches := rfl
@[simp] theorem State.modBoot_bar (s : State) (f : Boot → Boot) : (s.modBoot f).bar = s.bar := rfl
@[simp] theorem State.modBoot_tempo (s : State) (f : Boot → Boot) : (s.modBoot f).tempo = s.tempo := rfl
@[simp] theorem State.modBoot_chorus (s : State) (f : Boot → Boot) : (s.modBoot f).chorus = s.chorus := rfl
@[simp] theorem State.modBoot_mc (s : State) (f : Boot → Boot) : (s.modBoot f).mc = s.mc := rfl
@[simp] theorem State.modBoot_echo (s : State) (f : Boot → Boot) : (s.modBoot f).echo = s.echo := rfl
@[simp] theorem State.modBoot_rings (s : State) (f : Boot → Boot) : (s.modBoot f).rings = s.rings := rfl
@[simp] theorem State.modBoot_bm (s : State) (f : Boot → Boot) : (s.modBoot f).bm = s.bm := rfl
@[simp] theorem State.modBoot_duet (s : State) (f : Boot → Boot) : (s.modBoot f).duet = s.duet := rfl
@[simp] theorem State.modBoot_refrain (s : State) (f : Boot → Boot) : (s.modBoot f).refrain = s.refrain := rfl
@[simp] theorem State.modBoot_health (s : State) (f : Boot → Boot) : (s.modBoot f).health = s.health := rfl
@[simp] theorem State.modBoot_trace (s : State) (f : Boot → Boot) : (s.modBoot f).trace = s.trace := rfl
@[simp] theorem State.modBoot_io (s : State) (f : Boot → Boot) : (s.modBoot f).io = s.io := rfl
@[simp] theorem State.modBoot_pwr (s : State) (f : Boot → Boot) : (s.modBoot f).pwr = s.pwr := rfl
@[simp] theorem State.modBoot_free (s : State) (f : Boot → Boot) : (s.modBoot f).free = s.free := rfl
@[simp] theorem State.modBoot_pending (s : State) (f : Boot → Boot) : (s.modBoot f).pending = s.pending := rfl
@[simp] theorem State.modBoot_boot (s : State) (f : Boot → Boot) : (s.modBoot f).boot = f s.boot := rfl

/-! A change of the field `duet`. -/

@[simp] theorem State.modDuet_die (s : State) (f : Duet → Duet) : (s.modDuet f).die = s.die := rfl
@[simp] theorem State.modDuet_cores (s : State) (f : Duet → Duet) : (s.modDuet f).cores = s.cores := rfl
@[simp] theorem State.modDuet_cdr (s : State) (f : Duet → Duet) : (s.modDuet f).cdr = s.cdr := rfl
@[simp] theorem State.modDuet_dram (s : State) (f : Duet → Duet) : (s.modDuet f).dram = s.dram := rfl
@[simp] theorem State.modDuet_chk (s : State) (f : Duet → Duet) : (s.modDuet f).chk = s.chk := rfl
@[simp] theorem State.modDuet_stage (s : State) (f : Duet → Duet) : (s.modDuet f).stage = s.stage := rfl
@[simp] theorem State.modDuet_stageBad (s : State) (f : Duet → Duet) : (s.modDuet f).stageBad = s.stageBad := rfl
@[simp] theorem State.modDuet_csram (s : State) (f : Duet → Duet) : (s.modDuet f).csram = s.csram := rfl
@[simp] theorem State.modDuet_flash (s : State) (f : Duet → Duet) : (s.modDuet f).flash = s.flash := rfl
@[simp] theorem State.modDuet_xflash (s : State) (f : Duet → Duet) : (s.modDuet f).xflash = s.xflash := rfl
@[simp] theorem State.modDuet_caches (s : State) (f : Duet → Duet) : (s.modDuet f).caches = s.caches := rfl
@[simp] theorem State.modDuet_bar (s : State) (f : Duet → Duet) : (s.modDuet f).bar = s.bar := rfl
@[simp] theorem State.modDuet_tempo (s : State) (f : Duet → Duet) : (s.modDuet f).tempo = s.tempo := rfl
@[simp] theorem State.modDuet_chorus (s : State) (f : Duet → Duet) : (s.modDuet f).chorus = s.chorus := rfl
@[simp] theorem State.modDuet_mc (s : State) (f : Duet → Duet) : (s.modDuet f).mc = s.mc := rfl
@[simp] theorem State.modDuet_echo (s : State) (f : Duet → Duet) : (s.modDuet f).echo = s.echo := rfl
@[simp] theorem State.modDuet_rings (s : State) (f : Duet → Duet) : (s.modDuet f).rings = s.rings := rfl
@[simp] theorem State.modDuet_bm (s : State) (f : Duet → Duet) : (s.modDuet f).bm = s.bm := rfl
@[simp] theorem State.modDuet_boot (s : State) (f : Duet → Duet) : (s.modDuet f).boot = s.boot := rfl
@[simp] theorem State.modDuet_refrain (s : State) (f : Duet → Duet) : (s.modDuet f).refrain = s.refrain := rfl
@[simp] theorem State.modDuet_health (s : State) (f : Duet → Duet) : (s.modDuet f).health = s.health := rfl
@[simp] theorem State.modDuet_trace (s : State) (f : Duet → Duet) : (s.modDuet f).trace = s.trace := rfl
@[simp] theorem State.modDuet_io (s : State) (f : Duet → Duet) : (s.modDuet f).io = s.io := rfl
@[simp] theorem State.modDuet_pwr (s : State) (f : Duet → Duet) : (s.modDuet f).pwr = s.pwr := rfl
@[simp] theorem State.modDuet_free (s : State) (f : Duet → Duet) : (s.modDuet f).free = s.free := rfl
@[simp] theorem State.modDuet_pending (s : State) (f : Duet → Duet) : (s.modDuet f).pending = s.pending := rfl
@[simp] theorem State.modDuet_duet (s : State) (f : Duet → Duet) : (s.modDuet f).duet = f s.duet := rfl

/-! A change of the field `refrain`. -/

@[simp] theorem State.modRf_die (s : State) (f : Refrain → Refrain) : (s.modRf f).die = s.die := rfl
@[simp] theorem State.modRf_cores (s : State) (f : Refrain → Refrain) : (s.modRf f).cores = s.cores := rfl
@[simp] theorem State.modRf_cdr (s : State) (f : Refrain → Refrain) : (s.modRf f).cdr = s.cdr := rfl
@[simp] theorem State.modRf_dram (s : State) (f : Refrain → Refrain) : (s.modRf f).dram = s.dram := rfl
@[simp] theorem State.modRf_chk (s : State) (f : Refrain → Refrain) : (s.modRf f).chk = s.chk := rfl
@[simp] theorem State.modRf_stage (s : State) (f : Refrain → Refrain) : (s.modRf f).stage = s.stage := rfl
@[simp] theorem State.modRf_stageBad (s : State) (f : Refrain → Refrain) : (s.modRf f).stageBad = s.stageBad := rfl
@[simp] theorem State.modRf_csram (s : State) (f : Refrain → Refrain) : (s.modRf f).csram = s.csram := rfl
@[simp] theorem State.modRf_flash (s : State) (f : Refrain → Refrain) : (s.modRf f).flash = s.flash := rfl
@[simp] theorem State.modRf_xflash (s : State) (f : Refrain → Refrain) : (s.modRf f).xflash = s.xflash := rfl
@[simp] theorem State.modRf_caches (s : State) (f : Refrain → Refrain) : (s.modRf f).caches = s.caches := rfl
@[simp] theorem State.modRf_bar (s : State) (f : Refrain → Refrain) : (s.modRf f).bar = s.bar := rfl
@[simp] theorem State.modRf_tempo (s : State) (f : Refrain → Refrain) : (s.modRf f).tempo = s.tempo := rfl
@[simp] theorem State.modRf_chorus (s : State) (f : Refrain → Refrain) : (s.modRf f).chorus = s.chorus := rfl
@[simp] theorem State.modRf_mc (s : State) (f : Refrain → Refrain) : (s.modRf f).mc = s.mc := rfl
@[simp] theorem State.modRf_echo (s : State) (f : Refrain → Refrain) : (s.modRf f).echo = s.echo := rfl
@[simp] theorem State.modRf_rings (s : State) (f : Refrain → Refrain) : (s.modRf f).rings = s.rings := rfl
@[simp] theorem State.modRf_bm (s : State) (f : Refrain → Refrain) : (s.modRf f).bm = s.bm := rfl
@[simp] theorem State.modRf_boot (s : State) (f : Refrain → Refrain) : (s.modRf f).boot = s.boot := rfl
@[simp] theorem State.modRf_duet (s : State) (f : Refrain → Refrain) : (s.modRf f).duet = s.duet := rfl
@[simp] theorem State.modRf_health (s : State) (f : Refrain → Refrain) : (s.modRf f).health = s.health := rfl
@[simp] theorem State.modRf_trace (s : State) (f : Refrain → Refrain) : (s.modRf f).trace = s.trace := rfl
@[simp] theorem State.modRf_io (s : State) (f : Refrain → Refrain) : (s.modRf f).io = s.io := rfl
@[simp] theorem State.modRf_pwr (s : State) (f : Refrain → Refrain) : (s.modRf f).pwr = s.pwr := rfl
@[simp] theorem State.modRf_free (s : State) (f : Refrain → Refrain) : (s.modRf f).free = s.free := rfl
@[simp] theorem State.modRf_pending (s : State) (f : Refrain → Refrain) : (s.modRf f).pending = s.pending := rfl
@[simp] theorem State.modRf_refrain (s : State) (f : Refrain → Refrain) : (s.modRf f).refrain = f s.refrain := rfl

/-! A change of the field `health`. -/

@[simp] theorem State.modHealth_die (s : State) (f : Health → Health) : (s.modHealth f).die = s.die := rfl
@[simp] theorem State.modHealth_cores (s : State) (f : Health → Health) : (s.modHealth f).cores = s.cores := rfl
@[simp] theorem State.modHealth_cdr (s : State) (f : Health → Health) : (s.modHealth f).cdr = s.cdr := rfl
@[simp] theorem State.modHealth_dram (s : State) (f : Health → Health) : (s.modHealth f).dram = s.dram := rfl
@[simp] theorem State.modHealth_chk (s : State) (f : Health → Health) : (s.modHealth f).chk = s.chk := rfl
@[simp] theorem State.modHealth_stage (s : State) (f : Health → Health) : (s.modHealth f).stage = s.stage := rfl
@[simp] theorem State.modHealth_stageBad (s : State) (f : Health → Health) : (s.modHealth f).stageBad = s.stageBad := rfl
@[simp] theorem State.modHealth_csram (s : State) (f : Health → Health) : (s.modHealth f).csram = s.csram := rfl
@[simp] theorem State.modHealth_flash (s : State) (f : Health → Health) : (s.modHealth f).flash = s.flash := rfl
@[simp] theorem State.modHealth_xflash (s : State) (f : Health → Health) : (s.modHealth f).xflash = s.xflash := rfl
@[simp] theorem State.modHealth_caches (s : State) (f : Health → Health) : (s.modHealth f).caches = s.caches := rfl
@[simp] theorem State.modHealth_bar (s : State) (f : Health → Health) : (s.modHealth f).bar = s.bar := rfl
@[simp] theorem State.modHealth_tempo (s : State) (f : Health → Health) : (s.modHealth f).tempo = s.tempo := rfl
@[simp] theorem State.modHealth_chorus (s : State) (f : Health → Health) : (s.modHealth f).chorus = s.chorus := rfl
@[simp] theorem State.modHealth_mc (s : State) (f : Health → Health) : (s.modHealth f).mc = s.mc := rfl
@[simp] theorem State.modHealth_echo (s : State) (f : Health → Health) : (s.modHealth f).echo = s.echo := rfl
@[simp] theorem State.modHealth_rings (s : State) (f : Health → Health) : (s.modHealth f).rings = s.rings := rfl
@[simp] theorem State.modHealth_bm (s : State) (f : Health → Health) : (s.modHealth f).bm = s.bm := rfl
@[simp] theorem State.modHealth_boot (s : State) (f : Health → Health) : (s.modHealth f).boot = s.boot := rfl
@[simp] theorem State.modHealth_duet (s : State) (f : Health → Health) : (s.modHealth f).duet = s.duet := rfl
@[simp] theorem State.modHealth_refrain (s : State) (f : Health → Health) : (s.modHealth f).refrain = s.refrain := rfl
@[simp] theorem State.modHealth_trace (s : State) (f : Health → Health) : (s.modHealth f).trace = s.trace := rfl
@[simp] theorem State.modHealth_io (s : State) (f : Health → Health) : (s.modHealth f).io = s.io := rfl
@[simp] theorem State.modHealth_pwr (s : State) (f : Health → Health) : (s.modHealth f).pwr = s.pwr := rfl
@[simp] theorem State.modHealth_free (s : State) (f : Health → Health) : (s.modHealth f).free = s.free := rfl
@[simp] theorem State.modHealth_pending (s : State) (f : Health → Health) : (s.modHealth f).pending = s.pending := rfl
@[simp] theorem State.modHealth_health (s : State) (f : Health → Health) : (s.modHealth f).health = f s.health := rfl

/-! A change of the field `pwr`. -/

@[simp] theorem State.modPwr_die (s : State) (f : Power → Power) : (s.modPwr f).die = s.die := rfl
@[simp] theorem State.modPwr_cores (s : State) (f : Power → Power) : (s.modPwr f).cores = s.cores := rfl
@[simp] theorem State.modPwr_cdr (s : State) (f : Power → Power) : (s.modPwr f).cdr = s.cdr := rfl
@[simp] theorem State.modPwr_dram (s : State) (f : Power → Power) : (s.modPwr f).dram = s.dram := rfl
@[simp] theorem State.modPwr_chk (s : State) (f : Power → Power) : (s.modPwr f).chk = s.chk := rfl
@[simp] theorem State.modPwr_stage (s : State) (f : Power → Power) : (s.modPwr f).stage = s.stage := rfl
@[simp] theorem State.modPwr_stageBad (s : State) (f : Power → Power) : (s.modPwr f).stageBad = s.stageBad := rfl
@[simp] theorem State.modPwr_csram (s : State) (f : Power → Power) : (s.modPwr f).csram = s.csram := rfl
@[simp] theorem State.modPwr_flash (s : State) (f : Power → Power) : (s.modPwr f).flash = s.flash := rfl
@[simp] theorem State.modPwr_xflash (s : State) (f : Power → Power) : (s.modPwr f).xflash = s.xflash := rfl
@[simp] theorem State.modPwr_caches (s : State) (f : Power → Power) : (s.modPwr f).caches = s.caches := rfl
@[simp] theorem State.modPwr_bar (s : State) (f : Power → Power) : (s.modPwr f).bar = s.bar := rfl
@[simp] theorem State.modPwr_tempo (s : State) (f : Power → Power) : (s.modPwr f).tempo = s.tempo := rfl
@[simp] theorem State.modPwr_chorus (s : State) (f : Power → Power) : (s.modPwr f).chorus = s.chorus := rfl
@[simp] theorem State.modPwr_mc (s : State) (f : Power → Power) : (s.modPwr f).mc = s.mc := rfl
@[simp] theorem State.modPwr_echo (s : State) (f : Power → Power) : (s.modPwr f).echo = s.echo := rfl
@[simp] theorem State.modPwr_rings (s : State) (f : Power → Power) : (s.modPwr f).rings = s.rings := rfl
@[simp] theorem State.modPwr_bm (s : State) (f : Power → Power) : (s.modPwr f).bm = s.bm := rfl
@[simp] theorem State.modPwr_boot (s : State) (f : Power → Power) : (s.modPwr f).boot = s.boot := rfl
@[simp] theorem State.modPwr_duet (s : State) (f : Power → Power) : (s.modPwr f).duet = s.duet := rfl
@[simp] theorem State.modPwr_refrain (s : State) (f : Power → Power) : (s.modPwr f).refrain = s.refrain := rfl
@[simp] theorem State.modPwr_health (s : State) (f : Power → Power) : (s.modPwr f).health = s.health := rfl
@[simp] theorem State.modPwr_trace (s : State) (f : Power → Power) : (s.modPwr f).trace = s.trace := rfl
@[simp] theorem State.modPwr_io (s : State) (f : Power → Power) : (s.modPwr f).io = s.io := rfl
@[simp] theorem State.modPwr_free (s : State) (f : Power → Power) : (s.modPwr f).free = s.free := rfl
@[simp] theorem State.modPwr_pending (s : State) (f : Power → Power) : (s.modPwr f).pending = s.pending := rfl
@[simp] theorem State.modPwr_pwr (s : State) (f : Power → Power) : (s.modPwr f).pwr = f s.pwr := rfl

/-! A change of one of the MACs. -/

@[simp] theorem State.modEth_die (s : State) (n : Fin 2) (f : Eth → Eth) : (s.modEth n f).die = s.die := rfl
@[simp] theorem State.modEth_cores (s : State) (n : Fin 2) (f : Eth → Eth) : (s.modEth n f).cores = s.cores := rfl
@[simp] theorem State.modEth_cdr (s : State) (n : Fin 2) (f : Eth → Eth) : (s.modEth n f).cdr = s.cdr := rfl
@[simp] theorem State.modEth_dram (s : State) (n : Fin 2) (f : Eth → Eth) : (s.modEth n f).dram = s.dram := rfl
@[simp] theorem State.modEth_chk (s : State) (n : Fin 2) (f : Eth → Eth) : (s.modEth n f).chk = s.chk := rfl
@[simp] theorem State.modEth_stage (s : State) (n : Fin 2) (f : Eth → Eth) : (s.modEth n f).stage = s.stage := rfl
@[simp] theorem State.modEth_stageBad (s : State) (n : Fin 2) (f : Eth → Eth) : (s.modEth n f).stageBad = s.stageBad := rfl
@[simp] theorem State.modEth_csram (s : State) (n : Fin 2) (f : Eth → Eth) : (s.modEth n f).csram = s.csram := rfl
@[simp] theorem State.modEth_flash (s : State) (n : Fin 2) (f : Eth → Eth) : (s.modEth n f).flash = s.flash := rfl
@[simp] theorem State.modEth_xflash (s : State) (n : Fin 2) (f : Eth → Eth) : (s.modEth n f).xflash = s.xflash := rfl
@[simp] theorem State.modEth_caches (s : State) (n : Fin 2) (f : Eth → Eth) : (s.modEth n f).caches = s.caches := rfl
@[simp] theorem State.modEth_bar (s : State) (n : Fin 2) (f : Eth → Eth) : (s.modEth n f).bar = s.bar := rfl
@[simp] theorem State.modEth_tempo (s : State) (n : Fin 2) (f : Eth → Eth) : (s.modEth n f).tempo = s.tempo := rfl
@[simp] theorem State.modEth_chorus (s : State) (n : Fin 2) (f : Eth → Eth) : (s.modEth n f).chorus = s.chorus := rfl
@[simp] theorem State.modEth_mc (s : State) (n : Fin 2) (f : Eth → Eth) : (s.modEth n f).mc = s.mc := rfl
@[simp] theorem State.modEth_echo (s : State) (n : Fin 2) (f : Eth → Eth) : (s.modEth n f).echo = s.echo := rfl
@[simp] theorem State.modEth_rings (s : State) (n : Fin 2) (f : Eth → Eth) : (s.modEth n f).rings = s.rings := rfl
@[simp] theorem State.modEth_bm (s : State) (n : Fin 2) (f : Eth → Eth) : (s.modEth n f).bm = s.bm := rfl
@[simp] theorem State.modEth_boot (s : State) (n : Fin 2) (f : Eth → Eth) : (s.modEth n f).boot = s.boot := rfl
@[simp] theorem State.modEth_duet (s : State) (n : Fin 2) (f : Eth → Eth) : (s.modEth n f).duet = s.duet := rfl
@[simp] theorem State.modEth_refrain (s : State) (n : Fin 2) (f : Eth → Eth) : (s.modEth n f).refrain = s.refrain := rfl
@[simp] theorem State.modEth_health (s : State) (n : Fin 2) (f : Eth → Eth) : (s.modEth n f).health = s.health := rfl
@[simp] theorem State.modEth_trace (s : State) (n : Fin 2) (f : Eth → Eth) : (s.modEth n f).trace = s.trace := rfl
@[simp] theorem State.modEth_pwr (s : State) (n : Fin 2) (f : Eth → Eth) : (s.modEth n f).pwr = s.pwr := rfl
@[simp] theorem State.modEth_free (s : State) (n : Fin 2) (f : Eth → Eth) : (s.modEth n f).free = s.free := rfl
@[simp] theorem State.modEth_pending (s : State) (n : Fin 2) (f : Eth → Eth) : (s.modEth n f).pending = s.pending := rfl
@[simp] theorem State.modEth_same (s : State) (n : Fin 2) (f : Eth → Eth) : (s.modEth n f).eth n = f (s.eth n) := by
  simp [State.modEth, State.eth]
theorem State.modEth_other (s : State) (n m : Fin 2) (f : Eth → Eth) (h : m ≠ n) : (s.modEth n f).eth m = s.eth m := by
  have h_n : n.val ≠ m.val := fun e => h (Fin.ext e.symm)
  simp [State.modEth, State.eth, h_n]
@[simp] theorem State.modEth_id (s : State) (n : Fin 2) : s.modEth n (fun x => x) = s := by
  simp [State.modEth, State.eth]

/-! A change of one of the CAN FD controllers. -/

@[simp] theorem State.modCan_die (s : State) (n : Fin 4) (f : Can → Can) : (s.modCan n f).die = s.die := rfl
@[simp] theorem State.modCan_cores (s : State) (n : Fin 4) (f : Can → Can) : (s.modCan n f).cores = s.cores := rfl
@[simp] theorem State.modCan_cdr (s : State) (n : Fin 4) (f : Can → Can) : (s.modCan n f).cdr = s.cdr := rfl
@[simp] theorem State.modCan_dram (s : State) (n : Fin 4) (f : Can → Can) : (s.modCan n f).dram = s.dram := rfl
@[simp] theorem State.modCan_chk (s : State) (n : Fin 4) (f : Can → Can) : (s.modCan n f).chk = s.chk := rfl
@[simp] theorem State.modCan_stage (s : State) (n : Fin 4) (f : Can → Can) : (s.modCan n f).stage = s.stage := rfl
@[simp] theorem State.modCan_stageBad (s : State) (n : Fin 4) (f : Can → Can) : (s.modCan n f).stageBad = s.stageBad := rfl
@[simp] theorem State.modCan_csram (s : State) (n : Fin 4) (f : Can → Can) : (s.modCan n f).csram = s.csram := rfl
@[simp] theorem State.modCan_flash (s : State) (n : Fin 4) (f : Can → Can) : (s.modCan n f).flash = s.flash := rfl
@[simp] theorem State.modCan_xflash (s : State) (n : Fin 4) (f : Can → Can) : (s.modCan n f).xflash = s.xflash := rfl
@[simp] theorem State.modCan_caches (s : State) (n : Fin 4) (f : Can → Can) : (s.modCan n f).caches = s.caches := rfl
@[simp] theorem State.modCan_bar (s : State) (n : Fin 4) (f : Can → Can) : (s.modCan n f).bar = s.bar := rfl
@[simp] theorem State.modCan_tempo (s : State) (n : Fin 4) (f : Can → Can) : (s.modCan n f).tempo = s.tempo := rfl
@[simp] theorem State.modCan_chorus (s : State) (n : Fin 4) (f : Can → Can) : (s.modCan n f).chorus = s.chorus := rfl
@[simp] theorem State.modCan_mc (s : State) (n : Fin 4) (f : Can → Can) : (s.modCan n f).mc = s.mc := rfl
@[simp] theorem State.modCan_echo (s : State) (n : Fin 4) (f : Can → Can) : (s.modCan n f).echo = s.echo := rfl
@[simp] theorem State.modCan_rings (s : State) (n : Fin 4) (f : Can → Can) : (s.modCan n f).rings = s.rings := rfl
@[simp] theorem State.modCan_bm (s : State) (n : Fin 4) (f : Can → Can) : (s.modCan n f).bm = s.bm := rfl
@[simp] theorem State.modCan_boot (s : State) (n : Fin 4) (f : Can → Can) : (s.modCan n f).boot = s.boot := rfl
@[simp] theorem State.modCan_duet (s : State) (n : Fin 4) (f : Can → Can) : (s.modCan n f).duet = s.duet := rfl
@[simp] theorem State.modCan_refrain (s : State) (n : Fin 4) (f : Can → Can) : (s.modCan n f).refrain = s.refrain := rfl
@[simp] theorem State.modCan_health (s : State) (n : Fin 4) (f : Can → Can) : (s.modCan n f).health = s.health := rfl
@[simp] theorem State.modCan_trace (s : State) (n : Fin 4) (f : Can → Can) : (s.modCan n f).trace = s.trace := rfl
@[simp] theorem State.modCan_pwr (s : State) (n : Fin 4) (f : Can → Can) : (s.modCan n f).pwr = s.pwr := rfl
@[simp] theorem State.modCan_free (s : State) (n : Fin 4) (f : Can → Can) : (s.modCan n f).free = s.free := rfl
@[simp] theorem State.modCan_pending (s : State) (n : Fin 4) (f : Can → Can) : (s.modCan n f).pending = s.pending := rfl
@[simp] theorem State.modCan_same (s : State) (n : Fin 4) (f : Can → Can) : (s.modCan n f).can n = f (s.can n) := by
  simp [State.modCan, State.can]
theorem State.modCan_other (s : State) (n m : Fin 4) (f : Can → Can) (h : m ≠ n) : (s.modCan n f).can m = s.can m := by
  have h_n : n.val ≠ m.val := fun e => h (Fin.ext e.symm)
  simp [State.modCan, State.can, h_n]
@[simp] theorem State.modCan_id (s : State) (n : Fin 4) : s.modCan n (fun x => x) = s := by
  simp [State.modCan, State.can]

/-! A change of one of the SPI units. -/

@[simp] theorem State.modSpi_die (s : State) (n : Fin 4) (f : Spi → Spi) : (s.modSpi n f).die = s.die := rfl
@[simp] theorem State.modSpi_cores (s : State) (n : Fin 4) (f : Spi → Spi) : (s.modSpi n f).cores = s.cores := rfl
@[simp] theorem State.modSpi_cdr (s : State) (n : Fin 4) (f : Spi → Spi) : (s.modSpi n f).cdr = s.cdr := rfl
@[simp] theorem State.modSpi_dram (s : State) (n : Fin 4) (f : Spi → Spi) : (s.modSpi n f).dram = s.dram := rfl
@[simp] theorem State.modSpi_chk (s : State) (n : Fin 4) (f : Spi → Spi) : (s.modSpi n f).chk = s.chk := rfl
@[simp] theorem State.modSpi_stage (s : State) (n : Fin 4) (f : Spi → Spi) : (s.modSpi n f).stage = s.stage := rfl
@[simp] theorem State.modSpi_stageBad (s : State) (n : Fin 4) (f : Spi → Spi) : (s.modSpi n f).stageBad = s.stageBad := rfl
@[simp] theorem State.modSpi_csram (s : State) (n : Fin 4) (f : Spi → Spi) : (s.modSpi n f).csram = s.csram := rfl
@[simp] theorem State.modSpi_flash (s : State) (n : Fin 4) (f : Spi → Spi) : (s.modSpi n f).flash = s.flash := rfl
@[simp] theorem State.modSpi_xflash (s : State) (n : Fin 4) (f : Spi → Spi) : (s.modSpi n f).xflash = s.xflash := rfl
@[simp] theorem State.modSpi_caches (s : State) (n : Fin 4) (f : Spi → Spi) : (s.modSpi n f).caches = s.caches := rfl
@[simp] theorem State.modSpi_bar (s : State) (n : Fin 4) (f : Spi → Spi) : (s.modSpi n f).bar = s.bar := rfl
@[simp] theorem State.modSpi_tempo (s : State) (n : Fin 4) (f : Spi → Spi) : (s.modSpi n f).tempo = s.tempo := rfl
@[simp] theorem State.modSpi_chorus (s : State) (n : Fin 4) (f : Spi → Spi) : (s.modSpi n f).chorus = s.chorus := rfl
@[simp] theorem State.modSpi_mc (s : State) (n : Fin 4) (f : Spi → Spi) : (s.modSpi n f).mc = s.mc := rfl
@[simp] theorem State.modSpi_echo (s : State) (n : Fin 4) (f : Spi → Spi) : (s.modSpi n f).echo = s.echo := rfl
@[simp] theorem State.modSpi_rings (s : State) (n : Fin 4) (f : Spi → Spi) : (s.modSpi n f).rings = s.rings := rfl
@[simp] theorem State.modSpi_bm (s : State) (n : Fin 4) (f : Spi → Spi) : (s.modSpi n f).bm = s.bm := rfl
@[simp] theorem State.modSpi_boot (s : State) (n : Fin 4) (f : Spi → Spi) : (s.modSpi n f).boot = s.boot := rfl
@[simp] theorem State.modSpi_duet (s : State) (n : Fin 4) (f : Spi → Spi) : (s.modSpi n f).duet = s.duet := rfl
@[simp] theorem State.modSpi_refrain (s : State) (n : Fin 4) (f : Spi → Spi) : (s.modSpi n f).refrain = s.refrain := rfl
@[simp] theorem State.modSpi_health (s : State) (n : Fin 4) (f : Spi → Spi) : (s.modSpi n f).health = s.health := rfl
@[simp] theorem State.modSpi_trace (s : State) (n : Fin 4) (f : Spi → Spi) : (s.modSpi n f).trace = s.trace := rfl
@[simp] theorem State.modSpi_pwr (s : State) (n : Fin 4) (f : Spi → Spi) : (s.modSpi n f).pwr = s.pwr := rfl
@[simp] theorem State.modSpi_free (s : State) (n : Fin 4) (f : Spi → Spi) : (s.modSpi n f).free = s.free := rfl
@[simp] theorem State.modSpi_pending (s : State) (n : Fin 4) (f : Spi → Spi) : (s.modSpi n f).pending = s.pending := rfl
@[simp] theorem State.modSpi_same (s : State) (n : Fin 4) (f : Spi → Spi) : (s.modSpi n f).spi n = f (s.spi n) := by
  simp [State.modSpi, State.spi]
theorem State.modSpi_other (s : State) (n m : Fin 4) (f : Spi → Spi) (h : m ≠ n) : (s.modSpi n f).spi m = s.spi m := by
  have h_n : n.val ≠ m.val := fun e => h (Fin.ext e.symm)
  simp [State.modSpi, State.spi, h_n]
@[simp] theorem State.modSpi_id (s : State) (n : Fin 4) : s.modSpi n (fun x => x) = s := by
  simp [State.modSpi, State.spi]

/-! A change of one of the I2C units. -/

@[simp] theorem State.modI2c_die (s : State) (n : Fin 4) (f : I2c → I2c) : (s.modI2c n f).die = s.die := rfl
@[simp] theorem State.modI2c_cores (s : State) (n : Fin 4) (f : I2c → I2c) : (s.modI2c n f).cores = s.cores := rfl
@[simp] theorem State.modI2c_cdr (s : State) (n : Fin 4) (f : I2c → I2c) : (s.modI2c n f).cdr = s.cdr := rfl
@[simp] theorem State.modI2c_dram (s : State) (n : Fin 4) (f : I2c → I2c) : (s.modI2c n f).dram = s.dram := rfl
@[simp] theorem State.modI2c_chk (s : State) (n : Fin 4) (f : I2c → I2c) : (s.modI2c n f).chk = s.chk := rfl
@[simp] theorem State.modI2c_stage (s : State) (n : Fin 4) (f : I2c → I2c) : (s.modI2c n f).stage = s.stage := rfl
@[simp] theorem State.modI2c_stageBad (s : State) (n : Fin 4) (f : I2c → I2c) : (s.modI2c n f).stageBad = s.stageBad := rfl
@[simp] theorem State.modI2c_csram (s : State) (n : Fin 4) (f : I2c → I2c) : (s.modI2c n f).csram = s.csram := rfl
@[simp] theorem State.modI2c_flash (s : State) (n : Fin 4) (f : I2c → I2c) : (s.modI2c n f).flash = s.flash := rfl
@[simp] theorem State.modI2c_xflash (s : State) (n : Fin 4) (f : I2c → I2c) : (s.modI2c n f).xflash = s.xflash := rfl
@[simp] theorem State.modI2c_caches (s : State) (n : Fin 4) (f : I2c → I2c) : (s.modI2c n f).caches = s.caches := rfl
@[simp] theorem State.modI2c_bar (s : State) (n : Fin 4) (f : I2c → I2c) : (s.modI2c n f).bar = s.bar := rfl
@[simp] theorem State.modI2c_tempo (s : State) (n : Fin 4) (f : I2c → I2c) : (s.modI2c n f).tempo = s.tempo := rfl
@[simp] theorem State.modI2c_chorus (s : State) (n : Fin 4) (f : I2c → I2c) : (s.modI2c n f).chorus = s.chorus := rfl
@[simp] theorem State.modI2c_mc (s : State) (n : Fin 4) (f : I2c → I2c) : (s.modI2c n f).mc = s.mc := rfl
@[simp] theorem State.modI2c_echo (s : State) (n : Fin 4) (f : I2c → I2c) : (s.modI2c n f).echo = s.echo := rfl
@[simp] theorem State.modI2c_rings (s : State) (n : Fin 4) (f : I2c → I2c) : (s.modI2c n f).rings = s.rings := rfl
@[simp] theorem State.modI2c_bm (s : State) (n : Fin 4) (f : I2c → I2c) : (s.modI2c n f).bm = s.bm := rfl
@[simp] theorem State.modI2c_boot (s : State) (n : Fin 4) (f : I2c → I2c) : (s.modI2c n f).boot = s.boot := rfl
@[simp] theorem State.modI2c_duet (s : State) (n : Fin 4) (f : I2c → I2c) : (s.modI2c n f).duet = s.duet := rfl
@[simp] theorem State.modI2c_refrain (s : State) (n : Fin 4) (f : I2c → I2c) : (s.modI2c n f).refrain = s.refrain := rfl
@[simp] theorem State.modI2c_health (s : State) (n : Fin 4) (f : I2c → I2c) : (s.modI2c n f).health = s.health := rfl
@[simp] theorem State.modI2c_trace (s : State) (n : Fin 4) (f : I2c → I2c) : (s.modI2c n f).trace = s.trace := rfl
@[simp] theorem State.modI2c_pwr (s : State) (n : Fin 4) (f : I2c → I2c) : (s.modI2c n f).pwr = s.pwr := rfl
@[simp] theorem State.modI2c_free (s : State) (n : Fin 4) (f : I2c → I2c) : (s.modI2c n f).free = s.free := rfl
@[simp] theorem State.modI2c_pending (s : State) (n : Fin 4) (f : I2c → I2c) : (s.modI2c n f).pending = s.pending := rfl
@[simp] theorem State.modI2c_same (s : State) (n : Fin 4) (f : I2c → I2c) : (s.modI2c n f).i2c n = f (s.i2c n) := by
  simp [State.modI2c, State.i2c]
theorem State.modI2c_other (s : State) (n m : Fin 4) (f : I2c → I2c) (h : m ≠ n) : (s.modI2c n f).i2c m = s.i2c m := by
  have h_n : n.val ≠ m.val := fun e => h (Fin.ext e.symm)
  simp [State.modI2c, State.i2c, h_n]
@[simp] theorem State.modI2c_id (s : State) (n : Fin 4) : s.modI2c n (fun x => x) = s := by
  simp [State.modI2c, State.i2c]

/-! A change of one of the UARTs. -/

@[simp] theorem State.modUart_die (s : State) (n : Fin 4) (f : Uart → Uart) : (s.modUart n f).die = s.die := rfl
@[simp] theorem State.modUart_cores (s : State) (n : Fin 4) (f : Uart → Uart) : (s.modUart n f).cores = s.cores := rfl
@[simp] theorem State.modUart_cdr (s : State) (n : Fin 4) (f : Uart → Uart) : (s.modUart n f).cdr = s.cdr := rfl
@[simp] theorem State.modUart_dram (s : State) (n : Fin 4) (f : Uart → Uart) : (s.modUart n f).dram = s.dram := rfl
@[simp] theorem State.modUart_chk (s : State) (n : Fin 4) (f : Uart → Uart) : (s.modUart n f).chk = s.chk := rfl
@[simp] theorem State.modUart_stage (s : State) (n : Fin 4) (f : Uart → Uart) : (s.modUart n f).stage = s.stage := rfl
@[simp] theorem State.modUart_stageBad (s : State) (n : Fin 4) (f : Uart → Uart) : (s.modUart n f).stageBad = s.stageBad := rfl
@[simp] theorem State.modUart_csram (s : State) (n : Fin 4) (f : Uart → Uart) : (s.modUart n f).csram = s.csram := rfl
@[simp] theorem State.modUart_flash (s : State) (n : Fin 4) (f : Uart → Uart) : (s.modUart n f).flash = s.flash := rfl
@[simp] theorem State.modUart_xflash (s : State) (n : Fin 4) (f : Uart → Uart) : (s.modUart n f).xflash = s.xflash := rfl
@[simp] theorem State.modUart_caches (s : State) (n : Fin 4) (f : Uart → Uart) : (s.modUart n f).caches = s.caches := rfl
@[simp] theorem State.modUart_bar (s : State) (n : Fin 4) (f : Uart → Uart) : (s.modUart n f).bar = s.bar := rfl
@[simp] theorem State.modUart_tempo (s : State) (n : Fin 4) (f : Uart → Uart) : (s.modUart n f).tempo = s.tempo := rfl
@[simp] theorem State.modUart_chorus (s : State) (n : Fin 4) (f : Uart → Uart) : (s.modUart n f).chorus = s.chorus := rfl
@[simp] theorem State.modUart_mc (s : State) (n : Fin 4) (f : Uart → Uart) : (s.modUart n f).mc = s.mc := rfl
@[simp] theorem State.modUart_echo (s : State) (n : Fin 4) (f : Uart → Uart) : (s.modUart n f).echo = s.echo := rfl
@[simp] theorem State.modUart_rings (s : State) (n : Fin 4) (f : Uart → Uart) : (s.modUart n f).rings = s.rings := rfl
@[simp] theorem State.modUart_bm (s : State) (n : Fin 4) (f : Uart → Uart) : (s.modUart n f).bm = s.bm := rfl
@[simp] theorem State.modUart_boot (s : State) (n : Fin 4) (f : Uart → Uart) : (s.modUart n f).boot = s.boot := rfl
@[simp] theorem State.modUart_duet (s : State) (n : Fin 4) (f : Uart → Uart) : (s.modUart n f).duet = s.duet := rfl
@[simp] theorem State.modUart_refrain (s : State) (n : Fin 4) (f : Uart → Uart) : (s.modUart n f).refrain = s.refrain := rfl
@[simp] theorem State.modUart_health (s : State) (n : Fin 4) (f : Uart → Uart) : (s.modUart n f).health = s.health := rfl
@[simp] theorem State.modUart_trace (s : State) (n : Fin 4) (f : Uart → Uart) : (s.modUart n f).trace = s.trace := rfl
@[simp] theorem State.modUart_pwr (s : State) (n : Fin 4) (f : Uart → Uart) : (s.modUart n f).pwr = s.pwr := rfl
@[simp] theorem State.modUart_free (s : State) (n : Fin 4) (f : Uart → Uart) : (s.modUart n f).free = s.free := rfl
@[simp] theorem State.modUart_pending (s : State) (n : Fin 4) (f : Uart → Uart) : (s.modUart n f).pending = s.pending := rfl
@[simp] theorem State.modUart_same (s : State) (n : Fin 4) (f : Uart → Uart) : (s.modUart n f).uart n = f (s.uart n) := by
  simp [State.modUart, State.uart]
theorem State.modUart_other (s : State) (n m : Fin 4) (f : Uart → Uart) (h : m ≠ n) : (s.modUart n f).uart m = s.uart m := by
  have h_n : n.val ≠ m.val := fun e => h (Fin.ext e.symm)
  simp [State.modUart, State.uart, h_n]
@[simp] theorem State.modUart_id (s : State) (n : Fin 4) : s.modUart n (fun x => x) = s := by
  simp [State.modUart, State.uart]

/-! A change of one of the PWM channels. -/

@[simp] theorem State.modPwm_die (s : State) (n : Fin 16) (f : PwmCh → PwmCh) : (s.modPwm n f).die = s.die := rfl
@[simp] theorem State.modPwm_cores (s : State) (n : Fin 16) (f : PwmCh → PwmCh) : (s.modPwm n f).cores = s.cores := rfl
@[simp] theorem State.modPwm_cdr (s : State) (n : Fin 16) (f : PwmCh → PwmCh) : (s.modPwm n f).cdr = s.cdr := rfl
@[simp] theorem State.modPwm_dram (s : State) (n : Fin 16) (f : PwmCh → PwmCh) : (s.modPwm n f).dram = s.dram := rfl
@[simp] theorem State.modPwm_chk (s : State) (n : Fin 16) (f : PwmCh → PwmCh) : (s.modPwm n f).chk = s.chk := rfl
@[simp] theorem State.modPwm_stage (s : State) (n : Fin 16) (f : PwmCh → PwmCh) : (s.modPwm n f).stage = s.stage := rfl
@[simp] theorem State.modPwm_stageBad (s : State) (n : Fin 16) (f : PwmCh → PwmCh) : (s.modPwm n f).stageBad = s.stageBad := rfl
@[simp] theorem State.modPwm_csram (s : State) (n : Fin 16) (f : PwmCh → PwmCh) : (s.modPwm n f).csram = s.csram := rfl
@[simp] theorem State.modPwm_flash (s : State) (n : Fin 16) (f : PwmCh → PwmCh) : (s.modPwm n f).flash = s.flash := rfl
@[simp] theorem State.modPwm_xflash (s : State) (n : Fin 16) (f : PwmCh → PwmCh) : (s.modPwm n f).xflash = s.xflash := rfl
@[simp] theorem State.modPwm_caches (s : State) (n : Fin 16) (f : PwmCh → PwmCh) : (s.modPwm n f).caches = s.caches := rfl
@[simp] theorem State.modPwm_bar (s : State) (n : Fin 16) (f : PwmCh → PwmCh) : (s.modPwm n f).bar = s.bar := rfl
@[simp] theorem State.modPwm_tempo (s : State) (n : Fin 16) (f : PwmCh → PwmCh) : (s.modPwm n f).tempo = s.tempo := rfl
@[simp] theorem State.modPwm_chorus (s : State) (n : Fin 16) (f : PwmCh → PwmCh) : (s.modPwm n f).chorus = s.chorus := rfl
@[simp] theorem State.modPwm_mc (s : State) (n : Fin 16) (f : PwmCh → PwmCh) : (s.modPwm n f).mc = s.mc := rfl
@[simp] theorem State.modPwm_echo (s : State) (n : Fin 16) (f : PwmCh → PwmCh) : (s.modPwm n f).echo = s.echo := rfl
@[simp] theorem State.modPwm_rings (s : State) (n : Fin 16) (f : PwmCh → PwmCh) : (s.modPwm n f).rings = s.rings := rfl
@[simp] theorem State.modPwm_bm (s : State) (n : Fin 16) (f : PwmCh → PwmCh) : (s.modPwm n f).bm = s.bm := rfl
@[simp] theorem State.modPwm_boot (s : State) (n : Fin 16) (f : PwmCh → PwmCh) : (s.modPwm n f).boot = s.boot := rfl
@[simp] theorem State.modPwm_duet (s : State) (n : Fin 16) (f : PwmCh → PwmCh) : (s.modPwm n f).duet = s.duet := rfl
@[simp] theorem State.modPwm_refrain (s : State) (n : Fin 16) (f : PwmCh → PwmCh) : (s.modPwm n f).refrain = s.refrain := rfl
@[simp] theorem State.modPwm_health (s : State) (n : Fin 16) (f : PwmCh → PwmCh) : (s.modPwm n f).health = s.health := rfl
@[simp] theorem State.modPwm_trace (s : State) (n : Fin 16) (f : PwmCh → PwmCh) : (s.modPwm n f).trace = s.trace := rfl
@[simp] theorem State.modPwm_pwr (s : State) (n : Fin 16) (f : PwmCh → PwmCh) : (s.modPwm n f).pwr = s.pwr := rfl
@[simp] theorem State.modPwm_free (s : State) (n : Fin 16) (f : PwmCh → PwmCh) : (s.modPwm n f).free = s.free := rfl
@[simp] theorem State.modPwm_pending (s : State) (n : Fin 16) (f : PwmCh → PwmCh) : (s.modPwm n f).pending = s.pending := rfl
@[simp] theorem State.modPwm_same (s : State) (n : Fin 16) (f : PwmCh → PwmCh) : (s.modPwm n f).pwmCh n = f (s.pwmCh n) := by
  simp [State.modPwm, State.pwmCh]
theorem State.modPwm_other (s : State) (n m : Fin 16) (f : PwmCh → PwmCh) (h : m ≠ n) : (s.modPwm n f).pwmCh m = s.pwmCh m := by
  have h_n : n.val ≠ m.val := fun e => h (Fin.ext e.symm)
  simp [State.modPwm, State.pwmCh, h_n]
@[simp] theorem State.modPwm_id (s : State) (n : Fin 16) : s.modPwm n (fun x => x) = s := by
  simp [State.modPwm, State.pwmCh]

/-! A change of one of the comparators. -/

@[simp] theorem State.modAcmp_die (s : State) (n : Fin 8) (f : Acmp → Acmp) : (s.modAcmp n f).die = s.die := rfl
@[simp] theorem State.modAcmp_cores (s : State) (n : Fin 8) (f : Acmp → Acmp) : (s.modAcmp n f).cores = s.cores := rfl
@[simp] theorem State.modAcmp_cdr (s : State) (n : Fin 8) (f : Acmp → Acmp) : (s.modAcmp n f).cdr = s.cdr := rfl
@[simp] theorem State.modAcmp_dram (s : State) (n : Fin 8) (f : Acmp → Acmp) : (s.modAcmp n f).dram = s.dram := rfl
@[simp] theorem State.modAcmp_chk (s : State) (n : Fin 8) (f : Acmp → Acmp) : (s.modAcmp n f).chk = s.chk := rfl
@[simp] theorem State.modAcmp_stage (s : State) (n : Fin 8) (f : Acmp → Acmp) : (s.modAcmp n f).stage = s.stage := rfl
@[simp] theorem State.modAcmp_stageBad (s : State) (n : Fin 8) (f : Acmp → Acmp) : (s.modAcmp n f).stageBad = s.stageBad := rfl
@[simp] theorem State.modAcmp_csram (s : State) (n : Fin 8) (f : Acmp → Acmp) : (s.modAcmp n f).csram = s.csram := rfl
@[simp] theorem State.modAcmp_flash (s : State) (n : Fin 8) (f : Acmp → Acmp) : (s.modAcmp n f).flash = s.flash := rfl
@[simp] theorem State.modAcmp_xflash (s : State) (n : Fin 8) (f : Acmp → Acmp) : (s.modAcmp n f).xflash = s.xflash := rfl
@[simp] theorem State.modAcmp_caches (s : State) (n : Fin 8) (f : Acmp → Acmp) : (s.modAcmp n f).caches = s.caches := rfl
@[simp] theorem State.modAcmp_bar (s : State) (n : Fin 8) (f : Acmp → Acmp) : (s.modAcmp n f).bar = s.bar := rfl
@[simp] theorem State.modAcmp_tempo (s : State) (n : Fin 8) (f : Acmp → Acmp) : (s.modAcmp n f).tempo = s.tempo := rfl
@[simp] theorem State.modAcmp_chorus (s : State) (n : Fin 8) (f : Acmp → Acmp) : (s.modAcmp n f).chorus = s.chorus := rfl
@[simp] theorem State.modAcmp_mc (s : State) (n : Fin 8) (f : Acmp → Acmp) : (s.modAcmp n f).mc = s.mc := rfl
@[simp] theorem State.modAcmp_echo (s : State) (n : Fin 8) (f : Acmp → Acmp) : (s.modAcmp n f).echo = s.echo := rfl
@[simp] theorem State.modAcmp_rings (s : State) (n : Fin 8) (f : Acmp → Acmp) : (s.modAcmp n f).rings = s.rings := rfl
@[simp] theorem State.modAcmp_bm (s : State) (n : Fin 8) (f : Acmp → Acmp) : (s.modAcmp n f).bm = s.bm := rfl
@[simp] theorem State.modAcmp_boot (s : State) (n : Fin 8) (f : Acmp → Acmp) : (s.modAcmp n f).boot = s.boot := rfl
@[simp] theorem State.modAcmp_duet (s : State) (n : Fin 8) (f : Acmp → Acmp) : (s.modAcmp n f).duet = s.duet := rfl
@[simp] theorem State.modAcmp_refrain (s : State) (n : Fin 8) (f : Acmp → Acmp) : (s.modAcmp n f).refrain = s.refrain := rfl
@[simp] theorem State.modAcmp_health (s : State) (n : Fin 8) (f : Acmp → Acmp) : (s.modAcmp n f).health = s.health := rfl
@[simp] theorem State.modAcmp_trace (s : State) (n : Fin 8) (f : Acmp → Acmp) : (s.modAcmp n f).trace = s.trace := rfl
@[simp] theorem State.modAcmp_pwr (s : State) (n : Fin 8) (f : Acmp → Acmp) : (s.modAcmp n f).pwr = s.pwr := rfl
@[simp] theorem State.modAcmp_free (s : State) (n : Fin 8) (f : Acmp → Acmp) : (s.modAcmp n f).free = s.free := rfl
@[simp] theorem State.modAcmp_pending (s : State) (n : Fin 8) (f : Acmp → Acmp) : (s.modAcmp n f).pending = s.pending := rfl
@[simp] theorem State.modAcmp_same (s : State) (n : Fin 8) (f : Acmp → Acmp) : (s.modAcmp n f).acmp n = f (s.acmp n) := by
  simp [State.modAcmp, State.acmp]
theorem State.modAcmp_other (s : State) (n m : Fin 8) (f : Acmp → Acmp) (h : m ≠ n) : (s.modAcmp n f).acmp m = s.acmp m := by
  have h_n : n.val ≠ m.val := fun e => h (Fin.ext e.symm)
  simp [State.modAcmp, State.acmp, h_n]
@[simp] theorem State.modAcmp_id (s : State) (n : Fin 8) : s.modAcmp n (fun x => x) = s := by
  simp [State.modAcmp, State.acmp]

/-! A change of one of the blocks of the Bar unit. -/

@[simp] theorem State.modCbar_die (s : State) (n : Fin 12) (f : CoreBar → CoreBar) : (s.modCbar n f).die = s.die := rfl
@[simp] theorem State.modCbar_cores (s : State) (n : Fin 12) (f : CoreBar → CoreBar) : (s.modCbar n f).cores = s.cores := rfl
@[simp] theorem State.modCbar_cdr (s : State) (n : Fin 12) (f : CoreBar → CoreBar) : (s.modCbar n f).cdr = s.cdr := rfl
@[simp] theorem State.modCbar_dram (s : State) (n : Fin 12) (f : CoreBar → CoreBar) : (s.modCbar n f).dram = s.dram := rfl
@[simp] theorem State.modCbar_chk (s : State) (n : Fin 12) (f : CoreBar → CoreBar) : (s.modCbar n f).chk = s.chk := rfl
@[simp] theorem State.modCbar_stage (s : State) (n : Fin 12) (f : CoreBar → CoreBar) : (s.modCbar n f).stage = s.stage := rfl
@[simp] theorem State.modCbar_stageBad (s : State) (n : Fin 12) (f : CoreBar → CoreBar) : (s.modCbar n f).stageBad = s.stageBad := rfl
@[simp] theorem State.modCbar_csram (s : State) (n : Fin 12) (f : CoreBar → CoreBar) : (s.modCbar n f).csram = s.csram := rfl
@[simp] theorem State.modCbar_flash (s : State) (n : Fin 12) (f : CoreBar → CoreBar) : (s.modCbar n f).flash = s.flash := rfl
@[simp] theorem State.modCbar_xflash (s : State) (n : Fin 12) (f : CoreBar → CoreBar) : (s.modCbar n f).xflash = s.xflash := rfl
@[simp] theorem State.modCbar_caches (s : State) (n : Fin 12) (f : CoreBar → CoreBar) : (s.modCbar n f).caches = s.caches := rfl
@[simp] theorem State.modCbar_tempo (s : State) (n : Fin 12) (f : CoreBar → CoreBar) : (s.modCbar n f).tempo = s.tempo := rfl
@[simp] theorem State.modCbar_chorus (s : State) (n : Fin 12) (f : CoreBar → CoreBar) : (s.modCbar n f).chorus = s.chorus := rfl
@[simp] theorem State.modCbar_mc (s : State) (n : Fin 12) (f : CoreBar → CoreBar) : (s.modCbar n f).mc = s.mc := rfl
@[simp] theorem State.modCbar_echo (s : State) (n : Fin 12) (f : CoreBar → CoreBar) : (s.modCbar n f).echo = s.echo := rfl
@[simp] theorem State.modCbar_rings (s : State) (n : Fin 12) (f : CoreBar → CoreBar) : (s.modCbar n f).rings = s.rings := rfl
@[simp] theorem State.modCbar_bm (s : State) (n : Fin 12) (f : CoreBar → CoreBar) : (s.modCbar n f).bm = s.bm := rfl
@[simp] theorem State.modCbar_boot (s : State) (n : Fin 12) (f : CoreBar → CoreBar) : (s.modCbar n f).boot = s.boot := rfl
@[simp] theorem State.modCbar_duet (s : State) (n : Fin 12) (f : CoreBar → CoreBar) : (s.modCbar n f).duet = s.duet := rfl
@[simp] theorem State.modCbar_refrain (s : State) (n : Fin 12) (f : CoreBar → CoreBar) : (s.modCbar n f).refrain = s.refrain := rfl
@[simp] theorem State.modCbar_health (s : State) (n : Fin 12) (f : CoreBar → CoreBar) : (s.modCbar n f).health = s.health := rfl
@[simp] theorem State.modCbar_trace (s : State) (n : Fin 12) (f : CoreBar → CoreBar) : (s.modCbar n f).trace = s.trace := rfl
@[simp] theorem State.modCbar_io (s : State) (n : Fin 12) (f : CoreBar → CoreBar) : (s.modCbar n f).io = s.io := rfl
@[simp] theorem State.modCbar_pwr (s : State) (n : Fin 12) (f : CoreBar → CoreBar) : (s.modCbar n f).pwr = s.pwr := rfl
@[simp] theorem State.modCbar_free (s : State) (n : Fin 12) (f : CoreBar → CoreBar) : (s.modCbar n f).free = s.free := rfl
@[simp] theorem State.modCbar_pending (s : State) (n : Fin 12) (f : CoreBar → CoreBar) : (s.modCbar n f).pending = s.pending := rfl
@[simp] theorem State.modCbar_same (s : State) (n : Fin 12) (f : CoreBar → CoreBar) : (s.modCbar n f).cbar n = f (s.cbar n) := by
  simp [State.modCbar, State.cbar]
theorem State.modCbar_other (s : State) (n m : Fin 12) (f : CoreBar → CoreBar) (h : m ≠ n) : (s.modCbar n f).cbar m = s.cbar m := by
  have h_n : n.val ≠ m.val := fun e => h (Fin.ext e.symm)
  simp [State.modCbar, State.cbar, h_n]
@[simp] theorem State.modCbar_id (s : State) (n : Fin 12) : s.modCbar n (fun x => x) = s := by
  simp [State.modCbar, State.cbar]

/-! A change of GPIO. -/

@[simp] theorem State.modGpio_die (s : State) (f : Gpio → Gpio) : (s.modGpio f).die = s.die := rfl
@[simp] theorem State.modGpio_cores (s : State) (f : Gpio → Gpio) : (s.modGpio f).cores = s.cores := rfl
@[simp] theorem State.modGpio_cdr (s : State) (f : Gpio → Gpio) : (s.modGpio f).cdr = s.cdr := rfl
@[simp] theorem State.modGpio_dram (s : State) (f : Gpio → Gpio) : (s.modGpio f).dram = s.dram := rfl
@[simp] theorem State.modGpio_chk (s : State) (f : Gpio → Gpio) : (s.modGpio f).chk = s.chk := rfl
@[simp] theorem State.modGpio_stage (s : State) (f : Gpio → Gpio) : (s.modGpio f).stage = s.stage := rfl
@[simp] theorem State.modGpio_stageBad (s : State) (f : Gpio → Gpio) : (s.modGpio f).stageBad = s.stageBad := rfl
@[simp] theorem State.modGpio_csram (s : State) (f : Gpio → Gpio) : (s.modGpio f).csram = s.csram := rfl
@[simp] theorem State.modGpio_flash (s : State) (f : Gpio → Gpio) : (s.modGpio f).flash = s.flash := rfl
@[simp] theorem State.modGpio_xflash (s : State) (f : Gpio → Gpio) : (s.modGpio f).xflash = s.xflash := rfl
@[simp] theorem State.modGpio_caches (s : State) (f : Gpio → Gpio) : (s.modGpio f).caches = s.caches := rfl
@[simp] theorem State.modGpio_bar (s : State) (f : Gpio → Gpio) : (s.modGpio f).bar = s.bar := rfl
@[simp] theorem State.modGpio_tempo (s : State) (f : Gpio → Gpio) : (s.modGpio f).tempo = s.tempo := rfl
@[simp] theorem State.modGpio_chorus (s : State) (f : Gpio → Gpio) : (s.modGpio f).chorus = s.chorus := rfl
@[simp] theorem State.modGpio_mc (s : State) (f : Gpio → Gpio) : (s.modGpio f).mc = s.mc := rfl
@[simp] theorem State.modGpio_echo (s : State) (f : Gpio → Gpio) : (s.modGpio f).echo = s.echo := rfl
@[simp] theorem State.modGpio_rings (s : State) (f : Gpio → Gpio) : (s.modGpio f).rings = s.rings := rfl
@[simp] theorem State.modGpio_bm (s : State) (f : Gpio → Gpio) : (s.modGpio f).bm = s.bm := rfl
@[simp] theorem State.modGpio_boot (s : State) (f : Gpio → Gpio) : (s.modGpio f).boot = s.boot := rfl
@[simp] theorem State.modGpio_duet (s : State) (f : Gpio → Gpio) : (s.modGpio f).duet = s.duet := rfl
@[simp] theorem State.modGpio_refrain (s : State) (f : Gpio → Gpio) : (s.modGpio f).refrain = s.refrain := rfl
@[simp] theorem State.modGpio_health (s : State) (f : Gpio → Gpio) : (s.modGpio f).health = s.health := rfl
@[simp] theorem State.modGpio_trace (s : State) (f : Gpio → Gpio) : (s.modGpio f).trace = s.trace := rfl
@[simp] theorem State.modGpio_pwr (s : State) (f : Gpio → Gpio) : (s.modGpio f).pwr = s.pwr := rfl
@[simp] theorem State.modGpio_free (s : State) (f : Gpio → Gpio) : (s.modGpio f).free = s.free := rfl
@[simp] theorem State.modGpio_pending (s : State) (f : Gpio → Gpio) : (s.modGpio f).pending = s.pending := rfl
@[simp] theorem State.modGpio_gpio (s : State) (f : Gpio → Gpio) : (s.modGpio f).io.gpio = f s.io.gpio := rfl

/-! A change of a pool. -/

@[simp] theorem State.setPool_die (s : State) (p : Fin 32) (x : Pool) : (s.setPool p x).die = s.die := rfl
@[simp] theorem State.setPool_cores (s : State) (p : Fin 32) (x : Pool) : (s.setPool p x).cores = s.cores := rfl
@[simp] theorem State.setPool_cdr (s : State) (p : Fin 32) (x : Pool) : (s.setPool p x).cdr = s.cdr := rfl
@[simp] theorem State.setPool_dram (s : State) (p : Fin 32) (x : Pool) : (s.setPool p x).dram = s.dram := rfl
@[simp] theorem State.setPool_chk (s : State) (p : Fin 32) (x : Pool) : (s.setPool p x).chk = s.chk := rfl
@[simp] theorem State.setPool_stage (s : State) (p : Fin 32) (x : Pool) : (s.setPool p x).stage = s.stage := rfl
@[simp] theorem State.setPool_stageBad (s : State) (p : Fin 32) (x : Pool) : (s.setPool p x).stageBad = s.stageBad := rfl
@[simp] theorem State.setPool_csram (s : State) (p : Fin 32) (x : Pool) : (s.setPool p x).csram = s.csram := rfl
@[simp] theorem State.setPool_flash (s : State) (p : Fin 32) (x : Pool) : (s.setPool p x).flash = s.flash := rfl
@[simp] theorem State.setPool_xflash (s : State) (p : Fin 32) (x : Pool) : (s.setPool p x).xflash = s.xflash := rfl
@[simp] theorem State.setPool_caches (s : State) (p : Fin 32) (x : Pool) : (s.setPool p x).caches = s.caches := rfl
@[simp] theorem State.setPool_bar (s : State) (p : Fin 32) (x : Pool) : (s.setPool p x).bar = s.bar := rfl
@[simp] theorem State.setPool_tempo (s : State) (p : Fin 32) (x : Pool) : (s.setPool p x).tempo = s.tempo := rfl
@[simp] theorem State.setPool_chorus (s : State) (p : Fin 32) (x : Pool) : (s.setPool p x).chorus = s.chorus := rfl
@[simp] theorem State.setPool_mc (s : State) (p : Fin 32) (x : Pool) : (s.setPool p x).mc = s.mc := rfl
@[simp] theorem State.setPool_echo (s : State) (p : Fin 32) (x : Pool) : (s.setPool p x).echo = s.echo := rfl
@[simp] theorem State.setPool_rings (s : State) (p : Fin 32) (x : Pool) : (s.setPool p x).rings = s.rings := rfl
@[simp] theorem State.setPool_boot (s : State) (p : Fin 32) (x : Pool) : (s.setPool p x).boot = s.boot := rfl
@[simp] theorem State.setPool_duet (s : State) (p : Fin 32) (x : Pool) : (s.setPool p x).duet = s.duet := rfl
@[simp] theorem State.setPool_refrain (s : State) (p : Fin 32) (x : Pool) : (s.setPool p x).refrain = s.refrain := rfl
@[simp] theorem State.setPool_health (s : State) (p : Fin 32) (x : Pool) : (s.setPool p x).health = s.health := rfl
@[simp] theorem State.setPool_trace (s : State) (p : Fin 32) (x : Pool) : (s.setPool p x).trace = s.trace := rfl
@[simp] theorem State.setPool_io (s : State) (p : Fin 32) (x : Pool) : (s.setPool p x).io = s.io := rfl
@[simp] theorem State.setPool_pwr (s : State) (p : Fin 32) (x : Pool) : (s.setPool p x).pwr = s.pwr := rfl
@[simp] theorem State.setPool_free (s : State) (p : Fin 32) (x : Pool) : (s.setPool p x).free = s.free := rfl
@[simp] theorem State.setPool_pending (s : State) (p : Fin 32) (x : Pool) : (s.setPool p x).pending = s.pending := rfl
@[simp] theorem State.setPool_same (s : State) (p : Fin 32) (x : Pool) : (s.setPool p x).pool p = x := by
  simp [State.setPool, State.pool]
theorem State.setPool_other (s : State) (p q : Fin 32) (x : Pool) (h : q ≠ p) : (s.setPool p x).pool q = s.pool q := by
  have h_n : p.val ≠ q.val := fun e => h (Fin.ext e.symm)
  simp [State.setPool, State.pool, h_n]

/-! A change of a trace section. -/

@[simp] theorem State.modTsec_die (s : State) (sec : Fin 3) (f : TraceSec → TraceSec) : (s.modTsec sec f).die = s.die := rfl
@[simp] theorem State.modTsec_cores (s : State) (sec : Fin 3) (f : TraceSec → TraceSec) : (s.modTsec sec f).cores = s.cores := rfl
@[simp] theorem State.modTsec_cdr (s : State) (sec : Fin 3) (f : TraceSec → TraceSec) : (s.modTsec sec f).cdr = s.cdr := rfl
@[simp] theorem State.modTsec_dram (s : State) (sec : Fin 3) (f : TraceSec → TraceSec) : (s.modTsec sec f).dram = s.dram := rfl
@[simp] theorem State.modTsec_chk (s : State) (sec : Fin 3) (f : TraceSec → TraceSec) : (s.modTsec sec f).chk = s.chk := rfl
@[simp] theorem State.modTsec_stage (s : State) (sec : Fin 3) (f : TraceSec → TraceSec) : (s.modTsec sec f).stage = s.stage := rfl
@[simp] theorem State.modTsec_stageBad (s : State) (sec : Fin 3) (f : TraceSec → TraceSec) : (s.modTsec sec f).stageBad = s.stageBad := rfl
@[simp] theorem State.modTsec_csram (s : State) (sec : Fin 3) (f : TraceSec → TraceSec) : (s.modTsec sec f).csram = s.csram := rfl
@[simp] theorem State.modTsec_flash (s : State) (sec : Fin 3) (f : TraceSec → TraceSec) : (s.modTsec sec f).flash = s.flash := rfl
@[simp] theorem State.modTsec_xflash (s : State) (sec : Fin 3) (f : TraceSec → TraceSec) : (s.modTsec sec f).xflash = s.xflash := rfl
@[simp] theorem State.modTsec_caches (s : State) (sec : Fin 3) (f : TraceSec → TraceSec) : (s.modTsec sec f).caches = s.caches := rfl
@[simp] theorem State.modTsec_bar (s : State) (sec : Fin 3) (f : TraceSec → TraceSec) : (s.modTsec sec f).bar = s.bar := rfl
@[simp] theorem State.modTsec_tempo (s : State) (sec : Fin 3) (f : TraceSec → TraceSec) : (s.modTsec sec f).tempo = s.tempo := rfl
@[simp] theorem State.modTsec_chorus (s : State) (sec : Fin 3) (f : TraceSec → TraceSec) : (s.modTsec sec f).chorus = s.chorus := rfl
@[simp] theorem State.modTsec_mc (s : State) (sec : Fin 3) (f : TraceSec → TraceSec) : (s.modTsec sec f).mc = s.mc := rfl
@[simp] theorem State.modTsec_echo (s : State) (sec : Fin 3) (f : TraceSec → TraceSec) : (s.modTsec sec f).echo = s.echo := rfl
@[simp] theorem State.modTsec_rings (s : State) (sec : Fin 3) (f : TraceSec → TraceSec) : (s.modTsec sec f).rings = s.rings := rfl
@[simp] theorem State.modTsec_bm (s : State) (sec : Fin 3) (f : TraceSec → TraceSec) : (s.modTsec sec f).bm = s.bm := rfl
@[simp] theorem State.modTsec_boot (s : State) (sec : Fin 3) (f : TraceSec → TraceSec) : (s.modTsec sec f).boot = s.boot := rfl
@[simp] theorem State.modTsec_duet (s : State) (sec : Fin 3) (f : TraceSec → TraceSec) : (s.modTsec sec f).duet = s.duet := rfl
@[simp] theorem State.modTsec_refrain (s : State) (sec : Fin 3) (f : TraceSec → TraceSec) : (s.modTsec sec f).refrain = s.refrain := rfl
@[simp] theorem State.modTsec_health (s : State) (sec : Fin 3) (f : TraceSec → TraceSec) : (s.modTsec sec f).health = s.health := rfl
@[simp] theorem State.modTsec_io (s : State) (sec : Fin 3) (f : TraceSec → TraceSec) : (s.modTsec sec f).io = s.io := rfl
@[simp] theorem State.modTsec_pwr (s : State) (sec : Fin 3) (f : TraceSec → TraceSec) : (s.modTsec sec f).pwr = s.pwr := rfl
@[simp] theorem State.modTsec_free (s : State) (sec : Fin 3) (f : TraceSec → TraceSec) : (s.modTsec sec f).free = s.free := rfl
@[simp] theorem State.modTsec_pending (s : State) (sec : Fin 3) (f : TraceSec → TraceSec) : (s.modTsec sec f).pending = s.pending := rfl

/-! A change of Voice cores. -/

@[simp] theorem State.setCore_die (s : State) (c : Fin 12) (v : VoiceCore) : (s.setCore c v).die = s.die := rfl
@[simp] theorem State.setCore_cdr (s : State) (c : Fin 12) (v : VoiceCore) : (s.setCore c v).cdr = s.cdr := rfl
@[simp] theorem State.setCore_dram (s : State) (c : Fin 12) (v : VoiceCore) : (s.setCore c v).dram = s.dram := rfl
@[simp] theorem State.setCore_chk (s : State) (c : Fin 12) (v : VoiceCore) : (s.setCore c v).chk = s.chk := rfl
@[simp] theorem State.setCore_stage (s : State) (c : Fin 12) (v : VoiceCore) : (s.setCore c v).stage = s.stage := rfl
@[simp] theorem State.setCore_stageBad (s : State) (c : Fin 12) (v : VoiceCore) : (s.setCore c v).stageBad = s.stageBad := rfl
@[simp] theorem State.setCore_csram (s : State) (c : Fin 12) (v : VoiceCore) : (s.setCore c v).csram = s.csram := rfl
@[simp] theorem State.setCore_flash (s : State) (c : Fin 12) (v : VoiceCore) : (s.setCore c v).flash = s.flash := rfl
@[simp] theorem State.setCore_xflash (s : State) (c : Fin 12) (v : VoiceCore) : (s.setCore c v).xflash = s.xflash := rfl
@[simp] theorem State.setCore_caches (s : State) (c : Fin 12) (v : VoiceCore) : (s.setCore c v).caches = s.caches := rfl
@[simp] theorem State.setCore_bar (s : State) (c : Fin 12) (v : VoiceCore) : (s.setCore c v).bar = s.bar := rfl
@[simp] theorem State.setCore_tempo (s : State) (c : Fin 12) (v : VoiceCore) : (s.setCore c v).tempo = s.tempo := rfl
@[simp] theorem State.setCore_chorus (s : State) (c : Fin 12) (v : VoiceCore) : (s.setCore c v).chorus = s.chorus := rfl
@[simp] theorem State.setCore_mc (s : State) (c : Fin 12) (v : VoiceCore) : (s.setCore c v).mc = s.mc := rfl
@[simp] theorem State.setCore_echo (s : State) (c : Fin 12) (v : VoiceCore) : (s.setCore c v).echo = s.echo := rfl
@[simp] theorem State.setCore_rings (s : State) (c : Fin 12) (v : VoiceCore) : (s.setCore c v).rings = s.rings := rfl
@[simp] theorem State.setCore_bm (s : State) (c : Fin 12) (v : VoiceCore) : (s.setCore c v).bm = s.bm := rfl
@[simp] theorem State.setCore_boot (s : State) (c : Fin 12) (v : VoiceCore) : (s.setCore c v).boot = s.boot := rfl
@[simp] theorem State.setCore_duet (s : State) (c : Fin 12) (v : VoiceCore) : (s.setCore c v).duet = s.duet := rfl
@[simp] theorem State.setCore_refrain (s : State) (c : Fin 12) (v : VoiceCore) : (s.setCore c v).refrain = s.refrain := rfl
@[simp] theorem State.setCore_health (s : State) (c : Fin 12) (v : VoiceCore) : (s.setCore c v).health = s.health := rfl
@[simp] theorem State.setCore_trace (s : State) (c : Fin 12) (v : VoiceCore) : (s.setCore c v).trace = s.trace := rfl
@[simp] theorem State.setCore_io (s : State) (c : Fin 12) (v : VoiceCore) : (s.setCore c v).io = s.io := rfl
@[simp] theorem State.setCore_pwr (s : State) (c : Fin 12) (v : VoiceCore) : (s.setCore c v).pwr = s.pwr := rfl
@[simp] theorem State.setCore_free (s : State) (c : Fin 12) (v : VoiceCore) : (s.setCore c v).free = s.free := rfl
@[simp] theorem State.setCore_pending (s : State) (c : Fin 12) (v : VoiceCore) : (s.setCore c v).pending = s.pending := rfl
@[simp] theorem State.setCore_same (s : State) (c : Fin 12) (v : VoiceCore) : (s.setCore c v).core c = v := by
  simp [State.setCore, State.core]
theorem State.setCore_other (s : State) (c d : Fin 12) (v : VoiceCore) (h : d ≠ c) : (s.setCore c v).core d = s.core d := by
  have h_n : c.val ≠ d.val := fun e => h (Fin.ext e.symm)
  simp [State.setCore, State.core, h_n]

/-! A change of Voice cores. -/

@[simp] theorem State.modCore_die (s : State) (c : Fin 12) (f : VoiceCore → VoiceCore) : (s.modCore c f).die = s.die := rfl
@[simp] theorem State.modCore_cdr (s : State) (c : Fin 12) (f : VoiceCore → VoiceCore) : (s.modCore c f).cdr = s.cdr := rfl
@[simp] theorem State.modCore_dram (s : State) (c : Fin 12) (f : VoiceCore → VoiceCore) : (s.modCore c f).dram = s.dram := rfl
@[simp] theorem State.modCore_chk (s : State) (c : Fin 12) (f : VoiceCore → VoiceCore) : (s.modCore c f).chk = s.chk := rfl
@[simp] theorem State.modCore_stage (s : State) (c : Fin 12) (f : VoiceCore → VoiceCore) : (s.modCore c f).stage = s.stage := rfl
@[simp] theorem State.modCore_stageBad (s : State) (c : Fin 12) (f : VoiceCore → VoiceCore) : (s.modCore c f).stageBad = s.stageBad := rfl
@[simp] theorem State.modCore_csram (s : State) (c : Fin 12) (f : VoiceCore → VoiceCore) : (s.modCore c f).csram = s.csram := rfl
@[simp] theorem State.modCore_flash (s : State) (c : Fin 12) (f : VoiceCore → VoiceCore) : (s.modCore c f).flash = s.flash := rfl
@[simp] theorem State.modCore_xflash (s : State) (c : Fin 12) (f : VoiceCore → VoiceCore) : (s.modCore c f).xflash = s.xflash := rfl
@[simp] theorem State.modCore_caches (s : State) (c : Fin 12) (f : VoiceCore → VoiceCore) : (s.modCore c f).caches = s.caches := rfl
@[simp] theorem State.modCore_bar (s : State) (c : Fin 12) (f : VoiceCore → VoiceCore) : (s.modCore c f).bar = s.bar := rfl
@[simp] theorem State.modCore_tempo (s : State) (c : Fin 12) (f : VoiceCore → VoiceCore) : (s.modCore c f).tempo = s.tempo := rfl
@[simp] theorem State.modCore_chorus (s : State) (c : Fin 12) (f : VoiceCore → VoiceCore) : (s.modCore c f).chorus = s.chorus := rfl
@[simp] theorem State.modCore_mc (s : State) (c : Fin 12) (f : VoiceCore → VoiceCore) : (s.modCore c f).mc = s.mc := rfl
@[simp] theorem State.modCore_echo (s : State) (c : Fin 12) (f : VoiceCore → VoiceCore) : (s.modCore c f).echo = s.echo := rfl
@[simp] theorem State.modCore_rings (s : State) (c : Fin 12) (f : VoiceCore → VoiceCore) : (s.modCore c f).rings = s.rings := rfl
@[simp] theorem State.modCore_bm (s : State) (c : Fin 12) (f : VoiceCore → VoiceCore) : (s.modCore c f).bm = s.bm := rfl
@[simp] theorem State.modCore_boot (s : State) (c : Fin 12) (f : VoiceCore → VoiceCore) : (s.modCore c f).boot = s.boot := rfl
@[simp] theorem State.modCore_duet (s : State) (c : Fin 12) (f : VoiceCore → VoiceCore) : (s.modCore c f).duet = s.duet := rfl
@[simp] theorem State.modCore_refrain (s : State) (c : Fin 12) (f : VoiceCore → VoiceCore) : (s.modCore c f).refrain = s.refrain := rfl
@[simp] theorem State.modCore_health (s : State) (c : Fin 12) (f : VoiceCore → VoiceCore) : (s.modCore c f).health = s.health := rfl
@[simp] theorem State.modCore_trace (s : State) (c : Fin 12) (f : VoiceCore → VoiceCore) : (s.modCore c f).trace = s.trace := rfl
@[simp] theorem State.modCore_io (s : State) (c : Fin 12) (f : VoiceCore → VoiceCore) : (s.modCore c f).io = s.io := rfl
@[simp] theorem State.modCore_pwr (s : State) (c : Fin 12) (f : VoiceCore → VoiceCore) : (s.modCore c f).pwr = s.pwr := rfl
@[simp] theorem State.modCore_free (s : State) (c : Fin 12) (f : VoiceCore → VoiceCore) : (s.modCore c f).free = s.free := rfl
@[simp] theorem State.modCore_pending (s : State) (c : Fin 12) (f : VoiceCore → VoiceCore) : (s.modCore c f).pending = s.pending := rfl
@[simp] theorem State.modCore_same (s : State) (c : Fin 12) (f : VoiceCore → VoiceCore) : (s.modCore c f).core c = f (s.core c) := by
  simp [State.modCore, State.setCore, State.core]
theorem State.modCore_other (s : State) (c d : Fin 12) (f : VoiceCore → VoiceCore) (h : d ≠ c) : (s.modCore c f).core d = s.core d :=
  State.setCore_other s c d _ h

/-! A change of Voice cores. -/

@[simp] theorem State.mapCores_die (s : State) (f : Fin 12 → VoiceCore → VoiceCore) : (s.mapCores f).die = s.die := rfl
@[simp] theorem State.mapCores_cdr (s : State) (f : Fin 12 → VoiceCore → VoiceCore) : (s.mapCores f).cdr = s.cdr := rfl
@[simp] theorem State.mapCores_dram (s : State) (f : Fin 12 → VoiceCore → VoiceCore) : (s.mapCores f).dram = s.dram := rfl
@[simp] theorem State.mapCores_chk (s : State) (f : Fin 12 → VoiceCore → VoiceCore) : (s.mapCores f).chk = s.chk := rfl
@[simp] theorem State.mapCores_stage (s : State) (f : Fin 12 → VoiceCore → VoiceCore) : (s.mapCores f).stage = s.stage := rfl
@[simp] theorem State.mapCores_stageBad (s : State) (f : Fin 12 → VoiceCore → VoiceCore) : (s.mapCores f).stageBad = s.stageBad := rfl
@[simp] theorem State.mapCores_csram (s : State) (f : Fin 12 → VoiceCore → VoiceCore) : (s.mapCores f).csram = s.csram := rfl
@[simp] theorem State.mapCores_flash (s : State) (f : Fin 12 → VoiceCore → VoiceCore) : (s.mapCores f).flash = s.flash := rfl
@[simp] theorem State.mapCores_xflash (s : State) (f : Fin 12 → VoiceCore → VoiceCore) : (s.mapCores f).xflash = s.xflash := rfl
@[simp] theorem State.mapCores_caches (s : State) (f : Fin 12 → VoiceCore → VoiceCore) : (s.mapCores f).caches = s.caches := rfl
@[simp] theorem State.mapCores_bar (s : State) (f : Fin 12 → VoiceCore → VoiceCore) : (s.mapCores f).bar = s.bar := rfl
@[simp] theorem State.mapCores_tempo (s : State) (f : Fin 12 → VoiceCore → VoiceCore) : (s.mapCores f).tempo = s.tempo := rfl
@[simp] theorem State.mapCores_chorus (s : State) (f : Fin 12 → VoiceCore → VoiceCore) : (s.mapCores f).chorus = s.chorus := rfl
@[simp] theorem State.mapCores_mc (s : State) (f : Fin 12 → VoiceCore → VoiceCore) : (s.mapCores f).mc = s.mc := rfl
@[simp] theorem State.mapCores_echo (s : State) (f : Fin 12 → VoiceCore → VoiceCore) : (s.mapCores f).echo = s.echo := rfl
@[simp] theorem State.mapCores_rings (s : State) (f : Fin 12 → VoiceCore → VoiceCore) : (s.mapCores f).rings = s.rings := rfl
@[simp] theorem State.mapCores_bm (s : State) (f : Fin 12 → VoiceCore → VoiceCore) : (s.mapCores f).bm = s.bm := rfl
@[simp] theorem State.mapCores_boot (s : State) (f : Fin 12 → VoiceCore → VoiceCore) : (s.mapCores f).boot = s.boot := rfl
@[simp] theorem State.mapCores_duet (s : State) (f : Fin 12 → VoiceCore → VoiceCore) : (s.mapCores f).duet = s.duet := rfl
@[simp] theorem State.mapCores_refrain (s : State) (f : Fin 12 → VoiceCore → VoiceCore) : (s.mapCores f).refrain = s.refrain := rfl
@[simp] theorem State.mapCores_health (s : State) (f : Fin 12 → VoiceCore → VoiceCore) : (s.mapCores f).health = s.health := rfl
@[simp] theorem State.mapCores_trace (s : State) (f : Fin 12 → VoiceCore → VoiceCore) : (s.mapCores f).trace = s.trace := rfl
@[simp] theorem State.mapCores_io (s : State) (f : Fin 12 → VoiceCore → VoiceCore) : (s.mapCores f).io = s.io := rfl
@[simp] theorem State.mapCores_pwr (s : State) (f : Fin 12 → VoiceCore → VoiceCore) : (s.mapCores f).pwr = s.pwr := rfl
@[simp] theorem State.mapCores_free (s : State) (f : Fin 12 → VoiceCore → VoiceCore) : (s.mapCores f).free = s.free := rfl
@[simp] theorem State.mapCores_pending (s : State) (f : Fin 12 → VoiceCore → VoiceCore) : (s.mapCores f).pending = s.pending := rfl
@[simp] theorem State.mapCores_core (s : State) (f : Fin 12 → VoiceCore → VoiceCore) (c : Fin 12) : (s.mapCores f).core c = f c (s.core c) := by
  simp [State.mapCores, State.core]

end Sys2Proof.Machine
end

