-- ==== Sys2Proof/Laws/Time.lean ====
section
/-! SUPPORT. What the passing of time leaves in each field of the state (log 3). -/
set_option Elab.async false
set_option linter.all false
namespace Sys2Proof.Machine

/-- A fold of operations that each leave a part of the state alone leaves it alone. -/
theorem State.fold_keeps {α β : Type} (p : State → β) (f : State → α → State) (h : ∀ s a, p (f s a) = p s) (l : List α) (s : State) :
    p (l.foldl f s) = p s := by
  induction l generalizing s with
  | nil => rfl
  | cons a l ih => rw [List.foldl_cons, ih, h]

theorem State.edge_keeps {β : Type} (p : State → β) (h : ∀ (s : State) (x : Chorus), p { s with chorus := x } = p s) (s : State) (t n : Nat) :
    p (s.edge t n) = p s := by
  unfold State.edge
  dsimp only
  split
  · exact h _ _
  · rfl

theorem State.runCycles_keeps {β : Type} (p : State → β) (h : ∀ (s : State) (x : Chorus), p { s with chorus := x } = p s)
    (h' : ∀ (s : State) (c : Fin 12) (v : VoiceCore), p (s.setCore c v) = p s) (s : State) (dt : Nat) (c : Fin 12) :
    p (s.runCycles dt c) = p s := by
  unfold State.runCycles
  dsimp only
  split
  · split
    · rw [State.edge_keeps p h, h']
    · rw [h']
  · rfl

theorem State.runCdrCycles_keeps {β : Type} (p : State → β) (h : ∀ (s : State) (x : Chorus), p { s with chorus := x } = p s)
    (h' : ∀ (s : State) (x : Conductor), p { s with cdr := x } = p s) (s : State) (dt : Nat) : p (s.runCdrCycles dt) = p s := by
  unfold State.runCdrCycles
  dsimp only
  split
  · split
    · rw [State.edge_keeps p h, h']
    · rw [h']
  · rfl

/-- A part of the state that neither the units' clocks nor Chorus belong to is left alone as time passes. -/
theorem State.elapse_keeps {β : Type} (p : State → β) (hc : ∀ (s : State) (x : Chorus), p { s with chorus := x } = p s)
    (hv : ∀ (s : State) (c : Fin 12) (v : VoiceCore), p (s.setCore c v) = p s) (hd : ∀ (s : State) (x : Conductor), p { s with cdr := x } = p s)
    (ht : ∀ (s : State) (t : Tempo) (q : Power) (d : Duet), p { s with tempo := t, pwr := q, duet := d } = p s)
    (hh : ∀ (s : State) (x : Health), p { s with health := x } = p s)
    (hs : ∀ (s : State) (q : Power) (x : Vector TraceSec 3), p { s with pwr := q, trace := x } = p s) (s : State) (dt : Nat) :
    p (s.elapse dt) = p s := by
  unfold State.elapse
  split
  · rfl
  · dsimp only
    refine (State.runCdrCycles_keeps p hc hd _ _).trans ((State.fold_keeps p _ ?_ _ _).trans ((State.fold_keeps p _ ?_ _ _).trans ?_))
    · exact fun s a => hs s _ _
    · exact fun s a => State.runCycles_keeps p hc hv s _ a
    · have e (q : State) (hq : p q = p s) :
          p (if s.bar.run then { q with health := { q.health with cycleTime := q.health.cycleTime + dt } } else q) = p s := by
        split
        · exact (hh q _).trans hq
        · exact hq
      have e1 := ht s { s.tempo.slew dt with count := (s.tempo.slew dt).count + dt, nsRem := (s.tempo.tcxo (s.tempo.slew dt) dt).2 }
        (s.pwr.runAon (s.tempo.tcxo (s.tempo.slew dt) dt).1) (s.duet.run s.mc.landDrain dt)
      exact e _ e1

@[simp] theorem State.elapse_die (s : State) (dt : Nat) : (s.elapse dt).die = s.die :=
  State.elapse_keeps (·.die) (fun _ _ => rfl) (fun _ _ _ => rfl) (fun _ _ => rfl) (fun _ _ _ _ => rfl) (fun _ _ => rfl) (fun _ _ _ => rfl) s dt
@[simp] theorem State.until_die (s : State) (at_ : Nat) : (s.until at_).die = s.die := State.elapse_die _ _
@[simp] theorem State.elapse_dram (s : State) (dt : Nat) : (s.elapse dt).dram = s.dram :=
  State.elapse_keeps (·.dram) (fun _ _ => rfl) (fun _ _ _ => rfl) (fun _ _ => rfl) (fun _ _ _ _ => rfl) (fun _ _ => rfl) (fun _ _ _ => rfl) s dt
@[simp] theorem State.until_dram (s : State) (at_ : Nat) : (s.until at_).dram = s.dram := State.elapse_dram _ _
@[simp] theorem State.elapse_chk (s : State) (dt : Nat) : (s.elapse dt).chk = s.chk :=
  State.elapse_keeps (·.chk) (fun _ _ => rfl) (fun _ _ _ => rfl) (fun _ _ => rfl) (fun _ _ _ _ => rfl) (fun _ _ => rfl) (fun _ _ _ => rfl) s dt
@[simp] theorem State.until_chk (s : State) (at_ : Nat) : (s.until at_).chk = s.chk := State.elapse_chk _ _
@[simp] theorem State.elapse_stage (s : State) (dt : Nat) : (s.elapse dt).stage = s.stage :=
  State.elapse_keeps (·.stage) (fun _ _ => rfl) (fun _ _ _ => rfl) (fun _ _ => rfl) (fun _ _ _ _ => rfl) (fun _ _ => rfl) (fun _ _ _ => rfl) s dt
@[simp] theorem State.until_stage (s : State) (at_ : Nat) : (s.until at_).stage = s.stage := State.elapse_stage _ _
@[simp] theorem State.elapse_stageBad (s : State) (dt : Nat) : (s.elapse dt).stageBad = s.stageBad :=
  State.elapse_keeps (·.stageBad) (fun _ _ => rfl) (fun _ _ _ => rfl) (fun _ _ => rfl) (fun _ _ _ _ => rfl) (fun _ _ => rfl) (fun _ _ _ => rfl) s dt
@[simp] theorem State.until_stageBad (s : State) (at_ : Nat) : (s.until at_).stageBad = s.stageBad := State.elapse_stageBad _ _
@[simp] theorem State.elapse_csram (s : State) (dt : Nat) : (s.elapse dt).csram = s.csram :=
  State.elapse_keeps (·.csram) (fun _ _ => rfl) (fun _ _ _ => rfl) (fun _ _ => rfl) (fun _ _ _ _ => rfl) (fun _ _ => rfl) (fun _ _ _ => rfl) s dt
@[simp] theorem State.until_csram (s : State) (at_ : Nat) : (s.until at_).csram = s.csram := State.elapse_csram _ _
@[simp] theorem State.elapse_flash (s : State) (dt : Nat) : (s.elapse dt).flash = s.flash :=
  State.elapse_keeps (·.flash) (fun _ _ => rfl) (fun _ _ _ => rfl) (fun _ _ => rfl) (fun _ _ _ _ => rfl) (fun _ _ => rfl) (fun _ _ _ => rfl) s dt
@[simp] theorem State.until_flash (s : State) (at_ : Nat) : (s.until at_).flash = s.flash := State.elapse_flash _ _
@[simp] theorem State.elapse_xflash (s : State) (dt : Nat) : (s.elapse dt).xflash = s.xflash :=
  State.elapse_keeps (·.xflash) (fun _ _ => rfl) (fun _ _ _ => rfl) (fun _ _ => rfl) (fun _ _ _ _ => rfl) (fun _ _ => rfl) (fun _ _ _ => rfl) s dt
@[simp] theorem State.until_xflash (s : State) (at_ : Nat) : (s.until at_).xflash = s.xflash := State.elapse_xflash _ _
@[simp] theorem State.elapse_caches (s : State) (dt : Nat) : (s.elapse dt).caches = s.caches :=
  State.elapse_keeps (·.caches) (fun _ _ => rfl) (fun _ _ _ => rfl) (fun _ _ => rfl) (fun _ _ _ _ => rfl) (fun _ _ => rfl) (fun _ _ _ => rfl) s dt
@[simp] theorem State.until_caches (s : State) (at_ : Nat) : (s.until at_).caches = s.caches := State.elapse_caches _ _
@[simp] theorem State.elapse_bar (s : State) (dt : Nat) : (s.elapse dt).bar = s.bar :=
  State.elapse_keeps (·.bar) (fun _ _ => rfl) (fun _ _ _ => rfl) (fun _ _ => rfl) (fun _ _ _ _ => rfl) (fun _ _ => rfl) (fun _ _ _ => rfl) s dt
@[simp] theorem State.until_bar (s : State) (at_ : Nat) : (s.until at_).bar = s.bar := State.elapse_bar _ _
@[simp] theorem State.elapse_mc (s : State) (dt : Nat) : (s.elapse dt).mc = s.mc :=
  State.elapse_keeps (·.mc) (fun _ _ => rfl) (fun _ _ _ => rfl) (fun _ _ => rfl) (fun _ _ _ _ => rfl) (fun _ _ => rfl) (fun _ _ _ => rfl) s dt
@[simp] theorem State.until_mc (s : State) (at_ : Nat) : (s.until at_).mc = s.mc := State.elapse_mc _ _
@[simp] theorem State.elapse_echo (s : State) (dt : Nat) : (s.elapse dt).echo = s.echo :=
  State.elapse_keeps (·.echo) (fun _ _ => rfl) (fun _ _ _ => rfl) (fun _ _ => rfl) (fun _ _ _ _ => rfl) (fun _ _ => rfl) (fun _ _ _ => rfl) s dt
@[simp] theorem State.until_echo (s : State) (at_ : Nat) : (s.until at_).echo = s.echo := State.elapse_echo _ _
@[simp] theorem State.elapse_rings (s : State) (dt : Nat) : (s.elapse dt).rings = s.rings :=
  State.elapse_keeps (·.rings) (fun _ _ => rfl) (fun _ _ _ => rfl) (fun _ _ => rfl) (fun _ _ _ _ => rfl) (fun _ _ => rfl) (fun _ _ _ => rfl) s dt
@[simp] theorem State.until_rings (s : State) (at_ : Nat) : (s.until at_).rings = s.rings := State.elapse_rings _ _
@[simp] theorem State.elapse_bm (s : State) (dt : Nat) : (s.elapse dt).bm = s.bm :=
  State.elapse_keeps (·.bm) (fun _ _ => rfl) (fun _ _ _ => rfl) (fun _ _ => rfl) (fun _ _ _ _ => rfl) (fun _ _ => rfl) (fun _ _ _ => rfl) s dt
@[simp] theorem State.until_bm (s : State) (at_ : Nat) : (s.until at_).bm = s.bm := State.elapse_bm _ _
@[simp] theorem State.elapse_boot (s : State) (dt : Nat) : (s.elapse dt).boot = s.boot :=
  State.elapse_keeps (·.boot) (fun _ _ => rfl) (fun _ _ _ => rfl) (fun _ _ => rfl) (fun _ _ _ _ => rfl) (fun _ _ => rfl) (fun _ _ _ => rfl) s dt
@[simp] theorem State.until_boot (s : State) (at_ : Nat) : (s.until at_).boot = s.boot := State.elapse_boot _ _
@[simp] theorem State.elapse_refrain (s : State) (dt : Nat) : (s.elapse dt).refrain = s.refrain :=
  State.elapse_keeps (·.refrain) (fun _ _ => rfl) (fun _ _ _ => rfl) (fun _ _ => rfl) (fun _ _ _ _ => rfl) (fun _ _ => rfl) (fun _ _ _ => rfl) s dt
@[simp] theorem State.until_refrain (s : State) (at_ : Nat) : (s.until at_).refrain = s.refrain := State.elapse_refrain _ _
@[simp] theorem State.elapse_io (s : State) (dt : Nat) : (s.elapse dt).io = s.io :=
  State.elapse_keeps (·.io) (fun _ _ => rfl) (fun _ _ _ => rfl) (fun _ _ => rfl) (fun _ _ _ _ => rfl) (fun _ _ => rfl) (fun _ _ _ => rfl) s dt
@[simp] theorem State.until_io (s : State) (at_ : Nat) : (s.until at_).io = s.io := State.elapse_io _ _
@[simp] theorem State.elapse_free (s : State) (dt : Nat) : (s.elapse dt).free = s.free :=
  State.elapse_keeps (·.free) (fun _ _ => rfl) (fun _ _ _ => rfl) (fun _ _ => rfl) (fun _ _ _ _ => rfl) (fun _ _ => rfl) (fun _ _ _ => rfl) s dt
@[simp] theorem State.until_free (s : State) (at_ : Nat) : (s.until at_).free = s.free := State.elapse_free _ _
@[simp] theorem State.elapse_pending (s : State) (dt : Nat) : (s.elapse dt).pending = s.pending :=
  State.elapse_keeps (·.pending) (fun _ _ => rfl) (fun _ _ _ => rfl) (fun _ _ => rfl) (fun _ _ _ _ => rfl) (fun _ _ => rfl) (fun _ _ _ => rfl) s dt
@[simp] theorem State.until_pending (s : State) (at_ : Nat) : (s.until at_).pending = s.pending := State.elapse_pending _ _

theorem State.elapse_zero (s : State) : s.elapse 0 = s := by
  unfold State.elapse
  rw [if_pos rfl]

theorem Tempo.slew_count (t : Tempo) (dt : Nat) : (t.slew dt).count = t.count := by
  unfold Tempo.slew
  split <;> rfl

/-- Tempo after `dt` counts. -/
theorem State.elapse_tempo (s : State) (dt : Nat) :
    (s.elapse dt).tempo = if dt = 0 then s.tempo
      else { s.tempo.slew dt with count := s.tempo.count + dt, nsRem := (s.tempo.tcxo (s.tempo.slew dt) dt).2 } := by
  unfold State.elapse
  split
  · rfl
  · dsimp only
    refine (State.runCdrCycles_keeps (·.tempo) (fun _ _ => rfl) (fun _ _ => rfl) _ _).trans
      ((State.fold_keeps (·.tempo) _ ?_ _ _).trans ((State.fold_keeps (·.tempo) _ ?_ _ _).trans ?_))
    · exact fun s a => rfl
    · exact fun s a => State.runCycles_keeps (·.tempo) (fun _ _ => rfl) (fun _ _ _ => rfl) s _ a
    · have e := s.tempo.slew_count dt
      split
      · show { s.tempo.slew dt with count := (s.tempo.slew dt).count + dt, nsRem := (s.tempo.tcxo (s.tempo.slew dt) dt).2 } = _
        rw [e]
      · show { s.tempo.slew dt with count := (s.tempo.slew dt).count + dt, nsRem := (s.tempo.tcxo (s.tempo.slew dt) dt).2 } = _
        rw [e]

@[simp] theorem State.elapse_count (s : State) (dt : Nat) : (s.elapse dt).tempo.count = s.tempo.count + dt := by
  rw [State.elapse_tempo]
  split
  · simp [*]
  · rfl

theorem State.until_count (s : State) (at_ : Nat) : (s.until at_).tempo.count = max s.tempo.count at_ := by
  unfold State.until
  rw [State.elapse_count]
  omega

/-- Cores keep all but their cycle counts as time passes. -/
theorem State.runCycles_core (s : State) (dt : Nat) (c d : Fin 12) :
    ∃ n r, (s.runCycles dt c).core d = { s.core d with cycle := n, cycRem := r } := by
  have he (s : State) (t n : Nat) : (s.edge t n).core d = s.core d := State.edge_keeps (·.core d) (fun _ _ => rfl) s t n
  have hs (v : VoiceCore) : (s.setCore c v).core d = if c = d then v else s.core d := by
    simp only [State.setCore, State.core, Fin.getElem_fin, Vector.getElem_set, Fin.ext_iff]
  unfold State.runCycles
  dsimp only
  split
  · split
    · rw [he, hs]
      split
      · subst c; exact ⟨_, _, rfl⟩
      · exact ⟨_, _, rfl⟩
    · rw [hs]
      split
      · subst c; exact ⟨_, _, rfl⟩
      · exact ⟨_, _, rfl⟩
  · exact ⟨_, _, rfl⟩

theorem State.elapse_core (s : State) (dt : Nat) (d : Fin 12) : ∃ n r, (s.elapse dt).core d = { s.core d with cycle := n, cycRem := r } := by
  unfold State.elapse
  split
  · exact ⟨_, _, rfl⟩
  · dsimp only
    generalize (s.tempo.tcxo (s.tempo.slew dt) dt).1 = ns
    have e1 := fun s : State => State.runCdrCycles_keeps (·.core d) (fun _ _ => rfl) (fun _ _ => rfl) s ns
    have e2 := fun s : State => State.fold_keeps (·.core d) (fun s sec => s.runSection ns sec) (fun _ _ => rfl) (List.finRange 3) s
    rw [e1, e2]
    have hf (l : List (Fin 12)) (s : State) : ∃ n r, (l.foldl (fun s c => s.runCycles ns c) s).core d = { s.core d with cycle := n, cycRem := r } := by
      induction l generalizing s with
      | nil => exact ⟨_, _, rfl⟩
      | cons a l ih =>
        obtain ⟨n, r, h⟩ := ih (s.runCycles ns a)
        obtain ⟨n', r', h'⟩ := s.runCycles_core ns a d
        exact ⟨n, r, by rw [List.foldl_cons, h, h']⟩
    split
    · exact hf _ _
    · exact hf _ _

end Sys2Proof.Machine
end

