-- ==== Sys2Proof/WellFormed.lean ====
section
/-! DEFINITION. When a command is well formed: the bounds that the operand types leave to a check. -/
namespace Sys2Proof

/-- A received flit carries 22 payload words (13 R540). -/
def RxFlit.wf (f : RxFlit) : Bool := f.words.length == 22

/-- A header names one of the 18 rings (10 R391, Table 10.2). -/
def Header.wf (h : Header) : Bool := h.ring.toNat < 18

/-- A CAN frame has an identifier of its format and a payload of a DLC length (17 R715); a remote frame is classical. -/
def CanFrame.wf (fr : CanFrame) : Bool :=
  (fr.ide || fr.id.toNat < 2048) && !(fr.fd && fr.rtr) &&
    (if fr.fd then [0, 1, 2, 3, 4, 5, 6, 7, 8, 12, 16, 20, 24, 32, 48, 64].contains fr.data.length
     else fr.data.length ≤ 8)

/-- The flit that a command carries. -/
def Instr.flit? : Instr → Option RxFlit
  | .ackFlit f => some f
  | .nakFlit f => some f
  | .trainFlit f => some f
  | .resumeFlit f => some f
  | .fatalFlit f => some f
  | .closeFlit f => some f
  | .reqCmd f => some f
  | .contFlit f => some f
  | .reqRd f _ => some f
  | .rspFlit f => some f
  | .wrHead f => some f
  | .rdHead f => some f
  | .dataFlit f => some f
  | .sampleFlit f _ => some f
  | .ckHead f => some f
  | .ckData f => some f
  | .ckEnd f => some f
  | .ckReply f => some f
  | _ => none

/-- The header of a command packet. -/
def Instr.header? : Instr → Option Header
  | .nop h => some h
  | .getInfo h => some h
  | .releaseCores h _ _ _ _ => some h
  | .releaseAuth h _ _ _ _ => some h
  | .haltCores h _ => some h
  | .sysResetWarm h => some h
  | .sysResetCold h => some h
  | .ringDisable h _ => some h
  | .ringEnable h _ => some h
  | .ringRestart h _ => some h
  | .noticeRead h => some h
  | .powerEnterFermata h _ _ _ => some h
  | .powerEnterCoda h _ _ _ => some h
  | .coreHushEnter h _ => some h
  | .coreHushLeave h _ => some h
  | .clockSet h _ _ => some h
  | .barConfig h _ _ _ _ _ => some h
  | .barRun h _ => some h
  | .barLock h => some h
  | .barRead h _ => some h
  | .timeRead h => some h
  | .timeSet h _ _ _ => some h
  | .tempoRefs h _ => some h
  | .tempoPolicy h _ _ _ => some h
  | .tempoStep h => some h
  | .ptpCorrect h _ _ => some h
  | .duetStatus h => some h
  | .linkTrain h _ _ => some h
  | .duetRoleHandover h => some h
  | .duetRoleTakeActive h => some h
  | .refrainCfg h _ _ _ _ _ _ _ => some h
  | .refrainEnable h => some h
  | .refrainDisable h => some h
  | .duetTiming h _ _ => some h
  | .partnerCmd h _ => some h
  | .rehPlan h _ _ => some h
  | .rehRun h _ => some h
  | .rehStatus h _ => some h
  | .ledgerRead h _ => some h
  | .ledgerCfg h _ _ _ => some h
  | .ledgerClear h _ => some h
  | .repairApply h _ => some h
  | .repairUndo h _ => some h
  | .traceAuth h _ _ _ => some h
  | .traceRevoke h => some h
  | .traceOwn h _ => some h
  | .slotInfo h _ => some h
  | .slotErase h _ _ _ _ => some h
  | .slotWrite h _ _ _ _ _ => some h
  | .slotVerify h _ => some h
  | .slotCommit h => some h
  | .rescore h => some h
  | .imageSeal h _ _ _ => some h
  | .fuseWrite h _ _ => some h
  | .poolCreate h _ _ _ _ _ _ _ => some h
  | .poolDestroy h _ => some h
  | .poolTake h _ _ => some h
  | .poolGive h _ _ _ _ => some h
  | .abortCmd h _ _ => some h
  | _ => none

/-- The checks on a command's remaining operands: a certificate has 80 words (11 Table 11.11), a fuse packet 1 to 16 data
words (11 R462), a region list at most 8 entries (10 Table 10.4), a packet at most 256 words (10 R386), a frame a payload, a shift by an immediate its own selector in imm[7:6] (04 Table 4.4). -/
def Instr.operandsOk : Instr → Bool
  | .slli _ _ _ _ imm => imm.extractLsb' 6 2 == 0
  | .srli _ _ _ _ imm => imm.extractLsb' 6 2 == 1
  | .srai _ _ _ _ imm => imm.extractLsb' 6 2 == 2
  | .roli _ _ _ _ imm => imm.extractLsb' 6 2 == 3
  | .debugResponse ws => ws.length == 80
  | .fuseWrite _ _ data => 1 ≤ data.length && data.length ≤ 16
  | .refrainCfg _ _ _ _ _ _ _ rgns => rgns.length ≤ 8
  | .partnerCmd _ inner => 2 ≤ inner.length && inner.length ≤ 254
  | .poolGive _ _ _ _ hs => 1 ≤ hs.length && hs.length ≤ 8
  | .canRxFrame _ fr _ => fr.wf
  | .ethRxFrame _ bytes _ _ => 60 ≤ bytes.length
  | .interruptEdge _ src => src.toNat < 384
  | .levelInputChange _ src _ => src.toNat < 384
  | .doorbellCheck ring => ring.toNat < 18
  | .waitingCommandStart ring => ring.toNat < 18
  | .longCommandFinal ring _ _ => ring.toNat < 18
  | _ => true

/-- A command is well formed. -/
def Instr.wf (c : Instr) : Bool :=
  (match c.flit? with | some f => f.wf | none => true) &&
  (match c.header? with | some h => h.wf | none => true) && c.operandsOk

end Sys2Proof
end

