-- ==== Sys2Proof/Tests/Slice0.lean ====
section
/-! SUPPORT. The model's own tests: ill-formed commands that the checks refuse, one step on small states, and for each statement with
hypotheses a state and operands that meet them. -/
set_option Elab.async false
set_option linter.all false
namespace Sys2Proof.Tests
open Sys2Proof.Machine

/-! WellFormed: one ill-formed term for each check. -/

/-- A flit of a given number of payload words. -/
def flitOf (n : Nat) : RxFlit := { seq := 0, nw := 0, words := List.replicate n 0, crc := 0, uncorr := false }
/-- A header for a ring. -/
def head (r : BitVec 5) : Header := { ring := r, flags := 0, tag := 5 }

theorem test_wf_accepts : (Instr.ackFlit (flitOf 22)).wf = true ∧ (Instr.nop (head 17)).wf = true ∧ (Instr.barBoundary).wf = true := by decide
theorem test_wf_flit_length : (Instr.ackFlit (flitOf 21)).wf = false := by decide
theorem test_wf_ring : (Instr.nop (head 18)).wf = false := by decide
theorem test_wf_shift_selectors :
    (Instr.slli (.voice 0) .plain 1 1 0x40).wf = false ∧ (Instr.srli (.voice 0) .plain 1 1 0x00).wf = false ∧
    (Instr.srai (.voice 0) .plain 1 1 0x40).wf = false ∧ (Instr.roli (.voice 0) .plain 1 1 0x80).wf = false := by decide
theorem test_wf_certificate : (Instr.debugResponse (List.replicate 79 0)).wf = false := by decide
theorem test_wf_fuse_words : (Instr.fuseWrite (head 17) 0 []).wf = false ∧ (Instr.fuseWrite (head 17) 0 (List.replicate 17 0)).wf = false := by
  decide
theorem test_wf_regions : (Instr.refrainCfg (head 0) 0 0 0 0 0 0 (List.replicate 9 (0, 0))).wf = false := by decide
theorem test_wf_inner : (Instr.partnerCmd (head 0) [0]).wf = false ∧ (Instr.partnerCmd (head 0) (List.replicate 255 0)).wf = false := by
  decide +kernel
theorem test_wf_handles : (Instr.poolGive (head 0) 0 0 0 []).wf = false ∧ (Instr.poolGive (head 0) 0 0 0 (List.replicate 9 0)).wf = false := by
  decide

/-- A CAN frame of a given length. -/
def frame (fd rtr : Bool) (id : BitVec 29) (n : Nat) : CanFrame :=
  { id, ide := false, fd, brs := false, esi := false, rtr, data := List.replicate n 0 }
theorem test_wf_can_frame :
    (Instr.canRxFrame 0 (frame false false 5 8) 0).wf = true ∧ (Instr.canRxFrame 0 (frame false false 5 9) 0).wf = false ∧
    (Instr.canRxFrame 0 (frame true false 5 9) 0).wf = false ∧ (Instr.canRxFrame 0 (frame false false 2048 1) 0).wf = false ∧
    (Instr.canRxFrame 0 (frame true true 5 8) 0).wf = false := by decide
theorem test_wf_eth_length : (Instr.ethRxFrame 0 (List.replicate 59 0) true 0).wf = false := by decide
theorem test_wf_sources : (Instr.interruptEdge 0 384).wf = false ∧ (Instr.levelInputChange 0 384 true).wf = false := by decide
theorem test_wf_rings : (Instr.doorbellCheck 18).wf = false ∧ (Instr.waitingCommandStart 18).wf = false ∧
    (Instr.longCommandFinal 18 0 { readErr := false, fuseErr := false }).wf = false := by decide

/-! Small states. -/

/-- The device runs, and nothing else has happened since power was applied. -/
def play : State := { State.reset with pwr := { State.reset.pwr with state := .play } }
/-- Voice core 0 and the Conductor execute, each at a word that it has fetched; W1 is 5 and W2 is 7. -/
def base : State := { play with
  cores := play.cores.set 0 { VoiceCore.reset with
    released := true, pc := 0x400000, lineBuf := [(lineOf 0x100000, 0)], w := (VoiceCore.reset.w.set 1 5).set 2 7, kstatus := 0x10 }
  cdr := { play.cdr with run := .running, pc := 0x800001000000, w := (play.cdr.w.set 1 5).set 2 7 } }
/-- The state with Voice core 0 changed. -/
def withCore (f : VoiceCore → VoiceCore) : State := base.modCore 0 f
/-- Rings 0, 1 and 17 run, a debug session is open with every permission, and the memory controller is ready. -/
def served : State :=
  let s := ((base.setRingWord 0 4 1).setRingWord 1 4 1).setRingWord 17 4 1
  { s with boot := { s.boot with session := true, perms := 31 }, mc := { s.mc with ready := true, speed := 0, density := 1 } }

/-- The boundary lets the instruction execute, in a state that has the property. -/
def readyAt (s : State) (k : Core) (f : Fetch) (x : Insn) (ok : State → Bool) : Bool :=
  match s.boundary k f x with | .ready r => ok r | .over _ => false
theorem ready_of_readyAt {s : State} {k : Core} {f : Fetch} {x : Insn} {ok : State → Bool} (h : readyAt s k f x ok = true) :
    ∃ r, Ready s k f x r ∧ ok r = true := by
  unfold readyAt at h
  unfold Ready
  split at h
  · exact ⟨_, by assumption, h⟩
  · cases h
/-- The instruction is ready. -/
def isReady (s : State) (k : Core) (f : Fetch) (x : Insn) : Bool := readyAt s k f x fun _ => true
/-- The packet is taken, its source may send it, and the state has the property. -/
def takes (s : State) (h : Header) (n space : Nat) (src : Sources) (ok : State → Bool) : Bool :=
  s.on && s.serving && decide (h.ring.toNat < 18) && decide (n ≤ 254) && decide (s.ringState h.ring = 1) && !ringBit s.rings.stopped h.ring &&
  decide (s.reqProd h.ring = s.reqCons h.ring) && decide ((s.rplProd h.ring - s.rplCons h.ring).toNat ≤ 1024) && decide (bits h.flags 1 3 = 0) &&
  (!h.flags.getLsbD 0 || s.rings.active.all fun c => decide (c.ring ≠ h.ring)) &&
  (s.rings.active.all fun c => decide (c.ring = h.ring → c.tag ≠ h.tag)) && decide (space ≤ s.rplFree h.ring) &&
  (s.rings.cancelled.all fun p => decide (p.1 ≠ h.ring)) && ((s.before h.ring).all fun q => !s.hasWork q) &&
  Memory.wf ramDefault s.stage && src.allows s h.ring && ok s
theorem accepts_of_takes {s : State} {h : Header} {n space : Nat} {src : Sources} {ok : State → Bool} (e : takes s h n space src ok = true) :
    Accepts s h n space ∧ src.allows s h.ring = true ∧ ok s = true := by
  simp only [takes, Bool.and_eq_true, decide_eq_true_eq, Bool.not_eq_true', Bool.or_eq_true, List.all_eq_true] at e
  obtain ⟨⟨⟨⟨⟨⟨⟨⟨⟨⟨⟨⟨⟨⟨⟨⟨a, b⟩, c⟩, d⟩, e⟩, f⟩, g⟩, i⟩, j⟩, k⟩, l⟩, m⟩, x⟩, y⟩, n⟩, o⟩, p⟩ := e
  exact ⟨⟨a, b, c, d, e, f, g, i, j, fun q => k.resolve_left (by simp [q]), l, m, x, y, n⟩, o, p⟩
/-- The state has the property. -/
def holdsIn (s : State) (p : State → Bool) : Bool := p s
/-- What a command leaves, as a function of the next state. -/
def after {α : Type} (d : α) (i : Instr) (s : State) (f : State → α) : α := match exec i s with | .next t => f t | _ => d

/-! Single steps. Expected values are worked from the rules. -/

/-- 04 Table 4.4: 5 + 7; 5 - 7 modulo 2^24; 5 times 7. -/
theorem test_word : ∀ k ∈ [Core.voice 0, .conductor],
    after 0 (.addW k .plain 3 1 2) base (·.rw k 3) = 12 ∧ after 0 (.subW k .plain 3 1 2) base (·.rw k 3) = 0xFFFFFE ∧
    after 0 (.mulW k .plain 3 1 2) base (·.rw k 3) = 35 := by decide +kernel
/-- 04 Example 4.1: EXT, then ADDI W5, W0, 0xF3, loads 0x2A50F3. -/
theorem test_ext : encJ 0x3F 0x02A50 = 0xFC2A50 ∧ (insnI 0x04 5 0 0xF3 true).word = 0x10A0F3 ∧
    after 0 (.addi (.voice 0) { ext := some 0x02A50, ups := [], word := none } 5 0 0xF3) base (·.rw (.voice 0) 5) = 0x2A50F3 ∧
    after 0 (.addi (.voice 0) .plain 5 0 0xF3) base (·.rw (.voice 0) 5) = 0xFFFFF3 := by decide +kernel
/-- 04 Example 4.2: PADDI.B D2, D2, 5. -/
theorem test_paddi : (insnI 0x0F 4 4 5 true).word = 0x3C8405 ∧
    after 0 (.paddiB (.voice 0) .plain 4 4 5) (base.setD (.voice 0) 4 0x000400800011) (·.rd (.voice 0) 4) = 0x000400800018 := by
  decide +kernel
/-- 04 Example 4.3: the accumulator trace. -/
theorem test_filter :
    let s := ((((base.setW (.voice 0) 8 0x600000).setW (.voice 0) 9 0x400000).setW (.voice 0) 10 0x800000).setW (.voice 0) 11 0x800000)
    after 0 (.amul (.voice 0) .plain 0 8 9) s (·.acc 0 0) = 0x300000000000 ∧
    after 0 (.amac (.voice 0) .plain 0 10 11) (s.setAcc 0 0 0x300000000000) (·.acc 0 0) = 0xB00000000000 ∧
    after 0 (.arnd (.voice 0) .plain 12 0 0) (s.setAcc 0 0 0xB00000000000) (·.rw (.voice 0) 12) = 0x7FFFFF ∧
    after 0 (.arnd (.voice 0) .plain 12 0 0) (s.setAcc 0 0 0xB00000000000) (fun t => (t.core 0).qstat) = 1 := by decide +kernel
/-- 04 R104: the PC of the next instruction. -/
theorem test_pc : after 0 (.addW (.voice 0) .plain 3 1 2) base (·.pc (.voice 0)) = 0x400004 := by decide +kernel

/-! Witnesses. Each meets the hypotheses of the statement that it names. -/

/-- The cores of `base`. -/
def both : List Core := [.voice 0, .conductor]

theorem wit_EmptyQueueLetsTimePass : play.pending = [] ∧ play.on = true ∧ State.reset.pending = [] ∧ State.reset.on = false := by decide +kernel
theorem wit_StepKeepsLegalState : base.Legal ∧ (∃ t, step base = .next t) := by
  refine ⟨⟨?_, ?_, ?_, ?_, ?_, fun c => ?_, ?_⟩, ?_⟩
  · decide +kernel
  · decide +kernel
  · decide +kernel
  · decide +kernel
  · decide +kernel
  · have : ∀ c : Fin 12, let v := base.cores[c]
        v.w[0] = 0 ∧ v.mstatus &&& 0xFFFF00 = 0 ∧ bits v.mstatus 2 2 ≠ 2 ∧ v.kstatus &&& 0xFFFFE0 = 0 ∧ v.fcsr &&& 0xFFE0F8 = 0 ∧
          v.qstat &&& 0xFFFFFC = 0 := by decide +kernel
    obtain ⟨a, b, d, e, f, g⟩ := this c
    exact ⟨a, b, d, e, f, g⟩
  · exact ⟨by decide +kernel, by decide +kernel, by decide +kernel⟩
  · exact ⟨_, rfl⟩
theorem wit_OnlyEarlyReleaseStops : State.reset.pwr.state = .porst := by decide
theorem wit_MemoryReadsWhatWasWritten : Memory.wf ramDefault [] = true ∧ Memory.wf ramDefault (Memory.setByte ramDefault [] 0 1) = true ∧
    Memory.byte ramDefault (Memory.setByte ramDefault [] 0 1) 0 = 1 := by decide +kernel

theorem wit_InstructionBecomesReady :
    let v := base.core 0
    base.issues 0 = true ∧ (base.awake (.voice 0)).takeAsync 0 = none ∧ v.level = .monitor ∧ v.xlatOpen = false ∧
    physical v.pc = true ∧ ptrLane v.pc = 0 ∧ inStage (ptrAddr v.pc).toNat = true ∧ v.buffers (ptrAddr v.pc).toNat = true ∧
    base.cdrIssues = true ∧ (base.awake .conductor).cdrIrq = none ∧ cdrPtrOk base.cdr.pc = true ∧ ptrLane base.cdr.pc = 0 ∧
    inPrivate base.cdr.pc = true ∧ privAt (ptrAddr base.cdr.pc).toNat = some (.sram, 0) ∧ (insnR 1 0 3 1 2 true).legal = true := by
  decide +kernel
/-- A word with an unassigned major code, and an EXT before an EXT (04 R110, R113). -/
theorem wit_InstructionBecomesReady_unassigned :
    decodeInsnWord (.voice 0) { Fetch.plain with word := some 0 } 0 = none ∧ bits (0 : Word) 18 6 ≠ 0x3F ∧
    decodeInsnWord (.voice 0) { ext := some 0, ups := [], word := some 0xFFFFFF } 0xFFFFFF = none ∧ base.cdr.queue = [] := by decide +kernel
/-- 04 R110, Table 4.2: an unassigned word raises cause 0x01 with itself as detail; an assigned one is decoded. -/
theorem test_unassigned :
    after 0 (.addW (.voice 0) { Fetch.plain with word := some 0 } 3 1 2) base (fun t => (t.core 0).mcause) = 0x01 ∧
    (decodeInsnWord (.voice 0) .plain ((insnI 0x04 5 0 0xF3 true).word)).isSome = true := by decide +kernel
theorem wit_RegisterWritesReadBack : isPair 30 = true ∧ isPair 2 = true ∧ (30 : BitVec 5) ≠ 0 := by decide
theorem wit_WordInstructions : ∀ k ∈ both, (∀ m ∈ [(1 : BitVec 6), 2, 3], ∀ n ∈ [(0 : BitVec 3), 1, 2, 3, 4, 5, 6, 7],
    isReady base k .plain (insnR m n 4 1 2 true) = true) ∧ isReady base k .plain (insnR 3 3 4 1 2 (isPair 4)) = true := by decide +kernel
theorem wit_ImmediateInstructions : ∀ k ∈ both, ∀ f ∈ [Fetch.plain, { ext := some 0x3FFFF, ups := [], word := none }],
    (∀ m ∈ [(4 : BitVec 6), 5, 6, 7, 8, 9], isReady base k f (insnI m 3 1 0xFF true) = true) := by decide +kernel
theorem wit_ImmediateInstructions_shift : ∀ k ∈ both, ∀ p ∈ [((0 : BitVec 2), (0x00 : BitVec 8)), (0, 0x17), (1, 0x40), (1, 0x57), (2, 0x80),
    (2, 0x97), (3, 0xC0), (3, 0xD7)], isReady base k .plain (insnShift p.1 3 1 p.2) = true := by decide +kernel
theorem wit_PairInstructions : ∀ k ∈ both, (∀ n ∈ [(0 : BitVec 3), 1, 2, 3, 4], isReady base k .plain (insnR 0x0B n 4 2 30 (isPair 4 && isPair 2 && isPair 30)) = true) ∧
    (∀ n ∈ [(0 : BitVec 3), 1, 2, 3, 4, 5], isReady base k .plain (insnR 0x0C n 4 2 0 (isPair 4 && isPair 2)) = true) ∧
    isReady base k .plain (insnI 0x0D 4 2 0x80 (isPair 4 && isPair 2)) = true := by decide +kernel

/-- A pair register of both cores of `base` holds a value. -/
def withD (r : BitVec 5) (v : DWord) : State := (base.setD (.voice 0) r v).setD .conductor r v

theorem wit_PointerInstructions : ∀ k ∈ both, ∀ n ∈ [(0 : BitVec 3), 1, 2, 3],
    readyAt (withD 4 5) k .plain (insnR 0x0E n 2 4 0 true) (fun r => bits (r.rd k 4) 0 2 ≠ 3) = true ∧
    readyAt (withD 4 7) k .plain (insnR 0x0E n 2 4 0 true) (fun r => bits (r.rd k 4) 0 2 = 3) = true ∧
    readyAt (withD 4 7) k .plain (insnR 0x0E n 2 0 4 true) (fun r => decide (bits (r.rd k 0) 0 2 ≠ 3) && decide (bits (r.rd k 4) 0 2 = 3)) = true ∧
    readyAt (withD 4 7) k { ext := some 1, ups := [], word := none } (insnI 0x0F 2 4 0x80 true) (fun r => bits (r.rd k 4) 0 2 = 3) = true := by decide +kernel
theorem wit_AccumulatorInstructions : ∀ n ∈ [(0 : BitVec 3), 1, 2, 3, 4, 5],
    isReady base (.voice 0) .plain { insnR 0x18 n 3 0 0 true with cdr := false, xs := true } = true ∧
    isReady base (.voice 0) .plain { insnR 0x19 n 2 2 0 true with cdr := false, xs := true } = true := by decide +kernel
theorem wit_FractionalInstructions : ∀ k ∈ both, ∀ n ∈ [(0 : BitVec 3), 1, 2, 3, 4, 5, 6, 7],
    isReady base k .plain (insnR 0x1A n 3 1 0 (decide ((0 : BitVec 5) = 0))) = true := by decide +kernel
theorem wit_FloatInstructions : (∀ m ∈ [(0x1C : BitVec 6), 0x1D, 0x1E], ∀ n ∈ [(0 : BitVec 3), 1, 2, 3, 4, 5, 6, 7],
    isReady base (.voice 0) .plain { insnR m n 4 2 0 true with cdr := false, xs := true, fp := true } = true) ∧
    bits (0x7FF000000001 : DWord) 36 11 = 0x7FF ∧ bits (0x7FF000000001 : DWord) 0 36 ≠ 0 ∧ (0x7FF800000000 : DWord).getLsbD 35 = true ∧
    bits (0xFFF000000000 : DWord) 0 47 = 0x7FF000000000 ∧ bits (0x800000000001 : DWord) 36 11 ≠ 0x7FF ∧ bits (0x800000000001 : DWord) 0 47 ≠ 0 ∧
    bits (0x800000000000 : DWord) 0 47 = 0 ∧ (0xFFF000000000 : DWord).getLsbD 47 = true := by decide +kernel
/-- 04 Table 4.7, R123: 1.0 + 1.0; 1.0 / 3.0 rounds up toward +∞; the smallest subnormal halved underflows to +0. -/
theorem test_float : fAdd 0 0x3FF000000000 0x3FF000000000 = (0x400000000000, FFlags.none) ∧
    (fDiv 2 0x3FF000000000 0x400800000000).1 = 0x3FD555555556 ∧ (fDiv 4 0x3FF000000000 0x400800000000).1 = 0x3FD555555555 ∧
    fDiv 0 1 0x400000000000 = (0, { FFlags.none with unf := true, inx := true }) := by decide +kernel
theorem wit_BranchesAndJumps : ∀ k ∈ both, (∀ m ∈ [(0x20 : BitVec 6), 0x21, 0x22, 0x23, 0x24, 0x25], isReady base k .plain (insnI m 1 2 0x80 true) = true) ∧
    isReady base k .plain (insnJ 0x26 0x20000) = true ∧ isReady base k { ext := some 0x20000, ups := [], word := none } (insnJ 0x27 1) = true ∧
    isReady base k .plain (insnI 0x28 4 2 0x7F (isPair 4 && isPair 2)) = true := by decide +kernel

/-- An access ends without an exception. -/
def fine {α : Type} (x : Exec α) (s : State) : Bool := match x s with | .ok _ _ => true | .error _ _ => false

/-- Both cores hold in D4 a pointer to the last word before the end of their memories that a double word can start at. -/
def stores : State := (base.setD (.voice 0) 4 0x000000420000).setD .conductor 4 0x800001000010
theorem wit_LoadsAndStores : ∀ k ∈ both,
    (∀ m ∈ [(0x10 : BitVec 6), 0x11, 0x12, 0x13], readyAt stores k .plain (insnI m 2 4 0x80 true) (fun r =>
      ptrLane (r.rd k 4) ≠ 3 && fine (loadAt k .plain (if m = 0x13 then .dbl else if m = 0x12 then .word else .byte) (r.rd k 4)) r) = true) ∧
    (∀ m ∈ [(0x14 : BitVec 6), 0x15, 0x16], readyAt stores k .plain (insnI m 2 4 0x80 true) (fun r =>
      fine (storeAt k .plain (if m = 0x16 then .dbl else if m = 0x15 then .word else .byte) (r.rd k 4) 1) r) = true) := by decide +kernel
/-- A word stored is loaded again, and its neighbour stays. -/
theorem test_store : ∀ k ∈ both, after 1 (.sw k .plain 2 4 0) stores (fun t => match loadAt k .plain .word (t.rd k 4) t with
    | .ok v _ => v | .error _ _ => 1) = 7 ∧
    after false (.sw k .plain 2 4 0) stores (fun t => t.csram.length + t.stage.length = 1) = true := by decide +kernel
theorem wit_AccessesReadAndWriteMemory :
    ([(0x800001000000 : DWord), 0x80000107FFF8].all fun p => cdrPtrOk p && inPrivate p && !sramBad 1 [] && decide (0x400000 ≤ (ptrAddr p).toNat) &&
      decide ((ptrAddr p).toNat < 0x41FFFF) && decide (ptrLane p = 0) && !p.getLsbD 2) = true ∧
    ([(0x000000400000 : DWord), 0x0000004FFFFC].all fun p => physical p && decide (ptrLane p = 0) && inStage (ptrAddr p).toNat &&
      decide (base.caches.find (lineOf (ptrAddr p).toNat) = none) && !base.inDram (ptrAddr p).toNat && !sramBad 0 []) = true ∧
    takesWrite (.voice 0) 0x100000 = true ∧ base.stageBad = [] ∧ base.stalledBy (.voice 0) = false := by decide +kernel

/-- DRAM is served, D4 of Voice core 0 points to its first word, and the core's L1 data cache holds its line. -/
def atomic : State :=
  let s := served.setD (.voice 0) 4 0x000400000000
  { s with caches := { s.caches with lines := [{ line := 0x100000000 / 24, words := Vector.replicate 24 0, dirty := 0, poison := 0
                                                 l2 := 1, l3 := false, l1d := 1, l1i := 0, w2 := Vector.replicate 3 0, w3 := 0, below := none }] } }
/-- The reservation that an LL.D leaves. -/
def reserved (dbl : Bool) : State :=
  atomic.modCore 0 fun v => { v with resv := some { line := 0x100000000 / 24, addr := 0x100000000, dbl } }
/-- An access of Voice core 0 has an address of type WB, and then ends without an exception. -/
def onWb (acc : Acc) (z : Size) (r : State) (ok : PAddr × Option MemType → State → Bool) : Bool :=
  match voiceAddr 0 acc z 0x000400000000 r with
  | .ok x u => x.2 = some .wb && ok x u
  | .error _ _ => false
theorem wit_AtomicInstructions :
    (∀ z ∈ [Size.word, .dbl], readyAt atomic (.voice 0) .plain { insnR 0x17 0 2 4 0 true with cdr := false } (fun r =>
      onWb .load z r fun x => fine (voiceLoad 0 z 0x000400000000 [] x)) = true) ∧
    (∀ z ∈ [Size.word, .dbl], readyAt (reserved (z = .dbl)) (.voice 0) .plain { insnR 0x17 2 2 4 6 true with cdr := false } (fun r =>
      onWb .store z r fun x u => (u.core 0).resv.isSome && fine (voiceStore 0 [] z 0x000400000000 0 x) u) = true) ∧
    readyAt (reserved true) (.voice 0) .plain { insnR 0x17 2 2 4 6 true with cdr := false } (fun r =>
      onWb .store .word r fun _ u => (u.core 0).resv.isSome) = true ∧
    readyAt atomic (.voice 0) .plain (insnR 0x17 4 2 4 6 true) (fun r =>
      onWb .cas .dbl r fun x u => match voiceLoad 0 .dbl 0x000400000000 [] x u with
        | .ok ws w => decide (Size.dbl.value 0x000400000000 ws ≠ r.rd (.voice 0) 2) && fine (voiceStore 0 [] .dbl 0x000400000000 0 x) w
        | .error _ _ => false) = true ∧
    readyAt stores (.voice 0) .plain { insnR 0x17 0 2 4 0 true with cdr := false } (fun r =>
      match voiceAddr 0 .load .word (r.rd (.voice 0) 4) r with | .ok (_, some mt) _ => mt ≠ .wb | _ => false) = true := by decide +kernel

/-- Bars run on core 0. -/
def barOn (mode : Bool) : State := let s := { base with bar := { base.bar with run := true, running := true } }
  s.modCbar 0 fun x => { x with bwmode := mode }
/-- Core 0 at a level. -/
def level (l : Level) (mst : Word) : State := withCore fun v => { v with level := l, mstatus := mst }
theorem wit_BarriersAndWaits :
    (∀ k ∈ both, ∀ n ∈ [(0 : BitVec 3), 1, 5], isReady base k .plain (insnSys n 0 0 0 true .kernel) = true) ∧
    readyAt base (.voice 0) .plain (insnSys 2 0 0 0 false .kernel) (fun r => r.core 0 |>.fenceOn |> (· = 0)) = true ∧
    readyAt { (withCore fun v => { v with fenceOn := 2 }) with echo := { base.echo with
      stalled := [{ line := 0, who := some (.voice 1), wb := false, ws := [], own := false, drop := none }] } } (.voice 0) .plain
      (insnSys 2 0 0 0 false .kernel) (fun r => (r.core 0).fenceOn.getLsbD 1 && r.stalledBy (.voice 1)) = true ∧
    readyAt base (.voice 0) .plain (insnSys 3 0 0 0 false .user) (fun r => !r.bar.run) = true ∧
    readyAt (barOn false) (.voice 0) .plain (insnSys 3 0 0 0 false .user) (fun r => r.bar.run && !(r.cbar 0).bwmode) = true ∧
    readyAt (barOn true) (.voice 0) .plain (insnSys 3 0 0 0 false .user) (fun r => r.bar.run && (r.cbar 0).bwmode) = true ∧
    readyAt base (.voice 0) .plain (insnSys 5 0 0 0 true .kernel) (fun r => !r.wfiEnds 0) = true ∧
    readyAt (withCore fun v => { v with mderrh := 0x800000 }) (.voice 0) .plain (insnSys 5 0 0 0 true .kernel) (fun r => r.wfiEnds 0) = true ∧
    readyAt (level .kernel 0x40) (.voice 0) .plain (insnSys 5 0 0 0 true .kernel) (fun r => (r.core 0).level = .kernel && (r.core 0).mstatus.getLsbD 6) = true := by
  decide +kernel
theorem wit_CallsAndBreaksTrap : (∀ l ∈ [Level.user, .kernel, .monitor], isReady (level l 0) (.voice 0) .plain (insnSys 4 0 0 0 false .user) = true) ∧
    ∀ k ∈ both, isReady base k .plain (insnSys 7 0 0 0 true .user) = true := by decide +kernel
theorem wit_ExceptionEntrySavesState : (Exc.of 1 0).gwa = none ∧
    ([(0 : Word), 2].all fun m => let v := (withCore fun v => { v with level := .user, mdeleg := m }).core 0
      decide (v.level ≠ .monitor) && (v.mdeleg.getLsbD (Exc.of 1 0).code.toNat == decide (m = 2)) && !v.kstatus.getLsbD 3) = true ∧
    base.cdr.cstatus.getLsbD 4 = false ∧ { base.cdr with cstatus := 0x10 }.cstatus.getLsbD 4 = true := by decide +kernel
/-- ERET. -/
def insnEret : Insn := insnSys 6 0 0 0 true .kernel
theorem wit_ExceptionReturns :
    isReady (level .kernel 0) (.voice 0) .plain insnEret = true ∧ isReady base .conductor .plain insnEret = true ∧
    readyAt (level .monitor 0xC) (.voice 0) .plain insnEret (fun r => decide (bits (r.core 0).mstatus 2 2 = 3)) = true ∧
    ([(0 : Word), 0x80].all fun bx => readyAt ((level .monitor bx).modCore 0 fun v => { v with mptag := 15 }) (.voice 0) .plain insnEret fun r =>
      decide ((bits (r.core 0).mstatus 2 2).toNat < 2) && decide ((r.core 0).mptag ≠ 0) && (r.core 0).mstatus.getLsbD 7 == decide (bx = 0x80)) = true ∧
    readyAt (level .monitor 4) (.voice 0) .plain insnEret (fun r =>
      decide ((bits (r.core 0).mstatus 2 2).toNat < 2) && decide ((r.core 0).mptag = 0)) = true := by
  decide +kernel
theorem wit_CsrInstructions : ∀ k ∈ both, isReady base k .plain (insnCsr k false 3 false 0x002) = true ∧ isReady base k .plain (insnCsr k true 3 false 0x002) = true := by
  decide +kernel
theorem wit_TlbAndCacheMaintenance :
    readyAt base (.voice 0) .plain (insnTlbi 0 1 2 3 (isPair 2) .kernel) (fun r => r.hasCore 11) = true ∧
    isReady base (.voice 0) .plain (insnTlbi 1 0 0 3 true .kernel) = true ∧ isReady base (.voice 0) .plain (insnTlbi 2 0 0 3 true .monitor) = true ∧
    isReady base (.voice 0) .plain (insnTlbi 3 1 0 0 true .monitor) = true ∧
    ∀ n ∈ [(0 : BitVec 3), 1, 2, 3], readyAt atomic (.voice 0) .plain (insnCmo n 0 4 0 .user) (fun r =>
      match reqOf 0 (if n = 1 then .inv else .clean) (r.rd (.voice 0) 4) r with
      | .ok q _ => q.ptrOk && (match q.translate r with
        | .ok (a, some mt) u => mt ≠ .sx && u.inMem a.toNat && !u.stalledBy (.voice 0) && !u.notYetStreamed (lineOf a.toNat)
        | _ => false)
      | .error _ _ => false) = true ∧
    readyAt base (.voice 0) .plain (insnCmo n 0 0 0 .user) (fun r =>
      match reqOf 0 (if n = 1 then .inv else .clean) (r.rd (.voice 0) 0) r with
      | .ok q _ => q.ptrOk && (match q.translate r with | .ok (a, mt) u => decide (mt = none) || !u.inMem a.toNat | _ => false)
      | .error _ _ => false) = true := by decide +kernel

/-- An enabled source of monitor target `t` is pending. -/
def irq (t : Nat) (s : State) : State := { s with chorus := { (s.chorus.setSrc t 0 { s.chorus.src t 0 with
  en := true, edge := true, latch := true, prio := 0, target := BitVec.ofNat 4 t }) with en := true, pmaskM := Tbl.put [] t 63 } }
/-- The same for the kernel interface of partition 1 on core 0. -/
def kirq : State := let s := withCore fun v => { v with level := .user, kstatus := 0x11, mptag := 1 }
  { s with chorus := { (s.chorus.setSrc 0 0 { s.chorus.src 0 0 with
    en := true, edge := true, latch := true, prio := 0, target := 0, mode := true, part := 1 }) with en := true, pmaskK := Tbl.put [] 1 63 } }
theorem wit_CoreEvents :
    holdsIn (irq 0 (level .user 0)) (fun s => s.issues 0 && (s.core 0).bx.isNone && !(s.core 0).derrDue &&
      decide ((s.awake (.voice 0)).monIrqDue 0 = some 0)) = true ∧
    holdsIn kirq (fun s => s.issues 0 && (s.core 0).bx.isNone && !(s.core 0).derrDue && decide ((s.awake (.voice 0)).monIrqDue 0 = none) &&
      decide ((s.awake (.voice 0)).kerIrqDue 0 = some 0)) = true ∧
    holdsIn (irq 12 { base with cdr := { base.cdr with cstatus := 1 } }) (fun s => s.cdrIssues && s.cdr.cstatus.getLsbD 0 &&
      decide ((s.awake .conductor).monIrq 12 = some 0)) = true ∧
    ([Level.user, .monitor].all fun l => holdsIn ((level l 0).modCore 0 fun v => { v with bx := some (15, 23) }) fun s =>
      s.issues 0 && decide ((s.core 0).bx = some (15, 23)) && decide ((s.core 0).level = l)) = true ∧
    base.on = true ∧ base.hasCore 11 = true ∧
    holdsIn (withCore fun v => { v with level := .user, mderrh := 0x800000 }) (fun s =>
      s.issues 0 && (s.core 0).bx.isNone && (s.core 0).derrDue) = true := by decide +kernel

/-! Command packets. -/

/-- The image that runs was tested on this stepping. -/
def tested : State := { served with boot := { served.boot with stepMask := (4, 0) } }
/-- An outstanding command of a ring. -/
def running (op : BitVec 8) (tag : Word) (committed : Bool) : Cmd :=
  { ring := 0, seq := 0, tag, op, params := [], startAt := 0, committed, resv := 0, aux := 0 }
/-- The state with a command outstanding. -/
def busy (s : State) (op : BitVec 8) (committed : Bool) : State := { s with rings := { s.rings with active := [running op 9 committed] } }
/-- The state with a ring stopped. -/
def stop (s : State) (r : BitVec 5) : State := (s.setRingWord r 4 2).modRings fun x => { x with stopped := setBit x.stopped r.toNat true }
/-- No command of an opcode is outstanding. -/
def idle (s : State) (op : BitVec 8) : Bool := s.rings.active.all fun c => decide (c.op ≠ op)

/-- A command packet is taken and answered. -/
theorem test_nop : after 9 (.nop (head 0)) served (fun t => t.rplProd 0 - t.rplCons 0) = 3 := by decide +kernel
theorem wit_PacketsAreTakenAndAnswered :
    ([(0 : BitVec 5), 1, 17].all fun r => takes served (head r) 0 3 srcAll (fun _ => true)) = true ∧ takes served (head 0) 254 257 srcAll (fun _ => true) = true ∧
    holdsIn (stop served 0) (fun s => Memory.wf ramDefault s.stage && ringBit s.rings.stopped 0) = true ∧
    ringBit served.rings.stopped 0 = false ∧ ([] : List Word).length ≤ 253 := by decide +kernel
/-- 32 commands of ring 3 are outstanding. -/
def full : State := { served with rings := { served.rings with active := (List.range 32).map fun i => { running 0x20 (BitVec.ofNat 24 i) false with ring := 3 } } }
theorem wit_SystemCommands_busy : takes full (head 0) 0 3 srcAll (fun s => decide (32 ≤ s.rings.active.length)) = true ∧
    takes { served with boot := { served.boot with perms := 10 } } (head 17) 4 3 srcG (fun s => s.mc.ready && s.gated && s.boot.perms.getLsbD 3 &&
      decide (s.rings.active.length < 32)) = true ∧
    takes { served with mc := MemCtl.reset } (head 17) 4 3 srcG (fun s => !s.mc.ready) = true := by decide +kernel
theorem wit_SystemCommands :
    takes tested (head 0) 4 3 srcMG (fun s => s.mc.ready && !s.gated && s.hasCore 11 && !(s.core 11).released && (s.core 0).released) = true ∧
    takes tested (head 17) 4 3 srcG (fun s => s.mc.ready && !s.gated && !(s.core 1).released) = true ∧
    takes served (head 0) 4 3 srcMG (fun s => s.mc.ready && s.gated) = true ∧
    takes { served with mc := MemCtl.reset } (head 0) 4 3 srcMG (fun s => !s.mc.ready) = true ∧
    takes { served with boot := { served.boot with perms := 2 } } (head 17) 4 3 srcG (fun s => s.mc.ready && s.gated && !s.boot.perms.getLsbD 3) = true ∧
    takes { served with die := { served.die with variant := .mrn2404 } } (head 0) 1 3 srcMG (fun s => !s.hasCore 11) = true ∧
    takes served (head 17) 9 3 srcAll (fun _ => true) = true ∧
    takes (stop served 5) (head 0) 1 3 srcM (fun s => ringBit s.rings.stopped 5 && s.ringLimits 5) = true ∧
    takes served (head 0) 1 3 srcM (fun s => decide (s.ringState 5 ≠ 2) && !ringBit s.rings.stopped 5 && (s.core 0).released && !(s.core 1).released) = true := by
  decide +kernel
theorem wit_PowerAndBarCommands :
    takes served (head 0) 4 3 srcM (fun s => s.refrain.role = .none && !s.echo.track && s.rings.active.isEmpty) = true ∧
    takes { served with refrain := { served.refrain with role := .active } } (head 0) 4 3 srcM (fun s => s.refrain.role = .active) = true ∧
    takes (busy served 0x12 false) (head 0) 4 3 srcM (fun s => s.refrain.role = .none && !s.echo.track && !s.rings.active.isEmpty) = true ∧
    takes served (head 0) 2 6 srcM (fun s => !s.bar.run && decide (2400 ≤ 100 * s.fmax) && decide (2 < s.die.variant.sections) && idle s 0x12) = true ∧
    takes { served with bar := { served.bar with run := true } } (head 0) 2 6 srcM (fun s => s.bar.run && decide (s.rings.active.length < 32)) = true ∧
    takes served (head 0) 5 6 srcM (fun s => idle s 0x20 && decide ((0x118 : Word) &&& ~~~0x11F = 0)) = true ∧
    takes (busy served 0x20 false) (head 0) 5 6 srcM (fun s => !idle s 0x20) = true ∧
    takes served (head 0) 1 7 srcMP (fun _ => true) = true ∧ takes served (head 1) 1 7 srcMP (fun _ => true) = true := by decide +kernel

/-- Tempo holds a code. -/
def tempoCode (s : State) (c : BitVec 4) : State := { s with tempo := { s.tempo with code := c } }
/-- RUN is 1. -/
def runOn (s : State) : State := { s with bar := { s.bar with run := true } }
theorem wit_TempoCommands :
    takes served (head 0) 3 3 srcMG (fun s => !s.bar.run) = true ∧ takes (runOn served) (head 17) 3 3 srcMG (fun s => s.bar.run) = true ∧
    (bits (0xEC0000 : Word) 18 6 ++ (0x9AC9FF : Word) : BitVec 30).toNat = 999999999 ∧
    (bits (0xEC0000 : Word) 18 6 ++ (0x9ACA00 : Word) : BitVec 30).toNat = 1000000000 ∧
    takes served (head 0) 1 3 srcM (fun s => s.die.variant.duet) = true ∧ takes served (head 0) 3 3 srcM (fun _ => true) = true ∧
    takes (runOn (tempoCode served 7)) (head 0) 0 6 srcM (fun s => s.tempo.code = 7 && s.bar.run && decide (s.rings.active.length < 32)) = true ∧
    takes (tempoCode served 7) (head 0) 0 6 srcM (fun s => s.tempo.code = 7 && !s.bar.run) = true ∧
    takes served (head 0) 0 6 srcM (fun s => s.tempo.code ≠ 7) = true ∧
    ([(0 : BitVec 3), 2, 3].all fun m => takes { served with tempo := { served.tempo with
      refEn := m, pps := { served.tempo.pps with qualified := true } } } (head 0) 2 3 srcM (fun _ => true)) = true := by decide +kernel
theorem wit_TempoEvents :
    ([Initiator.voice 0, .conductor, .debug, .dma .xspi].all base.canAct) = true ∧ (tempoCode base 7).canAct .conductor = true ∧
    ([(0 : BitVec 3), 1].all fun m => holdsIn { base with tempo := { base.tempo with refEn := m } } fun s => s.on) = true ∧
    ([(0 : Fin 3), 1, 2].all fun r => holdsIn { base with tempo := { base.tempo with
      pps := { base.tempo.pps with lastAt := some 0 }, ptp := { base.tempo.ptp with lastAt := some 0 }, partner := { base.tempo.partner with lastAt := some 0 } } }
      fun s => s.on && (s.tempo.refOf (refOfBit r)).lastAt.isSome) = true ∧
    holdsIn (tempoCode base 5) (fun s => s.on && s.tempo.code = 5) = true ∧
    holdsIn { tempoCode base 5 with pwr := { base.pwr with state := .fermata } } (fun s => !s.on && decide (s.pwr.state = .fermata) && s.tempo.code = 5) = true ∧
    holdsIn { base with tempo := { base.tempo with ppsOut := true, ppsRise := some 0 } } (fun s => s.on && s.tempo.ppsOut && s.tempo.ppsRise.isSome) = true := by
  decide +kernel

/-! Chorus and the Bar unit. -/

theorem wit_SelectionTakesTheHighestPriority : (irq 0 base).deliverable (.monitor 0) 0 = true ∧ (irq 0 base).best (.monitor 0) = some (0, 0) ∧
    kirq.deliverable (.kernel 0 1) 0 = true ∧ base.best (.monitor 0) = none := by decide +kernel
theorem wit_ChorusOperations :
    base.on = true ∧ base.hasCore 11 = true ∧ base.canAct (.voice 0) = true ∧ base.canAct .conductor = true ∧ base.canAct .debug = true ∧
    holdsIn base (fun s => s.srcPresent 0 112 && s.srcPresent 12 0 && !s.srcRefused (s.chorus.src 0 112) && (s.core 0).level = .monitor &&
      !(s.chorus.src 0 112).own && !(sharedReset 0).own && !(s.chorus.src 0 18).own) = true ∧
    (level .user 0).canAct (.voice 0) = true ∧ (0 : BitVec 9) ≠ 18 ∧ 16 ≤ (383 : BitVec 9).toNat ∧
    Tbl.find { base with chorus := { base.chorus with timer := [(12, (5, false))] } }.chorus.timer 12 = some (5, false) := by decide +kernel

/-- Bars run at a beat. -/
def inBar (b : BitVec 5) (run : Bool) : State := { base with bar := { base.bar with run, running := true, beat := b } }
theorem wit_BarBoundaries :
    ([true, false].all fun r => holdsIn (inBar 19 r) fun s => s.on && s.bar.running && decide (s.bar.cfg.beats.toNat ≤ s.bar.beat.toNat + 1)) = true ∧
    ([(0 : BitVec 5), 18].all fun b => holdsIn (inBar b true) fun s => s.bar.running && decide (s.bar.beat.toNat + 1 < s.bar.cfg.beats.toNat)) = true ∧
    holdsIn { base with bar := { base.bar with run := true, firstAt := some 0 } } (fun s => s.on && s.bar.firstAt.isSome && s.bar.run && !s.bar.running) = true := by
  decide +kernel
/-- A slot of partition 15 in every entry of core 0's table, entered or not, done or not. -/
def inSlot (entered done : Bool) (e : Word) : State :=
  (inBar 0 true).modCbar 0 fun x => { x with btc := Vector.replicate 6 e, entered, done }
theorem wit_SlotsEnd : bits ((inSlot true false 0xF7DF7D).entryNow 0) 0 2 = 1 ∧ bits ((inSlot false false 0xF7DF7D).entryNow 0) 2 4 = 15 ∧
    bits ((inSlot true true 0).entryNow 0) 0 2 ≠ 1 ∧ ((inSlot true false 0xF7DF7D).cbar 0).entered = true ∧
    ((inSlot true false 0xF7DF7D).cbar 0).done = false := by decide +kernel
/-- 02 R40: an overrun counts. -/
theorem test_overrun : ((inSlot true false 0xF7DF7D).slotEnd 0).bar.ovr[15] = 1 := by decide +kernel
theorem wit_ArmedStagingIsJudged : ((base.modCbar 0 fun x => { x with arm := true }).cbar 0).arm = true ∧
    holdsIn { base with bar := { base.bar with garm := true } } (fun s => s.bar.garm && idle s 0x20) = true := by decide +kernel
theorem wit_BarWindowWrites : ([Initiator.voice 0, .conductor, .debug].all fun w => base.canAct w && (inBar 0 true).canAct w) = true ∧
    base.hasCore 11 = true ∧ { base with die := { base.die with variant := .mrn2404 } }.hasCore 11 = false ∧
    holdsIn { base with bar := { base.bar with lock := true } } (fun s => s.bar.lock && !s.bar.run && s.canAct .debug) = true := by decide +kernel

/-! The memory controller, Echo, rings and pools. -/

/-- The memory controller changed. -/
def withMc (f : MemCtl → MemCtl) : State := { served with mc := f served.mc }
/-- A refresh-quiet window with a number of postponed refreshes. -/
def quietWindow (n : Nat) : State :=
  let s := { inBar 0 true with mc := { served.mc with postponed := Vector.replicate 2 n } }
  { s with bar := { s.bar with cfg := { s.bar.cfg with refq := 0xFFFFFF } } }
theorem wit_MemoryController :
    base.canAct .conductor = true ∧ base.canAct .debug = true ∧ { base with mc := { base.mc with init := true } }.mc.init = true ∧
    served.hasRank 0 = true ∧ (withMc fun m => { m with ranks := true }).hasRank 1 = true ∧ served.quiet = false ∧
    ([0, 7, 8].all fun n => (quietWindow n).on && (quietWindow n).quiet && decide ((quietWindow n).mc.postponed[0] = n)) = true ∧
    holdsIn served (fun s => s.on && s.mc.ready && !s.mc.selfref && s.mc.scrubEn) = true := by decide +kernel
theorem wit_EchoAndCaches_sites : holdsIn atomic (fun s => s.on && s.siteHolds (.l1d 0) (0x100000000 / 24) && s.refrain.stream.isNone) = true ∧
    holdsIn { served with echo := { served.echo with stalled := [{ line := 0x100000000 / 24, who := none, wb := false, ws := [{ addr := 0x100000000, data := 7, lanes := 7, poison := false }]
                                                                   own := false, drop := none }] } } (fun s =>
      s.on && decide (s.caches.find (0x100000000 / 24) = none) && !inStage 0x100000000) = true := by decide +kernel
theorem wit_DramErrors : ([(0x100000000 : Nat), served.mc.top].all fun a => served.inDram a && decide (Tbl.find served.chk (8 * (a / 24) + a % 24 / 3) = none)) = true ∧
    Memory.wf ramDefault served.dram = true := by decide +kernel
/-- One protected region of one page is configured. -/
def protected' : State := { served with echo := { served.echo with
  rgnBase := served.echo.rgnBase.set 0 0x100000, rgnPages := served.echo.rgnPages.set 0 1, spillBase := 0x100010, spillMw := 1 } }
theorem wit_EchoAndCaches :
    holdsIn served (fun s => s.canAct .conductor && s.die.variant.duet && !s.echo.track && s.trackRefused) = true ∧
    holdsIn { served with echo := { served.echo with track := true } } (fun s => s.canAct .conductor && s.echo.track && s.refrain.stream.isNone &&
      s.echo.stalled.isEmpty) = true ∧
    holdsIn { served with echo := { served.echo with stalled := [{ line := 0x100000000 / 24, who := none, wb := true, ws := [], own := false, drop := none }] } } (fun s =>
      s.on && s.refrain.stream.isNone) = true ∧
    decide (served.die.variant.sections = 3) = true ∧ decide (served.die.variant.slices = 4) = true ∧
    popcount (bits (0x0001FF : Word) 0 9) = 9 ∧ popcount (bits (0x0000FF : Word) 0 9) = 8 ∧ served.caches.ops = [] := by decide +kernel
/-- A doorbell of ring 0 is pending. -/
def rung (s : State) : State := { s with rings := { s.rings with dbPend := 1 } }
theorem wit_DoorbellsAreServed :
    served.rings.last.toNat = 15 ∧ { served with rings := { served.rings with last := 14 } }.rings.last.toNat < 15 ∧
    holdsIn (rung served) (fun s => s.on && s.serving && s.rung 0 && decide (s.ringState 0 = 1) && !ringBit s.rings.stopped 0 && s.ringLimits 0 &&
      decide (s.reqProd 0 = s.reqCons 0) && (s.serviceOrder.takeWhile fun x => decide (x ≠ 0)).all fun q => !((s.unring 0).learn 0).startable q) = true ∧
    (rung (served.setRingWord 0 0 0x800)).ringLimits 0 = true ∧ (rung (served.setRingWord 0 0 0x801)).ringLimits 0 = false := by decide +kernel
/-- A long command of the Conductor runs. -/
def longRun (op : BitVec 8) (ps : List Word) : State :=
  { served with rings := { served.rings with active := [{ running op 9 false with params := ps }] } }
/-- The doorbell of the debug port's ring is pending too, which is served first. -/
theorem wit_DoorbellsAreServed_order :
    holdsIn { served with rings := { served.rings with dbPend := 1, dbDebug := true } } (fun s => s.serving && s.rings.held.isEmpty &&
      (s.serviceOrder.takeWhile fun x => decide (x ≠ 0)).any fun q => s.rung q) = true ∧
    holdsIn served (fun s => s.serving && s.rings.held.isEmpty && (s.serviceOrder.takeWhile fun x => decide (x ≠ 0)).all fun q => !s.bell q && !s.startable q) = true := by
  decide +kernel
theorem wit_LongCommandsEnd : ([(0x82 : BitVec 8), 0x83, 0x84, 0x81, 0x70].all fun op => holdsIn (longRun op [0, 0, 0, 0, 1]) fun s =>
    s.cdrRuns && (s.rings.active.find? fun x => decide (x.ring = 0) && decide (x.tag = 9)).isSome) = true ∧ served.cdr.run ≠ .halted := by decide +kernel
/-- A pool with free buffers. -/
def pooled (n : Nat) (own : BitVec 4) : State :=
  served.setPool 31 { base := 0x100000000, size := 1, owner := own, en := true, count := 3, free := List.range n, low := 3 }
theorem wit_PoolRegisters :
    ([Initiator.voice 0, .conductor, .dma (.eth 0)].all fun w => served.canAct w && (pooled 3 0).canAct w && (pooled 2 0).canAct w) = true ∧
    ((pooled 3 0).pool 31).en = true ∧ bits (0xF80002 : Word) 19 5 = BitVec.ofNat 5 31 ∧ (bits (0xF80002 : Word) 0 19).toNat < ((pooled 3 0).pool 31).count.toNat ∧
    2 ∈ ((pooled 3 0).pool 31).free ∧ 2 ∉ ((pooled 2 0).pool 31).free := by decide +kernel

/-- Refrain changed. -/
def withRefrain (f : Refrain → Refrain) : State := { served with refrain := f served.refrain }
/-- The link changed. -/
def withDuet (f : Duet → Duet) : State := { served with duet := f served.duet }
theorem wit_DuetCommands :
    takes served (head 0) 0 9 srcMDG (fun s => s.die.variant.duet) = true ∧
    takes { served with die := { served.die with variant := .mrn2404 } } (head 0) 0 9 srcMDG (fun s => !s.die.variant.duet) = true ∧
    takes (withDuet fun d => { d with en := true }) (head 0) 1 6 srcM (fun s => s.die.variant.duet && s.duet.en && idle s 0x41 && decide (4 ≤ s.die.variant.lanes)) = true ∧
    takes served (head 0) 1 6 srcM (fun s => !s.duet.en && idle s 0x41 && decide (s.rings.active.length < 32)) = true ∧
    takes served (head 0) 2 3 srcM (fun s => s.die.variant.duet) = true ∧
    takes { (withRefrain fun r => { r with role := .active, en := true }) with duet := { served.duet with partnerRole := 4 } } (head 0) 1 6 srcM
      (fun s => idle s 0x42 && decide (s.refrain.role = .active) && decide (s.partnerRole = 4)) = true ∧
    takes served (head 0) 1 6 srcM (fun s => idle s 0x42 && decide (s.refrain.role ≠ .active) && !s.bar.run) = true ∧
    takes (runOn (withRefrain fun r => { r with batonAge := 5 })) (head 0) 1 6 srcM (fun s => s.bar.run && decide (s.refrain.role = .none) &&
      decide (s.refrain.batonLimit ≤ s.refrain.batonAge.toNat) && !s.refrain.partnerSeen) = true ∧
    takes served (head 0) 22 3 srcM (fun s => s.die.variant.duet && !s.refrain.en) = true ∧
    takes (withRefrain fun r => { r with en := true }) (head 0) 22 3 srcM (fun s => s.refrain.en) = true ∧
    takes { protected' with refrain := { served.refrain with role := .active } } (head 0) 1 6 srcM (fun s => idle s 0x44 && !s.versionsClash &&
      decide (s.refrain.role = .active) && !s.trackRefused && !s.echo.track) = true ∧
    takes (withRefrain fun r => { r with role := .active }) (head 0) 1 6 srcM (fun s => s.trackRefused && !s.echo.track) = true ∧
    takes served (head 0) 1 6 srcM (fun s => idle s 0x44 && !s.versionsClash && decide (s.refrain.role = .none) && decide (s.partnerRole ≠ 1)) = true ∧
    takes (withDuet fun d => { d with partnerRole := 9 }) (head 0) 1 6 srcM (fun s => !s.versionsClash && decide (s.partnerRole = 1) &&
      s.duet.partnerRole.getLsbD 3) = true ∧
    takes (withRefrain fun r => { r with trained := true }) (head 0) 1 6 srcM (fun s => s.versionsClash) = true ∧
    takes (withDuet fun d => { d with state := .up }) (head 0) 2 14 srcM (fun s => s.die.variant.duet && !s.refrain.trained && decide (s.duet.state ≠ .off) &&
      decide (s.duet.state ≠ .fatal)) = true ∧
    takes served (head 0) 2 14 srcM (fun s => decide (s.duet.state = .off) && decide (s.rings.active.length < 32)) = true := by decide +kernel
theorem wit_HealthAndTraceCommands :
    takes served (head 0) 2 3 srcM (fun _ => true) = true ∧
    takes served (head 0) 1 8 srcMG (fun s => sliceKnown 0 && s.slicePresent 0) = true ∧
    takes { served with die := { served.die with variant := .mrn2404 } } (head 0) 1 8 srcMG (fun s => sliceKnown 9 && !s.slicePresent 9) = true ∧
    takes served (head 0) 1 9 srcMG (fun s => !badSource s 0 [256] && s.ledgerSource 256) = true ∧
    takes served (head 0) 3 3 srcMG (fun s => !badSource s 0 [2818] && s.ledgerSource 2818) = true ∧
    takes served (head 17) 1 3 srcG (fun s => !badSource s 0 [768] && decide ((s.lsrc 768).state ≠ .repaired)) = true ∧
    takes (served.setLState 768 .repaired) (head 17) 1 3 srcG (fun s => s.ledgerSource 768 && decide ((s.lsrc 768).state = .repaired)) = true ∧
    takes (served.setLState 768 .repaired) (head 17) 2 6 srcMG (fun s => decide (repairKind 768 ≠ .report) && idle s 0x63 && decide ((s.lsrc 768).state = .repaired)) = true ∧
    takes served (head 0) 2 6 srcMG (fun s => decide (repairKind 256 = .report) && s.ledgerSource 256) = true ∧
    takes served (head 17) 3 6 srcG (fun s => s.die.variant.trace && idle s 0x70 && srcOk s.inMem 0x400000 0 80) = true ∧
    takes served (head 1) 1 3 srcMP (fun s => s.die.variant.trace) = true := by decide +kernel
/-- The bits of a debug session. -/
def fusing : State := { served with boot := { served.boot with perms := 31 } }
/-- A pointer to the first word of DRAM, as two parameter words. -/
def dram0 : Word × Word := (0x000000, 0x000400)
/-- A slot record: generation 1, WSTATE ERASED (11 R453), and its CRC word. -/
def record : List Word := [0x525352, 1, 1] ++ List.replicate 60 0 ++ [0x53203B]
/-- The Working slot has been erased: the slot record says so. -/
def erasedSlot : State :=
  { served with flash := (List.range 192).map fun i => (3 * configBase + i, lane (record.getD (i / 3) 0) (i % 3)) }
theorem crc_append (c : BitVec 24) (a b : List Word) : crcMore c (a ++ b) = crcMore (crcMore c a) b := by simp [crcMore, wordBytes]
theorem record_crc : recordCrc (record.take 63) = 0x53203B := by
  have h : record.take 63 = ((([0x525352, 1, 1] ++ List.replicate 12 0) ++ List.replicate 16 0) ++ List.replicate 16 0) ++ List.replicate 16 0 := by
    decide +kernel
  have h1 : crcMore 0xB704CE ([0x525352, 1, 1] ++ List.replicate 12 0) = 0xE73656 := by decide +kernel
  have h2 : crcMore 0xE73656 (List.replicate 16 0) = 0x10630B := by decide +kernel
  have h3 : crcMore 0x10630B (List.replicate 16 0) = 0xE816CB := by decide +kernel
  have h4 : crcMore 0xE816CB (List.replicate 16 0) = 0x53203B := by decide +kernel
  rw [recordCrc, h, crc_append, crc_append, crc_append, h1, h2, h3, h4]
theorem record_words : erasedSlot.flashWords configBase 64 = record := by decide +kernel
theorem record_other : erasedSlot.flashWords (configBase + 0x1000) 64 = List.replicate 64 0xFFFFFF := by decide +kernel
theorem copy_some {s : State} {ws : List Word} (h : s.flashWords configBase 64 = ws) (h0 : ws.getD 0 0 = 0x525352)
    (h1 : recordCrc (ws.take 63) = ws.getD 63 0) : s.recordCopy false = some ws := by
  simp only [State.recordCopy, Bool.false_eq_true, if_false, Nat.add_zero, h, h0, h1, decide_true, Bool.and_self, if_true]
theorem copy_none {s : State} (h : (s.flashWords (configBase + 0x1000) 64).getD 0 0 ≠ 0x525352) : s.recordCopy true = none := by
  simp only [State.recordCopy, if_true, h, decide_false, Bool.false_and, Bool.false_eq_true, if_false]
theorem wstate_of_copy {s : State} {ws : List Word} (h : s.recordCopy false = some ws) (h' : s.recordCopy true = none) : s.wstate = ws.getD 2 0 := by
  simp [State.wstate, State.slotRecord, State.recordInUse, h, h']
theorem wit_SlotPoolAndAbortCommands_erased : erasedSlot.wstate = 1 := by
  rw [wstate_of_copy (copy_some record_words (by decide) (by rw [record_crc]; decide)) (copy_none (by rw [record_other]; decide))]
  decide
theorem wit_SlotPoolAndAbortCommands :
    takes served (head 0) 1 9 srcMG (fun _ => true) = true ∧
    takes { served with boot := { served.boot with xipOff := true } } (head 0) 5 6 srcMG (fun s => s.rings.active.isEmpty && (s.boot.golden || s.boot.xipOff)) = true ∧
    takes erasedSlot (head 0) 5 6 srcMG (fun s => srcOk s.inDram dram0.1 dram0.2 1 &&
      (s.flashWords (0x200000 + 0xDFFFF) 1).all fun w => decide (w = 0xFFFFFF)) = true ∧
    takes served (head 0) 5 6 srcMG (fun s => decide (s.wstate ≠ 1)) = true ∧
    takes served (head 0) 3 8 srcM (fun s => idle s 0x85 && idle s 0x83 && idle s 0x86 && s.boot.fzBusy.isNone) = true ∧
    takes fusing (head 17) 2 6 srcG (fun s => s.boot.perms.getLsbD 2 && s.boot.fzBusy.isNone && !s.rowRefused 255 && s.rowRefused 0) = true ∧
    takes served (head 0) 7 3 srcM (fun s => s.inDram 0x100000008 && s.inDram (0x100000008 + 3 * 24 - 1) && !(s.pool 31).en && decide (0x100000008 % 24 = 0)) = true ∧
    takes (pooled 3 0) (head 0) 1 3 srcM (fun s => (s.pool 31).en && decide ((s.pool 31).count.toNat ≤ (s.pool 31).free.length)) = true ∧
    takes (pooled 2 0) (head 0) 2 11 srcMDG (fun s => (s.pool 31).en && decide ((s.pool 31).free.length = 2)) = true ∧
    takes (busy served 0x20 true) (head 0) 2 3 srcAll (fun s => s.rings.active.any fun c => c.isCommitted) = true ∧
    ([(0x20 : BitVec 8), 0x84].all fun op => takes (busy served op false) (head 0) 2 3 srcAll fun s => s.rings.active.all fun c => !c.isCommitted) = true ∧
    takes served (head 1) 2 3 srcAll (fun _ => true) = true := by decide +kernel
/-- A packet of ring 1 waits under ORDERED for an outstanding command of its ring. -/
def waiting (op : BitVec 8) : State :=
  let s := { served with rings := { served.rings with active := [{ running 0x20 9 false with ring := 1 }] } }
  let s := s.postPacket 1 (packetWords op { ring := 1, flags := 1, tag := 7 } [])
  (s.unring 1).learn 1
theorem wit_SlotPoolAndAbortCommands_waiting :
    ([(0x20 : BitVec 8), 0x00].all fun op => takes (waiting op) (head 0) 2 3 srcAll fun s =>
      let u := s.taken 0xF0 (head 0) [1, 7]
      (s.rings.active.all fun c => decide (c.ring = 1 → c.tag ≠ 7)) &&
        match u.waitingPacket 1 7 with | some i => u.waitsOrdered 1 i && decide (bits (u.reqWord 1 i) 16 8 = op) | none => false) = true ∧
    (served.taken 0xF0 (head 0) [1, 7]).waitingPacket 1 7 = none := by decide +kernel

/-! The Duet link and what it carries. -/

/-- A flit with its CRC word. -/
def crcFlit (ch : BitVec 2) (ft : BitVec 3) (seq : BitVec 12) (nw : BitVec 5) : RxFlit :=
  { flitOf 22 with seq, nw, crc := flitCrc (flitHeader ch ft seq nw) (List.replicate 22 0) }
/-- The link is up, with flits to send, a hold timer and ACKs that are due. -/
def linked (st : LinkState) : State := withDuet fun d => { d with
  state := st, en := true, lanes := 15, session := true, holdEnd := some 5, bucket := 100, dqProd := 1, dqSize := 8
  c := { d.c with store := [{ ch := 1, ft := 0, seq := 0, payload := [0], gate := none }], ackDue := some 5 }
  b := { d.b with store := [{ ch := 2, ft := 0, seq := 0, payload := [0], gate := none }] }
  lmap := d.lmap.set 0 { base := 0x100000000, lines := 1, valid := true, r := true, w := true } }
/-- What a partner's TRAIN flit said. -/
def told : TrainInfo := { fmt := 1, epoch := 1, sysId := 0, lanes := 15, width := 3, speed := 0, drain := 0, duet := 0 }
theorem wit_LinkControl :
    holdsIn served (fun s => s.canAct .conductor && s.die.variant.duet && !s.duet.en && s.mayW1c .conductor) = true ∧
    holdsIn (linked .up) (fun s => s.canAct .conductor && s.duet.en && s.duet.session && decide (s.duet.state = .up) && decide (s.duet.dqCons ≠ s.duet.dqProd) &&
      decide (s.duet.txns.length < 64) && decide (s.duet.c.store[s.duet.c.sent]? = some { ch := 1, ft := 0, seq := 0, payload := [0], gate := none }) &&
      decide (s.duet.b.store[s.duet.b.sent]? = some { ch := 2, ft := 0, seq := 0, payload := [0], gate := none }) &&
      decide (1 ≤ s.duet.bucket) && s.duet.c.ackDue.isSome && s.duet.b.ackDue.isNone && !s.bar.running) = true ∧
    holdsIn (linked .retrain) (fun s => s.on && decide (s.duet.state = .retrain) && decide (s.duet.holdEnd = some 5)) = true ∧
    (linked .fatal).duet.state = .fatal ∧
    ([LinkState.training, .retrain].all fun st => holdsIn (withDuet fun d => { d with state := st, info := some told }) fun s =>
      decide (agreeWidth (8 &&& s.duet.laneMask &&& told.lanes &&& s.die.variant.laneMask) (min (cap2 s.duet.tgtWidth) (cap2 told.width)) = some (0, 8))) = true := by
  decide +kernel
/-- A descriptor ring outside memory stops the unit that would read it, and a stalled write holds it. -/
theorem wit_LinkControl_stops :
    holdsIn (withDuet fun d => { d with state := .up, en := true, dqBase := 0, dqSize := 8, dqProd := 1 }) (fun s => s.on && decide (s.duet.state = .up) &&
      decide (s.duet.dqCons ≠ s.duet.dqProd) && decide (s.duet.txns.length < 64) && !s.stalledBy (.dma .duetTx) &&
      (s.domainRead (s.duet.descAt 0) 5).isNone) = true ∧
    holdsIn { linked .up with duet := { (linked .up).duet with dqBase := 0x100000 } } (fun s => match s.domainRead (s.duet.descAt 0) 5 with
      | some (u, ws) => decide (u.duet = s.duet) && decide (ws.length = 5) && ws.all fun x => !x.2
      | none => false) = true ∧
    holdsIn { linked .up with echo := { served.echo with stalled := [{ line := 0, who := some (.dma .duetTx), wb := false, ws := [], own := false, drop := none }] } }
      (fun s => s.stalledBy (.dma .duetTx)) = true ∧
    holdsIn { linked .up with tempo := { served.tempo with count := 5 }, duet := { (linked .up).duet with uncorr := Vector.replicate 4 [(0, 8)] } } (fun s =>
      s.on && s.duet.uncorr[3].any fun p => decide (s.tempo.count < p.1 + 1000000)) = true ∧
    { served.duet with txns := List.replicate 64 { tag := 0, kind := .read 0 0x100000000 1 false, got := 0, rsp := none } }.txns.length = 64 := by decide +kernel
/-- Every flit of these channels and types. -/
def kinds : List (BitVec 2 × BitVec 3) :=
  [(0, 1), (0, 2), (0, 3), (0, 4), (0, 5), (0, 6), (3, 0), (1, 0), (1, 1), (1, 2), (1, 3), (2, 0), (2, 1), (2, 2), (2, 4), (2, 5), (2, 6), (2, 7)]
theorem wit_FlitsAreReceived :
    (kinds.all fun x => flitGood (crcFlit x.1 x.2 0 22) x.1 x.2) = true ∧ flitGood (crcFlit 1 0 0 23) 1 0 = false ∧
    holdsIn (linked .up) (fun s => s.on && s.die.variant.duet && decide (s.duet.c.expect = 0) && decide (s.duet.b.expect = 0) &&
      decide (s.duet.level + 22 ≤ 131072) && decide (s.duet.c.unacked < 63) && decide (s.duet.b.unacked < 63) && !s.duet.c.nakSent) = true ∧
    holdsIn (withDuet fun d => { d with state := .up, level := 131072, c := { d.c with nakSent := true } }) (fun s =>
      decide (131072 < s.duet.level + 22) && s.duet.c.nakSent) = true ∧
    ((0 : BitVec 12) - 1).toNat = 4095 ∧ ((0 : BitVec 12) - 0x800).toNat = 2048 ∧
    holdsIn (withDuet fun d => { d with state := .retrain, resumeSent := true, holdEnd := some 1 }) (fun s =>
      s.duet.resumeSent && decide (s.tempo.count < 1) && decide (s.duet.sessEpoch = 0)) = true ∧
    holdsIn { served with duet := { served.duet with
        landing := some { tag := 0, isRead := false, addr := 0x100000000, words := 24, got := 0, status := 0, head := [] }
        txns := [{ tag := 0, kind := .read 0 0x100000000 1 false, got := 0, rsp := none }] } } (fun s =>
      s.duet.landing.isSome && (s.duet.txns.find? fun x => decide (x.tag = 0)).isSome && s.fits 16 2 && !s.refrain.role.receives) = true := by decide +kernel
/-- A Rehearsal slice, an asked slice, a queued event and a queued repair. -/
def slicing : State :=
  let s := busy served 0x51 false
  { s with health := { s.health with running := some { num := 0, start := 0, asked := false, retest := false }, repairs := [768], rehEn := true
                                     evq := [{ src := 256, kind := 2, time := 0, svc := 0 }] } }
theorem wit_RefrainAndHealthEvents :
    holdsIn served (fun s => s.on && s.die.variant.duet && s.refrain.stream.isNone && s.cdrRuns) = true ∧
    holdsIn (withRefrain fun r => { r with stream := some { n := 1, next := 0, buf := [], crc := 0, ended := false }, log := some (1, [])
                                           role := .handover, handBars := 5 }) (fun s =>
      s.refrain.stream.isSome && s.refrain.log.isSome && decide (s.refrain.role = .handover) && decide (s.refrain.batonLimit ≤ s.refrain.handBars) &&
      s.refrain.headWait.isNone && s.duet.bWait.isEmpty) = true ∧
    holdsIn (runOn slicing) (fun s => s.on && s.health.running.isSome && decide (s.tempo.count ≤ 0 + sliceBudget 0) && !s.askedSlices.isEmpty && s.health.rehEn &&
      !s.health.lateSet && s.planned.any fun n => decide (s.health.nextNum ≤ n)) = true ∧
    holdsIn slicing (fun s => s.cdrRuns && decide (s.health.evq.length = 1) && decide ((s.lsrc 256).state = .clean) && decide (s.rings.notices.length < 16) &&
      decide (repairKind 768 = .spare2) && !{ s with health := { s.health with running := none } }.repairBlocked 768 && idle s 0x63 &&
      decide (s.pwr.aonFrac < 1000000000) && decide (s.tempo.nsRem < s.tempo.pace) && decide (s.tempo.slewRem = 0)) = true := by decide +kernel
/-- Partition 1 owns a segment of section 0 and has traced. -/
def tracing (st : PtState) : State :=
  { base with trace := base.trace.set 0 ({ (base.tsec 0) with segOwn := (base.tsec 0).segOwn.set 0 1, pselM := 1 }.modPart 1 fun x =>
    { x with state := st, ctl := 0x38, strmLines := 1, strmBase := 0x100000 }) }
theorem wit_TraceRegistersAndEvents :
    holdsIn (tracing .armed) (fun s => s.canAct (.voice 0) && (s.mirrorPath (.voice 0) 0).isSome && decide (((s.tsec 0).part 1).state = .armed) &&
      decide ((bits ((s.tsec 0).part 1).ctl 4 3).toNat = 3) && decide ((s.tsec 0).len 1 ≠ 0)) = true ∧
    (base.pagePath (.voice 0)).isNone = true ∧
    (((tracing .idle).modCore 0 fun v => { v with mptag := 1, level := .kernel }).pagePath (.voice 0)).isSome = true ∧
    holdsIn (tracing .triggered) (fun s => s.hasTrace 0 && decide (((s.tsec 0).part 1).delay.toNat ≤ ((s.tsec 0).part 1).dcount) && ((s.tsec 0).part 1).streaming &&
      (s.monitorOf (.voice 0)) && s.canAct (.dma .trace)) = true := by decide +kernel

/-! Boot, resets and sleep. -/

/-- The boot unit changed. -/
def withBoot (f : Boot → Boot) : State := { served with boot := f served.boot }
theorem wit_TrustEvents :
    holdsIn (withBoot fun b => { b with fzRow := 255 }) (fun s => s.canAct .conductor && s.boot.fzBusy.isNone && decide (s.fuseState 255 = 0) &&
      decide (16 ≤ s.boot.fzRow.toNat)) = true ∧
    holdsIn (withBoot fun b => { b with fzBusy := some (255, 0xFFFFFF) }) (fun s => s.on && idle s 0x86 && s.boot.fzBusy.isSome) = true ∧
    ([true, false].all fun c => holdsIn (withBoot fun b => { b with checking := c }) fun s => s.on && s.boot.checking == c && decide (s.boot.failures < 8)) = true ∧
    holdsIn (withBoot fun b => { b with checking := true, sentinel := .released }) (fun s => s.boot.checking && decide (s.boot.sentinel ≠ .running)) = true ∧
    holdsIn (withBoot fun b => { b with sentinel := .running }) (fun s => s.on && decide (s.boot.sentinel = .running)) = true ∧
    holdsIn served (fun s => s.cdrRuns && s.mc.ready && !s.boot.imagesDone && decide (s.slotRecord.getD 4 0 = 0)) = true := by decide +kernel
theorem wit_TrustEvents_sectors : Memory.wf flashDefault [] = true ∧ 0x200000 ∈ rescoreSectors ∧ ([] : List Word).length ≤ 4096 ∧
    (3 : Nat) / 4096 ≠ journalSector / 4096 ∧ (3 : Nat) / 4096 ≠ journalRecord / 4096 := by decide +kernel
/-- The device in a power state. -/
def powered (p : PwrState) : State := { served with pwr := { served.pwr with state := p } }
theorem wit_ResetsAndSupplies :
    State.reset.pwr.state = .porst ∧ served.pwr.state = .play ∧ (powered .fermata).pwr.state = .fermata ∧ (powered .brownout).pwr.state = .brownout ∧
    (powered .thermal).pwr.state = .thermal ∧ served.on = true ∧ served.pwr.tripped = false ∧
    served.health.running = none ∧ served.health.retests = [] ∧
    { served with rings := { served.rings with resetReq := some true } }.rings.resetReq = some true ∧
    { served with pwr := { served.pwr with wdogEnd := some 7 } }.pwr.wdogEnd = some 7 ∧ served.boot.session = true ∧ served.canAct .conductor = true ∧
    (120 : Int) ≤ (130 : BitVec 10).toInt ∧ (-40 : BitVec 10).toInt < 100 := by decide +kernel
/-- Resets that fall due together: a SYS_RESET of a depth and the watchdog. -/
def dueAt (deep : Bool) : State :=
  { served with rings := { served.rings with resetReq := some deep, resetAt := 0 }, tempo := { served.tempo with count := 100000 }
                pwr := { served.pwr with wdogEnd := some 100000 } }
theorem wit_ResetsAndSupplies_together :
    ([true, false].all fun d => holdsIn (dueAt d) fun s => s.on && s.resetDue && decide (s.pwr.wdogEnd = some s.tempo.count) &&
      decide (s.pwr.wdogEnd = some (max s.tempo.count (s.rings.resetAt + 100000)))) = true ∧
    holdsIn served (fun s => !s.pwr.instant && !s.resetDue && decide (s.pwr.wdogEnd = none) && s.rings.active.isEmpty) = true ∧
    holdsIn { powered .thermal with pwr := { (powered .thermal).pwr with instant := true } } (fun s => !s.on && s.pwr.instant) = true := by decide +kernel
/-- Entry to sleep is in progress. -/
def entering (coda : Bool) (due : Option WakeEvent) (role : Role) : State :=
  { served with rings := { served.rings with sleepReq := some coda }, refrain := { served.refrain with role }
                pwr := { served.pwr with wakeDue := due, wakeMask := 0x3F } }
theorem wit_SleepAndWake_entry :
    ([true, false].all fun c => ([none, some (WakeEvent.pin 3)].all fun d => holdsIn (entering c d .none) fun s => s.on && s.health.running.isNone &&
      !s.bar.running && !s.mustWake && !s.stopDevice.mustWake && !s.refrain.takeActive && !s.refrain.takeover)) = true ∧
    ([true, false].all fun c => holdsIn (entering c none .active) fun s => s.on && s.mustWake && s.wakes (.pin 3)) = true := by decide +kernel
theorem wit_SleepAndWake :
    ([true, false].all fun c => holdsIn { served with rings := { served.rings with sleepReq := some c } } fun s =>
      s.on && decide (s.rings.sleepReq = some c) && s.health.running.isNone && !s.bar.running) = true ∧
    ([(0 : BitVec 6), 0x3F].all fun m => holdsIn { powered .fermata with pwr := { (powered .fermata).pwr with wakeMask := m } } fun s =>
      decide (s.pwr.state = .fermata) && (s.wakes (.pin 3) == decide (m = 0x3F))) = true ∧
    (powered .coda).pwr.state = .coda ∧ (powered .codaWait).pwr.state = .codaWait ∧ (powered .codaWait).pwr.tripped = false ∧
    ((busy served 0x12 false).running 0x12).isSome = true := by decide +kernel

/-! Field I/O and registers. -/

/-- The field I/O units changed. -/
def withIo (f : FieldIo → FieldIo) : State := { served with io := f served.io }
/-- An Ethernet MAC that listens, sends and has room, over a pool with a number of free buffers. -/
def ether (n : Nat) : State := (pooled n 0).modEth 0 fun x => { x with
  ctl := 0x47, rxPool := 31, rxcSize := 8, rxcBase := 0x100000, txBase := 0x100000, txSize := 8, txProd := 1 }
/-- A CAN controller that is active, with a filter that accepts everything, a handle and a slot to send. -/
def canOn (hs : List Word) (len : BitVec 7) : State := (pooled 0 0).modCan 0 fun x => { x with
  ctl := 3, handles := hs, filters := x.filters.set 0 { idLo := 0, idHi := 0x800000, maskLo := 0, maskHi := 0 }
  tx := x.tx.set 0 { (x.tx[0]) with req := true, len, handle := 0xF80000 } }
theorem wit_NetworkUnits :
    holdsIn (ether 3) (fun s => s.on && s.hasEth 0 && (s.eth 0).ctl.getLsbD 0 && (s.eth 0).accepts (List.replicate 6 0xFF) && decide (2 < (s.pool 31).free.length) &&
      decide (ringUsed (s.eth 0).rxcProd (s.eth 0).rxcCons < (s.eth 0).rxcSize.toNat) && (s.eth 0).ctl.getLsbD 1 && decide ((s.eth 0).txProd ≠ (s.eth 0).txCons) &&
      (s.domainRead (ringEntry (s.eth 0).txBase (s.eth 0).txSize (s.eth 0).txCons) 8).isSome && (s.eth 0).mdio.isNone && s.canAct .conductor) = true ∧
    ((ether 2).pool 31).free.length = 2 ∧
    ([[], [0xF80000], [0xF80003]].all fun hs => holdsIn (canOn hs 8) fun s => s.canActive 0 && ((s.can 0).filterOf (frame false false 5 8)).isSome &&
      (s.can 0).winner.isSome && !s.refrain.fence == false) = true := by decide +kernel
/-- A descriptor ring outside memory, or a word of it in error, stops the MAC. -/
theorem wit_NetworkUnits_stops :
    holdsIn ((ether 3).modEth 0 fun x => { x with txBase := 0 }) (fun s => (s.domainRead (ringEntry (s.eth 0).txBase (s.eth 0).txSize (s.eth 0).txCons) 8).isNone) = true ∧
    holdsIn { ether 3 with stageBad := [0x100000] } (fun s => match s.domainRead (ringEntry (s.eth 0).txBase (s.eth 0).txSize (s.eth 0).txCons) 8 with
      | some r => r.2.any fun y => y.2
      | none => false) = true ∧
    holdsIn (ether 3) (fun s => s.refrain.stream.isNone && s.echo.stalled.isEmpty) = true := by decide +kernel

/-- The serial units enabled, with work to do. -/
def serial : State := withIo fun io => { io with
  spi := io.spi.set 0 { (io.spi[0]) with ctl := 0x181, busy := some 1 }
  i2c := io.i2c.set 0 { (io.i2c[0]) with ctl := 3, onBus := true, cmds := [0x200] }
  uart := io.uart.set 0 { (io.uart[0]) with ctl := 1, tx := [5] }
  xspi := { io.xspi with ctl := 1, rings := io.xspi.rings.set 0 { base := 0x100000, size := 8, prod := 1, cons := 0 } } }
theorem wit_SerialPorts :
    holdsIn serial (fun s => s.on && s.canAct .conductor && decide ((s.spi 0).tx.length < 32) && (s.spi 0).busy.isSome && (s.spi 0).ctl.getLsbD 0 &&
      (s.i2c 0).ctl.getLsbD 0 && (s.i2c 0).asTarget.isNone && (s.i2c 0).onBus && decide ((s.i2c 0).cmds.head? = some 0x200) && decide (bits (0x200 : BitVec 11) 8 3 = 2) &&
      (s.uart 0).ctl.getLsbD 0 && decide ((s.uart 0).rx.length < 32) && !(s.uart 0).tx.isEmpty && s.io.xspi.nextRing.isSome &&
      !s.stalledBy (.dma .xspi) && (s.domainRead (s.io.xspi.descAt 0) 8).isSome) = true ∧
    ([1, 2, 3, 4, 5].all fun op => holdsIn ({ serial with stage := Memory.setWord ramDefault [] 0 (BitVec.ofNat 24 op) }) fun s =>
      match s.domainRead (s.io.xspi.descAt 0) 8 with
      | some d => decide ((bits ((d.2.map Prod.fst).getD 0 0) 0 4).toNat = op)
      | none => false) = true ∧
    Memory.wf flashDefault [] = true ∧ ((withIo fun io => { io with i2c := io.i2c.set 0 { (io.i2c[0]) with ctl := 3, asTarget := some true } }).i2c 0).asTarget = some true := by
  decide +kernel
theorem wit_SerialPorts_stops :
    holdsIn { serial with io := { serial.io with xspi := { serial.io.xspi with rings := serial.io.xspi.rings.set 0 { base := 0, size := 8, prod := 1, cons := 0 } } } } (fun s =>
      s.io.xspi.nextRing.isSome && !s.stalledBy (.dma .xspi) && (s.domainRead (s.io.xspi.descAt 0) 8).isNone) = true ∧
    holdsIn { serial with stageBad := [0x100000] } (fun s => match s.domainRead (s.io.xspi.descAt 0) 8 with | some d => d.2.any fun y => y.2 | none => false) = true ∧
    serial.refrain.stream = none ∧ serial.echo.stalled = [] := by decide +kernel
/-- 17 R721: programming clears bits. -/
theorem test_program : Memory.byte flashDefault (programFlash (programFlash [] 5 [0xF0]) 5 [0x3C]) 5 = 0x30 := by decide +kernel
theorem wit_GpioPins : base.on = true ∧ ([Initiator.voice 0, .conductor, .debug].all base.canAct) = true ∧ (Initiator.voice 0).locked = true ∧
    Initiator.conductor.locked = false ∧ base.io.gpio.pins.getLsbD 63 = false ∧ bits base.io.gpio.icfg 126 2 = 0 ∧
    { base with io := { base.io with gpio := { base.io.gpio with lock := true } } }.io.gpio.lock = true ∧
    (powered .fermata).wakes (.gpio 63 true) = false ∧ State.reset.on = false ∧ State.reset.pwr.state = .porst ∧ base.hasAcmp 7 = true ∧
    base.refrain.fence = true ∧ base.io.gpio.fen.getLsbD 0 = true ∧ { base.refrain with fence := false }.fence = false := by decide +kernel
/-- 18 R739: ACMP0_OUT drives FLT, inverted where OUT_POL is 1, and low while OUT_EN is 0; 17 R698: nothing while bank E is low. -/
theorem test_acmp_out :
    let s := fun (ctl : BitVec 12) => { base with io := { base.io with acmp := base.io.acmp.set 0 { (base.io.acmp[0]) with ctl, flt := true } } }
    (s 0x800).output (.acmpOut 0) = .high ∧ (s 0xC00).output (.acmpOut 0) = .low ∧ (s 0x400).output (.acmpOut 0) = .low ∧
    after .low (.bankLow 4) (s 0x800) (·.output (.acmpOut 0)) = .highZ := by decide +kernel
/-- Channel 15 runs with its active level on and a comparator that names it. -/
def pulse : State := withIo fun io => { io with
  pwm := io.pwm.set 15 { (io.pwm[15]) with ctl := 0x0D, period := 100, duty := 40, curP := 100, curD := 40, activeAt := some 0, level := true }
  acmp := io.acmp.set 0 { (io.acmp[0]) with ctl := 0x3E1, settle := some 9, flt := true } }
theorem wit_PwmChannels :
    holdsIn pulse (fun s => s.on && (s.pwmCh 15).en && (s.pwmCh 15).level && decide ((s.pwmCh 15).curD.toNat < max 2 (s.pwmCh 15).curP.toNat) &&
      (s.pwmCh 15).activeAt.isSome && s.hasAcmp 0 && (s.acmp 0).rampEn && decide ((s.acmp 0).rampSel = 15) &&
      decide ((s.pwmCh 15).duty ≠ 0) && s.canAct .conductor) = true ∧ (base.pwmCh 0).en = false := by decide +kernel
theorem wit_AccentComparators :
    holdsIn pulse (fun s => s.on && s.hasAcmp 0 && (s.acmp 0).en && (s.acmp 0).settle.isSome && decide ((s.acmp 0).supplyLow = false) && s.canAct .conductor) = true ∧
    (pulse.pwmCh 15).cutBy = some 0 ∧ (pulse.pwmCh 0).cutBy = none ∧ (pulse.pwmCh 15).activeAt = some 0 ∧ (pulse.pwmCh 15).en = true ∧
    (pulse.pwmCh 15).level = true ∧ (pulse.pwmCh 15).cut = false ∧ pulse.fltOf 0 = true ∧
    { base with die := { base.die with variant := .mrn2404 } }.on = true := by decide +kernel
theorem wit_RegisterWritesAndCounters :
    base.canAct .conductor = true ∧ base.canAct (.voice 0) = true ∧ winAt 0xFFFFFF = none ∧ winAt 0x2000000 = none ∧ base.reachesPrivate .conductor = true ∧
    base.reachesPrivate (.voice 0) = false ∧
    holdsIn base (fun s => s.on && s.hasCore 0 && (s.core 0).released && !(s.core 0).hush && decide (0 < s.mhz (sectionOf 0)) && decide ((s.core 0).cycRem < 1000) &&
      decide (s.cdr.run = .running) && decide (s.cdr.cycRem < 1000) && decide (s.tempo.nsRem < s.tempo.pace) && decide (s.tempo.slewRem = 0)) = true ∧
    served.reachesPrivate .debug = true ∧ served.canAct .debug = true := by decide +kernel
theorem wit_ResetLeavesUnitsAtRest : base.pwr.state = .play ∧ base.tempo.step = none := by decide +kernel

end Sys2Proof.Tests
end

section
/-! SUPPORT. The accesses of loads and stores (03 section 3.1, 04 section 4.6), and O18. -/
namespace Sys2Proof.Machine

/-! Steps of an access. -/

/-- A step that ends with a value is followed by the rest. -/
theorem Exec.bind_of_ok {α β : Type} {m : Exec α} {g : α → Exec β} {s t : State} {a : α} (h : m s = .ok a t) : (m >>= g) s = g a t := by
  simp only [bind, EStateM.bind, h]

theorem Exec.bind_get {β : Type} {g : State → Exec β} {s : State} : (get >>= g) s = g s s := rfl

/-! Words and lanes. -/

theorem lane_ofByte (b : Byte) (l : Nat) (h : l < 3) : lane (b.setWidth 24 <<< (8 * l)) l = b := by
  have : 8 * l ≤ 16 := by omega
  apply BitVec.eq_of_getLsbD_eq
  intro i hi
  simp [lane, BitVec.getLsbD_ushiftRight, hi, show 8 * l + i < 24 by omega]

/-- A write of one lane is a write of its byte. -/
theorem Memory.setLanes_one (d : Byte) (m : Memory) (a : Nat) (v : Word) (l : Nat) (h : l < 3) :
    Memory.setLanes d m a v (bitAt 3 l) = Memory.setByte d m (3 * a + l) (lane v l) := by
  match l, h with
  | 0, _ => rfl
  | 1, _ => rfl
  | 2, _ => rfl

theorem ptrLane_lt {p : DWord} (h : ptrLane p ≠ 3) : (ptrLane p).toNat < 3 := by
  have := (ptrLane p).isLt
  have : (ptrLane p).toNat ≠ 3 := fun e => h (BitVec.eq_of_toNat_eq (by simpa using e))
  omega

/-! The Conductor's own SRAM. -/

theorem privAt_sram {o : Nat} (h : o < 0x20000) : privAt (0x400000 + o) = some (.sram, o) := by
  unfold privAt
  rw [if_neg (by omega), if_neg (by omega), if_neg (by omega), if_pos (by omega), Nat.add_sub_cancel_left]

theorem State.privRead_sram (s : State) {o : Nat} (h : o < 0x20000) :
    s.privRead (0x400000 + o) = some (Memory.word ramDefault s.csram o) := by
  rw [State.privRead, privAt_sram h]
  rfl

theorem State.privWrite_sram (s : State) {o : Nat} (v : Word) (lanes : BitVec 3) (h : o < 0x20000) :
    s.privWrite (0x400000 + o) v lanes = some { s with csram := Memory.setLanes ramDefault s.csram o v lanes } := by
  rw [State.privWrite, privAt_sram h]
  rfl

theorem privReg_sram {o : Nat} (h : o < 0x20000) : privReg (0x400000 + o) = false := by
  rw [privReg, privAt_sram h]

theorem cdrAddr_ok {z : Size} {p : DWord} (s : State) (h : cdrPtrOk p = true) (hz : z.misaligned p = false) :
    cdrAddr z p s = .ok (ptrAddr p).toNat s := by
  rw [cdrAddr, h, hz]
  rfl

/-- A load of the Conductor gives the words of its own memory that it touches. -/
theorem loadAt_private {f : Fetch} {z : Size} {p : DWord} {s : State} {ws : List Word} (h : cdrPtrOk p = true) (hz : z.misaligned p = false)
    (hp : inPrivate p = true) (hu : sramBad 1 f.ups = false) (hr : privReg (ptrAddr p).toNat = false)
    (hw : ((List.range z.words).mapM fun i => s.privRead ((ptrAddr p).toNat + i)) = some ws) :
    loadAt .conductor f z p s = .ok (z.value p ws) s := by
  refine (Exec.bind_of_ok (cdrAddr_ok s h hz)).trans (Exec.bind_of_ok (a := ws) ?_)
  refine Exec.bind_get.trans ?_
  simp only [hp, hr, hw, hu, Bool.false_and, Bool.false_eq_true, if_true, if_false]
  rfl

/-- A store of the Conductor writes its words to its own memory one after the other. -/
theorem storeAt_private {f : Fetch} {z : Size} {p v : DWord} {s u : State} (h : cdrPtrOk p = true) (hz : z.misaligned p = false)
    (hp : inPrivate p = true) (hr : privReg (ptrAddr p).toNat = false)
    (hw : (z.stores p (ptrAddr p).toNat v).foldlM (fun (s : State) (w : WrWord) => s.privWrite w.addr w.data w.lanes) s = some u) :
    storeAt .conductor f z p v s = .ok () u := by
  refine (Exec.bind_of_ok (cdrAddr_ok s h hz)).trans ?_
  refine Exec.bind_get.trans ?_
  simp only [hp, hr, hw, Bool.false_and, Bool.false_eq_true, if_true, if_false]
  rfl

/-! Uncached Stage SRAM of a Voice core. -/

/-- An untranslated access of a Voice core to Stage SRAM goes to its physical word, uncached. -/
theorem voiceAddr_stage {c : Fin 12} {acc : Acc} {p : DWord} {s : State} (hm : (s.core c).level = .monitor) (hx : (s.core c).xlatOpen = false)
    (hp : physical p = true) (hl : ptrLane p = 0) (hs : inStage (ptrAddr p).toNat = true) :
    voiceAddr c acc .word p s = .ok (ptrAddr p, some .nc) s := by
  have hr : reqOf c acc p s = .ok { c, acc, lvl := .monitor, ptr := p, regs := (s.core c).inForce } s := by
    have : s.xlatRegs c = ((s.core c).inForce, s) := by simp [State.xlatRegs, hx]
    show EStateM.Result.ok _ _ = _
    rw [this, hm]
  refine (Exec.bind_of_ok hr).trans ?_
  have ht : s.plainType (ptrAddr p).toNat = some .nc := by simp [State.plainType, hs]
  simp only [Req.ptrOk, Req.s1, hl, hp, Size.misaligned]
  rw [← ht]
  rfl

theorem State.backErrors_uncached {s : State} {line : Nat} (h : s.caches.find line = none) (l : List Upset) : s.backErrors line l = s := by
  induction l with
  | nil => rfl
  | cons u l ih =>
    refine Eq.trans ?_ ih
    rw [State.backErrors, List.foldl_cons]
    cases u <;> simp [State.backErrors, h]

theorem State.cleanLine_uncached {s : State} {line : Nat} (h : s.caches.find line = none) (who : Option Initiator) :
    s.cleanLine who line none = (s, true) := by
  simp [State.cleanLine, State.cleanWords, State.dirtyOf, h]

theorem cleanFirst_uncached {c : Fin 12} {ups : List Upset} {a : Nat} {s : State} (h : s.caches.find (lineOf a) = none) :
    cleanFirst c ups a s = .ok () s := by
  refine (Exec.bind_of_ok (a := ()) (t := s) ?_).trans (Exec.bind_get.trans ?_)
  · show EStateM.Result.ok () (s.backErrors (lineOf a) ups) = _
    rw [State.backErrors_uncached h]
  · rw [State.cleanLine_uncached h]
    rfl

theorem State.readWords_stage {s : State} {a : Nat} (hs : inStage a = true) (hd : s.inDram a = false) (hb : a ∉ s.stageBad) :
    s.readWords false a 1 none = (s, [(Memory.word ramDefault s.stage (a - 0x100000), false)]) := by
  simp [State.readWords, hd, hb, State.raw, hs]

/-- One word of Stage SRAM that no cache holds is written, and no stalled write stands before it. -/
theorem State.writeLine_stage {s : State} {c : Fin 12} {a : Nat} {v : Word} (hs : inStage a = true) (hq : s.stalledBy (.voice c) = false)
    (hc : s.caches.find (lineOf a) = none) :
    (s.writeLine { line := lineOf a, who := some (.voice c), wb := false, ws := [{ addr := a, data := v, lanes := 7, poison := false }]
                   own := false, drop := none }).1 =
      (s.writeStage [{ addr := a, data := v, lanes := 7, poison := false }]).clearResv (lineOf a) fun _ => true := by
  simp [State.writeLine, State.tryWrite, State.wayOf, State.complete, State.performed, State.store, hs, hq, hc]

theorem State.dropLine_find (s : State) (line : Nat) : (s.dropLine line).caches.find line = none := by
  simp [State.dropLine, Caches.find]

theorem State.clearResv_core (s : State) (line : Nat) (p : Fin 12 → Bool) (d : Fin 12) :
    ∃ q, (s.clearResv line p).core d = { s.core d with resv := q } := by
  rw [State.clearResv, State.mapCores_core]
  split
  · exact ⟨_, rfl⟩
  · exact ⟨_, rfl⟩

theorem State.ownStore_regs (s : State) (c d : Fin 12) (a : Nat) : ((s.ownStore c a).core d).w = (s.core d).w ∧ ((s.ownStore c a).core d).acc = (s.core d).acc := by
  rw [State.ownStore]
  by_cases h : d = c
  · subst h; rw [State.modCore_same]; exact ⟨rfl, rfl⟩
  · rw [State.modCore_other _ _ _ _ h]; exact ⟨rfl, rfl⟩

/-- What a load of a word of Stage SRAM gives. -/
theorem loadAt_stage {c : Fin 12} {f : Fetch} {p : DWord} {s : State} (hv : voiceAddr c .load .word p s = .ok (ptrAddr p, some .nc) s)
    (hs : inStage (ptrAddr p).toNat = true) (hc : s.caches.find (lineOf (ptrAddr p).toNat) = none)
    (hd : s.inDram (ptrAddr p).toNat = false) (hu : sramBad 0 f.ups = false) (hb : (ptrAddr p).toNat ∉ s.stageBad) :
    loadAt (.voice c) f .word p s = .ok ((Memory.word ramDefault s.stage ((ptrAddr p).toNat - 0x100000)).setWidth 48) s := by
  refine (Exec.bind_of_ok hv).trans (Exec.bind_of_ok (a := [Memory.word ramDefault s.stage ((ptrAddr p).toNat - 0x100000)]) ?_)
  refine Exec.bind_get.trans ?_
  have hm : s.allInMem (ptrAddr p).toNat Size.word.words = true := by simp [State.allInMem, Size.words, State.inMem, hs]
  simp only [hm, hu, Bool.not_true, Bool.and_false, Bool.false_eq_true, if_false]
  refine (Exec.bind_of_ok (cleanFirst_uncached hc)).trans (Exec.bind_get.trans ?_)
  simp only [Size.words, State.readWords_stage hs hd hb]
  rfl

/-- The state once a Voice core has stored a word of Stage SRAM, uncached. -/
def State.wordStored (s : State) (c : Fin 12) (a : Nat) (v : Word) : State :=
  (((s.dropLine (lineOf a)).writeStage [{ addr := a, data := v, lanes := 7, poison := false }]).clearResv (lineOf a) fun _ => true).ownStore c a

/-- What a store of a word of Stage SRAM leaves. -/
theorem storeAt_stage {c : Fin 12} {f : Fetch} {p v : DWord} {s : State} (hv : voiceAddr c .store .word p s = .ok (ptrAddr p, some .nc) s)
    (hs : inStage (ptrAddr p).toNat = true) (hc : s.caches.find (lineOf (ptrAddr p).toNat) = none)
    (hq : s.stalledBy (.voice c) = false) (hw : takesWrite (.voice c) (ptrAddr p).toNat = true) :
    storeAt (.voice c) f .word p v s = .ok () (s.wordStored c (ptrAddr p).toNat (lo24 v)) := by
  refine (Exec.bind_of_ok hv).trans (Exec.bind_get.trans ?_)
  have hm : s.allInMem (ptrAddr p).toNat Size.word.words = true := by simp [State.allInMem, Size.words, State.inMem, hs]
  simp only [hm, Bool.not_true, Bool.false_eq_true, if_false]
  refine (Exec.bind_of_ok (cleanFirst_uncached hc)).trans ?_
  have hl := State.writeLine_stage (s := s.dropLine (lineOf (ptrAddr p).toNat)) (v := lo24 v) hs hq (State.dropLine_find s _)
  show EStateM.Result.ok () _ = _
  simp only [Size.stores, hw, List.filter_cons, List.filter_nil, if_true, List.isEmpty_cons, Bool.false_eq_true, if_false, hl, State.wordStored]

/-- The store of a word of Stage SRAM writes that word and changes no other memory. -/
theorem State.wordStored_memories (s : State) (c : Fin 12) (a : Nat) (v : Word) :
    (s.wordStored c a v).stage = Memory.setWord ramDefault s.stage (a - 0x100000) v ∧ (s.wordStored c a v).dram = s.dram ∧
      (s.wordStored c a v).csram = s.csram ∧ (s.wordStored c a v).flash = s.flash ∧ (s.wordStored c a v).xflash = s.xflash := by
  simp [State.wordStored, State.ownStore, State.clearResv, State.writeStage, State.dropLine, Memory.setWord]

/-- The store of a word of Stage SRAM changes no register of a core. -/
theorem State.wordStored_regs (s : State) (c d : Fin 12) (a : Nat) (v : Word) :
    ((s.wordStored c a v).core d).w = (s.core d).w ∧ ((s.wordStored c a v).core d).acc = (s.core d).acc := by
  rw [State.wordStored]
  generalize hx : (s.dropLine (lineOf a)).writeStage _ = x
  obtain ⟨q, hq⟩ := x.clearResv_core (lineOf a) (fun _ => true) d
  obtain ⟨q', hq'⟩ := s.clearResv_core (lineOf a) (fun _ => true) d
  have hd : x.core d = { s.core d with resv := q' } := by rw [← hx]; exact hq'
  obtain ⟨hw, ha⟩ := (x.clearResv (lineOf a) fun _ => true).ownStore_regs c d a
  rw [hq, hd] at hw ha
  exact ⟨hw, ha⟩

/-- The bytes that the Conductor's accesses to its own SRAM read and write, by size. -/
theorem conductor_sram_accesses {f : Fetch} {p : DWord} {o : Nat} (v : DWord) (s : State) (hp : cdrPtrOk p = true)
    (hpriv : inPrivate p = true) (hu : sramBad 1 f.ups = false) (ho : (ptrAddr p).toNat = 0x400000 + o) (hlt : o < 0x1FFFF) :
    let word := fun (i : Nat) => Memory.word ramDefault s.csram (o + i)
    loadAt .conductor f .byte p s = .ok ((lane (word 0) (ptrLane p).toNat).setWidth 48) s ∧
    (ptrLane p = 0 → loadAt .conductor f .word p s = .ok ((word 0).setWidth 48) s) ∧
    (ptrLane p = 0 → p.getLsbD 2 = false → loadAt .conductor f .dbl p s = .ok (word 1 ++ word 0) s) ∧
    storeAt .conductor f .byte p v s =
      .ok () { s with csram := Memory.setByte ramDefault s.csram (3 * o + (ptrLane p).toNat) (bits v 0 8) } ∧
    (ptrLane p = 0 → storeAt .conductor f .word p v s = .ok () { s with csram := Memory.setWord ramDefault s.csram o (bits v 0 24) }) ∧
    (ptrLane p = 0 → p.getLsbD 2 = false → storeAt .conductor f .dbl p v s =
      .ok () { s with csram := Memory.setWord ramDefault (Memory.setWord ramDefault s.csram o (bits v 0 24)) (o + 1) (bits v 24 24) }) := by
  intro word
  have hl : (ptrLane p).toNat < 3 := ptrLane_lt (by simpa using (Bool.and_eq_true_iff.1 hp).2)
  have hr : privReg (0x400000 + o) = false := privReg_sram (by omega)
  have get0 : s.privRead (0x400000 + o) = some (word 0) := s.privRead_sram (by omega)
  have get1 : s.privRead (0x400000 + o + 1) = some (word 1) := s.privRead_sram (o := o + 1) (by omega)
  have load (z : Size) (ws : List Word) (hz : z.misaligned p = false) := loadAt_private (f := f) (s := s) (ws := ws) hp hz hpriv hu (ho ▸ hr)
  have store (z : Size) (u : State) (hz : z.misaligned p = false) := storeAt_private (f := f) (v := v) (s := s) (u := u) hp hz hpriv (ho ▸ hr)
  have hz (h : ptrLane p = 0) : Size.misaligned .word p = false := by rw [Size.misaligned, h]; rfl
  have hz2 (h : ptrLane p = 0) (h2 : p.getLsbD 2 = false) : Size.misaligned .dbl p = false := by rw [Size.misaligned, h, h2]; rfl
  rw [ho] at load store
  refine ⟨?_, fun h => ?_, fun h h2 => ?_, ?_, fun h => ?_, fun h h2 => ?_⟩
  · exact load .byte [word 0] rfl (by simp [Size.words, List.range_succ, get0])
  · exact load .word [word 0] (hz h) (by simp [Size.words, List.range_succ, get0])
  · exact load .dbl [word 0, word 1] (hz2 h h2) (by simp [Size.words, List.range_succ, get0, get1])
  · refine store .byte _ rfl ?_
    simp only [Size.stores, List.foldlM_cons, List.foldlM_nil]
    rw [s.privWrite_sram _ _ (by omega), Memory.setLanes_one _ _ _ _ _ hl, lane_ofByte _ _ hl]
    rfl
  · refine store .word _ (hz h) ?_
    simp only [Size.stores, List.foldlM_cons, List.foldlM_nil]
    rw [s.privWrite_sram _ _ (by omega)]
    rfl
  · refine store .dbl _ (hz2 h h2) ?_
    simp only [Size.stores, List.foldlM_cons, List.foldlM_nil]
    rw [s.privWrite_sram _ _ (by omega), Option.bind_eq_bind, Option.bind_some,
      Nat.add_assoc, State.privWrite_sram _ _ _ (by omega)]
    rfl

end Sys2Proof.Machine

open Sys2Proof Sys2Proof.Machine

/-- Settles O18: the Conductor's accesses reduce to reads and writes of its own SRAM, a Voice core's to one uncached word. -/
theorem accessesReadAndWriteMemory : Obligations.AccessesReadAndWriteMemory := by
  refine ⟨fun f p v s hp hpriv hu hlo hhi => ?_, fun c f p s hm hx hp hl hs hc hd hu hb hq => ?_⟩
  · exact conductor_sram_accesses (o := (ptrAddr p).toNat - 0x400000) v s hp hpriv hu (by omega) (by omega)
  · have address (acc : Acc) := voiceAddr_stage (acc := acc) hm hx hp hl hs
    refine ⟨loadAt_stage (address .load) hs hc hd hu hb, fun v hw => ⟨_, storeAt_stage (address .store) hs hc hq hw, ?_⟩⟩
    obtain ⟨hstage, hdram, hcsram, hflash, hxflash⟩ := s.wordStored_memories c (ptrAddr p).toNat (lo24 v)
    exact ⟨hstage, hdram, hcsram, hflash, hxflash, fun d => s.wordStored_regs c d _ _⟩
end

section
/-! SUPPORT. The parts of the passing of time (log 3), and the wrap of a cycle count (08 Table 8.2). -/
namespace Sys2Proof.Machine

/-! The parts of the passing of time. -/

/-- As `dt` counts pass, Tempo, the always-on time and the link run first, then the cycles of the cores, the sections and the Conductor. -/
theorem State.elapse_parts (s : State) {dt ns : Nat} (h : dt ≠ 0) (hns : (s.tempo.tcxo (s.tempo.slew dt) dt).1 = ns) :
    ∃ q : State,
      s.elapse dt = ((List.finRange 3).foldl (fun s sec => s.runSection ns sec) (q.presentCores.foldl (fun s c => s.runCycles ns c) q)).runCdrCycles ns ∧
      q.cores = s.cores ∧ q.cdr = s.cdr ∧ q.chorus = s.chorus ∧ q.die = s.die ∧ q.pwr = s.pwr.runAon ns ∧
      ∃ n, q.health = { s.health with cycleTime := n } := by
  unfold State.elapse
  rw [if_neg h]
  dsimp only
  rw [hns]
  split
  · exact ⟨_, rfl, rfl, rfl, rfl, rfl, rfl, _, rfl⟩
  · exact ⟨_, rfl, rfl, rfl, rfl, rfl, rfl, _, rfl⟩

/-! Edges of a source of one target. -/

/-- A source of one target, replaced, is the only one of its number that changes. -/
theorem Chorus.src_setSrc_priv (ch : Chorus) (t u : Nat) {n : Nat} (x : Src) (hn : isPriv n = true) :
    (ch.setSrc t n x).src u n = if u = t then x else ch.src u n := by
  have hk : privKey u n = privKey t n ↔ u = t := by unfold privKey; omega
  simp only [Chorus.src, Chorus.setSrc, hn, if_true, Tbl.get, Tbl.find_put, hk]
  split <;> rfl

/-- From `s` to `t`, source 20 of target `u` keeps its kind, and its latch stays set. -/
def KeepsLatch (u : Nat) (s t : State) : Prop :=
  (t.chorus.src u 20).edge = (s.chorus.src u 20).edge ∧ ((s.chorus.src u 20).latch = true → (t.chorus.src u 20).latch = true)

theorem KeepsLatch.of_chorus {u : Nat} {s t : State} (h : t.chorus = s.chorus) : KeepsLatch u s t := by
  rw [KeepsLatch, h]; exact ⟨rfl, id⟩

theorem KeepsLatch.trans {u : Nat} {s t r : State} (h : KeepsLatch u s t) (h' : KeepsLatch u t r) : KeepsLatch u s r :=
  ⟨h'.1.trans h.1, fun l => h'.2 (h.2 l)⟩

theorem KeepsLatch.foldl {u : Nat} {α : Type} (f : State → α → State) (h : ∀ s a, KeepsLatch u s (f s a)) (l : List α) (s : State) :
    KeepsLatch u s (l.foldl f s) := by
  induction l generalizing s with
  | nil => exact .of_chorus rfl
  | cons a l ih => exact (h s a).trans (ih _)

/-- The wrap of a cycle count leaves the latches of the other targets, and sets that of its own. -/
theorem State.edge_keepsLatch (s : State) (t u : Nat) : KeepsLatch u s (s.edge t 20) := by
  unfold State.edge
  dsimp only
  split
  · unfold KeepsLatch
    dsimp only
    rw [Chorus.src_setSrc_priv _ _ _ _ rfl]
    split
    · rename_i h; subst h; exact ⟨rfl, fun _ => rfl⟩
    · exact ⟨rfl, id⟩
  · exact .of_chorus rfl

/-- An edge of a source of one target that is present and of edge kind is latched. -/
theorem State.edge_latches (s : State) {t n : Nat} (hn : isPriv n = true) (hp : s.srcPresent t n = true) (he : (s.chorus.src t n).edge = true) :
    ((s.edge t n).chorus.src t n).latch = true := by
  unfold State.edge
  simp only [hp, he, Bool.and_self, if_true]
  rw [Chorus.src_setSrc_priv _ _ _ _ hn, if_pos rfl]

/-! The cycle counts. -/

theorem Power.runAon_secClk (p : Power) (ns : Nat) : (p.runAon ns).secClk = p.secClk := by cases p; rfl

theorem State.core_setCore (s : State) (c d : Fin 12) (v : VoiceCore) : (s.setCore c v).core d = if c = d then v else s.core d := by
  simp only [State.setCore, State.core, Fin.getElem_fin, Vector.getElem_set, Fin.ext_iff]

theorem State.runCycles_pwr (s : State) (ns : Nat) (c : Fin 12) : (s.runCycles ns c).pwr = s.pwr :=
  State.runCycles_keeps (·.pwr) (fun _ _ => rfl) (fun _ _ _ => rfl) s ns c

theorem State.runCycles_die (s : State) (ns : Nat) (c : Fin 12) : (s.runCycles ns c).die = s.die :=
  State.runCycles_keeps (·.die) (fun _ _ => rfl) (fun _ _ _ => rfl) s ns c

theorem State.edge_core (s : State) (t n : Nat) (d : Fin 12) : (s.edge t n).core d = s.core d := State.edge_keeps (·.core d) (fun _ _ => rfl) s t n

theorem State.runCycles_other (s : State) (ns : Nat) {c d : Fin 12} (h : d ≠ c) : (s.runCycles ns d).core c = s.core c := by
  unfold State.runCycles
  dsimp only
  split
  · split
    · rw [State.edge_core, State.core_setCore, if_neg h]
    · rw [State.core_setCore, if_neg h]
  · rfl

theorem State.runCycles_keepsLatch (s : State) (ns : Nat) (c : Fin 12) (u : Nat) : KeepsLatch u s (s.runCycles ns c) := by
  unfold State.runCycles
  dsimp only
  split
  · split
    · exact KeepsLatch.trans (.of_chorus rfl) (State.edge_keepsLatch _ _ _)
    · exact .of_chorus rfl
  · exact .of_chorus rfl

theorem State.runCdrCycles_keepsLatch (s : State) (ns u : Nat) : KeepsLatch u s (s.runCdrCycles ns) := by
  unfold State.runCdrCycles
  dsimp only
  split
  · split
    · exact KeepsLatch.trans (.of_chorus rfl) (State.edge_keepsLatch _ _ _)
    · exact .of_chorus rfl
  · exact .of_chorus rfl

/-- The cycles of a core that passes 2^48 start again, and source 20 of the core is latched. -/
theorem State.runCycles_wraps {s : State} {ns : Nat} {c : Fin 12} (hc : s.hasCore c = true) (hr : (s.core c).released = true)
    (hh : (s.core c).hush = false) (hw : 2 ^ 48 ≤ (s.core c).cycle.toNat + ((s.core c).cycRem + ns * s.mhz (sectionOf c)) / 1000) :
    ((s.runCycles ns c).core c).cycle = (s.core c).cycle + BitVec.ofNat 48 (((s.core c).cycRem + ns * s.mhz (sectionOf c)) / 1000) ∧
      ((s.chorus.src c 20).edge = true → ((s.runCycles ns c).chorus.src c 20).latch = true) := by
  have hp (v : VoiceCore) : (s.setCore c v).srcPresent c 20 = true := by
    have : c.val < s.die.variant.voices := by simpa [State.hasCore] using hc
    simp [State.srcPresent, isPriv, State.setCore, this, show c.val ≠ 12 by omega]
  unfold State.runCycles
  simp only [hr, hh, cycleAfter, hw, Bool.not_false, Bool.and_self, decide_true, if_true]
  exact ⟨by rw [State.edge_core, State.core_setCore, if_pos rfl], fun he => State.edge_latches _ rfl (hp _) he⟩

/-- Among the present cores, the cycles of one core advance once, from what it was. -/
theorem State.foldCycles_split {ns : Nat} {c : Fin 12} {l : List (Fin 12)} (hl : l.Nodup) (hc : c ∈ l) (s : State) :
    ∃ r : State, r.core c = s.core c ∧ r.pwr = s.pwr ∧ r.die = s.die ∧ KeepsLatch c s r ∧
      (l.foldl (fun s d => s.runCycles ns d) s).core c = (r.runCycles ns c).core c ∧
      KeepsLatch c (r.runCycles ns c) (l.foldl (fun s d => s.runCycles ns d) s) := by
  induction l generalizing s with
  | nil => cases hc
  | cons d l ih =>
    obtain ⟨hd, hl⟩ := List.nodup_cons.1 hl
    rw [List.foldl_cons]
    by_cases h : d = c
    · subst h
      refine ⟨s, rfl, rfl, rfl, .of_chorus rfl, ?_, .foldl _ (fun s d' => s.runCycles_keepsLatch ns d' d) l _⟩
      have keep (l : List (Fin 12)) (s : State) (hd : d ∉ l) : (l.foldl (fun s d => s.runCycles ns d) s).core d = s.core d := by
        induction l generalizing s with
        | nil => rfl
        | cons e l ih =>
          obtain ⟨he, hl⟩ := not_or.1 (mt List.mem_cons.2 hd)
          rw [List.foldl_cons, ih _ hl, State.runCycles_other _ _ (Ne.symm he)]
      exact keep l _ hd
    · obtain ⟨r, h1, h2, h3, h4, h5, h6⟩ := ih hl ((List.mem_cons.1 hc).resolve_left (Ne.symm h)) (s.runCycles ns d)
      exact ⟨r, h1.trans (s.runCycles_other ns h), h2.trans (s.runCycles_pwr ns d), h3.trans (s.runCycles_die ns d),
        (s.runCycles_keepsLatch ns d c).trans h4, h5, h6⟩

theorem State.presentCores_nodup (s : State) : s.presentCores.Nodup := (List.nodup_finRange 12).filter _

theorem State.mem_presentCores {s : State} {c : Fin 12} (h : s.hasCore c = true) : c ∈ s.presentCores :=
  List.mem_filter.2 ⟨List.mem_finRange c, h⟩

/-! The instant of a wrap. -/

theorem repeat_fixed {α : Type} {f : α → α} {a : α} (h : f a = a) (n : Nat) : Nat.repeat f n a = a := by
  induction n with
  | zero => rfl
  | succ n ih => rw [Nat.repeat, ih, h]

/-- With no slew to apply, the counts of `ns` nanoseconds are those of the pace (12 R497). -/
theorem Tempo.countsFor_steady (t : Tempo) (ns : Nat) (h : t.slewRem = 0) :
    t.countsFor ns = (t.pace * ns - t.nsRem + 99999999999) / 100000000000 := by
  unfold Tempo.countsFor
  generalize (t.pace * ns - t.nsRem + 99999999999) / 100000000000 = steady
  refine repeat_fixed ?_ 8
  have hs : (t.slew steady).slewDone = t.slewDone := by simp [Tempo.slew, h]
  rw [hs, Int.sub_self, Int.add_zero, Int.toNat_natCast]

/-- FREQ changes the pace by less than 10^7 parts of 10^11. -/
theorem Tempo.pace_bounds (t : Tempo) : 99990000000 < t.pace ∧ t.pace < 100010000000 := by
  have h1 := t.freq.toInt_lt
  have h2 := t.freq.le_toInt
  unfold Tempo.pace
  omega

/-- In the counts of `ns` nanoseconds, `ns` nanoseconds of the TCXO pass, or one more. -/
theorem Tempo.tcxo_countsFor {t : Tempo} {ns : Nat} (hs : t.slewRem = 0) (hr : t.nsRem < t.pace) (hns : 0 < ns) :
    t.countsFor ns ≠ 0 ∧ ns ≤ (t.tcxo (t.slew (t.countsFor ns)) (t.countsFor ns)).1 ∧
      (t.tcxo (t.slew (t.countsFor ns)) (t.countsFor ns)).1 ≤ ns + 1 := by
  have hd (dt : Nat) : (t.tcxo (t.slew dt) dt).1 = (dt * 100000000000 + t.nsRem) / t.pace := by
    simp [Tempo.tcxo, Tempo.slew, hs, Tempo.pace]
  have hle : t.pace ≤ t.pace * ns := Nat.le_mul_of_pos_right _ hns
  obtain ⟨hlo, hhi⟩ := t.pace_bounds
  rw [hd, t.countsFor_steady ns hs]
  refine ⟨by omega, (Nat.le_div_iff_mul_le (by omega)).2 ?_, Nat.lt_add_one_iff.1 ((Nat.div_lt_iff_lt_mul (by omega)).2 ?_)⟩
  · rw [Nat.mul_comm ns]; omega
  · rw [show (ns + 1 + 1) * t.pace = t.pace * ns + 2 * t.pace by ring]; omega

/-- After the nanoseconds in which a count is to wrap, or one more, it has made the cycles that were left to 2^48, and fewer than
two nanoseconds' cycles more. -/
theorem cycles_of_wrapDue {cycle : DWord} {rem mhz n : Nat} (hm : 0 < mhz) (hrem : rem < 1000) (hn : wrapDue cycle rem mhz ≤ n)
    (hn' : n ≤ wrapDue cycle rem mhz + 1) :
    0 < wrapDue cycle rem mhz ∧ 2 ^ 48 ≤ cycle.toNat + (rem + n * mhz) / 1000 ∧
      cycle.toNat + (rem + n * mhz) / 1000 ≤ 2 ^ 48 + (2 * mhz - 1) / 1000 := by
  have hlt := cycle.isLt
  unfold wrapDue at *
  generalize hx : (2 ^ 48 - cycle.toNat) * 1000 - rem = x at *
  have hlo : x ≤ (x + mhz - 1) / mhz * mhz := by
    have := Nat.div_add_mod (x + mhz - 1) mhz
    have := Nat.mod_lt (x + mhz - 1) hm
    rw [Nat.mul_comm]; omega
  have hhi : (x + mhz - 1) / mhz * mhz ≤ x + mhz - 1 := Nat.div_mul_le_self _ _
  have h1 : (x + mhz - 1) / mhz * mhz ≤ n * mhz := Nat.mul_le_mul_right _ hn
  have h2 : n * mhz ≤ (x + mhz - 1) / mhz * mhz + mhz := by rw [← Nat.succ_mul]; exact Nat.mul_le_mul_right _ hn'
  refine ⟨Nat.div_pos (by omega) hm, by omega, by omega⟩

theorem toNat_add_of_wraps {c : DWord} {n k : Nat} (h : 2 ^ 48 ≤ c.toNat + n) (h' : c.toNat + n ≤ 2 ^ 48 + k) (hk : k < 2 ^ 48) :
    (c + BitVec.ofNat 48 n).toNat ≤ k := by
  rw [BitVec.toNat_add, BitVec.toNat_ofNat]
  omega

theorem State.runCdrCycles_core (s : State) (ns : Nat) (c : Fin 12) : (s.runCdrCycles ns).core c = s.core c :=
  State.runCdrCycles_keeps (·.core c) (fun _ _ => rfl) (fun _ _ => rfl) s ns

theorem State.foldSections_core (s : State) (ns : Nat) (c : Fin 12) :
    ((List.finRange 3).foldl (fun s sec => s.runSection ns sec) s).core c = s.core c :=
  State.fold_keeps (·.core c) (fun s sec => s.runSection ns sec) (fun _ _ => rfl) _ s

theorem State.foldCycles_cdr (s : State) (ns : Nat) (l : List (Fin 12)) : (l.foldl (fun s c => s.runCycles ns c) s).cdr = s.cdr :=
  State.fold_keeps (·.cdr) _ (fun s c => State.runCycles_keeps (·.cdr) (fun _ _ => rfl) (fun _ _ _ => rfl) s ns c) l s

theorem State.foldSections_cdr (s : State) (ns : Nat) : ((List.finRange 3).foldl (fun s sec => s.runSection ns sec) s).cdr = s.cdr :=
  State.fold_keeps (·.cdr) (fun s sec => s.runSection ns sec) (fun _ _ => rfl) _ s

theorem KeepsLatch.foldSections (u : Nat) (s : State) (ns : Nat) :
    KeepsLatch u s ((List.finRange 3).foldl (fun s sec => s.runSection ns sec) s) :=
  .of_chorus (State.fold_keeps (·.chorus) (fun s sec => s.runSection ns sec) (fun _ _ => rfl) _ s)

theorem State.edge_cdr (s : State) (t n : Nat) : (s.edge t n).cdr = s.cdr := State.edge_keeps (·.cdr) (fun _ _ => rfl) s t n

/-- The cycles of the Conductor that pass 2^48 start again, and its source 20 is latched. -/
theorem State.runCdrCycles_wraps {s : State} {ns : Nat} (hr : s.cdr.run = .running)
    (hw : 2 ^ 48 ≤ s.cdr.cycle.toNat + (s.cdr.cycRem + ns * 400) / 1000) :
    (s.runCdrCycles ns).cdr.cycle = s.cdr.cycle + BitVec.ofNat 48 ((s.cdr.cycRem + ns * 400) / 1000) ∧
      (s.runCdrCycles ns).cdr.w = s.cdr.w ∧ ((s.chorus.src 12 20).edge = true → ((s.runCdrCycles ns).chorus.src 12 20).latch = true) := by
  have hp (s : State) : s.srcPresent 12 20 = true := rfl
  unfold State.runCdrCycles
  simp only [hr, cycleAfter, hw, decide_true, if_true]
  rw [State.edge_cdr]
  exact ⟨rfl, rfl, fun he => State.edge_latches _ rfl (hp _) he⟩

/-- In the counts up to a wrap, time passes, and the cycles made bring the count to 2^48 or just beyond. -/
theorem Tempo.cycles_at_wrap {t : Tempo} {cycle : DWord} {rem mhz : Nat} (hm : 0 < mhz) (hrem : rem < 1000) (hns : t.nsRem < t.pace)
    (hs : t.slewRem = 0) {dt ns : Nat} (hd : t.countsFor (wrapDue cycle rem mhz) = dt) (hn : (t.tcxo (t.slew dt) dt).1 = ns) :
    dt ≠ 0 ∧ 2 ^ 48 ≤ cycle.toNat + (rem + ns * mhz) / 1000 ∧ cycle.toNat + (rem + ns * mhz) / 1000 ≤ 2 ^ 48 + (2 * mhz - 1) / 1000 := by
  subst hd hn
  have hw := fun n => cycles_of_wrapDue (cycle := cycle) (n := n) hm hrem
  obtain ⟨h0, hlo, hhi⟩ := Tempo.tcxo_countsFor hs hns (hw _ (Nat.le_refl _) (Nat.le_add_right _ 1)).1
  exact ⟨h0, (hw _ hlo hhi).2⟩

/-- Time passes up to the wrap of a Voice core's cycle count. -/
theorem State.elapse_wraps_voice {s : State} {c : Fin 12} (hc : s.hasCore c = true) (hr : (s.core c).released = true)
    (hh : (s.core c).hush = false) (hm : 0 < s.mhz (sectionOf c)) (hrem : (s.core c).cycRem < 1000) (hns : s.tempo.nsRem < s.tempo.pace)
    (hs : s.tempo.slewRem = 0) :
    let t := s.elapse (s.tempo.countsFor (wrapDue (s.core c).cycle (s.core c).cycRem (s.mhz (sectionOf c))))
    (t.core c).cycle.toNat ≤ 8 ∧ ((s.chorus.src c.val 20).edge = true → (t.chorus.src c.val 20).latch = true) := by
  generalize hd : s.tempo.countsFor _ = dt
  generalize hn : (s.tempo.tcxo (s.tempo.slew dt) dt).1 = ns
  obtain ⟨h0, hlo, hhi⟩ := Tempo.cycles_at_wrap hm hrem hns hs hd hn
  obtain ⟨q, he, hcores, -, hch, hdie, hpwr, -⟩ := s.elapse_parts h0 hn
  have hqc : q.core c = s.core c := congrArg (fun v : Vector VoiceCore 12 => v[c]) hcores
  have hqp : q.hasCore c = true := by rw [State.hasCore, hdie]; exact hc
  obtain ⟨r, hrc, hrp, hrd, hk, hcore, hk'⟩ := State.foldCycles_split (ns := ns) q.presentCores_nodup (State.mem_presentCores hqp) q
  have hrc : r.core c = s.core c := hrc.trans hqc
  have hrm : r.mhz (sectionOf c) = s.mhz (sectionOf c) := by
    have hclk : r.pwr.secClk = s.pwr.secClk := by rw [hrp, hpwr, Power.runAon_secClk]
    rw [State.mhz, State.mhz, hclk]
  have hrp : r.hasCore c = true := by rw [State.hasCore, hrd]; exact hqp
  obtain ⟨hcyc, hlatch⟩ := State.runCycles_wraps (s := r) (ns := ns) hrp (by rw [hrc]; exact hr) (by rw [hrc]; exact hh) (by rw [hrc, hrm]; exact hlo)
  have hlt : s.mhz (sectionOf c) < 4096 := BitVec.isLt _
  dsimp only
  rw [he]
  constructor
  · rw [State.runCdrCycles_core, State.foldSections_core, hcore, hcyc, hrc, hrm]
    exact toNat_add_of_wraps hlo (hhi.trans (by omega)) (by omega)
  · intro hedge
    refine (State.runCdrCycles_keepsLatch _ ns c).2 ((KeepsLatch.foldSections _ _ ns).2 (hk'.2 (hlatch ?_)))
    rw [hk.1, hch]
    exact hedge

/-- Time passes up to the wrap of the Conductor's cycle count. -/
theorem State.elapse_wraps_conductor {s : State} (hr : s.cdr.run = .running) (hrem : s.cdr.cycRem < 1000) (hns : s.tempo.nsRem < s.tempo.pace)
    (hs : s.tempo.slewRem = 0) :
    let t := s.elapse (s.tempo.countsFor (wrapDue s.cdr.cycle s.cdr.cycRem 400))
    t.cdr.cycle = 0 ∧ t.cdr.w = s.cdr.w ∧ ((s.chorus.src 12 20).edge = true → (t.chorus.src 12 20).latch = true) := by
  generalize hd : s.tempo.countsFor _ = dt
  generalize hn : (s.tempo.tcxo (s.tempo.slew dt) dt).1 = ns
  obtain ⟨h0, hlo, hhi⟩ := Tempo.cycles_at_wrap (by omega) hrem hns hs hd hn
  obtain ⟨q, he, -, hcdr, hch, -⟩ := s.elapse_parts h0 hn
  dsimp only
  rw [he]
  generalize hx : (List.finRange 3).foldl (fun s sec => s.runSection ns sec) (q.presentCores.foldl (fun s c => s.runCycles ns c) q) = x
  have hxc : x.cdr = s.cdr := by rw [← hx, State.foldSections_cdr, State.foldCycles_cdr, hcdr]
  have hk : KeepsLatch 12 q x := by
    rw [← hx]
    exact (KeepsLatch.foldl (fun s c => s.runCycles ns c) (fun s c => s.runCycles_keepsLatch ns c 12) _ _).trans (.foldSections _ _ ns)
  obtain ⟨hcyc, hregs, hlatch⟩ := State.runCdrCycles_wraps (s := x) (ns := ns) (by rw [hxc]; exact hr) (by rw [hxc]; exact hlo)
  refine ⟨?_, by rw [hregs, hxc], fun hedge => hlatch (hk.1.trans (by rw [hch]; exact hedge))⟩
  rw [hcyc, hxc]
  exact BitVec.eq_of_toNat_eq (Nat.le_zero.1 (toNat_add_of_wraps hlo (by omega) (by omega)))

theorem State.elapse_core_w (s : State) (dt : Nat) (c : Fin 12) : ((s.elapse dt).core c).w = (s.core c).w := by
  obtain ⟨n, r, h⟩ := s.elapse_core dt c
  rw [h]

theorem exec_cycleWrap_voice {s : State} {c : Fin 12} (hon : s.on = true) (hc : s.hasCore c = true) (hr : (s.core c).released = true)
    (hh : (s.core c).hush = false) (hm : 0 < s.mhz (sectionOf c)) :
    exec (.cycleWrap (.voice c)) s =
      .next (s.elapse (s.tempo.countsFor (wrapDue (s.core c).cycle (s.core c).cycRem (s.mhz (sectionOf c))))) := by
  show execCycleWrap (.voice c) s = _
  simp only [execCycleWrap, ifOn, hon, hc, hr, hh, hm, Bool.not_false, Bool.and_self, decide_true, if_true]

theorem exec_cycleWrap_conductor {s : State} (hon : s.on = true) (hr : s.cdr.run = .running) :
    exec (.cycleWrap .conductor) s = .next (s.elapse (s.tempo.countsFor (wrapDue s.cdr.cycle s.cdr.cycRem 400))) := by
  show execCycleWrap .conductor s = _
  simp only [execCycleWrap, ifOn, hon, hr, if_true]

/-! Register writes (03 R75 to R83). -/

theorem winAt_none {a : Nat} (h : a < 0x1000000 ∨ 0x2000000 ≤ a) : winAt a = none := by
  unfold winAt
  exact if_pos (by simpa using h)

/-- A register access of an initiator that can act is performed. -/
theorem ifActs_acts {w : Initiator} {s : State} {f : State → State} (h : s.canAct w = true) : ifActs w s f = .next (f (s.awake w)) := by
  rw [ifActs, if_pos h]

/-- What a REGISTER_WRITE in the shared map does. -/
def State.sharedWrite (s : State) (w : Initiator) (a : Nat) (v : Word) : State :=
  match s.regWrite w a v with
  | some t => t
  | none => if w = .debug then (s.domainWrite .debug a [v]).1 else s

theorem exec_registerWrite_shared {s : State} {w : Initiator} (a : PAddr) (v : Word) (h : s.canAct w = true) :
    exec (.registerWrite w false a v) s = .next ((s.awake w).sharedWrite w a.toNat v) :=
  ifActs_acts (f := fun s => s.sharedWrite w a.toNat v) h

theorem State.sharedWrite_outside {s : State} {w : Initiator} {a : Nat} {v : Word} (h : winAt a = none) :
    s.sharedWrite w a v = if w = .debug then (s.domainWrite .debug a [v]).1 else s := by
  rw [State.sharedWrite, State.regWrite, h]
  rfl

theorem State.sharedWrite_window {s : State} {w : Initiator} {a off : Nat} {v : Word} {x : Win} (h : winAt a = some (x, off)) :
    s.sharedWrite w a v = if s.winPresent x off then s.winWrite w x off v else s := by
  rw [State.sharedWrite, State.regWrite, h]
  rfl

/-- What a REGISTER_WRITE in the PRIV space does. -/
def State.privateWrite (s : State) (w : Initiator) (a : Nat) (v : Word) : State :=
  if !s.reachesPrivate w then s
  else if w = .debug then s.debugPrivWrite a v
  else if privReg a then (s.privWrite a v 7).getD s else s

theorem exec_registerWrite_private {s : State} {w : Initiator} (a : PAddr) (v : Word) (h : s.canAct w = true) :
    exec (.registerWrite w true a v) s = .next ((s.awake w).privateWrite w a.toNat v) :=
  ifActs_acts (f := fun s => s.privateWrite w a.toNat v) h

theorem privAt_reserved {a : Nat} (h : 0x0E0000 ≤ a) (h' : a < 0x200000) : privAt a = none := by
  unfold privAt
  rw [if_neg (by omega), if_pos h']

theorem privAt_flash {a : Nat} (h : 0x200000 ≤ a) (h' : a < 0x400000) : privAt a = some (.flash, a) := by
  unfold privAt
  rw [if_neg (by omega), if_neg (by omega), if_pos h']

theorem privAt_flashRegs {a : Nat} (h : 0x420000 ≤ a) (h' : a < 0x421000) : privAt a = some (.flashRegs, a - 0x420000) := by
  unfold privAt
  rw [if_neg (by omega), if_neg (by omega), if_neg (by omega), if_neg (by omega), if_pos h']

theorem privAt_fuseRegs {a : Nat} (h : 0x421000 ≤ a) (h' : a < 0x422000) : privAt a = some (.fuseRegs, a - 0x421000) := by
  unfold privAt
  rw [if_neg (by omega), if_neg (by omega), if_neg (by omega), if_neg (by omega), if_neg (by omega), if_pos h']

theorem privAt_above {a : Nat} (h : 0x422000 ≤ a) : privAt a = none := by
  unfold privAt
  rw [if_neg (by omega), if_neg (by omega), if_neg (by omega), if_neg (by omega), if_neg (by omega), if_neg (by omega)]

/-- Below the registers, no word of the PRIV space is one. -/
theorem privReg_below {a : Nat} (h : a < 0x420000) : privReg a = false := by
  unfold privReg privAt
  split_ifs <;> rfl

/-- A word of the PRIV space that is reserved takes no write. -/
theorem State.privateWrite_reserved {s : State} {w : Initiator} {a : Nat} {v : Word} (h : privAt a = none) : s.privateWrite w a v = s := by
  simp [State.privateWrite, State.debugPrivWrite, State.privWrite, privReg, h]

/-- A word of the PRIV space below the registers is changed by the debug port alone. -/
theorem State.privateWrite_below {s : State} {w : Initiator} {a : Nat} {v : Word} (h : a < 0x420000) (hw : w ≠ .debug) :
    s.privateWrite w a v = s := by
  simp [State.privateWrite, hw, privReg_below h]

/-- A register of the PRIV space takes the write of every initiator that reaches it. -/
theorem State.privateWrite_register {s t : State} {w : Initiator} {a : Nat} {v : Word} (hr : s.reachesPrivate w = true)
    (hreg : privReg a = true) (ht : s.privWrite a v 7 = some t) : s.privateWrite w a v = t := by
  have hf : ∀ x, privAt a ≠ some (.flash, x) := by
    intro x hx
    simp [privReg, hx] at hreg
  have hd : s.debugPrivWrite a v = t := by
    unfold State.debugPrivWrite
    split
    · rename_i x hx; exact absurd hx (hf x)
    · rw [ht]; rfl
  simp only [State.privateWrite, hr, hreg, hd, ht, Bool.not_true, Bool.false_eq_true, if_false, if_true, Option.getD_some, ite_self]

end Sys2Proof.Machine

open Sys2Proof Sys2Proof.Machine

/-- Settles O59: the window or the part of the PRIV space of the address decides, and a cycle count wraps at the instant that its
own clock gives. -/
theorem registerWritesAndCounters : Obligations.RegisterWritesAndCounters := by
  refine ⟨fun w a v s hact _ => ?_, fun w a v s hact _ => ?_, fun a h => winAt_none h,
    fun c s hon hc hr hh hm hrem hns hs => ?_, fun s hon hr hrem hns hs => ?_⟩
  · refine ⟨(s.awake w).sharedWrite w a.toNat v, exec_registerWrite_shared a v hact,
      fun h hw => ?_, fun h hw => ?_, fun x off h => ⟨fun hp => ?_, fun hp => ?_⟩⟩
    · rw [State.sharedWrite_outside h, if_neg hw]
    · rw [State.sharedWrite_outside h, if_pos hw]
    · rw [State.sharedWrite_window h, hp]; rfl
    · rw [State.sharedWrite_window h, hp]; rfl
  · refine ⟨(s.awake w).privateWrite w a.toNat v, exec_registerWrite_private a v hact, fun h => ?_,
      fun h h' => State.privateWrite_reserved (privAt_reserved h h'),
      fun hp hw => ⟨fun h h' => ?_, fun h h' => ?_⟩, fun hp h h' => ?_, fun hp h h' => ?_⟩
    · obtain h | h | ⟨h, hw⟩ := h
      · simp [State.privateWrite, h]
      · exact State.privateWrite_reserved (privAt_above h)
      · exact State.privateWrite_below h hw
    · rw [State.privateWrite, hp, if_pos hw, State.debugPrivWrite, privAt_flash h h']; rfl
    · obtain ⟨o, ho⟩ := Nat.exists_eq_add_of_le h
      rw [State.privateWrite, hp, if_pos hw, State.debugPrivWrite, State.privWrite, ho, privAt_sram (by omega), Nat.add_sub_cancel_left]; rfl
    · exact State.privateWrite_register hp (by rw [privReg, privAt_flashRegs h h']) (by rw [State.privWrite, privAt_flashRegs h h']; rfl)
    · exact State.privateWrite_register hp (by rw [privReg, privAt_fuseRegs h h']) (by rw [State.privWrite, privAt_fuseRegs h h']; rfl)
  · obtain ⟨hcyc, hlatch⟩ := State.elapse_wraps_voice hc hr hh hm hrem hns hs
    exact ⟨_, exec_cycleWrap_voice hon hc hr hh hm, hcyc, State.elapse_core_w _ _ c, State.elapse_dram _ _, hlatch⟩
  · obtain ⟨hcyc, hregs, hlatch⟩ := State.elapse_wraps_conductor hr hrem hns hs
    exact ⟨_, exec_cycleWrap_conductor hon hr, hcyc, hregs, State.elapse_dram _ _, hlatch⟩
end

section
/-! SUPPORT. The causes that a reset records in SYS_RSTRSN (03 R97, R98). -/
namespace Sys2Proof.Machine

/-! Bit fields. -/

theorem getLsbD_setBit {m : Nat} (x : BitVec m) (i : Nat) (b : Bool) {j : Nat} (hj : j < m) :
    (setBit x i b).getLsbD j = if j = i then b else x.getLsbD j := by
  have hone : ((1 : BitVec m) <<< i).getLsbD j = decide (j = i) := by
    rw [BitVec.getLsbD_shiftLeft, show (1 : BitVec m) = 1#m from rfl, BitVec.getLsbD_one]
    by_cases h : j < i
    · simp [h]; omega
    · simp [hj, h, show 0 < m by omega]; omega
  unfold setBit
  split
  · rw [BitVec.getLsbD_or, hone]
    split <;> simp [*]
  · rw [BitVec.getLsbD_and, BitVec.getLsbD_not, hone]
    split <;> simp [*]

theorem setBit_eq_self {m : Nat} {x : BitVec m} {i : Nat} {b : Bool} (h : x.getLsbD i = b) : setBit x i b = x := by
  apply BitVec.eq_of_getLsbD_eq
  intro j hj
  rw [getLsbD_setBit _ _ _ hj]
  split
  · rename_i e; rw [e, h]
  · rfl

/-- Bits of a word whose field LAST is replaced. -/
theorem getLsbD_setLast (x : Word) (v : BitVec 4) {j : Nat} (hj : j < 24) :
    (setBits x 12 v).getLsbD j = if 12 ≤ j ∧ j < 16 then v.getLsbD (j - 12) else x.getLsbD j := by
  have hv (h : ¬(12 ≤ j ∧ j < 16)) : j < 12 ∨ v.getLsbD (j - 12) = false :=
    (Nat.lt_or_ge j 12).imp_right fun h' => BitVec.getLsbD_of_ge _ _ (by omega)
  simp only [setBits, BitVec.getLsbD_or, BitVec.getLsbD_and, BitVec.getLsbD_not, BitVec.getLsbD_shiftLeft, BitVec.getLsbD_setWidth,
    BitVec.getLsbD_allOnes]
  split
  · rename_i h
    simp [hj, show ¬j < 12 by omega, show j - 12 < 4 by omega, show j - 12 < 24 by omega]
  · rename_i h
    obtain h' | h' := hv h
    · simp [hj, h']
    · simp [hj, h']; omega

theorem bits_setLast (x : Word) (v : BitVec 4) : bits (setBits x 12 v) 12 4 = v := by
  apply BitVec.eq_of_getLsbD_eq
  intro j hj
  rw [bits, BitVec.getLsbD_extractLsb', getLsbD_setLast _ _ (by omega), if_pos (by omega)]
  simp [hj]

theorem setLast_eq_self {x : Word} {v : BitVec 4} (h : bits x 12 4 = v) : setBits x 12 v = x := by
  apply BitVec.eq_of_getLsbD_eq
  intro j hj
  rw [getLsbD_setLast _ _ hj, ← h]
  split
  · rw [bits, BitVec.getLsbD_extractLsb']
    simp [show j - 12 < 4 by omega, show 12 + (j - 12) = j by omega]
  · rfl

/-! One cause. -/

theorem Power.mark_eq (p : Power) (k : Nat) : p.mark k = { p with rstrsn := (p.mark k).rstrsn, instant := true } := rfl

theorem Power.mark_bit (p : Power) (k : Nat) {j : Nat} (hj : j < 8) :
    (p.mark k).rstrsn.getLsbD j = if j = k then true else p.rstrsn.getLsbD j := by
  unfold Power.mark
  dsimp only
  rw [getLsbD_setLast _ _ (by omega), if_neg (by omega), getLsbD_setBit _ _ _ (by omega)]

theorem Power.mark_last (p : Power) (k : Nat) :
    bits (p.mark k).rstrsn 12 4 = if p.instant && (bits p.rstrsn 12 4).toNat ≤ k then bits p.rstrsn 12 4 else lastCode k := by
  unfold Power.mark
  dsimp only
  rw [bits_setLast]

theorem Power.mark_first {p : Power} (k : Nat) (h : p.instant = false) :
    (p.mark k).rstrsn = setBits (setBit p.rstrsn k true) 12 (BitVec.ofNat 4 (k + 1)) := by
  unfold Power.mark
  simp only [h, Bool.false_and, Bool.false_eq_true, if_false, lastCode]

theorem lastCode_toNat {k : Nat} (h : k < 8) : (lastCode k).toNat = k + 1 := by
  rw [lastCode, BitVec.toNat_ofNat]
  omega

/-- A cause that LAST names already changes nothing within its cycle. -/
theorem Power.mark_again {p : Power} {k : Nat} (hk : k < 8) (hi : p.instant = true) (hb : p.rstrsn.getLsbD k = true)
    (hl : bits p.rstrsn 12 4 = lastCode k) : p.mark k = p := by
  have : ¬(k + 1 ≤ k) := by omega
  rw [Power.mark]
  simp only [hi, hl, lastCode_toNat hk, this, decide_false, Bool.and_false, Bool.false_eq_true, if_false, setBit_eq_self hb, setLast_eq_self hl]
  cases p
  cases hi
  rfl

/-! Several causes. -/

theorem Power.marks_eq (p : Power) (l : List Nat) :
    l.foldl Power.mark p = { p with rstrsn := (l.foldl Power.mark p).rstrsn, instant := (l.foldl Power.mark p).instant } := by
  induction l generalizing p with
  | nil => rfl
  | cons k l ih => exact ih (p.mark k)

theorem Power.marks_instant (p : Power) (k : Nat) (l : List Nat) : ((k :: l).foldl Power.mark p).instant = true := by
  induction l generalizing p k with
  | nil => rfl
  | cons j l ih => exact ih (p.mark k) j

theorem Power.marks_congr {p q : Power} (l : List Nat) (hr : p.rstrsn = q.rstrsn) (hi : p.instant = q.instant) :
    (l.foldl Power.mark p).rstrsn = (l.foldl Power.mark q).rstrsn := by
  induction l generalizing p q with
  | nil => exact hr
  | cons k l ih => exact ih (by rw [Power.mark, Power.mark, hr, hi]) rfl

/-- The bits of the causes are set, and the others stay. -/
theorem Power.marks_bit (p : Power) (l : List Nat) {j : Nat} (hj : j < 8) :
    (l.foldl Power.mark p).rstrsn.getLsbD j = (decide (j ∈ l) || p.rstrsn.getLsbD j) := by
  induction l generalizing p with
  | nil => simp
  | cons k l ih =>
    rw [List.foldl_cons, ih, Power.mark_bit _ _ hj]
    split <;> simp [*]

/-- LAST after a cause: within a cycle the lower-numbered one stays (03 R98). -/
theorem Power.mark_last_toNat (p : Power) {k : Nat} (hk : k < 8) :
    (bits (p.mark k).rstrsn 12 4).toNat = if p.instant then min (bits p.rstrsn 12 4).toNat (k + 1) else k + 1 := by
  rw [Power.mark_last]
  cases p.instant with
  | false => simp [lastCode_toNat hk]
  | true =>
    simp only [Bool.true_and, decide_eq_true_eq, if_true]
    split
    · omega
    · rw [lastCode_toNat hk]; omega

/-- LAST names no cause of a higher number than one of those recorded. -/
theorem Power.marks_last_le {p : Power} {l : List Nat} (hl : ∀ x ∈ l, x < 8) {n : Nat}
    (h : (p.instant = true ∧ (bits p.rstrsn 12 4).toNat ≤ n) ∨ ∃ k ∈ l, k + 1 ≤ n) : (bits (l.foldl Power.mark p).rstrsn 12 4).toNat ≤ n := by
  induction l generalizing p with
  | nil =>
    obtain h | ⟨k, hk, -⟩ := h
    · exact h.2
    · cases hk
  | cons x l ih =>
    obtain ⟨hx, hl⟩ := List.forall_mem_cons.1 hl
    have hlast := p.mark_last_toNat hx
    refine ih hl ?_
    obtain ⟨hi, h⟩ | ⟨k, hk, hn⟩ := h
    · rw [hi, if_pos rfl] at hlast
      exact .inl ⟨rfl, by omega⟩
    · obtain rfl | hk := List.mem_cons.1 hk
      · exact .inl ⟨rfl, by split at hlast <;> omega⟩
      · exact .inr ⟨k, hk, hn⟩

/-- LAST names no cause of a lower number than all of those recorded, the first of a cycle. -/
theorem Power.le_marks_last {p : Power} {l : List Nat} (hl : ∀ x ∈ l, x < 8) {n : Nat} (hn : ∀ x ∈ l, n ≤ x + 1)
    (h : if p.instant then n ≤ (bits p.rstrsn 12 4).toNat else l ≠ []) : n ≤ (bits (l.foldl Power.mark p).rstrsn 12 4).toNat := by
  induction l generalizing p with
  | nil =>
    split at h
    · exact h
    · exact absurd rfl h
  | cons x l ih =>
    obtain ⟨hx, hl⟩ := List.forall_mem_cons.1 hl
    obtain ⟨hnx, hn⟩ := List.forall_mem_cons.1 hn
    have hlast := p.mark_last_toNat hx
    refine ih hl hn ?_
    rw [if_pos (by rfl)]
    cases hi : p.instant with
    | false => rw [hlast, hi]; exact hnx
    | true => rw [hi] at h hlast; rw [hlast]; exact le_min h hnx

/-- LAST after the causes of one cycle names the lowest. -/
theorem Power.marks_last {p : Power} {l : List Nat} {k : Nat} (hi : p.instant = false) (hl : ∀ x ∈ l, x < 8) (hk : k ∈ l) (hmin : ∀ x ∈ l, k ≤ x) :
    bits (l.foldl Power.mark p).rstrsn 12 4 = lastCode k := by
  apply BitVec.eq_of_toNat_eq
  rw [lastCode_toNat (hl k hk)]
  refine Nat.le_antisymm (Power.marks_last_le hl (.inr ⟨k, hk, Nat.le_refl _⟩)) (Power.le_marks_last hl (fun x hx => by have := hmin x hx; omega) ?_)
  rw [hi]
  exact List.ne_nil_of_mem hk

/-- One cause, however often it falls due in the cycle, is recorded as one. -/
theorem Power.marks_one {p : Power} {l : List Nat} {k : Nat} (hi : p.instant = false) (hk : k < 8) (hl : ∀ x ∈ l, x = k) :
    ((k :: l).foldl Power.mark p).rstrsn = setBits (setBit p.rstrsn k true) 12 (BitVec.ofNat 4 (k + 1)) := by
  rw [List.foldl_cons, ← Power.mark_first k hi]
  have hb : (p.mark k).rstrsn.getLsbD k = true := by rw [Power.mark_bit _ _ hk, if_pos rfl]
  have hlast : bits (p.mark k).rstrsn 12 4 = lastCode k := by rw [Power.mark_last, hi]; rfl
  have again := Power.mark_again hk (p.mark_eq k ▸ rfl) hb hlast
  have stays : l.foldl Power.mark (p.mark k) = p.mark k := by
    induction l with
    | nil => rfl
    | cons x l ih =>
      obtain ⟨rfl, hl⟩ := List.forall_mem_cons.1 hl
      rw [List.foldl_cons, again, ih hl]
  rw [stays]

end Sys2Proof.Machine
end

section
/-! SUPPORT. What the parts of a reset change (19 section 19.6; 00 R836). -/
namespace Sys2Proof.Machine

/-! Way maps and flash. -/

theorem fallen_eq_nil {a b : Word} {lo n : Nat} (h : ∀ i < n, a.getLsbD (lo + i) = true → b.getLsbD (lo + i) = true) : fallen a b lo n = [] := by
  rw [fallen, List.filter_eq_nil_iff]
  intro i hi
  have := h i (List.mem_range.1 hi)
  cases ha : a.getLsbD (lo + i) with
  | false => simp
  | true => simp [this ha]

theorem setBit_clear_le {x : Word} {i j : Nat} (hj : j < 24) (h : (setBit x i false).getLsbD j = true) : x.getLsbD j = true := by
  rw [getLsbD_setBit _ _ _ hj] at h
  split at h
  · cases h
  · exact h

theorem State.setL2Ways_rejoin (s : State) (sec : Fin 3) (w : Nat) :
    ∃ c, s.setL2Ways sec (setBit s.caches.l2ways[sec] (9 + w) false) = { s with caches := c } := by
  have out : fallen s.caches.l2ways[sec] (setBit s.caches.l2ways[sec] (9 + w) false) 0 9 = [] := by
    refine fallen_eq_nil fun i hi h => ?_
    rw [getLsbD_setBit _ _ _ (by omega), if_neg (by omega)]
    exact h
  have out' : fallen (setBit s.caches.l2ways[sec] (9 + w) false) s.caches.l2ways[sec] 9 9 = [] :=
    fallen_eq_nil fun i hi => setBit_clear_le (by omega)
  unfold State.setL2Ways
  dsimp only
  rw [out, out']
  exact ⟨_, rfl⟩

theorem State.setL3Ways_rejoin (s : State) (n : Fin 4) (w : Nat) :
    ∃ c, s.setL3Ways n s.caches.l3en[n] (setBit s.caches.l3iso[n] w false) = { s with caches := c } := by
  have out : fallen s.caches.l3en[n] s.caches.l3en[n] 0 17 = [] := fallen_eq_nil fun i hi => id
  have out' : fallen (setBit s.caches.l3iso[n] w false) s.caches.l3iso[n] 0 17 = [] := fallen_eq_nil fun i hi => setBit_clear_le (by omega)
  unfold State.setL3Ways
  dsimp only
  rw [out, out']
  exact ⟨_, rfl⟩

/-- A way that rejoins flushes nothing: only the caches' own state changes (06 R230). -/
theorem State.isolateWay_rejoin (s : State) (num : Nat) : ∃ c, s.isolateWay num false = { s with caches := c } := by
  unfold State.isolateWay
  split
  · exact s.setL2Ways_rejoin _ _
  · split
    · exact s.setL3Ways_rejoin _ _
    · exact ⟨s.caches, rfl⟩

theorem State.dropSlices_eq (s : State) : ∃ c, s.dropSlices = { s with caches := c } := by
  unfold State.dropSlices
  dsimp only
  generalize (match s.health.running with | some sl => [sl.num.toNat] | none => []) ++ s.health.retests.map (·.toNat) = l
  induction l generalizing s with
  | nil => exact ⟨s.caches, rfl⟩
  | cons n l ih =>
    obtain ⟨c, h⟩ := s.isolateWay_rejoin n
    obtain ⟨c', h'⟩ := ih (s.isolateWay n false)
    exact ⟨c', by rw [List.foldl_cons, h', h]⟩

theorem State.programSector_eq (s : State) (base : Nat) (ws : List Word) : ∃ f, s.programSector base ws = { s with flash := f } := ⟨_, rfl⟩

theorem State.journalMark_eq (s : State) (w : Word) : ∃ f, s.journalMark w = { s with flash := f } := s.programSector_eq _ _

theorem State.journalCopy_eq (s : State) (base : Nat) : ∃ f, s.journalCopy base = { s with flash := f } := s.programSector_eq _ _

theorem State.journalEnd_eq (s : State) : ∃ f, s.journalEnd = { s with flash := f } := by
  unfold State.journalEnd
  dsimp only
  split
  · obtain ⟨f, h⟩ := s.programSector_eq (s.flashWord journalRecord).toNat (s.flashWords journalSector 4096)
    rw [h]
    exact State.journalMark_eq _ _
  · exact ⟨s.flash, rfl⟩

/-- A sector that the journal holds, with the record that names it. -/
theorem State.journalled_eq (s : State) (base : Nat) (w : Word) : ∃ f, (s.journalCopy base).journalMark w = { s with flash := f } := by
  obtain ⟨f, h⟩ := s.journalCopy_eq base
  rw [h]
  exact State.journalMark_eq _ _

theorem State.refreshSector_eq (s : State) (base : Nat) : ∃ f, s.refreshSector base = { s with flash := f } := by
  obtain ⟨f, h⟩ := s.journalled_eq base (BitVec.ofNat 24 base)
  rw [State.refreshSector, h]
  exact State.journalEnd_eq _

theorem State.foldRefresh_eq (l : List Nat) (s : State) : ∃ f, l.foldl State.refreshSector s = { s with flash := f } := by
  induction l generalizing s with
  | nil => exact ⟨s.flash, rfl⟩
  | cons b l ih =>
    obtain ⟨f, h⟩ := s.refreshSector_eq b
    obtain ⟨f', h'⟩ := ih (s.refreshSector b)
    exact ⟨f', by rw [List.foldl_cons, h', h]⟩

/-- A RESCORE that is cut changes flash and has drawn a free value. -/
theorem State.cutRescore_eq (s : State) : ∃ f n, s.cutRescore = { s with flash := f, free := n } := by
  unfold State.cutRescore
  dsimp only
  obtain ⟨f, h⟩ := State.foldRefresh_eq (rescoreSectors.take (Config.cutRescore s.draw.1 % 481)) s.draw.2
  rw [h]
  split
  · exact ⟨_, _, rfl⟩
  · split
    · obtain ⟨f', h'⟩ := State.programSector_eq { s.draw.2 with flash := f } journalSector _
      exact ⟨f', _, h'⟩
    · obtain ⟨f', h'⟩ := State.journalled_eq { s.draw.2 with flash := f } _ _
      exact ⟨f', _, h'⟩
    · obtain ⟨f', h'⟩ := State.journalled_eq { s.draw.2 with flash := f } _ _
      rw [h']
      obtain ⟨f'', h''⟩ := State.programSector_eq { s.draw.2 with flash := f' } _ _
      exact ⟨f'', _, h''⟩

/-- A command changes flash when a reset cuts it: SLOT_WRITE or RESCORE (11 R480, R493). -/
def Cmd.cutChangesFlash (c : Cmd) : Prop := c.op = 0x81 ∨ c.op = 0x84

theorem State.cutFlash_eq (s : State) (c : Cmd) :
    ∃ f n, s.cutFlash c = { s with flash := f, free := n } ∧ (¬c.cutChangesFlash → f = s.flash) := by
  unfold State.cutFlash
  split
  · rename_i h
    obtain ⟨f, n, h'⟩ := s.cutRescore_eq
    exact ⟨f, n, h', fun hc => absurd (.inr h) hc⟩
  · split
    · rename_i h
      exact ⟨_, _, rfl, fun hc => absurd (.inl h) hc⟩
    · exact ⟨_, _, rfl, fun _ => rfl⟩

theorem State.foldCutFlash_eq (l : List Cmd) (s : State) :
    ∃ f n, l.foldl State.cutFlash s = { s with flash := f, free := n } ∧ ((¬∃ c ∈ l, c.cutChangesFlash) → f = s.flash) := by
  induction l generalizing s with
  | nil => exact ⟨_, _, rfl, fun _ => rfl⟩
  | cons c l ih =>
    obtain ⟨f, n, h, hf⟩ := s.cutFlash_eq c
    obtain ⟨f', n', h', hf'⟩ := ih (s.cutFlash c)
    refine ⟨f', n', by rw [List.foldl_cons, h', h], fun hc => ?_⟩
    rw [List.exists_mem_cons_iff, not_or] at hc
    rw [hf' hc.2, h, hf hc.1]

/-- Some command that a reset of this state cuts changes flash. -/
def State.writesFlash (s : State) : Prop := ∃ c ∈ s.rings.active, c.cutChangesFlash

/-- What a reset leaves of the boot unit: the session is closed, and a cold one clears the count of failures (11 R490, R496). -/
theorem State.bootReset_eq (s : State) (cold : Bool) :
    ∃ f n b, s.bootReset cold = { s with flash := f, free := n, boot := b } ∧ b.session = false ∧
      b.failures = (if cold then 0 else s.boot.failures) ∧ (¬s.writesFlash → f = s.flash) := by
  obtain ⟨f, n, h, hf⟩ := State.foldCutFlash_eq s.rings.active s
  unfold State.bootReset
  dsimp only
  rw [h]
  split
  · exact ⟨f, _, _, rfl, rfl, rfl, hf⟩
  · exact ⟨f, _, _, rfl, rfl, rfl, hf⟩

end Sys2Proof.Machine
end

section
/-! SUPPORT. What a warm and a cold reset leave (19 R789, R790; 00 R836). -/
namespace Sys2Proof.Machine

theorem State.drawEpoch_eq (s : State) : ∃ n d, s.drawEpoch = { s with free := n, duet := d } := ⟨_, _, rfl⟩

/-- What every reset resets. -/
theorem State.warmDomain_eq (s : State) : ∃ ch n d, s.warmDomain = { s with
    cores := Vector.replicate 12 VoiceCore.reset, cdr := Conductor.reset, bar := BarUnit.reset, chorus := ch, echo := Echo.reset
    rings := Rings.reset, bm := BufMan.reset, duet := d, refrain := Refrain.reset s.die.variant.duet, free := n
    pwr := { s.pwr with fwake := false, wdogEnd := none, wasReleased := 0, wakeDue := none } } := ⟨_, _, _, rfl⟩

/-! A step of Tempo that a warm reset applies (12 R510). -/

theorem State.edge_eq (s : State) (t n : Nat) : ∃ ch, s.edge t n = { s with chorus := ch } := by
  unfold State.edge
  dsimp only
  split
  · exact ⟨_, rfl⟩
  · exact ⟨s.chorus, rfl⟩

theorem Tempo.refreshValid_count (t : Tempo) : t.refreshValid.count = t.count := by
  unfold Tempo.refreshValid
  dsimp only
  split
  · rfl
  · rfl

theorem Tempo.update_count (t : Tempo) : t.update.count = t.count := Tempo.refreshValid_count _

/-- The parts of a new second: TPPS_OUT rises, unless it rose too `soon` before, and a `trusted` time is loaded into the seconds counter
(12 R521 to R523, R528). -/
def State.secondParts (s : State) (soon trusted : Bool) : State :=
  let t := s.tempo
  let s := if soon then s.modTempo fun t => t.setFlag 2
    else (s.modTempo fun t => { t with ppsRise := some t.count, ppsOut := t.ppsOut || t.ppsoEn }).edge 0 50
  let s := if trusted then { s with pwr := { s.pwr with aonSec := BitVec.ofInt 48 (secondsOf t.time), aonFrac := 0, aonLoaded := true } } else s
  s.modTempo fun t => { t with secDone := secondsOf t.time }.update

theorem State.secondUp_parts (s : State) : ∃ soon trusted, s.secondUp = s.secondParts soon trusted := ⟨_, _, rfl⟩

/-- A new second changes Tempo, the latch of the PPS source and the always-on seconds. -/
theorem State.secondUp_eq (s : State) : ∃ t ch a f l, s.secondUp =
    { s with tempo := t, chorus := ch, pwr := { s.pwr with aonSec := a, aonFrac := f, aonLoaded := l } } ∧ t.count = s.tempo.count := by
  obtain ⟨soon, trusted, h⟩ := s.secondUp_parts
  obtain ⟨ch, he⟩ := (s.modTempo fun t => { t with ppsRise := some t.count, ppsOut := t.ppsOut || t.ppsoEn }).edge_eq 0 50
  rw [h]
  unfold State.secondParts
  rw [he]
  cases soon <;> cases trusted <;> exact ⟨_, _, _, _, _, rfl, Tempo.update_count _⟩

/-- Where no command is outstanding, none ends. -/
theorem State.finishAll_none (s : State) (op : BitVec 8) (st : Status) (ws : List Word) (hr : s.rings.active = []) : s.finishAll op st ws = s := by
  rw [State.finishAll, hr]
  rfl

theorem Tempo.setFlag_count (t : Tempo) (n : Nat) : (t.setFlag n).count = t.count := by
  cases t
  rfl

/-- The end of a step: the seconds follow the new time, which begins a second or does not. -/
def State.stepParts (s : State) (t : Tempo) (before : Int) : State :=
  if before < secondsOf t.time then (s.modTempo fun _ => t).secondUp
  else (s.modTempo fun _ => t).modTempo fun t => { t with secDone := secondsOf t.time }.update

theorem State.applyStep_parts (s : State) (st : TStep) (hr : s.rings.active = []) :
    ∃ t before, s.applyStep st = s.stepParts t before ∧ t.count = s.tempo.count := by
  unfold State.applyStep
  dsimp only
  rw [State.finishAll_none (s.modTempo _) _ _ _ hr]
  exact ⟨_, _, rfl, Tempo.setFlag_count _ _⟩

/-- A scheduled step changes no more than a new second does where no command is outstanding. -/
theorem State.stepDue_eq (s : State) (hr : s.rings.active = []) : ∃ t ch a f l, s.stepDue =
    { s with tempo := t, chorus := ch, pwr := { s.pwr with aonSec := a, aonFrac := f, aonLoaded := l } } ∧ t.count = s.tempo.count := by
  unfold State.stepDue
  split
  · rename_i st _
    obtain ⟨t, before, h, ht⟩ := s.applyStep_parts st hr
    rw [h, ← ht, State.stepParts]
    split
    · obtain ⟨t', ch, a, f, l, h', ht'⟩ := (s.modTempo fun _ => t).secondUp_eq
      exact ⟨t', ch, a, f, l, h', ht'⟩
    · exact ⟨_, _, _, _, _, rfl, Tempo.update_count _⟩
  · exact ⟨_, _, _, _, _, rfl, rfl⟩

theorem State.markResets_eq (s : State) (l : List Nat) : s.markResets l =
    { s with pwr := { s.pwr with rstrsn := (l.foldl Power.mark s.pwr).rstrsn, instant := (l.foldl Power.mark s.pwr).instant } } :=
  congrArg (fun p => { s with pwr := p }) (s.pwr.marks_eq l)

end Sys2Proof.Machine
end

section
/-! SUPPORT. What a reset records, clears and keeps (03 R97, R98; 19 R789, R790). -/
namespace Sys2Proof.Machine

/-! The causes. -/

/-- Cause `k` is recorded, and none that was recorded is lost. -/
def Power.Marks (p q : Power) (k : Nat) : Prop := q.rstrsn.getLsbD k = true ∧ ∀ j < 8, p.rstrsn.getLsbD j = true → q.rstrsn.getLsbD j = true

/-- Cause `k` alone is recorded, and LAST names it. -/
def Power.MarksOnly (p q : Power) (k : Nat) : Prop := q.rstrsn = setBits (setBit p.rstrsn k true) 12 (BitVec.ofNat 4 (k + 1))

/-- `q` holds the causes of `p` and those of the list. -/
def Power.Records (p q : Power) (l : List Nat) : Prop := q.rstrsn = (l.foldl Power.mark p).rstrsn

/-- Cause `k` is recorded, with those that fall due in the same cycle. -/
def State.RecordsCause (s t : State) (k : Nat) : Prop :=
  s.pwr.Marks t.pwr k ∧
    (s.pwr.instant = false ∧ s.pwr.wdogEnd ≠ some s.tempo.count ∧ s.resetDue = false → s.pwr.MarksOnly t.pwr k) ∧
    (s.pwr.wdogEnd = some s.tempo.count → t.pwr.rstrsn.getLsbD 5 = true ∧ (bits t.pwr.rstrsn 12 4).toNat ≤ 6) ∧
    (s.resetDue = true → t.pwr.rstrsn.getLsbD 4 = true ∧ (bits t.pwr.rstrsn 12 4).toNat ≤ 5)

theorem Power.Records.bit {p q : Power} {l : List Nat} (h : p.Records q l) {k : Nat} (hk : k < 8) (hl : k ∈ l) : q.rstrsn.getLsbD k = true := by
  rw [h, Power.marks_bit _ _ hk, decide_eq_true hl, Bool.true_or]

theorem Power.Records.marks {p q : Power} {l : List Nat} (h : p.Records q l) {k : Nat} (hk : k < 8) (hl : k ∈ l) : p.Marks q k := by
  refine ⟨h.bit hk hl, fun j hj hp => ?_⟩
  rw [h, Power.marks_bit _ _ hj, hp, Bool.or_true]

theorem Power.Records.marksOnly {p q : Power} {l : List Nat} {k : Nat} (h : p.Records q (k :: l)) (hi : p.instant = false) (hk : k < 8)
    (hl : ∀ x ∈ l, x = k) : p.MarksOnly q k := by
  rw [Power.MarksOnly, h, Power.marks_one hi hk hl]

theorem Power.Records.last {p q : Power} {l : List Nat} {k : Nat} (h : p.Records q l) (hi : p.instant = false) (hl : ∀ x ∈ l, x < 8)
    (hk : k ∈ l) (hmin : ∀ x ∈ l, k ≤ x) : bits q.rstrsn 12 4 = lastCode k := by
  rw [h, Power.marks_last hi hl hk hmin]

/-- `alsoDue` names the watchdog and a SYS_RESET, each where it is due. -/
theorem State.mem_alsoDue {s : State} {k : Nat} :
    k ∈ s.alsoDue ↔ k = 5 ∧ s.pwr.wdogEnd = some s.tempo.count ∨ k = 4 ∧ s.resetDue = true := by
  unfold State.alsoDue
  split <;> split <;> simp [*]

theorem State.alsoDue_lt {s : State} {k : Nat} (h : k ∈ s.alsoDue) : k < 8 := by
  obtain ⟨rfl, -⟩ | ⟨rfl, -⟩ := State.mem_alsoDue.1 h <;> omega

theorem State.alsoDue_eq_nil {s : State} (hw : s.pwr.wdogEnd ≠ some s.tempo.count) (hr : s.resetDue = false) : s.alsoDue = [] := by
  simp [State.alsoDue, hw, hr]

/-- What a reset that marks its cause and those due in the cycle records. -/
theorem Power.Records.cause {s t : State} {k : Nat} (h : s.pwr.Records t.pwr (k :: s.alsoDue)) (hk : k < 8) : s.RecordsCause t k := by
  have lt : ∀ x ∈ k :: s.alsoDue, x < 8 := List.forall_mem_cons.2 ⟨hk, fun x => State.alsoDue_lt⟩
  have due {j : Nat} (hj : j ∈ s.alsoDue) : t.pwr.rstrsn.getLsbD j = true ∧ (bits t.pwr.rstrsn 12 4).toNat ≤ j + 1 := by
    refine ⟨h.bit (State.alsoDue_lt hj) (List.mem_cons_of_mem _ hj), ?_⟩
    rw [h]
    exact Power.marks_last_le lt (.inr ⟨j, List.mem_cons_of_mem _ hj, Nat.le_refl _⟩)
  refine ⟨h.marks hk List.mem_cons_self, fun ⟨hi, hw, hr⟩ => ?_, fun hw => due (State.mem_alsoDue.2 (.inl ⟨rfl, hw⟩)),
    fun hr => due (State.mem_alsoDue.2 (.inr ⟨rfl, hr⟩))⟩
  rw [State.alsoDue_eq_nil hw hr] at h
  exact h.marksOnly hi hk (by simp)

/-! What is cleared and what is kept. -/

/-- The agents, the bars, the rings and the Buffer Manager are as a reset leaves them. -/
def State.UnitsReset (t : State) : Prop :=
  t.cores = Vector.replicate 12 VoiceCore.reset ∧ t.cdr = Conductor.reset ∧ t.bar = BarUnit.reset ∧ t.rings = Rings.reset ∧ t.bm = BufMan.reset

/-- A cold reset of `s` leaves this. -/
def State.Cleared (s t : State) : Prop :=
  t.UnitsReset ∧ t.dram = [] ∧ t.stage = [] ∧ t.csram = [] ∧ t.mc = MemCtl.reset ∧
    t.caches = Caches.reset ∧ t.boot.session = false ∧ t.boot.failures = 0 ∧ (¬s.writesFlash → t.flash = s.flash) ∧ t.xflash = s.xflash ∧
    t.health.ledger = s.health.ledger ∧ t.health.mirror = s.health.mirror

/-- A warm reset of `s` leaves this. -/
def State.Kept (s t : State) : Prop :=
  t.UnitsReset ∧ t.pwr.state = .play ∧ t.boot.sentinel = .running ∧ t.mc.ready = s.mc.ready ∧
    t.boot.session = false ∧ t.boot.failures = s.boot.failures ∧ (¬s.writesFlash → t.flash = s.flash) ∧ t.health.ledger = s.health.ledger ∧
    (s.health.running = none → s.health.retests = [] → t.dram = s.dram ∧ t.stage = s.stage ∧ t.csram = s.csram)

/-- The sentinel starts the device. -/
def State.Starts (t : State) : Prop := t.pwr.state = .play ∧ t.boot.sentinel = .running

theorem MemCtl.restart_ready (m : MemCtl) (now : Nat) : (m.restart now).ready = m.ready := by
  cases m
  rfl

theorem State.coldReset_spec (s : State) (k : Nat) : s.Cleared (s.coldReset k) ∧ s.pwr.Records (s.coldReset k).pwr (k :: s.alsoDue) ∧
    (s.coldReset k).pwr.tripped = s.pwr.tripped ∧ (s.coldReset k).pwr.instant = true := by
  obtain ⟨f, n, b, hb, hses, hfail, hf⟩ := State.bootReset_eq { s with tempo := Tempo.reset } true
  obtain ⟨ch, n', d, hw⟩ := (State.bootReset { s with tempo := Tempo.reset } true).warmDomain_eq
  unfold State.coldReset
  dsimp only
  rw [hw, hb]
  dsimp only
  rw [State.markResets_eq]
  refine ⟨⟨⟨rfl, rfl, rfl, rfl, rfl⟩, rfl, rfl, rfl, rfl, rfl, hses, hfail, hf, rfl, rfl, rfl⟩, ?_, rfl, Power.marks_instant _ _ _⟩
  exact Power.marks_congr _ rfl rfl

/-- What a warm reset of `s` has made of the state before it applies a step of Tempo that is due, records the causes and starts the sentinel. -/
structure State.Warmed (s x : State) : Prop where
  units : x.UnitsReset
  ready : x.mc.ready = s.mc.ready
  selfref : x.mc.selfref = false
  session : x.boot.session = false
  failures : x.boot.failures = s.boot.failures
  flash : ¬s.writesFlash → x.flash = s.flash
  ledger : x.health.ledger = s.health.ledger
  memory : x.dram = s.dram ∧ x.stage = s.stage ∧ x.csram = s.csram
  count : x.tempo.count = s.tempo.count
  rstrsn : x.pwr.rstrsn = s.pwr.rstrsn
  instant : x.pwr.instant = s.pwr.instant

theorem State.warmReset_parts (s : State) (k : Nat) :
    ∃ x : State, s.warmReset k = (x.stepDue.markResets (k :: s.alsoDue)).startSentinel ∧ s.Warmed x := by
  obtain ⟨c, hc⟩ := s.dropSlices_eq
  obtain ⟨f, n, b, hb, hses, hfail, hf⟩ := State.bootReset_eq { s with caches := c } false
  obtain ⟨ch, n', d, hw⟩ := (s.dropSlices.bootReset false).warmDomain_eq
  refine ⟨_, rfl, ?_⟩
  rw [hw, hc, hb]
  exact {
    units := ⟨rfl, rfl, rfl, rfl, rfl⟩, ready := s.mc.restart_ready s.tempo.count, selfref := rfl, session := hses, failures := hfail, flash := hf
    ledger := rfl, memory := ⟨rfl, rfl, rfl⟩, count := rfl, rstrsn := rfl, instant := rfl }

theorem State.warmReset_spec (s : State) (k : Nat) :
    s.Kept (s.warmReset k) ∧ s.pwr.Records (s.warmReset k).pwr (k :: s.alsoDue) ∧ (s.warmReset k).tempo.count = s.tempo.count ∧
      (s.warmReset k).mc.selfref = false := by
  obtain ⟨x, h, hx⟩ := s.warmReset_parts k
  obtain ⟨hcores, -, hbar, hrings, hbm⟩ := hx.units
  obtain ⟨t, ch, a, f, l, hs, ht⟩ := x.stepDue_eq (by rw [hrings]; rfl)
  rw [h, State.markResets_eq, hs]
  refine ⟨⟨⟨hcores, rfl, hbar, hrings, hbm⟩, rfl, rfl, hx.ready, hx.session, hx.failures, hx.flash, hx.ledger, fun _ _ => hx.memory⟩, ?_,
    ht.trans hx.count, hx.selfref⟩
  exact Power.marks_congr _ hx.rstrsn hx.instant

/-! The end of a cold reset. -/

/-- A tripped device stays in reset. -/
theorem State.leaveReset_tripped {s : State} (h : s.pwr.tripped = true) : s.leaveReset = { s with pwr := { s.pwr with state := .thermal } } := by
  rw [State.leaveReset, if_pos h]
  rfl

theorem State.loadTime_eq (s : State) : ∃ t, s.loadTime = { s with tempo := t } := by
  unfold State.loadTime
  split
  · exact ⟨_, rfl⟩
  · exact ⟨_, rfl⟩

/-- A device that leaves its reset starts the sentinel. -/
theorem State.leaveReset_eq {s : State} (h : s.pwr.tripped = false) : ∃ n d t b, s.leaveReset =
    { s with free := n, duet := d, tempo := t, cdr := Conductor.reset, pwr := { s.pwr with state := .play, wdogEnd := none }, boot := b } ∧
      b.sentinel = .running ∧ b.session = s.boot.session ∧ b.failures = s.boot.failures := by
  obtain ⟨n, d, hd⟩ := s.drawEpoch_eq
  obtain ⟨t, ht⟩ := s.drawEpoch.loadTime_eq
  rw [State.leaveReset, if_neg (by simp [h]), ht, hd]
  exact ⟨n, d, t, _, rfl, rfl, rfl, rfl⟩

theorem State.Cleared.leaveReset {s t : State} (h : s.Cleared t) : s.Cleared t.leaveReset := by
  cases hp : t.pwr.tripped with
  | true => rw [State.leaveReset_tripped hp]; exact h
  | false =>
    obtain ⟨n, d, tm, b, he, -, hses, hfail⟩ := State.leaveReset_eq hp
    obtain ⟨⟨hcores, -, hbar, hrings, hbm⟩, hdram, hstage, hcsram, hmc, hcaches, hs, hf, rest⟩ := h
    rw [he]
    exact ⟨⟨hcores, rfl, hbar, hrings, hbm⟩, hdram, hstage, hcsram, hmc, hcaches, hses.trans hs, hfail.trans hf, rest⟩

theorem State.leaveReset_pwr (s : State) : ∃ st w, s.leaveReset.pwr = { s.pwr with state := st, wdogEnd := w } := by
  cases hp : s.pwr.tripped with
  | true => rw [State.leaveReset_tripped hp]; exact ⟨_, _, rfl⟩
  | false =>
    obtain ⟨n, d, tm, b, he, -⟩ := State.leaveReset_eq hp
    rw [he]
    exact ⟨_, _, rfl⟩

/-- A device that leaves its reset starts, unless it has tripped. -/
theorem State.leaveReset_starts (s : State) : if s.pwr.tripped then s.leaveReset.pwr.state = .thermal else s.leaveReset.Starts := by
  split
  · rename_i h
    rw [State.leaveReset_tripped h]
  · rename_i h
    obtain ⟨n, d, tm, b, he, hb, -⟩ := State.leaveReset_eq (Bool.eq_false_iff.2 h)
    rw [he]
    exact ⟨rfl, hb⟩

/-- A cold reset that the device leaves at once. -/
theorem State.coldReset_leave (s : State) (k : Nat) :
    s.Cleared (s.coldReset k).leaveReset ∧ s.pwr.Records (s.coldReset k).leaveReset.pwr (k :: s.alsoDue) ∧
      if s.pwr.tripped then (s.coldReset k).leaveReset.pwr.state = .thermal else (s.coldReset k).leaveReset.Starts := by
  obtain ⟨hc, hr, ht, -⟩ := s.coldReset_spec k
  obtain ⟨st, w, hp⟩ := (s.coldReset k).leaveReset_pwr
  refine ⟨hc.leaveReset, ?_, ?_⟩
  · rw [Power.Records, hp]; exact hr
  · rw [← ht]; exact State.leaveReset_starts _

end Sys2Proof.Machine
end

section
/-! SUPPORT. What a reset finds when time has passed before it (19 R792, R797; 10 R417). -/
namespace Sys2Proof.Machine

/-- As time passes, the causes, the watchdog and a trip stay, and no new cycle is one of a reset. -/
structure Power.Aged (p q : Power) : Prop where
  rstrsn : q.rstrsn = p.rstrsn
  wdogEnd : q.wdogEnd = p.wdogEnd
  tripped : q.tripped = p.tripped
  instant : p.instant = false → q.instant = false

theorem Power.Aged.of_eq {p q : Power} (h : q = p) : p.Aged q := by
  subst h
  exact ⟨rfl, rfl, rfl, id⟩

theorem Power.Aged.trans {p q r : Power} (h : p.Aged q) (h' : q.Aged r) : p.Aged r :=
  ⟨h'.rstrsn.trans h.rstrsn, h'.wdogEnd.trans h.wdogEnd, h'.tripped.trans h.tripped, fun hi => h'.instant (h.instant hi)⟩

theorem Power.runAon_aged (p : Power) (ns : Nat) : p.Aged (p.runAon ns) := by
  cases p
  exact ⟨rfl, rfl, rfl, fun h => by cases h; rfl⟩

theorem State.foldSections_aged (ns : Nat) (l : List (Fin 3)) (s : State) : s.pwr.Aged (l.foldl (fun s sec => s.runSection ns sec) s).pwr := by
  induction l generalizing s with
  | nil => exact .of_eq rfl
  | cons a l ih =>
    have h : s.pwr.Aged (s.runSection ns a).pwr := ⟨rfl, rfl, rfl, id⟩
    exact h.trans (ih (s.runSection ns a))

theorem State.elapse_aged (s : State) (dt : Nat) : s.pwr.Aged (s.elapse dt).pwr := by
  by_cases h : dt = 0
  · rw [h, State.elapse_zero]; exact .of_eq rfl
  · obtain ⟨q, he, -, -, -, -, hq, -⟩ := s.elapse_parts h rfl
    generalize (s.tempo.tcxo (s.tempo.slew dt) dt).1 = ns at he hq
    rw [he, State.runCdrCycles_keeps (·.pwr) (fun _ _ => rfl) (fun _ _ => rfl)]
    refine .trans ?_ (State.foldSections_aged ns _ _)
    rw [State.fold_keeps (·.pwr) _ (fun s c => s.runCycles_pwr ns c), hq]
    exact s.pwr.runAon_aged ns

theorem State.elapse_health (s : State) (dt : Nat) : ∃ n, (s.elapse dt).health = { s.health with cycleTime := n } := by
  by_cases h : dt = 0
  · rw [h, State.elapse_zero]; exact ⟨_, rfl⟩
  · obtain ⟨q, he, -, -, -, -, -, n, hq⟩ := s.elapse_parts h rfl
    generalize (s.tempo.tcxo (s.tempo.slew dt) dt).1 = ns at he
    refine ⟨n, ?_⟩
    rw [he, State.runCdrCycles_keeps (·.health) (fun _ _ => rfl) (fun _ _ => rfl),
      State.fold_keeps (·.health) (fun s sec => s.runSection ns sec) (fun _ _ => rfl),
      State.fold_keeps (·.health) (fun s c => s.runCycles ns c) fun s c => State.runCycles_keeps (·.health) (fun _ _ => rfl) (fun _ _ _ => rfl) s ns c, hq]

theorem State.until_aged (s : State) (at_ : Nat) : s.pwr.Aged (s.until at_).pwr := s.elapse_aged _

/-- What a reset clears does not depend on the time before it. -/
theorem State.Cleared.of_until {s t : State} {at_ : Nat} (h : (s.until at_).Cleared t) : s.Cleared t := by
  obtain ⟨n, hh⟩ : ∃ n, (s.until at_).health = { s.health with cycleTime := n } := s.elapse_health _
  simpa only [State.Cleared, State.writesFlash, State.until_rings, State.until_flash, State.until_xflash, hh] using h

/-- What a reset keeps does not depend on the time before it. -/
theorem State.Kept.of_until {s t : State} {at_ : Nat} (h : (s.until at_).Kept t) : s.Kept t := by
  obtain ⟨n, hh⟩ : ∃ n, (s.until at_).health = { s.health with cycleTime := n } := s.elapse_health _
  simpa only [State.Kept, State.writesFlash, State.until_rings, State.until_flash, State.until_mc, State.until_boot, State.until_dram,
    State.until_stage, State.until_csram, hh] using h

/-- Causes recorded after time has passed are recorded from before. -/
theorem Power.Aged.marks {p q r : Power} {k : Nat} (h : p.Aged q) (hm : q.Marks r k) : p.Marks r k := by
  rw [Power.Marks, ← h.rstrsn]; exact hm

/-! Sleep. -/

theorem State.sleepPart_rings (s : State) (ns : Nat) : (s.sleepPart ns).rings = s.rings := by
  unfold State.sleepPart
  dsimp only
  split
  · rfl
  · rfl

theorem State.sleepPart_aged (s : State) (ns : Nat) : s.pwr.Aged (s.sleepPart ns).pwr := by
  have h := s.pwr.runAon_aged ns
  unfold State.sleepPart State.aonFor State.modPwr
  dsimp only
  generalize s.pwr.runAon ns = p at h
  generalize s.tempo.asleep ns = t
  split
  · exact ⟨h.rstrsn, h.wdogEnd, h.tripped, h.instant⟩
  · exact h

/-- What each part of a sleep and the end of holdover keep, the sleep keeps. -/
theorem State.sleepFor_keeps {P : State → Prop} (hpart : ∀ s ns, P s → P (s.sleepPart ns))
    (hexpire : ∀ s, P s → P (s.modTempo Tempo.expireAsleep)) {s : State} (h : P s) (ns : Nat) : P (s.sleepFor ns) := by
  unfold State.sleepFor
  dsimp only
  split
  · split
    · exact hexpire _ (hpart _ _ h)
    · exact hpart _ _ (hexpire _ (hpart _ _ h))
  · exact hpart _ _ h

theorem State.sleepFor_rings (s : State) (ns : Nat) : (s.sleepFor ns).rings = s.rings :=
  State.sleepFor_keeps (P := fun t => t.rings = s.rings) (fun t ns h => (t.sleepPart_rings ns).trans h)
    (fun t h => (t.modTempo_rings _).trans h) rfl ns

theorem State.sleepFor_aged (s : State) (ns : Nat) : s.pwr.Aged (s.sleepFor ns).pwr :=
  State.sleepFor_keeps (P := fun t => s.pwr.Aged t.pwr) (fun t ns h => h.trans (t.sleepPart_aged ns))
    (fun t h => h.trans (.of_eq (t.modTempo_pwr _))) (.of_eq rfl) ns

theorem State.startTraining_eq (s : State) : ∃ d, s.startTraining = { s with duet := d } := by
  unfold State.startTraining
  split
  · exact ⟨_, rfl⟩
  · exact ⟨_, rfl⟩

theorem State.retrain_eq (s : State) (b : Bool) : ∃ n d, (if b then s.drawEpoch.startTraining else s) = { s with free := n, duet := d } := by
  cases b with
  | true =>
    obtain ⟨n, d, hd⟩ := s.drawEpoch_eq
    obtain ⟨d', ht⟩ := s.drawEpoch.startTraining_eq
    rw [if_pos rfl, ht, hd]
    exact ⟨_, _, rfl⟩
  | false => exact ⟨_, _, rfl⟩

/-- After a wake, no cause but the one performed is due, unless a SYS_RESET was asked for. -/
theorem State.resumeDevice_spec (s : State) : s.resumeDevice.rings = s.rings ∧ s.resumeDevice.pwr.rstrsn = s.pwr.rstrsn ∧
    s.resumeDevice.pwr.instant = s.pwr.instant ∧ s.resumeDevice.pwr.wdogEnd ≠ some s.resumeDevice.tempo.count := by
  unfold State.resumeDevice
  dsimp only
  obtain ⟨n, d, h⟩ := State.retrain_eq _ s.duet.en
  rw [h]
  refine ⟨rfl, rfl, rfl, ?_⟩
  rw [State.kickWatchdog, ne_eq, Option.some.injEq]
  dsimp only
  omega

end Sys2Proof.Machine
end

section
/-! SUPPORT. The events of supplies, temperature and resets (19 R763 to R765, R789 to R799; 10 R417). -/
namespace Sys2Proof.Machine

theorem Power.runAon_state (p : Power) (ns : Nat) : (p.runAon ns).state = p.state := by
  cases p
  rfl

theorem State.Cleared.modPwr {s t : State} (h : s.Cleared t) (f : Power → Power) : s.Cleared (t.modPwr f) := h

theorem Power.Records.append {p q r : Power} {l l' : List Nat} (h : p.Records q l) (h' : q.Records r l')
    (hi : q.instant = (l.foldl Power.mark p).instant) : p.Records r (l ++ l') := by
  rw [Power.Records, List.foldl_append, h']
  exact Power.marks_congr l' h hi

/-! PORST_N. -/

/-- What PORST_N leaves; a fall of WARMRST_N in its cycle is recorded with it. -/
theorem State.porst_spec (s : State) (warmToo : Bool) (off : Nat) : s.Cleared (s.porst warmToo off) ∧
    s.pwr.Records (s.porst warmToo off).pwr (0 :: s.alsoDue ++ if warmToo then [3] else []) ∧ (s.porst warmToo off).pwr.state = .porst := by
  obtain ⟨hc, hr, -, hi⟩ := s.coldReset_spec 0
  have held (x : State) : ((x.modPwr fun p => { p with state := .porst }).aonFor off).pwr.rstrsn = x.pwr.rstrsn :=
    (Power.runAon_aged { x.pwr with state := .porst } off).rstrsn
  refine ⟨?_, ?_, Power.runAon_state _ _⟩
  · cases warmToo with
    | true => exact hc
    | false => exact hc
  · cases warmToo with
    | true => exact hr.append (held ((s.coldReset 0).markResets [3])) (hi.trans (Power.marks_instant _ _ _).symm)
    | false => rw [if_neg (by decide), List.append_nil]; exact (held _).trans hr

theorem porstN_cold (s : State) (off : Nat) :
    Completes (.porstN false off) s fun t => (s.RecordsCause t 0 ∧ s.Cleared t) ∧ t.pwr.state = .porst := by
  obtain ⟨hc, hr, hst⟩ := s.porst_spec false off
  rw [if_neg (by decide), List.append_nil] at hr
  exact ⟨_, rfl, ⟨hr.cause (by omega), hc⟩, hst⟩

theorem porstN_warmToo (s : State) (off : Nat) : Completes (.porstN true off) s fun t => t.pwr.state = .porst ∧ t.UnitsReset ∧
    t.pwr.rstrsn.getLsbD 0 = true ∧ t.pwr.rstrsn.getLsbD 3 = true ∧ (s.pwr.instant = false → bits t.pwr.rstrsn 12 4 = 1) := by
  obtain ⟨hc, hr, hst⟩ := s.porst_spec true off
  rw [if_pos rfl] at hr
  refine ⟨_, rfl, hst, hc.1, hr.bit (by omega) (by simp), hr.bit (by omega) (by simp), fun hi => hr.last hi (fun x hx => ?_) (by simp) (by simp)⟩
  obtain rfl | h | rfl := by simpa using hx
  · omega
  · exact State.alsoDue_lt h
  · omega

theorem Power.hold_low (p : Power) (rail : Fin 5) : (p.hold rail).supplyLow.getLsbD rail.val = true := by
  rw [Power.hold, getLsbD_setBit _ _ _ rail.isLt, if_pos rfl]

/-- A rail that is low when PORST_N rises holds the device with BROWNOUT. -/
theorem porstNRelease_low {s : State} (railsOk : Bool) (rail : Fin 5) (h : s.pwr.state = .porst) :
    Completes (.porstNRelease railsOk (some rail)) s fun t => s.pwr.Marks t.pwr 1 ∧ (s.pwr.instant = false → s.pwr.MarksOnly t.pwr 1) ∧
      t = { s with pwr := t.pwr } ∧ t.pwr.state = .brownout ∧ t.pwr.supplyLow.getLsbD rail.val = true ∧ t.pwr.supplyWarn = true := by
  have hr : s.pwr.Records ((s.markResets [1]).modPwr fun p => p.hold rail).pwr [1] := rfl
  refine ⟨(s.markResets [1]).modPwr fun p => p.hold rail, ?_, hr.marks (by omega) (by simp), fun hi => hr.marksOnly hi (by omega) (by simp),
    rfl, rfl, Power.hold_low _ _, rfl⟩
  show execPorstNRelease railsOk (some rail) s = _
  rw [execPorstNRelease, if_neg (by simp [h])]

theorem porstNRelease_leaves {s : State} (h : s.pwr.state = .porst) : Completes (.porstNRelease true none) s fun t =>
    if s.pwr.tripped then t.pwr.state = .thermal else t.Starts := by
  refine ⟨_, ?_, s.leaveReset_starts⟩
  show execPorstNRelease true none s = _
  rw [execPorstNRelease, if_neg (by simp [h])]
  rfl

/-! WARMRST_N and VAON. -/

theorem State.resetFor_cold {s : State} {k : Nat} {cold : Bool} (h : cold = true ∨ s.resetDue = true ∧ s.rings.resetReq = some true) :
    s.resetFor k cold = (s.coldReset k).leaveReset := by
  rw [State.resetFor, if_pos (by simpa using h)]

theorem State.resetFor_warm {s : State} {k : Nat} (h : ¬(s.resetDue = true ∧ s.rings.resetReq = some true)) : s.resetFor k false = s.warmReset k := by
  rw [State.resetFor, if_neg (by simpa using h)]

theorem exec_warmrstN {s : State} (slept : Nat) : exec (.warmrstN slept) s = .next (match s.pwr.state with
    | .play => s.resetFor 3 false
    | .fermata => ((s.sleepFor slept).resumeDevice).warmReset 3
    | _ => s) := rfl

/-- WARMRST_N while the device runs. -/
theorem warmrstN_play {s : State} (slept : Nat) (h : s.pwr.state = .play) : Completes (.warmrstN slept) s fun t =>
    if s.resetDue = true ∧ s.rings.resetReq = some true then
      (s.RecordsCause t 3 ∧ s.Cleared t) ∧ if s.pwr.tripped then t.pwr.state = .thermal else t.Starts
    else s.RecordsCause t 3 ∧ s.Kept t := by
  refine ⟨s.resetFor 3 false, by rw [exec_warmrstN, h], ?_⟩
  split
  · rename_i hd
    obtain ⟨hc, hr, hst⟩ := s.coldReset_leave 3
    rw [State.resetFor_cold (.inr hd)]
    exact ⟨⟨hr.cause (by omega), hc⟩, hst⟩
  · rename_i hd
    obtain ⟨hk, hr, -⟩ := s.warmReset_spec 3
    rw [State.resetFor_warm hd]
    exact ⟨hr.cause (by omega), hk⟩

/-- WARMRST_N in Fermata: the device wakes first. -/
theorem warmrstN_fermata {s : State} (slept : Nat) (h : s.pwr.state = .fermata) : Completes (.warmrstN slept) s fun t =>
    s.pwr.Marks t.pwr 3 ∧ t.UnitsReset ∧ t.Starts ∧ t.mc.selfref = false ∧
      (s.pwr.instant = false → s.rings.resetReq = none → s.pwr.MarksOnly t.pwr 3) := by
  obtain ⟨hrings, hrst, hinst, hwdog⟩ := (s.sleepFor slept).resumeDevice_spec
  have aged := s.sleepFor_aged slept
  have hsleep := s.sleepFor_rings slept
  generalize hu : (s.sleepFor slept).resumeDevice = u at *
  obtain ⟨⟨hunits, hst, hsent, -⟩, hr, -, hself⟩ := u.warmReset_spec 3
  have hrst' := hrst.trans aged.rstrsn
  refine ⟨u.warmReset 3, by rw [exec_warmrstN, h, ← hu], ?_, hunits, ⟨hst, hsent⟩, hself, fun hi hreq => ?_⟩
  · rw [Power.Marks, ← hrst']; exact hr.marks (by omega) List.mem_cons_self
  · rw [State.alsoDue_eq_nil hwdog (by simp [State.resetDue, hrings, hsleep, hreq])] at hr
    rw [Power.MarksOnly, ← hrst']
    exact hr.marksOnly (hinst.trans (aged.instant hi)) (by omega) (by simp)

theorem warmrstN_held {s : State} (slept : Nat) (h : s.pwr.state ≠ .play) (h' : s.pwr.state ≠ .fermata) :
    Completes (.warmrstN slept) s (· = s) := by
  refine ⟨s, ?_, rfl⟩
  rw [exec_warmrstN]
  split
  · rename_i e; exact absurd e h
  · rename_i e; exact absurd e h'
  · rfl

theorem vaonLoss_resets (s : State) : Completes .vaonLoss s fun t => t.UnitsReset ∧ t.dram = [] ∧ (¬s.writesFlash → t.flash = s.flash) ∧
    t.health.ledger = [] ∧ t.health.mirror = Vector.replicate 64 0 ∧ t.pwr.state = .porst ∧ t.pwr.aonSec = 0 ∧ t.pwr.aonLoaded = false ∧
    t.pwr.service = 0 := by
  obtain ⟨⟨hunits, hdram, -, -, -, -, -, -, hflash, -⟩, -⟩ := s.coldReset_spec 0
  exact ⟨_, rfl, hunits, hdram, hflash, rfl, rfl, rfl, rfl, rfl, rfl⟩

end Sys2Proof.Machine
end

section
/-! SUPPORT. The events of supplies and temperature (19 R764, R765, R795). -/
namespace Sys2Proof.Machine

/-! Supplies. -/

theorem brownout_running (rail : Fin 5) : Occurs (.brownout rail) (fun _ => True) fun s t => (s.RecordsCause t 1 ∧ s.Cleared t) ∧
    t.pwr.state = .brownout ∧ t.pwr.supplyLow.getLsbD rail.val = true ∧ t.pwr.supplyWarn = true := by
  intro s hon _
  obtain ⟨hc, hr, -⟩ := s.coldReset_spec 1
  have hr : s.pwr.Records ((s.coldReset 1).modPwr fun p => p.hold rail).pwr (1 :: s.alsoDue) := hr
  refine ⟨(s.coldReset 1).modPwr fun p => p.hold rail, ?_, ⟨hr.cause (by omega), hc.modPwr _⟩, rfl, Power.hold_low _ _, rfl⟩
  show execBrownout rail s = _
  rw [execBrownout, if_pos hon]

/-- A rail below its reset level while the device does not run: one that a trip has just reset records the cause as well (03 R98). -/
theorem brownout_held (rail : Fin 5) (s : State) (hoff : s.on = false) : Completes (.brownout rail) s fun t =>
    (s.pwr.state ≠ .thermal ∨ s.pwr.instant = false → t = s) ∧
    (s.pwr.state = .thermal → s.pwr.instant = true → t = { s with pwr := t.pwr } ∧ t.pwr.state = .brownout ∧ s.pwr.Marks t.pwr 1 ∧
      (bits t.pwr.rstrsn 12 4).toNat = min 2 (bits s.pwr.rstrsn 12 4).toNat) := by
  have he : exec (.brownout rail) s =
      .next (if s.pwr.state = .thermal && s.pwr.instant then (s.markResets [1]).modPwr fun p => p.hold rail else s) := by
    show execBrownout rail s = _
    rw [execBrownout, if_neg (by simp [hoff])]
  by_cases h : s.pwr.state = .thermal ∧ s.pwr.instant = true
  · obtain ⟨hst, hi⟩ := h
    have hr : s.pwr.Records ((s.markResets [1]).modPwr fun p => p.hold rail).pwr [1] := rfl
    have hlast := s.pwr.mark_last_toNat (k := 1) (by omega)
    refine ⟨(s.markResets [1]).modPwr fun p => p.hold rail, by rw [he, if_pos (by simp [hst, hi])], fun h => ?_,
      fun _ _ => ⟨rfl, rfl, hr.marks (by omega) (by simp), ?_⟩⟩
    · simp [hst, hi] at h
    · rw [hi, if_pos rfl, Nat.min_comm] at hlast
      exact hlast
  · exact ⟨s, by rw [he, if_neg (by simpa using h)], fun _ => rfl, fun hst hi => absurd ⟨hst, hi⟩ h⟩

theorem Power.railsUp_iff (p : Power) : p.railsUp = true ↔ p.state ≠ .coda ∧ p.state ≠ .codaWait := by
  simp [Power.railsUp]

theorem supplyWarning_completes (rail : Fin 5) (s : State) : Completes (.supplyWarning rail) s fun t =>
    (s.pwr.state ≠ .coda ∧ s.pwr.state ≠ .codaWait →
      t = { s with pwr := { s.pwr with supplyLow := setBit s.pwr.supplyLow rail.val true, supplyWarn := true } }) ∧
    (¬(s.pwr.state ≠ .coda ∧ s.pwr.state ≠ .codaWait) → t = s) := by
  refine ⟨_, rfl, fun h => ?_, fun h => ?_⟩
  · rw [if_pos (s.pwr.railsUp_iff.2 h)]
    rfl
  · rw [if_neg (mt s.pwr.railsUp_iff.1 h)]

theorem supplyWarningEnd_completes (rail : Fin 5) (s : State) : Completes (.supplyWarningEnd rail) s fun t =>
    (s.pwr.state ≠ .brownout ∨ setBit s.pwr.supplyLow rail.val false ≠ 0 →
      t = { s with pwr := { s.pwr with supplyLow := setBit s.pwr.supplyLow rail.val false } }) ∧
    (s.pwr.state = .brownout → setBit s.pwr.supplyLow rail.val false = 0 →
      (if s.pwr.tripped then t.pwr.state = .thermal else t.Starts) ∧ t.pwr.supplyLow = 0) := by
  generalize hu : s.modPwr (fun p => { p with supplyLow := setBit p.supplyLow rail.val false }) = u
  have he : exec (.supplyWarningEnd rail) s = .next (if u.pwr.state = .brownout && u.pwr.supplyLow = 0 then u.leaveReset else u) := by
    rw [← hu]
    rfl
  have hst : u.pwr.state = s.pwr.state := by rw [← hu]; rfl
  have hlow : u.pwr.supplyLow = setBit s.pwr.supplyLow rail.val false := by rw [← hu]; rfl
  have htrip : u.pwr.tripped = s.pwr.tripped := by rw [← hu]; rfl
  by_cases h : s.pwr.state = .brownout ∧ setBit s.pwr.supplyLow rail.val false = 0
  · obtain ⟨st, w, hp⟩ := u.leaveReset_pwr
    refine ⟨u.leaveReset, by rw [he, if_pos (by simpa [hst, hlow] using h)], fun h' => absurd h (by tauto), fun _ h0 => ⟨?_, ?_⟩⟩
    · rw [← htrip]; exact u.leaveReset_starts
    · rw [hp, ← h0]; exact hlow
  · exact ⟨u, by rw [he, if_neg (by simpa [hst, hlow] using h)], fun _ => hu.symm, fun h1 h2 => absurd ⟨h1, h2⟩ h⟩

/-! Temperature. -/

theorem thermalWarning_completes (s : State) (tj : BitVec 10) : Completes (.thermalWarning tj) s fun t => (tj.toInt < s.warnLevel → t = s) ∧
    (s.warnLevel ≤ tj.toInt → t = { s with pwr := { s.pwr with therm := tj, tjHot := true, thermWarn := true } }) := by
  refine ⟨_, rfl, fun h => ?_, fun h => ?_⟩
  · rw [if_neg (by omega)]
  · rw [if_pos h]
    rfl

theorem thermalTrip_completes (s : State) (tj : BitVec 10) : Completes (.thermalTrip tj) s fun t =>
    (tj.toInt < s.tripLevel ∨ ¬(s.pwr.state ≠ .coda ∧ s.pwr.state ≠ .codaWait) ∨ s.pwr.tripped = true → t = s) ∧
    (s.tripLevel ≤ tj.toInt → s.pwr.state ≠ .coda ∧ s.pwr.state ≠ .codaWait → s.pwr.tripped = false →
      (s.RecordsCause t 6 ∧ s.Cleared t) ∧ t.pwr.tripped = true ∧ t.pwr.tjHot = true ∧ t.pwr.thermWarn = true ∧
        t.pwr.state = if s.pwr.state = .porst ∨ s.pwr.state = .brownout then s.pwr.state else .thermal) := by
  obtain ⟨hc, hr, -⟩ := s.coldReset_spec 6
  generalize hhold : (if s.pwr.state = .porst ∨ s.pwr.state = .brownout then s.pwr.state else PwrState.thermal) = hold
  have he : exec (.thermalTrip tj) s = .next (if tj.toInt < s.tripLevel || !s.pwr.railsUp || s.pwr.tripped then s
      else (s.coldReset 6).modPwr fun p => { p with therm := tj, tjHot := true, thermWarn := true, tripped := true, state := hold }) := by
    rw [← hhold]
    show execThermalTrip tj s = _
    simp only [execThermalTrip, Bool.or_eq_true, decide_eq_true_eq]
  rw [← s.pwr.railsUp_iff]
  by_cases h : tj.toInt < s.tripLevel ∨ ¬s.pwr.railsUp = true ∨ s.pwr.tripped = true
  · exact ⟨s, by rw [he, if_pos (by simpa [or_assoc] using h)], fun _ => rfl, fun h1 h2 h3 => by simp [h2, h3, Int.not_lt.2 h1] at h⟩
  · refine ⟨_, by rw [he, if_neg (by simpa [or_assoc] using h)], fun h' => absurd h' h, fun _ _ _ => ⟨⟨?_, hc.modPwr _⟩, rfl, rfl, rfl, rfl⟩⟩
    exact Power.Records.cause hr (by omega)

theorem tjBelowWarning_completes (s : State) (tj : BitVec 10) : Completes (.tjBelowWarning tj) s fun t => (s.warnLevel ≤ tj.toInt → t = s) ∧
    (tj.toInt < s.warnLevel → t.pwr.tjHot = false ∧ t.pwr.tripped = false ∧ (s.pwr.state = .thermal → t.Starts) ∧
      (s.pwr.state ≠ .thermal → t = { s with pwr := { s.pwr with therm := tj, tjHot := false, tripped := false } })) := by
  generalize hu : s.modPwr (fun p => { p with therm := tj, tjHot := false, tripped := false }) = u
  have he : exec (.tjBelowWarning tj) s =
      .next (if s.warnLevel ≤ tj.toInt then s else if u.pwr.state = .thermal then u.leaveReset else u) := by
    rw [← hu]
    rfl
  have hst : u.pwr.state = s.pwr.state := by rw [← hu]; rfl
  have hhot : u.pwr.tjHot = false := by rw [← hu]; rfl
  have htrip : u.pwr.tripped = false := by rw [← hu]; rfl
  by_cases h : s.warnLevel ≤ tj.toInt
  · exact ⟨s, by rw [he, if_pos h], fun _ => rfl, fun h' => by omega⟩
  · by_cases hth : s.pwr.state = .thermal
    · obtain ⟨st, w, hp⟩ := u.leaveReset_pwr
      have starts := u.leaveReset_starts
      rw [if_neg (by simp [htrip])] at starts
      refine ⟨u.leaveReset, by rw [he, if_neg h, if_pos (by rw [hst, hth])], fun h' => absurd h' h,
        fun _ => ⟨?_, ?_, fun _ => starts, fun h' => absurd hth h'⟩⟩
      · rw [hp]; exact hhot
      · rw [hp]; exact htrip
    · exact ⟨u, by rw [he, if_neg h, if_neg (by rw [hst]; exact hth)], fun h' => absurd h' h,
        fun _ => ⟨hhot, htrip, fun h' => absurd h' hth, fun _ => hu.symm⟩⟩

end Sys2Proof.Machine
end

section
/-! SUPPORT. Resets by the debug port, by SYS_RESET and by the watchdog (10 R417; 19 R791, R797). -/
namespace Sys2Proof.Machine

/-- An event of a running device does what it does while the device runs. -/
theorem ifOn_on {s : State} {f : State → State} (h : s.on = true) : ifOn s f = .next (f s) := by
  rw [ifOn, if_pos h]

theorem debugReset_resets : Occurs .debugReset (fun s => s.pwr.tripped = false) fun s t => (s.boot.session = false → t = s) ∧
    (s.boot.session = true → (s.RecordsCause t 7 ∧ s.Cleared t) ∧ t.Starts) := by
  intro s hon htrip
  refine ⟨_, ifOn_on hon, fun h => ?_, fun h => ?_⟩
  · rw [if_neg (by simp [h])]
  · obtain ⟨hc, hr, hst⟩ := s.coldReset_leave 7
    rw [if_neg (by simp [htrip])] at hst
    rw [if_pos h]
    exact ⟨⟨hr.cause (by omega), hc⟩, hst⟩

/-- A reset that falls due at `at_`, with the causes due then, clears or keeps. -/
theorem State.until_resetFor (s : State) (at_ k : Nat) (cold : Bool) (htrip : s.pwr.tripped = false) :
    let u := s.until at_
    let t := u.resetFor k cold
    u.pwr.Records t.pwr (k :: u.alsoDue) ∧
      (cold = true ∨ u.resetDue = true ∧ s.rings.resetReq = some true → s.Cleared t ∧ t.Starts) ∧
      (¬(cold = true ∨ u.resetDue = true ∧ s.rings.resetReq = some true) → s.Kept t ∧ t.tempo.count = max s.tempo.count at_) := by
  have hcount := s.until_count at_
  have htrip' := (s.until_aged at_).tripped.trans htrip
  dsimp only
  by_cases h : cold = true ∨ (s.until at_).resetDue = true ∧ s.rings.resetReq = some true
  · obtain ⟨hc, hr, hst⟩ := (s.until at_).coldReset_leave k
    rw [if_neg (by simp [htrip'])] at hst
    rw [State.resetFor_cold (by rw [State.until_rings]; exact h)]
    exact ⟨hr, fun _ => ⟨hc.of_until, hst⟩, fun h' => absurd h h'⟩
  · obtain ⟨hk, hr, hcnt, -⟩ := (s.until at_).warmReset_spec k
    obtain ⟨hcold, hdue⟩ := not_or.1 h
    rw [Bool.eq_false_iff.2 hcold, State.resetFor_warm (by rw [State.until_rings]; exact hdue)]
    exact ⟨hr, fun h' => absurd h' (by simpa using hdue), fun _ => ⟨hk.of_until, hcnt.trans hcount⟩⟩

/-- A SYS_RESET falls due in the cycle in which time stands once it has passed up to `at_`. -/
abbrev State.AlsoReset (s : State) (at_ : Nat) : Prop :=
  s.rings.resetReq.isSome = true ∧ s.rings.resetAt + 100000 = max s.tempo.count at_

theorem State.resetDue_until (s : State) (at_ : Nat) : (s.until at_).resetDue = true ↔ s.AlsoReset at_ := by
  simp [State.resetDue, State.until_count]

theorem exec_commandedReset_none {s : State} (hon : s.on = true) (h : s.rings.resetReq = none) : exec .commandedReset s = .next s := by
  show execCommandedReset s = _
  rw [execCommandedReset, ifOn_on hon, h]

theorem exec_commandedReset_some {s : State} {deep : Bool} (hon : s.on = true) (h : s.rings.resetReq = some deep) :
    exec .commandedReset s = .next ((s.until (s.rings.resetAt + 100000)).resetFor 4 deep) := by
  show execCommandedReset s = _
  rw [execCommandedReset, ifOn_on hon, h]

theorem commandedReset_resets : Occurs .commandedReset (fun s => s.pwr.tripped = false) fun s t => (s.rings.resetReq = none → t = s) ∧
    ∀ deep, s.rings.resetReq = some deep → s.pwr.Marks t.pwr 4 ∧
      (s.pwr.instant = false → s.pwr.wdogEnd ≠ some (max s.tempo.count (s.rings.resetAt + 100000)) → s.pwr.MarksOnly t.pwr 4) ∧
      if deep then s.Cleared t ∧ t.Starts else s.Kept t ∧ t.tempo.count = max s.tempo.count (s.rings.resetAt + 100000) := by
  intro s hon htrip
  obtain h | ⟨deep, h⟩ := s.rings.resetReq.eq_none_or_eq_some
  · exact ⟨s, exec_commandedReset_none hon h, fun _ => rfl, fun _ e => nomatch h.symm.trans e⟩
  refine ⟨(s.until (s.rings.resetAt + 100000)).resetFor 4 deep, exec_commandedReset_some hon h,
    fun e => absurd (h.symm.trans e) (Option.some_ne_none _), fun _ e => ?_⟩
  obtain rfl := Option.some.inj (h.symm.trans e)
  have aged := s.until_aged (s.rings.resetAt + 100000)
  obtain ⟨hr, hcold, hwarm⟩ := s.until_resetFor (s.rings.resetAt + 100000) 4 deep htrip
  refine ⟨aged.marks (hr.marks (by omega) List.mem_cons_self), fun hi hw => ?_, ?_⟩
  · have only := hr.marksOnly (aged.instant hi) (by omega) fun x hx => ?_
    · rw [Power.MarksOnly, ← aged.rstrsn]; exact only
    · obtain ⟨-, hd⟩ | ⟨rfl, -⟩ := State.mem_alsoDue.1 hx
      · rw [aged.wdogEnd, State.until_count] at hd
        exact absurd hd hw
      · rfl
  · cases deep with
    | true => exact hcold (.inl rfl)
    | false => exact hwarm (by simp [h])

theorem exec_cdrWdog_none {s : State} (hon : s.on = true) (h : s.pwr.wdogEnd = none) : exec .cdrWdog s = .next s := by
  show execCdrWdog s = _
  rw [execCdrWdog, ifOn_on hon, h]

theorem exec_cdrWdog_some {s : State} {e : Nat} (hon : s.on = true) (h : s.pwr.wdogEnd = some e) :
    exec .cdrWdog s = .next ((s.until e).resetFor 5 false) := by
  show execCdrWdog s = _
  rw [execCdrWdog, ifOn_on hon, h]

/-- The watchdog expires; a SYS_RESET due in the same cycle is recorded as well, and LAST names it (03 R98). -/
theorem cdrWdog_resets : Occurs .cdrWdog (fun s => s.pwr.tripped = false) fun s t => (s.pwr.wdogEnd = none → t = s) ∧
    ∀ e, s.pwr.wdogEnd = some e → s.pwr.Marks t.pwr 5 ∧
      (s.pwr.instant = false → ¬s.AlsoReset e → s.pwr.MarksOnly t.pwr 5) ∧
      (s.AlsoReset e → t.pwr.rstrsn.getLsbD 4 = true ∧ (s.pwr.instant = false → bits t.pwr.rstrsn 12 4 = 5)) ∧
      if s.AlsoReset e ∧ s.rings.resetReq = some true then s.Cleared t ∧ t.Starts else s.Kept t ∧ t.tempo.count = max s.tempo.count e := by
  intro s hon htrip
  obtain h | ⟨e, h⟩ := s.pwr.wdogEnd.eq_none_or_eq_some
  · exact ⟨s, exec_cdrWdog_none hon h, fun _ => rfl, fun _ he => nomatch h.symm.trans he⟩
  refine ⟨(s.until e).resetFor 5 false, exec_cdrWdog_some hon h, fun he => absurd (h.symm.trans he) (Option.some_ne_none _), fun _ he => ?_⟩
  obtain rfl := Option.some.inj (h.symm.trans he)
  have aged := s.until_aged e
  obtain ⟨hr, hcold, hwarm⟩ := s.until_resetFor e 5 false htrip
  rw [State.resetDue_until] at hcold hwarm
  refine ⟨aged.marks (hr.marks (by omega) List.mem_cons_self), fun hi hd => ?_, fun hd => ?_, ?_⟩
  · have only := hr.marksOnly (aged.instant hi) (by omega) fun x hx => ?_
    · rw [Power.MarksOnly, ← aged.rstrsn]; exact only
    · obtain ⟨rfl, -⟩ | ⟨-, hx⟩ := State.mem_alsoDue.1 hx
      · rfl
      · exact absurd ((s.resetDue_until e).1 hx) hd
  · have due : 4 ∈ 5 :: (s.until e).alsoDue := List.mem_cons_of_mem _ (State.mem_alsoDue.2 (.inr ⟨rfl, (s.resetDue_until e).2 hd⟩))
    refine ⟨hr.bit (by omega) due, fun hi => hr.last (aged.instant hi) (List.forall_mem_cons.2 ⟨by omega, fun x => State.alsoDue_lt⟩) due
      (List.forall_mem_cons.2 ⟨by omega, fun x hx => ?_⟩)⟩
    obtain ⟨rfl, -⟩ | ⟨rfl, -⟩ := State.mem_alsoDue.1 hx <;> omega
  · split
    · rename_i hd; exact hcold (.inr hd)
    · rename_i hd; exact hwarm (by simpa using hd)

theorem State.sysWrite_kick (s : State) (w : Initiator) (v : Word) : s.sysWrite w 0x1C v =
    if w = .conductor ∧ bits v 0 12 = 0x5A5 ∧ s.pwr.wdogEnd.isSome = true then s.kickWatchdog else s := by
  by_cases hw : w = .conductor
  · subst hw
    simp [State.sysWrite, State.mayW1c, Initiator.isCdr, State.sysConfig]
  · simp [State.sysWrite, Initiator.isCdr, hw]

theorem wdogKick_completes (w : Initiator) (v : Word) : Accesses (.wdogKick w v) w (fun _ => True) fun s t =>
    t = if w = .conductor ∧ bits v 0 12 = 0x5A5 ∧ s.pwr.wdogEnd.isSome = true then
        { s with pwr := { s.pwr with wdogEnd := some (s.tempo.count + max 1 s.pwr.wdogPeriod.toNat * 1000000) } }
      else s := by
  intro s hact _
  exact ⟨_, ifActs_acts (f := fun s => s.sysWrite w 0x1C v) hact, State.sysWrite_kick _ w v⟩

end Sys2Proof.Machine

open Sys2Proof Sys2Proof.Machine

/-- Settles O52: a reset records its cause with those due in its cycle, clears or keeps the domains of its kind, and starts the sentinel
unless a trip holds the device. -/
theorem resetsAndSupplies : Obligations.ResetsAndSupplies :=
  ⟨porstN_cold, porstN_warmToo, fun _ railsOk rail h => ⟨porstNRelease_low railsOk rail h, porstNRelease_leaves h⟩,
    fun _ slept => ⟨warmrstN_play slept, warmrstN_fermata slept, warmrstN_held slept⟩, vaonLoss_resets,
    fun rail => ⟨brownout_running rail, fun s => ⟨brownout_held rail s, supplyWarning_completes rail s, supplyWarningEnd_completes rail s⟩⟩,
    fun s tj => ⟨thermalWarning_completes s tj, thermalTrip_completes s tj, tjBelowWarning_completes s tj⟩,
    debugReset_resets, commandedReset_resets, cdrWdog_resets, wdogKick_completes⟩
end

section
/-! SUPPORT. A wake from Fermata that ends an outstanding BAR_CONFIG (19 Table 19.4; 02 R62), against O53. -/
namespace Sys2Proof.Machine

/-- A device in Fermata that WAKE0_N wakes, with an armed configuration whose BAR_CONFIG is still outstanding. The release of core 0 after
the wake restarts the bars, which judges the configuration and answers the command. POWER_ENTER is refused while a command is outstanding
(R418), but the statement asks the wake of every state. -/
def State.asleepWithConfig : State :=
  { State.reset with
    pwr := { State.reset.pwr with state := .fermata, wakeMask := 1, wasReleased := 1 }
    bar := { State.reset.bar with run := true, resumeDue := true, garm := true }
    rings := { State.reset.rings with
      active := [{ ring := 0, seq := 0, tag := 0, op := barConfigOp, params := [], startAt := 0, committed := false, resv := 0, aux := 0 }] } }

theorem exec_fermataWake_asleep {s : State} (ev : WakeEvent) (slept : Nat) (h : s.pwr.state = .fermata) :
    exec (.fermataWake ev slept) s = .next (s.fermataEvent ev slept) := by
  show execFermataWake ev slept s = _
  rw [execFermataWake, if_pos h]

/-- The reply of the BAR_CONFIG is written into Stage SRAM, all of which read zero asleep. -/
theorem State.asleepWithConfig_wake_writes : (State.asleepWithConfig.fermataEvent (.pin 0) 0).stage ≠ State.asleepWithConfig.stage := by
  decide +kernel

end Sys2Proof.Machine

open Sys2Proof Sys2Proof.Machine

/-- Refutes O53: a wake from Fermata need not leave Stage SRAM as it was, for the bars that it restarts answer an outstanding BAR_CONFIG
into its ring. -/
theorem not_sleepAndWake : ¬ Obligations.SleepAndWake := by
  rintro ⟨-, -, -, hwake, -⟩
  obtain ⟨⟨t, he, -, -, -, hawake⟩, -⟩ := hwake State.asleepWithConfig (.pin 0) 0
  obtain ⟨-, -, -, -, -, -, -, -, -, hstage, -⟩ := hawake rfl (by decide)
  rw [exec_fermataWake_asleep _ _ rfl] at he
  obtain rfl := Host.Outcome.next.inj he
  exact State.asleepWithConfig_wake_writes hstage
end

section
/-! SUPPORT. What an access to memory leaves alone (03 section 3.4, 06 R212, 09 R860). -/
namespace Sys2Proof.Machine

/-- A state without its memory: the words and their check bits, the caches, the controller, Echo but for the writes that wait in it, the
Health events that errors post, and the cores' reservations. -/
def State.sansMemory (s : State) : State :=
  { s with
    dram := [], chk := [], stage := [], stageBad := [], caches := Caches.reset, mc := MemCtl.reset, health := Health.reset
    echo := { Echo.reset with stalled := s.echo.stalled }, cores := s.cores.map fun v => { v with resv := none } }

/-- What each operation of a fold leaves of a state, the fold leaves. -/
theorem State.foldl_sansMemory {α : Type} (f : State → α → State) (h : ∀ s a, (f s a).sansMemory = s.sansMemory) (l : List α) (s : State) :
    (l.foldl f s).sansMemory = s.sansMemory := State.fold_keeps _ f h l s

/-! Reads of DRAM. -/

theorem State.post_sansMemory (s : State) (src : BitVec 12) (kind : BitVec 2) : (s.post src kind).sansMemory = s.sansMemory := by
  unfold State.post
  split
  · rfl
  · split <;> rfl

theorem State.logCe_sansMemory (s : State) (rk : RdKind) (line beat dev : Nat) : (s.logCe rk line beat dev).sansMemory = s.sansMemory :=
  State.post_sansMemory _ _ _

theorem State.logUe_sansMemory (s : State) (rk : RdKind) (line beat : Nat) (marker : Bool) :
    (s.logUe rk line beat marker).sansMemory = s.sansMemory := State.post_sansMemory _ _ _

theorem State.setChk_sansMemory (s : State) (key : Nat) (e : BitVec 8) : (s.setChk key e).sansMemory = s.sansMemory := rfl

theorem State.flipData_sansMemory (s : State) (line beat i : Nat) : (s.flipData line beat i).sansMemory = s.sansMemory := by
  unfold State.flipData
  dsimp only
  split <;> rfl

theorem State.readBeat_sansMemory (s : State) (rk : RdKind) (line beat : Nat) : (s.readBeat rk line beat).1.sansMemory = s.sansMemory := by
  unfold State.readBeat
  dsimp only
  split
  · rfl
  · rw [State.logCe_sansMemory, State.setChk_sansMemory]
  · rw [State.logCe_sansMemory, State.setChk_sansMemory, State.flipData_sansMemory]
  · rw [State.logUe_sansMemory]
  · rw [State.logUe_sansMemory, State.setChk_sansMemory]

theorem State.readBeats_sansMemory (s : State) (rk : RdKind) (line : Nat) (beats : List Nat) :
    (s.readBeats rk line beats).1.sansMemory = s.sansMemory := by
  unfold State.readBeats
  generalize (0 : BitVec 8) = m
  induction beats generalizing s m with
  | nil => rfl
  | cons b beats ih => exact (ih _ _).trans (s.readBeat_sansMemory rk line b)

theorem State.readWords_sansMemory (s : State) (snoop : Bool) (a n : Nat) (last : Option (Nat × Bool)) :
    (s.readWords snoop a n last).1.sansMemory = s.sansMemory := by
  induction n generalizing s a last with
  | zero => rfl
  | succ n ih =>
    rw [State.readWords]
    split
    · exact ih s (a + 1) none
    · refine (ih _ (a + 1) _).trans ?_
      split
      · split
        · rfl
        · exact s.readBeat_sansMemory _ _ _
      · rfl

/-- A read by a member of the coherence domain. -/
theorem State.domainRead_sansMemory {s : State} {a n : Nat} {r : State × List (Word × Bool)} (h : s.domainRead a n = some r) :
    r.1.sansMemory = s.sansMemory := by
  unfold State.domainRead at h
  split at h
  · cases h; exact s.readWords_sansMemory true a n none
  · cases h

/-! The directory of cached lines, and reservations. -/

theorem State.putLine_sansMemory (s : State) (l : CacheLine) : (s.putLine l).sansMemory = s.sansMemory := rfl

theorem VoiceCore.ite_resv (b : Bool) (v : VoiceCore) :
    { (if b then { v with resv := none } else v : VoiceCore) with resv := none } = { v with resv := none } := by
  cases b <;> rfl

theorem State.clearResv_sansMemory (s : State) (line : Nat) (p : Fin 12 → Bool) : (s.clearResv line p).sansMemory = s.sansMemory := by
  have h : (s.clearResv line p).cores.map (fun v => { v with resv := none }) = s.cores.map fun v => { v with resv := none } := by
    apply Vector.ext
    intro i hi
    simp only [State.clearResv, State.mapCores, State.core, Vector.getElem_map, Vector.getElem_ofFn, Fin.getElem_fin]
    exact VoiceCore.ite_resv _ _
  unfold State.sansMemory
  rw [h]
  rfl

theorem State.dropLine_sansMemory (s : State) (line : Nat) : (s.dropLine line).sansMemory = s.sansMemory :=
  s.clearResv_sansMemory line fun _ => true

theorem State.dropSection_sansMemory (s : State) (sec : Fin 3) (line : Nat) : (s.dropSection sec line).sansMemory = s.sansMemory := by
  unfold State.dropSection
  split
  · rfl
  · exact State.clearResv_sansMemory _ _ _

theorem State.dropSite_sansMemory (s : State) (site : CacheSite) (line : Nat) : (s.dropSite site line).sansMemory = s.sansMemory := by
  unfold State.dropSite
  split
  · rfl
  · split
    · rfl
    · split
      · exact State.clearResv_sansMemory _ _ _
      · rfl
    · exact s.dropSection_sansMemory _ _
    · rfl

theorem State.settleLine_sansMemory (s : State) (line : Nat) (ws : List WrWord) : (s.settleLine line ws).sansMemory = s.sansMemory := by
  unfold State.settleLine
  split <;> rfl

theorem State.snoopWrite_sansMemory (s : State) (line : Nat) (ws : List WrWord) : (s.snoopWrite line ws).sansMemory = s.sansMemory := by
  unfold State.snoopWrite
  dsimp only
  split
  · exact State.clearResv_sansMemory _ _ _
  · exact (State.putLine_sansMemory _ _).trans (State.clearResv_sansMemory _ _ _)

/-! Writes. -/

theorem State.writeBeat_sansMemory (s : State) (line beat : Nat) (ws : List WrWord) : (s.writeBeat line beat ws).sansMemory = s.sansMemory := by
  unfold State.writeBeat
  dsimp only
  rw [State.setChk_sansMemory]
  split
  · rfl
  · exact s.readBeat_sansMemory _ _ _

theorem Echo.mark_stalled (e : Echo) (addrs : List Nat) : (e.mark addrs).stalled = e.stalled := by
  unfold Echo.mark
  split <;> rfl

theorem State.withEcho_sansMemory (s : State) {e : Echo} (h : e.stalled = s.echo.stalled) : { s with echo := e }.sansMemory = s.sansMemory := by
  unfold State.sansMemory
  rw [h]

theorem State.writeDram_sansMemory (s : State) (line : Nat) (ws : List WrWord) : (s.writeDram line ws).sansMemory = s.sansMemory := by
  unfold State.writeDram
  refine (State.withEcho_sansMemory _ (Echo.mark_stalled _ _)).trans (State.foldl_sansMemory _ (fun s b => ?_) _ s)
  dsimp only
  split
  · rfl
  · exact s.writeBeat_sansMemory _ _ _

theorem State.store_sansMemory (s : State) (line : Nat) (ws : List WrWord) : (s.store line ws).sansMemory = s.sansMemory := by
  unfold State.store
  dsimp only
  split
  · rfl
  · split
    · rfl
    · exact s.writeDram_sansMemory _ _

theorem State.echoCopy_sansMemory (s : State) (line : Nat) : (s.echoCopy line).sansMemory = s.sansMemory :=
  (State.withEcho_sansMemory (s.readBeats .demand line (List.range 8)).1 rfl).trans (s.readBeats_sansMemory _ _ _)

theorem State.performed_sansMemory (s : State) (x : Stalled) (ws : List WrWord) : (s.performed x ws).sansMemory = s.sansMemory := by
  unfold State.performed
  rw [State.store_sansMemory]
  split
  · exact s.echoCopy_sansMemory _
  · rfl

/-- A write that is performed. -/
theorem State.complete_sansMemory (s : State) (later : List Stalled) (x : Stalled) : (s.complete later x).sansMemory = s.sansMemory := by
  unfold State.complete
  dsimp only
  split
  · split
    · rw [State.dropSite_sansMemory, State.settleLine_sansMemory, State.performed_sansMemory]
    · rw [State.settleLine_sansMemory, State.performed_sansMemory]
  · split
    · exact s.performed_sansMemory _ _
    · split
      · rw [State.clearResv_sansMemory, State.performed_sansMemory]
      · split
        · rw [State.snoopWrite_sansMemory, State.performed_sansMemory]
        · rw [State.dropLine_sansMemory, State.performed_sansMemory]

/-! Writes that may wait on Echo. -/

/-- A state without its memory and without the writes that wait in Echo. -/
def State.sansAccess (s : State) : State := { s.sansMemory with echo := Echo.reset }

theorem State.sansAccess_of_sansMemory {s t : State} (h : t.sansMemory = s.sansMemory) : t.sansAccess = s.sansAccess :=
  congrArg (fun x : State => { x with echo := Echo.reset }) h

theorem State.xflash_of_sansAccess {s t : State} (h : t.sansAccess = s.sansAccess) : t.xflash = s.xflash :=
  (congrArg (fun x : State => x.xflash) h : t.sansAccess.xflash = s.sansAccess.xflash)

theorem State.bm_of_sansAccess {s t : State} (h : t.sansAccess = s.sansAccess) : t.bm = s.bm :=
  (congrArg (fun x : State => x.bm) h : t.sansAccess.bm = s.sansAccess.bm)

theorem State.io_of_sansMemory {s t : State} (h : t.sansMemory = s.sansMemory) : t.io = s.io :=
  (congrArg (fun x : State => x.io) h : t.sansMemory.io = s.sansMemory.io)

/-- A write with which nothing else completes is performed or waits. -/
theorem State.tryWrite_sansAccess (s : State) (later : List Stalled) {x : Stalled} (hx : x.fin = []) :
    (s.tryWrite later x).1.sansAccess = s.sansAccess := by
  unfold State.tryWrite
  split
  · rfl
  · rfl
  · rw [hx]; exact State.sansAccess_of_sansMemory (s.complete_sansMemory _ _)

theorem State.writeLine_sansAccess (s : State) {x : Stalled} (hw : x.who ≠ some .landing) (hx : x.fin = []) :
    (s.writeLine x).1.sansAccess = s.sansAccess := by
  unfold State.writeLine
  rw [if_neg (by simp [hw])]
  exact s.tryWrite_sansAccess [] hx

/-- A write by a member of the coherence domain, the landing engine apart. -/
theorem State.domainWrite_sansAccess (s : State) {w : Initiator} (hw : w ≠ .landing) (a : Nat) (data : List Word) :
    (s.domainWrite w a data).1.sansAccess = s.sansAccess := by
  unfold State.domainWrite
  dsimp only
  split
  · exact State.fold_keeps _ _ (fun s g => s.writeLine_sansAccess (by simpa using hw) rfl) _ s
  · rfl

/-! While no stream reads and no write waits, every write is performed. -/

/-- No stream is in progress, and no write waits on Echo. -/
def State.EchoQuiet (s : State) : Prop := s.refrain.stream = none ∧ s.echo.stalled = []

theorem State.EchoQuiet.of_sansMemory {s t : State} (hq : s.EchoQuiet) (h : t.sansMemory = s.sansMemory) : t.EchoQuiet := by
  have hr : t.refrain = s.refrain := (congrArg (fun x : State => x.refrain) h : t.sansMemory.refrain = s.sansMemory.refrain)
  have he : t.echo.stalled = s.echo.stalled :=
    (congrArg (fun x : State => x.echo.stalled) h : t.sansMemory.echo.stalled = s.sansMemory.echo.stalled)
  rw [State.EchoQuiet, hr, he]
  exact hq

theorem State.EchoQuiet.stalledBy {s : State} (hq : s.EchoQuiet) (w : Initiator) : s.stalledBy w = false := by
  rw [State.stalledBy, hq.2]
  rfl

theorem State.EchoQuiet.waiting {s : State} (hq : s.EchoQuiet) : s.echo.waiting = [] := by
  rw [Echo.waiting, hq.2]
  rfl

theorem State.EchoQuiet.wayOf {s : State} (hq : s.EchoQuiet) (x : Stalled) : s.wayOf x = .plain := by
  have hw : x.who.any s.stalledBy = false := by cases x.who <;> simp [hq.stalledBy]
  have hn : s.notYetStreamed x.line = false := by rw [State.notYetStreamed, hq.1]
  unfold State.wayOf State.writeWay
  simp [hw, hn]

theorem State.EchoQuiet.tryWrite {s : State} (hq : s.EchoQuiet) (later : List Stalled) {x : Stalled} (hx : x.fin = []) :
    (s.tryWrite later x).1.sansMemory = s.sansMemory := by
  unfold State.tryWrite
  rw [hq.wayOf, hx]
  exact s.complete_sansMemory _ _

theorem State.EchoQuiet.writeLine {s : State} (hq : s.EchoQuiet) {x : Stalled} (hx : x.fin = []) :
    (s.writeLine x).1.sansMemory = s.sansMemory := by
  unfold State.writeLine
  rw [hq.wayOf, if_neg (by simp)]
  exact hq.tryWrite [] hx

theorem State.EchoQuiet.domainWrite {s : State} (hq : s.EchoQuiet) (w : Initiator) (a : Nat) (data : List Word) :
    (s.domainWrite w a data).1.sansMemory = s.sansMemory := by
  have fold (l : List (Nat × List WrWord)) (t : State) (ht : t.sansMemory = s.sansMemory) :
      (l.foldl (fun s g => (s.writeLine { line := g.1, who := some w, wb := false, ws := g.2, own := false, drop := none }).1) t).sansMemory =
        s.sansMemory := by
    induction l generalizing t with
    | nil => exact ht
    | cons g l ih => exact ih _ (((hq.of_sansMemory ht).writeLine rfl).trans ht)
  unfold State.domainWrite
  dsimp only
  split
  · exact fold _ s rfl
  · rfl

/-- An engine that no write of its own waits for completes its buffer at once. -/
theorem State.EchoQuiet.dmaDone {s : State} (hq : s.EchoQuiet) (eng : Initiator) (d : DmaDone) : s.dmaDone eng d = s.tell d := by
  rw [State.dmaDone, hq.stalledBy, if_neg (by simp)]

end Sys2Proof.Machine
end

section
/-! SUPPORT. SPI, I2C and UART: what a register access or an event makes of its unit (17 R717 to R719, Table 17.8). -/
namespace Sys2Proof.Machine

/-! Changes of one unit. -/

theorem State.modSpi_congr {s : State} {n : Fin 4} {f g : Spi → Spi} (h : f (s.spi n) = g (s.spi n)) : s.modSpi n f = s.modSpi n g := by
  rw [State.modSpi, h, State.modSpi]

theorem State.modSpi_eq_self {s : State} {n : Fin 4} {f : Spi → Spi} (h : f (s.spi n) = s.spi n) : s.modSpi n f = s :=
  (State.modSpi_congr h).trans (s.modSpi_id n)

theorem State.modI2c_congr {s : State} {n : Fin 4} {f g : I2c → I2c} (h : f (s.i2c n) = g (s.i2c n)) : s.modI2c n f = s.modI2c n g := by
  rw [State.modI2c, h, State.modI2c]

theorem State.modI2c_eq_self {s : State} {n : Fin 4} {f : I2c → I2c} (h : f (s.i2c n) = s.i2c n) : s.modI2c n f = s :=
  (State.modI2c_congr h).trans (s.modI2c_id n)

theorem State.modUart_congr {s : State} {n : Fin 4} {f g : Uart → Uart} (h : f (s.uart n) = g (s.uart n)) :
    s.modUart n f = s.modUart n g := by
  rw [State.modUart, h, State.modUart]

theorem State.modUart_eq_self {s : State} {n : Fin 4} {f : Uart → Uart} (h : f (s.uart n) = s.uart n) : s.modUart n f = s :=
  (State.modUart_congr h).trans (s.modUart_id n)

/-! SPI. -/

/-- The unit is enabled and no frame is in progress. -/
def Spi.Ready (x : Spi) : Prop := x.ctl.getLsbD 0 = true ∧ x.busy = none

theorem Spi.kick_ready {x : Spi} (h : x.Ready) : x.kick = { x with tx := x.tx.tail, busy := x.tx.head? } := by
  obtain ⟨hc, hb⟩ := h
  unfold Spi.kick
  rw [if_pos (by simp [hc, hb])]
  cases htx : x.tx with
  | nil => cases x; subst hb htx; rfl
  | cons t ts => rfl

theorem Spi.kick_not_ready {x : Spi} (h : ¬x.Ready) : x.kick = x := by
  unfold Spi.kick
  rw [if_neg (by simpa [Spi.Ready] using h)]

/-- What a start of the next frame never changes. -/
theorem Spi.kick_keeps (x : Spi) : x.kick.rx = x.rx ∧ x.kick.flags = x.flags := by
  by_cases h : x.Ready
  · rw [Spi.kick_ready h]; exact ⟨rfl, rfl⟩
  · rw [Spi.kick_not_ready h]; exact ⟨rfl, rfl⟩

theorem Spi.push_full {x : Spi} (v : Word) (h : 32 ≤ x.tx.length) : x.push v = x := if_pos h

theorem Spi.push_room {x : Spi} (v : Word) (h : x.tx.length < 32) : x.push v = ({ x with tx := x.tx ++ [v] } : Spi).kick :=
  if_neg (by omega)

theorem spiTx_pushes (w : Initiator) (n : Fin 4) (v : Word) : Accesses (.spiTx w n v) w (fun _ => True) fun s t =>
    (32 ≤ (s.spi n).tx.length → t = s) ∧
    ((s.spi n).tx.length < 32 → (s.spi n).Ready →
      t = s.modSpi n fun x => { x with tx := (x.tx ++ [v]).tail, busy := (x.tx ++ [v]).head? }) ∧
    ((s.spi n).tx.length < 32 → ¬(s.spi n).Ready → t = s.modSpi n fun x => { x with tx := x.tx ++ [v] }) := by
  refine Accesses.of (f := fun s => s.modSpi n fun x => x.push v) (fun _ => rfl) fun s _ =>
    ⟨fun hfull => ?_, fun hroom hr => ?_, fun hroom hr => ?_⟩
  · exact State.modSpi_eq_self (Spi.push_full v hfull)
  · exact State.modSpi_congr ((Spi.push_room v hroom).trans (Spi.kick_ready hr))
  · exact State.modSpi_congr ((Spi.push_room v hroom).trans (Spi.kick_not_ready hr))

/-- The frame in progress has ended with received data `v`, and the next has not yet started. -/
def Spi.frameEnd (x : Spi) (v : Word) : Spi :=
  { x with
    busy := none, rx := if 32 ≤ x.rx.length then x.rx else x.rx ++ [v &&& x.mask]
    flags := x.flags ||| flag 2 0 (32 ≤ x.rx.length) ||| 2 }

theorem Spi.frameEnd_flags (x : Spi) (v : Word) : (x.frameEnd v).flags.getLsbD 1 = true ∧
    (x.frameEnd v).flags.getLsbD 0 = (x.flags.getLsbD 0 || 32 ≤ x.rx.length) := by
  unfold Spi.frameEnd flag bitAt
  by_cases h : 32 ≤ x.rx.length <;> simp [h]

theorem spiFrameDone_ends (n : Fin 4) (v : Word) : Occurs (.spiFrameDone n v) (fun _ => True) fun s t =>
    ((s.spi n).busy = none → t = s) ∧ ((s.spi n).busy ≠ none →
      (t.spi n).rx = (if 32 ≤ (s.spi n).rx.length then (s.spi n).rx else (s.spi n).rx ++ [v &&& (s.spi n).mask]) ∧
      (t.spi n).flags.getLsbD 1 = true ∧ (t.spi n).flags.getLsbD 0 = ((s.spi n).flags.getLsbD 0 || 32 ≤ (s.spi n).rx.length) ∧
      ((s.spi n).ctl.getLsbD 0 = true → (t.spi n).busy = (s.spi n).tx.head? ∧ (t.spi n).tx = (s.spi n).tx.tail) ∧
      ∀ k, k ≠ n → t.spi k = s.spi k) := by
  refine Occurs.of (fun _ => rfl) fun s _ _ => ⟨fun hb => State.modSpi_eq_self (if_pos (by simp [hb])), fun hb => ?_⟩
  rw [State.modSpi_congr (g := fun x => (x.frameEnd v).kick) (if_neg (by simpa using hb)), State.modSpi_same]
  obtain ⟨hrx, hflags⟩ := ((s.spi n).frameEnd v).kick_keeps
  obtain ⟨h1, h0⟩ := (s.spi n).frameEnd_flags v
  rw [hrx, hflags]
  refine ⟨rfl, h1, h0, fun hc => ?_, fun k hk => s.modSpi_other n k _ hk⟩
  rw [Spi.kick_ready (x := (s.spi n).frameEnd v) ⟨hc, rfl⟩]
  exact ⟨rfl, rfl⟩

theorem spiRx_pops (w : Initiator) (n : Fin 4) :
    Accesses (.spiRx w n) w (fun _ => True) fun s t => t = s.modSpi n fun x => { x with rx := x.rx.tail } :=
  Accesses.of (fun _ => rfl) fun _ _ => rfl

/-! I2C. -/

/-- The unit is enabled and not addressed as a target, and its front command has this OP. -/
def I2c.Front (x : I2c) (op : BitVec 3) : Prop := x.ctl.getLsbD 0 = true ∧ x.asTarget = none ∧ ∃ c, x.cmds.head? = some c ∧ bits c 8 3 = op

theorem I2c.atFront_iff (x : I2c) (op : BitVec 3) : x.atFront op = true ↔ x.Front op := by
  unfold I2c.atFront I2c.Front
  cases x.cmds <;> simp [and_assoc]

/-- The event changes I2C unit `n` by `f` where `ok` holds of it, and is without effect elsewhere. -/
def I2cStep (n : Fin 4) (i : Instr) (ok : I2c → Prop) (f : I2c → I2c) : Prop :=
  Occurs i (fun _ => True) fun s t => (ok (s.i2c n) → t = s.modI2c n f) ∧ (¬ok (s.i2c n) → t = s)

theorem I2cStep.of {i : Instr} {n : Fin 4} {b : I2c → Bool} {ok : I2c → Prop} {f : I2c → I2c}
    (hi : ∀ s, exec i s = ifOn s fun s => s.modI2c n fun x => if b x then f x else x) (hb : ∀ x, b x = true ↔ ok x) : I2cStep n i ok f :=
  Occurs.of hi fun _ _ _ =>
    ⟨fun h => State.modI2c_congr (if_pos ((hb _).2 h)), fun h => State.modI2c_eq_self (if_neg fun hx => h ((hb _).1 hx))⟩

theorem I2c.atFront_open_iff (x : I2c) (op : BitVec 3) : (x.atFront op && x.onBus) = true ↔ x.Front op ∧ x.onBus = true := by
  rw [Bool.and_eq_true, I2c.atFront_iff]

theorem I2c.receive_eq (x : I2c) (b : Byte) : x.receive b = { x with rx := if 16 ≤ x.rx.length then x.rx else x.rx ++ [b] } := by
  unfold I2c.receive
  split <;> rfl

theorem i2cTargetByte_passes (n : Fin 4) (ack : Bool) (b : Byte) : Occurs (.i2cTargetByte n ack b) (fun _ => True) fun s t =>
    ((s.i2c n).asTarget ≠ some ack → t = s) ∧
    ((s.i2c n).asTarget = some ack → ack = false →
      t = s.modI2c n fun x => { x with rx := if 16 ≤ x.rx.length then x.rx else x.rx ++ [b] }) ∧
    ((s.i2c n).asTarget = some ack → ack = true →
      (∀ c cs, (s.i2c n).cmds = c :: cs → bits c 8 3 = 2 → t = s.modI2c n fun x => { x with cmds := cs, stretch := cs.isEmpty }) ∧
      ((∀ c cs, (s.i2c n).cmds = c :: cs → bits c 8 3 ≠ 2) → t = s.modI2c n fun x => { x with stretch := true })) := by
  refine Occurs.of (fun _ => rfl) fun s _ _ => ⟨fun h => State.modI2c_eq_self (if_pos h), fun h ha => ?_, fun h ha => ?_⟩
  · subst ha
    exact State.modI2c_congr ((if_neg (not_not_intro h)).trans (I2c.receive_eq _ _))
  · subst ha
    refine ⟨fun c cs hcs hc => State.modI2c_congr ?_, fun hne => State.modI2c_congr ?_⟩
    · simp [h, hcs, hc]
    · cases hcs : (s.i2c n).cmds with
      | nil => simp [h]
      | cons c cs => simpa [h] using hne c cs hcs

/-- The unit after a byte or an address that it sent. -/
def I2c.afterSent (ack arb : Bool) (x : I2c) : I2c :=
  { x with cmds := x.cmds.tail, onBus := !arb, flags := x.flags ||| flag 4 0 (!ack && !arb) ||| flag 4 1 arb }

/-- The unit after a byte that it read. -/
def I2c.afterRead (b : Byte) (x : I2c) : I2c := { x with cmds := x.cmds.tail, rx := if 16 ≤ x.rx.length then x.rx else x.rx ++ [b] }

theorem I2c.afterRead_eq (b : Byte) : (fun x : I2c => ({ x with cmds := x.cmds.tail } : I2c).receive b) = I2c.afterRead b :=
  funext fun x => I2c.receive_eq { x with cmds := x.cmds.tail } b

theorem i2cStart_sends (n : Fin 4) (ack arb : Bool) : I2cStep n (.i2cStart n ack arb) (fun x => x.Front 1) (I2c.afterSent ack arb) :=
  I2cStep.of (fun _ => rfl) fun x => x.atFront_iff 1

theorem i2cWrite_sends (n : Fin 4) (ack arb : Bool) :
    I2cStep n (.i2cWrite n ack arb) (fun x => x.Front 2 ∧ x.onBus = true) (I2c.afterSent ack arb) :=
  I2cStep.of (fun _ => rfl) fun x => x.atFront_open_iff 2

theorem i2cReadAck_reads (n : Fin 4) (b : Byte) :
    I2cStep n (.i2cReadAck n b) (fun x => x.Front 3 ∧ x.onBus = true) (I2c.afterRead b) :=
  I2c.afterRead_eq b ▸ I2cStep.of (fun _ => rfl) fun x => x.atFront_open_iff 3

theorem i2cReadNack_reads (n : Fin 4) (b : Byte) :
    I2cStep n (.i2cReadNack n b) (fun x => x.Front 4 ∧ x.onBus = true) (I2c.afterRead b) :=
  I2c.afterRead_eq b ▸ I2cStep.of (fun _ => rfl) fun x => x.atFront_open_iff 4

theorem i2cAddressed_enters (n : Fin 4) (ack : Bool) :
    I2cStep n (.i2cAddressed n ack) (fun x => x.ctl.getLsbD 0 = true ∧ x.ctl.getLsbD 1 = true ∧ x.onBus = false)
      (fun x => { x with asTarget := some ack, stretch := ack && x.cmds.isEmpty, flags := setBit x.flags 2 true }) :=
  I2cStep.of (b := fun x => x.ctl.getLsbD 0 && x.ctl.getLsbD 1 && !x.onBus) (fun _ => rfl) fun x => by
    rw [Bool.and_eq_true, Bool.and_eq_true, Bool.not_eq_true', and_assoc]

theorem i2cStop_ends (n : Fin 4) : Occurs (.i2cStop n) (fun _ => True) fun s t =>
    ((s.i2c n).asTarget ≠ none → t = s.modI2c n fun x => { x with asTarget := none, stretch := false, flags := setBit x.flags 3 true }) ∧
    ((s.i2c n).Front 5 → (s.i2c n).onBus = true →
      t = s.modI2c n fun x => { x with cmds := x.cmds.tail, onBus := false, flags := setBit x.flags 3 true }) ∧
    ((s.i2c n).asTarget = none → ¬((s.i2c n).Front 5 ∧ (s.i2c n).onBus = true) → t = s) := by
  refine Occurs.of (fun _ => rfl) fun s _ _ => ⟨fun h => ?_, fun hf hb => ?_, fun h hn => ?_⟩
  · exact State.modI2c_congr (if_pos (Option.isSome_iff_ne_none.2 h))
  · exact State.modI2c_congr ((if_neg (by simp [hf.2.1])).trans (if_pos ((I2c.atFront_open_iff _ 5).2 ⟨hf, hb⟩)))
  · exact State.modI2c_eq_self ((if_neg (by simp [h])).trans (if_neg fun hx => hn ((I2c.atFront_open_iff _ 5).1 hx)))

theorem i2cRx_pops (w : Initiator) (n : Fin 4) :
    Accesses (.i2cRx w n) w (fun _ => True) fun s t => t = s.modI2c n fun x => { x with rx := x.rx.tail } :=
  Accesses.of (fun _ => rfl) fun _ _ => rfl

theorem I2c.push_full {x : I2c} (v : Word) (h : 16 ≤ x.cmds.length) : x.push v = x := if_pos h

theorem I2c.push_room {x : I2c} (v : Word) (h : x.cmds.length < 16) :
    x.push v = { x with cmds := x.cmds ++ [bits v 0 11], stretch := if bits v 8 3 = 2 then false else x.stretch } := by
  refine (if_neg (by omega)).trans ?_
  by_cases hv : bits v 8 3 = 2
  · simp [hv]
  · rw [decide_eq_true hv, Bool.and_true, if_neg hv]

theorem i2cCmd_pushes (w : Initiator) (n : Fin 4) (v : Word) : Accesses (.i2cCmd w n v) w (fun _ => True) fun s t =>
    (16 ≤ (s.i2c n).cmds.length → t = s) ∧
    ((s.i2c n).cmds.length < 16 → t = s.modI2c n fun x =>
      { x with cmds := x.cmds ++ [bits v 0 11], stretch := if bits v 8 3 = 2 then false else x.stretch }) :=
  Accesses.of (f := fun s => s.modI2c n fun x => x.push v) (fun _ => rfl) fun _ _ =>
    ⟨fun h => State.modI2c_eq_self (I2c.push_full v h), fun h => State.modI2c_congr (I2c.push_room v h)⟩

/-! UART. -/

theorem uartTx_pushes (w : Initiator) (n : Fin 4) (v : Word) : Accesses (.uartTx w n v) w (fun _ => True) fun s t =>
    (32 ≤ (s.uart n).tx.length → t = s) ∧
    ((s.uart n).tx.length < 32 → t = s.modUart n fun x => { x with tx := x.tx ++ [bits v 0 8] }) :=
  Accesses.of (f := fun s => s.modUart n fun x => x.push v) (fun _ => rfl) fun _ _ =>
    ⟨fun h => State.modUart_eq_self (if_pos h), fun h => State.modUart_congr (if_neg (Nat.not_le.2 h))⟩

theorem uartRx_pops (w : Initiator) (n : Fin 4) :
    Accesses (.uartRx w n) w (fun _ => True) fun s t => t = s.modUart n fun x => { x with rx := x.rx.tail } :=
  Accesses.of (fun _ => rfl) fun _ _ => rfl

/-- An entry of the receive FIFO: the data below its three error bits. -/
theorem uartEntry_eq (d : Byte) (perr ferr brk : Bool) :
    (d.setWidth 11 ||| flag 11 8 perr ||| flag 11 9 ferr ||| flag 11 10 brk : BitVec 11) =
      (BitVec.ofBool brk ++ BitVec.ofBool ferr ++ BitVec.ofBool perr ++ d : BitVec 11) := by
  cases perr <;> cases ferr <;> cases brk <;> revert d <;> decide

theorem uartByteReceived_enters (n : Fin 4) (b : Byte) (perr ferr brk : Bool) :
    Occurs (.uartByteReceived n b perr ferr brk) (fun _ => True) fun s t =>
      ((s.uart n).ctl.getLsbD 0 = false → t = s) ∧
      ((s.uart n).ctl.getLsbD 0 = true → 32 ≤ (s.uart n).rx.length → t = s.modUart n fun x => { x with flags := setBit x.flags 0 true }) ∧
      ((s.uart n).ctl.getLsbD 0 = true → (s.uart n).rx.length < 32 → t = s.modUart n fun x => { x with
        rx := x.rx ++ [(BitVec.ofBool brk ++ BitVec.ofBool ferr ++ BitVec.ofBool perr ++ (b &&& x.dataMask) : BitVec 11)] }) := by
  refine Occurs.of (fun _ => rfl) fun s _ _ => ⟨fun h => ?_, fun h hfull => ?_, fun h hroom => ?_⟩
  · exact State.modUart_eq_self (if_pos (by rw [h]; rfl))
  · exact State.modUart_congr ((if_neg (by rw [h]; decide)).trans (if_pos hfull))
  · refine State.modUart_congr ((if_neg (by rw [h]; decide)).trans ((if_neg (by omega)).trans ?_))
    rw [uartEntry_eq]

theorem uartByteTransmitted_leaves (n : Fin 4) : Occurs (.uartByteTransmitted n) (fun _ => True) fun s t =>
    ((s.uart n).ctl.getLsbD 0 = false ∨ (s.uart n).tx = [] → t = s) ∧
    ((s.uart n).ctl.getLsbD 0 = true → (s.uart n).tx ≠ [] → t = s.modUart n fun x => { x with
      tx := x.tx.tail, flags := if x.tx.length = 1 then setBit x.flags 1 true else x.flags }) := by
  refine Occurs.of (fun _ => rfl) fun s _ _ => ⟨fun h => State.modUart_eq_self ?_, fun h hne => State.modUart_congr ?_⟩
  · obtain h | h := h
    · exact if_pos (by rw [h]; rfl)
    · simp [h]
  · obtain ⟨b, bs, hb⟩ := List.exists_cons_of_ne_nil hne
    simp [h, hb]

end Sys2Proof.Machine
end

section
/-! SUPPORT. xSPI: the engine takes a descriptor, performs it and completes it (17 R720, R721, Tables 17.9 and 17.10). -/
namespace Sys2Proof.Machine

/-! The descriptor that the engine takes. -/

/-- The words of a descriptor. -/
def XDesc.ofWords (ws : List Word) : XDesc where
  w0 := ws.getD 0 0
  addr := (ws.getD 1 0).toNat + (bits (ws.getD 2 0) 0 8).toNat * 2 ^ 24
  len := (ws.getD 3 0).toNat
  pa := (paddrOf (ws.getD 4 0) (ws.getD 5 0)).toNat

theorem State.xspiRun_idle {s : State} {op : Nat} {f : State → Fin 2 → XDesc → State × Nat}
    (h : s.io.xspi.nextRing = none ∨ s.stalledBy (.dma .xspi) = true) : s.xspiRun op f = s := by
  unfold State.xspiRun
  obtain h | h := h
  · rw [h]
  · split
    · rfl
    · exact if_pos h

/-- What the engine does with a descriptor that it has read, poisoned words among them or not. -/
def State.xspiTake (s u : State) (ws : List (Word × Bool)) (op : Nat) (r : Fin 2) (f : State → Fin 2 → XDesc → State × Nat) : State :=
  let x := XDesc.ofWords (ws.map Prod.fst)
  let found := (bits x.w0 0 4).toNat
  if ws.any (·.2) then u.xspiStop
  else if found = op then (f u r x).1.xspiDone r x.w0 (f u r x).2
  else if op = 1 && (found = 0 || 5 < found) then u.xspiDone r x.w0 1
  else s

theorem State.xspiRun_ready {s : State} {r : Fin 2} (op : Nat) (f : State → Fin 2 → XDesc → State × Nat)
    (hr : s.io.xspi.nextRing = some r) (hs : s.stalledBy (.dma .xspi) = false) :
    s.xspiRun op f = match s.domainRead (s.io.xspi.descAt r) 8 with
      | none => s.xspiStop
      | some d => s.xspiTake d.1 d.2 op r f := by
  unfold State.xspiRun
  rw [hr]
  dsimp only
  rw [if_neg (by simpa [xspiEngine] using hs)]
  rfl

/-- A poisoned word stops the engine. -/
theorem State.xspiTake_poisoned {s u : State} {ws : List (Word × Bool)} (op : Nat) (r : Fin 2) (f : State → Fin 2 → XDesc → State × Nat)
    (h : ∃ y ∈ ws, y.2 = true) : s.xspiTake u ws op r f = u.xspiStop := if_pos (List.any_eq_true.2 h)

theorem poisoned_none {ws : List (Word × Bool)} (h : ∀ y ∈ ws, y.2 = false) : ws.any (·.2) = false :=
  List.any_eq_false.2 fun y hy => by simp [h y hy]

theorem State.xspiTake_found {s u : State} {ws : List (Word × Bool)} {op : Nat} (r : Fin 2) (f : State → Fin 2 → XDesc → State × Nat)
    (h : ∀ y ∈ ws, y.2 = false) (ho : (bits (XDesc.ofWords (ws.map Prod.fst)).w0 0 4).toNat = op) :
    s.xspiTake u ws op r f = (f u r (XDesc.ofWords (ws.map Prod.fst))).1.xspiDone r (XDesc.ofWords (ws.map Prod.fst)).w0
      (f u r (XDesc.ofWords (ws.map Prod.fst))).2 := by
  unfold State.xspiTake
  dsimp only
  rw [poisoned_none h, if_neg (by decide), if_pos ho]

theorem State.xspiTake_other {s u : State} {ws : List (Word × Bool)} {op : Nat} (r : Fin 2) (f : State → Fin 2 → XDesc → State × Nat)
    (h : ∀ y ∈ ws, y.2 = false) (ho : (bits (XDesc.ofWords (ws.map Prod.fst)).w0 0 4).toNat ≠ op) (h1 : op ≠ 1) :
    s.xspiTake u ws op r f = s := by
  unfold State.xspiTake
  dsimp only
  rw [poisoned_none h, if_neg (by decide), if_neg ho, if_neg (by simp [h1])]

/-- The command lets the engine take a descriptor of this OP, which does what `post` says and completes. -/
def XPerforms (i : Instr) (op : Nat) (post : State → Fin 2 → XDesc → State → Prop) : Prop :=
  Occurs i (fun _ => True) fun s t =>
    (s.io.xspi.nextRing = none ∨ s.stalledBy (.dma .xspi) = true → t = s) ∧
    (∀ r, s.io.xspi.nextRing = some r → s.stalledBy (.dma .xspi) = false → s.domainRead (s.io.xspi.descAt r) 8 = none → t = s.xspiStop) ∧
    ∀ r d, s.io.xspi.nextRing = some r → s.stalledBy (.dma .xspi) = false → s.domainRead (s.io.xspi.descAt r) 8 = some d →
      ((∃ y ∈ d.2, y.2 = true) → t = d.1.xspiStop) ∧ ((∀ y ∈ d.2, y.2 = false) →
      let x := XDesc.ofWords (d.2.map Prod.fst)
      ((bits x.w0 0 4).toNat ≠ op → op ≠ 1 → t = s) ∧ ((bits x.w0 0 4).toNat = op → post d.1 r x t))

theorem XPerforms.of {i : Instr} {op : Nat} {f : State → Fin 2 → XDesc → State × Nat} {post : State → Fin 2 → XDesc → State → Prop}
    (hi : ∀ s, exec i s = ifOn s fun s => s.xspiRun op f)
    (hp : ∀ u r x, (bits x.w0 0 4).toNat = op → post u r x ((f u r x).1.xspiDone r x.w0 (f u r x).2)) : XPerforms i op post := by
  refine Occurs.of hi fun s _ _ => ⟨State.xspiRun_idle, fun r hr hs hd => ?_, fun r d hr hs hd => ?_⟩
  · rw [State.xspiRun_ready op f hr hs, hd]
  · rw [State.xspiRun_ready op f hr hs, hd]
    refine ⟨State.xspiTake_poisoned op r f, fun hc => ⟨State.xspiTake_other r f hc, fun ho => ?_⟩⟩
    dsimp only
    rw [State.xspiTake_found r f hc ho]
    exact hp _ _ _ ho

/-! Data read from the device. -/

theorem State.rangeInDram_iff (s : State) (a n : Nat) :
    s.rangeInDram a (wordsFor n) = true ↔ n = 0 ∨ (s.inDram a = true ∧ s.inDram (a + (n + 2) / 3 - 1) = true) := by
  have h : (n + 2) / 3 = 0 ↔ n = 0 := by omega
  simp [State.rangeInDram, wordsFor, h]

/-- A pool that is not enabled grants nothing. -/
theorem State.grant_disabled {s : State} {p : Fin 32} (cdr : Bool) (h : (s.pool p).en = false) : (s.grant p cdr).2 = emptyHandle := by
  unfold State.grant
  dsimp only
  split
  · rw [h, Bool.false_and, if_neg Bool.false_ne_true]
  · rfl

theorem State.xspiToMemory_small {s : State} {r : Fin 2} {x : XDesc} {o : XOutcome} (bytes : List Byte) (hp : x.w0.getLsbD 4 = true)
    (h1 : bits x.w0 0 4 = 1) (hl : (s.pool (bits x.w0 8 5).toFin).bytes < x.len) : s.xspiToMemory r x o bytes = (s, 1) := by
  unfold State.xspiToMemory
  dsimp only
  rw [if_pos (by simp [hp, h1]), if_pos hl]

theorem State.xspiToMemory_refused {s : State} {r : Fin 2} {x : XDesc} {o : XOutcome} (bytes : List Byte) (hp : x.w0.getLsbD 4 = true)
    (h1 : bits x.w0 0 4 = 1) (hl : x.len ≤ (s.pool (bits x.w0 8 5).toFin).bytes) (he : (s.pool (bits x.w0 8 5).toFin).en = false) :
    s.xspiToMemory r x o bytes = ((s.grant (bits x.w0 8 5).toFin false).1, 2) := by
  unfold State.xspiToMemory
  dsimp only
  rw [if_pos (by simp [hp, h1]), if_neg (by omega), if_pos (State.grant_disabled _ he)]

theorem State.xspiToMemory_plain {s : State} {r : Fin 2} {x : XDesc} {o : XOutcome} (bytes : List Byte)
    (h : x.w0.getLsbD 4 = false ∨ bits x.w0 0 4 ≠ 1) : s.xspiToMemory r x o bytes =
      if s.rangeInDram x.pa (wordsFor x.len) = false then (s, 1)
      else if s.xCode o ≠ 0 then (s, s.xCode o)
      else ((s.domainWrite (.dma .xspi) x.pa (packBytes bytes)).1, 0) := by
  unfold State.xspiToMemory
  dsimp only
  rw [if_neg (by simpa [imp_iff_not_or] using h)]
  simp only [Bool.not_eq_true']
  rfl

/-- What a READ or a READ_SFDP does, whose data is `answer`. -/
def XReads (i : Instr) (op : Nat) (o : XOutcome) (answer : State → XDesc → List Byte) : Prop :=
  XPerforms i op fun u r x t =>
    let p : Fin 32 := (bits x.w0 8 5).toFin
    (op = 1 → x.w0.getLsbD 4 = true → (u.pool p).bytes < x.len → t = u.xspiDone r x.w0 1) ∧
    (op = 1 → x.w0.getLsbD 4 = true → x.len ≤ (u.pool p).bytes → (u.pool p).en = false → t = (u.grant p false).1.xspiDone r x.w0 2) ∧
    ((op = 1 → x.w0.getLsbD 4 = false) →
      let ranged : Prop := x.len = 0 ∨ (u.inDram x.pa = true ∧ u.inDram (x.pa + (x.len + 2) / 3 - 1) = true)
      (¬ranged → t = u.xspiDone r x.w0 1) ∧
      (ranged → u.xCode o ≠ 0 → t = u.xspiDone r x.w0 (u.xCode o)) ∧
      (ranged → u.xCode o = 0 → t = ((u.domainWrite (.dma .xspi) x.pa (packBytes (answer u x))).1).xspiDone r x.w0 0))

theorem XReads.of {i : Instr} {op : Nat} {o : XOutcome} {answer : State → XDesc → List Byte}
    (hi : ∀ s, exec i s = ifOn s fun s => s.xspiRun op fun s r x => s.xspiToMemory r x o (answer s x)) : XReads i op o answer := by
  refine XPerforms.of hi fun u r x ho => ⟨fun h1 hp hl => ?_, fun h1 hp hl he => ?_,
    fun hn => ⟨fun hr => ?_, fun hr hc => ?_, fun hr hc => ?_⟩⟩
  · rw [State.xspiToMemory_small _ hp (BitVec.eq_of_toNat_eq (ho.trans h1)) hl]
  · rw [State.xspiToMemory_refused _ hp (BitVec.eq_of_toNat_eq (ho.trans h1)) hl he]
  all_goals
    have hplain : x.w0.getLsbD 4 = false ∨ bits x.w0 0 4 ≠ 1 := by
      by_cases h1 : op = 1
      · exact .inl (hn h1)
      · exact .inr fun hb => h1 (by rw [← ho, hb]; rfl)
    rw [State.xspiToMemory_plain _ hplain]
    rw [← State.rangeInDram_iff] at hr
  · rw [if_pos (by simpa using hr)]
  · rw [if_neg (by simp [hr]), if_pos hc]
  · rw [if_neg (by simp [hr]), if_neg (not_not_intro hc)]

/-! The completion of a descriptor. -/

theorem State.dmaDone_xflash (s : State) (eng : Initiator) (d : DmaDone) : (s.dmaDone eng d).xflash = s.xflash := by
  unfold State.dmaDone
  split
  · rfl
  · cases d <;> rfl

theorem State.xspiDone_xflash (s : State) (r : Fin 2) (w0 : Word) (status : Nat) : (s.xspiDone r w0 status).xflash = s.xflash := by
  rw [State.xspiDone, State.dmaDone_xflash]
  exact State.xflash_of_sansAccess (s.domainWrite_sansAccess (by simp [xspiEngine]) _ _)

/-- The engine's flags after a descriptor: DONE of the ring where the descriptor asks for it, and ERR where it failed. -/
theorem xspiFlags (f : BitVec 3) (r : Fin 2) (done err : Bool) : let g := f ||| (if done then bitAt 3 r.val else 0) ||| flag 3 2 err
    (done = true → g.getLsbD r.val = true) ∧ (err = true → g.getLsbD 2 = true) := by
  revert f r done err
  decide

theorem State.xspiDone_quiet {s : State} (hq : s.EchoQuiet) (r : Fin 2) (w0 : Word) (status : Nat) :
    let t := s.xspiDone r w0 status
    t.io.xspi.rings[r].cons = s.io.xspi.rings[r].cons + 1 ∧ (∀ q, q ≠ r → t.io.xspi.rings[q] = s.io.xspi.rings[q]) ∧
    (w0.getLsbD 5 = true → t.io.xspi.flags.getLsbD r.val = true) ∧ (status ≠ 0 → t.io.xspi.flags.getLsbD 2 = true) := by
  have hw := hq.domainWrite xspiEngine (s.io.xspi.descAt r + 6) [BitVec.ofNat 24 status ||| bitAt 24 23]
  have hio : ((s.domainWrite xspiEngine (s.io.xspi.descAt r + 6) [BitVec.ofNat 24 status ||| bitAt 24 23]).1).io = s.io :=
    State.io_of_sansMemory hw
  obtain ⟨hdone, herr⟩ := xspiFlags s.io.xspi.flags r (w0.getLsbD 5) (status ≠ 0)
  dsimp only
  rw [State.xspiDone, (hq.of_sansMemory hw).dmaDone]
  unfold State.tell
  dsimp only
  rw [hio]
  refine ⟨?_, fun q hq => ?_, hdone, fun h => herr (decide_eq_true h)⟩
  · simp [ringNext]
  · have hv : r.val ≠ q.val := fun e => hq (Fin.ext e.symm)
    simp [hv]

/-! The external flash. -/

/-- A canonical table without the entries whose keys `q` rejects. -/
theorem Tbl.find_filter {d : Byte} {m : Memory} {p : Option Nat} (h : Memory.wfFrom d p m = true) (q : Nat → Bool) (j : Nat) :
    Tbl.find (m.filter fun c => q c.1) j = if q j = true then Tbl.find m j else none := by
  induction m generalizing p with
  | nil => simp [Tbl.find]
  | cons c m ih =>
    obtain ⟨k, b⟩ := c
    obtain ⟨-, -, hm⟩ := (Memory.wfFrom_cons ..).1 h
    by_cases hk : q k = true
    · rw [List.filter_cons_of_pos (by simpa using hk), Tbl.find, Tbl.find, ih hm]
      by_cases hjk : j = k
      · simp [hjk, hk]
      · simp [hjk]
        by_cases hj : j < k <;> simp [hj]
    · rw [List.filter_cons_of_neg (by simpa using hk), ih hm, Tbl.find]
      by_cases hj : q j = true
      · have hjk : j ≠ k := fun e => hk (e ▸ hj)
        rw [if_pos hj, if_pos hj, if_neg hjk]
        split
        · exact Tbl.find_below hm (by omega)
        · rfl
      · rw [if_neg hj, if_neg hj]

theorem eraseFlash_byte {m : Memory} (hm : Memory.wf flashDefault m = true) (a k b : Nat) :
    Memory.byte flashDefault (eraseFlash m a k) b = if b / k = a / k then 0xFF else Memory.byte flashDefault m b := by
  unfold Memory.byte Tbl.get eraseFlash
  rw [Tbl.find_filter hm fun c => decide (c / k ≠ a / k)]
  by_cases h : b / k = a / k <;> simp [h, flashDefault]

theorem programFlash_one {m : Memory} (hm : Memory.wf flashDefault m = true) (a b : Nat) (v : Byte) :
    Memory.byte flashDefault (programFlash m a [v]) b =
      if b = a % 2 ^ 32 then Memory.byte flashDefault m b &&& v else Memory.byte flashDefault m b := by
  rw [programFlash, programFlash, Memory.byte_setByte hm]
  split
  · next h => rw [h]
  · rfl

end Sys2Proof.Machine
end

section
/-! SUPPORT. The xSPI commands, and O55. -/
namespace Sys2Proof.Machine

theorem xspiRead_reads (o : XOutcome) :
    XReads (.xspiRead o []) 1 o fun u x => (List.range x.len).map fun i => u.xByte (x.addr + i) :=
  XReads.of fun _ => rfl

theorem xspiReadSfdp_reads (o : XOutcome) (bytes : List Byte) :
    XReads (.xspiReadSfdp o bytes) 5 o fun _ x => (List.range x.len).map fun i => bytes.getD i 0xFF :=
  XReads.of fun _ => rfl

/-- What an erase of `size` bytes does. -/
def XErases (i : Instr) (op size : Nat) (o : XOutcome) : Prop :=
  XPerforms i op fun u r x t => (u.xCode o ≠ 0 → t = u.xspiDone r x.w0 (u.xCode o)) ∧
    (u.xCode o = 0 → t = { u with xflash := eraseFlash u.xflash x.addr size }.xspiDone r x.w0 0)

theorem XErases.of {i : Instr} {op size : Nat} {o : XOutcome}
    (hi : ∀ s, exec i s = ifOn s fun s => s.xspiRun op fun s _ x =>
      if s.xCode o ≠ 0 then (s, s.xCode o) else ({ s with xflash := eraseFlash s.xflash x.addr size }, 0)) : XErases i op size o :=
  XPerforms.of hi fun _ _ _ _ => ⟨fun hc => by rw [if_pos hc], fun hc => by rw [if_neg (not_not_intro hc)]⟩

theorem xspiErase4k_erases (o : XOutcome) : XErases (.xspiErase4k o) 3 4096 o := XErases.of fun _ => rfl

theorem xspiErase64k_erases (o : XOutcome) : XErases (.xspiErase64k o) 4 65536 o := XErases.of fun _ => rfl

/-- The bytes lie in one page of the flash, and their source in installed DRAM. -/
def State.XFits (s : State) (x : XDesc) : Prop :=
  x.addr % s.io.xspi.pageBytes + x.len ≤ s.io.xspi.pageBytes ∧
    (x.len = 0 ∨ (s.inDram x.pa = true ∧ s.inDram (x.pa + (x.len + 2) / 3 - 1) = true))

theorem State.xfits_iff (s : State) (x : XDesc) : s.XFits x ↔
    ¬(decide (s.io.xspi.pageBytes < x.addr % s.io.xspi.pageBytes + x.len) || !s.rangeInDram x.pa (wordsFor x.len)) = true := by
  unfold State.XFits
  rw [← State.rangeInDram_iff]
  simp

theorem xspiProgram_performs (o : XOutcome) : XPerforms (.xspiProgram o []) 2 fun u r x t =>
    (¬u.XFits x → t = u.xspiDone r x.w0 1) ∧
    ∀ d, u.XFits x → u.domainRead x.pa ((x.len + 2) / 3) = some d →
      ((∃ y ∈ d.2, y.2 = true) → t = d.1.xspiDone r x.w0 5) ∧
      ((∀ y ∈ d.2, y.2 = false) → u.xCode o ≠ 0 → t = d.1.xspiDone r x.w0 (u.xCode o)) ∧
      ((∀ y ∈ d.2, y.2 = false) → u.xCode o = 0 →
        t = { d.1 with xflash := programFlash d.1.xflash x.addr ((wordBytes (d.2.map Prod.fst)).take x.len) }.xspiDone r x.w0 0) := by
  refine XPerforms.of (fun _ => rfl) fun u r x _ => ⟨fun hf => ?_, fun d hf hd => ?_⟩
  · rw [if_pos (not_not.1 (mt (u.xfits_iff x).2 hf))]
  · have hcode : d.1.xCode o = u.xCode o := by
      rw [State.xCode, State.io_of_sansMemory (State.domainRead_sansMemory hd), State.xCode]
    have hd' : u.domainRead x.pa (wordsFor x.len) = some d := hd
    rw [if_neg ((u.xfits_iff x).1 hf), hd']
    refine ⟨fun hp => ?_, fun hc he => ?_, fun hc he => ?_⟩
    · have : d.2.any (·.2) = true := List.any_eq_true.2 hp
      simp [this]
    · have : d.2.any (·.2) = false := poisoned_none hc
      simp [this, hcode, he]
    · have : d.2.any (·.2) = false := poisoned_none hc
      simp [this, hcode, he]

end Sys2Proof.Machine

open Sys2Proof Sys2Proof.Machine

/-- Settles O55, each unit's rows by a lemma about what its access or event makes of it, and xSPI's by one about the descriptor taken. -/
theorem serialPorts : Obligations.SerialPorts := by
  refine ⟨fun n w v => ?_, fun o => ?_, fun u r w0 status => ⟨u.xspiDone_xflash r w0 status, fun hq => State.xspiDone_quiet hq r w0 status⟩,
    fun m a k b hm _ => eraseFlash_byte hm a k b, fun m a b v hm _ => programFlash_one hm a b v⟩
  · exact ⟨spiTx_pushes w n v, spiFrameDone_ends n v, spiRx_pops w n,
      fun ack arb b => ⟨i2cStart_sends n ack arb, i2cWrite_sends n ack arb, i2cReadAck_reads n b, i2cReadNack_reads n b,
        i2cAddressed_enters n ack, i2cTargetByte_passes n ack b⟩,
      i2cStop_ends n, i2cRx_pops w n, i2cCmd_pushes w n v, uartTx_pushes w n v, uartRx_pops w n, uartByteReceived_enters n,
      uartByteTransmitted_leaves n⟩
  · exact ⟨xspiRead_reads o, xspiReadSfdp_reads o, xspiErase4k_erases o, xspiErase64k_erases o, xspiProgram_performs o⟩
end

section
/-! SUPPORT. Ethernet: frames received and sent, buffers of the pools, MDIO (10 R428 to R433; 17 R700 to R708, Tables 17.2 to 17.4). -/
namespace Sys2Proof.Machine

/-! Buffers. -/

theorem handlePool_val (h : Word) : (handlePool h).val = h.toNat / 2 ^ 19 % 2 ^ 5 := by
  rw [← Nat.shiftRight_eq_div_pow, ← BitVec.extractLsb'_toNat]
  rfl

/-- A handle names the pool that it was made for. -/
theorem handlePool_handleOf (p : Fin 32) {i : Nat} (hi : i < 2 ^ 19) : handlePool (handleOf p.val i) = p := by
  have hp := p.isLt
  apply Fin.ext
  rw [handlePool_val, handleOf, BitVec.toNat_ofNat]
  omega

/-- Of the pools but the last, no handle is the empty one. -/
theorem handleOf_ne_empty {p : Fin 32} {i : Nat} (hp : p.val < 31) (hi : i < 2 ^ 19) : handleOf p.val i ≠ emptyHandle := by
  intro h
  have := congrArg handlePool h
  rw [handlePool_handleOf p hi] at this
  have : p = 31 := this.trans (by decide)
  omega

/-- A request of an engine that the pool does not meet. -/
theorem State.grant_refused {s : State} {p : Fin 32} (h : ¬((s.pool p).en = true ∧ 2 < (s.pool p).free.length)) :
    s.grant p false = ({ s with bm := { s.bm with empty := setBit s.bm.empty p.val true } }, emptyHandle) := by
  unfold State.grant
  dsimp only
  split
  · next i rest hf => rw [if_neg (by simpa [hf] using h)]
  · rfl

/-- A request of an engine that the pool meets: the buffer at the front leaves the free list. -/
theorem State.grant_met {s : State} {p : Fin 32} (h : (s.pool p).en = true ∧ 2 < (s.pool p).free.length) :
    ∃ low, s.grant p false =
      (s.setPool p { s.pool p with free := (s.pool p).free.tail, low }, handleOf p.val ((s.pool p).free.headD 0)) := by
  unfold State.grant
  dsimp only
  split
  · next i rest hf =>
    rw [if_pos (by simpa [hf] using h)]
    exact ⟨_, by rw [hf]; rfl⟩
  · next hf => simp [hf] at h

theorem State.dmaRelease_io (s : State) (h : Word) : (s.dmaRelease h).io = s.io := by
  unfold State.dmaRelease State.release
  dsimp only
  split
  · split <;> rfl
  · rfl

theorem State.dmaRelease_quiet {s : State} (hq : s.EchoQuiet) (h : Word) : (s.dmaRelease h).EchoQuiet := by
  unfold State.dmaRelease State.release
  dsimp only
  split
  · split <;> exact hq
  · exact hq

theorem State.EchoQuiet.elapse {s : State} (hq : s.EchoQuiet) (dt : Nat) : (s.elapse dt).EchoQuiet := by
  rwa [State.EchoQuiet, State.elapse_refrain, State.elapse_echo]

/-! Received frames. -/

theorem State.elapse_eth (s : State) (dt : Nat) (n : Fin 2) : (s.elapse dt).eth n = s.eth n := by
  rw [State.eth, State.elapse_io, State.eth]

theorem State.elapse_hasEth (s : State) (dt : Nat) (n : Fin 2) : (s.elapse dt).hasEth n = s.hasEth n := by
  rw [State.hasEth, State.elapse_die, State.hasEth]

theorem State.elapse_pool (s : State) (dt : Nat) (p : Fin 32) : (s.elapse dt).pool p = s.pool p := by
  rw [State.pool, State.elapse_bm, State.pool]

theorem State.elapse_rxcNext (s : State) (dt : Nat) (n : Fin 2) : (s.elapse dt).rxcNext n = s.rxcNext n := by
  rw [State.rxcNext, State.elapse_eth, State.elapse_echo, State.rxcNext]

theorem State.elapse_handleOk (s : State) (dt : Nat) (h : Word) : (s.elapse dt).handleOk h = s.handleOk h := by
  rw [State.handleOk, State.elapse_pool, State.handleOk]

/-- The pause that a frame asks for, of a MAC that obeys it. -/
def Eth.pauseOf (x : Eth) (bytes : List Byte) (fcs : Bool) : Option Nat := if fcs && x.ctl.getLsbD 6 then pauseQuanta bytes else none

/-- MAC `n` is there and receives. -/
def State.EthListens (s : State) (n : Fin 2) : Prop := s.hasEth n = true ∧ (s.eth n).ctl.getLsbD 0 = true

/-- The end of a received frame. -/
def State.ethRx (s : State) (n : Fin 2) (bytes : List Byte) (fcs : Bool) : State :=
  if !s.hasEth n || !(s.eth n).rxEn then s
  else match (s.eth n).pauseOf bytes fcs with
    | some q => s.modEth n fun y => { y with pauseTo := s.tempo.count + q * y.quantum }
    | none => if (s.eth n).accepts (bytes.take 6) then s.ethReceive n bytes fcs else s

theorem State.ethRx_deaf {s : State} {n : Fin 2} (bytes : List Byte) (fcs : Bool) (h : ¬s.EthListens n) : s.ethRx n bytes fcs = s :=
  if_pos (by
    rw [State.EthListens, not_and_or] at h
    simpa [Eth.rxEn] using h)

theorem State.ethRx_listens {s : State} {n : Fin 2} (bytes : List Byte) (fcs : Bool) (h : s.EthListens n) :
    s.ethRx n bytes fcs = match (s.eth n).pauseOf bytes fcs with
      | some q => s.modEth n fun y => { y with pauseTo := s.tempo.count + q * y.quantum }
      | none => if (s.eth n).accepts (bytes.take 6) then s.ethReceive n bytes fcs else s :=
  if_neg (by simpa [Eth.rxEn, State.EthListens] using h)

/-- A frame for which no completion entry is free is dropped. -/
theorem State.ethReceive_noRing {s : State} {n : Fin 2} (bytes : List Byte) (fcs : Bool)
    (h : ¬ringUsed (s.rxcNext n) (s.eth n).rxcCons < (s.eth n).rxcSize.toNat) :
    s.ethReceive n bytes fcs = s.modEth n fun y => { y with rxNoRing := satInc y.rxNoRing, stat := setBit y.stat 2 true } :=
  if_pos (Nat.not_lt.1 h)

theorem State.ethRx_pause {s : State} {n : Fin 2} {bytes : List Byte} {fcs : Bool} {q : Nat} (h : s.EthListens n)
    (hq : (s.eth n).pauseOf bytes fcs = some q) :
    s.ethRx n bytes fcs = s.modEth n fun y => { y with pauseTo := s.tempo.count + q * (s.eth n).quantum } := by
  rw [State.ethRx_listens bytes fcs h, hq]
  rfl

theorem State.ethRx_ignored {s : State} {n : Fin 2} {bytes : List Byte} {fcs : Bool} (hp : (s.eth n).pauseOf bytes fcs = none)
    (ha : (s.eth n).accepts (bytes.take 6) = false) : s.ethRx n bytes fcs = s := by
  by_cases h : s.EthListens n
  · rw [State.ethRx_listens bytes fcs h, hp]
    exact if_neg (by simp [ha])
  · exact State.ethRx_deaf bytes fcs h

theorem State.ethRx_kept {s : State} {n : Fin 2} {bytes : List Byte} {fcs : Bool}
    (h : s.EthListens n ∧ (s.eth n).pauseOf bytes fcs = none ∧ (s.eth n).accepts (bytes.take 6) = true) :
    s.ethRx n bytes fcs = s.ethReceive n bytes fcs := by
  obtain ⟨hl, hp, ha⟩ := h
  rw [State.ethRx_listens bytes fcs hl, hp]
  exact if_pos ha

/-- A received frame for which handle `h` has been granted, and its completion entry (17 R705, R706). -/
def State.ethStore (s : State) (n : Fin 2) (x : Eth) (at_ h : Word) (bytes : List Byte) (fcs : Bool) : State :=
  if !fcs || x.limit < bytes.length + 4 || (s.pool (handlePool h)).bytes < bytes.length then
    (s.dmaRelease h).modEth n fun y => { y.drop with rxBad := satInc y.rxBad }
  else
    let u := (s.domainWrite (.dma (.eth n)) (s.handleAt h) (packBytes bytes)).1
    let entry := [BitVec.ofNat 24 bytes.length ||| bitAt 24 23, h] ++ r500 (u.tempo.time + signed24 x.tsRx) ++ [u.tempo.quality, 0, 0]
    (u.domainWrite (.dma (.eth n)) (ringEntry x.rxcBase x.rxcSize at_) entry).1.dmaDone (.dma (.eth n)) (.ethRx n)

theorem State.ethReceive_room {s : State} {n : Fin 2} (bytes : List Byte) (fcs : Bool)
    (h : ringUsed (s.rxcNext n) (s.eth n).rxcCons < (s.eth n).rxcSize.toNat) : s.ethReceive n bytes fcs =
      let g := s.grant (s.eth n).rxPool.toFin false
      if g.2 = emptyHandle then g.1.modEth n fun y => { y.drop with rxNoBuf := satInc y.rxNoBuf }
      else g.1.ethStore n (s.eth n) (s.rxcNext n) g.2 bytes fcs :=
  if_neg (Nat.not_le.2 h)

/-- A frame for which no buffer is granted is dropped. -/
theorem State.ethReceive_noBuf {s : State} {n : Fin 2} (bytes : List Byte) (fcs : Bool)
    (hroom : ringUsed (s.rxcNext n) (s.eth n).rxcCons < (s.eth n).rxcSize.toNat)
    (h : ¬((s.pool (s.eth n).rxPool.toFin).en = true ∧ 2 < (s.pool (s.eth n).rxPool.toFin).free.length)) :
    s.ethReceive n bytes fcs = { s with bm := { s.bm with empty := setBit s.bm.empty (s.eth n).rxPool.toFin.val true } }.modEth n fun y =>
      { y with rxNoBuf := satInc y.rxNoBuf, stat := setBit y.stat 2 true } := by
  rw [State.ethReceive_room bytes fcs hroom, State.grant_refused h]
  exact if_pos rfl

/-- A frame for which a buffer is granted. -/
theorem State.ethReceive_granted {s : State} {n : Fin 2} (bytes : List Byte) (fcs : Bool)
    (hroom : ringUsed (s.rxcNext n) (s.eth n).rxcCons < (s.eth n).rxcSize.toNat) {p : Fin 32} (hp : (s.eth n).rxPool.toFin = p)
    (hg : (s.pool p).en = true ∧ 2 < (s.pool p).free.length) (hlast : p.val < 31) (hi : (s.pool p).free.headD 0 < 2 ^ 19) :
    ∃ low, s.ethReceive n bytes fcs = (s.setPool p { s.pool p with free := (s.pool p).free.tail, low }).ethStore n (s.eth n) (s.rxcNext n)
      (handleOf p.val ((s.pool p).free.headD 0)) bytes fcs := by
  obtain ⟨low, hgr⟩ := State.grant_met hg
  refine ⟨low, ?_⟩
  rw [State.ethReceive_room bytes fcs hroom, hp, hgr]
  exact if_neg (handleOf_ne_empty hlast hi)

/-- A frame that is stored whole. -/
def State.EthWhole (s : State) (x : Eth) (h : Word) (bytes : List Byte) (fcs : Bool) : Prop :=
  fcs = true ∧ bytes.length + 4 ≤ x.limit ∧ bytes.length ≤ (s.pool (handlePool h)).bytes

theorem State.ethWhole_iff (s : State) (x : Eth) (h : Word) (bytes : List Byte) (fcs : Bool) : s.EthWhole x h bytes fcs ↔
    ¬(!fcs || decide (x.limit < bytes.length + 4) || decide ((s.pool (handlePool h)).bytes < bytes.length)) = true := by
  simp only [State.EthWhole, Bool.or_eq_true, Bool.not_eq_true', decide_eq_true_eq, not_or, Bool.not_eq_false, not_lt, and_assoc]

/-- A buffer taken from a pool is as long as those that stay. -/
theorem State.ethWhole_setPool {s : State} {x : Eth} {p : Fin 32} {i : Nat} {l : List Nat} {low : BitVec 19} {bytes : List Byte} {fcs : Bool}
    (hi : i < 2 ^ 19) : (s.setPool p { s.pool p with free := l, low }).EthWhole x (handleOf p.val i) bytes fcs ↔
      fcs = true ∧ bytes.length + 4 ≤ x.limit ∧ bytes.length ≤ (s.pool p).bytes := by
  rw [State.EthWhole, handlePool_handleOf p hi, State.setPool_same]
  rfl

theorem State.ethStore_bad {s : State} {n : Fin 2} {x : Eth} (at_ : Word) {h : Word} {bytes : List Byte} {fcs : Bool}
    (hw : ¬s.EthWhole x h bytes fcs) :
    (s.ethStore n x at_ h bytes fcs).eth n = { s.eth n with rxBad := satInc (s.eth n).rxBad, stat := setBit (s.eth n).stat 2 true } := by
  have hc := not_not.1 (mt (s.ethWhole_iff x h bytes fcs).2 hw)
  rw [State.ethStore, if_pos hc, State.modEth_same, State.eth, State.dmaRelease_io]
  rfl

theorem State.dmaDone_bm (s : State) (eng : Initiator) (d : DmaDone) : (s.dmaDone eng d).bm = s.bm := by
  unfold State.dmaDone
  split
  · rfl
  · cases d <;> rfl

theorem State.ethStore_whole {s : State} (n : Fin 2) {x : Eth} (at_ : Word) {h : Word} {bytes : List Byte} {fcs : Bool}
    (hw : s.EthWhole x h bytes fcs) : (s.ethStore n x at_ h bytes fcs).bm = s.bm ∧ (s.EchoQuiet →
      (s.ethStore n x at_ h bytes fcs).eth n = { s.eth n with rxcProd := (s.eth n).rxcProd + 1, rxOk := satInc (s.eth n).rxOk }) := by
  rw [State.ethStore, if_neg ((s.ethWhole_iff x h bytes fcs).1 hw)]
  have hl : Initiator.dma (.eth n) ≠ .landing := by simp
  refine ⟨?_, fun hq => ?_⟩
  · rw [State.dmaDone_bm, State.bm_of_sansAccess (State.domainWrite_sansAccess _ hl _ _),
      State.bm_of_sansAccess (State.domainWrite_sansAccess _ hl _ _)]
  · have h1 := hq.domainWrite (.dma (.eth n)) (s.handleAt h) (packBytes bytes)
    have hq1 := hq.of_sansMemory h1
    dsimp only
    rw [(hq1.of_sansMemory (hq1.domainWrite _ _ _)).dmaDone]
    simp [State.tell, State.eth, ringNext, State.io_of_sansMemory (hq1.domainWrite _ _ _), State.io_of_sansMemory h1]

/-! Sent frames. -/

/-- The descriptor of a frame is completed. -/
theorem State.ethTxDone_quiet {s : State} (hq : s.EchoQuiet) (n : Fin 2) (at_ : Nat) (w0 h : Word) (status : Nat) :
    (s.ethTxDone n at_ w0 h status).eth n = { s.eth n with
      txCons := (s.eth n).txCons + 1, txOk := if status = 0 then satInc (s.eth n).txOk else (s.eth n).txOk
      stat := (s.eth n).stat ||| flag 5 0 (w0.getLsbD 18) ||| flag 5 1 (status = 0 && w0.getLsbD 16) ||| flag 5 3 (status ≠ 0) } := by
  have write (u : State) (hu : u.EchoQuiet ∧ u.io = s.io) (a : Nat) (l : List Word) :
      (u.domainWrite (.dma (.eth n)) a l).1.EchoQuiet ∧ (u.domainWrite (.dma (.eth n)) a l).1.io = s.io :=
    have hw := hu.1.domainWrite (.dma (.eth n)) a l
    ⟨hu.1.of_sansMemory hw, (State.io_of_sansMemory hw).trans hu.2⟩
  have release (u : State) (hu : u.EchoQuiet ∧ u.io = s.io) (h : Word) : (u.dmaRelease h).EchoQuiet ∧ (u.dmaRelease h).io = s.io :=
    ⟨State.dmaRelease_quiet hu.1 h, (u.dmaRelease_io h).trans hu.2⟩
  unfold State.ethTxDone
  dsimp only
  generalize hv : (if (w0.getLsbD 17) = true then _ else _ : State) = v
  have key : v.EchoQuiet ∧ v.io = s.io := by
    rw [← hv]
    split
    · refine release _ (write _ ?_ _ _) h
      split
      · exact write _ (write _ ⟨hq, rfl⟩ _ _) _ _
      · exact write _ ⟨hq, rfl⟩ _ _
    · refine write _ ?_ _ _
      split
      · exact write _ (write _ ⟨hq, rfl⟩ _ _) _ _
      · exact write _ ⟨hq, rfl⟩ _ _
  rw [key.1.dmaDone]
  simp [State.tell, State.eth, ringNext, key.2]

/-- What the MAC does with a descriptor that it has read. -/
def State.ethSend (s : State) (n : Fin 2) (at_ : Nat) (ws : List (Word × Bool)) : State :=
  let w0 := (ws.map (·.1)).getD 0 0
  let h := (ws.map (·.1)).getD 1 0
  let len := (bits w0 0 14).toNat
  let st := Eth.txStatus s n len h
  if ws.any (·.2) then s.ethTxStop n
  else if st ≠ 0 then s.ethTxDone n at_ w0 h st
  else match s.domainRead (s.handleAt h) ((len + 2) / 3) with
    | none => s.ethTxDone n at_ w0 h 3
    | some d => d.1.ethTxDone n at_ w0 h (if d.2.any (·.2) then 3 else 0)

/-- The end of a sent frame. -/
def State.ethTx (s : State) (n : Fin 2) : State :=
  let e := s.eth n
  if !s.hasEth n || !e.txEn || e.txProd = e.txCons || e.txSize = 0 || s.tempo.count < e.pauseTo || s.stalledBy (.dma (.eth n)) then s
  else match s.domainRead (ringEntry e.txBase e.txSize e.txCons) 8 with
    | none => s.ethTxStop n
    | some r => r.1.ethSend n (ringEntry e.txBase e.txSize e.txCons) r.2

/-- MAC `n` has a descriptor to act on, and nothing holds it. -/
def State.EthSends (s : State) (n : Fin 2) : Prop :=
  s.hasEth n = true ∧ (s.eth n).ctl.getLsbD 1 = true ∧ (s.eth n).txProd ≠ (s.eth n).txCons ∧ (s.eth n).txSize ≠ 0 ∧
    (s.eth n).pauseTo ≤ s.tempo.count ∧ s.stalledBy (.dma (.eth n)) = false

theorem State.ethSends_iff (s : State) (n : Fin 2) : s.EthSends n ↔
    ¬(!s.hasEth n || !(s.eth n).txEn || decide ((s.eth n).txProd = (s.eth n).txCons) || decide ((s.eth n).txSize = 0) ||
      decide (s.tempo.count < (s.eth n).pauseTo) || s.stalledBy (.dma (.eth n))) = true := by
  simp only [State.EthSends, Eth.txEn, Bool.or_eq_true, Bool.not_eq_true', decide_eq_true_eq, not_or, Bool.not_eq_false, not_lt, and_assoc,
    Bool.not_eq_true, ne_eq]

theorem State.ethTx_idle {s : State} {n : Fin 2} (h : ¬s.EthSends n) : s.ethTx n = s :=
  if_pos (not_not.1 (mt (s.ethSends_iff n).2 h))

theorem State.ethTx_sends {s : State} {n : Fin 2} (h : s.EthSends n) : s.ethTx n =
    match s.domainRead (ringEntry (s.eth n).txBase (s.eth n).txSize (s.eth n).txCons) 8 with
    | none => s.ethTxStop n
    | some r => r.1.ethSend n (ringEntry (s.eth n).txBase (s.eth n).txSize (s.eth n).txCons) r.2 :=
  if_neg ((s.ethSends_iff n).1 h)

theorem State.ethSend_poisoned {s : State} {n : Fin 2} (at_ : Nat) {ws : List (Word × Bool)} (h : ∃ y ∈ ws, y.2 = true) :
    s.ethSend n at_ ws = s.ethTxStop n := if_pos (List.any_eq_true.2 h)

/-- A descriptor whose words are read whole is completed. -/
theorem State.ethSend_completes {s : State} (hq : s.EchoQuiet) (n : Fin 2) (at_ : Nat) {ws : List (Word × Bool)}
    (hc : ∀ y ∈ ws, y.2 = false) : ∃ (u : State) (st : Nat), let w0 := (ws.map (·.1)).getD 0 0
    let h := (ws.map (·.1)).getD 1 0
    let len := (bits w0 0 14).toNat
    u.EchoQuiet ∧ u.io = s.io ∧ s.ethSend n at_ ws = u.ethTxDone n at_ w0 h st ∧
      (Eth.txStatus s n len h ≠ 0 → st = Eth.txStatus s n len h) ∧
      ∀ d, Eth.txStatus s n len h = 0 → s.domainRead (s.handleAt h) ((len + 2) / 3) = some d → (∀ y ∈ d.2, y.2 = false) → st = 0 := by
  unfold State.ethSend
  dsimp only
  rw [if_neg (by rw [poisoned_none hc]; decide)]
  split
  · next hst => exact ⟨s, _, hq, rfl, rfl, fun _ => rfl, fun _ h0 => absurd h0 hst⟩
  · next hst =>
    split
    · next hd => exact ⟨s, 3, hq, rfl, rfl, fun h => absurd h hst, fun d _ hd' => nomatch hd.symm.trans hd'⟩
    · next d hd =>
      have hm := State.domainRead_sansMemory hd
      refine ⟨d.1, _, hq.of_sansMemory hm, State.io_of_sansMemory hm, rfl, fun h => absurd h hst, fun d' _ hd' hc' => ?_⟩
      obtain rfl := Option.some.inj (hd.symm.trans hd')
      rw [poisoned_none hc', if_neg Bool.false_ne_true]

theorem Eth.txStatus_badHandle {s : State} {h : Word} (n : Fin 2) (len : Nat) (hh : s.handleOk h = false) : Eth.txStatus s n len h = 1 :=
  if_pos (by simp [hh])

theorem Eth.txStatus_good {s : State} {h : Word} {n : Fin 2} {len : Nat} (hh : s.handleOk h = true) (h14 : 14 ≤ len)
    (hl : len + 4 ≤ (s.eth n).limit) (hb : len ≤ (s.pool (handlePool h)).bytes) : Eth.txStatus s n len h = 0 := by
  rw [Eth.txStatus, if_neg (by simp [hh]), if_neg (by simp; omega)]

/-- The flags of the MAC after a descriptor: TX_DONE where the descriptor asks for it, TX_ERR where it failed. -/
theorem ethTxFlags (f : BitVec 5) (irq ts err : Bool) : let g := f ||| flag 5 0 irq ||| flag 5 1 ts ||| flag 5 3 err
    g.getLsbD 0 = (f.getLsbD 0 || irq) ∧ (err = true → g.getLsbD 3 = true) := by
  revert f irq ts err
  decide

/-- A completed descriptor, as the MAC shows it. -/
theorem State.ethSend_quiet {s : State} (hq : s.EchoQuiet) (n : Fin 2) (at_ : Nat) {ws : List (Word × Bool)} (hc : ∀ y ∈ ws, y.2 = false) :
    let t := s.ethSend n at_ ws
    let w := fun i => (ws.map Prod.fst).getD i 0
    (t.eth n).txCons = (s.eth n).txCons + 1 ∧
    (∀ h, h = w 1 → s.handleOk h = false → (t.eth n).txOk = (s.eth n).txOk ∧ (t.eth n).stat.getLsbD 3 = true) ∧
    ∀ d, s.handleOk (w 1) = true → 14 ≤ (bits (w 0) 0 14).toNat → (bits (w 0) 0 14).toNat + 4 ≤ (s.eth n).limit →
      (bits (w 0) 0 14).toNat ≤ (s.pool (handlePool (w 1))).bytes →
      s.domainRead (s.handleAt (w 1)) (((bits (w 0) 0 14).toNat + 2) / 3) = some d → (∀ y ∈ d.2, y.2 = false) →
      (t.eth n).txOk = satInc (s.eth n).txOk ∧ (t.eth n).stat.getLsbD 0 = ((s.eth n).stat.getLsbD 0 || (w 0).getLsbD 18) := by
  obtain ⟨u, st, hu, hio, ht, hbad, hgood⟩ := State.ethSend_completes hq n at_ hc
  have he : u.eth n = s.eth n := by rw [State.eth, hio, State.eth]
  dsimp only
  rw [ht, State.ethTxDone_quiet hu, he]
  refine ⟨rfl, fun h hw hh => ?_, fun d hh h14 hl hb hd hcd => ?_⟩
  · subst hw
    have hst := Eth.txStatus_badHandle n (bits ((ws.map (·.1)).getD 0 0) 0 14).toNat hh
    obtain rfl : st = 1 := (hbad (by rw [hst]; decide)).trans hst
    exact ⟨rfl, (ethTxFlags _ _ _ _).2 rfl⟩
  · obtain rfl : st = 0 := hgood d (Eth.txStatus_good hh h14 hl hb) hd hcd
    exact ⟨rfl, (ethTxFlags _ _ _ _).1⟩

/-! The commands. -/

theorem ethTxFrame_sends (n : Fin 2) (dt : Nat) : Occurs (.ethTxFrame n dt []) (fun _ => True) fun s t =>
    let e := s.elapse dt
    let x := s.eth n
    let at_ := ringEntry x.txBase x.txSize x.txCons
    let sends : Prop := s.hasEth n = true ∧ x.ctl.getLsbD 1 = true ∧ x.txProd ≠ x.txCons ∧ x.txSize ≠ 0 ∧ x.pauseTo ≤ e.tempo.count ∧
      e.stalledBy (.dma (.eth n)) = false
    (¬sends → t = e) ∧
    (sends → e.domainRead at_ 8 = none → t = e.ethTxStop n) ∧
    (∀ r, sends → e.domainRead at_ 8 = some r → (∃ y ∈ r.2, y.2 = true) → t = r.1.ethTxStop n) ∧
    (∀ r, sends → e.domainRead at_ 8 = some r → (∀ y ∈ r.2, y.2 = false) → s.EchoQuiet →
      let w := fun (i : Nat) => (r.2.map Prod.fst).getD i 0
      (t.eth n).txCons = x.txCons + 1 ∧
      (∀ h, h = w 1 → r.1.handleOk h = false → (t.eth n).txOk = x.txOk ∧ (t.eth n).stat.getLsbD 3 = true) ∧
      ∀ d, r.1.handleOk (w 1) = true → 14 ≤ (bits (w 0) 0 14).toNat → (bits (w 0) 0 14).toNat + 4 ≤ x.limit →
        (bits (w 0) 0 14).toNat ≤ (r.1.pool (handlePool (w 1))).bytes →
        r.1.domainRead (r.1.handleAt (w 1)) (((bits (w 0) 0 14).toNat + 2) / 3) = some d → (∀ y ∈ d.2, y.2 = false) →
        (t.eth n).txOk = satInc x.txOk ∧ (t.eth n).stat.getLsbD 0 = (x.stat.getLsbD 0 || (w 0).getLsbD 18)) := by
  refine Occurs.of (f := fun s => (s.elapse dt).ethTx n) (fun _ => rfl) fun s _ _ => ?_
  dsimp only
  rw [← s.elapse_eth dt n, ← s.elapse_hasEth dt n]
  refine ⟨State.ethTx_idle, fun hs hd => ?_, fun r hs hd hp => ?_, fun r hs hd hc hq => ?_⟩
  · rw [State.ethTx_sends hs, hd]
  · rw [State.ethTx_sends hs, hd]
    exact State.ethSend_poisoned _ hp
  · have hm := State.domainRead_sansMemory hd
    have he : r.1.eth n = (s.elapse dt).eth n := by rw [State.eth, State.io_of_sansMemory hm, State.eth]
    rw [State.ethTx_sends hs, hd, ← he]
    exact State.ethSend_quiet ((hq.elapse dt).of_sansMemory hm) n _ hc

theorem ethRxFrame_receives (n : Fin 2) (bytes : List Byte) (fcs : Bool) (dt : Nat) :
    Occurs (.ethRxFrame n bytes fcs dt) (fun _ => True) fun s t =>
      let e := s.elapse dt
      let x := s.eth n
      let pause := x.pauseOf bytes fcs
      let p : Fin 32 := x.rxPool.toFin
      let listens : Prop := s.EthListens n
      let kept : Prop := listens ∧ pause = none ∧ x.accepts (bytes.take 6) = true
      let room : Prop := ringUsed (s.rxcNext n) x.rxcCons < x.rxcSize.toNat
      let told := { x with rxcProd := x.rxcProd + 1, rxOk := satInc x.rxOk }
      let granted : Prop := (s.pool p).en = true ∧ 2 < (s.pool p).free.length
      let indexed : Prop := p.val < 31 ∧ (s.pool p).free.headD 0 < 2 ^ 19
      let whole : Prop := fcs = true ∧ bytes.length + 4 ≤ x.limit ∧ bytes.length ≤ (s.pool p).bytes
      (¬listens ∨ (pause = none ∧ x.accepts (bytes.take 6) = false) → t = e) ∧
      (∀ q, listens → pause = some q → t = e.modEth n fun y => { y with pauseTo := e.tempo.count + q * x.quantum }) ∧
      (kept → ¬room → t = e.modEth n fun y => { y with rxNoRing := satInc y.rxNoRing, stat := setBit y.stat 2 true }) ∧
      (kept → room → ¬granted → t.eth n = { x with rxNoBuf := satInc x.rxNoBuf, stat := setBit x.stat 2 true } ∧ t.pool p = s.pool p) ∧
      (kept → room → granted → indexed → ¬whole → t.eth n = { x with rxBad := satInc x.rxBad, stat := setBit x.stat 2 true }) ∧
      (kept → room → granted → indexed → whole → (t.pool p).free = (s.pool p).free.tail ∧ (s.EchoQuiet → t.eth n = told)) := by
  refine Occurs.of (f := fun s => (s.elapse dt).ethRx n bytes fcs) (fun _ => rfl) fun s _ _ => ?_
  have listens_iff : s.EthListens n ↔ (s.elapse dt).EthListens n := by
    rw [State.EthListens, State.EthListens, State.elapse_eth, State.elapse_hasEth]
  have quiet_elapse : s.EchoQuiet → (s.elapse dt).EchoQuiet := fun hq => hq.elapse dt
  dsimp only
  rw [listens_iff, ← s.elapse_eth dt n, ← s.elapse_rxcNext dt n, ← s.elapse_pool dt]
  generalize s.elapse dt = e at *
  refine ⟨fun h => ?_, fun q hl hp => ?_, fun hk hr => ?_, fun hk hr hg => ?_, fun hk hr hg hi hw => ?_, fun hk hr hg hi hw => ?_⟩
  · exact h.elim (State.ethRx_deaf bytes fcs) fun h => State.ethRx_ignored h.1 h.2
  · exact State.ethRx_pause hl hp
  · rw [State.ethRx_kept hk, State.ethReceive_noRing bytes fcs hr]
  · rw [State.ethRx_kept hk, State.ethReceive_noBuf bytes fcs hr hg, State.modEth_same]
    exact ⟨rfl, rfl⟩
  · obtain ⟨low, heq⟩ := State.ethReceive_granted bytes fcs hr rfl hg hi.1 hi.2
    rw [State.ethRx_kept hk, heq, State.ethStore_bad _ (mt (State.ethWhole_setPool hi.2).1 hw)]
    rfl
  · obtain ⟨low, heq⟩ := State.ethReceive_granted bytes fcs hr rfl hg hi.1 hi.2
    obtain ⟨hbm, htold⟩ := State.ethStore_whole n (e.rxcNext n) ((State.ethWhole_setPool (low := low) hi.2).2 hw)
    rw [State.ethRx_kept hk, heq, State.pool, hbm]
    refine ⟨?_, fun hq => htold (quiet_elapse hq)⟩
    exact congrArg Pool.free (e.setPool_same _ _)

theorem State.modEth_congr {s : State} {n : Fin 2} {f g : Eth → Eth} (h : f (s.eth n) = g (s.eth n)) : s.modEth n f = s.modEth n g := by
  rw [State.modEth, h, State.modEth]

theorem State.modEth_eq_self {s : State} {n : Fin 2} {f : Eth → Eth} (h : f (s.eth n) = s.eth n) : s.modEth n f = s :=
  (State.modEth_congr h).trans (s.modEth_id n)

theorem mdioCmd_starts (w : Initiator) (n : Fin 2) (v : Word) : Accesses (.mdioCmd w n v) w (fun _ => True) fun s t =>
    let op := bits v 10 2
    let starts : Prop := s.hasEth n = true ∧ (s.eth n).mdio = none ∧ (op = 1 ∨ op = 2)
    (¬starts → t = s) ∧ (starts → t = s.modEth n fun x => { x with mdio := some (bits v 0 12) }) := by
  have starts_iff (x : Eth) : (x.mdio.isNone && (decide (bits v 10 2 = 1) || decide (bits v 10 2 = 2))) = true ↔
      x.mdio = none ∧ (bits v 10 2 = 1 ∨ bits v 10 2 = 2) := by
    simp only [Bool.and_eq_true, Bool.or_eq_true, decide_eq_true_eq, Option.isNone_iff_eq_none]
  refine Accesses.of (f := fun s => if s.hasEth n = true then s.modEth n fun x => x.mdioStart v else s) (fun _ => rfl) fun s _ => ?_
  dsimp only
  by_cases hn : s.hasEth n = true
  · rw [if_pos hn]
    exact ⟨fun h => State.modEth_eq_self (if_neg fun hx => h ⟨hn, (starts_iff _).1 hx⟩),
      fun h => State.modEth_congr (if_pos ((starts_iff _).2 h.2))⟩
  · rw [if_neg hn]
    exact ⟨fun _ => rfl, fun h => absurd h.1 hn⟩

theorem mdioDone_ends (n : Fin 2) (data : BitVec 16) : Occurs (.mdioDone n data) (fun _ => True) fun s t =>
    ((s.eth n).mdio = none → t = s) ∧ ∀ c, (s.eth n).mdio = some c → t = s.modEth n fun x => { x with
      mdio := none, stat := setBit x.stat 4 true, mdioData := if bits c 10 2 = 2 then data else x.mdioData } := by
  refine Occurs.of (fun _ => rfl) fun s _ _ => ⟨fun h => State.modEth_eq_self ?_, fun c h => State.modEth_congr ?_⟩
  · rw [h]
  · rw [h]

end Sys2Proof.Machine
end

section
/-! SUPPORT. CAN FD: frames received and sent, bus-off, the accesses to a controller's registers (17 R709 to R716, Table 17.6), and O54. -/
namespace Sys2Proof.Machine

theorem State.modCan_congr {s : State} {n : Fin 4} {f g : Can → Can} (h : f (s.can n) = g (s.can n)) : s.modCan n f = s.modCan n g := by
  rw [State.modCan, h, State.modCan]

theorem State.modCan_eq_self {s : State} {n : Fin 4} {f : Can → Can} (h : f (s.can n) = s.can n) : s.modCan n f = s :=
  (State.modCan_congr h).trans (s.modCan_id n)

theorem State.elapse_can (s : State) (dt : Nat) (n : Fin 4) : (s.elapse dt).can n = s.can n := by
  rw [State.can, State.elapse_io, State.can]

theorem State.elapse_canActive (s : State) (dt : Nat) (n : Fin 4) : (s.elapse dt).canActive n = s.canActive n := by
  rw [State.canActive, State.elapse_can, State.hasCan, State.elapse_die, State.canActive, State.hasCan]

/-! Received frames. -/

/-- The controller after a good reception has lowered its receive error count. -/
def Can.received (x : Can) : Can := { x with rxErr := if x.rxErr = 0 then 0 else x.rxErr - 1 }

/-- The end of a received frame. -/
def State.canRx (s : State) (n : Fin 4) (fr : CanFrame) : State :=
  if !s.canActive n || (fr.fd && !(s.can n).ctl.getLsbD 1) then s
  else match ((s.modCan n Can.received).can n).filterOf fr with
    | none => s.modCan n Can.received
    | some i => (s.modCan n Can.received).canKeep n fr i.val

/-- The controller takes part in the bus, and reads frames of this format. -/
def State.CanTakes (s : State) (n : Fin 4) (fr : CanFrame) : Prop := s.canActive n = true ∧ (fr.fd = true → (s.can n).ctl.getLsbD 1 = true)

theorem State.canTakes_iff (s : State) (n : Fin 4) (fr : CanFrame) :
    s.CanTakes n fr ↔ ¬(!s.canActive n || (fr.fd && !(s.can n).ctl.getLsbD 1)) = true := by
  simp [State.CanTakes]

theorem State.canRx_deaf {s : State} {n : Fin 4} {fr : CanFrame} (h : ¬s.CanTakes n fr) : s.canRx n fr = s :=
  if_pos (not_not.1 (mt (s.canTakes_iff n fr).2 h))

theorem State.canRx_takes {s : State} {n : Fin 4} {fr : CanFrame} (h : s.CanTakes n fr) : s.canRx n fr =
    match ((s.modCan n Can.received).can n).filterOf fr with
    | none => s.modCan n Can.received
    | some i => (s.modCan n Can.received).canKeep n fr i.val :=
  if_neg ((s.canTakes_iff n fr).1 h)

/-- Filters do not look at the error counters. -/
theorem Can.filterOf_received (x : Can) (fr : CanFrame) : x.received.filterOf fr = x.filterOf fr := rfl

/-- A frame that no filter keeps. -/
theorem State.canRx_ignored {s : State} {n : Fin 4} {fr : CanFrame} (h : s.CanTakes n fr) (hf : (s.can n).filterOf fr = none) :
    s.canRx n fr = s.modCan n Can.received := by
  rw [State.canRx_takes h, State.modCan_same, Can.filterOf_received, hf]

/-- A frame that a filter keeps. -/
theorem State.canRx_filtered {s : State} {n : Fin 4} {fr : CanFrame} (h : s.CanTakes n fr) {i : Fin 32}
    (hf : (s.can n).filterOf fr = some i) : s.canRx n fr = (s.modCan n Can.received).canKeep n fr i.val := by
  rw [State.canRx_takes h, State.modCan_same, Can.filterOf_received, hf]

theorem State.tell_canRx (s : State) (n : Fin 4) (e : RxqEntry) :
    (s.tell (.canRx n e)).can n = { s.can n with rxq := (s.can n).rxq ++ [e] } := by
  simp [State.tell, State.can]

section
variable {s : State} {n : Fin 4} (fr : CanFrame) (filter : Nat)

theorem State.canKeep_noHandle (h : (s.can n).handles = []) : (s.canKeep n fr filter).can n = (s.can n).dropRx := by
  unfold State.canKeep
  dsimp only
  rw [h, State.modCan_same]

variable {h : Word} {rest : List Word} (hh : (s.can n).handles = h :: rest) (hq : s.EchoQuiet)
include hh hq

theorem State.canKeep_quiet : s.canKeep n fr filter =
    if 16 ≤ (s.can n).rxq.length then s.modCan n Can.dropRx
    else if !s.handleOk h then s.modCan n fun x => { x.dropRx with handles := rest, flags := setBit x.dropRx.flags 1 true }
    else
      let s := (s.domainWrite (.dma (.can n)) (s.handleAt h) (packBytes fr.data)).1
      let ts := r500 s.tempo.time
      (s.modCan n fun x => { x with handles := rest }).dmaDone (.dma (.can n)) (.canRx n
        { idLo := fr.id.setWidth 24, idHi := canIdHi fr, len := BitVec.ofNat 24 (fr.data.length + filter * 256), handle := h
          ts0 := ts.getD 0 0, ts1 := ts.getD 1 0, ts2 := ts.getD 2 0 }) := by
  unfold State.canKeep
  dsimp only
  rw [hh, hq.waiting]
  rfl

theorem State.canKeep_full (hl : 16 ≤ (s.can n).rxq.length) : (s.canKeep n fr filter).can n = (s.can n).dropRx := by
  rw [State.canKeep_quiet fr filter hh hq, if_pos hl, State.modCan_same]

theorem State.canKeep_badHandle (hl : (s.can n).rxq.length < 16) (hok : s.handleOk h = false) : (s.canKeep n fr filter).can n =
    { s.can n with handles := rest, flags := setBit (setBit (s.can n).flags 0 true) 1 true } := by
  rw [State.canKeep_quiet fr filter hh hq, if_neg (by omega), if_pos (by simp [hok]), State.modCan_same]
  rfl

theorem State.canKeep_kept (hl : (s.can n).rxq.length < 16) (hok : s.handleOk h = true) : ∃ q : RxqEntry,
    (s.canKeep n fr filter).can n = { s.can n with handles := rest, rxq := (s.can n).rxq ++ [q] } ∧ q.handle = h ∧
    q.idLo = fr.id.setWidth 24 ∧ q.idHi = canIdHi fr ∧ q.len = BitVec.ofNat 24 (fr.data.length + filter * 256) := by
  rw [State.canKeep_quiet fr filter hh hq, if_neg (by omega), if_neg (by simp [hok])]
  have hw := hq.domainWrite (.dma (.can n)) (s.handleAt h) (packBytes fr.data)
  dsimp only
  generalize (s.domainWrite (.dma (.can n)) (s.handleAt h) (packBytes fr.data)).1 = u at *
  have hu : (u.modCan n fun x => { x with handles := rest }).EchoQuiet :=
    show u.EchoQuiet from hq.of_sansMemory hw
  have hc : u.can n = s.can n := by rw [State.can, State.io_of_sansMemory hw, State.can]
  rw [hu.dmaDone, State.tell_canRx, State.modCan_same, hc]
  exact ⟨_, rfl, rfl, rfl, rfl, rfl⟩
end

/-! Sent frames. -/

/-- The controller after slot `i` has completed with a status. -/
def Can.complete (x : Can) (i : Fin 8) (status : BitVec 3) : Can :=
  { x.modSlot i (fun y => { y with req := false, done := true, status }) with flags := setBit x.flags 3 true }

theorem Can.modSlot_same (x : Can) (i : Fin 8) (f : CanSlot → CanSlot) : (x.modSlot i f).tx[i] = f x.tx[i] := by
  simp [Can.modSlot]

theorem Can.modSlot_eq_self {x : Can} {i : Fin 8} {f : CanSlot → CanSlot} (h : f x.tx[i] = x.tx[i]) : x.modSlot i f = x := by
  rw [Can.modSlot, h]
  simp

theorem Can.complete_slot (x : Can) (i : Fin 8) (status : BitVec 3) :
    (x.complete i status).tx[i] = { x.tx[i] with req := false, done := true, status } :=
  x.modSlot_same i fun y => { y with req := false, done := true, status }

theorem State.canDone_can (s : State) (n : Fin 4) (i : Fin 8) (status : BitVec 3) :
    (s.canDone n i status).can n = (s.can n).complete i status := by
  unfold State.canDone
  dsimp only
  split
  · rw [State.can, State.dmaRelease_io]
    exact s.modCan_same n _
  · exact s.modCan_same n _

theorem setBit_true_getLsbD {m : Nat} (x : BitVec m) {i : Nat} (hi : i < m) : (setBit x i true).getLsbD i = true := by
  rw [getLsbD_setBit x i true hi, if_pos rfl]

/-- The controller may send on the bus. -/
def State.CanSends (s : State) (n : Fin 4) : Prop :=
  s.canActive n = true ∧ (s.can n).ctl.getLsbD 3 = false ∧ s.refrain.fence = false ∧ s.stalledBy (.dma (.can n)) = false

theorem State.canSends_iff (s : State) (n : Fin 4) : s.CanSends n ↔
    ¬(!s.canActive n || (s.can n).ctl.getLsbD 3 || s.refrain.fence || s.stalledBy (.dma (.can n))) = true := by
  simp only [State.CanSends, Bool.or_eq_true, Bool.not_eq_true', not_or, Bool.not_eq_false, Bool.not_eq_true, and_assoc]

/-- The slot that transmits goes to the bus, or completes. -/
def State.canSlot (s : State) (n : Fin 4) (i : Fin 8) (o : CanOutcome) : State :=
  let x := s.can n
  let sl := x.tx[i]
  if !canLenOk (sl.idHi.getLsbD 9 && x.ctl.getLsbD 1) sl.len.toNat then s.canDone n i 3
  else if sl.idHi.getLsbD 12 || sl.len = 0 then s.canOnBus n i o
  else if !s.handleOk sl.handle then s.canDone n i 2
  else match s.domainRead (s.handleAt sl.handle) ((sl.len.toNat + 2) / 3) with
    | none => s.canDone n i 4
    | some d => if d.2.any (·.2) then d.1.canDone n i 4 else d.1.canOnBus n i o

/-- The end of a sent frame. -/
def State.canTx (s : State) (n : Fin 4) (o : CanOutcome) : State :=
  if !s.canActive n || (s.can n).ctl.getLsbD 3 || s.refrain.fence || s.stalledBy (.dma (.can n)) then s
  else match (s.can n).winner with
    | none => s
    | some i => s.canSlot n i o

theorem State.canTx_idle {s : State} {n : Fin 4} {o : CanOutcome} (h : ¬s.CanSends n ∨ (s.can n).winner = none) : s.canTx n o = s := by
  unfold State.canTx
  split
  · rfl
  · next hc =>
    rw [h.resolve_left (not_not_intro ((s.canSends_iff n).2 hc))]

theorem State.canTx_sends {s : State} {n : Fin 4} {i : Fin 8} (o : CanOutcome) (h : s.CanSends n) (hw : (s.can n).winner = some i) :
    s.canTx n o = s.canSlot n i o := by
  rw [State.canTx, if_neg ((s.canSends_iff n).1 h), hw]

section
variable {s : State} {n : Fin 4} {i : Fin 8} (o : CanOutcome)

theorem State.canSlot_badLength
    (h : canLenOk ((s.can n).tx[i].idHi.getLsbD 9 && (s.can n).ctl.getLsbD 1) (s.can n).tx[i].len.toNat = false) :
    (s.canSlot n i o).can n = (s.can n).complete i 3 := by
  unfold State.canSlot
  dsimp only
  rw [h, Bool.not_false, if_pos rfl, State.canDone_can]

variable (hl : canLenOk ((s.can n).tx[i].idHi.getLsbD 9 && (s.can n).ctl.getLsbD 1) (s.can n).tx[i].len.toNat = true)
include hl

/-- A remote frame or one without data needs no buffer. -/
theorem State.canSlot_noData (h : (s.can n).tx[i].idHi.getLsbD 12 = true ∨ (s.can n).tx[i].len = 0) :
    s.canSlot n i o = s.canOnBus n i o := by
  unfold State.canSlot
  dsimp only
  rw [hl, if_neg (by decide), if_pos (by rwa [Bool.or_eq_true, decide_eq_true_eq])]

theorem State.canSlot_badHandle (h12 : (s.can n).tx[i].idHi.getLsbD 12 = false) (h0 : (s.can n).tx[i].len ≠ 0)
    (hh : s.handleOk (s.can n).tx[i].handle = false) : (s.canSlot n i o).can n = (s.can n).complete i 2 := by
  unfold State.canSlot
  dsimp only
  rw [hl, if_neg (by decide), if_neg (by rw [h12, decide_eq_false h0]; decide), hh, Bool.not_false, if_pos rfl, State.canDone_can]
end


theorem State.canOnBus_error (s : State) (n : Fin 4) (i : Fin 8) :
    ((s.canOnBus n i .error).can n).tec = (s.can n).tec + 8 ∧ ((s.canOnBus n i .error).can n).tx = (s.can n).tx := by
  rw [State.canOnBus, State.modCan_same]
  exact ⟨rfl, rfl⟩

theorem State.canOnBus_sent (s : State) (n : Fin 4) (i : Fin 8) : let x := (s.canOnBus n i .sent).can n
    x.tx[i].req = false ∧ x.tx[i].done = true ∧ x.tx[i].status = 0 ∧
    x.tec = (if (s.can n).tec = 0 then 0 else (s.can n).tec - 1) ∧ x.flags.getLsbD 3 = true := by
  dsimp only
  rw [State.canOnBus, State.canDone_can, State.modCan_same, Can.complete_slot]
  exact ⟨rfl, rfl, rfl, rfl, setBit_true_getLsbD _ (by decide)⟩

/-! The accesses to a controller's registers. -/

section
variable {s : State} {n : Fin 4} (hn : s.hasCan n = true)
include hn

theorem State.canWrite_txCtl (i : Fin 8) (v : Word) : s.canWrite n (0x84 + 16 * i.val) v = s.canTxCtl n i v := by
  have hi := i.isLt
  have hslot : (⟨(0x84 + 16 * i.val - 0x80) / 16, by omega⟩ : Fin 8) = i := Fin.ext (by change (0x84 + 16 * i.val - 0x80) / 16 = i.val; omega)
  have hreg : (0x84 + 16 * i.val) % 16 = 4 := by omega
  rw [State.canWrite, if_neg (by rw [hn]; decide), dif_pos ⟨by omega, by omega⟩]
  dsimp only
  rw [hslot, hreg]
  rfl

theorem State.canWrite_ctl (v : Word) :
    s.canWrite n 0 v = s.modCan n fun x => { x with ctl := (bits v 0 7 &&& 0x5F) ||| ((x.ctl ||| bits v 0 7) &&& 0x20) } :=
  if_neg (by simp [hn])

theorem State.canWrite_rxh (v : Word) : s.canWrite n 0x08 v = s.rxhPush n v := if_neg (by simp [hn])

theorem State.canWrite_pop (v : Word) : s.canWrite n 0x17 v = s.modCan n fun x => { x with rxq := x.rxq.tail } := if_neg (by simp [hn])

theorem State.canRead_rxq (w : Initiator) : (s.canRead w n 0x10).1 =
    s.modCan n fun x => { x with latch := Tbl.put x.latch w.idx (x.rxq.headD RxqEntry.empty) } :=
  (congrArg Prod.fst (if_neg (by simp [hn]))).trans rfl
end

/-- The word that REQ or CANCEL writes: REQ and CANCEL are its bits 0 and 1, and REL and DONE stay as they are. -/
theorem txCtlWord_bits (rel : Bool) : let req : Word := flag 24 2 rel ||| 1
    let cancel : Word := flag 24 2 rel ||| 2
    (req.getLsbD 0 = true ∧ req.getLsbD 1 = false ∧ req.getLsbD 2 = rel ∧ req.getLsbD 8 = false) ∧
    cancel.getLsbD 0 = false ∧ cancel.getLsbD 1 = true ∧ cancel.getLsbD 2 = rel ∧ cancel.getLsbD 8 = false := by
  revert rel
  decide

/-- A write of TX_CTL that leaves REL and DONE as they are. -/
theorem State.canTxCtl_keeps {s : State} {n : Fin 4} {i : Fin 8} {v : Word} (h2 : v.getLsbD 2 = ((s.can n).tx[i]).rel)
    (h8 : v.getLsbD 8 = false) : s.canTxCtl n i v =
      let u := s.modCan n fun x => x.modSlot i fun y => { y with req := y.req || v.getLsbD 0 }
      if v.getLsbD 1 && ((u.can n).tx[i]).req then u.canDone n i 1 else u := by
  have hm : (s.modCan n fun x => x.modSlot i fun y =>
      { y with rel := v.getLsbD 2, done := w1c y.done (v.getLsbD 8), req := y.req || v.getLsbD 0 }) =
      s.modCan n fun x => x.modSlot i fun y => { y with req := y.req || v.getLsbD 0 } := by
    refine State.modCan_congr ?_
    rw [Can.modSlot, Can.modSlot, h2, h8, w1c, Bool.not_false, Bool.and_true]
  rw [State.canTxCtl, hm]

theorem canReq_requests (w : Initiator) (n : Fin 4) (slot : Fin 8) : Accesses (.canReq w n slot) w (fun s => s.hasCan n = true) fun s t =>
    t = s.modCan n fun x => x.modSlot slot fun y => { y with req := true } := by
  refine Accesses.of (f := fun s => s.canWrite n (0x84 + 16 * slot.val) (flag 24 2 ((s.can n).tx[slot]).rel ||| 1))
    (fun _ => rfl) fun s hn => ?_
  obtain ⟨⟨h0, h1, h2, h8⟩, -⟩ := txCtlWord_bits ((s.can n).tx[slot]).rel
  rw [State.canWrite_txCtl hn, State.canTxCtl_keeps h2 h8, h0, h1]
  simp only [Bool.or_true]
  rfl

/-- A write of CANCEL completes a slot that is requested. -/
theorem State.canTxCtl_cancel {s : State} {n : Fin 4} {i : Fin 8} {v : Word} (h0 : v.getLsbD 0 = false) (h1 : v.getLsbD 1 = true)
    (h2 : v.getLsbD 2 = ((s.can n).tx[i]).rel) (h8 : v.getLsbD 8 = false) :
    s.canTxCtl n i v = if ((s.can n).tx[i]).req then s.canDone n i 1 else s := by
  have hm : (s.modCan n fun x => x.modSlot i fun y => { y with req := y.req || false }) = s :=
    State.modCan_eq_self (Can.modSlot_eq_self (by rw [Bool.or_false]))
  rw [State.canTxCtl_keeps h2 h8, h0, h1, hm]
  rfl

theorem State.canDone_keepsBuffer {s : State} {n : Fin 4} {i : Fin 8} (status : BitVec 3) (h : ((s.can n).tx[i]).rel = false) :
    s.canDone n i status = s.modCan n fun x => x.complete i status :=
  if_neg (by rw [h]; decide)

theorem canCancel_cancels (w : Initiator) (n : Fin 4) (slot : Fin 8) :
    Accesses (.canCancel w n slot) w (fun s => s.hasCan n = true) fun s t =>
      (((s.can n).tx[slot]).req = false → t = s) ∧
      (((s.can n).tx[slot]).req = true → ((s.can n).tx[slot]).rel = false → t = s.modCan n fun x => x.complete slot 1) ∧
      (((s.can n).tx[slot]).req = true → ((t.can n).tx[slot]).req = false ∧ ((t.can n).tx[slot]).status = 1) := by
  refine Accesses.of (f := fun s => s.canWrite n (0x84 + 16 * slot.val) (flag 24 2 ((s.can n).tx[slot]).rel ||| 2))
    (fun _ => rfl) fun s hn => ?_
  obtain ⟨-, h0, h1, h2, h8⟩ := txCtlWord_bits ((s.can n).tx[slot]).rel
  rw [State.canWrite_txCtl hn, State.canTxCtl_cancel h0 h1 h2 h8]
  refine ⟨fun h => if_neg (by rw [h]; decide), fun h hrel => (if_pos h).trans (State.canDone_keepsBuffer 1 hrel), fun h => ?_⟩
  rw [if_pos h, State.canDone_can, Can.complete_slot]
  exact ⟨rfl, rfl⟩

/-- REC keeps the other bits of the control register. -/
theorem canCtl_rec (c : BitVec 7) : let v : Word := c.setWidth 24 ||| bitAt 24 5
    (bits v 0 7 &&& 0x5F) ||| ((c ||| bits v 0 7) &&& 0x20) = setBit c 5 true := by
  revert c
  decide

theorem canRec_recovers (w : Initiator) (n : Fin 4) : Accesses (.canRec w n) w (fun s => s.hasCan n = true) fun s t =>
    t = s.modCan n fun x => { x with ctl := setBit x.ctl 5 true } := by
  refine Accesses.of (f := fun s => s.canWrite n 0 ((s.can n).ctl.setWidth 24 ||| bitAt 24 5)) (fun _ => rfl) fun s hn => ?_
  rw [State.canWrite_ctl hn]
  exact State.modCan_congr (congrArg (fun c => { s.can n with ctl := c }) (canCtl_rec _))

theorem rxhPush_pushes (w : Initiator) (n : Fin 4) (v : Word) : Accesses (.rxhPush w n v) w (fun s => s.hasCan n = true) fun s t =>
    t = if s.handleOk v = true ∧ (s.can n).handles.length < 8 then s.modCan n fun x => { x with handles := x.handles ++ [v] }
      else s.modCan n fun x => { x with flags := setBit x.flags 1 true } := by
  refine Accesses.of (f := fun s => s.canWrite n 0x08 v) (fun _ => rfl) fun s hn => ?_
  rw [State.canWrite_rxh hn, State.rxhPush]
  simp only [Bool.and_eq_true, decide_eq_true_eq]

theorem rxqIdLoRead_latches (w : Initiator) (n : Fin 4) : Accesses (.rxqIdLoRead w n) w (fun s => s.hasCan n = true) fun s t =>
    t = s.modCan n fun x => { x with latch := Tbl.put x.latch w.idx (x.rxq.headD RxqEntry.empty) } :=
  Accesses.of (fun _ => rfl) fun _ hn => State.canRead_rxq hn w

theorem rxqPop_pops (w : Initiator) (n : Fin 4) : Accesses (.rxqPop w n) w (fun s => s.hasCan n = true) fun s t =>
    t = s.modCan n fun x => { x with rxq := x.rxq.tail } :=
  Accesses.of (fun _ => rfl) fun _ hn => State.canWrite_pop hn 0

/-! The events. -/

theorem busOffRecovery_recovers (n : Fin 4) : Occurs (.busOffRecovery n) (fun _ => True) fun s t =>
    let x := s.can n
    let due : Prop := x.busoff = true ∧ (x.ctl.getLsbD 4 = true ∨ x.ctl.getLsbD 5 = true)
    (¬due → t = s) ∧ (due → t.can n = { x with
      busoff := false, passive := false, tec := 0, rxErr := 0, ctl := setBit x.ctl 5 false, flags := setBit x.flags 2 true }) := by
  have due_iff (x : Can) : (x.busoff && (x.ctl.getLsbD 4 || x.ctl.getLsbD 5)) = true ↔
      x.busoff = true ∧ (x.ctl.getLsbD 4 = true ∨ x.ctl.getLsbD 5 = true) := by rw [Bool.and_eq_true, Bool.or_eq_true]
  exact Occurs.of (fun _ => rfl) fun s _ _ => ⟨fun h => State.modCan_eq_self (if_neg (mt (due_iff _).1 h)),
    fun h => (s.modCan_same n _).trans (if_pos ((due_iff _).2 h))⟩

theorem canRxFrame_receives (n : Fin 4) (fr : CanFrame) (dt : Nat) : Occurs (.canRxFrame n fr dt) (fun _ => True) fun s t =>
    let e := s.elapse dt
    let x := s.can n
    let less := x.received
    let takes : Prop := s.CanTakes n fr
    (¬takes → t = e) ∧ (takes → x.filterOf fr = none → t.can n = less) ∧
    (∀ i, takes → x.filterOf fr = some i →
      (x.handles = [] → t.can n = { less with flags := setBit x.flags 0 true }) ∧
      ∀ h rest, x.handles = h :: rest → s.EchoQuiet →
        (16 ≤ x.rxq.length → t.can n = { less with flags := setBit x.flags 0 true }) ∧
        (x.rxq.length < 16 → s.handleOk h = false →
          t.can n = { less with handles := rest, flags := setBit (setBit x.flags 0 true) 1 true }) ∧
        (x.rxq.length < 16 → s.handleOk h = true → ∃ q, t.can n = { less with handles := rest, rxq := x.rxq ++ [q] } ∧ q.handle = h ∧
          q.idLo = fr.id.setWidth 24 ∧ q.idHi = canIdHi fr ∧ q.len = BitVec.ofNat 24 (fr.data.length + i.val * 256))) := by
  refine Occurs.of (f := fun s => (s.elapse dt).canRx n fr) (fun _ => rfl) fun s _ _ => ?_
  have takes_iff : s.CanTakes n fr ↔ (s.elapse dt).CanTakes n fr := by
    rw [State.CanTakes, State.CanTakes, State.elapse_can, State.elapse_canActive]
  have quiet_elapse : s.EchoQuiet → (s.elapse dt).EchoQuiet := fun hq => hq.elapse dt
  dsimp only
  rw [takes_iff, ← s.elapse_can dt n]
  simp only [← s.elapse_handleOk dt]
  generalize s.elapse dt = e at *
  refine ⟨State.canRx_deaf, fun ht hf => ?_, fun i ht hf => ⟨fun hh => ?_,
    fun h rest hh hq => ⟨fun hl => ?_, fun hl hok => ?_, fun hl hok => ?_⟩⟩⟩
  · rw [State.canRx_ignored ht hf, State.modCan_same]
  all_goals
    rw [State.canRx_filtered ht hf]
    have hx := e.modCan_same n Can.received
    have hhx := (congrArg Can.handles hx).trans hh
  · rw [State.canKeep_noHandle fr _ hhx, hx]
    rfl
  all_goals
    have hqx : (e.modCan n Can.received).EchoQuiet := quiet_elapse hq
    have hlen := congrArg (fun x => x.rxq.length) hx
  · rw [State.canKeep_full fr _ hhx hqx (hlen ▸ hl), hx]
    rfl
  · rw [State.canKeep_badHandle fr _ hhx hqx (hlen ▸ hl) hok, hx]
    rfl
  · obtain ⟨q, hq⟩ := State.canKeep_kept fr i.val hhx hqx (hlen ▸ hl) hok
    rw [hx] at hq
    exact ⟨q, hq⟩

theorem canTxFrame_sends (n : Fin 4) (o : CanOutcome) (dt : Nat) : Occurs (.canTxFrame n o dt []) (fun _ => True) fun s t =>
    let e := s.elapse dt
    let x := s.can n
    let sends : Prop := s.canActive n = true ∧ x.ctl.getLsbD 3 = false ∧ s.refrain.fence = false ∧ e.stalledBy (.dma (.can n)) = false
    (¬sends ∨ x.winner = none → t = e) ∧
    ∀ i, sends → x.winner = some i →
      let sl := x.tx[i]
      let lenOk := canLenOk (sl.idHi.getLsbD 9 && x.ctl.getLsbD 1) sl.len.toNat
      (lenOk = false → (t.can n).tx[i] = { sl with req := false, done := true, status := 3 } ∧ (t.can n).flags = setBit x.flags 3 true) ∧
      (lenOk = true → sl.idHi.getLsbD 12 = true ∨ sl.len = 0 →
        (o = .arbLost → t = e) ∧ (o = .error → (t.can n).tec = x.tec + 8 ∧ (t.can n).tx = x.tx) ∧
        (o = .sent → (t.can n).tx[i].req = false ∧ (t.can n).tx[i].done = true ∧ (t.can n).tx[i].status = 0 ∧
          (t.can n).tec = (if x.tec = 0 then 0 else x.tec - 1) ∧ (t.can n).flags.getLsbD 3 = true)) ∧
      (lenOk = true → sl.idHi.getLsbD 12 = false → sl.len ≠ 0 → s.handleOk sl.handle = false →
        (t.can n).tx[i] = { sl with req := false, done := true, status := 2 }) := by
  refine Occurs.of (f := fun s => (s.elapse dt).canTx n o) (fun _ => rfl) fun s _ _ => ?_
  dsimp only
  rw [← s.elapse_can dt n, ← s.elapse_canActive dt n, ← s.elapse_refrain dt]
  simp only [← s.elapse_handleOk dt]
  generalize s.elapse dt = e at *
  refine ⟨State.canTx_idle, fun i hs hw => ⟨fun hl => ?_, fun hl hd => ⟨fun ho => ?_, fun ho => ?_, fun ho => ?_⟩,
    fun hl h12 h0 hh => ?_⟩⟩
  all_goals rw [State.canTx_sends o hs hw]
  · rw [State.canSlot_badLength o hl, Can.complete_slot]
    exact ⟨rfl, rfl⟩
  · rw [State.canSlot_noData o hl hd, ho]
    rfl
  · rw [State.canSlot_noData o hl hd, ho]
    exact e.canOnBus_error n i
  · rw [State.canSlot_noData o hl hd, ho]
    exact e.canOnBus_sent n i
  · rw [State.canSlot_badHandle o hl h12 h0 hh, Can.complete_slot]

end Sys2Proof.Machine

open Sys2Proof Sys2Proof.Machine

/-- Settles O54, by a lemma for each command about what it makes of its MAC or controller. -/
theorem networkUnits : Obligations.NetworkUnits := by
  refine ⟨ethRxFrame_receives, ethTxFrame_sends, mdioCmd_starts, mdioDone_ends, fun n => ⟨canRxFrame_receives n, canTxFrame_sends n,
    busOffRecovery_recovers n, fun w => ⟨fun slot => ⟨canReq_requests w n slot, canCancel_cancels w n slot⟩, canRec_recovers w n,
      rxhPush_pushes w n, rxqIdLoRead_latches w n, rxqPop_pops w n⟩⟩⟩
end

section
/-! SUPPORT. What lies outside the Bar unit and Tempo: operations that leave the bars, the time and the holds of BARWAIT alone. -/
namespace Sys2Proof.Machine

/-- What the boundaries of bars and beats are stated of: the Bar unit, Tempo, the cores that BARWAIT holds, and the die. -/
def State.barView (s : State) : Die × BarUnit × Tempo × Vector Bool 12 := (s.die, s.bar, s.tempo, s.cores.map VoiceCore.barHold)

theorem State.die_of_barView {s t : State} (h : t.barView = s.barView) : t.die = s.die := congrArg Prod.fst h

theorem State.bar_of_barView {s t : State} (h : t.barView = s.barView) : t.bar = s.bar := congrArg (fun x => x.2.1) h

theorem State.tempo_of_barView {s t : State} (h : t.barView = s.barView) : t.tempo = s.tempo := congrArg (fun x => x.2.2.1) h

/-! Folds, cores, and the operations of other layers. -/

theorem State.foldl_barView {α : Type} (f : State → α → State) (h : ∀ s a, (f s a).barView = s.barView) (l : List α) (s : State) :
    (l.foldl f s).barView = s.barView := State.fold_keeps _ f h l s

theorem State.modCore_barView (s : State) (c : Fin 12) (f : VoiceCore → VoiceCore) (h : ∀ v, (f v).barHold = v.barHold) :
    (s.modCore c f).barView = s.barView := by
  have hv : (s.modCore c f).cores.map VoiceCore.barHold = s.cores.map VoiceCore.barHold := by
    apply Vector.ext
    intro i hi
    simp only [State.modCore, State.setCore, Vector.getElem_map, Vector.getElem_set]
    split
    · next e =>
      subst e
      exact h _
    · rfl
  exact congrArg (fun x => (s.die, s.bar, s.tempo, x)) hv

theorem Traced.barView {s t : State} (h : Traced s t) : t.barView = s.barView := by
  rw [h.eq]
  rfl

theorem State.edge_barView (s : State) (t n : Nat) : (s.edge t n).barView = s.barView := (Traced.refl.edge).barView

theorem State.sansMemory_barView (s : State) : s.sansMemory.barView = s.barView := by
  have hv : s.sansMemory.cores.map VoiceCore.barHold = s.cores.map VoiceCore.barHold := by simp [State.sansMemory, Vector.map_map]
  exact congrArg (fun x => (s.die, s.bar, s.tempo, x)) hv

theorem State.barView_of_sansMemory {s t : State} (h : t.sansMemory = s.sansMemory) : t.barView = s.barView := by
  rw [← State.sansMemory_barView t, h, State.sansMemory_barView]

/-! Writes to memory that may wait on Echo, and the stream of Refrain. -/

theorem State.tell_barView (s : State) (d : DmaDone) : (s.tell d).barView = s.barView := by cases d <;> rfl

theorem State.tryWrite_barView (s : State) (later : List Stalled) (x : Stalled) : (s.tryWrite later x).1.barView = s.barView := by
  unfold State.tryWrite
  split
  · rfl
  · rfl
  · exact (State.foldl_barView _ State.tell_barView _ _).trans (State.barView_of_sansMemory (s.complete_sansMemory _ _))

theorem State.retryAll_barView (s : State) (l : List Stalled) : (s.retryAll l).barView = s.barView := by
  induction l generalizing s with
  | nil => rfl
  | cons x xs ih => exact (ih _).trans (s.tryWrite_barView _ _)

theorem State.retryStalled_barView (s : State) : s.retryStalled.barView = s.barView := State.retryAll_barView _ _

theorem State.produceEnd_barView (s : State) (status : Word) : (s.produceEnd status).barView = s.barView := by
  unfold State.produceEnd
  split <;> rfl

theorem State.spillDone_barView (s : State) (a : Nat) (ws : List Word) : (s.spillDone a ws).barView = s.barView := by
  unfold State.spillDone
  dsimp only
  split
  · change (s.complete [] (spillWrite a ws)).barView = s.barView
    exact State.barView_of_sansMemory (s.complete_sansMemory _ _)
  · rfl

theorem State.spillAll_barView (s : State) (n : Nat) : (s.spillAll n).barView = s.barView := by
  induction n generalizing s with
  | zero => rfl
  | succ n ih =>
    rw [State.spillAll]
    split
    · rfl
    · exact (ih _).trans (s.spillDone_barView _ _)

theorem State.abandonStream_barView (s : State) (lost : Bool) : (s.abandonStream lost).barView = s.barView := by
  unfold State.abandonStream
  split
  · rfl
  · dsimp only
    rw [State.spillAll_barView, State.retryStalled_barView]
    change (if _ then _ else _ : State).barView = _
    split
    · rfl
    · exact s.produceEnd_barView _

theorem State.spillOut_barView (s : State) (n : Nat) : (s.spillOut n).barView = s.barView := by
  induction n generalizing s with
  | zero => rfl
  | succ n ih =>
    rw [State.spillOut]
    split
    · rfl
    · rw [ih, State.spillAll_barView]
      split
      · exact s.abandonStream_barView _
      · rfl

theorem State.produceB_barView (s : State) (ft : BitVec 3) (payload : List Word) : (s.produceB ft payload).barView = s.barView :=
  State.spillOut_barView _ 2

theorem State.writeLine_barView (s : State) (x : Stalled) : (s.writeLine x).1.barView = s.barView := by
  unfold State.writeLine
  split
  · rw [State.tryWrite_barView, State.abandonStream_barView]
  · exact s.tryWrite_barView _ _

theorem State.cleanLine_barView (s : State) (who : Option Initiator) (line : Nat) (drop : Option CacheSite) :
    (s.cleanLine who line drop).1.barView = s.barView := by
  unfold State.cleanLine State.cleanWords
  dsimp only
  split
  · split
    · exact State.barView_of_sansMemory (s.dropSite_sansMemory _ _)
    · rfl
  · exact s.writeLine_barView _

/-! Ways of the caches. -/

theorem State.setL2Ways_barView (s : State) (sec : Fin 3) (v : Word) : (s.setL2Ways sec v).barView = s.barView :=
  State.foldl_barView _ (fun s _ => State.foldl_barView _ (fun s _ => s.cleanLine_barView _ _ _) _ s) _ _

theorem State.setL3Ways_barView (s : State) (n : Fin 4) (en iso : Word) : (s.setL3Ways n en iso).barView = s.barView :=
  State.foldl_barView _ (fun s _ => State.foldl_barView _ (fun s _ => s.cleanLine_barView _ _ _) _ s) _ _

/-! Replies. -/

theorem State.putRpl_barView (s : State) (r : BitVec 5) (i : Word) (ws : List Word) : (s.putRpl r i ws).barView = s.barView := by
  induction ws generalizing s i with
  | nil => rfl
  | cons w ws ih => exact ih _ _

theorem State.forwardReply_barView (s : State) (final : Bool) (st : Status) (seq : Word) (ws : List Word) :
    (s.forwardReply final st seq ws).barView = s.barView := by
  unfold State.forwardReply
  dsimp only
  split
  · rfl
  · split <;> rfl

theorem State.setRingWord_barView (s : State) (r : BitVec 5) (off : Nat) (v : Word) : (s.setRingWord r off v).barView = s.barView := rfl

theorem State.writeReply_barView (s : State) (r : BitVec 5) (ws : List Word) : (s.writeReply r ws).barView = s.barView := by
  unfold State.writeReply
  rw [State.setRingWord_barView, State.putRpl_barView]

theorem State.reply_barView (s : State) (r : BitVec 5) (st : Status) (final : Bool) (tag seq : Word) (results : List Word) :
    (s.reply r st final tag seq results).barView = s.barView := by
  unfold State.reply
  dsimp only
  split
  · rfl
  · split
    · rw [State.forwardReply_barView, State.writeReply_barView]
    · exact s.writeReply_barView _ _

theorem State.finish_barView (s : State) (c : Cmd) (st : Status) (results : List Word) : (s.finish c st results).barView = s.barView := by
  unfold State.finish
  split
  · rfl
  · exact State.reply_barView (s.dropCmd c) _ _ _ _ _ _

theorem State.finishOp_barView (s : State) (op : BitVec 8) (st : Status) (results : List Word) :
    (s.finishOp op st results).barView = s.barView := by
  unfold State.finishOp
  split
  · exact s.finish_barView _ _ _
  · rfl

theorem State.finishAll_barView (s : State) (op : BitVec 8) (st : Status) (results : List Word) :
    (s.finishAll op st results).barView = s.barView := State.foldl_barView _ (fun s c => s.finish_barView c st results) _ s

theorem State.notice_barView (s : State) (code : BitVec 8) (data : Word) : (s.notice code data).barView = s.barView := by
  unfold State.notice
  split <;> rfl

end Sys2Proof.Machine
end

section
/-! SUPPORT. The work of other units at the boundaries of bars and beats: Refrain, Rehearsal, the controller, the traces and the clocks
leave the bars, the time and the holds of BARWAIT alone. -/
namespace Sys2Proof.Machine

theorem State.modRf_barView (s : State) (f : Refrain → Refrain) : (s.modRf f).barView = s.barView := rfl
theorem State.modHealth_barView (s : State) (f : Health → Health) : (s.modHealth f).barView = s.barView := rfl
/-! Refrain (14). -/

theorem State.leaveTo_barView (s : State) (r : Role) : (s.leaveTo r).barView = s.barView := rfl
theorem State.becomeActive_barView (s : State) : s.becomeActive.barView = s.barView := rfl

theorem State.flushBody_barView (s : State) (n : Nat) : (s.flushBody n).barView = s.barView := by
  induction n generalizing s with
  | zero => rfl
  | succ n ih =>
    rw [State.flushBody]
    split
    · rfl
    · split
      · rfl
      · exact (ih _).trans (State.produceB_barView _ _ _)

theorem State.endIfDone_barView (s : State) : s.endIfDone.barView = s.barView := by
  unfold State.endIfDone
  split
  · rfl
  · split
    · exact s.produceEnd_barView _
    · rfl

theorem State.sendHead_barView (s : State) (head : List Word) : (s.sendHead head).barView = s.barView :=
  (State.endIfDone_barView _).trans ((State.flushBody_barView _ _).trans (s.produceB_barView 4 head))

theorem State.captureAt_barView (s : State) (bar : Nat) : (s.captureAt bar).barView = s.barView := by
  unfold State.captureAt State.freeze
  dsimp only
  split
  · rfl
  · split
    · rfl
    · split
      · rfl
      · exact State.sendHead_barView _ _

theorem State.handoverTimeout_barView (s : State) : s.handoverTimeout.barView = s.barView := by
  unfold State.handoverTimeout
  split
  · exact State.finishOp_barView _ _ _ _
  · rfl

theorem State.evaluateSigns_barView (s : State) : s.evaluateSigns.barView = s.barView := by
  unfold State.evaluateSigns
  dsimp only
  split
  · rfl
  · split <;> rfl

theorem State.takeOver_barView (s : State) : s.takeOver.barView = s.barView := by
  unfold State.takeOver
  split <;> rfl

theorem State.roleBoundary_barView (s : State) : s.roleBoundary.barView = s.barView := by
  unfold State.roleBoundary
  split
  · rfl
  · extract_lets run s1 s2 s3 s4 s5 s6
    have h2 : s2.barView = s.barView := s1.handoverTimeout_barView
    have h3 : s3.barView = s.barView := by
      unfold s3
      split
      · rw [State.modRf_barView, State.leaveTo_barView, h2]
      · exact h2
    have h4 : s4.barView = s.barView := (s3.modRf_barView _).trans h3
    have h5 : s5.barView = s.barView := by
      unfold s5
      split
      · rw [State.evaluateSigns_barView, h4]
      · exact h4
    have h6 : s6.barView = s.barView := s5.takeOver_barView.trans h5
    split
    · rw [State.finishOp_barView, State.modRf_barView, State.becomeActive_barView, h6]
    · exact h6

/-! Rehearsal and repairs (15). -/

theorem State.isolateWay_barView (s : State) (num : Nat) (on : Bool) : (s.isolateWay num on).barView = s.barView := by
  unfold State.isolateWay
  split
  · exact s.setL2Ways_barView _ _
  · split
    · exact s.setL3Ways_barView _ _ _
    · rfl

theorem State.holdForSlice_barView (s : State) (c : Fin 12) : (s.holdForSlice c).barView = s.barView :=
  State.modCore_barView _ _ _ fun _ => rfl

theorem State.startSlice_barView (s : State) (num : Nat) (asked retest : Bool) : (s.startSlice num asked retest).barView = s.barView := by
  unfold State.startSlice
  extract_lets s1 s2
  have h2 : s2.barView = s.barView := s1.isolateWay_barView _ _
  split
  · exact (State.foldl_barView _ State.holdForSlice_barView _ _).trans h2
  · exact h2

theorem State.offerBeat_barView (s : State) (beat len : Nat) : (s.offerBeat beat len).barView = s.barView := by
  unfold State.offerBeat
  extract_lets s1
  change _ = s1.barView
  split
  · rfl
  · split
    · exact s1.startSlice_barView _ _ _
    · split
      · exact State.startSlice_barView _ _ _ _
      · split
        · split
          · exact s1.startSlice_barView _ _ _
          · rfl
        · rfl

theorem State.renewCycle_barView (s : State) : s.renewCycle.barView = s.barView := by
  unfold State.renewCycle
  dsimp only
  split <;> rfl

theorem State.laneMask_barView (s : State) (v : BitVec 4) : (s.laneMask v).barView = s.barView := by
  unfold State.laneMask State.retrain
  dsimp only
  split
  · split <;> rfl
  · rfl

theorem State.undoRepair_barView (s : State) (src : Nat) : (s.undoRepair src).barView = s.barView := by
  unfold State.undoRepair
  dsimp only
  split
  · rfl
  · exact s.laneMask_barView _
  · exact s.setL2Ways_barView _ _
  · exact s.setL3Ways_barView _ _ _

theorem State.applyRepair_barView {s t : State} {src : Nat} (h : s.applyRepair src = some t) : t.barView = s.barView := by
  unfold State.applyRepair at h
  dsimp only at h
  split at h
  · cases h
  all_goals
    simp only [Option.ite_none_right_eq_some, Option.ite_none_left_eq_some, Option.some.injEq] at h
    obtain ⟨-, rfl⟩ := h
  · exact s.laneMask_barView _
  · exact s.setL2Ways_barView _ _
  · exact s.setL3Ways_barView _ _ _

theorem State.mirrorUpdate_barView (s : State) : s.mirrorUpdate.barView = s.barView := by
  unfold State.mirrorUpdate
  exact s.modHealth_barView _

theorem State.setLState_barView (s : State) (src : Nat) (x : LState) : (s.setLState src x).barView = s.barView := by
  rw [State.setLState, State.bothMirrors, State.flashLedger, State.modHealth_barView, State.mirrorUpdate_barView, State.putSrc,
    State.modHealth_barView]

theorem State.repair_barView (s : State) (src : Nat) : (s.repair src).1.barView = s.barView := by
  unfold State.repair
  dsimp only
  split
  · next t ht => rw [State.setLState_barView, State.applyRepair_barView ht, State.mirrorUpdate_barView, State.modHealth_barView]
  · rw [State.setLState_barView, State.modHealth_barView]

theorem State.runRepair_barView (s : State) (c : Cmd) : (s.runRepair c).1.barView = s.barView := by
  unfold State.runRepair
  dsimp only
  split
  · rfl
  · split
    · exact s.repair_barView _
    · rw [State.setLState_barView, State.undoRepair_barView]

theorem State.advanceCycle_barView (s : State) (num : Nat) : (s.advanceCycle num).barView = s.barView := by
  unfold State.advanceCycle
  dsimp only
  split
  · rfl
  · rw [State.modHealth_barView, State.modHealth_barView]

theorem State.aging_barView (s : State) (sec : Fin 3) (slow : BitVec 10) : (s.aging sec slow).barView = s.barView := by
  unfold State.aging
  extract_lets n guide w old s1 s2
  have h2 : s2.barView = s.barView := by
    unfold s2
    split
    · exact s1.notice_barView _ _
    · rfl
  split
  · exact (State.barView_of_sansMemory (s2.post_sansMemory _ _)).trans h2
  · exact h2

theorem State.endSlice_barView (s : State) (sl : Slice) (result : Nat) (outcome : BitVec 10) :
    (s.endSlice sl result outcome).barView = s.barView := by
  unfold State.endSlice
  extract_lets num dur x hist s1 way kept s2 s3 s4 s5 s6 s7
  have h2 : s2.barView = s.barView := by
    unfold s2
    split
    · rfl
    · split
      · exact s1.isolateWay_barView _ _
      · rfl
  have h3 : s3.barView = s.barView := by
    refine (State.foldl_barView _ (fun u c => ?_) _ _).trans h2
    exact u.modCore_barView c _ fun _ => rfl
  have h4 : s4.barView = s.barView := by
    unfold s4
    split
    · exact (State.barView_of_sansMemory (s3.post_sansMemory _ _)).trans h3
    · exact h3
  have h5 : s5.barView = s.barView := by
    unfold s5
    split
    · exact (s4.aging_barView _ _).trans h4
    · exact h4
  have h6 : s6.barView = s.barView := by
    unfold s6
    split
    · exact (s5.advanceCycle_barView _).trans h5
    · exact h5
  have h7 : s7.barView = s.barView := by
    unfold s7
    split
    · split
      · exact (s6.finish_barView _ _ _).trans h6
      · exact h6
    · exact h6
  split
  · exact (s7.runRepair_barView _).trans h7
  · exact h7

theorem State.endLateSlice_barView (s : State) : s.endLateSlice.barView = s.barView := by
  unfold State.endLateSlice
  split
  · split
    · exact s.endSlice_barView _ _ _
    · rfl
  · rfl

/-! The controller, the clocks, the traces and the link. -/

theorem State.quietBeat_barView (s : State) (was : Bool) : (s.quietBeat was).barView = s.barView := by
  unfold State.quietBeat
  dsimp only
  split
  · rfl
  · split <;> rfl

theorem State.clockJob_barView (s : State) (p : Fin 3 → Bool) (c : Cmd) : (s.clockJob p c).barView = s.barView := by
  unfold State.clockJob
  dsimp only
  split
  · exact State.finish_barView _ _ _ _
  · rfl

theorem State.clockSwitch_barView (s : State) (p : Fin 3 → Bool) : (s.clockSwitch p).barView = s.barView :=
  State.foldl_barView _ (fun s c => s.clockJob_barView p c) _ s

theorem State.beatStarts_barView (s : State) (was : Bool) (len : Nat) : (s.beatStarts was len).barView = s.barView :=
  (State.offerBeat_barView _ _ _).trans
    ((State.renewCycle_barView _).trans ((State.clockSwitch_barView _ _).trans (s.quietBeat_barView was)))

theorem State.traceSync_barView (s : State) : s.traceSync.barView = s.barView :=
  State.foldl_barView _ (fun s sec => by
    split
    · refine State.foldl_barView _ (fun u i => ?_) _ s
      dsimp only
      split <;> rfl
    · rfl) _ s

theorem State.traceBeatEnd_barView (s : State) : s.traceBeatEnd.barView = s.barView :=
  State.foldl_barView _ (fun s c => by
    split
    · split
      · rfl
      · exact (State.traceLeave_traced Traced.refl).barView
    · rfl) _ s

theorem State.sendSample_barView (s : State) : s.sendSample.barView = s.barView := by
  unfold State.sendSample
  split <;> rfl

theorem State.raiseBeatExpiry_barView (s : State) (c : Fin 12) (p : BitVec 4) (beat : BitVec 5) :
    (s.raiseBeatExpiry c p beat).barView = s.barView := by
  refine s.modCore_barView c _ fun v => ?_
  split <;> rfl

end Sys2Proof.Machine
end

section
/-! SUPPORT. The boundaries of bars and beats in the Bar unit (02 R23, R27, R31, R50), and O34. -/
namespace Sys2Proof.Machine

/-! What slots and captures leave alone. -/

/-- The Bar unit without its counters and flags of slots and captures, and without the cores' blocks. -/
def State.boundBar (s : State) : BarUnit :=
  { s.bar with ovr := BarUnit.reset.ovr, ovrSat := false, captNoRest := 0, captSkip := false, cores := BarUnit.reset.cores }

/-- What slots and captures leave alone: the bar in progress, the armed tables, Tempo, and the holds of BARWAIT. -/
def State.boundView (s : State) : Die × BarUnit × Vector Bool 12 × Tempo × Vector Bool 12 :=
  (s.die, s.boundBar, s.bar.cores.map CoreBar.arm, s.tempo, s.cores.map VoiceCore.barHold)

theorem State.boundView_of_barView {s t : State} (h : t.barView = s.barView) : t.boundView = s.boundView := by
  have hv : t.cores.map VoiceCore.barHold = s.cores.map VoiceCore.barHold := congrArg (fun x => x.2.2.2) h
  rw [State.boundView, State.boundView, State.boundBar, State.boundBar, State.die_of_barView h, State.bar_of_barView h,
    State.tempo_of_barView h, hv]

section
variable {s t : State} (h : t.boundView = s.boundView)
include h

theorem State.die_of_boundView : t.die = s.die := congrArg Prod.fst h
theorem State.boundBar_of_boundView : t.boundBar = s.boundBar := congrArg (fun x => x.2.1) h
theorem State.tempo_of_boundView : t.tempo = s.tempo := congrArg (fun x => x.2.2.2.1) h

theorem State.arm_of_boundView (c : Fin 12) : (t.cbar c).arm = (s.cbar c).arm := by
  have hv : t.bar.cores.map CoreBar.arm = s.bar.cores.map CoreBar.arm := congrArg (fun x => x.2.2.1) h
  simpa [State.cbar] using congrArg (fun v => v[c.val]) hv

theorem State.barHold_of_boundView (c : Fin 12) : (t.core c).barHold = (s.core c).barHold := by
  have hv : t.cores.map VoiceCore.barHold = s.cores.map VoiceCore.barHold := congrArg (fun x => x.2.2.2.2) h
  simpa [State.core] using congrArg (fun v => v[c.val]) hv
end

theorem State.foldl_boundView {α : Type} (f : State → α → State) (h : ∀ s a, (f s a).boundView = s.boundView) (l : List α) (s : State) :
    (l.foldl f s).boundView = s.boundView := State.fold_keeps _ f h l s

theorem State.modCbar_boundView (s : State) (c : Fin 12) (f : CoreBar → CoreBar) (h : ∀ x, (f x).arm = x.arm) :
    (s.modCbar c f).boundView = s.boundView := by
  have hv : (s.modCbar c f).bar.cores.map CoreBar.arm = s.bar.cores.map CoreBar.arm := by
    apply Vector.ext
    intro i hi
    simp only [State.modCbar, Vector.getElem_map, Vector.getElem_set]
    split
    · next e =>
      subst e
      exact h _
    · rfl
  exact congrArg (fun x => (s.die, s.boundBar, x, s.tempo, s.cores.map VoiceCore.barHold)) hv

/-- Counters and flags of slots and captures. -/
theorem State.modBar_boundView (s : State) (f : BarUnit → BarUnit) (hc : (f s.bar).cores = s.bar.cores)
    (hb : (s.modBar f).boundBar = s.boundBar) : (s.modBar f).boundView = s.boundView := by
  unfold State.boundView
  rw [hb]
  exact congrArg (fun x => (s.die, s.boundBar, x.map CoreBar.arm, s.tempo, s.cores.map VoiceCore.barHold)) hc

theorem State.edge_boundView (s : State) (t n : Nat) : (s.edge t n).boundView = s.boundView :=
  State.boundView_of_barView (s.edge_barView t n)

theorem State.enterSlot_boundView (s : State) (c : Fin 12) : (s.enterSlot c).boundView = s.boundView := by
  unfold State.enterSlot
  split
  · exact s.modCbar_boundView c _ fun _ => rfl
  · rfl

theorem State.slotStart_boundView (s : State) (c : Fin 12) : (s.slotStart c).boundView = s.boundView := by
  unfold State.slotStart State.beatChange
  extract_lets s1 s2
  have h1 : s1.boundView = s.boundView := s.modCbar_boundView c _ fun _ => rfl
  have h2 : s2.boundView = s.boundView := by
    unfold s2
    split
    · rw [State.enterSlot_boundView, h1]
    · exact h1
  rw [State.edge_boundView]
  refine (s2.modCbar_boundView c _ ?_).trans h2
  exact fun _ => rfl

theorem State.overrun_boundView (s : State) (c : Fin 12) (p : BitVec 4) : (s.overrun c p).boundView = s.boundView := by
  unfold State.overrun
  extract_lets s1 s2
  have h1 : s1.boundView = s.boundView := s.modBar_boundView _ rfl rfl
  have h2 : s2.boundView = s.boundView := by
    refine (s1.modCbar_boundView c _ ?_).trans h1
    exact fun _ => rfl
  rw [State.boundView_of_barView (State.raiseBeatExpiry_barView _ _ _ _),
    State.boundView_of_barView (State.trigger_traced (s := s2) Traced.refl).barView, h2]

theorem State.slotMiss_boundView (s : State) (c : Fin 12) : (s.slotMiss c).boundView = s.boundView := by
  unfold State.slotMiss
  extract_lets full
  exact (State.modBar_boundView _ _ rfl rfl).trans (s.modCbar_boundView c _ fun _ => rfl)

theorem State.slotEnd_boundView (s : State) (c : Fin 12) : (s.slotEnd c).boundView = s.boundView := by
  unfold State.slotEnd
  extract_lets e
  split
  · rfl
  · split
    · exact s.slotMiss_boundView c
    · split
      · rfl
      · exact s.overrun_boundView c _

theorem State.capture_boundView (s : State) : s.capture.boundView = s.boundView := by
  unfold State.capture
  split
  · rfl
  · split
    · exact State.boundView_of_barView (s.captureAt_barView _)
    · exact s.modBar_boundView _ rfl rfl

theorem State.slotsEnd_boundView (s : State) (l : List (Fin 12)) : ((l.foldl State.slotEnd s).endLateSlice).boundView = s.boundView :=
  (State.boundView_of_barView (State.endLateSlice_barView _)).trans (State.foldl_boundView _ State.slotEnd_boundView l s)

/-! A step of Tempo that waits for a boundary. -/

/-- A step changes the time and not the count. -/
theorem State.stepDue_keeps (s : State) : s.stepDue.die = s.die ∧ s.stepDue.bar = s.bar ∧ s.stepDue.tempo.count = s.tempo.count := by
  unfold State.stepDue
  split
  · next st _ =>
    unfold State.applyStep
    extract_lets amount before s1 s2 now
    have h : s2.barView = s1.barView := s1.finishAll_barView _ _ _
    have hd : s2.die = s1.die := State.die_of_barView h
    have hb : s2.bar = s1.bar := State.bar_of_barView h
    have hc : s2.tempo.count = s1.tempo.count := congrArg Tempo.count (State.tempo_of_barView h)
    split
    · obtain ⟨t, ch, a, f, l, hs, ht⟩ := s2.secondUp_eq
      rw [hs]
      exact ⟨hd, hb, ht.trans hc⟩
    · exact ⟨hd, hb, (Tempo.update_count _).trans hc⟩
  · exact ⟨rfl, rfl, rfl⟩

/-! Adoption (R27, R53, R54). -/

theorem State.adoptConfig_keeps (s : State) : s.adoptConfig.die = s.die ∧ s.adoptConfig.tempo = s.tempo ∧ s.adoptConfig.bar.garm = false ∧
    s.adoptConfig.bar.run = s.bar.run ∧ s.adoptConfig.bar.cnt = s.bar.cnt ∧ s.adoptConfig.bar.nextCnt = s.bar.nextCnt := by
  unfold State.adoptConfig
  split
  · next h => exact ⟨rfl, rfl, by simpa using h, rfl, rfl, rfl⟩
  · split
    all_goals
      rw [State.die_of_barView (State.finishOp_barView _ _ _ _), State.tempo_of_barView (State.finishOp_barView _ _ _ _),
        State.bar_of_barView (State.finishOp_barView _ _ _ _)]
      exact ⟨rfl, rfl, rfl, rfl, rfl, rfl⟩

/-- The judgement of a core's table. -/
theorem State.adoptTable_eq (s : State) (c : Fin 12) : ∃ f, s.adoptTable c = s.modCbar c f ∧ (f (s.cbar c)).arm = false := by
  unfold State.adoptTable
  split
  · next h => exact ⟨fun x => x, (s.modCbar_id c).symm, by simpa using h⟩
  · split
    · exact ⟨_, rfl, rfl⟩
    · exact ⟨_, rfl, rfl⟩

theorem State.adoptTable_arm (s : State) (c d : Fin 12) :
    ((s.adoptTable c).cbar d).arm = if d = c then false else (s.cbar d).arm := by
  obtain ⟨f, hf, ha⟩ := s.adoptTable_eq c
  rw [hf]
  split
  · next h => rw [h, State.modCbar_same, ha]
  · next h => rw [State.modCbar_other _ _ _ _ h]

/-- After the judgement of the tables of these cores, none of them is armed. -/
theorem State.adoptTables_arm (s : State) (l : List (Fin 12)) (c : Fin 12) (h : c ∈ l ∨ (s.cbar c).arm = false) :
    ((l.foldl State.adoptTable s).cbar c).arm = false := by
  induction l generalizing s with
  | nil => exact h.resolve_left List.not_mem_nil
  | cons d l ih =>
    refine ih _ ?_
    rw [State.adoptTable_arm]
    split
    · exact .inr rfl
    · next hcd => exact h.imp_left fun hm => (List.mem_cons.1 hm).resolve_left hcd

theorem State.adoptTable_keeps (s : State) (c : Fin 12) :
    (s.adoptTable c).boundBar = s.boundBar ∧ (s.adoptTable c).die = s.die ∧ (s.adoptTable c).tempo = s.tempo := by
  obtain ⟨f, hf, -⟩ := s.adoptTable_eq c
  rw [hf]
  exact ⟨rfl, rfl, rfl⟩

theorem State.adoptTables_keep (s : State) (l : List (Fin 12)) :
    (l.foldl State.adoptTable s).boundBar = s.boundBar ∧ (l.foldl State.adoptTable s).tempo = s.tempo :=
  ⟨State.fold_keeps _ _ (fun s c => (s.adoptTable_keeps c).1) l s, State.fold_keeps _ _ (fun s c => (s.adoptTable_keeps c).2.2) l s⟩

theorem State.adopt_arm (s : State) (c : Fin 12) (h : s.hasCore c = true) : (s.adopt.cbar c).arm = false :=
  State.adoptTables_arm _ _ c (.inl (State.mem_presentCores h))

theorem State.adopt_keeps (s : State) : s.adopt.tempo = s.tempo ∧ s.adopt.bar.garm = false ∧
    s.adopt.bar.run = s.bar.run ∧ s.adopt.bar.cnt = s.bar.cnt ∧ s.adopt.bar.nextCnt = s.bar.nextCnt := by
  obtain ⟨hbar, htempo⟩ := s.adoptConfig.adoptTables_keep s.presentCores
  obtain ⟨-, ht, hg, hr, hc, hn⟩ := s.adoptConfig_keeps
  exact ⟨htempo.trans ht, (congrArg BarUnit.garm hbar).trans hg, (congrArg BarUnit.run hbar).trans hr, (congrArg BarUnit.cnt hbar).trans hc,
    (congrArg BarUnit.nextCnt hbar).trans hn⟩

/-! The lag of a boundary (R50). -/

theorem BarCfg.gridLag_lt (g : BarCfg) (time : Int) (h : 0 < g.period.toNat) : g.gridLag time / 10 < 2 ^ 24 := by
  have hp := g.period.isLt
  have hb : g.barLen = g.period.toNat * 10 := rfl
  have hlt : (((g.offset.toNat * 10 : Nat) : Int) - time) % (g.barLen : Int) < g.barLen := Int.emod_lt_of_pos _ (by omega)
  have hge : 0 ≤ (((g.offset.toNat * 10 : Nat) : Int) - time) % (g.barLen : Int) := Int.emod_nonneg _ (by omega)
  unfold BarCfg.gridLag
  omega

/-- The lag that state `t` reports is that of its configuration and its time. -/
def State.ReportsLag (t : State) : Prop :=
  (t.bar.cfg.align = true → 0 < t.bar.cfg.period.toNat → t.bar.lag.toNat =
    (((t.bar.cfg.offset.toNat * 10 : Nat) - t.tempo.time) % ((t.bar.cfg.period.toNat * 10 : Nat) : Int)).toNat / 10) ∧
  (t.bar.cfg.align = false → t.bar.lag = 0)

theorem State.reportsLag_of {t : State} (h : t.bar.lag = BitVec.ofNat 24 t.lagNow) : t.ReportsLag := by
  refine ⟨fun ha hp => ?_, fun ha => ?_⟩
  · rw [h, State.lagNow, if_pos ha, BitVec.toNat_ofNat, Nat.mod_eq_of_lt (BarCfg.gridLag_lt _ _ hp)]
    rfl
  · rw [h, State.lagNow, if_neg (by simp [ha])]
    rfl

/-! The starts and the ends of bars and beats. -/

theorem State.releaseHolds_goes (s : State) (c : Fin 12) : (s.releaseHolds.core c).barHold = false := by
  rw [State.releaseHolds, State.mapCores_core]

/-- State `t` is `u` after the work at the start of a beat: the cores go on, and what slots leave alone stays. -/
structure State.Follows (u t : State) : Prop where
  bar : t.boundBar = u.boundBar
  tempo : t.tempo = u.tempo
  arm : ∀ c : Fin 12, (t.cbar c).arm = (u.cbar c).arm
  goes : ∀ c : Fin 12, (t.core c).barHold = false

theorem State.Follows.trans {u t r : State} (h : u.Follows t) (hr : r.boundView = t.boundView) : u.Follows r :=
  ⟨(State.boundBar_of_boundView hr).trans h.bar, (State.tempo_of_boundView hr).trans h.tempo,
    fun c => (State.arm_of_boundView hr c).trans (h.arm c), fun c => (State.barHold_of_boundView hr c).trans (h.goes c)⟩

/-- Cores held by BARWAIT go on. -/
theorem State.releaseHolds_follows {u s : State} (h : s.barView = u.barView) : u.Follows s.releaseHolds :=
  have hb := State.boundView_of_barView h
  ⟨(State.boundBar_of_boundView hb :), (State.tempo_of_boundView hb :), (State.arm_of_boundView hb :), s.releaseHolds_goes⟩

theorem State.Follows.slots {u t : State} (h : u.Follows t) (l : List (Fin 12)) : u.Follows (l.foldl State.slotStart t) :=
  h.trans (State.foldl_boundView _ State.slotStart_boundView l t)

theorem State.Follows.work {u t r : State} (h : u.Follows t) (hr : r.barView = t.barView) : u.Follows r :=
  h.trans (State.boundView_of_barView hr)

/-- A bar boundary at state `s` has left `t`: staging is judged, nothing stays armed, the lag is reported, and the cores go on. -/
structure State.Bounds (s t : State) : Prop where
  tempo : t.tempo = s.tempo
  beat : t.bar.beat = 0
  run : t.bar.run = s.bar.run
  garm : t.bar.garm = false
  arm : ∀ c : Fin 12, s.hasCore c = true → (t.cbar c).arm = false
  lag : t.ReportsLag
  goes : ∀ c : Fin 12, (t.core c).barHold = false

/-- A boundary whose Bar unit is that after the judgement of staging, with beat 0 and the lag of this count. -/
theorem State.Bounds.of {s t : State} {f : BarUnit → BarUnit} (ht : (s.adopt.modBar f).Follows t)
    (hf : ∀ b, (f b).cores = b.cores ∧ (f b).run = b.run ∧ (f b).garm = b.garm ∧ (f b).cfg = b.cfg ∧ (f b).beat = 0)
    (hlag : ∀ b, (f b).lag = BitVec.ofNat 24 s.adopt.lagNow) : s.Bounds t := by
  obtain ⟨ktempo, kgarm, krun, -, -⟩ := s.adopt_keeps
  have karm := s.adopt_arm
  generalize s.adopt = a at *
  obtain ⟨hcores, hrun, hgarm, hcfg, hbeat⟩ := hf a.bar
  have hcfg' : t.bar.cfg = a.bar.cfg := (congrArg BarUnit.cfg ht.bar :).trans hcfg
  have hlag' : t.lagNow = a.lagNow := by rw [State.lagNow, hcfg', ht.tempo]; rfl
  refine ⟨ht.tempo.trans ktempo, (congrArg BarUnit.beat ht.bar :).trans hbeat, ((congrArg BarUnit.run ht.bar :).trans hrun).trans krun,
    ((congrArg BarUnit.garm ht.bar :).trans hgarm).trans kgarm, fun c hc => (ht.arm c).trans ?_, State.reportsLag_of ?_, ht.goes⟩
  · rw [State.cbar, show (a.modBar f).bar.cores = a.bar.cores from hcores]
    exact karm c hc
  · rw [hlag', ← hlag a.bar]
    exact (congrArg BarUnit.lag ht.bar :)

/-- The Bar unit in a bar that begins at this count with this lag and this stretch. -/
def BarUnit.begin (now lag stretch : Nat) (b : BarUnit) : BarUnit :=
  { b with running := true, cnt := b.nextCnt, nextCnt := b.nextCnt + 1, beat := 0, barStart := now, beatStart := now, stretch
           lag := BitVec.ofNat 24 lag, firstAt := none }

/-- The stretch of a bar that begins now (R51, R52). -/
def State.stretchNow (s : State) : Nat := if s.bar.cfg.align then s.bar.cfg.stretchOf s.lagNow else 0

theorem State.startBar_follows (s : State) (was : Bool) :
    (s.adopt.modBar (BarUnit.begin s.adopt.tempo.count s.adopt.lagNow s.adopt.stretchNow)).Follows (s.startBar was) := by
  unfold State.startBar
  extract_lets a g lag stretch now u v w
  have hv : u.Follows v := State.releaseHolds_follows u.traceSync_barView
  have hw : u.Follows w := (hv.slots _).work (State.edge_barView _ _ _)
  refine hw.work ?_
  rw [State.sendSample_barView, State.beatStarts_barView, State.traceBeatEnd_barView]

theorem BarUnit.begin_keeps (now lag stretch : Nat) (b : BarUnit) : (b.begin now lag stretch).cores = b.cores ∧
    (b.begin now lag stretch).run = b.run ∧ (b.begin now lag stretch).garm = b.garm ∧ (b.begin now lag stretch).cfg = b.cfg ∧
    (b.begin now lag stretch).beat = 0 := ⟨rfl, rfl, rfl, rfl, rfl⟩

theorem State.Follows.begin {a t : State} {now lag stretch : Nat} (h : (a.modBar (BarUnit.begin now lag stretch)).Follows t) :
    t.bar.running = true ∧ t.bar.cnt = a.bar.nextCnt ∧ t.bar.nextCnt = a.bar.nextCnt + 1 ∧ t.bar.barStart = now ∧ t.bar.beatStart = now ∧
    t.bar.firstAt = none :=
  ⟨(congrArg BarUnit.running h.bar :), (congrArg BarUnit.cnt h.bar :), (congrArg BarUnit.nextCnt h.bar :),
    (congrArg BarUnit.barStart h.bar :), (congrArg BarUnit.beatStart h.bar :), (congrArg BarUnit.firstAt h.bar :)⟩

theorem State.startBar_starts (s : State) (was : Bool) : s.Bounds (s.startBar was) ∧ (s.startBar was).bar.running = true ∧
    (s.startBar was).bar.cnt = s.bar.nextCnt ∧ (s.startBar was).bar.nextCnt = s.bar.nextCnt + 1 ∧
    (s.startBar was).bar.barStart = s.tempo.count ∧ (s.startBar was).bar.beatStart = s.tempo.count ∧ (s.startBar was).bar.firstAt = none := by
  have ht := s.startBar_follows was
  obtain ⟨ktempo, -, -, -, knext⟩ := s.adopt_keeps
  rw [← knext, ← ktempo]
  exact ⟨State.Bounds.of ht (BarUnit.begin_keeps _ _ _) fun _ => rfl, ht.begin⟩

/-- The Bar unit when bars stop, with this lag. -/
def BarUnit.stop (lag : Nat) (b : BarUnit) : BarUnit :=
  { b with running := false, beat := 0, stretch := 0, lag := BitVec.ofNat 24 lag, nextCnt := b.cnt + 1 }

theorem State.stopBars_follows (s : State) (was : Bool) : (s.adopt.modBar (BarUnit.stop s.adopt.lagNow)).Follows (s.stopBars was) := by
  unfold State.stopBars
  extract_lets a lag v
  have hv : (a.modBar (BarUnit.stop a.lagNow)).Follows v := State.releaseHolds_follows rfl
  refine hv.work ?_
  rw [State.sendSample_barView, State.traceBeatEnd_barView, State.quietBeat_barView]

theorem BarUnit.stop_keeps (lag : Nat) (b : BarUnit) : (b.stop lag).cores = b.cores ∧ (b.stop lag).run = b.run ∧
    (b.stop lag).garm = b.garm ∧ (b.stop lag).cfg = b.cfg ∧ (b.stop lag).beat = 0 := ⟨rfl, rfl, rfl, rfl, rfl⟩

theorem State.Follows.stop {a t : State} {lag : Nat} (h : (a.modBar (BarUnit.stop lag)).Follows t) :
    t.bar.running = false ∧ t.bar.cnt = a.bar.cnt ∧ t.bar.nextCnt = a.bar.cnt + 1 :=
  ⟨(congrArg BarUnit.running h.bar :), (congrArg BarUnit.cnt h.bar :), (congrArg BarUnit.nextCnt h.bar :)⟩

theorem State.stopBars_stops (s : State) (was : Bool) : s.Bounds (s.stopBars was) ∧ (s.stopBars was).bar.running = false ∧
    (s.stopBars was).bar.cnt = s.bar.cnt ∧ (s.stopBars was).bar.nextCnt = s.bar.cnt + 1 := by
  have ht := s.stopBars_follows was
  obtain ⟨-, -, -, kcnt, -⟩ := s.adopt_keeps
  rw [← kcnt]
  exact ⟨State.Bounds.of ht (BarUnit.stop_keeps _) fun _ => rfl, ht.stop⟩

/-! The events. -/

/-- What happens at a boundary before the next bar: the die, RUN, the counts and the time that the bar has reached stay. -/
theorem State.endOfBar_keeps (s : State) (l : List (Fin 12)) : let t := ((l.foldl State.slotEnd s).endLateSlice.capture).roleBoundary.stepDue
    t.die = s.die ∧ t.boundBar = s.boundBar ∧ t.tempo.count = s.tempo.count := by
  have h : ((l.foldl State.slotEnd s).endLateSlice.capture).roleBoundary.boundView = s.boundView := by
    rw [State.boundView_of_barView (State.roleBoundary_barView _), State.capture_boundView, State.slotsEnd_boundView]
  obtain ⟨hd, hb, hc⟩ := ((l.foldl State.slotEnd s).endLateSlice.capture).roleBoundary.stepDue_keeps
  refine ⟨hd.trans (State.die_of_boundView h), ?_, hc.trans (congrArg Tempo.count (State.tempo_of_boundView h))⟩
  rw [State.boundBar, hb]
  exact State.boundBar_of_boundView h

/-- The end of a bar: the next starts, or bars stop, at the end of its length. -/
theorem State.endBar_eq (s : State) : ∃ e : State, e.tempo.count = max s.tempo.count (s.bar.barStart + s.bar.cfg.barLen + s.bar.stretch) ∧
    e.die = s.die ∧ e.boundBar = s.boundBar ∧ (s.bar.run = true → ∃ was, s.endBar = e.startBar was) ∧
    (s.bar.run = false → ∃ was, s.endBar = e.stopBars was) := by
  have hu := State.until_count s (s.bar.barStart + s.bar.cfg.barLen + s.bar.stretch)
  unfold State.endBar State.endBarThen
  extract_lets u was u1 u2 u3
  obtain ⟨hd, hb, hc⟩ := u.endOfBar_keeps u.presentCores
  have hub : u.boundBar = s.boundBar := by rw [State.boundBar, State.until_bar, State.boundBar]
  exact ⟨u3, hc.trans hu, hd.trans (s.until_die _), hb.trans hub, fun hr => ⟨was, if_pos hr⟩, fun hr => ⟨was, if_neg (by simp [hr])⟩⟩

theorem barBoundary_ends : Occurs .barBoundary (fun s => s.bar.running = true ∧ s.bar.cfg.beats.toNat ≤ s.bar.beat.toNat + 1) (fun s t =>
    t.tempo.count = max s.tempo.count (s.bar.barStart + s.bar.cfg.period.toNat * 10 + s.bar.stretch) ∧ t.bar.beat = 0 ∧
    (∀ c : Fin 12, (t.core c).barHold = false) ∧
    t.bar.run = s.bar.run ∧ t.bar.garm = false ∧ (∀ c : Fin 12, s.hasCore c = true → (t.cbar c).arm = false) ∧
    (t.bar.cfg.align = true → 0 < t.bar.cfg.period.toNat → t.bar.lag.toNat =
      (((t.bar.cfg.offset.toNat * 10 : Nat) - t.tempo.time) % ((t.bar.cfg.period.toNat * 10 : Nat) : Int)).toNat / 10) ∧
    (t.bar.cfg.align = false → t.bar.lag = 0) ∧
    (s.bar.run = true → t.bar.running = true ∧ t.bar.cnt = s.bar.nextCnt ∧ t.bar.nextCnt = s.bar.nextCnt + 1 ∧
      t.bar.barStart = t.tempo.count ∧ t.bar.beatStart = t.tempo.count) ∧
    (s.bar.run = false → t.bar.running = false ∧ t.bar.cnt = s.bar.cnt ∧ t.bar.nextCnt = s.bar.cnt + 1)) := by
  refine Occurs.of (fun _ => rfl) fun s _ hok => ?_
  obtain ⟨hrunning, hlast⟩ := hok
  rw [if_pos (by simp [hrunning, hlast])]
  obtain ⟨e, hcount, hdie, hbar, hgo, hstop⟩ := s.endBar_eq
  have hrun : e.bar.run = s.bar.run := (congrArg BarUnit.run hbar :)
  have hcnt : e.bar.cnt = s.bar.cnt := (congrArg BarUnit.cnt hbar :)
  have hnext : e.bar.nextCnt = s.bar.nextCnt := (congrArg BarUnit.nextCnt hbar :)
  have harm (c : Fin 12) (hc : s.hasCore c = true) : e.hasCore c = true := by rwa [State.hasCore, hdie]
  by_cases hg : s.bar.run = true
  · obtain ⟨was, ht⟩ := hgo hg
    obtain ⟨hb, hr, hc, hn, hs, hbs, -⟩ := e.startBar_starts was
    rw [ht]
    generalize e.startBar was = t at *
    have hnow : t.tempo.count = e.tempo.count := congrArg Tempo.count hb.tempo
    refine ⟨hnow.trans hcount, hb.beat, hb.goes, hb.run.trans hrun, hb.garm, fun c h => hb.arm c (harm c h), hb.lag.1, hb.lag.2,
      fun _ => ?_, fun h => ?_⟩
    · exact ⟨hr, hc.trans hnext, hn.trans (congrArg (· + 1) hnext), hs.trans hnow.symm, hbs.trans hnow.symm⟩
    · rw [hg] at h
      cases h
  · obtain ⟨was, ht⟩ := hstop (Bool.not_eq_true _ ▸ hg)
    obtain ⟨hb, hr, hc, hn⟩ := e.stopBars_stops was
    rw [ht]
    generalize e.stopBars was = t at *
    have hnow : t.tempo.count = e.tempo.count := congrArg Tempo.count hb.tempo
    refine ⟨hnow.trans hcount, hb.beat, hb.goes, hb.run.trans hrun, hb.garm, fun c h => hb.arm c (harm c h), hb.lag.1, hb.lag.2,
      fun h => absurd h hg, fun _ => ?_⟩
    exact ⟨hr, hc.trans hcnt, hn.trans (congrArg (· + 1) hcnt)⟩

/-- The Bar unit in the beat that follows, which begins at this count. -/
def BarUnit.step (now : Nat) (b : BarUnit) : BarUnit := { b with beat := b.beat + 1, beatStart := now }

theorem State.Follows.step {s e t : State} {now : Nat} (h : (e.modBar (BarUnit.step now)).Follows t) (hbar : e.boundBar = s.boundBar) :
    t.bar.beat = s.bar.beat + 1 ∧ t.bar.beatStart = now ∧ t.bar.running = s.bar.running ∧ t.bar.run = s.bar.run ∧ t.bar.cnt = s.bar.cnt ∧
    t.bar.barStart = s.bar.barStart ∧ t.bar.cfg = s.bar.cfg := by
  have hb : t.boundBar = BarUnit.step now s.boundBar := h.bar.trans (congrArg (BarUnit.step now) hbar)
  exact ⟨(congrArg BarUnit.beat hb :), (congrArg BarUnit.beatStart hb :), (congrArg BarUnit.running hb :), (congrArg BarUnit.run hb :),
    (congrArg BarUnit.cnt hb :), (congrArg BarUnit.barStart hb :), (congrArg BarUnit.cfg hb :)⟩

/-- The end of a beat within its bar. -/
theorem State.nextBeat_follows (s : State) : ∃ e : State,
    e.tempo.count = max s.tempo.count (s.bar.barStart + (s.bar.beat.toNat + 1) * s.bar.cfg.beatLen) ∧ e.boundBar = s.boundBar ∧
    (e.modBar (BarUnit.step e.tempo.count)).Follows s.nextBeat := by
  have hu := State.until_count s (s.bar.barStart + (s.bar.beat.toNat + 1) * s.bar.cfg.beatLen)
  unfold State.nextBeat
  extract_lets k u was changed e v w
  have hub : u.boundBar = s.boundBar := by rw [State.boundBar, State.until_bar, State.boundBar]
  have he : e.boundView = u.boundView := u.slotsEnd_boundView changed
  have hw : v.Follows w := (State.releaseHolds_follows rfl).slots changed
  refine ⟨e, (congrArg Tempo.count (State.tempo_of_boundView he)).trans hu, (State.boundBar_of_boundView he).trans hub, hw.work ?_⟩
  rw [State.beatStarts_barView, State.traceBeatEnd_barView]

theorem beatBoundary_ends : Occurs .beatBoundary (fun s => s.bar.running = true ∧ s.bar.beat.toNat + 1 < s.bar.cfg.beats.toNat) (fun s t =>
    t.tempo.count = max s.tempo.count (s.bar.barStart + (s.bar.beat.toNat + 1) * (s.bar.cfg.period.toNat * 10 / s.bar.cfg.beats.toNat)) ∧
    t.bar.beat = s.bar.beat + 1 ∧ t.bar.beatStart = t.tempo.count ∧ t.bar.running = true ∧ t.bar.run = s.bar.run ∧
    t.bar.cnt = s.bar.cnt ∧ t.bar.barStart = s.bar.barStart ∧ t.bar.cfg = s.bar.cfg ∧ ∀ c : Fin 12, (t.core c).barHold = false) := by
  refine Occurs.of (fun _ => rfl) fun s _ hok => ?_
  obtain ⟨hrunning, hwithin⟩ := hok
  rw [if_pos (by simp [hrunning, hwithin])]
  obtain ⟨e, hcount, hbar, ht⟩ := s.nextBeat_follows
  obtain ⟨hbeat, hstart, hr, hrun, hcnt, hbs, hcfg⟩ := ht.step hbar
  have hnow : s.nextBeat.tempo.count = e.tempo.count := congrArg Tempo.count ht.tempo
  rw [BarCfg.beatLen] at hcount
  exact ⟨hnow.trans hcount, hbeat, hstart.trans hnow.symm, hr.trans hrunning, hrun, hcnt, hbs, hcfg, ht.goes⟩

/-- The first bar begins where RUN placed it. -/
theorem State.firstBar_eq {s : State} {at_ : Nat} (h : s.bar.firstAt = some at_) (hrun : s.bar.run = true) (hrunning : s.bar.running = false) :
    ∃ e : State, e.tempo.count = max s.tempo.count at_ ∧ e.boundBar = s.boundBar ∧ s.firstBar = e.startBar false := by
  have hu := State.until_count s at_
  have hub : (s.until at_).boundBar = s.boundBar := by rw [State.boundBar, State.until_bar, State.boundBar]
  have hv := State.boundView_of_barView (s.until at_).roleBoundary_barView
  obtain ⟨-, hb, hc⟩ := (s.until at_).roleBoundary.stepDue_keeps
  have hbar : (s.until at_).roleBoundary.stepDue.boundBar = (s.until at_).roleBoundary.boundBar := by rw [State.boundBar, hb, State.boundBar]
  refine ⟨(s.until at_).roleBoundary.stepDue, (hc.trans (congrArg Tempo.count (State.tempo_of_boundView hv))).trans hu,
    (hbar.trans (State.boundBar_of_boundView hv)).trans hub, ?_⟩
  unfold State.firstBar
  rw [h]
  exact if_pos (by simp [hrun, hrunning])

theorem firstBarStart_starts : Occurs .firstBarStart (fun s => s.bar.firstAt.isSome = true ∧ s.bar.run = true ∧ s.bar.running = false)
    (fun s t => t.tempo.count = max s.tempo.count (s.bar.firstAt.getD 0) ∧ t.bar.running = true ∧ t.bar.firstAt = none ∧ t.bar.beat = 0 ∧
      t.bar.cnt = s.bar.nextCnt ∧ t.bar.nextCnt = s.bar.nextCnt + 1 ∧ t.bar.barStart = t.tempo.count ∧
      ∀ c : Fin 12, (t.core c).barHold = false) := by
  refine Occurs.of (fun _ => rfl) fun s _ hok => ?_
  obtain ⟨hfirst, hrun, hrunning⟩ := hok
  obtain ⟨at_, hat⟩ := Option.isSome_iff_exists.1 hfirst
  obtain ⟨e, hcount, hbar, ht⟩ := s.firstBar_eq hat hrun hrunning
  obtain ⟨hb, hr, hc, hn, hs, -, hnone⟩ := e.startBar_starts false
  rw [ht, hat]
  generalize e.startBar false = t at *
  have hnow : t.tempo.count = e.tempo.count := congrArg Tempo.count hb.tempo
  have hnext : e.bar.nextCnt = s.bar.nextCnt := (congrArg BarUnit.nextCnt hbar :)
  exact ⟨hnow.trans hcount, hr, hnone, hb.beat, hc.trans hnext, hn.trans (congrArg (· + 1) hnext), hs.trans hnow.symm, hb.goes⟩

end Sys2Proof.Machine

open Sys2Proof Sys2Proof.Machine

/-- Settles O34: what else happens at a boundary leaves the Bar unit and the count alone, and the Bar unit's own part is a record update. -/
theorem barBoundaries : Obligations.BarBoundaries := ⟨barBoundary_ends, beatBoundary_ends, firstBarStart_starts⟩
end

section
/-! SUPPORT. The end of a slot: an overrun, a miss, or nothing (02 R37 to R42). -/
namespace Sys2Proof.Machine

/-! Which end a slot has. -/

section
variable {s : State} {c : Fin 12}

/-- A slot of another type than PLAY, or one whose partition set DONE, ends without effect. -/
theorem State.slotEnd_quiet (h : entryType (s.entryNow c) ≠ 1 ∨ (s.cbar c).entered = true ∧ (s.cbar c).done = true) : s.slotEnd c = s := by
  unfold State.slotEnd
  obtain h | ⟨he, hd⟩ := h
  · exact if_pos h
  · simp [he, hd]

theorem State.slotEnd_missed (h : entryType (s.entryNow c) = 1) (he : (s.cbar c).entered = false) : s.slotEnd c = s.slotMiss c := by
  simp [State.slotEnd, h, he]

theorem State.slotEnd_overrun (h : entryType (s.entryNow c) = 1) (he : (s.cbar c).entered = true) (hd : (s.cbar c).done = false) :
    s.slotEnd c = s.overrun c (bits (s.entryNow c) 2 4) := by
  simp [State.slotEnd, entryPart, h, he, hd]
end

/-! The counters (R41). -/

theorem satInc_word (v : Word) : satInc v = if v = 0xFFFFFF then 0xFFFFFF else v + 1 := by
  rw [satInc, show BitVec.allOnes 24 = (0xFFFFFF : Word) from rfl]
  split
  · next h => exact h
  · rfl

theorem State.slotMiss_counts (s : State) (c : Fin 12) : s.slotMiss c = { s with bar := (s.slotMiss c).bar } ∧
    ((s.slotMiss c).cbar c).slotMiss = satInc (s.cbar c).slotMiss ∧ (s.slotMiss c).bar.ovr = s.bar.ovr := by
  refine ⟨rfl, ?_, rfl⟩
  exact congrArg CoreBar.slotMiss (s.modCbar_same c fun x => { x with slotMiss := satInc x.slotMiss })

/-- The partition and the beat of an overrun, as LAST_OVR holds them. -/
theorem lastOvr_eq (p : BitVec 4) (beat : BitVec 5) : p.setWidth 24 ||| beat.setWidth 24 <<< 4 = (0#15 ++ beat ++ p : BitVec 24) := by
  apply BitVec.eq_of_getLsbD_eq
  intro i hi
  simp only [BitVec.getLsbD_or, BitVec.getLsbD_setWidth, BitVec.getLsbD_shiftLeft, BitVec.getLsbD_append]
  obtain h | h := Nat.lt_or_ge i 4
  · simp [h, hi]
  · have hp : p.getLsbD i = false := BitVec.getLsbD_of_ge _ _ h
    have hb : beat.getLsbD (i - 4) = (decide (i - 4 < 5) && beat.getLsbD (i - 4)) := by simpa using BitVec.lt_of_getLsbD
    simpa [Nat.not_lt.2 h, hi, hp, show i - 4 < 24 by omega] using hb

/-- An overrun raises a beat-expiry, once it has been counted and noted; its trigger changes no more than the traces and Chorus. -/
theorem State.overrun_eq (s : State) (c : Fin 12) (p : BitVec 4) : ∃ u : State, s.overrun c p = u.raiseBeatExpiry c p s.bar.beat ∧
    u = { s with bar := u.bar, trace := u.trace, chorus := u.chorus } ∧
    u.bar.ovr = s.bar.ovr.set p.toFin (satInc s.bar.ovr[p.toFin]) ∧ (u.cbar c).lastOvr = 0#15 ++ s.bar.beat ++ p := by
  unfold State.overrun
  extract_lets u v
  have hv : v.trigger c p 4 = { v with trace := (v.trigger c p 4).trace, chorus := (v.trigger c p 4).chorus } :=
    (State.trigger_traced Traced.refl).eq
  have hbar : (v.trigger c p 4).bar = v.bar := by rw [hv]
  have hnote : (v.cbar c).lastOvr = p.setWidth 24 ||| u.bar.beat.setWidth 24 <<< 4 :=
    congrArg CoreBar.lastOvr (u.modCbar_same c fun x => { x with lastOvr := p.setWidth 24 ||| u.bar.beat.setWidth 24 <<< 4 })
  refine ⟨v.trigger c p 4, rfl, ?_, ?_, ?_⟩
  · rw [hbar]
    exact hv
  · rw [hbar]
    rfl
  · rw [State.cbar, hbar]
    exact hnote.trans (lastOvr_eq p s.bar.beat)

/-- The beat-expiry of a core: it pends, or BXPEND is set where the core executes at monitor level (05 R168). -/
theorem State.raiseBeatExpiry_core (s : State) (c : Fin 12) (p : BitVec 4) (beat : BitVec 5) : let t := s.raiseBeatExpiry c p beat
    (¬((s.core c).released = true ∧ (s.core c).level = .monitor) → (t.core c).bx = some (p, beat)) ∧
    ((s.core c).released = true ∧ (s.core c).level = .monitor → (t.core c).mstatus.getLsbD 7 = true) ∧
    ∀ d, d ≠ c → t.core d = s.core d := by
  dsimp only
  rw [State.raiseBeatExpiry, State.modCore_same]
  refine ⟨fun h => ?_, fun h => ?_, fun d hd => State.modCore_other _ _ _ _ hd⟩
  · rw [if_neg (by simpa using h)]
  · rw [if_pos (by simpa using h)]
    exact (getLsbD_setBit _ _ _ (by omega)).trans (if_pos rfl)

/-- What an overrun counts, notes and raises (R37). -/
theorem State.overrun_counts (s : State) (c : Fin 12) (p : BitVec 4) : let t := s.overrun c p
    t = { s with bar := t.bar, cores := t.cores, trace := t.trace, chorus := t.chorus } ∧
    t.bar.ovr = s.bar.ovr.set p.toFin (satInc s.bar.ovr[p.toFin]) ∧ (t.cbar c).lastOvr = 0#15 ++ s.bar.beat ++ p ∧
    (¬((s.core c).released = true ∧ (s.core c).level = .monitor) → (t.core c).bx = some (p, s.bar.beat)) ∧
    ((s.core c).released = true ∧ (s.core c).level = .monitor → (t.core c).mstatus.getLsbD 7 = true) ∧
    ∀ d, d ≠ c → t.core d = s.core d := by
  obtain ⟨u, h, hu, hovr, hlast⟩ := s.overrun_eq c p
  have hcore (d : Fin 12) : u.core d = s.core d := by rw [hu]; rfl
  have hraise := u.raiseBeatExpiry_core c p s.bar.beat
  simp only [hcore] at hraise
  rw [h]
  refine ⟨?_, hovr, hlast, hraise⟩
  rw [hu]
  rfl

end Sys2Proof.Machine

open Sys2Proof Sys2Proof.Machine

/-- Settles O35: the type of the entry and the flags of the slot decide between no effect, a miss and an overrun. -/
theorem slotsEnd : Obligations.SlotsEnd := by
  intro s c
  refine ⟨fun h => State.slotEnd_quiet h, fun hp he => ?_, fun hp he hd => ?_⟩
  · rw [State.slotEnd_missed hp he, ← satInc_word]
    exact s.slotMiss_counts c
  · rw [State.slotEnd_overrun hp he hd, ← satInc_word]
    exact s.overrun_counts c _
end

section
/-! SUPPORT. The judgement of armed tables and configurations (02 R21, R22, R26 to R28, R43, R49, R53, R54). -/
namespace Sys2Proof.Machine

/-! Tables. -/

theorem entryRuns_iff (e : BitVec 6) : entryRuns e = true ↔ bits e 0 2 = 1 ∨ bits e 0 2 = 2 := by
  rw [entryRuns, Bool.or_eq_true, decide_eq_true_iff, decide_eq_true_iff]
  rfl

theorem entryPart_of_runs {e : BitVec 6} (h : entryRuns e = true) : entryPart e = bits e 2 4 := if_pos h

/-- A table is legal for B beats where no PLAY or OPEN entry of theirs names partition 0. -/
theorem tableValid_iff (ws : Vector Word 6) (b : Nat) : tableValid ws b = true ↔
    ∀ k < b, bits (tableEntry ws k) 0 2 = 1 ∨ bits (tableEntry ws k) 0 2 = 2 → bits (tableEntry ws k) 2 4 ≠ 0 := by
  rw [tableValid, List.all_eq_true]
  refine forall_congr' fun k => imp_congr List.mem_range ?_
  rw [← entryRuns_iff]
  by_cases h : entryRuns (tableEntry ws k) = true
  · simp [entryPart_of_runs h, h]
  · simp [h]

section
variable {s : State} {c : Fin 12} (harm : (s.cbar c).arm = true)
include harm

theorem State.adoptTable_adopts (h : tableValid (s.cbar c).bst s.bar.cfg.beats.toNat = true) :
    s.adoptTable c = s.modCbar c fun x => { x with arm := false, btc := x.bst } := by
  simp [State.adoptTable, harm, h]

theorem State.adoptTable_rejects (h : ¬tableValid (s.cbar c).bst s.bar.cfg.beats.toNat = true) :
    s.adoptTable c = s.modCbar c fun x => { x with arm := false, reject := true } := by
  simp [State.adoptTable, harm, h]
end

/-! The global configuration. -/

theorem BarCfg.valid_iff (g : BarCfg) : g.valid = true ↔
    24000 ≤ g.period.toNat ∧ g.period.toNat ≤ 2400000 ∧ 8 ≤ g.beats.toNat ∧ g.beats.toNat ≤ 24 ∧ g.period.toNat % g.beats.toNat = 0 ∧
      longestRun g.refq g.beats.toNat (2 * g.beats.toNat) 0 0 0 * (g.period.toNat / g.beats.toNat) ≤ 6000 ∧
      (g.align = true → 100000000 % g.period.toNat = 0 ∧ g.offset.toNat < g.period.toNat) := by
  simp only [BarCfg.valid, Bool.and_eq_true, Bool.or_eq_true, decide_eq_true_eq, Bool.not_eq_true', and_assoc, imp_iff_not_or, Bool.not_eq_true]

/-- No command of an opcode is outstanding, and none ends. -/
theorem State.finishOp_none {s : State} {op : BitVec 8} (h : ∀ c ∈ s.rings.active, c.op ≠ op) (st : Status) (results : List Word) :
    s.finishOp op st results = s := by
  have hnone : s.running op = none := List.find?_eq_none.2 fun c hc => by simpa using h c hc
  rw [State.finishOp, hnone]

section
variable {s : State} (harm : s.bar.garm = true) (hfree : ∀ c ∈ s.rings.active, c.op ≠ barConfigOp)
include harm hfree

theorem State.adoptConfig_adopts (h : s.bar.staged.valid = true) : s.adoptConfig = s.modBar fun b => { b with garm := false, cfg := b.staged } := by
  rw [State.adoptConfig, harm, if_neg (by decide), if_pos h]
  exact State.finishOp_none (s := s.modBar fun b => { b with garm := false, cfg := b.staged }) hfree _ _

theorem State.adoptConfig_rejects (h : ¬s.bar.staged.valid = true) :
    s.adoptConfig = s.modBar fun b => { b with garm := false, cfgReject := true } := by
  rw [State.adoptConfig, harm, if_neg (by decide), if_neg h]
  exact State.finishOp_none (s := s.modBar fun b => { b with garm := false, cfgReject := true }) hfree _ _
end

end Sys2Proof.Machine

open Sys2Proof Sys2Proof.Machine

/-- Settles O36, by what the check of a table and that of a configuration mean. -/
theorem armedStagingIsJudged : Obligations.ArmedStagingIsJudged := by
  refine ⟨fun s c harm => ?_, fun s harm hfree => ?_⟩
  · dsimp only
    rw [← tableValid_iff]
    by_cases h : tableValid (s.cbar c).bst s.bar.cfg.beats.toNat = true
    · rw [State.adoptTable_adopts harm h, State.modCbar_same]
      exact ⟨rfl, rfl, fun _ => ⟨rfl, rfl⟩, fun h' => absurd h h'⟩
    · rw [State.adoptTable_rejects harm h, State.modCbar_same]
      exact ⟨rfl, rfl, fun h' => absurd h' h, fun _ => ⟨rfl, rfl⟩⟩
  · dsimp only
    rw [← BarCfg.valid_iff]
    by_cases h : s.bar.staged.valid = true
    · rw [State.adoptConfig_adopts harm hfree h]
      exact ⟨rfl, rfl, fun _ => ⟨rfl, rfl⟩, fun h' => absurd h h'⟩
    · rw [State.adoptConfig_rejects harm hfree h]
      exact ⟨rfl, rfl, fun h' => absurd h' h, fun _ => ⟨rfl, rfl⟩⟩
end

section
/-! SUPPORT. The writes of the Bar window (02 R27, R29, R42, R53, R55, R58, R840, R841). -/
namespace Sys2Proof.Machine

/-! LOCK (R55). -/

/-- LOCK shuts out every initiator but the Conductor. -/
theorem State.barAdmits_iff (s : State) (w : Initiator) : s.barAdmits w = true ↔ ¬(s.bar.lock = true ∧ w ≠ .conductor) := by
  simp [State.barAdmits, Initiator.locked, Initiator.isCdr, imp_iff_not_or]

theorem State.barCtl_set (s : State) (w : Initiator) : s.barCtl w 1 = if s.barAdmits w then s.runSet else s := by
  cases h : s.barAdmits w <;> simp [State.barCtl, h]

theorem State.barCtl_clear (s : State) (w : Initiator) : s.barCtl w 0 = if s.barAdmits w then s.runClear else s := by
  cases h : s.barAdmits w <;> simp [State.barCtl, h]

/-! RUN is set (R58, R841). -/

/-- The Bar unit with RUN written. -/
def BarUnit.setRun (run : Bool) (b : BarUnit) : BarUnit := { b with run, resumeDue := false }

theorem State.runSet_on {s : State} (h : s.bar.run = true) : s.runSet = s := if_pos h

/-- A pending stop is withdrawn: of what boundaries depend on, RUN alone changes. -/
theorem State.runSet_running {s : State} (h : s.bar.run = false) (hr : s.bar.running = true) :
    s.runSet.barView = (s.modBar (BarUnit.setRun true)).barView := by
  have he : s.runSet = (s.modBar (BarUnit.setRun true)).quietBeat false := (if_neg (by simp [h])).trans (if_pos hr)
  rw [he, State.quietBeat_barView]

/-- Stopped bars: armed staging is judged, and the first bar is placed. -/
theorem State.runSet_stopped {s : State} (h : s.bar.run = false) (hr : s.bar.running = false) : s.runSet =
    (s.modBar (BarUnit.setRun true)).adopt.modBar fun b =>
      { b with firstAt := some (s.modBar (BarUnit.setRun true)).adopt.firstBarAt } :=
  (if_neg (by simp [h])).trans (if_neg (by simp [hr]))

theorem State.adoptConfig_running (s : State) : s.adoptConfig.bar.running = s.bar.running := by
  unfold State.adoptConfig
  split
  · rfl
  · split
    · rw [State.bar_of_barView (State.finishOp_barView _ _ _ _)]
      rfl
    · rw [State.bar_of_barView (State.finishOp_barView _ _ _ _)]
      rfl

theorem State.adopt_running (s : State) : s.adopt.bar.running = s.bar.running :=
  (congrArg BarUnit.running (s.adoptConfig.adoptTables_keep s.presentCores).1 :).trans s.adoptConfig_running

/-- The lag of a time leads to the next point of the grid (R50). -/
theorem BarCfg.gridLag_grid (g : BarCfg) (time : Int) (h : 0 < g.period.toNat) : g.gridLag time < g.period.toNat * 10 ∧
    (time + g.gridLag time - g.offset.toNat * 10) % (g.period.toNat * 10 : Nat) = 0 := by
  have hlag : (g.gridLag time : Int) = (g.offset.toNat * 10 - time) % (g.period.toNat * 10 : Nat) := by
    rw [BarCfg.gridLag, Int.toNat_of_nonneg (Int.emod_nonneg _ (by rw [BarCfg.barLen]; omega))]
    rfl
  have hlt := Int.emod_lt_of_pos ((g.offset.toNat * 10 : Int) - time) (b := (g.period.toNat * 10 : Nat)) (by omega)
  refine ⟨by omega, Int.emod_eq_zero_of_dvd ⟨-((g.offset.toNat * 10 - time) / (g.period.toNat * 10 : Nat)), ?_⟩⟩
  have hdiv := Int.emod_add_mul_ediv ((g.offset.toNat * 10 : Int) - time) (g.period.toNat * 10 : Nat)
  rw [hlag, Int.mul_neg]
  omega

theorem State.firstBarAt_free {s : State} (h : s.bar.cfg.align = false) : s.firstBarAt = s.tempo.count + 1000 := if_neg (by simp [h])

theorem State.firstBarAt_aligned {s : State} (h : s.bar.cfg.align = true) :
    s.firstBarAt = s.tempo.count + 1000 + s.bar.cfg.gridLag (s.tempo.time + 1000) := if_pos h

/-- The first bar begins 1000 counts from now or later: with ALIGN, at the first point of the grid from there on (R58). -/
theorem State.firstBarAt_placed (s : State) : s.tempo.count + 1000 ≤ s.firstBarAt ∧
    (s.bar.cfg.align = false → s.firstBarAt = s.tempo.count + 1000) ∧
    (s.bar.cfg.align = true → 0 < s.bar.cfg.period.toNat → s.firstBarAt < s.tempo.count + 1000 + s.bar.cfg.period.toNat * 10 ∧
      ((s.firstBarAt : Int) + s.tempo.offset - s.bar.cfg.offset.toNat * 10) % (s.bar.cfg.period.toNat * 10 : Nat) = 0) := by
  refine ⟨?_, State.firstBarAt_free, fun ha hp => ?_⟩
  · unfold State.firstBarAt
    dsimp only
    split
    · exact Nat.le_add_right _ _
    · exact Nat.le_refl _
  · obtain ⟨hlt, hgrid⟩ := s.bar.cfg.gridLag_grid (s.tempo.time + 1000) hp
    rw [State.firstBarAt_aligned ha]
    refine ⟨Nat.add_lt_add_left hlt _, ?_⟩
    rw [← hgrid, Tempo.time]
    congr 1
    push_cast
    ring

/-- What a write of 1 to RUN leaves. -/
theorem runSet_leaves (w : Initiator) : Accesses (.runSet w) w (fun _ => True) fun s t =>
    ((s.bar.lock = true ∧ w ≠ .conductor) ∨ s.bar.run = true → t = s) ∧
    (¬(s.bar.lock = true ∧ w ≠ .conductor) → s.bar.run = false →
      t.bar.run = true ∧ t.bar.running = s.bar.running ∧ t.tempo = s.tempo ∧
      (s.bar.running = true → t.bar = { s.bar with run := true, resumeDue := false }) ∧
      (s.bar.running = false → ∃ at_, t.bar.firstAt = some at_ ∧ s.tempo.count + 1000 ≤ at_ ∧
        (t.bar.cfg.align = false → at_ = s.tempo.count + 1000) ∧
        (t.bar.cfg.align = true → 0 < t.bar.cfg.period.toNat → at_ < s.tempo.count + 1000 + t.bar.cfg.period.toNat * 10 ∧
          ((at_ : Int) + s.tempo.offset - t.bar.cfg.offset.toNat * 10) % (t.bar.cfg.period.toNat * 10 : Nat) = 0))) := by
  refine Accesses.of (f := fun s => s.barCtl w 1) (fun _ => rfl) fun s _ => ?_
  dsimp only
  rw [← State.barAdmits_iff, State.barCtl_set]
  refine ⟨fun h => ?_, fun ha hrun => ?_⟩
  · split
    · next ha => exact State.runSet_on (h.resolve_left fun hs => (s.barAdmits_iff w).1 ha hs)
    · rfl
  · rw [if_pos ha]
    by_cases hr : s.bar.running = true
    · have hv := State.runSet_running hrun hr
      have hb : s.runSet.bar = s.bar.setRun true := State.bar_of_barView hv
      rw [hb]
      exact ⟨rfl, rfl, (State.tempo_of_barView hv :), fun _ => rfl, fun h => absurd hr (by simp [h])⟩
    · obtain ⟨htempo, -, hon, -, -⟩ := (s.modBar (BarUnit.setRun true)).adopt_keeps
      have hrunning := (s.modBar (BarUnit.setRun true)).adopt_running
      have hplaced := (s.modBar (BarUnit.setRun true)).adopt.firstBarAt_placed
      rw [htempo] at hplaced
      rw [State.runSet_stopped hrun (by simpa using hr)]
      exact ⟨hon, hrunning, htempo, fun h => absurd h hr, fun _ => ⟨_, rfl, hplaced⟩⟩

/-! RUN is cleared (R840). -/

theorem State.runClear_off {s : State} (h : s.bar.run = false) : s.runClear = s := if_pos (by simp [h])

/-- A step of Tempo that waits leaves the holds of BARWAIT alone. -/
theorem State.stepDue_barHold (s : State) (c : Fin 12) : (s.stepDue.core c).barHold = (s.core c).barHold := by
  unfold State.stepDue
  split
  · next st _ =>
    unfold State.applyStep
    extract_lets amount before s1 s2 now
    have h : (s2.core c).barHold = (s1.core c).barHold :=
      State.barHold_of_boundView (State.boundView_of_barView (s1.finishAll_barView _ _ _)) c
    split
    · obtain ⟨t, ch, a, f, l, hs, -⟩ := s2.secondUp_eq
      rw [hs]
      exact h
    · exact h
  · rfl

/-- What a clear of RUN makes: bars that run stop at their end; stopped ones do not begin, and held cores go on. -/
theorem State.runClear_eq {s : State} (h : s.bar.run = true) : ∃ u : State, u.bar = s.bar.setRun false ∧
    s.runClear = if s.bar.running then u else ((u.modBar fun b => { b with firstAt := none }).releaseHolds).stepDue := by
  unfold State.runClear
  extract_lets was u v
  have hv : v.barView = (s.modBar (BarUnit.setRun false)).barView := (State.clockSwitch_barView _ _).trans (State.quietBeat_barView _ _)
  have hb : v.bar = s.bar.setRun false := State.bar_of_barView hv
  refine ⟨v, hb, ?_⟩
  rw [if_neg (by simp [h]), hb]
  rfl

/-- What a write of 0 to RUN leaves. -/
theorem runClear_leaves (w : Initiator) : Accesses (.runClear w) w (fun _ => True) fun s t =>
    ((s.bar.lock = true ∧ w ≠ .conductor) ∨ s.bar.run = false → t = s) ∧
    (¬(s.bar.lock = true ∧ w ≠ .conductor) → s.bar.run = true →
      t.bar.run = false ∧ t.bar.running = s.bar.running ∧ t.bar.cnt = s.bar.cnt ∧
      (s.bar.running = false → t.bar.firstAt = none ∧ ∀ d : Fin 12, (t.core d).barHold = false)) := by
  refine Accesses.of (f := fun s => s.barCtl w 0) (fun _ => rfl) fun s _ => ?_
  rw [← State.barAdmits_iff, State.barCtl_clear]
  refine ⟨fun h => ?_, fun ha hrun => ?_⟩
  · split
    · next ha => exact State.runClear_off (h.resolve_left fun hs => (s.barAdmits_iff w).1 ha hs)
    · rfl
  · obtain ⟨u, hu, hclear⟩ := State.runClear_eq hrun
    rw [if_pos ha, hclear]
    by_cases hr : s.bar.running = true
    · rw [if_pos hr, hu]
      exact ⟨rfl, rfl, rfl, fun h => absurd hr (by simp [h])⟩
    · have hb : _ = { u.bar with firstAt := none } := (u.modBar fun b => { b with firstAt := none }).releaseHolds.stepDue_keeps.2.1
      rw [if_neg hr, hb, hu]
      exact ⟨rfl, rfl, rfl, fun _ => ⟨rfl, fun d => (State.stepDue_barHold _ d).trans (State.releaseHolds_goes _ d)⟩⟩

/-! GARM, ARM, staging and OVR_CLR. -/

/-- A write of 1 to GARM with RUN as it is sets GARM alone. -/
theorem State.barCtl_garm (s : State) (w : Initiator) :
    s.barCtl w (2 ||| flag 24 0 s.bar.run) = s.modBar fun b => { b with garm := true } := by
  cases h : s.bar.run with
  | true => simp [State.barCtl, State.runSet, flag, bitAt, h]
  | false => simp [State.barCtl, State.runClear, flag, h]

theorem garm_arms (w : Initiator) : Accesses (.garm w) w (fun _ => True) fun s t => t = { s with bar := { s.bar with garm := true } } :=
  Accesses.of (fun _ => rfl) fun s _ => s.barCtl_garm w

theorem arm_arms (w : Initiator) (c : Fin 12) (v : Word) : Accesses (.arm w c v) w (fun _ => True) fun s t =>
    t = if s.hasCore c then s.modCbar c fun x => { x with arm := x.arm || v.getLsbD 0, bwmode := v.getLsbD 1 } else s := by
  refine Accesses.of (f := fun s => s.coreBctl c v) (fun _ => rfl) fun s _ => ?_
  cases h : s.hasCore c <;> simp [State.coreBctl, h]

/-- A staging word of an armed table is not taken (R29). -/
theorem stagingWrite_stages (w : Initiator) (c : Fin 12) (n : Fin 6) (v : Word) :
    Accesses (.stagingWrite w c n v) w (fun _ => True) fun s t =>
      (s.hasCore c = false → t = s) ∧
      (s.hasCore c = true → (s.cbar c).arm = true → t = s.modCbar c fun x => { x with stgIgn := true }) ∧
      (s.hasCore c = true → (s.cbar c).arm = false → t = s.modCbar c fun x => { x with bst := x.bst.set n v }) := by
  refine Accesses.of (f := fun s => s.stage_ c n v) (fun _ => rfl) fun s _ => ⟨fun h => ?_, fun h ha => ?_, fun h ha => ?_⟩
  · simp [State.stage_, h]
  · simp [State.stage_, State.modCbar, h, ha]
  · simp [State.stage_, State.modCbar, h, ha]

/-- OVR_CLR clears the counters whose bits are written 1, but none of partition 0 (R42). -/
theorem ovrClr_clears (w : Initiator) (v : Word) : Accesses (.ovrClr w v) w (fun _ => True) fun s t =>
    t = { s with bar := { s.bar with ovr := t.bar.ovr } } ∧
      ∀ p : Fin 16, t.bar.ovr[p] = if p ≠ 0 ∧ v.getLsbD p.val = true then 0 else s.bar.ovr[p] := by
  refine Accesses.of (f := fun s => s.ovrClr v) (fun _ => rfl) fun s _ => ⟨rfl, fun p => ?_⟩
  have hp : (s.ovrClr v).bar.ovr[p] = if (p.val ≠ 0 && v.getLsbD p.val) = true then 0 else s.bar.ovr[p] := Vector.getElem_ofFn _
  rw [hp]
  exact if_congr (by simp) rfl rfl

end Sys2Proof.Machine

open Sys2Proof Sys2Proof.Machine

/-- Settles O37, by a lemma for each register about what its write leaves. -/
theorem barWindowWrites : Obligations.BarWindowWrites := fun w c n v =>
  ⟨runSet_leaves w, runClear_leaves w, garm_arms w, arm_arms w c v, stagingWrite_stages w c n v, ovrClr_clears w v⟩
end

section
/-! SUPPORT. What a reset leaves of the Bar unit, of Chorus, of the field units and of the cores (02 R57, 05 R183, 08 R327, 17 R732,
18 R755). -/
namespace Sys2Proof.Machine

/-! Chorus. -/

/-- An entry that a table gives is one that it lists. -/
theorem Tbl.mem_of_find {α : Type} {t : Tbl α} {k : Nat} {x : α} (h : Tbl.find t k = some x) : (k, x) ∈ t := by
  induction t with
  | nil => cases h
  | cons p t ih =>
    rw [Tbl.find] at h
    split at h
    · next hk =>
      cases h
      subst hk
      exact List.mem_cons_self
    · split at h
      · cases h
      · exact List.mem_cons_of_mem _ (ih h)

/-- Where every listed source is the reset value of its key but for its input, so is every source that the table gives. -/
theorem Tbl.get_of_reset {r : Nat → Src} {t : Tbl Src} (h : ∀ p ∈ t, p.2 = { r p.1 with input := true }) (k : Nat) :
    ∃ i, Tbl.get t k (r k) = { r k with input := i } := by
  unfold Tbl.get
  cases hk : Tbl.find t k with
  | none => exact ⟨(r k).input, rfl⟩
  | some x => exact ⟨true, h _ (Tbl.mem_of_find hk)⟩

/-- After a reset every source holds its reset value, but for the level that another unit drives (08 R327). -/
theorem Chorus.warm_src (ch : Chorus) (t n : Nat) :
    ∃ i, ch.warm.src t n = { if isPriv n then privReset t n else sharedReset n with input := i } := by
  unfold Chorus.src
  split
  · next hn =>
    have hn : 16 ≤ n ∧ n ≤ 47 := by simpa [isPriv] using hn
    have hkey : privReset t n = privReset (privKey t n / 32) (privKey t n % 32 + 16) := by
      unfold privKey
      congr 1 <;> omega
    rw [hkey]
    refine Tbl.get_of_reset (r := fun k => privReset (k / 32) (k % 32 + 16)) (fun p hp => ?_) _
    obtain ⟨q, -, rfl⟩ := List.mem_map.1 hp
    rfl
  · refine Tbl.get_of_reset (r := sharedReset) (fun p hp => ?_) _
    obtain ⟨q, -, rfl⟩ := List.mem_map.1 hp
    rfl

/-- After a reset no source is latched, active or, but for source 18, enabled. -/
theorem Chorus.warm_rests (ch : Chorus) (t n : Nat) :
    (ch.warm.src t n).latch = false ∧ (ch.warm.src t n).active = none ∧ (n ≠ 18 → (ch.warm.src t n).en = false) := by
  obtain ⟨i, h⟩ := ch.warm_src t n
  rw [h]
  split
  · exact ⟨rfl, rfl, fun hn => decide_eq_false hn⟩
  · exact ⟨rfl, rfl, fun _ => rfl⟩

/-! The field units. -/

/-- Every unit is disabled, with empty queues and open locks, and no output is driven. -/
def FieldIo.AtRest (x : FieldIo) : Prop :=
  (∀ n : Fin 2, x.eth[n].ctl.getLsbD 0 = false ∧ x.eth[n].ctl.getLsbD 1 = false) ∧
  (∀ n : Fin 4, x.can[n].ctl.getLsbD 0 = false ∧ x.can[n].handles = [] ∧ x.can[n].rxq = [] ∧ ∀ i : Fin 8, (x.can[n].tx[i]).req = false) ∧
  (∀ n : Fin 4, x.spi[n].ctl.getLsbD 0 = false ∧ x.spi[n].tx = [] ∧ x.spi[n].rx = []) ∧
  (∀ n : Fin 4, x.i2c[n].ctl.getLsbD 0 = false ∧ x.i2c[n].cmds = [] ∧ x.i2c[n].rx = []) ∧
  (∀ n : Fin 4, x.uart[n].ctl.getLsbD 0 = false ∧ x.uart[n].tx = [] ∧ x.uart[n].rx = []) ∧ x.xspi.ctl.getLsbD 0 = false ∧
  x.gpio.oe = 0 ∧ x.gpio.lock = false ∧ x.pwmLock = false ∧ x.acmpLock = false ∧
  (∀ k : Fin 16, x.pwm[k].en = false ∧ x.pwm[k].level = false) ∧
  ∀ n : Fin 8, x.acmp[n].flt = false ∧ x.acmp[n].ctl = 0 ∧ x.acmp[n].dac = 0 ∧ x.acmp[n].slope = 0 ∧ x.acmp[n].blank = 0 ∧
    x.acmp[n].trip = false ∧ x.acmp[n].tripCnt = 0

/-- The enable of a control register, cleared. -/
theorem setBit_zero_false {m : Nat} (x : BitVec m) (h : 0 < m) : (setBit x 0 false)[0] = false := by
  rw [← BitVec.getLsbD_eq_getElem, getLsbD_setBit _ _ _ h, if_pos rfl]

theorem FieldIo.warm_atRest (x : FieldIo) : x.warm.AtRest := by
  refine ⟨fun n => ?_, fun n => ?_, fun n => ?_, fun n => ?_, fun n => ?_, ?_, rfl, rfl, rfl, rfl, fun k => ?_, fun n => ?_⟩
  all_goals simp [FieldIo.warm, setBit_zero_false, PwmCh.en, Acmp.reset]

theorem FieldIo.cold_atRest (x : FieldIo) : x.cold.AtRest := by
  refine ⟨fun n => ?_, fun n => ?_, fun n => ?_, fun n => ?_, fun n => ?_, ?_, rfl, rfl, rfl, rfl, fun k => ?_, fun n => ?_⟩
  all_goals simp [FieldIo.cold, FieldIo.reset, Eth.reset, Can.reset, PwmCh.reset, PwmCh.en, Acmp.reset]

/-! The Bar unit. -/

/-- A table of zero words holds REST with partition 0 in every entry. -/
theorem tableEntry_zero (k : Nat) : tableEntry (Vector.replicate 6 0) k = 0 := by
  have h : (Vector.replicate 6 (0 : Word)).toList.getD (k / 4) 0 = 0 := by
    rw [List.getD_eq_getElem?_getD]
    cases hk : (Vector.replicate 6 (0 : Word)).toList[k / 4]? with
    | none => rfl
    | some w => exact List.eq_of_mem_replicate (List.mem_of_getElem? hk)
  rw [tableEntry, h]
  simp [bits]

/-- The Bar unit is stopped, with the configuration of 02 R57 and REST with partition 0 in every entry. -/
def BarUnit.AtRest (b : BarUnit) : Prop :=
  b = BarUnit.reset ∧ b.run = false ∧ b.running = false ∧ b.cnt = 0 ∧ b.cfg = b.staged ∧ b.lock = false ∧
  b.staged.period.toNat = 100000 ∧ b.staged.beats.toNat = 20 ∧ b.staged.align = false ∧ b.staged.offset = 0 ∧
  b.staged.refq = 0 ∧ b.staged.reh = 0 ∧
  ∀ (c : Fin 12) (k : Nat), tableEntry (b.cores[c]).bst k = 0 ∧ tableEntry (b.cores[c]).btc k = 0

theorem BarUnit.reset_atRest : BarUnit.reset.AtRest := by
  refine ⟨rfl, rfl, rfl, rfl, rfl, rfl, rfl, rfl, rfl, rfl, rfl, rfl, fun c k => ?_⟩
  have h : BarUnit.reset.cores[c] = CoreBar.reset := Vector.getElem_replicate _
  rw [h]
  exact ⟨tableEntry_zero k, tableEntry_zero k⟩

/-! The resets. -/

/-- The units of the warm domain are as a reset leaves them; of Chorus and the field units, the inputs alone may stand. -/
structure State.AtRest (t : State) : Prop where
  units : t.UnitsReset
  chorus : ∃ ch : Chorus, t.chorus = ch.warm
  io : t.io.AtRest

/-- With no step scheduled, a warm reset applies none. -/
theorem State.stepDue_none {s : State} (h : s.tempo.step = none) : s.stepDue = s := by
  rw [State.stepDue, h]

theorem State.warmReset_atRest {s : State} (h : s.tempo.step = none) (k : Nat) : (s.warmReset k).AtRest := by
  obtain ⟨c, hc⟩ := s.dropSlices_eq
  obtain ⟨f, n, b, hb, -⟩ := State.bootReset_eq { s with caches := c } false
  unfold State.warmReset
  dsimp only
  rw [hc, hb, State.stepDue_none (by exact h), State.markResets_eq]
  exact ⟨⟨rfl, rfl, rfl, rfl, rfl⟩, ⟨_, rfl⟩, FieldIo.warm_atRest _⟩

theorem State.coldReset_atRest (s : State) (k : Nat) : (s.coldReset k).AtRest := by
  refine ⟨(s.coldReset_spec k).1.1, ?_, ?_⟩
  · exact ⟨_, rfl⟩
  · exact FieldIo.cold_atRest _

theorem State.AtRest.leaveReset {t : State} (h : t.AtRest) : t.leaveReset.AtRest := by
  cases hp : t.pwr.tripped with
  | true =>
    rw [State.leaveReset_tripped hp]
    exact ⟨h.units, h.chorus, h.io⟩
  | false =>
    obtain ⟨n, d, tm, b, he, -⟩ := State.leaveReset_eq hp
    obtain ⟨hcores, -, hbar, hrings, hbm⟩ := h.units
    rw [he]
    exact ⟨⟨hcores, rfl, hbar, hrings, hbm⟩, h.chorus, h.io⟩

theorem State.resetFor_atRest {s : State} (h : s.tempo.step = none) (k : Nat) (cold : Bool) : (s.resetFor k cold).AtRest := by
  unfold State.resetFor
  split
  · exact (s.coldReset_atRest k).leaveReset
  · exact State.warmReset_atRest h k

theorem State.porst_atRest (s : State) (off : Nat) : (s.porst false off).AtRest := by
  have h := s.coldReset_atRest 0
  exact ⟨h.units, h.chorus, h.io⟩

/-- No Voice core executes. -/
theorem State.AtRest.cores {t : State} (h : t.AtRest) (c : Fin 12) :
    (t.core c).released = false ∧ (t.core c).level = .monitor ∧ (t.core c).mptag = 0 := by
  obtain ⟨hcores, -⟩ := h.units
  have hc : t.core c = VoiceCore.reset := by
    rw [State.core, hcores]
    exact Vector.getElem_replicate _
  rw [hc]
  exact ⟨rfl, rfl, rfl⟩

theorem State.AtRest.bar {t : State} (h : t.AtRest) : t.bar.AtRest := by
  obtain ⟨-, -, hbar, -⟩ := h.units
  rw [hbar]
  exact BarUnit.reset_atRest

theorem State.AtRest.sources {t : State} (h : t.AtRest) : t.chorus.en = false ∧ ∀ g n : Nat,
    (t.chorus.src g n).latch = false ∧ (t.chorus.src g n).active = none ∧ (n ≠ 18 → (t.chorus.src g n).en = false) := by
  obtain ⟨ch, hch⟩ := h.chorus
  rw [hch]
  exact ⟨rfl, ch.warm_rests⟩

end Sys2Proof.Machine

open Sys2Proof Sys2Proof.Machine

/-- Settles O60: both resets leave the units of the warm domain at their reset values, and field I/O as its own reset does. -/
theorem resetLeavesUnitsAtRest : Obligations.ResetLeavesUnitsAtRest := by
  refine ⟨fun s slept hplay hstep => ⟨s.resetFor 3 false, by rw [exec_warmrstN, hplay], ?_⟩, fun s off => ⟨s.porst false off, rfl, ?_⟩⟩
  · have h := State.resetFor_atRest hstep 3 false
    exact ⟨h.bar, h.sources, h.io, h.cores⟩
  · have h := s.porst_atRest off
    exact ⟨h.bar, h.sources, h.io, h.cores⟩
end

section
/-! SUPPORT. A step keeps a legal state legal, O3. -/
open Sys2Proof Sys2Proof.Machine

/-- Settles O3: a step is one command or the passing of time, each of which keeps a legal state legal. -/
theorem stepKeepsLegalState : Obligations.StepKeepsLegalState := by
  intro s t hs ht
  unfold step at ht
  split at ht
  · cases ht
    exact tick_legal hs
  · exact (exec_legal (State.legal_with.2 hs)).next t ht
end

section
/-! SUPPORT. Reads and writes of the registers of a core (04 R102, R103, R109), and O8. -/
namespace Sys2Proof.Machine

@[simp] theorem State.regs_setRegs (s : State) (k : Core) (ws : Vector Word 32) : (s.setRegs k ws).regs k = ws := by
  cases k with
  | voice c => simp [State.setRegs, State.regs]
  | conductor => rfl

theorem State.setRegs_regs (s : State) (k : Core) : s.setRegs k (s.regs k) = s := by
  cases k with
  | voice c =>
    show s.setCore c (s.core c) = s
    simp only [State.setCore, State.core, Fin.getElem_fin, Vector.set_getElem_self]
  | conductor => rfl

/-- One register of a bank in which one register has been replaced. -/
theorem getElem_set_reg (ws : Vector Word 32) (r q : BitVec 5) (v : Word) :
    (ws.set r.toFin v)[q.toFin] = if q = r then v else ws[q.toFin] := by
  have : (r.toNat = q.toNat) = (q = r) := propext ⟨fun h => BitVec.eq_of_toNat_eq h.symm, fun h => by rw [h]⟩
  simp only [Fin.getElem_fin, BitVec.val_toFin, Vector.getElem_set, this]

@[simp] theorem State.setW_zero (s : State) (k : Core) (v : Word) : s.setW k 0 v = s := rfl
@[simp] theorem State.setD_zero (s : State) (k : Core) (v : DWord) : s.setD k 0 v = s := rfl
@[simp] theorem State.rw_zero (s : State) (k : Core) : s.rw k 0 = 0 := rfl
@[simp] theorem State.rd_zero (s : State) (k : Core) : s.rd k 0 = 0 := rfl

theorem State.rw_setW (s : State) (k : Core) {r : BitVec 5} (q : BitVec 5) (v : Word) (hr : r ≠ 0) :
    (s.setW k r v).rw k q = if q = r then v else s.rw k q := by
  simp only [State.rw, State.setW, hr, if_false, State.regs_setRegs, getElem_set_reg]
  by_cases hq : q = r
  · simp only [hq, if_true, hr, if_false]
  · simp only [hq, if_false]

/-- The odd register of a pair is the next one. -/
theorem isPair_or_one {r : BitVec 5} (h : isPair r = true) : r ||| 1 = r + 1 ∧ r ||| 1 ≠ r := by
  revert r
  decide

theorem State.rw_setD_other (s : State) (k : Core) {r q : BitVec 5} (v : DWord) (hp : isPair r = true) (h0 : q ≠ r) (h1 : q ≠ r + 1) :
    (s.setD k r v).rw k q = s.rw k q := by
  by_cases hr : r = 0
  · rw [hr, State.setD_zero]
  · simp only [State.rw, State.setD, hr, if_false, State.regs_setRegs, getElem_set_reg, (isPair_or_one hp).1, h0, h1]

theorem pair_hi24_lo24 (v : DWord) : pair (hi24 v) (lo24 v) = v := by
  refine BitVec.eq_of_getLsbD_eq fun i hi => ?_
  simp only [pair, hi24, lo24, BitVec.getLsbD_append, BitVec.getLsbD_setWidth, BitVec.getLsbD_ushiftRight]
  by_cases h : i < 24
  · simp only [h, decide_true, Bool.true_and, if_true]
  · simp only [h, if_false, Nat.add_sub_of_le (Nat.le_of_not_lt h), show i - 24 < 24 by omega, decide_true, Bool.true_and]

theorem State.rd_setD_same (s : State) (k : Core) {r : BitVec 5} (v : DWord) (hr : r ≠ 0) (hp : isPair r = true) :
    (s.setD k r v).rd k r = v := by
  simp only [State.rd, State.setD, hr, if_false, State.regs_setRegs, getElem_set_reg, (isPair_or_one hp).2.symm, if_true,
    pair_hi24_lo24]

theorem State.setW_eq_setRegs (s : State) (k : Core) (r : BitVec 5) (v : Word) : ∃ ws, s.setW k r v = s.setRegs k ws := by
  unfold State.setW
  split
  · exact ⟨_, (s.setRegs_regs k).symm⟩
  · exact ⟨_, rfl⟩

theorem State.setD_eq_setRegs (s : State) (k : Core) (r : BitVec 5) (v : DWord) : ∃ ws, s.setD k r v = s.setRegs k ws := by
  unfold State.setD
  split
  · exact ⟨_, (s.setRegs_regs k).symm⟩
  · exact ⟨_, rfl⟩

end Sys2Proof.Machine

open Sys2Proof Sys2Proof.Machine

/-- Settles O8: a register written is one place of the bank replaced, and the bank is all that a write replaces. -/
theorem registerWritesReadBack : Obligations.RegisterWritesReadBack := by
  intro s k
  refine ⟨s.setW_zero k, s.setD_zero k, s.rw_zero k, s.rd_zero k, fun r v hr => ⟨?_, fun q hq => ?_⟩,
    fun r v hr hp => ⟨s.rd_setD_same k v hr hp, fun q => s.rw_setD_other k v hp⟩, s.setW_eq_setRegs k, s.setD_eq_setRegs k, ?_⟩
  · rw [s.rw_setW k r v hr, if_pos rfl]
  · rw [s.rw_setW k q v hr, if_neg hq]
  · cases k with
    | voice c => exact fun _ => rfl
    | conductor => exact fun _ => rfl
end

section
/-! SUPPORT. What makes an instruction do, jump or trap: the shape of its body (04, 05 R156). -/
namespace Sys2Proof.Machine

/-- An instruction that only changes registers does what its function does. -/
theorem Does.of_runReg {i : Instr} {k : Core} {f : Fetch} {x : Insn} {g effect : State → State} (he : exec i = runReg k f x g)
    (hg : ∀ r, g r = effect r) : Does i k f x effect := by
  intro s r h _
  rw [he, ← hg r]
  exact runReg_retired h

/-- An instruction whose body completes has its effect and goes on where the body tells. -/
theorem Jumps.of_runInsn {i : Instr} {k : Core} {f : Fetch} {x : Insn} {ok : State → Prop} {effect : State → State}
    {target : State → DWord} {body : Exec Done} (he : exec i = runInsn k f x body)
    (hb : ∀ r, ok r → ∃ d, body r = .ok d (effect r) ∧ d.target.getD (nextPtr f (r.pc k)) = target r) : Jumps i k f x ok effect target := by
  intro s r h hok
  obtain ⟨d, hd, ht⟩ := hb r hok
  rw [he, ← ht]
  exact runInsn_retired h hd

/-- An instruction whose body raises an exception traps. -/
theorem Traps.of_runInsn {i : Instr} {k : Core} {f : Fetch} {x : Insn} {ok : State → Prop} {exc : State → Exc} {body : Exec Done}
    (he : exec i = runInsn k f x body) (hb : ∀ r, ok r → body r = .error (.exc (exc r)) r) : Traps i k f x ok exc := by
  intro s r h hok
  rw [he]
  exact runInsn_trapped h (hb r hok)

end Sys2Proof.Machine
end

section
/-! SUPPORT. The operations on values of Table 4.4 as arithmetic, immediates with EXT (04 R111, R114), and O10. -/
namespace Sys2Proof.Machine

theorem boolWord_decide (p : Prop) [Decidable p] : boolWord (decide p) = if p then 1 else 0 := by
  by_cases h : p <;> simp [boolWord, flag, bitAt, h]

theorem shiftLeft_eq_ofNat {n : Nat} (a : BitVec n) (m : Nat) : a <<< m = BitVec.ofNat n (a.toNat * 2 ^ m) :=
  BitVec.eq_of_toNat_eq (by rw [BitVec.toNat_shiftLeft, BitVec.toNat_ofNat, Nat.shiftLeft_eq])

theorem ushiftRight_eq_ofNat {n : Nat} (a : BitVec n) (m : Nat) : a >>> m = BitVec.ofNat n (a.toNat / 2 ^ m) := by
  refine BitVec.eq_of_toNat_eq ?_
  rw [BitVec.toNat_ushiftRight, BitVec.toNat_ofNat, Nat.shiftRight_eq_div_pow,
    Nat.mod_eq_of_lt (Nat.lt_of_le_of_lt (Nat.div_le_self _ _) a.isLt)]

theorem sshiftRight_eq_ofInt {n : Nat} (a : BitVec n) (m : Nat) : a.sshiftRight m = BitVec.ofInt n (a.toInt / 2 ^ m) := by
  rw [BitVec.sshiftRight, Int.shiftRight_eq_div_pow, Nat.cast_pow, Nat.cast_ofNat]

theorem rol24_eq (a : Word) (n : Nat) : rol24 a n = (a <<< (n % 24)) ||| (a >>> (24 - n % 24)) := by
  rw [rol24, BitVec.rotateLeft_def, Nat.mod_mod]

/-- An immediate reduced to a word does not depend on the two high bits of its EXT payload. -/
theorem setWidth_ext_append (e : BitVec 18) (imm : BitVec 8) : (e ++ imm : BitVec 26).setWidth 24 = bits e 0 16 ++ imm := by
  refine BitVec.eq_of_getLsbD_eq fun i hi => ?_
  simp only [bits, BitVec.getLsbD_setWidth, BitVec.getLsbD_append, BitVec.getLsbD_extractLsb', hi, decide_true, Bool.true_and, Nat.zero_add]
  split
  · rfl
  · simp only [show i - 8 < 16 by omega, decide_true, Bool.true_and]

theorem immS_word_none {f : Fetch} (h : f.ext = none) (imm : BitVec 8) : immS f imm 24 = imm.signExtend 24 := by
  rw [immS, h]

theorem immS_word_some {f : Fetch} {e : BitVec 18} (h : f.ext = some e) (imm : BitVec 8) : immS f imm 24 = bits e 0 16 ++ imm := by
  rw [immS, h, ← setWidth_ext_append, ← BitVec.signExtend_eq_setWidth_of_le _ (by decide)]

theorem immZ_word_none {f : Fetch} (h : f.ext = none) (imm : BitVec 8) : immZ f imm 24 = imm.setWidth 24 := by
  rw [immZ, h]

theorem immZ_word_some {f : Fetch} {e : BitVec 18} (h : f.ext = some e) (imm : BitVec 8) : immZ f imm 24 = bits e 0 16 ++ imm := by
  rw [immZ, h, ← setWidth_ext_append]

end Sys2Proof.Machine

open Sys2Proof Sys2Proof.Machine

/-- Settles O10: each instruction is the operation of Table 4.4 on the register and the immediate, which EXT widens. -/
theorem immediateInstructions : Obligations.ImmediateInstructions := by
  intro k f rd rs1 imm row shift signed plain
  have hs : immS f imm 24 = signed := by
    cases h : f.ext with
    | none => rw [immS_word_none h]; simp only [signed, h]
    | some e => rw [immS_word_some h]; simp only [signed, h]
  have hz : immZ f imm 24 = plain := by
    cases h : f.ext with
    | none => rw [immZ_word_none h]; simp only [plain, h]
    | some e => rw [immZ_word_some h]; simp only [plain, h]
  refine ⟨.of_runReg rfl fun r => ?_, .of_runReg rfl fun r => ?_, .of_runReg rfl fun r => ?_, .of_runReg rfl fun r => ?_,
    .of_runReg rfl fun r => ?_, .of_runReg rfl fun r => ?_, .of_runReg rfl fun r => ?_, .of_runReg rfl fun r => ?_,
    .of_runReg rfl fun r => ?_, .of_runReg rfl fun r => ?_⟩
  · rw [immOp, hs]
  · rw [immOp, hz]
  · rw [immOp, hz]
  · rw [immOp, hz]
  · rw [immOp, hs, BitVec.slt, boolWord_decide]
  · rw [immOp, hs, BitVec.ult, boolWord_decide]
  · rw [shiftImm, shiftLeft_eq_ofNat]
  · rw [shiftImm, ushiftRight_eq_ofNat]
  · rw [shiftImm, sshiftRight_eq_ofInt]
  · rw [shiftImm, rol24_eq]
end

section
/-! SUPPORT. The pointer instructions (04 R118, R119), and O12. -/
namespace Sys2Proof.Machine

/-- Where no source pointer has lane 11, the pair is written. -/
theorem ptrBody_ok {k : Core} {rd : BitVec 5} {ptrs : State → List DWord} {v : State → DWord} {r : State}
    (h : ∀ p ∈ ptrs r, bits p 0 2 ≠ 3) : ptrBody k rd ptrs v r = .ok Done.seq (r.setD k rd (v r)) := by
  have hf : ((ptrs r).find? fun p => ptrLane p = 3) = none := List.find?_eq_none.2 fun p hp => by rw [ptrLane, decide_eq_true_iff]; exact h p hp
  refine Exec.bind_get.trans ?_
  rw [hf]
  rfl

/-- The first source pointer of lane 11 is refused. -/
theorem ptrBody_trap {k : Core} {rd : BitVec 5} {ptrs : State → List DWord} {v : State → DWord} {r : State} {p : DWord}
    (h : ((ptrs r).find? fun p => ptrLane p = 3) = some p) : ptrBody k rd ptrs v r = .error (.exc (Exc.of 0x11 p)) r := by
  refine Exec.bind_get.trans ?_
  rw [h]
  rfl

theorem find_badLane_second {p q : DWord} (hp : ptrLane p ≠ 3) (hq : ptrLane q = 3) : ([p, q].find? fun p => ptrLane p = 3) = some q :=
  (List.find?_cons_of_neg (p := fun p => ptrLane p = 3) fun e => hp (of_decide_eq_true e)).trans
    (List.find?_cons_of_pos (p := fun p => ptrLane p = 3) (decide_eq_true hq))

/-- An immediate as a signed number of bytes. -/
theorem immS_dword_toInt (f : Fetch) (imm : BitVec 8) :
    (f.ext = none → (immS f imm 48).toInt = imm.toInt) ∧ ∀ e, f.ext = some e → (immS f imm 48).toInt = (e ++ imm : BitVec 26).toInt := by
  refine ⟨fun h => ?_, fun e h => ?_⟩
  · rw [immS, h, BitVec.toInt_signExtend_of_le (by decide)]
  · rw [immS, h, BitVec.toInt_signExtend_of_le (by decide)]

section
variable {i : Instr} {k : Core} {f : Fetch} {x : Insn} {rd rs : BitVec 5} {v : State → DWord}

/-- A pointer instruction with one source pointer. -/
theorem Jumps.of_ptrBody (he : exec i = runInsn k f x (ptrBody k rd (fun s => [s.rd k rs]) v)) :
    Jumps i k f x (fun r => bits (r.rd k rs) 0 2 ≠ 3) (fun r => r.setD k rd (v r)) fun r => nextPtr f (r.pc k) :=
  .of_runInsn he fun _ h => ⟨_, ptrBody_ok (by simpa using h), rfl⟩

theorem Traps.of_ptrBody (he : exec i = runInsn k f x (ptrBody k rd (fun s => [s.rd k rs]) v)) :
    Traps i k f x (fun r => bits (r.rd k rs) 0 2 = 3) fun r => Exc.of 0x11 (r.rd k rs) :=
  .of_runInsn he fun _ h => ptrBody_trap (by simp [ptrLane, h])

end

end Sys2Proof.Machine

open Sys2Proof Sys2Proof.Machine

/-- Settles O12: a source pointer of lane 11 is found before the pair is written. -/
theorem pointerInstructions : Obligations.PointerInstructions := by
  intro k f rd rs1 rs2 imm index pointer row good offset
  have ho : (immS f imm 48).toInt = offset := by
    obtain ⟨hn, hs⟩ := immS_dword_toInt f imm
    cases h : f.ext with
    | none => rw [hn h]; simp only [offset, h]
    | some e => rw [hs e h]; simp only [offset, h]
  refine ⟨.of_ptrBody rfl, ?_, .of_runInsn rfl fun r h => ⟨_, ptrBody_ok ?_, rfl⟩, .of_ptrBody rfl,
    .of_runInsn rfl fun r _ => ⟨_, ptrBody_ok ?_, rfl⟩, .of_ptrBody rfl, .of_ptrBody rfl, .of_ptrBody rfl,
    .of_runInsn rfl fun r h => ptrBody_trap ?_, .of_runInsn rfl fun r h => ptrBody_trap ?_⟩
  · rw [← ho]
    exact .of_ptrBody rfl
  · simpa [good] using h
  · simp
  · simp [ptrLane, h]
  · exact find_badLane_second h.1 h.2
end

section
/-! SUPPORT. Branches and jumps (04 R138, R139), and O16. -/
namespace Sys2Proof.Machine

/-- Words added to a pointer are four units of it each. -/
theorem ptrWords_eq (p n : DWord) : ptrWords p n = p + 4 * n := by
  rw [ptrWords, BitVec.shiftLeft_eq_mul_twoPow, BitVec.mul_comm]
  rfl

theorem branchBody_ok {k : Core} {f : Fetch} {rs1 rs2 : BitVec 5} {off : BitVec 8} {cond : Word → Word → Bool} {r : State} :
    branchBody k f rs1 rs2 off cond r =
      .ok (if cond (r.rw k rs1) (r.rw k rs2) then Done.jump (branchTarget f (r.pc k) (immS f off 48)) [.branch true]
        else { Done.seq with evs := [.branch false] }) r := by
  refine Exec.bind_get.trans ?_
  split <;> rfl

/-- A conditional branch, taken and not taken. -/
theorem branchBody_jumps {i : Instr} {k : Core} {f : Fetch} {x : Insn} {rs1 rs2 : BitVec 5} {off : BitVec 8}
    {cond : Word → Word → Bool} {taken : Word → Word → Prop} (he : exec i = runInsn k f x (branchBody k f rs1 rs2 off cond))
    (ht : ∀ a b, cond a b = true ↔ taken a b) :
    Jumps i k f x (fun r => taken (r.rw k rs1) (r.rw k rs2)) id (fun r => insnPtr f (r.pc k) + 4 * immS f off 48) ∧
    Jumps i k f x (fun r => ¬taken (r.rw k rs1) (r.rw k rs2)) id (fun r => insnPtr f (r.pc k) + 4) := by
  refine ⟨.of_runInsn he fun r h => ⟨_, branchBody_ok, ?_⟩, .of_runInsn he fun r h => ⟨_, branchBody_ok, ?_⟩⟩
  · rw [if_pos ((ht _ _).2 h), ← ptrWords_eq]
    rfl
  · rw [if_neg fun e => h ((ht _ _).1 e)]
    rfl

theorem Jumps.of_jumpBody {i : Instr} {k : Core} {f : Fetch} {x : Insn} {off : BitVec 18} {link : Bool}
    (he : exec i = runInsn k f x (jumpBody k f off link)) :
    Jumps i k f x (fun _ => True) (fun r => if link then r.setD k 2 (insnPtr f (r.pc k) + 4) else r)
      fun r => insnPtr f (r.pc k) + 4 * off18 f off := by
  refine .of_runInsn he fun r _ => ⟨Done.jump (branchTarget f (r.pc k) (off18 f off)) [], ?_, ?_⟩
  · cases link <;> rfl
  · exact ptrWords_eq _ _

theorem Jumps.of_jalrBody {i : Instr} {k : Core} {f : Fetch} {x : Insn} {rd rs1 : BitVec 5} {imm : BitVec 8}
    (he : exec i = runInsn k f x (jalrBody k f rd rs1 imm)) :
    Jumps i k f x (fun _ => True) (fun r => r.setD k rd (insnPtr f (r.pc k) + 4)) fun r => r.rd k rs1 + 4 * immS f imm 48 := by
  refine .of_runInsn he fun r _ => ⟨Done.jump (ptrWords (r.rd k rs1) (immS f imm 48)) [.target 0 (ptrWords (r.rd k rs1) (immS f imm 48))], rfl, ?_⟩
  exact ptrWords_eq _ _

end Sys2Proof.Machine

open Sys2Proof Sys2Proof.Machine

/-- Settles O16: every target is counted from the pointer of the instruction word itself. -/
theorem branchesAndJumps : Obligations.BranchesAndJumps := by
  intro k f rd rs1 rs2 imm off here words8 words18 branch
  refine ⟨branchBody_jumps (taken := fun a b => a = b) rfl ?_, branchBody_jumps (taken := fun a b => a ≠ b) rfl ?_,
    branchBody_jumps (taken := fun a b => a.toInt < b.toInt) rfl ?_, branchBody_jumps (taken := fun a b => b.toInt ≤ a.toInt) rfl ?_,
    branchBody_jumps (taken := fun a b => a.toNat < b.toNat) rfl ?_, branchBody_jumps (taken := fun a b => b.toNat ≤ a.toNat) rfl ?_,
    .of_jumpBody (link := false) rfl, .of_jumpBody (link := true) rfl, .of_jalrBody rfl⟩
  · exact fun a b => decide_eq_true_iff
  · exact fun a b => decide_eq_true_iff
  · exact fun a b => decide_eq_true_iff
  · simp [BitVec.slt]
  · exact fun a b => decide_eq_true_iff
  · simp [BitVec.ult]
end

section
/-! SUPPORT. Results that saturate (04 R120, R121); the accumulator instructions, O13; the fractional instructions, O14. -/
namespace Sys2Proof.Machine

/-- A word result that saturates, and its flag in QSTAT. -/
theorem State.setSat_satWord (s : State) (k : Core) (rd : BitVec 5) (x : Int) :
    s.setSat k rd (satWord x) =
      (s.setW k rd (if 0x7FFFFF < x then 0x7FFFFF else if x < -0x800000 then 0x800000 else BitVec.ofInt 24 x)).orQstat k
        (if 0x7FFFFF < x ∨ x < -0x800000 then 1 else 0) := by
  unfold State.setSat satWord
  by_cases h1 : 0x7FFFFF < x
  · simp only [h1, if_true, true_or]
    rfl
  · by_cases h2 : x < -0x800000
    · simp only [h1, h2, if_true, if_false, or_true]
      rfl
    · simp only [h1, h2, if_false, or_self]
      rfl

/-- An accumulator result that saturates, and its flag in QSTAT. -/
theorem State.setSatAcc_satAcc (s : State) (c : Fin 12) (n : BitVec 2) (x : Int) :
    s.setSatAcc c n (satAcc x) =
      (s.setAcc c n (if 2 ^ 55 - 1 < x then 0x7FFFFFFFFFFFFF else if x < -2 ^ 55 then 0x80000000000000 else BitVec.ofInt 56 x)).orQstat
        (.voice c) (if 2 ^ 55 - 1 < x ∨ x < -2 ^ 55 then 2 else 0) := by
  unfold State.setSatAcc satAcc
  by_cases h1 : (2 : Int) ^ 55 - 1 < x
  · simp only [h1, if_true, true_or]
    rfl
  · by_cases h2 : x < -(2 : Int) ^ 55
    · simp only [h1, h2, if_true, if_false, or_true]
      rfl
    · simp only [h1, h2, if_false, or_self]
      rfl

/-- ALOAD puts the word above 24 zero bits. -/
theorem signExtend_shiftLeft_24 (w : Word) : w.signExtend 56 <<< 24 = BitVec.ofInt 56 (w.toInt * 2 ^ 24) := by
  rw [BitVec.shiftLeft_eq_mul_twoPow, BitVec.signExtend, BitVec.ofInt_mul]
  rfl

/-- The guard byte of an accumulator is its value rounded down in units of 2^48. -/
theorem toInt_guard (a : BitVec 56) : (bits a 48 8).toInt = a.toInt / 2 ^ 48 := by
  have ha := a.isLt
  rw [BitVec.toInt_eq_toNat_cond, BitVec.toInt_eq_toNat_cond, bits, BitVec.extractLsb'_toNat, Nat.shiftRight_eq_div_pow]
  split <;> split <;> omega

/-- An accumulator instruction does what its function does. -/
theorem Does.of_runAcc {i : Instr} {k : Core} {f : Fetch} {major : BitVec 6} {fn : BitVec 3} {rd rs1 rs2 : BitVec 5} {legal : Bool}
    {fields : Prop} [Decidable fields] {g effect : State → State} (he : exec i = runReg k f (insnA major fn rd rs1 rs2 legal) g)
    (hl : legal = decide fields) (hg : ∀ r, g r = effect r) :
    Does i k f { insnR major fn rd rs1 rs2 (decide fields) with cdr := false, xs := true } effect := by
  subst hl
  exact .of_runReg he hg

theorem amount_eq_mod (b : Word) : amount b = b.toNat % 32 := by
  rw [amount, bits, BitVec.extractLsb'_toNat, Nat.shiftRight_zero]

/-! Counts of leading bits. -/

theorem leading_le (w : Word) (b : Bool) (n : Nat) : leading w b n ≤ n := by
  induction n with
  | zero => exact Nat.le_refl _
  | succ n ih =>
    unfold leading
    split
    · omega
    · omega

/-- The bits that are counted equal `b`. -/
theorem getLsbD_of_lt_leading {w : Word} {b : Bool} {n i : Nat} (h : i < leading w b n) : w.getLsbD (n - 1 - i) = b := by
  induction n generalizing i with
  | zero => simp [leading] at h
  | succ n ih =>
    unfold leading at h
    split at h
    · cases i with
      | zero => assumption
      | succ i =>
        rw [← ih (i := i) (by omega)]
        congr 1
        omega
    · omega

/-- The first bit that is not counted differs from `b`. -/
theorem getLsbD_leading_ne {w : Word} {b : Bool} {n : Nat} (h : leading w b n < n) : w.getLsbD (n - 1 - leading w b n) ≠ b := by
  induction n with
  | zero => omega
  | succ n ih =>
    unfold leading at h ⊢
    split at h
    · rename_i hb
      rw [if_pos hb]
      have := ih (by omega)
      rwa [show n + 1 - 1 - (leading w b n + 1) = n - 1 - leading w b n by omega]
    · rename_i hb
      rwa [if_neg hb]

end Sys2Proof.Machine

open Sys2Proof Sys2Proof.Machine

/-- Settles O13: each instruction is its row of Table 4.5, and a sum or a word that leaves its range saturates with its flag. -/
theorem accumulatorInstructions : Obligations.AccumulatorInstructions := by
  intro c f rd rs1 rs2 k row product sum word toAcc ofAcc
  have two (p q : Prop) [Decidable p] [Decidable q] : (decide p && decide q) = decide (p ∧ q) := (Bool.decide_and p q).symm
  have three (p q t : Prop) [Decidable p] [Decidable q] [Decidable t] : (decide p && decide q && decide t) = decide (p ∧ q ∧ t) := by
    rw [Bool.and_assoc, two q t, two p (q ∧ t)]
  have pair (b : Bool) (q t : Prop) [Decidable q] [Decidable t] : (b && decide q && decide t) = decide (b = true ∧ q ∧ t) := by
    rw [← three, Bool.decide_coe]
  refine ⟨.of_runAcc rfl rfl fun r => rfl, .of_runAcc rfl rfl fun r => ?_, .of_runAcc rfl rfl fun r => ?_,
    .of_runAcc rfl (two _ _) fun r => ?_, .of_runAcc rfl (three _ _ _) fun r => rfl, .of_runAcc rfl (two _ _) fun r => ?_,
    .of_runAcc rfl (two _ _) fun r => ?_, .of_runAcc rfl (two _ _) fun r => ?_, .of_runAcc rfl (pair _ _ _) fun r => rfl,
    .of_runAcc rfl (two _ _) fun r => ?_, .of_runAcc rfl ?_ fun r => rfl, .of_runAcc rfl (two _ _) fun r => rfl⟩
  · exact r.setSatAcc_satAcc c _ _
  · exact r.setSatAcc_satAcc c _ _
  · exact congrArg (r.setAcc c _) (signExtend_shiftLeft_24 _)
  · exact r.setSatAcc_satAcc c _ _
  · exact r.setSat_satWord k rd _
  · exact r.setSat_satWord k rd _
  · exact congrArg (fun x => r.setW k rd (BitVec.ofInt 24 x)) (toInt_guard _)
  · rw [accField, Bool.and_assoc, Bool.decide_and, Bool.decide_and, Bool.decide_coe]

/-- Settles O14: each instruction is its row of Table 4.5; the counts stop at the first bit that differs. -/
theorem fractionalInstructions : Obligations.FractionalInstructions := by
  intro k f rd rs1 rs2 row word
  refine ⟨.of_runReg rfl fun r => ?_, .of_runReg rfl fun r => ?_, .of_runReg rfl fun r => ?_, .of_runReg rfl fun r => ?_,
    .of_runReg rfl fun r => ?_, .of_runReg rfl fun r => ?_, fun s r h => ?_, fun s r h => ?_⟩
  · exact State.setSat_satWord _ _ _ _
  · exact State.setSat_satWord _ _ _ _
  · exact State.setSat_satWord _ _ _ _
  · exact State.setSat_satWord _ _ _ _
  · exact State.setSat_satWord _ _ _ _
  · rw [satOp, amount_eq_mod]
    exact State.setSat_satWord _ _ _ _
  · obtain ⟨t, ht, hr⟩ := runReg_retired (g := fun s => s.setW k rd (BitVec.ofNat 24 (leading (s.rw k rs1) ((s.rw k rs1).getLsbD 23) 23))) h
    exact ⟨t, _, ht, leading_le _ _ _, hr, fun i => getLsbD_of_lt_leading, getLsbD_leading_ne⟩
  · obtain ⟨t, ht, hr⟩ := runReg_retired (g := fun s => s.setW k rd (BitVec.ofNat 24 (leading (s.rw k rs1) false 24))) h
    exact ⟨t, _, ht, leading_le _ _ _, hr, fun i => getLsbD_of_lt_leading, fun hn => by simpa using getLsbD_leading_ne hn⟩
end

section
/-! SUPPORT. Control and status registers (04 R143 to R145; 05 Table 5.5), and O24. -/
namespace Sys2Proof.Machine

/-- A CSR written changes neither the general registers nor the PC of its core. -/
theorem VoiceCore.writeCsr_regs (v : VoiceCore) (n : Nat) (x : Word) : (v.writeCsr n x).w = v.w ∧ (v.writeCsr n x).pc = v.pc := by
  unfold VoiceCore.writeCsr
  split <;> exact ⟨rfl, rfl⟩

theorem Conductor.writeCsr_regs (d : Conductor) (n : Nat) (x : Word) : (d.writeCsr n x).w = d.w ∧ (d.writeCsr n x).pc = d.pc := by
  unfold Conductor.writeCsr
  split <;> exact ⟨rfl, rfl⟩

theorem State.setCsr_regs (s : State) (k : Core) (n : BitVec 12) (x : Word) :
    (s.setCsr k n x).regs k = s.regs k ∧ (s.setCsr k n x).pc k = s.pc k := by
  cases k with
  | voice c =>
    simp only [State.setCsr, State.regs, State.pc, State.modCore_same]
    exact (s.core c).writeCsr_regs n.toNat x
  | conductor => exact s.cdr.writeCsr_regs n.toNat x

/-- A CSR written by a Voice core is written in that core. -/
theorem State.core_setCsr_voice (s : State) (c : Fin 12) (n : BitVec 12) (x : Word) :
    (s.setCsr (.voice c) n x).core c = (s.core c).writeCsr n.toNat x := s.modCore_same c _

end Sys2Proof.Machine

open Sys2Proof Sys2Proof.Machine

/-- Settles O24: a CSR access is one read or one write of a field, which reads back in its implemented bits. -/
theorem csrInstructions : Obligations.CsrInstructions := by
  refine fun k f r1 n => ⟨.of_runReg rfl fun _ => rfl, .of_runReg rfl fun _ => rfl, fun s x => s.setCsr_regs k n x,
    fun s c x => ⟨?_, ?_, rfl, rfl, rfl⟩⟩
  · exact congrArg VoiceCore.fcsr (s.core_setCsr_voice c 0x001 x)
  · exact congrArg VoiceCore.qstat (s.core_setCsr_voice c 0x002 x)
end

section
/-! SUPPORT. Loads and stores (04 R127 to R129), and O17. -/
namespace Sys2Proof.Machine

/-- A byte access whose base has another lane than 11 uses the pointer that PADDI.B would give. -/
theorem effPtr_byte {base imm : DWord} (h : ptrLane base ≠ 3) (s : State) :
    effPtr .byte base imm s = .ok (ptrOf (ptrIndex base + imm.toInt)) s := by
  simp only [effPtr, h, if_false]
  rfl

/-- A word or double-word access adds words to its base. -/
theorem effPtr_words {z : Size} (hz : z ≠ .byte) (base imm : DWord) (s : State) : effPtr z base imm s = .ok (base + 4 * imm) s := by
  rw [← ptrWords_eq]
  cases z with
  | byte => exact absurd rfl hz
  | word => rfl
  | dbl => rfl

section
variable {i : Instr} {k : Core} {f : Fetch} {x : Insn} {z : Size} {rs1 : BitVec 5} {imm : BitVec 8} {p : DWord} {s r u w : State}

/-- A load whose access completes writes its destination and retires. -/
theorem load_retired {put : State → DWord → State} {v : DWord} (he : exec i = runInsn k f x (loadBody k f z rs1 imm put))
    (h : Ready s k f x r) (hp : effPtr z (r.rd k rs1) (immS f imm 48) r = .ok p r) (hl : loadAt k f z p r = .ok v u)
    (hw : put u v = w) : ∃ t, exec i s = .next t ∧ Retired w t k (nextPtr f (r.pc k)) := by
  rw [he, ← hw]
  exact runInsn_retired (d := { Done.seq with evs := [dataEv z false false p v] }) h
    (Exec.bind_get.trans ((Exec.bind_of_ok hp).trans (Exec.bind_of_ok hl)))

/-- A store whose access completes retires. -/
theorem store_retired {value : State → DWord} (he : exec i = runInsn k f x (storeBody k f z rs1 imm value))
    (h : Ready s k f x r) (hp : effPtr z (r.rd k rs1) (immS f imm 48) r = .ok p r) (hst : storeAt k f z p (value r) r = .ok () u) :
    ∃ t, exec i s = .next t ∧ Retired u t k (nextPtr f (r.pc k)) := by
  rw [he]
  exact runInsn_retired (d := { Done.seq with evs := [dataEv z true false p (value r)] }) h
    (Exec.bind_get.trans ((Exec.bind_of_ok hp).trans (Exec.bind_of_ok hst)))

end

/-- LB writes the low byte of the value. -/
theorem setWidth_byte (v : DWord) : (bits v 0 8).setWidth 24 = BitVec.ofNat 24 (v.toNat % 256) := by
  rw [bits, ← BitVec.ofNat_toNat, BitVec.extractLsb'_toNat]
  rfl

/-- LW writes the low word of the value. -/
theorem lo24_eq_bits (v : DWord) : lo24 v = bits v 0 24 := BitVec.setWidth_eq_extractLsb' (by decide)

end Sys2Proof.Machine

open Sys2Proof Sys2Proof.Machine

/-- Settles O17: the effective pointer is found first, then the access is made, and nothing after it can fail. -/
theorem loadsAndStores : Obligations.LoadsAndStores := by
  intro k f r1 rs1 imm offset bytePtr wordPtr load store lane
  have byte (r : State) (h : lane r) : effPtr .byte (r.rd k rs1) (immS f imm 48) r = .ok (bytePtr r) r := effPtr_byte h r
  have word (r : State) : effPtr .word (r.rd k rs1) (immS f imm 48) r = .ok (wordPtr r) r := effPtr_words (by decide) _ _ r
  have dbl (r : State) : effPtr .dbl (r.rd k rs1) (immS f imm 48) r = .ok (wordPtr r) r := effPtr_words (by decide) _ _ r
  refine ⟨fun s r u v h hok hl => load_retired rfl h (byte r hok) hl (congrArg (u.setW k r1) (setWidth_byte v)),
    fun s r u v h hok hl => load_retired rfl h (byte r hok) hl rfl,
    fun s r u v h _ hl => load_retired rfl h (word r) hl (congrArg (u.setW k r1) (lo24_eq_bits v)),
    fun s r u v h _ hl => load_retired rfl h (dbl r) hl rfl, fun s r u h hok hst => store_retired rfl h (byte r hok) hst,
    fun s r u h _ hst => store_retired rfl h (word r) hst, fun s r u h _ hst => store_retired rfl h (dbl r) hst⟩
end

section
/-! SUPPORT. The atomics of a Voice core (04 R130 to R135), and O19. -/
namespace Sys2Proof.Machine

/-- A step that traps ends the program. -/
theorem Exec.bind_of_error {α β : Type} {m : Exec α} {g : α → Exec β} {s t : State} {e : Trap} (h : m s = .error e t) :
    (m >>= g) s = .error e t := by
  simp only [bind, EStateM.bind, h]

section
variable {i : Instr} {c : Fin 12} {f : Fetch} {x : Insn} {z : Size} {rd rs1 : BitVec 5} {s r u w y : State} {a : PAddr} {ws : List Word}

/-- LL on a line of type WB writes its destination, records the reservation and retires (R130). -/
theorem ll_retired {put : State → DWord → State} (he : exec i = runInsn (.voice c) f x (llBody (.voice c) f z rs1 put))
    (h : Ready s (.voice c) f x r) (ha : voiceAddr c .load z (r.rd (.voice c) rs1) r = .ok (a, some .wb) u)
    (hl : voiceLoad c z (r.rd (.voice c) rs1) f.ups (a, some .wb) u = .ok ws w) (hy : put w (z.value (r.rd (.voice c) rs1) ws) = y) :
    ∃ t, exec i s = .next t ∧ Retired (y.modCore c fun v =>
      { v with resv := some { line := lineOf a.toNat, addr := a, dbl := decide (z = .dbl) } }) t (.voice c) (nextPtr f (r.pc (.voice c))) := by
  rw [he, ← hy]
  exact runInsn_retired (d := { Done.seq with evs := [dataEv z false true (r.rd (.voice c) rs1) (z.value (r.rd (.voice c) rs1) ws)] }) h
    (Exec.bind_get.trans ((Exec.bind_of_ok ha).trans ((Exec.bind_of_ok (a := ()) rfl).trans (Exec.bind_of_ok hl))))

/-- LL on a type that does not perform it raises the atomic-type fault (R135). -/
theorem ll_trapped {put : State → DWord → State} {mt : MemType} (he : exec i = runInsn (.voice c) f x (llBody (.voice c) f z rs1 put))
    (h : Ready s (.voice c) f x r) (ha : voiceAddr c .load z (r.rd (.voice c) rs1) r = .ok (a, some mt) u) (hmt : mt ≠ .wb) :
    exec i s = .next (u.excAt (.voice c) (Exc.of 0x14 (r.rd (.voice c) rs1))) := by
  have ht : atomType (r.rd (.voice c) rs1) false (some mt) u = .error (.exc (Exc.of 0x14 (r.rd (.voice c) rs1))) u := by
    cases mt with
    | wb => exact absurd rfl hmt
    | nc => rfl
    | sx => rfl
  rw [he]
  exact runInsn_trapped h (Exec.bind_get.trans ((Exec.bind_of_ok ha).trans (Exec.bind_of_error ht)))

/-- The reservation of a core is held for an address and a size (R131). -/
def State.holds (s : State) (c : Fin 12) (a : PAddr) (z : Size) : Bool :=
  (s.core c).resv.any fun q => q.addr = a && q.dbl = decide (z = .dbl)

theorem State.holds_iff : u.holds c a z = true ↔ ∃ q, (u.core c).resv = some q ∧ q.addr = a ∧ q.dbl = decide (z = .dbl) := by
  simp [State.holds, Option.any_eq_true]

/-- SC whose reservation is held stores, writes 0 and clears the reservation (R131, R132). -/
theorem sc_stored {value : State → DWord} (he : exec i = runInsn (.voice c) f x (scBody (.voice c) f z rd rs1 value))
    (h : Ready s (.voice c) f x r) (ha : voiceAddr c .store z (r.rd (.voice c) rs1) r = .ok (a, some .wb) u) (hh : u.holds c a z = true)
    (hst : voiceStore c f.ups z (r.rd (.voice c) rs1) (value r) (a, some .wb) u = .ok () w) :
    ∃ t, exec i s = .next t ∧ Retired ((w.modCore c fun v => { v with resv := none }).setW (.voice c) rd 0) t (.voice c)
      (nextPtr f (r.pc (.voice c))) := by
  rw [he]
  refine runInsn_retired (d := { Done.seq with evs := [dataEv z true true (r.rd (.voice c) rs1) (value r)] }) h
    (Exec.bind_get.trans ((Exec.bind_of_ok ha).trans ((Exec.bind_of_ok (a := ()) rfl).trans (Exec.bind_get.trans ?_))))
  exact (congrFun (if_pos hh) u).trans (Exec.bind_of_ok hst)

/-- SC whose reservation is not held writes 1 without an access, and clears the reservation (R131, R132). -/
theorem sc_failed {value : State → DWord} (he : exec i = runInsn (.voice c) f x (scBody (.voice c) f z rd rs1 value))
    (h : Ready s (.voice c) f x r) (ha : voiceAddr c .store z (r.rd (.voice c) rs1) r = .ok (a, some .wb) u) (hh : u.holds c a z = false) :
    ∃ t, exec i s = .next t ∧ Retired ((u.modCore c fun v => { v with resv := none }).setW (.voice c) rd 1) t (.voice c)
      (nextPtr f (r.pc (.voice c))) := by
  rw [he]
  refine runInsn_retired (d := Done.seq) h
    (Exec.bind_get.trans ((Exec.bind_of_ok ha).trans ((Exec.bind_of_ok (a := ()) rfl).trans (Exec.bind_get.trans ?_))))
  exact congrFun (if_neg (Bool.eq_false_iff.1 hh)) u

/-- CAS.D on a line of type WB whose double word differs from pair rd writes the double word into rd and retires. -/
theorem cas_differs {rs2 : BitVec 5} (he : exec i = runInsn (.voice c) f x (casBody (.voice c) f rd rs1 rs2))
    (h : Ready s (.voice c) f x r) (ha : voiceAddr c .cas .dbl (r.rd (.voice c) rs1) r = .ok (a, some .wb) u)
    (hl : voiceLoad c .dbl (r.rd (.voice c) rs1) f.ups (a, some .wb) u = .ok ws w) :
    let old := Size.dbl.value (r.rd (.voice c) rs1) ws
    old ≠ r.rd (.voice c) rd → ∃ t, exec i s = .next t ∧ Retired (w.setD (.voice c) rd old) t (.voice c)
      (nextPtr f (r.pc (.voice c))) := by
  intro old hne
  rw [he]
  refine runInsn_retired (d := { Done.seq with evs := [dataEv .dbl (decide (old = r.rd (.voice c) rd)) true (r.rd (.voice c) rs1) old] }) h
    (Exec.bind_get.trans ((Exec.bind_of_ok ha).trans ((Exec.bind_of_ok (a := ()) rfl).trans ((Exec.bind_of_ok hl).trans ?_))))
  exact congrFun (if_neg hne) w

/-- CAS.D on a line of type WB whose double word equals pair rd stores pair rs2, writes the double word into rd and retires. -/
theorem cas_equal {rs2 : BitVec 5} (he : exec i = runInsn (.voice c) f x (casBody (.voice c) f rd rs1 rs2))
    (h : Ready s (.voice c) f x r) (ha : voiceAddr c .cas .dbl (r.rd (.voice c) rs1) r = .ok (a, some .wb) u)
    (hl : voiceLoad c .dbl (r.rd (.voice c) rs1) f.ups (a, some .wb) u = .ok ws w)
    (hst : voiceStore c f.ups .dbl (r.rd (.voice c) rs1) (r.rd (.voice c) rs2) (a, some .wb) w = .ok () y) :
    let old := Size.dbl.value (r.rd (.voice c) rs1) ws
    old = r.rd (.voice c) rd → ∃ t, exec i s = .next t ∧ Retired (y.setD (.voice c) rd old) t (.voice c)
      (nextPtr f (r.pc (.voice c))) := by
  intro old heq
  rw [he]
  refine runInsn_retired (d := { Done.seq with evs := [dataEv .dbl (decide (old = r.rd (.voice c) rd)) true (r.rd (.voice c) rs1) old] }) h
    (Exec.bind_get.trans ((Exec.bind_of_ok ha).trans ((Exec.bind_of_ok (a := ()) rfl).trans ((Exec.bind_of_ok hl).trans ?_))))
  exact (congrFun (if_pos heq) w).trans (Exec.bind_of_ok hst)

end

end Sys2Proof.Machine

open Sys2Proof Sys2Proof.Machine

/-- Settles O19: an atomic is its access between the check of the memory type and the write of its registers. -/
theorem atomicInstructions : Obligations.AtomicInstructions := by
  intro c f rd rs1 rs2 k ll sc
  have conditional {i : Instr} {x : Insn} {z : Size} {value : State → DWord}
      (he : exec i = runInsn k f { x with cdr := false } (scBody k f z rd rs1 value)) : sc i x z value := by
    refine fun s r u a h ha => ⟨fun w hq hst => sc_stored he h ha (State.holds_iff.2 hq) hst, fun hq => sc_failed he h ha ?_⟩
    refine Bool.eq_false_iff.2 fun hh => ?_
    obtain ⟨q, hs, hqa, hqd⟩ := State.holds_iff.1 hh
    exact hq q hs hqa hqd
  refine ⟨fun s r u w a ws h ha hl => ll_retired rfl h ha hl (congrArg (w.setW k rd) (lo24_eq_bits _)),
    fun s r u w a ws h ha hl => ll_retired rfl h ha hl rfl, conditional rfl, conditional rfl,
    fun s r u w a ws h ha hl => ⟨cas_differs rfl h ha hl, fun heq y hst => cas_equal rfl h ha hl hst heq⟩,
    fun s r u a mt h ha hmt => ll_trapped rfl h ha hmt⟩
end

section
/-! SUPPORT. Rounding of a magnitude to an integer (04 section 4.1, FCSR.RM): what `roundTo` computes, in terms of reals. -/
namespace Sys2Proof.Machine

/-- A mode in which an inexact magnitude of this sign always rounds up. -/
def Away (rm : Nat) (neg : Bool) : Prop := (rm = 2 ∧ neg = false) ∨ (rm = 3 ∧ neg = true)

/-- The magnitude `y`, whose integer part is `h`, rounds up in mode `rm`. -/
def RoundsUp (rm : Nat) (neg : Bool) (h : Nat) (y : ℝ) : Prop :=
  (rm = 0 ∧ (2 * h + 1 < 2 * y ∨ (2 * h + 1 = 2 * y ∧ h % 2 = 1))) ∨ (rm = 1 ∧ 2 * h + 1 ≤ 2 * y) ∨ (Away rm neg ∧ h < y)

/-- `n` is the magnitude `y` rounded to an integer in mode `rm`. -/
structure RoundsTo (rm : Nat) (neg : Bool) (y : ℝ) (n : Nat) : Prop where
  up   : RoundsUp rm neg ⌊y⌋₊ y → n = ⌊y⌋₊ + 1
  down : ¬RoundsUp rm neg ⌊y⌋₊ y → n = ⌊y⌋₊

/-- The magnitude `m` in units of `2^e`, and a little more where `sticky`, stands for `x`. -/
structure Approx (m : Nat) (e : Int) (sticky : Bool) (x : ℝ) : Prop where
  le    : m * (2 : ℝ) ^ e ≤ x
  lt    : x < (m + 1) * (2 : ℝ) ^ e
  exact : sticky = true ↔ m * (2 : ℝ) ^ e ≠ x

theorem Approx.of_exact (m : Nat) (e : Int) : Approx m e false (m * (2 : ℝ) ^ e) := by
  have := zpow_pos (two_pos (α := ℝ)) e
  exact ⟨le_rfl, by nlinarith, by simp⟩

theorem RoundsTo.bounds {rm : Nat} {neg : Bool} {y : ℝ} {n : Nat} (h : RoundsTo rm neg y n) : ⌊y⌋₊ ≤ n ∧ n ≤ ⌊y⌋₊ + 1 := by
  by_cases hu : RoundsUp rm neg ⌊y⌋₊ y
  · rw [h.up hu]; omega
  · rw [h.down hu]; omega

/-- An integer is rounded to itself. -/
theorem not_roundsUp_natCast (rm : Nat) (neg : Bool) (n : Nat) : ¬RoundsUp rm neg n (n : ℝ) := by
  rintro (⟨-, h | ⟨h, -⟩⟩ | ⟨-, h⟩ | ⟨-, h⟩) <;> linarith

section
variable {k r : Nat} {s : ℝ} {sticky : Bool}

/-- A remainder and a little more, against half a unit. -/
theorem half_lt_iff (hk : 0 < k) (h0 : 0 ≤ s) (h1 : s < 1) (hs : sticky = true ↔ 0 < s) :
    (2 : ℝ) ^ k < 2 * (r + s) ↔ 2 ^ k < 2 * r ∨ (2 * r = 2 ^ k ∧ sticky = true) := by
  obtain ⟨j, rfl⟩ := Nat.exists_eq_succ_of_ne_zero hk.ne'
  have he : (2 : ℝ) ^ (j + 1) = 2 * ((2 ^ j : Nat) : ℝ) := by push_cast; ring
  rw [Nat.succ_eq_add_one, he, pow_succ, hs]
  rcases lt_trichotomy (2 ^ j) r with h | h | h
  · have : ((2 ^ j : Nat) : ℝ) + 1 ≤ r := by exact_mod_cast h
    exact ⟨fun _ => .inl (by omega), fun _ => by linarith⟩
  · rw [h]
    exact ⟨fun hlt => .inr ⟨by omega, by linarith⟩, fun hor => by rcases hor with hor | ⟨-, hor⟩ <;> [omega; linarith]⟩
  · have : (r : ℝ) + 1 ≤ (2 ^ j : Nat) := by exact_mod_cast h
    exact ⟨fun hlt => by linarith, fun hor => by omega⟩

theorem half_eq_iff (hk : 0 < k) (h0 : 0 ≤ s) (h1 : s < 1) (hs : sticky = true ↔ 0 < s) :
    (2 : ℝ) ^ k = 2 * (r + s) ↔ 2 * r = 2 ^ k ∧ sticky = false := by
  obtain ⟨j, rfl⟩ := Nat.exists_eq_succ_of_ne_zero hk.ne'
  have he : (2 : ℝ) ^ (j + 1) = 2 * ((2 ^ j : Nat) : ℝ) := by push_cast; ring
  rw [Nat.succ_eq_add_one, he, pow_succ, ← Bool.not_eq_true, hs]
  rcases lt_trichotomy (2 ^ j) r with h | h | h
  · have : ((2 ^ j : Nat) : ℝ) + 1 ≤ r := by exact_mod_cast h
    exact ⟨fun heq => by linarith, fun hand => by omega⟩
  · rw [h]
    exact ⟨fun heq => ⟨by omega, by linarith⟩, fun hand => by linarith [hand.2]⟩
  · have : (r : ℝ) + 1 ≤ (2 ^ j : Nat) := by exact_mod_cast h
    exact ⟨fun heq => by linarith, fun hand => by omega⟩

/-- The model's test for rounding up is the one on the exact magnitude. -/
theorem roundsUp_iff {rm : Nat} {neg : Bool} {h : Nat} (hrm : rm ≤ 4) (hk : 0 < k) (h0 : 0 ≤ s) (h1 : s < 1)
    (hs : sticky = true ↔ 0 < s) : roundsUp rm neg h r k sticky = true ↔ RoundsUp rm neg h (h + (r + s) / 2 ^ k) := by
  have hp : (0 : ℝ) < 2 ^ k := by positivity
  have hlt : 2 * (h : ℝ) + 1 < 2 * (h + (r + s) / 2 ^ k) ↔ 2 ^ k < 2 * r ∨ (2 * r = 2 ^ k ∧ sticky = true) := by
    rw [← half_lt_iff hk h0 h1 hs, ← sub_pos, ← sub_pos (b := (2 : ℝ) ^ k), ← mul_pos_iff_of_pos_right hp]
    field_simp
    ring_nf
  have heq : 2 * (h : ℝ) + 1 = 2 * (h + (r + s) / 2 ^ k) ↔ 2 * r = 2 ^ k ∧ sticky = false := by
    rw [← half_eq_iff hk h0 h1 hs]
    field_simp
    constructor <;> intro e <;> linarith
  have hpos : (h : ℝ) < h + (r + s) / 2 ^ k ↔ r ≠ 0 ∨ sticky = true := by
    rw [lt_add_iff_pos_right, hs, div_pos_iff_of_pos_right hp, ← Nat.pos_iff_ne_zero, ← Nat.cast_pos (α := ℝ)]
    constructor
    · intro h
      by_contra hn
      obtain ⟨hr, hs⟩ := not_or.1 hn
      linarith
    · rintro (h | h)
      · linarith
      · have : (0 : ℝ) ≤ r := Nat.cast_nonneg r
        linarith
  unfold RoundsUp Away
  rw [le_iff_lt_or_eq, hlt, heq, hpos]
  have hmodes : rm = 0 ∨ rm = 1 ∨ rm = 2 ∨ rm = 3 ∨ rm = 4 := by omega
  rcases hmodes with rfl | rfl | rfl | rfl | rfl <;> cases sticky <;> cases neg <;> simp [roundsUp, hk]

end

theorem roundTo_spec {rm : Nat} {neg : Bool} {m : Nat} {e q : Int} {sticky : Bool} {x : ℝ} (hrm : rm ≤ 4) (hx : Approx m e sticky x)
    (hq : q ≤ e → sticky = false) :
    RoundsTo rm neg (x / 2 ^ q) (roundTo rm neg m e q sticky).1 ∧
      ((roundTo rm neg m e q sticky).2 = true ↔ (⌊x / 2 ^ q⌋₊ : ℝ) ≠ x / 2 ^ q) := by
  by_cases hle : q ≤ e
  · have hx0 : x = m * (2 : ℝ) ^ e := by
      by_contra hne
      exact Bool.false_ne_true ((hq hle).symm.trans (hx.exact.2 (Ne.symm hne)))
    have hy : x / 2 ^ q = ((m * 2 ^ (e - q).toNat : Nat) : ℝ) := by
      rw [hx0, mul_div_assoc, ← zpow_sub₀ two_ne_zero]
      push_cast
      rw [← zpow_natCast, Int.toNat_of_nonneg (by omega)]
    rw [roundTo, if_pos hle, hy, Nat.floor_natCast, hq hle]
    refine ⟨⟨fun hu => ?_, fun _ => ?_⟩, by simp⟩
    · rw [Nat.floor_natCast] at hu
      exact absurd hu (not_roundsUp_natCast _ _ _)
    · rw [Nat.floor_natCast]
  · obtain ⟨k, hk⟩ : ∃ k : Nat, q = e + k := ⟨(q - e).toNat, by omega⟩
    have hk0 : 0 < k := by omega
    have hkn : (q - e).toNat = k := by omega
    have hpe : (0 : ℝ) < 2 ^ e := by positivity
    have hpk : (0 : ℝ) < 2 ^ k := by positivity
    -- what stands above the `m` units of `2^e`
    obtain ⟨t, ht⟩ : ∃ t : ℝ, x = (m + t) * 2 ^ e := ⟨x / 2 ^ e - m, by field_simp; ring⟩
    have h0 : 0 ≤ t := by
      have := hx.le
      rw [ht] at this
      linarith [le_of_mul_le_mul_right this hpe]
    have h1 : t < 1 := by
      have := hx.lt
      rw [ht] at this
      linarith [lt_of_mul_lt_mul_right this hpe.le]
    have hs : sticky = true ↔ 0 < t := by
      rw [hx.exact, ht, Ne, mul_eq_mul_right_iff, or_iff_left hpe.ne', left_eq_add]
      exact ⟨fun h => lt_of_le_of_ne h0 (Ne.symm h), fun h => h.ne'⟩
    have hy : x / 2 ^ q = (m / 2 ^ k : Nat) + ((m % 2 ^ k : Nat) + t) / 2 ^ k := by
      have hm : (m : ℝ) = 2 ^ k * (m / 2 ^ k : Nat) + (m % 2 ^ k : Nat) := by exact_mod_cast (Nat.div_add_mod m (2 ^ k)).symm
      rw [ht, hk, zpow_add₀ two_ne_zero, zpow_natCast, hm]
      field_simp
      ring
    have hlt : ((m % 2 ^ k : Nat) + t) / 2 ^ k < 1 := by
      have : ((m % 2 ^ k : Nat) : ℝ) + 1 ≤ 2 ^ k := by exact_mod_cast Nat.mod_lt m (by positivity)
      rw [div_lt_one hpk]
      linarith
    have hge : 0 ≤ ((m % 2 ^ k : Nat) + t) / 2 ^ k := by positivity
    have hfloor : ⌊x / 2 ^ q⌋₊ = m / 2 ^ k := by
      rw [hy, Nat.floor_eq_iff (by positivity)]
      exact ⟨by linarith, by linarith⟩
    have hup := roundsUp_iff (neg := neg) (h := m / 2 ^ k) hrm hk0 h0 h1 hs (r := m % 2 ^ k)
    rw [← hy] at hup
    rw [roundTo, if_neg hle, hkn]
    refine ⟨⟨fun hu => ?_, fun hu => ?_⟩, ?_⟩
    · rw [hfloor] at hu ⊢
      simp only [hup.2 hu, if_true]
    · rw [hfloor] at hu ⊢
      simp only [Bool.eq_false_iff.2 (mt hup.1 hu), Bool.false_eq_true, if_false, Nat.add_zero]
    · rw [hfloor, hy, Ne, left_eq_add, div_eq_zero_iff, or_iff_left hpk.ne', add_eq_zero_iff_of_nonneg (Nat.cast_nonneg _) h0,
        Nat.cast_eq_zero, Bool.or_eq_true, bne_iff_ne, hs, not_and_or]
      exact or_congr Iff.rfl ⟨fun h => h.ne', fun h => lt_of_le_of_ne h0 (Ne.symm h)⟩

end Sys2Proof.Machine
end

section
/-! SUPPORT. The magnitudes of the floating-point format in the order of their encodings (04 Table 4.7), and the encoding that a
magnitude rounds to (04 R123). -/
namespace Sys2Proof.Machine

/-- The encoding of `h` units of `2^(Q - 1058)`, for a subnormal and for a normal significand, and for one that has just carried. -/
theorem floatMag_eq {Q h : Nat} (hh : h ≤ 2 ^ 37) (hQ : Q = 0 ∨ 2 ^ 36 ≤ h) :
    (floatMag (Q * 2 ^ 36 + h) : ℝ) = h * 2 ^ ((Q : Int) - 1058) := by
  rcases Nat.lt_or_ge h (2 ^ 36) with hlt | hge
  · obtain rfl : Q = 0 := by omega
    have hz : (0 * 2 ^ 36 + h) / 2 ^ 36 = 0 := by omega
    rw [floatMag, if_pos hz, hz]
    push_cast
    simp
  · rcases Nat.lt_or_ge h (2 ^ 37) with hlt | hge'
    · have hd : (Q * 2 ^ 36 + h) / 2 ^ 36 = Q + 1 := by omega
      have hs : 2 ^ 36 + (Q * 2 ^ 36 + h) % 2 ^ 36 = h := by omega
      have he : ((max 1 (Q + 1) : Nat) : Int) - 1059 = Q - 1058 := by omega
      rw [floatMag, hd, if_neg (by omega), hs, he]
      push_cast
      rfl
    · obtain rfl : h = 2 ^ 37 := by omega
      have hd : (Q * 2 ^ 36 + 2 ^ 37) / 2 ^ 36 = Q + 2 := by omega
      have hs : 2 ^ 36 + (Q * 2 ^ 36 + 2 ^ 37) % 2 ^ 36 = 2 ^ 36 := by omega
      have he : ((max 1 (Q + 2) : Nat) : Int) - 1059 = (Q - 1058) + 1 := by omega
      rw [floatMag, hd, if_neg (by omega), hs, he, zpow_add₀ two_ne_zero]
      push_cast
      ring

/-- Every encoding has a significand of 37 bits at most, with its first bit set where it is not subnormal. -/
theorem exists_significand (n : Nat) : ∃ Q h : Nat, n = Q * 2 ^ 36 + h ∧ h < 2 ^ 37 ∧ (Q = 0 ∨ 2 ^ 36 ≤ h) := by
  rcases Nat.lt_or_ge n (2 ^ 36) with h | h
  · exact ⟨0, n, by omega, by omega, .inl rfl⟩
  · exact ⟨n / 2 ^ 36 - 1, n % 2 ^ 36 + 2 ^ 36, by omega, by omega, .inr (by omega)⟩

theorem floatMag_strictMono : StrictMono fun n => (floatMag n : ℝ) := by
  refine strictMono_nat_of_lt_succ fun n => ?_
  obtain ⟨Q, h, rfl, hh, hQ⟩ := exists_significand n
  have hp : (0 : ℝ) < 2 ^ ((Q : Int) - 1058) := by positivity
  rw [Nat.add_assoc, floatMag_eq hh.le hQ, floatMag_eq (h := h + 1) (by omega) (by omega)]
  push_cast
  linarith

theorem floatMag_zero : (floatMag 0 : ℝ) = 0 := by
  simp [floatMag]

theorem floatMag_nonneg (n : Nat) : (0 : ℝ) ≤ floatMag n := by
  rw [← floatMag_zero]
  exact floatMag_strictMono.monotone (Nat.zero_le n)

/-- The powers of two at the end of the range, in units of half the last bit of the largest finite value. -/
theorem range_end : ∃ u : ℝ, 0 < u ∧ (2 : ℝ) ^ 986 = u ∧ (2 : ℝ) ^ 987 = 2 * u ∧ (2 : ℝ) ^ 1024 = 2 ^ 38 * u :=
  ⟨2 ^ 986, by positivity, rfl, pow_succ' 2 986, pow_add 2 38 986⟩

/-- The encoding of an infinity stands for the value that follows the largest finite one. -/
theorem floatMag_inf : (floatMag (2047 * 2 ^ 36) : ℝ) = 2 ^ 1024 := by
  have he : ((2046 : Nat) : Int) - 1058 = ((988 : Nat) : Int) := by norm_num
  rw [show 2047 * 2 ^ 36 = 2046 * 2 ^ 36 + 2 ^ 36 by norm_num, floatMag_eq (by norm_num) (.inr le_rfl), he, zpow_natCast,
    show (1024 : Nat) = 36 + 988 from rfl, pow_add]
  norm_num

theorem floatMag_max : (floatMag (2047 * 2 ^ 36 - 1) : ℝ) = (2 ^ 37 - 1) * 2 ^ 987 := by
  have he : ((2045 : Nat) : Int) - 1058 = ((987 : Nat) : Int) := by norm_num
  rw [show 2047 * 2 ^ 36 - 1 = 2045 * 2 ^ 36 + (2 ^ 37 - 1) by norm_num, floatMag_eq (by norm_num) (.inr (by norm_num)), he, zpow_natCast]
  norm_num

/-! A magnitude between two encodings. -/

/-- The magnitude with a sign. -/
noncomputable def signedReal (neg : Bool) (x : ℝ) : ℝ := if neg then -x else x

theorem abs_signedReal {neg : Bool} {x : ℝ} (hx : 0 < x) : |signedReal neg x| = x := by
  cases neg
  · exact abs_of_pos hx
  · exact (abs_neg x).trans (abs_of_pos hx)

theorem signedReal_pos_iff {neg : Bool} {x : ℝ} (hx : 0 < x) : 0 < signedReal neg x ↔ neg = false := by
  cases neg <;> simp [signedReal, hx, hx.le]

theorem signedReal_neg_iff {neg : Bool} {x : ℝ} (hx : 0 < x) : signedReal neg x < 0 ↔ neg = true := by
  cases neg <;> simp [signedReal, hx, hx.le]

theorem outward_iff {rm : Nat} {neg : Bool} {x : ℝ} (hx : 0 < x) : Outward rm (signedReal neg x) ↔ Away rm neg := by
  rw [Outward, Away, signedReal_pos_iff hx, signedReal_neg_iff hx]

/-- `Q` is the place at which `x` has a significand of 37 bits, or the lowest place, and `n` is `x` rounded there. -/
structure RoundsAt (rm : Nat) (neg : Bool) (x : ℝ) (Q n : Nat) : Prop where
  pos    : 0 < x
  round  : RoundsTo rm neg (x / 2 ^ ((Q : Int) - 1058)) n
  small  : ⌊x / 2 ^ ((Q : Int) - 1058)⌋₊ < 2 ^ 37
  normal : Q = 0 ∨ 2 ^ 36 ≤ ⌊x / 2 ^ ((Q : Int) - 1058)⌋₊

/-- The encoding below `x`. -/
noncomputable def below (x : ℝ) (Q : Nat) : Nat := Q * 2 ^ 36 + ⌊x / 2 ^ ((Q : Int) - 1058)⌋₊

section
variable {rm : Nat} {neg : Bool} {x : ℝ} {Q n : Nat}

theorem RoundsAt.below_le (h : RoundsAt rm neg x Q n) : (floatMag (below x Q) : ℝ) ≤ x := by
  have hp : (0 : ℝ) < 2 ^ ((Q : Int) - 1058) := by positivity
  rw [below, floatMag_eq h.small.le h.normal, ← le_div_iff₀ hp]
  exact Nat.floor_le (div_pos h.pos hp).le

theorem RoundsAt.floatMag_succ (h : RoundsAt rm neg x Q n) :
    (floatMag (below x Q + 1) : ℝ) = (⌊x / 2 ^ ((Q : Int) - 1058)⌋₊ + 1) * 2 ^ ((Q : Int) - 1058) := by
  have := h.normal
  rw [below, Nat.add_assoc, floatMag_eq h.small (by omega)]
  push_cast
  rfl

theorem RoundsAt.lt_above (h : RoundsAt rm neg x Q n) : x < floatMag (below x Q + 1) := by
  have hp : (0 : ℝ) < 2 ^ ((Q : Int) - 1058) := by positivity
  rw [h.floatMag_succ, ← div_lt_iff₀ hp]
  exact Nat.lt_floor_add_one _

/-- Only one encoding lies next below `x`. -/
theorem RoundsAt.eq_below (h : RoundsAt rm neg x Q n) {k : Nat} (h1 : (floatMag k : ℝ) ≤ x) (h2 : x < floatMag (k + 1)) : k = below x Q := by
  have ha : k < below x Q + 1 := floatMag_strictMono.lt_iff_lt.1 (h1.trans_lt h.lt_above)
  have hb : below x Q < k + 1 := floatMag_strictMono.lt_iff_lt.1 (h.below_le.trans_lt h2)
  omega

/-- Rounding up is judged against the middle of the two encodings. -/
theorem RoundsAt.roundsUp_iff (h : RoundsAt rm neg x Q n) :
    RoundsUp rm neg ⌊x / 2 ^ ((Q : Int) - 1058)⌋₊ (x / 2 ^ ((Q : Int) - 1058)) ↔
      (let middle : ℝ := (floatMag (below x Q) : ℝ) + (floatMag (below x Q + 1) : ℝ)
      (rm = 0 ∧ (middle < 2 * x ∨ (middle = 2 * x ∧ below x Q % 2 = 1))) ∨ (rm = 1 ∧ middle ≤ 2 * x) ∨
        (Away rm neg ∧ (floatMag (below x Q) : ℝ) < x)) := by
  have hp : (0 : ℝ) < 2 ^ ((Q : Int) - 1058) := by positivity
  have hpar : below x Q % 2 = ⌊x / 2 ^ ((Q : Int) - 1058)⌋₊ % 2 := by unfold below; omega
  rw [h.floatMag_succ, hpar, below, floatMag_eq h.small.le h.normal]
  generalize hf : ⌊x / 2 ^ ((Q : Int) - 1058)⌋₊ = f
  generalize (2 : ℝ) ^ ((Q : Int) - 1058) = u at hp
  have hlt : (f : ℝ) * u + (f + 1) * u < 2 * x ↔ 2 * (f : ℝ) + 1 < 2 * (x / u) := by
    rw [← mul_div_assoc, lt_div_iff₀ hp]
    ring_nf
  have heq : (f : ℝ) * u + (f + 1) * u = 2 * x ↔ 2 * (f : ℝ) + 1 = 2 * (x / u) := by
    rw [← mul_div_assoc, eq_div_iff hp.ne']
    ring_nf
  simp only [RoundsUp, le_iff_lt_or_eq, hlt, heq, lt_div_iff₀ hp]

theorem RoundsAt.eq_of_up (h : RoundsAt rm neg x Q n) (hu : RoundsUp rm neg ⌊x / 2 ^ ((Q : Int) - 1058)⌋₊ (x / 2 ^ ((Q : Int) - 1058))) :
    Q * 2 ^ 36 + n = below x Q + 1 := by
  rw [h.round.up hu, below, Nat.add_assoc]

theorem RoundsAt.eq_of_down (h : RoundsAt rm neg x Q n) (hu : ¬RoundsUp rm neg ⌊x / 2 ^ ((Q : Int) - 1058)⌋₊ (x / 2 ^ ((Q : Int) - 1058))) :
    Q * 2 ^ 36 + n = below x Q := by
  rw [h.round.down hu, below]

theorem RoundsAt.bounds (h : RoundsAt rm neg x Q n) : below x Q ≤ Q * 2 ^ 36 + n ∧ Q * 2 ^ 36 + n ≤ below x Q + 1 := by
  have := h.round.bounds
  unfold below
  omega

/-- The rounded encoding is past the largest finite one where `x`, rounded to the precision of the format, overflows. -/
theorem RoundsAt.overflows_iff (h : RoundsAt rm neg x Q n) : Overflows rm (signedReal neg x) ↔ 2047 * 2 ^ 36 ≤ Q * 2 ^ 36 + n := by
  obtain ⟨u, hu, h986, h987, h1024⟩ := range_end
  have hinf := floatMag_inf
  have hmax := floatMag_max
  rw [Overflows, abs_signedReal h.pos, outward_iff h.pos]
  rw [h1024] at hinf
  rw [h987] at hmax
  rw [h986, h987, h1024]
  clear h986 h987 h1024
  obtain ⟨hlo, hhi⟩ := h.bounds
  rcases lt_trichotomy (below x Q) (2047 * 2 ^ 36 - 1) with hk | hk | hk
  · have hx : x < floatMag (2047 * 2 ^ 36 - 1) := h.lt_above.trans_le (floatMag_strictMono.monotone (by omega))
    rw [hmax] at hx
    refine ⟨?_, fun ho => by omega⟩
    rintro (ho | ⟨-, ho⟩ | ⟨-, ho⟩) <;> linarith
  · have hk1 : below x Q + 1 = 2047 * 2 ^ 36 := by omega
    have hx : x < 2 ^ 38 * u := by
      rw [← hinf, ← hk1]
      exact h.lt_above
    have hup := h.roundsUp_iff
    rw [hk1, hk, hinf, hmax] at hup
    have hodd : (2047 * 2 ^ 36 - 1) % 2 = 1 := by norm_num
    have hiff : 2047 * 2 ^ 36 ≤ Q * 2 ^ 36 + n ↔ RoundsUp rm neg ⌊x / 2 ^ ((Q : Int) - 1058)⌋₊ (x / 2 ^ ((Q : Int) - 1058)) := by
      refine ⟨fun ho => ?_, fun hr => by rw [h.eq_of_up hr, hk]; norm_num⟩
      by_contra hr
      rw [h.eq_of_down hr, hk] at ho
      omega
    rw [hiff, hup]
    constructor
    · rintro (ho | ⟨hm, ho⟩ | ⟨ha, ho⟩)
      · linarith
      · rcases Nat.le_one_iff_eq_zero_or_eq_one.1 hm with rfl | rfl
        · refine .inl ⟨rfl, ?_⟩
          rcases ho.lt_or_eq with ho | ho
          · exact .inl (by linarith)
          · exact .inr ⟨by linarith, hodd⟩
        · exact .inr (.inl ⟨rfl, by linarith⟩)
      · exact .inr (.inr ⟨ha, by linarith⟩)
    · rintro (⟨rfl, ho | ⟨ho, -⟩⟩ | ⟨rfl, ho⟩ | ⟨ha, ho⟩)
      · exact .inr (.inl ⟨by norm_num, by linarith⟩)
      · exact .inr (.inl ⟨by norm_num, by linarith⟩)
      · exact .inr (.inl ⟨le_rfl, by linarith⟩)
      · exact .inr (.inr ⟨ha, by linarith⟩)
  · have hx : 2 ^ 38 * u ≤ x := by
      rw [← hinf]
      exact (floatMag_strictMono.monotone (by omega)).trans h.below_le
    exact ⟨fun _ => by omega, fun _ => .inl hx⟩

end

end Sys2Proof.Machine
end

section
/-! SUPPORT. The magnitude that a result is rounded to, and when it is tiny (04 R123). -/
namespace Sys2Proof.Machine

/-- The magnitude of the result of an overflow. -/
def overflowMag (rm : Nat) (neg : Bool) : Nat :=
  if rm ≤ 1 ∨ (rm = 2 ∧ neg = false) ∨ (rm = 3 ∧ neg = true) then 2047 * 2 ^ 36 else 2047 * 2 ^ 36 - 1

/-- The magnitude of a result: `n`, or where that is past the largest finite one, what the mode makes of an overflow. -/
def resultMag (rm : Nat) (neg : Bool) (n : Nat) : Nat := if 2047 * 2 ^ 36 ≤ n then overflowMag rm neg else n

theorem overflowMag_away {rm : Nat} {neg : Bool} (h : rm ≤ 1 ∨ Away rm neg) : overflowMag rm neg = 2047 * 2 ^ 36 := if_pos h
theorem overflowMag_toward {rm : Nat} {neg : Bool} (h : ¬(rm ≤ 1 ∨ Away rm neg)) : overflowMag rm neg = 2047 * 2 ^ 36 - 1 := if_neg h

theorem RoundsUp.mode {rm : Nat} {neg : Bool} {h : Nat} {y : ℝ} (hu : RoundsUp rm neg h y) : rm ≤ 1 ∨ Away rm neg := by
  rcases hu with ⟨rfl, -⟩ | ⟨rfl, -⟩ | ⟨ha, -⟩
  · exact .inl (Nat.zero_le _)
  · exact .inl le_rfl
  · exact .inr ha

/-- The result has the magnitude that the mode takes of the two neighbours of `x`. -/
theorem RoundsAt.roundedMag {rm : Nat} {neg : Bool} {x : ℝ} {Q n : Nat} (h : RoundsAt rm neg x Q n) :
    RoundedMag rm (signedReal neg x) (resultMag rm neg (Q * 2 ^ 36 + n)) := by
  rw [RoundedMag, abs_signedReal h.pos, outward_iff h.pos]
  refine ⟨fun hbig => ?_, fun k hk h1 h2 => ?_⟩
  · rw [resultMag, if_pos (h.overflows_iff.1 (.inl ((abs_signedReal h.pos).symm ▸ hbig)))]
    exact ⟨overflowMag_away, overflowMag_toward⟩
  · obtain rfl := h.eq_below h1 h2
    intro middle up
    have hup : _ ↔ up := h.roundsUp_iff
    refine ⟨fun hu => ?_, fun hu => ?_⟩
    · rw [h.eq_of_up (hup.2 hu), resultMag]
      split
      · rw [overflowMag_away (hup.2 hu).mode]
        omega
      · rfl
    · rw [h.eq_of_down (mt hup.1 hu), resultMag, if_neg (by omega)]

/-- The powers of two at the start of the normal range, in units of half the last bit of the smallest normal value. -/
theorem range_start : ∃ v : ℝ, 0 < v ∧ 1 / (2 : ℝ) ^ 1060 = v ∧ 1 / (2 : ℝ) ^ 1059 = 2 * v ∧ 1 / (2 : ℝ) ^ 1022 = 2 ^ 38 * v ∧
    (2 : ℝ) ^ (-1059 : Int) = 2 * v ∧ (2 : ℝ) ^ (-1022 : Int) = 2 ^ 38 * v ∧ (2 : ℝ) ^ (-1023 : Int) = 2 ^ 37 * v := by
  have hz (n : Nat) : 1 / (2 : ℝ) ^ n = 2 ^ (-(n : Int)) := by rw [zpow_neg, zpow_natCast, one_div]
  have hs (a : Nat) : (2 : ℝ) ^ ((a : Int) - 1060) = 2 ^ a * 2 ^ (-1060 : Int) := by
    rw [sub_eq_add_neg, zpow_add₀ two_ne_zero, zpow_natCast]
  refine ⟨2 ^ (-1060 : Int), by positivity, hz 1060, ?_, ?_, ?_, hs 38, hs 37⟩
  · exact (hz 1059).trans ((hs 1).trans (by rw [pow_one]))
  · exact (hz 1022).trans (hs 38)
  · exact (hs 1).trans (by rw [pow_one])

/-- The largest significand rounds up from the middle of the last bit on, or always. -/
theorem roundsUp_last_iff {rm : Nat} {neg : Bool} {x v : ℝ} (hv : 0 < v) : RoundsUp rm neg (2 ^ 37 - 1) (x / (2 * v)) ↔
    (rm ≤ 1 ∧ 2 ^ 38 * v - v ≤ x) ∨ (Away rm neg ∧ 2 ^ 38 * v - 2 * v < x) := by
  have hcast : ((2 ^ 37 - 1 : Nat) : ℝ) = 2 ^ 37 - 1 := by norm_num
  have hy : 2 * (x / (2 * v)) = x / v := by field_simp
  have hodd : (2 ^ 37 - 1) % 2 = 1 := by norm_num
  have hmid : 2 * ((2 : ℝ) ^ 37 - 1) + 1 ≤ x / v ↔ 2 ^ 38 * v - v ≤ x := by
    rw [le_div_iff₀ hv]
    ring_nf
  have hlow : (2 : ℝ) ^ 37 - 1 < x / (2 * v) ↔ 2 ^ 38 * v - 2 * v < x := by
    rw [lt_div_iff₀ (by linarith)]
    ring_nf
  rw [RoundsUp, hcast, hy, hlow, ← hmid, le_iff_lt_or_eq, ← or_assoc, Nat.le_one_iff_eq_zero_or_eq_one, or_and_right]
  simp only [hodd, and_true]

/-- `x`, rounded to 37 bits with no limit on the exponent, lies below the normal range where it is tiny. -/
theorem tiny_iff {rm : Nat} {neg : Bool} {x : ℝ} {top : Int} {n : Nat} (hx : 0 < x) (h1 : (2 : ℝ) ^ top ≤ x)
    (h2 : x < (2 : ℝ) ^ (top + 1)) (hr : RoundsTo rm neg (x / 2 ^ (top - 36)) n) :
    (if n = 2 ^ 37 then top + 1 else top) < -1022 ↔ Tiny rm (signedReal neg x) := by
  obtain ⟨v, hv, h1060, h1059, h1022, hz1059, hz1022, hz1023⟩ := range_start
  rw [Tiny, abs_signedReal hx, outward_iff hx, h1060, h1059, h1022]
  clear h1060 h1059 h1022
  rcases lt_trichotomy top (-1023) with ht | rfl | ht
  · have hlt : x < 2 ^ 37 * v := by
      rw [← hz1023]
      exact h2.trans_le (zpow_le_zpow_right₀ one_le_two (by omega))
    clear hz1059 hz1022 hz1023
    refine ⟨fun _ => ⟨by linarith, fun _ => by linarith, fun _ => by linarith⟩, fun _ => ?_⟩
    split <;> omega
  · have hlt : x < 2 ^ 38 * v := by
      rw [← hz1022]
      exact h2
    have hn := hr.bounds
    obtain ⟨hu, hd⟩ := hr
    rw [show (-1023 : Int) - 36 = -1059 by norm_num, hz1059] at hn hu hd
    clear hz1059 hz1022 hz1023 h1 h2
    generalize hf : ⌊x / (2 * v)⌋₊ = f at hn hu hd
    have hv2 : 0 < 2 * v := by linarith
    have hle : f * (2 * v) ≤ x := by
      rw [← le_div_iff₀ hv2, ← hf]
      exact Nat.floor_le (div_pos hx hv2).le
    have hgt : x < (f + 1) * (2 * v) := by
      rw [← div_lt_iff₀ hv2, ← hf]
      exact Nat.lt_floor_add_one _
    have hf37 : f < 2 ^ 37 := by
      have : (f : ℝ) * (2 * v) < (2 ^ 37 : Nat) * (2 * v) := by push_cast; linarith
      exact_mod_cast lt_of_mul_lt_mul_right this hv2.le
    have hlim : (if n = 2 ^ 37 then (-1023 : Int) + 1 else -1023) < -1022 ↔ n ≠ 2 ^ 37 := by split <;> simp_all
    rw [hlim]
    rcases Nat.lt_or_ge f (2 ^ 37 - 1) with hsmall | hbig
    · have : (f : ℝ) + 1 ≤ 2 ^ 37 - 1 := by
        have : ((f + 1 : Nat) : ℝ) ≤ ((2 ^ 37 - 1 : Nat) : ℝ) := by exact_mod_cast hsmall
        push_cast at this
        linarith
      have : x < (2 ^ 37 - 1) * (2 * v) := hgt.trans_le (mul_le_mul_of_nonneg_right this hv2.le)
      exact ⟨fun _ => ⟨by linarith, fun _ => by linarith, fun _ => by linarith⟩, fun _ => by omega⟩
    · obtain rfl : f = 2 ^ 37 - 1 := by omega
      have hup := roundsUp_last_iff (rm := rm) (neg := neg) (x := x) hv
      have hn : n = 2 ^ 37 ↔ RoundsUp rm neg (2 ^ 37 - 1) (x / (2 * v)) :=
        ⟨fun h => by_contra fun hr => by have := hd hr; omega, hu⟩
      rw [Ne, hn, hup]
      constructor
      · intro h
        exact ⟨hlt, fun hm => not_le.1 fun hx => h (.inl ⟨hm, hx⟩), fun ha => not_lt.1 fun hx => h (.inr ⟨ha, hx⟩)⟩
      · rintro ⟨-, hnear, haway⟩ (⟨hm, hx⟩ | ⟨ha, hx⟩)
        · exact absurd hx (not_le.2 (hnear hm))
        · exact absurd hx (not_lt.2 (haway ha))
  · have hge : 2 ^ 38 * v ≤ x := by
      rw [← hz1022]
      exact (zpow_le_zpow_right₀ one_le_two (by omega)).trans h1
    clear hz1059 hz1022 hz1023
    refine ⟨fun h => ?_, fun h => absurd h.1 (not_lt.2 hge)⟩
    split at h <;> omega

end Sys2Proof.Machine
end

section
/-! SUPPORT. The rounding of an exact magnitude into the format (04 R123): what `fRound` and `fPack` compute. -/
namespace Sys2Proof.Machine

/-! Encodings of a sign and a magnitude. -/

/-- The encoding of a sign and a magnitude. -/
def withSign (neg : Bool) (n : Nat) : DWord := flag 48 47 neg ||| BitVec.ofNat 48 n

theorem getLsbD_withSign {neg : Bool} {n i : Nat} (hn : n < 2 ^ 47) (hi : i < 48) :
    (withSign neg n).getLsbD i = if i = 47 then neg else n.testBit i := by
  have hall : ∀ b : Bool, ∀ i < 48, (flag 48 47 b).getLsbD i = (decide (i = 47) && b) := by decide
  have hflag := hall neg i hi
  rw [withSign, BitVec.getLsbD_or, hflag, BitVec.getLsbD_ofNat]
  split
  · rename_i h
    rw [h, Nat.testBit_lt_two_pow hn, Bool.and_false, Bool.or_false, decide_eq_true rfl, Bool.true_and]
  · rename_i h
    rw [decide_eq_false h, Bool.false_and, Bool.false_or, decide_eq_true hi, Bool.true_and]

theorem sign_withSign {neg : Bool} {n : Nat} (hn : n < 2 ^ 47) : (withSign neg n).getLsbD 47 = neg := by
  rw [getLsbD_withSign hn (by decide), if_pos rfl]

theorem mag_withSign {neg : Bool} {n : Nat} (hn : n < 2 ^ 47) : (bits (withSign neg n) 0 47).toNat = n := by
  have : bits (withSign neg n) 0 47 = BitVec.ofNat 47 n := by
    refine BitVec.eq_of_getLsbD_eq fun i hi => ?_
    rw [bits, BitVec.getLsbD_extractLsb', Nat.zero_add, getLsbD_withSign hn (by omega), if_neg (by omega), BitVec.getLsbD_ofNat]
  rw [this, BitVec.toNat_ofNat, Nat.mod_eq_of_lt hn]

theorem floatVal_withSign {neg : Bool} {n : Nat} (hn : n < 2 ^ 47) : (floatVal (withSign neg n) : ℝ) = signedReal neg (floatMag n) := by
  rw [floatVal, sign_withSign hn, mag_withSign hn, signedReal]
  cases neg <;> simp

/-- The encoding of an exponent field and a fraction. -/
theorem fields_withSign {neg : Bool} {E F : Nat} (hE : E < 2 ^ 11) (hF : F < 2 ^ 36) :
    flag 48 47 neg ||| (BitVec.ofNat 48 E <<< 36) ||| BitVec.ofNat 48 F = withSign neg (E * 2 ^ 36 + F) := by
  rw [withSign, BitVec.or_assoc]
  congr 1
  refine BitVec.eq_of_toNat_eq ?_
  rw [BitVec.toNat_or, BitVec.toNat_shiftLeft, BitVec.toNat_ofNat, BitVec.toNat_ofNat, BitVec.toNat_ofNat, Nat.shiftLeft_eq,
    Nat.mod_eq_of_lt (a := E) (by omega), Nat.mod_eq_of_lt (a := F) (by omega), Nat.mod_eq_of_lt (a := E * 2 ^ 36) (by omega),
    Nat.mod_eq_of_lt (a := E * 2 ^ 36 + F) (by omega), ← Nat.shiftLeft_eq, Nat.shiftLeft_add_eq_or_of_lt hF]

theorem fZero_eq (neg : Bool) : fZero neg = withSign neg 0 := by cases neg <;> rfl

theorem fOverflow_eq {rm : Nat} {neg : Bool} (hrm : rm ≤ 4) : fOverflow rm neg = withSign neg (overflowMag rm neg) := by
  have hmodes : rm = 0 ∨ rm = 1 ∨ rm = 2 ∨ rm = 3 ∨ rm = 4 := by omega
  rcases hmodes with rfl | rfl | rfl | rfl | rfl <;> cases neg <;> rfl

/-! The parts of a rounding. -/

/-- The place of the last bit that is kept of `m` in units of `2^e`, counted from the lowest. -/
def place (m : Nat) (e : Int) : Nat := (max (e + (Nat.log2 m : Int) - 36) (-1058) + 1058).toNat

/-- `m`, and a little more, rounded at its place. -/
def roundedAt (rm : Nat) (neg : Bool) (m : Nat) (e : Int) (sticky : Bool) : Nat × Bool :=
  roundTo rm neg m e ((place m e : Int) - 1058) sticky

/-- The magnitude, rounded to the precision of the format with no limit on the exponent, lies below the normal range. -/
def tinyMag (rm : Nat) (neg : Bool) (m : Nat) (e : Int) (sticky : Bool) : Bool :=
  decide ((if (roundTo rm neg m e (e + (Nat.log2 m : Int) - 36) sticky).1 = 2 ^ 37 then e + (Nat.log2 m : Int) + 1
    else e + (Nat.log2 m : Int)) < -1022)

/-- The rounding in terms of the encoding that it gives. -/
theorem fRound_eq {rm : Nat} {neg : Bool} {m : Nat} {e : Int} {sticky : Bool} (h37 : (roundedAt rm neg m e sticky).1 ≤ 2 ^ 37)
    (h36 : place m e = 0 ∨ 2 ^ 36 ≤ (roundedAt rm neg m e sticky).1) :
    fRound rm neg m e sticky =
      let n := place m e * 2 ^ 36 + (roundedAt rm neg m e sticky).1
      let inx := (roundedAt rm neg m e sticky).2
      if 2047 * 2 ^ 36 ≤ n then (fOverflow rm neg, { FFlags.none with ovf := true, inx := true })
      else (withSign neg n, { FFlags.none with unf := tinyMag rm neg m e sticky && inx, inx }) := by
  have hq : max (e + (Nat.log2 m : Int) - 36) (-1058) = (place m e : Int) - 1058 := by unfold place; omega
  unfold fRound
  extract_lets top free tiny q r carry m1 q1 none fl n inx
  have hr : r = roundedAt rm neg m e sticky := congrArg (roundTo rm neg m e · sticky) hq
  have hn : n = place m e * 2 ^ 36 + r.1 := by rw [hr]
  have hinx : inx = r.2 := by rw [hr]
  have hq1 : q1 = if r.1 = 2 ^ 37 then (place m e : Int) - 1058 + 1 else (place m e : Int) - 1058 := by rw [← hq]
  have hm1 : m1 = if r.1 = 2 ^ 37 then 2 ^ 36 else r.1 := rfl
  have hfl : fl = { FFlags.none with unf := tinyMag rm neg m e sticky && r.2, inx := r.2 } := rfl
  rw [← hr] at h37 h36
  rw [hfl, hinx]
  clear_value r n m1 q1
  by_cases hover : 2047 * 2 ^ 36 ≤ n
  · rw [if_pos hover, if_pos]
    split at hq1 <;> omega
  · have hq1' : ¬987 < q1 := by split at hq1 <;> omega
    rw [if_neg hover, if_neg hq1']
    by_cases hsub : m1 < 2 ^ 36
    · have hnm : n = m1 := by split at hm1 <;> omega
      rw [if_pos hsub, hnm, withSign]
    · obtain ⟨E, hE⟩ : ∃ E : Nat, q1 + 1059 = E := ⟨(q1 + 1059).toNat, by split at hq1 <;> omega⟩
      have hlt : E < 2 ^ 11 := by omega
      have hF : m1 - 2 ^ 36 < 2 ^ 36 := by split at hm1 <;> omega
      have hnm : n = E * 2 ^ 36 + (m1 - 2 ^ 36) := by
        by_cases hc : r.1 = 2 ^ 37
        · rw [if_pos hc] at hq1 hm1
          obtain rfl : E = place m e + 2 := by omega
          rw [hn, hc, hm1, Nat.sub_self]
          ring
        · rw [if_neg hc] at hq1 hm1
          obtain rfl : E = place m e + 1 := by omega
          obtain ⟨d, hd⟩ := Nat.exists_eq_add_of_le (Nat.le_of_not_lt hsub)
          rw [hn, ← hm1, hd, Nat.add_sub_cancel_left]
          ring
      rw [if_neg hsub, hE, Int.toNat_natCast, fields_withSign hlt hF, hnm]

theorem signedReal_inj {neg : Bool} {x y : ℝ} : signedReal neg x = signedReal neg y ↔ x = y := by
  cases neg <;> simp [signedReal]

/-- The rounded encoding is exact where nothing stands below the last bit. -/
theorem RoundsAt.exact_iff {rm : Nat} {neg : Bool} {x : ℝ} {Q n : Nat} (h : RoundsAt rm neg x Q n) :
    (floatMag (Q * 2 ^ 36 + n) : ℝ) = x ↔ (⌊x / 2 ^ ((Q : Int) - 1058)⌋₊ : ℝ) = x / 2 ^ ((Q : Int) - 1058) := by
  have hp : (0 : ℝ) < 2 ^ ((Q : Int) - 1058) := by positivity
  have hb : (floatMag (below x Q) : ℝ) = x ↔ (⌊x / 2 ^ ((Q : Int) - 1058)⌋₊ : ℝ) = x / 2 ^ ((Q : Int) - 1058) := by
    rw [below, floatMag_eq h.small.le h.normal, eq_div_iff hp.ne']
  by_cases hu : RoundsUp rm neg ⌊x / 2 ^ ((Q : Int) - 1058)⌋₊ (x / 2 ^ ((Q : Int) - 1058))
  · rw [h.eq_of_up hu]
    refine ⟨fun he => absurd he h.lt_above.ne', fun he => absurd hu ?_⟩
    have := not_roundsUp_natCast rm neg ⌊x / 2 ^ ((Q : Int) - 1058)⌋₊
    rwa [he] at this
  · rw [h.eq_of_down hu, hb]

section
variable {rm : Nat} {neg : Bool} {m : Nat} {e : Int} {sticky : Bool} {x : ℝ}

/-- `x` has the leading bit of `m`. -/
theorem Approx.leading_bit (hx : Approx m e sticky x) (hm : m ≠ 0) :
    (2 : ℝ) ^ (e + (Nat.log2 m : Int)) ≤ x ∧ x < (2 : ℝ) ^ (e + (Nat.log2 m : Int) + 1) := by
  have hp : (0 : ℝ) < 2 ^ e := by positivity
  have h1 : ((2 ^ Nat.log2 m : Nat) : ℝ) ≤ m := by exact_mod_cast Nat.log2_self_le hm
  have h2 : (m : ℝ) + 1 ≤ (2 ^ (Nat.log2 m + 1) : Nat) := by exact_mod_cast Nat.lt_log2_self
  push_cast at h1 h2
  constructor
  · rw [add_comm, zpow_add₀ two_ne_zero, zpow_natCast]
    exact (mul_le_mul_of_nonneg_right h1 hp.le).trans hx.le
  · have he : (2 : ℝ) ^ (e + (Nat.log2 m : Int) + 1) = 2 ^ (Nat.log2 m + 1) * 2 ^ e := by
      rw [add_assoc, add_comm, zpow_add₀ two_ne_zero, ← Nat.cast_succ, zpow_natCast]
    rw [he]
    exact hx.lt.trans_le (mul_le_mul_of_nonneg_right h2 hp.le)

/-- What `roundedAt` computes. -/
theorem Approx.roundsAt (hrm : rm ≤ 4) (hx : Approx m e sticky x) (hm : m ≠ 0) (hw : sticky = true → 2 ^ 37 ≤ m) :
    RoundsAt rm neg x (place m e) (roundedAt rm neg m e sticky).1 ∧
      ((roundedAt rm neg m e sticky).2 = true ↔
        (⌊x / 2 ^ ((place m e : Int) - 1058)⌋₊ : ℝ) ≠ x / 2 ^ ((place m e : Int) - 1058)) := by
  obtain ⟨hlo, hhi⟩ := hx.leading_bit hm
  have hplace : (place m e : Int) - 1058 = max (e + (Nat.log2 m : Int) - 36) (-1058) := by unfold place; omega
  have hq : (place m e : Int) - 1058 ≤ e → sticky = false := by
    intro hle
    by_contra hs
    have : 37 ≤ Nat.log2 m := (Nat.le_log2 hm).2 (hw (Bool.eq_true_of_not_eq_false hs))
    omega
  obtain ⟨hr, hinx⟩ := roundTo_spec (neg := neg) hrm hx hq
  have hp : (0 : ℝ) < 2 ^ ((place m e : Int) - 1058) := by positivity
  have hpos : 0 < x := lt_of_lt_of_le (by positivity) hlo
  refine ⟨⟨hpos, hr, ?_, ?_⟩, hinx⟩
  · rw [Nat.floor_lt (div_pos hpos hp).le, div_lt_iff₀ hp]
    refine hhi.trans_le ?_
    rw [Nat.cast_pow, Nat.cast_ofNat, ← zpow_natCast, ← zpow_add₀ two_ne_zero]
    exact zpow_le_zpow_right₀ one_le_two (by push_cast; omega)
  · rcases Nat.eq_zero_or_pos (place m e) with h0 | h0
    · exact .inl h0
    · refine .inr (Nat.le_floor ?_)
      rw [le_div_iff₀ hp]
      refine le_trans ?_ hlo
      rw [Nat.cast_pow, Nat.cast_ofNat, ← zpow_natCast, ← zpow_add₀ two_ne_zero]
      exact zpow_le_zpow_right₀ one_le_two (by push_cast; omega)

/-- The model's test for a tiny result. -/
theorem Approx.tinyMag_iff (hrm : rm ≤ 4) (hx : Approx m e sticky x) (hm : m ≠ 0) (hw : sticky = true → 2 ^ 37 ≤ m) :
    tinyMag rm neg m e sticky = true ↔ Tiny rm (signedReal neg x) := by
  obtain ⟨hlo, hhi⟩ := hx.leading_bit hm
  have hq : e + (Nat.log2 m : Int) - 36 ≤ e → sticky = false := by
    intro hle
    by_contra hs
    have : 37 ≤ Nat.log2 m := (Nat.le_log2 hm).2 (hw (Bool.eq_true_of_not_eq_false hs))
    omega
  obtain ⟨hr, -⟩ := roundTo_spec (neg := neg) hrm hx hq
  rw [tinyMag, decide_eq_true_iff]
  exact tiny_iff (lt_of_lt_of_le (by positivity) hlo) hlo hhi hr

/-- A tiny result keeps the lowest place. -/
theorem place_of_tinyMag (h : tinyMag rm neg m e sticky = true) : place m e = 0 := by
  rw [tinyMag, decide_eq_true_iff] at h
  unfold place
  split at h <;> omega

/-- The result of `fRound` has the sign and the rounded magnitude, and the flags of that rounding. -/
theorem Approx.fRound_fields (hrm : rm ≤ 4) (hx : Approx m e sticky x) (hm : m ≠ 0) (hw : sticky = true → 2 ^ 37 ≤ m) :
    let n := place m e * 2 ^ 36 + (roundedAt rm neg m e sticky).1
    let inx := (roundedAt rm neg m e sticky).2
    (fRound rm neg m e sticky).1 = withSign neg (resultMag rm neg n) ∧
    (fRound rm neg m e sticky).2 =
      if 2047 * 2 ^ 36 ≤ n then { FFlags.none with ovf := true, inx := true }
      else { FFlags.none with unf := tinyMag rm neg m e sticky && inx, inx } := by
  intro n inx
  obtain ⟨hr, -⟩ := hx.roundsAt (neg := neg) hrm hm hw
  have hb := hr.round.bounds
  have hsmall := hr.small
  have hnormal := hr.normal
  rw [fRound_eq (by omega) (by omega)]
  by_cases hover : 2047 * 2 ^ 36 ≤ n
  · simp only [n, resultMag, if_pos hover, fOverflow_eq hrm]
    trivial
  · simp only [n, resultMag, if_neg hover]
    trivial

theorem resultMag_lt (n : Nat) : resultMag rm neg n < 2 ^ 47 := by
  unfold resultMag overflowMag
  split
  · split <;> omega
  · omega

/-- The result of `fRound` is `x`, with its sign, rounded once (R123). -/
theorem Approx.fRound_floatOf (hrm : rm ≤ 4) (hx : Approx m e sticky x) (hm : m ≠ 0) (hw : sticky = true → 2 ^ 37 ≤ m) (zneg : Bool) :
    FloatOf rm (signedReal neg x) zneg (fRound rm neg m e sticky) := by
  obtain ⟨hr, hinx⟩ := hx.roundsAt (neg := neg) hrm hm hw
  obtain ⟨hval, hflags⟩ := hx.fRound_fields (neg := neg) hrm hm hw
  have htiny := hx.tinyMag_iff (neg := neg) hrm hm hw
  have hover := hr.overflows_iff
  have hlt := resultMag_lt (rm := rm) (neg := neg) (place m e * 2 ^ 36 + (roundedAt rm neg m e sticky).1)
  have hne : signedReal neg x ≠ 0 := abs_pos.1 ((abs_signedReal hr.pos).symm ▸ hr.pos)
  refine ⟨?_, fun hq => ?_, fun hq => ?_, fun hq => absurd hq hne, ?_⟩
  · rw [hval, mag_withSign hlt]
    exact hr.roundedMag
  · rw [hval, sign_withSign hlt]
    exact (signedReal_neg_iff hr.pos).1 hq
  · rw [hval, sign_withSign hlt]
    exact (signedReal_pos_iff hr.pos).1 hq
  · rw [hval, floatVal_withSign hlt, Ne, signedReal_inj, hflags, hover]
    by_cases ho : 2047 * 2 ^ 36 ≤ place m e * 2 ^ 36 + (roundedAt rm neg m e sticky).1
    · have hnt : ¬Tiny rm (signedReal neg x) := by
        intro ht
        have h0 := place_of_tinyMag (htiny.2 ht)
        have := hr.round.bounds
        have := hr.small
        omega
      rw [if_pos ho]
      exact ⟨rfl, rfl, ⟨fun _ => ho, fun _ => rfl⟩, ⟨fun _ => .inr ho, fun _ => rfl⟩, ⟨nofun, fun h => absurd h.1 hnt⟩⟩
    · rw [if_neg ho, resultMag, if_neg ho, hr.exact_iff, or_iff_left ho]
      refine ⟨rfl, rfl, ⟨nofun, fun h => absurd h ho⟩, hinx, ?_⟩
      rw [← htiny]
      exact Bool.and_eq_true_iff

end

end Sys2Proof.Machine
end

section
/-! SUPPORT. Encodings by class (04 Table 4.7), and the sum, product, quotient and square root of finite values (04 R123). -/
namespace Sys2Proof.Machine

/-! Encodings. -/

theorem fExp_eq (x : DWord) : fExp x = (bits x 0 47).toNat / 2 ^ 36 := by
  simp only [fExp, bits, BitVec.extractLsb'_toNat, Nat.shiftRight_eq_div_pow]
  omega

theorem fFrac_eq (x : DWord) : fFrac x = (bits x 0 47).toNat % 2 ^ 36 := by
  simp only [fFrac, bits, BitVec.extractLsb'_toNat, Nat.shiftRight_eq_div_pow]
  omega

theorem fExp_lt (x : DWord) : fExp x < 2 ^ 11 := (bits x 36 11).isLt
theorem fFrac_lt (x : DWord) : fFrac x < 2 ^ 36 := (bits x 0 36).isLt

/-- The significand of an encoding. -/
def fSig (x : DWord) : Nat := if fExp x = 0 then fFrac x else 2 ^ 36 + fFrac x
/-- The exponent of the last bit of the significand. -/
def fUnit (x : DWord) : Int := ((max 1 (fExp x) : Nat) : Int) - 1059

theorem fSig_lt (x : DWord) : fSig x < 2 ^ 37 := by
  have := fFrac_lt x
  unfold fSig
  split <;> omega

theorem fSig_eq_zero_iff (x : DWord) : fSig x = 0 ↔ bits x 0 47 = 0 := by
  have h1 := fExp_eq x
  have h2 := fFrac_eq x
  have h0 : bits x 0 47 = 0 ↔ (bits x 0 47).toNat = 0 := ⟨fun h => by rw [h]; rfl, fun h => BitVec.eq_of_toNat_eq h⟩
  rw [h0]
  unfold fSig
  split <;> omega

/-- The value of an encoding is its significand in its unit, with its sign. -/
theorem floatVal_eq (x : DWord) : (floatVal x : ℝ) = signedReal (x.getLsbD 47) (fSig x * 2 ^ fUnit x) := by
  have hm : (floatMag (bits x 0 47).toNat : ℝ) = fSig x * 2 ^ fUnit x := by
    rw [floatMag, ← fExp_eq, ← fFrac_eq, fSig, fUnit]
    split
    · rename_i h
      have hn : (bits x 0 47).toNat = fFrac x := by
        have := fExp_eq x
        have := fFrac_eq x
        omega
      rw [hn]
      push_cast
      rfl
    · push_cast
      rfl
  rw [← hm, floatVal, signedReal]
  split <;> push_cast <;> rfl

/-- The classes of encodings that are no numbers, infinite and finite, as the fields tell them. -/
def IsNan (x : DWord) : Prop := bits x 36 11 = 0x7FF ∧ bits x 0 36 ≠ 0
def Signals (x : DWord) : Prop := IsNan x ∧ x.getLsbD 35 = false
def IsInf (x : DWord) : Prop := bits x 0 47 = 0x7FF000000000
def IsFin (x : DWord) : Prop := bits x 36 11 ≠ 0x7FF
def IsZero (x : DWord) : Prop := bits x 0 47 = 0

theorem exp_ones_iff (x : DWord) : bits x 36 11 = 0x7FF ↔ fExp x = 0x7FF :=
  ⟨fun h => by rw [fExp, h]; rfl, fun h => BitVec.eq_of_toNat_eq h⟩

theorem frac_zero_iff (x : DWord) : bits x 0 36 = 0 ↔ fFrac x = 0 :=
  ⟨fun h => by rw [fFrac, h]; rfl, fun h => BitVec.eq_of_toNat_eq h⟩

theorem isInf_iff (x : DWord) : IsInf x ↔ fExp x = 0x7FF ∧ fFrac x = 0 := by
  have h0 : IsInf x ↔ (bits x 0 47).toNat = 0x7FF000000000 := ⟨fun h => by rw [h]; rfl, fun h => BitVec.eq_of_toNat_eq h⟩
  have h1 := fExp_eq x
  have h2 := fFrac_eq x
  rw [h0]
  omega

theorem IsNan.fVal_eq {x : DWord} (h : IsNan x) : fVal x = .nan (!x.getLsbD 35) := by
  rw [fVal, if_pos ((exp_ones_iff x).1 h.1), if_neg (mt (frac_zero_iff x).2 h.2)]

theorem IsInf.fVal_eq {x : DWord} (h : IsInf x) : fVal x = .inf (x.getLsbD 47) := by
  rw [fVal, if_pos ((isInf_iff x).1 h).1, if_pos ((isInf_iff x).1 h).2]
  rfl

theorem IsFin.fVal_eq {x : DWord} (h : IsFin x) : fVal x = .fin (x.getLsbD 47) (fSig x) (fUnit x) := by
  rw [fVal, if_neg (mt (exp_ones_iff x).2 h), fSig, fUnit]
  split
  · rename_i h0
    rw [h0]
    rfl
  · rename_i h0
    rw [Nat.max_eq_right (Nat.one_le_iff_ne_zero.2 h0)]
    rfl

/-- Every encoding is a NaN, an infinity or finite. -/
theorem nan_or_inf_or_fin (x : DWord) : IsNan x ∨ IsInf x ∨ IsFin x := by
  rw [isInf_iff, IsNan, IsFin, exp_ones_iff, Ne, frac_zero_iff, Ne, exp_ones_iff]
  tauto

theorem IsInf.not_nan {x : DWord} (h : IsInf x) : ¬IsNan x := fun hn => hn.2 ((frac_zero_iff x).2 ((isInf_iff x).1 h).2)
theorem IsFin.not_nan {x : DWord} (h : IsFin x) : ¬IsNan x := fun hn => h hn.1
theorem IsZero.fin {x : DWord} (h : IsZero x) : IsFin x := by
  intro he
  have h1 := fExp_eq x
  rw [(exp_ones_iff x).1 he, h] at h1
  exact absurd h1 (by decide)

/-- An encoding is its sign and its magnitude. -/
theorem eq_sign_append (x : DWord) : x = (BitVec.ofBool (x.getLsbD 47) ++ bits x 0 47 : BitVec (1 + 47)) := by
  refine BitVec.eq_of_getLsbD_eq fun i hi => ?_
  rw [BitVec.getLsbD_append]
  split
  · rename_i h
    rw [bits, BitVec.getLsbD_extractLsb', Nat.zero_add, decide_eq_true h, Bool.true_and]
  · obtain rfl : i = 47 := by omega
    simp

theorem fInf_append (neg : Bool) : fInf neg = (BitVec.ofBool neg ++ (0x7FF000000000 : BitVec 47) : BitVec (1 + 47)) := by cases neg <;> rfl
theorem fZero_append (neg : Bool) : fZero neg = (BitVec.ofBool neg ++ (0 : BitVec 47) : BitVec (1 + 47)) := by cases neg <;> rfl

theorem IsInf.eq_fInf {x : DWord} (h : IsInf x) : fInf (x.getLsbD 47) = x := by
  rw [fInf_append]
  conv_rhs => rw [eq_sign_append x, h]

theorem IsZero.eq_fZero {x : DWord} (h : IsZero x) : fZero (x.getLsbD 47) = x := by
  rw [fZero_append]
  conv_rhs => rw [eq_sign_append x, h]

end Sys2Proof.Machine
end

section
/-! SUPPORT. The sum, product, quotient, square root and conversion of finite values: the exact value rounded once (04 R123). -/
namespace Sys2Proof.Machine

theorem signedReal_mul (a b : Bool) (x y : ℝ) : signedReal a x * signedReal b y = signedReal (a ^^ b) (x * y) := by
  cases a <;> cases b <;> simp [signedReal]

theorem signedReal_div (a b : Bool) (x y : ℝ) : signedReal a x / signedReal b y = signedReal (a ^^ b) (x / y) := by
  cases a <;> cases b <;> simp [signedReal, neg_div, div_neg]

theorem signedReal_eq_zero {a : Bool} {x : ℝ} : signedReal a x = 0 ↔ x = 0 := by
  cases a <;> simp [signedReal]

theorem signed_cast (neg : Bool) (m : Nat) : (signed neg m : ℝ) = signedReal neg m := by
  cases neg <;> simp [signed, signedReal]

theorem not_overflows_zero (rm : Nat) : ¬Overflows rm 0 := by
  obtain ⟨u, hu, h986, h987, h1024⟩ := range_end
  rw [Overflows, abs_zero, h986, h987, h1024]
  clear h986 h987 h1024
  rintro (h | ⟨-, h⟩ | ⟨-, h⟩) <;> linarith

theorem roundedMag_zero (rm : Nat) : RoundedMag rm 0 0 := by
  have hpos : (0 : ℝ) < floatMag (0 + 1) := by
    rw [← floatMag_zero]
    exact floatMag_strictMono (Nat.lt_succ_self 0)
  rw [RoundedMag, abs_zero]
  refine ⟨fun h => absurd h (not_le.2 (by positivity)), fun k _ h1 _ => ?_⟩
  obtain rfl : k = 0 := by
    by_contra hk
    have : (floatMag 0 : ℝ) < floatMag k := floatMag_strictMono (Nat.pos_of_ne_zero hk)
    rw [floatMag_zero] at this
    linarith
  refine ⟨?_, fun _ => rfl⟩
  rw [floatMag_zero]
  rintro (⟨-, h | ⟨h, -⟩⟩ | ⟨-, h⟩ | ⟨-, h⟩) <;> linarith

/-- A zero is zero exactly. -/
theorem floatOf_fZero (rm : Nat) (z : Bool) : FloatOf rm 0 z (fZero z, FFlags.none) := by
  have hlt : 0 < 2 ^ 47 := by norm_num
  rw [fZero_eq]
  refine ⟨?_, fun h => absurd h (lt_irrefl 0), fun h => absurd h (lt_irrefl 0), fun _ => sign_withSign hlt, rfl, rfl, ?_, ?_, ?_⟩
  · rw [mag_withSign hlt]
    exact roundedMag_zero rm
  · exact ⟨nofun, fun h => absurd h (not_overflows_zero rm)⟩
  · refine ⟨nofun, fun h => h.elim (fun h => absurd ?_ h) fun h => absurd h (not_overflows_zero rm)⟩
    rw [floatVal_withSign hlt, floatMag_zero, signedReal_eq_zero]
  · exact ⟨nofun, fun h => nomatch h.2⟩

/-- The sign of an exact zero matters only where the value is zero. -/
theorem FloatOf.congr_sign {rm : Nat} {q : ℝ} {z z' : Bool} {p : DWord × FFlags} (h : FloatOf rm q z p) (hz : q = 0 → z = z') :
    FloatOf rm q z' p := by
  obtain ⟨hm, hn, hp, h0, hf⟩ := h
  exact ⟨hm, hn, hp, fun hq => (h0 hq).trans (hz hq), hf⟩

/-- A signed integer in units of `2^e` is rounded once. -/
theorem fPack_floatOf {rm : Nat} (hrm : rm ≤ 4) (i : Int) (e : Int) (z : Bool) : FloatOf rm (i * 2 ^ e) z (fPack rm i e z) := by
  by_cases hi : i = 0
  · rw [fPack, if_pos hi, hi, Int.cast_zero, zero_mul]
    exact floatOf_fZero rm z
  · have hs : (i : ℝ) * 2 ^ e = signedReal (decide (i < 0)) (i.natAbs * 2 ^ e) := by
      rw [signedReal, Nat.cast_natAbs]
      by_cases hneg : i < 0
      · rw [if_pos (decide_eq_true hneg), abs_of_neg hneg, Int.cast_neg, neg_mul, neg_neg]
      · rw [if_neg (by simpa using hneg), abs_of_nonneg (not_lt.1 hneg)]
    rw [fPack, if_neg hi, hs]
    exact (Approx.of_exact _ e).fRound_floatOf hrm (Int.natAbs_ne_zero.2 hi) nofun z

/-- A magnitude in the unit `e1` counted in a smaller unit. -/
theorem mul_two_pow_sub {m : Nat} {e1 e : Int} (h : e ≤ e1) : ((m * 2 ^ (e1 - e).toNat : Nat) : ℝ) * 2 ^ e = m * 2 ^ e1 := by
  push_cast
  rw [← zpow_natCast, Int.toNat_of_nonneg (by omega), mul_assoc, ← zpow_add₀ two_ne_zero, sub_add_cancel]

/-- A signed significand counted in a smaller unit. -/
theorem signed_scale (n : Bool) (m : Nat) {e' e : Int} (h : e ≤ e') :
    (signed n (m * 2 ^ (e' - e).toNat) : ℝ) * 2 ^ e = signedReal n (m * 2 ^ e') := by
  rw [signed_cast, ← mul_two_pow_sub h]
  cases n <;> simp [signedReal]

/-- The sum of two finite values (R123). -/
theorem finAdd_floatOf {rm : Nat} (hrm : rm ≤ 4) (n1 n2 : Bool) (m1 m2 : Nat) (e1 e2 : Int) :
    FloatOf rm (signedReal n1 (m1 * 2 ^ e1) + signedReal n2 (m2 * 2 ^ e2)) (if n1 = n2 then n1 else decide (rm = 3))
      (finAdd rm n1 m1 e1 n2 m2 e2) := by
  have hsum := fPack_floatOf hrm (signed n1 (m1 * 2 ^ (e1 - min e1 e2).toNat) + signed n2 (m2 * 2 ^ (e2 - min e1 e2).toNat)) (min e1 e2)
    (if m1 = 0 ∧ m2 = 0 ∧ n1 = n2 then n1 else decide (rm = 3))
  rw [Int.cast_add, add_mul, signed_scale _ _ (min_le_left _ _), signed_scale _ _ (min_le_right _ _)] at hsum
  refine hsum.congr_sign fun hq => ?_
  by_cases hn : n1 = n2
  · subst hn
    have hp1 : (0 : ℝ) < 2 ^ e1 := by positivity
    have hp2 : (0 : ℝ) < 2 ^ e2 := by positivity
    have hz : (m1 : ℝ) * 2 ^ e1 + m2 * 2 ^ e2 = 0 := by
      cases n1
      · exact hq
      · simp only [signedReal, if_true] at hq
        linarith
    have h1 : 0 ≤ (m1 : ℝ) * 2 ^ e1 := by positivity
    have h2 : 0 ≤ (m2 : ℝ) * 2 ^ e2 := by positivity
    have hm1 : m1 = 0 := by
      have : (m1 : ℝ) * 2 ^ e1 = 0 := by linarith
      exact_mod_cast (mul_eq_zero.1 this).resolve_right hp1.ne'
    have hm2 : m2 = 0 := by
      have : (m2 : ℝ) * 2 ^ e2 = 0 := by linarith
      exact_mod_cast (mul_eq_zero.1 this).resolve_right hp2.ne'
    rw [if_pos ⟨hm1, hm2, rfl⟩, if_pos rfl]
  · rw [if_neg fun h => hn h.2.2, if_neg hn]

section
variable {rm : Nat} {a b : DWord} (hrm : rm ≤ 4) (ha : IsFin a) (hb : IsFin b)
include hrm ha hb

theorem fAdd_floatOf : FloatOf rm ((floatVal a : ℝ) + (floatVal b : ℝ))
    (if a.getLsbD 47 = b.getLsbD 47 then a.getLsbD 47 else decide (rm = 3)) (fAdd rm a b) := by
  rw [fAdd, ha.fVal_eq, hb.fVal_eq, floatVal_eq a, floatVal_eq b]
  exact finAdd_floatOf hrm _ _ _ _ _ _

theorem fMul_floatOf : FloatOf rm ((floatVal a : ℝ) * (floatVal b : ℝ)) (a.getLsbD 47 ^^ b.getLsbD 47) (fMul rm a b) := by
  have hprod : (fSig a : ℝ) * 2 ^ fUnit a * (fSig b * 2 ^ fUnit b) = (fSig a * fSig b : Nat) * 2 ^ (fUnit a + fUnit b) := by
    rw [zpow_add₀ two_ne_zero]
    push_cast
    ring
  rw [fMul, ha.fVal_eq, hb.fVal_eq, floatVal_eq a, floatVal_eq b, signedReal_mul, hprod]
  by_cases h0 : fSig a * fSig b = 0
  · simp only [h0, if_true, Nat.cast_zero, zero_mul, signedReal_eq_zero.2 rfl]
    exact floatOf_fZero rm _
  · simp only [h0, if_false]
    exact (Approx.of_exact _ _).fRound_floatOf hrm h0 nofun _

/-- A quotient with 80 bits more, and its remainder. -/
theorem fDiv_floatOf (h0 : fSig b ≠ 0) : FloatOf rm ((floatVal a : ℝ) / (floatVal b : ℝ)) (a.getLsbD 47 ^^ b.getLsbD 47) (fDiv rm a b) := by
  rw [fDiv, ha.fVal_eq, hb.fVal_eq, floatVal_eq a, floatVal_eq b, signedReal_div]
  simp only [h0, if_false]
  by_cases ha0 : fSig a = 0
  · simp only [ha0, if_true, Nat.cast_zero, zero_mul, zero_div, signedReal_eq_zero.2 rfl]
    exact floatOf_fZero rm _
  · simp only [ha0, if_false]
    have hbig : 2 ^ 43 ≤ fSig a * 2 ^ 80 / fSig b := by
      rw [Nat.le_div_iff_mul_le (Nat.pos_of_ne_zero h0)]
      calc 2 ^ 43 * fSig b ≤ 2 ^ 43 * 2 ^ 37 := Nat.mul_le_mul_left _ (fSig_lt b).le
        _ ≤ fSig a * 2 ^ 80 := by have := Nat.pos_of_ne_zero ha0; omega
    have hpb : (0 : ℝ) < fSig b := by exact_mod_cast Nat.pos_of_ne_zero h0
    have hpu : (0 : ℝ) < 2 ^ (fUnit a - fUnit b - 80) := by positivity
    have hquot : (fSig a : ℝ) * 2 ^ fUnit a / (fSig b * 2 ^ fUnit b) =
        ((fSig a * 2 ^ 80 / fSig b : Nat) + (fSig a * 2 ^ 80 % fSig b : Nat) / (fSig b : ℝ)) * 2 ^ (fUnit a - fUnit b - 80) := by
      have hdm : (fSig a : ℝ) * 2 ^ 80 = fSig b * (fSig a * 2 ^ 80 / fSig b : Nat) + (fSig a * 2 ^ 80 % fSig b : Nat) := by
        exact_mod_cast (Nat.div_add_mod (fSig a * 2 ^ 80) (fSig b)).symm
      have hu : (2 : ℝ) ^ fUnit a / 2 ^ fUnit b = 2 ^ 80 * 2 ^ (fUnit a - fUnit b - 80) := by
        rw [← zpow_sub₀ two_ne_zero, ← zpow_natCast, ← zpow_add₀ two_ne_zero]
        congr 1
        push_cast
        ring
      rw [mul_div_mul_comm, hu, ← mul_assoc, div_mul_eq_mul_div, hdm]
      field_simp
    have hlt : ((fSig a * 2 ^ 80 % fSig b : Nat) : ℝ) / fSig b < 1 := by
      rw [div_lt_one hpb]
      exact_mod_cast Nat.mod_lt _ (Nat.pos_of_ne_zero h0)
    have hx : Approx (fSig a * 2 ^ 80 / fSig b) (fUnit a - fUnit b - 80) (fSig a * 2 ^ 80 % fSig b != 0)
        (fSig a * 2 ^ fUnit a / (fSig b * 2 ^ fUnit b)) := by
      rw [hquot]
      refine ⟨mul_le_mul_of_nonneg_right (le_add_of_nonneg_right (by positivity)) hpu.le,
        mul_lt_mul_of_pos_right (by linarith) hpu, ?_⟩
      rw [Ne, mul_eq_mul_right_iff, or_iff_left hpu.ne', left_eq_add, div_eq_zero_iff, or_iff_left hpb.ne', Nat.cast_eq_zero, bne_iff_ne]
    exact hx.fRound_floatOf hrm (by omega) (fun _ => by omega) _

end

/-! Square roots. -/

/-- The search from bit `k` down ends at the integer square root. -/
theorem isqrt_spec {n : Nat} (k r : Nat) (h1 : r * r ≤ n) (h2 : n < (r + 2 ^ k) * (r + 2 ^ k)) :
    isqrt n k r * isqrt n k r ≤ n ∧ n < (isqrt n k r + 1) * (isqrt n k r + 1) := by
  induction k generalizing r with
  | zero => exact ⟨h1, h2⟩
  | succ k ih =>
    have hpow : 2 ^ (k + 1) = 2 ^ k + 2 ^ k := by rw [pow_succ]; omega
    rw [isqrt]
    split
    · rename_i hle
      exact ih _ hle (by rwa [Nat.add_assoc, ← hpow])
    · rename_i hgt
      exact ih _ h1 (Nat.lt_of_not_le hgt)

theorem isqrt_64 {n : Nat} (hn : n < 2 ^ 128) : isqrt n 64 0 * isqrt n 64 0 ≤ n ∧ n < (isqrt n 64 0 + 1) * (isqrt n 64 0 + 1) :=
  isqrt_spec 64 0 (Nat.zero_le _) (by rw [Nat.zero_add, ← pow_add]; exact hn)

/-- The integer square root, and a little more where it is not exact, stands for the square root. -/
theorem approx_sqrt {n : Nat} (hn : n < 2 ^ 128) (e : Int) :
    Approx (isqrt n 64 0) e (isqrt n 64 0 * isqrt n 64 0 != n) (Real.sqrt n * 2 ^ e) := by
  obtain ⟨h1, h2⟩ := isqrt_64 hn
  generalize isqrt n 64 0 = r at h1 h2
  have hp : (0 : ℝ) < 2 ^ e := by positivity
  have hle : (r : ℝ) ≤ Real.sqrt n := Real.le_sqrt_of_sq_le (by rw [sq]; exact_mod_cast h1)
  have hlt : Real.sqrt n < r + 1 := by
    rw [Real.sqrt_lt' (by positivity), sq]
    exact_mod_cast h2
  have hex : (r : ℝ) = Real.sqrt n ↔ r * r = n := by
    rw [eq_comm, Real.sqrt_eq_iff_mul_self_eq (Nat.cast_nonneg _) (Nat.cast_nonneg _), eq_comm]
    exact_mod_cast Iff.rfl
  refine ⟨mul_le_mul_of_nonneg_right hle hp.le, mul_lt_mul_of_pos_right hlt hp, ?_⟩
  rw [Ne, mul_eq_mul_right_iff, or_iff_left hp.ne', hex, bne_iff_ne]

/-- Of a unit, half the exponent is taken once it is even. -/
theorem sqrt_halves (m : Nat) (e : Int) :
    Real.sqrt (m * 2 ^ e) =
      Real.sqrt (((if e % 2 = 1 then 2 * m else m) * 2 ^ 80 : Nat)) * 2 ^ ((if e % 2 = 1 then e - 1 else e) / 2 - 40) := by
  have hsq (x : ℝ) (g : Int) (hx : 0 ≤ x) : Real.sqrt (x * 2 ^ 80) * 2 ^ (g - 40) = Real.sqrt (x * 2 ^ (2 * g)) := by
    have hu : (2 : ℝ) ^ (2 * g) = 2 ^ 80 * (2 ^ (g - 40) * 2 ^ (g - 40)) := by
      rw [← zpow_natCast, ← zpow_add₀ two_ne_zero, ← zpow_add₀ two_ne_zero]
      congr 1
      push_cast
      ring
    rw [hu, ← mul_assoc, Real.sqrt_mul (x := x * 2 ^ 80) (by positivity), Real.sqrt_mul_self (by positivity)]
  by_cases hodd : e % 2 = 1
  · rw [if_pos hodd, if_pos hodd, Nat.cast_mul, Nat.cast_pow, Nat.cast_ofNat, hsq _ _ (Nat.cast_nonneg _),
      show 2 * ((e - 1) / 2) = e - 1 by omega, zpow_sub_one₀ two_ne_zero]
    congr 1
    push_cast
    ring
  · rw [if_neg hodd, if_neg hodd, Nat.cast_mul, Nat.cast_pow, Nat.cast_ofNat, hsq _ _ (Nat.cast_nonneg _),
      show 2 * (e / 2) = e by omega]

/-- The square root of a finite value that is not negative. -/
theorem fSqrt_floatOf {rm : Nat} {a : DWord} (hrm : rm ≤ 4) (ha : IsFin a) (hs : a.getLsbD 47 = false) :
    FloatOf rm (Real.sqrt (floatVal a : ℝ)) false (fSqrt rm a) := by
  rw [fSqrt, ha.fVal_eq, floatVal_eq a, hs]
  by_cases h0 : fSig a = 0
  · simp only [h0, if_true, Nat.cast_zero, zero_mul, signedReal_eq_zero.2 rfl, Real.sqrt_zero]
    exact floatOf_fZero rm _
  · simp only [h0, if_false, Bool.false_eq_true]
    rw [show signedReal false (fSig a * 2 ^ fUnit a) = fSig a * 2 ^ fUnit a from rfl, sqrt_halves]
    have hlt := fSig_lt a
    generalize hn : (if fUnit a % 2 = 1 then 2 * fSig a else fSig a) * 2 ^ 80 = n
    have hlo : 2 ^ 80 ≤ n := by split at hn <;> omega
    have hhi : n < 2 ^ 128 := by split at hn <;> omega
    obtain ⟨-, h2⟩ := isqrt_64 hhi
    have hr : 2 ^ 37 ≤ isqrt n 64 0 := by
      by_contra hsmall
      have hle : isqrt n 64 0 + 1 ≤ 2 ^ 37 := by omega
      have := Nat.mul_le_mul hle hle
      omega
    exact (approx_sqrt hhi _).fRound_floatOf (neg := false) hrm (by omega) (fun _ => hr) false

end Sys2Proof.Machine
end

section
/-! SUPPORT. The special values of the floating-point operations: NaNs, infinities and zeros (04 R123, R124). -/
namespace Sys2Proof.Machine

theorem fVal_eq_signalling_iff (x : DWord) : fVal x = .nan true ↔ Signals x := by
  rcases nan_or_inf_or_fin x with h | h | h
  · rw [h.fVal_eq, Signals, FVal.nan.injEq, Bool.not_eq_true', and_iff_right h]
  · rw [h.fVal_eq]
    exact ⟨nofun, fun hs => absurd hs.1 h.not_nan⟩
  · rw [h.fVal_eq]
    exact ⟨nofun, fun hs => absurd hs.1 h.not_nan⟩

theorem FVal.neg_eq_signalling_iff (v : FVal) : v.neg = .nan true ↔ v = .nan true := by
  cases v with
  | nan q => rfl
  | inf n => exact ⟨nofun, nofun⟩
  | fin n m e => exact ⟨nofun, nofun⟩

theorem anySignalling_cons (v : FVal) (l : List FVal) : anySignalling (v :: l) = (decide (v = .nan true) || anySignalling l) := rfl

theorem anyNan_cons (v : FVal) (l : List FVal) : anyNan (v :: l) = (anyNan [v] || anyNan l) := by
  simp [anyNan]

theorem anyNan_singleton (x : DWord) : anyNan [fVal x] = true ↔ IsNan x := by
  rcases nan_or_inf_or_fin x with h | h | h
  · rw [h.fVal_eq]
    exact iff_of_true rfl h
  · rw [h.fVal_eq]
    exact iff_of_false nofun h.not_nan
  · rw [h.fVal_eq]
    exact iff_of_false nofun h.not_nan

/-- The flag of a NaN result. -/
theorem anySignalling_pair (a b : DWord) [Decidable (Signals a ∨ Signals b)] :
    anySignalling [fVal a, fVal b] = decide (Signals a ∨ Signals b) := by
  rw [Bool.eq_iff_iff, decide_eq_true_iff, anySignalling_cons, anySignalling_cons, ← fVal_eq_signalling_iff, ← fVal_eq_signalling_iff]
  simp [anySignalling]

theorem anySignalling_pair_neg (a b : DWord) : anySignalling [fVal a, (fVal b).neg] = anySignalling [fVal a, fVal b] := by
  simp only [anySignalling_cons, FVal.neg_eq_signalling_iff]

/-! NaN operands of sums, products and quotients. -/

section
variable {rm : Nat} {a b : DWord}

/-- A value that is a NaN. -/
def FVal.IsNan (v : FVal) : Prop := ∃ q, v = .nan q

theorem IsNan.fVal_isNan (h : IsNan a) : (fVal a).IsNan := ⟨_, h.fVal_eq⟩

theorem FVal.IsNan.neg {v : FVal} (h : v.IsNan) : v.neg.IsNan := by
  obtain ⟨q, rfl⟩ := h
  exact ⟨q, rfl⟩

theorem fAddV_nan {x y : FVal} (h : x.IsNan ∨ y.IsNan) : fAddV rm x y = nanOf [x, y] := by
  rcases h with ⟨q, rfl⟩ | ⟨q, rfl⟩
  · cases y <;> rfl
  · cases x <;> rfl

theorem fAdd_nan (h : IsNan a ∨ IsNan b) : fAdd rm a b = nanOf [fVal a, fVal b] :=
  fAddV_nan (h.imp IsNan.fVal_isNan IsNan.fVal_isNan)

theorem fSub_nan (h : IsNan a ∨ IsNan b) : fSub rm a b = nanOf [fVal a, fVal b] := by
  rw [fSub, fAddV_nan (h.imp IsNan.fVal_isNan fun h => h.fVal_isNan.neg), nanOf, nanOf, anySignalling_pair_neg]

theorem fMul_nan (h : IsNan a ∨ IsNan b) : fMul rm a b = nanOf [fVal a, fVal b] := by
  unfold fMul
  rcases h with h | h
  · rw [h.fVal_eq]
  · rw [h.fVal_eq]
    cases fVal a <;> rfl

theorem fDiv_nan (h : IsNan a ∨ IsNan b) : fDiv rm a b = nanOf [fVal a, fVal b] := by
  unfold fDiv
  rcases h with h | h
  · rw [h.fVal_eq]
  · rw [h.fVal_eq]
    cases fVal a <;> rfl

/-! Subtraction. -/

/-- An encoding with its sign changed. -/
def negated (x : DWord) : DWord := (BitVec.ofBool (!x.getLsbD 47) ++ bits x 0 47 : BitVec (1 + 47))

theorem getLsbD_negated (x : DWord) {i : Nat} (h : i < 47) : (negated x).getLsbD i = x.getLsbD i := by
  rw [negated, BitVec.getLsbD_append, if_pos h, bits, BitVec.getLsbD_extractLsb', Nat.zero_add, decide_eq_true h, Bool.true_and]

theorem sign_negated (x : DWord) : (negated x).getLsbD 47 = !x.getLsbD 47 := by
  rw [negated, BitVec.getLsbD_append, if_neg (by decide)]
  simp

theorem fVal_negated (x : DWord) : fVal (negated x) = (fVal x).neg := by
  have hmag : bits (negated x) 0 47 = bits x 0 47 := by
    refine BitVec.eq_of_getLsbD_eq fun i hi => ?_
    simp only [bits, BitVec.getLsbD_extractLsb', Nat.zero_add, getLsbD_negated x hi]
  have hexp : fExp (negated x) = fExp x := by rw [fExp_eq, hmag, ← fExp_eq]
  have hfrac : fFrac (negated x) = fFrac x := by rw [fFrac_eq, hmag, ← fFrac_eq]
  have hsign : fSign (negated x) = !fSign x := sign_negated x
  have hquiet : (negated x).getLsbD 35 = x.getLsbD 35 := getLsbD_negated x (by decide)
  simp only [fVal, hexp, hfrac, hsign, hquiet]
  split
  · split <;> rfl
  · split <;> rfl

theorem fSub_eq_fAdd (rm : Nat) (a b : DWord) : fSub rm a b = fAdd rm a (negated b) := by
  rw [fSub, fAdd, fVal_negated]

/-! Infinities and zeros. -/

theorem fAdd_inf_fin (ha : IsInf a) (hb : IsFin b) : fAdd rm a b = (a, FFlags.none) ∧ fAdd rm b a = (a, FFlags.none) := by
  rw [fAdd, fAdd, ha.fVal_eq, hb.fVal_eq]
  exact ⟨congrArg (·, FFlags.none) ha.eq_fInf, congrArg (·, FFlags.none) ha.eq_fInf⟩

theorem fAdd_inf_inf (ha : IsInf a) (hb : IsInf b) :
    fAdd rm a b = if a.getLsbD 47 = b.getLsbD 47 then (a, FFlags.none) else nanInvalid := by
  rw [fAdd, ha.fVal_eq, hb.fVal_eq]
  exact if_congr Iff.rfl (congrArg (·, FFlags.none) ha.eq_fInf) rfl

theorem not_isZero_of_fSig {x : DWord} (h : ¬IsZero x) : fSig x ≠ 0 := mt (fSig_eq_zero_iff x).1 h
theorem IsZero.fSig_eq {x : DWord} (h : IsZero x) : fSig x = 0 := (fSig_eq_zero_iff x).2 h

/-- An encoding that is no NaN is infinite, zero, or finite and not zero. -/
theorem inf_or_zero_or_fin {x : DWord} (h : ¬IsNan x) : IsInf x ∨ IsZero x ∨ (IsFin x ∧ ¬IsZero x) := by
  rcases nan_or_inf_or_fin x with hn | hi | hf
  · exact absurd hn h
  · exact .inl hi
  · by_cases hz : IsZero x
    · exact .inr (.inl hz)
    · exact .inr (.inr ⟨hf, hz⟩)

theorem fMul_inf_zero (ha : IsInf a) (hb : IsZero b) : fMul rm a b = nanInvalid ∧ fMul rm b a = nanInvalid := by
  unfold fMul
  rw [ha.fVal_eq, hb.fin.fVal_eq, hb.fSig_eq]
  exact ⟨rfl, rfl⟩

theorem fMul_inf (ha : IsInf a) (hb : ¬IsNan b) (hz : ¬IsZero b) :
    fMul rm a b = (fInf (a.getLsbD 47 ^^ b.getLsbD 47), FFlags.none) ∧
      fMul rm b a = (fInf (a.getLsbD 47 ^^ b.getLsbD 47), FFlags.none) := by
  unfold fMul
  rw [ha.fVal_eq]
  rcases inf_or_zero_or_fin hb with hb | hb | ⟨hb, -⟩
  · rw [hb.fVal_eq]
    exact ⟨rfl, congrArg (fun s => (fInf s, FFlags.none)) (Bool.xor_comm _ _)⟩
  · exact absurd hb hz
  · rw [hb.fVal_eq]
    simp only [not_isZero_of_fSig hz, if_false]
    exact ⟨trivial, congrArg (fun s => (fInf s, FFlags.none)) (Bool.xor_comm _ _)⟩

theorem fDiv_by_zero (ha : IsFin a) (hz : ¬IsZero a) (hb : IsZero b) :
    fDiv rm a b = (fInf (a.getLsbD 47 ^^ b.getLsbD 47), { FFlags.none with div0 := true }) := by
  rw [fDiv, ha.fVal_eq, hb.fin.fVal_eq, hb.fSig_eq]
  simp only [not_isZero_of_fSig hz, if_true, if_false]

theorem fDiv_invalid (h : IsZero a ∧ IsZero b ∨ IsInf a ∧ IsInf b) : fDiv rm a b = nanInvalid := by
  unfold fDiv
  rcases h with ⟨ha, hb⟩ | ⟨ha, hb⟩
  · rw [ha.fin.fVal_eq, hb.fin.fVal_eq, ha.fSig_eq, hb.fSig_eq]
    rfl
  · rw [ha.fVal_eq, hb.fVal_eq]

theorem fDiv_inf_fin (ha : IsInf a) (hb : IsFin b) :
    fDiv rm a b = (fInf (a.getLsbD 47 ^^ b.getLsbD 47), FFlags.none) ∧ fDiv rm b a = (fZero (a.getLsbD 47 ^^ b.getLsbD 47), FFlags.none) := by
  unfold fDiv
  rw [ha.fVal_eq, hb.fVal_eq]
  exact ⟨rfl, congrArg (fun s => (fZero s, FFlags.none)) (Bool.xor_comm _ _)⟩

theorem fSqrt_nan (ha : IsNan a) : fSqrt rm a = nanOf [fVal a] := by
  unfold fSqrt
  rw [ha.fVal_eq]

theorem fSqrt_exact (h : IsZero a ∨ (IsInf a ∧ a.getLsbD 47 = false)) : fSqrt rm a = (a, FFlags.none) := by
  unfold fSqrt
  rcases h with ha | ⟨ha, hs⟩
  · rw [ha.fin.fVal_eq, ha.fSig_eq]
    exact congrArg (·, FFlags.none) ha.eq_fZero
  · rw [ha.fVal_eq, hs]
    exact congrArg (·, FFlags.none) (hs ▸ ha.eq_fInf)

theorem fSqrt_negative (hn : ¬IsNan a) (hz : ¬IsZero a) (hs : a.getLsbD 47 = true) : fSqrt rm a = nanInvalid := by
  unfold fSqrt
  rcases inf_or_zero_or_fin hn with ha | ha | ⟨ha, -⟩
  · rw [ha.fVal_eq, hs]
    rfl
  · exact absurd ha hz
  · rw [ha.fVal_eq, hs]
    simp only [not_isZero_of_fSig hz, if_true, if_false]

end

end Sys2Proof.Machine
end

section
/-! SUPPORT. FMADD (04 Table 4.8, R123, R124), the comparisons, FMIN, FMAX and FCLASS. -/
namespace Sys2Proof.Machine

section
variable {rm : Nat} {a b z : DWord}

/-- Infinity times zero, in either order. -/
def InfTimesZero (a b : DWord) : Prop := (IsInf a ∧ IsZero b) ∨ (IsZero a ∧ IsInf b)

theorem anyNan_triple : anyNan [fVal a, fVal b, fVal z] = true ↔ IsNan a ∨ IsNan b ∨ IsNan z := by
  rw [anyNan_cons, anyNan_cons _ [fVal z], Bool.or_eq_true, Bool.or_eq_true, anyNan_singleton, anyNan_singleton, anyNan_singleton]

theorem anyNan_pair : anyNan [fVal a, fVal b] = true ↔ IsNan a ∨ IsNan b := by
  rw [anyNan_cons, Bool.or_eq_true, anyNan_singleton, anyNan_singleton]

theorem anySignalling_triple : anySignalling [fVal a, fVal b, fVal z] = true ↔ Signals a ∨ Signals b ∨ Signals z := by
  rw [← fVal_eq_signalling_iff, ← fVal_eq_signalling_iff, ← fVal_eq_signalling_iff]
  simp [anySignalling]

/-- FMADD of a NaN gives the quiet NaN, and is invalid where an operand signals. -/
theorem fMadd_nan (h : IsNan a ∨ IsNan b ∨ IsNan z) :
    (fMadd rm z a b).1 = fNan ∧ (Signals a ∨ Signals b ∨ Signals z → (fMadd rm z a b).2 = FFlags.invalid) ∧
      (¬(Signals a ∨ Signals b ∨ Signals z) → ¬InfTimesZero a b → (fMadd rm z a b).2 = FFlags.none) := by
  unfold fMadd
  extract_lets x y w zeroInf
  rw [if_pos (anyNan_triple.2 h)]
  refine ⟨rfl, fun hs => ?_, fun hs hz => ?_⟩
  · rw [anySignalling_triple.2 hs]
    rfl
  · have hzi : zeroInf = false := by
      simp only [zeroInf, x, y]
      rcases nan_or_inf_or_fin a with ha | ha | ha <;> rcases nan_or_inf_or_fin b with hb | hb | hb <;> rw [ha.fVal_eq, hb.fVal_eq]
      · exact decide_eq_false fun h0 => hz (.inl ⟨ha, (fSig_eq_zero_iff b).1 h0⟩)
      · exact decide_eq_false fun h0 => hz (.inr ⟨(fSig_eq_zero_iff a).1 h0, hb⟩)
    rw [hzi, Bool.eq_false_iff.2 (mt anySignalling_triple.1 hs)]
    rfl

/-- Infinity times zero is invalid. -/
theorem fMadd_inf_zero (ha : IsInf a) (hb : IsZero b) (hz : ¬IsNan z) : fMadd rm z a b = nanInvalid ∧ fMadd rm z b a = nanInvalid := by
  have hab : ¬(IsNan a ∨ IsNan b ∨ IsNan z) := by simp only [ha.not_nan, hb.fin.not_nan, hz, or_self, not_false_eq_true]
  have hba : ¬(IsNan b ∨ IsNan a ∨ IsNan z) := by simp only [ha.not_nan, hb.fin.not_nan, hz, or_self, not_false_eq_true]
  unfold fMadd
  simp only [mt anyNan_triple.1 hab, mt anyNan_triple.1 hba, Bool.false_eq_true, if_false]
  rw [ha.fVal_eq, hb.fin.fVal_eq, hb.fSig_eq]
  exact ⟨rfl, rfl⟩

/-- An infinite product is added to the third operand. -/
theorem fMadd_inf (ha : IsInf a) (hb : ¬IsNan b) (hb0 : ¬IsZero b) (hz : ¬IsNan z) :
    fMadd rm z a b = fAddV rm (fVal z) (.inf (a.getLsbD 47 ^^ b.getLsbD 47)) ∧
      fMadd rm z b a = fAddV rm (fVal z) (.inf (a.getLsbD 47 ^^ b.getLsbD 47)) := by
  have hab : ¬(IsNan a ∨ IsNan b ∨ IsNan z) := by simp only [ha.not_nan, hb, hz, or_self, not_false_eq_true]
  have hba : ¬(IsNan b ∨ IsNan a ∨ IsNan z) := by simp only [ha.not_nan, hb, hz, or_self, not_false_eq_true]
  unfold fMadd
  simp only [mt anyNan_triple.1 hab, mt anyNan_triple.1 hba, Bool.false_eq_true, if_false]
  rw [ha.fVal_eq, Bool.xor_comm]
  rcases inf_or_zero_or_fin hb with hb | hb | ⟨hb, -⟩
  · rw [hb.fVal_eq]
    exact ⟨congrArg (fun s => fAddV rm (fVal z) (.inf s)) (Bool.xor_comm _ _), rfl⟩
  · exact absurd hb hb0
  · rw [hb.fVal_eq]
    simp only [not_isZero_of_fSig hb0, decide_false, Bool.false_eq_true, if_false]
    exact ⟨congrArg (fun s => fAddV rm (fVal z) (.inf s)) (Bool.xor_comm _ _), trivial⟩

/-- A finite product is added to the third operand before it is rounded. -/
theorem fMadd_fin (ha : IsFin a) (hb : IsFin b) (hz : ¬IsNan z) :
    fMadd rm z a b = fAddV rm (fVal z) (.fin (a.getLsbD 47 ^^ b.getLsbD 47) (fSig a * fSig b) (fUnit a + fUnit b)) := by
  have hn : ¬(IsNan a ∨ IsNan b ∨ IsNan z) := by simp only [ha.not_nan, hb.not_nan, hz, or_self, not_false_eq_true]
  unfold fMadd
  simp only [mt anyNan_triple.1 hn, Bool.false_eq_true, if_false]
  rw [ha.fVal_eq, hb.fVal_eq]
  rfl

theorem fMadd_fin_inf (ha : IsFin a) (hb : IsFin b) (hz : IsInf z) : fMadd rm z a b = (z, FFlags.none) := by
  rw [fMadd_fin ha hb hz.not_nan, hz.fVal_eq]
  exact congrArg (·, FFlags.none) hz.eq_fInf

theorem fMadd_floatOf (hrm : rm ≤ 4) (ha : IsFin a) (hb : IsFin b) (hz : IsFin z) :
    FloatOf rm ((floatVal z : ℝ) + (floatVal a : ℝ) * (floatVal b : ℝ))
      (if z.getLsbD 47 = (a.getLsbD 47 ^^ b.getLsbD 47) then a.getLsbD 47 ^^ b.getLsbD 47 else decide (rm = 3)) (fMadd rm z a b) := by
  have hprod : (floatVal a : ℝ) * (floatVal b : ℝ) =
      signedReal (a.getLsbD 47 ^^ b.getLsbD 47) ((fSig a * fSig b : Nat) * 2 ^ (fUnit a + fUnit b)) := by
    rw [floatVal_eq a, floatVal_eq b, signedReal_mul, mul_mul_mul_comm, zpow_add₀ two_ne_zero, Nat.cast_mul]
  rw [fMadd_fin ha hb hz.not_nan, hz.fVal_eq, hprod, floatVal_eq z]
  refine (finAdd_floatOf hrm _ _ _ _ _ _).congr_sign fun _ => ?_
  split
  · assumption
  · rfl

/-- The sum of a third operand and an infinite product. -/
theorem fAddV_inf (hz : ¬IsNan z) (s : Bool) :
    (IsInf z → z.getLsbD 47 ≠ s → fAddV rm (fVal z) (.inf s) = nanInvalid) ∧
      (IsFin z ∨ z.getLsbD 47 = s → fAddV rm (fVal z) (.inf s) = (fInf s, FFlags.none)) := by
  refine ⟨fun hi hs => ?_, fun h => ?_⟩
  · rw [hi.fVal_eq]
    exact if_neg hs
  · rcases nan_or_inf_or_fin z with hn | hi | hf
    · exact absurd hn hz
    · have hs : z.getLsbD 47 = s := h.resolve_left fun hf => hf (by rw [exp_ones_iff]; exact ((isInf_iff z).1 hi).1)
      rw [hi.fVal_eq, hs]
      exact if_pos rfl
    · rw [hf.fVal_eq]
      rfl

/-! Order. -/

theorem IsInf.floatVal_eq (h : IsInf a) : (floatVal a : ℝ) = signedReal (a.getLsbD 47) (2 ^ 1024) := by
  rw [← floatMag_inf, floatVal, h, signedReal]
  split <;> push_cast <;> rfl

/-- A finite value lies between the values that the infinities stand for. -/
theorem IsFin.abs_floatVal_lt (h : IsFin a) : |(floatVal a : ℝ)| < 2 ^ 1024 := by
  have habs : |(floatVal a : ℝ)| = floatMag (bits a 0 47).toNat := by
    rw [floatVal]
    split
    · push_cast
      rw [abs_neg, abs_of_nonneg (floatMag_nonneg _)]
    · rw [abs_of_nonneg (floatMag_nonneg _)]
  rw [habs, ← floatMag_inf]
  refine floatMag_strictMono ?_
  have h1 := fExp_eq a
  have h2 := fExp_lt a
  have h3 := mt (exp_ones_iff a).2 h
  omega

/-- The model's order is that of the values, an infinity standing for the value that would follow the largest finite one. -/
theorem fLess_iff (ha : ¬IsNan a) (hb : ¬IsNan b) : fLess (fVal a) (fVal b) = true ↔ floatVal a < floatVal b := by
  rw [← Rat.cast_lt (K := ℝ)]
  have ha' := (nan_or_inf_or_fin a).resolve_left ha
  have hb' := (nan_or_inf_or_fin b).resolve_left hb
  have hp : (0 : ℝ) < 2 ^ 1024 := by positivity
  rcases ha' with ha | ha <;> rcases hb' with hb | hb <;> rw [ha.fVal_eq, hb.fVal_eq]
  · rw [ha.floatVal_eq, hb.floatVal_eq]
    generalize (2 : ℝ) ^ 1024 = top at hp
    cases a.getLsbD 47 <;> cases b.getLsbD 47 <;> simp [fLess, signedReal] <;> linarith
  · have hlt := abs_lt.1 hb.abs_floatVal_lt
    rw [ha.floatVal_eq]
    generalize (2 : ℝ) ^ 1024 = top at hp hlt
    cases a.getLsbD 47 <;> simp [fLess, signedReal] <;> linarith
  · have hlt := abs_lt.1 ha.abs_floatVal_lt
    rw [hb.floatVal_eq]
    generalize (2 : ℝ) ^ 1024 = top at hp hlt
    cases b.getLsbD 47 <;> simp [fLess, signedReal] <;> linarith
  · have hu : (0 : ℝ) < 2 ^ (min (fUnit a) (fUnit b)) := by positivity
    rw [Machine.floatVal_eq a, Machine.floatVal_eq b, ← signed_scale _ _ (min_le_left (fUnit a) (fUnit b)),
      ← signed_scale _ _ (min_le_right (fUnit a) (fUnit b)), mul_lt_mul_iff_left₀ hu, Int.cast_lt]
    exact decide_eq_true_iff

end

end Sys2Proof.Machine
end

section
/-! SUPPORT. Comparisons, FMIN, FMAX, FCLASS and the conversions (04 Table 4.8). -/
namespace Sys2Proof.Machine

section
variable {a b : DWord}

theorem anySignalling_numbers (ha : ¬IsNan a) (hb : ¬IsNan b) : anySignalling [fVal a, fVal b] = false := by
  have hs : ¬(Signals a ∨ Signals b) := fun h => h.elim (fun h => ha h.1) fun h => hb h.1
  have := Classical.dec (Signals a ∨ Signals b)
  rw [anySignalling_pair, decide_eq_false hs]

theorem fEq_nan {_ : Decidable (Signals a ∨ Signals b)} (h : IsNan a ∨ IsNan b) :
    fEq a b = (false, { FFlags.none with inv := decide (Signals a ∨ Signals b) }) := by
  rw [← anySignalling_pair]
  exact if_pos (anyNan_pair.2 h)

theorem fLt_nan (h : IsNan a ∨ IsNan b) : fLt a b = (false, FFlags.invalid) := if_pos (anyNan_pair.2 h)
theorem fLe_nan (h : IsNan a ∨ IsNan b) : fLe a b = (false, FFlags.invalid) := if_pos (anyNan_pair.2 h)

theorem fLess_eq_decide (ha : ¬IsNan a) (hb : ¬IsNan b) : fLess (fVal a) (fVal b) = decide (floatVal a < floatVal b) := by
  rw [Bool.eq_iff_iff, fLess_iff ha hb, decide_eq_true_iff]

section
variable (ha : ¬IsNan a) (hb : ¬IsNan b)
include ha hb

theorem not_anyNan_pair : ¬anyNan [fVal a, fVal b] = true := mt anyNan_pair.1 (not_or.2 ⟨ha, hb⟩)

theorem fLt_eq : fLt a b = (decide (floatVal a < floatVal b), FFlags.none) :=
  (if_neg (not_anyNan_pair ha hb)).trans (congrArg (·, FFlags.none) (fLess_eq_decide ha hb))

theorem fLe_eq : fLe a b = (decide (floatVal a ≤ floatVal b), FFlags.none) := by
  refine (if_neg (not_anyNan_pair ha hb)).trans (congrArg (·, FFlags.none) ?_)
  rw [fLess_eq_decide hb ha, ← decide_not, decide_eq_decide, not_lt]

theorem fEq_eq : fEq a b = (decide (floatVal a = floatVal b), FFlags.none) := by
  refine (if_neg (not_anyNan_pair ha hb)).trans (congrArg (·, FFlags.none) ?_)
  rw [fLess_eq_decide ha hb, fLess_eq_decide hb ha, ← decide_not, ← decide_not, ← Bool.decide_and, decide_eq_decide, not_lt, not_lt,
    and_comm, le_antisymm_iff]

/-- FMIN and FMAX of numbers: one of the operands, by the order in which −0 is below +0. -/
theorem fMinMax_numbers (isMax : Bool) : fMinMax isMax a b =
    (if decide (floatVal a < floatVal b ∨ (floatVal a = floatVal b ∧ a.getLsbD 47 = true)) ^^ isMax then a else b, FFlags.none) := by
  have hlow : (fLess (fVal a) (fVal b) || (!fLess (fVal b) (fVal a) && fSign a)) =
      decide (floatVal a < floatVal b ∨ (floatVal a = floatVal b ∧ a.getLsbD 47 = true)) := by
    rw [Bool.eq_iff_iff, fLess_eq_decide ha hb, fLess_eq_decide hb ha, Bool.or_eq_true, Bool.and_eq_true, Bool.not_eq_true',
      decide_eq_true_iff, decide_eq_true_iff, decide_eq_false_iff_not, not_lt, fSign, le_iff_lt_or_eq]
    tauto
  have hdef : fMinMax isMax a b =
      (if (fLess (fVal a) (fVal b) || (!fLess (fVal b) (fVal a) && fSign a)) ^^ isMax then a else b,
        { FFlags.none with inv := anySignalling [fVal a, fVal b] }) := by
    unfold fMinMax
    rcases (nan_or_inf_or_fin a).resolve_left ha with ha | ha <;>
      rcases (nan_or_inf_or_fin b).resolve_left hb with hb | hb <;> rw [ha.fVal_eq, hb.fVal_eq]
  rw [hdef, hlow, anySignalling_numbers ha hb]
  rfl

end

/-- Beside a number only the NaN can signal. -/
theorem anySignalling_nan_number {_ : Decidable (Signals a)} (hb : ¬IsNan b) :
    anySignalling [fVal a, fVal b] = decide (Signals a) ∧ anySignalling [fVal b, fVal a] = decide (Signals a) := by
  have := Classical.dec (Signals a ∨ Signals b)
  have := Classical.dec (Signals b ∨ Signals a)
  have hs : ¬Signals b := fun h => hb h.1
  rw [anySignalling_pair, anySignalling_pair, decide_eq_decide, decide_eq_decide, or_iff_left hs, or_iff_right hs]
  exact ⟨Iff.rfl, Iff.rfl⟩

theorem fMinMax_nan_number {_ : Decidable (Signals a)} (isMax : Bool) (ha : IsNan a) (hb : ¬IsNan b) :
    fMinMax isMax a b = (b, { FFlags.none with inv := decide (Signals a) }) ∧
      fMinMax isMax b a = (b, { FFlags.none with inv := decide (Signals a) }) := by
  obtain ⟨h1, h2⟩ := anySignalling_nan_number (a := a) hb
  rw [← h1]
  conv => rhs; rw [h1, ← h2]
  unfold fMinMax
  rcases (nan_or_inf_or_fin b).resolve_left hb with hb | hb
  · rw [ha.fVal_eq, hb.fVal_eq]
    exact ⟨rfl, rfl⟩
  · rw [ha.fVal_eq, hb.fVal_eq]
    exact ⟨rfl, rfl⟩

theorem fMinMax_nan_nan {_ : Decidable (Signals a ∨ Signals b)} (isMax : Bool) (ha : IsNan a) (hb : IsNan b) :
    fMinMax isMax a b = (fNan, { FFlags.none with inv := decide (Signals a ∨ Signals b) }) := by
  rw [← anySignalling_pair]
  unfold fMinMax
  rw [ha.fVal_eq, hb.fVal_eq]

theorem subnormal_iff (a : DWord) : bits a 36 11 = 0 ↔ fExp a = 0 :=
  ⟨fun h => by rw [fExp, h]; rfl, fun h => BitVec.eq_of_toNat_eq h⟩

/-- The class bit of each class (04 Table 4.8). -/
theorem fClass_nan (ha : IsNan a) : fClass a = bitAt 24 (if a.getLsbD 35 = false then 8 else 9) := by
  unfold fClass
  rw [ha.fVal_eq]
  cases a.getLsbD 35 <;> rfl

theorem fClass_inf (ha : IsInf a) : fClass a = bitAt 24 (if a.getLsbD 47 = true then 0 else 7) := by
  unfold fClass
  rw [ha.fVal_eq]
  rfl

theorem fClass_zero (ha : IsZero a) : fClass a = bitAt 24 (if a.getLsbD 47 = true then 3 else 4) := by
  unfold fClass
  rw [ha.fin.fVal_eq, ha.fSig_eq]
  rfl

theorem fClass_number (ha : IsFin a) (hz : ¬IsZero a) :
    fClass a = bitAt 24 (if bits a 36 11 = 0 then (if a.getLsbD 47 = true then 2 else 5) else (if a.getLsbD 47 = true then 1 else 6)) := by
  unfold fClass
  rw [ha.fVal_eq]
  simp only [not_isZero_of_fSig hz, if_false, subnormal_iff]
  split <;> rfl

/-- The encodings of each class (04 Table 4.8). -/
def InClass (a : DWord) (i : Nat) : Prop := match i with
  | 0 => IsInf a ∧ a.getLsbD 47 = true
  | 1 => IsFin a ∧ bits a 36 11 ≠ 0 ∧ a.getLsbD 47 = true
  | 2 => bits a 36 11 = 0 ∧ ¬IsZero a ∧ a.getLsbD 47 = true
  | 3 => IsZero a ∧ a.getLsbD 47 = true
  | 4 => IsZero a ∧ a.getLsbD 47 = false
  | 5 => bits a 36 11 = 0 ∧ ¬IsZero a ∧ a.getLsbD 47 = false
  | 6 => IsFin a ∧ bits a 36 11 ≠ 0 ∧ a.getLsbD 47 = false
  | 7 => IsInf a ∧ a.getLsbD 47 = false
  | 8 => Signals a
  | _ => IsNan a ∧ ¬Signals a

/-- FCLASS gives the bit of the one class of its operand. -/
theorem fClass_inClass (a : DWord) : ∃ i < 10, fClass a = bitAt 24 i ∧ InClass a i := by
  rcases nan_or_inf_or_fin a with ha | ha | ha
  · rw [fClass_nan ha]
    by_cases hq : a.getLsbD 35 = false
    · exact ⟨8, by decide, by rw [if_pos hq], ha, hq⟩
    · exact ⟨9, by decide, by rw [if_neg hq], ha, fun hs => hq hs.2⟩
  · rw [fClass_inf ha]
    cases hs : a.getLsbD 47
    · exact ⟨7, by decide, rfl, ha, hs⟩
    · exact ⟨0, by decide, rfl, ha, hs⟩
  · by_cases hz : IsZero a
    · rw [fClass_zero hz]
      cases hs : a.getLsbD 47
      · exact ⟨4, by decide, rfl, hz, hs⟩
      · exact ⟨3, by decide, rfl, hz, hs⟩
    · rw [fClass_number ha hz]
      by_cases he : bits a 36 11 = 0
      · rw [if_pos he]
        cases hs : a.getLsbD 47
        · exact ⟨5, by decide, rfl, he, hz, hs⟩
        · exact ⟨2, by decide, rfl, he, hz, hs⟩
      · rw [if_neg he]
        cases hs : a.getLsbD 47
        · exact ⟨6, by decide, rfl, ha, he, hs⟩
        · exact ⟨1, by decide, rfl, ha, he, hs⟩

end

/-! Conversions from integers. -/

/-- An integer of 37 bits at most is a value of the format, also in units down to the smallest one. -/
theorem fPack_exact {rm : Nat} (hrm : rm ≤ 4) {i e : Int} (hi : i.natAbs < 2 ^ 37) (h1 : -1058 ≤ e) (h2 : e ≤ 0) (z : Bool) :
    (floatVal (fPack rm i e z).1 : ℝ) = i * 2 ^ e ∧ (fPack rm i e z).2 = FFlags.none := by
  have hflags : (fPack rm i e z).2 = FFlags.none := by
    rw [fPack]
    split
    · rfl
    · rename_i h0
      have hm := Int.natAbs_ne_zero.2 h0
      have hlog : Nat.log2 i.natAbs < 37 := (Nat.log2_lt hm).2 hi
      have hplace : (place i.natAbs e : Int) - 1058 ≤ e := by unfold place; omega
      have hexact : (roundedAt rm (decide (i < 0)) i.natAbs e false).2 = false := by
        rw [roundedAt, roundTo, if_pos hplace]
      obtain ⟨hr, -⟩ := (Approx.of_exact i.natAbs e).roundsAt (neg := decide (i < 0)) hrm hm nofun
      obtain ⟨-, hf⟩ := (Approx.of_exact i.natAbs e).fRound_fields (neg := decide (i < 0)) hrm hm nofun
      have := hr.round.bounds
      have := hr.small
      rw [hf, if_neg (by omega), hexact, Bool.and_false]
      rfl
  refine ⟨?_, hflags⟩
  obtain ⟨-, -, -, -, -, -, -, hinx, -⟩ := fPack_floatOf hrm i e z
  rw [hflags] at hinx
  by_contra hne
  exact nomatch hinx.2 (.inl hne)

/-! Conversions to integers. -/

section
variable {rm : Nat} {neg : Bool} {x : ℚ} {n : Nat}

theorem natFloor_cast (hx : 0 ≤ x) : ⌊(x : ℝ)⌋₊ = ⌊x⌋₊ := by
  have hx' : 0 ≤ (x : ℝ) := by exact_mod_cast hx
  rw [Nat.floor_eq_iff hx']
  exact ⟨by exact_mod_cast Nat.floor_le hx, by exact_mod_cast Nat.lt_floor_add_one x⟩

/-- The test for rounding up, on a rational magnitude. -/
theorem roundsUp_rat (f : Nat) : RoundsUp rm neg f (x : ℝ) ↔
    (rm = 0 ∧ (2 * f + 1 < 2 * x ∨ (2 * f + 1 = 2 * x ∧ f % 2 = 1))) ∨ (rm = 1 ∧ 2 * f + 1 ≤ 2 * x) ∨ (Away rm neg ∧ f < x) := by
  unfold RoundsUp
  norm_cast

/-- In the two modes to nearest the rounded magnitude is half a unit away at most. -/
theorem RoundsTo.nearest (hrm : rm ≤ 1) (hx : 0 ≤ x) (h : RoundsTo rm neg (x : ℝ) n) :
    2 * |x - n| ≤ 1 ∧ (2 * |x - n| = 1 → (rm = 0 → n % 2 = 0) ∧ (rm = 1 → x < n)) := by
  obtain ⟨hup, hdown⟩ := h
  rw [natFloor_cast hx, roundsUp_rat] at hup hdown
  have h0 := Nat.floor_le hx
  have h1 := Nat.lt_floor_add_one x
  generalize ⌊x⌋₊ = f at h0 h1 hup hdown
  have hbelow : |x - f| = x - f := abs_of_nonneg (by linarith)
  have habove : |x - (f + 1 : Nat)| = f + 1 - x := by
    rw [abs_sub_comm, Nat.cast_add_one, abs_of_nonneg (by linarith)]
  have haway : ¬Away rm neg := by unfold Away; omega
  simp only [haway, false_and, or_false] at hup hdown
  rcases lt_trichotomy (2 * (f : ℚ) + 1) (2 * x) with hc | hc | hc
  · obtain rfl := hup (by rcases (by omega : rm = 0 ∨ rm = 1) with hm | hm <;> [exact .inl ⟨hm, .inl hc⟩; exact .inr ⟨hm, hc.le⟩])
    rw [habove]
    exact ⟨by linarith, fun ht => by linarith⟩
  · by_cases hu : rm = 1 ∨ f % 2 = 1
    · obtain rfl := hup (by rcases (by omega : rm = 0 ∨ rm = 1) with hm | hm <;> [exact .inl ⟨hm, .inr ⟨hc, by omega⟩⟩; exact .inr ⟨hm, hc.le⟩])
      rw [habove, Nat.cast_add_one]
      exact ⟨by linarith, fun _ => ⟨fun hm => by omega, fun _ => h1⟩⟩
    · obtain rfl := hdown (by rintro (⟨-, h | ⟨-, h⟩⟩ | ⟨h, -⟩) <;> [linarith; omega; omega])
      rw [hbelow]
      exact ⟨by linarith, fun _ => ⟨fun _ => by omega, fun hm => by omega⟩⟩
  · obtain rfl := hdown (by rintro (⟨-, h | ⟨h, -⟩⟩ | ⟨-, h⟩) <;> linarith)
    rw [hbelow]
    exact ⟨by linarith, fun ht => by linarith⟩

/-- In the directed modes the rounded magnitude is the integer above or below. -/
theorem RoundsTo.directed (hrm : 2 ≤ rm) (hx : 0 ≤ x) (h : RoundsTo rm neg (x : ℝ) n) :
    (Away rm neg → (n : Int) = ⌈x⌉) ∧ (¬Away rm neg → (n : Int) = ⌊x⌋) := by
  obtain ⟨hup, hdown⟩ := h
  rw [natFloor_cast hx, roundsUp_rat] at hup hdown
  have hm : ¬rm = 0 ∧ ¬rm = 1 := by omega
  simp only [hm, false_and, false_or] at hup hdown
  rw [← Int.natCast_floor_eq_floor hx]
  refine ⟨fun ha => ?_, fun ha => by rw [hdown fun hu => ha hu.1]⟩
  have h0 := Nat.floor_le hx
  have h1 := Nat.lt_floor_add_one x
  by_cases hc : (⌊x⌋₊ : ℚ) < x
  · rw [hup ⟨ha, hc⟩, eq_comm, Int.ceil_eq_iff]
    push_cast
    exact ⟨by linarith, by linarith⟩
  · rw [hdown fun hu => hc hu.2, eq_comm, Int.ceil_eq_iff]
    push_cast
    exact ⟨by linarith, by linarith⟩

/-- A rounded magnitude with its sign is the rounded integer. -/
theorem RoundsTo.integerOf (hx : 0 ≤ x) (h : RoundsTo rm neg (x : ℝ) n) :
    IntegerOf rm (if neg then -x else x) (signed neg n) := by
  refine ⟨fun hm => ?_, fun hm => ?_, fun hm => ?_, fun hm => ?_⟩
  · have hq : |(if neg then -x else x) - (signed neg n : Int)| = |x - n| := by
      cases neg
      · simp [signed]
      · rw [← abs_neg]
        congr 1
        simp [signed]
        ring
    have hlt : |(if neg then -x else x)| < |((signed neg n : Int) : ℚ)| ↔ x < n := by
      cases neg <;> simp [signed, abs_of_nonneg hx]
    have hmod : signed neg n % 2 = 0 ↔ n % 2 = 0 := by
      cases neg <;> simp only [signed, if_true, Bool.false_eq_true, if_false] <;> omega
    rw [hq, hlt, hmod]
    exact h.nearest hm hx
  · obtain ⟨hup, hdown⟩ := h.directed (by omega) hx
    cases neg
    · exact hup (.inl ⟨hm, rfl⟩)
    · simp only [signed, if_true, Int.ceil_neg]
      rw [hdown (by simp [Away, hm])]
  · obtain ⟨hup, hdown⟩ := h.directed (by omega) hx
    cases neg
    · exact hdown (by simp [Away, hm])
    · simp only [signed, if_true, Int.floor_neg]
      rw [hup (.inr ⟨hm, rfl⟩)]
  · obtain ⟨-, hdown⟩ := h.directed (by omega) hx
    have hn := hdown (by simp [Away, hm])
    cases neg
    · simp only [signed, Bool.false_eq_true, if_false, not_lt.2 hx]
      exact hn
    · simp only [signed, if_true, neg_neg_iff_pos, Int.ceil_neg, Int.floor_neg]
      split
      · rw [hn]
      · obtain rfl : x = 0 := le_antisymm (not_lt.1 ‹_›) hx
        rw [hn, Int.ceil_zero, Int.floor_zero]

end

end Sys2Proof.Machine
end

section
/-! SUPPORT. Conversions between floats and integers (04 Table 4.8, R124). -/
namespace Sys2Proof.Machine

/-- The rounded magnitude is exact where the magnitude is an integer. -/
theorem RoundsTo.exact_iff {rm : Nat} {neg : Bool} {y : ℝ} {n : Nat} (h : RoundsTo rm neg y n) : (n : ℝ) = y ↔ (⌊y⌋₊ : ℝ) = y := by
  refine ⟨fun hn => by rw [← hn, Nat.floor_natCast], fun hf => ?_⟩
  have hnot := not_roundsUp_natCast rm neg ⌊y⌋₊
  rw [hf] at hnot
  rw [h.down hnot, hf]

section
variable {rm n : Nat} {a : DWord}

/-- A finite value times a power of two, as its sign and its magnitude. -/
theorem floatVal_scale (a : DWord) (scale : Nat) :
    floatVal a * 2 ^ scale =
      if a.getLsbD 47 then -(fSig a * 2 ^ (fUnit a + scale) : ℚ) else (fSig a * 2 ^ (fUnit a + scale) : ℚ) := by
  have hval : floatVal a = if a.getLsbD 47 then -(fSig a * 2 ^ fUnit a : ℚ) else (fSig a * 2 ^ fUnit a : ℚ) := by
    refine Rat.cast_injective (α := ℝ) ?_
    rw [floatVal_eq, signedReal]
    split <;> push_cast <;> rfl
  rw [hval, zpow_add₀ two_ne_zero, zpow_natCast]
  split <;> ring

/-- NaNs and infinities saturate. -/
theorem fToInt_special (scale : Int) (h : bits a 36 11 = 0x7FF) : fToInt rm n scale a =
    if bits a 0 36 = 0 ∧ a.getLsbD 47 = true then (BitVec.ofInt n (-2 ^ (n - 1)), FFlags.invalid)
    else (BitVec.ofInt n (2 ^ (n - 1) - 1), FFlags.invalid) := by
  unfold fToInt
  by_cases h0 : bits a 0 36 = 0
  · have hinf : IsInf a := (isInf_iff a).2 ⟨(exp_ones_iff a).1 h, (frac_zero_iff a).1 h0⟩
    rw [hinf.fVal_eq]
    cases a.getLsbD 47
    · rw [if_neg fun hs => nomatch hs.2]
      rfl
    · rw [if_pos ⟨h0, rfl⟩]
      rfl
  · rw [IsNan.fVal_eq ⟨h, h0⟩, if_neg fun hs => h0 hs.1]

/-- A finite value is rounded to an integer, which saturates. -/
theorem fToInt_finite (hrm : rm ≤ 4) (ha : IsFin a) (scale : Nat) :
    ∃ i, IntegerOf rm (floatVal a * 2 ^ scale) i ∧
      (2 ^ (n - 1) - 1 < i → fToInt rm n scale a = (BitVec.ofInt n (2 ^ (n - 1) - 1), FFlags.invalid)) ∧
      (i < -2 ^ (n - 1) → fToInt rm n scale a = (BitVec.ofInt n (-2 ^ (n - 1)), FFlags.invalid)) ∧
      (-2 ^ (n - 1) ≤ i → i ≤ 2 ^ (n - 1) - 1 →
        fToInt rm n scale a = (BitVec.ofInt n i, { FFlags.none with inx := decide ((i : ℚ) ≠ floatVal a * 2 ^ scale) })) := by
  obtain ⟨hr, hinx⟩ := roundTo_spec (neg := a.getLsbD 47) (q := 0) hrm (Approx.of_exact (fSig a) (fUnit a + scale)) fun _ => rfl
  have hx0 : (0 : ℚ) ≤ fSig a * 2 ^ (fUnit a + scale) := by positivity
  have hcast : (fSig a : ℝ) * 2 ^ (fUnit a + scale) / 2 ^ (0 : Int) = ((fSig a * 2 ^ (fUnit a + scale) : ℚ) : ℝ) := by
    push_cast
    rw [zpow_zero, div_one]
  rw [hcast] at hr hinx
  rw [floatVal_scale]
  generalize (fSig a * 2 ^ (fUnit a + scale) : ℚ) = x at hr hinx hx0
  have hdef : fToInt rm n scale a =
      if 2 ^ (n - 1) - 1 < signed (a.getLsbD 47) (roundTo rm (a.getLsbD 47) (fSig a) (fUnit a + scale) 0 false).1 then
        (BitVec.ofInt n (2 ^ (n - 1) - 1), FFlags.invalid)
      else if signed (a.getLsbD 47) (roundTo rm (a.getLsbD 47) (fSig a) (fUnit a + scale) 0 false).1 < -2 ^ (n - 1) then
        (BitVec.ofInt n (-2 ^ (n - 1)), FFlags.invalid)
      else (BitVec.ofInt n (signed (a.getLsbD 47) (roundTo rm (a.getLsbD 47) (fSig a) (fUnit a + scale) 0 false).1),
        { FFlags.none with inx := (roundTo rm (a.getLsbD 47) (fSig a) (fUnit a + scale) 0 false).2 }) := by
    unfold fToInt
    rw [ha.fVal_eq]
  rw [hdef]
  generalize roundTo rm (a.getLsbD 47) (fSig a) (fUnit a + scale) 0 false = r at hr hinx
  have hpos : (0 : Int) < 2 ^ (n - 1) := by positivity
  have hexact : r.2 = decide (((signed (a.getLsbD 47) r.1 : Int) : ℚ) ≠ if a.getLsbD 47 = true then -x else x) := by
    have hsigned : ((signed (a.getLsbD 47) r.1 : Int) : ℚ) = (if a.getLsbD 47 = true then -x else x) ↔ (r.1 : ℚ) = x := by
      cases a.getLsbD 47 <;> simp [signed]
    rw [Bool.eq_iff_iff, decide_eq_true_iff, hinx, Ne, ← hr.exact_iff, Ne, hsigned, ← Rat.cast_inj (α := ℝ), Rat.cast_natCast]
  refine ⟨_, hr.integerOf hx0, fun h => if_pos h, fun h => ?_, fun h1 h2 => ?_⟩
  · rw [if_neg (by omega), if_pos h]
  · rw [if_neg (by omega), if_neg (by omega), hexact]

/-! Integers of a word are exact. -/

theorem fOfInt_word (hrm : rm ≤ 4) (i : Word) : floatVal (fOfInt rm i.toInt 0).1 = i.toInt ∧ (fOfInt rm i.toInt 0).2 = FFlags.none := by
  have hlt : i.toInt.natAbs < 2 ^ 37 := by have := i.isLt; have := BitVec.toInt_lt (x := i); have := BitVec.le_toInt i; omega
  obtain ⟨hval, hflags⟩ := fPack_exact hrm hlt (by decide) (by decide) (e := 0) false
  rw [zpow_zero, mul_one] at hval
  exact ⟨by exact_mod_cast hval, hflags⟩

theorem fOfInt_fraction (hrm : rm ≤ 4) (i : Word) :
    floatVal (fOfInt rm i.toInt (-23)).1 = i.toInt / 2 ^ 23 ∧ (fOfInt rm i.toInt (-23)).2 = FFlags.none := by
  have hlt : i.toInt.natAbs < 2 ^ 37 := by have := i.isLt; have := BitVec.toInt_lt (x := i); have := BitVec.le_toInt i; omega
  obtain ⟨hval, hflags⟩ := fPack_exact hrm hlt (by decide) (by decide) (e := -23) false
  have hpow : (2 : ℝ) ^ (-23 : Int) = (2 ^ 23)⁻¹ := by rw [zpow_neg]; rfl
  rw [hpow, ← div_eq_mul_inv] at hval
  exact ⟨by exact_mod_cast hval, hflags⟩

end

/-! Signs. -/

theorem xor_sign (x : DWord) : x ^^^ bitAt 48 47 = (BitVec.ofBool (!x.getLsbD 47) ++ bits x 0 47 : BitVec (1 + 47)) := by
  have hlow : bits (bitAt 48 47) 0 47 = 0 := by decide
  have hhigh : (bitAt 48 47).getLsbD 47 = true := by decide
  have hbits : bits (x ^^^ bitAt 48 47) 0 47 = bits x 0 47 := by
    rw [bits, BitVec.extractLsb'_xor, ← bits, ← bits, hlow]
    exact BitVec.xor_zero
  rw [eq_sign_append (x ^^^ bitAt 48 47), hbits, BitVec.getLsbD_xor, hhigh, Bool.xor_true]

theorem setBit_sign (x : DWord) (b : Bool) : setBit x 47 b = (BitVec.ofBool b ++ bits x 0 47 : BitVec (1 + 47)) := by
  have hbits : bits (setBit x 47 b) 0 47 = bits x 0 47 := by
    refine BitVec.eq_of_getLsbD_eq fun j hj => ?_
    rw [bits, bits, BitVec.getLsbD_extractLsb', BitVec.getLsbD_extractLsb', getLsbD_setBit x 47 b (by omega), if_neg (by omega)]
  rw [eq_sign_append (setBit x 47 b), hbits, getLsbD_setBit x 47 b (by decide), if_pos rfl]

end Sys2Proof.Machine
end

section
/-! SUPPORT. The results of NaN operands with their flags, the class of every encoding, and O15. -/
namespace Sys2Proof.Machine

section
variable {rm : Nat} {a b : DWord}

theorem nanOf_pair {_ : Decidable (Signals a ∨ Signals b)} :
    nanOf [fVal a, fVal b] = (fNan, { FFlags.none with inv := decide (Signals a ∨ Signals b) }) := by
  rw [nanOf, anySignalling_pair]

theorem nanOf_singleton {_ : Decidable (Signals a)} : nanOf [fVal a] = (fNan, { FFlags.none with inv := decide (Signals a) }) := by
  have h : anySignalling [fVal a] = decide (Signals a) := by
    rw [Bool.eq_iff_iff, decide_eq_true_iff, ← fVal_eq_signalling_iff]
    simp [anySignalling]
  rw [nanOf, h]

/-- An operation whose NaN rule is the common one, on a NaN. -/
theorem nan_rule {_ : Decidable (Signals a ∨ Signals b)} (h : IsNan a ∨ IsNan b) : ∀ op ∈ [fAdd, fSub, fMul, fDiv],
    op rm a b = (fNan, { FFlags.none with inv := decide (Signals a ∨ Signals b) }) := by
  rw [← nanOf_pair]
  simp only [List.forall_mem_cons]
  exact ⟨fAdd_nan h, fSub_nan h, fMul_nan h, fDiv_nan h, nofun⟩

end

end Sys2Proof.Machine

open Sys2Proof Sys2Proof.Machine

/-- Settles O15: each instruction is its operation and its flags; each operation is the exact value rounded once, or the special
value that the classes of its operands give. -/
theorem floatInstructions : Obligations.FloatInstructions := by
  refine ⟨fun c f rd rs1 rs2 => ?_, fun rm a b z hrm => ?_, fun rm i hrm => ?_, fun rm i hrm => ?_, fun rm a hrm p _ => ?_⟩
  · intro k mode insn d w truth all two
    have htruth (v : Bool) : boolWord v = if v = true then 1 else 0 := by cases v <;> rfl
    refine ⟨.of_runReg rfl fun r => rfl, .of_runReg rfl fun r => rfl, .of_runReg rfl fun r => rfl, .of_runReg rfl fun r => rfl,
      .of_runReg rfl fun r => rfl, .of_runReg rfl fun r => rfl, .of_runReg rfl fun r => rfl, .of_runReg rfl fun r => rfl,
      .of_runReg rfl fun r => ?_, .of_runReg rfl fun r => ?_, .of_runReg rfl fun r => ?_, .of_runReg rfl fun r => rfl,
      .of_runReg rfl fun r => rfl, .of_runReg rfl fun r => rfl, .of_runReg rfl fun r => rfl, .of_runReg rfl fun r => rfl,
      .of_runReg rfl fun r => rfl, .of_runReg rfl fun r => rfl, .of_runReg rfl fun r => ?_, .of_runReg rfl fun r => ?_,
      .of_runReg rfl fun r => ?_⟩
    · rw [floatBody, putB, htruth]
    · rw [floatBody, putB, htruth]
    · rw [floatBody, putB, htruth]
    · rw [floatBody, putD, xor_sign]
    · rw [floatBody, putD, setBit_sign]
      rfl
    · rw [floatBody, putD, setBit_sign]
  · intro nan signals inf fin zero neg with_ val exact invalid sign
    have hinf (s : Bool) : with_ s 0x7FF000000000 = fInf s := (fInf_append s).symm
    have hzero (s : Bool) : with_ s 0 = fZero s := (fZero_append s).symm
    rw [hinf, hzero]
    refine ⟨nan_rule, fSub_eq_fAdd rm a b, fAdd_floatOf hrm, fAdd_inf_fin, fAdd_inf_inf, fMul_floatOf hrm,
      fun ha hb => ⟨fMul_inf_zero ha, fMul_inf ha hb⟩, fun ha hb hz => fDiv_floatOf hrm ha hb (not_isZero_of_fSig hz), fDiv_by_zero,
      fDiv_invalid, fDiv_inf_fin, fun ha => (fSqrt_nan ha).trans nanOf_singleton, fSqrt_floatOf hrm, fSqrt_exact, fSqrt_negative,
      fun h => ?_, fMadd_floatOf hrm, fMadd_fin_inf, fun ha hb hz => ⟨fun hb0 => fMadd_inf_zero ha hb0 hz, fun hb0 => ?_, fun hb0 => ?_⟩,
      fun h => ⟨fEq_nan h, fLt_nan h, fLe_nan h⟩, fun ha hb => ⟨fEq_eq ha hb, fLt_eq ha hb, fLe_eq ha hb, ?_⟩, fun isMax ha =>
        ⟨fMinMax_nan_number isMax ha, fMinMax_nan_nan isMax ha⟩, fClass_inClass a⟩
    · obtain ⟨h1, h2, h3⟩ := fMadd_nan (rm := rm) h
      exact ⟨h1, h2, fun ha hb hz h4 h5 => h3 (not_or.2 ⟨ha, not_or.2 ⟨hb, hz⟩⟩) (not_or.2 ⟨h4, h5⟩)⟩
    · intro hi hs
      rw [(fMadd_inf ha hb hb0 hz).1, (fMadd_inf ha hb hb0 hz).2, (fAddV_inf hz _).1 hi hs]
      exact ⟨rfl, rfl⟩
    · intro hs
      rw [(fMadd_inf ha hb hb0 hz).1, (fMadd_inf ha hb hb0 hz).2, (fAddV_inf hz _).2 hs]
      exact ⟨rfl, rfl⟩
    · rw [fMinMax_numbers ha hb, fMinMax_numbers ha hb]
      refine ⟨fun h => ?_, fun h => ?_⟩
      · rw [decide_eq_true h]
        exact ⟨rfl, rfl⟩
      · rw [decide_eq_false h]
        exact ⟨rfl, rfl⟩
  · refine ⟨fOfInt_word hrm i, fOfInt_fraction hrm i, ?_⟩
    rintro rfl
    exact ⟨rfl, rfl⟩
  · have := fPack_floatOf hrm i.toInt 0 false
    rwa [zpow_zero, mul_one] at this
  · intro n r most least high low
    exact ⟨fToInt_special _, fun ha => fToInt_finite hrm ha _⟩
end

section
/-! SUPPORT. The cause and status words that an entry leaves (05 R157, R165, section 5.7). -/
namespace Sys2Proof.Machine

@[simp] theorem getElem_bitAt {m j : Nat} (i : Nat) (hj : j < m) : (bitAt m i)[j] = decide (j = i) := by
  simp only [bitAt, BitVec.getElem_shiftLeft, show (1 : BitVec m) = 1#m from rfl, BitVec.getElem_one]
  rw [← decide_not, ← Bool.decide_and]
  exact decide_eq_decide.2 (by omega)

@[simp] theorem getElem_flag {m j : Nat} (i : Nat) (b : Bool) (hj : j < m) : (flag m i b)[j] = (b && decide (j = i)) := by
  cases b with
  | false => exact BitVec.getElem_zero hj
  | true => exact getElem_bitAt i hj

/-! The cause word. -/

section
variable (code : BitVec 9) (sub : BitVec 8) (knest int : Bool)

theorem getLsbD_causeWord {j : Nat} (hj : j < 24) : (causeWord code sub knest int).getLsbD j =
    (code.getLsbD j || (!decide (j < 9) && sub.getLsbD (j - 9)) || (knest && decide (j = 22)) || (int && decide (j = 23))) := by
  simp [causeWord, hj]

theorem bits_causeWord_code : bits (causeWord code sub knest int) 0 9 = code := by
  refine BitVec.eq_of_getLsbD_eq fun j hj => ?_
  rw [bits, BitVec.getLsbD_extractLsb', Nat.zero_add, getLsbD_causeWord _ _ _ _ (by omega)]
  simp [hj, show j ≠ 22 by omega, show j ≠ 23 by omega]

theorem bits_causeWord_sub : bits (causeWord code sub knest int) 9 8 = sub := by
  refine BitVec.eq_of_getLsbD_eq fun j hj => ?_
  rw [bits, BitVec.getLsbD_extractLsb', getLsbD_causeWord _ _ _ _ (by omega)]
  simp [hj, show 9 + j ≠ 22 by omega, show 9 + j ≠ 23 by omega]

theorem causeWord_knest : (causeWord code sub knest int).getLsbD 22 = knest := by
  rw [getLsbD_causeWord _ _ _ _ (by decide)]
  simp

theorem causeWord_int : (causeWord code sub knest int).getLsbD 23 = int := by
  rw [getLsbD_causeWord _ _ _ _ (by decide)]
  simp

end

/-! MSTATUS and KSTATUS on entry. -/

section
variable (v : VoiceCore) (l : Level)

theorem statusM_ie : (v.statusM l).getLsbD 0 = false := by simp [VoiceCore.statusM]
theorem statusM_pie : (v.statusM l).getLsbD 1 = v.mstatus.getLsbD 0 := by simp [VoiceCore.statusM]
theorem statusM_exl : (v.statusM l).getLsbD 4 = true := by simp [VoiceCore.statusM]
theorem statusM_recur : (v.statusM l).getLsbD 5 = (v.mstatus.getLsbD 5 || v.mstatus.getLsbD 4) := by
  simp [VoiceCore.statusM]
theorem statusM_twfi : (v.statusM l).getLsbD 6 = v.mstatus.getLsbD 6 := by simp [VoiceCore.statusM]
theorem statusM_bxpend : (v.statusM l).getLsbD 7 = v.mstatus.getLsbD 7 := by simp [VoiceCore.statusM]
theorem statusM_ppl : bits (v.statusM l) 2 2 = match l with | .user => 0 | .kernel => 1 | .monitor => 3 := by
  refine BitVec.eq_of_getLsbD_eq fun j hj => ?_
  obtain rfl | rfl : j = 0 ∨ j = 1 := by omega
  all_goals cases l <;> simp [bits, VoiceCore.statusM]

theorem statusK_ie : (v.statusK l).getLsbD 0 = false := by simp [VoiceCore.statusK]
theorem statusK_pie : (v.statusK l).getLsbD 1 = v.kstatus.getLsbD 0 := by simp [VoiceCore.statusK]
theorem statusK_ppl : (v.statusK l).getLsbD 2 = decide (l = .kernel) := by simp [VoiceCore.statusK]
theorem statusK_exl : (v.statusK l).getLsbD 3 = true := by simp [VoiceCore.statusK]
theorem statusK_xs : (v.statusK l).getLsbD 4 = v.kstatus.getLsbD 4 := by simp [VoiceCore.statusK]

end

end Sys2Proof.Machine
end

section
/-! SUPPORT. What an entry changes in the state (05 R157, R158; 16 Table 16.1), and O22. -/
namespace Sys2Proof.Machine

theorem Traced.core {s t : State} (h : Traced s t) (d : Fin 12) : t.core d = s.core d := congrArg (·.core d) h.eq

/-- State `t` is `s` but that core `c` has become `v`, and but for the trace of the sections and the latches of Chorus. -/
structure CoreBecomes (s t : State) (c : Fin 12) (v : VoiceCore) : Prop where
  eq : t = { s with cores := s.cores.set c v, trace := t.trace, chorus := t.chorus }

section
variable {s t u : State} {c : Fin 12} {v w : VoiceCore}

theorem CoreBecomes.core (h : CoreBecomes s t c v) : t.core c = v :=
  (congrArg (·.core c) h.eq).trans (s.setCore_same c v)

theorem CoreBecomes.other (h : CoreBecomes s t c v) {d : Fin 12} (hd : d ≠ c) : t.core d = s.core d :=
  (congrArg (·.core d) h.eq).trans (s.setCore_other c d v hd)

theorem CoreBecomes.frame (h : CoreBecomes s t c v) : t = { s with cores := t.cores, trace := t.trace, chorus := t.chorus } := by
  rw [h.eq]

theorem State.modCore_becomes (s : State) (c : Fin 12) (f : VoiceCore → VoiceCore) : CoreBecomes s (s.modCore c f) c (f (s.core c)) :=
  ⟨rfl⟩

theorem State.self_becomes (s : State) (c : Fin 12) : CoreBecomes s s c (s.core c) :=
  ⟨by simp only [State.core, Fin.getElem_fin, Vector.set_getElem_self]⟩

theorem CoreBecomes.traced (h : CoreBecomes s t c v) (ht : Traced t u) : CoreBecomes s u c v :=
  ⟨by rw [ht.eq, h.eq]⟩

theorem Traced.becomes (hs : Traced s t) (h : CoreBecomes t u c v) : CoreBecomes s u c v :=
  ⟨by rw [h.eq, hs.eq]⟩

theorem CoreBecomes.trans (h : CoreBecomes s t c v) (hu : CoreBecomes t u c w) : CoreBecomes s u c w :=
  ⟨by rw [hu.eq, h.eq]; simp only [Vector.set_set]⟩

end

section
variable (s : State) (c : Fin 12)

theorem State.awake_becomes : CoreBecomes s (s.awake (.voice c)) c { s.core c with wfi := false } :=
  s.modCore_becomes c fun v => { v with wfi := false }

@[simp] theorem State.awake_core : (s.awake (.voice c)).core c = { s.core c with wfi := false } := (s.awake_becomes c).core

theorem State.enterMonitor_becomes (epc : DWord) (cause : Word) (detail off : DWord) :
    CoreBecomes s (s.enterMonitor c epc cause detail off) c ((s.core c).enterM epc cause detail off) := by
  have ht : Traced s (s.traceLeave c 1) := State.traceLeave_traced .refl
  rw [← ht.core c]
  exact ht.becomes ((s.traceLeave c 1).modCore_becomes c _)

theorem State.enterKernel_becomes (epc : DWord) (cause : Word) (detail off : DWord) :
    CoreBecomes s (s.enterKernel c epc cause detail off) c ((s.core c).enterK epc cause detail off) :=
  (s.modCore_becomes c _).traced (State.traceExc_traced .refl)

end

/-- A core that takes a synchronous exception (05 R157, R162 to R165; 07 R268). -/
def VoiceCore.takesExc (v : VoiceCore) (x : Exc) : VoiceCore :=
  let w := { v with mgwa := x.gwa.getD v.mgwa }
  if v.delegated x.code && !v.kstatus.getLsbD 3 then w.enterK v.pc (causeWord x.code x.sub false false) x.detail 0
  else w.enterM v.pc (causeWord x.code x.sub (v.delegated x.code) false) x.detail 0

theorem State.takeExc_becomes (s : State) (c : Fin 12) (x : Exc) : CoreBecomes s (s.takeExc c x) c ((s.core c).takesExc x) := by
  have enter (t : State) (ht : CoreBecomes s t c { s.core c with mgwa := x.gwa.getD (s.core c).mgwa }) :
      CoreBecomes s (if (s.core c).delegated x.code && !(s.core c).kstatus.getLsbD 3
        then t.enterKernel c (s.core c).pc (causeWord x.code x.sub false false) x.detail 0
        else t.enterMonitor c (s.core c).pc (causeWord x.code x.sub ((s.core c).delegated x.code) false) x.detail 0) c
        ((s.core c).takesExc x) := by
    unfold VoiceCore.takesExc
    split
    · exact ht.trans (ht.core ▸ t.enterKernel_becomes c _ _ _ _)
    · exact ht.trans (ht.core ▸ t.enterMonitor_becomes c _ _ _ _)
  obtain ⟨code, sub, detail, gwa⟩ := x
  cases gwa with
  | none => exact enter s (s.self_becomes c)
  | some g => exact enter _ (s.modCore_becomes c fun v => { v with mgwa := g })

theorem VoiceCore.delegated_iff (v : VoiceCore) (code : BitVec 9) : v.delegated code = true ↔
    v.level ≠ .monitor ∧ v.mdeleg.getLsbD code.toNat = true ∧ ¬(code = 2 ∧ v.level = .kernel) := by
  simp only [VoiceCore.delegated, Bool.and_eq_true, decide_eq_true_eq, Bool.not_eq_true', Bool.and_eq_false_iff, decide_eq_false_iff_not,
    not_and_or, and_assoc]

/-! The Conductor. -/

theorem State.cdrExc_halts {s : State} (h : s.cdr.cstatus.getLsbD 4 = true) (x : Exc) :
    s.cdrExc x = { s with cdr := { s.cdr with run := .halted, queue := [] } } := if_pos h

theorem State.cdrExc_enters {s : State} (h : s.cdr.cstatus.getLsbD 4 = false) (x : Exc) :
    s.cdrExc x = { s with cdr := s.cdr.enter (causeWord x.code x.sub false false) x.detail 0 } := if_neg (by rw [h]; decide)

section
variable (d : Conductor) (cause : Word) (detail off : DWord)

theorem Conductor.enter_cie : (d.enter cause detail off).cstatus.getLsbD 0 = false := by simp [Conductor.enter]
theorem Conductor.enter_cpie : (d.enter cause detail off).cstatus.getLsbD 1 = d.cstatus.getLsbD 0 := by simp [Conductor.enter]
theorem Conductor.enter_exl : (d.enter cause detail off).cstatus.getLsbD 4 = true := by simp [Conductor.enter]

end

end Sys2Proof.Machine

open Sys2Proof Sys2Proof.Machine

/-- Settles O22: the core that takes the exception becomes what entry to its level makes of it, and nothing else changes. -/
theorem exceptionEntrySavesState : Obligations.ExceptionEntrySavesState := by
  refine ⟨⟨fun c s x hg => ?_, fun s x => ?_⟩, fun c s x => ?_, fun s x => ?_⟩
  · intro v u deleg
    have hu : u = v.takesExc x := (s.takeExc_becomes c x).core
    have hdel : v.delegated x.code = true ↔ deleg := v.delegated_iff x.code
    have htaken : (v.delegated x.code && !v.kstatus.getLsbD 3) = true ↔ deleg ∧ v.kstatus.getLsbD 3 = false := by
      rw [Bool.and_eq_true, hdel, Bool.not_eq_true']
    clear_value u v
    subst hu
    unfold VoiceCore.takesExc
    rw [← htaken, hg]
    split
    · next h =>
      refine ⟨rfl, rfl, rfl, rfl, rfl, rfl, fun _ => ⟨rfl, BitVec.add_zero _, rfl, rfl, bits_causeWord_code .., bits_causeWord_sub ..,
        causeWord_int .., statusK_ie .., statusK_pie .., statusK_ppl .., statusK_exl .., statusK_xs .., rfl, rfl, rfl, rfl⟩,
        fun hn => absurd h hn⟩
    · next h =>
      refine ⟨rfl, rfl, rfl, rfl, rfl, rfl, fun hn => absurd hn h, fun _ => ⟨rfl, BitVec.add_zero _, rfl, rfl, bits_causeWord_code ..,
        bits_causeWord_sub .., ?_, causeWord_int .., statusM_ie .., statusM_pie .., statusM_ppl .., statusM_exl .., fun hx => ?_,
        statusM_twfi .., statusM_bxpend .., rfl, rfl, rfl, rfl⟩⟩
      · rw [Bool.eq_iff_iff, decide_eq_true_iff, ← hdel]
        exact Bool.eq_iff_iff.1 (causeWord_knest ..)
      · exact (statusM_recur ..).trans (by rw [hx, Bool.or_true])
  · intro u
    cases h : s.cdr.cstatus.getLsbD 4 with
    | true =>
      have hu : u = { s.cdr with run := .halted, queue := [] } := congrArg State.cdr (State.cdrExc_halts h x)
      rw [hu]
      exact ⟨rfl, fun _ => ⟨rfl, rfl, rfl⟩, nofun⟩
    | false =>
      have hu : u = s.cdr.enter (causeWord x.code x.sub false false) x.detail 0 := congrArg State.cdr (State.cdrExc_enters h x)
      rw [hu]
      exact ⟨rfl, nofun, fun _ => ⟨rfl, rfl, bits_causeWord_code .., bits_causeWord_sub .., BitVec.add_zero _, Conductor.enter_cie ..,
        Conductor.enter_cpie .., Conductor.enter_exl ..⟩⟩
  · exact ⟨fun d hd => (s.takeExc_becomes c x).other hd, (s.takeExc_becomes c x).frame⟩
  · unfold State.cdrExc
    split
    · rfl
    · rfl
end

section
/-! SUPPORT. ERET (05 R152, R159, R169, R170, R180), and O23. -/
namespace Sys2Proof.Machine

/-- A core once an instruction of it has retired. -/
theorem Retired.core {e t : State} {c : Fin 12} {p : DWord} (h : Retired e t (.voice c) p) :
    t.core c = { e.core c with pc := p, instret := (e.core c).instret + 1 } :=
  (congrArg (·.core c) h).trans (e.setCore_same c _)

/-! The status that a return leaves. -/

section
variable (v : VoiceCore)

theorem VoiceCore.eretK_status : let st := v.eretK.kstatus
    st.getLsbD 0 = v.kstatus.getLsbD 1 ∧ st.getLsbD 1 = true ∧ st.getLsbD 3 = false ∧ st.getLsbD 4 = v.kstatus.getLsbD 4 := by
  simp [VoiceCore.eretK]

theorem VoiceCore.eretM_status : let st := v.eretM.mstatus
    st.getLsbD 0 = v.mstatus.getLsbD 1 ∧ st.getLsbD 1 = true ∧ st.getLsbD 4 = false ∧ st.getLsbD 7 = v.mstatus.getLsbD 7 := by
  simp [VoiceCore.eretM]

end

theorem Conductor.eret_status (d : Conductor) : let st := d.eret.cstatus
    st.getLsbD 0 = d.cstatus.getLsbD 1 ∧ st.getLsbD 1 = true ∧ st.getLsbD 4 = false := by
  simp [Conductor.eret]

theorem mppl_bits {st : Word} (h : bits st 2 2 ≠ 2) : match mppl st with
    | .user => bits st 2 2 = 0
    | .kernel => bits st 2 2 = 1
    | .monitor => bits st 2 2 = 3 := by
  unfold mppl
  generalize bits st 2 2 = b at h ⊢
  have hb : b = 0 ∨ b = 1 ∨ b = 3 := by
    revert b
    decide
  obtain rfl | rfl | rfl := hb <;> rfl

theorem mppl_eq_monitor_iff (st : Word) : mppl st = .monitor ↔ ¬bits st 2 2 < 2 := by
  unfold mppl
  generalize bits st 2 2 = b
  revert b
  decide

theorem VoiceCore.eretExpiry_mepc (v : VoiceCore) : v.eretExpiry.mepc = v.mepc := by
  simp only [VoiceCore.eretExpiry, VoiceCore.enterM]

/-- A beat-expiry that is taken on the return saves the level and the enable that the return restores (R169). -/
theorem eretExpiry_status {v : VoiceCore} (h : bits v.mstatus 2 2 < 2) : let st := v.eretExpiry.mstatus
    bits st 2 2 = bits v.mstatus 2 2 ∧ st.getLsbD 1 = v.mstatus.getLsbD 1 ∧ st.getLsbD 0 = false ∧ st.getLsbD 7 = false := by
  intro st
  have hst : st = v.eretM.statusM (mppl v.mstatus) &&& ~~~(bitAt 24 7) := rfl
  have hlow : bits st 2 2 = bits (v.eretM.statusM (mppl v.mstatus)) 2 2 := by
    rw [hst, bits, BitVec.extractLsb'_and, show BitVec.extractLsb' 2 2 (~~~(bitAt 24 7)) = BitVec.allOnes 2 by decide, BitVec.and_allOnes, bits]
  have hlevel := mppl_bits (st := v.mstatus) (fun e => by rw [e] at h; exact absurd h (by decide))
  refine ⟨?_, ?_, ?_, ?_⟩
  · rw [hlow, statusM_ppl]
    revert hlevel
    cases mppl v.mstatus <;> exact Eq.symm
  · rw [hst, BitVec.getLsbD_and, statusM_pie, v.eretM_status.1, show (~~~(bitAt 24 7)).getLsbD 1 = true by decide, Bool.and_true]
  · rw [hst, BitVec.getLsbD_and, statusM_ie, Bool.false_and]
  · rw [hst, BitVec.getLsbD_and, show (~~~(bitAt 24 7)).getLsbD 7 = false by decide, Bool.and_false]

/-! What ERET does where it is ready. -/

section
variable {c : Fin 12} {word : Word} {r : State}

theorem eretBody_kernel (h : (r.core c).level = .kernel) : eretBody (.voice c) word r =
    .ok (Done.jump (r.core c).kepc [.target 1 (r.core c).kepc]) (r.modCore c VoiceCore.eretK) := by
  refine Exec.bind_get.trans ?_
  simp only [h, if_true]
  rfl

theorem eretBody_monitor (hl : (r.core c).level = .monitor)
    (h : mppl (r.core c).mstatus = .monitor ∨ ((r.core c).mptag ≠ 0 ∧ (r.core c).mstatus.getLsbD 7 = false)) :
    eretBody (.voice c) word r = .ok (Done.jump (r.core c).mepc []) (r.modCore c VoiceCore.eretM) := by
  refine Exec.bind_get.trans ?_
  by_cases hm : mppl (r.core c).mstatus = .monitor
  · simp only [hl, hm, if_true]
    rfl
  · obtain ⟨hp, hb⟩ := h.resolve_left hm
    simp only [hl, hm, hp, hb, if_false]
    rfl

theorem eretBody_illegal (hl : (r.core c).level = .monitor) (hm : mppl (r.core c).mstatus ≠ .monitor) (hp : (r.core c).mptag = 0) :
    eretBody (.voice c) word r = .error (.exc (Exc.of 0x01 (word.setWidth 48))) r := by
  refine Exec.bind_get.trans ?_
  simp only [hl, hm, hp, if_true, if_false]
  rfl

theorem eretBody_expiry (hl : (r.core c).level = .monitor) (hm : mppl (r.core c).mstatus ≠ .monitor) (hp : (r.core c).mptag ≠ 0)
    (hb : (r.core c).mstatus.getLsbD 7 = true) :
    eretBody (.voice c) word r = .ok (Done.jump ((r.core c).mvbase + 0x200) []) (r.modCore c VoiceCore.eretExpiry) := by
  refine Exec.bind_get.trans ?_
  simp only [hl, hm, hp, hb, if_true, if_false]
  rfl

end

/-- An ERET of a Voice core that completes leaves the core as its body does, at the address to which it returns. -/
theorem eret_returns {c : Fin 12} {f : Fetch} {s r : State} {g : VoiceCore → VoiceCore} {p : DWord} {evs : List TraceEv}
    (h : Ready s (.voice c) f (insnSys 6 0 0 0 true .kernel) r)
    (hb : eretBody (.voice c) (insnSys 6 0 0 0 true .kernel).word r = .ok (Done.jump p evs) (r.modCore c g)) :
    ∃ t, exec (.eret (.voice c) f 0 0 0) s = .next t ∧
      t.core c = { g (r.core c) with pc := p, instret := (g (r.core c)).instret + 1 } := by
  obtain ⟨t, ht, hr⟩ := runInsn_retired h hb
  exact ⟨t, ht, hr.core.trans (by rw [State.modCore_same]; rfl)⟩

end Sys2Proof.Machine

open Sys2Proof Sys2Proof.Machine

/-- Settles O23: the body of ERET is one of four, by the level, the previous level, MPTAG and BXPEND. -/
theorem exceptionReturns : Obligations.ExceptionReturns := by
  refine ⟨fun c f s r => ?_, fun f s r h => ?_⟩
  · intro k x v h
    have hmon : bits v.mstatus 2 2 < 2 → mppl v.mstatus ≠ .monitor := fun h2 hm => (mppl_eq_monitor_iff _).1 hm h2
    refine ⟨fun hl => ?_, fun hl hret h2 => ?_, fun hl h2 hp => runInsn_trapped h (eretBody_illegal hl (hmon h2) hp), fun hl h2 hp hb => ?_⟩
    · obtain ⟨t, ht, hu⟩ := eret_returns h (eretBody_kernel hl)
      refine ⟨t, ht, ?_⟩
      intro u
      rw [show u = _ from hu]
      exact ⟨rfl, rfl, v.eretK_status⟩
    · have hret : mppl v.mstatus = .monitor ∨ (v.mptag ≠ 0 ∧ v.mstatus.getLsbD 7 = false) :=
        hret.imp_left fun h3 => (mppl_eq_monitor_iff _).2 (by rw [h3]; decide)
      obtain ⟨t, ht, hu⟩ := eret_returns h (eretBody_monitor hl hret)
      refine ⟨t, ht, ?_⟩
      intro u
      rw [show u = _ from hu]
      exact ⟨rfl, mppl_bits h2, v.eretM_status⟩
    · obtain ⟨t, ht, hu⟩ := eret_returns h (eretBody_expiry hl (hmon h2) hp hb)
      refine ⟨t, ht, ?_⟩
      intro u
      rw [show u = _ from hu]
      obtain ⟨hppl, hpie, hie, hbx⟩ := eretExpiry_status h2
      dsimp only
      exact ⟨rfl, v.eretExpiry_mepc, bits_causeWord_code .., hppl, hpie, hie, hbx, rfl⟩
  · obtain ⟨t, ht, hr⟩ := runInsn_retired (u := { r with cdr := r.cdr.eret }) (d := Done.jump r.cdr.cepc []) (body := eretBody .conductor _)
      h rfl
    obtain ⟨hcie, hcpie, hexl⟩ := r.cdr.eret_status
    refine ⟨t, ht, ?_⟩
    rw [congrArg State.cdr hr]
    exact ⟨rfl, hcie, hcpie, hexl, rfl⟩
end

section
/-! SUPPORT. Interrupts, beat-expiry and deferred errors of the cores (05 R156, R166 to R168, R175), and O26. -/
namespace Sys2Proof.Machine

/-! The events as commands. -/

section
variable {s t : State} {c : Fin 12}

theorem exec_interruptEntry_voice (hi : s.issues c = true) (hbx : (s.core c).bx = none) (hd : (s.core c).derrDue = false)
    (ht : (s.awake (.voice c)).takeIrq c = some t) : exec (.interruptEntry (.voice c)) s = .next t := by
  show execInterruptEntry (.voice c) s = _
  simp only [execInterruptEntry, State.issuesAt, hi, hbx, hd, ht, Option.isSome_none, Option.getD_some, Bool.or_false, Bool.not_true,
    Bool.false_eq_true, if_false]

theorem exec_interruptEntry_conductor (hi : s.cdrIssues = true) (ht : (s.awake .conductor).cdrIrq = some t) :
    exec (.interruptEntry .conductor) s = .next t := by
  show execInterruptEntry .conductor s = _
  simp only [execInterruptEntry, State.issuesAt, hi, ht, Option.getD_some, Bool.not_true, Bool.false_eq_true, if_false]

theorem exec_beatExpiryEntry {p : BitVec 4} {b : BitVec 5} (hi : s.issues c = true) (hbx : (s.core c).bx = some (p, b)) :
    exec (.beatExpiryEntry c) s = .next ((s.awake (.voice c)).takeExpiry c p b) := by
  show execBeatExpiryEntry c s = _
  simp only [execBeatExpiryEntry, hi, hbx, Bool.not_true, Bool.false_eq_true, if_false]

theorem exec_deferredErrorEntry (hi : s.issues c = true) (hbx : (s.core c).bx = none) (hd : (s.core c).derrDue = true) :
    exec (.deferredErrorEntry c) s = .next ((s.awake (.voice c)).takeDerr c) := by
  show execDeferredErrorEntry c s = _
  simp only [execDeferredErrorEntry, hi, hbx, hd, Option.isNone_none, Bool.and_true, if_true]

theorem exec_deferredError (a : PAddr) (kind : BitVec 3) (hon : s.on = true) (hc : s.hasCore c = true) :
    exec (.deferredError c a kind) s = .next (s.modCore (deferOn c kind) fun v => v.defer a kind) := by
  show execDeferredError c a kind s = _
  simp only [execDeferredError, ifOn, hon, hc, if_true]

end

/-! What each event makes of the core. -/

theorem VoiceCore.enterM_w (v : VoiceCore) (epc : DWord) (cause : Word) (detail off : DWord) : (v.enterM epc cause detail off).w = v.w := rfl

section
variable (s : State) (c : Fin 12)

theorem State.takeIrq_monitor {n : Nat} (h : s.monIrqDue c = some n) :
    ∃ t, s.takeIrq c = some t ∧ CoreBecomes s t c ((s.core c).enterM (s.core c).pc (causeWord (BitVec.ofNat 9 n) 0 false true) 0 0x100) :=
  ⟨_, by rw [State.takeIrq, h], s.enterMonitor_becomes c _ _ _ _⟩

theorem State.takeIrq_kernel {n : Nat} (hm : s.monIrqDue c = none) (h : s.kerIrqDue c = some n) :
    ∃ t, s.takeIrq c = some t ∧ CoreBecomes s t c ((s.core c).enterK (s.core c).pc (causeWord (BitVec.ofNat 9 n) 0 false true) 0 0x100) :=
  ⟨_, by rw [State.takeIrq, hm]; dsimp only; rw [h], s.enterKernel_becomes c _ _ _ _⟩

theorem State.takeExpiry_taken (p : BitVec 4) (b : BitVec 5) (h : (s.core c).level ≠ .monitor) : CoreBecomes s (s.takeExpiry c p b) c
    ({ s.core c with mbexp := (s.core c).expiryRecord p b, bx := none }.enterM (s.core c).pc (causeWord 0x20 0 false false) 0 0x200) := by
  rw [State.takeExpiry]
  dsimp only
  rw [if_neg h]
  have hm := s.modCore_becomes c fun v => { v with mbexp := v.expiryRecord p b, bx := none }
  exact hm.trans (hm.core ▸ State.enterMonitor_becomes _ c _ _ _ _)

theorem State.takeExpiry_recorded (p : BitVec 4) (b : BitVec 5) (h : (s.core c).level = .monitor) :
    CoreBecomes s (s.takeExpiry c p b) c { (s.core c).deferExpiry p b with bx := none } := by
  rw [State.takeExpiry]
  dsimp only
  rw [if_pos h]
  exact s.modCore_becomes c fun v => { v.deferExpiry p b with bx := none }

theorem State.takeDerr_becomes :
    CoreBecomes s (s.takeDerr c) c ((s.core c).enterM (s.core c).pc (causeWord 0x21 0 false false) 0 0x300) :=
  s.enterMonitor_becomes c _ _ _ _

theorem State.cdrIrq_taken {n : Nat} (hc : s.cdr.cstatus.getLsbD 0 = true) (h : s.monIrq 12 = some n) :
    s.cdrIrq = some { s with cdr := s.cdr.enter (causeWord (BitVec.ofNat 9 n) 0 false true) 0 0x100 } := by
  rw [State.cdrIrq, if_pos hc, h]
  rfl

end

/-! The record of a deferred error. -/

theorem deferOn_eq (c : Fin 12) (kind : BitVec 3) :
    deferOn c kind = if kind = 2 ∨ kind = 3 then ⟨4 * (c.val / 4), by omega⟩ else c := by
  simp only [deferOn, siteOwner, Bool.or_eq_true, decide_eq_true_eq]

theorem paLo_eq_bits (a : PAddr) : paLo a = bits a 0 24 := BitVec.setWidth_eq_extractLsb' (by decide)

section
variable {v : VoiceCore} (a : PAddr) (kind : BitVec 3)

theorem VoiceCore.defer_first (h : v.mderrh.getLsbD 23 = false) :
    (v.defer a kind).mderr = bits a 0 24 ∧ (v.defer a kind).mderrh.getLsbD 23 = true := by
  rw [VoiceCore.defer, if_neg (by rw [h]; decide)]
  exact ⟨paLo_eq_bits a, by simp⟩

theorem VoiceCore.defer_again (h : v.mderrh.getLsbD 23 = true) :
    (v.defer a kind).mderr = v.mderr ∧ (v.defer a kind).mderrh.getLsbD 23 = true ∧ (v.defer a kind).mderrh.getLsbD 22 = true := by
  rw [VoiceCore.defer, if_pos h]
  exact ⟨rfl, (getLsbD_setBit _ _ _ (by decide)).trans h, getLsbD_setBit _ _ _ (by decide)⟩

end

end Sys2Proof.Machine

open Sys2Proof Sys2Proof.Machine

/-- Settles O26: each event that is due makes of its core what its entry says, and a deferred error changes one core's MDERR. -/
theorem coreEvents : Obligations.CoreEvents := by
  refine ⟨fun c n s => ?_, fun c n s => ?_, fun n s hi hcie hn => ?_, fun c p b s => ?_, fun c a kind s hon hc => ?_,
    fun c s hi hbx hd => ?_⟩
  · intro v hi hbx hd hn
    obtain ⟨t, ht, hb⟩ := State.takeIrq_monitor _ c hn
    refine ⟨t, exec_interruptEntry_voice hi hbx hd ht, ?_⟩
    rw [hb.core, State.awake_core]
    exact ⟨rfl, rfl, rfl, bits_causeWord_code .., causeWord_int .., statusM_ie .., statusM_pie .., statusM_exl .., rfl, rfl⟩
  · intro v hi hbx hd hm hn
    obtain ⟨t, ht, hb⟩ := State.takeIrq_kernel _ c hm hn
    refine ⟨t, exec_interruptEntry_voice hi hbx hd ht, ?_⟩
    rw [hb.core, State.awake_core]
    exact ⟨rfl, rfl, rfl, bits_causeWord_code .., causeWord_int .., statusK_ie .., statusK_pie .., statusK_exl .., rfl, rfl⟩
  · refine ⟨_, exec_interruptEntry_conductor hi (State.cdrIrq_taken _ hcie hn), rfl, rfl, bits_causeWord_code .., causeWord_int ..,
      Conductor.enter_cie .., ?_, rfl⟩
    exact (Conductor.enter_cpie ..).trans hcie
  · intro v hi hbx
    refine ⟨_, exec_beatExpiryEntry hi hbx, ?_⟩
    by_cases hl : v.level = .monitor
    · have hb := (s.awake (.voice c)).takeExpiry_recorded c p b (by rw [State.awake_core]; exact hl)
      rw [hb.core, State.awake_core]
      exact ⟨rfl, fun h => absurd hl h, fun _ => ⟨hl, rfl, setBit_true_getLsbD _ (by decide)⟩⟩
    · have hb := (s.awake (.voice c)).takeExpiry_taken c p b (by rw [State.awake_core]; exact hl)
      rw [hb.core, State.awake_core]
      exact ⟨rfl, fun _ => ⟨rfl, rfl, rfl, bits_causeWord_code .., rfl⟩, fun h => absurd h hl⟩
  · refine ⟨_, exec_deferredError a kind hon hc, ?_⟩
    rw [deferOn_eq]
    intro on
    have hb := s.modCore_becomes on fun v => v.defer a kind
    refine ⟨rfl, fun d hd => hb.other hd, ?_⟩
    rw [hb.core]
    cases hv : (s.core on).mderrh.getLsbD 23 with
    | false =>
      obtain ⟨haddr, hvalid⟩ := VoiceCore.defer_first a kind hv
      exact ⟨hvalid, fun _ => haddr, nofun⟩
    | true =>
      obtain ⟨haddr, hvalid, hmulti⟩ := VoiceCore.defer_again a kind hv
      exact ⟨hvalid, nofun, fun _ => ⟨haddr, hmulti⟩⟩
  · refine ⟨_, exec_deferredErrorEntry hi hbx hd, ?_⟩
    rw [(State.takeDerr_becomes _ c).core, State.awake_core]
    exact ⟨rfl, rfl, rfl, bits_causeWord_code .., VoiceCore.enterM_w ..⟩
end

section
/-! SUPPORT. The boundary before an instruction: fetch and decoding where nothing fails (04 R110, R113; 05 R156; 06 R186, R198), and O7. -/
namespace Sys2Proof.Machine

/-! The boundary. -/

section
variable {s r u : State} {k : Core} {f : Fetch} {x : Insn}

theorem State.boundary_fetches (hi : s.issuesAt k = true) (ha : (s.awake (initiatorOf k)).asyncAt k = none) (hu : f.ups = []) :
    s.boundary k f x = let e := (s.awake (initiatorOf k)).enterAt k
      match (do fetchInsn k f (e.pc k); decodeInsn k f x : Exec Unit) e with
      | .ok _ t => .ready t
      | .error e t => .over (t.trapped k e) := by
  simp only [State.boundary, hi, ha, hu]
  rfl

/-- An instruction that nothing comes before, that is fetched and that passes decoding, is ready. -/
theorem Ready.of_fetched (hi : s.issuesAt k = true) (ha : (s.awake (initiatorOf k)).asyncAt k = none) (hu : f.ups = [])
    (hr : (s.awake (initiatorOf k)).enterAt k = r) (hf : fetchInsn k f (r.pc k) r = .ok () u) (hd : decodeInsn k f x u = .ok () u) :
    Ready s k f x u := by
  rw [Ready, State.boundary_fetches hi ha hu, hr]
  dsimp only
  rw [Exec.bind_of_ok hf, hd]

/-- An instruction that is fetched and that decoding refuses is over, with its exception. -/
theorem State.boundary_refused {e : Exc} (hi : s.issuesAt k = true) (ha : (s.awake (initiatorOf k)).asyncAt k = none) (hu : f.ups = [])
    (hr : (s.awake (initiatorOf k)).enterAt k = r) (hf : fetchInsn k f (r.pc k) r = .ok () u)
    (hd : decodeInsn k f x u = .error (.exc e) u) : s.boundary k f x = .over (u.excAt k e) := by
  rw [State.boundary_fetches hi ha hu, hr]
  dsimp only
  rw [Exec.bind_of_ok hf, hd]
  rfl

end

/-! Decoding. -/

section
variable {f : Fetch} {x : Insn} {s : State}

theorem unassignedWord_eq_some {k : Core} {w : Word} (hw : f.word = some w) (hd : decodeInsnWord k f w = none)
    (he : f.ext.isSome = true ∨ bits w 18 6 ≠ 0x3F) : unassignedWord k f = some w := by
  have hp : (f.ext.isSome || (extPayload w).isNone) = true := by
    refine Bool.or_eq_true_iff.2 (he.imp_right fun h => ?_)
    rw [extPayload, if_neg (show w.extractLsb' 18 6 ≠ 0x3F from h)]
    rfl
  rw [unassignedWord, hw, Option.filter_some, hd, hp]
  rfl

theorem decodeInsn_unassigned {k : Core} {w : Word} (h : unassignedWord k f = some w) :
    decodeInsn k f x s = .error (.exc (Exc.of 0x01 (w.setWidth 48))) s := by
  refine Exec.bind_get.trans ?_
  simp only [h, Option.isSome_some, Option.getD_some, Bool.true_or, if_true]
  rfl

theorem decodeInsn_voice {c : Fin 12} (hw : unassignedWord (.voice c) f = none) (hlegal : x.legal = true)
    (hext : f.ext.isSome = true → x.extOk = true) (hlevel : (s.core c).level.atLeast x.level = true)
    (hxs : x.xs = true → (s.core c).kstatus.getLsbD 4 = true) (hfp : x.fp = true → (bits (s.core c).fcsr 0 3).toNat < 5) :
    decodeInsn (.voice c) f x s = .ok () s := by
  have h1 : (f.ext.isSome && !x.extOk) = false := Bool.and_eq_false_imp.2 fun e => by rw [hext e]; rfl
  have h2 : (x.fp && decide (5 ≤ (bits (s.core c).fcsr 0 3).toNat)) = false :=
    Bool.and_eq_false_imp.2 fun e => decide_eq_false (Nat.not_le.2 (hfp e))
  have h3 : (x.xs && !(s.core c).kstatus.getLsbD 4) = false := Bool.and_eq_false_imp.2 fun e => by rw [hxs e]; rfl
  refine Exec.bind_get.trans ?_
  simp only [hw, h1, h2, h3, hlegal, hlevel]
  rfl

theorem decodeInsn_conductor (hw : unassignedWord .conductor f = none) (hlegal : x.legal = true)
    (hext : f.ext.isSome = true → x.extOk = true) (hcdr : x.cdr = true) : decodeInsn .conductor f x s = .ok () s := by
  have h1 : (f.ext.isSome && !x.extOk) = false := Bool.and_eq_false_imp.2 fun e => by rw [hext e]; rfl
  refine Exec.bind_get.trans ?_
  simp only [hw, h1, hlegal, hcdr]
  rfl

end

/-! Fetch by a Voice core. -/

/-- The word that a pointer names untranslated is a word of memory that the line buffer of the core holds. -/
structure State.Buffered (s : State) (c : Fin 12) (p : DWord) : Prop where
  physical : physical p = true
  lane     : ptrLane p = 0
  mem      : s.inMem (ptrAddr p).toNat = true
  held     : (s.core c).buffers (ptrAddr p).toNat = true

/-- No translation is in force for a core, and none is about to be (07 R244, R288). -/
structure VoiceCore.Untranslated (v : VoiceCore) : Prop where
  off  : v.level = .monitor ∨ (v.inForce.kxlat.getLsbD 0 = false ∧ v.inForce.mxlat.getLsbD 0 = false)
  shut : v.xlatOpen = false

theorem State.plainType_of_inMem {s : State} {a : Nat} (h : s.inMem a = true) : s.plainType a = some .nc ∨ s.plainType a = some .wb := by
  rw [State.inMem, Bool.or_eq_true] at h
  rw [State.plainType]
  cases hs : inStage a with
  | true => exact .inl rfl
  | false =>
    have hd : s.inDram a = true := h.resolve_left (by rw [hs]; decide)
    have hr : inRegs a = false := by
      simp only [State.inDram, State.installed, Bool.and_eq_true, decide_eq_true_eq] at hd
      simp only [inRegs, Bool.and_eq_false_iff, decide_eq_false_iff_not]
      omega
    rw [hr, hd]
    exact .inr rfl

/-- An access of a core without translation uses the translation CSRs in force. -/
theorem reqOf_untranslated {s : State} {c : Fin 12} (hx : (s.core c).xlatOpen = false) (acc : Acc) (p : DWord) :
    reqOf c acc p s = .ok { c, acc, lvl := (s.core c).level, ptr := p, regs := (s.core c).inForce } s := by
  have : s.xlatRegs c = ((s.core c).inForce, s) := by simp only [State.xlatRegs, hx, Bool.not_false, if_true]
  show EStateM.Result.ok _ _ = _
  rw [this]

/-- The fetch of a word that the line buffer holds changes nothing (06 R186). -/
theorem voiceFetch_buffered {s : State} {c : Fin 12} {p : DWord} (hx : (s.core c).Untranslated) (hp : s.Buffered c p) :
    voiceFetch c [] p s = .ok () s := by
  let q : Req := { c, acc := .fetch, lvl := (s.core c).level, ptr := p, regs := (s.core c).inForce }
  have hs1 : q.s1 = false := by
    simp only [q, Req.s1, Bool.and_eq_false_iff, decide_eq_false_iff_not, not_not]
    exact hx.off.imp_right And.left
  have hs2 : q.s2 = false := by
    simp only [q, Req.s2, Bool.and_eq_false_iff, decide_eq_false_iff_not, not_not]
    exact hx.off.imp_right And.right
  have hok : q.ptrOk = true := by
    rw [Req.ptrOk, hs1]
    simp only [q, hp.lane, hp.physical]
    rfl
  have ht : q.translate s = .ok (ptrAddr p, s.plainType (ptrAddr p).toNat) s := by
    refine Exec.bind_get.trans ?_
    simp only [hs1, hs2]
    rfl
  refine (Exec.bind_of_ok (reqOf_untranslated hx.shut .fetch p)).trans ?_
  show (if !q.ptrOk then raise 0x09 p else _ : Exec Unit) s = _
  simp only [hok, hp.lane, Bool.not_true, Bool.false_eq_true, if_false, ne_eq, not_true_eq_false]
  refine (Exec.bind_of_ok ht).trans (Exec.bind_get.trans ?_)
  have hbad : sramBad 0 [] = false := rfl
  obtain hm | hm := State.plainType_of_inMem hp.mem
  all_goals
    simp only [hm, hp.mem, hp.held, hbad, Bool.and_false]
    rfl

/-- Words whose fetch changes nothing are fetched one after the other. -/
theorem fetchInsn_kept {s : State} {k : Core} {f : Fetch} {p : DWord}
    (h : ∀ q ∈ (if f.ext.isSome then [p, p + 4] else [p]), fetchWord k f q s = .ok () s) : fetchInsn k f p s = .ok () s := by
  unfold fetchInsn
  split
  · next he =>
    rw [if_pos he] at h
    exact (Exec.bind_of_ok (h p (by simp))).trans (h (p + 4) (by simp))
  · next he =>
    rw [if_neg he] at h
    exact h p (by simp)

section
variable (s : State) (c : Fin 12)

theorem State.enterSlot_core (d : Fin 12) : (s.enterSlot c).core d = s.core d := congrArg (·.core d) (s.enterSlot_eq c)

/-- The entry of a slot by a core that acts leaves the core, but that it no longer waits in WFI. -/
theorem State.entered_core : ((s.awake (.voice c)).enterSlot c).core c = { s.core c with wfi := false } := by
  rw [State.enterSlot_core, State.awake_core]

theorem State.entered_inMem (a : Nat) : ((s.awake (.voice c)).enterSlot c).inMem a = s.inMem a :=
  congrArg (·.inMem a) ((s.awake (.voice c)).enterSlot_eq c)

end

/-- The words of an instruction that the line buffer of a core holds are fetched, in the state in which the core has entered its slot. -/
theorem fetchInsn_voice {s : State} {c : Fin 12} {f : Fetch} (hu : f.ups = []) (hx : (s.core c).Untranslated)
    (hw : ∀ p ∈ (if f.ext.isSome then [(s.core c).pc, (s.core c).pc + 4] else [(s.core c).pc]), s.Buffered c p) :
    let r := (s.awake (.voice c)).enterSlot c
    fetchInsn (.voice c) f (r.pc (.voice c)) r = .ok () r := by
  intro r
  have hc : r.core c = { s.core c with wfi := false } := s.entered_core c
  have hpc : r.pc (.voice c) = (s.core c).pc := by rw [State.pc, hc]
  rw [hpc]
  refine fetchInsn_kept fun p hp => ?_
  obtain ⟨hphys, hlane, hmem, hheld⟩ := hw p hp
  show voiceFetch c f.ups p r = _
  rw [hu]
  refine voiceFetch_buffered ?_ ⟨hphys, hlane, (s.entered_inMem c _).trans hmem, ?_⟩
  · rw [hc]
    exact ⟨hx.off, hx.shut⟩
  · rw [hc]
    exact hheld

/-! Fetch by the Conductor. -/

/-- The fetch of a word of the Conductor succeeds, or did when the word was fetched ahead (06 R188, R198). -/
def State.cdrFetched (s : State) (p : DWord) : Bool :=
  match s.cdr.queue.find? fun x => x.1 = p.toNat with
  | some x => x.2
  | none => s.cdrReads p

/-- The prefetch queue after the fetch of a word: the four words that follow (06 R189). -/
def State.cdrAhead (s : State) (p : DWord) : List (Nat × Bool) :=
  (List.range 4).map fun i => let q := p + BitVec.ofNat 48 (4 * (i + 1)); (q.toNat, s.cdrFetched q)

/-- A pointer names a word of the Conductor's own SRAM, which the prefetch queue does not hold as failed. -/
structure State.CdrHolds (s : State) (p : DWord) : Prop where
  ok   : cdrPtrOk p = true
  lane : ptrLane p = 0
  priv : inPrivate p = true
  sram : ∃ o, privAt (ptrAddr p).toNat = some (.sram, o)
  held : ∀ e ∈ s.cdr.queue, e.1 = p.toNat → e.2 = true

section
variable {s : State} {p q : DWord}

theorem State.CdrHolds.fetched (h : s.CdrHolds p) : s.cdrFetched p = true := by
  obtain ⟨o, ho⟩ := h.sram
  unfold State.cdrFetched
  split
  · next e he => exact h.held e (List.mem_of_find?_eq_some he) (by simpa using List.find?_some he)
  · simp only [State.cdrReads, h.ok, h.priv, ho, if_true, Bool.true_and]

theorem cdrFetch_held (h : s.CdrHolds p) :
    cdrFetch [] p s = .ok () { s with cdr := { s.cdr with queue := s.cdrAhead p } } := by
  refine Exec.bind_get.trans ?_
  show (if !cdrPtrOk p then _ else if ptrLane p ≠ 0 then _ else if !s.cdrFetched p || (_ && sramBad 1 []) then _
    else set { s with cdr := { s.cdr with queue := s.cdrAhead p } } : Exec Unit) s = _
  have hbad : sramBad 1 [] = false := rfl
  simp only [h.ok, h.lane, h.fetched, hbad, Bool.and_false]
  rfl

/-- A word fetched ahead is in the queue as it was fetched. -/
theorem State.CdrHolds.ahead (h : s.CdrHolds q) : { s with cdr := { s.cdr with queue := s.cdrAhead p } }.CdrHolds q := by
  refine ⟨h.ok, h.lane, h.priv, h.sram, fun e he hq => ?_⟩
  obtain ⟨i, -, rfl⟩ := List.mem_map.1 he
  have : p + BitVec.ofNat 48 (4 * (i + 1)) = q := BitVec.eq_of_toNat_eq hq
  simp only [this, h.fetched]

/-- The words of an instruction in the Conductor's own SRAM are fetched, and only the prefetch queue changes. -/
theorem fetchInsn_conductor {f : Fetch} (hu : f.ups = []) (hw : ∀ q ∈ (if f.ext.isSome then [p, p + 4] else [p]), s.CdrHolds q) :
    ∃ l, fetchInsn .conductor f p s = .ok () { s with cdr := { s.cdr with queue := l } } := by
  unfold fetchInsn
  show ∃ l, (if f.ext.isSome then do cdrFetch f.ups p; cdrFetch f.ups (p + 4) else cdrFetch f.ups p : Exec Unit) s = _
  rw [hu]
  split
  · next he =>
    rw [if_pos he] at hw
    exact ⟨_, (Exec.bind_of_ok (cdrFetch_held (hw p (by simp)))).trans (cdrFetch_held (hw (p + 4) (by simp)).ahead)⟩
  · next he =>
    rw [if_neg he] at hw
    exact ⟨_, cdrFetch_held (hw p (by simp))⟩

end

end Sys2Proof.Machine

open Sys2Proof Sys2Proof.Machine

/-- Settles O7: where every word is held the fetch succeeds, and decoding then lets the instruction execute or names the word that is none;
no fetch changes what software sees. -/
theorem instructionBecomesReady : Obligations.InstructionBecomesReady := by
  refine ⟨⟨fun c f x s hi ha hu hoff hshut hw => ?_, fun f x s hi ha hu hw hun hlegal hcdr hext => ?_⟩,
    fun k f x s r hu hr => State.boundary_seen hr hu⟩
  · have hf := fetchInsn_voice (s := s) hu ⟨hoff, hshut⟩ fun p hp => by
      obtain ⟨hphys, hlane, hmem, bad, hline, hgood⟩ := hw p hp
      exact ⟨hphys, hlane, Bool.or_eq_true_iff.2 hmem, List.any_eq_true.2 ⟨_, hline, by simp [hgood]⟩⟩
    refine ⟨fun hun hlegal hext hlevel hxs hfp => ?_, fun w hword hnone he => ?_⟩
    · refine Ready.of_fetched hi ha hu rfl hf (decodeInsn_voice hun hlegal hext ?_ ?_ ?_)
      · exact s.entered_core c ▸ hlevel
      · exact s.entered_core c ▸ hxs
      · exact s.entered_core c ▸ hfp
    · exact State.boundary_refused hi ha hu rfl hf (decodeInsn_unassigned (unassignedWord_eq_some hword hnone he))
  · obtain ⟨l, hf⟩ := fetchInsn_conductor (s := s.awake .conductor) (p := s.cdr.pc) hu fun p hp => by
      obtain ⟨hok, hlane, hpriv, hsram, hheld⟩ := hw p hp
      exact ⟨hok, hlane, hpriv, hsram, hheld⟩
    exact ⟨l, Ready.of_fetched hi ha hu rfl hf (decodeInsn_conductor hun hlegal hext hcdr)⟩
end

section
/-! SUPPORT. A write of L3_ISO to a slice with 17 ways in use (06 R227), against O40. -/
namespace Sys2Proof.Machine

/-- The Conductor's write of L3_ISO to a slice that is present and has more than 16 ways in use is refused, whatever it isolates: the model
judges the pair of L3_EN and L3_ISO that the write would leave. -/
theorem State.wayMapWrite_l3iso_overfull {s : State} {n : Fin 4} (v : Word) (hn : n.val < s.die.variant.slices)
    (hfull : 16 < popcount s.caches.l3en[n]) : s.wayMapWrite .conductor (.l3iso n) v = s.rejectMap := by
  have hbad : okL3 s.caches.l3en[n] (v &&& 0x01FFFF) = false := by
    rw [okL3, decide_eq_false (Nat.not_le.2 hfull), Bool.false_and]
  show (if s.die.variant.slices ≤ n.val then s else s.mapL3 n s.caches.l3en[n] (v &&& 0x01FFFF)) = _
  rw [if_neg (Nat.not_le.2 hn), State.mapL3, hbad, if_neg Bool.false_ne_true]

/-- A running device whose L3 slice 0 has all 17 ways in use, way 0 of them isolated. R227 keeps a slice from having 17 ways in use, but the
statement asks the write of every state. -/
def State.overfullSlice : State :=
  { State.reset with
    pwr := { State.reset.pwr with state := .play }
    cdr := { State.reset.cdr with run := .running }
    caches := { Caches.reset with l3en := Caches.reset.l3en.set 0 0x01FFFF, l3iso := Caches.reset.l3iso.set 0 0x000001 } }

theorem State.overfullSlice_canAct : State.overfullSlice.canAct .conductor = true := by decide +kernel

/-- The Conductor clears L3_ISO of the slice, in vain. -/
theorem exec_l3iso_overfullSlice :
    exec (.wayMapWrite .conductor (.l3iso 0) 0) State.overfullSlice = .next (State.overfullSlice.awake .conductor).rejectMap :=
  (ifActs_acts (f := fun s => s.wayMapWrite .conductor (.l3iso 0) 0) State.overfullSlice_canAct).trans
    (congrArg _ (State.wayMapWrite_l3iso_overfull 0 (by decide) (by decide)))

end Sys2Proof.Machine

open Sys2Proof Sys2Proof.Machine

/-- Refutes O40: L3_ISO need not take a value that leaves a way in use and not isolated, for the write is refused too where more than 16 ways
of the slice are in use, which the clause does not exclude. -/
theorem not_echoAndCaches : ¬ Obligations.EchoAndCaches := by
  rintro ⟨-, -, -, hmaps, -⟩
  obtain ⟨-, hiso⟩ := hmaps .conductor 0 0
  obtain ⟨t, he, -, htaken⟩ := hiso State.overfullSlice State.overfullSlice_canAct ⟨rfl, by decide⟩
  obtain rfl := Host.Outcome.next.inj (exec_l3iso_overfullSlice.symm.trans he)
  obtain ⟨hset, -⟩ := htaken (by decide)
  exact absurd hset (by decide)
end

section
/-! SUPPORT. The barriers, BARWAIT and WFI where they are ready (02 R33 to R35; 04 section 4.8; 07 R284, R288), and O20. -/
namespace Sys2Proof.Machine

/-! The slot's record of a core once an instruction of it has retired. -/

theorem State.enterSlot_cbar (s : State) (c : Fin 12) : ∃ b, (s.enterSlot c).cbar c = { s.cbar c with entered := b } := by
  unfold State.enterSlot
  split
  · exact ⟨true, s.modCbar_same c _⟩
  · exact ⟨(s.cbar c).entered, rfl⟩

/-- Retirement writes no more into the slot's record than that the partition was entered (02 R32). -/
theorem State.retire_cbar (u r : State) (c : Fin 12) (f : Fetch) (d : Done) :
    ∃ b, (u.retire r (.voice c) f d).cbar c = { u.cbar c with entered := b } := by
  obtain ⟨ch, hcount⟩ := u.count_voice c (d.target.getD (nextPtr f (r.pc (.voice c))))
  rw [State.retire, hcount]
  generalize he : ({ u with cores := _, chorus := ch } : State) = e
  have hcbar : e.cbar c = u.cbar c := he ▸ rfl
  let v := r.core c
  let p := e.traceRetire c v.pc v.level v.mptag d.evs
  have hp : Traced e p := State.traceRetire_traced .refl
  have hq : Traced e (if d.leave then p.traceLeave c 0 else p) := Traced.ite (State.traceLeave_traced hp) hp
  obtain ⟨b, hb⟩ := (if d.leave then p.traceLeave c 0 else p).enterSlot_cbar c
  refine ⟨b, hb.trans ?_⟩
  rw [hq.eq, ← hcbar]
  rfl

/-- An instruction whose body completes leaves what its retirement leaves. -/
theorem runInsn_completes {s r u : State} {k : Core} {f : Fetch} {x : Insn} {body : Exec Done} {d : Done} (h : Ready s k f x r)
    (hb : body r = .ok d u) : runInsn k f x body s = .next (u.retire r k f d) := by
  rw [runInsn_ready h, State.perform, hb]

/-- An instruction that waits leaves the state in which it was ready. -/
theorem runInsn_waits {s r u : State} {k : Core} {f : Fetch} {x : Insn} {body : Exec Done} (h : Ready s k f x r)
    (hb : body r = .error .wait u) : runInsn k f x body s = .next u := by
  rw [runInsn_ready h, State.perform, hb]
  rfl

/-! TFENCE. -/

section
variable {r : State} {c : Fin 12}

theorem State.tlbiBusy_eq_false_iff :
    r.tlbiBusy c = false ↔ ∀ d : Fin 12, (r.core c).fenceOn.getLsbD d.val = true → r.stalledBy (.voice d) = false := by
  simp [State.tlbiBusy, allCores]

theorem tfenceBody_clear (h : r.tlbiBusy c = false) :
    tfenceBody (.voice c) r = .ok Done.seq (r.modCore c fun v => { v.settle with fenceOn := 0 }) := by
  refine Exec.bind_get.trans ?_
  simp only [h, Bool.false_eq_true, if_false]
  rfl

theorem tfenceBody_waits (h : r.tlbiBusy c = true) : tfenceBody (.voice c) r = .error .wait r := by
  refine Exec.bind_get.trans ?_
  simp only [h, if_true]
  rfl

/-! BARWAIT. -/

/-- The state in which DONE is set where the partition of the entry executes (02 R35). -/
def State.markDone (r : State) (c : Fin 12) : State := if r.enters c then r.modCbar c fun x => { x with done := true } else r

theorem State.markDone_cbar : (r.markDone c).cbar c = { r.cbar c with done := r.enters c || (r.cbar c).done } := by
  unfold State.markDone
  cases h : r.enters c
  · rfl
  · exact r.modCbar_same c fun x => { x with done := true }

/-- What the body of BARWAIT leaves while RUN is 1 (02 R34, R35). -/
def State.barwaited (r : State) (c : Fin 12) : State :=
  if (r.cbar c).bwmode then (r.markDone c).beatChange c true else (r.markDone c).modCore c fun v => { v with barHold := true }

theorem barwaitBody_stopped (h : r.bar.run = false) : barwaitBody (.voice c) r = .ok Done.seq r := by
  refine Exec.bind_get.trans ?_
  simp only [h, Bool.not_false, if_true]
  rfl

theorem barwaitBody_running (h : r.bar.run = true) :
    barwaitBody (.voice c) r = .ok { Done.seq with leave := true } (r.barwaited c) := by
  have hmode : ((r.markDone c).cbar c).bwmode = (r.cbar c).bwmode := by rw [State.markDone_cbar]
  refine Exec.bind_get.trans ?_
  simp only [h, Bool.not_true, Bool.false_eq_true, if_false]
  rw [State.barwaited, ← hmode]
  rfl

/-! WFI. -/

theorem wfiBody_stops {word : Word} (ht : (r.core c).level = .kernel → (r.core c).mstatus.getLsbD 6 = false) (he : r.wfiEnds c = false) :
    wfiBody (.voice c) word r = .ok Done.seq (r.modCore c fun v => { v with wfi := true }) := by
  refine Exec.bind_get.trans ?_
  have : (decide ((r.core c).level = .kernel) && (r.core c).mstatus.getLsbD 6) = false := by simpa using ht
  simp only [this, he]
  rfl

theorem wfiBody_ends {word : Word} (ht : (r.core c).level = .kernel → (r.core c).mstatus.getLsbD 6 = false) (he : r.wfiEnds c = true) :
    wfiBody (.voice c) word r = .ok Done.seq r := by
  refine Exec.bind_get.trans ?_
  have : (decide ((r.core c).level = .kernel) && (r.core c).mstatus.getLsbD 6) = false := by simpa using ht
  simp only [this, he]
  rfl

theorem wfiBody_traps {word : Word} (hl : (r.core c).level = .kernel) (ht : (r.core c).mstatus.getLsbD 6 = true) :
    wfiBody (.voice c) word r = .error (.exc (Exc.of 0x02 (word.setWidth 48))) r := by
  refine Exec.bind_get.trans ?_
  simp only [hl, ht]
  rfl

theorem wfiBody_conductor {word : Word} (h : r.monIrq 12 = none) :
    wfiBody .conductor word r = .ok Done.seq { r with cdr := { r.cdr with wfi := true } } := by
  refine Exec.bind_get.trans ?_
  simp only [h]
  rfl

end

/-! What BARWAIT leaves. -/

/-- State `u` is `r` but for the slots' records and the latches of Chorus. -/
structure SlotsOnly (r u : State) : Prop where
  eq : u = { r with bar := { r.bar with cores := u.bar.cores }, chorus := u.chorus }

section
variable {r u t : State} {c : Fin 12} {p : DWord}

theorem State.markDone_slotsOnly : SlotsOnly r (r.markDone c) := by
  unfold State.markDone
  split <;> exact ⟨rfl⟩

theorem SlotsOnly.modCore (h : SlotsOnly r u) (g : VoiceCore → VoiceCore) : SlotsOnly (r.modCore c g) (u.modCore c g) :=
  ⟨by rw [h.eq]; rfl⟩

theorem SlotsOnly.beatChange (h : SlotsOnly r u) : SlotsOnly r (u.beatChange c true) := by
  obtain ⟨ch, he⟩ := (u.modCbar c fun x => { x with bcReason := true }).edge_eq c 17
  exact ⟨by rw [State.beatChange, he, h.eq]; rfl⟩

/-- What retires with the slots' records changed retires without that change. -/
theorem SlotsOnly.retired (h : SlotsOnly r u) (ht : Retired u t (.voice c) p) : Retired r t (.voice c) p := by
  rw [Retired, h.eq] at ht
  exact ht

theorem State.beatChange_cbar : (r.beatChange c true).cbar c = { r.cbar c with bcReason := true } :=
  (State.edge_keeps (·.cbar c) (fun _ _ => rfl) _ _ _).trans (r.modCbar_same c fun x => { x with bcReason := true })

/-- A BARWAIT that completes retires in the state that its body leaves, with the slot's record of that state. -/
theorem barwait_retires {f : Fetch} {s : State} (h : Ready s (.voice c) f (insnSys 3 0 0 0 false .user) r)
    (hrun : r.bar.run = true) (hu : r.barwaited c = u) :
    ∃ t, exec (.barwait (.voice c) f 0 0 0) s = .next t ∧ Retired u t (.voice c) (nextPtr f (r.pc (.voice c))) ∧
      ∃ b, t.cbar c = { u.cbar c with entered := b } :=
  ⟨_, runInsn_completes h (hu ▸ barwaitBody_running hrun), u.retire_retired r _ f _, u.retire_cbar r c f _⟩

/-- BARWAIT while RUN is 1 and BWMODE is 0: the core is held (02 R34, R35). -/
theorem barwait_holds {f : Fetch} {s : State} (h : Ready s (.voice c) f (insnSys 3 0 0 0 false .user) r)
    (hrun : r.bar.run = true) (hm : (r.cbar c).bwmode = false) :
    ∃ t, exec (.barwait (.voice c) f 0 0 0) s = .next t ∧ (t.core c).barHold = true ∧ (t.cbar c).done = (r.enters c || (r.cbar c).done) ∧
      Retired (r.modCore c fun v => { v with barHold := true }) t (.voice c) (nextPtr f (r.pc (.voice c))) := by
  obtain ⟨t, he, hret, b, hb⟩ := barwait_retires h hrun (if_neg (by rw [hm]; decide))
  exact ⟨t, he, by rw [hret.core, State.modCore_same], by rw [hb]; exact congrArg CoreBar.done State.markDone_cbar,
    (State.markDone_slotsOnly.modCore _).retired hret⟩

/-- BARWAIT while RUN and BWMODE are 1: the core goes on, with a beat-change (02 R34, R35). -/
theorem barwait_goes_on {f : Fetch} {s : State} (h : Ready s (.voice c) f (insnSys 3 0 0 0 false .user) r)
    (hrun : r.bar.run = true) (hm : (r.cbar c).bwmode = true) :
    ∃ t, exec (.barwait (.voice c) f 0 0 0) s = .next t ∧ (t.core c).barHold = (r.core c).barHold ∧ (t.cbar c).bcReason = true ∧
      (t.cbar c).done = (r.enters c || (r.cbar c).done) ∧ Retired r t (.voice c) (nextPtr f (r.pc (.voice c))) := by
  obtain ⟨t, he, hret, b, hb⟩ := barwait_retires h hrun (if_pos hm)
  have hret := (State.markDone_slotsOnly.beatChange).retired hret
  rw [State.beatChange_cbar, State.markDone_cbar] at hb
  exact ⟨t, he, by rw [hret.core], by rw [hb], by rw [hb], hret⟩

end

end Sys2Proof.Machine

open Sys2Proof Sys2Proof.Machine

/-- Settles O20: each instruction retires with what its body leaves, but for a TFENCE that waits and a WFI that TWFI traps. -/
theorem barriersAndWaits : Obligations.BarriersAndWaits := by
  intro k f insn
  refine ⟨fun s r h _ => runReg_retired h, ?_, ?_, ?_, ?_, ?_⟩
  · rintro c rfl s r h -
    exact runReg_retired h
  · rintro rfl s r h -
    exact runReg_retired h
  · rintro c rfl clear_
    refine ⟨fun s r h hclear => runInsn_retired h (tfenceBody_clear (State.tlbiBusy_eq_false_iff.2 hclear)), fun s r h hbusy => ?_⟩
    exact runInsn_waits h (tfenceBody_waits (Bool.eq_true_of_not_eq_false (mt State.tlbiBusy_eq_false_iff.1 hbusy)))
  · rintro c rfl
    refine ⟨fun s r h hrun => runInsn_retired h (barwaitBody_stopped hrun), fun s r h hrun hm => ?_, fun s r h hrun hm => ?_,
      fun s r h ⟨he, ht⟩ => runInsn_retired h (wfiBody_stops ht he), fun s r h ⟨he, ht⟩ => runInsn_retired h (wfiBody_ends ht he),
      fun s r h ⟨hl, ht⟩ => runInsn_trapped h (wfiBody_traps hl ht)⟩
    · obtain ⟨t, he, hhold, hdone, hret⟩ := barwait_holds h hrun hm
      exact ⟨t, he, hhold, fun hin => by rw [hdone, hin, Bool.true_or], fun hout => by rw [hdone, hout, Bool.false_or], hret⟩
    · obtain ⟨t, he, hhold, hreason, hdone, hret⟩ := barwait_goes_on h hrun hm
      exact ⟨t, he, hhold, hreason, fun hin => by rw [hdone, hin, Bool.true_or], hret⟩
  · rintro rfl s r h hirq
    exact runInsn_retired h (wfiBody_conductor hirq)
end

section
/-! SUPPORT. DC.CLEAN in a state whose Stage SRAM is not in canonical form, against O25. -/
namespace Sys2Proof.Machine

/-- Core 0 runs at monitor level, and D4 points to word 0x100008 of Stage SRAM, which is dirty in the caches with value 0. In the list of
Stage SRAM a byte of that word stands before one of word 0x100000 and so hides it. No write leaves such a list (`State.Legal`), but the
statement asks the operation of every state. -/
def State.unsortedStage : State :=
  { State.reset with
    pwr := { State.reset.pwr with state := .play }
    cores := State.reset.cores.set 0 { VoiceCore.reset with
      released := true, pc := 0x400000, lineBuf := [(lineOf 0x100000, 0)], w := VoiceCore.reset.w.set 4 0x400020 }
    stage := [(24, 1), (0, 1)]
    caches := { Caches.reset with
      lines := [{ line := lineOf 0x100008, words := Vector.replicate 24 0, dirty := 1, poison := 0, l2 := 1, l3 := false, l1d := 0, l1i := 0
                  w2 := Vector.replicate 3 0, w3 := 0, below := none }] } }

theorem State.unsortedStage_ready : Ready State.unsortedStage (.voice 0) .plain (insnCmo 0 0 4 0 .user) State.unsortedStage := by
  unfold Ready
  decide +kernel

/-- The request of the DC.CLEAN. -/
def cleanStage : Req := { c := 0, acc := .clean, lvl := .monitor, ptr := 0x400020, regs := VoiceCore.reset.inForce }

theorem reqOf_cleanStage : reqOf 0 .clean (State.unsortedStage.rd (.voice 0) 4) State.unsortedStage = .ok cleanStage State.unsortedStage :=
  reqOf_untranslated (by decide +kernel) .clean _

theorem translate_cleanStage : cleanStage.translate State.unsortedStage = .ok (0x100008, some .nc) State.unsortedStage := rfl

/-- The clean word 0 takes the byte that hid word 0x100000 out of the list. -/
theorem State.unsortedStage_shows :
    (State.unsortedStage.perform (.voice 0) .plain (cmoBody (.voice 0) .clean 4 (cleanOp []))).raw 0x100000 ≠
      State.unsortedStage.raw 0x100000 := by
  decide +kernel

end Sys2Proof.Machine

open Sys2Proof Sys2Proof.Machine

/-- Refutes O25: DC.CLEAN need not leave the memory of every other line as it was, for where the list of Stage SRAM is not sorted, the
write-back of a zero uncovers a byte of another line. -/
theorem not_tlbAndCacheMaintenance : ¬ Obligations.TlbAndCacheMaintenance := by
  intro h
  obtain ⟨-, -, -, -, hclean, -⟩ := h 0 .plain 0 4 0
  obtain ⟨hcleaned, -⟩ := hclean _ _ _ _ _ _ _ State.unsortedStage_ready reqOf_cleanStage (by decide) translate_cleanStage
  obtain ⟨t, w, he, hret, -, hother, -⟩ := hcleaned ⟨.inr rfl, by decide⟩ rfl (by decide +kernel) (by decide +kernel)
  obtain rfl := Host.Outcome.next.inj ((runInsn_ready State.unsortedStage_ready).symm.trans he)
  have hraw : w.raw 0x100000 = State.unsortedStage.raw 0x100000 := hother 0x100000 (by decide)
  exact State.unsortedStage_shows ((congrArg (·.raw 0x100000) hret).trans hraw)
end

section
/-! SUPPORT. The selection of an interrupt at an interface (08 R306 to R308, R311), and O32. -/
namespace Sys2Proof.Machine

/-! RUNPRIO. -/

/-- A minimum over the elements that have a property is not above any of them. -/
theorem foldl_min_le {α : Type} (q : α → Prop) [DecidablePred q] (f : α → Nat) (b : Nat) {l : List α} {a : α} (ha : a ∈ l) (hq : q a) :
    l.foldl (fun m n => if q n then min m (f n) else m) b ≤ f a := by
  induction l using List.reverseRecOn with
  | nil => cases ha
  | append_singleton l n ih =>
    rw [List.foldl_concat]
    obtain h | rfl := (List.mem_append.1 ha).imp_right List.mem_singleton.1
    · have := ih h
      split <;> omega
    · rw [if_pos hq]
      exact Nat.min_le_right _ _

/-- RUNPRIO is not above the value of any source that is active at the interface (08 R311). -/
theorem State.runPrio_le {s : State} {i : Iface} {m : Nat} (hm : m ∈ sourceNumbers) (ha : (s.chorus.src i.target m).active = some i) :
    s.runPrio i ≤ (s.chorus.src i.target m).prio.toNat :=
  foldl_min_le (fun n => (s.chorus.src i.target n).active = some i) (fun n => (s.chorus.src i.target n).prio.toNat) 32 hm ha

/-! Deliverable sources. -/

theorem State.deliverable_iff (s : State) (i : Iface) (n : Nat) : s.deliverable i n = true ↔
    let x := s.chorus.src i.target n
    s.chorus.en = true ∧ n ≠ 18 ∧ s.srcPresent i.target n = true ∧ x.en = true ∧ s.isPending i.target n = true ∧ x.active = none ∧
      x.routesTo i = true ∧ x.prio.toNat < (s.pmask i).toNat ∧ x.prio.toNat < s.runPrio i := by
  simp only [State.deliverable, Bool.and_eq_true, bne_iff_ne, decide_eq_true_eq, Option.isNone_iff_eq_none, and_assoc]

theorem Src.routesTo_monitor (x : Src) (t : Nat) : x.routesTo (.monitor t) = true ↔ x.mode = false ∧ x.target.toNat = t := by
  simp [Src.routesTo]

theorem Src.routesTo_kernel (x : Src) (c p : Nat) :
    x.routesTo (.kernel c p) = true ↔ x.mode = true ∧ x.target.toNat = c ∧ x.part.toNat = p := by
  simp [Src.routesTo, Src.injects, and_assoc]

/-! The selection. -/

/-- The priority value of a source at an interface. -/
def State.prioAt (s : State) (i : Iface) (n : Nat) : Nat := (s.chorus.src i.target n).prio.toNat

/-- The selection `b` is that of the listed sources: the lowest value among the deliverable ones, then the lowest number (08 R308). -/
structure State.Selects (s : State) (i : Iface) (l : List Nat) (b : Option (Nat × Nat)) : Prop where
  best : ∀ n p, b = some (n, p) → n ∈ l ∧ s.deliverable i n = true ∧ p = s.prioAt i n ∧
    ∀ m ∈ l, s.deliverable i m = true → p < s.prioAt i m ∨ (p = s.prioAt i m ∧ n ≤ m)
  none : b = none → ∀ m ∈ l, s.deliverable i m = false

/-- The selection once source `n` is compared with the selection `b` of sources of lower numbers. -/
def State.prefer (s : State) (i : Iface) (b : Option (Nat × Nat)) (n : Nat) : Option (Nat × Nat) :=
  if s.deliverable i n = true ∧ ∀ x ∈ b, s.prioAt i n < x.2 then some (n, s.prioAt i n) else b

theorem State.best_eq (s : State) (i : Iface) : s.best i = sourceNumbers.foldl (s.prefer i) none := by
  unfold State.best
  congr 1
  funext b n
  unfold State.prefer State.prioAt
  cases hd : s.deliverable i n with
  | false => simp
  | true => cases b <;> simp

/-- Comparing a source of a higher number than all before it keeps the selection that of the sources so far. -/
theorem State.Selects.snoc {s : State} {i : Iface} {l : List Nat} {b : Option (Nat × Nat)} (h : s.Selects i l b) {n : Nat}
    (hl : ∀ m ∈ l, m < n) : s.Selects i (l ++ [n]) (s.prefer i b n) := by
  unfold State.prefer
  split
  · next hn =>
    obtain ⟨hd, hlow⟩ := hn
    refine ⟨fun k p hk => ?_, nofun⟩
    obtain ⟨rfl, rfl⟩ := Prod.mk.inj (Option.some.inj hk)
    refine ⟨by simp, hd, rfl, fun m hm hdm => ?_⟩
    obtain hm | rfl := (List.mem_append.1 hm).imp_right List.mem_singleton.1
    · cases b with
      | none => exact absurd (h.none rfl m hm) (by simp [hdm])
      | some x =>
        have hx : s.prioAt i n < x.2 := hlow x rfl
        obtain ⟨-, -, -, hx'⟩ := h.best x.1 x.2 rfl
        have := hx' m hm hdm
        omega
    · exact .inr ⟨rfl, Nat.le_refl _⟩
  · next hn =>
    refine ⟨fun k p hk => ?_, fun hb m hm => ?_⟩
    · obtain ⟨hkl, hdk, hp, hmin⟩ := h.best k p hk
      refine ⟨List.mem_append_left _ hkl, hdk, hp, fun m hm hdm => ?_⟩
      obtain hm | rfl := (List.mem_append.1 hm).imp_right List.mem_singleton.1
      · exact hmin m hm hdm
      · have hkm := hl k hkl
        have hnot : ¬s.prioAt i m < p := fun hlt => hn ⟨hdm, by simpa [hk] using hlt⟩
        omega
    · obtain hm | rfl := (List.mem_append.1 hm).imp_right List.mem_singleton.1
      · exact h.none hb m hm
      · simpa [hb] using hn

/-- Over sources in rising order, the comparisons find the selection. -/
theorem State.selects_of_pairwise (s : State) (i : Iface) {l : List Nat} (hl : l.Pairwise (· < ·)) :
    s.Selects i l (l.foldl (s.prefer i) none) := by
  induction l using List.reverseRecOn with
  | nil => exact ⟨nofun, nofun⟩
  | append_singleton l n ih =>
    obtain ⟨hl, -, hn⟩ := List.pairwise_append.1 hl
    rw [List.foldl_concat]
    exact (ih hl).snoc fun m hm => hn m hm n (List.mem_singleton_self n)

theorem sourceNumbers_rising : sourceNumbers.Pairwise (· < ·) := by
  refine List.pairwise_append.2 ⟨List.pairwise_lt_range, List.pairwise_lt_range.map _ fun a b h => Nat.add_lt_add_right h 48, ?_⟩
  intro a ha b hb
  obtain ⟨k, -, rfl⟩ := List.mem_map.1 hb
  have := List.mem_range.1 ha
  omega

theorem State.best_selects (s : State) (i : Iface) : s.Selects i sourceNumbers (s.best i) := by
  rw [State.best_eq]
  exact s.selects_of_pairwise i sourceNumbers_rising

end Sys2Proof.Machine

open Sys2Proof Sys2Proof.Machine

/-- Settles O32: a selection over sources in rising order keeps the lowest value seen, and a later source of the same value does not
replace it. -/
theorem selectionTakesTheHighestPriority : Obligations.SelectionTakesTheHighestPriority := by
  intro s i
  refine ⟨fun n hd => ?_, fun n p hb => ((s.best_selects i).best n p hb).2, (s.best_selects i).none⟩
  obtain ⟨hen, hn, -, hx, hpend, hact, hroute, hmask, hrun⟩ := (s.deliverable_iff i n).1 hd
  refine ⟨hen, hx, hact, hpend, hn, hmask, fun m hm ha => Nat.lt_of_lt_of_le hrun (State.runPrio_le hm ha), ?_⟩
  cases i with
  | monitor t => exact (Src.routesTo_monitor _ t).1 hroute
  | kernel c p => exact (Src.routesTo_kernel _ c p).1 hroute
end

section
/-! SUPPORT. Edges and levels of interrupt inputs, and the doorbells (08 R299, R300, R302, R304, R321, R331). -/
namespace Sys2Proof.Machine

/-- The state with one source of Chorus replaced. -/
def State.setSrc (s : State) (t n : Nat) (x : Src) : State := { s with chorus := s.chorus.setSrc t n x }

/-! The inputs. -/

theorem State.edge_ite (s : State) (t n : Nat) : s.edge t n =
    if s.srcPresent t n = true ∧ (s.chorus.src t n).edge = true then s.setSrc t n { s.chorus.src t n with latch := true } else s :=
  if_congr (Bool.and_eq_true_iff ..) rfl rfl

/-- An edge of any source but the doorbells and source 18 is latched where the source is of edge kind (R300, R302). -/
theorem interruptEdge_latches (t : Fin 13) (n : BitVec 9) (h16 : 16 ≤ n.toNat) (h18 : n ≠ 18) :
    Occurs (.interruptEdge t n) (fun _ => True) fun s u =>
      let x := s.chorus.src t.val n.toNat
      u = if s.srcPresent t.val n.toNat = true ∧ x.edge = true then s.setSrc t.val n.toNat { x with latch := true } else s := by
  refine Occurs.of (fun _ => rfl) fun s _ _ => ?_
  rw [if_neg (Nat.not_lt.2 h16), if_neg h18]
  exact s.edge_ite _ _

/-- What a change of a level input makes of the state (R299). -/
def State.levelInput (s : State) (t n : Nat) (level : Bool) : State :=
  if s.srcPresent t n = true ∧ (s.chorus.src t n).edge = false then s.setSrc t n { s.chorus.src t n with input := level } else s

/-- The level is held while the device runs, and in Fermata for the sampling at the wake (R331). -/
theorem exec_levelInputChange {t : Fin 13} {n : BitVec 9} {level : Bool} {s : State} (h : s.on = true ∨ s.pwr.state = .fermata) :
    exec (.levelInputChange t n level) s = .next (s.levelInput t.val n.toNat level) := by
  refine congrArg Host.Outcome.next ((if_neg ?_).trans (if_congr ?_ rfl rfl))
  · intro hs
    obtain ⟨hoff, hst⟩ : s.on = false ∧ s.pwr.state ≠ .fermata := by simpa using hs
    simp [hoff, hst] at h
  · simp

theorem levelInputChange_holds (t : Fin 13) (n : BitVec 9) (level : Bool) : Occurs (.levelInputChange t n level) (fun _ => True) fun s u =>
    u = s.levelInput t.val n.toNat level :=
  fun _ hon _ => ⟨_, exec_levelInputChange (.inl hon), rfl⟩

/-! The doorbells. -/

theorem isPriv_iff (n : Nat) : isPriv n = true ↔ 16 ≤ n ∧ n ≤ 47 := by simp [isPriv]

theorem isPriv_doorbell {n : Nat} (h : n < 16) : isPriv n = false :=
  Bool.eq_false_iff.2 (mt (isPriv_iff n).1 (by omega))

theorem State.srcPresent_doorbell (s : State) (t : Nat) {n : Nat} (h : n < 16) : s.srcPresent t n = true := by
  simp [State.srcPresent, isPriv_doorbell h, show ¬n = 83 ∧ ¬204 ≤ n ∧ ¬n = 53 ∧ ¬n = 54 ∧ ¬n = 55 ∧ ¬n = 56 ∧ ¬n = 81 ∧ ¬60 ≤ n ∧
    ¬88 ≤ n ∧ ¬92 ≤ n ∧ ¬192 ≤ n by omega]

/-- A shared source, replaced, is the only shared one that changes. -/
theorem Chorus.src_setSrc_shared (ch : Chorus) (t u : Nat) {n m : Nat} (x : Src) (hn : isPriv n = false) (hm : isPriv m = false) :
    (ch.setSrc t n x).src u m = if m = n then x else ch.src u m := by
  simp only [Chorus.src, Chorus.setSrc, hn, hm, Bool.false_eq_true, if_false, Tbl.get, Tbl.find_put]
  split <;> rfl

/-- A source once its PEND is written with `b`: an edge source becomes pending, or stays so. -/
def Src.ring (x : Src) (b : Bool) : Src := { x with latch := x.latch || (b && x.edge) }

theorem Src.ring_eq_self {x : Src} {b : Bool} (h : (b && x.edge) = false) : x.ring b = x :=
  congrArg (fun l => { x with latch := l }) (by rw [h, Bool.or_false] : (x.latch || (b && x.edge)) = x.latch)

@[simp] theorem Src.ring_false (x : Src) : x.ring false = x := Src.ring_eq_self (Bool.false_and _)

/-- The edge of a doorbell rings it, and leaves every other one. -/
theorem State.edge_doorbell (s : State) {n m : Nat} (hn : n < 16) (hm : m < 16) :
    (s.edge 0 n).chorus.src 0 m = (s.chorus.src 0 m).ring (decide (m = n)) := by
  rw [State.edge_ite]
  split
  · next h =>
    refine (Chorus.src_setSrc_shared _ _ _ _ (isPriv_doorbell hn) (isPriv_doorbell hm)).trans ?_
    split
    · next hmn => subst hmn; simp [Src.ring, h.2]
    · next hmn => rw [decide_eq_false hmn, Src.ring_false]
  · next h =>
    have he : (s.chorus.src 0 n).edge = false := by simpa [s.srcPresent_doorbell 0 hn] using h
    by_cases hmn : m = n
    · subst hmn; rw [Src.ring_eq_self (by rw [he, Bool.and_false])]
    · rw [decide_eq_false hmn, Src.ring_false]

theorem Src.ring_ring (x : Src) (a b : Bool) : (x.ring a).ring b = x.ring (a || b) := by
  simp only [Src.ring, Bool.or_assoc, Bool.and_or_distrib_right]

/-- The doorbells below `k` whose bits are set, rung. -/
def State.swdbBelow (s : State) (v : Word) (k : Nat) : State :=
  (List.range k).foldl (fun s n => if v.getLsbD n then s.edge 0 n else s) s

theorem State.swdbBelow_succ (s : State) (v : Word) (k : Nat) :
    s.swdbBelow v (k + 1) = if v.getLsbD k then (s.swdbBelow v k).edge 0 k else s.swdbBelow v k := by
  rw [State.swdbBelow, List.range_succ, List.foldl_concat]
  rfl

/-- Each of them is rung where its bit is set, and nothing outside Chorus changes. -/
theorem State.swdbBelow_rings (s : State) (v : Word) {k : Nat} (hk : k ≤ 16) :
    s.swdbBelow v k = { s with chorus := (s.swdbBelow v k).chorus } ∧
      ∀ m < 16, (s.swdbBelow v k).chorus.src 0 m = (s.chorus.src 0 m).ring (decide (m < k) && v.getLsbD m) := by
  induction k with
  | zero => exact ⟨rfl, fun m _ => (Src.ring_false _).symm⟩
  | succ k ih =>
    obtain ⟨hs, hsrc⟩ := ih (by omega)
    rw [State.swdbBelow_succ]
    split
    · next hv =>
      refine ⟨?_, fun m hm => ?_⟩
      · obtain ⟨ch, he⟩ := (s.swdbBelow v k).edge_eq 0 k
        rw [he, hs]
      · rw [State.edge_doorbell _ (by omega) hm, hsrc m hm, Src.ring_ring]
        obtain h | rfl | h := Nat.lt_trichotomy m k
        · simp [h, Nat.ne_of_lt h, show m < k + 1 by omega]
        · simp [hv]
        · simp [show ¬m < k by omega, show ¬m < k + 1 by omega, show ¬m = k by omega]
    · next hv =>
      refine ⟨hs, fun m hm => ?_⟩
      rw [hsrc m hm]
      by_cases h : m = k
      · subst h; simp [hv]
      · simp [show m < k + 1 ↔ m < k by omega]

theorem State.swdb_rings (s : State) (v : Word) : s.swdb v = { s with chorus := (s.swdb v).chorus } ∧
    ∀ n < 16, (s.swdb v).chorus.src 0 n = (s.chorus.src 0 n).ring (v.getLsbD n) := by
  obtain ⟨hs, hsrc⟩ := s.swdbBelow_rings v (Nat.le_refl 16)
  refine ⟨hs, fun n hn => ?_⟩
  have h := hsrc n hn
  rw [decide_eq_true hn, Bool.true_and] at h
  exact h

/-! Who may write. -/

/-- The initiator may write the configuration of source `x`: a Voice core at monitor level may where the Conductor does not own the
source, and a DMA engine never (R321). -/
def State.MayWrite (s : State) (w : Initiator) (x : Src) : Prop := match w with
  | .voice c => (s.core c).level = .monitor ∧ x.own = false
  | .dma _ => False
  | _ => True

theorem State.MayWrite.chorusAdmits {s : State} {w : Initiator} {x : Src} (h : s.MayWrite w x) : s.chorusAdmits w = true := by
  cases w with
  | voice c => exact decide_eq_true h.1
  | dma k => exact h.elim
  | conductor => rfl
  | debug => rfl
  | landing => rfl

/-- A write to CH_SWDB rings the doorbells of its bits (R304). -/
theorem chSwdb_rings (w : Initiator) (v : Word) : Accesses (.chSwdb w v) w (fun s => s.MayWrite w (sharedReset 0)) fun s u =>
    u = { s with chorus := u.chorus } ∧ ∀ n < 16, u.chorus.src 0 n = (s.chorus.src 0 n).ring (v.getLsbD n) := by
  refine Accesses.of (f := fun s => if s.chorusAdmits w then s.swdb v else s) (fun _ => rfl) fun s h => ?_
  rw [if_pos h.chorusAdmits]
  exact s.swdb_rings v

end Sys2Proof.Machine
end

section
/-! SUPPORT. The interface pages: claim, completion and timer at the interface of the initiator (08 R301, R303, R310 to R313, R319,
R322, R325). -/
namespace Sys2Proof.Machine

/-! The interface of the initiator. -/

/-- The interface that a page is for the initiator: a core's own, at kernel level that of its partition, and target 12 for the
Conductor. -/
def State.Mine (s : State) (w : Initiator) (kernel : Bool) (i : Iface) : Prop := match w, kernel with
  | .voice c, false => i = .monitor c.val
  | .voice c, true => (s.core c).mptag ≠ 0 ∧ i = .kernel c.val (s.core c).mptag.toNat
  | .conductor, false => i = .monitor 12
  | _, _ => False

theorem State.mine_iff (s : State) (w : Initiator) (kernel : Bool) (i : Iface) : s.Mine w kernel i ↔ s.ifaceOf w kernel = some i := by
  cases w with
  | voice c =>
    cases kernel with
    | false => simp [State.Mine, State.ifaceOf, eq_comm]
    | true => by_cases h : (s.core c).mptag = 0 <;> simp [State.Mine, State.ifaceOf, h, eq_comm]
  | conductor => cases kernel <;> simp [State.Mine, State.ifaceOf, eq_comm]
  | _ => simp [State.Mine, State.ifaceOf]

/-- An access to a page leaves everything where it is none for the initiator, and otherwise acts at its interface. -/
theorem State.page_of {s u : State} {w : Initiator} {kernel : Bool} {post : Iface → Prop} (hnone : s.ifaceOf w kernel = none → u = s)
    (hsome : ∀ i, s.ifaceOf w kernel = some i → post i) :
    ((∀ i, ¬s.Mine w kernel i) → u = s) ∧ ∀ i, s.Mine w kernel i → post i := by
  simp only [State.mine_iff]
  exact ⟨fun h => hnone (Option.eq_none_iff_forall_ne_some.2 h), hsome⟩

section
variable {s : State} {w : Initiator} {kernel : Bool} {i : Iface}

theorem State.ifaceWrite_none (h : s.ifaceOf w kernel = none) (off : Nat) (v : Word) : s.ifaceWrite w kernel off v = s := by
  rw [State.ifaceWrite, h]

theorem State.ifaceWrite_complete (h : s.ifaceOf w kernel = some i) (v : Word) :
    s.ifaceWrite w kernel 1 v = s.completeAt i (bits v 0 9).toNat := by
  rw [State.ifaceWrite, h]
  rfl

theorem State.ifaceWrite_timer (h : s.ifaceOf w false = some i) (v : Word) : s.ifaceWrite w false 7 v = s.writeTimer i.target v := by
  rw [State.ifaceWrite, h]
  rfl

theorem State.ifaceRead_none (h : s.ifaceOf w kernel = none) (off : Nat) : (s.ifaceRead w kernel off).1 = s := by
  unfold State.ifaceRead
  rw [h]

theorem State.ifaceRead_claim (h : s.ifaceOf w kernel = some i) : s.ifaceRead w kernel 0 = s.claimAt i := by
  unfold State.ifaceRead
  rw [h]
  rfl

end

/-! Claims. -/

theorem State.claimAt_none {s : State} {i : Iface} (h : s.best i = none) : (s.claimAt i).1 = s := by
  rw [State.claimAt, h]

theorem State.claimAt_some {s : State} {i : Iface} {n p : Nat} (h : s.best i = some (n, p)) :
    (s.claimAt i).1 = s.setSrc i.target n { s.chorus.src i.target n with active := some i, latch := false } := by
  rw [State.claimAt, h]
  rfl

/-- A claim makes the selected source active at the interface, and its edge is taken (R301, R310). -/
theorem claimIrq_claims (w : Initiator) (kernel : Bool) : Accesses (.claimIrq w kernel) w (fun _ => True) fun s u =>
    ((∀ i, ¬s.Mine w kernel i) → u = s) ∧
    ∀ i, s.Mine w kernel i → (s.best i = none → u = s) ∧
      ∀ n p, s.best i = some (n, p) → u = s.setSrc i.target n { s.chorus.src i.target n with active := some i, latch := false } := by
  refine Accesses.of (fun _ => rfl) fun s _ => State.page_of (fun h => State.ifaceRead_none h 0) fun i hi => ?_
  rw [State.ifaceRead_claim hi]
  exact ⟨State.claimAt_none, fun n p => State.claimAt_some⟩

/-! Completions. -/

/-- A source is completed where it is active, or at the monitor interface of the core at whose kernel interface it is (R312, R313). -/
theorem activeFor_iff (x : Src) (i : Iface) :
    activeFor x i = true ↔ x.active = some i ∨ ∃ c p, x.active = some (.kernel c p) ∧ i = .monitor c := by
  unfold activeFor
  cases x.active with
  | none => simp
  | some j =>
    cases j with
    | monitor t => simp
    | kernel c p =>
      cases i with
      | monitor t => simp [eq_comm (a := c)]
      | kernel d q => simp

theorem State.completeAt_its {s : State} {i : Iface} {n : Nat} (h : activeFor (s.chorus.src i.target n) i = true) :
    s.completeAt i n = s.setSrc i.target n { s.chorus.src i.target n with active := none } := if_pos h

theorem State.completeAt_other {s : State} {i : Iface} {n : Nat} (h : ¬activeFor (s.chorus.src i.target n) i = true) :
    s.completeAt i n = { s with chorus := { s.chorus with badComp := true } } := if_neg h

/-- A completion ends an active source of the interface, and any other is noted as bad (R303, R312, R313). -/
theorem completeIrq_completes (w : Initiator) (kernel : Bool) (v : Word) :
    Accesses (.completeIrq w kernel v) w (fun _ => True) fun s u =>
      ((∀ i, ¬s.Mine w kernel i) → u = s) ∧
      ∀ i, s.Mine w kernel i →
        let n := (bits v 0 9).toNat
        let x := s.chorus.src i.target n
        let its : Prop := x.active = some i ∨ ∃ c p, x.active = some (.kernel c p) ∧ i = .monitor c
        (its → u = s.setSrc i.target n { x with active := none }) ∧
          (¬its → u = { s with chorus := { s.chorus with badComp := true } }) := by
  refine Accesses.of (fun _ => rfl) fun s _ => State.page_of (fun h => State.ifaceWrite_none h 1 v) fun i hi => ?_
  dsimp only
  rw [State.ifaceWrite_complete hi, ← activeFor_iff]
  exact ⟨State.completeAt_its, State.completeAt_other⟩

/-! The timer. -/

/-- A write of CORE_TMR starts the timer of the initiating target, or stops it (R325). -/
theorem coreTmrWrite_sets (w : Initiator) (v : Word) : Accesses (.coreTmrWrite w v) w (fun _ => True) fun s u =>
    ((∀ i, ¬s.Mine w false i) → u = s) ∧ ∀ i, s.Mine w false i → u = s.writeTimer i.target v :=
  Accesses.of (fun _ => rfl) fun _ _ =>
    State.page_of (fun h => State.ifaceWrite_none h 7 v) fun _ hi => State.ifaceWrite_timer hi v

/-- The timer of a target that ends is marked so, at the count that it was set to (R325). -/
theorem coreTimerExpiry_ends (t : Fin 13) (e : Nat) :
    Occurs (.coreTimerExpiry t) (fun s => Tbl.find s.chorus.timer t.val = some (e, false)) fun s u =>
      u = { s.until e with chorus := { (s.until e).chorus with timer := Tbl.put (s.until e).chorus.timer t.val (e, true) } } := by
  refine Occurs.of (fun _ => rfl) fun s _ h => ?_
  rw [h]

end Sys2Proof.Machine
end

section
/-! SUPPORT. Beat-expiry raised through Chorus (05 R167, R168; 08 R850). -/
namespace Sys2Proof.Machine

/-- The record of a beat-expiry at monitor level: the partition and the beat, and MULTI where one was pending already. -/
theorem VoiceCore.deferExpiry_record (v : VoiceCore) (p : BitVec 4) (beat : BitVec 5) : bits (v.deferExpiry p beat).mbexp 0 9 = beat ++ p ∧
    (v.mstatus.getLsbD 7 = true → (v.deferExpiry p beat).mbexp.getLsbD 9 = true) := by
  refine ⟨?_, fun h => by simp [VoiceCore.deferExpiry, h]⟩
  refine BitVec.eq_of_getLsbD_eq fun j hj => ?_
  simp only [VoiceCore.deferExpiry, VoiceCore.expiryRecord, bits, BitVec.getLsbD_extractLsb', BitVec.getLsbD_or, BitVec.getLsbD_append,
    BitVec.getLsbD_setWidth, BitVec.getLsbD_shiftLeft]
  obtain h | h := Nat.lt_or_ge j 4
  · simp [h, hj, show j < 24 by omega, show j ≠ 9 by omega]
  · simp [Nat.not_lt.2 h, hj, show j < 24 by omega, show j ≠ 9 by omega, BitVec.getLsbD_of_ge p j h, show j - 4 < 24 by omega]

/-- From `s` to `u` a beat-expiry of the current partition and beat, or of none while no bar runs, is raised on core `c`: it pends, or it
is recorded where the core executes at monitor level. -/
def State.Expires (s u : State) (c : Fin 12) : Prop :=
  let part := if s.bar.running then entryPart (s.entryNow c) else 0
  let beat := if s.bar.running then s.bar.beat else 0
  u = { s with cores := u.cores } ∧ (∀ d, d ≠ c → u.core d = s.core d) ∧
  let here : Prop := (s.core c).released = true ∧ (s.core c).level = .monitor
  (¬here → u.core c = { s.core c with bx := some (part, beat) }) ∧
  (here → (u.core c).mstatus.getLsbD 7 = true ∧ bits (u.core c).mbexp 0 9 = (beat ++ part : BitVec 9) ∧
    ((s.core c).mstatus.getLsbD 7 = true → (u.core c).mbexp.getLsbD 9 = true))

theorem State.pendBeatExpiry_eq (s : State) (c : Fin 12) : s.pendBeatExpiry c =
    s.raiseBeatExpiry c (if s.bar.running then entryPart (s.entryNow c) else 0) (if s.bar.running then s.bar.beat else 0) := by
  unfold State.pendBeatExpiry
  split
  · rfl
  · rfl

theorem State.pendBeatExpiry_expires (s : State) (c : Fin 12) : s.Expires (s.pendBeatExpiry c) c := by
  rw [State.pendBeatExpiry_eq, State.Expires]
  generalize (if s.bar.running = true then entryPart (s.entryNow c) else 0) = part
  generalize (if s.bar.running = true then s.bar.beat else 0) = beat
  obtain ⟨-, hstatus, hother⟩ := s.raiseBeatExpiry_core c part beat
  have hcore := s.modCore_same c fun v => if v.released && v.level = .monitor then v.deferExpiry part beat else { v with bx := some (part, beat) }
  refine ⟨rfl, hother, fun h => hcore.trans (if_neg (by simpa using h)), fun h => ⟨hstatus h, ?_⟩⟩
  have hdefer : (s.raiseBeatExpiry c part beat).core c = (s.core c).deferExpiry part beat := hcore.trans (if_pos (by simpa using h))
  rw [hdefer]
  exact (s.core c).deferExpiry_record part beat

/-- An edge of source 18 of a core raises a beat-expiry. -/
theorem interruptEdge_expires (t : Fin 13) (c : Fin 12) (htc : t.val = c.val) :
    Occurs (.interruptEdge t 18) (fun s => s.hasCore c = true) fun s u => s.Expires u c := by
  have ht : t.val < 12 := htc ▸ c.isLt
  obtain rfl : c = ⟨t.val, ht⟩ := Fin.ext htc.symm
  refine Occurs.of (fun _ => rfl) fun s _ hc => ?_
  rw [if_neg (by decide), if_pos rfl, dif_pos ht, if_pos hc]
  exact s.pendBeatExpiry_expires _

end Sys2Proof.Machine
end

section
/-! SUPPORT. Configuration words: what a write gives a source, PEND and UNPEND (08 R298, R304, R305, R321, R323, R849, R850), and O33. -/
namespace Sys2Proof.Machine

/-! Writes that are taken. -/

section
variable {s : State} {w : Initiator} {t n : Nat}

/-- A write by an initiator that may not make it changes nothing (R321). -/
theorem State.srcWrite_shut (h : ¬s.MayWrite w (s.chorus.src t n)) (v : Word) : s.srcWrite w t n v = s := by
  refine if_pos ?_
  cases w with
  | voice c =>
    have h : ¬((s.core c).level = .monitor ∧ (s.chorus.src t n).own = false) := h
    by_cases hl : (s.core c).level = .monitor
    · simp [(by simpa [hl] using h : (s.chorus.src t n).own = true)]
    · simp [State.chorusAdmits, hl]
  | dma k => simp [State.chorusAdmits]
  | _ => exact absurd trivial h

/-- What a write by an initiator that may make it leaves, by the source: number 18 has PEND alone, and a configuration that R323 refuses
is noted and not taken. -/
theorem State.srcWrite_taken (hp : s.srcPresent t n = true) (h : s.MayWrite w (s.chorus.src t n)) (v : Word) : s.srcWrite w t n v =
    if n = 18 then (if h : t < 12 then (if v.getLsbD 16 then s.pendBeatExpiry ⟨t, h⟩ else s) else s)
    else
      let y := srcFields (s.chorus.src t n) t n w.isCdr v
      if s.srcRefused y then { s with chorus := { s.chorus with cfgReject := true } }
      else s.setSrc t n { y with latch := if y.edge then ((y.latch && !v.getLsbD 17) || v.getLsbD 16) else y.latch } := by
  refine if_neg ?_
  cases w with
  | voice c => simp [hp, h.chorusAdmits, h.2]
  | dma k => exact h.elim
  | _ => simp [hp, h.chorusAdmits]

end

theorem State.srcPresent_expiry {s : State} {c : Fin 12} (h : s.hasCore c = true) : s.srcPresent c.val 18 = true := by
  have hv : c.val < s.die.variant.voices := of_decide_eq_true h
  simp [State.srcPresent, isPriv, hv, show c.val ≠ 12 by omega]

/-- A write of 1 to PEND of source 18 of a core raises a beat-expiry (R850). -/
theorem beatexpPend_expires (w : Initiator) (c : Fin 12) : Accesses (.beatexpPend w c) w
    (fun s => s.hasCore c = true ∧ s.MayWrite w (s.chorus.src c.val 18)) fun s u => s.Expires u c := by
  refine Accesses.of (f := fun s => s.srcWrite w c.val 18 (bitAt 24 16)) (fun _ => rfl) fun s ⟨hc, hw⟩ => ?_
  rw [State.srcWrite_taken (State.srcPresent_expiry hc) hw, if_pos rfl, dif_pos c.isLt, if_pos (by decide)]
  exact s.pendBeatExpiry_expires c

/-! PEND and UNPEND. -/

/-- The configuration fields of source `x` as `v` holds them (section 8.5). -/
structure Src.FieldsIn (x : Src) (v : Word) : Prop where
  prio : bits v 0 5 = x.prio
  en : v.getLsbD 5 = x.en
  target : bits v 6 4 = x.target
  mode : v.getLsbD 10 = x.mode
  part : bits v 11 4 = x.part
  edge : v.getLsbD 15 = x.edge
  own : v.getLsbD 20 = x.own

/-- Fields that are written as they are leave the source as it is. -/
theorem Src.FieldsIn.srcFields_eq {x : Src} {v : Word} (h : x.FieldsIn v) {t n : Nat} (hm : modeFixed t n = true → x.mode = false)
    (cdr : Bool) : srcFields x t n cdr v = x := by
  obtain ⟨hprio, hen, htarget, hmode, hpart, hedge, hown⟩ := h
  have hfixed : (x.mode && !modeFixed t n) = x.mode := by
    cases h : modeFixed t n with
    | false => simp
    | true => simp [hm h]
  simp only [srcFields, hprio, hen, htarget, hmode, hpart, hedge, hown, hfixed, ite_self, if_true]

/-- The fields lie in the bits below 16 and in bit 20. -/
theorem Src.FieldsIn.of_agree {x : Src} {v w : Word} (h : x.FieldsIn w)
    (hv : ∀ j, j < 16 ∨ j = 20 → v.getLsbD j = w.getLsbD j) : x.FieldsIn v := by
  have hbits {lo k : Nat} (hk : lo + k ≤ 16) : bits v lo k = bits w lo k := by
    refine BitVec.eq_of_getLsbD_eq fun j hj => ?_
    simp only [bits, BitVec.getLsbD_extractLsb', hv (lo + j) (.inl (by omega))]
  exact ⟨(hbits (by decide)).trans h.prio, (hv 5 (by decide)).trans h.en, (hbits (by decide)).trans h.target,
    (hv 10 (by decide)).trans h.mode, (hbits (by decide)).trans h.part, (hv 15 (by decide)).trans h.edge, (hv 20 (by decide)).trans h.own⟩

/-- The configuration word holds the fields of its source. -/
theorem State.srcWord_fields {s : State} {t n : Nat} (hp : s.srcPresent t n = true) : (s.chorus.src t n).FieldsIn (s.srcWord t n) := by
  unfold State.srcWord
  rw [hp]
  generalize s.chorus.src t n = x
  have hfield {k : Nat} (lo : Nat) {w : Word} {y : BitVec k} (h : ∀ j < k, w.getLsbD (lo + j) = y.getLsbD j) : bits w lo k = y :=
    BitVec.eq_of_getLsbD_eq fun j hj => by rw [bits, BitVec.getLsbD_extractLsb', h j hj]; simp [hj]
  refine ⟨hfield _ fun j hj => ?_, ?_, hfield _ fun j hj => ?_, ?_, hfield _ fun j hj => ?_, ?_, ?_⟩
  · interval_cases j <;> simp
  · simp
  · interval_cases j <;> simp
  · simp
  · interval_cases j <;> simp
  · simp
  · simp

/-- The word that a write of 1 to PEND or UNPEND alone holds. -/
def State.actionWord (s : State) (t n k : Nat) : Word := s.srcKeep t n ||| bitAt 24 k

theorem State.getLsbD_actionWord (s : State) (t n k : Nat) {j : Nat} (hj : j < 24) :
    (s.actionWord t n k).getLsbD j = ((s.srcWord t n).getLsbD j && (0x10FFFF : Word).getLsbD j || decide (j = k)) := by
  rw [State.actionWord, State.srcKeep, BitVec.getLsbD_or, BitVec.getLsbD_and, BitVec.getLsbD_eq_getElem (x := bitAt 24 k) hj, getElem_bitAt]

/-- PEND and UNPEND lie outside the fields, which are written as they are. -/
theorem State.actionWord_fields {s : State} {t n k : Nat} (hp : s.srcPresent t n = true) (hk : k = 16 ∨ k = 17) :
    (s.chorus.src t n).FieldsIn (s.actionWord t n k) := by
  have hmask : ∀ j < 24, j < 16 ∨ j = 20 → (0x10FFFF : Word).getLsbD j = true := by decide
  refine (State.srcWord_fields hp).of_agree fun j hj => ?_
  rw [s.getLsbD_actionWord t n k (by omega), hmask j (by omega) hj, decide_eq_false (by omega), Bool.and_true, Bool.or_false]

theorem modeFixed_iff (t : Nat) (n : BitVec 9) : modeFixed t n.toNat = true ↔ n = 17 ∧ t < 12 := by
  simp [modeFixed, BitVec.toNat_eq]

theorem toNat_ne_18 {n : BitVec 9} (h : n ≠ 18) : n.toNat ≠ 18 := fun e => h (BitVec.eq_of_toNat_eq e)

/-- A write of 1 to PEND or UNPEND alone changes no more than the latch, where the source is one that may be configured so. -/
theorem State.srcWrite_action {s : State} {w : Initiator} {t : Nat} {n : BitVec 9} (h18 : n ≠ 18) (hp : s.srcPresent t n.toNat = true)
    (hw : s.MayWrite w (s.chorus.src t n.toNat)) (hr : s.srcRefused (s.chorus.src t n.toNat) = false)
    (hm : n = 17 → (s.chorus.src t n.toNat).mode = false) {k : Nat} (hk : k = 16 ∨ k = 17) {latch : Bool}
    (hlatch : let x := s.chorus.src t n.toNat
      (if x.edge then (x.latch && !decide (17 = k)) || decide (16 = k) else x.latch) = latch) :
    s.srcWrite w t n.toNat (s.actionWord t n.toNat k) = s.setSrc t n.toNat { s.chorus.src t n.toNat with latch } := by
  have hmask : (0x10FFFF : Word).getLsbD 16 = false ∧ (0x10FFFF : Word).getLsbD 17 = false := by decide
  rw [State.srcWrite_taken hp hw, if_neg (toNat_ne_18 h18),
    (State.actionWord_fields hp hk).srcFields_eq fun h => hm ((modeFixed_iff t n).1 h).1, ← hlatch]
  dsimp only
  rw [hr, s.getLsbD_actionWord t _ k (by decide), s.getLsbD_actionWord t _ k (by decide), hmask.1, hmask.2]
  simp only [Bool.false_eq_true, if_false, Bool.and_false, Bool.false_or]

/-- PEND makes an edge source pending, UNPEND takes its edge back, and an initiator that may not write changes nothing (R304, R305,
R321). -/
theorem pendIrq_unpendIrq_latch (w : Initiator) (t : Fin 13) (n : BitVec 9) (h18 : n ≠ 18) :
    let ok := fun (s : State) => let x := s.chorus.src t.val n.toNat
      s.srcPresent t.val n.toNat = true ∧ s.MayWrite w x ∧ s.srcRefused x = false ∧ (n = 17 → x.mode = false)
    Accesses (.pendIrq w t n) w ok (fun s u => let x := s.chorus.src t.val n.toNat
      u = s.setSrc t.val n.toNat { x with latch := x.latch || x.edge }) ∧
    Accesses (.unpendIrq w t n) w ok (fun s u => let x := s.chorus.src t.val n.toNat
      u = s.setSrc t.val n.toNat { x with latch := x.latch && !x.edge }) ∧
    Accesses (.pendIrq w t n) w (fun s => ¬s.MayWrite w (s.chorus.src t.val n.toNat)) (fun s u => u = s) :=
  let write := fun (k : Nat) (s : State) => s.srcWrite w t.val n.toNat (s.actionWord t.val n.toNat k)
  ⟨Accesses.of (f := write 16) (fun _ => rfl) fun s ⟨hp, hw, hr, hm⟩ =>
      State.srcWrite_action h18 hp hw hr hm (.inl rfl) (by cases he : (s.chorus.src t.val n.toNat).edge <;> simp [he]),
    Accesses.of (f := write 17) (fun _ => rfl) fun s ⟨hp, hw, hr, hm⟩ =>
      State.srcWrite_action h18 hp hw hr hm (.inr rfl) (by cases he : (s.chorus.src t.val n.toNat).edge <;> simp [he]),
    Accesses.of (f := write 16) (fun _ => rfl) fun _ h => State.srcWrite_shut h _⟩

/-! Configuration words. -/

/-- The configurations that R323 refuses: a target that is not on the device, and an injection without a partition or to target 12. -/
theorem State.srcRefused_iff (s : State) (x : Src) : s.srcRefused x = true ↔ 12 < x.target.toNat ∨
    (x.target.toNat < 12 ∧ s.hasCore x.target.toNat = false) ∨ (x.mode = true ∧ (x.part = 0 ∨ x.target = 12)) := by
  simp [State.srcRefused, or_assoc]

/-- A write to a configuration word gives the source its fields, or is refused and noted (R323, R849). -/
theorem srcCfgWrite_configures (w : Initiator) (t : Fin 13) (n : BitVec 9) (v : Word) (h18 : n ≠ 18) : Accesses (.srcCfgWrite w t n v) w
    (fun s => s.srcPresent t.val n.toNat = true ∧ s.MayWrite w (s.chorus.src t.val n.toNat)) fun s u =>
    let x := s.chorus.src t.val n.toNat
    let target : BitVec 4 := if 16 ≤ n.toNat ∧ n.toNat ≤ 47 then x.target else bits v 6 4
    let mode := v.getLsbD 10 && !(n = 17 && decide (t.val < 12))
    let refused : Prop := 12 < target.toNat ∨ (target.toNat < 12 ∧ s.hasCore target.toNat = false) ∨
      (mode = true ∧ (bits v 11 4 = 0 ∨ target = 12))
    (refused → u = { s with chorus := { s.chorus with cfgReject := true } }) ∧
    (¬refused → ∃ y : Src, u = s.setSrc t.val n.toNat y ∧ y.prio = bits v 0 5 ∧ y.en = v.getLsbD 5 ∧ y.target = target ∧
      y.mode = mode ∧ y.part = bits v 11 4 ∧ y.active = x.active ∧ y.input = x.input ∧
      y.edge = (if 112 ≤ n.toNat ∧ n.toNat ≤ 175 then v.getLsbD 15 else x.edge) ∧ y.own = if w = .conductor then v.getLsbD 20 else x.own) := by
  refine Accesses.of (f := fun s => s.srcWrite w t.val n.toNat v) (fun _ => rfl) fun s ⟨hp, hw⟩ => ?_
  rw [State.srcWrite_taken hp hw, if_neg (toNat_ne_18 h18)]
  extract_lets x target mode refused y
  have htarget : y.target = target := if_congr (isPriv_iff _) rfl rfl
  have hmode : y.mode = mode := by
    have hfixed : modeFixed t.val n.toNat = (n = 17 && decide (t.val < 12)) := by
      rw [Bool.eq_iff_iff, modeFixed_iff]
      simp
    exact congrArg (fun b => v.getLsbD 10 && !b) hfixed
  have hrefused : s.srcRefused y = true ↔ refused := by
    rw [State.srcRefused_iff, htarget, hmode]
    exact Iff.rfl
  refine ⟨fun h => if_pos (hrefused.2 h), fun h => ?_⟩
  rw [if_neg (mt hrefused.1 h)]
  exact ⟨_, rfl, rfl, rfl, htarget, hmode, rfl, rfl, rfl, if_congr (by simp) rfl rfl, if_congr decide_eq_true_iff rfl rfl⟩

end Sys2Proof.Machine

open Sys2Proof Sys2Proof.Machine

/-- Settles O33, by a lemma for each operation and event about what it leaves of the source, the timer or the core that it names. -/
theorem chorusOperations : Obligations.ChorusOperations :=
  ⟨interruptEdge_latches, interruptEdge_expires, levelInputChange_holds, fun _ _ _ _ _ hst => exec_levelInputChange (.inr hst),
    claimIrq_claims, completeIrq_completes, pendIrq_unpendIrq_latch, beatexpPend_expires, chSwdb_rings, srcCfgWrite_configures,
    coreTmrWrite_sets, coreTimerExpiry_ends⟩
end

section
/-! SUPPORT. Initialisation, refresh, patrol scrub and reservations of the memory controller (09 R348 to R358, R856), and O38. -/
namespace Sys2Proof.Machine

theorem isCdr_iff (w : Initiator) : w.isCdr = true ↔ w = .conductor := decide_eq_true_iff

theorem satInc_word_same (v : Word) : satInc v = if v = 0xFFFFFF then v else v + 1 := by
  rw [satInc_word]
  split
  · next h => exact h.symm
  · rfl

/-! Initialisation. -/

theorem mcInit_starts (w : Initiator) : Accesses (.mcInit w) w (fun _ => True) fun s t => t =
    if w ≠ .conductor ∨ s.mc.init = true ∨ s.mc.ready = true then s
    else if s.mc.speed = 7 ∨ s.mc.density = 3 then { s with mc := { s.mc with trainFail := true } }
    else { s with mc := { s.mc with init := true } } := by
  refine Accesses.of (f := fun s => if w.isCdr then s.initSet else s) (fun _ => rfl) fun s _ => ?_
  by_cases hw : w = .conductor
  · simp [Initiator.isCdr, hw, State.initSet, State.modMc]
  · simp [Initiator.isCdr, hw]

theorem initialisationEnd_fails : Occurs (.initialisationEnd .trainFail) (fun s => s.mc.init = true)
    (fun s t => t = { s with mc := { s.mc with init := false, trainFail := true } }) :=
  fun s hon hi => ⟨_, (rfl : _ = execInitialisationEnd .trainFail s).trans (ifOn_on hon), if_neg (by simp [hi])⟩

/-- The controller once DRAM is initialised: it serves DRAM, scrub reads the first burst, and refresh of each rank begins. -/
def MemCtl.served (m : MemCtl) (now : Nat) : MemCtl := { m with init := false, ready := true, scrubPos := 0 }.restart now

theorem MemCtl.served_instants (m : MemCtl) (now : Nat) : let refi := if m.ref2x then 3900 else 7800
    (m.served now).refreshAt[0] = now + refi ∧ (m.served now).refreshAt[1] = now + refi + refi / 2 ∧
    (m.served now).scrubAt = now + max 1 (min 168 m.scrubPeriod.toNat) * 3600000000000 / m.bursts := by
  simp [MemCtl.served, MemCtl.restart, MemCtl.tRefi, MemCtl.scrubStep, MemCtl.scrubHours, MemCtl.bursts]

theorem initialisationEnd_serves : Occurs (.initialisationEnd .ready) (fun s => s.mc.init = true) fun s t =>
    ∃ d, t = { s with mc := s.mc.served s.tempo.count, dram := [], chk := [], duet := d } ∧ (s.duet.en = false → d = s.duet) := by
  intro s hon hi
  refine ⟨_, (rfl : _ = execInitialisationEnd .ready s).trans (ifOn_on hon), ?_⟩
  dsimp only
  rw [if_neg (by simp [hi])]
  let u : State := { s with mc := s.mc.served s.tempo.count, dram := [], chk := [] }
  obtain ⟨d, hd⟩ := u.startTraining_eq
  cases he : s.duet.en
  · exact ⟨s.duet, if_neg (Bool.not_eq_true _ ▸ he : ¬s.duet.en = true), fun _ => rfl⟩
  · exact ⟨d, (if_pos he).trans hd, fun h => absurd h (by simp)⟩

/-! Refresh. -/

/-- The controller at the break of a quiet window. -/
def MemCtl.broken (m : MemCtl) : MemCtl :=
  { m with quietOver := true, refqBrk := true, refqBrkCnt := satInc m.refqBrkCnt, postponed := Vector.replicate 2 0 }

/-- The controller once it has set the next instant of refresh of a rank. -/
def MemCtl.rescheduled (m : MemCtl) (r : Fin 2) : MemCtl := { m with refreshAt := m.refreshAt.set r (m.refreshAt[r] + m.tRefi) }

/-- The state at the instant at which tREFI elapses on a rank, with the next one set. -/
def State.refreshInstant (s : State) (r : Fin 2) : State := (s.until s.mc.refreshAt[r]).modMc (·.rescheduled r)

@[simp] theorem State.refreshInstant_mc (s : State) (r : Fin 2) : (s.refreshInstant r).mc = s.mc.rescheduled r := by
  simp [State.refreshInstant]

@[simp] theorem State.refreshInstant_quiet (s : State) (r : Fin 2) : (s.refreshInstant r).quiet = s.quiet := by
  simp [State.refreshInstant, State.quiet, MemCtl.rescheduled]

/-- The controller's part of the instant, as a change of the state that time has brought. -/
theorem State.modMc_instant (s : State) (r : Fin 2) (f : MemCtl → MemCtl) : (s.refreshInstant r).modMc f =
    { s.until s.mc.refreshAt[r] with mc := f ((s.until s.mc.refreshAt[r]).mc.rescheduled r) } := rfl

section
variable {s : State} {r : Fin 2}

theorem State.refreshDue_quiet (h : s.quiet = true) :
    s.refreshDue r = if 7 ≤ s.mc.postponed[r] then s.modMc MemCtl.broken
      else s.modMc fun m => { m with postponed := m.postponed.set r (m.postponed[r] + 1) } := by
  rw [State.refreshDue, if_pos h]
  dsimp only
  refine if_congr ?_ rfl rfl
  simp

theorem State.refresh_issued (h : s.quiet = false) :
    s.refresh r = (s.refreshInstant r).modMc fun m => { m with ahead := m.ahead.set r false } := by
  have hq := (s.refreshInstant_quiet r).trans h
  rw [show s.refresh r = (s.refreshInstant r).refreshDue r from rfl, State.refreshDue, if_neg (by rw [hq]; exact Bool.false_ne_true)]

theorem State.refresh_quiet (h : s.quiet = true) :
    s.refresh r = if 7 ≤ s.mc.postponed[r] then (s.refreshInstant r).modMc MemCtl.broken
      else (s.refreshInstant r).modMc fun m => { m with postponed := m.postponed.set r (m.postponed[r] + 1) } := by
  rw [show s.refresh r = (s.refreshInstant r).refreshDue r from rfl, State.refreshDue_quiet ((s.refreshInstant_quiet r).trans h), State.refreshInstant_mc]
  rfl

theorem State.refresh_postponed (h : s.quiet = true) (hp : s.mc.postponed[r] < 7) :
    s.refresh r = (s.refreshInstant r).modMc fun m => { m with postponed := m.postponed.set r (m.postponed[r] + 1) } :=
  (State.refresh_quiet h).trans (if_neg (by omega))

theorem State.refresh_breaks (h : s.quiet = true) (hp : 7 ≤ s.mc.postponed[r]) : s.refresh r = (s.refreshInstant r).modMc MemCtl.broken :=
  (State.refresh_quiet h).trans (if_pos hp)
end

theorem State.refreshToBreak_over {s : State} (h : s.quiet = false) (r : Fin 2) (n : Nat) : s.refreshToBreak r n = s := by
  cases n with
  | zero => rfl
  | succ n => exact if_neg (by simp [h])

/-- What the break of a quiet window leaves of the state before it. -/
structure State.BreaksQuiet (s t : State) : Prop where
  mc : t.mc.quietOver = true ∧ t.mc.refqBrk = true ∧ t.mc.refqBrkCnt = satInc s.mc.refqBrkCnt ∧ t.mc.postponed = Vector.replicate 2 0
  bar : t.bar = s.bar
  dram : t.dram = s.dram
  time : s.tempo.count ≤ t.tempo.count

theorem State.refreshInstant_time (s : State) (r : Fin 2) : s.tempo.count ≤ (s.refreshInstant r).tempo.count := by
  simp [State.refreshInstant, State.until_count]

/-- As many refreshes as are left to the eighth postponed one break the window. -/
theorem State.refreshToBreak_breaks {r : Fin 2} {n : Nat} {s : State} (h : s.quiet = true) (h0 : 0 < n) (hn : 8 ≤ s.mc.postponed[r] + n) :
    s.BreaksQuiet (s.refreshToBreak r n) := by
  induction n generalizing s with
  | zero => omega
  | succ n ih =>
    have hstep : s.refreshToBreak r (n + 1) = (s.refresh r).refreshToBreak r n := if_pos h
    rw [hstep]
    by_cases hp : s.mc.postponed[r] < 7
    · rw [State.refresh_postponed h hp]
      generalize ht : (s.refreshInstant r).modMc _ = t
      have hq : t.quiet = true := by subst ht; exact (s.refreshInstant_quiet r).trans h
      have hpost : t.mc.postponed[r] = s.mc.postponed[r] + 1 := by subst ht; simp [MemCtl.rescheduled]
      obtain ⟨⟨hover, hflag, hcnt, hcaught⟩, hbar, hdram, htime⟩ := ih hq (by omega) (by omega)
      have hc : t.mc.refqBrkCnt = s.mc.refqBrkCnt := by subst ht; simp [MemCtl.rescheduled]
      exact ⟨⟨hover, hflag, hcnt.trans (by rw [hc]), hcaught⟩, hbar.trans (by subst ht; simp [State.refreshInstant]),
        hdram.trans (by subst ht; simp [State.refreshInstant]), (by subst ht; exact s.refreshInstant_time r : _ ≤ t.tempo.count).trans htime⟩
    · rw [State.refresh_breaks h (by omega), State.refreshToBreak_over (by simp [State.quiet, MemCtl.broken])]
      exact ⟨by simp [MemCtl.broken, MemCtl.rescheduled], by simp [State.refreshInstant], by simp [State.refreshInstant], s.refreshInstant_time r⟩

/-! Reads of DRAM: errors, their correction, and what else a read leaves alone. -/

/-- What reads of DRAM may change: DRAM and its check bits by correction, the error fields of the controller, and the Health event queue. -/
structure State.DramRead (s t : State) : Prop where
  frame : t = { s with mc := t.mc, dram := t.dram, chk := t.chk, health := t.health }
  mc : t.mc = { s.mc with
    ce := t.mc.ce, ue := t.mc.ue, ceCnt := t.mc.ceCnt, ceLog := t.mc.ceLog, ceInfo := t.mc.ceInfo, ueLog := t.mc.ueLog, ueInfo := t.mc.ueInfo }
  health : t.health = { s.health with evq := t.health.evq, lost := t.health.lost, ovf := t.health.ovf }

theorem State.DramRead.refl (s : State) : s.DramRead s := ⟨rfl, rfl, rfl⟩

theorem State.DramRead.trans {s t u : State} (h : s.DramRead t) (h' : t.DramRead u) : s.DramRead u :=
  ⟨h'.frame.trans (by rw [h.frame]), h'.mc.trans (by rw [h.mc]), h'.health.trans (by rw [h.health])⟩

theorem State.post_health (s : State) (src : BitVec 12) (kind : BitVec 2) : s.post src kind = { s with health := (s.post src kind).health } := by
  unfold State.post
  split
  · rfl
  · split <;> rfl

theorem State.post_read (s : State) (src : BitVec 12) (kind : BitVec 2) : s.DramRead (s.post src kind) := by
  unfold State.post
  split
  · exact .refl s
  · split <;> exact ⟨rfl, rfl, rfl⟩

theorem State.logCe_read (s : State) (rk : RdKind) (line beat dev : Nat) : s.DramRead (s.logCe rk line beat dev) := by
  refine .trans ?_ (State.post_read _ _ _)
  exact ⟨rfl, rfl, rfl⟩

theorem State.logUe_read (s : State) (rk : RdKind) (line beat : Nat) (marker : Bool) :
    s.DramRead (s.logUe rk line beat marker) := by
  refine .trans ?_ (State.post_read _ _ _)
  exact ⟨rfl, rfl, rfl⟩

theorem State.setChk_read (s : State) (key : Nat) (e : BitVec 8) : s.DramRead (s.setChk key e) := ⟨rfl, rfl, rfl⟩

theorem State.flipData_read (s : State) (line beat i : Nat) : s.DramRead (s.flipData line beat i) := by
  unfold State.flipData
  dsimp only
  split
  · exact ⟨rfl, rfl, rfl⟩
  · exact .refl s

theorem State.readBeat_read (s : State) (rk : RdKind) (line beat : Nat) : s.DramRead (s.readBeat rk line beat).1 := by
  unfold State.readBeat
  dsimp only
  split
  · exact .refl s
  · exact (s.setChk_read _ _).trans (State.logCe_read _ _ _ _ _)
  · exact ((s.flipData_read _ _ _).trans (State.setChk_read _ _ _)).trans (State.logCe_read _ _ _ _ _)
  · exact s.logUe_read _ _ _ _
  · exact (s.setChk_read _ _).trans (State.logUe_read _ _ _ _ _)

/-- The beats of a line are read one after the other. -/
theorem State.readBeats_cons (s : State) (rk : RdKind) (line b : Nat) (beats : List Nat) :
    (s.readBeats rk line (b :: beats)).1 = ((s.readBeat rk line b).1.readBeats rk line beats).1 := by
  have hmask (l : List Nat) (s : State) (m m' : BitVec 8) :
      (l.foldl (fun (s, m) b => let r := s.readBeat rk line b; (r.1, if r.2 then setBit m b true else m)) (s, m)).1 =
        (l.foldl (fun (s, m) b => let r := s.readBeat rk line b; (r.1, if r.2 then setBit m b true else m)) (s, m')).1 := by
    induction l generalizing s m m' with
    | nil => rfl
    | cons b l ih => exact ih _ _ _
  exact hmask beats _ _ _

theorem State.readBeats_read (s : State) (rk : RdKind) (line : Nat) (beats : List Nat) : s.DramRead (s.readBeats rk line beats).1 := by
  induction beats generalizing s with
  | nil => exact .refl s
  | cons b beats ih =>
    rw [State.readBeats_cons]
    exact (s.readBeat_read rk line b).trans (ih _)

/-- A beat whose check bits agree is read without effect. -/
theorem State.readBeat_clean {s : State} {line beat : Nat} (h : Tbl.get s.chk (beatKey line beat) 0 = 0) (rk : RdKind) :
    s.readBeat rk line beat = (s, false) := by
  have hd : eccDecode 0 = .clean := by decide
  rw [State.readBeat, h, hd]

theorem State.readBeats_clean {s : State} {line : Nat} {beats : List Nat} (h : ∀ b ∈ beats, Tbl.get s.chk (beatKey line b) 0 = 0)
    (rk : RdKind) : (s.readBeats rk line beats).1 = s := by
  induction beats with
  | nil => rfl
  | cons b beats ih =>
    rw [State.readBeats_cons, State.readBeat_clean (h b List.mem_cons_self)]
    exact ih fun b' hb => h b' (List.mem_cons_of_mem b hb)

/-- Reads leave the position and the instants of scrub, and the geometry. -/
theorem State.DramRead.scrub {s t : State} (h : s.DramRead t) :
    t.mc.scrubPos = s.mc.scrubPos ∧ t.mc.scrubAt = s.mc.scrubAt ∧ t.mc.bursts = s.mc.bursts := by
  rw [h.mc]
  exact ⟨rfl, rfl, rfl⟩

/-! Patrol scrub. -/

/-- The controller with the instant of the next scrub read set. -/
def MemCtl.scrubsAt (m : MemCtl) (n : Nat) : MemCtl := { m with scrubAt := n }

/-- Scrub reads the burst of its position and goes on to the next. -/
theorem State.scrub_advances (e : State) (n : Nat) : let t := (e.modMc (·.scrubsAt n)).scrub
    t.mc.scrubPos = (e.mc.scrubPos + 1) % e.mc.bursts ∧ t = { e with mc := t.mc, dram := t.dram, chk := t.chk, health := t.health } ∧
    t.mc.scrubAt = n ∧ ((∀ b < 8, Tbl.get e.chk (beatKey (178956970 + e.mc.scrubPos) b) 0 = 0) →
      t = { e with mc := { e.mc with scrubPos := t.mc.scrubPos, scrubAt := t.mc.scrubAt } }) := by
  let u : State := ((e.modMc (·.scrubsAt n)).readBeats .scrub (178956970 + e.mc.scrubPos)
    ((e.modMc (·.scrubsAt n)).storedBeats (178956970 + e.mc.scrubPos))).1
  have hu : (e.modMc (·.scrubsAt n)).DramRead u := State.readBeats_read _ _ _ _
  obtain ⟨hpos, hat, hbursts⟩ := hu.scrub
  have ht : (e.modMc (·.scrubsAt n)).scrub = u.modMc fun m => { m with scrubPos := (m.scrubPos + 1) % m.bursts } := rfl
  have hclean (h : ∀ b < 8, Tbl.get e.chk (beatKey (178956970 + e.mc.scrubPos) b) 0 = 0) : u = e.modMc (·.scrubsAt n) :=
    State.readBeats_clean (s := e.modMc (·.scrubsAt n)) (fun b hb => h b (List.mem_range.1 (List.mem_of_mem_filter hb))) _
  clear_value u
  dsimp only
  rw [ht]
  refine ⟨?_, ?_, hat, fun h => ?_⟩
  · rw [State.modMc_mc, hpos, hbursts]
    rfl
  · exact congrArg (fun v : State => { v with mc := (u.modMc fun m => { m with scrubPos := (m.scrubPos + 1) % m.bursts }).mc }) hu.frame
  · rw [hclean h]
    rfl

theorem patrolScrub_scrubs : Occurs (.patrolScrub []) (fun s => s.mc.ready = true ∧ s.mc.selfref = false ∧ s.mc.scrubEn = true) (fun s t =>
    let e := s.until s.mc.scrubAt
    t.mc.scrubPos = (s.mc.scrubPos + 1) % s.mc.bursts ∧ t = { e with mc := t.mc, dram := t.dram, chk := t.chk, health := t.health } ∧
    t.mc.scrubAt = s.mc.scrubAt + max 1 (min 168 s.mc.scrubPeriod.toNat) * 3600000000000 / s.mc.bursts ∧
    ((∀ b < 8, Tbl.get s.chk (8 * (178956970 + s.mc.scrubPos) + b) 0 = 0) →
      t = { e with mc := { e.mc with scrubPos := t.mc.scrubPos, scrubAt := t.mc.scrubAt } })) := by
  intro s hon ⟨hready, hself, hen⟩
  have hmc := s.until_mc s.mc.scrubAt
  have hchk := s.until_chk s.mc.scrubAt
  obtain ⟨hpos, hframe, hat, hclean⟩ := (s.until s.mc.scrubAt).scrub_advances
    ((s.until s.mc.scrubAt).mc.scrubAt + (s.until s.mc.scrubAt).mc.scrubStep)
  refine ⟨_, (ifOn_on hon).trans (congrArg _ (if_pos (by simp [hready, hself, hen]))), hpos.trans (by rw [hmc]), hframe, hat.trans ?_,
    fun h => hclean fun b hb => ?_⟩
  · rw [hmc, MemCtl.scrubStep, MemCtl.scrubHours]
  · rw [hmc, hchk]
    exact h b hb

/-! Reservations. -/

theorem Duet.active_iff (d : Duet) : d.active = true ↔ d.en = true ∧ d.state ≠ .off ∧ d.state ≠ .fatal := by
  simp [Duet.active, and_assoc]

theorem State.landSlots_eq (s : State) : s.landSlots = if s.duet.en = true ∧ s.duet.state ≠ .off ∧ s.duet.state ≠ .fatal then 12 else 0 :=
  if_congr s.duet.active_iff rfl rfl

theorem mcResvWrite_reserves (w : Initiator) (v : Word) : Accesses (.mcResvWrite w v) w (fun _ => True) fun s t =>
    let stream := bits v 0 4
    let dma := bits v 4 4
    let land_ := if s.duet.en = true ∧ s.duet.state ≠ .off ∧ s.duet.state ≠ .fatal then 12 else 0
    t = if w ≠ .conductor then s
      else if 12 < stream.toNat ∨ 8 < dma.toNat ∨ 32 < land_ + stream.toNat + dma.toNat then { s with mc := { s.mc with resvRej := true } }
      else { s with mc := { s.mc with resvStream := stream, resvDma := dma } } := by
  refine Accesses.of (f := fun s => if w.isCdr then s.resvWrite v else s) (fun _ => rfl) fun s _ => ?_
  dsimp only
  by_cases hw : w = .conductor
  · rw [← State.landSlots_eq, if_pos ((isCdr_iff w).2 hw), if_neg (not_not.2 hw)]
    exact if_congr (by simp [or_assoc]) rfl rfl
  · rw [if_neg (mt (isCdr_iff w).1 hw), if_pos hw]

end Sys2Proof.Machine

open Sys2Proof Sys2Proof.Machine

/-- Settles O38, by what each operation of the controller leaves: the eighth refresh breaks a quiet window, by induction on those left. -/
theorem memoryController : Obligations.MemoryController := by
  refine ⟨mcInit_starts, initialisationEnd_fails, fun s hon hi => ?_, fun r => ⟨fun s hon hr => ?_, fun s hon hr => ?_⟩,
    patrolScrub_scrubs, mcResvWrite_reserves⟩
  · obtain ⟨t, ht, d, rfl, hd⟩ := initialisationEnd_serves s hon hi
    exact ⟨_, ht, rfl, (s.mc.served_instants _).1, (s.mc.served_instants _).2.1, (s.mc.served_instants _).2.2, hd⟩
  · refine ⟨s.refresh r, (ifOn_on hon).trans (congrArg _ (if_pos hr)), fun hq => ?_, fun hq hp => ?_, fun hq hp => ?_⟩
    · exact (State.refresh_issued hq).trans (State.modMc_instant s r _)
    · exact (State.refresh_postponed hq hp).trans (State.modMc_instant s r _)
    · rw [State.refresh_breaks hq hp, State.modMc_instant, MemCtl.broken, satInc_word_same]
      rfl
  · refine ⟨s.refreshToBreak r 8, (ifOn_on hon).trans (congrArg _ (if_pos hr)), fun hq => State.refreshToBreak_over hq r 8, fun hq => ?_⟩
    obtain ⟨⟨hover, hflag, hcnt, hcaught⟩, hbar, hdram, htime⟩ := State.refreshToBreak_breaks (r := r) hq (by decide : 0 < 8) (by omega)
    exact ⟨hover, hflag, hcnt.trans (satInc_word_same _), hcaught, hbar, hdram, htime⟩
end

section
/-! SUPPORT. Flipped bits of a beat of DRAM and the check bits that tell of them (09 R341 to R347), and O39. -/
namespace Sys2Proof.Machine

/-! Memories in canonical form are told apart by what they read. -/

theorem Memory.byte_cons_of_lt {d : Byte} {j : Nat} {x : Byte} {t : Memory} {k : Nat} (h : k < j) : Memory.byte d ((j, x) :: t) k = d := by
  rw [Memory.byte, Tbl.get, Tbl.find, if_neg (by omega), if_pos h]
  rfl

theorem Memory.byte_cons_self {d : Byte} {j : Nat} {x : Byte} {t : Memory} : Memory.byte d ((j, x) :: t) j = x := by
  rw [Memory.byte, Tbl.get, Tbl.find, if_pos rfl]
  rfl

/-- The tail of a canonical memory reads as the memory does, but for its first byte. -/
theorem Memory.byte_tail {d : Byte} {j : Nat} {x : Byte} {t : Memory} (ht : Memory.wfFrom d (some j) t = true) (k : Nat) :
    Memory.byte d t k = if k = j then d else Memory.byte d ((j, x) :: t) k := by
  by_cases hk : k ≤ j
  · have hnone : Memory.byte d t k = d := by rw [Memory.byte, Tbl.get, Tbl.find_below ht hk]; rfl
    rw [hnone]
    split
    · rfl
    · exact (Memory.byte_cons_of_lt (by omega)).symm
  · rw [if_neg (by omega), Memory.byte, Memory.byte, Tbl.get, Tbl.get, Tbl.find.eq_2, if_neg (by omega), if_neg (by omega)]

theorem Memory.eq_of_byte_eq {d : Byte} {m n : Memory} {p q : Option Nat} (hm : Memory.wfFrom d p m = true) (hn : Memory.wfFrom d q n = true)
    (h : ∀ k, Memory.byte d m k = Memory.byte d n k) : m = n := by
  induction m generalizing n p q with
  | nil =>
    cases n with
    | nil => rfl
    | cons c n =>
      obtain ⟨k, y⟩ := c
      obtain ⟨-, hy, -⟩ := (Memory.wfFrom_cons ..).1 hn
      exact absurd ((h k).trans Memory.byte_cons_self).symm hy
  | cons c m ih =>
    obtain ⟨j, x⟩ := c
    obtain ⟨-, hx, htm⟩ := (Memory.wfFrom_cons ..).1 hm
    have hj := h j
    rw [Memory.byte_cons_self] at hj
    cases n with
    | nil => exact absurd hj hx
    | cons c n =>
      obtain ⟨k, y⟩ := c
      obtain ⟨-, hy, htn⟩ := (Memory.wfFrom_cons ..).1 hn
      have hk := h k
      rw [Memory.byte_cons_self] at hk
      obtain hlt | rfl | hlt := Nat.lt_trichotomy j k
      · exact absurd (hj.trans (Memory.byte_cons_of_lt hlt)) hx
      · rw [Memory.byte_cons_self] at hj
        subst hj
        rw [ih htm htn fun i => by rw [Memory.byte_tail htm (x := x), Memory.byte_tail htn (x := x), h i]]
      · exact absurd (hk.symm.trans (Memory.byte_cons_of_lt hlt)) hy

theorem lane_ofLanes (a b c : Byte) : lane (ofLanes a b c) 0 = a ∧ lane (ofLanes a b c) 1 = b ∧ lane (ofLanes a b c) 2 = c := by
  refine ⟨?_, ?_, ?_⟩
  all_goals
    apply BitVec.eq_of_getLsbD_eq
    intro i hi
    simp only [lane, ofLanes, BitVec.getLsbD_append, BitVec.getLsbD_setWidth, BitVec.getLsbD_ushiftRight]
    grind

theorem Memory.byte_eq_lane (d : Byte) (m : Memory) (k : Nat) : Memory.byte d m k = lane (Memory.word d m (k / 3)) (k % 3) := by
  obtain ⟨h0, h1, h2⟩ := lane_ofLanes (Memory.byte d m (3 * (k / 3))) (Memory.byte d m (3 * (k / 3) + 1)) (Memory.byte d m (3 * (k / 3) + 2))
  have hk := Nat.div_add_mod k 3
  rw [Memory.word]
  obtain h | h | h : k % 3 = 0 ∨ k % 3 = 1 ∨ k % 3 = 2 := by omega
  · rw [h, h0, show 3 * (k / 3) = k by omega]
  · rw [h, h1, show 3 * (k / 3) + 1 = k by omega]
  · rw [h, h2, show 3 * (k / 3) + 2 = k by omega]

/-- A word written and then written back leaves the memory as it was. -/
theorem Memory.setWord_restore {d : Byte} {m : Memory} (h : Memory.wf d m = true) (a : Nat) (v : Word) :
    Memory.setWord d (Memory.setWord d m a v) a (Memory.word d m a) = m := by
  have hv := Memory.setWord_wf a v h
  have hword (j : Nat) : Memory.word d (Memory.setWord d (Memory.setWord d m a v) a (Memory.word d m a)) j = Memory.word d m j := by
    rw [Memory.word_setWord hv, Memory.word_setWord h]
    split
    · next e => rw [e]
    · rfl
  exact Memory.eq_of_byte_eq (Memory.setWord_wf a _ hv) h fun k => by rw [Memory.byte_eq_lane, hword, ← Memory.byte_eq_lane]

/-- An entry put where none was and then deleted leaves the table as it was. -/
theorem Tbl.del_put {α : Type} {t : Tbl α} {k : Nat} (h : Tbl.find t k = none) (x : α) : Tbl.del (Tbl.put t k x) k = t := by
  induction t with
  | nil => simp [Tbl.put, Tbl.del]
  | cons c t ih =>
    obtain ⟨j, y⟩ := c
    rw [Tbl.find] at h
    rw [Tbl.put]
    split at h
    · cases h
    · next hne =>
      rw [if_neg hne]
      split
      · rw [Tbl.del, if_pos rfl]
      · next hlt =>
        rw [if_neg hlt] at h
        rw [Tbl.del, if_neg hne, if_neg hlt, ih h]

/-! The check bits. -/

theorem getLsbD_bitAt {m i k : Nat} (hk : k < m) : (bitAt m i).getLsbD k = decide (k = i) := by
  rw [BitVec.getLsbD_eq_getElem hk, getElem_bitAt]

/-- A fold that acts on one element of a list without repetition acts once. -/
theorem foldl_only {α : Type} (f : α → Nat → α) {l : List Nat} (hl : l.Nodup) (i : Nat) (a : α) :
    l.foldl (fun a k => if k = i then f a k else a) a = if i ∈ l then f a i else a := by
  induction l generalizing a with
  | nil => rfl
  | cons k l ih =>
    obtain ⟨hk, hl⟩ := List.nodup_cons.1 hl
    rw [List.foldl_cons, ih hl]
    by_cases h : k = i
    · subst h
      simp [hk]
    · simp [h, Ne.symm h]

/-- The flips of the bits that `p` selects. -/
def flipsOf (p : Nat → Bool) (l : List Nat) (e : BitVec 8) : BitVec 8 := l.foldl (fun e i => if p i then e ^^^ flipOf i else e) e

theorem flipsOf_xor (p : Nat → Bool) (l : List Nat) (e c : BitVec 8) : flipsOf p l (e ^^^ c) = flipsOf p l e ^^^ c := by
  induction l generalizing e with
  | nil => rfl
  | cons i l ih =>
    have hcomm : e ^^^ c ^^^ flipOf i = e ^^^ flipOf i ^^^ c := by rw [BitVec.xor_assoc, BitVec.xor_comm c, ← BitVec.xor_assoc]
    change flipsOf p l (if p i then e ^^^ c ^^^ flipOf i else e ^^^ c) = flipsOf p l (if p i then e ^^^ flipOf i else e) ^^^ c
    rw [← ih]
    split
    · rw [hcomm]
    · rfl

/-- Flips of different bits follow each other. -/
theorem flipsOf_or {p q : Nat → Bool} (h : ∀ i, ¬(p i = true ∧ q i = true)) (l : List Nat) (e : BitVec 8) :
    flipsOf (fun i => p i || q i) l e = flipsOf q l (flipsOf p l e) := by
  induction l generalizing e with
  | nil => rfl
  | cons i l ih =>
    change flipsOf _ l (if p i || q i then e ^^^ flipOf i else e) =
      flipsOf q l (if q i then flipsOf p l (if p i then e ^^^ flipOf i else e) ^^^ flipOf i else flipsOf p l (if p i then e ^^^ flipOf i else e))
    rw [ih]
    have hi := h i
    cases hp : p i <;> cases hq : q i <;> simp_all [flipsOf_xor]

theorem flipsOf_one {i : Nat} (hi : i < 80) (e : BitVec 8) : flipsOf (fun k => decide (k = i)) (List.range 80) e = e ^^^ flipOf i := by
  have := foldl_only (fun e k => e ^^^ flipOf k) (List.nodup_range (n := 80)) i e
  simpa [flipsOf, hi] using this

theorem flipAll_eq {e : BitVec 8} {x : BitVec 80} {p : Nat → Bool} (h : ∀ i < 80, x.getLsbD i = p i) : flipAll e x = flipsOf p (List.range 80) e := by
  refine List.foldl_ext _ _ _ fun e i hi => ?_
  rw [h i (List.mem_range.1 hi)]

theorem flipAll_bitAt {i : Nat} (hi : i < 80) : flipAll 0 (bitAt 80 i) = flipOf i := by
  rw [flipAll_eq fun k hk => getLsbD_bitAt hk, flipsOf_one hi]
  exact BitVec.zero_xor

theorem flipAll_pair {i j : Nat} (hi : i < 80) (hj : j < 80) (h : i ≠ j) : flipAll 0 (bitAt 80 i ||| bitAt 80 j) = flipOf i ^^^ flipOf j := by
  rw [flipAll_eq (p := fun k => decide (k = i) || decide (k = j)) fun k hk => by rw [BitVec.getLsbD_or, getLsbD_bitAt hk, getLsbD_bitAt hk],
    flipsOf_or (fun k => by simp; omega), flipsOf_one hi, flipsOf_one hj]
  exact congrArg (· ^^^ flipOf j) BitVec.zero_xor

theorem length_filter_xor (p q : Nat → Bool) (l : List Nat) :
    (l.filter fun i => p i ^^ q i).length % 2 = ((l.filter p).length + (l.filter q).length) % 2 := by
  induction l with
  | nil => rfl
  | cons i l ih =>
    rw [List.filter_cons, List.filter_cons, List.filter_cons]
    cases p i <;> cases q i <;> simp only [Bool.xor_false, Bool.xor_true, Bool.not_false, Bool.not_true, Bool.false_eq_true, if_true, if_false,
      List.length_cons] <;> omega

theorem parity_xor {n : Nat} (x y : BitVec n) : parity (x ^^^ y) = (parity x ^^ parity y) := by
  have h := length_filter_xor x.getLsbD y.getLsbD (List.range n)
  have hxy : (x ^^^ y).getLsbD = fun i => x.getLsbD i ^^ y.getLsbD i := funext fun i => BitVec.getLsbD_xor
  unfold parity popcount
  rw [hxy, h]
  obtain hx | hx := Nat.mod_two_eq_zero_or_one ((List.range n).filter x.getLsbD).length <;>
    obtain hy | hy := Nat.mod_two_eq_zero_or_one ((List.range n).filter y.getLsbD).length <;> simp [Nat.add_mod, hx, hy]

/-- Every flip changes the parity of the discrepancy (R341). -/
theorem parity_flipOf : ∀ i < 80, parity (flipOf i) = true := by decide +kernel

/-- No two flips make the same discrepancy. -/
theorem flipOf_nodup : ((List.range 80).map flipOf).Nodup := by decide +kernel

/-- One flip is found (Table 9.4). -/
theorem eccDecode_flipOf : ∀ i < 80, eccDecode (flipOf i) = if i < 72 then .dataBit i else .checkBit := by decide +kernel

theorem flipOf_ne_zero {i : Nat} (hi : i < 80) : flipOf i ≠ 0 := by
  intro h
  have := parity_flipOf i hi
  rw [h] at this
  exact absurd this (by decide)

theorem flipOf_xor_ne_zero {i j : Nat} (hi : i < 80) (hj : j < 80) (h : i ≠ j) : flipOf i ^^^ flipOf j ≠ 0 := fun h0 =>
  h (List.inj_on_of_nodup_map flipOf_nodup (List.mem_range.2 hi) (List.mem_range.2 hj) (BitVec.xor_eq_zero_iff.1 h0))

/-- A discrepancy of even parity cannot be corrected. -/
theorem eccDecode_of_even {e : BitVec 8} (hp : parity e = false) (h0 : e ≠ 0) : eccDecode e = .poison ∨ eccDecode e = .uncorrectable := by
  have hs : e.setWidth 7 ≠ (0 : BitVec 7) := fun h => h0 ((by decide +kernel : ∀ e : BitVec 8, parity e = false → e.setWidth 7 = (0 : BitVec 7) → e = 0) e hp h)
  unfold eccDecode
  rw [hp, if_neg (by simp), if_neg hs]
  split
  · exact .inl rfl
  · exact .inr rfl

/-! What a flip leaves, and what the next read of the beat finds. -/

/-- The flips of the data bits of a beat. -/
def State.flipBits (s : State) (line beat : Nat) (x : BitVec 80) : State :=
  (List.range 72).foldl (fun s i => if x.getLsbD i then s.flipData line beat i else s) s

theorem State.flipData_eq (s : State) (line beat i : Nat) : ∃ m, s.flipData line beat i = { s with dram := m } := by
  unfold State.flipData
  dsimp only
  split
  · exact ⟨_, rfl⟩
  · exact ⟨_, rfl⟩

theorem State.flipBits_keeps {β : Type} (p : State → β) (h : ∀ (s : State) (m : Memory), p { s with dram := m } = p s) (s : State)
    (line beat : Nat) (x : BitVec 80) : p (s.flipBits line beat x) = p s := by
  refine State.fold_keeps p _ (fun s i => ?_) _ s
  obtain ⟨m, hm⟩ := s.flipData_eq line beat i
  split
  · rw [hm, h]
  · rfl

theorem State.flipBits_bitAt (s : State) (line beat i : Nat) :
    s.flipBits line beat (bitAt 80 i) = if i < 72 then s.flipData line beat i else s := by
  have hfold : s.flipBits line beat (bitAt 80 i) = (List.range 72).foldl (fun s k => if k = i then s.flipData line beat k else s) s :=
    List.foldl_ext _ _ _ fun s k hk => by rw [getLsbD_bitAt (by have := List.mem_range.1 hk; omega)]; simp
  rw [hfold, foldl_only (fun s k => State.flipData s line beat k) List.nodup_range]
  simp

/-- A bit of the data that flips twice is as it was. -/
theorem State.flipData_twice {s u : State} (hw : Memory.wf ramDefault s.dram = true) (line beat i : Nat)
    (hd : u.dram = (s.flipData line beat i).dram) (hm : u.mc = s.mc) : (u.flipData line beat i).dram = s.dram := by
  unfold State.flipData at hd ⊢
  dsimp only at hd ⊢
  have hi : u.installed (24 * line + 3 * beat + i / 24) = s.installed (24 * line + 3 * beat + i / 24) := by
    rw [State.installed, State.installed, hm]
  rw [hi]
  by_cases h : s.installed (24 * line + 3 * beat + i / 24) = true
  · rw [if_pos h] at hd ⊢
    simp only [hd, Memory.word_setWord hw, if_true, BitVec.xor_assoc, BitVec.xor_self, BitVec.xor_zero]
    exact Memory.setWord_restore hw _ _
  · rw [if_neg h] at hd ⊢
    exact hd

section
variable {s : State} {a : Nat} (ha : s.inDram a = true) (hc : Tbl.find s.chk (beatKey (a / 24) (a % 24 / 3)) = none)
include ha hc

theorem State.upsetDram_eq (x : BitVec 80) :
    s.upsetDram a x = (s.flipBits (a / 24) (a % 24 / 3) x).setChk (beatKey (a / 24) (a % 24 / 3)) (flipAll 0 x) := by
  have hchk : (s.flipBits (a / 24) (a % 24 / 3) x).chk = s.chk := State.flipBits_keeps (·.chk) (fun _ _ => rfl) _ _ _ _
  refine (if_pos ha).trans ?_
  change (s.flipBits (a / 24) (a % 24 / 3) x).setChk (beatKey (a / 24) (a % 24 / 3))
    (flipAll (Tbl.get (s.flipBits (a / 24) (a % 24 / 3) x).chk (beatKey (a / 24) (a % 24 / 3)) 0) x) = _
  rw [hchk, Tbl.get, hc]
  rfl

/-- The flips of a beat are listed as their discrepancy, and change nothing of the controller. -/
theorem State.upsetDram_lists {x : BitVec 80} (hx : flipAll 0 x ≠ 0) : (s.upsetDram a x).mc = s.mc ∧
    (s.upsetDram a x).chk = Tbl.put s.chk (beatKey (a / 24) (a % 24 / 3)) (flipAll 0 x) ∧
    Tbl.get (s.upsetDram a x).chk (beatKey (a / 24) (a % 24 / 3)) 0 = flipAll 0 x ∧
    (s.upsetDram a x).dram = (s.flipBits (a / 24) (a % 24 / 3) x).dram := by
  have hchk : (s.upsetDram a x).chk = Tbl.put s.chk (beatKey (a / 24) (a % 24 / 3)) (flipAll 0 x) := by
    rw [State.upsetDram_eq ha hc]
    refine (if_neg hx).trans ?_
    rw [State.flipBits_keeps (·.chk) (fun _ _ => rfl)]
  refine ⟨?_, hchk, by rw [hchk, Tbl.get, Tbl.find_put, if_pos rfl]; rfl, by rw [State.upsetDram_eq ha hc]; rfl⟩
  rw [State.upsetDram_eq ha hc]
  exact State.flipBits_keeps (·.mc) (fun _ _ => rfl) _ _ _ _
end

theorem State.post_dram (s : State) (src : BitVec 12) (kind : BitVec 2) : (s.post src kind).dram = s.dram := by rw [State.post_health]
theorem State.post_chk (s : State) (src : BitVec 12) (kind : BitVec 2) : (s.post src kind).chk = s.chk := by rw [State.post_health]
theorem State.post_mc (s : State) (src : BitVec 12) (kind : BitVec 2) : (s.post src kind).mc = s.mc := by rw [State.post_health]

/-- A correctable error that is reported. -/
theorem State.logCe_reports (s : State) (rk : RdKind) (line beat dev : Nat) : let t := s.logCe rk line beat dev
    t.dram = s.dram ∧ t.chk = s.chk ∧ t.mc.ce = true ∧ t.mc.ue = s.mc.ue ∧ t.mc.ceCnt = satInc s.mc.ceCnt :=
  ⟨State.post_dram _ _ _, State.post_chk _ _ _, congrArg MemCtl.ce (State.post_mc _ _ _), (congrArg MemCtl.ue (State.post_mc _ _ _)).trans rfl,
    congrArg MemCtl.ceCnt (State.post_mc _ _ _)⟩

/-- An uncorrectable error that is reported. -/
theorem State.logUe_reports (s : State) (rk : RdKind) (line beat : Nat) (marker : Bool) : let t := s.logUe rk line beat marker
    t.mc.ue = true ∧ t.mc.ce = s.mc.ce :=
  ⟨congrArg MemCtl.ue (State.post_mc _ _ _), (congrArg MemCtl.ce (State.post_mc _ _ _)).trans rfl⟩

/-- A read that finds one flipped bit, by what its correction leaves. -/
theorem State.readBeat_corrects {u : State} {line beat i : Nat} (hi : i < 80) (hu : Tbl.get u.chk (beatKey line beat) 0 = flipOf i)
    (rk : RdKind) : ∃ v : State, v.dram = (if i < 72 then u.flipData line beat i else u).dram ∧ v.chk = Tbl.del u.chk (beatKey line beat) ∧
      v.mc = u.mc ∧ ∃ dev, u.readBeat rk line beat = (v.logCe rk line beat dev, false) := by
  have hd := eccDecode_flipOf i hi
  rw [← hu] at hd
  obtain ⟨m, hm⟩ := u.flipData_eq line beat i
  by_cases h : i < 72
  · rw [if_pos h] at hd ⊢
    refine ⟨(u.flipData line beat i).setChk (beatKey line beat) 0, rfl, ?_, ?_, i / 8, by rw [State.readBeat, hd]⟩
    · rw [hm]; rfl
    · rw [hm]; rfl
  · rw [if_neg h] at hd ⊢
    exact ⟨u.setChk (beatKey line beat) 0, rfl, rfl, rfl, 9, by rw [State.readBeat, hd]⟩

end Sys2Proof.Machine

open Sys2Proof Sys2Proof.Machine

/-- Settles O39: every flip has a discrepancy of odd parity of its own, so one is found and undone, and two make a discrepancy of even parity
that is not zero. -/
theorem dramErrors : Obligations.DramErrors := by
  intro s a rk ha hw line beat hc
  refine ⟨fun i hi => ?_, fun i hi j hj hij => ?_⟩
  · obtain ⟨hmc, hchk, hget, hdram⟩ := State.upsetDram_lists ha hc (x := bitAt 80 i) (by rw [flipAll_bitAt hi]; exact flipOf_ne_zero hi)
    generalize s.upsetDram a (bitAt 80 i) = u at *
    rw [flipAll_bitAt hi] at hchk hget
    rw [State.flipBits_bitAt] at hdram
    obtain ⟨v, hvd, hvc, hvm, dev, hr⟩ := State.readBeat_corrects hi hget rk
    obtain ⟨hd, hc', hce, hue, hcnt⟩ := v.logCe_reports rk line beat dev
    intro r
    have hr : r = (v.logCe rk line beat dev, false) := hr
    rw [hr]
    refine ⟨rfl, hd.trans (hvd.trans ?_), hc'.trans (hvc.trans (by rw [hchk]; exact Tbl.del_put hc _)), hce, hue.trans (by rw [hvm, hmc]),
      hcnt.trans (by rw [hvm, hmc, satInc_word_same])⟩
    by_cases h : i < 72
    · rw [if_pos h] at hdram ⊢
      exact State.flipData_twice hw line beat i hdram hmc
    · rw [if_neg h] at hdram ⊢
      exact hdram
  · have hpair := flipAll_pair hi hj hij
    have hne := flipOf_xor_ne_zero hi hj hij
    obtain ⟨hmc, -, hget, -⟩ := State.upsetDram_lists ha hc (x := bitAt 80 i ||| bitAt 80 j) (by rw [hpair]; exact hne)
    generalize s.upsetDram a (bitAt 80 i ||| bitAt 80 j) = u at *
    have heven : parity (flipOf i ^^^ flipOf j) = false := by rw [parity_xor, parity_flipOf i hi, parity_flipOf j hj]; rfl
    intro r
    obtain hd | hd := eccDecode_of_even heven hne <;> rw [← hpair, ← hget] at hd
    · have hr : r = (u.logUe rk line beat true, true) := by rw [show r = u.readBeat rk line beat from rfl, State.readBeat, hd]
      obtain ⟨hue, hce⟩ := u.logUe_reports rk line beat true
      rw [hr]
      exact ⟨rfl, hue, hce.trans (by rw [hmc])⟩
    · have hr : r = ((u.setChk (beatKey line beat) 3).logUe rk line beat false, true) := by
        rw [show r = u.readBeat rk line beat from rfl, State.readBeat, hd]
      obtain ⟨hue, hce⟩ := (u.setChk (beatKey line beat) 3).logUe_reports rk line beat false
      rw [hr]
      exact ⟨rfl, hue, hce.trans (congrArg MemCtl.ce hmc)⟩
end

section
/-! SUPPORT. What writes to memory, way maps and replies leave of Health, of Refrain and of the holds of the cores. -/
namespace Sys2Proof.Machine

/-! Writes to memory. -/

/-- What a write to memory leaves alone, and what the events of Refrain and of Rehearsal are stated of: Health but for its event queue, the marks
of a poisoned stream, the frozen pages, Refrain, and the cores that a slice holds. -/
def State.keptView (s : State) : Health × Bool × List Nat × Refrain × Vector Bool 12 :=
  ({ s.health with evq := [], lost := 0, ovf := false }, s.echo.poisoned, s.echo.frozen, s.refrain, s.cores.map VoiceCore.sliceHold)

theorem State.DramRead.keptView {s t : State} (h : s.DramRead t) : t.keptView = s.keptView := by
  have he : t.echo = s.echo := (congrArg State.echo h.frame).trans rfl
  have hr : t.refrain = s.refrain := (congrArg State.refrain h.frame).trans rfl
  have hc : t.cores = s.cores := (congrArg State.cores h.frame).trans rfl
  rw [State.keptView, h.health, he, hr, hc]
  rfl

theorem State.foldl_keptView {α : Type} (f : State → α → State) (h : ∀ s a, (f s a).keptView = s.keptView) (l : List α) (s : State) :
    (l.foldl f s).keptView = s.keptView := State.fold_keeps _ f h l s

/-- A change of the cores that keeps their holds. -/
theorem State.mapCores_keptView (s : State) (f : Fin 12 → VoiceCore → VoiceCore) (h : ∀ c v, (f c v).sliceHold = v.sliceHold) :
    (s.mapCores f).keptView = s.keptView := by
  have hv : (s.mapCores f).cores.map VoiceCore.sliceHold = s.cores.map VoiceCore.sliceHold := by
    apply Vector.ext
    intro i hi
    simp [State.mapCores, State.core, h]
  rw [State.keptView, hv]
  rfl

theorem State.clearResv_keptView (s : State) (line : Nat) (p : Fin 12 → Bool) : (s.clearResv line p).keptView = s.keptView :=
  s.mapCores_keptView _ fun c v => by split <;> rfl

theorem State.dropLine_keptView (s : State) (line : Nat) : (s.dropLine line).keptView = s.keptView := s.clearResv_keptView line fun _ => true

theorem State.dropSection_keptView (s : State) (sec : Fin 3) (line : Nat) : (s.dropSection sec line).keptView = s.keptView := by
  unfold State.dropSection
  split
  · rfl
  · exact State.clearResv_keptView _ _ _

theorem State.dropSite_keptView (s : State) (site : CacheSite) (line : Nat) : (s.dropSite site line).keptView = s.keptView := by
  unfold State.dropSite
  split
  · rfl
  · split
    · rfl
    · split
      · exact State.clearResv_keptView _ _ _
      · rfl
    · exact s.dropSection_keptView _ _
    · rfl

theorem State.settleLine_keptView (s : State) (line : Nat) (ws : List WrWord) : (s.settleLine line ws).keptView = s.keptView := by
  unfold State.settleLine
  split <;> rfl

theorem State.snoopWrite_keptView (s : State) (line : Nat) (ws : List WrWord) : (s.snoopWrite line ws).keptView = s.keptView := by
  unfold State.snoopWrite
  dsimp only
  split
  · exact s.clearResv_keptView _ _
  · exact s.clearResv_keptView line fun _ => true

theorem State.writeBeat_keptView (s : State) (line beat : Nat) (ws : List WrWord) : (s.writeBeat line beat ws).keptView = s.keptView := by
  unfold State.writeBeat
  dsimp only
  change (if _ then (s, false) else s.readBeat .demand line beat).1.keptView = s.keptView
  split
  · rfl
  · exact (s.readBeat_read _ _ _).keptView

theorem State.mark_keptView (s : State) (addrs : List Nat) : { s with echo := s.echo.mark addrs }.keptView = s.keptView := by
  unfold Echo.mark
  split <;> rfl

theorem State.writeDram_keptView (s : State) (line : Nat) (ws : List WrWord) : (s.writeDram line ws).keptView = s.keptView := by
  unfold State.writeDram
  refine (State.mark_keptView _ _).trans (State.foldl_keptView _ (fun s b => ?_) _ s)
  dsimp only
  split
  · rfl
  · exact s.writeBeat_keptView _ _ _

theorem State.store_keptView (s : State) (line : Nat) (ws : List WrWord) : (s.store line ws).keptView = s.keptView := by
  unfold State.store
  dsimp only
  split
  · rfl
  · split
    · rfl
    · exact s.writeDram_keptView _ _

theorem State.echoCopy_keptView (s : State) (line : Nat) : (s.echoCopy line).keptView = s.keptView := by
  refine Eq.trans ?_ (s.readBeats_read .demand line (List.range 8)).keptView
  unfold State.echoCopy
  dsimp only
  split <;> rfl

theorem State.performed_keptView (s : State) (x : Stalled) (ws : List WrWord) : (s.performed x ws).keptView = s.keptView := by
  unfold State.performed
  rw [State.store_keptView]
  split
  · exact s.echoCopy_keptView _
  · rfl

theorem State.complete_keptView (s : State) (later : List Stalled) (x : Stalled) : (s.complete later x).keptView = s.keptView := by
  unfold State.complete
  dsimp only
  split
  · split
    · rw [State.dropSite_keptView, State.settleLine_keptView, State.performed_keptView]
    · rw [State.settleLine_keptView, State.performed_keptView]
  · split
    · exact s.performed_keptView _ _
    · split
      · rw [State.clearResv_keptView, State.performed_keptView]
      · split
        · rw [State.snoopWrite_keptView, State.performed_keptView]
        · rw [State.dropLine_keptView, State.performed_keptView]

/-! Writes that may wait on Echo. -/

theorem State.tryWrite_keptView (s : State) (later : List Stalled) (x : Stalled) : (s.tryWrite later x).1.keptView = s.keptView := by
  unfold State.tryWrite
  split
  · rfl
  · rfl
  · refine (State.foldl_keptView _ (fun s d => ?_) _ _).trans (s.complete_keptView _ _)
    cases d <;> rfl

theorem State.retryAll_keptView (s : State) (l : List Stalled) : (s.retryAll l).keptView = s.keptView := by
  induction l generalizing s with
  | nil => rfl
  | cons x xs ih => exact (ih _).trans (s.tryWrite_keptView _ _)

theorem State.retryStalled_keptView (s : State) : s.retryStalled.keptView = s.keptView := State.retryAll_keptView _ _

/-! Ways of the caches. -/

/-- A write-back by no initiator. -/
theorem State.cleanLine_keptView (s : State) (line : Nat) (drop : Option CacheSite) : (s.cleanLine none line drop).1.keptView = s.keptView := by
  unfold State.cleanLine State.cleanWords
  dsimp only
  split
  · split
    · exact s.dropSite_keptView _ _
    · rfl
  · exact s.tryWrite_keptView _ _

theorem State.setL2Ways_keptView (s : State) (sec : Fin 3) (v : Word) : (s.setL2Ways sec v).keptView = s.keptView :=
  State.foldl_keptView _ (fun s _ => State.foldl_keptView _ (fun s _ => s.cleanLine_keptView _ _) _ s) _ _

theorem State.setL3Ways_keptView (s : State) (n : Fin 4) (en iso : Word) : (s.setL3Ways n en iso).keptView = s.keptView :=
  State.foldl_keptView _ (fun s _ => State.foldl_keptView _ (fun s _ => s.cleanLine_keptView _ _) _ s) _ _

theorem State.isolateWay_keptView (s : State) (num : Nat) (on : Bool) : (s.isolateWay num on).keptView = s.keptView := by
  unfold State.isolateWay
  split
  · exact s.setL2Ways_keptView _ _
  · split
    · exact s.setL3Ways_keptView _ _ _
    · rfl

theorem State.laneMask_keptView (s : State) (v : BitVec 4) : (s.laneMask v).keptView = s.keptView := by
  unfold State.laneMask State.retrain
  dsimp only
  split
  · split <;> rfl
  · rfl

theorem State.undoRepair_keptView (s : State) (src : Nat) : (s.undoRepair src).keptView = s.keptView := by
  unfold State.undoRepair
  dsimp only
  split
  · rfl
  · exact s.laneMask_keptView _
  · exact s.setL2Ways_keptView _ _
  · exact s.setL3Ways_keptView _ _ _

theorem State.applyRepair_keptView {s t : State} {src : Nat} (h : s.applyRepair src = some t) : t.keptView = s.keptView := by
  unfold State.applyRepair at h
  dsimp only at h
  split at h
  · cases h
  all_goals
    simp only [Option.ite_none_right_eq_some, Option.ite_none_left_eq_some, Option.some.injEq] at h
    obtain ⟨-, rfl⟩ := h
  · exact s.laneMask_keptView _
  · exact s.setL2Ways_keptView _ _
  · exact s.setL3Ways_keptView _ _ _

/-! Replies and notices. -/

theorem State.putRpl_eq (s : State) (r : BitVec 5) (i : Word) (ws : List Word) :
    ∃ st bad, s.putRpl r i ws = { s with stage := st, stageBad := bad } := by
  induction ws generalizing s i with
  | nil => exact ⟨_, _, rfl⟩
  | cons w ws ih =>
    obtain ⟨st, bad, h⟩ := ih (s.setRingWord r (0xC00 + i.toNat % 1024) w) (i + 1)
    exact ⟨st, bad, h⟩

theorem State.writeReply_eq (s : State) (r : BitVec 5) (ws : List Word) : ∃ st bad, s.writeReply r ws = { s with stage := st, stageBad := bad } := by
  obtain ⟨st, bad, h⟩ := s.putRpl_eq r (s.rplProd r) ws
  unfold State.writeReply
  dsimp only
  rw [h]
  exact ⟨_, _, rfl⟩

theorem State.forwardReply_eq (s : State) (final : Bool) (st : Status) (seq : Word) (ws : List Word) :
    ∃ stage bad d, s.forwardReply final st seq ws = { s with stage := stage, stageBad := bad, duet := d } := by
  unfold State.forwardReply
  dsimp only
  split
  · exact ⟨_, _, _, rfl⟩
  · split <;> exact ⟨_, _, _, rfl⟩

/-- A reply changes the rings' pages, what the Conductor holds for them, and the link. -/
theorem State.reply_eq (s : State) (r : BitVec 5) (st : Status) (final : Bool) (tag seq : Word) (results : List Word) :
    ∃ x stage bad d, s.reply r st final tag seq results = { s with rings := x, stage := stage, stageBad := bad, duet := d } := by
  unfold State.reply
  dsimp only
  split
  · exact ⟨_, _, _, _, rfl⟩
  · obtain ⟨st1, bad1, h1⟩ := s.writeReply_eq r (replyWords st final tag seq results)
    rw [h1]
    split
    · obtain ⟨st2, bad2, d, h2⟩ := State.forwardReply_eq { s with stage := st1, stageBad := bad1 } final st seq (replyWords st final tag seq results)
      exact ⟨_, _, _, _, h2⟩
    · exact ⟨_, _, _, _, rfl⟩

theorem State.finish_eq (s : State) (c : Cmd) (st : Status) (results : List Word) :
    ∃ x stage bad d, s.finish c st results = { s with rings := x, stage := stage, stageBad := bad, duet := d } := by
  unfold State.finish
  split
  · exact ⟨_, _, _, _, rfl⟩
  · obtain ⟨x, stage, bad, d, h⟩ := (s.dropCmd c).reply_eq c.ring st true c.tag c.seq results
    exact ⟨x, stage, bad, d, h⟩

theorem State.finishOp_eq (s : State) (op : BitVec 8) (st : Status) (results : List Word) :
    ∃ x stage bad d, s.finishOp op st results = { s with rings := x, stage := stage, stageBad := bad, duet := d } := by
  unfold State.finishOp
  split
  · exact s.finish_eq _ _ _
  · exact ⟨_, _, _, _, rfl⟩

theorem State.finish_keptView (s : State) (c : Cmd) (st : Status) (results : List Word) : (s.finish c st results).keptView = s.keptView := by
  obtain ⟨x, stage, bad, d, h⟩ := s.finish_eq c st results
  rw [h]
  rfl

/-- A notice changes only the rings' unit. -/
theorem State.notice_eq (s : State) (code : BitVec 8) (data : Word) : ∃ x, s.notice code data = { s with rings := x } := by
  unfold State.notice
  split
  · exact ⟨_, rfl⟩
  · exact ⟨_, rfl⟩

end Sys2Proof.Machine
end

section
/-! SUPPORT. The stream of a checkpoint: what a line of it and an end of it leave of Refrain (09 R365 to R374, 14 R603, R604). -/
namespace Sys2Proof.Machine

theorem Duet.produceB_store (d : Duet) (ft : BitVec 3) (ws : List Word) : (d.produceB ft ws).b.store.length ≤ d.b.store.length + 1 := by
  unfold Duet.produceB
  split
  · simp [Chan.produce]
  · exact Nat.le_succ _

/-- While channel B holds no more than fits on chip, no flit of it moves to the spill region. -/
theorem State.spillOut_room {s : State} (h : s.duet.b.store.length ≤ 2048) (n : Nat) : s.spillOut n = s := by
  have hdue : s.duet.spillDue = none := by
    unfold Duet.spillDue
    rw [if_pos]
    simp
    omega
  cases n with
  | zero => rfl
  | succ n => rw [State.spillOut, hdue]

theorem State.produceB_room {s : State} (h : s.duet.b.store.length < 2048) (ft : BitVec 3) (ws : List Word) :
    s.produceB ft ws = { s with duet := s.duet.produceB ft ws } :=
  State.spillOut_room ((s.duet.produceB_store ft ws).trans h) 2

/-- A state in which the stream has sent part of what waits of its body. -/
theorem State.flushBody_stream {s : State} {st : Stream} (hst : s.refrain.stream = some st)
    (h : s.duet.b.store.length + st.buf.length ≤ 2048) (n : Nat) : ∃ buf, (s.flushBody n).refrain.stream = some { st with buf } := by
  induction n generalizing s st with
  | zero => exact ⟨st.buf, hst⟩
  | succ n ih =>
    rw [State.flushBody, hst]
    dsimp only
    split
    · exact ⟨st.buf, hst⟩
    next hlen =>
      have hgrow := s.duet.produceB_store 5 (st.buf.take 22)
      rw [State.produceB_room (s := State.modRf _ _) (show s.duet.b.store.length < 2048 by omega)]
      exact ih (st := { st with buf := st.buf.drop 22 }) rfl
        (show (s.duet.produceB 5 (st.buf.take 22)).b.store.length + (st.buf.drop 22).length ≤ 2048 by rw [List.length_drop]; omega)

theorem State.endIfDone_stream {s : State} {st : Stream} (hst : s.refrain.stream = some st) :
    ∃ buf ended, s.endIfDone.refrain.stream = some { st with buf, ended } := by
  unfold State.endIfDone State.produceEnd
  rw [hst]
  dsimp only
  split
  · exact ⟨_, _, rfl⟩
  · exact ⟨st.buf, st.ended, hst⟩

theorem State.freeEcho_sansMemory (s : State) (line : Nat) : (s.freeEcho line).sansMemory = s.sansMemory := rfl

theorem State.echoErrors_sansMemory (s : State) (l : EchoLine) (m : BitVec 24) : (s.echoErrors l m).sansMemory = s.sansMemory := by
  unfold State.echoErrors
  dsimp only
  refine (State.foldl_sansMemory _ (fun s i => ?_) _ _).trans (State.foldl_sansMemory _ (fun s i => ?_) _ s)
  · split
    · exact s.logUe_sansMemory _ _ _ _
    · exact s.post_sansMemory _ _
  · split
    · exact s.logCe_sansMemory _ _ _ _
    · exact s.post_sansMemory _ _

theorem State.streamRead_sansMemory (s : State) (line : Nat) (m : BitVec 24) : (s.streamRead line m).1.sansMemory = s.sansMemory := by
  unfold State.streamRead
  split
  · exact s.echoErrors_sansMemory _ _
  · exact s.readBeats_sansMemory _ _ _

theorem State.streamRead_refrain (s : State) (line : Nat) (m : BitVec 24) : (s.streamRead line m).1.refrain = s.refrain :=
  (congrArg State.refrain (s.streamRead_sansMemory line m)).trans rfl
theorem State.streamRead_duet (s : State) (line : Nat) (m : BitVec 24) : (s.streamRead line m).1.duet = s.duet :=
  (congrArg State.duet (s.streamRead_sansMemory line m)).trans rfl

theorem State.streamRead_length (s : State) (line : Nat) (m : BitVec 24) : (s.streamRead line m).2.1.length = 24 := by
  unfold State.streamRead
  split
  · next l _ => exact l.words.length_toList
  · dsimp only
    rw [Vector.length_toList]

theorem maskWords_length (m : BitVec 24) (ws : List Word) : (maskWords m ws).length = ws.length := by
  simp [maskWords, indexed]

theorem State.retryStalled_refrain (s : State) : s.retryStalled.refrain = s.refrain :=
  (congrArg (·.2.2.2.1) s.retryStalled_keptView).trans rfl

/-- A stream that is poisoned has ended, and no page stays frozen. -/
theorem State.poisonStream_ends {s : State} {st : Stream} (hst : s.refrain.stream = some st) : let t := s.poisonStream
    t.echo.poisoned = true ∧ t.echo.frozen = [] ∧ ∃ x, t.refrain.stream = some x ∧ x.ended = true := by
  have he : (s.produceEnd 1).refrain.stream = some { st with buf := [], ended := true } := by
    unfold State.produceEnd
    rw [hst]
  have hv := State.retryStalled_keptView { s.produceEnd 1 with echo := { (s.produceEnd 1).echo.mergeBack with poisoned := true } }
  refine ⟨congrArg (·.2.1) hv, congrArg (·.2.2.1) hv, { st with buf := [], ended := true }, ?_, rfl⟩
  exact (congrArg (·.2.2.2.1.stream) hv).trans he

/-- What the stream does with a line that it can send. -/
theorem State.streamLine_line {s : State} {st : Stream} {line : Nat} (hst : s.refrain.stream = some st) (hend : st.ended = false)
    (hhead : s.refrain.headWait = none) (hwait : s.duet.bWait = []) (hline : nextLine s.echo.frozen st.next = some line) :
    s.streamLine = let r := s.streamRead line (lineMask s.echo.frozen line)
      if r.2.2 then r.1.poisonStream
      else
        let ws := maskWords (lineMask s.echo.frozen line) r.2.1
        let u := r.1.modRf fun x => { x with stream := some { st with next := line + 1, buf := st.buf ++ ws, crc := crcMore st.crc ws } }
        ((u.flushBody (st.buf.length + 24)).endIfDone).retryStalled := by
  unfold State.streamLine
  rw [hst]
  dsimp only
  rw [if_neg (by simp [hend, hhead, hwait]), hline]

/-- A line without poison is sent: the stream goes on after it, with the line in its CRC. -/
theorem State.streamLine_sends {s : State} {st : Stream} {line : Nat} (hst : s.refrain.stream = some st) (hend : st.ended = false)
    (hhead : s.refrain.headWait = none) (hwait : s.duet.bWait = []) (hline : nextLine s.echo.frozen st.next = some line)
    (hok : (s.streamRead line (lineMask s.echo.frozen line)).2.2 = false) (hroom : s.duet.b.store.length + st.buf.length < 2000) :
    ∃ x, s.streamLine.refrain.stream = some x ∧ x.n = st.n ∧ x.next = line + 1 ∧
      x.crc = crcMore st.crc (maskWords (lineMask s.echo.frozen line) (s.streamRead line (lineMask s.echo.frozen line)).2.1) := by
  rw [State.streamLine_line hst hend hhead hwait hline]
  dsimp only
  rw [hok, if_neg Bool.false_ne_true, State.retryStalled_refrain]
  generalize hws : maskWords _ _ = ws
  have hlen : ws.length = 24 := by rw [← hws, maskWords_length, State.streamRead_length]
  generalize hu : State.modRf _ _ = u
  have hust : u.refrain.stream = some { st with next := line + 1, buf := st.buf ++ ws, crc := crcMore st.crc ws } := by rw [← hu]; rfl
  have hud : u.duet = s.duet := by rw [← hu]; exact s.streamRead_duet _ _
  obtain ⟨buf, hf⟩ := State.flushBody_stream hust (by rw [hud, List.length_append]; omega) (st.buf.length + 24)
  obtain ⟨buf', ended, he⟩ := State.endIfDone_stream hf
  exact ⟨_, he, rfl, rfl, rfl⟩

theorem refrainStreamLine_streams : Occurs (.refrainStreamLine []) (fun s => s.die.variant.duet = true) (fun s t =>
    (s.refrain.stream = none → t = s) ∧
    ∀ st, s.refrain.stream = some st →
      (st.ended = true ∨ s.refrain.headWait.isSome = true ∨ s.duet.bWait ≠ [] → t = s) ∧
      (st.ended = false → s.refrain.headWait = none → s.duet.bWait = [] →
        (nextLine s.echo.frozen st.next = none → t = s.produceEnd 0) ∧
        ∀ line, nextLine s.echo.frozen st.next = some line →
          let m := lineMask s.echo.frozen line
          let r := s.streamRead line m
          (r.2.2 = true → t.echo.poisoned = true ∧ t.echo.frozen = [] ∧ ∃ x, t.refrain.stream = some x ∧ x.ended = true) ∧
          (r.2.2 = false → s.duet.b.store.length + st.buf.length < 2000 → ∃ x, t.refrain.stream = some x ∧ x.n = st.n ∧ x.next = line + 1 ∧
            x.crc = crcMore st.crc (maskWords m r.2.1)))) := by
  refine Occurs.of (f := fun s => if s.die.variant.duet then s.streamLine else s) (fun _ => rfl) fun s _ hduet => ?_
  rw [if_pos hduet]
  refine ⟨fun hn => ?_, fun st hst => ⟨fun hstop => ?_, fun hend hhead hwait => ⟨fun hnone => ?_, fun line hline => ⟨fun hbad => ?_, ?_⟩⟩⟩⟩
  · unfold State.streamLine
    rw [hn]
  · unfold State.streamLine
    rw [hst]
    exact if_pos (by simpa [or_assoc] using hstop)
  · unfold State.streamLine
    rw [hst]
    dsimp only
    rw [if_neg (by simp [hend, hhead, hwait]), hnone]
  · rw [State.streamLine_line hst hend hhead hwait hline]
    dsimp only
    rw [if_pos hbad]
    exact State.poisonStream_ends ((congrArg Refrain.stream (s.streamRead_refrain _ _)).trans hst)
  · exact State.streamLine_sends hst hend hhead hwait hline

theorem applyEnd_ends : Occurs .applyEnd (fun s => s.die.variant.duet = true) (fun s t => (s.refrain.log = none → t = s) ∧
    ∀ n ws, s.refrain.log = some (n, ws) →
      let u := s.writeReplica (ws.take 14) (ws.drop 14)
      u.duet.b.store.length < 2048 → t.refrain = { u.refrain with applying := false, log := none } ∧ t.dram = u.dram ∧ t.stage = u.stage ∧
      t.duet = u.duet.produceB 7 [n, 0, u.refrain.lastCommit]) := by
  refine Occurs.of (f := fun s => if s.die.variant.duet then s.applyEnd else s) (fun _ => rfl) fun s _ hduet => ?_
  rw [if_pos hduet]
  refine ⟨fun hn => ?_, fun n ws hlog hroom => ?_⟩
  · unfold State.applyEnd
    rw [hn]
  · unfold State.applyEnd
    rw [hlog]
    dsimp only [State.replyCk]
    rw [State.produceB_room (s := State.modRf _ _) hroom]
    exact ⟨rfl, rfl, rfl, rfl⟩

theorem State.leaveTo_none_refrain (s : State) : ((s.leaveTo .none).modRf fun x => { x with handStep := 0, handBars := 0 }).refrain =
    { s.refrain with
      role := .none, activeN := true, fence := true, fenceDue := false, batonOut := false, handStep := 0, handBars := 0 } := by
  simp [State.leaveTo, State.modRf]

theorem handoverTimeout_ends : Occurs .handoverTimeout (fun s => s.die.variant.duet = true) (fun s t =>
    (s.refrain.role ≠ .handover ∨ s.refrain.handBars < s.refrain.batonLimit → t = s) ∧
    (s.refrain.role = .handover → s.refrain.batonLimit ≤ s.refrain.handBars → t.refrain = { s.refrain with
      role := .none, activeN := true, fence := true, fenceDue := false, batonOut := false, handStep := 0, handBars := 0 })) := by
  refine Occurs.of (f := fun s => if s.die.variant.duet then s.handoverTimeout else s) (fun _ => rfl) fun s _ hduet => ?_
  rw [if_pos hduet]
  refine ⟨fun hno => ?_, fun hrole hbars => ?_⟩
  · unfold State.handoverTimeout
    rw [if_neg]
    rw [Bool.and_eq_true, decide_eq_true_iff, decide_eq_true_iff]
    exact fun ⟨hrole, hbars⟩ => hno.elim (· hrole) (Nat.not_lt.mpr hbars)
  · unfold State.handoverTimeout State.endHandover
    rw [if_pos (by rw [Bool.and_eq_true, decide_eq_true_iff, decide_eq_true_iff]; exact ⟨hrole, hbars⟩)]
    obtain ⟨x, stage, bad, d, h⟩ := State.finishOp_eq ((s.leaveTo .none).modRf fun x => { x with handStep := 0, handBars := 0 }) 0x42 .outcomeUnknown []
    rw [h]
    exact s.leaveTo_none_refrain

end Sys2Proof.Machine
end

section
/-! SUPPORT. The end of a slice of Rehearsal: what it records, and the cores that it lets go (15 R630 to R635). -/
namespace Sys2Proof.Machine

/-! What the end of a slice records, and what the work after it leaves alone. -/

/-- What the end of a slice records, and the cores that slices hold. -/
def State.sliceView (s : State) : Option Slice × Word × Bool × Bool × Word × Tbl SliceHist × Vector Bool 12 :=
  let h := s.health
  (h.running, h.last, h.fail, h.overrun, h.ovrCnt, h.hist, s.cores.map VoiceCore.sliceHold)

theorem State.sliceView_of_keptView {s t : State} (h : t.keptView = s.keptView) : t.sliceView = s.sliceView :=
  congrArg (fun v => (v.1.running, v.1.last, v.1.fail, v.1.overrun, v.1.ovrCnt, v.1.hist, v.2.2.2.2)) h

theorem State.notice_sliceView (s : State) (code : BitVec 8) (data : Word) : (s.notice code data).sliceView = s.sliceView := by
  obtain ⟨x, h⟩ := s.notice_eq code data
  rw [h]
  rfl

theorem State.post_sliceView (s : State) (src : BitVec 12) (kind : BitVec 2) : (s.post src kind).sliceView = s.sliceView :=
  State.sliceView_of_keptView (s.post_read src kind).keptView

theorem State.advanceCycle_sliceView (s : State) (num : Nat) : (s.advanceCycle num).sliceView = s.sliceView := by
  unfold State.advanceCycle State.modHealth
  dsimp only
  split
  · rfl
  · split <;> rfl

theorem State.aging_sliceView (s : State) (sec : Fin 3) (slow : BitVec 10) : (s.aging sec slow).sliceView = s.sliceView := by
  unfold State.aging
  extract_lets n guide w old s1 s2
  have h2 : s2.sliceView = s.sliceView := by
    unfold s2
    split
    · exact s1.notice_sliceView _ _
    · rfl
  split
  · exact (s2.post_sliceView _ _).trans h2
  · exact h2

theorem State.mirrorUpdate_eq (s : State) : ∃ m, s.mirrorUpdate = { s with health := { s.health with mirror := m } } := ⟨_, rfl⟩

/-- A part of the state that the always-on mirror does not belong to is left alone as the mirror is brought up to date. -/
theorem State.mirrorUpdate_keeps {β : Type} (p : State → β) (h : ∀ (s : State) m, p { s with health := { s.health with mirror := m } } = p s)
    (s : State) : p s.mirrorUpdate = p s := by
  obtain ⟨m, hm⟩ := s.mirrorUpdate_eq
  rw [hm, h]

theorem State.mirrorUpdate_sliceView (s : State) : s.mirrorUpdate.sliceView = s.sliceView :=
  State.mirrorUpdate_keeps State.sliceView (fun _ _ => rfl) s

theorem State.flashLedger_sliceView (s : State) : s.flashLedger.sliceView = s.sliceView := rfl
theorem State.putSrc_sliceView (s : State) (src : Nat) (x : LSrc) : (s.putSrc src x).sliceView = s.sliceView := rfl

theorem State.setLState_sliceView (s : State) (src : Nat) (x : LState) : (s.setLState src x).sliceView = s.sliceView := by
  rw [State.setLState, State.bothMirrors, State.flashLedger_sliceView, State.mirrorUpdate_sliceView, State.putSrc_sliceView]

theorem State.repair_sliceView (s : State) (src : Nat) : (s.repair src).1.sliceView = s.sliceView := by
  unfold State.repair
  dsimp only
  split
  · next t ht =>
    exact (t.setLState_sliceView _ _).trans ((State.sliceView_of_keptView (State.applyRepair_keptView ht)).trans (State.mirrorUpdate_sliceView _))
  · exact State.setLState_sliceView _ _ _

theorem State.runRepair_sliceView (s : State) (c : Cmd) : (s.runRepair c).1.sliceView = s.sliceView := by
  unfold State.runRepair
  dsimp only
  split
  · rfl
  · split
    · exact s.repair_sliceView _
    · exact (State.setLState_sliceView _ _ _).trans (State.sliceView_of_keptView (s.undoRepair_keptView _))

theorem State.history_of_hist {s t : State} (h : t.health.hist = s.health.hist) (num : Nat) : t.history num = s.history num := by
  rw [State.history, h]
  rfl

/-! The cores of a slice. -/

/-- The core goes on after the slice that held it. -/
def State.releaseCore (s : State) (c : Fin 12) : State := s.modCore c fun v => { v with sliceHold := false }

theorem State.releaseCore_sliceHold (s : State) (d c : Fin 12) :
    ((s.releaseCore d).core c).sliceHold = if d = c then false else (s.core c).sliceHold := by
  unfold State.releaseCore State.modCore
  rw [State.core_setCore]
  split <;> rfl

theorem State.releaseCores_sliceHold {l : List (Fin 12)} {c : Fin 12} (s : State) (h : c ∈ l ∨ (s.core c).sliceHold = false) :
    ((l.foldl State.releaseCore s).core c).sliceHold = false := by
  induction l generalizing s with
  | nil => exact h.resolve_left List.not_mem_nil
  | cons d l ih =>
    refine ih _ ?_
    rw [State.releaseCore_sliceHold, List.mem_cons] at *
    split
    · exact .inr rfl
    next hd => exact h.imp (·.resolve_left (Ne.symm hd)) id

theorem State.core_sliceHold_of_sliceView {s t : State} (h : t.sliceView = s.sliceView) (c : Fin 12) :
    (t.core c).sliceHold = (s.core c).sliceHold := by
  have hv := congrArg (fun v => v.2.2.2.2.2.2[c]) h
  simpa [State.sliceView, State.core] using hv

theorem State.sliceCores_of_die {s t : State} (h : t.die = s.die) (num : Nat) : t.sliceCores num = s.sliceCores num := by
  unfold State.sliceCores State.coresOf State.presentCores State.hasCore
  rw [h]

/-! The end of a slice. -/

/-- The history of a slice after one more run with a result. -/
def SliceHist.after (x : SliceHist) (result : Nat) : SliceHist :=
  { runs := satInc x.runs, last := BitVec.ofNat 24 result, fails := if result = 1 then satInc x.fails else x.fails
    overruns := if result = 2 then satInc x.overruns else x.overruns }

/-- What the end of a slice leaves of the view. -/
structure State.SliceEnded (s t : State) (sl : Slice) (result : Nat) : Prop where
  running : t.health.running = none
  last : t.health.last = sl.num.setWidth 24 ||| BitVec.ofNat 24 (result * 65536)
  fail : t.health.fail = (s.health.fail || decide (result = 1))
  overrun : t.health.overrun = (s.health.overrun || decide (result = 2))
  ovrCnt : t.health.ovrCnt = if result = 2 then satInc s.health.ovrCnt else s.health.ovrCnt
  history : t.history sl.num.toNat = (s.history sl.num.toNat).after result
  released : ∀ c ∈ s.sliceCores sl.num.toNat, (t.core c).sliceHold = false

theorem State.SliceEnded.of_sliceView {s t u : State} {sl : Slice} {result : Nat} (h : s.SliceEnded t sl result) (hv : u.sliceView = t.sliceView) :
    s.SliceEnded u sl result where
  running := (congrArg (·.1) hv).trans h.running
  last := (congrArg (·.2.1) hv).trans h.last
  fail := (congrArg (·.2.2.1) hv).trans h.fail
  overrun := (congrArg (·.2.2.2.1) hv).trans h.overrun
  ovrCnt := (congrArg (·.2.2.2.2.1) hv).trans h.ovrCnt
  history := (State.history_of_hist (congrArg (·.2.2.2.2.2.1) hv) _).trans h.history
  released := fun c hc => (State.core_sliceHold_of_sliceView hv c).trans (h.released c hc)

theorem State.endSlice_ends (s : State) (sl : Slice) (result : Nat) (outcome : BitVec 10) :
    s.SliceEnded (s.endSlice sl result outcome) sl result := by
  unfold State.endSlice
  extract_lets num dur x hist s1 way kept s2 s3 s4 s5 s6 s7
  have h1 : s1.history num = (s.history num).after result := by
    rw [State.history, Tbl.get, show s1.health.hist = Tbl.put s.health.hist num hist from rfl, Tbl.find_put, if_pos rfl]
    rfl
  have h2 : s2.sliceView = s1.sliceView ∧ s2.die = s.die := by
    unfold s2
    split
    · exact ⟨rfl, rfl⟩
    · split
      · exact ⟨State.sliceView_of_keptView (s1.isolateWay_keptView _ _), State.die_of_barView (s1.isolateWay_barView num false)⟩
      · exact ⟨rfl, rfl⟩
  obtain ⟨hv2, hd2⟩ := h2
  have h3 : s.SliceEnded s3 sl result := by
    have hh : s3.health = s2.health := State.fold_keeps State.health State.releaseCore (fun _ _ => rfl) _ s2
    have hr (c : Fin 12) (hc : c ∈ s.sliceCores num) : (s3.core c).sliceHold = false :=
      State.releaseCores_sliceHold s2 (.inl (State.sliceCores_of_die hd2 num ▸ hc))
    constructor
    · exact (congrArg Health.running hh).trans (congrArg (·.1) hv2)
    · exact (congrArg Health.last hh).trans (congrArg (·.2.1) hv2)
    · exact (congrArg Health.fail hh).trans (congrArg (·.2.2.1) hv2)
    · exact (congrArg Health.overrun hh).trans (congrArg (·.2.2.2.1) hv2)
    · exact (congrArg Health.ovrCnt hh).trans (congrArg (·.2.2.2.2.1) hv2)
    · exact (State.history_of_hist ((congrArg Health.hist hh).trans (congrArg (·.2.2.2.2.2.1) hv2)) num).trans h1
    · exact hr
  have h4 : s4.sliceView = s3.sliceView := by
    unfold s4
    split
    · exact s3.post_sliceView _ _
    · rfl
  have h5 : s5.sliceView = s3.sliceView := by
    unfold s5
    split
    · exact (s4.aging_sliceView _ _).trans h4
    · exact h4
  have h6 : s6.sliceView = s3.sliceView := by
    unfold s6
    split
    · exact (s5.advanceCycle_sliceView _).trans h5
    · exact h5
  have h7 : s7.sliceView = s3.sliceView := by
    unfold s7
    split
    · split
      · exact (State.sliceView_of_keptView (s6.finish_keptView _ _ _)).trans h6
      · exact h6
    · exact h6
  refine h3.of_sliceView ?_
  split
  · exact (s7.runRepair_sliceView _).trans h7
  · exact h7

/-! The events of Rehearsal. -/

/-- What the obligation says of the end of a slice. -/
def sliceEnded (sl : Slice) (s t : State) (result : Nat) : Prop :=
  let n := sl.num.toNat
  let x := s.history n
  t.health.running = none ∧ t.health.last = sl.num.setWidth 24 ||| BitVec.ofNat 24 (result * 65536) ∧
  t.health.fail = (s.health.fail || result = 1) ∧ t.health.overrun = (s.health.overrun || result = 2) ∧
  t.history n = { runs := satInc x.runs, last := BitVec.ofNat 24 result, fails := if result = 1 then satInc x.fails else x.fails
                  overruns := if result = 2 then satInc x.overruns else x.overruns } ∧
  ∀ c ∈ s.sliceCores n, (t.core c).sliceHold = false

theorem State.SliceEnded.ended {s t : State} {sl : Slice} {result : Nat} (h : s.SliceEnded t sl result) : sliceEnded sl s t result :=
  ⟨h.running, h.last, h.fail, h.overrun, h.history, h.released⟩

theorem sliceEnd_ends (sl : Slice) (fail : Bool) (slow : BitVec 10) : Occurs (.sliceEnd fail slow)
    (fun s => s.health.running = some sl ∧ s.tempo.count ≤ sl.start + sliceBudget sl.num.toNat)
    (fun s t => sliceEnded sl s t (if fail then 1 else 0)) := by
  rintro s hon ⟨hrun, htime⟩
  refine ⟨s.endSlice sl (if fail then 1 else 0) slow, (rfl : _ = execSliceEnd fail slow s).trans ((ifOn_on hon).trans ?_), ?_⟩
  · rw [hrun]
    exact congrArg _ (if_pos htime)
  · exact (s.endSlice_ends sl _ slow).ended

/-- Time that passes before a slice ends changes nothing that its end records. -/
theorem State.SliceEnded.of_until {s t : State} {sl : Slice} {result at_ : Nat} (h : (s.until at_).SliceEnded t sl result) :
    s.SliceEnded t sl result := by
  obtain ⟨n, hh⟩ := s.elapse_health (at_ - s.tempo.count)
  change (s.until at_).health = _ at hh
  constructor
  · exact h.running
  · exact h.last
  · exact h.fail.trans (by rw [hh])
  · exact h.overrun.trans (by rw [hh])
  · exact h.ovrCnt.trans (by rw [hh])
  · exact h.history.trans (by rw [State.history, hh]; rfl)
  · exact State.sliceCores_of_die (s.until_die at_) sl.num.toNat ▸ h.released

theorem sliceOverrun_ends (sl : Slice) : Occurs .sliceOverrun (fun s => s.health.running = some sl) (fun s t => sliceEnded sl s t 2 ∧
    t.tempo.count = max s.tempo.count (sl.start + sliceBudget sl.num.toNat) ∧ t.health.ovrCnt = satInc s.health.ovrCnt) := by
  intro s hon hrun
  let u := s.until (sl.start + sliceBudget sl.num.toNat)
  have h : s.SliceEnded (u.endSlice sl 2 0) sl 2 := (u.endSlice_ends sl 2 0).of_until
  refine ⟨u.endSlice sl 2 0, (rfl : _ = execSliceOverrun s).trans ((ifOn_on hon).trans ?_), h.ended, ?_, h.ovrCnt⟩
  · rw [hrun]
  · rw [State.tempo_of_barView (u.endSlice_barView sl 2 0), State.until_count]

theorem rehRunTimeout_ends : Occurs .rehRunTimeout (fun _ => True) (fun s t => (s.askedSlices = [] → t = s) ∧
    ∀ c rest, s.askedSlices = c :: rest → t = (s.until (c.startAt + 1000000000)).finish c .notPermitted []) := by
  refine Occurs.of (f := fun s => match s.askedSlices with
    | c :: _ => (s.until (c.startAt + 1000000000)).finish c .notPermitted []
    | [] => s) (fun _ => rfl) fun s _ _ => ⟨fun hn => ?_, fun c rest hc => ?_⟩
  · rw [hn]
  · rw [hc]

theorem State.coverLate_marks (s : State) (dt : Nat) :
    let t := (s.elapse dt).modHealth fun h => { h with coverLate := true, lateSet := true }
    t.health.coverLate = true ∧ t.health.lateSet = true ∧ t.health.cycles = s.health.cycles ∧ t.tempo.count = s.tempo.count + dt := by
  obtain ⟨n, hh⟩ := s.elapse_health dt
  exact ⟨rfl, rfl, (congrArg Health.cycles hh : (s.elapse dt).health.cycles = _), s.elapse_count dt⟩

theorem coverLate_occurs : Occurs .coverLate (fun _ => True) (fun s t =>
    let open_ : Prop := s.health.rehEn = true ∧ s.bar.run = true ∧ s.health.lateSet = false ∧ ∃ n ∈ s.planned, s.health.nextNum ≤ n
    (¬open_ → t = s) ∧ (open_ → t.health.coverLate = true ∧ t.health.lateSet = true ∧ t.health.cycles = s.health.cycles ∧
      t.tempo.count = s.tempo.count + (s.health.periodNs - s.health.cycleTime))) := by
  refine fun s hon _ => ⟨_, (rfl : _ = execCoverLate s).trans (ifOn_on hon), ?_⟩
  have hcond : (s.health.rehEn && s.bar.run && !s.health.lateSet && s.planned.any fun n => s.health.nextNum ≤ n) = true ↔
      s.health.rehEn = true ∧ s.bar.run = true ∧ s.health.lateSet = false ∧ ∃ n ∈ s.planned, s.health.nextNum ≤ n := by
    simp [and_assoc]
  dsimp only
  refine ⟨fun hno => if_neg (hcond.not.mpr hno), fun hopen => ?_⟩
  rw [if_pos (hcond.mpr hopen)]
  exact s.coverLate_marks _

end Sys2Proof.Machine
end

section
/-! SUPPORT. The ledger: the sources after an event or a leak, the repairs, the service hours (15 R640 to R649, R657, R661). -/
namespace Sys2Proof.Machine

/-! The sources of the ledger. -/

theorem State.lsrc_of_ledger {s t : State} (h : t.health.ledger = s.health.ledger) (n : Nat) : t.lsrc n = s.lsrc n := by
  rw [State.lsrc, h]
  rfl

theorem State.lsrc_putSrc (s : State) (src : Nat) (x : LSrc) (n : Nat) : (s.putSrc src x).lsrc n = if n = src then x else s.lsrc n := by
  rw [State.lsrc, Tbl.get, show (s.putSrc src x).health.ledger = Tbl.put s.health.ledger src x from rfl, Tbl.find_put]
  split <;> rfl

@[simp] theorem State.lsrc_putSrc_same (s : State) (src : Nat) (x : LSrc) : (s.putSrc src x).lsrc src = x :=
  (s.lsrc_putSrc src x src).trans (if_pos rfl)

theorem State.lsrc_putSrc_other (s : State) {src n : Nat} (x : LSrc) (h : n ≠ src) : (s.putSrc src x).lsrc n = s.lsrc n :=
  (s.lsrc_putSrc src x n).trans (if_neg h)

@[simp] theorem State.lsrc_mirrorUpdate (s : State) (n : Nat) : s.mirrorUpdate.lsrc n = s.lsrc n :=
  State.mirrorUpdate_keeps (·.lsrc n) (fun _ _ => State.lsrc_of_ledger rfl n) s
@[simp] theorem State.lsrc_flashLedger (s : State) (n : Nat) : s.flashLedger.lsrc n = s.lsrc n := State.lsrc_of_ledger rfl n

theorem LState.decided_iff (x : LState) : x.decided = true ↔ ¬(x = .clean ∨ x = .transient) := by
  cases x <;> simp [LState.decided]

/-! A drain of the event queue. -/

/-- A source after an event of it. -/
def LSrc.counted (x : LSrc) (e : HEvent) (hour : Word) : LSrc :=
  let c := min 4095 (x.c + if e.kind = 1 ∨ e.kind = 2 then 2 else 1)
  let open_ : Prop := x.state = .clean ∨ x.state = .transient
  { x with
    c, events := satInc x.events, hour, nextLeak := if x.c = 0 then e.svc + x.period else x.nextLeak
    state := if open_ then (if x.thresh ≤ c then .lasting else .transient) else x.state }

/-- An event makes its source lasting. -/
abbrev LSrc.lasts (x : LSrc) (e : HEvent) : Prop :=
  (x.state = .clean ∨ x.state = .transient) ∧ x.thresh ≤ min 4095 (x.c + if e.kind = 1 ∨ e.kind = 2 then 2 else 1)

theorem State.countEvent_eq (s : State) (e : HEvent) : s.countEvent e =
    (s.putSrc e.src.toNat ((s.lsrc e.src.toNat).counted e s.health.mirror[8]), decide ((s.lsrc e.src.toNat).lasts e)) := by
  have hw : weightOf e.kind = if e.kind = 1 ∨ e.kind = 2 then 2 else 1 := by simp [weightOf]
  unfold State.countEvent LSrc.counted LSrc.lasts
  dsimp only
  rw [hw]
  by_cases ho : (s.lsrc e.src.toNat).state = .clean ∨ (s.lsrc e.src.toNat).state = .transient
  · have hd : (s.lsrc e.src.toNat).state.decided = false := by
      rw [← Bool.not_eq_true, LState.decided_iff]
      exact not_not_intro ho
    simp [hd, ho, State.serviceHours]
  · simp [(LState.decided_iff _).mpr ho, ho, State.serviceHours]

theorem State.becameLasting_eq (s : State) (src : Nat) : s.becameLasting src =
    { s.notice 0x10 (BitVec.ofNat 24 (src + 2 * 4096)) with health := { s.health with
      repairs := if repairKind src = .report then s.health.repairs else s.health.repairs ++ [src] } } := by
  obtain ⟨x, h⟩ := s.notice_eq 0x10 (BitVec.ofNat 24 (src + 2 * 4096))
  change (if repairKind src = .report then s.notice 0x10 (BitVec.ofNat 24 (src + 2 * 4096)) else _) = _
  split
  · rw [h]
  · dsimp only [State.modHealth, LState.code]
    rw [h]

theorem State.drain_evq (s : State) : s.drain.health.evq = [] := by
  unfold State.drain
  dsimp only
  generalize hr : List.foldl _ _ _ = r
  have h1 : r.1.health.evq = [] := by
    rw [← hr]
    refine List.foldlRecOn (motive := fun acc : State × List Nat => acc.1.health.evq = []) _ _ rfl fun acc h e _ => ?_
    rw [State.countEvent_eq]
    exact h
  have h2 : (r.2.foldl State.becameLasting r.1).health.evq = [] := by
    rw [State.fold_keeps (·.health.evq) State.becameLasting (fun s src => by rw [State.becameLasting_eq])]
    exact h1
  have h3 := (State.mirrorUpdate_keeps (·.health.evq) (fun _ _ => rfl) _).trans h2
  generalize State.mirrorUpdate _ = v at h3 ⊢
  split <;> exact h3

/-- The state in which one event has been taken from the queue and counted. -/
def State.counted (s : State) (e : HEvent) : State :=
  (s.modHealth fun h => { h with evq := [] }).putSrc e.src.toNat ((s.lsrc e.src.toNat).counted e s.health.mirror[8])

theorem State.drain_one {s : State} {e : HEvent} (h : s.health.evq = [e]) :
    s.drain = if (s.lsrc e.src.toNat).lasts e then ((s.counted e).becameLasting e.src.toNat).mirrorUpdate.flashLedger
      else (s.counted e).mirrorUpdate := by
  have hc : (s.modHealth fun h => { h with evq := [] }).countEvent e = (s.counted e, decide ((s.lsrc e.src.toNat).lasts e)) := by
    rw [State.countEvent_eq, State.lsrc_of_ledger (s := s) (t := s.modHealth _) rfl]
    rfl
  unfold State.drain
  dsimp only
  rw [h, List.foldl_cons, List.foldl_nil, hc]
  by_cases hl : (s.lsrc e.src.toNat).lasts e
  · rw [if_pos hl, if_pos (decide_eq_true hl), insertNat, List.foldl_cons, List.foldl_nil, List.isEmpty_cons, if_neg Bool.false_ne_true]
  · rw [if_neg hl, if_neg (mt of_decide_eq_true hl), List.foldl_nil, List.isEmpty_nil, if_pos rfl]

theorem State.counted_lsrc (s : State) (e : HEvent) (m : Nat) :
    (s.counted e).lsrc m = if m = e.src.toNat then (s.lsrc e.src.toNat).counted e s.health.mirror[8] else s.lsrc m :=
  State.lsrc_putSrc _ _ _ _

theorem State.drain_counts {s : State} {e : HEvent} (h : s.health.evq = [e]) (m : Nat) :
    s.drain.lsrc m = if m = e.src.toNat then (s.lsrc e.src.toNat).counted e s.health.mirror[8] else s.lsrc m := by
  rw [State.drain_one h, ← State.counted_lsrc]
  split
  · rw [State.lsrc_flashLedger, State.lsrc_mirrorUpdate, State.becameLasting_eq]
    exact State.lsrc_of_ledger rfl m
  · rw [State.lsrc_mirrorUpdate]

/-- The notices, and the repairs that wait. -/
def State.reportView (s : State) : Rings × List Nat := (s.rings, s.health.repairs)

theorem State.flashLedger_reportView (s : State) : s.flashLedger.reportView = s.reportView := rfl

theorem State.drain_lasts {s : State} {e : HEvent} (h : s.health.evq = [e]) (hl : (s.lsrc e.src.toNat).lasts e)
    (hroom : s.rings.notices.length < 16) : let n := e.src.toNat
    s.drain.rings.notices = s.rings.notices ++ [(0x10, BitVec.ofNat 24 (n + 2 * 4096))] ∧ s.drain.rings.noticePend = true ∧
    s.drain.health.repairs = if repairKind n = .report then s.health.repairs else s.health.repairs ++ [n] := by
  have ht : s.drain.reportView = ((s.counted e).becameLasting e.src.toNat).reportView := by
    rw [State.drain_one h, if_pos hl, State.flashLedger_reportView]
    exact State.mirrorUpdate_keeps State.reportView (fun _ _ => rfl) _
  have hroom' : ¬16 ≤ (s.counted e).rings.notices.length := Nat.not_le.mpr hroom
  rw [State.becameLasting_eq, State.notice, if_neg hroom'] at ht
  obtain ⟨hrings, hrepairs⟩ := Prod.mk.inj ht
  exact ⟨(congrArg Rings.notices hrings).trans rfl, (congrArg Rings.noticePend hrings).trans rfl, hrepairs⟩

theorem ledgerDrain_counts : Occurs .ledgerDrain (fun _ => True) (fun s t => (¬s.cdrRuns = true → t = s) ∧
    (s.cdrRuns = true → t.health.evq = [] ∧ ∀ e : HEvent, s.health.evq = [e] →
      let n := e.src.toNat
      let x := s.lsrc n
      let c := min 4095 (x.c + if e.kind = 1 ∨ e.kind = 2 then 2 else 1)
      let open_ : Prop := x.state = .clean ∨ x.state = .transient
      t.lsrc n = { x with
        c, events := satInc x.events, hour := s.health.mirror[8], nextLeak := if x.c = 0 then e.svc + x.period else x.nextLeak
        state := if open_ then (if x.thresh ≤ c then .lasting else .transient) else x.state } ∧
      (∀ m, m ≠ n → t.lsrc m = s.lsrc m) ∧
      (open_ → x.thresh ≤ c → s.rings.notices.length < 16 →
        t.rings.notices = s.rings.notices ++ [(0x10, BitVec.ofNat 24 (n + 2 * 4096))] ∧ t.rings.noticePend = true ∧
        t.health.repairs = (if repairKind n = .report then s.health.repairs else s.health.repairs ++ [n])))) := by
  refine Occurs.of (f := fun s => if s.cdrRuns then s.drain else s) (fun _ => rfl) fun s _ _ => ⟨fun hr => if_neg hr, fun hr => ?_⟩
  rw [if_pos hr]
  refine ⟨s.drain_evq, fun e he => ⟨?_, fun m hm => ?_, fun ho hc hroom => s.drain_lasts he ⟨ho, hc⟩ hroom⟩⟩
  · exact (State.drain_counts he _).trans (if_pos rfl)
  · exact (State.drain_counts he m).trans (if_neg hm)

/-! Service time. -/

theorem State.untilService_health (s : State) (n : Nat) : ∃ k, (s.untilService n).health = { s.health with cycleTime := k } := by
  unfold State.untilService
  split
  · exact ⟨_, rfl⟩
  · exact s.elapse_health _

/-- The service time reaches the awaited second, where the counts begin even. -/
theorem State.untilService_service {s : State} (hfrac : s.pwr.aonFrac < 1000000000) (hrem : s.tempo.nsRem < s.tempo.pace)
    (hslew : s.tempo.slewRem = 0) (n : Nat) : (s.untilService n).pwr.service = max s.pwr.service n := by
  unfold State.untilService
  split
  · next h => exact (max_eq_left h).symm
  next h =>
    obtain ⟨h0, hlo, hhi⟩ := Tempo.tcxo_countsFor (ns := 1000000000 * (n - s.pwr.service) - s.pwr.aonFrac) hslew hrem (by omega)
    obtain ⟨q, he, -, -, -, -, hq, -⟩ := s.elapse_parts h0 rfl
    generalize (s.tempo.tcxo (s.tempo.slew _) _).1 = ns at he hq hlo hhi
    rw [he, State.runCdrCycles_keeps (·.pwr.service) (fun _ _ => rfl) (fun _ _ => rfl),
      State.fold_keeps (·.pwr.service) (fun s sec => s.runSection ns sec) (fun _ _ => rfl),
      State.fold_keeps (·.pwr.service) (fun s c => s.runCycles ns c) (fun s c => congrArg Power.service (s.runCycles_pwr ns c)), hq]
    change s.pwr.service + (s.pwr.aonFrac + ns) / 1000000000 = _
    omega

/-! Leaks. -/

/-- A source after a leak. -/
def LSrc.leaked (x : LSrc) : LSrc :=
  { x with c := x.c - 1, nextLeak := x.nextLeak + x.period, state := if x.c = 1 ∧ x.state = .transient then .clean else x.state }

theorem State.leak_eq {s : State} {src : Nat} (h : (s.lsrc src).c ≠ 0) : s.leak src = (s.putSrc src (s.lsrc src).leaked).mirrorUpdate := by
  unfold State.leak LSrc.leaked
  dsimp only
  rw [if_neg h]
  have hc : ((s.lsrc src).c - 1 = 0) ↔ (s.lsrc src).c = 1 := by omega
  simp only [Bool.and_eq_true, decide_eq_true_iff, hc]

theorem leakEvent_leaks (src : BitVec 12) : Occurs (.leakEvent src) (fun _ => True) fun s t =>
    let x := s.lsrc src.toNat
    (x.c = 0 → t = s) ∧ (x.c ≠ 0 → (∀ m, m ≠ src.toNat → t.lsrc m = s.lsrc m) ∧
      t.lsrc src.toNat = { x with
        c := x.c - 1, nextLeak := x.nextLeak + x.period, state := if x.c = 1 ∧ x.state = .transient then .clean else x.state } ∧
      (s.pwr.aonFrac < 1000000000 ∧ s.tempo.nsRem < s.tempo.pace ∧ s.tempo.slewRem = 0 → t.pwr.service = max s.pwr.service x.nextLeak)) := by
  refine Occurs.of (f := fun s => if (s.lsrc src.toNat).c = 0 then s else (s.untilService (s.lsrc src.toNat).nextLeak).leak src.toNat)
    (fun _ => rfl) fun s _ _ => ⟨fun h0 => if_pos h0, fun h0 => ?_⟩
  rw [if_neg h0]
  obtain ⟨k, hk⟩ := s.untilService_health (s.lsrc src.toNat).nextLeak
  have hsrc (m : Nat) : (s.untilService (s.lsrc src.toNat).nextLeak).lsrc m = s.lsrc m := State.lsrc_of_ledger ((congrArg Health.ledger hk).trans rfl) m
  rw [State.leak_eq ((congrArg LSrc.c (hsrc _)).trans_ne h0), hsrc]
  refine ⟨fun m hm => ?_, ?_, fun ⟨hfrac, hrem, hslew⟩ => ?_⟩
  · rw [State.lsrc_mirrorUpdate, State.lsrc_putSrc_other _ _ hm, hsrc]
  · rw [State.lsrc_mirrorUpdate, State.lsrc_putSrc_same]
    rfl
  · rw [State.mirrorUpdate_keeps (·.pwr.service) (fun _ _ => rfl)]
    exact State.untilService_service hfrac hrem hslew _

/-! Repairs. -/

/-- What the next repair waits for. -/
theorem State.nextRepair_cons {s : State} {src : Nat} {rest : List Nat} (h : s.health.repairs = src :: rest) (p : RepairKind → Bool) :
    s.nextRepair p = if p (repairKind src) = true ∧ s.repairBlocked src = false ∧ ∀ c ∈ s.rings.active, c.op ≠ 0x63 then (s.repair src).1
      else s := by
  unfold State.nextRepair
  rw [h]
  dsimp only
  have hnone : (s.running 0x63).isNone = true ↔ ∀ c ∈ s.rings.active, c.op ≠ 0x63 := by
    simp [State.running, List.find?_eq_none]
  simp only [Bool.and_eq_true, Bool.not_eq_true', hnone, and_assoc]

theorem nextRepair_occurs {i : Instr} {k : RepairKind → Prop} {p : RepairKind → Bool} (hp : ∀ x, p x = true ↔ k x)
    (hi : ∀ s, exec i s = ifOn s fun s => if s.cdrRuns then s.nextRepair p else s) : Occurs i (fun _ => True) fun s t =>
    let due := fun (src : Nat) => s.cdrRuns = true ∧ k (repairKind src) ∧ s.repairBlocked src = false ∧ ∀ c ∈ s.rings.active, c.op ≠ 0x63
    (s.health.repairs = [] → t = s) ∧ ∀ src rest, s.health.repairs = src :: rest → (due src → t = (s.repair src).1) ∧ (¬due src → t = s) := by
  refine Occurs.of hi fun s _ _ => ?_
  by_cases hr : s.cdrRuns = true
  · rw [if_pos hr]
    refine ⟨fun hn => ?_, fun src rest h => ?_⟩
    · unfold State.nextRepair
      rw [hn]
    · rw [State.nextRepair_cons h]
      exact ⟨fun ⟨_, hk, hfree⟩ => if_pos ⟨(hp _).mpr hk, hfree⟩, fun hd => if_neg fun ⟨hk, hfree⟩ => hd ⟨hr, (hp _).mp hk, hfree⟩⟩
  · rw [if_neg hr]
    exact ⟨fun _ => rfl, fun src rest _ => ⟨fun hd => absurd hd.1 hr, fun _ => rfl⟩⟩

/-! Service hours. -/

theorem State.mirrorUpdate_hours (s : State) : s.mirrorUpdate.serviceHours = s.serviceHours := by
  unfold State.mirrorUpdate State.serviceHours
  simp [State.modHealth]

/-- What the count of service hours leaves: the service time, the next hour, and the hours. -/
def State.hourView (s : State) : Nat × Nat × Word := (s.pwr.service, s.health.hourAt, s.serviceHours)

theorem State.mirrorUpdate_hourView (s : State) : s.mirrorUpdate.hourView = s.hourView := by
  obtain ⟨m, hm⟩ := s.mirrorUpdate_eq
  have hh := s.mirrorUpdate_hours
  rw [hm] at hh ⊢
  exact congrArg (s.pwr.service, s.health.hourAt, ·) hh

theorem State.flashLedger_hourView (s : State) : s.flashLedger.hourView = s.hourView := rfl

theorem State.addHours_adds {s : State} (h : s.health.hourAt ≤ s.pwr.service) : let n := (s.pwr.service - s.health.hourAt) / 3600 + 1
    s.addHours.hourView = (s.pwr.service, s.health.hourAt + 3600 * n, satAdd s.serviceHours n) := by
  unfold State.addHours
  rw [if_neg (Nat.not_lt.mpr h)]
  extract_lets n s1 due tell s2 s3
  have h1 : s1.hourView = (s.pwr.service, s.health.hourAt + 3600 * n, satAdd s.serviceHours n) := by
    simp [s1, State.hourView, State.serviceHours, State.modHealth]
  have h2 : s2.hourView = s1.hourView := by
    unfold s2
    split
    · obtain ⟨x, hx⟩ := s1.notice_eq 0x12 (satNat 24 due)
      rw [hx]
      rfl
    · rfl
  have h3 : s3.hourView = s2.hourView := s2.mirrorUpdate_hourView
  refine Eq.trans ?_ (h3.trans (h2.trans h1))
  clear_value s3
  split
  · exact s3.flashLedger_hourView
  · rfl

theorem serviceHour_adds : Occurs .serviceHour
    (fun s => s.pwr.aonFrac < 1000000000 ∧ s.tempo.nsRem < s.tempo.pace ∧ s.tempo.slewRem = 0) (fun s t => (¬s.cdrRuns = true → t = s) ∧
    (s.cdrRuns = true →
      let past := (t.pwr.service - s.health.hourAt) / 3600 + 1
      t.pwr.service = max s.pwr.service s.health.hourAt ∧ t.health.hourAt = s.health.hourAt + 3600 * past ∧ t.pwr.service < t.health.hourAt ∧
      t.health.mirror[8] = satAdd s.health.mirror[8] past)) := by
  refine Occurs.of (f := fun s => if s.cdrRuns then (s.untilService s.health.hourAt).addHours else s) (fun _ => rfl) fun s _ hev => ?_
  obtain ⟨hfrac, hrem, hslew⟩ := hev
  refine ⟨fun hr => if_neg hr, fun hr => ?_⟩
  rw [if_pos hr]
  have hsvc := State.untilService_service hfrac hrem hslew s.health.hourAt
  obtain ⟨k, hk⟩ := s.untilService_health s.health.hourAt
  generalize s.untilService s.health.hourAt = u at hsvc hk
  have hat : u.health.hourAt = s.health.hourAt := (congrArg Health.hourAt hk).trans rfl
  have hmir : u.serviceHours = s.serviceHours := (congrArg (fun h : Health => h.mirror[8]) hk).trans rfl
  have hadd := State.addHours_adds (s := u) (by rw [hat, hsvc]; exact le_max_right _ _)
  obtain ⟨h1, hrest⟩ := Prod.mk.inj hadd
  obtain ⟨h2, h3⟩ := Prod.mk.inj hrest
  rw [hat] at h2 h3
  dsimp only
  rw [h1]
  refine ⟨hsvc, h2, ?_, ?_⟩
  · rw [h2]
    omega
  · exact h3.trans (by rw [hmir]; rfl)

/-! The head of the event queue. -/

theorem evqPop_pops (w : Initiator) : Accesses (.evqPop w) w (fun _ => True) fun s t =>
    t = if w = .conductor then { s with health := { s.health with evq := s.health.evq.tail } } else s := by
  refine Accesses.of (f := fun s => s.healthWrite w 0x12 0) (fun _ => rfl) fun s _ => ?_
  by_cases hw : w = .conductor
  · subst hw
    rfl
  · rw [if_neg hw]
    have hc : w.isCdr = false := by rw [← Bool.not_eq_true, isCdr_iff]; exact hw
    simp [State.healthWrite, hc]

end Sys2Proof.Machine

open Sys2Proof Sys2Proof.Machine

/-- Settles O49, event by event. -/
theorem refrainAndHealthEvents : Obligations.RefrainAndHealthEvents := by
  unfold Obligations.RefrainAndHealthEvents
  refine ⟨refrainStreamLine_streams, applyEnd_ends, handoverTimeout_ends, ?_, rehRunTimeout_ends,
    fun sl => ⟨sliceEnd_ends sl, sliceOverrun_ends sl⟩, coverLate_occurs, ledgerDrain_counts, leakEvent_leaks, ⟨?_, ?_⟩, serviceHour_adds, evqPop_pops⟩
  · exact Occurs.of (f := fun s => if s.die.variant.duet then s.modRf fun r => { r with batonAge := 0 } else s) (fun _ => rfl)
      fun s _ hduet => if_pos hduet
  · exact nextRepair_occurs (i := .spareWayRepair) (k := fun k => k = .spare2 ∨ k = .spare3) (p := fun k => k = .spare2 || k = .spare3) (fun x => by simp) fun _ => rfl
  · exact nextRepair_occurs (i := .laneDegrade) (k := fun k => k = .lane) (p := fun k => k = .lane) (fun x => by simp) fun _ => rfl

end

section
/-! SUPPORT. The pool registers: a request granted or refused, a release (10 R428 to R433, R439), and O43. -/
namespace Sys2Proof.Machine

/-- The low mark after a request that leaves `n` buffers. -/
theorem lowMark_toNat (low : BitVec 19) (n : Nat) :
    (if n < low.toNat then BitVec.ofNat 19 n else low).toNat = min low.toNat n % 2 ^ 19 := by
  have := low.isLt
  split
  · rw [BitVec.toNat_ofNat, min_eq_right (by omega)]
  · rw [min_eq_left (by omega), Nat.mod_eq_of_lt this]

/-- A request that a pool grants takes the buffer that has been free longest (10 R428, R429). -/
theorem State.grant_grants {s : State} {p : Fin 32} {cdr : Bool} {i : Nat} {rest : List Nat} (hen : (s.pool p).en = true)
    (hfree : (s.pool p).free = i :: rest) (henough : cdr = true ∨ 2 < (s.pool p).free.length) :
    ∃ low : BitVec 19, s.grant p cdr = (s.setPool p { s.pool p with free := rest, low }, handleOf p.val i) ∧
      low.toNat = min (s.pool p).low.toNat rest.length % 2 ^ 19 := by
  refine ⟨_, ?_, lowMark_toNat (s.pool p).low rest.length⟩
  unfold State.grant
  dsimp only
  rw [hfree] at henough ⊢
  dsimp only
  rw [if_pos]
  rw [hen, Bool.true_and]
  cases cdr with
  | true => simp
  | false => simpa using henough

/-- A request that a pool cannot grant sets its bit of EMPTY (10 R430, R431). -/
theorem State.grant_empty {s : State} {p : Fin 32} {cdr : Bool}
    (hfew : ¬if cdr then 1 ≤ (s.pool p).free.length else 2 < (s.pool p).free.length) :
    s.grant p cdr = ({ s with bm := { s.bm with empty := setBit s.bm.empty p.val true } }, emptyHandle) := by
  unfold State.grant
  dsimp only
  split
  · rw [if_neg]
    rw [Bool.and_eq_true]
    exact fun h => hfew (by cases cdr <;> simpa using h.2)
  · rfl

@[simp] theorem State.setPool_pool_same (s : State) (p : Fin 32) (x : Pool) : (s.setPool p x).pool p = x := by
  simp [State.setPool, State.pool]

theorem State.setPool_pool_other (s : State) {p q : Fin 32} (x : Pool) (h : q ≠ p) : (s.setPool p x).pool q = s.pool q := by
  have hv : p.val ≠ q.val := fun e => h (Fin.ext e.symm)
  simp [State.setPool, State.pool, hv]

/-- A read of POOL_ALLOC that the pool admits is one request to it; a Voice core to which it gives a handle is named (10 R432). -/
theorem State.poolAlloc_admitted {s : State} {w : Initiator} {p : Fin 32} (hen : (s.pool p).en = true) (hadm : s.poolAdmits w p = true) :
    ∃ last, (s.poolAlloc w p).1 = { (s.grant p w.isCdr).1 with bm := { (s.grant p w.isCdr).1.bm with lastCore := last } } ∧
      ((s.grant p w.isCdr).2 = emptyHandle → last = (s.grant p w.isCdr).1.bm.lastCore) ∧
      ∀ c, w = .voice c → (s.grant p w.isCdr).2 ≠ emptyHandle → last = BitVec.ofNat 4 c.val := by
  unfold State.poolAlloc
  rw [if_neg (by rw [hen, hadm]; exact Bool.false_ne_true)]
  cases w with
  | voice c =>
    dsimp only
    split
    · next he => exact ⟨_, rfl, fun _ => rfl, fun _ _ hne => absurd he hne⟩
    · next hne => exact ⟨_, rfl, fun he => absurd he hne, by rintro d ⟨⟩ _; rfl⟩
  | _ => exact ⟨_, rfl, fun _ => rfl, nofun⟩

/-- A release that the pool takes adds the buffer at the end; one of a buffer that is free sets DBL_FREE (10 R433). -/
theorem State.release_own {s : State} {p : Fin 32} {hd : Word} (hp : handlePool hd = p) (hen : (s.pool p).en = true)
    (hi : handleIndex hd < (s.pool p).count.toNat) :
    s.release p hd true = if handleIndex hd ∈ (s.pool p).free then { s with bm := { s.bm with dblFree := true } }
      else s.setPool p { s.pool p with free := (s.pool p).free ++ [handleIndex hd] } := by
  unfold State.release
  simp [hp, hen, hi]

/-- A release that is not allowed, or of a handle that is not the pool's, sets BAD_FREE (10 R433). -/
theorem State.release_foreign {s : State} {p : Fin 32} {hd : Word} {allowed : Bool}
    (h : ¬(allowed = true ∧ handlePool hd = p ∧ (s.pool p).en = true ∧ handleIndex hd < (s.pool p).count.toNat)) :
    s.release p hd allowed = { s with bm := { s.bm with badFree := true } } := by
  unfold State.release
  rw [if_neg]
  simpa [and_assoc] using h

theorem handlePool_eq_iff (hd : Word) (p : Fin 32) : handlePool hd = p ↔ bits hd 19 5 = BitVec.ofNat 5 p.val := by
  unfold handlePool
  constructor
  · rintro rfl
    simp
  · intro h
    rw [h]
    exact Fin.ext (by simp)

/-- What a read of POOL_ALLOC leaves. -/
theorem poolAlloc_grants {w : Initiator} {p : Fin 32} {admits : State → Prop} (hadm : ∀ s, admits s ↔ s.poolAdmits w p = true) :
    Accesses (.poolAlloc w p) w (fun _ => True) (fun s t =>
      ((s.pool p).en = false ∨ ¬admits s → t = s) ∧
      ((s.pool p).en = true → admits s →
        let x := s.pool p
        let enough : Prop := if w = .conductor then 1 ≤ x.free.length else 2 < x.free.length
        (¬enough → t = { s with bm := { s.bm with empty := setBit s.bm.empty p.val true } }) ∧
        (enough → t.pool p = { x with free := x.free.tail, low := (t.pool p).low } ∧
          (t.pool p).low.toNat = min x.low.toNat (x.free.length - 1) % 2 ^ 19 ∧
          t = { s with bm := { s.bm with pools := t.bm.pools, lastCore := t.bm.lastCore } } ∧
          (∀ c, w = .voice c → (∀ i, x.free.head? = some i → handleOf p.val i ≠ 0xFFFFFF) → t.bm.lastCore.toNat = c.val) ∧
          ∀ q, q ≠ p → t.pool q = s.pool q))) := by
  refine Accesses.of (f := fun s => (s.poolAlloc w p).1) (fun _ => rfl) fun s _ => ⟨fun hno => ?_, fun hen hyes => ?_⟩
  · unfold State.poolAlloc
    rw [if_pos (by rw [hadm] at hno; simpa using hno)]
  have hcdr : w.isCdr = true ↔ w = .conductor := decide_eq_true_iff
  obtain ⟨last, heq, hempty, hlast⟩ := State.poolAlloc_admitted hen ((hadm s).1 hyes)
  refine ⟨fun hfew => ?_, fun henough => ?_⟩
  · have hg := State.grant_empty (s := s) (p := p) (cdr := w.isCdr) (by simpa only [hcdr] using hfew)
    rw [hg] at heq hempty
    rw [hempty rfl] at heq
    exact heq
  · obtain ⟨i, rest, hfree⟩ : ∃ i rest, (s.pool p).free = i :: rest := by
      refine List.exists_cons_of_ne_nil fun h => ?_
      rw [h] at henough
      split at henough <;> simp at henough
    obtain ⟨low, hg, hlow⟩ := State.grant_grants (cdr := w.isCdr) hen hfree (by rw [hcdr]; split at henough <;> tauto)
    rw [hg] at heq hlast
    have hpool (q : Fin 32) : (s.poolAlloc w p).1.pool q = (s.setPool p { s.pool p with free := rest, low }).pool q :=
      (congrArg (fun t : State => t.pool q) heq).trans rfl
    dsimp only
    rw [hfree, hpool p, State.setPool_pool_same]
    refine ⟨rfl, hlow, ?_, fun c hc hne => ?_, fun q hq => (hpool q).trans (s.setPool_pool_other _ hq)⟩
    · rw [heq]
      rfl
    · rw [heq]
      refine (congrArg BitVec.toNat (hlast c hc (hne i rfl))).trans ?_
      rw [BitVec.toNat_ofNat, Nat.mod_eq_of_lt (by omega)]

/-- What a write of POOL_RELEASE leaves (10 R433). -/
theorem poolRelease_releases {w : Initiator} {p : Fin 32} {v : Word} {admits : State → Prop}
    (hadm : ∀ s, admits s ↔ s.poolAdmits w p = true) :
    Accesses (.poolRelease w p v) w (fun _ => True) (fun s t =>
      let its := admits s ∧ bits v 19 5 = BitVec.ofNat 5 p.val ∧ (s.pool p).en = true ∧ handleIndex v < (s.pool p).count.toNat
      (¬its → t = { s with bm := { s.bm with badFree := true } }) ∧
      (its → handleIndex v ∈ (s.pool p).free → t = { s with bm := { s.bm with dblFree := true } }) ∧
      (its → handleIndex v ∉ (s.pool p).free → t = s.setPool p { s.pool p with free := (s.pool p).free ++ [handleIndex v] })) := by
  refine Accesses.of (f := fun s => s.release p v (s.poolAdmits w p)) (fun _ => rfl) fun s _ => ?_
  dsimp only
  rw [← handlePool_eq_iff, hadm]
  refine ⟨State.release_foreign, fun ⟨hyes, hp, hen, hi⟩ hmem => ?_, fun ⟨hyes, hp, hen, hi⟩ hmem => ?_⟩
  · rw [hyes, State.release_own hp hen hi, if_pos hmem]
  · rw [hyes, State.release_own hp hen hi, if_neg hmem]

/-- A write of POOL_LOWMARK by the Conductor sets it to POOL_FREE (10 R439). -/
theorem poolLowmarkWrite_sets (w : Initiator) (p : Fin 32) (v : Word) : Accesses (.poolLowmarkWrite w p v) w (fun _ => True) (fun s t =>
    t = if w = .conductor then s.setPool p { s.pool p with low := BitVec.ofNat 19 (s.pool p).free.length } else s) := by
  refine Accesses.of (f := fun s => s.bmWrite w (0x105 + 8 * p.val) v) (fun _ => rfl) fun s _ => ?_
  have hreg : (0x105 + 8 * p.val) % 8 = 5 := by omega
  have hpool : (⟨(0x105 + 8 * p.val - 0x100) / 8, by omega⟩ : Fin 32) = p := Fin.ext (by dsimp only; omega)
  unfold State.bmWrite
  rw [if_neg (by omega), if_neg (by omega), if_neg (by omega), dif_pos (by omega)]
  dsimp only
  rw [hpool, hreg]
  cases w <;> rfl

end Sys2Proof.Machine

open Sys2Proof Sys2Proof.Machine

/-- Settles O43: a read of POOL_ALLOC is one request to the pool, and a release looks the buffer up among the free ones. -/
theorem poolRegisters : Obligations.PoolRegisters := by
  unfold Obligations.PoolRegisters
  intro w p v admits set index its
  have hadm : ∀ s, admits s ↔ s.poolAdmits w p = true := fun s => by cases w <;> simp [admits, State.poolAdmits]
  exact ⟨poolAlloc_grants hadm, poolRelease_releases hadm, poolLowmarkWrite_sets w p v⟩

end

section
/-! SUPPORT. Words written into the page of a ring (10 Tables 10.1 and 10.2). -/
namespace Sys2Proof.Machine

/-- State `t` is `s` once good words have been written into the page of ring `r`. -/
structure State.Paged (s : State) (r : BitVec 5) (t : State) : Prop where
  frame : t = { s with stage := t.stage, stageBad := t.stageBad }
  pages : t.PagesOk
  bad   : ∀ a ∈ t.stageBad, a ∈ s.stageBad
  other : ∀ (q : BitVec 5) (o : Nat), q ≠ r → o < 4096 → t.ringWord q o = s.ringWord q o

theorem State.Paged.refl {s : State} (h : s.PagesOk) (r : BitVec 5) : s.Paged r s := ⟨rfl, h, fun _ ha => ha, fun _ _ _ _ => rfl⟩

theorem State.Paged.trans {s t u : State} {r : BitVec 5} (h : s.Paged r t) (h' : t.Paged r u) : s.Paged r u where
  frame := by
    have e := h'.frame
    rw [h.frame] at e
    exact e
  pages := h'.pages
  bad a ha := h.bad a (h'.bad a ha)
  other q o hq ho := (h'.other q o hq ho).trans (h.other q o hq ho)

theorem State.Paged.rings {s t : State} {r : BitVec 5} (h : s.Paged r t) : t.rings = s.rings := (congrArg State.rings h.frame).trans rfl

theorem State.ringWord_setRingWord_other {s : State} (h : s.PagesOk) {r q : BitVec 5} (hq : q ≠ r) {o o' : Nat} (ho : o < 4096) (ho' : o' < 4096)
    (v : Word) : (s.setRingWord r o v).ringWord q o' = s.ringWord q o' := by
  have hn : q.toNat ≠ r.toNat := fun e => hq (BitVec.eq_of_toNat_eq e)
  unfold State.setRingWord State.ringWord
  rw [Memory.word_setWord h, if_neg (by omega)]

theorem State.setRingWord_paged {s : State} (h : s.PagesOk) (r : BitVec 5) {o : Nat} (ho : o < 4096) (v : Word) :
    s.Paged r (s.setRingWord r o v) where
  frame := rfl
  pages := State.setRingWord_pages h r o v
  bad _ ha := (List.mem_filter.1 ha).1
  other _ _ hq ho' := State.ringWord_setRingWord_other h hq ho ho' v

theorem State.putReq_paged {s : State} (h : s.PagesOk) (r : BitVec 5) (i : Word) (ws : List Word) : s.Paged r (s.putReq r i ws) := by
  induction ws generalizing s i with
  | nil => exact .refl h r
  | cons w ws ih => exact (State.setRingWord_paged h r (by omega) w).trans (ih (State.setRingWord_pages h ..) (i + 1))

theorem State.putRpl_paged {s : State} (h : s.PagesOk) (r : BitVec 5) (i : Word) (ws : List Word) : s.Paged r (s.putRpl r i ws) := by
  induction ws generalizing s i with
  | nil => exact .refl h r
  | cons w ws ih => exact (State.setRingWord_paged h r (by omega) w).trans (ih (State.setRingWord_pages h ..) (i + 1))

/-- A word of the page that no word of a reply is written to stays. -/
theorem State.ringWord_putRpl_off {s : State} (h : s.PagesOk) (r : BitVec 5) (i : Word) (ws : List Word) {o : Nat}
    (ho : ∀ j < ws.length, o ≠ 0xC00 + (i.toNat + j) % 1024) : (s.putRpl r i ws).ringWord r o = s.ringWord r o := by
  induction ws generalizing s i with
  | nil => rfl
  | cons w ws ih =>
    rw [State.putRpl, ih (State.setRingWord_pages h ..) (i + 1), State.ringWord_setRingWord h, if_neg]
    · exact ho 0 (by simp)
    · intro j hj
      have := ho (j + 1) (by simpa using hj)
      rw [BitVec.toNat_add, show (1 : Word).toNat = 1 from rfl]
      omega

/-- Words written to a reply ring are found at their places. -/
theorem State.ringWord_putRpl_at {s : State} (h : s.PagesOk) (r : BitVec 5) (i : Word) (ws : List Word) (hl : ws.length ≤ 1024) {j : Nat}
    (hj : j < ws.length) : (s.putRpl r i ws).ringWord r (0xC00 + (i.toNat + j) % 1024) = ws.getD j 0 := by
  induction ws generalizing s i j with
  | nil => simp at hj
  | cons w ws ih =>
    rw [List.length_cons] at hl hj
    have hnext : (i + 1).toNat = (i.toNat + 1) % 2 ^ 24 := by rw [BitVec.toNat_add]; rfl
    rw [State.putRpl]
    cases j with
    | zero =>
      rw [State.ringWord_putRpl_off (State.setRingWord_pages h ..), State.ringWord_setRingWord h, if_pos (by simp)]
      · rfl
      · intro k hk
        omega
    | succ j =>
      have := ih (State.setRingWord_pages h r (0xC00 + i.toNat % 1024) w) (i + 1) (by omega) (j := j) (by omega)
      rw [hnext, show ((i.toNat + 1) % 2 ^ 24 + j) % 1024 = (i.toNat + (j + 1)) % 1024 by omega] at this
      exact this

/-- A word of a request packet stands at its place of the request ring. -/
theorem State.reqWord_putReq {s : State} (h : s.PagesOk) (r : BitVec 5) (i : Word) (ws : List Word) (hl : ws.length ≤ 2048) {j : Nat}
    (hj : j < ws.length) : (s.putReq r i ws).reqWord r (i + BitVec.ofNat 24 j) = ws.getD j 0 := by
  have hplace : (0x400 + (i + BitVec.ofNat 24 j).toNat % 2048 - 0x400 + 2048 - i.toNat % 2048) % 2048 = j := by
    rw [BitVec.toNat_add, BitVec.toNat_ofNat]
    omega
  unfold State.reqWord
  rw [State.ringWord_putReq h r i ws hl, hplace, if_pos (by omega)]

end Sys2Proof.Machine
end

section
/-! SUPPORT. What taking a packet leaves (10 R394, R398, R403; 04 R133). -/
namespace Sys2Proof.Machine

/-! The doorbells. -/

theorem State.ring_eq (s : State) (r : BitVec 5) :
    ∃ d p g, s.ring r = { s with rings := { s.rings with dbPend := d, dbPartner := p, dbDebug := g } } := by
  unfold State.ring State.modRings
  split
  · exact ⟨_, _, _, rfl⟩
  · split <;> exact ⟨_, _, _, rfl⟩

theorem State.unring_eq (s : State) (r : BitVec 5) :
    ∃ d p g, s.unring r = { s with rings := { s.rings with dbPend := d, dbPartner := p, dbDebug := g } } := by
  unfold State.unring State.modRings
  split
  · exact ⟨_, _, _, rfl⟩
  · split <;> exact ⟨_, _, _, rfl⟩

theorem State.learn_eq (s : State) (r : BitVec 5) : ∃ k, s.learn r = { s with rings := { s.rings with known := k } } := ⟨_, rfl⟩

theorem State.served_last (s : State) (r : BitVec 5) :
    ∃ l : BitVec 4, s.served r = { s with rings := { s.rings with last := l } } ∧ (r.toNat < 16 → l.toNat = r.toNat) := by
  unfold State.served State.modRings
  split
  · refine ⟨_, rfl, fun h => ?_⟩
    rw [BitVec.toNat_setWidth]
    omega
  · next h => exact ⟨s.rings.last, rfl, fun h' => absurd (BitVec.lt_def.2 h') h⟩

/-- A doorbell of a ring that runs within its limits is cleared, and REQ_PROD is read (10 R399, R403). -/
theorem State.serveDoorbell_learns {s : State} {r : BitVec 5} (hrun : s.ringState r = 1) (hgo : ringBit s.rings.stopped r = false)
    (hlim : s.ringLimits r = true) : s.serveDoorbell r = (s.unring r).learn r := by
  obtain ⟨d, p, g, h⟩ := s.unring_eq r
  have hrun' : (s.unring r).ringState r = 1 := by rw [h]; exact hrun
  have hgo' : ringBit (s.unring r).rings.stopped r = false := by rw [h]; exact hgo
  have hlim' : (s.unring r).ringLimits r = true := by rw [h]; exact hlim
  unfold State.serveDoorbell
  dsimp only
  rw [hrun', hgo', hlim']
  rfl

/-- A packet taken behind its doorbell leaves the service as it was but for the doorbell, REQ_PROD as read and the ring served last. -/
theorem State.serveDoorbell_consume {s : State} {r : BitVec 5} (hrun : s.ringState r = 1) (hgo : ringBit s.rings.stopped r = false)
    (hlim : s.ringLimits r = true) (n : Nat) : ∃ d p g k, ∃ l : BitVec 4, (r.toNat < 16 → l.toNat = r.toNat) ∧
      (s.serveDoorbell r).consume r n = { s.setRingWord r 1 (s.reqCons r + BitVec.ofNat 24 n) with
        rings := { s.rings with dbPend := d, dbPartner := p, dbDebug := g, known := k, last := l } } := by
  obtain ⟨d, p, g, hunring⟩ := s.unring_eq r
  obtain ⟨k, hlearn⟩ := (s.unring r).learn_eq r
  rw [State.serveDoorbell_learns hrun hgo hlim, hlearn, hunring]
  unfold State.consume
  obtain ⟨l, hserved, hl⟩ := State.served_last (State.setRingWord
    { s with rings := { s.rings with dbPend := d, dbPartner := p, dbDebug := g, known := k } } r 1 (s.reqCons r + BitVec.ofNat 24 n)) r
  exact ⟨d, p, g, k, l, hl, hserved⟩

/-! Reservations. -/

/-- A core keeps its reservation where its line is none of those written. -/
theorem clearedCores_resv (l : List Nat) (cores : Vector VoiceCore 12) (c : Fin 12) :
    (clearedCores l cores)[c].resv = if cores[c].resv.any (fun q => l.contains q.line) then none else cores[c].resv := by
  induction l generalizing cores with
  | nil => simp [clearedCores]
  | cons x l ih =>
    refine (ih _).trans ?_
    simp only [Fin.getElem_fin, Vector.getElem_ofFn]
    cases h : cores[c.val].resv with
    | none => simp [h]
    | some q =>
      by_cases e : q.line = x
      · simp [e]
      · simp [h, e]

theorem State.postPacket_cleared (s : State) (r : BitVec 5) (ws : List Word) :
    s.postPacket r ws = { s.sendPacket r ws with cores := clearedCores (s.packetLines r ws.length) s.cores } := by
  have hc : (s.sendPacket r ws).cores = s.cores := by
    obtain ⟨st, bad, e⟩ := s.putReq_eq r (s.reqProd r) ws
    unfold State.sendPacket
    dsimp only
    rw [e]
    rfl
  unfold State.postPacket
  rw [State.foldl_clearResv, hc]

/-! The state in which a packet has been taken. -/

/-- A packet of a requester written into its ring, and REQ_PROD behind it (10 R394). -/
def State.writeRequest (s : State) (r : BitVec 5) (ws : List Word) : State :=
  (s.putReq r (s.reqProd r) ws).setRingWord r 0 (s.reqProd r + BitVec.ofNat 24 ws.length)

theorem State.sendPacket_eq (s : State) (r : BitVec 5) (ws : List Word) : ∃ d p g,
    s.sendPacket r ws = { s.writeRequest r ws with rings := { s.rings with dbPend := d, dbPartner := p, dbDebug := g } } := by
  obtain ⟨st, bad, e⟩ := s.putReq_eq r (s.reqProd r) ws
  obtain ⟨d, p, g, h⟩ := (s.writeRequest r ws).ring_eq r
  refine ⟨d, p, g, h.trans ?_⟩
  unfold State.writeRequest
  rw [e]
  rfl

theorem State.writeRequest_paged {s : State} (h : s.PagesOk) (r : BitVec 5) (ws : List Word) : s.Paged r (s.writeRequest r ws) :=
  (State.putReq_paged h ..).trans (State.setRingWord_paged (State.putReq_pages h ..) r (by omega) _)

theorem State.ringWord_writeRequest {s : State} (h : s.PagesOk) (r : BitVec 5) (ws : List Word) (o : Nat) :
    (s.writeRequest r ws).ringWord r o = if o = 0 then s.reqProd r + BitVec.ofNat 24 ws.length else (s.putReq r (s.reqProd r) ws).ringWord r o :=
  State.ringWord_setRingWord (State.putReq_pages h ..) ..

theorem State.ringWord_writeRequest_low {s : State} (h : s.PagesOk) (r : BitVec 5) {ws : List Word} (hl : ws.length ≤ 2048) {o : Nat} (h0 : o ≠ 0)
    (ho : o < 0x400) : (s.writeRequest r ws).ringWord r o = s.ringWord r o := by
  rw [State.ringWord_writeRequest h, if_neg h0, State.ringWord_putReq h r _ ws hl, if_neg (by omega)]

/-- The request of a packet that a ring accepts. -/
abbrev State.requested (s : State) (op : BitVec 8) (h : Header) (ps : List Word) : State := s.writeRequest h.ring (packetWords op h ps)

theorem packetWords_length (op : BitVec 8) (h : Header) (ps : List Word) : (packetWords op h ps).length = 2 + ps.length := by
  simp only [packetWords, List.length_append, List.length_cons, List.length_nil]

/-- A packet that is taken is written into its ring's page, both counts pass it, the service notes its ring, and reservations on the lines
written are cleared. -/
theorem State.taken_eq {s : State} {h : Header} {ps : List Word} {space : Nat} (a : Accepts s h ps.length space) (op : BitVec 8) :
    ∃ d p g k, ∃ l : BitVec 4, (h.ring.toNat < 16 → l.toNat = h.ring.toNat) ∧
      s.taken op h ps =
        { (s.requested op h ps).setRingWord h.ring 1 (s.reqProd h.ring + BitVec.ofNat 24 (2 + ps.length)) with
          rings := { s.rings with dbPend := d, dbPartner := p, dbDebug := g, known := k, last := l }
          cores := clearedCores (s.packetLines h.ring (2 + ps.length)) s.cores } := by
  have hlen := packetWords_length op h ps
  have hwords := a.words
  have hlow {o : Nat} (h0 : o ≠ 0) (ho : o < 0x400) : (s.requested op h ps).ringWord h.ring o = s.ringWord h.ring o :=
    State.ringWord_writeRequest_low a.stage h.ring (by omega) h0 ho
  have hprod : (s.requested op h ps).reqProd h.ring = s.reqProd h.ring + BitVec.ofNat 24 (2 + ps.length) :=
    (State.ringWord_writeRequest a.stage h.ring _ 0).trans ((if_pos rfl).trans (by rw [hlen]))
  have hcons : (s.requested op h ps).reqCons h.ring = s.reqProd h.ring := (hlow (by omega) (by omega)).trans a.empty.symm
  have hlim : (s.requested op h ps).ringLimits h.ring = true := by
    unfold State.ringLimits
    rw [hcons, hprod, show (s.requested op h ps).rplProd h.ring = _ from hlow (by omega) (by omega),
      show (s.requested op h ps).rplCons h.ring = _ from hlow (by omega) (by omega), BitVec.add_comm, BitVec.add_sub_cancel,
      BitVec.toNat_ofNat, Bool.and_eq_true, decide_eq_true_iff, decide_eq_true_iff]
    exact ⟨by omega, a.replies⟩
  obtain ⟨d, p, g, hsend⟩ := s.sendPacket_eq h.ring (packetWords op h ps)
  unfold State.taken
  rw [State.postPacket_cleared, hsend, hlen, ← hcons]
  exact State.serveDoorbell_consume (s := { s.requested op h ps with
      rings := { s.rings with dbPend := d, dbPartner := p, dbDebug := g }
      cores := clearedCores (s.packetLines h.ring (2 + ps.length)) s.cores })
    ((hlow (by omega) (by omega)).trans a.runs) a.going hlim (2 + ps.length)

/-! What it shows of the ring and of the cores. -/

section
variable {s : State} {h : Header} {ps : List Word} {space : Nat} (a : Accepts s h ps.length space) (op : BitVec 8)
include a

theorem State.requested_paged : s.Paged h.ring (s.requested op h ps) := State.writeRequest_paged a.stage ..

theorem State.ringWord_taken (o : Nat) : (s.taken op h ps).ringWord h.ring o =
    if o = 1 ∨ o = 0 then s.reqProd h.ring + BitVec.ofNat 24 (2 + ps.length)
    else (s.putReq h.ring (s.reqProd h.ring) (packetWords op h ps)).ringWord h.ring o := by
  obtain ⟨d, p, g, k, l, -, e⟩ := State.taken_eq a op
  rw [e]
  refine (State.ringWord_setRingWord (State.requested_paged a op).pages _ _ _ _).trans ?_
  rw [State.ringWord_writeRequest a.stage, packetWords_length, ite_or]

theorem State.ringWord_taken_low {o : Nat} (h1 : 1 < o) (ho : o < 0x400) : (s.taken op h ps).ringWord h.ring o = s.ringWord h.ring o := by
  have := a.words
  rw [State.ringWord_taken a op, if_neg (by omega), State.ringWord_putReq a.stage _ _ _ (by rw [packetWords_length]; omega), if_neg (by omega)]

theorem State.ringWord_taken_other {q : BitVec 5} (hq : q ≠ h.ring) {o : Nat} (ho : o < 4096) :
    (s.taken op h ps).ringWord q o = s.ringWord q o := by
  obtain ⟨d, p, g, k, l, -, e⟩ := State.taken_eq a op
  rw [e]
  have hpaged := State.requested_paged a op
  exact (hpaged.trans (State.setRingWord_paged hpaged.pages h.ring (o := 1) (by omega) _)).other q o hq ho

theorem State.reqWord_taken {i : Nat} (hi : i < 2 + ps.length) :
    (s.taken op h ps).reqWord h.ring (s.reqProd h.ring + BitVec.ofNat 24 i) = (packetWords op h ps).getD i 0 := by
  have := a.words
  have hlen := packetWords_length op h ps
  unfold State.reqWord
  rw [State.ringWord_taken a op, if_neg (by omega)]
  exact State.reqWord_putReq a.stage h.ring (s.reqProd h.ring) _ (by omega) (by omega)

/-- A core keeps its reservation but where the packet or REQ_PROD is written into its line (04 R133). -/
theorem State.taken_core (c : Fin 12) : (s.taken op h ps).core c = { s.core c with resv := ((s.taken op h ps).core c).resv } ∧
    ((s.taken op h ps).core c).resv =
      if (s.core c).resv.any (fun q => (s.packetLines h.ring (2 + ps.length)).contains q.line) then none else (s.core c).resv := by
  obtain ⟨d, p, g, k, l, -, e⟩ := State.taken_eq a op
  obtain ⟨q, hq⟩ := clearedCores_core (s.packetLines h.ring (2 + ps.length)) s.cores c
  have hcore : (s.taken op h ps).core c = { s.core c with resv := q } := (congrArg (fun t : State => t.core c) e).trans hq
  refine ⟨by rw [hcore], ?_⟩
  exact (congrArg (fun t : State => (t.core c).resv) e).trans (clearedCores_resv _ s.cores c)

end

/-- The first word of a packet is its fields side by side (10 R386). -/
theorem packetHead_eq (op : BitVec 8) (fl : BitVec 4) {n : Nat} (hn : n < 4096) :
    ((op.setWidth 24 <<< 16) ||| (fl.setWidth 24 <<< 12) ||| BitVec.ofNat 24 n : BitVec 24) =
      (op ++ fl ++ BitVec.ofNat 12 n : BitVec 24) := by
  have hn' : BitVec.ofNat 24 n = (BitVec.ofNat 12 n).setWidth 24 := by
    apply BitVec.eq_of_toNat_eq
    simp only [BitVec.toNat_ofNat, BitVec.toNat_setWidth]
    omega
  rw [hn']
  generalize BitVec.ofNat 12 n = x
  apply BitVec.eq_of_getLsbD_eq
  intro i hi
  rw [BitVec.getLsbD_append, BitVec.getLsbD_append]
  simp only [BitVec.getLsbD_or, BitVec.getLsbD_shiftLeft, BitVec.getLsbD_setWidth]
  by_cases h1 : i < 12
  · simp [h1, hi, show i < 16 by omega]
  · have hx : x.getLsbD i = false := BitVec.getLsbD_of_ge _ _ (by omega)
    by_cases h2 : i < 16
    · simp [h1, h2, hx, hi, show i - 12 < 4 by omega, show i - 12 < 24 by omega]
    · have hf : fl.getLsbD (i - 12) = false := BitVec.getLsbD_of_ge _ _ (by omega)
      simp [h1, h2, hx, hf, hi, show ¬(i - 12 < 4) by omega, show i - 16 < 24 by omega, show i - 12 - 4 = i - 16 by omega]

end Sys2Proof.Machine
end

section
/-! SUPPORT. What a reply leaves (10 R388, R389, R397; 13 R571), and O27. -/
namespace Sys2Proof.Machine

/-! The words of a reply. -/

/-- The first word of a reply is its fields side by side (10 R388). -/
theorem replyHead_eq (code : BitVec 8) (final : Bool) {n : Nat} (hn : n < 4096) :
    ((code.setWidth 24 <<< 16) ||| flag 24 12 final ||| BitVec.ofNat 24 n : BitVec 24) =
      (code ++ (0 : BitVec 3) ++ BitVec.ofBool final ++ BitVec.ofNat 12 n : BitVec 24) := by
  have hf : flag 24 12 final = ((0 : BitVec 3) ++ BitVec.ofBool final : BitVec 4).setWidth 24 <<< 12 := by cases final <;> rfl
  rw [hf, packetHead_eq _ _ hn, BitVec.append_assoc (x₁ := code) (x₂ := (0 : BitVec 3)) (x₃ := BitVec.ofBool final)]
  rfl

/-- The results that a reply carries (10 R389). -/
abbrev shownResults (st : Status) (final : Bool) (res : List Word) : List Word := if st = .ok ∧ final = true then res else []

theorem replyWords_eq (st : Status) (final : Bool) (tag seq : Word) {res : List Word} (hres : res.length ≤ 253) :
    replyWords st final tag seq res =
      (st.code ++ (0 : BitVec 3) ++ BitVec.ofBool final ++ BitVec.ofNat 12 (3 + (shownResults st final res).length) : BitVec 24) ::
        tag :: seq :: shownResults st final res := by
  have hshown : (if (decide (st = .ok) && final) = true then res else []) = shownResults st final res := by simp
  have hlen : (shownResults st final res).length ≤ 253 := by
    unfold shownResults
    split
    · exact hres
    · exact Nat.zero_le _
  unfold replyWords
  dsimp only
  rw [hshown, replyHead_eq _ _ (by omega)]
  rfl

/-! Where it is written. -/

section
variable {s : State} (h : s.PagesOk) (r : BitVec 5) {ws : List Word}
include h

theorem State.writeReply_paged (ws : List Word) : s.Paged r (s.writeReply r ws) :=
  (State.putRpl_paged h ..).trans (State.setRingWord_paged (State.putRpl_paged h ..).pages r (by omega) _)

theorem State.writeReply_rplProd (ws : List Word) : (s.writeReply r ws).rplProd r = s.rplProd r + BitVec.ofNat 24 ws.length :=
  (State.ringWord_setRingWord (State.putRpl_paged h ..).pages _ _ _ _).trans (if_pos rfl)

theorem State.ringWord_writeReply_low (ws : List Word) {o : Nat} (h2 : o ≠ 2) (ho : o < 0xC00) :
    (s.writeReply r ws).ringWord r o = s.ringWord r o := by
  unfold State.writeReply
  rw [State.ringWord_setRingWord (State.putRpl_paged h ..).pages, if_neg h2, State.ringWord_putRpl_off h r _ ws fun j _ => by omega]

theorem State.ringWord_writeReply_at (hl : ws.length ≤ 1024) {i : Nat} (hi : i < ws.length) :
    (s.writeReply r ws).ringWord r (0xC00 + (s.rplProd r + BitVec.ofNat 24 i).toNat % 1024) = ws.getD i 0 := by
  have hplace : (s.rplProd r + BitVec.ofNat 24 i).toNat % 1024 = ((s.rplProd r).toNat + i) % 1024 := by
    rw [BitVec.toNat_add, BitVec.toNat_ofNat]
    omega
  unfold State.writeReply
  rw [hplace, State.ringWord_setRingWord (State.putRpl_paged h ..).pages, if_neg (by omega), State.ringWord_putRpl_at h r _ ws hl hi]

end

/-- The link unit's part in a reply of page 16: REPLY_CONS follows, and the rest is in the link. -/
theorem State.forwardReply_consumes (s : State) (final : Bool) (st : Status) (seq : Word) (ws : List Word) :
    ∃ d, s.forwardReply final st seq ws = { s.setRingWord 16 3 (s.rplProd 16) with duet := d } := by
  unfold State.forwardReply
  dsimp only
  split
  · exact ⟨_, rfl⟩
  · split <;> exact ⟨_, rfl⟩

/-- A reply that is not held back is written, and in ring 16 the link unit consumes it. -/
theorem State.reply_written {s : State} {r : BitVec 5} {st : Status} {final : Bool} {tag seq : Word} {res : List Word}
    (hfits : s.canReply r (replyWords st final tag seq res).length = true) : ∃ d, let w := s.writeReply r (replyWords st final tag seq res)
      (r ≠ 16 → s.reply r st final tag seq res = w) ∧
      (r = 16 → s.reply r st final tag seq res = { w.setRingWord 16 3 (w.rplProd 16) with duet := d }) := by
  obtain ⟨d, hd⟩ := (s.writeReply r (replyWords st final tag seq res)).forwardReply_consumes final st seq (replyWords st final tag seq res)
  have hreply : s.reply r st final tag seq res = if r = 16
      then (s.writeReply r (replyWords st final tag seq res)).forwardReply final st seq (replyWords st final tag seq res)
      else s.writeReply r (replyWords st final tag seq res) := by
    unfold State.reply
    dsimp only
    rw [hfits]
    rfl
  exact ⟨d, fun hr => hreply.trans (if_neg hr), fun hr => hreply.trans ((if_pos hr).trans hd)⟩

theorem State.canReply_iff (s : State) (r : BitVec 5) (n : Nat) : s.canReply r n = true ↔
    ringBit s.rings.stopped r = false ∧ (∀ p ∈ s.rings.held, p.1 ≠ r) ∧ (s.rplProd r - s.rplCons r).toNat + n ≤ 1024 := by
  simp [State.canReply, and_assoc]

/-- A reply that is held back. -/
theorem State.reply_held {s : State} {r : BitVec 5} {st : Status} {final : Bool} {tag seq : Word} {res : List Word}
    (hfits : ¬s.canReply r (replyWords st final tag seq res).length = true) : s.reply r st final tag seq res =
      { s with rings := { s.rings with held := s.rings.held ++ [(r, replyWords st final tag seq res)] } } := by
  unfold State.reply
  dsimp only
  rw [if_pos (by simpa using hfits)]
  rfl

/-- Taking a packet. -/
theorem taken_places {s : State} {op : BitVec 8} {h : Header} {ps : List Word} {space : Nat} (a : Accepts s h ps.length space) :
    let t := s.taken op h ps
    let n := BitVec.ofNat 24 (2 + ps.length)
    t = { s with stage := t.stage, stageBad := t.stageBad, rings := t.rings, cores := t.cores } ∧ Memory.wf ramDefault t.stage = true ∧
    (∀ a ∈ t.stageBad, a ∈ s.stageBad) ∧
    (∀ c, t.core c = { s.core c with resv := (t.core c).resv } ∧
      ((t.core c).resv = (s.core c).resv ∨ (t.core c).resv = none) ∧
      ∀ q, (t.core c).resv = some q → q.line ≠ (0x100000 + h.ring.toNat * 4096) / 24 ∧
        ∀ i < 2 + ps.length, q.line ≠ (0x100400 + h.ring.toNat * 4096 + (s.reqProd h.ring + BitVec.ofNat 24 i).toNat % 2048) / 24) ∧
    t.reqProd h.ring = s.reqProd h.ring + n ∧ t.reqCons h.ring = s.reqProd h.ring + n ∧
    t.rplProd h.ring = s.rplProd h.ring ∧ t.rplCons h.ring = s.rplCons h.ring ∧ t.ringState h.ring = 1 ∧
    t.reqWord h.ring (s.reqProd h.ring) = (op ++ h.flags ++ BitVec.ofNat 12 (2 + ps.length) : BitVec 24) ∧
    t.reqWord h.ring (s.reqProd h.ring + 1) = h.tag ∧
    (∀ i < ps.length, t.reqWord h.ring (s.reqProd h.ring + BitVec.ofNat 24 (2 + i)) = ps.getD i 0) ∧
    (∀ (q : BitVec 5) (o : Nat), q ≠ h.ring → o < 4096 → t.ringWord q o = s.ringWord q o) ∧
    t.rings.active = s.rings.active ∧ t.rings.notices = s.rings.notices ∧ t.rings.held = s.rings.held ∧
    t.rings.stopped = s.rings.stopped ∧ (h.ring.toNat < 16 → t.rings.last.toNat = h.ring.toNat) := by
  have hwords := a.words
  obtain ⟨d, p, g, k, l, hl, e⟩ := State.taken_eq a op
  have hpaged := (State.requested_paged a op).trans (State.setRingWord_paged (State.requested_paged a op).pages h.ring (o := 1) (by omega)
    (s.reqProd h.ring + BitVec.ofNat 24 (2 + ps.length)))
  refine ⟨?_, ?_, ?_, fun c => ⟨(State.taken_core a op c).1, ?_, fun q hq => ?_⟩, State.ringWord_taken a op 0, State.ringWord_taken a op 1,
    State.ringWord_taken_low a op (by omega) (by omega), State.ringWord_taken_low a op (by omega) (by omega),
    (State.ringWord_taken_low a op (by omega) (by omega)).trans a.runs, ?_, State.reqWord_taken a op (i := 1) (by omega),
    fun i hi => State.reqWord_taken a op (by omega) |>.trans ?_, fun q o hq ho => State.ringWord_taken_other a op hq ho, ?_⟩
  · rw [e]
    exact congrArg (fun x : State => { x with
      rings := { s.rings with dbPend := d, dbPartner := p, dbDebug := g, known := k, last := l }
      cores := clearedCores (s.packetLines h.ring (2 + ps.length)) s.cores }) hpaged.frame
  · rw [e]
    exact hpaged.pages
  · rw [e]
    exact hpaged.bad
  · rw [(State.taken_core a op c).2]
    split
    · exact .inr rfl
    · exact .inl rfl
  · rw [(State.taken_core a op c).2] at hq
    have hline : (s.packetLines h.ring (2 + ps.length)).contains q.line = false := by
      split at hq
      · cases hq
      · next hany =>
        rw [hq] at hany
        simpa using hany
    simp only [State.packetLines, List.contains_eq_mem, decide_eq_false_iff_not, List.mem_cons, List.mem_map, List.mem_range, not_or,
      not_exists, not_and] at hline
    refine ⟨hline.1, fun i hi he => hline.2 i hi ?_⟩
    rw [he]
    congr 1
    omega
  · have hword := State.reqWord_taken a op (i := 0) (by omega)
    rw [show s.reqProd h.ring + BitVec.ofNat 24 0 = s.reqProd h.ring from BitVec.add_zero _] at hword
    refine hword.trans (Eq.trans ?_ (packetHead_eq op h.flags (n := 2 + ps.length) (by omega)))
    simp only [packetWords, List.cons_append, List.getD_cons_zero, Nat.mod_eq_of_lt (show 2 + ps.length < 4096 by omega)]
  · rw [Nat.add_comm 2 i]
    rfl
  · rw [e]
    exact ⟨rfl, rfl, rfl, rfl, hl⟩

/-- Answering a packet. -/
theorem reply_answers {s : State} {r : BitVec 5} {st : Status} {final : Bool} {tag seq : Word} {res : List Word}
    (hs : Memory.wf ramDefault s.stage = true) (hres : res.length ≤ 253) :
    let t := s.reply r st final tag seq res
    let shown := if st = .ok ∧ final = true then res else []
    let n := 3 + shown.length
    let fits := ringBit s.rings.stopped r = false ∧ (∀ p ∈ s.rings.held, p.1 ≠ r) ∧ (s.rplProd r - s.rplCons r).toNat + n ≤ 1024
    (¬fits → t = { s with rings := { s.rings with held := t.rings.held } } ∧
      ∃ ws, t.rings.held = s.rings.held ++ [(r, ws)] ∧ ws.length = n) ∧
    (fits →
      t = { s with stage := t.stage, stageBad := t.stageBad, duet := t.duet } ∧ t.rplProd r = s.rplProd r + BitVec.ofNat 24 n ∧
      (r ≠ 16 → t.duet = s.duet ∧ t.rplCons r = s.rplCons r) ∧ (r = 16 → t.rplCons r = t.rplProd r) ∧
      let word := fun (i : Nat) => t.ringWord r (0xC00 + (s.rplProd r + BitVec.ofNat 24 i).toNat % 1024)
      word 0 = (st.code ++ (0 : BitVec 3) ++ BitVec.ofBool final ++ BitVec.ofNat 12 n : BitVec 24) ∧ word 1 = tag ∧ word 2 = seq ∧
      ∀ i < shown.length, word (3 + i) = shown.getD i 0) := by
  intro t shown n fits
  have hws : replyWords st final tag seq res =
      (st.code ++ (0 : BitVec 3) ++ BitVec.ofBool final ++ BitVec.ofNat 12 n : BitVec 24) :: tag :: seq :: shown := replyWords_eq st final tag seq hres
  have hlen : (replyWords st final tag seq res).length = n := by rw [hws]; simp only [List.length_cons]; omega
  have hn : n ≤ 1024 := by
    have hshown : shown.length ≤ 253 := by
      unfold shown
      split
      · exact hres
      · exact Nat.zero_le _
    show 3 + shown.length ≤ 1024
    omega
  have hfits : s.canReply r (replyWords st final tag seq res).length = true ↔ fits := by rw [hlen, State.canReply_iff]
  refine ⟨fun hno => ?_, fun hyes => ?_⟩
  · have ht : t = _ := State.reply_held (mt hfits.1 hno)
    rw [ht]
    exact ⟨rfl, _, rfl, hlen⟩
  · obtain ⟨d, hvoice, hpartner⟩ := State.reply_written (hfits.2 hyes)
    generalize hw : s.writeReply r (replyWords st final tag seq res) = w at hvoice hpartner
    have hpaged : s.Paged r w := hw ▸ State.writeReply_paged hs r _
    have hprod : w.rplProd r = s.rplProd r + BitVec.ofNat 24 n := by rw [← hw, State.writeReply_rplProd hs, hlen]
    have hcons : w.rplCons r = s.rplCons r := hw ▸ State.ringWord_writeReply_low hs r _ (by omega) (by omega)
    have hat {i : Nat} (hi : i < n) : w.ringWord r (0xC00 + (s.rplProd r + BitVec.ofNat 24 i).toNat % 1024) =
        (replyWords st final tag seq res).getD i 0 := hw ▸ State.ringWord_writeReply_at hs r (by omega) (by omega)
    have hview : t = { s with stage := t.stage, stageBad := t.stageBad, duet := t.duet } ∧ (r ≠ 16 → t.duet = s.duet ∧ t.rplCons r = s.rplCons r) ∧
        (r = 16 → t.rplCons r = t.rplProd r) ∧ ∀ o, o ≠ 3 → t.ringWord r o = w.ringWord r o := by
      by_cases hr : r = 16
      · have hthree (o : Nat) : t.ringWord r o = if o = 3 then w.rplProd 16 else w.ringWord r o := by
          rw [show t = _ from hpartner hr, hr]
          exact State.ringWord_setRingWord hpaged.pages 16 3 o _
        refine ⟨?_, fun h => absurd hr h, fun _ => ?_, fun o ho => (hthree o).trans (if_neg ho)⟩
        · rw [show t = _ from hpartner hr]
          exact congrArg (fun x : State => { x.setRingWord 16 3 (w.rplProd 16) with duet := d }) hpaged.frame
        · exact (hthree 3).trans (hr ▸ (hthree 2).symm)
      · rw [show t = w from hvoice hr]
        exact ⟨congrArg (fun x : State => { x with duet := w.duet }) hpaged.frame,
          fun _ => ⟨(congrArg State.duet hpaged.frame).trans rfl, hcons⟩, fun h => absurd h hr, fun _ _ => rfl⟩
    obtain ⟨hframe, hother, hlink, hkeep⟩ := hview
    have hword {i : Nat} (hi : i < n) : t.ringWord r (0xC00 + (s.rplProd r + BitVec.ofNat 24 i).toNat % 1024) =
        (replyWords st final tag seq res).getD i 0 := (hkeep _ (by omega)).trans (hat hi)
    refine ⟨hframe, (hkeep 2 (by omega)).trans hprod, hother, hlink, ?_, ?_, ?_, fun i hi => ?_⟩
    · exact (hword (by omega)).trans (by rw [hws]; rfl)
    · exact (hword (by omega)).trans (by rw [hws]; rfl)
    · exact (hword (by omega)).trans (by rw [hws]; rfl)
    · exact (hword (by omega)).trans (by rw [hws, Nat.add_comm 3 i]; rfl)

end Sys2Proof.Machine

open Sys2Proof Sys2Proof.Machine

/-- Settles O27: the words of a packet and of a reply are written one by one into the page of their ring, behind each other. -/
theorem packetsAreTakenAndAnswered : Obligations.PacketsAreTakenAndAnswered :=
  ⟨fun _ _ _ _ _ a => taken_places a, fun _ _ _ _ _ _ _ hs hres => reply_answers hs hres⟩

end

section
/-! SUPPORT. Doorbells and the service of rings (10 R397, R399, R401 to R403, R406, R409, R442), and O41. -/
namespace Sys2Proof.Machine

/-! Who may ring. -/

theorem dbRing_rings (w : Initiator) (v : Word) : Accesses (.dbRing w v) w (fun _ => True) fun s t =>
    let ring := fun (p : BitVec 4) => { s with rings := { s.rings with dbPend := setBit s.rings.dbPend p.toNat true } }
    match w with
    | .voice c => t = if (s.core c).level = .monitor then ring (bits v 0 4) else if (s.core c).mptag = 0 then s else ring (s.core c).mptag
    | .conductor | .debug => t = ring (bits v 0 4)
    | _ => t = s := by
  refine Accesses.of (f := fun s => s.ringDoorbell w v) (fun _ => rfl) fun s _ => ?_
  have hring (p : BitVec 4) : s.ring (p.setWidth 5) = { s with rings := { s.rings with dbPend := setBit s.rings.dbPend p.toNat true } } := by
    have hp : (p.setWidth 5).toNat = p.toNat := by rw [BitVec.toNat_setWidth]; omega
    unfold State.ring State.modRings
    dsimp only
    rw [if_pos (BitVec.lt_def.2 (by rw [hp]; exact p.isLt)), hp]
  cases w with
  | voice c =>
    unfold State.ringDoorbell
    dsimp only
    rw [hring, hring]
  | conductor => exact hring _
  | debug => exact hring _
  | _ => rfl

theorem dbDebug_rings (w : Initiator) (v : Word) : Accesses (.dbDebug w v) w (fun _ => True) fun s t =>
    t = if w = .debug ∧ v.getLsbD 0 = true then { s with rings := { s.rings with dbDebug := true } } else s := by
  refine Accesses.of (f := fun s => s.debugDoorbell w v) (fun _ => rfl) fun s _ => ?_
  unfold State.debugDoorbell
  simp only [Bool.and_eq_true, decide_eq_true_iff]
  rfl

/-! The order of service (10 R406). -/

theorem State.serviceOrder_take {s : State} (h : s.rings.last.toNat < 15) :
    s.serviceOrder.take 3 = [16, 17, BitVec.ofNat 5 (s.rings.last.toNat + 1)] := by
  have hmod : (s.rings.last.toNat + 1 + 0) % 16 = s.rings.last.toNat + 1 := by omega
  unfold State.serviceOrder
  rw [List.range_succ_eq_map]
  simp [hmod]

/-! What a ring in front of which nothing waits leaves. -/

theorem State.flushHeld_none {s : State} {r : BitVec 5} (h : ∀ p ∈ s.rings.held, p.1 ≠ r) (n : Nat) : s.flushHeld r n = s := by
  cases n with
  | zero => rfl
  | succ n =>
    have hnone : s.rings.held.find? (fun p => p.1 = r) = none := by simpa using h
    rw [State.flushHeld, hnone]

/-- A ring with nothing to take stays as it is. -/
theorem State.startHead_none {s : State} {r : BitVec 5} (h : s.head r = .none) (look : BitVec 8 → Option CmdDef) : s.startHead look r = s := by
  unfold State.startHead
  rw [State.skipCancelled, h]
  unfold State.startFront
  rw [h]

/-- A ring that holds no reply back is served where no ring before it in the order of service has work (10 R406). -/
theorem State.serveRing_first {s : State} {r : BitVec 5} (hheld : ∀ p ∈ s.rings.held, p.1 ≠ r)
    (hfirst : ∀ q ∈ s.serviceOrder.takeWhile (fun x => x ≠ r), s.bell q = false ∧ s.startable q = false) :
    s.serveRing r = s.startHead lookOp r := by
  unfold State.serveRing
  rw [State.flushHeld_none hheld]
  refine if_neg ?_
  rw [Bool.not_eq_true, List.any_eq_false]
  intro q hq
  obtain ⟨hbell, hstart⟩ := hfirst q hq
  rw [hbell, hstart]
  exact Bool.false_ne_true

theorem State.serveRing_later {s : State} {r : BitVec 5} (hheld : ∀ p ∈ s.rings.held, p.1 ≠ r)
    (hlater : ∃ q ∈ s.serviceOrder.takeWhile (fun x => x ≠ r), s.bell q = true ∨ s.startable q = true) : s.serveRing r = s := by
  unfold State.serveRing
  rw [State.flushHeld_none hheld]
  refine if_pos ?_
  rw [List.any_eq_true]
  obtain ⟨q, hq, hwork⟩ := hlater
  exact ⟨q, hq, by rwa [Bool.or_eq_true]⟩

theorem State.serveRing_empty {s : State} {r : BitVec 5} (hheld : ∀ p ∈ s.rings.held, p.1 ≠ r) (hnone : s.head r = .none) : s.serveRing r = s := by
  unfold State.serveRing
  rw [State.flushHeld_none hheld]
  dsimp only
  rw [State.startHead_none hnone, ite_self]

/-! A doorbell. -/

/-- What the Conductor knows of a ring once it has read its REQ_PROD (10 R399). -/
theorem State.learn_avail (s : State) {r : BitVec 5} (hr : r.toNat < 18) : (s.learn r).avail r = (s.reqProd r - s.reqCons r).toNat := by
  have hcons : (s.learn r).reqCons r = s.reqCons r := rfl
  unfold State.avail
  rw [hcons]
  simp [State.learn, State.modRings, hr, List.getD]

theorem State.unring_rung (s : State) (r : BitVec 5) : (s.unring r).rung r = false := by
  unfold State.rung State.unring State.modRings
  dsimp only
  split
  · next h =>
    rw [getLsbD_setBit _ _ _ (BitVec.lt_def.1 h), if_pos rfl]
  · split <;> rfl

/-- A ring outside its limits stops with STATE 2 at the packet in front, and holds its replies (10 R397). -/
theorem State.serveDoorbell_stops {s : State} {r : BitVec 5} (hrun : s.ringState r = 1) (hgo : ringBit s.rings.stopped r = false)
    (hlim : s.ringLimits r = false) :
    s.serveDoorbell r = ((s.unring r).stopRing r).modRings fun x => { x with stopped := setBit x.stopped r.toNat true } := by
  obtain ⟨d, p, g, h⟩ := s.unring_eq r
  have hrun' : (s.unring r).ringState r = 1 := by rw [h]; exact hrun
  have hgo' : ringBit (s.unring r).rings.stopped r = false := by rw [h]; exact hgo
  have hlim' : (s.unring r).ringLimits r = false := by rw [h]; exact hlim
  unfold State.serveDoorbell
  dsimp only
  rw [hrun', hgo', hlim']
  rfl

/-! The events. -/

/-- A ring that has been rung and runs, in a state whose Conductor serves commands and holds no reply of it back. -/
structure State.BellWaits (s : State) (r : BitVec 5) : Prop where
  serving : s.serving = true
  rung    : s.rung r = true
  runs    : s.ringState r = 1
  going   : ringBit s.rings.stopped r = false
  pages   : s.PagesOk
  held    : ∀ p ∈ s.rings.held, p.1 ≠ r

section
variable {r : BitVec 5} (hr : r.toNat < 18)
include hr

theorem doorbellCheck_serves {ok : State → Prop} {post : State → State → Prop}
    (h : ∀ s, s.BellWaits r → ok s → post s ((s.serveDoorbell r).serveRing r)) :
    Occurs (.doorbellCheck r) (fun s => s.BellWaits r ∧ ok s) post :=
  Occurs.of (f := fun s => if r < 18 && s.serving && s.rung r then (s.serveDoorbell r).serveRing r else s) (fun _ => rfl)
    fun s _ ⟨hbell, hok⟩ => by
      rw [hbell.serving, hbell.rung, if_pos (by simpa using BitVec.lt_def.2 hr)]
      exact h s hbell hok

theorem waitingCommandStart_serves {ok : State → Prop} {post : State → State → Prop}
    (h : ∀ s, (∀ p ∈ s.rings.held, p.1 ≠ r) → ok s → post s (s.serveRing r)) :
    Occurs (.waitingCommandStart r) (fun s => s.serving = true ∧ (∀ p ∈ s.rings.held, p.1 ≠ r) ∧ ok s) post :=
  Occurs.of (f := fun s => if r < 18 && s.serving then s.serveRing r else s) (fun _ => rfl)
    fun s _ ⟨hserving, hheld, hok⟩ => by
      rw [hserving, if_pos (by simpa using BitVec.lt_def.2 hr)]
      exact h s hheld hok

/-- The doorbell of an empty ring is cleared, and nothing is taken. -/
theorem State.serveRing_bell_empty {s : State} (hs : s.BellWaits r) (hlim : s.ringLimits r = true) (hempty : s.reqProd r = s.reqCons r) :
    (s.serveDoorbell r).serveRing r = (s.unring r).learn r := by
  obtain ⟨d, p, g, h⟩ := s.unring_eq r
  rw [State.serveDoorbell_learns hs.runs hs.going hlim]
  refine State.serveRing_empty ?_ ?_
  · rw [h]
    exact hs.held
  · have hprod : (s.unring r).reqProd r = s.reqProd r := by rw [h]; rfl
    have hcons : (s.unring r).reqCons r = s.reqCons r := by rw [h]; rfl
    unfold State.head
    dsimp only
    rw [State.learn_avail _ hr, hprod, hcons, hempty, BitVec.sub_self]
    simp

/-- The doorbell of a ring outside its limits stops it. -/
theorem State.serveRing_bell_stops {s : State} (hs : s.BellWaits r) (hlim : s.ringLimits r = false) :
    (s.serveDoorbell r).serveRing r = ((s.unring r).stopRing r).modRings fun x => { x with stopped := setBit x.stopped r.toNat true } := by
  obtain ⟨d, p, g, h⟩ := s.unring_eq r
  rw [State.serveDoorbell_stops hs.runs hs.going hlim]
  refine State.serveRing_empty ?_ ?_
  · rw [h]
    exact hs.held
  · have hbit : ringBit (setBit (s.unring r).rings.stopped r.toNat true) r = true := setBit_true_getLsbD _ hr
    unfold State.head
    dsimp only [State.modRings]
    simp only [State.stopRing, State.setRingWord, hbit, Bool.or_true, Bool.true_or, if_true]

/-- What the check of a doorbell leaves. -/
theorem doorbellCheck_checks :
    Occurs (.doorbellCheck r) (fun s => s.BellWaits r ∧ s.ringLimits r = true ∧ s.reqProd r = s.reqCons r) (fun s t =>
      t = (s.unring r).learn r ∧ t.rung r = false ∧ t = { s with rings := t.rings } ∧ t.rings.active = s.rings.active) ∧
    Occurs (.doorbellCheck r) (fun s => s.BellWaits r ∧ s.ringLimits r = false) (fun s t =>
      t.ringState r = 2 ∧ t.ringWord r 5 = s.reqCons r ∧ ringBit t.rings.stopped r = true ∧ t.rung r = false ∧
      t = { s with stage := t.stage, stageBad := t.stageBad, rings := t.rings }) ∧
    Occurs (.doorbellCheck r) (fun s => s.BellWaits r ∧ s.ringLimits r = true ∧
        ∀ q ∈ s.serviceOrder.takeWhile (fun x => x ≠ r), ((s.unring r).learn r).bell q = false ∧
          ((s.unring r).learn r).startable q = false) (fun s t => t = ((s.unring r).learn r).startHead lookOp r) := by
  refine ⟨doorbellCheck_serves hr fun s hs ⟨hlim, hempty⟩ => ?_, doorbellCheck_serves hr fun s hs hlim => ?_,
    doorbellCheck_serves hr fun s hs ⟨hlim, hfirst⟩ => ?_⟩
  · rw [State.serveRing_bell_empty hr hs hlim hempty]
    obtain ⟨d, p, g, h⟩ := s.unring_eq r
    refine ⟨rfl, s.unring_rung r, ?_, ?_⟩
    · rw [h]
      rfl
    · rw [h]
      rfl
  · rw [State.serveRing_bell_stops hr hs hlim]
    have hrung := s.unring_rung r
    obtain ⟨d, p, g, h⟩ := s.unring_eq r
    rw [h] at hrung ⊢
    have hpages := hs.pages
    refine ⟨?_, ?_, setBit_true_getLsbD _ hr, hrung, rfl⟩
    · refine (State.ringWord_setRingWord (State.setRingWord_pages hpages r 4 2) r 5 4 _).trans ((if_neg (by decide)).trans ?_)
      exact (State.ringWord_setRingWord hpages r 4 4 2).trans (if_pos rfl)
    · refine (State.ringWord_setRingWord (State.setRingWord_pages hpages r 4 2) r 5 5 _).trans ((if_pos rfl).trans rfl)
  · rw [State.serveDoorbell_learns hs.runs hs.going hlim]
    obtain ⟨d, p, g, h⟩ := s.unring_eq r
    have horder : ((s.unring r).learn r).serviceOrder = s.serviceOrder := by rw [h]; rfl
    refine State.serveRing_first ?_ (horder ▸ hfirst)
    rw [h]
    exact hs.held

end

end Sys2Proof.Machine

open Sys2Proof Sys2Proof.Machine

/-- Settles O41: a doorbell that is served clears its bit and reads REQ_PROD or stops its ring; what is taken then is what stands in front,
once no ring before it has work. -/
theorem doorbellsAreServed : Obligations.DoorbellsAreServed := by
  refine ⟨dbRing_rings, dbDebug_rings, fun s h => State.serviceOrder_take h, fun r hr => ?_⟩
  obtain ⟨hempty, hstops, htakes⟩ := doorbellCheck_checks hr
  have hwaits {s : State} : (s.serving = true ∧ s.rung r = true ∧ s.ringState r = 1 ∧ ringBit s.rings.stopped r = false ∧
      Memory.wf ramDefault s.stage = true ∧ ∀ p ∈ s.rings.held, p.1 ≠ r) → s.BellWaits r :=
    fun ⟨hserving, hrung, hruns, hgoing, hpages, hheld⟩ => ⟨hserving, hrung, hruns, hgoing, hpages, hheld⟩
  exact ⟨fun s ho hok => hempty s ho ⟨hwaits hok.1, hok.2⟩, fun s ho hok => hstops s ho ⟨hwaits hok.1, hok.2⟩,
    fun s ho hok => htakes s ho ⟨hwaits hok.1, hok.2⟩,
    waitingCommandStart_serves hr fun s hheld hfirst => State.serveRing_first hheld hfirst,
    waitingCommandStart_serves hr fun s hheld hlater => State.serveRing_later hheld hlater⟩

end

section
/-! SUPPORT. The ends of the long commands whose work is the Conductor's own (10 R390; 11 R479 to R485; 16 R684), and O42. -/
namespace Sys2Proof.Machine

/-- A final reply removes its command from those outstanding (10 R390). -/
theorem State.finish_replies {s : State} (h : s.cdr.run ≠ .halted) (c : Cmd) (st : Status) (res : List Word) :
    s.finish c st res = ({ s with rings := { s.rings with active := s.rings.active.filter fun a => !(a.ring = c.ring && a.seq = c.seq) } }
      ).reply c.ring st true c.tag c.seq res := by
  unfold State.finish
  exact if_neg h

/-- The event ends the command that it names, where the Conductor runs. -/
theorem longCommandFinal_ends {ring : BitVec 5} {tag : Word} {e : FinalEnv} {c : Cmd} {op : BitVec 8} {ok : State → Prop} {st : Status}
    {res : State → List Word} {effect : State → State}
    (h : ∀ s, c.op = op → ok s → s.completeCmd c e = (effect s).finish c st (res s)) :
    Occurs (.longCommandFinal ring tag e)
      (fun s => (s.cdrRuns = true ∧ c.op = op ∧ s.rings.active.find? (fun x => x.ring = ring && x.tag = tag) = some c) ∧ ok s)
      fun s t => t = (effect s).finish c st (res s) := by
  intro s ho ⟨⟨hruns, hop, hfound⟩, hok⟩
  refine ⟨_, ?_, rfl⟩
  show execLongCommandFinal ring tag e s = _
  unfold execLongCommandFinal ifOn
  dsimp only
  rw [if_pos ho, hruns, hfound]
  exact congrArg Host.Outcome.next (h s hop hok)

section
variable {s : State} {c : Cmd} {e : FinalEnv}

theorem State.completeCmd_verify (h : c.op = 0x82) : s.completeCmd c e = s.slotVerified c e.readErr := by
  unfold State.completeCmd
  rw [h]
  rfl

theorem State.completeCmd_commit (h : c.op = 0x83) : s.completeCmd c e = s.slotCommitted c e.readErr := by
  unfold State.completeCmd
  rw [h]
  rfl

theorem State.completeCmd_rescore (h : c.op = 0x84) :
    s.completeCmd c e = if e.readErr then s.finish c .verifyFailed [] else s.rescored.finish c .ok [] := by
  unfold State.completeCmd
  rw [h]
  rfl

theorem State.completeCmd_write (h : c.op = 0x81) : s.completeCmd c e = s.slotProgram c e.readErr := by
  unfold State.completeCmd
  rw [h]
  rfl

theorem State.completeCmd_trace (h : c.op = 0x70) : s.completeCmd c e = s.traceAuthorised c e.readErr := by
  unfold State.completeCmd
  rw [h]
  rfl

theorem State.slotCommitted_refused (h : s.imageReason (s.slotCheck false e.readErr) ≠ 0) :
    s.slotCommitted c e.readErr = s.finish c .verifyFailed [] := by
  unfold State.slotCommitted
  rw [if_pos (by simpa using h)]

theorem State.slotCommitted_commits (h : s.imageReason (s.slotCheck false e.readErr) = 0) :
    s.slotCommitted c e.readErr = ((s.writeRecord fun r => r.set 2 2).floorFollows).finish c .ok [] := by
  unfold State.slotCommitted
  rw [if_neg (by simpa using h)]

theorem State.slotProgram_erased (h : param c.params 4 = 0) : s.slotProgram c e.readErr = s.finish c .ok [] := by
  unfold State.slotProgram
  exact if_pos (congrArg BitVec.toNat h)

/-- A source that cannot be read ends a SLOT_WRITE without programming (11 R481; log 23). -/
theorem State.slotProgram_unread (h : param c.params 4 ≠ 0) (he : e.readErr = true) : s.slotProgram c e.readErr =
    (s.cdrWords (bits (pair (param c.params 3) (param c.params 2)) 2 36).toNat (param c.params 4).toNat).1.finish c .verifyFailed [] := by
  unfold State.slotProgram
  dsimp only
  rw [if_neg fun h0 : (param c.params 4).toNat = 0 => h (BitVec.eq_of_toNat_eq h0), he]
  exact if_pos rfl

theorem State.traceAuthorised_unread (he : e.readErr = true) : s.traceAuthorised c e.readErr =
    (s.cdrWords (bits (pair (param c.params 1) (param c.params 0)) 2 36).toNat 80).1.finish c .verifyFailed [] := by
  unfold State.traceAuthorised
  dsimp only
  rw [he]
  generalize State.cdrWords _ _ _ = r
  rfl

end

end Sys2Proof.Machine

open Sys2Proof Sys2Proof.Machine

/-- Settles O42: the opcode of the outstanding command selects its end, and the check that the end makes its status. -/
theorem longCommandsEnd : Obligations.LongCommandsEnd := by
  intro ring tag e c
  refine ⟨fun s st res h => State.finish_replies h c st res, ?_, ?_, ?_, ?_, ?_, ?_, ?_, ?_⟩
  · exact longCommandFinal_ends fun s hop _ => State.completeCmd_verify hop
  · exact longCommandFinal_ends fun s hop hreason => (State.completeCmd_commit hop).trans (State.slotCommitted_refused hreason)
  · exact longCommandFinal_ends fun s hop hreason => (State.completeCmd_commit hop).trans (State.slotCommitted_commits hreason)
  · exact longCommandFinal_ends fun s hop herr => (State.completeCmd_rescore hop).trans (if_pos herr)
  · exact longCommandFinal_ends fun s hop herr => (State.completeCmd_rescore hop).trans (if_neg (by rw [herr]; exact Bool.false_ne_true))
  · exact longCommandFinal_ends fun s hop hlen => (State.completeCmd_write hop).trans (State.slotProgram_erased hlen)
  · exact longCommandFinal_ends fun s hop ⟨hlen, herr⟩ => (State.completeCmd_write hop).trans (State.slotProgram_unread hlen herr)
  · exact longCommandFinal_ends fun s hop herr => (State.completeCmd_trace hop).trans (State.traceAuthorised_unread herr)

end

section
/-! SUPPORT. The checks of a command packet (10 R410), and claims about packets that turn on the state in which they are taken. -/
namespace Sys2Proof.Machine

/-! States that differ in the ring's page, in reservations and in the command service. -/

section
variable {s u : State} (hu : s.SameButRings u)
include hu

theorem State.SameButRings.bm : u.bm = s.bm := by obtain ⟨C, st, bad, rg, hC, rfl⟩ := hu; rfl
theorem State.SameButRings.die : u.die = s.die := by obtain ⟨C, st, bad, rg, hC, rfl⟩ := hu; rfl
theorem State.SameButRings.boot : u.boot = s.boot := by obtain ⟨C, st, bad, rg, hC, rfl⟩ := hu; rfl
theorem State.SameButRings.mc : u.mc = s.mc := by obtain ⟨C, st, bad, rg, hC, rfl⟩ := hu; rfl
theorem State.SameButRings.duet : u.duet = s.duet := by obtain ⟨C, st, bad, rg, hC, rfl⟩ := hu; rfl
theorem State.SameButRings.refrain : u.refrain = s.refrain := by obtain ⟨C, st, bad, rg, hC, rfl⟩ := hu; rfl
theorem State.SameButRings.echo : u.echo = s.echo := by obtain ⟨C, st, bad, rg, hC, rfl⟩ := hu; rfl
theorem State.SameButRings.bar : u.bar = s.bar := by obtain ⟨C, st, bad, rg, hC, rfl⟩ := hu; rfl

theorem State.SameButRings.running (op : BitVec 8) : u.running op = s.running op := by unfold State.running; rw [hu.active]
theorem State.SameButRings.slotsHeld : slotsHeld u = slotsHeld s := by unfold Machine.slotsHeld; rw [hu.active]
theorem State.SameButRings.pool (p : Fin 32) : u.pool p = s.pool p := by unfold State.pool; rw [hu.bm]
theorem State.SameButRings.allows (x : Sources) (r : BitVec 5) : x.allows u r = x.allows s r := by unfold Sources.allows; rw [hu.boot]

end

theorem State.running_none {s : State} {op : BitVec 8} (h : ∀ c ∈ s.rings.active, c.op ≠ op) : s.running op = none := by
  unfold State.running
  simpa using h

theorem slotsHeld_iff (s : State) : slotsHeld s = false ↔ ∀ c ∈ s.rings.active, c.op.toNat < 0x81 ∨ 0x84 < c.op.toNat := by
  unfold slotsHeld
  rw [List.any_eq_false]
  refine forall₂_congr fun c _ => ?_
  rw [Bool.and_eq_true, decide_eq_true_iff, decide_eq_true_iff]
  omega

theorem above_iff (v : Word) (n : Nat) : above v n = false ↔ v.toNat < 2 ^ n := by
  unfold above
  rw [bne_eq_false_iff_eq, ← BitVec.toNat_inj, BitVec.toNat_ushiftRight, Nat.shiftRight_eq_div_pow]
  exact Nat.div_eq_zero_iff_lt (Nat.two_pow_pos n)

/-! The first check that fails. -/

section
variable {d : CmdDef} {s : State} {r : BitVec 5} {flags : BitVec 4} {tag : Word} {ps : List Word}

theorem CmdDef.check_badLength (hl : d.lenOk ps = false) : d.check s r flags tag ps = some .badLength := by
  unfold CmdDef.check
  rw [hl]
  rfl

theorem CmdDef.check_notPermitted (hl : d.lenOk ps = true) (hd : d.denied s r ps = true) : d.check s r flags tag ps = some .notPermitted := by
  unfold CmdDef.check
  rw [hl, hd, Bool.or_true]
  rfl

variable (hl : d.lenOk ps = true) (hs : d.sources.allows s r = true) (hd : d.denied s r ps = false)
include hl hs hd

theorem CmdDef.check_unitAbsent (ha : d.absent s ps = true) : d.check s r flags tag ps = some .unitAbsent := by
  unfold CmdDef.check
  rw [hl, hs, hd, ha]
  rfl

theorem CmdDef.check_badParam (ha : d.absent s ps = false) (hb : d.bad s r ps = true) : d.check s r flags tag ps = some .badParam := by
  unfold CmdDef.check
  rw [hl, hs, hd, ha, hb, Bool.or_true]
  rfl

theorem CmdDef.check_busy (ha : d.absent s ps = false) (hb : d.bad s r ps = false) (hf : bits flags 1 3 = 0)
    (ht : ∀ c ∈ s.rings.active, c.ring = r → c.tag ≠ tag) (hbusy : d.busy s ps = true ∨ 32 ≤ s.rings.active.length) :
    d.check s r flags tag ps = some .busy := by
  have htag : s.rings.active.any (fun c => c.ring = r && c.tag = tag) = false := by simpa using ht
  have hlong : (d.busy s ps || decide (32 ≤ s.longCount)) = true := by
    rw [Bool.or_eq_true, decide_eq_true_iff]
    exact hbusy
  unfold CmdDef.check
  rw [hl, hs, hd, ha, hb, hf, htag, hlong]
  rfl

end

/-! Claims about a row, from its opcode's checks and from what it runs in the state in which its packet has been taken. -/

section
variable {i : Instr} (d : CmdDef) {op : BitVec 8} {h : Header} {ps : List Word} {ok : State → Prop}

theorem Refuses.of_denied {space : Nat} (hi : ∀ s, exec i s = cmdRow d h ps s) (h1 : d.op = op) (h3 : 3 ≤ space)
    (hl : ∀ s, ok s → d.lenOk ps = true) (hd : ∀ s u, ok s → s.SameButRings u → d.denied u h.ring ps = true) :
    Refuses i op h ps space ok .notPermitted :=
  Refuses.of_check d hi h1 h3 fun s u _ hok hu => CmdDef.check_notPermitted (hl s hok) (hd s u hok hu)

theorem Refuses.of_absent {space : Nat} (hi : ∀ s, exec i s = cmdRow d h ps s) (h1 : d.op = op) (h3 : 3 ≤ space)
    (hl : ∀ s, ok s → d.lenOk ps = true) (hs : ∀ s, ok s → d.sources.allows s h.ring = true)
    (hk : ∀ s u, ok s → s.SameButRings u → d.denied u h.ring ps = false ∧ d.absent u ps = true) : Refuses i op h ps space ok .unitAbsent :=
  Refuses.of_check d hi h1 h3 fun s u _ hok hu =>
    CmdDef.check_unitAbsent (hl s hok) ((hu.allows _ _).trans (hs s hok)) (hk s u hok hu).1 (hk s u hok hu).2

theorem Refuses.of_bad {space : Nat} (hi : ∀ s, exec i s = cmdRow d h ps s) (h1 : d.op = op) (h3 : 3 ≤ space)
    (hl : ∀ s, ok s → d.lenOk ps = true) (hs : ∀ s, ok s → d.sources.allows s h.ring = true)
    (hk : ∀ s u, ok s → s.SameButRings u → d.denied u h.ring ps = false ∧ d.absent u ps = false ∧ d.bad u h.ring ps = true) :
    Refuses i op h ps space ok .badParam :=
  Refuses.of_check d hi h1 h3 fun s u _ hok hu => by
    obtain ⟨hd, ha, hb⟩ := hk s u hok hu
    exact CmdDef.check_badParam (hl s hok) ((hu.allows _ _).trans (hs s hok)) hd ha hb

theorem Refuses.of_busy {space : Nat} (hi : ∀ s, exec i s = cmdRow d h ps s) (h1 : d.op = op) (h3 : 3 ≤ space)
    (hl : ∀ s, ok s → d.lenOk ps = true) (hs : ∀ s, ok s → d.sources.allows s h.ring = true)
    (hk : ∀ s u, ok s → s.SameButRings u → d.denied u h.ring ps = false ∧ d.absent u ps = false ∧ d.bad u h.ring ps = false ∧
      (d.busy u ps = true ∨ 32 ≤ s.rings.active.length)) : Refuses i op h ps space ok .busy :=
  Refuses.of_check d hi h1 h3 fun s u a hok hu => by
    obtain ⟨hd, ha, hb, hbusy⟩ := hk s u hok hu
    exact CmdDef.check_busy (hl s hok) ((hu.allows _ _).trans (hs s hok)) hd ha hb a.flags (by rw [hu.active]; exact a.tag)
      (by rwa [hu.active])

variable {src : Sources} (hi : ∀ s, exec i s = cmdRow d h ps s) (h1 : d.op = op) (h2 : d.sources = src)
include hi h1 h2

/-- A packet that passes its checks runs in the state in which it has been taken. -/
theorem exec_taken {s : State} {space : Nat} (h3 : d.space ps = space) (a : Accepts s h ps.length space) (hs : src.allows s h.ring = true)
    (h5 : s.rings.active.length < 32) (hl : d.lenOk ps = true) (hk : d.Passes h ps s) :
    exec i s = .next ((s.taken op h ps).startCmd d (startedCmd d h ps s)) := by
  subst h1 h2 h3
  rw [hi s]
  exact congrArg Host.Outcome.next (s.submit_taken d h ps a hs hl hk h5)

theorem AnswersWith.of_taken {space : Nat} {st : Status} {results : State → List Word} {post : State → State → Prop}
    (h3 : d.space ps = space) (h4 : d.long = false) (hl : ∀ s, ok s → d.lenOk ps = true) (hk : ∀ s, ok s → d.Passes h ps s)
    (hr : ∀ s, Accepts s h ps.length space → src.allows s h.ring = true → ok s →
      ∃ t, post (s.taken op h ps) t ∧ d.run (startedCmd d h ps s) (s.taken op h ps) = (t, .final st (results (s.taken op h ps)))) :
    AnswersWith i op h ps src space ok st results post := by
  intro s a hs h5 hok
  obtain ⟨t, hpost, hrun⟩ := hr s a hs hok
  refine ⟨t, hpost, ?_⟩
  rw [exec_taken d hi h1 h2 h3 a hs h5 (hl s hok) (hk s hok), State.startCmd_final hrun h4]
  rfl

theorem Answers.of_taken {space : Nat} {st : Status} {results : State → List Word} {effect : State → State}
    (h3 : d.space ps = space) (h4 : d.long = false) (hl : ∀ s, ok s → d.lenOk ps = true) (hk : ∀ s, ok s → d.Passes h ps s)
    (hr : ∀ s, Accepts s h ps.length space → src.allows s h.ring = true → ok s →
      d.run (startedCmd d h ps s) (s.taken op h ps) = (effect (s.taken op h ps), .final st (results (s.taken op h ps)))) :
    Answers i op h ps src space ok st results effect := by
  intro s a hs h5 hok
  rw [exec_taken d hi h1 h2 h3 a hs h5 (hl s hok) (hk s hok), State.startCmd_final (hr s a hs hok) h4]
  rfl

theorem Begins.of_taken {res : Nat} {aux : State → Nat} {effect : State → State}
    (h3 : d.results ps = res) (h4 : d.long = true) (hl : ∀ s, ok s → d.lenOk ps = true) (hk : ∀ s, ok s → d.Passes h ps s)
    (hr : ∀ s, Accepts s h ps.length (6 + res) → ok s →
      d.run (startedCmd d h ps s) (s.taken op h ps) = (effect (s.taken op h ps), .running (aux (s.taken op h ps)))) :
    Begins i op h ps src res ok aux effect := by
  intro s a hs h5 hok
  have hspace : d.space ps = 6 + res := by unfold CmdDef.space; rw [h4, h3]; rfl
  rw [exec_taken d hi h1 h2 hspace a hs h5 (hl s hok) (hk s hok), State.startCmd_running (hr s a hok)]
  subst h1 h3
  rfl

omit hi h1 h2 in
/-- An answer without an effect is a refusal. -/
theorem Refuses.of_answers {space : Nat} {st : Status} {ok' : State → Prop} (ha : Answers i op h ps src space ok' st (fun _ => []) id)
    (hok : ∀ s, ok s → src.allows s h.ring = true ∧ s.rings.active.length < 32 ∧ ok' s) : Refuses i op h ps space ok st := by
  intro s a hs
  obtain ⟨hsrc, hroom, hok'⟩ := hok s hs
  exact ha s a hsrc hroom hok'

end

/-- The checks of an opcode that has none of its own. -/
theorem CmdDef.passes_mkCmd (op : BitVec 8) (n m : Nat) (src : Sources) (run : Cmd → State → State × CmdEnd) (h : Header) (ps : List Word)
    (s : State) : (mkCmd op n m src run).Passes h ps s := fun _ _ => ⟨rfl, rfl, rfl, rfl⟩

end Sys2Proof.Machine
end

section
/-! SUPPORT. The commands on slots and fuses (11 section 11.8; R461, R462). -/
namespace Sys2Proof.Machine

section
variable {s u : State} (hu : s.SameButRings u)
include hu

theorem State.SameButRings.wstate : u.wstate = s.wstate := by obtain ⟨C, st, bad, rg, hC, rfl⟩ := hu; rfl
theorem State.SameButRings.inDram : u.inDram = s.inDram := by obtain ⟨C, st, bad, rg, hC, rfl⟩ := hu; rfl
theorem State.SameButRings.flashWords : u.flashWords = s.flashWords := by obtain ⟨C, st, bad, rg, hC, rfl⟩ := hu; rfl
theorem State.SameButRings.rowRefused : u.rowRefused = s.rowRefused := by obtain ⟨C, st, bad, rg, hC, rfl⟩ := hu; rfl

/-- Where no command that works on the slots is outstanding, none is while a packet is checked. -/
theorem State.SameButRings.slots_free (h : ∀ c ∈ s.rings.active, c.op.toNat < 0x81 ∨ 0x84 < c.op.toNat) : Machine.slotsHeld u = false :=
  hu.slotsHeld.trans ((slotsHeld_iff s).2 h)

theorem State.SameButRings.not_running {op : BitVec 8} (h : ∀ c ∈ s.rings.active, c.op ≠ op) : u.running op = none :=
  (hu.running op).trans (State.running_none h)

end

/-- The low bits of a value. -/
theorem setWidth_eq_bits {w : Nat} (v : BitVec w) (n : Nat) : v.setWidth n = bits v 0 n := by
  ext i hi
  simp [bits]

theorem slotInfo_answers (h : Header) (slot : Word) : Answers (.slotInfo h slot) 0x80 h [slot] srcMG 9 (fun _ => slot.toNat < 2) .ok
    (fun u => u.slotInfo (slot = 1)) id := by
  refine Answers.of slotInfoCmd (fun _ => rfl) rfl rfl rfl rfl (fun _ _ => rfl) (fun s hslot u _ => ⟨rfl, rfl, ?_, rfl⟩) fun _ _ _ _ => rfl
  exact decide_eq_false (by show ¬1 < slot.toNat; omega)

theorem slotErase_begins (h : Header) (slot off p0 p1 : Word) : Begins (.slotErase h slot off p0 p1) 0x81 h [slot, off, p0, p1, 0] srcMG 0
    (fun s => slot = 0 ∧ (∀ c ∈ s.rings.active, c.op.toNat < 0x81 ∨ 0x84 < c.op.toNat) ∧ (s.boot.golden = true ∨ s.boot.xipOff = true))
    (fun _ => 0) (fun u => { u with flash := Memory.clearWords u.flash 0x200000 0xE0000 }.writeRecord fun r => r.set 2 1) := by
  refine Begins.of slotWriteCmd (fun _ => rfl) rfl rfl rfl rfl (fun _ _ => rfl) (fun s ⟨hslot, hidle, hxip⟩ u hu => ?_) fun _ _ _ _ => rfl
  refine ⟨?_, rfl, ?_, hu.slots_free hidle⟩
  · show (!u.boot.golden && !u.boot.xipOff) = false
    rw [hu.boot]
    rcases hxip with hg | hx
    · rw [hg]
      rfl
    · rw [hx, Bool.not_true, Bool.and_false]
  · subst hslot
    rfl

theorem slotWrite_begins (h : Header) (slot off p0 p1 len : Word) :
    Begins (.slotWrite h slot off p0 p1 len) 0x81 h [slot, off, p0, p1, len] srcMG 0
      (fun s => slot = 0 ∧ (∀ c ∈ s.rings.active, c.op.toNat < 0x81 ∨ 0x84 < c.op.toNat) ∧ s.wstate = 1 ∧ len ≠ 0 ∧
        off.toNat + len.toNat ≤ 0xE0000 ∧ srcOk s.inDram p0 p1 len.toNat = true ∧
        ∀ w ∈ s.flashWords (0x200000 + off.toNat) len.toNat, w = 0xFFFFFF) (fun _ => 0) id := by
  refine Begins.of slotWriteCmd (fun _ => rfl) rfl rfl rfl rfl (fun _ _ => rfl) ?_ fun s u ⟨_, _, _, hlen, _⟩ _ => if_neg hlen
  intro s ⟨hslot, hidle, hpending, hlen, hroom, hsrc, hblank⟩ u hu
  refine ⟨?_, rfl, ?_, hu.slots_free hidle⟩
  · refine (if_neg hlen).trans ?_
    rw [hu.wstate, hpending]
    rfl
  · have hall : (s.flashWords (0x200000 + off.toNat) len.toNat).all (fun w => w = 0xFFFFFF) = true := by simpa using hblank
    show (slot != 0 || (len.toNat != 0 && (decide (0xE0000 < off.toNat + len.toNat) || !srcOk u.inDram p0 p1 len.toNat ||
      !(u.flashWords (0x200000 + off.toNat) len.toNat).all fun w => w = 0xFFFFFF))) = false
    rw [hu.inDram, hu.flashWords, hall, hsrc, hslot, decide_eq_false (by omega)]
    exact Bool.and_false _

theorem slotWrite_refuses (h : Header) (slot off p0 p1 len : Word) :
    Refuses (.slotWrite h slot off p0 p1 len) 0x81 h [slot, off, p0, p1, len] 6
      (fun s => srcMG.allows s h.ring = true ∧ s.rings.active.length < 32 ∧ len ≠ 0 ∧ s.wstate ≠ 1) .notPermitted := by
  refine Refuses.of_denied slotWriteCmd (fun _ => rfl) rfl (by omega) (fun _ _ => rfl) fun s u ⟨_, _, hlen, hpending⟩ hu => ?_
  refine (if_neg hlen).trans ?_
  rw [hu.wstate]
  exact bne_iff_ne.2 hpending

theorem slotVerify_begins (h : Header) (slot : Word) : Begins (.slotVerify h slot) 0x82 h [slot] srcMG 2
    (fun s => slot.toNat < 2 ∧ ∀ c ∈ s.rings.active, c.op.toNat < 0x81 ∨ 0x84 < c.op.toNat) (fun _ => 0) id :=
  Begins.of slotVerifyCmd (fun _ => rfl) rfl rfl rfl rfl (fun _ _ => rfl)
    (fun s ⟨hslot, hidle⟩ u hu => ⟨rfl, rfl, decide_eq_false (by show ¬1 < slot.toNat; omega), hu.slots_free hidle⟩) fun _ _ _ _ => rfl

theorem slotCommit_begins (h : Header) : Begins (.slotCommit h) 0x83 h [] srcMG 0
    (fun s => (∀ c ∈ s.rings.active, c.op.toNat < 0x81 ∨ 0x84 < c.op.toNat) ∧ (∀ c ∈ s.rings.active, c.op ≠ 0x86) ∧ s.boot.fzBusy = none)
    (fun _ => 0) id := by
  refine Begins.of slotCommitCmd (fun _ => rfl) rfl rfl rfl rfl (fun _ _ => rfl) (fun s ⟨hidle, hfuse, hfz⟩ u hu => ⟨rfl, rfl, rfl, ?_⟩)
    fun _ _ _ _ => rfl
  show (slotsHeld u || (u.running 0x86).isSome || u.boot.fzBusy.isSome) = false
  rw [hu.slots_free hidle, hu.not_running hfuse, hu.boot, hfz]
  rfl

theorem rescore_begins (h : Header) : Begins (.rescore h) 0x84 h [] srcMG 0
    (fun s => ∀ c ∈ s.rings.active, c.op.toNat < 0x81 ∨ 0x84 < c.op.toNat) (fun _ => 0) id :=
  Begins.of rescoreCmd (fun _ => rfl) rfl rfl rfl rfl (fun _ _ => rfl) (fun _ hidle _ hu => ⟨rfl, rfl, rfl, hu.slots_free hidle⟩)
    fun _ _ _ _ => rfl

theorem imageSeal_begins (h : Header) (p0 p1 len : Word) : Begins (.imageSeal h p0 p1 len) 0x85 h [p0, p1, len] srcM 2
    (fun s => p1.toNat < 256 ∧ ∀ c ∈ s.rings.active, c.op ≠ 0x85) (fun _ => 0) id := by
  refine Begins.of imageSealCmd (fun _ => rfl) rfl rfl rfl rfl (fun _ _ => rfl) (fun s ⟨hp, hclear⟩ u hu => ⟨rfl, rfl, ?_, ?_⟩)
    fun _ _ _ _ => rfl
  · exact (above_iff p1 8).2 hp
  · exact congrArg Option.isSome (hu.not_running hclear)

/-- FUSE_WRITE has one to 16 words of data. -/
theorem fuseWriteCmd_lenOk {row : Word} {data : List Word} (h1 : 1 ≤ data.length) (h16 : data.length ≤ 16) :
    fuseWriteCmd.lenOk (row :: data) = true := by
  show (decide (2 ≤ (row :: data).length) && decide ((row :: data).length ≤ 17)) = true
  rw [List.length_cons, decide_eq_true (by omega), decide_eq_true (by omega)]
  rfl

theorem fuseWriteCmd_bad {s u : State} (hu : s.SameButRings u) (row : Word) (data : List Word) (r : BitVec 5) :
    fuseWriteCmd.bad u r (row :: data) =
      (decide (256 < row.toNat + data.length) || (List.range data.length).any fun i => s.rowRefused (row.toNat + i)) := by
  show (decide (256 < row.toNat + data.length) || (List.range data.length).any fun i => u.rowRefused (row.toNat + i)) = _
  rw [hu.rowRefused]

theorem fuseWrite_begins (h : Header) (row : Word) (data : List Word) : Begins (.fuseWrite h row data) 0x86 h (row :: data) srcG 0
    (fun s => 1 ≤ data.length ∧ data.length ≤ 16 ∧ s.boot.perms.getLsbD 2 = true ∧ row.toNat + data.length ≤ 256 ∧
      (∀ i < data.length, s.rowRefused (row.toNat + i) = false) ∧ s.boot.fzBusy = none ∧ (∀ c ∈ s.rings.active, c.op ≠ 0x86) ∧
      ∀ c ∈ s.rings.active, c.op ≠ 0x83) (fun _ => 0)
    (fun u => { u with boot := { u.boot with fzBusy := some (bits row 0 8, data.getD 0 0) } }) := by
  refine Begins.of fuseWriteCmd (fun _ => rfl) rfl rfl rfl rfl (fun s ⟨h1, h16, _⟩ => fuseWriteCmd_lenOk h1 h16) ?_ ?_
  · intro s ⟨_, _, hperm, hend, hrows, hfz, hfuse, hcommit⟩ u hu
    refine ⟨?_, rfl, ?_, ?_⟩
    · show (!u.boot.perms.getLsbD 2) = false
      rw [hu.boot, hperm]
      rfl
    · rw [fuseWriteCmd_bad hu, decide_eq_false (by omega), Bool.false_or]
      simpa using hrows
    · show (u.boot.fzBusy.isSome || (u.running 0x86).isSome || (u.running 0x83).isSome) = false
      rw [hu.boot, hfz, hu.not_running hfuse, hu.not_running hcommit]
      rfl
  · intro s u _ _
    show (u.modBoot fun b => { b with fzBusy := some (row.setWidth 8, data.getD 0 0) }, CmdEnd.running 0) = _
    rw [setWidth_eq_bits]
    rfl

theorem fuseWrite_refuses (h : Header) (row : Word) (data : List Word) : Refuses (.fuseWrite h row data) 0x86 h (row :: data) 6
    (fun s => srcG.allows s h.ring = true ∧ s.rings.active.length < 32 ∧ 1 ≤ data.length ∧ data.length ≤ 16 ∧
      s.boot.perms.getLsbD 2 = true ∧ ∃ i < data.length, s.rowRefused (row.toNat + i) = true) .badParam := by
  refine Refuses.of_bad fuseWriteCmd (fun _ => rfl) rfl (by omega) (fun s ⟨_, _, h1, h16, _⟩ => fuseWriteCmd_lenOk h1 h16)
    (fun s ⟨hsrc, _⟩ => hsrc) fun s u ⟨_, _, _, _, hperm, i, hi, hrefused⟩ hu => ⟨?_, rfl, ?_⟩
  · show (!u.boot.perms.getLsbD 2) = false
    rw [hu.boot, hperm]
    rfl
  · have hany : (List.range data.length).any (fun i => s.rowRefused (row.toNat + i)) = true := by
      rw [List.any_eq_true]
      exact ⟨i, List.mem_range.2 hi, hrefused⟩
    rw [fuseWriteCmd_bad hu, hany, Bool.or_true]

end Sys2Proof.Machine
end

section
/-! SUPPORT. The commands on pools (10 R427, R435 to R437). -/
namespace Sys2Proof.Machine

/-- The address that two words of parameters give, the higher of at most 12 bits. -/
theorem paddrOf_toNat (lo : Word) {hi : Word} (h : hi.toNat < 4096) : (paddrOf lo hi).toNat = lo.toNat + hi.toNat * 2 ^ 24 := by
  have := lo.isLt
  unfold paddrOf
  rw [BitVec.toNat_append, BitVec.toNat_setWidth, Nat.mod_eq_of_lt (by omega), Nat.shiftLeft_eq, ← Nat.shiftLeft_eq,
    ← Nat.shiftLeft_add_eq_or_of_lt this, Nat.shiftLeft_eq, Nat.add_comm]

/-- A size of 1 to 1024 lines, as the field SIZE holds it. -/
theorem Pool.lines_of_size {p : Pool} {size : Word} (hsize : p.size = size.setWidth 10) (h1 : 1 ≤ size.toNat) (h1024 : size.toNat ≤ 1024) :
    p.lines = size.toNat := by
  have hz : p.size = 0 ↔ size.toNat = 1024 := by
    rw [hsize, ← BitVec.toNat_inj, BitVec.toNat_setWidth]
    show size.toNat % 2 ^ 10 = 0 ↔ _
    omega
  unfold Pool.lines
  split
  · next h => exact (hz.1 h).symm
  · next h =>
    rw [hsize, BitVec.toNat_setWidth]
    exact Nat.mod_eq_of_lt (by have := mt hz.2 h; omega)

/-- The conditions under which a pool is made (10 R427). -/
theorem State.poolFits_iff (s : State) (pool b0 b1 size count owner resv : Word) :
    s.poolFits [pool, b0, b1, size, count, owner, resv] = true ↔
      let base := (paddrOf b0 b1).toNat
      let last := base + count.toNat * size.toNat * 24
      pool.toNat < 32 ∧ b1.toNat < 4096 ∧ base % 24 = 0 ∧ 1 ≤ size.toNat ∧ size.toNat ≤ 1024 ∧ 3 ≤ count.toNat ∧ count.toNat ≤ 524287 ∧
      owner.toNat < 16 ∧ s.inDram base = true ∧ s.inDram (last - 1) = true ∧ (s.pool (poolOf pool)).en = false ∧
      ∀ q, (s.pool q).en = true → last ≤ (s.pool q).base.toNat ∨ (s.pool q).endAt ≤ base := by
  have himp : ∀ a b c : Bool, (!a || b || c) = true ↔ (a = true → b = true ∨ c = true) := by decide
  unfold State.poolFits
  simp only [param, List.getD_cons_zero, List.getD_cons_succ, Bool.and_eq_true, Bool.not_eq_true', above_iff, decide_eq_true_eq, and_assoc,
    List.all_eq_true, List.mem_finRange, true_imp_iff, himp]
  rfl

section
variable {s u : State} (hu : s.SameButRings u)
include hu

/-- What a pool parameter must name. -/
theorem State.SameButRings.pool_named {ps : List Word} (hp : (param ps 0).toNat < 32) (hen : (s.pool (poolOf (param ps 0))).en = true) :
    badPool u ps = false := by
  unfold badPool
  rw [(above_iff _ 5).2 hp, hu.pool, hen]
  rfl

end

theorem poolCreate_answers (h : Header) (pool b0 b1 size count owner resv : Word) : let p := poolOf pool
    let base := b0.toNat + b1.toNat * 2 ^ 24
    AnswersWith (.poolCreate h pool b0 b1 size count owner resv) 0x90 h [pool, b0, b1, size, count, owner, resv] srcM 3 (fun s =>
        pool.toNat < 32 ∧ b1.toNat < 4096 ∧ base % 24 = 0 ∧ 1 ≤ size.toNat ∧ size.toNat ≤ 1024 ∧ 3 ≤ count.toNat ∧ count.toNat ≤ 524287 ∧
        owner.toNat < 16 ∧ s.inDram base = true ∧ s.inDram (base + count.toNat * size.toNat * 24 - 1) = true ∧ (s.pool p).en = false ∧
        ∀ q, (s.pool q).en = true → base + count.toNat * size.toNat * 24 ≤ (s.pool q).base.toNat ∨ (s.pool q).endAt ≤ base)
      .ok (fun _ => []) (fun u t => t = { u with bm := { u.bm with pools := t.bm.pools } } ∧ (∀ q, q ≠ p → t.pool q = u.pool q) ∧
        (t.pool p).en = true ∧ (t.pool p).base.toNat = base ∧ (t.pool p).lines = size.toNat ∧ (t.pool p).owner.toNat = owner.toNat ∧
        (t.pool p).count.toNat = count.toNat ∧ (t.pool p).low.toNat = count.toNat ∧ (t.pool p).free = List.range count.toNat) := by
  intro p base
  refine AnswersWith.of poolCreateCmd (fun _ => rfl) rfl rfl rfl rfl (fun _ _ => rfl) ?_ ?_
  · intro s ⟨hpool, hb1, hline, hs1, hs2, hc1, hc2, howner, hfirst, hlast, hfree, hapart⟩ u hu
    refine ⟨rfl, rfl, ?_, rfl⟩
    have hfits : u.poolFits [pool, b0, b1, size, count, owner, resv] = true := by
      rw [State.poolFits_iff, hu.inDram]
      simp only [hu.pool]
      rw [show (paddrOf b0 b1).toNat = base from paddrOf_toNat b0 hb1]
      exact ⟨hpool, hb1, hline, hs1, hs2, hc1, hc2, howner, hfirst, hlast, hfree, hapart⟩
    exact congrArg not hfits
  · intro s u ⟨_, hb1, _, hs1, hs2, _, hc2, howner, _⟩ _
    refine ⟨_, ?_, rfl⟩
    have hcount : (count.setWidth 19).toNat = count.toNat := by rw [BitVec.toNat_setWidth, Nat.mod_eq_of_lt (by omega)]
    have hp : poolOf (param [pool, b0, b1, size, count, owner, resv] 0) = p := rfl
    dsimp only [startedCmd]
    rw [hp, State.setPool_pool_same]
    refine ⟨rfl, fun q hq => State.setPool_pool_other _ _ hq, rfl, paddrOf_toNat b0 hb1, Pool.lines_of_size rfl hs1 hs2, ?_, hcount, hcount, ?_⟩
    · show (owner.setWidth 4).toNat = _
      rw [BitVec.toNat_setWidth, Nat.mod_eq_of_lt (by omega)]
    · exact congrArg List.range hcount

/-- A pool of which no buffer is in use is destroyed (10 R435). -/
theorem poolDestroy_answers (h : Header) (pool : Word) : let p := poolOf pool
    AnswersWith (.poolDestroy h pool) 0x91 h [pool] srcM 3
      (fun s => (pool.toNat < 32 ∧ (s.pool p).en = true) ∧ (s.pool p).count.toNat ≤ (s.pool p).free.length) .ok (fun _ => [])
      (fun u t => t = u.setPool p { u.pool p with en := false, free := [] }) := by
  intro p
  refine AnswersWith.of poolDestroyCmd (fun _ => rfl) rfl rfl rfl rfl (fun _ _ => rfl) ?_ fun s u _ _ => ⟨_, rfl, rfl⟩
  intro s ⟨⟨hpool, hen⟩, hall⟩ u hu
  refine ⟨rfl, rfl, hu.pool_named hpool hen, ?_⟩
  show decide ((u.pool p).free.length < (u.pool p).count.toNat) = false
  rw [hu.pool]
  exact decide_eq_false (Nat.not_lt.2 hall)

theorem poolDestroy_refuses (h : Header) (pool : Word) : let p := poolOf pool
    Refuses (.poolDestroy h pool) 0x91 h [pool] 3
      (fun s => srcM.allows s h.ring = true ∧ (pool.toNat < 32 ∧ (s.pool p).en = true) ∧ (s.pool p).free.length < (s.pool p).count.toNat)
      .busy := by
  intro p
  refine Refuses.of_busy poolDestroyCmd (fun _ => rfl) rfl (by omega) (fun _ _ => rfl) (fun s ⟨hsrc, _⟩ => hsrc) ?_
  intro s u ⟨_, ⟨hpool, hen⟩, hused⟩ hu
  refine ⟨rfl, rfl, hu.pool_named hpool hen, .inl ?_⟩
  show decide ((u.pool p).free.length < (u.pool p).count.toNat) = true
  rw [hu.pool]
  exact decide_eq_true hused

/-! POOL_TAKE. -/

/-- Buffers that a pool has are taken from the front of its list (10 R436). -/
theorem State.takeBuffers_takes {s : State} {p : Fin 32} {n : Nat} (hen : (s.pool p).en = true) (hn : n ≤ (s.pool p).free.length) :
    let t := (s.takeBuffers p n).1
    (s.takeBuffers p n).2 = ((s.pool p).free.take n).map (handleOf p.val) ∧ t = { s with bm := { s.bm with pools := t.bm.pools } } ∧
    (∀ q, q ≠ p → t.pool q = s.pool q) ∧ t.pool p = { s.pool p with free := (s.pool p).free.drop n, low := (t.pool p).low } := by
  induction n generalizing s with
  | zero => exact ⟨rfl, rfl, fun _ _ => rfl, rfl⟩
  | succ n ih =>
    obtain ⟨i, rest, hfree⟩ : ∃ i rest, (s.pool p).free = i :: rest := List.exists_cons_of_length_pos (by omega)
    obtain ⟨low, hgrant, _⟩ := State.grant_grants (cdr := true) hen hfree (.inl rfl)
    have hstep : s.takeBuffers p (n + 1) =
        let r := (s.setPool p { s.pool p with free := rest, low }).takeBuffers p n
        (r.1, handleOf p.val i :: r.2) := by
      rw [State.takeBuffers, hgrant]
    rw [hfree, List.length_cons] at hn
    obtain ⟨hres, hframe, hother, hsame⟩ := ih (s := s.setPool p { s.pool p with free := rest, low }) (by rw [State.setPool_pool_same]; exact hen)
      (by rw [State.setPool_pool_same]; show n ≤ rest.length; omega)
    rw [State.setPool_pool_same] at hres hsame
    dsimp only at hres hsame hframe hother ⊢
    rw [hstep, hfree]
    dsimp only
    refine ⟨?_, hframe, fun q hq => (hother q hq).trans (State.setPool_pool_other _ _ hq), hsame⟩
    rw [hres]
    rfl

section
variable (h : Header) (pool n : Word)

theorem poolTakeCmd_passes {s : State} (hmade : pool.toNat < 32 ∧ (s.pool (poolOf pool)).en = true) (h1 : 1 ≤ n.toNat) (h8 : n.toNat ≤ 8) :
    poolTakeCmd.Passes h [pool, n] s := by
  intro u hu
  refine ⟨rfl, rfl, ?_, rfl⟩
  have hn : n ≠ 0 := fun h0 => by
    rw [h0] at h1
    exact absurd h1 (by decide)
  show (badPool u [pool, n] || decide (n = 0) || decide (8 < n.toNat)) = false
  rw [hu.pool_named (ps := [pool, n]) hmade.1 hmade.2, decide_eq_false hn, decide_eq_false (by omega)]
  rfl

theorem poolTakeCmd_run (s u : State) : poolTakeCmd.run (startedCmd poolTakeCmd h [pool, n] s) u =
    if n.toNat ≤ (u.pool (poolOf pool)).free.length
      then ((u.takeBuffers (poolOf pool) n.toNat).1, .final .ok (u.takeBuffers (poolOf pool) n.toNat).2)
      else ({ u with bm := { u.bm with empty := setBit u.bm.empty (poolOf pool).val true } }, .final .poolEmpty []) := rfl

/-- The reply of POOL_TAKE has room for a handle for each buffer, at most 8. -/
theorem poolTakeCmd_space (h8 : n.toNat ≤ 8) : poolTakeCmd.space [pool, n] = 3 + n.toNat := by
  show 0 + 3 + min 8 n.toNat = 3 + n.toNat
  omega

theorem poolTake_answers : let p := poolOf pool
    AnswersWith (.poolTake h pool n) 0x93 h [pool, n] srcMDG (3 + n.toNat)
      (fun s => (pool.toNat < 32 ∧ (s.pool p).en = true) ∧ 1 ≤ n.toNat ∧ n.toNat ≤ 8 ∧ n.toNat ≤ (s.pool p).free.length) .ok
      (fun u => ((u.pool p).free.take n.toNat).map (handleOf p.val)) (fun u t =>
        t = { u with bm := { u.bm with pools := t.bm.pools } } ∧ (∀ q, q ≠ p → t.pool q = u.pool q) ∧
        t.pool p = { u.pool p with free := (u.pool p).free.drop n.toNat, low := (t.pool p).low }) := by
  intro p
  by_cases h8 : n.toNat ≤ 8
  · refine AnswersWith.of poolTakeCmd (fun _ => rfl) rfl rfl (poolTakeCmd_space pool n h8) rfl (fun _ _ => rfl)
      (fun s ⟨hmade, h1, _, _⟩ => poolTakeCmd_passes h pool n hmade h1 h8) ?_
    intro s u ⟨hmade, _, _, hfree⟩ hu
    rw [← hu.pool] at hmade hfree
    obtain ⟨hres, hpost⟩ := State.takeBuffers_takes hmade.2 hfree
    exact ⟨_, hpost, (poolTakeCmd_run h pool n s u).trans ((if_pos hfree).trans (by rw [hres]))⟩
  · exact fun s _ _ _ ⟨_, _, hle, _⟩ => absurd hle h8

theorem poolTake_empty : let p := poolOf pool
    Answers (.poolTake h pool n) 0x93 h [pool, n] srcMDG (3 + n.toNat)
      (fun s => (pool.toNat < 32 ∧ (s.pool p).en = true) ∧ 1 ≤ n.toNat ∧ n.toNat ≤ 8 ∧ (s.pool p).free.length < n.toNat) .poolEmpty (fun _ => [])
      (fun u => { u with bm := { u.bm with empty := setBit u.bm.empty p.val true } }) := by
  intro p
  by_cases h8 : n.toNat ≤ 8
  · refine Answers.of poolTakeCmd (fun _ => rfl) rfl rfl (poolTakeCmd_space pool n h8) rfl (fun _ _ => rfl)
      (fun s ⟨hmade, h1, _, _⟩ => poolTakeCmd_passes h pool n hmade h1 h8) ?_
    intro s u ⟨_, _, _, hfew⟩ hu
    rw [← hu.pool] at hfew
    exact (poolTakeCmd_run h pool n s u).trans (if_neg (Nat.not_le.2 hfew))
  · exact fun s _ _ _ ⟨_, _, hle, _⟩ => absurd hle h8

end

/-! POOL_GIVE. -/

/-- Handles of a pool released to it (10 R433, R437). -/
def State.giveBuffers (s : State) (p : Fin 32) (handles : List Word) : State := handles.foldl (fun s hd => s.release p hd true) s

/-- The handle is one of the pool's. -/
def State.ownHandle (s : State) (p : Fin 32) (hd : Word) : Prop :=
  handlePool hd = p ∧ (s.pool p).en = true ∧ handleIndex hd < (s.pool p).count.toNat

theorem State.giveBuffers_cons (s : State) (p : Fin 32) (hd : Word) (handles : List Word) :
    s.giveBuffers p (hd :: handles) = (s.release p hd true).giveBuffers p handles := rfl

/-- The release of one of a pool's handles changes nothing but the pool's list and DBL_FREE. -/
theorem State.release_frame {s : State} {p : Fin 32} {hd : Word} (hown : s.ownHandle p hd) : let t := s.release p hd true
    (∀ q, q ≠ p → t.pool q = s.pool q) ∧ t = { s with bm := { s.bm with pools := t.bm.pools, dblFree := t.bm.dblFree } } ∧
    (t.pool p).en = (s.pool p).en ∧ (t.pool p).count = (s.pool p).count := by
  obtain ⟨hpool, hen, hi⟩ := hown
  rw [State.release_own hpool hen hi]
  split
  · exact ⟨fun _ _ => rfl, rfl, rfl, rfl⟩
  · refine ⟨fun q hq => State.setPool_pool_other _ _ hq, rfl, ?_, ?_⟩ <;> rw [State.setPool_pool_same]

theorem State.giveBuffers_frame {s : State} {p : Fin 32} {handles : List Word} (hown : ∀ hd ∈ handles, s.ownHandle p hd) :
    let t := s.giveBuffers p handles
    (∀ q, q ≠ p → t.pool q = s.pool q) ∧ t = { s with bm := { s.bm with pools := t.bm.pools, dblFree := t.bm.dblFree } } := by
  induction handles generalizing s with
  | nil => exact ⟨fun _ _ => rfl, rfl⟩
  | cons hd handles ih =>
    obtain ⟨hother, hframe, hen, hcount⟩ := State.release_frame (hown hd (List.mem_cons_self ..))
    obtain ⟨hother', hframe'⟩ := ih (s := s.release p hd true) fun x hx => by
      obtain ⟨hpool, hpen, hi⟩ := hown x (List.mem_cons_of_mem _ hx)
      exact ⟨hpool, hen.trans hpen, by rw [hcount]; exact hi⟩
    rw [State.giveBuffers_cons]
    refine ⟨fun q hq => (hother' q hq).trans (hother q hq), hframe'.trans ?_⟩
    rw [hframe]

/-- Handles of buffers in use, each given once, come to the end of the list in their order. -/
theorem State.giveBuffers_appends {s : State} {p : Fin 32} {handles : List Word} (hown : ∀ hd ∈ handles, s.ownHandle p hd)
    (honce : (handles.map handleIndex).Nodup) (hused : ∀ hd ∈ handles, handleIndex hd ∉ (s.pool p).free) :
    (s.giveBuffers p handles).pool p = { s.pool p with free := (s.pool p).free ++ handles.map handleIndex } ∧
    (s.giveBuffers p handles).bm.dblFree = s.bm.dblFree := by
  induction handles generalizing s with
  | nil => exact ⟨by rw [List.map_nil, List.append_nil]; rfl, rfl⟩
  | cons hd handles ih =>
    obtain ⟨hpool, hen, hi⟩ := hown hd (List.mem_cons_self ..)
    rw [List.map_cons, List.nodup_cons] at honce
    rw [State.giveBuffers_cons, State.release_own hpool hen hi, if_neg (hused hd (List.mem_cons_self ..))]
    obtain ⟨hfree, hdbl⟩ := ih (s := s.setPool p { s.pool p with free := (s.pool p).free ++ [handleIndex hd] })
      (fun x hx => by
        obtain ⟨hxp, hxe, hxi⟩ := hown x (List.mem_cons_of_mem _ hx)
        unfold State.ownHandle
        rw [State.setPool_pool_same]
        exact ⟨hxp, hxe, hxi⟩)
      honce.2
      (fun x hx => by
        rw [State.setPool_pool_same, List.mem_append, List.mem_singleton, not_or]
        exact ⟨hused x (List.mem_cons_of_mem _ hx), fun he => honce.1 (he ▸ List.mem_map_of_mem hx)⟩)
    rw [State.setPool_pool_same] at hfree
    refine ⟨hfree.trans ?_, hdbl⟩
    rw [List.append_assoc]
    rfl

theorem poolGive_answers (h : Header) (pool n resv : Word) (handles : List Word) : let p := poolOf pool
    AnswersWith (.poolGive h pool n resv handles) 0x94 h ([pool, n, resv] ++ handles) srcMDG 3
      (fun s => (pool.toNat < 32 ∧ (s.pool p).en = true) ∧ 1 ≤ n.toNat ∧ n.toNat ≤ 8 ∧ handles.length = n.toNat ∧
        ∀ x ∈ handles, bits x 19 5 = bits pool 0 5 ∧ (bits x 0 19).toNat < (s.pool p).count.toNat) .ok (fun _ => []) (fun u t =>
        (∀ q, q ≠ p → t.pool q = u.pool q) ∧ t = { u with bm := { u.bm with pools := t.bm.pools, dblFree := t.bm.dblFree } } ∧
        ((handles.map handleIndex).Nodup → (∀ x ∈ handles, handleIndex x ∉ (u.pool p).free) →
          t.pool p = { u.pool p with free := (u.pool p).free ++ handles.map handleIndex } ∧ t.bm.dblFree = u.bm.dblFree)) := by
  intro p
  have hnamed (x : Word) (hx : bits x 19 5 = bits pool 0 5) : handlePool x = p := congrArg BitVec.toFin hx
  refine AnswersWith.of poolGiveCmd (fun _ => rfl) rfl rfl rfl rfl ?_ ?_ ?_
  · intro s ⟨_, _, _, hlen, _⟩
    show (decide (3 ≤ ([pool, n, resv] ++ handles).length) && decide (([pool, n, resv] ++ handles).length = 3 + n.toNat)) = true
    rw [List.length_append, hlen]
    simp
  · intro s ⟨⟨hpool, hen⟩, h1, h8, hlen, hown⟩ u hu
    refine ⟨rfl, rfl, ?_, rfl⟩
    have hn : n ≠ 0 := fun h0 => by
      rw [h0] at h1
      exact absurd h1 (by decide)
    have hany : (handles.any fun hd => decide (handlePool hd ≠ p) || decide ((u.pool p).count.toNat ≤ handleIndex hd)) = false := by
      rw [List.any_eq_false]
      intro x hx
      obtain ⟨hxp, hxi⟩ := hown x hx
      rw [hu.pool, decide_eq_false (not_not.2 (hnamed x hxp)), show decide (_ ≤ handleIndex x) = false from decide_eq_false (Nat.not_le.2 hxi)]
      exact Bool.false_ne_true
    show (badPool u ([pool, n, resv] ++ handles) || decide (n = 0) || decide (8 < n.toNat) || handles.any _) = false
    rw [hu.pool_named (ps := [pool, n, resv] ++ handles) hpool hen, decide_eq_false hn, decide_eq_false (by omega)]
    exact hany
  · intro s u ⟨⟨_, hen⟩, _, _, _, hown⟩ hu
    have hown' : ∀ hd ∈ handles, u.ownHandle p hd := fun x hx => by
      obtain ⟨hxp, hxi⟩ := hown x hx
      unfold State.ownHandle
      rw [hu.pool]
      exact ⟨hnamed x hxp, hen, hxi⟩
    obtain ⟨hother, hframe⟩ := State.giveBuffers_frame hown'
    exact ⟨u.giveBuffers p handles, ⟨hother, hframe, State.giveBuffers_appends hown'⟩, rfl⟩

end Sys2Proof.Machine
end

section
/-! SUPPORT. ABORT (10 section 10.6), and O46. -/
namespace Sys2Proof.Machine

/-- A reply changes nothing of the command service but the replies that are held back. -/
theorem State.reply_rings (s : State) (r : BitVec 5) (st : Status) (final : Bool) (tag seq : Word) (res : List Word) :
    ∃ held, (s.reply r st final tag seq res).rings = { s.rings with held } := by
  by_cases hfits : s.canReply r (replyWords st final tag seq res).length = true
  · obtain ⟨stage, bad, hw⟩ := s.writeReply_eq r (replyWords st final tag seq res)
    obtain ⟨d, hvoice, hpartner⟩ := State.reply_written hfits
    rw [hw] at hvoice hpartner
    by_cases hr : r = 16
    · exact ⟨s.rings.held, by rw [hpartner hr]; rfl⟩
    · exact ⟨s.rings.held, by rw [hvoice hr]⟩
  · exact ⟨_, by rw [State.reply_held hfits]⟩

/-- The ABORT of a packet that has not started leaves a mark and changes no command that is outstanding (10 R424). -/
theorem State.abortWaiting_marks (s : State) (r : BitVec 5) (i : Word) :
    (r, i) ∈ (s.abortWaiting r i).rings.cancelled ∧ (s.abortWaiting r i).rings.active = s.rings.active := by
  have hmem : (r, i) ∈ s.rings.cancelled ++ [(r, i)] := List.mem_append_right _ (List.mem_singleton_self _)
  unfold State.abortWaiting
  dsimp only
  split
  · obtain ⟨held, hrings⟩ := State.reply_rings (s.modRings fun x => { x with cancelled := x.cancelled ++ [(r, i)] }) r .aborted true
      (s.reqWord r (i + 1)) i []
    rw [hrings]
    exact ⟨hmem, rfl⟩
  · exact ⟨hmem, rfl⟩

/-- The opcodes that can be aborted. -/
theorem abortable_opcodes : (opcodes.filter CmdDef.abortable).map CmdDef.op = [0x20, 0x51, 0x70, 0x81, 0x82, 0x85] := rfl

theorem opAbortable_iff (op : BitVec 8) :
    opAbortable op = true ↔ op = 0x20 ∨ op = 0x51 ∨ op = 0x70 ∨ op = 0x81 ∨ op = 0x82 ∨ op = 0x85 := by
  have hmem : opAbortable op = true ↔ op ∈ (opcodes.filter CmdDef.abortable).map CmdDef.op := by
    unfold opAbortable
    simp only [List.any_eq_true, Bool.and_eq_true, decide_eq_true_eq, List.mem_map, List.mem_filter]
    exact exists_congr fun d => by tauto
  rw [hmem, abortable_opcodes]
  simp only [List.mem_cons, List.not_mem_nil, or_false]

section
variable {h : Header} {ring target : Word}

/-- The ring that an ABORT names, where its source may name it (10 R421). -/
def mayAbort (h : Header) (ring : Word) : Prop := (ring.toNat < 16 ∧ (h.ring = 0 ∨ ring.toNat = h.ring.toNat)) ∨ ring = 0x1F

theorem abortDef_passes (hmay : mayAbort h ring) (s : State) : abortDef.Passes h [ring, target] s := by
  intro u _
  refine ⟨?_, rfl, ?_, rfl⟩
  · show (h.ring != 0 && decide (ring.toNat < 16) && ring.toNat != h.ring.toNat) = false
    rcases hmay with ⟨_, hzero | heq⟩ | hself
    · rw [hzero]
      rfl
    · rw [heq, bne_self_eq_false, Bool.and_false]
    · rw [hself]
      exact congrArg (fun b => b && (31 : Word).toNat != h.ring.toNat) (Bool.and_false _)
  · show (decide (15 < ring.toNat) && ring != 0x1F) = false
    rcases hmay with ⟨hlt, _⟩ | hself
    · rw [decide_eq_false (by omega)]
      rfl
    · rw [hself]
      rfl

theorem abortDef_run (s u : State) :
    abortDef.run (startedCmd abortDef h [ring, target] s) u = u.abort (if ring = 0x1F then h.ring else ring.setWidth 5) target := rfl

end

section
variable {s : State} {r : BitVec 5} {tag : Word} {c : Cmd} {i : Word}

theorem State.abort_committed (hfound : s.rings.active.find? (fun x => x.ring = r && x.tag = tag) = some c) (hc : c.isCommitted = true) :
    s.abort r tag = (s, .final .tooLate []) := by
  unfold State.abort
  rw [hfound]
  exact if_pos hc

theorem State.abort_refused (hfound : s.rings.active.find? (fun x => x.ring = r && x.tag = tag) = some c) (hc : c.isCommitted = false)
    (ha : ¬opAbortable c.op = true) : s.abort r tag = (s, .final .notAbortable []) := by
  unfold State.abort
  rw [hfound]
  dsimp only
  rw [hc, if_neg Bool.false_ne_true, if_pos (by simpa using ha)]

theorem State.abort_aborts (hfound : s.rings.active.find? (fun x => x.ring = r && x.tag = tag) = some c) (hc : c.isCommitted = false)
    (ha : opAbortable c.op = true) : s.abort r tag = ((s.undoCmd c).finish c .aborted [], .final .ok []) := by
  unfold State.abort
  rw [hfound]
  dsimp only
  rw [hc, ha]
  rfl

variable (hnone : ∀ x ∈ s.rings.active, x.ring = r → x.tag ≠ tag)
include hnone

theorem State.abort_find_none : s.rings.active.find? (fun x => x.ring = r && x.tag = tag) = none := by simpa using hnone

theorem State.abort_waits (hwaits : s.waitingPacket r tag = some i) (hord : s.waitsOrdered r i = true)
    (ha : opAbortable (bits (s.reqWord r i) 16 8) = true) : s.abort r tag = (s.abortWaiting r i, .final .ok []) := by
  unfold State.abort
  rw [State.abort_find_none hnone, hwaits]
  dsimp only
  rw [hord, ha]
  rfl

theorem State.abort_waits_refused (hwaits : s.waitingPacket r tag = some i) (hord : s.waitsOrdered r i = true)
    (ha : ¬opAbortable (bits (s.reqWord r i) 16 8) = true) : s.abort r tag = (s, .final .notAbortable []) := by
  unfold State.abort
  rw [State.abort_find_none hnone, hwaits]
  dsimp only
  rw [hord, Bool.not_true, if_neg Bool.false_ne_true, if_pos (by simpa using ha)]

/-- A tag of which nothing waits comes too late (10 R423). -/
theorem State.abort_gone (hgone : ∀ j, s.waitingPacket r tag = some j → s.waitsOrdered r j = false) :
    s.abort r tag = (s, .final .tooLate []) := by
  unfold State.abort
  rw [State.abort_find_none hnone]
  cases hwaits : s.waitingPacket r tag with
  | none => rfl
  | some j =>
    dsimp only
    rw [hgone j hwaits]
    rfl

end

section
variable {h : Header} {ring target : Word}

theorem abortCmd_denied (h : Header) (ring target : Word) : Refuses (.abortCmd h ring target) 0xF0 h [ring, target] 3
    (fun s => srcAll.allows s h.ring = true ∧ h.ring ≠ 0 ∧ ring.toNat < 16 ∧ ring.toNat ≠ h.ring.toNat) .notPermitted := by
  refine Refuses.of_denied abortDef (fun _ => rfl) rfl (by omega) (fun _ _ => rfl) fun s u ⟨_, hzero, hlt, hother⟩ _ => ?_
  show (h.ring != 0 && decide (ring.toNat < 16) && ring.toNat != h.ring.toNat) = true
  rw [bne_iff_ne.2 hzero, decide_eq_true hlt, bne_iff_ne.2 hother]
  rfl

/-- The ABORT of a command that is outstanding, from what is done about that command. -/
theorem abortCmd_found {c : Cmd} {st : Status} {ok : Prop} {effect : State → State} {into : BitVec 5}
    (hinto : into = if ring = 0x1F then h.ring else ring.setWidth 5)
    (hrun : ∀ u : State, ok → u.rings.active.find? (fun x => x.ring = into && x.tag = target) = some c →
      u.abort into target = (effect u, .final st [])) :
    Answers (.abortCmd h ring target) 0xF0 h [ring, target] srcAll 3
      (fun s => (mayAbort h ring ∧ s.rings.active.find? (fun x => x.ring = into && x.tag = target) = some c) ∧ ok) st (fun _ => []) effect := by
  subst hinto
  refine Answers.of abortDef (fun _ => rfl) rfl rfl rfl rfl (fun _ _ => rfl) (fun s ⟨⟨hmay, _⟩, _⟩ => abortDef_passes hmay s) ?_
  intro s u ⟨⟨_, hfound⟩, hok⟩ hu
  rw [abortDef_run]
  exact hrun u hok (by rw [hu.active]; exact hfound)

/-- The ABORT of a packet that waits, from what is done about it once the ABORT has been taken. -/
theorem abortCmd_waiting {st : Status} {ok : State → Prop} {effect : State → State} {into : BitVec 5}
    (hinto : into = if ring = 0x1F then h.ring else ring.setWidth 5)
    (hrun : ∀ s : State, let u := s.taken 0xF0 h [ring, target]
      ok s → (∀ x ∈ u.rings.active, x.ring = into → x.tag ≠ target) → u.abort into target = (effect u, .final st [])) :
    Answers (.abortCmd h ring target) 0xF0 h [ring, target] srcAll 3
      (fun s => mayAbort h ring ∧ (∀ x ∈ s.rings.active, x.ring = into → x.tag ≠ target) ∧ ok s)
      st (fun _ => []) effect := by
  subst hinto
  refine Answers.of_taken abortDef (fun _ => rfl) rfl rfl rfl rfl (fun _ _ => rfl) (fun s ⟨hmay, _⟩ => abortDef_passes hmay s) ?_
  intro s a _ ⟨_, hidle, hok⟩
  rw [abortDef_run]
  exact hrun _ hok (by rw [(State.taken_frame a).active]; exact hidle)

end

end Sys2Proof.Machine

open Sys2Proof Sys2Proof.Machine

/-- Settles O46: the checks of each opcode read nothing that a packet changes, and each pool command works on the one pool that it names. -/
theorem slotPoolAndAbortCommands : Obligations.SlotPoolAndAbortCommands := by
  intro h slot off p0 p1 len row pool b0 b1 size count owner resv n ring target data handles
  refine ⟨slotInfo_answers h slot, slotErase_begins h slot off p0 p1, slotWrite_begins h slot off p0 p1 len,
    slotWrite_refuses h slot off p0 p1 len, slotVerify_begins h slot, slotCommit_begins h, rescore_begins h, imageSeal_begins h p0 p1 len,
    fuseWrite_begins h row data, fuseWrite_refuses h row data, poolCreate_answers h pool b0 b1 size count owner resv,
    poolDestroy_answers h pool, poolDestroy_refuses h pool, poolTake_answers h pool n, poolTake_empty h pool n,
    poolGive_answers h pool n resv handles, fun c => ?_, fun i => ?_, abortCmd_denied h ring target⟩
  · simp only [← opAbortable_iff]
    exact ⟨abortCmd_found rfl fun _ hc hfound => State.abort_committed hfound hc,
      abortCmd_found rfl fun _ ⟨hc, ha⟩ hfound => State.abort_refused hfound hc ha,
      abortCmd_found rfl fun _ ⟨hc, ha⟩ hfound => State.abort_aborts hfound hc ha⟩
  · simp only [← opAbortable_iff, and_assoc]
    exact ⟨abortCmd_waiting rfl fun _ ⟨hwaits, hord, ha⟩ hnone => State.abort_waits hnone hwaits hord ha,
      abortCmd_waiting rfl fun _ ⟨hwaits, hord, ha⟩ hnone => State.abort_waits_refused hnone hwaits hord ha,
      abortCmd_waiting rfl fun _ hgone hnone => State.abort_gone hnone hgone,
      fun v => State.abortWaiting_marks v _ i⟩

end

section
/-! SUPPORT. What a write to memory leaves of the tracking of Echo and of the controller's readiness (09 R360, R861). -/
namespace Sys2Proof.Machine

/-- Whether Echo tracks writes, and whether DRAM is served. -/
def State.trackView (s : State) : Bool × Bool := (s.echo.track, s.mc.ready)

theorem State.DramRead.trackView {s t : State} (h : s.DramRead t) : t.trackView = s.trackView := by
  have hecho : t.echo = s.echo := (congrArg State.echo h.frame).trans rfl
  rw [State.trackView, hecho, h.mc]
  rfl

theorem State.dropSite_trackView (s : State) (site : CacheSite) (line : Nat) : (s.dropSite site line).trackView = s.trackView := by
  unfold State.dropSite
  split
  · rfl
  · split
    · rfl
    · split <;> rfl
    · unfold State.dropSection
      split <;> rfl
    · rfl

theorem State.settleLine_trackView (s : State) (line : Nat) (ws : List WrWord) : (s.settleLine line ws).trackView = s.trackView := by
  unfold State.settleLine
  split <;> rfl

theorem State.snoopWrite_trackView (s : State) (line : Nat) (ws : List WrWord) : (s.snoopWrite line ws).trackView = s.trackView := by
  unfold State.snoopWrite
  dsimp only
  split <;> rfl

theorem State.writeBeat_trackView (s : State) (line beat : Nat) (ws : List WrWord) : (s.writeBeat line beat ws).trackView = s.trackView := by
  unfold State.writeBeat
  dsimp only
  change (if _ then (s, false) else s.readBeat .demand line beat).1.trackView = s.trackView
  split
  · rfl
  · exact (s.readBeat_read _ _ _).trackView

theorem State.mark_trackView (s : State) (addrs : List Nat) : { s with echo := s.echo.mark addrs }.trackView = s.trackView := by
  unfold Echo.mark
  split <;> rfl

theorem State.writeDram_trackView (s : State) (line : Nat) (ws : List WrWord) : (s.writeDram line ws).trackView = s.trackView := by
  unfold State.writeDram
  refine (State.mark_trackView _ _).trans (State.fold_keeps State.trackView _ (fun s b => ?_) _ s)
  dsimp only
  split
  · rfl
  · exact s.writeBeat_trackView _ _ _

theorem State.store_trackView (s : State) (line : Nat) (ws : List WrWord) : (s.store line ws).trackView = s.trackView := by
  unfold State.store
  dsimp only
  split
  · rfl
  · split
    · rfl
    · exact s.writeDram_trackView _ _

theorem State.performed_trackView (s : State) (x : Stalled) (ws : List WrWord) : (s.performed x ws).trackView = s.trackView := by
  unfold State.performed
  rw [State.store_trackView]
  split
  · exact (s.readBeats_read .demand x.line (List.range 8)).trackView
  · rfl

theorem State.complete_trackView (s : State) (later : List Stalled) (x : Stalled) : (s.complete later x).trackView = s.trackView := by
  unfold State.complete
  dsimp only
  split
  · split
    · rw [State.dropSite_trackView, State.settleLine_trackView, State.performed_trackView]
    · rw [State.settleLine_trackView, State.performed_trackView]
  · split
    · exact s.performed_trackView _ _
    · split
      · exact s.performed_trackView _ _
      · split
        · rw [State.snoopWrite_trackView, State.performed_trackView]
        · exact s.performed_trackView _ _

theorem State.tryWrite_trackView (s : State) (later : List Stalled) (x : Stalled) : (s.tryWrite later x).1.trackView = s.trackView := by
  unfold State.tryWrite
  split
  · rfl
  · rfl
  · refine (State.fold_keeps State.trackView _ (fun s d => ?_) _ _).trans (s.complete_trackView _ _)
    cases d <;> rfl

theorem State.retryStalled_trackView (s : State) : s.retryStalled.trackView = s.trackView := by
  suffices h : ∀ (l : List Stalled) (s : State), (s.retryAll l).trackView = s.trackView from h _ _
  intro l
  induction l with
  | nil => exact fun _ => rfl
  | cons x xs ih => exact fun s => (ih _).trans (s.tryWrite_trackView _ _)

end Sys2Proof.Machine
end

section
/-! SUPPORT. Roles (14 R589, R596, R597), and a command for the partner (13 R564, R571). -/
namespace Sys2Proof.Machine

/-! Roles. -/

/-- What an end of a command leaves of the device's role and of Echo. -/
theorem State.finishOp_role (s : State) (op : BitVec 8) (st : Status) (res : List Word) :
    (s.finishOp op st res).refrain = s.refrain ∧ (s.finishOp op st res).echo = s.echo := by
  obtain ⟨x, stage, bad, d, heq⟩ := s.finishOp_eq op st res
  rw [heq]
  exact ⟨rfl, rfl⟩

theorem State.finishOp_idle {s : State} {op : BitVec 8} (h : ∀ c ∈ s.rings.active, c.op ≠ op) (st : Status) (res : List Word) :
    s.finishOp op st res = s := by
  unfold State.finishOp
  rw [State.running_none h]

theorem State.produceEnd_refrain (s : State) (status : Word) :
    (s.produceEnd status).refrain.role = s.refrain.role ∧ (s.produceEnd status).refrain.en = s.refrain.en := by
  unfold State.produceEnd
  split <;> exact ⟨rfl, rfl⟩

theorem State.spillAll_refrain (s : State) (n : Nat) : (s.spillAll n).refrain = s.refrain := by
  induction n generalizing s with
  | zero => rfl
  | succ n ih =>
    unfold State.spillAll
    split
    · rfl
    · refine (ih _).trans ?_
      unfold State.spillDone
      dsimp only
      split
      · exact congrArg (·.2.2.2.1) (s.complete_keptView _ _)
      · rfl

/-- A stream that is abandoned leaves the role and whether redundancy is on. -/
theorem State.abandonStream_refrain (s : State) (lost : Bool) :
    (s.abandonStream lost).refrain.role = s.refrain.role ∧ (s.abandonStream lost).refrain.en = s.refrain.en := by
  unfold State.abandonStream
  split
  · exact ⟨rfl, rfl⟩
  · dsimp only
    rw [State.spillAll_refrain, State.retryStalled_refrain]
    split
    · exact ⟨rfl, rfl⟩
    · exact s.produceEnd_refrain 2

/-- The end of tracking (09 R859). -/
theorem State.trackOff_ends (s : State) : s.trackOff.echo.track = false ∧ s.trackOff.refrain.role = s.refrain.role ∧
    s.trackOff.refrain.en = s.refrain.en := by
  unfold State.trackOff
  dsimp only
  refine ⟨congrArg Prod.fst (State.retryStalled_trackView _), ?_⟩
  rw [State.retryStalled_refrain]
  exact s.abandonStream_refrain false

/-- The device enters SYNCING (14 R596, R598). -/
theorem State.enterSyncing_enters (u : State) : u.enterSyncing.refrain.role = .syncing ∧ u.enterSyncing.echo.track = false ∧
    u.enterSyncing.refrain.fence = true ∧ u.enterSyncing.refrain.activeN = true ∧ u.enterSyncing.refrain.disarmed = false ∧
    u.enterSyncing.refrain.en = u.refrain.en := by
  obtain ⟨v, hv, hen⟩ : ∃ v : State, u.enterSyncing = ((v.trackOff.leaveTo .syncing).modRf fun x =>
      { x with disarmed := false, oneStale := false, takeover := false }).finishOp 0x44 .ok [] ∧ v.refrain.en = u.refrain.en := by
    refine ⟨_, rfl, ?_⟩
    split
    · rw [(State.finishOp_role _ _ _ _).1]
      rfl
    · rfl
  obtain ⟨htrack, _, hen'⟩ := v.trackOff_ends
  rw [hv, (State.finishOp_role _ _ _ _).1, (State.finishOp_role _ _ _ _).2]
  exact ⟨rfl, htrack, rfl, rfl, rfl, hen'.trans hen⟩

/-- A REFRAIN_EN that still waits ends, and the role decides what else the end of redundancy does (14 R597). -/
theorem State.refrainOff_eq (u : State) : ∃ v, v.refrain = u.refrain ∧ v.echo = u.echo ∧ ((∀ c ∈ u.rings.active, c.op ≠ 0x44) → v = u) ∧
    u.refrainOff =
      let w := if v.refrain.role = .active || v.refrain.role = .handover then v.trackOff else v
      (if w.refrain.role.receives then (w.leaveTo .none).modRf fun x => { x with takeover := false } else w).modRf fun x => { x with en := false } :=
  ⟨_, (u.finishOp_role 0x44 .notPermitted []).1, (u.finishOp_role 0x44 .notPermitted []).2, fun h => State.finishOp_idle h _ _, rfl⟩

theorem State.refrainOff_ends (u : State) : u.refrainOff.refrain.en = false ∧
    (u.refrain.role.receives = true → u.refrainOff.refrain.role = .none) ∧
    (u.refrain.role = .active ∨ u.refrain.role = .handover → u.refrainOff.echo.track = false ∧ u.refrainOff.refrain.role = u.refrain.role) ∧
    (u.refrain.role = .none ∨ u.refrain.role = .deposed → (∀ c ∈ u.rings.active, c.op ≠ 0x44) →
      u.refrainOff = { u with refrain := { u.refrain with en := false } }) := by
  obtain ⟨v, hrf, hecho, hidle, heq⟩ := u.refrainOff_eq
  rw [heq, ← hrf]
  dsimp only
  refine ⟨rfl, fun hrecv => ?_, fun hact => ?_, fun hout hquiet => ?_⟩
  · have hrole : v.refrain.role = .syncing ∨ v.refrain.role = .standby := by simpa [Role.receives] using hrecv
    have hnot : (v.refrain.role = .active || v.refrain.role = .handover) = false := by
      rcases hrole with h | h <;> rw [h] <;> rfl
    rw [hnot, if_neg Bool.false_ne_true, if_pos hrecv]
    rfl
  · obtain ⟨htrack, hrole, _⟩ := v.trackOff_ends
    have hrecv : ¬v.trackOff.refrain.role.receives = true := by
      rw [hrole]
      rcases hact with h | h <;> rw [h] <;> exact Bool.false_ne_true
    have hyes : (v.refrain.role = .active || v.refrain.role = .handover) = true := by simpa using hact
    rw [hyes, if_pos rfl, if_neg hrecv]
    exact ⟨htrack, hrole⟩
  · have hnot : (v.refrain.role = .active || v.refrain.role = .handover) = false ∧ v.refrain.role.receives = false := by
      rcases hout with h | h <;> rw [h] <;> exact ⟨rfl, rfl⟩
    rw [hnot.1, if_neg Bool.false_ne_true, hnot.2, if_neg Bool.false_ne_true, hidle hquiet]
    rfl

/-! A command for the partner. -/

/-- Flits go to the end of channel C's store, and nothing else of the link that a transaction has. -/
theorem State.produceC_appends (s : State) (ft : BitVec 3) (ws : List Word) :
    ∃ d : Duet, s.produceC ft ws = { s with duet := d } ∧ d.txns = s.duet.txns ∧ ∃ l, d.c.store = s.duet.c.store ++ l := by
  refine ⟨_, rfl, ?_⟩
  unfold Duet.produceC
  split
  · exact ⟨rfl, _, rfl⟩
  · exact ⟨rfl, [], (List.append_nil _).symm⟩

theorem State.produceAll_appends (ps : List (List Word)) (s : State) :
    ∃ d : Duet, ps.foldl (fun s p => s.produceC 3 p) s = { s with duet := d } ∧ d.txns = s.duet.txns ∧ ∃ l, d.c.store = s.duet.c.store ++ l := by
  induction ps generalizing s with
  | nil => exact ⟨s.duet, rfl, rfl, [], (List.append_nil _).symm⟩
  | cons p ps ih =>
    obtain ⟨d, hd, htx, l, hl⟩ := s.produceC_appends 3 p
    obtain ⟨d', hd', htx', l', hl'⟩ := ih (s.produceC 3 p)
    rw [hd] at htx' hl'
    refine ⟨d', by rw [List.foldl_cons, hd', hd], htx'.trans htx, l ++ l', ?_⟩
    rw [hl', hl, List.append_assoc]

/-- The tags in the order in which a new transaction tries them. -/
def Duet.tags (d : Duet) : List (BitVec 12) := (List.range 4096).map fun i => d.nextTag + BitVec.ofNat 12 i

theorem Duet.tags_nodup (d : Duet) : d.tags.Nodup := by
  refine List.Nodup.map_on (fun i hi j hj he => ?_) List.nodup_range
  have hval := congrArg BitVec.toNat ((BitVec.add_right_inj d.nextTag).1 he)
  rw [List.mem_range] at hi hj
  rwa [BitVec.toNat_ofNat, BitVec.toNat_ofNat, Nat.mod_eq_of_lt hi, Nat.mod_eq_of_lt hj] at hval

/-- Fewer transactions than tags are outstanding: a tag is free. -/
theorem Duet.takeTag_fresh {d : Duet} (h : d.txns.length < 64) :
    ∃ tag n, d.takeTag = (tag, { d with nextTag := n }) ∧ ∀ x ∈ d.txns, x.tag ≠ tag := by
  obtain ⟨tag, hfind⟩ : ∃ tag, d.tags.find? (fun t => !d.txns.any fun x => x.tag = t) = some tag := by
    rw [← Option.isSome_iff_exists, List.find?_isSome]
    by_contra hno
    have hsub : d.tags ⊆ d.txns.map Txn.tag := fun t ht => by
      by_contra hfree
      refine hno ⟨t, ht, ?_⟩
      rw [List.mem_map] at hfree
      simpa using fun x hx he => hfree ⟨x, hx, he⟩
    have hle := (List.subperm_of_subset d.tags_nodup hsub).length_le
    rw [Duet.tags, List.length_map, List.length_map, List.length_range] at hle
    omega
  refine ⟨tag, tag + 1, ?_, ?_⟩
  · unfold Duet.tags at hfind
    unfold Duet.takeTag
    dsimp only
    rw [hfind]
    rfl
  · simpa using List.find?_some hfind

theorem State.addTxn_fresh {u : State} (kind : TxKind) (h : u.duet.txns.length < 64) : ∃ tag n,
    u.addTxn kind = (tag, { u with duet := { u.duet with nextTag := n, txns := u.duet.txns ++ [{ tag, kind, got := 0, rsp := none }] } }) ∧
    ∀ x ∈ u.duet.txns, x.tag ≠ tag := by
  obtain ⟨tag, n, htag, hfresh⟩ := Duet.takeTag_fresh h
  refine ⟨tag, n, ?_, hfresh⟩
  unfold State.addTxn
  rw [htag]

/-- Zeros above a value. -/
theorem zero_append {n : Nat} (k : Nat) (x : BitVec n) : 0#k ++ x = x.setWidth (k + n) := by
  apply BitVec.eq_of_toNat_eq
  rw [BitVec.toNat_append, BitVec.toNat_setWidth, Nat.mod_eq_of_lt (lt_of_lt_of_le x.isLt (Nat.pow_le_pow_right (by omega) (by omega)))]
  simp

/-- The header of a transaction without a window. -/
theorem txHeader_command (tag : BitVec 12) : txHeader tag 0 0 0 0 = [(0#12 ++ tag : BitVec 24), 0, 0] := by
  have hhead : (0 : BitVec 24) <<< 16 ||| 0 <<< 12 ||| tag.setWidth 24 = tag.setWidth 24 := by simp
  exact congrArg (· :: _) (hhead.trans (zero_append 12 tag).symm)

/-- A request for the partner's Conductor becomes an outstanding transaction and leaves on channel C (13 R561, R564, R571). -/
theorem State.sendInner_sends {u : State} (ring : BitVec 5) (seq : Word) (query : Bool) (inner : List Word) (h : u.duet.txns.length < 64) :
    let t := u.sendInner ring seq query inner
    t = { u with duet := t.duet } ∧ ∃ tag, (∀ x ∈ u.duet.txns, x.tag ≠ tag) ∧
      t.duet.txns = u.duet.txns ++ [{ tag, kind := .command ring seq query, got := 0, rsp := none }] ∧
      (u.duet.session = true → u.duet.cWait = [] → u.duet.c.store.length < 512 →
        t.duet.c.store[u.duet.c.store.length]? = some
          { ch := 1, ft := 0, seq := u.duet.c.next, payload := ([(0#12 ++ tag : BitVec 24), 0, 0] ++ inner).take 22, gate := none }) := by
  intro t
  obtain ⟨tag, n, hadd, hfresh⟩ := State.addTxn_fresh (.command ring seq query) h
  obtain ⟨ws, hws⟩ : ∃ ws, ws = [(0#12 ++ tag : BitVec 24), 0, 0] ++ inner := ⟨_, rfl⟩
  obtain ⟨v, hv⟩ : ∃ v, v = (u.addTxn (.command ring seq query)).2 := ⟨_, rfl⟩
  have ht : t = (chunks22 (ws.drop 22).length (ws.drop 22)).foldl (fun s p => s.produceC 3 p) (v.produceC 0 (ws.take 22)) := by
    show u.sendInner ring seq query inner = _
    unfold State.sendInner State.issueInner
    rw [if_neg (by omega)]
    dsimp only
    rw [hv, hadd, txHeader_command, hws]
  rw [hadd] at hv
  obtain ⟨d, hd, htx, l, hl⟩ := v.produceC_appends 0 (ws.take 22)
  obtain ⟨d', hd', htx', l', hl'⟩ := State.produceAll_appends (chunks22 (ws.drop 22).length (ws.drop 22)) (v.produceC 0 (ws.take 22))
  rw [hd'] at ht
  rw [ht]
  refine ⟨?_, tag, hfresh, ?_, fun hsess hwait hroom => ?_⟩
  · rw [hd, hv]
  · rw [hd] at htx'
    show d'.txns = _
    rw [htx', htx, hv]
  · have hstore : (v.produceC 0 (ws.take 22)).duet.c.store =
        u.duet.c.store ++ [{ ch := 1, ft := 0, seq := u.duet.c.next, payload := ws.take 22, gate := none }] := by
      rw [hv]
      unfold State.produceC Duet.produceC
      dsimp only
      rw [hsess, hwait, decide_eq_true (show u.duet.c.store.length < capC from hroom)]
      rfl
    show d'.c.store[u.duet.c.store.length]? = _
    rw [← hws, hl', hstore, List.append_assoc, List.getElem?_append_right (Nat.le_refl _), Nat.sub_self]
    rfl

/-- While 64 transactions are outstanding, a request waits (13 R564). -/
theorem State.sendInner_waits {u : State} (ring : BitVec 5) (seq : Word) (query : Bool) (inner : List Word) (h : 64 ≤ u.duet.txns.length) :
    u.sendInner ring seq query inner = { u with duet := { u.duet with cmdWait := u.duet.cmdWait ++ [{ ring, seq, query, inner }] } } := by
  unfold State.sendInner
  exact if_pos h

end Sys2Proof.Machine
end

section
/-! SUPPORT. The commands of the Duet group (13 section 13.8, 14 section 14.7), and O44. -/
namespace Sys2Proof.Machine

section
variable {s u : State} (hu : s.SameButRings u)
include hu

/-- The unit is there while a packet is checked. -/
theorem State.SameButRings.duet_there (h : s.die.variant.duet = true) : (!u.die.variant.duet) = false := by
  rw [hu.die, h]
  rfl

theorem State.SameButRings.partnerRole : u.partnerRole = s.partnerRole := by obtain ⟨C, st, bad, rg, hC, rfl⟩ := hu; rfl
theorem State.SameButRings.versionsClash : u.versionsClash = s.versionsClash := by obtain ⟨C, st, bad, rg, hC, rfl⟩ := hu; rfl
theorem State.SameButRings.trackRefused : u.trackRefused = s.trackRefused := by obtain ⟨C, st, bad, rg, hC, rfl⟩ := hu; rfl

end

/-! DUET_STATUS, LINK_TRAIN and DUET_TIMING. -/

/-- A value above 8 further bits. -/
theorem append_eq_or {m n : Nat} (x : BitVec m) (y : BitVec n) : x ++ y = x.setWidth (m + n) <<< n ||| y.setWidth (m + n) := by
  rw [BitVec.append_def, BitVec.shiftLeftZeroExtend_eq, BitVec.setWidth'_eq]

theorem toNat_append_low {a b c d : Nat} (x : BitVec a) (y : BitVec b) (z : BitVec c) (w : BitVec d) :
    (x ++ y ++ z ++ w).toNat = (x ++ (y ++ z ++ w)).toNat := by
  simp only [BitVec.toNat_append, Nat.shiftLeft_or_distrib, ← Nat.shiftLeft_add, Nat.or_assoc, Nat.add_assoc]

/-- A word of a term above three fields. -/
theorem termWord_eq (term : BitVec 16) (zero : BitVec 4) (mirror : BitVec 1) (code : BitVec 3) :
    (zero ++ mirror ++ code : BitVec 8).setWidth 24 ||| (term.setWidth 24 <<< 8) = (term ++ zero ++ mirror ++ code : BitVec 24) := by
  rw [BitVec.or_comm]
  have h := append_eq_or term (zero ++ mirror ++ code : BitVec 8)
  exact h.symm.trans (BitVec.eq_of_toNat_eq (toNat_append_low term zero mirror code).symm)

/-- The role word as its fields (14 R589). -/
theorem State.roleWord_eq (u : State) :
    u.roleWord = (u.refrain.term ++ (0 : BitVec 4) ++ BitVec.ofBool u.mirrors ++ u.refrain.role.code : BitVec 24) := by
  have hlow : u.refrain.role.code.setWidth 24 ||| flag 24 3 u.mirrors =
      ((0 : BitVec 4) ++ BitVec.ofBool u.mirrors ++ u.refrain.role.code : BitVec 8).setWidth 24 := by
    cases u.mirrors <;> cases u.refrain.role <;> rfl
  unfold State.roleWord
  rw [hlow]
  exact termWord_eq _ _ _ _

theorem linkWord_eq (width speed : BitVec 2) : width.setWidth 24 ||| (speed.setWidth 24 <<< 2) = (0#20 ++ speed ++ width : BitVec 24) := by
  rw [append_eq_or (0#20 ++ speed) width, zero_append 20 speed, BitVec.or_comm]
  rfl

theorem duetStatus_answers (h : Header) : Answers (.duetStatus h) 0x40 h [] srcMDG 9 (fun s => s.die.variant.duet = true) .ok (fun u =>
    [(u.refrain.term ++ (0 : BitVec 4) ++ BitVec.ofBool u.mirrors ++ u.refrain.role.code : BitVec 24),
      (0#20 ++ u.duet.speed ++ u.duet.width : BitVec 24), u.duet.partnerEpoch,
      if u.refrain.role = .active then u.refrain.lastApplied.getD 0xFFFFFF else u.refrain.lastCommit, u.protoWord,
      (0#16 ++ u.refrain.flags : BitVec 24)]) id := by
  refine Answers.of duetStatusCmd (fun _ => rfl) rfl rfl rfl rfl (fun _ _ => rfl) (fun s hd u hu => ⟨rfl, hu.duet_there hd, rfl, rfl⟩)
    fun s u _ _ => ?_
  rw [← State.roleWord_eq, ← linkWord_eq, zero_append 16 u.refrain.flags]
  rfl

theorem duetStatus_refuses (h : Header) : Refuses (.duetStatus h) 0x40 h [] 9
    (fun s => srcMDG.allows s h.ring = true ∧ s.die.variant.duet = false) .unitAbsent := by
  refine Refuses.of_absent duetStatusCmd (fun _ => rfl) rfl (by omega) (fun _ _ => rfl) (fun s ⟨hsrc, _⟩ => hsrc) fun s u ⟨_, hd⟩ hu => ⟨rfl, ?_⟩
  show (!u.die.variant.duet) = true
  rw [hu.die, hd]
  rfl

/-- The fields of LINK_TRAIN's word. -/
theorem linkTarget_fields {width speed : Word} (hw : width.toNat ≤ 2) (hs : speed.toNat ≤ 2) : let p := width ||| (speed <<< 4)
    above p 6 = false ∧ p.getLsbD 3 = false ∧ (bits p 0 3).toNat = width.toNat ∧ bits p 0 2 = bits width 0 2 ∧
    (bits p 4 2).toNat = speed.toNat ∧ bits p 4 2 = bits speed 0 2 := by
  have hthree (v : Word) (hv : v.toNat ≤ 2) : v = 0 ∨ v = 1 ∨ v = 2 := by
    have hval : v = BitVec.ofNat 24 v.toNat := by simp
    rw [hval]
    interval_cases v.toNat <;> simp
  rcases hthree width hw with rfl | rfl | rfl <;> rcases hthree speed hs with rfl | rfl | rfl <;> decide

theorem linkTrain_begins (h : Header) (width speed : Word) : Begins (.linkTrain h width speed) 0x41 h [width ||| (speed <<< 4)] srcM 0
    (fun s => s.die.variant.duet = true ∧ (∀ c ∈ s.rings.active, c.op ≠ 0x41) ∧ width.toNat ≤ 2 ∧ speed.toNat ≤ 2 ∧
      2 ^ width.toNat ≤ s.die.variant.lanes)
    (fun _ => 0) (fun u => { u with duet := { u.duet with tgtWidth := bits width 0 2, tgtSpeed := bits speed 0 2 } }.linkTrain) := by
  refine Begins.of linkTrainCmd (fun _ => rfl) rfl rfl rfl rfl (fun _ _ => rfl) ?_ ?_
  · intro s ⟨hd, hidle, hw, hs, hlanes⟩ u hu
    obtain ⟨habove, hbit, hwidth, _, hspeed, _⟩ := linkTarget_fields hw hs
    refine ⟨rfl, hu.duet_there hd, ?_, congrArg Option.isSome (hu.not_running hidle)⟩
    show (above (width ||| (speed <<< 4)) 6 || (width ||| (speed <<< 4)).getLsbD 3 || decide (2 < (bits (width ||| (speed <<< 4)) 0 3).toNat) ||
      decide (u.die.variant.lanes < 2 ^ (bits (width ||| (speed <<< 4)) 0 3).toNat) || decide (2 < (bits (width ||| (speed <<< 4)) 4 2).toNat)) = false
    rw [habove, hbit, hwidth, hspeed, hu.die, decide_eq_false (Nat.not_lt.2 hw), decide_eq_false (Nat.not_lt.2 hlanes),
      decide_eq_false (Nat.not_lt.2 hs)]
    rfl
  · intro s u ⟨_, _, hw, hs, _⟩ _
    obtain ⟨_, _, _, hwidth, _, hspeed⟩ := linkTarget_fields hw hs
    rw [← hwidth, ← hspeed]
    rfl

theorem duetTiming_answers (h : Header) (hold baton : Word) : Answers (.duetTiming h hold baton) 0x45 h [hold, baton] srcM 3
    (fun s => s.die.variant.duet = true ∧ 1 ≤ hold.toNat ∧ hold.toNat ≤ 250 ∧ 2 ≤ baton.toNat ∧ baton.toNat ≤ 64) .ok (fun _ => [])
    (fun u => { u with duet := { u.duet with holdMs := bits hold 0 8 }, refrain := { u.refrain with batonTo := bits baton 0 7 } }) := by
  refine Answers.of duetTimingCmd (fun _ => rfl) rfl rfl rfl rfl (fun _ _ => rfl) ?_ fun _ _ _ _ => rfl
  intro s ⟨hd, hh1, hh2, hb1, hb2⟩ u hu
  refine ⟨rfl, hu.duet_there hd, ?_, rfl⟩
  show (decide (hold.toNat < 1) || decide (250 < hold.toNat) || decide (baton.toNat < 2) || decide (64 < baton.toNat)) = false
  rw [decide_eq_false (by omega), decide_eq_false (by omega), decide_eq_false (by omega), decide_eq_false (by omega)]
  rfl

/-! DUET_ROLE. -/

section
variable (h : Header)

theorem duetRoleCmd_passes {s : State} (hd : s.die.variant.duet = true) (hidle : ∀ c ∈ s.rings.active, c.op ≠ 0x42) {v : Word}
    (hv : v.toNat < 2) : duetRoleCmd.Passes h [v] s := fun _ hu =>
  ⟨rfl, hu.duet_there hd, (above_iff v 1).2 hv, congrArg Option.isSome (hu.not_running hidle)⟩

/-- A hand-over starts from an ACTIVE device to a partner in STANDBY (14 R617). -/
theorem duetRoleCmd_handover (s u : State) : duetRoleCmd.run (startedCmd duetRoleCmd h [0] s) u =
    if u.refrain.role = .active ∧ u.partnerRole = 4 then ({ u with refrain := { u.refrain with handStep := 1 } }, .running 0)
    else (u, .final .notPermitted []) := by
  show (if u.refrain.role = .active && u.partnerRole = 4 then (u.modRf fun x => { x with handStep := 1 }, CmdEnd.running 0)
    else (u, .final .notPermitted [])) = _
  simp only [Bool.and_eq_true, decide_eq_true_eq]
  rfl

/-- Where a device may claim the role ACTIVE (14 R611, R620). -/
def State.mayClaim (s : State) : Prop :=
  s.bar.run = true ∧ (s.refrain.role = .none ∨ s.refrain.role = .deposed) ∧ s.refrain.batonLimit ≤ s.refrain.batonAge.toNat ∧
    (s.refrain.partnerSeen = true → s.refrain.barsSinceRole < s.refrain.batonLimit → s.partnerRole ≠ 1 ∧ s.partnerRole ≠ 2)

theorem duetRoleCmd_claim (s u : State) :
    (u.mayClaim → duetRoleCmd.run (startedCmd duetRoleCmd h [1] s) u = ({ u with refrain := { u.refrain with takeActive := true } }, .running 0)) ∧
    (¬u.mayClaim → duetRoleCmd.run (startedCmd duetRoleCmd h [1] s) u = (u, .final .notPermitted [])) := by
  have hiff : (!u.bar.run || !(u.refrain.role = .none || u.refrain.role = .deposed) ||
      (u.refrain.partnerSeen && u.refrain.barsSinceRole < u.refrain.batonLimit && (u.partnerRole = 1 || u.partnerRole = 2)) ||
      u.refrain.batonAge.toNat < u.refrain.batonLimit) = true ↔ ¬u.mayClaim := by
    unfold State.mayClaim
    simp only [Bool.or_eq_true, Bool.and_eq_true, Bool.not_eq_true', decide_eq_true_eq, ← not_le,
      ← Bool.not_eq_true]
    tauto
  exact ⟨fun hyes => if_neg (mt hiff.1 (not_not.2 hyes)), fun hno => if_pos (hiff.2 hno)⟩

theorem State.SameButRings.mayClaim {s u : State} (hu : s.SameButRings u) : u.mayClaim ↔ s.mayClaim := by
  unfold State.mayClaim
  rw [hu.bar, hu.refrain, hu.partnerRole]

theorem duetRoleHandover_begins : Begins (.duetRoleHandover h) 0x42 h [0] srcM 0
    (fun s => s.die.variant.duet = true ∧ (∀ c ∈ s.rings.active, c.op ≠ 0x42) ∧ s.refrain.role = .active ∧ s.partnerRole = 4) (fun _ => 0)
    (fun u => { u with refrain := { u.refrain with handStep := 1 } }) :=
  Begins.of duetRoleCmd (fun _ => rfl) rfl rfl rfl rfl (fun _ _ => rfl)
    (fun s ⟨hd, hidle, _⟩ => duetRoleCmd_passes h hd hidle (by decide))
    fun s u ⟨_, _, hrole⟩ hu => (duetRoleCmd_handover h s u).trans (if_pos (by rw [hu.refrain, hu.partnerRole]; exact hrole))

theorem duetRoleHandover_refused : AnswersLong (.duetRoleHandover h) 0x42 h [0] srcM 6
    (fun s => s.die.variant.duet = true ∧ (∀ c ∈ s.rings.active, c.op ≠ 0x42) ∧ (s.refrain.role ≠ .active ∨ s.partnerRole ≠ 4)) .notPermitted
    (fun _ => []) id :=
  AnswersLong.of duetRoleCmd (fun _ => rfl) rfl rfl rfl rfl (fun _ _ => rfl)
    (fun s ⟨hd, hidle, _⟩ => duetRoleCmd_passes h hd hidle (by decide))
    fun s u ⟨_, _, hrole⟩ hu => (duetRoleCmd_handover h s u).trans (if_neg (by rw [hu.refrain, hu.partnerRole]; tauto))

theorem duetRoleTakeActive_begins : Begins (.duetRoleTakeActive h) 0x42 h [1] srcM 0
    (fun s => s.die.variant.duet = true ∧ (∀ c ∈ s.rings.active, c.op ≠ 0x42) ∧ s.mayClaim) (fun _ => 0)
    (fun u => { u with refrain := { u.refrain with takeActive := true } }) :=
  Begins.of duetRoleCmd (fun _ => rfl) rfl rfl rfl rfl (fun _ _ => rfl)
    (fun s ⟨hd, hidle, _⟩ => duetRoleCmd_passes h hd hidle (by decide))
    fun s u ⟨_, _, hclaim⟩ hu => (duetRoleCmd_claim h s u).1 (hu.mayClaim.2 hclaim)

theorem duetRoleTakeActive_refused : AnswersLong (.duetRoleTakeActive h) 0x42 h [1] srcM 6
    (fun s => s.die.variant.duet = true ∧ (∀ c ∈ s.rings.active, c.op ≠ 0x42) ∧ ¬s.mayClaim) .notPermitted (fun _ => []) id :=
  AnswersLong.of duetRoleCmd (fun _ => rfl) rfl rfl rfl rfl (fun _ _ => rfl)
    (fun s ⟨hd, hidle, _⟩ => duetRoleCmd_passes h hd hidle (by decide))
    fun s u ⟨_, _, hclaim⟩ hu => (duetRoleCmd_claim h s u).2 (mt hu.mayClaim.1 hclaim)

end

/-! REFRAIN_CFG. -/

section
variable (rgns : List (Word × Word))

theorem pairs_length : (rgns.flatMap fun p => [p.1, p.2]).length = 2 * rgns.length := by
  induction rgns with
  | nil => rfl
  | cons p rgns ih => rw [List.flatMap_cons, List.length_append, ih, List.length_cons, List.length_cons, List.length_cons, List.length_nil]; omega

/-- The words of the pairs of a REFRAIN_CFG. -/
theorem pairs_getD (n : Nat) : (rgns.flatMap fun p => [p.1, p.2]).getD (2 * n) 0 = (rgns.getD n (0, 0)).1 ∧
    (rgns.flatMap fun p => [p.1, p.2]).getD (2 * n + 1) 0 = (rgns.getD n (0, 0)).2 := by
  induction rgns generalizing n with
  | nil => exact ⟨rfl, rfl⟩
  | cons p rgns ih =>
    cases n with
    | zero => exact ⟨rfl, rfl⟩
    | succ n => exact ih n

end

/-- The words of a REFRAIN_CFG. -/
def refrainWords (kk base mw r x0 x1 : Word) (rgns : List (Word × Word)) : List Word :=
  [kk, base, mw, r, x0, x1] ++ rgns.flatMap fun p => [p.1, p.2]

/-- What the region registers take of a REFRAIN_CFG. -/
theorem Echo.configure_pairs (e : Echo) (base : Word) (mw : BitVec 7) (rgns : List (Word × Word)) :
    e.configure base mw (rgns.flatMap fun p => [p.1, p.2]) = if e.track then e else { e with
      spillBase := base, spillMw := mw, rgnBase := Vector.ofFn fun n => (rgns.getD n.val (0, 0)).1
      rgnPages := Vector.ofFn fun n => (rgns.getD n.val (0, 0)).2 } := by
  unfold Echo.configure
  simp only [(pairs_getD rgns _).1, (pairs_getD rgns _).2]

section
variable {h : Header} {kk base mw r x0 x1 : Word} {rgns : List (Word × Word)}

theorem refrainCfgCmd_lenOk (hr : r.toNat = rgns.length) : refrainCfgCmd.lenOk (refrainWords kk base mw r x0 x1 rgns) = true := by
  have hlen : (refrainWords kk base mw r x0 x1 rgns).length = 6 + 2 * rgns.length := by
    unfold refrainWords
    rw [List.length_append, pairs_length]
    rfl
  show (decide (6 ≤ (refrainWords kk base mw r x0 x1 rgns).length) && decide ((refrainWords kk base mw r x0 x1 rgns).length = 6 + 2 * r.toNat)) = true
  rw [hlen, hr, decide_eq_true (by omega), decide_eq_true rfl]
  rfl

theorem refrainCfgCmd_passes {s : State} (hd : s.die.variant.duet = true) (hr : r.toNat = rgns.length) (h8 : rgns.length ≤ 8)
    (hk1 : 1 ≤ kk.toNat) (hk64 : kk.toNat ≤ 64) (hmw : mw.toNat < 128) (hpages : ∀ p ∈ rgns, p.2.toNat < 2 ^ 19) (hen : s.refrain.en = false) :
    refrainCfgCmd.Passes h (refrainWords kk base mw r x0 x1 rgns) s := by
  intro u hu
  refine ⟨(congrArg Refrain.en hu.refrain).trans hen, hu.duet_there hd, ?_, rfl⟩
  have hany : ((List.range r.toNat).any fun n => above (param (refrainWords kk base mw r x0 x1 rgns) (7 + 2 * n)) 19) = false := by
    rw [List.any_eq_false]
    intro n hn
    rw [List.mem_range, hr] at hn
    have hword : param (refrainWords kk base mw r x0 x1 rgns) (7 + 2 * n) = (rgns.getD n (0, 0)).2 := by
      rw [show 7 + 2 * n = (2 * n + 1) + 6 by omega]
      exact (pairs_getD rgns n).2
    rw [hword, (above_iff _ 19).2]
    · exact Bool.false_ne_true
    · rw [List.getD_eq_getElem _ _ hn]
      exact hpages _ (List.getElem_mem hn)
  show (decide (kk.toNat < 1) || decide (64 < kk.toNat) || decide (8 < r.toNat) || above mw 7 || _) = false
  rw [decide_eq_false (by omega), decide_eq_false (by omega), decide_eq_false (by omega), (above_iff mw 7).2 hmw]
  exact hany

end

theorem refrainCfg_answers (h : Header) (kk base mw r x0 x1 : Word) (rgns : List (Word × Word)) :
    Answers (.refrainCfg h kk base mw r x0 x1 rgns) 0x43 h (refrainWords kk base mw r x0 x1 rgns) srcM 3
      (fun s => (s.die.variant.duet = true ∧ r.toNat = rgns.length ∧ rgns.length ≤ 8 ∧ 1 ≤ kk.toNat ∧ kk.toNat ≤ 64 ∧ mw.toNat < 128 ∧
        ∀ p ∈ rgns, p.2.toNat < 2 ^ 19) ∧ s.refrain.en = false) .ok (fun _ => []) (fun u =>
      let e := u.echo
      let echo := if e.track then e else { e with
        spillBase := base, spillMw := bits mw 0 7, rgnBase := Vector.ofFn fun n => (rgns.getD n.val (0, 0)).1
        rgnPages := Vector.ofFn fun n => (rgns.getD n.val (0, 0)).2 }
      { u with refrain := { u.refrain with k := bits kk 0 7 }, echo }) := by
  refine Answers.of refrainCfgCmd (fun _ => rfl) rfl rfl rfl rfl (fun s ⟨⟨_, hr, _⟩, _⟩ => refrainCfgCmd_lenOk hr)
    (fun s ⟨⟨hd, hr, h8, hk1, hk64, hmw, hpages⟩, hen⟩ => refrainCfgCmd_passes hd hr h8 hk1 hk64 hmw hpages hen) fun s u _ _ => ?_
  dsimp only
  rw [← Echo.configure_pairs]
  rfl

theorem refrainCfg_refuses (h : Header) (kk base mw r x0 x1 : Word) (rgns : List (Word × Word)) :
    Refuses (.refrainCfg h kk base mw r x0 x1 rgns) 0x43 h (refrainWords kk base mw r x0 x1 rgns) 3
      (fun s => srcM.allows s h.ring = true ∧ (s.die.variant.duet = true ∧ r.toNat = rgns.length ∧ rgns.length ≤ 8 ∧ 1 ≤ kk.toNat ∧
        kk.toNat ≤ 64 ∧ mw.toNat < 128 ∧ ∀ p ∈ rgns, p.2.toNat < 2 ^ 19) ∧ s.refrain.en = true) .notPermitted :=
  Refuses.of_denied refrainCfgCmd (fun _ => rfl) rfl (by omega) (fun s ⟨_, ⟨_, hr, _⟩, _⟩ => refrainCfgCmd_lenOk hr)
    fun s u ⟨_, _, hen⟩ hu => (congrArg Refrain.en hu.refrain).trans hen



/-! REFRAIN_EN. -/

section
variable {u : State}

theorem State.refrainOn_clash (hclash : u.versionsClash = true) : u.refrainOn = (u, .final .notPermitted []) := by
  unfold State.refrainOn
  exact if_pos hclash

variable (hclash : u.versionsClash = false)
include hclash

theorem State.refrainOn_active (hrole : u.refrain.role = .active) (htrack : u.echo.track = true ∨ u.trackRefused = false) :
    u.refrainOn = ({ u with
      refrain := { u.refrain with en := true }
      echo := if u.echo.track then u.echo else { u.echo with track := true, live := u.echo.allPages } }, .final .ok []) := by
  have hon : u.trackOn = { u with echo := if u.echo.track then u.echo else { u.echo with track := true, live := u.echo.allPages } } := by
    unfold State.trackOn
    cases ht : u.echo.track with
    | true => rfl
    | false =>
      rw [(htrack.resolve_left (by rw [ht]; exact Bool.false_ne_true))]
      rfl
  have htrue : u.trackOn.echo.track = true := by
    rw [hon]
    show (if u.echo.track = true then u.echo else _).track = true
    split
    · next h => exact h
    · rfl
  unfold State.refrainOn
  dsimp only
  rw [hclash, if_neg Bool.false_ne_true, if_pos hrole, if_pos htrue, hon]
  rfl

/-- Regions that cannot be tracked (14 R594). -/
theorem State.refrainOn_untrackable (hrole : u.refrain.role = .active) (htrack : u.echo.track = false) (hrefused : u.trackRefused = true) :
    u.refrainOn = ({ u with echo := { u.echo with cfgRej := true } }, .final .badParam []) := by
  have hon : u.trackOn = { u with echo := { u.echo with cfgRej := true } } := by
    unfold State.trackOn
    rw [if_neg (by rw [htrack]; exact Bool.false_ne_true), if_pos hrefused]
  unfold State.refrainOn
  dsimp only
  rw [hclash, if_neg Bool.false_ne_true, if_pos hrole, hon]
  exact if_neg (by rw [htrack]; exact Bool.false_ne_true)

theorem State.refrainOn_out (hout : u.refrain.role = .none ∨ u.refrain.role = .deposed) : u.refrainOn =
    if u.partnerRole = 1 ∧ u.duet.partnerRole.getLsbD 3 = true
      then ({ u with refrain := { u.refrain with en := true } }.enterSyncing, .final .ok [])
      else ({ u with refrain := { u.refrain with en := true } }, .running 0) := by
  have hnot : u.refrain.role ≠ .active := by
    rcases hout with h | h <;> rw [h] <;> exact Role.noConfusion
  unfold State.refrainOn
  dsimp only
  rw [hclash, if_neg Bool.false_ne_true, if_neg hnot, if_pos (by simpa using hout)]
  simp only [Bool.and_eq_true, decide_eq_true_eq]
  rfl

theorem State.refrainOn_other (hnot : u.refrain.role ≠ .active) (hout : ¬(u.refrain.role = .none ∨ u.refrain.role = .deposed)) :
    u.refrainOn = (u, .final .notPermitted []) := by
  unfold State.refrainOn
  dsimp only
  rw [hclash, if_neg Bool.false_ne_true, if_neg hnot, if_neg (by simpa using hout)]

end

section
variable (h : Header)

theorem refrainEnCmd_passes {s : State} (hd : s.die.variant.duet = true) {v : Word} (hv : v.toNat < 2)
    (hidle : v = 1 → ∀ c ∈ s.rings.active, c.op ≠ 0x44) : refrainEnCmd.Passes h [v] s := by
  intro u hu
  refine ⟨rfl, hu.duet_there hd, (above_iff v 1).2 hv, ?_⟩
  show (decide (v = 1) && (u.running 0x44).isSome) = false
  by_cases h1 : v = 1
  · rw [hu.not_running (hidle h1)]
    exact Bool.and_false _
  · rw [decide_eq_false h1]
    rfl

/-- REFRAIN_EN that ends at once, from what the enabling does. -/
theorem refrainEnable_answers {ok : State → Prop} {st : Status} {effect : State → State}
    (hrun : ∀ s u : State, s.SameButRings u → ok s → u.refrainOn = (effect u, .final st [])) :
    AnswersLong (.refrainEnable h) 0x44 h [1] srcM 6
      (fun s => s.die.variant.duet = true ∧ (∀ c ∈ s.rings.active, c.op ≠ 0x44) ∧ ok s) st (fun _ => []) effect :=
  AnswersLong.of refrainEnCmd (fun _ => rfl) rfl rfl rfl rfl (fun _ _ => rfl)
    (fun _ ⟨hd, hidle, _⟩ => refrainEnCmd_passes h hd (by decide) fun _ => hidle) fun s u ⟨_, _, hok⟩ hu => hrun s u hu hok

theorem refrainEnable_active : AnswersLong (.refrainEnable h) 0x44 h [1] srcM 6
    (fun s => s.die.variant.duet = true ∧ (∀ c ∈ s.rings.active, c.op ≠ 0x44) ∧ s.versionsClash = false ∧ s.refrain.role = .active ∧
      (s.echo.track = true ∨ s.trackRefused = false)) .ok (fun _ => []) (fun u => { u with
      refrain := { u.refrain with en := true }
      echo := if u.echo.track then u.echo else { u.echo with track := true, live := u.echo.allPages } }) :=
  refrainEnable_answers h fun s u hu ⟨hclash, hrole, htrack⟩ =>
    State.refrainOn_active (hu.versionsClash.trans hclash) (by rw [hu.refrain]; exact hrole) (by rw [hu.echo, hu.trackRefused]; exact htrack)

theorem refrainEnable_untrackable : AnswersLong (.refrainEnable h) 0x44 h [1] srcM 6
    (fun s => s.die.variant.duet = true ∧ (∀ c ∈ s.rings.active, c.op ≠ 0x44) ∧ s.versionsClash = false ∧ s.refrain.role = .active ∧
      s.echo.track = false ∧ s.trackRefused = true) .badParam (fun _ => []) (fun u => { u with echo := { u.echo with cfgRej := true } }) :=
  refrainEnable_answers h fun s u hu ⟨hclash, hrole, htrack, hrefused⟩ =>
    State.refrainOn_untrackable (hu.versionsClash.trans hclash) (by rw [hu.refrain]; exact hrole) (by rw [hu.echo]; exact htrack)
      (hu.trackRefused.trans hrefused)

theorem refrainEnable_begins : Begins (.refrainEnable h) 0x44 h [1] srcM 0
    (fun s => s.die.variant.duet = true ∧ (∀ c ∈ s.rings.active, c.op ≠ 0x44) ∧ s.versionsClash = false ∧
      (s.refrain.role = .none ∨ s.refrain.role = .deposed) ∧ ¬(s.partnerRole = 1 ∧ s.duet.partnerRole.getLsbD 3 = true)) (fun _ => 0)
    (fun u => { u with refrain := { u.refrain with en := true } }) :=
  Begins.of refrainEnCmd (fun _ => rfl) rfl rfl rfl rfl (fun _ _ => rfl)
    (fun _ ⟨hd, hidle, _⟩ => refrainEnCmd_passes h hd (by decide) fun _ => hidle) fun s u ⟨_, _, hclash, hout, hpartner⟩ hu =>
    (State.refrainOn_out (hu.versionsClash.trans hclash) (by rw [hu.refrain]; exact hout)).trans
      (if_neg (by rw [hu.partnerRole, hu.duet]; exact hpartner))

theorem refrainEnable_syncs : AnswersLong (.refrainEnable h) 0x44 h [1] srcM 6
    (fun s => s.die.variant.duet = true ∧ (∀ c ∈ s.rings.active, c.op ≠ 0x44) ∧ s.versionsClash = false ∧
      (s.refrain.role = .none ∨ s.refrain.role = .deposed) ∧ s.partnerRole = 1 ∧ s.duet.partnerRole.getLsbD 3 = true) .ok (fun _ => [])
    (fun u => { u with refrain := { u.refrain with en := true } }.enterSyncing) :=
  refrainEnable_answers h fun s u hu ⟨hclash, hout, hpartner⟩ =>
    (State.refrainOn_out (hu.versionsClash.trans hclash) (by rw [hu.refrain]; exact hout)).trans
      (if_pos (by rw [hu.partnerRole, hu.duet]; exact hpartner))

theorem refrainEnable_refused : AnswersLong (.refrainEnable h) 0x44 h [1] srcM 6
    (fun s => s.die.variant.duet = true ∧ (∀ c ∈ s.rings.active, c.op ≠ 0x44) ∧ (s.versionsClash = true ∨
      (s.refrain.role ≠ .active ∧ ¬(s.refrain.role = .none ∨ s.refrain.role = .deposed)))) .notPermitted (fun _ => []) id :=
  refrainEnable_answers h fun s u hu hno => by
    rw [← hu.versionsClash, ← hu.refrain] at hno
    cases hclash : u.versionsClash with
    | true => exact State.refrainOn_clash hclash
    | false =>
      obtain ⟨hact, hout⟩ := hno.resolve_left (by rw [hclash]; exact Bool.false_ne_true)
      exact State.refrainOn_other hclash hact hout

theorem refrainDisable_answers : AnswersLong (.refrainDisable h) 0x44 h [0] srcM 6 (fun s => s.die.variant.duet = true) .ok (fun _ => [])
    State.refrainOff :=
  AnswersLong.of refrainEnCmd (fun _ => rfl) rfl rfl rfl rfl (fun _ _ => rfl)
    (fun _ hd => refrainEnCmd_passes h hd (by decide) fun h1 => absurd h1 (by decide)) fun _ _ _ _ => rfl

end

/-! PARTNER_CMD. -/

/-- The opcode of a command is a query. -/
def isQuery (op : BitVec 8) : Bool :=
  op = 0x00 || op = 0x01 || op = 0x07 || op = 0x23 || op = 0x30 || op = 0x40 || op = 0x52 || op = 0x60 || op = 0x80 || op = 0x92

theorem queryOps_contains (op : BitVec 8) : queryOps.contains op = isQuery op := by
  unfold queryOps isQuery
  simp [Bool.or_assoc]

section
variable (h : Header) (inner : List Word)

/-- A command for the partner is whole: its first word counts its words. -/
def wholePacket (inner : List Word) : Prop := 2 ≤ inner.length ∧ (bits (param inner 0) 0 12).toNat = inner.length

theorem partnerCmdDef_lenOk : partnerCmdDef.lenOk inner = true ↔ wholePacket inner := by
  show (decide (2 ≤ inner.length) && decide ((bits (param inner 0) 0 12).toNat = inner.length)) = true ↔ _
  rw [Bool.and_eq_true, decide_eq_true_iff, decide_eq_true_iff]
  rfl

variable {inner} in
theorem partnerCmdDef_denied {s u : State} (hu : s.SameButRings u) (r : BitVec 5) :
    partnerCmdDef.denied u r inner = (s.refrain.trained && !s.refrain.protoOk) := by
  show (u.refrain.trained && !u.refrain.protoOk) = _
  rw [hu.refrain]

theorem partnerCmdDef_passes {s : State} (hd : s.die.variant.duet = true) (hop : bits (param inner 0) 16 8 ≠ 0x48)
    (hclash : ¬(s.refrain.trained = true ∧ s.refrain.protoOk = false)) : partnerCmdDef.Passes h inner s := fun u hu =>
  ⟨(partnerCmdDef_denied hu _).trans (by simpa using hclash), hu.duet_there hd, decide_eq_false hop, rfl⟩

theorem partnerCmdDef_run (s u : State) : let query := isQuery (bits (param inner 0) 16 8)
    partnerCmdDef.run (startedCmd partnerCmdDef h inner s) u =
      if u.duet.state = .off ∨ u.duet.state = .fatal then (u, .final (if query then .linkLost else .outcomeUnknown) [])
      else (u.sendInner h.ring (s.reqProd h.ring) query inner, .running 0) := by
  intro query
  have hquery : queryOps.contains (bits (param inner 0) 16 8) = query := queryOps_contains _
  unfold partnerCmdDef
  dsimp only [startedCmd, mkCmd]
  rw [hquery]
  cases u.duet.state <;> rfl

theorem partnerCmd_begins : Begins (.partnerCmd h inner) 0x48 h inner srcM 8
    (fun s => (s.die.variant.duet = true ∧ bits (param inner 0) 16 8 ≠ 0x48 ∧ wholePacket inner) ∧
      ¬(s.refrain.trained = true ∧ s.refrain.protoOk = false) ∧ s.duet.state ≠ .off ∧ s.duet.state ≠ .fatal) (fun _ => 0)
    (fun u => u.sendInner h.ring (u.reqProd h.ring - BitVec.ofNat 24 (2 + inner.length)) (isQuery (bits (param inner 0) 16 8)) inner) := by
  refine Begins.of_taken partnerCmdDef (fun _ => rfl) rfl rfl rfl rfl (fun s ⟨⟨_, _, hwhole⟩, _⟩ => (partnerCmdDef_lenOk inner).2 hwhole)
    (fun s ⟨⟨hd, hop, _⟩, hclash, _⟩ => partnerCmdDef_passes h inner hd hop hclash) fun s a ⟨_, _, hoff, hfatal⟩ => ?_
  obtain ⟨_, _, _, _, hprod, _⟩ := taken_places (op := 0x48) a
  have hseq : (s.taken 0x48 h inner).reqProd h.ring - BitVec.ofNat 24 (2 + inner.length) = s.reqProd h.ring := by
    rw [hprod, BitVec.add_sub_cancel]
  change _ = ((s.taken 0x48 h inner).sendInner h.ring ((s.taken 0x48 h inner).reqProd h.ring - BitVec.ofNat 24 (2 + inner.length)) _ inner, _)
  rw [hseq]
  refine (partnerCmdDef_run h inner s _).trans (if_neg ?_)
  rw [(State.taken_frame a).duet]
  tauto

theorem partnerCmd_lost : AnswersLong (.partnerCmd h inner) 0x48 h inner srcM 14
    (fun s => (s.die.variant.duet = true ∧ bits (param inner 0) 16 8 ≠ 0x48 ∧ wholePacket inner) ∧
      ¬(s.refrain.trained = true ∧ s.refrain.protoOk = false) ∧ (s.duet.state = .off ∨ s.duet.state = .fatal))
    (if isQuery (bits (param inner 0) 16 8) then .linkLost else .outcomeUnknown) (fun _ => []) id :=
  AnswersLong.of partnerCmdDef (fun _ => rfl) rfl rfl rfl rfl (fun s ⟨⟨_, _, hwhole⟩, _⟩ => (partnerCmdDef_lenOk inner).2 hwhole)
    (fun s ⟨⟨hd, hop, _⟩, hclash, _⟩ => partnerCmdDef_passes h inner hd hop hclash)
    fun s u ⟨_, _, hdown⟩ hu => (partnerCmdDef_run h inner s u).trans (if_pos (by rw [hu.duet]; exact hdown))

theorem partnerCmd_clash : Refuses (.partnerCmd h inner) 0x48 h inner 14
    (fun s => srcM.allows s h.ring = true ∧ wholePacket inner ∧ s.refrain.trained = true ∧ s.refrain.protoOk = false) .notPermitted :=
  Refuses.of_denied partnerCmdDef (fun _ => rfl) rfl (by omega) (fun s ⟨_, hwhole, _⟩ => (partnerCmdDef_lenOk inner).2 hwhole)
    fun s u ⟨_, _, htrained, hproto⟩ hu => (partnerCmdDef_denied hu _).trans (by rw [htrained, hproto]; rfl)

theorem partnerCmd_badLength : Refuses (.partnerCmd h inner) 0x48 h inner 14 (fun _ => ¬wholePacket inner) .badLength :=
  Refuses.of_check partnerCmdDef (fun _ => rfl) rfl (by omega) fun s u _ hwhole _ =>
    CmdDef.check_badLength (Bool.eq_false_iff.2 (mt (partnerCmdDef_lenOk inner).1 hwhole))

end

end Sys2Proof.Machine

open Sys2Proof Sys2Proof.Machine

/-- Settles O44: what each command's checks and its work turn on is the same once its packet has been taken. -/
theorem duetCommands : Obligations.DuetCommands := by
  intro h width speed hold baton inner kk base mw r x0 x1 rgns
  exact ⟨duetStatus_answers h, duetStatus_refuses h, linkTrain_begins h width speed, duetTiming_answers h hold baton,
    duetRoleHandover_begins h, duetRoleHandover_refused h, duetRoleTakeActive_begins h, duetRoleTakeActive_refused h,
    refrainCfg_answers h kk base mw r x0 x1 rgns, refrainCfg_refuses h kk base mw r x0 x1 rgns, refrainEnable_active h,
    refrainEnable_untrackable h, refrainEnable_begins h, refrainEnable_syncs h, fun u _ => u.enterSyncing_enters, refrainEnable_refused h,
    refrainDisable_answers h, State.refrainOff_ends, partnerCmd_begins h inner, fun u ring seq => State.sendInner_sends ring seq _ inner,
    fun u ring seq => State.sendInner_waits ring seq _ inner, partnerCmd_lost h inner, partnerCmd_clash h inner, partnerCmd_badLength h inner⟩

end

section
/-! SUPPORT. Core masks, and the release of the cores of a mask (10 R415, R416; 05 R168, R183). -/
namespace Sys2Proof.Machine

/-! Masks. -/

/-- A mask names only cores that are there (00 R8). -/
def State.maskPresent (s : State) (mask : Word) : Prop :=
  mask.toNat < 4096 ∧ ∀ c : Fin 12, mask.getLsbD c.val = true → s.hasCore c = true

theorem mem_maskCores {mask : Word} {c : Fin 12} : c ∈ maskCores (mask.setWidth 12) ↔ mask.getLsbD c.val = true := by
  unfold maskCores allCores
  simp

theorem maskCores_nodup (m : BitVec 12) : (maskCores m).Nodup := (List.nodup_finRange 12).filter _

theorem State.coreMask_getLsbD (s : State) (c : Fin 12) : s.coreMask.getLsbD c.val = s.hasCore c := by
  unfold State.coreMask State.hasCore
  cases s.die.variant <;> revert c <;> decide

theorem absentCores_iff (s : State) (mask : Word) : absentCores s mask = true ↔ ∃ c : Fin 12, mask.getLsbD c.val = true ∧ s.hasCore c = false := by
  have hbit (c : Fin 12) : ((mask.setWidth 12) &&& ~~~s.coreMask).getLsbD c.val = (mask.getLsbD c.val && !s.hasCore c) := by
    rw [BitVec.getLsbD_and, BitVec.getLsbD_not, BitVec.getLsbD_setWidth, State.coreMask_getLsbD]
    simp
  unfold absentCores
  rw [bne_iff_ne]
  constructor
  · intro hne
    by_contra hno
    refine hne (BitVec.eq_of_getLsbD_eq fun i hi => ?_)
    have hc := hbit ⟨i, hi⟩
    refine hc.trans ((Bool.eq_false_iff.2 fun ht => hno ⟨⟨i, hi⟩, ?_⟩).trans BitVec.getLsbD_zero.symm)
    simpa using ht
  · rintro ⟨c, hc, habsent⟩ hzero
    have hc' := hbit c
    rw [hzero, hc, habsent] at hc'
    cases BitVec.getLsbD_zero.symm.trans hc'

theorem State.SameButRings.hasCore {s u : State} (hu : s.SameButRings u) (c : Nat) : u.hasCore c = s.hasCore c := by
  unfold State.hasCore
  rw [hu.die]

theorem State.SameButRings.released {s u : State} (hu : s.SameButRings u) (c : Fin 12) : (u.core c).released = (s.core c).released := by
  obtain ⟨q, hq⟩ := hu.core c
  rw [hq]

theorem State.SameButRings.gated {s u : State} (hu : s.SameButRings u) : u.gated = s.gated := by obtain ⟨C, st, bad, rg, hC, rfl⟩ := hu; rfl

/-- The checks of a mask pass for cores that are there. -/
theorem State.SameButRings.mask_present {s u : State} (hu : s.SameButRings u) {mask : Word} (h : s.maskPresent mask) :
    absentCores u mask = false ∧ above mask 12 = false := by
  refine ⟨Bool.eq_false_iff.2 fun ht => ?_, (above_iff mask 12).2 h.1⟩
  obtain ⟨c, hc, habsent⟩ := (absentCores_iff u mask).1 ht
  rw [hu.hasCore, h.2 c hc] at habsent
  cases habsent

theorem mask_zero_iff {mask : Word} (h : mask.toNat < 4096) : mask.setWidth 12 = (0 : BitVec 12) ↔ mask = 0 := by
  rw [← BitVec.toNat_inj, ← BitVec.toNat_inj, BitVec.toNat_setWidth, Nat.mod_eq_of_lt h]
  rfl

theorem State.anyReleased_iff (s : State) (mask : Word) :
    s.anyReleased (mask.setWidth 12) = true ↔ ∃ c : Fin 12, mask.getLsbD c.val = true ∧ (s.core c).released = true := by
  unfold State.anyReleased
  rw [List.any_eq_true]
  exact exists_congr fun c => and_congr_left fun _ => mem_maskCores

/-! One step for each core of a list. -/

section
variable {f : State → Fin 12 → State} {g : VoiceCore → VoiceCore} (hf : ∀ s c d, (f s c).core d = if c = d then g (s.core d) else s.core d)
include hf

theorem State.foldl_core (l : List (Fin 12)) (hl : l.Nodup) (s : State) (d : Fin 12) :
    (l.foldl f s).core d = if d ∈ l then g (s.core d) else s.core d := by
  induction l generalizing s with
  | nil => rfl
  | cons c l ih =>
    obtain ⟨hc, hl⟩ := List.nodup_cons.1 hl
    rw [List.foldl_cons, ih hl, hf]
    by_cases hcd : c = d
    · subst hcd
      rw [if_neg hc, if_pos rfl, if_pos (List.mem_cons_self ..)]
    · rw [if_neg hcd]
      simp only [List.mem_cons, show ¬d = c from fun e => hcd e.symm, false_or]

/-- The cores of a mask take the step, and the others stay. -/
theorem State.foldl_maskCores (mask : Word) (s : State) (d : Fin 12) :
    ((maskCores (mask.setWidth 12)).foldl f s).core d = if mask.getLsbD d.val then g (s.core d) else s.core d := by
  rw [State.foldl_core hf _ (maskCores_nodup _)]
  simp only [mem_maskCores]

end

/-- A step for each core that changes nothing but the cores. -/
theorem State.foldl_frame {f : State → Fin 12 → State} (hf : ∀ s c, f s c = { s with cores := (f s c).cores }) (l : List (Fin 12)) (s : State) :
    l.foldl f s = { s with cores := (l.foldl f s).cores } := by
  have hview := State.fold_keeps (fun t : State => { t with cores := s.cores }) f (fun t c => by rw [hf t c]) l s
  exact congrArg (fun t : State => { t with cores := (l.foldl f s).cores }) hview

/-! Release. -/

/-- A core that starts at a pointer, before a beat-expiry that pends for it. -/
def VoiceCore.startedAt (ptr : DWord) : VoiceCore := { VoiceCore.reset with released := true, pc := ptr, startPtr := ptr }

/-- Core `w` is what core `v` becomes when it starts at a pointer (05 R168, R183). -/
def VoiceCore.Starts (ptr : DWord) (v w : VoiceCore) : Prop :=
  w = { VoiceCore.startedAt ptr with mbexp := w.mbexp, mstatus := w.mstatus } ∧ (v.bx = none → w = .startedAt ptr) ∧
  ∀ e, v.bx = some e → bits w.mbexp 0 4 = e.1 ∧ bits w.mbexp 4 5 = e.2 ∧ w.mstatus.getLsbD 7 = true

/-- The partition and the beat of an expiry's record. -/
theorem bits_of_record {x : Word} {part : BitVec 4} {beat : BitVec 5} (h : bits x 0 9 = beat ++ part) :
    bits x 0 4 = part ∧ bits x 4 5 = beat := by
  have hbit (j : Nat) (hj : j < 9) : x.getLsbD j = if j < 4 then part.getLsbD j else beat.getLsbD (j - 4) := by
    have hj' := congrArg (·.getLsbD j) h
    simpa only [bits, BitVec.getLsbD_extractLsb', BitVec.getLsbD_append, hj, decide_true, Bool.true_and, Nat.zero_add, Bool.cond_decide] using hj'
  refine ⟨BitVec.eq_of_getLsbD_eq fun j hj => ?_, BitVec.eq_of_getLsbD_eq fun j hj => ?_⟩
  · rw [bits, BitVec.getLsbD_extractLsb', decide_eq_true hj, Bool.true_and, hbit _ (by omega), if_pos (by omega), Nat.zero_add]
  · rw [bits, BitVec.getLsbD_extractLsb', decide_eq_true hj, Bool.true_and, hbit _ (by omega), if_neg (by omega), Nat.add_sub_cancel_left]

theorem VoiceCore.takePending_starts (ptr : DWord) (v : VoiceCore) : v.Starts ptr ((VoiceCore.startedAt ptr).takePending v.bx) := by
  unfold VoiceCore.Starts
  cases hbx : v.bx with
  | none => exact ⟨rfl, fun _ => rfl, nofun⟩
  | some e =>
    refine ⟨rfl, nofun, ?_⟩
    rintro _ ⟨rfl⟩
    have hrecord := (VoiceCore.startedAt ptr).deferExpiry_record e.1 e.2
    exact ⟨(bits_of_record hrecord.1).1, (bits_of_record hrecord.1).2, (getLsbD_setBit _ 7 true (by omega)).trans (if_pos rfl)⟩

theorem State.finishOp_cores (s : State) (op : BitVec 8) (st : Status) (res : List Word) : (s.finishOp op st res).cores = s.cores := by
  obtain ⟨x, stage, bad, d, heq⟩ := s.finishOp_eq op st res
  rw [heq]

/-- Bars that restart change no core. -/
theorem State.resumeBars_cores (s : State) : s.resumeBars.cores = s.cores := by
  have hadopt (s : State) : s.adopt.cores = s.cores := by
    unfold State.adopt
    rw [State.fold_keeps State.cores State.adoptTable (fun s c => by unfold State.adoptTable; split; rfl; split <;> rfl)]
    unfold State.adoptConfig
    split
    · rfl
    · split <;> exact State.finishOp_cores _ _ _ _
  unfold State.resumeBars
  split
  · dsimp only
    split
    · exact hadopt _
    · rfl
  · rfl

/-- What the release of the cores of a mask at a pointer leaves. -/
def State.Releases (mask : Word) (ptr : DWord) (u t : State) : Prop :=
  (∀ c : Fin 12, (mask.getLsbD c.val = true → (u.core c).Starts ptr (t.core c)) ∧ (mask.getLsbD c.val = false → t.core c = u.core c)) ∧
  (u.bar.resumeDue = false → t = { u with cores := t.cores })

theorem State.startCores_releases (u : State) (mask : Word) (ptr : DWord) : u.Releases mask ptr (u.startCores (mask.setWidth 12) ptr) := by
  have hcore (d : Fin 12) : (u.startCores (mask.setWidth 12) ptr).core d =
      if mask.getLsbD d.val then (VoiceCore.startedAt ptr).takePending (u.core d).bx else u.core d := by
    refine (congrArg (·[d]) (State.resumeBars_cores _)).trans ?_
    refine State.foldl_maskCores (f := fun s c => s.startCore c ptr) (g := fun v => (VoiceCore.startedAt ptr).takePending v.bx) ?_ mask u d
    intro s c d
    refine (State.core_setCore s c d _).trans ?_
    split
    · next h => rw [h]; rfl
    · rfl
  refine ⟨fun c => ⟨fun hc => ?_, fun hc => ?_⟩, fun hdue => ?_⟩
  · rw [hcore, if_pos hc]
    exact VoiceCore.takePending_starts ptr _
  · rw [hcore, hc]
    rfl
  · have hframe := State.foldl_frame (f := fun s c => s.startCore c ptr) (fun _ _ => rfl) (maskCores (mask.setWidth 12)) u
    have hquiet : u.startCores (mask.setWidth 12) ptr = (maskCores (mask.setWidth 12)).foldl (fun s c => s.startCore c ptr) u := by
      unfold State.startCores State.resumeBars
      rw [hframe]
      exact if_neg (by rw [hdue]; exact Bool.false_ne_true)
    rw [hquiet]
    exact hframe

/-! What the release of cores answers. -/

section
variable {s : State} {mask p0 p1 resv : Word} {despite : Bool}

theorem State.releaseCores_notReady (h : s.mc.ready = false) : s.releaseCores [mask, p0, p1, resv] despite = (s, .final .notPermitted []) := by
  unfold State.releaseCores
  dsimp only
  rw [h]
  rfl

variable (hready : s.mc.ready = true)
include hready

theorem State.releaseCores_gated (hg : s.gated = true) (hd : despite = false) :
    s.releaseCores [mask, p0, p1, resv] despite = (s, .final .versionUntested []) := by
  unfold State.releaseCores
  dsimp only
  rw [hready, hg, hd]
  rfl

variable (hg : s.gated = false ∨ despite = true) (hmask : mask.toNat < 4096)
include hg hmask

theorem State.releaseCores_fresh (hne : mask ≠ 0) (hfresh : ∀ c : Fin 12, mask.getLsbD c.val = true → (s.core c).released = false) :
    s.releaseCores [mask, p0, p1, resv] despite = (s.startCores (mask.setWidth 12) (p1 ++ p0), .final .ok []) := by
  have hgate : (s.gated && !despite) = false := by
    rcases hg with h | h <;> rw [h]
    · rfl
    · exact Bool.and_false _
  have hno : (mask.setWidth 12 = (0 : BitVec 12) || s.anyReleased (mask.setWidth 12)) = false := by
    rw [decide_eq_false (mt (mask_zero_iff hmask).1 hne), Bool.false_or, Bool.eq_false_iff]
    intro ht
    obtain ⟨c, hc, hr⟩ := (State.anyReleased_iff s mask).1 ht
    rw [hfresh c hc] at hr
    cases hr
  show (if !s.mc.ready then _ else if s.gated && !despite then _ else if mask.setWidth 12 = (0 : BitVec 12) || s.anyReleased (mask.setWidth 12) then _
    else _) = _
  rw [hready, hgate, hno]
  rfl

/-- All or none: a mask without cores, or with one that is released, releases none. -/
theorem State.releaseCores_stale (h : mask = 0 ∨ ∃ c : Fin 12, mask.getLsbD c.val = true ∧ (s.core c).released = true) :
    s.releaseCores [mask, p0, p1, resv] despite = (s, .final .notPermitted []) := by
  have hgate : (s.gated && !despite) = false := by
    rcases hg with h | h <;> rw [h]
    · rfl
    · exact Bool.and_false _
  have hyes : (mask.setWidth 12 = (0 : BitVec 12) || s.anyReleased (mask.setWidth 12)) = true := by
    rw [Bool.or_eq_true, decide_eq_true_iff, mask_zero_iff hmask, State.anyReleased_iff]
    exact h
  show (if !s.mc.ready then _ else if s.gated && !despite then _ else if mask.setWidth 12 = (0 : BitVec 12) || s.anyReleased (mask.setWidth 12) then _
    else _) = _
  rw [hready, hgate, hyes]
  rfl

end

end Sys2Proof.Machine
end

section
/-! SUPPORT. What the loading of the Voice images leaves (11 R473, R474), and the commands that release cores (10 R415, R416; 11 R477). -/
namespace Sys2Proof.Machine

/-- What loading an image leaves, and what decides whether cores may be released: the die, boot but for the reason recorded of an image,
which cores are released, and whether DRAM is served. -/
def State.loadView (s : State) : Die × Boot × Vector Bool 12 × (Bool × Bool) :=
  (s.die, { s.boot with badReason := 0, badIndex := 0 }, s.cores.map VoiceCore.released, s.trackView)

theorem State.loadView_of {s t : State} (ha : t.sansAccess = s.sansAccess) (ht : t.trackView = s.trackView) : t.loadView = s.loadView := by
  have hreleased (s : State) : s.sansAccess.cores.map VoiceCore.released = s.cores.map VoiceCore.released := by
    apply Vector.ext
    intro i hi
    simp [State.sansAccess, State.sansMemory]
  have hdie : t.die = s.die := (congrArg State.die ha : t.sansAccess.die = s.sansAccess.die)
  have hboot : t.boot = s.boot := (congrArg State.boot ha : t.sansAccess.boot = s.sansAccess.boot)
  unfold State.loadView
  rw [hdie, hboot, ht, ← hreleased t, ha, hreleased s]

theorem State.cdrWrite_loadView (s : State) (ws : List WrWord) : (s.cdrWrite ws).loadView = s.loadView := by
  refine State.fold_keeps State.loadView _ (fun s g => State.loadView_of (s.writeLine_sansAccess (by simp) rfl) ?_) _ s
  unfold State.writeLine
  rw [if_neg (by simp)]
  exact s.tryWrite_trackView _ _

theorem State.refuseImage_loadView (s : State) (v : Nat) (reason : BitVec 8) : (s.refuseImage v reason).loadView = s.loadView := by
  unfold State.refuseImage
  split <;> rfl

theorem State.loadImage_loadView (s : State) (v : Nat) (readErr : Bool) : (s.loadImage v readErr).1.loadView = s.loadView := by
  unfold State.loadImage
  dsimp only
  generalize s.voiceCheck _ _ _ _ = x
  split
  · rfl
  · have hcopied : ∀ t : State, t.loadView = s.loadView → (if (t.imageReason x != 0) = true then (t, t.imageReason x)
        else if ((x.word 8).toNat ≤ t.boot.imgIface.toNat && t.boot.imgIface.toNat ≤ (x.word 9).toNat) = true then (t, 0)
        else (t, 0x09)).1.loadView = s.loadView := fun t ht => by
      split
      · exact ht
      · split <;> exact ht
    refine hcopied _ ?_
    split
    · exact s.cdrWrite_loadView _
    · rfl

/-- The images that RELEASE_AUTH loads start nothing (log 23). -/
theorem State.runImages_loadView (s : State) (bad : BitVec 4) : (s.runImages false bad).loadView = s.loadView := by
  refine State.fold_keeps State.loadView _ (fun s v => ?_) _ s
  unfold State.runImage
  dsimp only
  split
  · rfl
  · split
    · exact (State.refuseImage_loadView _ _ _).trans (s.loadImage_loadView _ _)
    · exact s.loadImage_loadView _ _

section
variable {s t : State} (h : t.loadView = s.loadView)
include h

theorem State.ready_of_loadView : t.mc.ready = s.mc.ready := congrArg (·.2.2.2.2) h

theorem State.released_of_loadView (c : Fin 12) : (t.core c).released = (s.core c).released := by
  have hc := congrArg (·.2.2.1[c]) h
  simp only [State.loadView, Fin.getElem_fin, Vector.getElem_map] at hc
  exact hc

theorem State.gated_of_loadView : t.gated = s.gated := by
  have hdie : t.die = s.die := congrArg (·.1) h
  have hmask : t.boot.stepMask = s.boot.stepMask := congrArg (·.2.1.stepMask) h
  have hfuses : t.boot.fuses = s.boot.fuses := congrArg (·.2.1.fuses) h
  have hrow (r : Nat) : t.fuseRow r = s.fuseRow r := by
    unfold State.fuseRow
    rw [hfuses]
  have hallow : t.allowUntested = s.allowUntested := by
    unfold State.allowUntested State.fuseState State.fuseData
    rw [hrow]
  unfold State.gated
  rw [hdie, hmask, hallow]

end

/-! RELEASE_CORES. -/

/-- A mask of cores that are there, of which none is released. -/
def State.maskFresh (s : State) (mask : Word) : Prop :=
  s.maskPresent mask ∧ mask ≠ 0 ∧ ∀ c : Fin 12, mask.getLsbD c.val = true → (s.core c).released = false

section
variable {h : Header} {mask p0 p1 resv : Word} {bad : BitVec 4}

/-- A mask that is present but not fresh. -/
theorem State.maskFresh_not {s : State} (hp : s.maskPresent mask) (hno : ¬s.maskFresh mask) :
    mask = 0 ∨ ∃ c : Fin 12, mask.getLsbD c.val = true ∧ (s.core c).released = true := by
  by_contra hcon
  rw [not_or, not_exists] at hcon
  exact hno ⟨hp, hcon.1, fun c hc => Bool.eq_false_iff.2 fun hr => hcon.2 c ⟨hc, hr⟩⟩

theorem releaseCoresCmd_passes {s : State} (hp : s.maskPresent mask) : releaseCoresCmd.Passes h [mask, p0, p1, resv] s := fun _ hu =>
  ⟨rfl, (hu.mask_present hp).1, (hu.mask_present hp).2, rfl⟩

theorem releaseCores_answers : AnswersWith (.releaseCores h mask p0 p1 resv) 0x02 h [mask, p0, p1, resv] srcMG 3
    (fun s => s.mc.ready = true ∧ s.gated = false ∧ s.maskFresh mask) .ok (fun _ => []) (State.Releases mask (p1 ++ p0)) := by
  refine AnswersWith.of releaseCoresCmd (fun _ => rfl) rfl rfl rfl rfl (fun _ _ => rfl) (fun s ⟨_, _, hfresh⟩ => releaseCoresCmd_passes hfresh.1) ?_
  intro s u ⟨hready, hg, hp, hne, hfresh⟩ hu
  refine ⟨_, u.startCores_releases mask (p1 ++ p0), ?_⟩
  exact State.releaseCores_fresh (by rw [hu.mc]; exact hready) (.inl (hu.gated.trans hg)) hp.1 hne
    fun c hc => (hu.released c).trans (hfresh c hc)

theorem releaseCores_refuses : Refuses (.releaseCores h mask p0 p1 resv) 0x02 h [mask, p0, p1, resv] 3
    (fun s => srcMG.allows s h.ring = true ∧ s.rings.active.length < 32 ∧ s.maskPresent mask ∧
      (s.mc.ready = false ∨ (s.gated = false ∧ ¬s.maskFresh mask))) .notPermitted := by
  refine Refuses.of_run releaseCoresCmd (fun _ => rfl) rfl rfl rfl (fun _ ⟨hsrc, _⟩ => hsrc) (fun _ _ => rfl)
    (fun s ⟨_, _, hp, _⟩ => releaseCoresCmd_passes hp) (fun s ⟨_, hroom, _⟩ => hroom) ?_
  intro s u ⟨_, _, hp, hno⟩ hu
  show u.releaseCores [mask, p0, p1, resv] false = _
  cases hready : u.mc.ready with
  | false => exact State.releaseCores_notReady hready
  | true =>
    obtain ⟨hg, hstale⟩ := hno.resolve_left (by rw [← hu.mc, hready]; exact Bool.noConfusion)
    refine State.releaseCores_stale hready (.inl (hu.gated.trans hg)) hp.1 ?_
    simp only [hu.released]
    exact State.maskFresh_not hp hstale

theorem releaseCores_untested : Refuses (.releaseCores h mask p0 p1 resv) 0x02 h [mask, p0, p1, resv] 3
    (fun s => srcMG.allows s h.ring = true ∧ s.rings.active.length < 32 ∧ s.maskPresent mask ∧ s.mc.ready = true ∧ s.gated = true)
    .versionUntested :=
  Refuses.of_run releaseCoresCmd (fun _ => rfl) rfl rfl rfl (fun _ ⟨hsrc, _⟩ => hsrc) (fun _ _ => rfl)
    (fun s ⟨_, _, hp, _⟩ => releaseCoresCmd_passes hp) (fun s ⟨_, hroom, _⟩ => hroom)
    fun s u ⟨_, _, _, hready, hg⟩ hu => State.releaseCores_gated (by rw [hu.mc]; exact hready) (hu.gated.trans hg) rfl

/-! RELEASE_AUTH. -/

theorem releaseAuthCmd_passes {s : State} (hp : s.maskPresent mask) : (releaseAuthCmd bad).Passes h [mask, p0, p1, resv] s := fun _ hu =>
  ⟨rfl, (hu.mask_present hp).1, (hu.mask_present hp).2, rfl⟩

/-- Where DRAM is served, RELEASE_AUTH first loads the images (11 R477). -/
theorem releaseAuthCmd_run {s u : State} (hready : u.mc.ready = true) :
    (releaseAuthCmd bad).run (startedCmd (releaseAuthCmd bad) h [mask, p0, p1, resv] s) u =
      (u.runImages false bad).releaseCores [mask, p0, p1, resv] (u.boot.perms.getLsbD 3) := by
  show (if u.mc.ready then u.runImages false bad else u).releaseCores _ _ = _
  rw [hready]
  rfl

theorem releaseAuth_answers : AnswersWith (.releaseAuth h mask p0 p1 { resv, bad }) 0x03 h [mask, p0, p1, resv] srcG 3
    (fun s => s.mc.ready = true ∧ (s.gated = false ∨ s.boot.perms.getLsbD 3 = true) ∧ s.maskFresh mask) .ok (fun _ => [])
    (fun u t => (u.runImages false bad).Releases mask (p1 ++ p0) t) := by
  refine AnswersWith.of (releaseAuthCmd bad) (fun _ => rfl) rfl rfl rfl rfl (fun _ _ => rfl)
    (fun s ⟨_, _, hfresh⟩ => releaseAuthCmd_passes hfresh.1) ?_
  intro s u ⟨hready, hg, hp, hne, hfresh⟩ hu
  have hview := u.runImages_loadView bad
  have hready' : u.mc.ready = true := by rw [hu.mc]; exact hready
  refine ⟨_, (u.runImages false bad).startCores_releases mask (p1 ++ p0), (releaseAuthCmd_run hready').trans ?_⟩
  refine State.releaseCores_fresh ((State.ready_of_loadView hview).trans hready') ?_ hp.1 hne
    fun c hc => ((State.released_of_loadView hview c).trans (hu.released c)).trans (hfresh c hc)
  rw [State.gated_of_loadView hview, hu.gated, hu.boot]
  exact hg

theorem releaseAuth_untested : AnswersWith (.releaseAuth h mask p0 p1 { resv, bad }) 0x03 h [mask, p0, p1, resv] srcG 3
    (fun s => s.mc.ready = true ∧ s.gated = true ∧ s.boot.perms.getLsbD 3 = false ∧ s.maskPresent mask) .versionUntested (fun _ => [])
    (fun u t => t = u.runImages false bad) := by
  refine AnswersWith.of (releaseAuthCmd bad) (fun _ => rfl) rfl rfl rfl rfl (fun _ _ => rfl)
    (fun s ⟨_, _, _, hp⟩ => releaseAuthCmd_passes hp) ?_
  intro s u ⟨hready, hg, hperm, _⟩ hu
  have hview := u.runImages_loadView bad
  have hready' : u.mc.ready = true := by rw [hu.mc]; exact hready
  refine ⟨_, rfl, (releaseAuthCmd_run hready').trans ?_⟩
  exact State.releaseCores_gated ((State.ready_of_loadView hview).trans hready')
    ((State.gated_of_loadView hview).trans (hu.gated.trans hg)) (by rw [hu.boot]; exact hperm)

theorem releaseAuth_refuses : Refuses (.releaseAuth h mask p0 p1 { resv, bad }) 0x03 h [mask, p0, p1, resv] 3
    (fun s => srcG.allows s h.ring = true ∧ s.rings.active.length < 32 ∧ s.maskPresent mask ∧ s.mc.ready = false) .notPermitted := by
  refine Refuses.of_run (releaseAuthCmd bad) (fun _ => rfl) rfl rfl rfl (fun _ ⟨hsrc, _⟩ => hsrc) (fun _ _ => rfl)
    (fun s ⟨_, _, hp, _⟩ => releaseAuthCmd_passes hp) (fun s ⟨_, hroom, _⟩ => hroom) ?_
  intro s u ⟨_, _, _, hready⟩ hu
  have hready' : u.mc.ready = false := by rw [hu.mc]; exact hready
  show (if u.mc.ready then u.runImages false bad else u).releaseCores _ _ = _
  rw [hready']
  exact State.releaseCores_notReady hready'

end

end Sys2Proof.Machine
end

section
/-! SUPPORT. HALT_CORES and CORE_HUSH (19 R767 to R772; 06 R237). -/
namespace Sys2Proof.Machine

/-! HALT_CORES. -/

/-- What is left of a core that is halted and held in reset (19 R770). -/
def VoiceCore.halted (v : VoiceCore) : VoiceCore := { VoiceCore.reset with startPtr := v.startPtr, bx := v.bx }

theorem State.haltCore_eq (s : State) (c : Fin 12) : ∃ trace caches echo chorus,
    s.haltCore c = { s.setCore c (s.core c).halted with trace, caches, echo, chorus } := by
  obtain ⟨trace, chorus, hleave⟩ : ∃ trace chorus, s.traceLeave c 2 = { s with trace, chorus } :=
    ⟨_, _, (State.traceLeave_traced (c := c) (reason := 2) Traced.refl).eq⟩
  have hchorus (t : State) : ∃ chorus, t.chorusHalt c = { t with chorus } := ⟨_, rfl⟩
  obtain ⟨chorus', hhalt⟩ := hchorus ({ s.setCore c (s.core c).halted with
    trace, caches := (({ s with trace, chorus } : State).emptyL1 c).caches, chorus
    echo := { s.echo with stalled := s.echo.stalled.map fun x => if x.who = some (.voice c) then { x with who := none } else x } })
  refine ⟨_, _, _, chorus', Eq.trans ?_ hhalt⟩
  unfold State.haltCore
  rw [hleave]
  rfl

/-- A core of a HALT_CORES: it is halted where it is released. -/
def State.haltStep (s : State) (c : Fin 12) : State := if (s.core c).released then s.haltCore c else s

theorem State.haltStep_core (s : State) (c d : Fin 12) :
    (s.haltStep c).core d = if c = d then (if (s.core d).released then (s.core d).halted else s.core d) else s.core d := by
  unfold State.haltStep
  split
  · next hr =>
    obtain ⟨trace, caches, echo, chorus, heq⟩ := s.haltCore_eq c
    rw [heq]
    refine (State.core_setCore s c d _).trans ?_
    split
    · next hcd =>
      rw [← hcd, hr]
      rfl
    · rfl
  · next hr =>
    split
    · next hcd => rw [← hcd, if_neg hr]
    · rfl

/-- What halting cores does not touch. -/
def State.sansHalt (o s : State) : State :=
  { s with cores := o.cores, trace := o.trace, caches := o.caches, echo := o.echo, chorus := o.chorus }

theorem State.haltStep_sansHalt (o s : State) (c : Fin 12) : o.sansHalt (s.haltStep c) = o.sansHalt s := by
  unfold State.haltStep
  split
  · obtain ⟨trace, caches, echo, chorus, heq⟩ := s.haltCore_eq c
    rw [heq]
    rfl
  · rfl

theorem haltCores_answers (h : Header) (mask : Word) : AnswersWith (.haltCores h mask) 0x04 h [mask] srcMG 3 (fun s => s.maskPresent mask) .ok
    (fun _ => []) (fun u t =>
      (∀ c : Fin 12, t.core c = if mask.getLsbD c.val && (u.core c).released
        then { VoiceCore.reset with startPtr := (u.core c).startPtr, bx := (u.core c).bx } else u.core c) ∧
      t = { u with cores := t.cores, trace := t.trace, caches := t.caches, echo := t.echo, chorus := t.chorus }) := by
  refine AnswersWith.of haltCoresCmd (fun _ => rfl) rfl rfl rfl rfl (fun _ _ => rfl)
    (fun s hp u hu => ⟨rfl, (hu.mask_present hp).1, (hu.mask_present hp).2, rfl⟩) ?_
  intro s u _ _
  refine ⟨(maskCores (mask.setWidth 12)).foldl State.haltStep u, ⟨fun c => ?_, ?_⟩, rfl⟩
  · rw [State.foldl_maskCores (g := fun v => if v.released then v.halted else v) State.haltStep_core]
    cases mask.getLsbD c.val
    · rfl
    · cases (u.core c).released <;> rfl
  · generalize ht : (maskCores (mask.setWidth 12)).foldl State.haltStep u = t
    have hview : u.sansHalt t = u.sansHalt u := ht ▸ State.fold_keeps u.sansHalt State.haltStep u.haltStep_sansHalt _ u
    exact congrArg (fun x : State => { x with cores := t.cores, trace := t.trace, caches := t.caches, echo := t.echo, chorus := t.chorus }) hview

theorem haltCores_refuses (h : Header) (mask : Word) : Refuses (.haltCores h mask) 0x04 h [mask] 3
    (fun s => srcMG.allows s h.ring = true ∧ ∃ c : Fin 12, mask.getLsbD c.val = true ∧ s.hasCore c = false) .unitAbsent := by
  refine Refuses.of_absent haltCoresCmd (fun _ => rfl) rfl (by omega) (fun _ _ => rfl) (fun s ⟨hsrc, _⟩ => hsrc)
    fun s u ⟨_, c, hc, habsent⟩ hu => ⟨rfl, ?_⟩
  exact (absentCores_iff u mask).2 ⟨c, hc, (hu.hasCore c).trans habsent⟩

/-! CORE_HUSH. -/

/-- Nothing that a core's L1 data cache holds waits for its write-back. -/
def State.writtenBack (s : State) (c : Fin 12) : Prop := ∀ l ∈ s.caches.lines, l.l1d.getLsbD c.val = true → l.below = none

theorem State.writeBackL1_writtenBack (s : State) (k c : Fin 12) (h : c = k ∨ s.writtenBack c) : (s.writeBackL1 k).writtenBack c := by
  intro l hl hbit
  obtain ⟨x, hx, rfl⟩ := List.mem_map.1 hl
  by_cases hk : x.l1d.getLsbD k.val = true
  · rw [if_pos hk]
    rfl
  · rw [if_neg hk] at hbit ⊢
    rcases h with rfl | h
    · exact absurd hbit hk
    · exact h x hx hbit

/-- A core of a CORE_HUSH that enters. -/
def State.hushStep (s : State) (c : Fin 12) : State := (s.writeBackL1 c).modCore c fun v => { v with hush := true }

/-- A core of a CORE_HUSH that leaves. -/
def State.unhushStep (s : State) (c : Fin 12) : State := s.modCore c fun v => { v with hush := false }

theorem State.hushSteps_writtenBack (l : List (Fin 12)) (s : State) (c : Fin 12) (h : c ∈ l ∨ s.writtenBack c) :
    (l.foldl State.hushStep s).writtenBack c := by
  induction l generalizing s with
  | nil => exact h.resolve_left List.not_mem_nil
  | cons k l ih =>
    refine ih _ ?_
    rcases h with hmem | hdone
    · rcases List.mem_cons.1 hmem with hk | hl
      · exact .inr (s.writeBackL1_writtenBack k c (.inl hk))
      · exact .inl hl
    · exact .inr (s.writeBackL1_writtenBack k c (.inr hdone))

/-- Hushing a core, or ending its hush, is of this core alone. -/
theorem State.modCore_core (s : State) (f : VoiceCore → VoiceCore) (c d : Fin 12) :
    (s.modCore c f).core d = if c = d then f (s.core d) else s.core d := by
  refine (State.core_setCore s c d _).trans ?_
  split
  · next h => rw [h]
  · rfl

/-- A core with its hush on or off. -/
def VoiceCore.hushed (v : VoiceCore) (on : Bool) : VoiceCore := { v with hush := on }

theorem State.hushStep_core (s : State) (c d : Fin 12) :
    (s.hushStep c).core d = if c = d then (s.core d).hushed true else s.core d := (s.writeBackL1 c).modCore_core _ c d

theorem State.unhushStep_core (s : State) (c d : Fin 12) :
    (s.unhushStep c).core d = if c = d then (s.core d).hushed false else s.core d := s.modCore_core _ c d

section
variable (h : Header) (mask : Word)

theorem coreHushCmd_passes {s : State} (hp : s.maskPresent mask) {v : Word} (hv : v.toNat ≤ 1) : coreHushCmd.Passes h [mask, v] s := by
  intro u hu
  refine ⟨rfl, (hu.mask_present hp).1, ?_, rfl⟩
  show (above mask 12 || decide (1 < v.toNat)) = false
  rw [(hu.mask_present hp).2, decide_eq_false (Nat.not_lt.2 hv)]
  rfl

theorem coreHushCmd_run (s u : State) (v : Word) : coreHushCmd.run (startedCmd coreHushCmd h [mask, v] s) u =
    if (maskCores (mask.setWidth 12)).any fun k => !(u.core k).released then (u, .final .notPermitted [])
    else if v = 1 then ((maskCores (mask.setWidth 12)).foldl State.hushStep u, .final .ok [])
    else ((maskCores (mask.setWidth 12)).foldl State.unhushStep u, .final .ok []) := rfl

theorem State.allReleased_iff (u : State) : (maskCores (mask.setWidth 12)).any (fun k => !(u.core k).released) = true ↔
    ∃ c : Fin 12, mask.getLsbD c.val = true ∧ (u.core c).released = false := by
  rw [List.any_eq_true]
  simp only [mem_maskCores, Bool.not_eq_true']

theorem coreHushCmd_accepts {s u : State} (hu : s.SameButRings u)
    (hr : ∀ c : Fin 12, mask.getLsbD c.val = true → (s.core c).released = true) :
    (maskCores (mask.setWidth 12)).any (fun k => !(u.core k).released) = false := by
  rw [Bool.eq_false_iff]
  intro ht
  obtain ⟨c, hc, hno⟩ := (State.allReleased_iff mask u).1 ht
  rw [hu.released, hr c hc] at hno
  cases hno

theorem coreHushEnter_answers : AnswersWith (.coreHushEnter h mask) 0x11 h [mask, 1] srcM 3
    (fun s => s.maskPresent mask ∧ ∀ c : Fin 12, mask.getLsbD c.val = true → (s.core c).released = true) .ok (fun _ => [])
    (fun u t => (∀ c : Fin 12, t.core c = if mask.getLsbD c.val then { u.core c with hush := true } else u.core c) ∧
      t = { u with cores := t.cores, caches := t.caches } ∧
      ∀ c : Fin 12, mask.getLsbD c.val = true → ∀ l ∈ t.caches.lines, l.l1d.getLsbD c.val = true → l.below = none) := by
  refine AnswersWith.of coreHushCmd (fun _ => rfl) rfl rfl rfl rfl (fun _ _ => rfl) (fun s ⟨hp, _⟩ => coreHushCmd_passes h mask hp (by decide)) ?_
  intro s u ⟨_, hr⟩ hu
  refine ⟨(maskCores (mask.setWidth 12)).foldl State.hushStep u, ⟨fun c => ?_, ?_, fun c hc => ?_⟩, ?_⟩
  · exact State.foldl_maskCores (g := (VoiceCore.hushed · true)) State.hushStep_core mask u c
  · generalize ht : (maskCores (mask.setWidth 12)).foldl State.hushStep u = t
    have hview := State.fold_keeps (fun x : State => { x with cores := u.cores, caches := u.caches }) State.hushStep (fun _ _ => rfl)
      (maskCores (mask.setWidth 12)) u
    rw [ht] at hview
    exact congrArg (fun x : State => { x with cores := t.cores, caches := t.caches }) hview
  · exact State.hushSteps_writtenBack _ u c (.inl (mem_maskCores.2 hc))
  · rw [coreHushCmd_run, coreHushCmd_accepts mask hu hr]
    rfl

theorem coreHushLeave_answers : AnswersWith (.coreHushLeave h mask) 0x11 h [mask, 0] srcM 3
    (fun s => s.maskPresent mask ∧ ∀ c : Fin 12, mask.getLsbD c.val = true → (s.core c).released = true) .ok (fun _ => [])
    (fun u t => (∀ c : Fin 12, t.core c = if mask.getLsbD c.val then { u.core c with hush := false } else u.core c) ∧
      t = { u with cores := t.cores }) := by
  refine AnswersWith.of coreHushCmd (fun _ => rfl) rfl rfl rfl rfl (fun _ _ => rfl) (fun s ⟨hp, _⟩ => coreHushCmd_passes h mask hp (by decide)) ?_
  intro s u ⟨_, hr⟩ hu
  refine ⟨(maskCores (mask.setWidth 12)).foldl State.unhushStep u, ⟨fun c => ?_, ?_⟩, ?_⟩
  · exact State.foldl_maskCores (g := (VoiceCore.hushed · false)) State.unhushStep_core mask u c
  · exact State.foldl_frame (fun _ _ => rfl) _ u
  · rw [coreHushCmd_run, coreHushCmd_accepts mask hu hr]
    rfl

theorem coreHush_refuses : Refuses (.coreHushEnter h mask) 0x11 h [mask, 1] 3
    (fun s => srcM.allows s h.ring = true ∧ s.rings.active.length < 32 ∧ s.maskPresent mask ∧
      ∃ c : Fin 12, mask.getLsbD c.val = true ∧ (s.core c).released = false) .notPermitted := by
  refine Refuses.of_run coreHushCmd (fun _ => rfl) rfl rfl rfl (fun _ ⟨hsrc, _⟩ => hsrc) (fun _ _ => rfl)
    (fun s ⟨_, _, hp, _⟩ => coreHushCmd_passes h mask hp (by decide)) (fun s ⟨_, hroom, _⟩ => hroom) ?_
  intro s u ⟨_, _, _, c, hc, hno⟩ hu
  rw [coreHushCmd_run, (State.allReleased_iff mask u).2 ⟨c, hc, (hu.released c).trans hno⟩]
  rfl

end

end Sys2Proof.Machine
end

section
/-! SUPPORT. RING_CTL and NOTICE_READ (10 R397, R404, R405, R411), and O28. -/
namespace Sys2Proof.Machine

/-! RING_CTL. -/

/-- The ring that a RING_CTL names. -/
def ctlRing (ring : Word) : BitVec 5 := (bits ring 0 4).setWidth 5

/-- The words of RING_CTL's three actions: the ring, and the action. -/
theorem ringCtl_fields {ring : Word} (h : ring.toNat < 64) :
    let fields := fun (v : Word) (action : BitVec 2) => ctlRing v = ctlRing ring ∧ bits v 4 2 = action ∧ above v 6 = false
    fields (ring &&& ~~~0x30) 0 ∧ fields (ring &&& ~~~0x30 ||| 0x10) 1 ∧ fields (ring &&& ~~~0x30 ||| 0x20) 2 := by
  have hsmall : ∀ x : BitVec 6, let v : Word := x.setWidth 24
      (bits (v &&& ~~~0x30) 0 4 = bits v 0 4 ∧ bits (v &&& ~~~0x30) 4 2 = 0 ∧ above (v &&& ~~~0x30) 6 = false) ∧
      (bits (v &&& ~~~0x30 ||| 0x10) 0 4 = bits v 0 4 ∧ bits (v &&& ~~~0x30 ||| 0x10) 4 2 = 1 ∧ above (v &&& ~~~0x30 ||| 0x10) 6 = false) ∧
      (bits (v &&& ~~~0x30 ||| 0x20) 0 4 = bits v 0 4 ∧ bits (v &&& ~~~0x30 ||| 0x20) 4 2 = 2 ∧ above (v &&& ~~~0x30 ||| 0x20) 6 = false) := by decide
  have hring : (BitVec.ofNat 6 ring.toNat).setWidth 24 = ring := by
    apply BitVec.eq_of_toNat_eq
    rw [BitVec.toNat_setWidth, BitVec.toNat_ofNat, Nat.mod_eq_of_lt h, Nat.mod_eq_of_lt (by omega)]
  obtain ⟨⟨r0, a0, b0⟩, ⟨r1, a1, b1⟩, r2, a2, b2⟩ := hring ▸ hsmall (BitVec.ofNat 6 ring.toNat)
  exact ⟨⟨congrArg (BitVec.setWidth 5) r0, a0, b0⟩, ⟨congrArg (BitVec.setWidth 5) r1, a1, b1⟩, congrArg (BitVec.setWidth 5) r2, a2, b2⟩

/-- The ring is stopped, by itself or by a wrong count (10 R397). -/
def State.ringOut (s : State) (r : BitVec 5) : Prop := s.ringState r = 2 ∨ ringBit s.rings.stopped r = true

theorem State.ringOut_iff (s : State) (r : BitVec 5) : (s.ringState r = 2 || ringBit s.rings.stopped r) = true ↔ s.ringOut r := by
  rw [Bool.or_eq_true, decide_eq_true_iff]
  rfl

section
variable {s : State} {v : Word}

theorem State.ringCtl_disables (ha : bits v 4 2 = 0) : s.ringCtl v = (s.setRingWord (ctlRing v) 4 0, .final .ok []) := by
  unfold State.ringCtl
  dsimp only
  rw [ha]
  rfl

theorem State.ringCtl_enables (ha : bits v 4 2 = 1) (hgoing : ¬s.ringOut (ctlRing v)) :
    s.ringCtl v = (s.setRingWord (ctlRing v) 4 1, .final .ok []) := by
  unfold State.ringCtl
  dsimp only
  rw [ha]
  exact if_neg (mt (s.ringOut_iff _).1 hgoing)

theorem State.ringCtl_enable_refused (ha : bits v 4 2 = 1) (hout : s.ringOut (ctlRing v)) : s.ringCtl v = (s, .final .notPermitted []) := by
  unfold State.ringCtl
  dsimp only
  rw [ha]
  exact if_pos ((s.ringOut_iff _).2 hout)

/-- A stopped ring that runs again (10 R397). -/
def State.ringRestarted (s : State) (r : BitVec 5) : State :=
  (((s.setRingWord r 4 1).modRings fun x => { x with stopped := setBit x.stopped r.toNat false }).learn r).flushHeld r 64

theorem State.ringCtl_restarts (ha : bits v 4 2 = 2) (hout : s.ringOut (ctlRing v)) (hlim : s.ringLimits (ctlRing v) = true) :
    s.ringCtl v = (s.ringRestarted (ctlRing v), .final .ok []) := by
  have hout' : (s.ringState ((bits v 0 4).setWidth 5) = 2 || ringBit s.rings.stopped ((bits v 0 4).setWidth 5)) = true := (s.ringOut_iff _).2 hout
  have hlim' : s.ringLimits ((bits v 0 4).setWidth 5) = true := hlim
  unfold State.ringCtl
  dsimp only
  rw [ha, hout', hlim']
  rfl

theorem State.ringCtl_restart_refused (ha : bits v 4 2 = 2) (hgoing : ¬s.ringOut (ctlRing v)) : s.ringCtl v = (s, .final .notPermitted []) := by
  have hgoing' : (s.ringState ((bits v 0 4).setWidth 5) = 2 || ringBit s.rings.stopped ((bits v 0 4).setWidth 5)) = false :=
    Bool.eq_false_iff.2 (mt (s.ringOut_iff _).1 hgoing)
  unfold State.ringCtl
  dsimp only
  rw [ha, hgoing']
  rfl

end

/-- Replies that were held go into the reply ring; the ring's other words stay, and so does whether it is stopped. -/
theorem State.flushHeld_keeps (n : Nat) (s : State) (hs : s.PagesOk) (r : BitVec 5) : let t := s.flushHeld r n
    t = { s with stage := t.stage, stageBad := t.stageBad, rings := t.rings } ∧ t.rings.stopped = s.rings.stopped ∧
    ∀ o, o ≠ 2 → o < 0xC00 → t.ringWord r o = s.ringWord r o := by
  induction n generalizing s with
  | zero => exact ⟨rfl, rfl, fun _ _ _ => rfl⟩
  | succ n ih =>
    unfold State.flushHeld
    split
    · exact ⟨rfl, rfl, fun _ _ _ => rfl⟩
    · next p _ =>
      split
      · exact ⟨rfl, rfl, fun _ _ _ => rfl⟩
      · have hs' : (s.modRings fun x => { x with held := x.held.erase p }).PagesOk := hs
        have hpaged := State.writeReply_paged hs' r p.2
        have hlow (o : Nat) := State.ringWord_writeReply_low hs' r p.2 (o := o)
        generalize (s.modRings fun x => { x with held := x.held.erase p }).writeReply r p.2 = v at hpaged hlow ⊢
        obtain ⟨hframe, hstopped, hword⟩ := ih v hpaged.pages
        refine ⟨?_, hstopped.trans ((congrArg Rings.stopped hpaged.rings).trans rfl), fun o h2 ho => (hword o h2 ho).trans (hlow o h2 ho)⟩
        generalize v.flushHeld r n = t at hframe ⊢
        rw [hpaged.frame] at hframe
        exact hframe

/-- What a restart leaves. -/
theorem State.ringRestarted_runs {u : State} (hu : u.PagesOk) {r : BitVec 5} (hr : r.toNat < 18) : let t := u.ringRestarted r
    t.ringState r = 1 ∧ ringBit t.rings.stopped r = false ∧ t.reqCons r = u.reqCons r ∧
    t = { u with stage := t.stage, stageBad := t.stageBad, rings := t.rings } := by
  obtain ⟨hframe, hstopped, hword⟩ := State.flushHeld_keeps 64
    (((u.setRingWord r 4 1).modRings fun x => { x with stopped := setBit x.stopped r.toNat false }).learn r)
    (State.setRingWord_pages hu r 4 1) r
  have hset (o : Nat) : (u.setRingWord r 4 1).ringWord r o = if o = 4 then 1 else u.ringWord r o := State.ringWord_setRingWord hu r 4 o 1
  refine ⟨?_, ?_, ?_, hframe⟩
  · exact (hword 4 (by omega) (by omega)).trans ((hset 4).trans (if_pos rfl))
  · exact (congrArg (ringBit · r) hstopped).trans ((getLsbD_setBit _ _ _ hr).trans (if_pos rfl))
  · exact (hword 1 (by omega) (by omega)).trans ((hset 1).trans (if_neg (by omega)))

section
variable {s : State} {h : Header} {ps : List Word} {space : Nat} (a : Accepts s h ps.length space) (op : BitVec 8)
include a

/-- Taking a packet stops no ring, and starts none. -/
theorem ringOut_taken (r : BitVec 5) : (s.taken op h ps).ringOut r ↔ s.ringOut r := by
  obtain ⟨_, _, _, _, _, _, _, _, hstate, _, _, _, hother, _, _, _, hstopped, _⟩ := taken_places (op := op) a
  have hsame : (s.taken op h ps).ringState r = s.ringState r := by
    by_cases hr : r = h.ring
    · rw [hr, hstate]
      exact a.runs.symm
    · exact hother r 4 hr (by omega)
  unfold State.ringOut
  rw [hsame, hstopped]

/-- A ring that is stopped is not the ring of the packet, whose taking leaves its counts. -/
theorem ringLimits_taken {r : BitVec 5} (hout : s.ringOut r) : (s.taken op h ps).ringLimits r = s.ringLimits r := by
  have hr : r ≠ h.ring := by
    rintro rfl
    rcases hout with hstate | hstopped
    · rw [show s.ringState h.ring = 1 from a.runs] at hstate
      exact absurd hstate (by decide)
    · rw [a.going] at hstopped
      cases hstopped
  have hword (o : Nat) (ho : o < 4096) : (s.taken op h ps).ringWord r o = s.ringWord r o := State.ringWord_taken_other a op hr ho
  unfold State.ringLimits State.reqProd State.reqCons State.rplProd State.rplCons
  rw [hword 0 (by omega), hword 1 (by omega), hword 2 (by omega), hword 3 (by omega)]

end

section
variable (h : Header) (ring : Word)

theorem ringCtlCmd_passes {v : Word} {action : BitVec 2} (ha : bits v 4 2 = action) (h3 : action ≠ 3) (hv : above v 6 = false) (s : State) :
    ringCtlCmd.Passes h [v] s := by
  intro u _
  refine ⟨rfl, rfl, ?_, rfl⟩
  show (above v 6 || decide (bits v 4 2 = 3)) = false
  rw [hv, ha, decide_eq_false h3]
  rfl

theorem ringDisable_answers : Answers (.ringDisable h ring) 0x06 h [ring &&& ~~~0x30] srcM 3 (fun _ => ring.toNat < 64) .ok (fun _ => [])
    (fun u => u.setRingWord (ctlRing ring) 4 0) := by
  refine Answers.of ringCtlCmd (fun _ => rfl) rfl rfl rfl rfl (fun _ _ => rfl) (fun s hlt => ?_) fun s u hlt _ => ?_
  all_goals obtain ⟨⟨hring, ha, hv⟩, _⟩ := ringCtl_fields hlt
  · exact ringCtlCmd_passes h ha (by decide) hv s
  · rw [← hring]
    exact State.ringCtl_disables ha

theorem ringEnable_answers : Answers (.ringEnable h ring) 0x06 h [ring &&& ~~~0x30 ||| 0x10] srcM 3
    (fun s => ring.toNat < 64 ∧ ¬s.ringOut (ctlRing ring)) .ok (fun _ => []) (fun u => u.setRingWord (ctlRing ring) 4 1) := by
  refine Answers.of_taken ringCtlCmd (fun _ => rfl) rfl rfl rfl rfl (fun _ _ => rfl) (fun s ⟨hlt, _⟩ => ?_) fun s a _ ⟨hlt, hgoing⟩ => ?_
  all_goals obtain ⟨_, ⟨hring, ha, hv⟩, _⟩ := ringCtl_fields hlt
  · exact ringCtlCmd_passes h ha (by decide) hv s
  · rw [← hring] at hgoing ⊢
    exact State.ringCtl_enables ha (mt (ringOut_taken a _ _).1 hgoing)

theorem ringEnable_refuses : Refuses (.ringEnable h ring) 0x06 h [ring &&& ~~~0x30 ||| 0x10] 3
    (fun s => srcM.allows s h.ring = true ∧ s.rings.active.length < 32 ∧ ring.toNat < 64 ∧ s.ringOut (ctlRing ring)) .notPermitted := by
  refine Refuses.of_answers (src := srcM) (ok' := fun s => ring.toNat < 64 ∧ s.ringOut (ctlRing ring)) ?_ fun s hs => hs
  refine Answers.of_taken ringCtlCmd (fun _ => rfl) rfl rfl rfl rfl (fun _ _ => rfl) (fun s ⟨hlt, _⟩ => ?_) fun s a _ ⟨hlt, hout⟩ => ?_
  all_goals obtain ⟨_, ⟨hring, ha, hv⟩, _⟩ := ringCtl_fields hlt
  · exact ringCtlCmd_passes h ha (by decide) hv s
  · rw [← hring] at hout
    exact State.ringCtl_enable_refused ha ((ringOut_taken a _ _).2 hout)

theorem ringRestart_answers : AnswersWith (.ringRestart h ring) 0x06 h [ring &&& ~~~0x30 ||| 0x20] srcM 3
    (fun s => ring.toNat < 64 ∧ s.ringOut (ctlRing ring) ∧ s.ringLimits (ctlRing ring) = true) .ok (fun _ => []) (fun u t =>
      t.ringState (ctlRing ring) = 1 ∧ ringBit t.rings.stopped (ctlRing ring) = false ∧ t.reqCons (ctlRing ring) = u.reqCons (ctlRing ring) ∧
      t = { u with stage := t.stage, stageBad := t.stageBad, rings := t.rings }) := by
  refine AnswersWith.of_taken ringCtlCmd (fun _ => rfl) rfl rfl rfl rfl (fun _ _ => rfl) (fun s ⟨hlt, _⟩ => ?_)
    fun s a _ ⟨hlt, hout, hlim⟩ => ?_
  all_goals obtain ⟨_, _, hring, ha, hv⟩ := ringCtl_fields hlt
  · exact ringCtlCmd_passes h ha (by decide) hv s
  · obtain ⟨_, hpages, _⟩ := taken_places (op := ringCtlCmd.op) a
    have hsmall : (ctlRing ring).toNat < 18 := by
      have := (bits ring 0 4).isLt
      unfold ctlRing
      rw [BitVec.toNat_setWidth]
      omega
    refine ⟨_, State.ringRestarted_runs hpages hsmall, ?_⟩
    rw [← hring] at hout hlim ⊢
    exact State.ringCtl_restarts ha ((ringOut_taken a _ _).2 hout) ((ringLimits_taken a _ hout).trans hlim)

theorem ringRestart_refuses : Refuses (.ringRestart h ring) 0x06 h [ring &&& ~~~0x30 ||| 0x20] 3
    (fun s => srcM.allows s h.ring = true ∧ s.rings.active.length < 32 ∧ ring.toNat < 64 ∧ ¬s.ringOut (ctlRing ring)) .notPermitted := by
  refine Refuses.of_answers (src := srcM) (ok' := fun s => ring.toNat < 64 ∧ ¬s.ringOut (ctlRing ring)) ?_ fun s hs => hs
  refine Answers.of_taken ringCtlCmd (fun _ => rfl) rfl rfl rfl rfl (fun _ _ => rfl) (fun s ⟨hlt, _⟩ => ?_) fun s a _ ⟨hlt, hgoing⟩ => ?_
  all_goals obtain ⟨_, _, hring, ha, hv⟩ := ringCtl_fields hlt
  · exact ringCtlCmd_passes h ha (by decide) hv s
  · rw [← hring] at hgoing
    exact State.ringCtl_restart_refused ha (mt (ringOut_taken a _ _).1 hgoing)

end

/-! NOTICE_READ. -/

theorem lostWord_eq (lost : BitVec 8) : lost.setWidth 24 <<< 16 = (lost ++ (0 : BitVec 16) : BitVec 24) := by
  have h := append_eq_or lost (0 : BitVec 16)
  exact (h.trans (BitVec.or_zero)).symm

/-- The word of a notice as its fields (10 R405). -/
theorem noticeWord_eq (lost code : BitVec 8) (more : Bool) : code.setWidth 24 ||| flag 24 8 more ||| lost.setWidth 24 <<< 16 =
    (lost ++ (0 : BitVec 7) ++ BitVec.ofBool more ++ code : BitVec 24) := by
  have hlow : code.setWidth 24 ||| flag 24 8 more = ((0 : BitVec 7) ++ BitVec.ofBool more ++ code : BitVec 16).setWidth 24 := by
    have h := append_eq_or ((0 : BitVec 7) ++ BitVec.ofBool more) code
    rw [h, BitVec.setWidth_or, BitVec.or_comm]
    cases more <;> rfl
  have h := append_eq_or lost ((0 : BitVec 7) ++ BitVec.ofBool more ++ code : BitVec 16)
  rw [hlow, BitVec.or_comm]
  exact h.symm.trans (BitVec.eq_of_toNat_eq (toNat_append_low lost 0 (BitVec.ofBool more) code).symm)

theorem State.noticeRead_eq (u : State) : u.noticeRead =
    ({ u with rings := { u.rings with
        notices := u.rings.notices.tail, lost := 0, noticePend := u.rings.noticePend || !u.rings.notices.tail.isEmpty } },
      match u.rings.notices with
      | [] => [(u.rings.lost ++ (0 : BitVec 16) : BitVec 24), 0]
      | n :: rest => [(u.rings.lost ++ (0 : BitVec 7) ++ BitVec.ofBool (!rest.isEmpty) ++ n.1 : BitVec 24), n.2]) := by
  unfold State.noticeRead
  cases hn : u.rings.notices with
  | nil =>
    dsimp only
    rw [lostWord_eq, List.tail_nil, List.isEmpty_nil, Bool.not_true, Bool.or_false, ← hn]
    rfl
  | cons n rest =>
    dsimp only
    rw [noticeWord_eq]
    rfl

theorem noticeRead_answers (h : Header) : Answers (.noticeRead h) 0x07 h [] srcM 5 (fun _ => True) .ok
    (fun u => match u.rings.notices with
      | [] => [(u.rings.lost ++ (0 : BitVec 16) : BitVec 24), 0]
      | n :: rest => [(u.rings.lost ++ (0 : BitVec 7) ++ BitVec.ofBool (!rest.isEmpty) ++ n.1 : BitVec 24), n.2])
    (fun u => { u with rings := { u.rings with
      notices := u.rings.notices.tail, lost := 0, noticePend := u.rings.noticePend || !u.rings.notices.tail.isEmpty } }) := by
  refine Answers.of noticeReadCmd (fun _ => rfl) rfl rfl rfl rfl (fun _ _ => rfl) (fun s _ => CmdDef.passes_mkCmd _ _ _ _ _ _ _ s) fun s u _ _ => ?_
  show (u.noticeRead.1, CmdEnd.final .ok u.noticeRead.2) = _
  rw [State.noticeRead_eq]

/-! NOP, GET_INFO and SYS_RESET. -/

section
variable (h : Header)

theorem nop_answers : Answers (.nop h) 0x00 h [] srcAll 3 (fun _ => True) .ok (fun _ => []) id :=
  Answers.of nopCmd (fun _ => rfl) rfl rfl rfl rfl (fun _ _ => rfl) (fun s _ => CmdDef.passes_mkCmd _ _ _ _ _ _ _ s) fun _ _ _ _ => rfl

theorem nop_busy : Refuses (.nop h) 0x00 h [] 3 (fun s => srcAll.allows s h.ring = true ∧ 32 ≤ s.rings.active.length) .busy :=
  Refuses.of_busy nopCmd (fun _ => rfl) rfl (by omega) (fun _ _ => rfl) (fun _ ⟨hsrc, _⟩ => hsrc)
    fun s u ⟨_, hfull⟩ _ => ⟨rfl, rfl, rfl, .inr hfull⟩

theorem getInfo_answers : Answers (.getInfo h) 0x01 h [] srcAll 9 (fun _ => True) .ok
    (fun u => [u.boot.imgVer, u.boot.imgIface, u.boot.stepMask.1, u.boot.stepMask.2, u.sysStep, u.bootState]) id :=
  Answers.of getInfoCmd (fun _ => rfl) rfl rfl rfl rfl (fun _ _ => rfl) (fun s _ => CmdDef.passes_mkCmd _ _ _ _ _ _ _ s) fun _ _ _ _ => rfl

theorem sysResetWarm_answers : Answers (.sysResetWarm h) 0x05 h [0] srcMG 3 (fun _ => True) .ok (fun _ => [])
    (fun u => { u with rings := { u.rings with resetReq := some false, resetAt := u.tempo.count } }) :=
  Answers.of sysResetCmd (fun _ => rfl) rfl rfl rfl rfl (fun _ _ => rfl) (fun _ _ _ _ => ⟨rfl, rfl, rfl, rfl⟩) fun _ _ _ _ => rfl

theorem sysResetCold_answers : Answers (.sysResetCold h) 0x05 h [1] srcMG 3 (fun _ => True) .ok (fun _ => [])
    (fun u => { u with rings := { u.rings with resetReq := some true, resetAt := u.tempo.count } }) :=
  Answers.of sysResetCmd (fun _ => rfl) rfl rfl rfl rfl (fun _ _ => rfl) (fun _ _ _ _ => ⟨rfl, rfl, rfl, rfl⟩) fun _ _ _ _ => rfl

end

end Sys2Proof.Machine

open Sys2Proof Sys2Proof.Machine

/-- Settles O28: each command works on the state in which its packet was taken, and the cores of a mask take one step each. -/
theorem systemCommands : Obligations.SystemCommands := by
  intro h mask p0 p1 resv ring bad
  exact ⟨nop_answers h, nop_busy h, getInfo_answers h, releaseCores_answers, releaseCores_refuses, releaseCores_untested, releaseAuth_answers,
    releaseAuth_untested, releaseAuth_refuses, haltCores_answers h mask, haltCores_refuses h mask, sysResetWarm_answers h, sysResetCold_answers h,
    ringDisable_answers h ring, ringEnable_answers h ring, ringEnable_refuses h ring, ringRestart_answers h ring, ringRestart_refuses h ring,
    noticeRead_answers h, coreHushEnter_answers h mask, coreHushLeave_answers h mask, coreHush_refuses h mask⟩

end
